-- ==== Sys2Proof/Word.lean ====
section
/-! DEFINITION. The words of the machine: a byte, a halfword, a register word and a guarded word (R10, R17). -/

namespace Sys2Proof

/-- A byte. -/
abbrev Byte := BitVec 8
/-- A halfword. -/
abbrev Half := BitVec 16
/-- A register word (R10). -/
abbrev Word := BitVec 32
/-- A doubleword; a guarded word carries its value in the low half (R17). -/
abbrev DWord := BitVec 64

end Sys2Proof
end

