-- ==== Sys2Proof/Syntax.lean ====
section
/-! DEFINITION. The commands: what the outside world can do to the module, one constructor per row of the spec's table of
operations and events, with the operands each row's rule names. -/

namespace Sys2Proof

/-- Who makes a register access: application core `core`, in the secure monitor or not (R140). Its PID and SYS come from
PART_HART_CTX. -/
structure Acc where
  core : Fin 8
  secure : Bool
  deriving DecidableEq, Repr

/-- The access tag of R140. -/
structure Tag where
  secure : Bool
  pid : Fin 32
  sys : Bool
  master : BitVec 8
  deriving DecidableEq, Repr

/-- Read, write or fetch (R154). -/
inductive AccKind where
  | read | write | fetch
  deriving DecidableEq, Repr

/-- A CAN frame as it reaches an FBC (R452): its format, whether it is a remote frame, whether it lies outside the supported
parts, its identifier and data. -/
structure CanFrame where
  fdf : Bool
  brs : Bool
  esi : Bool
  ide : Bool
  remote : Bool
  malformed : Bool
  id : BitVec 29
  data : List Byte
  deriving DecidableEq, Repr

/-- The changes of the error counters of ISO 11898-1 (R468): a receiver's error, a receiver's dominant bit after its error
flag, a transmitter's error. -/
inductive CanErr where
  | receiver | receiverDominant | transmitter
  deriving DecidableEq, Repr

/-- A new state of the switch of one of the two ejector handles (R92). -/
structure HandleSwitch where
  second : Bool
  opened : Bool
  deriving DecidableEq, Repr

/-- The port identity of a PTP sender (R165). -/
structure PtpSrc where
  clock : DWord
  port : Half
  deriving DecidableEq, Repr

/-- A Sync message (R165): the origin time in nanoseconds of TAI, the correction in units of 2⁻¹⁶ ns, logMessageInterval. -/
structure PtpSync where
  domain : Byte
  src : PtpSrc
  seq : Half
  twoStep : Bool
  logInt : Int
  origin : Nat
  corr : Int
  deriving DecidableEq, Repr

/-- A Follow_Up message (R165). -/
structure PtpFollowUp where
  domain : Byte
  src : PtpSrc
  seq : Half
  origin : Nat
  corr : Int
  deriving DecidableEq, Repr

/-- An Announce message (R165): the sender's data set of IEEE 1588-2008, the UTC offset with its flags, and the
grandmasterID and totalTimeInaccuracy of an IEEE_C37_238 TLV, the contents of an ALTERNATE_TIME_OFFSET_INDICATOR TLV. -/
structure PtpAnnounce where
  domain : Byte
  src : PtpSrc
  logInt : Int
  prio1 : Byte
  cls : Byte
  acc : Byte
  var : Half
  prio2 : Byte
  gm : DWord
  steps : Half
  utc : Half
  utcValid : Bool
  leap59 : Bool
  leap61 : Bool
  tti : Option Word
  gmShort : Option Half
  zone : List Byte
  deriving DecidableEq, Repr

/-- A Pdelay_Req of a neighbour (R165). -/
structure PtpPdelayReq where
  domain : Byte
  src : PtpSrc
  seq : Half
  deriving DecidableEq, Repr

/-- A Pdelay_Resp (R165): the port it answers; `turn` is the turnaround time it reports in its correctionField, in units of 2⁻¹⁶
ns. -/
structure PtpPdelayResp where
  req : PtpSrc
  seq : Half
  twoStep : Bool
  turn : Int
  deriving DecidableEq, Repr

/-- An IRIG-B frame (R177): the code it shows by its number (2, 3, 6, 7 are decoded), whether its marks and fields are well
formed, day of year, time of day, year, straight binary seconds. -/
structure IrigFrame where
  code : Nat
  good : Bool
  day : Nat
  hour : Nat
  min : Nat
  sec : Nat
  year : Nat
  sbs : Nat
  deriving DecidableEq, Repr

/-- A redundancy tag as received (R216, R218): an HSR tag or a PRP trailer, its LAN or path identifier, its LSDU size and
sequence number; `sizeOk` says that the LSDU size matches the frame. -/
structure RedTag where
  hsr : Bool
  lan : Fin 16
  size : Fin 4096
  sizeOk : Bool
  seq : Half
  deriving DecidableEq, Repr

/-- A frame as it reaches a port (R201-R205): addresses, VLAN tag, EtherType and the bytes that follow it (padding included, a
redundancy tag and the FCS left out), the redundancy tag; whether the FCS and the code blocks are good and the link held. -/
structure EthFrame where
  da : BitVec 48
  sa : BitVec 48
  vlan : Option Half
  et : Half
  payload : List Byte
  red : Option RedTag
  fcsOk : Bool
  codeOk : Bool
  linkHeld : Bool
  deriving DecidableEq, Repr

/-- The authentication extension of IEC 62351-6 (R248, R433): whether its algorithm is AES-GMAC with a MAC of 16 bytes, the key
identifier, the bytes it covers, the MAC value. -/
structure AuthExt where
  algOk : Bool
  keyId : Word
  body : List Byte
  mac : List Byte
  deriving DecidableEq, Repr

/-- An ASDU of a sampled-value frame (R235): `rate` is smpRate where it is present, `extra` the bytes of seqData beyond its
whole entries. -/
structure SvAsdu where
  svId : List Byte
  smpCnt : Half
  confRev : Word
  synch : Byte
  rate : Option Nat
  data : List (Word × Word)
  extra : Nat
  deriving DecidableEq, Repr

/-- A sampled-value frame as parsed (R235). -/
structure SvFrame where
  appId : Half
  sim : Bool
  asdus : List SvAsdu
  auth : Option AuthExt
  deriving DecidableEq, Repr

/-- A member of a received GOOSE message: its type by the code of R438, its value; a Timestamp's seconds in the second word. -/
structure GooseMember where
  type_ : Fin 16
  v : Word
  v2 : Word
  deriving DecidableEq, Repr

/-- A GOOSE message as parsed (R426, R433): `process` says that it came from the PROCESS pair; `sim` is its Simulate bit or simulation field; `age` is how long ago its receive stamp lies, in ns. -/
structure GooseMsg where
  process : Bool
  appId : Half
  gocbRef : List Byte
  tal : Word
  tSec : Nat
  tNs : Nat
  stNum : Word
  sqNum : Word
  sim : Bool
  confRev : Word
  members : List GooseMember
  auth : Option AuthExt
  age : Nat
  deriving DecidableEq, Repr

/-- How the transmission of a frame ends (R222). -/
inductive TxEnd where
  | sent | underrun | linkLost
  deriving DecidableEq, Repr

/-- A publication in a block-state line of the GSE (R547): stNum, sqNum, the retransmission interval (its place in the
sequence), the CRC-32 of the member values last sent. -/
structure MirPub where
  stNum : Word
  sqNum : Word
  iv : Nat
  crc : Word
  deriving DecidableEq, Repr

/-- A subscription in a block-state line (R547): the last numbers, STATE (0 to 3), SIM_LATCH, the expiry in ns of the LTC. -/
structure MirSub where
  stNum : Word
  sqNum : Word
  state : Fin 4
  sim : Bool
  expiry : Nat
  deriving DecidableEq, Repr

/-- An object in a block-state line of the CMD (R547): guarded command state, LEFT_MS, ctlNum, ORIG. -/
structure MirObj where
  st : DWord
  left : Nat
  ctl : Fin 256
  orig : Fin 256
  deriving DecidableEq, Repr

/-- A mirrored line (R546, R547): a line of memory by its number; flags 512j up, bit b of the value flag 512j + b; four
publications, subscriptions or objects from 4j up; PSTATE and LAST_START of four partitions from 4j up; the STOPPED bits of the
tasks; a pair of force entries from 2j up, in the layout of the force map; a metering point with its accumulators, their
WRAP counts and fractions by ACC, DEMAND. -/
inductive MirLine where
  | mem (line : Nat) (bytes : List Byte)
  | flags (j : Nat) (bits : Nat)
  | pubs (j : Nat) (e : List MirPub)
  | subs (j : Nat) (e : List MirSub)
  | objs (j : Nat) (e : List MirObj)
  | parts (j : Nat) (e : List (Nat × Nat))
  | stopped (bits : Nat)
  | forces (j : Nat) (w : List Word)
  | point (p : Nat) (acc wrap frac : List (Nat × Nat)) (demand : Word)
  deriving DecidableEq, Repr

/-- A record of a packet (R549): whether it is a background line, and the line. -/
structure MirRec where
  bg : Bool
  line : MirLine
  deriving DecidableEq, Repr

/-- A packet as it reaches the MIR (R549): `body` is what its tag covers; `descOk` says that every record's descriptor passes
its guard check; the control word is guarded. -/
structure MirPacket where
  format : Half
  key : Fin 256
  behind : Bool
  resync : Bool
  bg : Bool
  seq : Word
  sec : Word
  tick : Fin 8192
  nonce : DWord
  progs : List (Word × Word)
  recs : List MirRec
  descOk : Bool
  ctl : DWord
  body : List Byte
  tag : List Byte
  deriving DecidableEq, Repr

/-- A lease word that has passed its checks (R534): POS and READY of the sender, epoch, SEC5, TICK; `path` is true on the mirror
link. -/
structure LeaseWord where
  path : Bool
  pos : Bool
  ready : Bool
  epoch : Fin 256
  sec5 : Fin 32
  tick : Fin 8192
  deriving DecidableEq, Repr

/-- The commands: one constructor for each row of the command table, named with its mnemonic and rule. For the protection
cores' instructions, `k` is the core and `p` the predicate that guards it (R336); `a` is the tag an access carries (R140). -/
inductive Instr where
  | meridian  -- MERIDIAN, R26
  | commit (a : Acc) (i : Fin 25) (tag : Half)  -- COMMIT, R45
  | commitCancel (a : Acc) (i : Fin 25)  -- COMMIT_CANCEL, R51
  | consistencyCheckDone (i : Fin 25)  -- CONSISTENCY_CHECK_DONE, R45
  | stoppedSetInForce (i : Fin 25)  -- STOPPED_SET_IN_FORCE, R47
  | registerWrite (a : Acc) (addr : Word) (size : Fin 9) (w : Word)  -- REGISTER_WRITE, R12
  | readClear (a : Acc) (addr : Word) (size : Fin 9)  -- READ_CLEAR, R12
  | clockMonitorCheck (rootLock divOk : Bool)  -- CLOCK_MONITOR_CHECK, R33
  | memoryAccess (t : Tag) (k : AccKind) (addr : BitVec 35) (n : Fin 65) (data : List Byte) (upset : Fin 3)  -- MEMORY_ACCESS, R154
  | softwareReset (a : Acc)  -- SOFTWARE_RESET, R54
  | resetRelease (slot : Fin 32) (pos : Bool) (imgA imgB : List Byte)  -- RESET_RELEASE, R123
  | sramWipeDone  -- SRAM_WIPE_DONE, R113
  | dramWipeDone  -- DRAM_WIPE_DONE, R113
  | powerOn  -- POWER_ON, R76
  | powerGood (us : Fin 8001)  -- POWER_GOOD, R76
  | storeOkChange (vst : Half)  -- STORE_OK_CHANGE, R77
  | storeMeasure (cap vst : Half)  -- STORE_MEASURE, R77
  | pwrFailAssert (vin : Half)  -- PWR_FAIL_ASSERT, R80
  | pwrFailDeassert (vin : Half)  -- PWR_FAIL_DEASSERT, R79
  | rideThroughEnd  -- RIDE_THROUGH_END, R83
  | twilightSave  -- TWILIGHT_SAVE, R83
  | twilightSaveDone (us : Fin 2001)  -- TWILIGHT_SAVE_DONE, R84
  | storeLowHold (vst : Half)  -- STORE_LOW_HOLD, R84
  | storeCutoff  -- STORE_CUTOFF, R84
  | twilightHandEnd (vin : Half)  -- TWILIGHT_HAND_END, R85
  | operatingCountWrite  -- OPERATING_COUNT_WRITE, R88
  | sfpOvercurrent (n : Fin 4)  -- SFP_OVERCURRENT, R73
  | handleChange (v : HandleSwitch)  -- HANDLE_CHANGE, R92
  | tempWarn (soc inlet : Byte)  -- TEMP_WARN, R93
  | vinSurge (vin : Half)  -- VIN_SURGE, R89
  | ptnrPresChange (v : Bool)  -- PTNR_PRES_CHANGE, R89
  | opsecRead (a : Acc)  -- OPSEC_READ, R89
  | verify (a : Acc)  -- VERIFY, R117
  | hash (a : Acc)  -- HASH, R138
  | keyLoad (a : Acc)  -- KEY_LOAD, R126
  | transfer (a : Acc)  -- TRANSFER, R126
  | keyClear (a : Acc)  -- KEY_CLEAR, R127
  | keyGen (a : Acc)  -- KEY_GEN, R129
  | keyDelete (a : Acc)  -- KEY_DELETE, R127
  | importOpen (a : Acc)  -- IMPORT_OPEN, R131
  | importApply (a : Acc)  -- IMPORT_APPLY, R131
  | attest (a : Acc)  -- ATTEST, R136
  | nonce (a : Acc)  -- NONCE, R102
  | lcTransition (a : Acc)  -- LC_TRANSITION, R104
  | svnAdvance (a : Acc)  -- SVN_ADVANCE, R106
  | fuseKeyAdd (a : Acc)  -- FUSE_KEY_ADD, R107
  | fuseKeyRevoke (a : Acc)  -- FUSE_KEY_REVOKE, R108
  | provision (a : Acc)  -- PROVISION, R109
  | lcStatus (a : Acc)  -- LC_STATUS, R138
  | trustCmdDone  -- TRUST_CMD_DONE, R138
  | importSessionExpiry  -- IMPORT_SESSION_EXPIRY, R134
  | watchdogKick (a : Acc) (w : Word)  -- WATCHDOG_KICK, R115
  | watchdogExpiry  -- WATCHDOG_EXPIRY, R115
  | mramWipeDone  -- MRAM_WIPE_DONE, R114
  | protectionReady  -- PROTECTION_READY, R121
  | assign (a : Acc) (rtype : Fin 16) (p : Fin 32)  -- ASSIGN, R147
  | release (a : Acc) (rtype : Fin 16)  -- RELEASE, R147
  | hnqPop (a : Acc) (p : Fin 32)  -- HNQ_POP, R158
  | hnqPopTag (a : Acc) (p : Fin 32)  -- HNQ_POP_TAG, R158
  | ptpSyncRx (m : Fin 4) (frac : Fin 1024) (x : PtpSync)  -- PTP_SYNC_RX, R167
  | ptpFollowUpRx (m : Fin 4) (x : PtpFollowUp)  -- PTP_FOLLOW_UP_RX, R165
  | ptpAnnounceRx (m : Fin 4) (x : PtpAnnounce)  -- PTP_ANNOUNCE_RX, R167
  | ptpPdelayReqRx (m : Fin 4) (frac : Fin 1024) (x : PtpPdelayReq)  -- PTP_PDELAY_REQ_RX, R165
  | ptpPdelayRespRx (m : Fin 4) (frac : Fin 1024) (x : PtpPdelayResp)  -- PTP_PDELAY_RESP_RX, R165
  | ptpMessageDrop (m : Fin 4)  -- PTP_MESSAGE_DROP, R165
  | pdelayReqTx  -- PDELAY_REQ_TX, R165
  | announceTimeout (d : Fin 2) (side : Bool)  -- ANNOUNCE_TIMEOUT, R167
  | syncLoss (d : Fin 2)  -- SYNC_LOSS, R167
  | domainEnable (a : Acc) (d : Fin 2)  -- DOMAIN_ENABLE, R167
  | domainDisable (a : Acc) (d : Fin 2)  -- DOMAIN_DISABLE, R167
  | reversion (k : Fin 4)  -- REVERSION, R170
  | holdKeepExpiry  -- HOLD_KEEP_EXPIRY, R172
  | slewDone  -- SLEW_DONE, R171
  | realign (a : Acc)  -- REALIGN, R175
  | irigbFrameRx (f : IrigFrame) (age : Nat)  -- IRIGB_FRAME_RX, R177
  | irigbLoss  -- IRIGB_LOSS, R178
  | ppsPulse  -- PPS_PULSE, R178
  | txqPop0 (a : Acc) (m : Fin 4)  -- TXQ_POP0, R183
  | txqFlush (a : Acc) (m : Fin 4)  -- TXQ_FLUSH, R185
  | biPinEdge (i : Fin 16) (v : Bool) (ns : Fin 4)  -- BI_PIN_EDGE, R188
  | biEdgeRecord (i : Fin 16)  -- BI_EDGE_RECORD, R188
  | biqPop0 (a : Acc)  -- BIQ_POP0, R189
  | biqFlush (a : Acc)  -- BIQ_FLUSH, R189
  | tickEnable (a : Acc)  -- TICK_ENABLE, R191
  | tickGenStart  -- TICK_GEN_START, R191
  | tickDisable (a : Acc)  -- TICK_DISABLE, R192
  | timeNowRead (a : Acc)  -- TIME_NOW_READ, R196
  | macFrameRx (m : Fin 5) (f : EthFrame) (frac : Fin 1024)  -- MAC_FRAME_RX, R203
  | linkUp (m : Fin 5) (slow : Bool)  -- LINK_UP, R198
  | linkDown (m : Fin 5) (why : Fin 4) (los : Bool)  -- LINK_DOWN, R198
  | modChange (m : Fin 4) (v : Bool)  -- MOD_CHANGE, R199
  | txFault (m : Fin 4) (v : Bool)  -- TX_FAULT, R199
  | macEnable (a : Acc) (m : Fin 5) (txEn : Bool)  -- MAC_ENABLE, R198
  | macDisable (a : Acc) (m : Fin 5) (txEn : Bool)  -- MAC_DISABLE, R226
  | sfpTwoWire (a : Acc) (m : Fin 4) (w : Word)  -- SFP_TWO_WIRE, R199
  | sfpTwoWireDone (m : Fin 4) (nack : Bool) (data : Byte)  -- SFP_TWO_WIRE_DONE, R199
  | ringFlush (a : Acc) (m : Fin 5) (tx : Bool) (n : Fin 8) (en : Bool)  -- RING_FLUSH, R214
  | txrWrWrite (a : Acc) (m : Fin 5) (n : Fin 2) (v : Half)  -- TXR_WR_WRITE, R223
  | macFrameTx (m : Fin 5) (e : TxEnd) (frac : Fin 1024)  -- MAC_FRAME_TX, R220
  | supervisionTx (p : Fin 2)  -- SUPERVISION_TX, R219
  | dupEntryExpiry (p : Fin 2)  -- DUP_ENTRY_EXPIRY, R217
  | svFrameRx (port : Fin 2) (frac : Fin 1024) (f : EthFrame)  -- SV_FRAME_RX, R234
  | groupDeadline (g : Fin 256)  -- GROUP_DEADLINE, R247
  | ctxLost (c : Fin 1024)  -- CTX_LOST, R244
  | recoveryCountExpiry (c : Fin 1024)  -- RECOVERY_COUNT_EXPIRY, R243
  | ctxFlush (a : Acc) (c : Fin 1024)  -- CTX_FLUSH, R251
  | svpSend (p : Fin 64)  -- SVP_SEND, R253
  | scaReleaseProcess  -- SCA_RELEASE_PROCESS, R266
  | freezeLimit (g : Fin 256)  -- FREEZE_LIMIT, R273
  | freqHoldExpiry (g : Fin 256)  -- FREQ_HOLD_EXPIRY, R279
  | settleCountExpiry (ch : Fin 8192)  -- SETTLE_COUNT_EXPIRY, R288
  | bankLoad (a : Acc) (w : Word)  -- BANK_LOAD, R281
  | bankLoadDone  -- BANK_LOAD_DONE, R281
  | fadeEnd (b : Fin 64)  -- FADE_END, R282
  | taskDispatch (k : Fin 64)  -- TASK_DISPATCH, R381
  | opfRefusal (k : Fin 64)  -- OPF_REFUSAL, R326
  | deadlineExpiry (t : Fin 512)  -- DEADLINE_EXPIRY, R382
  | pcxLoad (a : Acc)  -- PCX_LOAD, R334
  | pcxLoadDone  -- PCX_LOAD_DONE, R334
  | coreExcClear (a : Acc) (k : Fin 64)  -- CORE_EXC_CLEAR, R336
  | undefinedEncoding (k : Fin 64) (w : Word)  -- UNDEFINED_ENCODING, R340
  | add (k : Fin 64) (p : Fin 8) (d a b : Fin 32)  -- ADD, R343
  | sub (k : Fin 64) (p : Fin 8) (d a b : Fin 32)  -- SUB, R343
  | and (k : Fin 64) (p : Fin 8) (d a b : Fin 32)  -- AND, R343
  | or (k : Fin 64) (p : Fin 8) (d a b : Fin 32)  -- OR, R343
  | xor (k : Fin 64) (p : Fin 8) (d a b : Fin 32)  -- XOR, R343
  | shl (k : Fin 64) (p : Fin 8) (d a b : Fin 32)  -- SHL, R343
  | shr (k : Fin 64) (p : Fin 8) (d a b : Fin 32)  -- SHR, R343
  | sra (k : Fin 64) (p : Fin 8) (d a b : Fin 32)  -- SRA, R343
  | mul (k : Fin 64) (p : Fin 8) (d a b : Fin 32)  -- MUL, R343
  | mulh (k : Fin 64) (p : Fin 8) (d a b : Fin 32)  -- MULH, R343
  | mulhu (k : Fin 64) (p : Fin 8) (d a b : Fin 32)  -- MULHU, R343
  | adds (k : Fin 64) (p : Fin 8) (d a b : Fin 32)  -- ADDS, R343
  | subs (k : Fin 64) (p : Fin 8) (d a b : Fin 32)  -- SUBS, R343
  | min (k : Fin 64) (p : Fin 8) (d a b : Fin 32)  -- MIN, R343
  | max (k : Fin 64) (p : Fin 8) (d a b : Fin 32)  -- MAX, R343
  | minu (k : Fin 64) (p : Fin 8) (d a b : Fin 32)  -- MINU, R343
  | maxu (k : Fin 64) (p : Fin 8) (d a b : Fin 32)  -- MAXU, R343
  | div (k : Fin 64) (p : Fin 8) (d a b : Fin 32)  -- DIV, R344
  | divu (k : Fin 64) (p : Fin 8) (d a b : Fin 32)  -- DIVU, R344
  | rem (k : Fin 64) (p : Fin 8) (d a b : Fin 32)  -- REM, R344
  | remu (k : Fin 64) (p : Fin 8) (d a b : Fin 32)  -- REMU, R344
  | abs (k : Fin 64) (p : Fin 8) (d a : Fin 32)  -- ABS, R343
  | clz (k : Fin 64) (p : Fin 8) (d a : Fin 32)  -- CLZ, R343
  | addi (k : Fin 64) (p : Fin 8) (d a : Fin 32) (imm : BitVec 13)  -- ADDI, R345
  | andi (k : Fin 64) (p : Fin 8) (d a : Fin 32) (imm : BitVec 13)  -- ANDI, R345
  | ori (k : Fin 64) (p : Fin 8) (d a : Fin 32) (imm : BitVec 13)  -- ORI, R345
  | xori (k : Fin 64) (p : Fin 8) (d a : Fin 32) (imm : BitVec 13)  -- XORI, R345
  | shiShl (k : Fin 64) (p : Fin 8) (d a n : Fin 32)  -- SHI_SHL, R345
  | shiShr (k : Fin 64) (p : Fin 8) (d a n : Fin 32)  -- SHI_SHR, R345
  | shiSra (k : Fin 64) (p : Fin 8) (d a n : Fin 32)  -- SHI_SRA, R345
  | add64 (k : Fin 64) (p : Fin 8) (d a b : Fin 32)  -- ADD64, R346
  | sub64 (k : Fin 64) (p : Fin 8) (d a b : Fin 32)  -- SUB64, R346
  | mull (k : Fin 64) (p : Fin 8) (d a b : Fin 32)  -- MULL, R346
  | mullu (k : Fin 64) (p : Fin 8) (d a b : Fin 32)  -- MULLU, R346
  | adds64 (k : Fin 64) (p : Fin 8) (d a b : Fin 32)  -- ADDS64, R346
  | fadd (k : Fin 64) (p : Fin 8) (d a b : Fin 32)  -- FADD, R347
  | fsub (k : Fin 64) (p : Fin 8) (d a b : Fin 32)  -- FSUB, R347
  | fmul (k : Fin 64) (p : Fin 8) (d a b : Fin 32)  -- FMUL, R347
  | fdiv (k : Fin 64) (p : Fin 8) (d a b : Fin 32)  -- FDIV, R347
  | fsqrt (k : Fin 64) (p : Fin 8) (d a : Fin 32)  -- FSQRT, R347
  | fmin (k : Fin 64) (p : Fin 8) (d a b : Fin 32)  -- FMIN, R347
  | fmax (k : Fin 64) (p : Fin 8) (d a b : Fin 32)  -- FMAX, R347
  | fabs (k : Fin 64) (p : Fin 8) (d a : Fin 32)  -- FABS, R347
  | fneg (k : Fin 64) (p : Fin 8) (d a : Fin 32)  -- FNEG, R347
  | fmac (k : Fin 64) (p : Fin 8) (d a b : Fin 32)  -- FMAC, R347
  | fcvtsw (k : Fin 64) (p : Fin 8) (d a : Fin 32)  -- FCVTSW, R347
  | fcvtws (k : Fin 64) (p : Fin 8) (d a : Fin 32)  -- FCVTWS, R347
  | fcvtsq (k : Fin 64) (p : Fin 8) (d a : Fin 32)  -- FCVTSQ, R347
  | fcvtqs (k : Fin 64) (p : Fin 8) (d a : Fin 32)  -- FCVTQS, R347
  | fatan2 (k : Fin 64) (p : Fin 8) (d a b : Fin 32)  -- FATAN2, R347
  | fhypot (k : Fin 64) (p : Fin 8) (d a b : Fin 32)  -- FHYPOT, R347
  | qadd (k : Fin 64) (p : Fin 8) (d a b : Fin 32)  -- QADD, R349
  | qsub (k : Fin 64) (p : Fin 8) (d a b : Fin 32)  -- QSUB, R349
  | qmul (k : Fin 64) (p : Fin 8) (d a b : Fin 32)  -- QMUL, R349
  | qmac (k : Fin 64) (p : Fin 8) (d a b : Fin 32)  -- QMAC, R349
  | qabs (k : Fin 64) (p : Fin 8) (d a : Fin 32)  -- QABS, R349
  | qneg (k : Fin 64) (p : Fin 8) (d a : Fin 32)  -- QNEG, R349
  | qshl (k : Fin 64) (p : Fin 8) (d a b : Fin 32)  -- QSHL, R349
  | qshr (k : Fin 64) (p : Fin 8) (d a b : Fin 32)  -- QSHR, R349
  | ceq (k : Fin 64) (p d : Fin 8) (a b : Fin 32)  -- CEQ, R350
  | cne (k : Fin 64) (p d : Fin 8) (a b : Fin 32)  -- CNE, R350
  | clt (k : Fin 64) (p d : Fin 8) (a b : Fin 32)  -- CLT, R350
  | cge (k : Fin 64) (p d : Fin 8) (a b : Fin 32)  -- CGE, R350
  | cltu (k : Fin 64) (p d : Fin 8) (a b : Fin 32)  -- CLTU, R350
  | cgeu (k : Fin 64) (p d : Fin 8) (a b : Fin 32)  -- CGEU, R350
  | ctst (k : Fin 64) (p d : Fin 8) (a b : Fin 32)  -- CTST, R350
  | ctstn (k : Fin 64) (p d : Fin 8) (a b : Fin 32)  -- CTSTN, R350
  | feq (k : Fin 64) (p d : Fin 8) (a b : Fin 32)  -- FEQ, R350
  | flt (k : Fin 64) (p d : Fin 8) (a b : Fin 32)  -- FLT, R350
  | fle (k : Fin 64) (p d : Fin 8) (a b : Fin 32)  -- FLE, R350
  | funord (k : Fin 64) (p d : Fin 8) (a b : Fin 32)  -- FUN, R350
  | pand (k : Fin 64) (p d a b : Fin 8)  -- PAND, R351
  | por (k : Fin 64) (p d a b : Fin 8)  -- POR, R351
  | pxor (k : Fin 64) (p d a b : Fin 8)  -- PXOR, R351
  | pandn (k : Fin 64) (p d a b : Fin 8)  -- PANDN, R351
  | pnot (k : Fin 64) (p d a : Fin 8)  -- PNOT, R351
  | ptos (k : Fin 64) (p : Fin 8) (d : Fin 32) (a : Fin 8)  -- PTOS, R351
  | stop (k : Fin 64) (p d : Fin 8) (a : Fin 32)  -- STOP, R351
  | pset (k : Fin 64) (p d : Fin 8) (a : Fin 32)  -- PSET, R351
  | ldw (k : Fin 64) (p : Fin 8) (d a : Fin 32) (imm : BitVec 13)  -- LDW, R352
  | ldh (k : Fin 64) (p : Fin 8) (d a : Fin 32) (imm : BitVec 13)  -- LDH, R352
  | ldhu (k : Fin 64) (p : Fin 8) (d a : Fin 32) (imm : BitVec 13)  -- LDHU, R352
  | ldb (k : Fin 64) (p : Fin 8) (d a : Fin 32) (imm : BitVec 13)  -- LDB, R352
  | ldbu (k : Fin 64) (p : Fin 8) (d a : Fin 32) (imm : BitVec 13)  -- LDBU, R352
  | ldd (k : Fin 64) (p : Fin 8) (d a : Fin 32) (imm : BitVec 13)  -- LDD, R352
  | stw (k : Fin 64) (p : Fin 8) (d a : Fin 32) (imm : BitVec 13)  -- STW, R352
  | sth (k : Fin 64) (p : Fin 8) (d a : Fin 32) (imm : BitVec 13)  -- STH, R352
  | stb (k : Fin 64) (p : Fin 8) (d a : Fin 32) (imm : BitVec 13)  -- STB, R352
  | std (k : Fin 64) (p : Fin 8) (d a : Fin 32) (imm : BitVec 13)  -- STD, R352
  | ldg (k : Fin 64) (p : Fin 8) (d a : Fin 32) (imm : BitVec 13)  -- LDG, R354
  | stg (k : Fin 64) (p : Fin 8) (d a : Fin 32) (imm : BitVec 13)  -- STG, R354
  | ldwi (k : Fin 64) (p : Fin 8) (d a : Fin 32) (imm : BitVec 13)  -- LDWI, R352
  | stwi (k : Fin 64) (p : Fin 8) (d a : Fin 32) (imm : BitVec 13)  -- STWI, R352
  | ldgi (k : Fin 64) (p : Fin 8) (d a : Fin 32) (imm : BitVec 13)  -- LDGI, R354
  | stgi (k : Fin 64) (p : Fin 8) (d a : Fin 32) (imm : BitVec 13)  -- STGI, R354
  | vld (k : Fin 64) (p : Fin 8) (d a : Fin 32) (imm : BitVec 13)  -- VLD, R355
  | vst (k : Fin 64) (p : Fin 8) (d a : Fin 32) (imm : BitVec 13)  -- VST, R355
  | vadd (k : Fin 64) (p : Fin 8) (d a b : Fin 32)  -- VADD, R356
  | vsub (k : Fin 64) (p : Fin 8) (d a b : Fin 32)  -- VSUB, R356
  | vand (k : Fin 64) (p : Fin 8) (d a b : Fin 32)  -- VAND, R356
  | vor (k : Fin 64) (p : Fin 8) (d a b : Fin 32)  -- VOR, R356
  | vxor (k : Fin 64) (p : Fin 8) (d a b : Fin 32)  -- VXOR, R356
  | vshl (k : Fin 64) (p : Fin 8) (d a b : Fin 32)  -- VSHL, R356
  | vshr (k : Fin 64) (p : Fin 8) (d a b : Fin 32)  -- VSHR, R356
  | vsra (k : Fin 64) (p : Fin 8) (d a b : Fin 32)  -- VSRA, R356
  | vmul (k : Fin 64) (p : Fin 8) (d a b : Fin 32)  -- VMUL, R356
  | vmulh (k : Fin 64) (p : Fin 8) (d a b : Fin 32)  -- VMULH, R356
  | vmulhu (k : Fin 64) (p : Fin 8) (d a b : Fin 32)  -- VMULHU, R356
  | vadds (k : Fin 64) (p : Fin 8) (d a b : Fin 32)  -- VADDS, R356
  | vsubs (k : Fin 64) (p : Fin 8) (d a b : Fin 32)  -- VSUBS, R356
  | vmin (k : Fin 64) (p : Fin 8) (d a b : Fin 32)  -- VMIN, R356
  | vmax (k : Fin 64) (p : Fin 8) (d a b : Fin 32)  -- VMAX, R356
  | vminu (k : Fin 64) (p : Fin 8) (d a b : Fin 32)  -- VMINU, R356
  | vmaxu (k : Fin 64) (p : Fin 8) (d a b : Fin 32)  -- VMAXU, R356
  | vfadd (k : Fin 64) (p : Fin 8) (d a b : Fin 32)  -- VFADD, R356
  | vfsub (k : Fin 64) (p : Fin 8) (d a b : Fin 32)  -- VFSUB, R356
  | vfmul (k : Fin 64) (p : Fin 8) (d a b : Fin 32)  -- VFMUL, R356
  | vfdiv (k : Fin 64) (p : Fin 8) (d a b : Fin 32)  -- VFDIV, R356
  | vfsqrt (k : Fin 64) (p : Fin 8) (d a : Fin 32)  -- VFSQRT, R356
  | vfmin (k : Fin 64) (p : Fin 8) (d a b : Fin 32)  -- VFMIN, R356
  | vfmax (k : Fin 64) (p : Fin 8) (d a b : Fin 32)  -- VFMAX, R356
  | vfabs (k : Fin 64) (p : Fin 8) (d a : Fin 32)  -- VFABS, R356
  | vfneg (k : Fin 64) (p : Fin 8) (d a : Fin 32)  -- VFNEG, R356
  | vfmac (k : Fin 64) (p : Fin 8) (d a b : Fin 32)  -- VFMAC, R356
  | vfcvtsw (k : Fin 64) (p : Fin 8) (d a : Fin 32)  -- VFCVTSW, R356
  | vfcvtws (k : Fin 64) (p : Fin 8) (d a : Fin 32)  -- VFCVTWS, R356
  | vfcvtsq (k : Fin 64) (p : Fin 8) (d a : Fin 32)  -- VFCVTSQ, R356
  | vfcvtqs (k : Fin 64) (p : Fin 8) (d a : Fin 32)  -- VFCVTQS, R356
  | vfatan2 (k : Fin 64) (p : Fin 8) (d a b : Fin 32)  -- VFATAN2, R356
  | vfhypot (k : Fin 64) (p : Fin 8) (d a b : Fin 32)  -- VFHYPOT, R356
  | vqadd (k : Fin 64) (p : Fin 8) (d a b : Fin 32)  -- VQADD, R356
  | vqsub (k : Fin 64) (p : Fin 8) (d a b : Fin 32)  -- VQSUB, R356
  | vqmul (k : Fin 64) (p : Fin 8) (d a b : Fin 32)  -- VQMUL, R356
  | vqmac (k : Fin 64) (p : Fin 8) (d a b : Fin 32)  -- VQMAC, R356
  | vqabs (k : Fin 64) (p : Fin 8) (d a : Fin 32)  -- VQABS, R356
  | vqneg (k : Fin 64) (p : Fin 8) (d a : Fin 32)  -- VQNEG, R356
  | vqshl (k : Fin 64) (p : Fin 8) (d a b : Fin 32)  -- VQSHL, R356
  | vqshr (k : Fin 64) (p : Fin 8) (d a b : Fin 32)  -- VQSHR, R356
  | vceq (k : Fin 64) (p d : Fin 8) (a b : Fin 32)  -- VCEQ, R356
  | vcne (k : Fin 64) (p d : Fin 8) (a b : Fin 32)  -- VCNE, R356
  | vclt (k : Fin 64) (p d : Fin 8) (a b : Fin 32)  -- VCLT, R356
  | vcge (k : Fin 64) (p d : Fin 8) (a b : Fin 32)  -- VCGE, R356
  | vcltu (k : Fin 64) (p d : Fin 8) (a b : Fin 32)  -- VCLTU, R356
  | vcgeu (k : Fin 64) (p d : Fin 8) (a b : Fin 32)  -- VCGEU, R356
  | vctst (k : Fin 64) (p d : Fin 8) (a b : Fin 32)  -- VCTST, R356
  | vctstn (k : Fin 64) (p d : Fin 8) (a b : Fin 32)  -- VCTSTN, R356
  | vfeq (k : Fin 64) (p d : Fin 8) (a b : Fin 32)  -- VFEQ, R356
  | vflt (k : Fin 64) (p d : Fin 8) (a b : Fin 32)  -- VFLT, R356
  | vfle (k : Fin 64) (p d : Fin 8) (a b : Fin 32)  -- VFLE, R356
  | vfun (k : Fin 64) (p d : Fin 8) (a b : Fin 32)  -- VFUN, R356
  | vbc (k : Fin 64) (p : Fin 8) (d a : Fin 32)  -- VBC, R357
  | vext (k : Fin 64) (p : Fin 8) (d a : Fin 32) (n : Fin 8)  -- VEXT, R357
  | vins (k : Fin 64) (p : Fin 8) (d a : Fin 32) (n : Fin 8)  -- VINS, R357
  | vmov (k : Fin 64) (p : Fin 8) (d a : Fin 32)  -- VMOV, R357
  | vsumi (k : Fin 64) (p : Fin 8) (d a : Fin 32)  -- VSUMI, R357
  | vsumq (k : Fin 64) (p : Fin 8) (d a : Fin 32)  -- VSUMQ, R357
  | vsumf (k : Fin 64) (p : Fin 8) (d a : Fin 32)  -- VSUMF, R357
  | vmaxf (k : Fin 64) (p : Fin 8) (d a : Fin 32)  -- VMAXF, R357
  | ldsmp (k : Fin 64) (p : Fin 8) (d a : Fin 32) (age : Fin 64)  -- LDSMP, R359
  | ldsmpa (k : Fin 64) (p : Fin 8) (d a b : Fin 32)  -- LDSMPA, R359
  | vldsmp (k : Fin 64) (p : Fin 8) (d a : Fin 32) (age : Fin 64)  -- VLDSMP, R359
  | ldph (k : Fin 64) (p : Fin 8) (d a : Fin 32) (pt : Fin 8) (age : Fin 64)  -- LDPH, R360
  | ldpha (k : Fin 64) (p : Fin 8) (d a b : Fin 32) (pt : Fin 8)  -- LDPHA, R360
  | ldgr (k : Fin 64) (p : Fin 8) (d a : Fin 32) (pt : Fin 8) (age : Fin 64)  -- LDGR, R360
  | ldgra (k : Fin 64) (p : Fin 8) (d a b : Fin 32) (pt : Fin 8)  -- LDGRA, R360
  | tmrTon (k : Fin 64) (p : Fin 8) (d a b : Fin 32) (ofs : Fin 64)  -- TMR_TON, R363
  | tmrTof (k : Fin 64) (p : Fin 8) (d a b : Fin 32) (ofs : Fin 64)  -- TMR_TOF, R363
  | tmrTp (k : Fin 64) (p : Fin 8) (d a b : Fin 32) (ofs : Fin 64)  -- TMR_TP, R363
  | edgeRising (k : Fin 64) (p : Fin 8) (d a : Fin 32) (ofs : Fin 64)  -- EDGE_RISING, R365
  | edgeFalling (k : Fin 64) (p : Fin 8) (d a : Fin 32) (ofs : Fin 64)  -- EDGE_FALLING, R365
  | edgeEither (k : Fin 64) (p : Fin 8) (d a : Fin 32) (ofs : Fin 64)  -- EDGE_EITHER, R365
  | opf (k : Fin 64) (p : Fin 8) (d a : Fin 32) (imm : BitVec 12)  -- OPF, R366
  | br (k : Fin 64) (p : Fin 8) (n : Bool) (ofs : BitVec 22)  -- BR, R368
  | jr (k : Fin 64) (p : Fin 8) (a : Fin 32)  -- JR, R368
  | fcall (k : Fin 64) (p : Fin 8) (a : Fin 32) (imm : Byte)  -- FCALL, R369
  | fret (k : Fin 64) (p : Fin 8)  -- FRET, R369
  | rdsr (k : Fin 64) (p : Fin 8) (d : Fin 32) (n : Fin 16)  -- RDSR, R370
  | wrsr (k : Fin 64) (p : Fin 8) (a : Fin 32) (n : Fin 16)  -- WRSR, R370
  | tend (k : Fin 64) (p : Fin 8)  -- TEND, R371
  | fence (k : Fin 64) (p : Fin 8)  -- FENCE, R371
  | evsig (k : Fin 64) (p : Fin 8) (e : Fin 16)  -- EVSIG, R371
  | npost (k : Fin 64) (p : Fin 8) (a : Fin 32) (cls : Fin 4) (code : Byte)  -- NPOST, R372
  | li (k : Fin 64) (p : Fin 8) (d : Fin 32) (imm : Word)  -- LI, R373
  | addx (k : Fin 64) (p : Fin 8) (d a : Fin 32) (imm : Word)  -- ADDX, R373
  | ldwx (k : Fin 64) (p : Fin 8) (d a : Fin 32) (imm : Word)  -- LDWX, R373
  | stwx (k : Fin 64) (p : Fin 8) (d a : Fin 32) (imm : Word)  -- STWX, R373
  | vbci (k : Fin 64) (p : Fin 8) (d : Fin 32) (imm : Word)  -- VBCI, R373
  | load (a : Acc) (p : Fin 32)  -- LOAD, R393
  | loadDone (p : Fin 32)  -- LOAD_DONE, R393
  | prepare (a : Acc) (p : Fin 32)  -- PREPARE, R394
  | prepareDone (p : Fin 32)  -- PREPARE_DONE, R394
  | switch (a : Acc) (p : Fin 32)  -- SWITCH, R395
  | discard (a : Acc) (p : Fin 32)  -- DISCARD, R393
  | install (a : Acc) (p : Fin 32)  -- INSTALL, R393
  | startWarm (a : Acc) (p : Fin 32)  -- START_WARM, R383
  | startCold (a : Acc) (p : Fin 32)  -- START_COLD, R383
  | tskStop (a : Acc) (p : Fin 32)  -- TSK_STOP, R383
  | restartDone (p : Fin 32)  -- RESTART_DONE, R384
  | plinthLineWrite  -- PLINTH_LINE_WRITE, R386
  | recarryDone (p : Fin 32)  -- RECARRY_DONE, R398
  | switchAttemptFail (p : Fin 32)  -- SWITCH_ATTEMPT_FAIL, R396
  | forceApply (k : Fin 64)  -- FORCE_APPLY, R403
  | minUsExpiry (n : Fin 32)  -- MIN_US_EXPIRY, R419
  | readbackMismatch (n : Fin 32)  -- READBACK_MISMATCH, R568
  | readbackClear (n : Fin 32)  -- READBACK_CLEAR, R568
  | gooseRetransmit (p : Fin 256)  -- GOOSE_RETRANSMIT, R429
  | gooseRx (m : Fin 4)  -- GOOSE_RX, R433
  | gooseTalExpiry (n : Fin 512)  -- GOOSE_TAL_EXPIRY, R435
  | cmdSelect (a : Acc) (rank : Fin 8) (val : Bool) (orig ctl o : Fin 256)  -- CMD_SELECT, R439
  | cmdOperate (a : Acc) (rank : Fin 8) (val : Bool) (orig ctl o : Fin 256)  -- CMD_OPERATE, R439
  | cmdCancel (a : Acc) (rank : Fin 8) (val : Bool) (orig ctl o : Fin 256)  -- CMD_CANCEL, R439
  | operTimeout (o : Fin 256)  -- OPER_TIMEOUT, R441
  | selectTimeout (o : Fin 256)  -- SELECT_TIMEOUT, R440
  | coPosWrite (a : Acc) (o : Fin 256) (pos : Fin 4)  -- CO_POS_WRITE, R441
  | objReset (a : Acc) (o : Fin 256)  -- OBJ_RESET, R443
  | cmdResPop (a : Acc)  -- CMD_RES_POP, R444
  | canFrameRx (m : Fin 2) (f : CanFrame) (age : Nat)  -- CAN_FRAME_RX, R464
  | canArbitration (m : Fin 2) (won : Bool)  -- CAN_ARBITRATION, R462
  | canTxComplete (m : Fin 2) (ok : Bool)  -- CAN_TX_COMPLETE, R461
  | canBusError (m : Fin 2) (e : CanErr)  -- CAN_BUS_ERROR, R468
  | busOffRecovered (m : Fin 2)  -- BUS_OFF_RECOVERED, R468
  | fbcRecover (a : Acc) (m : Fin 2)  -- FBC_RECOVER, R468
  | fbcEnable (a : Acc) (m : Fin 2)  -- FBC_ENABLE, R453
  | fbcDisable (a : Acc) (m : Fin 2)  -- FBC_DISABLE, R471
  | tq1Push (a : Acc) (m : Fin 2) (w : Word)  -- TQ1_PUSH, R463
  | tq1Flush (a : Acc) (m : Fin 2)  -- TQ1_FLUSH, R463
  | rqHead (a : Acc) (m q : Fin 2)  -- RQ_HEAD, R465
  | rqFlush (a : Acc) (m q : Fin 2)  -- RQ_FLUSH, R465
  | xcvrFault (m : Fin 2) (v : Bool)  -- XCVR_FAULT, R469
  | drcEnable (a : Acc)  -- DRC_ENABLE, R480
  | drcDisable (a : Acc)  -- DRC_DISABLE, R484
  | drcRowWrite  -- DRC_ROW_WRITE, R477
  | manualTrigger (a : Acc)  -- MANUAL_TRIGGER, R486
  | holdOffExpiry  -- HOLD_OFF_EXPIRY, R490
  | segClaim (a : Acc) (i : Fin 4096)  -- SEG_CLAIM, R491
  | segRelease (a : Acc) (i : Fin 4096)  -- SEG_RELEASE, R491
  | segUnclaim (a : Acc) (i : Fin 4096)  -- SEG_UNCLAIM, R491
  | almPostGo (a : Acc)  -- ALM_POST_GO, R497
  | almRecordWrite  -- ALM_RECORD_WRITE, R496
  | almSeek (a : Acc) (w : Word)  -- ALM_SEEK, R499
  | meterWindowEnd (p : Fin 256)  -- METER_WINDOW_END, R512
  | mtrPreset (a : Acc) (acc : Fin 8) (p : Fin 256)  -- MTR_PRESET, R519
  | mtrCkptNow (a : Acc)  -- MTR_CKPT_NOW, R524
  | mtrStop (a : Acc)  -- MTR_STOP, R524
  | mtrResume (a : Acc)  -- MTR_RESUME, R524
  | meterPointEnable (a : Acc) (p : Fin 256)  -- METER_POINT_ENABLE, R510
  | accRead (a : Acc) (p : Fin 256) (n : Fin 6)  -- ACC_READ, R518
  | pulsePeriod (n : Fin 4)  -- PULSE_PERIOD, R525
  | mirEnable (a : Acc)  -- MIR_ENABLE, R532
  | mirDisable (a : Acc)  -- MIR_DISABLE, R532
  | handover (a : Acc)  -- HANDOVER, R543
  | leaseFrameTx  -- LEASE_FRAME_TX, R536
  | renewRx (w : LeaseWord)  -- RENEW_RX, R535
  | statusRx (w : LeaseWord)  -- STATUS_RX, R535
  | claimRx (w : LeaseWord)  -- CLAIM_RX, R542
  | releaseRx (w : LeaseWord)  -- RELEASE_RX, R543
  | twilightRx (w : LeaseWord)  -- TWILIGHT_RX, R544
  | twClearRx (w : LeaseWord)  -- TW_CLEAR_RX, R544
  | tickPacketRx (p : MirPacket)  -- TICK_PACKET_RX, R552
  | leaseSilenceExpiry  -- LEASE_SILENCE_EXPIRY, R541
  | listenSilenceExpiry  -- LISTEN_SILENCE_EXPIRY, R540
  | mirLaneDown (l : Fin 2)  -- MIR_LANE_DOWN, R551
  | rbTest (a : Acc) (n : Fin 32)  -- RB_TEST, R569
  | rbTestDone (seen after : Bool)  -- RB_TEST_DONE, R569
  | bistRerun (a : Acc) (t : Fin 16)  -- BIST_RERUN, R572
  | bistDone (fail : Bool)  -- BIST_DONE, R572
  | builtInSelfTest (fails : BitVec 9)  -- BUILT_IN_SELF_TEST, R570
  | dumpFreeze (a : Acc) (key : Half)  -- DUMP_FREEZE, R575
  | dumpSeal (a : Acc) (key : Half)  -- DUMP_SEAL, R576
  | sealDone  -- SEAL_DONE, R576
  | dumpReset (a : Acc) (key : Half)  -- DUMP_RESET, R575
  | dumpUnseal (a : Acc) (key : Half)  -- DUMP_UNSEAL, R577
  | dumpAck (a : Acc) (key : Half)  -- DUMP_ACK, R577
  | mirrorLaneUp (l : Fin 2)  -- MIRROR_LANE_UP, R551
  | leaseWordInvalid (guard : Bool)  -- LEASE_WORD_INVALID, R538
  | checkpointWriteDone  -- CHECKPOINT_WRITE_DONE, R522
  | dumpRegionWipeDone  -- DUMP_REGION_WIPE_DONE, R577
  deriving DecidableEq, Repr

end Sys2Proof
end

