-- ==== Sys2Proof/Decode.lean ====
section
/-! DEFINITION. The commands that words spell. No row of the table of operations and events gives its command bits: a command
reaches the module as an event at its pins, an access on its bus, or an instant, with the operands of `Instr`. The instructions
of the protection cores stand in a code bank as words: their formats (R337), fields (R338) and opcodes (R341). -/

namespace Sys2Proof

/-- The command a word spells by the table's bits: none. -/
def decodeTableWord (_nbits _w : Nat) : Option Instr := none

/-! ### The words of a Sarbauno instruction (R337-R373) -/

/-- OPC [31:26], P [25:23] and the bits below. -/
def encP (opc : Nat) (p : Fin 8) (rest : Nat) : Word := BitVec.ofNat 32 (opc * 2 ^ 26 + p.val * 2 ^ 23 + rest)

/-- Formats R and T: D [22:18], A [17:13], B [12:8], FN [7:0] (MODE [7:6], OFS [5:0]). -/
def encR (opc : Nat) (p : Fin 8) (d a b fn : Nat) : Word := encP opc p (d * 2 ^ 18 + a * 2 ^ 13 + b * 2 ^ 8 + fn)

/-- Format I: D, A, IMM [12:0]. -/
def encI (opc : Nat) (p : Fin 8) (d a imm : Nat) : Word := encP opc p (d * 2 ^ 18 + a * 2 ^ 13 + imm)

/-- The words of an instruction of a protection core, the second one that of an extended instruction; none for another command. -/
def sarbWords : Instr → List Word
  | .add _ p d a b => [encR 0x01 p d a b 0x0]
  | .sub _ p d a b => [encR 0x01 p d a b 0x1]
  | .and _ p d a b => [encR 0x01 p d a b 0x2]
  | .or _ p d a b => [encR 0x01 p d a b 0x3]
  | .xor _ p d a b => [encR 0x01 p d a b 0x4]
  | .shl _ p d a b => [encR 0x01 p d a b 0x5]
  | .shr _ p d a b => [encR 0x01 p d a b 0x6]
  | .sra _ p d a b => [encR 0x01 p d a b 0x7]
  | .mul _ p d a b => [encR 0x01 p d a b 0x8]
  | .mulh _ p d a b => [encR 0x01 p d a b 0x9]
  | .mulhu _ p d a b => [encR 0x01 p d a b 0xa]
  | .adds _ p d a b => [encR 0x01 p d a b 0xb]
  | .subs _ p d a b => [encR 0x01 p d a b 0xc]
  | .min _ p d a b => [encR 0x01 p d a b 0xd]
  | .max _ p d a b => [encR 0x01 p d a b 0xe]
  | .minu _ p d a b => [encR 0x01 p d a b 0xf]
  | .maxu _ p d a b => [encR 0x01 p d a b 0x10]
  | .div _ p d a b => [encR 0x01 p d a b 0x11]
  | .divu _ p d a b => [encR 0x01 p d a b 0x12]
  | .rem _ p d a b => [encR 0x01 p d a b 0x13]
  | .remu _ p d a b => [encR 0x01 p d a b 0x14]
  | .abs _ p d a => [encR 0x01 p d a 0 0x15]
  | .clz _ p d a => [encR 0x01 p d a 0 0x16]
  | .addi _ p d a imm => [encI 0x02 p d a imm.toNat]
  | .andi _ p d a imm => [encI 0x03 p d a imm.toNat]
  | .ori _ p d a imm => [encI 0x04 p d a imm.toNat]
  | .xori _ p d a imm => [encI 0x05 p d a imm.toNat]
  | .shiShl _ p d a n => [encI 0x06 p d a (0x0 + n)]
  | .shiShr _ p d a n => [encI 0x06 p d a (0x20 + n)]
  | .shiSra _ p d a n => [encI 0x06 p d a (0x40 + n)]
  | .add64 _ p d a b => [encR 0x07 p d a b 0x0]
  | .sub64 _ p d a b => [encR 0x07 p d a b 0x1]
  | .mull _ p d a b => [encR 0x07 p d a b 0x2]
  | .mullu _ p d a b => [encR 0x07 p d a b 0x3]
  | .adds64 _ p d a b => [encR 0x07 p d a b 0x4]
  | .fadd _ p d a b => [encR 0x08 p d a b 0x0]
  | .fsub _ p d a b => [encR 0x08 p d a b 0x1]
  | .fmul _ p d a b => [encR 0x08 p d a b 0x2]
  | .fdiv _ p d a b => [encR 0x08 p d a b 0x3]
  | .fsqrt _ p d a => [encR 0x08 p d a 0 0x4]
  | .fmin _ p d a b => [encR 0x08 p d a b 0x5]
  | .fmax _ p d a b => [encR 0x08 p d a b 0x6]
  | .fabs _ p d a => [encR 0x08 p d a 0 0x7]
  | .fneg _ p d a => [encR 0x08 p d a 0 0x8]
  | .fmac _ p d a b => [encR 0x08 p d a b 0x9]
  | .fcvtsw _ p d a => [encR 0x08 p d a 0 0xa]
  | .fcvtws _ p d a => [encR 0x08 p d a 0 0xb]
  | .fcvtsq _ p d a => [encR 0x08 p d a 0 0xc]
  | .fcvtqs _ p d a => [encR 0x08 p d a 0 0xd]
  | .fatan2 _ p d a b => [encR 0x08 p d a b 0xe]
  | .fhypot _ p d a b => [encR 0x08 p d a b 0xf]
  | .qadd _ p d a b => [encR 0x09 p d a b 0x0]
  | .qsub _ p d a b => [encR 0x09 p d a b 0x1]
  | .qmul _ p d a b => [encR 0x09 p d a b 0x2]
  | .qmac _ p d a b => [encR 0x09 p d a b 0x3]
  | .qabs _ p d a => [encR 0x09 p d a 0 0x4]
  | .qneg _ p d a => [encR 0x09 p d a 0 0x5]
  | .qshl _ p d a b => [encR 0x09 p d a b 0x6]
  | .qshr _ p d a b => [encR 0x09 p d a b 0x7]
  | .ceq _ p d a b => [encR 0x0A p d a b 0x0]
  | .cne _ p d a b => [encR 0x0A p d a b 0x1]
  | .clt _ p d a b => [encR 0x0A p d a b 0x2]
  | .cge _ p d a b => [encR 0x0A p d a b 0x3]
  | .cltu _ p d a b => [encR 0x0A p d a b 0x4]
  | .cgeu _ p d a b => [encR 0x0A p d a b 0x5]
  | .ctst _ p d a b => [encR 0x0A p d a b 0x6]
  | .ctstn _ p d a b => [encR 0x0A p d a b 0x7]
  | .feq _ p d a b => [encR 0x0A p d a b 0x8]
  | .flt _ p d a b => [encR 0x0A p d a b 0x9]
  | .fle _ p d a b => [encR 0x0A p d a b 0xa]
  | .funord _ p d a b => [encR 0x0A p d a b 0xb]
  | .pand _ p d a b => [encR 0x0B p d a b 0x0]
  | .por _ p d a b => [encR 0x0B p d a b 0x1]
  | .pxor _ p d a b => [encR 0x0B p d a b 0x2]
  | .pandn _ p d a b => [encR 0x0B p d a b 0x3]
  | .pnot _ p d a => [encR 0x0B p d a 0 0x4]
  | .ptos _ p d a => [encR 0x0C p d a 0 0x0]
  | .stop _ p d a => [encR 0x0C p d a 0 0x1]
  | .pset _ p d a => [encR 0x0C p d a 0 0x2]
  | .ldw _ p d a imm => [encI 0x10 p d a imm.toNat]
  | .ldh _ p d a imm => [encI 0x11 p d a imm.toNat]
  | .ldhu _ p d a imm => [encI 0x12 p d a imm.toNat]
  | .ldb _ p d a imm => [encI 0x13 p d a imm.toNat]
  | .ldbu _ p d a imm => [encI 0x14 p d a imm.toNat]
  | .ldd _ p d a imm => [encI 0x15 p d a imm.toNat]
  | .stw _ p d a imm => [encI 0x16 p d a imm.toNat]
  | .sth _ p d a imm => [encI 0x17 p d a imm.toNat]
  | .stb _ p d a imm => [encI 0x18 p d a imm.toNat]
  | .std _ p d a imm => [encI 0x19 p d a imm.toNat]
  | .ldg _ p d a imm => [encI 0x1a p d a imm.toNat]
  | .stg _ p d a imm => [encI 0x1b p d a imm.toNat]
  | .ldwi _ p d a imm => [encI 0x1c p d a imm.toNat]
  | .stwi _ p d a imm => [encI 0x1d p d a imm.toNat]
  | .ldgi _ p d a imm => [encI 0x1e p d a imm.toNat]
  | .stgi _ p d a imm => [encI 0x1f p d a imm.toNat]
  | .vld _ p d a imm => [encI 0x20 p d a imm.toNat]
  | .vst _ p d a imm => [encI 0x21 p d a imm.toNat]
  | .vadd _ p d a b => [encR 0x22 p d a b 0x0]
  | .vsub _ p d a b => [encR 0x22 p d a b 0x1]
  | .vand _ p d a b => [encR 0x22 p d a b 0x2]
  | .vor _ p d a b => [encR 0x22 p d a b 0x3]
  | .vxor _ p d a b => [encR 0x22 p d a b 0x4]
  | .vshl _ p d a b => [encR 0x22 p d a b 0x5]
  | .vshr _ p d a b => [encR 0x22 p d a b 0x6]
  | .vsra _ p d a b => [encR 0x22 p d a b 0x7]
  | .vmul _ p d a b => [encR 0x22 p d a b 0x8]
  | .vmulh _ p d a b => [encR 0x22 p d a b 0x9]
  | .vmulhu _ p d a b => [encR 0x22 p d a b 0xa]
  | .vadds _ p d a b => [encR 0x22 p d a b 0xb]
  | .vsubs _ p d a b => [encR 0x22 p d a b 0xc]
  | .vmin _ p d a b => [encR 0x22 p d a b 0xd]
  | .vmax _ p d a b => [encR 0x22 p d a b 0xe]
  | .vminu _ p d a b => [encR 0x22 p d a b 0xf]
  | .vmaxu _ p d a b => [encR 0x22 p d a b 0x10]
  | .vfadd _ p d a b => [encR 0x22 p d a b 0x20]
  | .vfsub _ p d a b => [encR 0x22 p d a b 0x21]
  | .vfmul _ p d a b => [encR 0x22 p d a b 0x22]
  | .vfdiv _ p d a b => [encR 0x22 p d a b 0x23]
  | .vfsqrt _ p d a => [encR 0x22 p d a 0 0x24]
  | .vfmin _ p d a b => [encR 0x22 p d a b 0x25]
  | .vfmax _ p d a b => [encR 0x22 p d a b 0x26]
  | .vfabs _ p d a => [encR 0x22 p d a 0 0x27]
  | .vfneg _ p d a => [encR 0x22 p d a 0 0x28]
  | .vfmac _ p d a b => [encR 0x22 p d a b 0x29]
  | .vfcvtsw _ p d a => [encR 0x22 p d a 0 0x2a]
  | .vfcvtws _ p d a => [encR 0x22 p d a 0 0x2b]
  | .vfcvtsq _ p d a => [encR 0x22 p d a 0 0x2c]
  | .vfcvtqs _ p d a => [encR 0x22 p d a 0 0x2d]
  | .vfatan2 _ p d a b => [encR 0x22 p d a b 0x2e]
  | .vfhypot _ p d a b => [encR 0x22 p d a b 0x2f]
  | .vqadd _ p d a b => [encR 0x22 p d a b 0x30]
  | .vqsub _ p d a b => [encR 0x22 p d a b 0x31]
  | .vqmul _ p d a b => [encR 0x22 p d a b 0x32]
  | .vqmac _ p d a b => [encR 0x22 p d a b 0x33]
  | .vqabs _ p d a => [encR 0x22 p d a 0 0x34]
  | .vqneg _ p d a => [encR 0x22 p d a 0 0x35]
  | .vqshl _ p d a b => [encR 0x22 p d a b 0x36]
  | .vqshr _ p d a b => [encR 0x22 p d a b 0x37]
  | .vceq _ p d a b => [encR 0x23 p d a b 0x0]
  | .vcne _ p d a b => [encR 0x23 p d a b 0x1]
  | .vclt _ p d a b => [encR 0x23 p d a b 0x2]
  | .vcge _ p d a b => [encR 0x23 p d a b 0x3]
  | .vcltu _ p d a b => [encR 0x23 p d a b 0x4]
  | .vcgeu _ p d a b => [encR 0x23 p d a b 0x5]
  | .vctst _ p d a b => [encR 0x23 p d a b 0x6]
  | .vctstn _ p d a b => [encR 0x23 p d a b 0x7]
  | .vfeq _ p d a b => [encR 0x23 p d a b 0x8]
  | .vflt _ p d a b => [encR 0x23 p d a b 0x9]
  | .vfle _ p d a b => [encR 0x23 p d a b 0xa]
  | .vfun _ p d a b => [encR 0x23 p d a b 0xb]
  | .vbc _ p d a => [encR 0x24 p d a 0 0x0]
  | .vext _ p d a n => [encR 0x24 p d a n 0x1]
  | .vins _ p d a n => [encR 0x24 p d a n 0x2]
  | .vmov _ p d a => [encR 0x24 p d a 0 0x3]
  | .vsumi _ p d a => [encR 0x24 p d a 0 0x4]
  | .vsumq _ p d a => [encR 0x24 p d a 0 0x5]
  | .vsumf _ p d a => [encR 0x24 p d a 0 0x6]
  | .vmaxf _ p d a => [encR 0x24 p d a 0 0x7]
  | .ldsmp _ p d a age => [encI 0x28 p d a age]
  | .ldsmpa _ p d a b => [encR 0x25 p d a b 0x0]
  | .vldsmp _ p d a age => [encI 0x2B p d a age]
  | .ldph _ p d a pt age => [encI 0x29 p d a (pt * 0x400 + age)]
  | .ldpha _ p d a b pt => [encR 0x26 p d a b pt]
  | .ldgr _ p d a pt age => [encI 0x2A p d a (pt * 0x400 + age)]
  | .ldgra _ p d a b pt => [encR 0x27 p d a b pt]
  | .tmrTon _ p d a b ofs => [encR 0x2C p d a b (0x0 + ofs)]
  | .tmrTof _ p d a b ofs => [encR 0x2C p d a b (0x40 + ofs)]
  | .tmrTp _ p d a b ofs => [encR 0x2C p d a b (0x80 + ofs)]
  | .edgeRising _ p d a ofs => [encR 0x2D p d a 0 (0x0 + ofs)]
  | .edgeFalling _ p d a ofs => [encR 0x2D p d a 0 (0x40 + ofs)]
  | .edgeEither _ p d a ofs => [encR 0x2D p d a 0 (0x80 + ofs)]
  | .opf _ p d a imm => [encI 0x2E p d a imm.toNat]
  | .br _ p n ofs => [encP 0x30 p (n.toNat * 0x400000 + ofs.toNat)]
  | .jr _ p a => [encR 0x31 p 0 a 0 0x0]
  | .fcall _ p a imm => [encI 0x32 p 0 a imm.toNat]
  | .fret _ p => [encP 0x33 p 0]
  | .rdsr _ p d n => [encI 0x34 p d 0 n]
  | .wrsr _ p a n => [encI 0x35 p 0 a n]
  | .tend _ p => [encR 0x36 p 0 0 0 0x0]
  | .fence _ p => [encR 0x36 p 0 0 0 0x1]
  | .evsig _ p e => [encR 0x36 p 0 0 e 0x2]
  | .npost _ p a cls code => [encI 0x37 p 0 a (cls * 0x800 + code.toNat)]
  | .li _ p d imm => [encR 0x3F p d 0 0 0x1, imm]
  | .addx _ p d a imm => [encR 0x3F p d a 0 0x2, imm]
  | .ldwx _ p d a imm => [encR 0x3F p d a 0 0x3, imm]
  | .stwx _ p d a imm => [encR 0x3F p d a 0 0x4, imm]
  | .vbci _ p d imm => [encR 0x3F p d 0 0 0x5, imm]
  | .undefinedEncoding _ w => [w]
  | _ => []

/-- The bits of its first word that an instruction fixes: a reduction has no operand B, and B is not reserved (R357). -/
def sarbMask : Instr → Word
  | .vsumi _ _ _ _ => 0xFFFFE0FF#32
  | .vsumq _ _ _ _ => 0xFFFFE0FF#32
  | .vsumf _ _ _ _ => 0xFFFFE0FF#32
  | .vmaxf _ _ _ _ => 0xFFFFE0FF#32
  | _ => 0xFFFFFFFF#32

/-- Word `n` of an instruction is `w`. -/
def spells (i : Instr) (n : Nat) (w : Word) : Bool :=
  (sarbWords i)[n]? == some (if n = 0 then w &&& sarbMask i else w)

end Sys2Proof
end

