-- ==== Sys2Proof/Config.lean ====
section
/-! DEFINITION. What the spec leaves open: every value here is a constant without a body, so that no proof can see what it
is. A value a rule leaves open is one of these constants applied to what the rule computes it from; a value that is fresh
each time it is needed is `Config.draw` applied to the state's draw counter. -/

namespace Sys2Proof.Config

/-- The error of FATAN2, in units in the last place; the machine takes it within −2 and 2 (R348). -/
opaque fatan2Err : Word → Word → Int
/-- The error of FHYPOT, in units in the last place; the machine takes it within −1 and 1 (R348). -/
opaque fhypotErr : Word → Word → Int
/-- FMAC of zero times infinity with a quiet NaN addend: whether INV is set (IEEE 754 leaves it to the implementation). -/
opaque fmacNanInv : Bool
/-- The draw number `n` of the random source. -/
opaque draw : Nat → Word
/-- A byte string the spec's cryptographic functions give (an algorithm's number, its inputs, the byte's index). -/
opaque crypt : Nat → List Byte → Nat → Byte
/-- Whether a signature or an authentication tag verifies (an algorithm's number, key and message, signature). -/
opaque verifies : Nat → List Byte → List Byte → Bool
/-- The offset TIME's servo predicts for the next Sync, in 1/256 ns: from the offsets measured before, newest first, and the
time since the last (R167). -/
opaque servoPredict : List Int → Nat → Int
/-- The rate of a domain against the LTC that the servo reports, in ppb, from the same (R168). -/
opaque servoRate : List Int → Nat → Int
/-- How far the tracking servo pulls the LTC in so many ns with this distance to the lodestar, in 1/256 ns; the machine bounds it by
the pull of a slew (R171). -/
opaque servoPull : Nat → Nat → Nat

/-- Whether a quotient that is not whole is rounded up (R272: the 48-bit arithmetic's rounding is not stated). -/
opaque roundUp : Int → Nat → Bool
/-- A result outside the 48-bit format (R272: what then happens is not stated). -/
opaque fixOut : Int → BitVec 48
/-- The error of a phasor's part or a bin's before its rounding to FP32, in units of 2⁻³² of the value; the machine bounds it. -/
opaque fpErr : Int → Nat → Int
/-- Tap `i` of phase `p` of the stage 1 set, in units of 2⁻³⁰ (R269, R271); the machine takes a set that meets R294. -/
opaque polyTap : Nat → Nat → Int
/-- Tap at odd distance `i` from the centre of a half-band, in units of 2⁻³⁰ (R271). -/
opaque halfTap : Nat → Int
/-- Tap `t` of the 3:1 filter of the default image, as a Q1.30 word (R271, R280); the machine takes a set that meets R294. -/
opaque romTap : Nat → Word

/-- The device serial number, 16 bytes (R101). -/
opaque serial : Nat → Byte
/-- The hash of the Glante provisioning key that the boot ROM holds, 32 bytes (R109). -/
opaque provKeyHash : Nat → Byte

end Sys2Proof.Config
end

