-- ==== Sys2Proof/Machine/Bits.lean ====
section
/-! DEFINITION. Bit fields, saturating counts, guarded pairs, and the sparse table every array of the machine is held in:
a list of numbered entries in rising order that lists no entry equal to the table's default. -/

namespace Sys2Proof.Machine

/-- Bits `hi..lo` of a word, as a number. -/
def fld (w : Word) (hi lo : Nat) : Nat := (w.toNat >>> lo) % 2 ^ (hi + 1 - lo)

/-- Bit `i` of a word. -/
def bit (w : Word) (i : Nat) : Bool := w.getLsbD i

/-- The word whose value is `n`. -/
def word (n : Nat) : Word := BitVec.ofNat 32 n

/-- A truth value at bit `i`. -/
def b2n (b : Bool) (i : Nat) : Nat := if b then 2 ^ i else 0

/-- `v` placed in bits `hi..lo` of a word, the other bits of `w` kept. -/
def setFld (w : Word) (hi lo v : Nat) : Word :=
  let m : Word := word ((2 ^ (hi + 1 - lo) - 1) <<< lo)
  (w &&& ~~~m) ||| (word (v <<< lo) &&& m)

/-- A count that stops at `max`. -/
def satAdd (max a b : Nat) : Nat := min max (a + b)

/-- A field of a word that counts up to its largest value and stops there. -/
def bumpFld (w : Word) (hi lo : Nat) (by_ : Nat) : Word :=
  setFld w hi lo (satAdd (2 ^ (hi + 1 - lo) - 1) (fld w hi lo) by_)

/-- The two halves of a guarded word agree (R17). -/
def guardOk (v c : Word) : Bool := c == ~~~v

/-- The guarded word of a value (R17). -/
def guarded (v : Word) : DWord := (~~~v) ++ v

/-- A guarded word passes its check (R17). -/
def guardedOk (g : DWord) : Bool := guardOk (g.setWidth 32) ((g >>> 32).setWidth 32)

/-- The value of a guarded word. -/
def guardedVal (g : DWord) : Word := g.setWidth 32

/-! ### Sparse tables -/

/-- The entry at `k`, or the default. -/
def mget {α : Type} (d : α) : List (Nat × α) → Nat → α
  | [], _ => d
  | (k', v) :: t, k => if k' = k then v else mget d t k

/-- The table without an entry at `k`. -/
def mdel {α : Type} : List (Nat × α) → Nat → List (Nat × α)
  | [], _ => []
  | (k', v) :: t, k => if k' = k then mdel t k else (k', v) :: mdel t k

/-- Insertion before the first larger number. -/
def mins {α : Type} (k : Nat) (v : α) : List (Nat × α) → List (Nat × α)
  | [] => [(k, v)]
  | (k', v') :: t => if k < k' then (k, v) :: (k', v') :: t else (k', v') :: mins k v t

/-- The table with `v` at `k`; a default is not listed. -/
def mset {α : Type} [DecidableEq α] (d : α) (m : List (Nat × α)) (k : Nat) (v : α) : List (Nat × α) :=
  if v = d then mdel m k else mins k v (mdel m k)

/-- The entry at `k` changed by `f`. -/
def mmod {α : Type} [DecidableEq α] (d : α) (m : List (Nat × α)) (k : Nat) (f : α → α) : List (Nat × α) :=
  mset d m k (f (mget d m k))

/-- The canonical form: numbers strictly rising, no entry equal to the default. -/
def mwf {α : Type} [DecidableEq α] (d : α) : List (Nat × α) → Bool
  | [] => true
  | [(_, v)] => decide (v ≠ d)
  | (k, v) :: (k', v') :: t => decide (v ≠ d) && decide (k < k') && mwf d ((k', v') :: t)

/-- The entries whose number is in `lo ≤ k < hi`, dropped. -/
def mdrop {α : Type} (m : List (Nat × α)) (lo hi : Nat) : List (Nat × α) :=
  m.filter fun e => decide (e.1 < lo) || decide (hi ≤ e.1)

/-- The entries whose number is in `lo ≤ k < hi`. -/
def mtake {α : Type} (m : List (Nat × α)) (lo hi : Nat) : List (Nat × α) :=
  m.filter fun e => decide (lo ≤ e.1) && decide (e.1 < hi)

/-- `f` on every number `0 .. n-1`, in order. -/
def upto {σ : Type} (n : Nat) (s : σ) (f : Nat → σ → σ) : σ :=
  (List.range n).foldl (fun s i => f i s) s

/-- `f` on every number of the list, in order. -/
def each {σ β : Type} (l : List β) (s : σ) (f : β → σ → σ) : σ :=
  l.foldl (fun s i => f i s) s

end Sys2Proof.Machine
end

