-- ==== Sys2Proof/Machine/Regs.lean ====
section
/-! DEFINITION. The register map of the 25 blocks: every register the spec's register tables list, with its offset, the
number of instances and their stride, its access class (R12), the bits of its configuration fields, its write-1-to-clear
bits and its reset value. The last part names each address. The rows follow the register tables of R53, R54, R89, R139,
R161, R196, R228, R263, R264, R300, R336, R412, R449-R451, R474, R506, R507, R531, R565 and R579. -/

namespace Sys2Proof.Machine

/-- The access types of R12. A register of several classes (the manual's "Mixed") has its RW bits in `cfg` and its W1C bits
in `w1c` and stands as `rw`. -/
inductive RegClass where
  | ro | rw | w1c | wo | rc | rs | st
  deriving DecidableEq, Repr

/-- One row of a block's register map. -/
structure RegRow where
  name : String
  off : Nat
  count : Nat
  stride : Nat
  cls : RegClass
  cfg : Nat
  w1c : Nat
  rst : Nat
  deriving DecidableEq, Repr

/-- Registers of SYS. -/
def rowsSys : List RegRow := [
  ⟨"SYS_ID", 0x0, 1, 0x0, .ro, 0x0, 0x0, 0x4C440007⟩,
  ⟨"SYS_REV", 0x4, 1, 0x0, .ro, 0x0, 0x0, 0x2⟩,
  ⟨"SYS_CLK_STAT", 0x10, 1, 0x0, .ro, 0x0, 0x0, 0x0⟩,
  ⟨"SYS_CLK_EVT", 0x14, 1, 0x0, .w1c, 0x0, 0x3, 0x0⟩,
  ⟨"SYS_RST_CAUSE", 0x20, 1, 0x0, .ro, 0x0, 0x0, 0x0⟩,
  ⟨"SYS_RST_REQ", 0x24, 1, 0x0, .wo, 0x0, 0x0, 0x0⟩,
  ⟨"SYS_SLOT", 0x28, 1, 0x0, .ro, 0x0, 0x0, 0x0⟩]

/-- Registers of TRUST. -/
def rowsTrust : List RegRow := [
  ⟨"TRUST_LC_STAT", 0x0, 1, 0x0, .ro, 0x0, 0x0, 0x0⟩,
  ⟨"TRUST_BOOT_STAT", 0x10, 1, 0x0, .ro, 0x0, 0x0, 0x0⟩,
  ⟨"TRUST_CMD", 0x20, 1, 0x0, .wo, 0x0, 0x0, 0x0⟩,
  ⟨"TRUST_CMD_STAT", 0x24, 1, 0x0, .ro, 0x0, 0x0, 0x0⟩,
  ⟨"TRUST_EVT", 0x28, 1, 0x0, .w1c, 0x0, 0x1F, 0x0⟩,
  ⟨"TRUST_INT_EN", 0x2C, 1, 0x0, .rw, 0x1F, 0x0, 0x0⟩,
  ⟨"TRUST_ARG", 0x30, 4, 0x4, .rw, 0xFFFFFFFF, 0x0, 0x0⟩,
  ⟨"TRUST_KEY_SEL", 0x40, 1, 0x0, .rw, 0xFF, 0x0, 0x0⟩,
  ⟨"TRUST_KEYREG_STAT", 0x44, 1, 0x0, .ro, 0x0, 0x0, 0x0⟩,
  ⟨"TRUST_KS_ATTR", 0x48, 1, 0x0, .ro, 0x0, 0x0, 0x0⟩,
  ⟨"TRUST_KS_KEYID", 0x4C, 1, 0x0, .ro, 0x0, 0x0, 0x0⟩,
  ⟨"TRUST_WIPE_STAT", 0x50, 1, 0x0, .ro, 0x0, 0x0, 0x0⟩,
  ⟨"TRUST_FUSE_KEYS", 0x54, 1, 0x0, .ro, 0x0, 0x0, 0x0⟩,
  ⟨"TRUST_WDOG_CFG", 0x58, 1, 0x0, .ro, 0x0, 0x0, 0x4E20⟩,
  ⟨"TRUST_WDOG_KICK", 0x5C, 1, 0x0, .wo, 0x0, 0x0, 0x0⟩,
  ⟨"TRUST_DIGEST", 0x60, 8, 0x4, .ro, 0x0, 0x0, 0x0⟩]

/-- Registers of PART, part 1. -/
def rowsPart1 : List RegRow := [
  ⟨"PART_MODE", 0x0, 1, 0x0, .rs, 0x1, 0x0, 0x0⟩,
  ⟨"PART_EN", 0x4, 1, 0x0, .rs, 0xFFFFFFFF, 0x0, 0x0⟩,
  ⟨"PART_RUN", 0x8, 1, 0x0, .ro, 0x0, 0x0, 0x0⟩,
  ⟨"PART_WORLD", 0x10, 1, 0x0, .rs, 0x1FFFFFF, 0x0, 0x1FFFFFF⟩,
  ⟨"PART_HART_CTX", 0x20, 8, 0x4, .rw, 0x3F, 0x0, 0x0⟩,
  ⟨"PART_EVT", 0x40, 1, 0x0, .w1c, 0x0, 0x7, 0x0⟩,
  ⟨"PART_INT_EN", 0x44, 1, 0x0, .rw, 0x7, 0x0, 0x0⟩,
  ⟨"PART_AV_INFO", 0x50, 1, 0x0, .ro, 0x0, 0x0, 0x0⟩,
  ⟨"PART_AV_ADDR_LO", 0x54, 1, 0x0, .ro, 0x0, 0x0, 0x0⟩,
  ⟨"PART_AV_ADDR_HI", 0x58, 1, 0x0, .ro, 0x0, 0x0, 0x0⟩,
  ⟨"PART_AV_COUNT", 0x5C, 1, 0x0, .rc, 0x0, 0x0, 0x0⟩,
  ⟨"PART_HANDOVER_LO", 0x60, 1, 0x0, .ro, 0x0, 0x0, 0x0⟩,
  ⟨"PART_HANDOVER_HI", 0x64, 1, 0x0, .ro, 0x0, 0x0, 0x0⟩,
  ⟨"PART_MED_CMD", 0x400, 1, 0x0, .wo, 0x0, 0x0, 0x0⟩,
  ⟨"PART_MED_ARG", 0x404, 1, 0x0, .rw, 0xFFFFFFFF, 0x0, 0x0⟩,
  ⟨"PART_MED_STAT", 0x408, 1, 0x0, .ro, 0x0, 0x0, 0x0⟩,
  ⟨"SLC_CORES", 0x100, 8, 0x40, .rs, 0xFFFFFFFF, 0x0, 0x0⟩,
  ⟨"SLC_CTX", 0x104, 8, 0x40, .rs, 0xFFFFFFFF, 0x0, 0x0⟩,
  ⟨"SLC_GRP", 0x108, 8, 0x40, .rs, 0xFFFFFFFF, 0x0, 0x0⟩,
  ⟨"SLC_TASK", 0x10C, 8, 0x40, .rs, 0xFFFFFFFF, 0x0, 0x0⟩,
  ⟨"SLC_GPUB", 0x110, 8, 0x40, .rs, 0xFFFFFFFF, 0x0, 0x0⟩,
  ⟨"SLC_GSUB", 0x114, 8, 0x40, .rs, 0xFFFFFFFF, 0x0, 0x0⟩,
  ⟨"SLC_SVP", 0x118, 8, 0x40, .rs, 0xFFFFFFFF, 0x0, 0x0⟩,
  ⟨"SLC_FLAGPG", 0x120, 8, 0x40, .rs, 0xFFFFFFFF, 0x0, 0x0⟩]

/-- Registers of PART, part 2. -/
def rowsPart2 : List RegRow := [
  ⟨"SLC_FLAGPG_C", 0x124, 8, 0x40, .rs, 0xFFFFFFFF, 0x0, 0xFFFFFFFF⟩,
  ⟨"SLC_LANES", 0x128, 8, 0x40, .rs, 0xFFFFFFFF, 0x0, 0x0⟩,
  ⟨"SLC_LANES_C", 0x12C, 8, 0x40, .rs, 0xFFFFFFFF, 0x0, 0xFFFFFFFF⟩,
  ⟨"REG_BASE_LO", 0x1000, 64, 0x20, .rs, 0xFFFFF000, 0x0, 0x0⟩,
  ⟨"REG_BASE_HI", 0x1004, 64, 0x20, .rs, 0x7, 0x0, 0x0⟩,
  ⟨"REG_SIZE", 0x1008, 64, 0x20, .rs, 0x7FFFFF, 0x0, 0x0⟩,
  ⟨"REG_ATTR", 0x100C, 64, 0x20, .rs, 0x117, 0x0, 0x0⟩,
  ⟨"REG_PIDMASK", 0x1010, 64, 0x20, .rs, 0xFFFFFFFF, 0x0, 0x0⟩,
  ⟨"HNQ_POP", 0x8000, 32, 0x20, .rc, 0x0, 0x0, 0x0⟩,
  ⟨"HNQ_POP_TAG", 0x8004, 32, 0x20, .rc, 0x0, 0x0, 0x0⟩,
  ⟨"HNQ_STAT", 0x8008, 32, 0x20, .ro, 0x0, 0x0, 0x0⟩,
  ⟨"HNQ_EVT", 0x800C, 32, 0x20, .w1c, 0x0, 0x7, 0x0⟩,
  ⟨"HNQ_LOST", 0x8010, 32, 0x20, .rc, 0x0, 0x0, 0x0⟩,
  ⟨"HNQ_CFG", 0x8014, 32, 0x20, .rw, 0xF, 0x0, 0xF⟩]

/-- Registers of PART. -/
def rowsPart : List RegRow := rowsPart1 ++ rowsPart2

/-- Registers of TIME, part 1. -/
def rowsTime1 : List RegRow := [
  ⟨"TIME_CFG", 0x0, 1, 0x0, .rs, 0xFFFFFFF8, 0x0, 0x50514F0⟩,
  ⟨"TIME_FAR_TH", 0x4, 1, 0x0, .rs, 0xFFFFF, 0x0, 0x3E8⟩,
  ⟨"TIME_CTRL", 0x8, 1, 0x0, .wo, 0x0, 0x0, 0x0⟩,
  ⟨"TIME_STAT", 0xC, 1, 0x0, .ro, 0x0, 0x0, 0x7⟩,
  ⟨"TIME_EVT", 0x10, 1, 0x0, .w1c, 0x0, 0xFF, 0x0⟩,
  ⟨"TIME_INT_EN", 0x14, 1, 0x0, .rw, 0xFF, 0x0, 0x0⟩,
  ⟨"TIME_NOTIFY", 0x18, 1, 0x0, .rs, 0xFFFFFFFF, 0x0, 0x0⟩,
  ⟨"TIME_NOW_NS", 0x20, 1, 0x0, .ro, 0x0, 0x0, 0x0⟩,
  ⟨"TIME_NOW_SEC_LO", 0x24, 1, 0x0, .ro, 0x0, 0x0, 0x0⟩,
  ⟨"TIME_NOW_SEC_HI", 0x28, 1, 0x0, .ro, 0x0, 0x0, 0x0⟩,
  ⟨"TIME_UTC", 0x2C, 1, 0x0, .rs, 0xFFFF, 0x0, 0x25⟩,
  ⟨"TIME_UTC_NOW", 0x30, 1, 0x0, .ro, 0x0, 0x0, 0x25⟩,
  ⟨"TIME_TICK_CFG", 0x40, 1, 0x0, .st, 0x1, 0x0, 0x0⟩,
  ⟨"TIME_TICK_CTRL", 0x44, 1, 0x0, .rw, 0x1, 0x0, 0x0⟩,
  ⟨"TIME_TICK_NOW", 0x48, 1, 0x0, .ro, 0x0, 0x0, 0x0⟩,
  ⟨"TIME_IRIG_CFG", 0x80, 1, 0x0, .rs, 0xFF03FFFF, 0x0, 0x0⟩,
  ⟨"TIME_IRIG_STAT", 0x84, 1, 0x0, .ro, 0x0, 0x0, 0x0⟩,
  ⟨"TIME_IRIG_CNT", 0x88, 1, 0x0, .rc, 0x0, 0x0, 0x0⟩,
  ⟨"TIME_PPS_CFG", 0x90, 1, 0x0, .rs, 0x1FFFF, 0x0, 0x3E8⟩,
  ⟨"TIME_PPS_SEC", 0x94, 1, 0x0, .rs, 0xFFFFFFFF, 0x0, 0x0⟩,
  ⟨"TIME_PPS_STAT", 0x98, 1, 0x0, .ro, 0x0, 0x0, 0x0⟩,
  ⟨"DOM_CFG0", 0x100, 1, 0x0, .st, 0xFFFF03FF, 0x0, 0x70000⟩,
  ⟨"DOM_CFG1", 0x140, 1, 0x0, .st, 0xFFFF03FF, 0x0, 0x703FE⟩,
  ⟨"DOM_CTRL", 0x104, 2, 0x40, .rw, 0x1, 0x0, 0x0⟩]

/-- Registers of TIME, part 2. -/
def rowsTime2 : List RegRow := [
  ⟨"DOM_STAT", 0x108, 2, 0x40, .ro, 0x0, 0x0, 0x0⟩,
  ⟨"DOM_OFFSET", 0x10C, 2, 0x40, .ro, 0x0, 0x0, 0x0⟩,
  ⟨"DOM_RATE", 0x110, 2, 0x40, .ro, 0x0, 0x0, 0x0⟩,
  ⟨"DOM_GM_ID_LO", 0x114, 2, 0x40, .ro, 0x0, 0x0, 0x0⟩,
  ⟨"DOM_GM_ID_HI", 0x118, 2, 0x40, .ro, 0x0, 0x0, 0x0⟩,
  ⟨"DOM_TTI", 0x11C, 2, 0x40, .ro, 0x0, 0x0, 0xFFFFFFFF⟩,
  ⟨"DOM_UTC", 0x120, 2, 0x40, .ro, 0x0, 0x0, 0x0⟩,
  ⟨"DOM_CNT", 0x124, 2, 0x40, .rc, 0x0, 0x0, 0x0⟩,
  ⟨"TSP_RX_COMP", 0x200, 4, 0x40, .rs, 0xFFFFFFFF, 0x0, 0x0⟩,
  ⟨"TSP_TX_COMP", 0x204, 4, 0x40, .rs, 0xFFFFFFFF, 0x0, 0x0⟩,
  ⟨"TSP_ASYM", 0x208, 4, 0x40, .rs, 0xFFFFFFFF, 0x0, 0x0⟩,
  ⟨"TSP_PDELAY", 0x20C, 4, 0x40, .ro, 0x0, 0x0, 0x0⟩,
  ⟨"TXQ_POP0", 0x210, 4, 0x40, .rc, 0x0, 0x0, 0x0⟩,
  ⟨"TXQ_POP1", 0x214, 4, 0x40, .ro, 0x0, 0x0, 0x0⟩,
  ⟨"TXQ_POP2", 0x218, 4, 0x40, .ro, 0x0, 0x0, 0x0⟩,
  ⟨"TXQ_POP3", 0x21C, 4, 0x40, .ro, 0x0, 0x0, 0x0⟩,
  ⟨"TXQ_STAT", 0x220, 4, 0x40, .ro, 0x0, 0x0, 0x0⟩,
  ⟨"TXQ_EVT", 0x224, 4, 0x40, .w1c, 0x0, 0x1F, 0x0⟩,
  ⟨"TXQ_WM", 0x228, 4, 0x40, .rs, 0x7F007F, 0x0, 0x300010⟩,
  ⟨"TXQ_CNT", 0x22C, 4, 0x40, .rc, 0x0, 0x0, 0x0⟩,
  ⟨"TXQ_CTRL", 0x230, 4, 0x40, .wo, 0x0, 0x0, 0x0⟩,
  ⟨"TSP_PTP_CNT", 0x234, 4, 0x40, .rc, 0x0, 0x0, 0x0⟩,
  ⟨"BI_STATE", 0x400, 1, 0x0, .ro, 0x0, 0x0, 0x0⟩,
  ⟨"BI_EDGE_EN", 0x404, 1, 0x0, .rs, 0xFFFFFFFF, 0x0, 0x0⟩]

/-- Registers of TIME, part 3. -/
def rowsTime3 : List RegRow := [
  ⟨"BI_MIRROR", 0x408, 1, 0x0, .rs, 0xFFFFFFFD, 0x0, 0x0⟩,
  ⟨"BI_FILTER", 0x410, 4, 0x4, .rs, 0xFFFFFFFF, 0x0, 0x0⟩,
  ⟨"BIQ_POP0", 0x420, 1, 0x0, .rc, 0x0, 0x0, 0x0⟩,
  ⟨"BIQ_POP1", 0x424, 1, 0x0, .ro, 0x0, 0x0, 0x0⟩,
  ⟨"BIQ_POP2", 0x428, 1, 0x0, .ro, 0x0, 0x0, 0x0⟩,
  ⟨"BIQ_STAT", 0x430, 1, 0x0, .ro, 0x0, 0x0, 0x0⟩,
  ⟨"BIQ_EVT", 0x434, 1, 0x0, .w1c, 0x0, 0x1F, 0x0⟩,
  ⟨"BIQ_WM", 0x438, 1, 0x0, .rs, 0x1FF01FF, 0x0, 0xC00040⟩,
  ⟨"BIQ_CNT", 0x43C, 1, 0x0, .rc, 0x0, 0x0, 0x0⟩,
  ⟨"BIQ_CTRL", 0x440, 1, 0x0, .wo, 0x0, 0x0, 0x0⟩]

/-- Registers of TIME. -/
def rowsTime : List RegRow := rowsTime1 ++ rowsTime2 ++ rowsTime3

/-- Registers of MAC, part 1. -/
def rowsMac1 : List RegRow := [
  ⟨"MAC_CFG", 0x0, 1, 0x0, .st, 0xF30107FF, 0x0, 0x20005F8⟩,
  ⟨"MAC_CTRL", 0x4, 1, 0x0, .rw, 0x3, 0x0, 0x0⟩,
  ⟨"MAC_STAT", 0x8, 1, 0x0, .ro, 0x0, 0x0, 0x0⟩,
  ⟨"MAC_EVT", 0xC, 1, 0x0, .w1c, 0x0, 0x3F, 0x0⟩,
  ⟨"MAC_INT_EN", 0x10, 1, 0x0, .rw, 0x3F, 0x0, 0x0⟩,
  ⟨"MAC_ADDR_LO", 0x14, 1, 0x0, .st, 0xFFFFFFFF, 0x0, 0x0⟩,
  ⟨"MAC_ADDR_HI", 0x18, 1, 0x0, .st, 0xFFFF, 0x0, 0x0⟩,
  ⟨"MAC_TX_CT", 0x1C, 1, 0x0, .st, 0x7FF, 0x0, 0x80⟩,
  ⟨"MAC_TX_TAG", 0x20, 1, 0x0, .rs, 0x1E000, 0x0, 0x0⟩,
  ⟨"MAC_NOTIFY", 0x24, 1, 0x0, .rs, 0xFFFFFFFF, 0x0, 0x0⟩,
  ⟨"MAC_LRE_CFG", 0x30, 1, 0x0, .st, 0x3, 0x0, 0x0⟩,
  ⟨"MAC_LRE_STAT", 0x34, 1, 0x0, .ro, 0x0, 0x0, 0x0⟩,
  ⟨"MAC_SUP_CFG", 0x38, 1, 0x0, .rs, 0x8FFFFFFF, 0x0, 0x800007D0⟩,
  ⟨"MAC_SFP_CMD", 0x40, 1, 0x0, .wo, 0x0, 0x0, 0x0⟩,
  ⟨"MAC_SFP_RES", 0x44, 1, 0x0, .ro, 0x0, 0x0, 0x0⟩,
  ⟨"MAC_SIU_CRED", 0x50, 1, 0x0, .ro, 0x0, 0x0, 0x0⟩,
  ⟨"MAC_CNT", 0x100, 19, 0x4, .rc, 0x0, 0x0, 0x0⟩,
  ⟨"RXR_BASE_LO", 0x200, 8, 0x40, .st, 0xFFFFFFE0, 0x0, 0x0⟩,
  ⟨"RXR_BASE_HI", 0x204, 8, 0x40, .st, 0x7, 0x0, 0x0⟩,
  ⟨"RXR_CFG", 0x208, 8, 0x40, .st, 0x1F00FFFF, 0x0, 0x0⟩,
  ⟨"RXR_CTRL", 0x20C, 8, 0x40, .rw, 0x1, 0x0, 0x0⟩,
  ⟨"RXR_WR", 0x210, 8, 0x40, .ro, 0x0, 0x0, 0x0⟩,
  ⟨"RXR_RD", 0x214, 8, 0x40, .rw, 0xFFFF, 0x0, 0x0⟩,
  ⟨"RXR_WM", 0x218, 8, 0x40, .rs, 0xFFFFFFFF, 0x0, 0x300010⟩]

/-- Registers of MAC, part 2. -/
def rowsMac2 : List RegRow := [
  ⟨"RXR_STAT", 0x21C, 8, 0x40, .ro, 0x0, 0x0, 0x0⟩,
  ⟨"RXR_EVT", 0x220, 8, 0x40, .w1c, 0x0, 0x3F, 0x0⟩,
  ⟨"RXR_CNT", 0x224, 8, 0x40, .rc, 0x0, 0x0, 0x0⟩,
  ⟨"FR_DA_LO", 0x1000, 256, 0x20, .rs, 0xFFFFFFFF, 0x0, 0x0⟩,
  ⟨"FR_DA_HI", 0x1004, 256, 0x20, .rs, 0x803FFFFF, 0x0, 0x0⟩,
  ⟨"FR_ET", 0x1008, 256, 0x20, .rs, 0xFFFFFFFF, 0x0, 0x0⟩,
  ⟨"FR_ET_MASK", 0x100C, 256, 0x20, .rs, 0xFFFFFFFF, 0x0, 0x0⟩,
  ⟨"FR_VLAN", 0x1010, 256, 0x20, .rs, 0xB0FFFFFF, 0x0, 0x0⟩,
  ⟨"FR_ACT", 0x1014, 256, 0x20, .rs, 0xF0010000, 0x0, 0x0⟩,
  ⟨"FR_HITS", 0x1018, 256, 0x20, .rc, 0x0, 0x0, 0x0⟩,
  ⟨"TXR_BASE_LO", 0x400, 2, 0x40, .st, 0xFFFFFFE0, 0x0, 0x0⟩,
  ⟨"TXR_BASE_HI", 0x404, 2, 0x40, .st, 0x7, 0x0, 0x0⟩,
  ⟨"TXR_CFG", 0x408, 2, 0x40, .st, 0x1F00FFFF, 0x0, 0x0⟩,
  ⟨"TXR_CTRL", 0x40C, 2, 0x40, .rw, 0x1, 0x0, 0x0⟩,
  ⟨"TXR_WR", 0x410, 2, 0x40, .rw, 0xFFFF, 0x0, 0x0⟩,
  ⟨"TXR_RD", 0x414, 2, 0x40, .ro, 0x0, 0x0, 0x0⟩,
  ⟨"TXR_STAT", 0x41C, 2, 0x40, .ro, 0x0, 0x0, 0x0⟩,
  ⟨"TXR_EVT", 0x420, 2, 0x40, .w1c, 0x0, 0x3F, 0x0⟩,
  ⟨"TXR_CNT", 0x424, 2, 0x40, .rc, 0x0, 0x0, 0x0⟩]

/-- Registers of MAC. -/
def rowsMac : List RegRow := rowsMac1 ++ rowsMac2

/-- Registers of SIU. -/
def rowsSiu : List RegRow := [
  ⟨"SIU_STAT", 0x0, 1, 0x0, .ro, 0x0, 0x0, 0x0⟩,
  ⟨"SIU_EVT", 0x4, 1, 0x0, .w1c, 0x0, 0x7F, 0x0⟩,
  ⟨"SIU_INT_EN", 0x8, 1, 0x0, .rw, 0x7F, 0x0, 0x0⟩,
  ⟨"SIU_TEST_ACC", 0x10, 1, 0x0, .rs, 0xFFFFFFFF, 0x0, 0x0⟩,
  ⟨"SIU_SIM_ACC", 0x14, 1, 0x0, .rs, 0xFFFFFFFF, 0x0, 0x0⟩,
  ⟨"SIU_BUF_WM", 0x18, 1, 0x0, .rs, 0x7F007F, 0x0, 0x100004⟩,
  ⟨"SIU_CTX_FLUSH", 0x1C, 1, 0x0, .wo, 0x0, 0x0, 0x0⟩,
  ⟨"SIU_CNT", 0x40, 11, 0x4, .rc, 0x0, 0x0, 0x0⟩,
  ⟨"SIU_KEY_ID", 0x400, 64, 0x4, .rs, 0xFFFFFFFF, 0x0, 0x0⟩,
  ⟨"CTX_CFG", 0x1000, 1024, 0x20, .rs, 0xFCFF1F77, 0x0, 0x0⟩,
  ⟨"CTX_ID", 0x1004, 1024, 0x20, .rs, 0xFFFF003F, 0x0, 0x0⟩,
  ⟨"CTX_SVID_CRC", 0x1008, 1024, 0x20, .rs, 0xFFFFFFFF, 0x0, 0x0⟩,
  ⟨"CTX_CONFREV", 0x100C, 1024, 0x20, .rs, 0xFFFFFFFF, 0x0, 0x0⟩,
  ⟨"CTX_KEY", 0x1010, 1024, 0x20, .rs, 0x3F3F, 0x0, 0x0⟩,
  ⟨"CTX_STAT", 0x1014, 1024, 0x20, .ro, 0x0, 0x0, 0x0⟩,
  ⟨"CTX_EVT", 0x1018, 1024, 0x20, .w1c, 0x0, 0xFF, 0x0⟩,
  ⟨"CTX_CNT", 0x101C, 1024, 0x20, .rc, 0x0, 0x0, 0x0⟩,
  ⟨"GRP_CFG", 0x9000, 256, 0x10, .rs, 0xCFFFFFFF, 0x0, 0x400000⟩,
  ⟨"GRP_STAT", 0x9004, 256, 0x10, .ro, 0x0, 0x0, 0x0⟩,
  ⟨"GRP_LAT", 0x9008, 256, 0x10, .rc, 0x0, 0x0, 0x0⟩,
  ⟨"GRP_CNT", 0x900C, 256, 0x10, .rc, 0x0, 0x0, 0x0⟩]

/-- Registers of SVP. -/
def rowsSvp : List RegRow := [
  ⟨"SVP_STAT", 0x0, 1, 0x0, .ro, 0x0, 0x0, 0x0⟩,
  ⟨"SVP_EVT", 0x4, 1, 0x0, .w1c, 0x0, 0x3, 0x0⟩,
  ⟨"SVP_INT_EN", 0x8, 1, 0x0, .rw, 0x3, 0x0, 0x0⟩,
  ⟨"SVP_KEY_ID", 0x100, 16, 0x4, .rs, 0xFFFFFFFF, 0x0, 0x0⟩,
  ⟨"PUB_CFG", 0x1000, 64, 0x40, .rs, 0xFFFFFFF8, 0x0, 0x40000000⟩,
  ⟨"PUB_DA_LO", 0x1004, 64, 0x40, .rs, 0xFFFFFFFF, 0x0, 0x0⟩,
  ⟨"PUB_DA_HI", 0x1008, 64, 0x40, .rs, 0xFFFF, 0x0, 0x0⟩,
  ⟨"PUB_TAG", 0x100C, 64, 0x40, .rs, 0xFFFFFFFF, 0x0, 0x0⟩,
  ⟨"PUB_CONFREV", 0x1010, 64, 0x40, .rs, 0xFFFFFFFF, 0x0, 0x0⟩,
  ⟨"PUB_SVID", 0x1014, 64, 0x40, .rs, 0xFFFFFFFF, 0x0, 0x0⟩,
  ⟨"PUB_SRC", 0x1018, 64, 0x40, .rs, 0xFFFFFFFF, 0x0, 0x0⟩,
  ⟨"PUB_RING", 0x101C, 64, 0x40, .rs, 0x7FFF, 0x0, 0x1⟩,
  ⟨"PUB_OFS", 0x1020, 64, 0x40, .rs, 0xFFFFF, 0x0, 0x0⟩,
  ⟨"PUB_KEY", 0x1024, 64, 0x40, .rs, 0xF, 0x0, 0x0⟩,
  ⟨"PUB_STAT", 0x1028, 64, 0x40, .ro, 0x0, 0x0, 0x0⟩,
  ⟨"PUB_CNT", 0x102C, 64, 0x40, .rc, 0x0, 0x0, 0x0⟩]

/-- Registers of SCA, part 1. -/
def rowsSca1 : List RegRow := [
  ⟨"SCA_STAT", 0x0, 1, 0x0, .ro, 0x0, 0x0, 0x0⟩,
  ⟨"SCA_EVT", 0x4, 1, 0x0, .w1c, 0x0, 0x7F, 0x0⟩,
  ⟨"SCA_INT_EN", 0x8, 1, 0x0, .rw, 0x7F, 0x0, 0x0⟩,
  ⟨"SCA_NOTIFY", 0xC, 1, 0x0, .rs, 0xFFFFFFFF, 0x0, 0x0⟩,
  ⟨"SCA_SMP_BASE", 0x10, 1, 0x0, .rs, 0xFFFF0003, 0x0, 0x80000001⟩,
  ⟨"SCA_PH_BASE", 0x14, 1, 0x0, .rs, 0xFFFF0000, 0x0, 0x80200000⟩,
  ⟨"SCA_AG_BASE", 0x18, 1, 0x0, .rs, 0xFFFF0000, 0x0, 0x80400000⟩,
  ⟨"SCA_BANK_SRC", 0x20, 1, 0x0, .rw, 0xFFFFFFC0, 0x0, 0x0⟩,
  ⟨"SCA_BANK_LOAD", 0x24, 1, 0x0, .wo, 0x0, 0x0, 0x0⟩,
  ⟨"SCA_BANK_STAT", 0x28, 1, 0x0, .ro, 0x0, 0x0, 0x0⟩,
  ⟨"SCA_CH_PAGE", 0x30, 1, 0x0, .rw, 0xF, 0x0, 0x0⟩,
  ⟨"SCA_CNT_REL", 0x40, 1, 0x0, .rc, 0x0, 0x0, 0x0⟩,
  ⟨"SCA_CNT_DISC", 0x44, 1, 0x0, .rc, 0x0, 0x0, 0x0⟩,
  ⟨"SCA_LAT", 0x48, 1, 0x0, .rc, 0x0, 0x0, 0x0⟩,
  ⟨"SCA_GRP_CFG", 0x1000, 64, 0x10, .rs, 0x800001FF, 0x0, 0x40⟩,
  ⟨"SCA_GRP_STAT", 0x1004, 64, 0x10, .ro, 0x0, 0x0, 0x0⟩,
  ⟨"SCA_GRP_EVT", 0x1008, 64, 0x10, .w1c, 0x0, 0xF, 0x0⟩,
  ⟨"SCA_GRP_CNT", 0x100C, 64, 0x10, .rc, 0x0, 0x0, 0x0⟩,
  ⟨"SCA_AG_CFG", 0x2000, 256, 0x20, .rs, 0xFBFFFFFF, 0x0, 0x0⟩,
  ⟨"SCA_AG_REF", 0x2004, 256, 0x20, .rs, 0xFFFF1FFF, 0x0, 0x0⟩,
  ⟨"SCA_AG_FRZ", 0x2008, 256, 0x20, .rs, 0xCFFFFFFF, 0x0, 0x0⟩,
  ⟨"SCA_AG_LIM", 0x200C, 256, 0x20, .rs, 0xFFFFFFFF, 0x0, 0x12C00000⟩,
  ⟨"SCA_AG_STAT", 0x2010, 256, 0x20, .ro, 0x0, 0x0, 0x0⟩,
  ⟨"SCA_AG_FREQ", 0x2014, 256, 0x20, .ro, 0x0, 0x0, 0x0⟩]

/-- Registers of SCA, part 2. -/
def rowsSca2 : List RegRow := [
  ⟨"SCA_AG_EVT", 0x2018, 256, 0x20, .w1c, 0x0, 0x1F, 0x0⟩,
  ⟨"SCA_AG_CNT", 0x201C, 256, 0x20, .rc, 0x0, 0x0, 0x0⟩,
  ⟨"SCA_CH_CFG", 0x8000, 512, 0x20, .rs, 0xFFFC3FFF, 0x0, 0x40000⟩,
  ⟨"SCA_CH_BINS", 0x8004, 512, 0x20, .rs, 0x3F3F3F, 0x0, 0x0⟩,
  ⟨"SCA_CH_STAT", 0x8008, 512, 0x20, .ro, 0x0, 0x0, 0x0⟩,
  ⟨"SCA_CH_PHLEFT", 0x800C, 512, 0x20, .ro, 0x0, 0x0, 0x0⟩,
  ⟨"SCA_CH_INFO", 0x8010, 512, 0x20, .ro, 0x0, 0x0, 0x0⟩]

/-- Registers of SCA. -/
def rowsSca : List RegRow := rowsSca1 ++ rowsSca2

/-- Registers of PCX. -/
def rowsPcx : List RegRow := [
  ⟨"PCX_STAT", 0x0, 1, 0x0, .ro, 0x0, 0x0, 0x0⟩,
  ⟨"PCX_EVT", 0x4, 1, 0x0, .w1c, 0x0, 0xF, 0x0⟩,
  ⟨"PCX_INT_EN", 0x8, 1, 0x0, .rw, 0xF, 0x0, 0x0⟩,
  ⟨"PCX_PSTOP", 0x10, 1, 0x0, .ro, 0x0, 0x0, 0x0⟩,
  ⟨"PCX_LOAD_SRC", 0x20, 1, 0x0, .rw, 0xFFFFFFC0, 0x0, 0x0⟩,
  ⟨"PCX_LOAD_DST", 0x24, 1, 0x0, .rw, 0xFF01FFC0, 0x0, 0x0⟩,
  ⟨"PCX_LOAD_LEN", 0x28, 1, 0x0, .rw, 0x3FFC0, 0x0, 0x0⟩,
  ⟨"PCX_LOAD_CMD", 0x2C, 1, 0x0, .wo, 0x0, 0x0, 0x0⟩,
  ⟨"PCX_LOAD_STAT", 0x30, 1, 0x0, .ro, 0x0, 0x0, 0x0⟩,
  ⟨"PCX_EXC_CFG", 0x80, 32, 0x4, .rs, 0xFFFF, 0x0, 0x352⟩,
  ⟨"CORE_SPILL", 0x1000, 64, 0x40, .rs, 0x7FF07FF, 0x0, 0x800780⟩,
  ⟨"CORE_STAT", 0x1004, 64, 0x40, .ro, 0x0, 0x0, 0xC0000000⟩,
  ⟨"CORE_EXC", 0x1008, 64, 0x40, .rw, 0x0, 0x80000000, 0x0⟩,
  ⟨"CORE_EXC_PC", 0x100C, 64, 0x40, .ro, 0x0, 0x0, 0x0⟩,
  ⟨"CORE_EXC_ADDR", 0x1010, 64, 0x40, .ro, 0x0, 0x0, 0x0⟩,
  ⟨"CORE_EXC_T", 0x1014, 64, 0x40, .ro, 0x0, 0x0, 0x0⟩,
  ⟨"CORE_CNT", 0x1018, 64, 0x40, .rc, 0x0, 0x0, 0x0⟩,
  ⟨"CORE_DEPTH", 0x101C, 64, 0x40, .rc, 0x0, 0x0, 0x0⟩,
  ⟨"CORE_CYC", 0x1020, 64, 0x40, .ro, 0x0, 0x0, 0x0⟩,
  ⟨"CORE_CYC_MAX", 0x1024, 64, 0x40, .rc, 0x0, 0x0, 0x0⟩]

/-- Registers of TSK, part 1. -/
def rowsTsk1 : List RegRow := [
  ⟨"TSK_STAT", 0x0, 1, 0x0, .ro, 0x0, 0x0, 0x0⟩,
  ⟨"TSK_EVT", 0x4, 1, 0x0, .w1c, 0x0, 0xF, 0x0⟩,
  ⟨"TSK_INT_EN", 0x8, 1, 0x0, .rw, 0xF, 0x0, 0x0⟩,
  ⟨"TSK_FORCED", 0xC, 1, 0x0, .ro, 0x0, 0x0, 0x0⟩,
  ⟨"TSK_F_PAGE", 0x10, 1, 0x0, .rw, 0x1F, 0x0, 0x0⟩,
  ⟨"TSK_RET_TOTAL", 0x14, 1, 0x0, .ro, 0x0, 0x0, 0x0⟩,
  ⟨"TSK_PL_STAT", 0x18, 1, 0x0, .ro, 0x0, 0x0, 0x0⟩,
  ⟨"TSK_P_CTRL", 0x100, 32, 0x20, .wo, 0x0, 0x0, 0x0⟩,
  ⟨"TSK_P_STAT", 0x104, 32, 0x20, .ro, 0x0, 0x0, 0x0⟩,
  ⟨"TSK_P_MQ", 0x108, 32, 0x20, .rw, 0xFFFFFFC0, 0x0, 0x0⟩,
  ⟨"TSK_P_IMG", 0x10C, 32, 0x20, .ro, 0x0, 0x0, 0x0⟩,
  ⟨"TSK_P_PLINTH", 0x110, 32, 0x20, .rs, 0xFFF0FFF, 0x0, 0x0⟩,
  ⟨"TSK_P_EVT", 0x114, 32, 0x20, .w1c, 0x0, 0x3FF, 0x0⟩,
  ⟨"TSK_P_CARRY", 0x118, 32, 0x20, .ro, 0x0, 0x0, 0x0⟩,
  ⟨"TSK_P_DROP", 0x11C, 32, 0x20, .ro, 0x0, 0x0, 0x0⟩,
  ⟨"TSK_T_DEF", 0x4000, 512, 0x20, .ro, 0x0, 0x0, 0x0⟩,
  ⟨"TSK_T_ACT", 0x4004, 512, 0x20, .ro, 0x0, 0x0, 0x0⟩,
  ⟨"TSK_T_DL", 0x4008, 512, 0x20, .ro, 0x0, 0x0, 0x0⟩,
  ⟨"TSK_T_ROOT", 0x400C, 512, 0x20, .ro, 0x0, 0x0, 0x0⟩,
  ⟨"TSK_T_CTRL", 0x4010, 512, 0x20, .rs, 0x1, 0x0, 0x1⟩,
  ⟨"TSK_T_STAT", 0x4014, 512, 0x20, .ro, 0x0, 0x0, 0x0⟩,
  ⟨"TSK_T_CNT", 0x4018, 512, 0x20, .rc, 0x0, 0x0, 0x0⟩,
  ⟨"TSK_T_LAT", 0x401C, 512, 0x20, .rc, 0x0, 0x0, 0x0⟩,
  ⟨"F_CFG", 0x8000, 256, 0x20, .rs, 0xF0001FFF, 0x0, 0x0⟩]

/-- Registers of TSK, part 2. -/
def rowsTsk2 : List RegRow := [
  ⟨"F_ID", 0x8004, 256, 0x20, .rs, 0xFFFFFFFF, 0x0, 0x0⟩,
  ⟨"F_VAL", 0x8008, 256, 0x20, .rs, 0xFFFFFFFF, 0x0, 0x0⟩,
  ⟨"F_VAL_C", 0x800C, 256, 0x20, .rs, 0xFFFFFFFF, 0x0, 0xFFFFFFFF⟩,
  ⟨"F_AUX", 0x8010, 256, 0x20, .rs, 0xFFFFFFFF, 0x0, 0x0⟩,
  ⟨"F_AUX_C", 0x8014, 256, 0x20, .rs, 0xFFFFFFFF, 0x0, 0xFFFFFFFF⟩,
  ⟨"F_QUAL", 0x8018, 256, 0x20, .rs, 0xFF603FFF, 0x0, 0x0⟩,
  ⟨"F_STAT", 0x801C, 256, 0x20, .ro, 0x0, 0x0, 0x0⟩]

/-- Registers of TSK. -/
def rowsTsk : List RegRow := rowsTsk1 ++ rowsTsk2

/-- Registers of TMX. -/
def rowsTmx : List RegRow := [
  ⟨"TMX_STAT", 0x0, 1, 0x0, .ro, 0x0, 0x0, 0x0⟩,
  ⟨"TMX_EVT", 0x4, 1, 0x0, .w1c, 0x0, 0x3F, 0x0⟩,
  ⟨"TMX_INT_EN", 0x8, 1, 0x0, .rw, 0x3F, 0x0, 0x0⟩,
  ⟨"TMX_LANE_OUT", 0x10, 1, 0x0, .ro, 0x0, 0x0, 0x0⟩,
  ⟨"TMX_LANE_HOLD", 0x14, 1, 0x0, .ro, 0x0, 0x0, 0xFFFFFFFF⟩,
  ⟨"TMX_CNT", 0x20, 1, 0x0, .rc, 0x0, 0x0, 0x0⟩,
  ⟨"TMX_PG_CFG", 0x100, 64, 0x4, .rs, 0x1, 0x0, 0x0⟩,
  ⟨"TMX_FLAGS", 0x200, 128, 0x4, .ro, 0x0, 0x0, 0x0⟩,
  ⟨"TMX_FORCED", 0x400, 128, 0x4, .ro, 0x0, 0x0, 0x0⟩,
  ⟨"LANE_CFG", 0x1000, 32, 0x40, .rs, 0x8000FFFF, 0x0, 0x0⟩,
  ⟨"LANE_SRC0", 0x1008, 32, 0x40, .rs, 0x8FFF8FFF, 0x0, 0x0⟩,
  ⟨"LANE_SRC1", 0x1010, 32, 0x40, .rs, 0x8FFF8FFF, 0x0, 0x0⟩,
  ⟨"LANE_SRC2", 0x1018, 32, 0x40, .rs, 0x8FFF8FFF, 0x0, 0x0⟩,
  ⟨"LANE_SRC3", 0x1020, 32, 0x40, .rs, 0x8FFF8FFF, 0x0, 0x0⟩,
  ⟨"LANE_SRC0_C", 0x100C, 32, 0x40, .rs, 0xFFFFFFFF, 0x0, 0xFFFFFFFF⟩,
  ⟨"LANE_SRC1_C", 0x1014, 32, 0x40, .rs, 0xFFFFFFFF, 0x0, 0xFFFFFFFF⟩,
  ⟨"LANE_SRC2_C", 0x101C, 32, 0x40, .rs, 0xFFFFFFFF, 0x0, 0xFFFFFFFF⟩,
  ⟨"LANE_SRC3_C", 0x1024, 32, 0x40, .rs, 0xFFFFFFFF, 0x0, 0xFFFFFFFF⟩,
  ⟨"LANE_STAT", 0x1028, 32, 0x40, .ro, 0x0, 0x0, 0x0⟩,
  ⟨"LANE_CNT", 0x102C, 32, 0x40, .rc, 0x0, 0x0, 0x0⟩,
  ⟨"LANE_TS_NS", 0x1030, 32, 0x40, .ro, 0x0, 0x0, 0x0⟩,
  ⟨"LANE_TS_SEC", 0x1034, 32, 0x40, .ro, 0x0, 0x0, 0x0⟩]

/-- Registers of GSE, part 1. -/
def rowsGse1 : List RegRow := [
  ⟨"GSE_STAT", 0x0, 1, 0x0, .ro, 0x0, 0x0, 0x0⟩,
  ⟨"GSE_EVT", 0x4, 1, 0x0, .w1c, 0x0, 0xFF, 0x0⟩,
  ⟨"GSE_INT_EN", 0x8, 1, 0x0, .rw, 0xFF, 0x0, 0x0⟩,
  ⟨"GSE_TEST_ACC", 0x10, 1, 0x0, .rs, 0xFFFFFFFF, 0x0, 0x0⟩,
  ⟨"GSE_SIM_ACC", 0x14, 1, 0x0, .rs, 0xFFFFFFFF, 0x0, 0x0⟩,
  ⟨"GSE_CNT", 0x40, 8, 0x4, .rc, 0x0, 0x0, 0x0⟩,
  ⟨"GSE_KEY_ID", 0x100, 32, 0x4, .rs, 0xFFFFFFFF, 0x0, 0x0⟩,
  ⟨"GP_CFG", 0x1000, 256, 0x40, .rs, 0xFF7F1F00, 0x0, 0x40000000⟩,
  ⟨"GP_DA_LO", 0x1004, 256, 0x40, .rs, 0xFFFFFFFF, 0x0, 0x0⟩,
  ⟨"GP_DA_HI", 0x1008, 256, 0x40, .rs, 0xFFFF, 0x0, 0x0⟩,
  ⟨"GP_TAG", 0x100C, 256, 0x40, .rs, 0xFFFFFFFF, 0x0, 0x0⟩,
  ⟨"GP_CONFREV", 0x1010, 256, 0x40, .rs, 0xFFFFFFFF, 0x0, 0x0⟩,
  ⟨"GP_TIMING", 0x1014, 256, 0x40, .rs, 0xFFFFFFFF, 0x0, 0x3E803E8⟩,
  ⟨"GP_REF", 0x1018, 256, 0x40, .rs, 0xFFFFFFF0, 0x0, 0x0⟩,
  ⟨"GP_STAT", 0x101C, 256, 0x40, .ro, 0x0, 0x0, 0x0⟩,
  ⟨"GP_STNUM", 0x1020, 256, 0x40, .ro, 0x0, 0x0, 0x0⟩,
  ⟨"GP_SQNUM", 0x1024, 256, 0x40, .ro, 0x0, 0x0, 0x0⟩,
  ⟨"GP_CNT", 0x1028, 256, 0x40, .rc, 0x0, 0x0, 0x0⟩,
  ⟨"GS_CFG", 0x6000, 512, 0x20, .rs, 0xF87F0000, 0x0, 0x0⟩,
  ⟨"GS_ID", 0x6004, 512, 0x20, .rs, 0xFFFF00FF, 0x0, 0x0⟩,
  ⟨"GS_REF_CRC", 0x6008, 512, 0x20, .rs, 0xFFFFFFFF, 0x0, 0x0⟩,
  ⟨"GS_CONFREV", 0x600C, 512, 0x20, .rs, 0xFFFFFFFF, 0x0, 0x0⟩,
  ⟨"GS_MAP", 0x6010, 512, 0x20, .rs, 0xFFFFFFF0, 0x0, 0x0⟩,
  ⟨"GS_REC", 0x6014, 512, 0x20, .rs, 0xFFFFFFC0, 0x0, 0x0⟩]

/-- Registers of GSE, part 2. -/
def rowsGse2 : List RegRow := [
  ⟨"GS_KEY", 0x6018, 512, 0x20, .rs, 0x1F1F, 0x0, 0x0⟩,
  ⟨"GS_STAT", 0x601C, 512, 0x20, .rw, 0x0, 0x1F, 0x0⟩]

/-- Registers of GSE. -/
def rowsGse : List RegRow := rowsGse1 ++ rowsGse2

/-- Registers of CMD. -/
def rowsCmd : List RegRow := [
  ⟨"CMD_STAT", 0x0, 1, 0x0, .ro, 0x0, 0x0, 0x0⟩,
  ⟨"CMD_EVT", 0x4, 1, 0x0, .w1c, 0x0, 0x3F, 0x0⟩,
  ⟨"CMD_INT_EN", 0x8, 1, 0x0, .rw, 0x3F, 0x0, 0x0⟩,
  ⟨"CMD_NOTIFY", 0xC, 1, 0x0, .rs, 0xFFFFFFFF, 0x0, 0x0⟩,
  ⟨"CMD_ORD", 0x10, 1, 0x0, .wo, 0x0, 0x0, 0x0⟩,
  ⟨"CMD_RES_POP", 0x14, 1, 0x0, .rc, 0x0, 0x0, 0x0⟩,
  ⟨"CMD_RES_STAT", 0x18, 1, 0x0, .ro, 0x0, 0x0, 0x0⟩,
  ⟨"CMD_CTRL", 0x1C, 1, 0x0, .wo, 0x0, 0x0, 0x0⟩,
  ⟨"CMD_CNT_NA", 0x20, 1, 0x0, .rc, 0x0, 0x0, 0x0⟩,
  ⟨"CMD_RES_LOST", 0x24, 1, 0x0, .rc, 0x0, 0x0, 0x0⟩,
  ⟨"CO_CFG", 0x1000, 256, 0x40, .rs, 0xF8FFFFFF, 0x0, 0x7530⟩,
  ⟨"CO_TMO", 0x1004, 256, 0x40, .rs, 0xFFFF, 0x0, 0xBB8⟩,
  ⟨"CO_PFLAG", 0x1008, 256, 0x40, .rs, 0x8FFF8FFF, 0x0, 0x0⟩,
  ⟨"CO_LFLAG", 0x100C, 256, 0x40, .rs, 0x8FFF8FFF, 0x0, 0x0⟩,
  ⟨"CO_ENA", 0x1010, 256, 0x40, .rs, 0x8FFF8FFF, 0x0, 0x0⟩,
  ⟨"CO_POS", 0x1014, 256, 0x40, .rw, 0x3, 0x0, 0x0⟩,
  ⟨"CO_STATE", 0x1018, 256, 0x40, .ro, 0x0, 0x0, 0x0⟩,
  ⟨"CO_RESULT", 0x101C, 256, 0x40, .ro, 0x0, 0x0, 0x0⟩,
  ⟨"CO_CNT", 0x1020, 256, 0x40, .rc, 0x0, 0x0, 0x0⟩]

/-- Registers of FBC, part 1. -/
def rowsFbc1 : List RegRow := [
  ⟨"FBC_CFG", 0x0, 1, 0x0, .st, 0xFF00000E, 0x0, 0x1000008⟩,
  ⟨"FBC_CTRL", 0x4, 1, 0x0, .rw, 0x1, 0x0, 0x0⟩,
  ⟨"FBC_STAT", 0x8, 1, 0x0, .ro, 0x0, 0x0, 0x0⟩,
  ⟨"FBC_EVT", 0xC, 1, 0x0, .w1c, 0x0, 0x7F, 0x0⟩,
  ⟨"FBC_INT_EN", 0x10, 1, 0x0, .rw, 0x7F, 0x0, 0x0⟩,
  ⟨"FBC_NOTIFY", 0x14, 1, 0x0, .rs, 0xFFFFFFFF, 0x0, 0x0⟩,
  ⟨"FBC_NBT", 0x20, 1, 0x0, .st, 0xFFFF7F7F, 0x0, 0x134E1313⟩,
  ⟨"FBC_DBT", 0x24, 1, 0x0, .st, 0xFFFFFFFF, 0x0, 0x24E4D3D0⟩,
  ⟨"FBC_ERRCNT", 0x28, 1, 0x0, .ro, 0x0, 0x0, 0x0⟩,
  ⟨"TQ0_STAT", 0x30, 1, 0x0, .ro, 0x0, 0x0, 0x0⟩,
  ⟨"TQ0_CNT", 0x34, 1, 0x0, .rc, 0x0, 0x0, 0x0⟩,
  ⟨"TQ1_PUSH", 0x40, 1, 0x0, .wo, 0x0, 0x0, 0x0⟩,
  ⟨"TQ1_STAT", 0x44, 1, 0x0, .ro, 0x0, 0x0, 0x0⟩,
  ⟨"TQ1_EVT", 0x48, 1, 0x0, .w1c, 0x0, 0x7, 0x0⟩,
  ⟨"TQ1_CTRL", 0x4C, 1, 0x0, .wo, 0x0, 0x0, 0x0⟩,
  ⟨"TQ1_CNT", 0x50, 1, 0x0, .rc, 0x0, 0x0, 0x0⟩,
  ⟨"FBC_CNT", 0xA0, 5, 0x4, .rc, 0x0, 0x0, 0x0⟩,
  ⟨"RQ0_WIN", 0x100, 20, 0x4, .ro, 0x0, 0x0, 0x0⟩,
  ⟨"RQ1_WIN", 0x180, 20, 0x4, .ro, 0x0, 0x0, 0x0⟩,
  ⟨"RQ_HEAD", 0x60, 2, 0x20, .rc, 0x0, 0x0, 0x0⟩,
  ⟨"RQ_STAT", 0x64, 2, 0x20, .ro, 0x0, 0x0, 0x0⟩,
  ⟨"RQ_EVT", 0x68, 2, 0x20, .w1c, 0x0, 0x1F, 0x0⟩,
  ⟨"RQ0_WM", 0x6C, 1, 0x0, .rs, 0x1FF01FF, 0x0, 0x300010⟩,
  ⟨"RQ1_WM", 0x8C, 1, 0x0, .rs, 0x1FF01FF, 0x0, 0xC00040⟩]

/-- Registers of FBC, part 2. -/
def rowsFbc2 : List RegRow := [
  ⟨"RQ_CNT", 0x70, 2, 0x20, .rc, 0x0, 0x0, 0x0⟩,
  ⟨"RQ_CTRL", 0x74, 2, 0x20, .wo, 0x0, 0x0, 0x0⟩,
  ⟨"FBF_MATCH", 0x1000, 64, 0x10, .rs, 0xDFFFFFFF, 0x0, 0x0⟩,
  ⟨"FBF_MASK", 0x1004, 64, 0x10, .rs, 0x1FFFFFFF, 0x0, 0x0⟩,
  ⟨"FBF_ACT", 0x1008, 64, 0x10, .rs, 0x3, 0x0, 0x0⟩,
  ⟨"FBF_HITS", 0x100C, 64, 0x10, .rc, 0x0, 0x0, 0x0⟩]

/-- Registers of FBC. -/
def rowsFbc : List RegRow := rowsFbc1 ++ rowsFbc2

/-- Registers of DRC, part 1. -/
def rowsDrc1 : List RegRow := [
  ⟨"DRC_CFG", 0x0, 1, 0x0, .st, 0x80000FFF, 0x0, 0x3FF⟩,
  ⟨"DRC_CTRL", 0x4, 1, 0x0, .rw, 0x1, 0x0, 0x0⟩,
  ⟨"DRC_STAT", 0x8, 1, 0x0, .ro, 0x0, 0x0, 0x0⟩,
  ⟨"DRC_EVT", 0xC, 1, 0x0, .w1c, 0x0, 0x7F, 0x0⟩,
  ⟨"DRC_INT_EN", 0x10, 1, 0x0, .rw, 0x7F, 0x0, 0x0⟩,
  ⟨"DRC_NOTIFY", 0x14, 1, 0x0, .rs, 0xFFFFFFFF, 0x0, 0x0⟩,
  ⟨"DRC_PRE", 0x18, 1, 0x0, .st, 0xFFFF, 0x0, 0x3C0⟩,
  ⟨"DRC_POST", 0x1C, 1, 0x0, .st, 0x7FFFF, 0x0, 0x12C0⟩,
  ⟨"DRC_FLAGPG_LO", 0x20, 1, 0x0, .st, 0xFFFFFFFF, 0x0, 0x0⟩,
  ⟨"DRC_FLAGPG_HI", 0x24, 1, 0x0, .st, 0xFFFFFFFF, 0x0, 0x0⟩,
  ⟨"DRC_NCH", 0x28, 1, 0x0, .st, 0x7FF, 0x0, 0x0⟩,
  ⟨"DRC_ROW", 0x2C, 1, 0x0, .ro, 0x0, 0x0, 0x0⟩,
  ⟨"DRC_HOLD", 0x30, 1, 0x0, .rs, 0xC0FFFFFF, 0x0, 0x0⟩,
  ⟨"DRC_TRIG_MAN", 0x34, 1, 0x0, .wo, 0x0, 0x0, 0x0⟩,
  ⟨"DRC_BI_TRIG", 0x38, 1, 0x0, .rs, 0xFFFFFFFF, 0x0, 0x0⟩,
  ⟨"DRC_SEG_CMD", 0x40, 1, 0x0, .wo, 0x0, 0x0, 0x0⟩,
  ⟨"DRC_SEG_SEL", 0x44, 1, 0x0, .rw, 0xFFF, 0x0, 0x0⟩,
  ⟨"DRC_SEG_INFO", 0x48, 1, 0x0, .ro, 0x0, 0x0, 0x0⟩,
  ⟨"DRC_SEG_REC", 0x4C, 1, 0x0, .ro, 0x0, 0x0, 0x0⟩,
  ⟨"DRC_EN_NUM", 0x50, 1, 0x0, .ro, 0x0, 0x0, 0x0⟩,
  ⟨"DRC_LIST_CRC", 0x54, 1, 0x0, .ro, 0x0, 0x0, 0x0⟩,
  ⟨"DRC_CNT", 0x60, 5, 0x4, .rc, 0x0, 0x0, 0x0⟩,
  ⟨"DRC_GSE_TRIG", 0x100, 16, 0x4, .rs, 0xFFFFFFFF, 0x0, 0x0⟩,
  ⟨"DRC_CH", 0x1000, 1024, 0x4, .st, 0x11FFF, 0x0, 0x0⟩]

/-- Registers of DRC, part 2. -/
def rowsDrc2 : List RegRow := [
  ⟨"DRC_FTU", 0x3000, 64, 0x4, .rs, 0xB0000FFF, 0x0, 0x0⟩,
  ⟨"ATU_CFG", 0x2000, 64, 0x10, .rs, 0xB00003FF, 0x0, 0x0⟩,
  ⟨"ATU_THR", 0x2004, 64, 0x10, .rs, 0xFFFFFFFF, 0x0, 0x0⟩,
  ⟨"ATU_HYST", 0x2008, 64, 0x10, .rs, 0x7FFFFFFF, 0x0, 0x0⟩,
  ⟨"ATU_CNT", 0x200C, 64, 0x10, .rc, 0x0, 0x0, 0x0⟩]

/-- Registers of DRC. -/
def rowsDrc : List RegRow := rowsDrc1 ++ rowsDrc2

/-- Registers of ALM. -/
def rowsAlm : List RegRow := [
  ⟨"ALM_STAT", 0x0, 1, 0x0, .ro, 0x0, 0x0, 0x0⟩,
  ⟨"ALM_EVT", 0x4, 1, 0x0, .w1c, 0x0, 0x7F, 0x0⟩,
  ⟨"ALM_INT_EN", 0x8, 1, 0x0, .rw, 0x7F, 0x0, 0x0⟩,
  ⟨"ALM_NOTIFY", 0xC, 1, 0x0, .rs, 0xFFFFFFFF, 0x0, 0x0⟩,
  ⟨"ALM_CURSOR", 0x10, 1, 0x0, .rw, 0x8000FFFF, 0x0, 0x0⟩,
  ⟨"ALM_CUR_SEQ", 0x14, 1, 0x0, .rw, 0xFFFFFFFF, 0x0, 0x0⟩,
  ⟨"ALM_CUR_STAT", 0x18, 1, 0x0, .ro, 0x0, 0x0, 0x0⟩,
  ⟨"ALM_SEQ_NEXT", 0x1C, 1, 0x0, .ro, 0x0, 0x0, 0x0⟩,
  ⟨"ALM_SEQ_OLD", 0x20, 1, 0x0, .ro, 0x0, 0x0, 0x0⟩,
  ⟨"ALM_DROP01", 0x24, 1, 0x0, .rc, 0x0, 0x0, 0x0⟩,
  ⟨"ALM_DROP23", 0x28, 1, 0x0, .rc, 0x0, 0x0, 0x0⟩,
  ⟨"ALM_TORN", 0x2C, 1, 0x0, .ro, 0x0, 0x0, 0x0⟩,
  ⟨"ALM_PQ_STAT", 0x30, 1, 0x0, .ro, 0x0, 0x0, 0x0⟩,
  ⟨"ALM_POST_HDR", 0x40, 1, 0x0, .rw, 0xC000FF9F, 0x0, 0x0⟩,
  ⟨"ALM_POST_INFO", 0x44, 6, 0x4, .rw, 0xFFFFFFFF, 0x0, 0x0⟩,
  ⟨"ALM_POST_GO", 0x5C, 1, 0x0, .wo, 0x0, 0x0, 0x0⟩,
  ⟨"ALM_WIN", 0x100, 16, 0x4, .ro, 0x0, 0x0, 0x0⟩]

/-- Registers of MTR, part 1. -/
def rowsMtr1 : List RegRow := [
  ⟨"MTR_STAT", 0x0, 1, 0x0, .ro, 0x0, 0x0, 0x0⟩,
  ⟨"MTR_EVT", 0x4, 1, 0x0, .w1c, 0x0, 0x1F, 0x0⟩,
  ⟨"MTR_INT_EN", 0x8, 1, 0x0, .rw, 0x1F, 0x0, 0x0⟩,
  ⟨"MTR_NOTIFY", 0xC, 1, 0x0, .rs, 0xFFFFFFFF, 0x0, 0x0⟩,
  ⟨"MTR_RES_BASE_LO", 0x10, 1, 0x0, .rs, 0xFFF80000, 0x0, 0x0⟩,
  ⟨"MTR_RES_BASE_HI", 0x14, 1, 0x0, .rs, 0x7, 0x0, 0x0⟩,
  ⟨"MTR_CKPT_STAT", 0x18, 1, 0x0, .ro, 0x0, 0x0, 0x0⟩,
  ⟨"MTR_CMD", 0x20, 1, 0x0, .wo, 0x0, 0x0, 0x0⟩,
  ⟨"MTR_CMD_STAT", 0x24, 1, 0x0, .ro, 0x0, 0x0, 0x0⟩,
  ⟨"MTR_PRESET_LO", 0x28, 1, 0x0, .rw, 0xFFFFFFFF, 0x0, 0x0⟩,
  ⟨"MTR_PRESET_HI", 0x2C, 1, 0x0, .rw, 0xFFFFFFFF, 0x0, 0x0⟩,
  ⟨"PUL_CFG", 0x100, 4, 0x20, .rs, 0x870000FF, 0x0, 0x0⟩,
  ⟨"PUL_TIME", 0x104, 4, 0x20, .rs, 0x3FF03FF, 0x0, 0x640064⟩,
  ⟨"PUL_WEIGHT", 0x108, 4, 0x20, .rs, 0xFFFFFFFF, 0x0, 0x3E8⟩,
  ⟨"PUL_STAT", 0x10C, 4, 0x20, .ro, 0x0, 0x0, 0x0⟩,
  ⟨"PUL_SPILL", 0x110, 4, 0x20, .rc, 0x0, 0x0, 0x0⟩,
  ⟨"MP_CFG", 0x1000, 256, 0x80, .st, 0x1F0F8FFF, 0x0, 0xE000000⟩,
  ⟨"MP_SLOTS", 0x1004, 256, 0x80, .st, 0x1FFF1FFF, 0x0, 0x0⟩,
  ⟨"MP_CTRL", 0x1008, 256, 0x80, .rw, 0x1, 0x0, 0x0⟩,
  ⟨"MP_STAT", 0x100C, 256, 0x80, .rw, 0x0, 0x80000000, 0x0⟩,
  ⟨"MP_UNCERT", 0x1010, 256, 0x80, .ro, 0x0, 0x0, 0x0⟩,
  ⟨"MP_CNT", 0x1014, 256, 0x80, .rc, 0x0, 0x0, 0x0⟩,
  ⟨"MP_DEMAND", 0x1018, 256, 0x80, .ro, 0x0, 0x0, 0x0⟩,
  ⟨"ACC_LO0", 0x1020, 256, 0x80, .ro, 0x0, 0x0, 0x0⟩]

/-- Registers of MTR, part 2. -/
def rowsMtr2 : List RegRow := [
  ⟨"ACC_LO1", 0x102C, 256, 0x80, .ro, 0x0, 0x0, 0x0⟩,
  ⟨"ACC_LO2", 0x1038, 256, 0x80, .ro, 0x0, 0x0, 0x0⟩,
  ⟨"ACC_LO3", 0x1044, 256, 0x80, .ro, 0x0, 0x0, 0x0⟩,
  ⟨"ACC_LO4", 0x1050, 256, 0x80, .ro, 0x0, 0x0, 0x0⟩,
  ⟨"ACC_LO5", 0x105C, 256, 0x80, .ro, 0x0, 0x0, 0x0⟩,
  ⟨"ACC_HI0", 0x1024, 256, 0x80, .ro, 0x0, 0x0, 0x0⟩,
  ⟨"ACC_HI1", 0x1030, 256, 0x80, .ro, 0x0, 0x0, 0x0⟩,
  ⟨"ACC_HI2", 0x103C, 256, 0x80, .ro, 0x0, 0x0, 0x0⟩,
  ⟨"ACC_HI3", 0x1048, 256, 0x80, .ro, 0x0, 0x0, 0x0⟩,
  ⟨"ACC_HI4", 0x1054, 256, 0x80, .ro, 0x0, 0x0, 0x0⟩,
  ⟨"ACC_HI5", 0x1060, 256, 0x80, .ro, 0x0, 0x0, 0x0⟩,
  ⟨"ACC_WRAP0", 0x1028, 256, 0x80, .ro, 0x0, 0x0, 0x0⟩,
  ⟨"ACC_WRAP1", 0x1034, 256, 0x80, .ro, 0x0, 0x0, 0x0⟩,
  ⟨"ACC_WRAP2", 0x1040, 256, 0x80, .ro, 0x0, 0x0, 0x0⟩,
  ⟨"ACC_WRAP3", 0x104C, 256, 0x80, .ro, 0x0, 0x0, 0x0⟩,
  ⟨"ACC_WRAP4", 0x1058, 256, 0x80, .ro, 0x0, 0x0, 0x0⟩,
  ⟨"ACC_WRAP5", 0x1064, 256, 0x80, .ro, 0x0, 0x0, 0x0⟩]

/-- Registers of MTR. -/
def rowsMtr : List RegRow := rowsMtr1 ++ rowsMtr2

/-- Registers of MIR. -/
def rowsMir : List RegRow := [
  ⟨"MIR_CFG", 0x0, 1, 0x0, .st, 0xFF000000, 0x0, 0x10000000⟩,
  ⟨"MIR_CTRL", 0x4, 1, 0x0, .rw, 0x1, 0x0, 0x0⟩,
  ⟨"MIR_STAT", 0x8, 1, 0x0, .ro, 0x0, 0x0, 0x0⟩,
  ⟨"MIR_EVT", 0xC, 1, 0x0, .w1c, 0x0, 0x3FFF, 0x0⟩,
  ⟨"MIR_INT_EN", 0x10, 1, 0x0, .rw, 0x3FFF, 0x0, 0x0⟩,
  ⟨"MIR_NOTIFY", 0x14, 1, 0x0, .rs, 0xFFFFFFFF, 0x0, 0x0⟩,
  ⟨"MIR_KEY", 0x18, 1, 0x0, .rs, 0x1, 0x0, 0x0⟩,
  ⟨"MIR_SNAP", 0x1C, 1, 0x0, .rs, 0xFFF00000, 0x0, 0x80F00000⟩,
  ⟨"MIR_PATH", 0x20, 1, 0x0, .ro, 0x0, 0x0, 0x0⟩,
  ⟨"MIR_THRU", 0x24, 1, 0x0, .ro, 0x0, 0x0, 0x0⟩,
  ⟨"MIR_LINES", 0x28, 1, 0x0, .ro, 0x0, 0x0, 0x0⟩,
  ⟨"MIR_BG", 0x2C, 1, 0x0, .ro, 0x0, 0x0, 0x0⟩,
  ⟨"MIR_CNT", 0x40, 8, 0x4, .rc, 0x0, 0x0, 0x0⟩,
  ⟨"MIR_KEY_ID", 0x100, 2, 0x4, .rs, 0xFFFFFFFF, 0x0, 0x0⟩,
  ⟨"MIR_WIN_BASE", 0x200, 16, 0x8, .rs, 0xFFFFF000, 0x0, 0x0⟩,
  ⟨"MIR_WIN_SIZE", 0x204, 16, 0x8, .rs, 0x1FFF, 0x0, 0x0⟩]

/-- Registers of PWR. -/
def rowsPwr : List RegRow := [
  ⟨"PWR_STAT", 0x0, 1, 0x0, .ro, 0x0, 0x0, 0x0⟩,
  ⟨"PWR_EVT", 0x4, 1, 0x0, .w1c, 0x0, 0xFF, 0x0⟩,
  ⟨"PWR_INT_EN", 0x8, 1, 0x0, .rw, 0xFF, 0x0, 0x0⟩,
  ⟨"PWR_CFG", 0xC, 1, 0x0, .rs, 0x7F, 0x0, 0x52⟩,
  ⟨"PWR_VIN", 0x10, 1, 0x0, .ro, 0x0, 0x0, 0x0⟩,
  ⟨"PWR_STORE", 0x14, 1, 0x0, .ro, 0x0, 0x0, 0x0⟩,
  ⟨"PWR_TEMP", 0x18, 1, 0x0, .ro, 0x0, 0x0, 0x0⟩,
  ⟨"PWR_CYCLES", 0x20, 1, 0x0, .ro, 0x0, 0x0, 0x0⟩,
  ⟨"PWR_OPSEC_LO", 0x24, 1, 0x0, .ro, 0x0, 0x0, 0x0⟩,
  ⟨"PWR_OPSEC_HI", 0x28, 1, 0x0, .ro, 0x0, 0x0, 0x0⟩,
  ⟨"PWR_TWI_STAT", 0x30, 1, 0x0, .ro, 0x0, 0x0, 0x0⟩,
  ⟨"PWR_SFP", 0x40, 1, 0x0, .rw, 0xF, 0xF00, 0x0⟩,
  ⟨"PWR_LED_CTRL", 0x44, 1, 0x0, .rw, 0x7, 0x0, 0x0⟩]

/-- Registers of DIAG. -/
def rowsDiag : List RegRow := [
  ⟨"DIAG_STAT", 0x0, 1, 0x0, .ro, 0x0, 0x0, 0x0⟩,
  ⟨"DIAG_EVT", 0x4, 1, 0x0, .w1c, 0x0, 0xF, 0x0⟩,
  ⟨"DIAG_INT_EN", 0x8, 1, 0x0, .rw, 0xF, 0x0, 0x0⟩,
  ⟨"DIAG_NOTIFY", 0xC, 1, 0x0, .rs, 0xFFFFFFFF, 0x0, 0x0⟩,
  ⟨"DIAG_LB_MAC", 0x10, 1, 0x0, .rs, 0xFFFF, 0x0, 0x0⟩,
  ⟨"DIAG_LB_FBC", 0x14, 1, 0x0, .rs, 0xFF, 0x0, 0x0⟩,
  ⟨"DIAG_LB_MIR", 0x18, 1, 0x0, .rs, 0xFF, 0x0, 0x0⟩,
  ⟨"DIAG_PRBS_CTRL", 0x20, 1, 0x0, .rw, 0x3F, 0x0, 0x0⟩,
  ⟨"DIAG_PRBS_LOCK", 0x24, 1, 0x0, .ro, 0x0, 0x0, 0x0⟩,
  ⟨"DIAG_PRBS_ERR", 0x40, 6, 0x4, .rc, 0x0, 0x0, 0x0⟩,
  ⟨"DIAG_RB_TEST", 0x60, 1, 0x0, .wo, 0x0, 0x0, 0x0⟩,
  ⟨"DIAG_RB_STAT", 0x64, 1, 0x0, .ro, 0x0, 0x0, 0x0⟩,
  ⟨"DIAG_BIST_CTRL", 0x80, 1, 0x0, .wo, 0x0, 0x0, 0x0⟩,
  ⟨"DIAG_BIST_STAT", 0x84, 1, 0x0, .ro, 0x0, 0x0, 0x0⟩,
  ⟨"DIAG_BIST_FAIL", 0x88, 1, 0x0, .ro, 0x0, 0x0, 0x0⟩,
  ⟨"DIAG_CE", 0x100, 6, 0x8, .rc, 0x0, 0x0, 0x0⟩,
  ⟨"DIAG_UE", 0x104, 6, 0x8, .rc, 0x0, 0x0, 0x0⟩,
  ⟨"DIAG_GUARD_SUM", 0x140, 1, 0x0, .ro, 0x0, 0x0, 0x0⟩,
  ⟨"DIAG_PTR_SUM", 0x144, 1, 0x0, .w1c, 0x0, 0xFFFFFFFF, 0x0⟩,
  ⟨"DIAG_DUMP_CTRL", 0x200, 1, 0x0, .wo, 0x0, 0x0, 0x0⟩,
  ⟨"DIAG_DUMP_ARG", 0x204, 1, 0x0, .rw, 0xFFFFFFFF, 0x0, 0x0⟩,
  ⟨"DIAG_DUMP_LEN", 0x208, 1, 0x0, .rw, 0x1FFFFF, 0x0, 0x0⟩,
  ⟨"DIAG_DUMP_STAT", 0x20C, 1, 0x0, .ro, 0x0, 0x0, 0x0⟩]

/-- The register map of block index `i` (R41). -/
def blockRows : Nat → List RegRow
  | 0 => rowsSys
  | 1 => rowsTrust
  | 2 => rowsPart
  | 3 => rowsTime
  | 4 => rowsMac
  | 5 => rowsMac
  | 6 => rowsMac
  | 7 => rowsMac
  | 8 => rowsMac
  | 9 => rowsSiu
  | 10 => rowsSvp
  | 11 => rowsSca
  | 12 => rowsPcx
  | 13 => rowsTsk
  | 14 => rowsTmx
  | 15 => rowsGse
  | 16 => rowsCmd
  | 17 => rowsFbc
  | 18 => rowsFbc
  | 19 => rowsDrc
  | 20 => rowsAlm
  | 21 => rowsMtr
  | 22 => rowsMir
  | 23 => rowsPwr
  | 24 => rowsDiag
  | _ => []

/-! Addresses by name. -/

namespace R

/-- SYS_ID -/
abbrev sysId : Nat := 0xF0000000
/-- SYS_REV -/
abbrev sysRev : Nat := 0xF0000004
/-- SYS_CLK_STAT -/
abbrev sysClkStat : Nat := 0xF0000010
/-- SYS_CLK_EVT -/
abbrev sysClkEvt : Nat := 0xF0000014
/-- SYS_RST_CAUSE -/
abbrev sysRstCause : Nat := 0xF0000020
/-- SYS_RST_REQ -/
abbrev sysRstReq : Nat := 0xF0000024
/-- SYS_SLOT -/
abbrev sysSlot : Nat := 0xF0000028
/-- PWR_STAT -/
abbrev pwrStat : Nat := 0xF0170000
/-- PWR_EVT -/
abbrev pwrEvt : Nat := 0xF0170004
/-- PWR_INT_EN -/
abbrev pwrIntEn : Nat := 0xF0170008
/-- PWR_CFG -/
abbrev pwrCfg : Nat := 0xF017000C
/-- PWR_VIN -/
abbrev pwrVin : Nat := 0xF0170010
/-- PWR_STORE -/
abbrev pwrStore : Nat := 0xF0170014
/-- PWR_TEMP -/
abbrev pwrTemp : Nat := 0xF0170018
/-- PWR_CYCLES -/
abbrev pwrCycles : Nat := 0xF0170020
/-- PWR_OPSEC_LO -/
abbrev pwrOpsecLo : Nat := 0xF0170024
/-- PWR_OPSEC_HI -/
abbrev pwrOpsecHi : Nat := 0xF0170028
/-- PWR_TWI_STAT -/
abbrev pwrTwiStat : Nat := 0xF0170030
/-- PWR_SFP -/
abbrev pwrSfp : Nat := 0xF0170040
/-- PWR_LED_CTRL -/
abbrev pwrLedCtrl : Nat := 0xF0170044
/-- TRUST_LC_STAT -/
abbrev trustLcStat : Nat := 0xF0010000
/-- TRUST_BOOT_STAT -/
abbrev trustBootStat : Nat := 0xF0010010
/-- TRUST_CMD -/
abbrev trustCmd : Nat := 0xF0010020
/-- TRUST_CMD_STAT -/
abbrev trustCmdStat : Nat := 0xF0010024
/-- TRUST_EVT -/
abbrev trustEvt : Nat := 0xF0010028
/-- TRUST_INT_EN -/
abbrev trustIntEn : Nat := 0xF001002C
/-- TRUST_ARG -/
abbrev trustArg (n : Nat) : Nat := 0xF0010030 + n * 0x4
/-- TRUST_KEY_SEL -/
abbrev trustKeySel : Nat := 0xF0010040
/-- TRUST_KEYREG_STAT -/
abbrev trustKeyregStat : Nat := 0xF0010044
/-- TRUST_KS_ATTR -/
abbrev trustKsAttr : Nat := 0xF0010048
/-- TRUST_KS_KEYID -/
abbrev trustKsKeyid : Nat := 0xF001004C
/-- TRUST_WIPE_STAT -/
abbrev trustWipeStat : Nat := 0xF0010050
/-- TRUST_FUSE_KEYS -/
abbrev trustFuseKeys : Nat := 0xF0010054
/-- TRUST_WDOG_CFG -/
abbrev trustWdogCfg : Nat := 0xF0010058
/-- TRUST_WDOG_KICK -/
abbrev trustWdogKick : Nat := 0xF001005C
/-- TRUST_DIGEST -/
abbrev trustDigest (n : Nat) : Nat := 0xF0010060 + n * 0x4
/-- PART_MODE -/
abbrev partMode : Nat := 0xF0020000
/-- PART_EN -/
abbrev partEn : Nat := 0xF0020004
/-- PART_RUN -/
abbrev partRun : Nat := 0xF0020008
/-- PART_WORLD -/
abbrev partWorld : Nat := 0xF0020010
/-- PART_HART_CTX -/
abbrev partHartCtx (n : Nat) : Nat := 0xF0020020 + n * 0x4
/-- PART_EVT -/
abbrev partEvt : Nat := 0xF0020040
/-- PART_INT_EN -/
abbrev partIntEn : Nat := 0xF0020044
/-- PART_AV_INFO -/
abbrev partAvInfo : Nat := 0xF0020050
/-- PART_AV_ADDR_LO -/
abbrev partAvAddrLo : Nat := 0xF0020054
/-- PART_AV_ADDR_HI -/
abbrev partAvAddrHi : Nat := 0xF0020058
/-- PART_AV_COUNT -/
abbrev partAvCount : Nat := 0xF002005C
/-- PART_HANDOVER_LO -/
abbrev partHandoverLo : Nat := 0xF0020060
/-- PART_HANDOVER_HI -/
abbrev partHandoverHi : Nat := 0xF0020064
/-- PART_MED_CMD -/
abbrev partMedCmd : Nat := 0xF0020400
/-- PART_MED_ARG -/
abbrev partMedArg : Nat := 0xF0020404
/-- PART_MED_STAT -/
abbrev partMedStat : Nat := 0xF0020408
/-- SLC_CORES -/
abbrev slcCores (n : Nat) : Nat := 0xF0020100 + n * 0x40
/-- SLC_CTX -/
abbrev slcCtx (n : Nat) : Nat := 0xF0020104 + n * 0x40
/-- SLC_GRP -/
abbrev slcGrp (n : Nat) : Nat := 0xF0020108 + n * 0x40
/-- SLC_TASK -/
abbrev slcTask (n : Nat) : Nat := 0xF002010C + n * 0x40
/-- SLC_GPUB -/
abbrev slcGpub (n : Nat) : Nat := 0xF0020110 + n * 0x40
/-- SLC_GSUB -/
abbrev slcGsub (n : Nat) : Nat := 0xF0020114 + n * 0x40
/-- SLC_SVP -/
abbrev slcSvp (n : Nat) : Nat := 0xF0020118 + n * 0x40
/-- SLC_FLAGPG -/
abbrev slcFlagpg (n : Nat) : Nat := 0xF0020120 + n * 0x40
/-- SLC_FLAGPG_C -/
abbrev slcFlagpgC (n : Nat) : Nat := 0xF0020124 + n * 0x40
/-- SLC_LANES -/
abbrev slcLanes (n : Nat) : Nat := 0xF0020128 + n * 0x40
/-- SLC_LANES_C -/
abbrev slcLanesC (n : Nat) : Nat := 0xF002012C + n * 0x40
/-- REG_BASE_LO -/
abbrev regBaseLo (n : Nat) : Nat := 0xF0021000 + n * 0x20
/-- REG_BASE_HI -/
abbrev regBaseHi (n : Nat) : Nat := 0xF0021004 + n * 0x20
/-- REG_SIZE -/
abbrev regSize (n : Nat) : Nat := 0xF0021008 + n * 0x20
/-- REG_ATTR -/
abbrev regAttr (n : Nat) : Nat := 0xF002100C + n * 0x20
/-- REG_PIDMASK -/
abbrev regPidmask (n : Nat) : Nat := 0xF0021010 + n * 0x20
/-- HNQ_POP -/
abbrev hnqPop (n : Nat) : Nat := 0xF0028000 + n * 0x20
/-- HNQ_POP_TAG -/
abbrev hnqPopTag (n : Nat) : Nat := 0xF0028004 + n * 0x20
/-- HNQ_STAT -/
abbrev hnqStat (n : Nat) : Nat := 0xF0028008 + n * 0x20
/-- HNQ_EVT -/
abbrev hnqEvt (n : Nat) : Nat := 0xF002800C + n * 0x20
/-- HNQ_LOST -/
abbrev hnqLost (n : Nat) : Nat := 0xF0028010 + n * 0x20
/-- HNQ_CFG -/
abbrev hnqCfg (n : Nat) : Nat := 0xF0028014 + n * 0x20
/-- TIME_CFG -/
abbrev timeCfg : Nat := 0xF0030000
/-- TIME_FAR_TH -/
abbrev timeFarTh : Nat := 0xF0030004
/-- TIME_CTRL -/
abbrev timeCtrl : Nat := 0xF0030008
/-- TIME_STAT -/
abbrev timeStat : Nat := 0xF003000C
/-- TIME_EVT -/
abbrev timeEvt : Nat := 0xF0030010
/-- TIME_INT_EN -/
abbrev timeIntEn : Nat := 0xF0030014
/-- TIME_NOTIFY -/
abbrev timeNotify : Nat := 0xF0030018
/-- TIME_NOW_NS -/
abbrev timeNowNs : Nat := 0xF0030020
/-- TIME_NOW_SEC_LO -/
abbrev timeNowSecLo : Nat := 0xF0030024
/-- TIME_NOW_SEC_HI -/
abbrev timeNowSecHi : Nat := 0xF0030028
/-- TIME_UTC -/
abbrev timeUtc : Nat := 0xF003002C
/-- TIME_UTC_NOW -/
abbrev timeUtcNow : Nat := 0xF0030030
/-- TIME_TICK_CFG -/
abbrev timeTickCfg : Nat := 0xF0030040
/-- TIME_TICK_CTRL -/
abbrev timeTickCtrl : Nat := 0xF0030044
/-- TIME_TICK_NOW -/
abbrev timeTickNow : Nat := 0xF0030048
/-- TIME_IRIG_CFG -/
abbrev timeIrigCfg : Nat := 0xF0030080
/-- TIME_IRIG_STAT -/
abbrev timeIrigStat : Nat := 0xF0030084
/-- TIME_IRIG_CNT -/
abbrev timeIrigCnt : Nat := 0xF0030088
/-- TIME_PPS_CFG -/
abbrev timePpsCfg : Nat := 0xF0030090
/-- TIME_PPS_SEC -/
abbrev timePpsSec : Nat := 0xF0030094
/-- TIME_PPS_STAT -/
abbrev timePpsStat : Nat := 0xF0030098
/-- DOM_CTRL -/
abbrev domCtrl (n : Nat) : Nat := 0xF0030104 + n * 0x40
/-- DOM_STAT -/
abbrev domStat (n : Nat) : Nat := 0xF0030108 + n * 0x40
/-- DOM_OFFSET -/
abbrev domOffset (n : Nat) : Nat := 0xF003010C + n * 0x40
/-- DOM_RATE -/
abbrev domRate (n : Nat) : Nat := 0xF0030110 + n * 0x40
/-- DOM_GM_ID_LO -/
abbrev domGmIdLo (n : Nat) : Nat := 0xF0030114 + n * 0x40
/-- DOM_GM_ID_HI -/
abbrev domGmIdHi (n : Nat) : Nat := 0xF0030118 + n * 0x40
/-- DOM_TTI -/
abbrev domTti (n : Nat) : Nat := 0xF003011C + n * 0x40
/-- DOM_UTC -/
abbrev domUtc (n : Nat) : Nat := 0xF0030120 + n * 0x40
/-- DOM_CNT -/
abbrev domCnt (n : Nat) : Nat := 0xF0030124 + n * 0x40
/-- TSP_RX_COMP -/
abbrev tspRxComp (n : Nat) : Nat := 0xF0030200 + n * 0x40
/-- TSP_TX_COMP -/
abbrev tspTxComp (n : Nat) : Nat := 0xF0030204 + n * 0x40
/-- TSP_ASYM -/
abbrev tspAsym (n : Nat) : Nat := 0xF0030208 + n * 0x40
/-- TSP_PDELAY -/
abbrev tspPdelay (n : Nat) : Nat := 0xF003020C + n * 0x40
/-- TXQ_POP0 -/
abbrev txqPop0 (n : Nat) : Nat := 0xF0030210 + n * 0x40
/-- TXQ_POP1 -/
abbrev txqPop1 (n : Nat) : Nat := 0xF0030214 + n * 0x40
/-- TXQ_POP2 -/
abbrev txqPop2 (n : Nat) : Nat := 0xF0030218 + n * 0x40
/-- TXQ_POP3 -/
abbrev txqPop3 (n : Nat) : Nat := 0xF003021C + n * 0x40
/-- TXQ_STAT -/
abbrev txqStat (n : Nat) : Nat := 0xF0030220 + n * 0x40
/-- TXQ_EVT -/
abbrev txqEvt (n : Nat) : Nat := 0xF0030224 + n * 0x40
/-- TXQ_WM -/
abbrev txqWm (n : Nat) : Nat := 0xF0030228 + n * 0x40
/-- TXQ_CNT -/
abbrev txqCnt (n : Nat) : Nat := 0xF003022C + n * 0x40
/-- TXQ_CTRL -/
abbrev txqCtrl (n : Nat) : Nat := 0xF0030230 + n * 0x40
/-- TSP_PTP_CNT -/
abbrev tspPtpCnt (n : Nat) : Nat := 0xF0030234 + n * 0x40
/-- BI_STATE -/
abbrev biState : Nat := 0xF0030400
/-- BI_EDGE_EN -/
abbrev biEdgeEn : Nat := 0xF0030404
/-- BI_MIRROR -/
abbrev biMirror : Nat := 0xF0030408
/-- BI_FILTER -/
abbrev biFilter (n : Nat) : Nat := 0xF0030410 + n * 0x4
/-- BIQ_POP0 -/
abbrev biqPop0 : Nat := 0xF0030420
/-- BIQ_POP1 -/
abbrev biqPop1 : Nat := 0xF0030424
/-- BIQ_POP2 -/
abbrev biqPop2 : Nat := 0xF0030428
/-- BIQ_STAT -/
abbrev biqStat : Nat := 0xF0030430
/-- BIQ_EVT -/
abbrev biqEvt : Nat := 0xF0030434
/-- BIQ_WM -/
abbrev biqWm : Nat := 0xF0030438
/-- BIQ_CNT -/
abbrev biqCnt : Nat := 0xF003043C
/-- BIQ_CTRL -/
abbrev biqCtrl : Nat := 0xF0030440
/-- MAC_CFG -/
abbrev macCfg (m : Nat) : Nat := 0xF0040000 + m * 0x10000
/-- MAC_CTRL -/
abbrev macCtrl (m : Nat) : Nat := 0xF0040004 + m * 0x10000
/-- MAC_STAT -/
abbrev macStat (m : Nat) : Nat := 0xF0040008 + m * 0x10000
/-- MAC_EVT -/
abbrev macEvt (m : Nat) : Nat := 0xF004000C + m * 0x10000
/-- MAC_INT_EN -/
abbrev macIntEn (m : Nat) : Nat := 0xF0040010 + m * 0x10000
/-- MAC_ADDR_LO -/
abbrev macAddrLo (m : Nat) : Nat := 0xF0040014 + m * 0x10000
/-- MAC_ADDR_HI -/
abbrev macAddrHi (m : Nat) : Nat := 0xF0040018 + m * 0x10000
/-- MAC_TX_CT -/
abbrev macTxCt (m : Nat) : Nat := 0xF004001C + m * 0x10000
/-- MAC_TX_TAG -/
abbrev macTxTag (m : Nat) : Nat := 0xF0040020 + m * 0x10000
/-- MAC_NOTIFY -/
abbrev macNotify (m : Nat) : Nat := 0xF0040024 + m * 0x10000
/-- MAC_LRE_CFG -/
abbrev macLreCfg (m : Nat) : Nat := 0xF0040030 + m * 0x10000
/-- MAC_LRE_STAT -/
abbrev macLreStat (m : Nat) : Nat := 0xF0040034 + m * 0x10000
/-- MAC_SUP_CFG -/
abbrev macSupCfg (m : Nat) : Nat := 0xF0040038 + m * 0x10000
/-- MAC_SFP_CMD -/
abbrev macSfpCmd (m : Nat) : Nat := 0xF0040040 + m * 0x10000
/-- MAC_SFP_RES -/
abbrev macSfpRes (m : Nat) : Nat := 0xF0040044 + m * 0x10000
/-- MAC_SIU_CRED -/
abbrev macSiuCred (m : Nat) : Nat := 0xF0040050 + m * 0x10000
/-- MAC_CNT -/
abbrev macCnt (m : Nat) (n : Nat) : Nat := 0xF0040100 + m * 0x10000 + n * 0x4
/-- RXR_BASE_LO -/
abbrev rxrBaseLo (m : Nat) (n : Nat) : Nat := 0xF0040200 + m * 0x10000 + n * 0x40
/-- RXR_BASE_HI -/
abbrev rxrBaseHi (m : Nat) (n : Nat) : Nat := 0xF0040204 + m * 0x10000 + n * 0x40
/-- RXR_CFG -/
abbrev rxrCfg (m : Nat) (n : Nat) : Nat := 0xF0040208 + m * 0x10000 + n * 0x40
/-- RXR_CTRL -/
abbrev rxrCtrl (m : Nat) (n : Nat) : Nat := 0xF004020C + m * 0x10000 + n * 0x40
/-- RXR_WR -/
abbrev rxrWr (m : Nat) (n : Nat) : Nat := 0xF0040210 + m * 0x10000 + n * 0x40
/-- RXR_RD -/
abbrev rxrRd (m : Nat) (n : Nat) : Nat := 0xF0040214 + m * 0x10000 + n * 0x40
/-- RXR_WM -/
abbrev rxrWm (m : Nat) (n : Nat) : Nat := 0xF0040218 + m * 0x10000 + n * 0x40
/-- RXR_STAT -/
abbrev rxrStat (m : Nat) (n : Nat) : Nat := 0xF004021C + m * 0x10000 + n * 0x40
/-- RXR_EVT -/
abbrev rxrEvt (m : Nat) (n : Nat) : Nat := 0xF0040220 + m * 0x10000 + n * 0x40
/-- RXR_CNT -/
abbrev rxrCnt (m : Nat) (n : Nat) : Nat := 0xF0040224 + m * 0x10000 + n * 0x40
/-- FR_DA_LO -/
abbrev frDaLo (m : Nat) (n : Nat) : Nat := 0xF0041000 + m * 0x10000 + n * 0x20
/-- FR_DA_HI -/
abbrev frDaHi (m : Nat) (n : Nat) : Nat := 0xF0041004 + m * 0x10000 + n * 0x20
/-- FR_ET -/
abbrev frEt (m : Nat) (n : Nat) : Nat := 0xF0041008 + m * 0x10000 + n * 0x20
/-- FR_ET_MASK -/
abbrev frEtMask (m : Nat) (n : Nat) : Nat := 0xF004100C + m * 0x10000 + n * 0x20
/-- FR_VLAN -/
abbrev frVlan (m : Nat) (n : Nat) : Nat := 0xF0041010 + m * 0x10000 + n * 0x20
/-- FR_ACT -/
abbrev frAct (m : Nat) (n : Nat) : Nat := 0xF0041014 + m * 0x10000 + n * 0x20
/-- FR_HITS -/
abbrev frHits (m : Nat) (n : Nat) : Nat := 0xF0041018 + m * 0x10000 + n * 0x20
/-- SIU_STAT -/
abbrev siuStat : Nat := 0xF0090000
/-- SIU_EVT -/
abbrev siuEvt : Nat := 0xF0090004
/-- SIU_INT_EN -/
abbrev siuIntEn : Nat := 0xF0090008
/-- SIU_TEST_ACC -/
abbrev siuTestAcc : Nat := 0xF0090010
/-- SIU_SIM_ACC -/
abbrev siuSimAcc : Nat := 0xF0090014
/-- SIU_BUF_WM -/
abbrev siuBufWm : Nat := 0xF0090018
/-- SIU_CTX_FLUSH -/
abbrev siuCtxFlush : Nat := 0xF009001C
/-- SIU_CNT -/
abbrev siuCnt (n : Nat) : Nat := 0xF0090040 + n * 0x4
/-- SIU_KEY_ID -/
abbrev siuKeyId (n : Nat) : Nat := 0xF0090400 + n * 0x4
/-- CTX_CFG -/
abbrev ctxCfg (n : Nat) : Nat := 0xF0091000 + n * 0x20
/-- CTX_ID -/
abbrev ctxId (n : Nat) : Nat := 0xF0091004 + n * 0x20
/-- CTX_SVID_CRC -/
abbrev ctxSvidCrc (n : Nat) : Nat := 0xF0091008 + n * 0x20
/-- CTX_CONFREV -/
abbrev ctxConfrev (n : Nat) : Nat := 0xF009100C + n * 0x20
/-- CTX_KEY -/
abbrev ctxKey (n : Nat) : Nat := 0xF0091010 + n * 0x20
/-- CTX_STAT -/
abbrev ctxStat (n : Nat) : Nat := 0xF0091014 + n * 0x20
/-- CTX_EVT -/
abbrev ctxEvt (n : Nat) : Nat := 0xF0091018 + n * 0x20
/-- CTX_CNT -/
abbrev ctxCnt (n : Nat) : Nat := 0xF009101C + n * 0x20
/-- GRP_CFG -/
abbrev grpCfg (n : Nat) : Nat := 0xF0099000 + n * 0x10
/-- GRP_STAT -/
abbrev grpStat (n : Nat) : Nat := 0xF0099004 + n * 0x10
/-- GRP_LAT -/
abbrev grpLat (n : Nat) : Nat := 0xF0099008 + n * 0x10
/-- GRP_CNT -/
abbrev grpCnt (n : Nat) : Nat := 0xF009900C + n * 0x10
/-- SVP_STAT -/
abbrev svpStat : Nat := 0xF00A0000
/-- SVP_EVT -/
abbrev svpEvt : Nat := 0xF00A0004
/-- SVP_INT_EN -/
abbrev svpIntEn : Nat := 0xF00A0008
/-- SVP_KEY_ID -/
abbrev svpKeyId (n : Nat) : Nat := 0xF00A0100 + n * 0x4
/-- PUB_CFG -/
abbrev pubCfg (n : Nat) : Nat := 0xF00A1000 + n * 0x40
/-- PUB_DA_LO -/
abbrev pubDaLo (n : Nat) : Nat := 0xF00A1004 + n * 0x40
/-- PUB_DA_HI -/
abbrev pubDaHi (n : Nat) : Nat := 0xF00A1008 + n * 0x40
/-- PUB_TAG -/
abbrev pubTag (n : Nat) : Nat := 0xF00A100C + n * 0x40
/-- PUB_CONFREV -/
abbrev pubConfrev (n : Nat) : Nat := 0xF00A1010 + n * 0x40
/-- PUB_SVID -/
abbrev pubSvid (n : Nat) : Nat := 0xF00A1014 + n * 0x40
/-- PUB_SRC -/
abbrev pubSrc (n : Nat) : Nat := 0xF00A1018 + n * 0x40
/-- PUB_RING -/
abbrev pubRing (n : Nat) : Nat := 0xF00A101C + n * 0x40
/-- PUB_OFS -/
abbrev pubOfs (n : Nat) : Nat := 0xF00A1020 + n * 0x40
/-- PUB_KEY -/
abbrev pubKey (n : Nat) : Nat := 0xF00A1024 + n * 0x40
/-- PUB_STAT -/
abbrev pubStat (n : Nat) : Nat := 0xF00A1028 + n * 0x40
/-- PUB_CNT -/
abbrev pubCnt (n : Nat) : Nat := 0xF00A102C + n * 0x40
/-- SCA_STAT -/
abbrev scaStat : Nat := 0xF00B0000
/-- SCA_EVT -/
abbrev scaEvt : Nat := 0xF00B0004
/-- SCA_INT_EN -/
abbrev scaIntEn : Nat := 0xF00B0008
/-- SCA_NOTIFY -/
abbrev scaNotify : Nat := 0xF00B000C
/-- SCA_SMP_BASE -/
abbrev scaSmpBase : Nat := 0xF00B0010
/-- SCA_PH_BASE -/
abbrev scaPhBase : Nat := 0xF00B0014
/-- SCA_AG_BASE -/
abbrev scaAgBase : Nat := 0xF00B0018
/-- SCA_BANK_SRC -/
abbrev scaBankSrc : Nat := 0xF00B0020
/-- SCA_BANK_LOAD -/
abbrev scaBankLoad : Nat := 0xF00B0024
/-- SCA_BANK_STAT -/
abbrev scaBankStat : Nat := 0xF00B0028
/-- SCA_CH_PAGE -/
abbrev scaChPage : Nat := 0xF00B0030
/-- SCA_CNT_REL -/
abbrev scaCntRel : Nat := 0xF00B0040
/-- SCA_CNT_DISC -/
abbrev scaCntDisc : Nat := 0xF00B0044
/-- SCA_LAT -/
abbrev scaLat : Nat := 0xF00B0048
/-- SCA_GRP_CFG -/
abbrev scaGrpCfg (n : Nat) : Nat := 0xF00B1000 + n * 0x10
/-- SCA_GRP_STAT -/
abbrev scaGrpStat (n : Nat) : Nat := 0xF00B1004 + n * 0x10
/-- SCA_GRP_EVT -/
abbrev scaGrpEvt (n : Nat) : Nat := 0xF00B1008 + n * 0x10
/-- SCA_GRP_CNT -/
abbrev scaGrpCnt (n : Nat) : Nat := 0xF00B100C + n * 0x10
/-- SCA_AG_CFG -/
abbrev scaAgCfg (n : Nat) : Nat := 0xF00B2000 + n * 0x20
/-- SCA_AG_REF -/
abbrev scaAgRef (n : Nat) : Nat := 0xF00B2004 + n * 0x20
/-- SCA_AG_FRZ -/
abbrev scaAgFrz (n : Nat) : Nat := 0xF00B2008 + n * 0x20
/-- SCA_AG_LIM -/
abbrev scaAgLim (n : Nat) : Nat := 0xF00B200C + n * 0x20
/-- SCA_AG_STAT -/
abbrev scaAgStat (n : Nat) : Nat := 0xF00B2010 + n * 0x20
/-- SCA_AG_FREQ -/
abbrev scaAgFreq (n : Nat) : Nat := 0xF00B2014 + n * 0x20
/-- SCA_AG_EVT -/
abbrev scaAgEvt (n : Nat) : Nat := 0xF00B2018 + n * 0x20
/-- SCA_AG_CNT -/
abbrev scaAgCnt (n : Nat) : Nat := 0xF00B201C + n * 0x20
/-- SCA_CH_CFG -/
abbrev scaChCfg (n : Nat) : Nat := 0x2000000000 + n * 0x20
/-- SCA_CH_BINS -/
abbrev scaChBins (n : Nat) : Nat := 0x2000000004 + n * 0x20
/-- SCA_CH_STAT -/
abbrev scaChStat (n : Nat) : Nat := 0x2000000008 + n * 0x20
/-- SCA_CH_PHLEFT -/
abbrev scaChPhleft (n : Nat) : Nat := 0x200000000C + n * 0x20
/-- SCA_CH_INFO -/
abbrev scaChInfo (n : Nat) : Nat := 0x2000000010 + n * 0x20
/-- PCX_STAT -/
abbrev pcxStat : Nat := 0xF00C0000
/-- PCX_EVT -/
abbrev pcxEvt : Nat := 0xF00C0004
/-- PCX_INT_EN -/
abbrev pcxIntEn : Nat := 0xF00C0008
/-- PCX_PSTOP -/
abbrev pcxPstop : Nat := 0xF00C0010
/-- PCX_LOAD_SRC -/
abbrev pcxLoadSrc : Nat := 0xF00C0020
/-- PCX_LOAD_DST -/
abbrev pcxLoadDst : Nat := 0xF00C0024
/-- PCX_LOAD_LEN -/
abbrev pcxLoadLen : Nat := 0xF00C0028
/-- PCX_LOAD_CMD -/
abbrev pcxLoadCmd : Nat := 0xF00C002C
/-- PCX_LOAD_STAT -/
abbrev pcxLoadStat : Nat := 0xF00C0030
/-- PCX_EXC_CFG -/
abbrev pcxExcCfg (n : Nat) : Nat := 0xF00C0080 + n * 0x4
/-- CORE_SPILL -/
abbrev coreSpill (n : Nat) : Nat := 0xF00C1000 + n * 0x40
/-- CORE_STAT -/
abbrev coreStat (n : Nat) : Nat := 0xF00C1004 + n * 0x40
/-- CORE_EXC -/
abbrev coreExc (n : Nat) : Nat := 0xF00C1008 + n * 0x40
/-- CORE_EXC_PC -/
abbrev coreExcPc (n : Nat) : Nat := 0xF00C100C + n * 0x40
/-- CORE_EXC_ADDR -/
abbrev coreExcAddr (n : Nat) : Nat := 0xF00C1010 + n * 0x40
/-- CORE_EXC_T -/
abbrev coreExcT (n : Nat) : Nat := 0xF00C1014 + n * 0x40
/-- CORE_CNT -/
abbrev coreCnt (n : Nat) : Nat := 0xF00C1018 + n * 0x40
/-- CORE_DEPTH -/
abbrev coreDepth (n : Nat) : Nat := 0xF00C101C + n * 0x40
/-- CORE_CYC -/
abbrev coreCyc (n : Nat) : Nat := 0xF00C1020 + n * 0x40
/-- CORE_CYC_MAX -/
abbrev coreCycMax (n : Nat) : Nat := 0xF00C1024 + n * 0x40
/-- TSK_STAT -/
abbrev tskStat : Nat := 0xF00D0000
/-- TSK_EVT -/
abbrev tskEvt : Nat := 0xF00D0004
/-- TSK_INT_EN -/
abbrev tskIntEn : Nat := 0xF00D0008
/-- TSK_FORCED -/
abbrev tskForced : Nat := 0xF00D000C
/-- TSK_F_PAGE -/
abbrev tskFPage : Nat := 0xF00D0010
/-- TSK_RET_TOTAL -/
abbrev tskRetTotal : Nat := 0xF00D0014
/-- TSK_PL_STAT -/
abbrev tskPlStat : Nat := 0xF00D0018
/-- TSK_P_CTRL -/
abbrev tskPCtrl (n : Nat) : Nat := 0xF00D0100 + n * 0x20
/-- TSK_P_STAT -/
abbrev tskPStat (n : Nat) : Nat := 0xF00D0104 + n * 0x20
/-- TSK_P_MQ -/
abbrev tskPMq (n : Nat) : Nat := 0xF00D0108 + n * 0x20
/-- TSK_P_IMG -/
abbrev tskPImg (n : Nat) : Nat := 0xF00D010C + n * 0x20
/-- TSK_P_PLINTH -/
abbrev tskPPlinth (n : Nat) : Nat := 0xF00D0110 + n * 0x20
/-- TSK_P_EVT -/
abbrev tskPEvt (n : Nat) : Nat := 0xF00D0114 + n * 0x20
/-- TSK_P_CARRY -/
abbrev tskPCarry (n : Nat) : Nat := 0xF00D0118 + n * 0x20
/-- TSK_P_DROP -/
abbrev tskPDrop (n : Nat) : Nat := 0xF00D011C + n * 0x20
/-- TSK_T_DEF -/
abbrev tskTDef (n : Nat) : Nat := 0xF00D4000 + n * 0x20
/-- TSK_T_ACT -/
abbrev tskTAct (n : Nat) : Nat := 0xF00D4004 + n * 0x20
/-- TSK_T_DL -/
abbrev tskTDl (n : Nat) : Nat := 0xF00D4008 + n * 0x20
/-- TSK_T_ROOT -/
abbrev tskTRoot (n : Nat) : Nat := 0xF00D400C + n * 0x20
/-- TSK_T_CTRL -/
abbrev tskTCtrl (n : Nat) : Nat := 0xF00D4010 + n * 0x20
/-- TSK_T_STAT -/
abbrev tskTStat (n : Nat) : Nat := 0xF00D4014 + n * 0x20
/-- TSK_T_CNT -/
abbrev tskTCnt (n : Nat) : Nat := 0xF00D4018 + n * 0x20
/-- TSK_T_LAT -/
abbrev tskTLat (n : Nat) : Nat := 0xF00D401C + n * 0x20
/-- TMX_STAT -/
abbrev tmxStat : Nat := 0xF00E0000
/-- TMX_EVT -/
abbrev tmxEvt : Nat := 0xF00E0004
/-- TMX_INT_EN -/
abbrev tmxIntEn : Nat := 0xF00E0008
/-- TMX_LANE_OUT -/
abbrev tmxLaneOut : Nat := 0xF00E0010
/-- TMX_LANE_HOLD -/
abbrev tmxLaneHold : Nat := 0xF00E0014
/-- TMX_CNT -/
abbrev tmxCnt : Nat := 0xF00E0020
/-- TMX_PG_CFG -/
abbrev tmxPgCfg (n : Nat) : Nat := 0xF00E0100 + n * 0x4
/-- TMX_FLAGS -/
abbrev tmxFlags (n : Nat) : Nat := 0xF00E0200 + n * 0x4
/-- TMX_FORCED -/
abbrev tmxForced (n : Nat) : Nat := 0xF00E0400 + n * 0x4
/-- LANE_CFG -/
abbrev laneCfg (n : Nat) : Nat := 0xF00E1000 + n * 0x40
/-- LANE_STAT -/
abbrev laneStat (n : Nat) : Nat := 0xF00E1028 + n * 0x40
/-- LANE_CNT -/
abbrev laneCnt (n : Nat) : Nat := 0xF00E102C + n * 0x40
/-- LANE_TS_NS -/
abbrev laneTsNs (n : Nat) : Nat := 0xF00E1030 + n * 0x40
/-- LANE_TS_SEC -/
abbrev laneTsSec (n : Nat) : Nat := 0xF00E1034 + n * 0x40
/-- GSE_STAT -/
abbrev gseStat : Nat := 0xF00F0000
/-- GSE_EVT -/
abbrev gseEvt : Nat := 0xF00F0004
/-- GSE_INT_EN -/
abbrev gseIntEn : Nat := 0xF00F0008
/-- GSE_TEST_ACC -/
abbrev gseTestAcc : Nat := 0xF00F0010
/-- GSE_SIM_ACC -/
abbrev gseSimAcc : Nat := 0xF00F0014
/-- GSE_CNT -/
abbrev gseCnt (n : Nat) : Nat := 0xF00F0040 + n * 0x4
/-- GSE_KEY_ID -/
abbrev gseKeyId (n : Nat) : Nat := 0xF00F0100 + n * 0x4
/-- GP_CFG -/
abbrev gpCfg (n : Nat) : Nat := 0xF00F1000 + n * 0x40
/-- GP_DA_LO -/
abbrev gpDaLo (n : Nat) : Nat := 0xF00F1004 + n * 0x40
/-- GP_DA_HI -/
abbrev gpDaHi (n : Nat) : Nat := 0xF00F1008 + n * 0x40
/-- GP_TAG -/
abbrev gpTag (n : Nat) : Nat := 0xF00F100C + n * 0x40
/-- GP_CONFREV -/
abbrev gpConfrev (n : Nat) : Nat := 0xF00F1010 + n * 0x40
/-- GP_TIMING -/
abbrev gpTiming (n : Nat) : Nat := 0xF00F1014 + n * 0x40
/-- GP_REF -/
abbrev gpRef (n : Nat) : Nat := 0xF00F1018 + n * 0x40
/-- GP_STAT -/
abbrev gpStat (n : Nat) : Nat := 0xF00F101C + n * 0x40
/-- GP_STNUM -/
abbrev gpStnum (n : Nat) : Nat := 0xF00F1020 + n * 0x40
/-- GP_SQNUM -/
abbrev gpSqnum (n : Nat) : Nat := 0xF00F1024 + n * 0x40
/-- GP_CNT -/
abbrev gpCnt (n : Nat) : Nat := 0xF00F1028 + n * 0x40
/-- GS_CFG -/
abbrev gsCfg (n : Nat) : Nat := 0xF00F6000 + n * 0x20
/-- GS_ID -/
abbrev gsId (n : Nat) : Nat := 0xF00F6004 + n * 0x20
/-- GS_REF_CRC -/
abbrev gsRefCrc (n : Nat) : Nat := 0xF00F6008 + n * 0x20
/-- GS_CONFREV -/
abbrev gsConfrev (n : Nat) : Nat := 0xF00F600C + n * 0x20
/-- GS_MAP -/
abbrev gsMap (n : Nat) : Nat := 0xF00F6010 + n * 0x20
/-- GS_REC -/
abbrev gsRec (n : Nat) : Nat := 0xF00F6014 + n * 0x20
/-- GS_KEY -/
abbrev gsKey (n : Nat) : Nat := 0xF00F6018 + n * 0x20
/-- GS_STAT -/
abbrev gsStat (n : Nat) : Nat := 0xF00F601C + n * 0x20
/-- CMD_STAT -/
abbrev cmdStat : Nat := 0xF0100000
/-- CMD_EVT -/
abbrev cmdEvt : Nat := 0xF0100004
/-- CMD_INT_EN -/
abbrev cmdIntEn : Nat := 0xF0100008
/-- CMD_NOTIFY -/
abbrev cmdNotify : Nat := 0xF010000C
/-- CMD_ORD -/
abbrev cmdOrd : Nat := 0xF0100010
/-- CMD_RES_POP -/
abbrev cmdResPop : Nat := 0xF0100014
/-- CMD_RES_STAT -/
abbrev cmdResStat : Nat := 0xF0100018
/-- CMD_CTRL -/
abbrev cmdCtrl : Nat := 0xF010001C
/-- CMD_CNT_NA -/
abbrev cmdCntNa : Nat := 0xF0100020
/-- CMD_RES_LOST -/
abbrev cmdResLost : Nat := 0xF0100024
/-- CO_CFG -/
abbrev coCfg (n : Nat) : Nat := 0xF0101000 + n * 0x40
/-- CO_TMO -/
abbrev coTmo (n : Nat) : Nat := 0xF0101004 + n * 0x40
/-- CO_PFLAG -/
abbrev coPflag (n : Nat) : Nat := 0xF0101008 + n * 0x40
/-- CO_LFLAG -/
abbrev coLflag (n : Nat) : Nat := 0xF010100C + n * 0x40
/-- CO_ENA -/
abbrev coEna (n : Nat) : Nat := 0xF0101010 + n * 0x40
/-- CO_POS -/
abbrev coPos (n : Nat) : Nat := 0xF0101014 + n * 0x40
/-- CO_STATE -/
abbrev coState (n : Nat) : Nat := 0xF0101018 + n * 0x40
/-- CO_RESULT -/
abbrev coResult (n : Nat) : Nat := 0xF010101C + n * 0x40
/-- CO_CNT -/
abbrev coCnt (n : Nat) : Nat := 0xF0101020 + n * 0x40
/-- FBC_CFG -/
abbrev fbcCfg (m : Nat) : Nat := 0xF0110000 + m * 0x10000
/-- FBC_CTRL -/
abbrev fbcCtrl (m : Nat) : Nat := 0xF0110004 + m * 0x10000
/-- FBC_STAT -/
abbrev fbcStat (m : Nat) : Nat := 0xF0110008 + m * 0x10000
/-- FBC_EVT -/
abbrev fbcEvt (m : Nat) : Nat := 0xF011000C + m * 0x10000
/-- FBC_INT_EN -/
abbrev fbcIntEn (m : Nat) : Nat := 0xF0110010 + m * 0x10000
/-- FBC_NOTIFY -/
abbrev fbcNotify (m : Nat) : Nat := 0xF0110014 + m * 0x10000
/-- FBC_NBT -/
abbrev fbcNbt (m : Nat) : Nat := 0xF0110020 + m * 0x10000
/-- FBC_DBT -/
abbrev fbcDbt (m : Nat) : Nat := 0xF0110024 + m * 0x10000
/-- FBC_ERRCNT -/
abbrev fbcErrcnt (m : Nat) : Nat := 0xF0110028 + m * 0x10000
/-- TQ0_STAT -/
abbrev tq0Stat (m : Nat) : Nat := 0xF0110030 + m * 0x10000
/-- TQ0_CNT -/
abbrev tq0Cnt (m : Nat) : Nat := 0xF0110034 + m * 0x10000
/-- TQ1_PUSH -/
abbrev tq1Push (m : Nat) : Nat := 0xF0110040 + m * 0x10000
/-- TQ1_STAT -/
abbrev tq1Stat (m : Nat) : Nat := 0xF0110044 + m * 0x10000
/-- TQ1_EVT -/
abbrev tq1Evt (m : Nat) : Nat := 0xF0110048 + m * 0x10000
/-- TQ1_CTRL -/
abbrev tq1Ctrl (m : Nat) : Nat := 0xF011004C + m * 0x10000
/-- TQ1_CNT -/
abbrev tq1Cnt (m : Nat) : Nat := 0xF0110050 + m * 0x10000
/-- FBC_CNT -/
abbrev fbcCnt (m : Nat) (n : Nat) : Nat := 0xF01100A0 + m * 0x10000 + n * 0x4
/-- RQ_HEAD -/
abbrev rqHead (m : Nat) (n : Nat) : Nat := 0xF0110060 + m * 0x10000 + n * 0x20
/-- RQ_STAT -/
abbrev rqStat (m : Nat) (n : Nat) : Nat := 0xF0110064 + m * 0x10000 + n * 0x20
/-- RQ_EVT -/
abbrev rqEvt (m : Nat) (n : Nat) : Nat := 0xF0110068 + m * 0x10000 + n * 0x20
/-- RQ_CNT -/
abbrev rqCnt (m : Nat) (n : Nat) : Nat := 0xF0110070 + m * 0x10000 + n * 0x20
/-- RQ_CTRL -/
abbrev rqCtrl (m : Nat) (n : Nat) : Nat := 0xF0110074 + m * 0x10000 + n * 0x20
/-- FBF_MATCH -/
abbrev fbfMatch (m : Nat) (n : Nat) : Nat := 0xF0111000 + m * 0x10000 + n * 0x10
/-- FBF_MASK -/
abbrev fbfMask (m : Nat) (n : Nat) : Nat := 0xF0111004 + m * 0x10000 + n * 0x10
/-- FBF_ACT -/
abbrev fbfAct (m : Nat) (n : Nat) : Nat := 0xF0111008 + m * 0x10000 + n * 0x10
/-- FBF_HITS -/
abbrev fbfHits (m : Nat) (n : Nat) : Nat := 0xF011100C + m * 0x10000 + n * 0x10
/-- DRC_CFG -/
abbrev drcCfg : Nat := 0xF0130000
/-- DRC_CTRL -/
abbrev drcCtrl : Nat := 0xF0130004
/-- DRC_STAT -/
abbrev drcStat : Nat := 0xF0130008
/-- DRC_EVT -/
abbrev drcEvt : Nat := 0xF013000C
/-- DRC_INT_EN -/
abbrev drcIntEn : Nat := 0xF0130010
/-- DRC_NOTIFY -/
abbrev drcNotify : Nat := 0xF0130014
/-- DRC_PRE -/
abbrev drcPre : Nat := 0xF0130018
/-- DRC_POST -/
abbrev drcPost : Nat := 0xF013001C
/-- DRC_FLAGPG_LO -/
abbrev drcFlagpgLo : Nat := 0xF0130020
/-- DRC_FLAGPG_HI -/
abbrev drcFlagpgHi : Nat := 0xF0130024
/-- DRC_NCH -/
abbrev drcNch : Nat := 0xF0130028
/-- DRC_ROW -/
abbrev drcRow : Nat := 0xF013002C
/-- DRC_HOLD -/
abbrev drcHold : Nat := 0xF0130030
/-- DRC_TRIG_MAN -/
abbrev drcTrigMan : Nat := 0xF0130034
/-- DRC_BI_TRIG -/
abbrev drcBiTrig : Nat := 0xF0130038
/-- DRC_SEG_CMD -/
abbrev drcSegCmd : Nat := 0xF0130040
/-- DRC_SEG_SEL -/
abbrev drcSegSel : Nat := 0xF0130044
/-- DRC_SEG_INFO -/
abbrev drcSegInfo : Nat := 0xF0130048
/-- DRC_SEG_REC -/
abbrev drcSegRec : Nat := 0xF013004C
/-- DRC_EN_NUM -/
abbrev drcEnNum : Nat := 0xF0130050
/-- DRC_LIST_CRC -/
abbrev drcListCrc : Nat := 0xF0130054
/-- DRC_CNT -/
abbrev drcCnt (n : Nat) : Nat := 0xF0130060 + n * 0x4
/-- DRC_GSE_TRIG -/
abbrev drcGseTrig (n : Nat) : Nat := 0xF0130100 + n * 0x4
/-- DRC_CH -/
abbrev drcCh (n : Nat) : Nat := 0xF0131000 + n * 0x4
/-- DRC_FTU -/
abbrev drcFtu (n : Nat) : Nat := 0xF0133000 + n * 0x4
/-- ATU_CFG -/
abbrev atuCfg (n : Nat) : Nat := 0xF0132000 + n * 0x10
/-- ATU_THR -/
abbrev atuThr (n : Nat) : Nat := 0xF0132004 + n * 0x10
/-- ATU_HYST -/
abbrev atuHyst (n : Nat) : Nat := 0xF0132008 + n * 0x10
/-- ATU_CNT -/
abbrev atuCnt (n : Nat) : Nat := 0xF013200C + n * 0x10
/-- ALM_STAT -/
abbrev almStat : Nat := 0xF0140000
/-- ALM_EVT -/
abbrev almEvt : Nat := 0xF0140004
/-- ALM_INT_EN -/
abbrev almIntEn : Nat := 0xF0140008
/-- ALM_NOTIFY -/
abbrev almNotify : Nat := 0xF014000C
/-- ALM_CURSOR -/
abbrev almCursor : Nat := 0xF0140010
/-- ALM_CUR_SEQ -/
abbrev almCurSeq : Nat := 0xF0140014
/-- ALM_CUR_STAT -/
abbrev almCurStat : Nat := 0xF0140018
/-- ALM_SEQ_NEXT -/
abbrev almSeqNext : Nat := 0xF014001C
/-- ALM_SEQ_OLD -/
abbrev almSeqOld : Nat := 0xF0140020
/-- ALM_DROP01 -/
abbrev almDrop01 : Nat := 0xF0140024
/-- ALM_DROP23 -/
abbrev almDrop23 : Nat := 0xF0140028
/-- ALM_TORN -/
abbrev almTorn : Nat := 0xF014002C
/-- ALM_PQ_STAT -/
abbrev almPqStat : Nat := 0xF0140030
/-- ALM_POST_HDR -/
abbrev almPostHdr : Nat := 0xF0140040
/-- ALM_POST_INFO -/
abbrev almPostInfo (n : Nat) : Nat := 0xF0140044 + n * 0x4
/-- ALM_POST_GO -/
abbrev almPostGo : Nat := 0xF014005C
/-- ALM_WIN -/
abbrev almWin (n : Nat) : Nat := 0xF0140100 + n * 0x4
/-- MTR_STAT -/
abbrev mtrStat : Nat := 0xF0150000
/-- MTR_EVT -/
abbrev mtrEvt : Nat := 0xF0150004
/-- MTR_INT_EN -/
abbrev mtrIntEn : Nat := 0xF0150008
/-- MTR_NOTIFY -/
abbrev mtrNotify : Nat := 0xF015000C
/-- MTR_RES_BASE_LO -/
abbrev mtrResBaseLo : Nat := 0xF0150010
/-- MTR_RES_BASE_HI -/
abbrev mtrResBaseHi : Nat := 0xF0150014
/-- MTR_CKPT_STAT -/
abbrev mtrCkptStat : Nat := 0xF0150018
/-- MTR_CMD -/
abbrev mtrCmd : Nat := 0xF0150020
/-- MTR_CMD_STAT -/
abbrev mtrCmdStat : Nat := 0xF0150024
/-- MTR_PRESET_LO -/
abbrev mtrPresetLo : Nat := 0xF0150028
/-- MTR_PRESET_HI -/
abbrev mtrPresetHi : Nat := 0xF015002C
/-- PUL_CFG -/
abbrev pulCfg (n : Nat) : Nat := 0xF0150100 + n * 0x20
/-- PUL_TIME -/
abbrev pulTime (n : Nat) : Nat := 0xF0150104 + n * 0x20
/-- PUL_WEIGHT -/
abbrev pulWeight (n : Nat) : Nat := 0xF0150108 + n * 0x20
/-- PUL_STAT -/
abbrev pulStat (n : Nat) : Nat := 0xF015010C + n * 0x20
/-- PUL_SPILL -/
abbrev pulSpill (n : Nat) : Nat := 0xF0150110 + n * 0x20
/-- MP_CFG -/
abbrev mpCfg (n : Nat) : Nat := 0xF0151000 + n * 0x80
/-- MP_SLOTS -/
abbrev mpSlots (n : Nat) : Nat := 0xF0151004 + n * 0x80
/-- MP_CTRL -/
abbrev mpCtrl (n : Nat) : Nat := 0xF0151008 + n * 0x80
/-- MP_STAT -/
abbrev mpStat (n : Nat) : Nat := 0xF015100C + n * 0x80
/-- MP_UNCERT -/
abbrev mpUncert (n : Nat) : Nat := 0xF0151010 + n * 0x80
/-- MP_CNT -/
abbrev mpCnt (n : Nat) : Nat := 0xF0151014 + n * 0x80
/-- MP_DEMAND -/
abbrev mpDemand (n : Nat) : Nat := 0xF0151018 + n * 0x80
/-- MIR_CFG -/
abbrev mirCfg : Nat := 0xF0160000
/-- MIR_CTRL -/
abbrev mirCtrl : Nat := 0xF0160004
/-- MIR_STAT -/
abbrev mirStat : Nat := 0xF0160008
/-- MIR_EVT -/
abbrev mirEvt : Nat := 0xF016000C
/-- MIR_INT_EN -/
abbrev mirIntEn : Nat := 0xF0160010
/-- MIR_NOTIFY -/
abbrev mirNotify : Nat := 0xF0160014
/-- MIR_KEY -/
abbrev mirKey : Nat := 0xF0160018
/-- MIR_SNAP -/
abbrev mirSnap : Nat := 0xF016001C
/-- MIR_PATH -/
abbrev mirPath : Nat := 0xF0160020
/-- MIR_THRU -/
abbrev mirThru : Nat := 0xF0160024
/-- MIR_LINES -/
abbrev mirLines : Nat := 0xF0160028
/-- MIR_BG -/
abbrev mirBg : Nat := 0xF016002C
/-- MIR_CNT -/
abbrev mirCnt (n : Nat) : Nat := 0xF0160040 + n * 0x4
/-- MIR_KEY_ID -/
abbrev mirKeyId (n : Nat) : Nat := 0xF0160100 + n * 0x4
/-- MIR_WIN_BASE -/
abbrev mirWinBase (n : Nat) : Nat := 0xF0160200 + n * 0x8
/-- MIR_WIN_SIZE -/
abbrev mirWinSize (n : Nat) : Nat := 0xF0160204 + n * 0x8
/-- DIAG_STAT -/
abbrev diagStat : Nat := 0xF0180000
/-- DIAG_EVT -/
abbrev diagEvt : Nat := 0xF0180004
/-- DIAG_INT_EN -/
abbrev diagIntEn : Nat := 0xF0180008
/-- DIAG_NOTIFY -/
abbrev diagNotify : Nat := 0xF018000C
/-- DIAG_LB_MAC -/
abbrev diagLbMac : Nat := 0xF0180010
/-- DIAG_LB_FBC -/
abbrev diagLbFbc : Nat := 0xF0180014
/-- DIAG_LB_MIR -/
abbrev diagLbMir : Nat := 0xF0180018
/-- DIAG_PRBS_CTRL -/
abbrev diagPrbsCtrl : Nat := 0xF0180020
/-- DIAG_PRBS_LOCK -/
abbrev diagPrbsLock : Nat := 0xF0180024
/-- DIAG_PRBS_ERR -/
abbrev diagPrbsErr (n : Nat) : Nat := 0xF0180040 + n * 0x4
/-- DIAG_RB_TEST -/
abbrev diagRbTest : Nat := 0xF0180060
/-- DIAG_RB_STAT -/
abbrev diagRbStat : Nat := 0xF0180064
/-- DIAG_BIST_CTRL -/
abbrev diagBistCtrl : Nat := 0xF0180080
/-- DIAG_BIST_STAT -/
abbrev diagBistStat : Nat := 0xF0180084
/-- DIAG_BIST_FAIL -/
abbrev diagBistFail : Nat := 0xF0180088
/-- DIAG_CE -/
abbrev diagCe (n : Nat) : Nat := 0xF0180100 + n * 0x8
/-- DIAG_UE -/
abbrev diagUe (n : Nat) : Nat := 0xF0180104 + n * 0x8
/-- DIAG_GUARD_SUM -/
abbrev diagGuardSum : Nat := 0xF0180140
/-- DIAG_PTR_SUM -/
abbrev diagPtrSum : Nat := 0xF0180144
/-- DIAG_DUMP_CTRL -/
abbrev diagDumpCtrl : Nat := 0xF0180200
/-- DIAG_DUMP_ARG -/
abbrev diagDumpArg : Nat := 0xF0180204
/-- DIAG_DUMP_LEN -/
abbrev diagDumpLen : Nat := 0xF0180208
/-- DIAG_DUMP_STAT -/
abbrev diagDumpStat : Nat := 0xF018020C
/-- TXR_BASE_LO -/
abbrev txrBaseLo (m : Nat) (n : Nat) : Nat := 0xF0040400 + m * 0x10000 + n * 0x40
/-- TXR_BASE_HI -/
abbrev txrBaseHi (m : Nat) (n : Nat) : Nat := 0xF0040404 + m * 0x10000 + n * 0x40
/-- TXR_CFG -/
abbrev txrCfg (m : Nat) (n : Nat) : Nat := 0xF0040408 + m * 0x10000 + n * 0x40
/-- TXR_CTRL -/
abbrev txrCtrl (m : Nat) (n : Nat) : Nat := 0xF004040C + m * 0x10000 + n * 0x40
/-- TXR_WR -/
abbrev txrWr (m : Nat) (n : Nat) : Nat := 0xF0040410 + m * 0x10000 + n * 0x40
/-- TXR_RD -/
abbrev txrRd (m : Nat) (n : Nat) : Nat := 0xF0040414 + m * 0x10000 + n * 0x40
/-- TXR_STAT -/
abbrev txrStat (m : Nat) (n : Nat) : Nat := 0xF004041C + m * 0x10000 + n * 0x40
/-- TXR_EVT -/
abbrev txrEvt (m : Nat) (n : Nat) : Nat := 0xF0040420 + m * 0x10000 + n * 0x40
/-- TXR_CNT -/
abbrev txrCnt (m : Nat) (n : Nat) : Nat := 0xF0040424 + m * 0x10000 + n * 0x40
/-- DOM_CFG of domain d -/
abbrev domCfg (n : Nat) : Nat := 0xF0030100 + n * 0x40
/-- RQq_WM -/
abbrev rqWm (m n : Nat) : Nat := 0xF011006C + m * 0x10000 + n * 0x20
/-- RQq_WINw -/
abbrev rqWin (m n w : Nat) : Nat := 0xF0110100 + m * 0x10000 + n * 0x80 + w * 4
/-- LANE_SRCj of a lane -/
abbrev laneSrc (n j : Nat) : Nat := 0xF00E1008 + n * 0x40 + j * 8
/-- LANE_SRCj_C of a lane -/
abbrev laneSrcC (n j : Nat) : Nat := 0xF00E100C + n * 0x40 + j * 8
/-- ACC_LO of accumulator a of a point -/
abbrev accLo (n a : Nat) : Nat := 0xF0151020 + n * 0x80 + a * 12
/-- F_CFG of force entry e of partition p -/
abbrev fCfg (p e : Nat) : Nat := 0x2100000000 + (p * 256 + e) * 0x20
abbrev fId (p e : Nat) : Nat := fCfg p e + 0x04
abbrev fVal (p e : Nat) : Nat := fCfg p e + 0x08
abbrev fValC (p e : Nat) : Nat := fCfg p e + 0x0C
abbrev fAux (p e : Nat) : Nat := fCfg p e + 0x10
abbrev fAuxC (p e : Nat) : Nat := fCfg p e + 0x14
abbrev fQual (p e : Nat) : Nat := fCfg p e + 0x18
/-- Window of block i -/
abbrev base (i : Nat) : Nat := 0xF0000000 + i * 0x10000

end R

end Sys2Proof.Machine
end

