-- ==== Sys2Proof/Machine/State.lean ====
section
/-! DEFINITION. The state of the module: plain data, block by block. Registers that are not computed from a block's
structures stand in the three register tables (`shadow`, `force`, `live`), keyed by address; every array of the module is a
sparse table in canonical form (`Machine/Bits.lean`). -/

namespace Sys2Proof.Machine

/-- A queue with its read and write pointers, each held twice (R160, R187, R252, R297, R411, R444, R447, R470, R501). -/
structure Q (α : Type) where
  items : List α := []
  rd : Nat := 0
  wr : Nat := 0
  rdC : Nat := 0
  wrC : Nat := 0
  deriving DecidableEq, Repr

/-! ### Commits (R42-R53) -/

/-- The set a COMMIT write captures (R45), with the engine keys (R128) and the non-secure last writers of the block's registers
(R144). `foreign` is the first register whose last writer was not its owner at the COMMIT. -/
structure PendSet where
  vals : List (Nat × Word)
  owners : List (Nat × Nat)
  written : List Nat
  keys : List (Nat × List Byte) := []
  writers : List (Nat × Tag) := []
  foreign : Option Nat
  tag : BitVec 16
  at_ : Nat
  deriving DecidableEq, Repr

/-- The sets of a block that are not in force: those whose check runs, oldest first, and the pending one; the keys written since
the last COMMIT that captured (R422, R487). -/
structure CommitSt where
  checking : List PendSet := []
  pend : Option PendSet := none
  wrote : List Nat := []
  deriving DecidableEq, Repr

/-! ### PART -/

/-- A host notification queue (R157-R160): items in order of arrival, the value last returned. -/
structure Hnq where
  q : Q Word := {}
  last : Word := 0#32
  deriving DecidableEq, Repr

/-- PART: owner tags in force and the mediation commands' result (both keyed by kind × 0x10000 + number, PID + 1; 0 is no
owner), cores awaiting handover (with the owner their run keeps), the queues, lanes held by slice faults, the FAB cycle of
the violation logged last (R156). -/
structure PartSt where
  owners : List (Nat × Nat) := []
  draft : List (Nat × Nat) := []
  handover : List (Nat × Nat) := []
  hnq : List (Nat × Hnq) := []
  sliceBad : List (Nat × Bool) := []
  sliceHold : Word := 0#32
  medErr : Nat := 0
  avCycle : Option Nat := none
  deriving DecidableEq, Repr

/-! ### ALM -/

/-- A post to the almanac: severity, source, code, PID, INFO words (R494, R497). -/
structure Post where
  sev : Nat
  src : Nat
  code : Nat
  pid : Option Nat
  info : List Word
  ns : Nat
  sec : Nat
  sync : Nat
  tick : Nat
  deriving DecidableEq, Repr

/-- The ALM: the post queue, the next SEQ, the cursor's slot, the scan's state. -/
structure AlmSt where
  posts : Q Post := {}
  seqNext : Word := 0#32
  scanning : Bool := false
  found : Option Nat := none
  paused : Bool := false
  deriving DecidableEq, Repr

/-! ### PCX -/

/-- CORE_STAT.STATE; a core that is idle and has no owner shows OFF. -/
inductive CoreMode where
  | idle | run | ending
  deriving DecidableEq, Repr

/-- A call frame (R320): return address in bytes, instance base, descriptor. -/
structure Frame where
  pc : Nat
  ib : Word
  desc : Nat
  deriving DecidableEq, Repr

/-- A protection core: its registers (R308-R310; a vector lane is entry 8r + lane), its return stack (R322; newest frame
first, `spilled` frames below `spillPtr` in its spill area), the run in progress with the copies it started with (R358), the
refused OPFs on their way back (R326); of the exception that ended the run its reaction, when it came, whether CORE_EXC holds it
(R331); when another core's exception stopped the partition (R330); when the core last became IDLE (R396). -/
structure CoreSt where
  mode : CoreMode := .idle
  bank : Bool := false
  sreg : List (Nat × Word) := []
  vreg : List (Nat × Word) := []
  preg : List (Nat × Byte) := []
  fpstat : Word := 0#32
  ib : Word := 0#32
  desc : Nat := 0
  pc : Nat := 0
  frames : List Frame := []
  spilled : Nat := 0
  spillPtr : Nat := 0
  spillEnd : Nat := 0
  pid : Nat := 0
  task : Nat := 0
  relG : Word := 0#32
  relN : Word := 0#32
  relT : Word := 0#32
  rt : Word := 0#32
  startCode : Nat := 0
  began : Nat := 0
  deadline : Nat := 0
  idleAt : Nat := 0
  smpBase : Word := 0#32
  phBase : Word := 0#32
  agBase : Word := 0#32
  refused : List Nat := []
  excDone : Bool := false
  excReact : Nat := 0
  excAt : Option Nat := none
  excRec : Bool := false
  cutAt : Option Nat := none
  deriving DecidableEq, Repr

/-- A load engine copy in progress (R334). -/
structure LoadSt where
  src : Nat
  dst : Nat
  len : Nat
  at_ : Nat
  deriving DecidableEq, Repr

/-- The PCX: the cores, the stopped partitions, the abort counts of R329, the load engine, the dirty lines (R305). -/
structure PcxSt where
  cores : List (Nat × CoreSt) := []
  pstop : Word := 0#32
  aborts : List (Nat × Nat) := []
  load : Option LoadSt := none
  loadDone : Bool := false
  loadErr : Nat := 0
  dirty : List Nat := []
  deriving DecidableEq, Repr

/-! ### TSK -/

/-- A task's definition (R377, R390). -/
structure TaskDef where
  kind : Nat
  prio : Nat
  core : Nat
  act : Word
  dl : Nat
  root : Word
  deriving DecidableEq, Repr

/-- A pending activation (R380): its release, the instant it was made, whether a switch attempt holds it. -/
structure Activation where
  relG : Word
  relN : Word
  relT : Word
  at_ : Nat
  order : Nat
  held : Bool
  deriving DecidableEq, Repr

/-- A task entry: definition, pending activation, run in progress, STOPPED, the START code of its next run, whether it has
retired a run since the restart (R383 step 6). -/
structure TaskSt where
  def_ : Option TaskDef := none
  pend : Option Activation := none
  running : Bool := false
  stopped : Bool := false
  first : Nat := 0
  retired : Bool := false
  deriving DecidableEq, Repr

/-- A segment of a program (R389). -/
structure Segment where
  core : Nat
  codeOfs : Nat
  codeLen : Nat
  dataOfs : Nat
  dataLen : Nat
  dataBase : Nat
  retOfs : Nat
  retLen : Nat
  deriving DecidableEq, Repr

/-- An identity entry (R391). -/
structure IdEnt where
  id : Word
  core : Nat
  kind : Nat
  size : Nat
  type_ : Word
  ofs : Nat
  deriving DecidableEq, Repr

/-- A program as its image gives it (R388-R391), with the payload's digest (R116); `addr` is the payload's address. -/
structure Program where
  addr : Nat
  rate : Nat
  id : Word
  ver : Word
  retSig : Word
  segs : List Segment
  tasks : List (Nat × TaskDef)
  ids : List IdEnt
  digest : List Byte := []
  deriving DecidableEq, Repr

/-- PSTATE of TSK_P_STAT. -/
inductive PState where
  | none | stopped | starting | running | halted
  deriving DecidableEq, Repr

/-- MQ of TSK_P_STAT. -/
inductive MqState where
  | none | loading | loaded | preparing | prepared | switching
  deriving DecidableEq, Repr

/-- A start or stop requested by TSK_P_CTRL (R383). -/
inductive PartOp where
  | warm | cold | stop
  deriving DecidableEq, Repr

/-- A partition in the TSK: program in force, maquette, switch series (R395), pending start or stop, restart in progress. -/
structure TskPart where
  pstate : PState := .none
  mq : MqState := .none
  attempts : Nat := 0
  lastStart : Nat := 0
  err : Nat := 0
  img : Word := 0#32
  prog : Option Program := none
  maq : Option Program := none
  maqImg : Word := 0#32
  copied : Nat := 0
  pendOp : Option (PartOp × Nat) := none
  series : Option Nat := none
  attemptAt : Option Nat := none
  attemptBad : Option Nat := none
  resumed : Bool := false
  startKind : Option PartOp := none
  activeB : Option Bool := none
  deriving DecidableEq, Repr

/-- The state of one force entry that the registers do not hold: F_STAT's state, the place of a resolved VAR, the setting, value and
quality with which it was last applied (R395, R400). -/
structure ForceSt where
  state : Nat := 0
  core : Nat := 0
  ofs : Nat := 0
  size : Nat := 0
  cfg : Word := 0#32
  val : Word := 0#32
  aux : Word := 0#32
  qual : Word := 0#32
  deriving DecidableEq, Repr

/-- The TSK. `carry` holds the lines in the carry sets (R394); `round` and `nextRound` the retentive lines of the write-back
with their captured contents (R386); `applyDue` the cores whose forces are to be applied (R403); `qptr` the pointers of the cores' activation queues. -/
structure TskSt where
  tasks : List (Nat × TaskSt) := []
  parts : List (Nat × TskPart) := []
  forces : List (Nat × ForceSt) := []
  carry : List Nat := []
  round : List (Nat × List Byte) := []
  nextRound : List (Nat × List Byte) := []
  applyDue : List Nat := []
  order : Nat := 0
  badCore : List (Nat × Bool) := []
  qptr : List (Nat × Q Unit) := []
  deriving DecidableEq, Repr

/-! ### TMX -/

/-- LANE_STAT.DRIVE. -/
inductive Drive where
  | hold | reset | operate
  deriving DecidableEq, Repr

/-- A trip lane: its drive, the LTC of its last change to OPERATE, the guard latch of R422, the readback error, the latched
high word of its time-stamp. -/
structure Lane where
  drive : Drive := .hold
  since : Nat := 0
  ever : Bool := false
  guard : Bool := false
  rbErr : Bool := false
  why : Nat := 1
  secLatch : Word := 0#32
  deriving DecidableEq, Repr

/-- The TMX: accepted flag values, flags held by a force, lanes, whether the module was lane master at the last look, the
flags captured at the current edge (R416: flag, core, V). -/
structure TmxSt where
  flags : List (Nat × Bool) := []
  forced : List (Nat × Option Bool) := []
  lanes : List (Nat × Lane) := []
  master : Bool := false
  edge : List (Nat × Nat × Bool) := []
  edgeAt : Nat := 0
  deriving DecidableEq, Repr

/-! ### GSE -/

/-- A frame of a publication, as sent: numbers, time, member values (R428, R429), the length it takes, the ports it waits
for, the order it was built in, the frame itself (its source address apart). -/
structure GooseFrame where
  pub : Nat
  order : Nat
  ports : List Nat
  len : Nat
  stNum : Word
  sqNum : Word
  tSec : Nat
  tNs : Nat
  tal : Nat
  quality : Nat
  sim : Bool
  vals : List (Word × Word)
  frame : EthFrame
  deriving DecidableEq, Repr

/-- A publication: its descriptor block's members and name lengths (R427), the values last sent, the numbers, the time of
the state, the retransmission interval and the instant it ends, the frames not yet started (R428), those queued. -/
structure GPub where
  on : Bool := false
  names : List Byte := []
  len : Nat := 0
  members : List Word := []
  vals : List (Word × Word) := []
  sent : Bool := false
  flagPend : Bool := false
  changed : List (Nat × Nat) := []
  stNum : Word := 0#32
  sqNum : Word := 0#32
  t : Nat := 0
  iv : Nat := 0
  due : Nat := 0
  mirCrc : Option Word := none
  q : Q GooseFrame := {}
  deriving DecidableEq, Repr

/-- STATE of a subscription (R435). -/
inductive SubState where
  | disabled | wait | valid | timeout
  deriving DecidableEq, Repr

/-- A subscription: state, last numbers, the LTC at which its supervision ends, SIM_LATCH, TEST, the member values last
applied, the member map as read when its set entered force and whether it breaks R438. -/
structure GSub where
  state : SubState := .disabled
  stNum : Word := 0#32
  sqNum : Word := 0#32
  seen : Bool := false
  expiry : Nat := 0
  simLatch : Bool := false
  test : Bool := false
  vals : List (Word × Word) := []
  map : List Word := []
  bad : Bool := false
  deriving DecidableEq, Repr

/-- The GSE, with the key slots and identifiers that were in force before the last set and the instant they ceased to be (R249,
R436). -/
structure GseSt where
  pubs : List (Nat × GPub) := []
  subs : List (Nat × GSub) := []
  order : Nat := 0
  keys : List (Nat × List Byte) := []
  keyIds : List (Nat × Word) := []
  keysTill : Nat := 0
  deriving DecidableEq, Repr

/-- An order to an object (R439): action 0 select, 1 operate, 2 cancel; value true is close; for rank 4 the bus and the
address it came from. -/
structure Order where
  obj : Nat
  rank : Nat
  action : Nat
  val : Bool
  orig : Nat := 0
  ctl : Nat := 0
  bus : Nat := 0
  src : Nat := 0
  deriving DecidableEq, Repr

/-! ### FBC -/

/-- A CAN message (R457, R463). -/
structure CanMsg where
  fdf : Bool
  brs : Bool
  ide : Bool
  id : Nat
  data : List Byte
  deriving DecidableEq, Repr

/-- A message of TQ0 with the order it reports on; none for an LC_RESULT (R461). -/
structure Tq0Msg where
  msg : CanMsg
  order : Option Order
  deriving DecidableEq, Repr

/-- A received frame (R465). -/
structure RqEnt where
  msg : CanMsg
  esi : Bool
  filter : Nat
  ns : Nat
  sec : Nat
  deriving DecidableEq, Repr

/-- A receive queue: entries, window, LEVEL_SIDE (R465, R466). -/
structure RqSt where
  q : Q RqEnt := {}
  win : List Word := []
  side : Bool := false
  deriving DecidableEq, Repr

/-- FC of FBC_STAT. -/
inductive CanFc where
  | active | passive | busOff | recovering
  deriving DecidableEq, Repr

/-- One FBC: the item being pushed (header, words so far, words wanted), whether TQ1_PUSH skips to the next start marker, the
frame on the bus with whether it is TQ0's. -/
structure FbcSt where
  on : Bool := false
  tq0 : Q Tq0Msg := {}
  tq1 : Q CanMsg := {}
  item : List Word := []
  want : Nat := 0
  skip : Bool := false
  bus : Option (Bool × CanMsg) := none
  rq0 : RqSt := {}
  rq1 : RqSt := {}
  tec : Nat := 0
  rec_ : Nat := 0
  fc : CanFc := .active
  xcvr : Bool := false
  deriving DecidableEq, Repr

/-! ### CMD -/

/-- A controllable object: its guarded command state (R443: phase [31:30], rank [29:27], value [26], originator [23:16]),
the instant its time-out ends, the order that selected it or executes. -/
structure CmdObj where
  st : DWord := 0xFFFFFFFF00000000#64
  due : Nat := 0
  order : Option Order := none
  deriving DecidableEq, Repr

/-- The CMD: objects, the orders of the tick in progress in order of arrival, the response queue. -/
structure CmdSt where
  objs : List (Nat × CmdObj) := []
  orders : List Order := []
  res : Q Word := {}
  deriving DecidableEq, Repr

/-! ### DRC -/

/-- STATE of a segment (R481). -/
inductive SegState where
  | free | armed | recording | closed | aborted
  deriving DecidableEq, Repr

/-- A segment's header (R485) and its claim. -/
structure Seg where
  state : SegState := .free
  claimed : Bool := false
  recNum : Nat := 0
  preRec : Nat := 0
  firstRow : Nat := 0
  postRec : Nat := 0
  trigT : Nat := 0
  trigRow : Nat := 0
  trigSrc : Word := 0#32
  trigCount : Nat := 0
  enNum : Nat := 0
  listCrc : Word := 0#32
  further : List (Int × Word) := []
  statW : Word := 0#32
  deriving DecidableEq, Repr

/-- An analogue trigger unit (R487): whether it is armed, the last value and its VALID. -/
structure Atu where
  armed : Bool := true
  last : Option (Int × Nat) := none
  lastX : Option Int := none
  deriving DecidableEq, Repr

/-- What a meridian leaves for the row of the tick it ends (R475): the release tick, the meridian of that tick, the
binary-input word, the flag state of the selected pages. -/
structure RowSnap where
  tick : Nat
  mer : Nat
  bi : Word
  flags : List Word
  deriving DecidableEq, Repr

/-- The DRC: whether it is on, the row length and channel factors fixed at the enable, segments, the current segment, the
hold-off (an instant or a count), the numbers of R485, the row pointers held twice (R501), the rows not yet written. -/
structure DrcSt where
  on : Bool := false
  rowBytes : Nat := 0
  ks : List Nat := []
  segN : Nat := 0
  segs : List (Nat × Seg) := []
  cur : Option Nat := none
  holdUntil : Option Nat := none
  holdCount : Nat := 0
  recNum : Nat := 0
  enNum : Nat := 0
  listCrc : Word := 0#32
  atus : List (Nat × Atu) := []
  rowPtr : Q Unit := {}
  rows : List RowSnap := []
  deriving DecidableEq, Repr

/-! ### TIME -/

/-- A stamp of a transmit or binary-input queue: identifier or input, the edge, the instant in 1/256 ns (R183, R189), when it was
written (R194). -/
structure Stamp where
  id : Nat
  rise : Bool
  at_ : Nat
  put : Nat := 0
  deriving DecidableEq, Repr

/-- A queue of stamps: entries, the latched words, LEVEL_SIDE (R183-R186); the stamp dropped last, and whether it set OVF (R194). -/
structure StampQ where
  q : Q Stamp := {}
  latch : List Word := []
  side : Bool := false
  lost : Option (Stamp × Bool) := none
  deriving DecidableEq, Repr

/-- STATE of a domain (R167). -/
inductive DomState where
  | disabled | listening | acquiring | locked
  deriving DecidableEq, Repr

/-- A master heard on a port: its last Announce and when it and the one before it came. -/
structure Foreign where
  ann : PtpAnnounce
  last : Nat
  prev : Option Nat
  deriving DecidableEq, Repr

/-- A domain on one port of its pair: the masters heard, a two-step Sync that waits for its Follow_Up with its receive stamp,
the sequence number and instant of the last Sync, its interval, the offsets measured (1/256 ns, newest first), the Syncs that
agreed. -/
structure PtpPort where
  masters : List Foreign := []
  wait : Option (PtpSync × Int) := none
  lastSeq : Option Nat := none
  lastSync : Nat := 0
  logInt : Int := 0
  hist : List Int := []
  off : Option Int := none
  agree : Nat := 0
  deriving DecidableEq, Repr

/-- A PTP domain (R166, R167). -/
structure Dom where
  st : DomState := .disabled
  act : Bool := false
  p0 : PtpPort := {}
  p1 : PtpPort := {}
  rate : Int := 0
  deriving DecidableEq, Repr

/-- The peer delay of a port: the measured link delay (1/256 ns), the number and transmit stamp of the request. -/
structure Pdelay where
  meas : Option Int := none
  seq : Nat := 0
  t1 : Option Int := none
  deriving DecidableEq, Repr

/-- A PTP frame that waits for its port (R165): a Pdelay_Req, or a Pdelay_Resp to the request whose receive stamp it gives, with
the requester and the domain; with its place in the order in which frames became ready and, for a request, the sequence number its pair
gave it (R220). -/
structure PtpTx where
  mac : Nat
  order : Nat
  seq : Nat
  resp : Option Int
  red : Option Nat := none
  dom : Byte := 0#8
  req : PtpSrc := ⟨0#64, 0#16⟩
  deriving DecidableEq, Repr

/-- A binary input: the level after the filter, the level of the pin, the edge in its filter time (stamp in ns, end of the
filter time). -/
structure BiPin where
  level : Bool := false
  raw : Bool := false
  wait : Option (Nat × Nat) := none
  deriving DecidableEq, Repr

/-- TIME: the tick generator (R191, R192), the lodestar and sync state (R170-R174), the sources (D0, D1, IRIG-B, 1PPS by
number: FAR, eligible since), the slew, the queues (transmit 0-3, binary input 4), the binary inputs. -/
structure TimeSt where
  tickRun : Bool := false
  tick : Nat := 0
  tickSec : Nat := 0
  tickStart : Nat := 0
  startPend : Option Nat := none
  stopPend : Bool := false
  sync : Nat := 0
  lodestar : Nat := 7
  utc : Nat := 0x25
  acquired : Bool := false
  holdAt : Option Nat := none
  slewing : Bool := false
  pullAt : Nat := 0
  realign : Bool := false
  far : List (Nat × Bool) := []
  since : List (Nat × Option Nat) := []
  d0 : Dom := {}
  d1 : Dom := {}
  pd : List (Nat × Pdelay) := []
  pdNext : Nat := 0
  tx : List PtpTx := []
  tod : Option Int := none
  deriving DecidableEq, Repr

/-- IRIG-B and 1PPS (R177, R178): good frames or pulses in a row, the instant and the second of the last, the offset. -/
structure IrigSt where
  locked : Bool := false
  code : Nat := 0
  run : Nat := 0
  lastGood : Nat := 0
  lastSec : Nat := 0
  off : Option Int := none
  deriving DecidableEq, Repr

/-- 1PPS (R178). -/
structure PpsSt where
  locked : Bool := false
  run : Nat := 0
  last : Nat := 0
  sec : Option Nat := none
  off : Option Int := none
  bad : Nat := 0
  deriving DecidableEq, Repr

/-- The binary inputs and TIME's queues (R183-R190): pins, inputs with an edge recorded in the tick, those with one at the meridian
that ends it (R194), the queues, the latched seconds of TIME_NOW. -/
structure BiSt where
  pins : List (Nat × BiPin) := []
  edges : Word := 0#32
  nextEdges : Word := 0#32
  queues : List (Nat × StampQ) := []
  nowSec : Nat := 0
  deriving DecidableEq, Repr

/-! ### SIU and SVP -/

/-- STATE of a context (R244). -/
inductive CtxState where
  | disabled | wait | run | lost
  deriving DecidableEq, Repr

/-- How a context's samples are placed (R237, R238): by count, or by arrival from a sample number and its place. -/
inductive Placing where
  | none | count | arrival (smp : Nat) (at_ : Nat)
  deriving DecidableEq, Repr

/-- A lead context. Source samples are numbered on from the TAI epoch: second × rate + number within the second. `com` holds
those committed and not released, `done` the last ones released as committed; `newest` and `rel` are the newest committed and
the last released, each held twice (R252); `timely` those committed before their deadline since WAIT (R244), `runFrom` the first sample
of RUN; `held` the values last committed. `event` says that the next release begins a source discontinuity
(R289). Frames that began before `flushAt` are discarded (R251); `fromB` holds the samples of MAC1 with the
instants of their commits (R239). -/
structure Ctx where
  st : CtxState := .disabled
  simLatch : Bool := false
  side : Bool := false
  sync : Nat := 0
  recov : Nat := 0
  missRun : Nat := 0
  com : List Nat := []
  done : List Nat := []
  newest : Nat := 0
  newestC : Nat := 0
  rel : Nat := 0
  relC : Nat := 0
  early : Nat := 0
  timely : List Nat := []
  runFrom : Nat := 0
  held : List Word := []
  placing : Placing := .none
  event : Bool := false
  flushAt : Nat := 0
  fromB : List (Nat × Nat) := []
  deriving DecidableEq, Repr

/-- An alignment group: NEXT as a release tick counted on from the epoch, held twice; none until a meridian paces it. -/
structure Grp where
  on : Bool := false
  next : Option Nat := none
  nextC : Option Nat := none
  deriving DecidableEq, Repr

/-- The SIU, with the key slots and identifiers that were in force before the last set and the instant they ceased to be (R249). -/
structure SiuSt where
  ctxs : List (Nat × Ctx) := []
  grps : List (Nat × Grp) := []
  keys : List (Nat × List Byte) := []
  keyIds : List (Nat × Word) := []
  keysTill : Nat := 0
  deriving DecidableEq, Repr

/-- A publication of the SVP: whether it is enabled, its svID, the sample at which a pattern begins, the frames whose send point
has come (last sample, instant), the next pattern frame's last sample, the smpCnt last sent. -/
structure SvPub where
  on : Bool := false
  svId : List Byte := []
  base : Option Nat := none
  ready : List (Nat × Nat) := []
  next : Nat := 0
  last : Nat := 0
  deriving DecidableEq, Repr

/-- The SVP. -/
structure SvpSt where
  pubs : List (Nat × SvPub) := []
  deriving DecidableEq, Repr

/-! ### SCA -/

/-- A release in the SCA's queue (R267): group, release tick, whether the deadline made it, when, the contexts that enter RUN with
it (R288). -/
structure Release where
  grp : Nat
  tick : Nat
  dl : Bool
  at_ : Nat
  ltc : Nat
  runs : List Nat
  deriving DecidableEq, Repr

/-- FSTATE (R279). -/
inductive FState where
  | nominal | tracking | held
  deriving DecidableEq, Repr

/-- A group in the SCA: the last release tick processed, frequency in µHz with its history (newest first), reference phasors
with their history, the usable releases in a row, releases in HELD, the flag-driven freeze, the last estimate and rate. -/
structure AgSt where
  last : Option Nat := none
  fst_ : FState := .nominal
  freq : Nat := 0
  fHist : List Nat := []
  vHist : List (List Word) := []
  usable : Nat := 0
  held : Nat := 0
  clamp : Bool := false
  est : Option Nat := none
  rocof : Word := 0#32
  flagOff : Option Nat := none
  frzRun : Nat := 0
  frzStop : Bool := false
  frozen : Bool := false
  deriving DecidableEq, Repr

/-- A channel slot in the SCA (R265): the histories of its stages, newest first (`xs` source samples, `us` after stage 1, `ms`
between two half-bands, `y2`, `y3` and `y4` after stages 2 to 4; units of 2⁻¹⁶ from stage 1 on), the DC estimates of the two
chains of a fade, the qualities of its conditioned samples, the settle counters, the place in a fade, the last phasor record
(words 0 to 11). -/
structure ChSt where
  xs : List Int := []
  us : List Int := []
  ms : List Int := []
  y2 : List Int := []
  y3 : List Int := []
  y4 : List Int := []
  e : Int := 0
  eNew : Int := 0
  qs : List Word := []
  smpLeft : Nat := 0
  phLeft : Nat := 0
  valid : Bool := false
  fade : Nat := 0
  clamped : Bool := false
  frozen : Bool := false
  event : Nat := 0
  cfg : Word := 0x00040000#32
  bins : Word := 0#32
  ph : List Word := []
  val : Word := 0#32
  deriving DecidableEq, Repr

/-- A bank group (R280-R284): the active bank, the length and state of a fade, the pending request, the faults, the entries of
the banks that differ from the default image (gains 0-127, time constants 128-255, taps 256-279). -/
structure BankSt where
  active : Bool := false
  fade : Option Nat := none
  pend : Option Bool := none
  faultA : Bool := false
  faultB : Bool := false
  bankA : List (Nat × DWord) := []
  bankB : List (Nat × DWord) := []
  deriving DecidableEq, Repr

/-- A bank load in progress (R281): bank group, bank, image address, PID. -/
structure BankLoad where
  bg : Nat
  bank : Bool
  src : Nat
  pid : Nat
  deriving DecidableEq, Repr

/-- The SCA. -/
structure ScaSt where
  q : Q Release := {}
  ags : List (Nat × AgSt) := []
  chs : List (Nat × ChSt) := []
  banks : List (Nat × BankSt) := []
  load : Option BankLoad := none
  loadDone : Bool := false
  loadErr : Nat := 0
  deriving DecidableEq, Repr

/-! ### MAC and MGT -/

/-- A firmware ring: its pointers in beats, each held twice, LEVEL_SIDE, whether the port skips to the next SOF marker (R214). -/
structure Ring where
  wr : Nat := 0
  rd : Nat := 0
  wrC : Nat := 0
  rdC : Nat := 0
  side : Bool := false
  skip : Bool := false
  deriving DecidableEq, Repr

/-- What a transmit frame carries; a forwarded frame with its receive stamp (R165). -/
inductive TxBody where
  | goose (f : GooseFrame)
  | ptp (f : PtpTx)
  | sv (pub : Nat) (due : Nat) (f : EthFrame)
  | forward (f : EthFrame) (rx : Int)
  | supervision (f : EthFrame)
  | firmware (bytes : List Byte)
  deriving DecidableEq, Repr

/-- A frame ready for one port (R220): its class, its place in the order of readiness, the MAC whose source queued it, whether
it is a copy of a frame that left on another port, the sequence number fixed for it, the stamp it asks for, whether it takes no trailer or
tag, the transmit ring it came from, the TCI its descriptor inserts. -/
structure TxItem where
  port : Nat
  cls : Nat
  order : Nat
  from_ : Nat
  copy : Bool := false
  seq : Option Nat := none
  tsId : Option Nat := none
  noRed : Bool := false
  ring : Option Nat := none
  tci : Option Nat := none
  body : TxBody
  deriving DecidableEq, Repr

/-- The last frame a port sent: what it carried, the frame itself (with FCS good or inverted), its sequence number, its length on
the wire, when. -/
structure TxRec where
  body : TxBody
  frame : EthFrame
  seq : Option Nat
  wire : Nat
  at_ : Nat
  deriving DecidableEq, Repr

/-- A receive item (R210, R211): port, consumer (1 SIU, 2 GSE, 3 TIME), receive stamp in 1/256 ns, elapsed time at its first byte and
at its end, ERR of its end beat, its beats, the frame as delivered. -/
structure RxItem where
  mac : Nat
  dest : Nat
  stamp : Int
  first : Nat
  end_ : Nat
  err : Nat
  beats : Nat
  frame : EthFrame
  deriving DecidableEq, Repr

/-- A port: link and cage state (R198, R199) with the rate of MGT's link and the instants at which the link rose and fell, and EN
rose and fell (R226); the two-wire transaction with its command word, the rings, the ring whose turn it is, the last frame sent,
the burst of frames its LED shows (R91), the settings in force before the last set and when that entered force (R209). -/
structure MacSt where
  blockLock : Bool := false
  fecLock : Bool := false
  localFault : Bool := false
  remoteFault : Bool := false
  modAbs : Bool := false
  rxLos : Bool := false
  txFault : Bool := false
  link : Bool := false
  slow : Bool := false
  upAt : Nat := 0
  downAt : Nat := 0
  onAt : Nat := 0
  offAt : Nat := 0
  sfpBusy : Bool := false
  sfpCmd : Word := 0#32
  sfpRes : Word := 0#32
  rx : List (Nat × Ring) := []
  tx : List (Nat × Ring) := []
  turn : Nat := 0
  sent : Option TxRec := none
  blinkAt : Option Nat := none
  old : List (Nat × Word) := []
  oldTill : Nat := 0
  deriving DecidableEq, Repr

/-- An entry of a duplicate table: source address, sequence number, when it was made (R217). -/
structure DupEnt where
  sa : Nat
  seq : Nat
  at_ : Nat
  deriving DecidableEq, Repr

/-- What the LAN B copy of a frame left when it ended: when it began and ended, its key, its destination, its beats (R226). -/
structure RxUndo where
  at_ : Nat
  end_ : Nat
  mac : Nat
  sa : Nat
  seq : Nat
  dest : Nat
  beats : Nat
  deriving DecidableEq, Repr

/-- A pair in PRP or HSR mode (R215-R219): duplicate table and frames forwarded, oldest first, the next sequence number, the
instant of the next supervision frame and its number, the last first copy from LAN B. -/
structure LreSt where
  dup : List DupEnt := []
  fwd : List DupEnt := []
  seq : Nat := 0
  supNext : Nat := 0
  supSeq : Nat := 0
  lastB : Option RxUndo := none
  deriving DecidableEq, Repr

/-- The ports, the frames ready to be sent, the receive items that wait for the SIU, the GSE and TIME. -/
structure NetSt where
  macs : List (Nat × MacSt) := []
  lres : List (Nat × LreSt) := []
  txq : List TxItem := []
  items : List RxItem := []
  deriving DecidableEq, Repr

/-! ### MTR -/

/-- A metering window (R511): the samples it takes, f in µHz, the samples taken (voltages, then currents; newest first, an
invalid one as 0), the instant of the newest, INCOMPLETE, TEST. -/
structure MWin where
  n : Nat
  f : Nat
  vals : List (List Int) := []
  end_ : Nat := 0
  bad : Bool := false
  test : Bool := false
  deriving DecidableEq, Repr

/-- A metering point: accumulators, wraps and fractions by ACC (R516, R517), DEMAND, the window count, the flags of the last
window, the windows that have ended, the one in progress, the latched words by 2 × ACC and 2 × ACC + 1 (R518). -/
structure MPoint where
  on : Bool := false
  acc : List (Nat × Nat) := []
  wrap : List (Nat × Nat) := []
  frac : List (Nat × Nat) := []
  demand : Word := 0#32
  count : Nat := 0
  flags : Word := 0#32
  full : List MWin := []
  win : Option MWin := none
  latch : List (Nat × Word) := []
  deriving DecidableEq, Repr

/-- A pulse output (R525): residue, backlog, the instant its pulse ends, the instant its next period begins. -/
structure Pulse where
  residue : Nat := 0
  backlog : Nat := 0
  onTill : Nat := 0
  next : Nat := 0
  deriving DecidableEq, Repr

/-- A checkpoint to be written (R522): KIND, its words from offset 0x10, whether a command ends with it. -/
structure Ckpt where
  kind : Nat
  body : List Word
  cmd : Bool
  deriving DecidableEq, Repr

/-- The MTR: points, outputs, STOPPED, the newer valid set (B, KIND, SEQ), the set being written with its KIND and SEQ and
whether a command ends with it, the sets that wait, the command state. -/
structure MtrSt where
  points : List (Nat × MPoint) := []
  pulses : List (Nat × Pulse) := []
  stopped : Bool := false
  newest : Option (Bool × Nat × Word) := none
  busy : Option (Bool × Nat × Word × Bool) := none
  wait : List Ckpt := []
  done : Bool := false
  err : Nat := 0
  deriving DecidableEq, Repr

/-! ### SYS -/

/-- SYS: the cause of the last reset (a bit number of SYS_RST_CAUSE), the slot identity sampled (R61), whether the reset is
released and when it was asserted or released, the clock tree's state (R33). -/
structure SysSt where
  cause : Nat := 0
  slot : Word := 0#32
  released : Bool := false
  at_ : Nat := 0
  rootLock : Bool := false
  divOk : Bool := false
  deriving DecidableEq, Repr

/-! ### PWR -/

/-- PHASE of PWR_STAT. -/
inductive Phase where
  | normal | ride | save | hand
  deriving DecidableEq, Repr

/-- PWR: whether the module has power and since when, power-good and since when, the phase, PWR_FAIL and since when, a save that
waits for its meridian, when the save began, the store and whether its capacitance has been measured (R77), the measured values, the
switches of the two handles and the other pins, the counts of R88 with the latched high
word, the outcome of the last twilight, lanes held as the store ran down (R84), drivers at high impedance, whether a twilight has begun since the
completion marker was cleared (R89). -/
structure PwrSt where
  on : Bool := true
  onAt : Nat := 0
  good : Bool := true
  goodAt : Nat := 0
  phase : Phase := .normal
  fail : Bool := false
  failAt : Nat := 0
  saveDue : Bool := false
  saveAt : Nat := 0
  vinMv : Nat := 0
  vstMv : Nat := 0
  capUf : Nat := 0
  measured : Bool := false
  tSoc : Byte := 0#8
  tInlet : Byte := 0#8
  handle : Bool := false
  handle2 : Bool := false
  ptnr : Bool := false
  opsec : Nat := 0
  opsecAt : Nat := 0
  opHi : Nat := 0
  cycles : Nat := 0
  outcome : Nat := 0
  saveUs : Nat := 0
  released : Bool := false
  highZ : Bool := true
  twi : Bool := false
  deriving DecidableEq, Repr

/-! ### TRUST -/

/-- The lifecycle states (R99). -/
inductive Lc where
  | blank | provisioned | operational | maintenance | decommissioned
  deriving DecidableEq, Repr

/-- A key slot of the fuse bank (R106). -/
structure FuseSlot where
  hash : List Byte := []
  valid : Bool := false
  revoked : Bool := false
  deriving DecidableEq, Repr

/-- A key store entry (R124): STATE (0 EMPTY, 1 VALID, 2 CORRUPT), ORIGIN (true IMPORTED), TYPE, TARGET, KEY_ID, CREATED, the
key, the SHA3-256 of the public key of a signing seed. -/
structure KsEnt where
  st : Nat := 0
  imported : Bool := false
  type_ : Nat := 0
  target : Nat := 0
  keyId : Word := 0#32
  created : Nat := 0
  key : List Byte := []
  pubHash : List Byte := []
  deriving DecidableEq, Repr

/-- KEYREG (R126): the entry it was loaded from, its TARGET, the key. -/
structure KeyReg where
  entry : Nat
  target : Nat
  key : List Byte
  deriving DecidableEq, Repr

/-- An import session (R131, R134): SESSION_ID, when it was opened, the decapsulation key. -/
structure Session where
  id : Word
  at_ : Nat
  dk : List Byte
  deriving DecidableEq, Repr

/-- TRUST: protection-ready (R121); the lifecycle state, the state before the last transition, RESUMED and REPAIRED; the
transition this start completes; the boot (R117, R118); the fuses (R106: boot slots 0-3, integrator slots 4-7); the measurement
slots by class and, by partition, the digest of the program that VERIFY has checked (R119);
the key store, KEYREG, the engine slots in force and as shadow, by target × 256 + slot (R128); session, nonce, DIGEST; the
command that runs, by its ERR and RESULT, the seed of the device identity key as read from the identity record (R109), and the
status of the last command (R138); the watchdog's last restart and BAD_KICKS; the
wipes (R113, R114). -/
structure TrustSt where
  ready : Bool := false
  lc : Lc := .blank
  prev : Nat := 0
  resumed : Bool := false
  repaired : Bool := false
  transit : Option Nat := none
  halted : Bool := false
  stage : Nat := 0
  bootFail : Nat := 0
  bootB : Bool := false
  prov : Bool := false
  decom : Bool := false
  svn : Nat := 0
  fuses : List (Nat × FuseSlot) := []
  meas : List (Nat × List Byte) := []
  checked : List (Nat × List Byte) := []
  ks : List (Nat × KsEnt) := []
  keyreg : Option KeyReg := none
  slots : List (Nat × List Byte) := []
  next : List (Nat × List Byte) := []
  session : Option Session := none
  nonce : Option (List Byte) := none
  digest : List Byte := []
  cmd : Option (Nat × Nat) := none
  idSeed : List Byte := []
  done : Bool := false
  err : Nat := 0
  result : Nat := 0
  wdog : Option Nat := none
  badKicks : Nat := 0
  sramDone : Bool := false
  dramDone : Bool := false
  mramDone : Bool := false
  dramKeep : Bool := false
  deriving DecidableEq, Repr

/-! ### MIR -/

/-- The roles of R532. -/
inductive Role where
  | off | listen | holder | standby
  deriving DecidableEq, Repr

/-- A packet as sent (R549): its number, the tick whose state follows, BEHIND, RESYNC, BG, the programs in force, the records,
the control word's value. -/
structure MirSent where
  seq : Word
  sec : Nat
  tick : Nat
  behind : Bool
  resync : Bool
  bg : Bool
  progs : List (Word × Word)
  recs : List MirRec
  ctl : Word
  deriving DecidableEq, Repr

/-- MIR: role, epoch; the instant at which a claimant becomes lane master (R541); readiness as the standby (R552) with its
causes, as last shown; the partner's; the lanes up; the silence counts and what was heard in the tick (R539), the meridians of
silence in LISTEN; the last types; the last tick applied; numbers of the packets sent and received, the programs the last one named; a handover that waits
(1 firmware, 2 power) and whether the partner has yet to show that it fell behind, a RELEASE heard (R543); the background copy (the next line, whether it starts anew, the packets since the
last), lines captured; captured lines not yet sent, with their place and when they are sent (R548); the block-state lines as
last captured; the last packet and words sent; the tick of the last own claim; the two pointer pairs (R562). -/
structure MirSt where
  role : Role := .off
  epoch : Nat := 0
  masterAt : Option Nat := none
  posConflict : Bool := false
  copied : Bool := false
  gap : Bool := false
  progWait : Bool := false
  fmtBad : Bool := false
  shown : Bool × Nat := (false, 1)
  ptnrReady : Bool := false
  ptnrTwilight : Bool := false
  behind : Bool := false
  lanes : Nat := 0
  lbCount : Nat := 0
  mlCount : Nat := 0
  lbHeard : Bool := false
  mlHeard : Bool := false
  listen : Nat := 0
  lbType : Nat := 0
  mlType : Nat := 0
  thruSec : Nat := 0
  thruTick : Nat := 0
  seqTx : Word := 0#32
  nonceTx : DWord := 0#64
  seqRx : Option (Word × DWord) := none
  rxProgs : List (Word × Word) := []
  handPend : Nat := 0
  nrDue : Bool := false
  relBus : Option Nat := none
  relApplied : Bool := false
  bg : Option Nat := none
  resync : Bool := false
  bgSeen : Bool := false
  sinceCopy : Nat := 0
  lines : Nat := 0
  peak : Nat := 0
  unsent : List (Nat × Nat × Nat) := []
  prev : List (Nat × MirLine) := []
  sent : Option MirSent := none
  busSent : Option Word := none
  linkSent : Option Word := none
  claimAt : Option (Nat × Nat) := none
  capPtr : Q Unit := {}
  rxPtr : Q Unit := {}
  deriving DecidableEq, Repr

/-! ### DIAG -/

/-- DIAG: FREEZE and when (LTC), the seal in progress, whether a dump is kept, the region's wipe after ACK, ERR and BAD_KEY; the
readback test (lane, when) and its result; the rerun self-test and its result, the failures, those to be posted, whether the
start-up tests let the start go on. -/
structure DiagSt where
  frozen : Bool := false
  freezeAt : Nat := 0
  sealing : Option Nat := none
  kept : Bool := false
  wiping : Bool := false
  dumpErr : Nat := 0
  badKey : Nat := 0
  rbTest : Option (Nat × Nat) := none
  rbDone : Bool := false
  rbPass : Bool := false
  rbLane : Nat := 0
  bist : Option Nat := none
  bistDone : Bool := false
  bistErr : Nat := 0
  bistFail : Word := 0#32
  bistPost : List Nat := []
  bistOk : Bool := false
  deriving DecidableEq, Repr


/-- The state of the module. `now` counts nanoseconds of elapsed time and `ltc` is the local time counter in nanoseconds of
TAI (R162, R163); `bus` and `busErr` hold what the last register or memory read returned; `draws` is the model's own draw
counter for values the spec leaves open; bit i of `memErr` is block i's memory-error status (R36, R155); `ufs` is what the UFS boot
unit holds, first-stage copies A and B (R35, R117). -/
structure State where
  now : Nat := 0
  ltc : Nat := 0
  shadow : List (Nat × Word) := []
  force : List (Nat × Word) := []
  live : List (Nat × Word) := []
  writer : List (Nat × Tag) := []
  commits : List (Nat × CommitSt) := []
  mem : List Host.Cell := []
  ecc : List (Nat × Nat) := []
  bus : Word := 0#32
  busErr : Bool := false
  draws : Nat := 0
  memErr : Word := 0#32
  ufs : List Byte × List Byte := ([], [])
  part : PartSt := {}
  alm : AlmSt := {}
  pcx : PcxSt := {}
  tsk : TskSt := {}
  tmx : TmxSt := {}
  gse : GseSt := {}
  cmd : CmdSt := {}
  fbc0 : FbcSt := {}
  fbc1 : FbcSt := {}
  drc : DrcSt := {}
  time : TimeSt := {}
  irig : IrigSt := {}
  pps : PpsSt := {}
  bi : BiSt := {}
  net : NetSt := {}
  siu : SiuSt := {}
  svp : SvpSt := {}
  sca : ScaSt := {}
  mtr : MtrSt := {}
  sys : SysSt := {}
  pwr : PwrSt := {}
  trust : TrustSt := {}
  mir : MirSt := {}
  diag : DiagSt := {}
  pending : List Instr := []
  deriving DecidableEq, Repr

/-- The machine right after a reset with cause POR of a module as it leaves the factory: every register at its reset value,
memory with nothing listed, no command waiting. -/
def State.reset : State := {}

/-- Why a step could stop with a fault. Nothing raises one: an access the module refuses is a violation, which is an effect
(R155). -/
inductive Fault where
  /-- Raised by nothing; an access to memory that does not exist is an access violation (R38) and not a fault. Safe. -/
  | noMemory
  deriving DecidableEq, Repr

/-- Why a command could be refused. -/
inductive Refusal where
  /-- A command whose meaning is not written; raised by the dispatcher only. Safe: the machine stops. -/
  | notModelled (mnemonic : String)
  deriving DecidableEq, Repr

end Sys2Proof.Machine
end

