-- ==== Sys2Proof/Machine/Ops.lean ====
section
/-! DEFINITION. The named operations every block shares: registers, memory, queues held with double pointers, sticky events
and counts. -/

namespace Sys2Proof.Machine

/-! ### Register addresses -/

/-- The block index of a register's key (R41); banked registers have keys of their own (TSK_F_PAGE, SCA_CH_PAGE, and the
ALM_POST registers held for each application core). -/
def blockOf (a : Nat) : Nat :=
  if 0x2200000000 ≤ a then 20
  else if 0x2100000000 ≤ a then 13
  else if 0x2000000000 ≤ a then 11
  else (a - 0xF0000000) / 0x10000

/-- The offset at which the register map lists a key. -/
def offsetOf (a : Nat) : Nat :=
  if 0x2200000000 ≤ a then (a - 0x2200000000) % 0x40 + 0x40
  else if 0x2100000000 ≤ a then 0x8000 + (a - 0x2100000000) % 0x20
  else if 0x2000000000 ≤ a then 0x8000 + (a - 0x2000000000) % 0x20
  else a % 0x10000

/-- The bus address of a key: that of its window, or the slot of its bank in the page (R41, R156). -/
def busAddr (a : Nat) : Nat :=
  if 0x2200000000 ≤ a then 0xF0140040 + (a - 0x2200000000) % 0x40
  else if 0x2100000000 ≤ a then 0xF00D8000 + (a - 0x2100000000) % 0x2000
  else if 0x2000000000 ≤ a then 0xF00B8000 + (a - 0x2000000000) % 0x4000
  else a

/-- The row of the register map holds the offset. -/
def rowHas (o : Nat) (r : RegRow) : Bool :=
  if r.stride = 0 then o == r.off
  else decide (r.off ≤ o) && decide ((o - r.off) % r.stride = 0) && decide ((o - r.off) / r.stride < r.count)

/-- The register map's row of a key. -/
def rowOf (a : Nat) : Option RegRow := (blockRows (blockOf a)).find? (rowHas (offsetOf a))

/-- The reset value of a key (R12). -/
def regReset (a : Nat) : Word := match rowOf a with | some r => word r.rst | none => 0#32

/-- The entry of a table at a key, if it is listed. -/
def mfind {α : Type} : List (Nat × α) → Nat → Option α
  | [], _ => none
  | (k', v) :: t, k => if k' = k then some v else mfind t k

/-- A table with `v` listed at `k`, whatever `v` is. -/
def mput {α : Type} (m : List (Nat × α)) (k : Nat) (v : α) : List (Nat × α) := mins k v (mdel m k)

/-- The value last written to an RW, ST or RS register (R12). -/
def shadowOf (s : State) (a : Nat) : Word := (mfind s.shadow a).getD (regReset a)

/-- The value of an RS register that is in force (R12, R46). -/
def forceOf (s : State) (a : Nat) : Word := (mfind s.force a).getD (regReset a)

/-- A sticky register, a count or a status word that the block keeps (0 at reset). -/
def liveOf (s : State) (a : Nat) : Word := mget 0#32 s.live a

/-- A status word kept at `w`. -/
def setLive (s : State) (a : Nat) (w : Word) : State := { s with live := mset 0#32 s.live a w }

/-- The shadow of a register at `w`. -/
def setShadow (s : State) (a : Nat) (w : Word) : State := { s with shadow := mput s.shadow a w }

/-- A register in force at `w`. -/
def setForce (s : State) (a : Nat) (w : Word) : State := { s with force := mput s.force a w }

/-- What a read returns. -/
def setBus (s : State) (w : Word) : State := { s with bus := w }

/-- Sticky bit `i` set (R12). -/
def setEvt (s : State) (a i : Nat) : State := setLive s a (liveOf s a ||| word (2 ^ i))

/-- Sticky bit `i` is set. -/
def evt (s : State) (a i : Nat) : Bool := bit (liveOf s a) i

/-- A saturating count in bits `hi..lo`. -/
def bump (s : State) (a hi lo n : Nat) : State := setLive s a (bumpFld (liveOf s a) hi lo n)

/-- GUARD_FAULT of block `i` (R57). -/
def guardFault (s : State) (i : Nat) : State := setEvt s (R.base i + 0xFFE8) 4

/-- WERR of block `i`: the offset of the first ignored ST write since it was cleared is kept (R52). Clearing WERR leaves the offset
as it reads: DESIGN CHOICE, log 179. -/
def werr (s : State) (i off : Nat) : State :=
  if evt s (R.base i + 0xFFE8) 3 then s
  else setLive (setEvt s (R.base i + 0xFFE8) 3) (R.base i + 0xFFF8) (word off)

/-- The pointer-reset summary of block `i` (R573). -/
def ptrSum (s : State) (i : Nat) : State := setEvt s R.diagPtrSum i

/-! ### Memory (R35, R38) -/

/-- The memory's canonical form: addresses strictly rising, no byte 0 listed. -/
def Memory.wf (m : List Host.Cell) : Bool := mwf 0#8 m

/-- One byte; a byte nothing has written reads 0. -/
def rdByte (s : State) (a : Nat) : Byte := mget 0#8 s.mem a

/-- `n` bytes from `a` up. -/
def rdBytes (s : State) (a n : Nat) : List Byte := (List.range n).map fun i => rdByte s (a + i)

/-- Bytes, the lowest address first, as a number. -/
def leNat : List Byte → Nat
  | [] => 0
  | b :: t => b.toNat + 256 * leNat t

/-- `n` bytes of a number, the lowest first. -/
def leBytes : Nat → Nat → List Byte
  | 0, _ => []
  | n + 1, v => BitVec.ofNat 8 v :: leBytes n (v / 256)

/-- A little-endian word in memory (R10). -/
def rd16 (s : State) (a : Nat) : Nat := leNat (rdBytes s a 2)
def rd32 (s : State) (a : Nat) : Word := word (leNat (rdBytes s a 4))
def rd64 (s : State) (a : Nat) : DWord := BitVec.ofNat 64 (leNat (rdBytes s a 8))

/-- The cells of bytes from `a` up; a byte 0 is not listed. -/
def cellsOf (a : Nat) : List Byte → List Host.Cell
  | [] => []
  | b :: t => if b = 0#8 then cellsOf (a + 1) t else (a, b) :: cellsOf (a + 1) t

/-- Bytes stored from `a` up. -/
def storeBytes (m : List Host.Cell) (a : Nat) (bs : List Byte) : List Host.Cell :=
  (m.filter fun c => decide (c.1 < a)) ++ cellsOf a bs ++ m.filter fun c => decide (a + bs.length ≤ c.1)

/-- Shared state SRAM, stream buffer, MRAM, DRAM, dump region, register windows, boot ROM (R38). -/
def inShared (a : Nat) : Bool := decide (0x80000000 ≤ a) && decide (a < 0x81000000)
def inStream (a : Nat) : Bool := decide (0x81000000 ≤ a) && decide (a < 0x81800000)
def inLocal (a : Nat) : Bool := decide (0x90000000 ≤ a) && decide (a < 0x91000000)
def inMram (a : Nat) : Bool := decide (0xA0000000 ≤ a) && decide (a < 0xA1000000)
def inDram (a : Nat) : Bool := decide (0x100000000 ≤ a) && decide (a < 0x500000000)
def inDump (a : Nat) : Bool := decide (0x4FC000000 ≤ a) && decide (a < 0x500000000)
def inRegs (a : Nat) : Bool := decide (0xF0000000 ≤ a) && decide (a < 0xF0190000)
def inRom (a : Nat) : Bool := decide (a < 0x20000)

/-- Core `k`'s local SRAM (R39). -/
def coreBase (k : Nat) : Nat := 0x90000000 + k * 0x40000
/-- Core `k`'s data bank (R39). -/
def dataBase (k : Nat) : Nat := coreBase k + 0x20000
/-- The code bank of core `k`: A, or B (R39). -/
def codeBase (k : Nat) (b : Bool) : Nat := coreBase k + (if b then 0x10000 else 0)
/-- The address lies in a data bank. -/
def inDataBank (a : Nat) : Bool := inLocal a && decide (0x20000 ≤ a % 0x40000)
/-- The address lies in a code bank. -/
def inCodeBank (a : Nat) : Bool := inLocal a && decide (a % 0x40000 < 0x20000)

/-- A sorted list of numbers with `n` in it. -/
def insNat (n : Nat) : List Nat → List Nat
  | [] => [n]
  | m :: t => if n < m then n :: m :: t else if n = m then m :: t else m :: insNat n t

/-- The 64-byte lines from `a` to `a + n − 1`. -/
def linesOf (a n : Nat) : List Nat :=
  (List.range ((a + n + 63) / 64 - a / 64)).map fun i => a / 64 + i

/-- Lines the tracker follows: data banks and shared state SRAM (R305). -/
def tracked (line : Nat) : Bool := inShared (line * 64) || inDataBank (line * 64)

/-- A store marks its lines dirty, also when it writes the value held (R305); the lines join the carry sets (R394). -/
def markDirty (s : State) (a n : Nat) : State :=
  let ls := (linesOf a n).filter tracked
  { s with
    pcx := { s.pcx with dirty := ls.foldl (fun d l => insNat l d) s.pcx.dirty }
    tsk := { s.tsk with carry := (ls.filter fun l => inDataBank (l * 64)).foldl (fun d l => insNat l d) s.tsk.carry } }

/-- Bytes written from `a` up, with nothing marked; the doublewords written hold no error any more. -/
def pokeBytes (s : State) (a : Nat) (bs : List Byte) : State :=
  { s with mem := storeBytes s.mem a bs, ecc := mdrop s.ecc (a / 8) ((a + bs.length + 7) / 8) }

/-- Every byte in `lo ≤ a < hi` reads 0 (R110: a wipe writes zeros). -/
def wipe (s : State) (lo hi : Nat) : State := { s with mem := mdrop s.mem lo hi, ecc := mdrop s.ecc (lo / 8) (hi / 8) }

/-! ### Queues with double pointers -/

/-- The two copies of each pointer agree. -/
def qOk {α : Type} (q : Q α) : Bool := q.rd == q.rdC && q.wr == q.wrC

/-- A queue of `cap` places with `x` at its end. -/
def qPush {α : Type} (cap : Nat) (q : Q α) (x : α) : Q α :=
  let w := (q.wr + 1) % cap
  { q with items := q.items ++ [x], wr := w, wrC := w }

/-- A queue of `cap` places without its oldest entry. -/
def qPop {α : Type} (cap : Nat) (q : Q α) : Q α :=
  let r := (q.rd + 1) % cap
  { q with items := q.items.tail, rd := r, rdC := r }

/-- A queue of `cap` places without the newest entry that `f` admits, as if it had never been put in. -/
def qUnpush {α : Type} (cap : Nat) (q : Q α) (f : α → Bool) : Q α :=
  if q.items.any f then
    let w := (q.wr + (cap - 1)) % cap
    { q with items := (q.items.reverse.eraseP f).reverse, wr := w, wrC := w }
  else q

/-- The list without its entry `i`. -/
def dropAt {α : Type} (l : List α) (i : Nat) : List α := l.take i ++ l.drop (i + 1)

/-! ### Time -/

/-- Nanoseconds and seconds of an instant of the LTC (R164). -/
def nsOf (t : Nat) : Nat := t % 1000000000
def secOf (t : Nat) : Nat := t / 1000000000

/-- The LTC runs: from the release of the reset that follows power-on, and then as long as the module has power (R162). -/
def ltcRuns (s : State) : Bool := s.sys.released || s.sys.cause != 0

/-- Elapsed time and the LTC advanced by `d` ns. -/
def elapse (s : State) (d : Nat) : State := { s with now := s.now + d, ltc := if ltcRuns s then s.ltc + d else s.ltc }

/-- The instant `t` of elapsed time is reached, if it lies ahead. -/
def reach (s : State) (t : Nat) : State := elapse s (t - s.now)

/-- The instant `t` of the LTC is reached, if it lies ahead. -/
def reachLtc (s : State) (t : Nat) : State := elapse s (t - s.ltc)

/-- The base tick rate in force, in Hz (TIME_TICK_CFG.RATE). -/
def fsOf (s : State) : Nat := if bit (shadowOf s R.timeTickCfg) 0 then 4000 else 4800

/-- A value the spec leaves open, drawn afresh. -/
def draw (s : State) : Word × State := (Config.draw s.draws, { s with draws := s.draws + 1 })

end Sys2Proof.Machine
end

