-- ==== Sys2Proof/Machine/Alm.lean ====
section
/-! DEFINITION. Notifications and the almanac: posts to a partition's host notification queue (R157-R160), posts to the
almanac (R494-R497, R501) and the writing, seeking and scanning of its records (R496, R499, R500). -/

namespace Sys2Proof.Machine

/-- One bit of the reflected CRC-32. -/
def crcBit (c : Nat) : Nat := if c % 2 = 1 then (c / 2) ^^^ 0xEDB88320 else c / 2

/-- One byte of the CRC-32. -/
def crcByte (c : Nat) (b : Byte) : Nat :=
  let x := c ^^^ b.toNat
  crcBit (crcBit (crcBit (crcBit (crcBit (crcBit (crcBit (crcBit x)))))))

/-- The CRC-32 of R236: IEEE 802.3, reflected, initial value all ones, final complement. -/
def crc32 (bs : List Byte) : Word := word (bs.foldl crcByte 0xFFFFFFFF ^^^ 0xFFFFFFFF)

/-- The CRC-32 over little-endian words. -/
def crcWords (ws : List Word) : Word := crc32 (ws.flatMap fun w => leBytes 4 w.toNat)

/-! ### Posting to the almanac -/

/-- The drop count of a severity (R496, R497) and the notification of the first drop (R503). The notification is given to
`notify`, since it goes through the host queues. -/
def almCount (s : State) (sev : Nat) : State :=
  match sev with
  | 0 => bump s R.almDrop01 31 16 1
  | 1 => bump s R.almDrop01 15 0 1
  | 2 => bump s R.almDrop23 31 16 1
  | _ => bump s R.almDrop23 15 0 1

/-- The index of the newest queued post of a severity lower than `sev` (R497). -/
def almVictim (ps : List Post) (sev : Nat) : Option Nat :=
  (List.range ps.length).foldl
    (fun r i => match ps[i]? with | some p => if sev < p.sev then some i else r | none => r) none

/-- The item words of a notification (R157). -/
def hnqItem (cls src code info : Nat) : Word :=
  word (2 ^ 31 + (cls % 4) * 2 ^ 29 + (src % 32) * 2 ^ 24 + (code % 256) * 2 ^ 16 + info % 65536)

/-- CLASS of an item. -/
def itemClass (w : Word) : Nat := fld w 30 29

/-- A partition's queue. -/
def hnqOf (s : State) (p : Nat) : Hnq := mget {} s.part.hnq p
def setHnq (s : State) (p : Nat) (h : Hnq) : State :=
  { s with part := { s.part with hnq := mset {} s.part.hnq p h } }

/-- The index of the first item whose class is the smallest (R158: the most urgent, the oldest first). -/
def urgentIdx (l : List Word) : Nat :=
  let best := l.foldl (fun m w => min m (itemClass w)) 3
  (l.findIdx fun w => itemClass w = best)

/-- The index of the oldest item of the least urgent class present (R158). -/
def leastIdx (l : List Word) : Nat :=
  let worst := l.foldl (fun m w => max m (itemClass w)) 0
  (l.findIdx fun w => itemClass w = worst)

/-- An item joins a queue of 256; a full queue gives up the oldest item of its least urgent class (R158). -/
def hnqPut (s : State) (p : Nat) (w : Word) : State :=
  let h := hnqOf s p
  let (h, s) :=
    if h.q.items.length < 256 then (h, s)
    else
      ({ h with q := { h.q with items := dropAt h.q.items (leastIdx h.q.items), rd := (h.q.rd + 1) % 256,
                                rdC := (h.q.rd + 1) % 256 } }, bump s (R.hnqLost p) 15 0 1)
  setEvt (setHnq s p { h with q := qPush 256 h.q w }) (R.hnqEvt p) 0

/-- A post joins the almanac's queue of 64 (R497). -/
def almQueue (s : State) (p : Post) : State :=
  let q := s.alm.posts
  if q.items.length < 64 then { s with alm := { s.alm with posts := qPush 64 q p } }
  else
    match almVictim q.items p.sev with
    | some i =>
      let v := (q.items[i]?).getD p
      let s := almCount s v.sev
      { s with alm := { s.alm with posts := { q with items := dropAt q.items i ++ [p] } } }
    | none => almCount s p.sev

/-- The post as it reaches the ALM: the LTC, the sync state and the tick of that moment (R494). -/
def mkPost (s : State) (sev src code : Nat) (pid : Option Nat) (info : List Word) : Post :=
  { sev := sev, src := src, code := code, pid := pid, info := info, ns := nsOf s.ltc, sec := secOf s.ltc,
    sync := s.time.sync, tick := s.time.tick }

/-- Steps 1 to 3 of R160: the queue is emptied, PTR_RESET, the first item. -/
def hnqEmpty (s : State) (p : Nat) : State :=
  let s := setHnq s p { hnqOf s p with q := {} }
  hnqPut (ptrSum (setEvt s (R.hnqEvt p) 2) 2) p (hnqItem 0 0x02 0x01 0)

/-- An item the ALM itself puts in a queue, whose pointers are compared first (R160); the record of a mismatch goes straight to the
queue of posts. -/
def hnqSafe (s : State) (p : Nat) (w : Word) : State :=
  hnqPut (if qOk (hnqOf s p).q then s else let s := hnqEmpty s p; almQueue s (mkPost s 1 0x02 0x01 (some p) [])) p w

/-- A drop sets DROP, and the first one since it was cleared is notified (R503). -/
def almDrop (dropped : Bool) (s : State) (sev : Nat) : State :=
  if !dropped || evt s R.almEvt 3 then s
  else
    let s := setEvt s R.almEvt 3
    (List.range 32).foldl
      (fun t p => if bit (forceOf t R.almNotify) p then hnqSafe t p (hnqItem 1 0x14 0x11 sev) else t) s

/-- The severity a full queue loses to an arriving post. -/
def almLost (s : State) (sev : Nat) : Nat :=
  match almVictim s.alm.posts.items sev with
  | some i => ((s.alm.posts.items[i]?).map (·.sev)).getD sev
  | none => sev

/-- The pointer reset of the post queue (R501): the posts are counted as dropped. -/
def almPtrReset (s : State) : State :=
  let lost := s.alm.posts.items
  let s := lost.foldl (fun t p => almCount t p.sev) s
  let s := ptrSum (setEvt { s with alm := { s.alm with posts := {} } } R.almEvt 5) 0x14
  let s := almQueue s (mkPost s 1 0x14 0x01 none [])
  (List.range 32).foldl
    (fun t p => if bit (forceOf t R.almNotify) p then hnqSafe t p (hnqItem 0 0x14 0x01 0) else t) s

/-- A block posts a record (R497): the pointers are compared first (R501). -/
def almPost (s : State) (sev src code : Nat) (pid : Option Nat) (info : List Word) : State :=
  let s := if qOk s.alm.posts then s else almPtrReset s
  let sv := almLost s sev
  almDrop (decide (64 ≤ s.alm.posts.items.length)) (almQueue s (mkPost s sev src code pid info)) sv

/-- The pointer reset of a partition's host queue (R160). -/
def hnqPtrReset (s : State) (p : Nat) : State := almPost (hnqEmpty s p) 1 0x02 0x01 (some p) []

/-- A block posts an item to partition `p`'s queue (R157, R158); the pointers are compared first (R160). -/
def hnqPost (s : State) (p cls src code info : Nat) : State :=
  let s := if qOk (hnqOf s p).q then s else hnqPtrReset s p
  hnqPut s p (hnqItem cls src code info)

/-- A notification to every partition of a NOTIFY register. -/
def notifyAll (s : State) (mask : Word) (cls src code info : Nat) : State :=
  (List.range 32).foldl (fun t p => if bit mask p then hnqPost t p cls src code info else t) s

/-! ### Records -/

/-- The address of slot `i` (R494). -/
def slotAddr (i : Nat) : Nat := 0xA0100000 + i * 64

/-- Word `w` of slot `i`. -/
def slotWord (s : State) (i w : Nat) : Word := rd32 s (slotAddr i + 4 * w)

/-- VALID of a slot. -/
def slotValid (s : State) (i : Nat) : Bool := bit (slotWord s i 1) 29

/-- The slots that hold any byte, in rising order. -/
def almListed (s : State) : List Nat :=
  (mtake s.mem 0xA0100000 0xA0500000).foldr
    (fun c l => let i := (c.1 - 0xA0100000) / 64; if l.head? = some i then l else i :: l) []

/-- The VALID slots, in rising order. -/
def almValid (s : State) : List Nat := (almListed s).filter (slotValid s)

/-- The lowest number from `n` up that is not in the rising list. -/
def firstGap : List Nat → Nat → Nat
  | [], n => n
  | m :: t, n => if m = n then firstGap t (n + 1) else if m < n then firstGap t n else n

/-- Among slots that qualify, the one with the lowest SEQ. -/
def lowestSeq (s : State) (l : List Nat) : Option Nat :=
  l.foldl (fun r i => match r with
    | none => some i
    | some j => if (slotWord s i 2).toNat < (slotWord s j 2).toNat then some i else some j) none

/-- The slot a record of severity `sev` takes (R496). -/
def almSlot (s : State) (sev : Nat) : Option Nat :=
  let v := almValid s
  let g := firstGap v 0
  if g < 65536 then some g
  else lowestSeq s (v.filter fun i => decide (sev ≤ fld (slotWord s i 1) 31 30))

/-- Words 1 to 14 of a record (R494). -/
def recordWords (s : State) (p : Post) : List Word :=
  let pidW := match p.pid with | some q => 2 ^ 7 + q % 32 | none => 0
  [word ((p.sev % 4) * 2 ^ 30 + 2 ^ 29 + (p.src % 256) * 2 ^ 16 + (p.code % 256) * 2 ^ 8 + pidW),
   s.alm.seqNext, word p.ns, word p.sec,
   word ((p.sync % 4) * 2 ^ 30 + (p.tick % 8192) * 2 ^ 16 + (p.sec / 2 ^ 32) % 65536),
   word s.pwr.opsec, word ((s.pwr.opsec / 2 ^ 32) % 256), word s.pwr.cycles]
  ++ (List.range 6).map fun i => (p.info[i]?).getD 0#32

/-- A slot is torn: GEN odd, or VALID with a failing CHECK (R500). -/
def slotTorn (s : State) (i : Nat) : Bool :=
  bit (slotWord s i 0) 0 ||
    (slotValid s i && crcWords ((List.range 14).map fun w => slotWord s i (w + 1)) != slotWord s i 15)

/-- The slot ALM_CUR_SEQ finds: VALID, the lowest SEQ at or above the one sought (R499). -/
def almFind (s : State) (sq : Word) : Option Nat :=
  lowestSeq s ((almValid s).filter fun i => decide (sq.toNat ≤ (slotWord s i 2).toNat))

end Sys2Proof.Machine
end

