-- ==== Sys2Proof/Machine/Part.lean ====
section
/-! DEFINITION. PART: access tags (R140), ownership (R142-R145), the checks on register and memory accesses (R10, R144,
R153, R154, R159), access violations (R155, R156), the owner checks of a PART set (R143, R146, R150), mediation (R147) and
the host queue's reads (R158). -/

namespace Sys2Proof.Machine

/-! ### Tags and owners -/

/-- The tag of an application core's access (R140). -/
def accTag (s : State) (a : Acc) : Tag :=
  let c := shadowOf s (R.partHartCtx a.core.val)
  { secure := a.secure, pid := Fin.ofNat 32 (fld c 4 0), sys := bit c 5, master := BitVec.ofNat 8 a.core.val }

/-- The tag of protection core `k` whose run carries PID `p` (R140, R141). -/
def coreTag (k p : Nat) : Tag :=
  { secure := false, pid := Fin.ofNat 32 p, sys := false, master := BitVec.ofNat 8 (0x10 + k) }

/-- PART_WORLD in force, with the bits that read 1 and cannot be changed (R153). -/
def worldOf (s : State) : Word := (forceOf s R.partWorld ||| 0x00400006#32) &&& 0x01FFFFFF#32

/-- The tag of block `i`'s DMA serving partition `p`; `none` for an access with SYS = 1 (R140). -/
def dmaTag (s : State) (i : Nat) (p : Option Nat) : Tag :=
  let sys := i == 3 || i == 0x13 || i == 0x14 || i == 0x15 || i == 0x18
  { secure := bit (worldOf s) i, pid := Fin.ofNat 32 (if sys then 0 else p.getD 0), sys := sys,
    master := BitVec.ofNat 8 (0x80 + i) }

/-- The number of resources of a kind, by the code of PART_MED_CMD.RTYPE (R142). -/
def kindCount : Nat → Nat
  | 0 => 64 | 1 => 1024 | 2 => 256 | 3 => 512 | 4 => 64 | 5 => 32 | 6 => 256 | 7 => 512 | 8 => 64 | _ => 0

/-- The owner of resource `n` of kind `t` in an owner table. -/
def ownerIn (o : List (Nat × Nat)) (t n : Nat) : Option Nat :=
  match mget 0 o (t * 0x10000 + n) with | 0 => none | p + 1 => some p

/-- The owner in force (R142). -/
def ownerOf (s : State) (t n : Nat) : Option Nat := ownerIn s.part.owners t n

/-- An owner table with `n` of kind `t` given to `p`. -/
def giveTo (o : List (Nat × Nat)) (t n : Nat) (p : Option Nat) : List (Nat × Nat) :=
  mset 0 o (t * 0x10000 + n) (match p with | some p => p + 1 | none => 0)

/-- The slice range register of a kind of resource (R145), with its offset in the slice entry. -/
def sliceOff : Nat → Nat
  | 0 => 0x00 | 1 => 0x04 | 2 => 0x08 | 3 => 0x0C | 4 => 0x20 | 6 => 0x10 | 7 => 0x14 | _ => 0x18

/-- The owners a slice table describes (R145); `get` reads a PART register. -/
def sliceOwners (get : Nat → Word) : List (Nat × Nat) :=
  (List.range 8).foldl (fun o p =>
    let o := [0, 1, 2, 3, 4, 6, 7, 8].foldl (fun o t =>
      let r := get (0xF0020100 + p * 0x40 + sliceOff t)
      (List.range (min (fld r 31 16) (kindCount t))).foldl (fun o i => giveTo o t (fld r 15 0 + i) (some p)) o) o
    (List.range 32).foldl (fun o n => if bit (get (R.slcLanes p)) n then giveTo o 5 n (some p) else o) o) []

/-- A value of a pending set, or the value in force. -/
def pendVal (vals : List (Nat × Word)) (a : Nat) : Word := (mfind vals a).getD (regReset a)

/-- The owners a PART set gives (R145, R146): a change from slice to mediated mode leaves every tag as it is. -/
def setOwners (s : State) (ps : PendSet) : List (Nat × Nat) :=
  if !bit (pendVal ps.vals R.partMode) 0 then sliceOwners (pendVal ps.vals)
  else if bit (forceOf s R.partMode) 0 then ps.owners
  else s.part.owners

/-- Partition `p` is enabled in force. -/
def partOn (s : State) (p : Nat) : Bool := bit (forceOf s R.partEn) p

/-! ### Which resource a register belongs to (R144) -/

/-- The resource a register belongs to: its kind and number. -/
def regResource (a : Nat) : Option (Nat × Nat) :=
  let b := blockOf a
  let o := a % 0x10000
  if b = 9 then
    if 0x1000 ≤ o ∧ o < 0x9000 then some (1, (o - 0x1000) / 0x20)
    else if 0x9000 ≤ o ∧ o < 0xA000 then some (2, (o - 0x9000) / 0x10) else none
  else if b = 10 then
    if 0x1000 ≤ o ∧ o < 0x2000 then some (8, (o - 0x1000) / 0x40) else none
  else if b = 11 then
    if 0x2000000000 ≤ a then some (1, (a - 0x2000000000) / 0x20 / 8)
    else if 0x2000 ≤ o ∧ o < 0x4000 then some (2, (o - 0x2000) / 0x20) else none
  else if b = 12 then
    if 0x1000 ≤ o ∧ o < 0x2000 then some (0, (o - 0x1000) / 0x40) else none
  else if b = 13 then
    if a < 0x2000000000 ∧ 0x4000 ≤ o ∧ o < 0x8000 then some (3, (o - 0x4000) / 0x20) else none
  else if b = 14 then
    if 0x100 ≤ o ∧ o < 0x200 then some (4, (o - 0x100) / 4)
    else if 0x200 ≤ o ∧ o < 0x600 then some (4, (o - 0x200) % 0x200 / 8)
    else if 0x1000 ≤ o ∧ o < 0x1800 then some (5, (o - 0x1000) / 0x40) else none
  else if b = 15 then
    if 0x1000 ≤ o ∧ o < 0x5000 then some (6, (o - 0x1000) / 0x40)
    else if 0x6000 ≤ o ∧ o < 0xA000 then some (7, (o - 0x6000) / 0x20) else none
  else none

/-- The partition a register is fixed to (R142: the force table, the host queue; a partition's own registers). -/
def regPid (a : Nat) : Option Nat :=
  let b := blockOf a
  let o := a % 0x10000
  if b = 13 then
    if 0x2100000000 ≤ a then some ((a - 0x2100000000) / 0x20 / 256)
    else if 0x100 ≤ o ∧ o < 0x500 then some ((o - 0x100) / 0x20) else none
  else none

/-- The tag may use what `p` owns (R144). -/
def mayUse (t : Tag) (p : Option Nat) : Bool := t.secure || t.sys || p == some t.pid.val

/-- Registers only the secure world may write, whatever PART_WORLD says (R55, R153, R336, R412). -/
def secureOnly (a : Nat) : Bool :=
  let o := a % 0x10000
  match blockOf a with
  | 0 => o == 0x24
  | 3 => o == 0x08
  | 12 => (decide (0x20 ≤ o) && decide (o < 0x34)) || (decide (0x80 ≤ o) && decide (o < 0x100))
  | 13 => decide (a < 0x2000000000) && decide (0x100 ≤ o) && decide (o < 0x500) &&
      (o % 0x20 == 0 || o % 0x20 == 8 || o % 0x20 == 0x10)
  | 0x17 => o == 0x0C || o == 0x40 || o == 0x44
  | 0x18 => o == 0x200 || o == 0x204 || o == 0x208
  | _ => false

/-- Why a register access is refused: the KIND of PART_AV_INFO, or nothing (R144, R153, R159). -/
def regDenied (s : State) (t : Tag) (a : Nat) (wr : Bool) : Option Nat :=
  let b := blockOf a
  let o := a % 0x10000
  if t.secure then none
  else if b = 2 then
    if 0x8000 ≤ o ∧ o < 0x8400 then (if t.sys || (o - 0x8000) / 0x20 == t.pid.val then none else some 6) else some 7
  else if bit (worldOf s) b then some 7
  else if wr && secureOnly a then some 7
  else if (match regResource a with | some (k, n) => !mayUse t (ownerOf s k n) | none => false) then some 6
  else if (match regPid a with | some p => !mayUse t (some p) | none => false) then some 6
  else none

/-! ### Memory (R38, R40, R154) -/

/-- Base, end and attributes of region `n` in force. -/
def regionHas (s : State) (n a : Nat) : Bool :=
  let sz := (forceOf s (R.regSize n)).toNat
  let base := (forceOf s (R.regBaseHi n)).toNat * 2 ^ 32 + (forceOf s (R.regBaseLo n)).toNat
  decide (sz ≠ 0) && decide (base ≤ a) && decide (a < base + sz * 4096)

/-- The lowest-numbered enabled region containing the address (R154). -/
def regionOf (s : State) (a : Nat) : Option Nat := (List.range 64).find? fun n => regionHas s n a

/-- Whether MRAM's layout closes an address to the non-secure world (R40). -/
def mramClosed (a : Nat) (wr : Bool) : Bool :=
  if a < 0xA0010000 then true
  else if a < 0xA0020000 then wr
  else if a < 0xA0100000 then true
  else if a < 0xA0500000 then true
  else false

/-- The address is one of the map's memories (R38); the reserved part of MRAM is none (R40). -/
def memExists (a : Nat) : Bool :=
  inShared a || inStream a || inLocal a || inDram a ||
    (inMram a && !(decide (0xA0040000 ≤ a) && decide (a < 0xA0100000)))

/-- The Masters column of R35 shuts the memory to a master: local SRAM to another core and to DMA other than that of the PCX, the
TSK, the MIR and DIAG; the stream buffer to writes of all but the SIU and to reads of other DMA than it names; MRAM to other DMA
than it names. DEDUCED: log 180. -/
def masterShut (t : Tag) (k : AccKind) (a : Nat) : Bool :=
  let m := t.master.toNat
  if inLocal a then
    if m < 0x10 then false
    else if m < 0x50 then (a - 0x90000000) / 0x40000 != m - 0x10
    else !([0x8C, 0x8D, 0x96, 0x98].contains m)
  else if inStream a then
    if k = .write then m != 0x89 else decide (0x50 ≤ m) && !([0x89, 0x8A, 0x8B, 0x93, 0x95, 0x98].contains m)
  else if inMram a then decide (0x10 ≤ m) && !([0x81, 0x8D, 0x94, 0x95, 0x97].contains m)
  else false

/-- Why a memory access is refused: the KIND of PART_AV_INFO, or nothing (R35, R38, R40, R154, R304). -/
def memDenied (s : State) (t : Tag) (k : AccKind) (a : Nat) : Option Nat :=
  if inRom a then (if t.secure && !decide (k = .write) && decide (s.trust.stage < 2) then none else some 2)
  else if inRegs a then some 8
  else if !memExists a then some 1
  else if inDump a then (if t.secure then none else some 2)
  else if inCodeBank a && decide (k = .write) then some 5
  else if masterShut t k a then some 5
  else if inMram a && !t.secure && mramClosed a (decide (k = .write)) then some 2
  else
    match regionOf s a with
    | none => some 1
    | some n =>
      let at_ := forceOf s (R.regAttr n)
      if !t.secure && bit at_ 4 then some 2
      else if !t.secure && t.sys && !bit at_ 8 then some 4
      else if !t.secure && !t.sys && !bit (forceOf s (R.regPidmask n)) t.pid.val then some 3
      else
        let i := match k with | .read => 0 | .write => 1 | .fetch => 2
        if bit at_ i then none else some 5

/-- The first refusal among the lines of an access of `n` bytes. -/
def rangeDenied (s : State) (t : Tag) (k : AccKind) (a n : Nat) : Option Nat :=
  ((linesOf a n).map fun l => memDenied s t k (max a (l * 64))).findSome? id

/-! ### Violations (R155, R156) -/

/-- PART_AV_INFO of a violation. -/
def avInfo (t : Tag) (wr : Bool) (kind : Nat) : Word :=
  word (t.master.toNat * 2 ^ 24 + t.pid.val * 2 ^ 19 + b2n t.sys 18 + b2n t.secure 17 + b2n wr 16 + kind)

/-- The logged violation, its record and its notification. -/
def avLog (s : State) (t : Tag) (wr : Bool) (a kind : Nat) : State :=
  let info := avInfo t wr kind
  let s := setEvt { s with part := { s.part with avCycle := some (s.now / 2) } } R.partEvt 0
  let s := setLive (setLive (setLive s R.partAvInfo info) R.partAvAddrLo (word a)) R.partAvAddrHi (word (a / 2 ^ 32 % 8))
  let s := almPost s 1 0x02 0x80 (some t.pid.val) [info]
  hnqPost s t.pid.val 0 0x02 0x80 (t.master.toNat * 256 + kind)

/-- The record and the notification of the violation logged before are taken back. -/
def avUnlog (s : State) : State :=
  let w := liveOf s R.partAvInfo
  let p := fld w 23 19
  let it := hnqItem 0 0x02 0x80 (fld w 31 24 * 256 + fld w 7 0)
  let s := { s with alm := { s.alm with posts := qUnpush 64 s.alm.posts fun x => x.src == 2 && x.code == 0x80 } }
  setHnq s p { hnqOf s p with q := qUnpush 256 (hnqOf s p).q fun x => x == it }

/-- VIOLATION_LOG (R156): of two violations of one FAB cycle the one with the lower MASTER is logged. -/
def violate (s : State) (t : Tag) (wr : Bool) (a kind : Nat) : State :=
  let s := bump s R.partAvCount 15 0 1
  if evt s R.partEvt 0 then
    if s.part.avCycle = some (s.now / 2) ∧ t.master.toNat < fld (liveOf s R.partAvInfo) 31 24 then avLog (avUnlog s) t wr a kind
    else s
  else avLog s t wr a kind

/-- A refused access of an application core: no effect, a read returns 0, a bus error (R155). -/
def busError (s : State) (t : Tag) (wr : Bool) (a kind : Nat) : State :=
  let s := violate s t wr a kind
  { s with bus := 0#32, busErr := true }

/-- A register access of an application core: `f` when it is admitted (R10, R144, R153). -/
def regAccess (s : State) (a : Acc) (addr : Nat) (wr : Bool) (f : State → State) : State :=
  match regDenied s (accTag s a) addr wr with
  | some k => busError s (accTag s a) wr (busAddr addr) k
  | none => f { s with busErr := false }

/-! ### The checks of a PART set (R143, R146) -/

/-- The offset of the PART register that gives resource `n` of kind `t` (R143). -/
def giverOff (get : Nat → Word) (t n : Nat) : Nat :=
  if bit (get R.partMode) 0 then 0x400
  else
    ((List.range 8).findSome? fun p =>
      if t = 5 then (if bit (get (R.slcLanes p)) n then some (0x128 + p * 0x40) else none)
      else
        let r := get (0xF0020100 + p * 0x40 + sliceOff t)
        if fld r 15 0 ≤ n ∧ n < fld r 15 0 + fld r 31 16 then some (0x100 + p * 0x40 + sliceOff t) else none).getD 0

/-- Two slices claim one resource, or one lane: the offset of the later one (R143). -/
def sliceClash (get : Nat → Word) : Option Nat :=
  ((List.range 8).flatMap fun p => (List.range p).map fun q => (q, p)).findSome? fun (q, p) =>
    let hit := [0, 1, 2, 3, 4, 6, 7, 8].findSome? fun t =>
      let r := get (0xF0020100 + p * 0x40 + sliceOff t)
      let u := get (0xF0020100 + q * 0x40 + sliceOff t)
      if fld r 31 16 ≠ 0 ∧ fld u 31 16 ≠ 0 ∧ fld r 15 0 < fld u 15 0 + fld u 31 16 ∧ fld u 15 0 < fld r 15 0 + fld r 31 16
      then some (0x100 + p * 0x40 + sliceOff t) else none
    match hit with
    | some o => some o
    | none => if get (R.slcLanes p) &&& get (R.slcLanes q) ≠ 0#32 then some (0x128 + p * 0x40) else none

/-- A slice range beyond its resource, in either mode (R143, R44: COUNT 0 is disabled). -/
def sliceRange (get : Nat → Word) : Option Nat :=
  (List.range 8).findSome? fun p => [0, 1, 2, 3, 4, 6, 7, 8].findSome? fun t =>
    let r := get (0xF0020100 + p * 0x40 + sliceOff t)
    if fld r 31 16 ≠ 0 ∧ kindCount t < fld r 15 0 + fld r 31 16 then some (0x100 + p * 0x40 + sliceOff t) else none

/-- The SIU's number of contexts of a dataset with `n` channels (R230). -/
def ctxSpan (n : Nat) : Nat := if n ≤ 8 then 1 else if n ≤ 16 then 2 else 3

/-- An enabled context whose group's owner is another, or a dataset whose contexts have two owners: the resources concerned (R143). -/
def ctxBreach (s : State) (o : List (Nat × Nat)) : Option (List (Nat × Nat)) :=
  let on := (s.force.filter fun e => decide (0xF0091000 ≤ e.1) && decide (e.1 < 0xF0099000) && decide (e.1 % 0x20 = 0)
    && bit e.2 31)
  on.findSome? fun e =>
    let c := (e.1 - 0xF0091000) / 0x20
    if ownerIn o 1 c ≠ ownerIn o 2 (fld e.2 23 16) then some [(1, c), (2, fld e.2 23 16)]
    else if (List.range (ctxSpan (fld e.2 12 8))).any fun i => ownerIn o 1 (c + i) ≠ ownerIn o 1 c then
      some ((List.range (ctxSpan (fld e.2 12 8))).map fun i => (1, c + i))
    else none

/-- A task of a program in force whose core or group has not the task's owner (R143). -/
def taskBreach (s : State) (o : List (Nat × Nat)) : Option (List (Nat × Nat)) :=
  s.tsk.tasks.findSome? fun (t, ts) =>
    match ts.def_ with
    | none => none
    | some d =>
      if ownerIn o 0 d.core ≠ ownerIn o 3 t then some [(0, d.core), (3, t)]
      else if d.kind = 1 ∧ ownerIn o 2 (fld d.act 23 16) ≠ ownerIn o 3 t then some [(2, fld d.act 23 16), (3, t)]
      else none

/-- The offset of a breach among the resources `l`: the register that gives the first of them that would move, or that gave it
before where no pending one does; 0 where none would move (R143). -/
def breachOff (s : State) (o : List (Nat × Nat)) (get : Nat → Word) (l : List (Nat × Nat)) : Nat :=
  match l.find? fun e => ownerIn o e.1 e.2 ≠ ownerOf s e.1 e.2 with
  | some (k, n) => let g := giverOff get k n
    if g ≠ 0 then g else giverOff (forceOf s) k n
  | none => 0

/-- An enabled memory region that passes the end of DRAM (R161). -/
def regionEnd (get : Nat → Word) : Option Nat :=
  (List.range 64).findSome? fun n =>
    let sz := fld (get (R.regSize n)) 22 0
    if sz ≠ 0 ∧ 0x500000000 < fld (get (R.regBaseHi n)) 2 0 * 2 ^ 32 + fld (get (R.regBaseLo n)) 31 12 * 4096 + sz * 4096
    then some (0x1008 + n * 0x20) else none

/-- PART's consistency check: cause and offset of the first fault (R19, R143, R146, R161). -/
def checkPart (s : State) (ps : PendSet) : Option (Nat × Nat) :=
  let get := pendVal ps.vals
  let guard := (List.range 8).findSome? fun p =>
    if !guardOk (get (R.slcFlagpg p)) (get (R.slcFlagpgC p)) then some (1, 0x120 + p * 0x40)
    else if !guardOk (get (R.slcLanes p)) (get (R.slcLanesC p)) then some (1, 0x128 + p * 0x40) else none
  match guard with
  | some f => some f
  | none =>
    let slice := !bit (get R.partMode) 0
    if slice && decide ((get R.partEn).toNat / 256 ≠ 0) then some (3, 0x0004)
    else
      match (sliceRange get).orElse fun _ => regionEnd get with
      | some o => some (3, o)
      | none =>
        match if slice then sliceClash get else none with
        | some o => some (2, o)
        | none =>
          let o := setOwners s ps
          if slice && bit (forceOf s R.partMode) 0 && decide (o ≠ s.part.owners) then some (2, 0x0000)
          else
            match (ctxBreach s o).orElse fun _ => taskBreach s o with
            | some l => some (2, breachOff s o get l)
            | none => none

/-! ### Host queue reads (R158) -/

/-- A pop of partition `p`'s queue; `soft` is the fall-back port (R158). The pointers are compared first (R160). -/
def hnqRead (s : State) (p : Nat) (soft : Bool) : State :=
  let s := if qOk (hnqOf s p).q then s else hnqPtrReset s p
  let h := hnqOf s p
  match h.q.items with
  | [] => if soft then setBus s 0#32 else setBus (setEvt s (R.hnqEvt p) 1) h.last
  | _ :: _ =>
    let i := urgentIdx h.q.items
    let w := (h.q.items[i]?).getD 0#32
    let r := (h.q.rd + 1) % 256
    setBus (setHnq s p { q := { h.q with items := dropAt h.q.items i, rd := r, rdC := r }, last := w }) w

/-- HNQ_POP (R158, R159). -/
def execHnqPop (a : Acc) (p : Fin 32) (s : State) : Host.Outcome State Fault Refusal :=
  .next (regAccess s a (R.hnqPop p.val) false fun s => hnqRead s p.val false)

/-- HNQ_POP_TAG (R158, R159). -/
def execHnqPopTag (a : Acc) (p : Fin 32) (s : State) : Host.Outcome State Fault Refusal :=
  .next (regAccess s a (R.hnqPopTag p.val) false fun s => hnqRead s p.val true)

/-- A mediation command (R147): BUSY for at most 1 µs, which this model passes at once. -/
def mediate (s : State) (rtype : Nat) (p : Option Nat) : State :=
  let arg := shadowOf s R.partMedArg
  if !bit (forceOf s R.partMode) 0 then { s with part := { s.part with medErr := 2 } }
  else if kindCount rtype = 0 then { s with part := { s.part with medErr := 3 } }
  else if kindCount rtype < fld arg 15 0 + fld arg 31 16 then { s with part := { s.part with medErr := 1 } }
  else
    let d := (List.range (fld arg 31 16)).foldl (fun o i => giveTo o rtype (fld arg 15 0 + i) p) s.part.draft
    { s with part := { s.part with medErr := 0, draft := d } }

/-- ASSIGN (R147). -/
def execAssign (a : Acc) (rtype : Fin 16) (p : Fin 32) (s : State) : Host.Outcome State Fault Refusal :=
  .next (regAccess s a R.partMedCmd true fun s => mediate s rtype.val (some p.val))

/-- RELEASE (R147). -/
def execRelease (a : Acc) (rtype : Fin 16) (s : State) : Host.Outcome State Fault Refusal :=
  .next (regAccess s a R.partMedCmd true fun s => mediate s rtype.val none)

end Sys2Proof.Machine
end

