-- ==== Sys2Proof/Machine/Mem.lean ====
section
/-! DEFINITION. Accesses to memory: errors (R36), the accesses of block DMA (R113, R154, R155), stores with the dirty lines and the
snapshot (R305, R394, R548), and the almanac's records in MRAM (R494, R496, R500). -/

namespace Sys2Proof.Machine

/-! ### Memory errors (R36) -/

/-- The memory an address lies in, as DIAG numbers them. -/
def memIndex (a : Nat) : Nat :=
  if inLocal a then 0 else if inShared a then 1 else if inStream a then 2 else if inDram a then 3 else 4

/-- The doublewords of a range that hold an error. -/
def eccIn (s : State) (a n : Nat) : List (Nat × Nat) := mtake s.ecc (a / 8) ((a + n + 7) / 8)

/-- The worst error in the doublewords of a range: 0 none, 1 corrected, 2 uncorrectable. -/
def eccOf (s : State) (a n : Nat) : Nat := (eccIn s a n).foldl (fun w e => max w e.2) 0

/-- A 32-bit saturating counter register. -/
def bump32 (s : State) (a : Nat) : State := setLive s a (word (satAdd 0xFFFFFFFF (liveOf s a).toNat 1))

/-- CORRECTED_ERROR. -/
def memCe (s : State) (a : Nat) : State := bump32 s (R.diagCe (memIndex a))

/-- UNCORRECTABLE_ERROR (R36, R574). -/
def memUe (s : State) (a : Nat) : State :=
  let s := setEvt (bump32 s (R.diagUe (memIndex a))) R.diagEvt 3
  notifyAll (almPost s 1 0x18 0x11 none [word (memIndex a)]) (forceOf s R.diagNotify) 0 0x18 0x11 (memIndex a)

/-- The errors of a read, doubleword by doubleword: the state after counting, and whether one was uncorrectable. -/
def eccRead (s : State) (a n : Nat) : State × Bool :=
  ((eccIn s a n).foldl (fun s e => match e.2 with
    | 0 => s
    | 1 => memCe s (8 * e.1)
    | _ => memUe s (8 * e.1)) s, decide (2 ≤ eccOf s a n))

/-! ### Accesses of block DMA -/

/-- The memory-error status of block `i` is raised (R36, R155). -/
def memError (s : State) (i : Nat) : State := { s with memErr := s.memErr ||| word (2 ^ i) }

/-- What block `i` reads of its own memory meets its errors (R36). -/
def blockRead (s : State) (i a n : Nat) : State :=
  let r := eccRead s a n
  if r.2 then memError r.1 i else r.1

/-- The DRAM is wiped, the kept dump apart. -/
def dramWipe (s : State) : State :=
  if !s.sys.released ∨ s.trust.dramDone then s
  else
    let s := wipe s 0x100000000 0x4FC000000
    let s := if s.trust.dramKeep then s else wipe s 0x4FC000000 0x500000000
    { s with trust := { s.trust with dramDone := true } }

/-- A master that reaches for DRAM before it is wiped is stalled until it is (R113). -/
def dramStall (s : State) (a n : Nat) : State := if (inDram a || inDram (a + n - 1)) && !s.trust.dramDone then dramWipe s else s

/-- An access of the DMA of block `i` with the tag `t` to `n` bytes (R36, R113, R154, R155): the KIND of its refusal, if it is
refused, which is a violation and raises the block's memory-error status; a read counts the errors it meets, and an
uncorrectable one raises that status too. The bytes are the caller's. -/
def dmaAccess (s : State) (i : Nat) (t : Tag) (wr : Bool) (a n : Nat) : State × Option Nat :=
  let s := dramStall s a n
  match rangeDenied s t (if wr then .write else .read) a n with
  | some k => (memError (violate s t wr a k) i, some k)
  | none =>
    if wr then (s, none)
    else
      let r := eccRead s a n
      (if r.2 then memError r.1 i else r.1, none)

/-- The bytes a DMA read of block `i` gives: zeros where it is refused (R155). -/
def dmaRead (s : State) (i : Nat) (t : Tag) (a n : Nat) : List Byte × State :=
  let r := dmaAccess s i t false a n
  (if r.2.isSome then List.replicate n 0#8 else rdBytes r.1 a n, r.1)

/-- Words in a list of bytes. -/
def bytesWord (bs : List Byte) (i : Nat) : Word := word (leNat ((bs.drop (4 * i)).take 4))

/-! ### Stores -/

/-- SNAPSHOT_COPY of a captured line (R548): line, its place in the capture, when it is sent. It is an access of the MIR's DMA. -/
def cowLine (s : State) (e : Nat × Nat × Nat) : State :=
  let b := fld (forceOf s R.mirSnap) 31 20 * 0x100000 + 64 * e.2.1
  let r := dmaAccess s 0x16 (dmaTag s 0x16 none) true b 64
  let s := if r.2.isSome then r.1 else markDirty (pokeBytes r.1 b (rdBytes r.1 (e.1 * 64) 64)) b 64
  setLive s (R.mirCnt 6) (word (satAdd 0xFFFFFFFF (liveOf s (R.mirCnt 6)).toNat 1))

/-- A store to captured lines not yet sent first copies them to the snapshot area (R548). -/
def cow (s : State) (a n : Nat) : State :=
  if s.mir.unsent.isEmpty then s
  else
    let hit := fun (e : Nat × Nat × Nat) => (linesOf a n).contains e.1 && decide (s.now < e.2.2)
    (s.mir.unsent.filter hit).foldl cowLine { s with mir := { s.mir with unsent := s.mir.unsent.filter fun e => !hit e } }

/-- Bytes stored from `a` up. -/
def wrBytes (s : State) (a : Nat) (bs : List Byte) : State := markDirty (pokeBytes (cow s a bs.length) a bs) a bs.length

/-- A little-endian word, a guarded word, stored. -/
def wr32 (s : State) (a : Nat) (w : Word) : State := wrBytes s a (leBytes 4 w.toNat)
def wr64 (s : State) (a : Nat) (w : DWord) : State := wrBytes s a (leBytes 8 w.toNat)

/-- A write of block `i`'s DMA: nothing is written where it is refused. -/
def dmaWrite (s : State) (i : Nat) (t : Tag) (a : Nat) (bs : List Byte) : State :=
  let r := dmaAccess s i t true a bs.length
  if r.2.isSome then r.1 else wrBytes r.1 a bs

/-- A copy by block `i`'s DMA, a line at a time. -/
def dmaCopy (i : Nat) (t : Tag) (src dst : Nat) : Nat → State → State
  | 0, s => s
  | n + 1, s =>
    let r := dmaRead s i t src 64
    dmaCopy i t (src + 64) (dst + 64) n (dmaWrite r.2 i t dst r.1)

/-! ### Records of the almanac -/

/-- A record written into slot `i`: GEN odd, words 1 to 15, GEN even (R494, R496). -/
def almWriteSlot (s : State) (i : Nat) (p : Post) : State :=
  let gen := slotWord s i 0
  let ws := recordWords s p
  let s := wr32 s (slotAddr i) (gen + 1)
  let s := wrBytes s (slotAddr i + 4) ((ws ++ [crcWords ws]).flatMap fun w => leBytes 4 w.toNat)
  let s := wr32 s (slotAddr i) (gen + 2)
  let sq := s.alm.seqNext
  let s := { s with alm := { s.alm with seqNext := sq + 1 } }
  let s := setEvt s R.almEvt 0
  let s := if p.sev = 1 then setEvt s R.almEvt 1 else s
  if p.sev = 0 then notifyAll (setEvt s R.almEvt 2) (forceOf s R.almNotify) 0 0x14 0x10 (sq.toNat % 65536) else s

/-- The record of a post: a slot is chosen and written, or the record is dropped and counted (R496). -/
def almRecord (s : State) (p : Post) : State :=
  match almSlot s p.sev with
  | some i => almWriteSlot s i p
  | none => almDrop true (almCount s p.sev) p.sev

/-- ALM_RECORD_WRITE (R496, R497, R501): the oldest post is taken and its record written; nothing while SAVE holds the ALM
(R498). -/
def almRecordWrite (s : State) : State :=
  let s := if qOk s.alm.posts then s else almPtrReset s
  if s.alm.paused || s.alm.scanning then s
  else
    match s.alm.posts.items with
    | [] => s
    | p :: _ => almRecord { s with alm := { s.alm with posts := qPop 64 s.alm.posts } } p

/-- The scan repairs a torn slot: VALID 0, GEN even (R500). -/
def repairSlot (s : State) (i : Nat) : State :=
  let g := slotWord s i 0
  let s := wr32 s (slotAddr i + 4) (slotWord s i 1 &&& ~~~(word (2 ^ 29)))
  wr32 s (slotAddr i) (if bit g 0 then g + 1 else g)

/-- ALM_SCAN (R500). -/
def almScan (s : State) : State :=
  let s := blockRead s 0x14 (slotAddr 0) 0x400000
  let torn := (almListed s).filter (slotTorn s)
  let s := torn.foldl repairSlot s
  let s := if torn.isEmpty then s else setEvt s R.almEvt 4
  let s := setLive s R.almTorn (word torn.length)
  let next := (almValid s).foldl (fun m i => max m ((slotWord s i 2).toNat + 1)) 0
  { s with alm := { s.alm with seqNext := word next, scanning := false } }

end Sys2Proof.Machine
end

