-- ==== Sys2Proof/Machine/Drc.lean ====
section
/-! DEFINITION. The disturbance recorder: segments and their headers (R479-R485), triggers (R482, R486, R489, R490), the
segment commands (R491) and the pointer reset (R501). Rows are in `Machine/DrcRow.lean`. -/

namespace Sys2Proof.Machine

/-- The release tick of tick `n` of second `sec` (R290, R363). -/
def relTick (s : State) (sec n : Nat) : Word := word (sec * fsOf s + n)

/-- The release tick of the tick in progress. -/
def curT (s : State) : Word := relTick s s.time.tickSec s.time.tick

def segOf (s : State) (i : Nat) : Seg := mget {} s.drc.segs i
def setSeg (s : State) (i : Nat) (g : Seg) : State := { s with drc := { s.drc with segs := mset {} s.drc.segs i g } }
def setCur (s : State) (c : Option Nat) : State := { s with drc := { s.drc with cur := c } }

/-- The size of a segment slot (R479). -/
def slotSize (n : Nat) : Nat := 2 ^ 32 / n / 4096 * 4096
/-- The address of segment `i` (R479). -/
def segAddr (s : State) (i : Nat) : Nat := 0x300000000 + i * slotSize s.drc.segN

/-- The code of a segment's state (R481). -/
def segCode : SegState → Nat
  | .free => 0 | .armed => 1 | .recording => 2 | .closed => 3 | .aborted => 4

/-- A refusal of the DRC's DMA (R478). -/
def drcRefused (s : State) : State :=
  let s := setEvt s R.drcEvt 3
  setLive s (R.drcCnt 4) (word (satAdd 0xFFFFFFFF (liveOf s (R.drcCnt 4)).toNat 1))

/-- The DRC writes bytes; a refused write is lost (R478). -/
def drcWrite (s : State) (a : Nat) (bs : List Byte) : State :=
  let r := dmaAccess s 0x13 (dmaTag s 0x13 none) true a bs.length
  if r.2.isSome then drcRefused r.1 else wrBytes r.1 a bs

/-- The DRC reads bytes; a refused read gives zeros (R478). -/
def drcBytes (s : State) (a n : Nat) : List Byte × State :=
  let r := dmaAccess s 0x13 (dmaTag s 0x13 none) false a n
  if r.2.isSome then (List.replicate n 0#8, drcRefused r.1) else (rdBytes r.1 a n, r.1)

/-- A counter of DRC_CNT (32 bits, saturating). -/
def drcCount (s : State) (i : Nat) : State :=
  setLive s (R.drcCnt i) (word (satAdd 0xFFFFFFFF (liveOf s (R.drcCnt i)).toNat 1))

/-- Words as bytes. -/
def wordsBytes (l : List Word) : List Byte := l.flatMap fun w => leBytes 4 w.toNat

/-- The header of segment `i` (R485), word 0x08 last. -/
def drcHeader (s : State) (i : Nat) : State :=
  let g := segOf s i
  let a := segAddr s i
  let fur := (List.range 16).flatMap fun j =>
    match g.further[j]? with | some (o, w) => [BitVec.ofInt 32 o, w] | none => [0#32, 0#32]
  let s := drcWrite s a (wordsBytes [0x4C445247#32, word g.recNum])
  let s := drcWrite s (a + 0x0C) (wordsBytes ([word s.drc.rowBytes, shadowOf s R.drcPre, word g.preRec,
    word g.firstRow, word g.postRec, word (nsOf g.trigT), word (secOf g.trigT), word (secOf g.trigT / 2 ^ 32 % 65536),
    word g.trigRow, g.trigSrc, word g.trigCount, word g.enNum, g.listCrc] ++ fur ++
    [g.statW, shadowOf s R.drcNch, shadowOf s R.drcFlagpgLo, shadowOf s R.drcFlagpgHi]
    ++ List.replicate 12 0#32))
  drcWrite s (a + 8) (wordsBytes [word (segCode g.state)])

/-- The next segment to arm (R483). -/
def nextSeg (s : State) : Option Nat :=
  match (List.range s.drc.segN).find? fun i => (segOf s i).state = .free with
  | some i => some i
  | none =>
    if bit (shadowOf s R.drcCfg) 31 then
      ((List.range s.drc.segN).filter fun i =>
        ((segOf s i).state = .closed || (segOf s i).state = .aborted) && !(segOf s i).claimed).foldl
        (fun r i => match r with
          | none => some i
          | some j => if (segOf s i).recNum < (segOf s j).recNum then some i else some j) none
    else none

/-- The next segment is armed (R483): a new REC_NUM, the header with STATE = ARMED; with none, FULL. -/
def drcArm (s : State) : State :=
  match nextSeg s with
  | some i =>
    let n := s.drc.recNum + 1
    let s := { s with drc := { s.drc with recNum := n, cur := some i } }
    drcHeader (setSeg s i { state := .armed, recNum := n, enNum := s.drc.enNum, listCrc := s.drc.listCrc }) i
  | none =>
    let s := setCur s none
    if evt s R.drcEvt 2 then s
    else
      let s := almPost (setEvt s R.drcEvt 2) 2 0x13 0x11 none []
      notifyAll s (forceOf s R.drcNotify) 1 0x13 0x11 0

/-- Hold-off begins at a close (R490). -/
def holdOff (s : State) : State :=
  let h := forceOf s R.drcHold
  match fld h 31 30 with
  | 1 => { s with drc := { s.drc with holdUntil := some (s.now + fld h 23 0 * 1000) } }
  | 2 => { s with drc := { s.drc with holdCount := fld h 23 0 } }
  | _ => s

/-- SEGMENT_CLOSE (R483). -/
def drcClose (s : State) (i : Nat) : State :=
  let s := drcHeader (setSeg s i { segOf s i with state := .closed }) i
  let s := almPost (setEvt s R.drcEvt 1) 3 0x13 0x10 none [word (segOf s i).recNum]
  let s := notifyAll s (forceOf s R.drcNotify) 2 0x13 0x10 i
  holdOff (drcArm s)

/-- The address of pre-trigger place `i` and of post-trigger row `j` (R485). -/
def preAddr (s : State) (g i : Nat) : Nat := segAddr s g + 0x100 + i * s.drc.rowBytes
def postAddr (s : State) (g j : Nat) : Nat :=
  segAddr s g + 0x100 + (shadowOf s R.drcPre).toNat * s.drc.rowBytes + j * s.drc.rowBytes

/-- Rows of the pre-trigger area, newest first, that belong to the trigger row or later (R482). -/
def lateRows (s : State) (g : Nat) (sg : Seg) (pre trig : Nat) : Nat :=
  ((List.range sg.preRec).takeWhile fun j =>
    decide (((rd32 s (preAddr s g ((sg.firstRow + sg.preRec - 1 - j) % pre))).toNat + 2 ^ 32 - trig) % 2 ^ 32 < 2 ^ 31)).length

/-- Those rows move to the post-trigger area (R482). -/
def moveRows (s : State) (g : Nat) : State :=
  let pre := (shadowOf s R.drcPre).toNat
  if pre = 0 then s
  else
    let sg := segOf s g
    let n := min (lateRows s g sg pre sg.trigRow) (shadowOf s R.drcPost).toNat
    let s := (List.range n).foldl (fun t j =>
      let r := drcBytes t (preAddr t g ((sg.firstRow + sg.preRec - n + j) % pre)) t.drc.rowBytes
      drcWrite r.2 (postAddr r.2 g j) r.1) s
    setSeg s g { sg with preRec := sg.preRec - n, postRec := sg.postRec + n }

/-- TRIGGER_ACCEPT (R489): a trigger of TYPE `ty`, index `ix`, LTC instant `t`, trigger row `row`. -/
def drcTrigger (s : State) (ty ix t : Nat) (row : Word) : State :=
  let src := word (ty * 2 ^ 28 + ix)
  if !s.drc.on then s
  else if (match s.drc.holdUntil with | some u => decide (s.now < u) | none => false) then drcCount s 2
  else if s.drc.holdCount ≠ 0 then drcCount { s with drc := { s.drc with holdCount := s.drc.holdCount - 1 } } 2
  else
    match s.drc.cur with
    | none => drcCount s 3
    | some i =>
      let g := segOf s i
      match g.state with
      | .armed =>
        let st := word (s.time.sync * 2 ^ 30 + s.time.lodestar % 8 + (if fsOf s = 4000 then 256 else 0))
        let s := setSeg s i { g with state := .recording, trigT := t, trigRow := row.toNat, trigSrc := src, statW := st }
        let s := moveRows (drcCount s 0) i
        let s := drcHeader s i
        if (shadowOf s R.drcPost).toNat ≤ (segOf s i).postRec then drcClose s i else s
      | .recording =>
        let g' := { g with
          trigCount := satAdd 0xFFFFFFFF g.trigCount 1
          further := if g.further.length < 16 then g.further ++ [((t : Int) - g.trigT, src)] else g.further }
        drcCount (setSeg s i g') 1
      | _ => drcCount s 3

/-- FLAG_TRIGGER (R486): the flag trigger units of flag `f`, whose state became `v`, in rising order of unit. -/
def flagTriggers (s : State) (f : Nat) (v : Bool) : State :=
  (List.range 64).foldl (fun s u =>
    let w := forceOf s (R.drcFtu u)
    let hit := match fld w 29 28 with | 0 => v | 1 => !v | _ => true
    if bit w 31 && fld w 11 0 == f && hit then drcTrigger s 2 u s.ltc (curT s) else s) s

/-- DRC_PTR_RESET (R501). -/
def drcPtrReset (s : State) : State :=
  let s := { s with drc := { s.drc with rowPtr := {} } }
  let s := match s.drc.cur with
    | some i =>
      if (segOf s i).state = .recording then drcHeader (setSeg s i { segOf s i with state := .aborted }) i
      else setSeg s i { segOf s i with state := .free }
    | none => s
  let s := ptrSum (setEvt s R.drcEvt 6) 0x13
  let s := almPost s 1 0x13 0x01 none []
  drcArm (notifyAll s (forceOf s R.drcNotify) 0 0x13 0x01 0)

/-- MANUAL_TRIGGER (R486): a write of DRC_TRIG_MAN.TRIG = 1. -/
def execManualTrigger (a : Acc) (s : State) : Host.Outcome State Fault Refusal :=
  .next (regAccess s a R.drcTrigMan true fun s => drcTrigger s 5 0 s.ltc (curT s))

/-- HOLD_OFF_EXPIRY (R490): the hold-off by time ends. -/
def execHoldOffExpiry (s : State) : Host.Outcome State Fault Refusal :=
  .next (match s.drc.holdUntil with
    | some u => let s := reach s u; { s with drc := { s.drc with holdUntil := none } }
    | none => s)

/-- SEG_CLAIM (R491). -/
def execSegClaim (a : Acc) (i : Fin 4096) (s : State) : Host.Outcome State Fault Refusal :=
  .next (regAccess s a R.drcSegCmd true fun s =>
    let g := segOf s i.val
    if g.state = .closed ∨ g.state = .aborted then setSeg s i.val { g with claimed := true } else setEvt s R.drcEvt 5)

/-- SEG_RELEASE (R491): the segment is FREE; with no segment current, it is armed (R483). -/
def execSegRelease (a : Acc) (i : Fin 4096) (s : State) : Host.Outcome State Fault Refusal :=
  .next (regAccess s a R.drcSegCmd true fun s =>
    let g := segOf s i.val
    if g.claimed then
      let s := setSeg s i.val { g with claimed := false, state := .free }
      let s := drcWrite s (segAddr s i.val + 8) (wordsBytes [0#32])
      if s.drc.on && s.drc.cur.isNone then drcArm s else s
    else setEvt s R.drcEvt 5)

/-- SEG_UNCLAIM (R491). -/
def execSegUnclaim (a : Acc) (i : Fin 4096) (s : State) : Host.Outcome State Fault Refusal :=
  .next (regAccess s a R.drcSegCmd true fun s => setSeg s i.val { segOf s i.val with claimed := false })

/-- The LIST_CRC of an enable (R485). -/
def listCrcOf (s : State) : Word :=
  crcWords ([shadowOf s R.drcNch] ++ (List.range (shadowOf s R.drcNch).toNat).map (fun c => shadowOf s (R.drcCh c))
    ++ [shadowOf s R.drcFlagpgLo, shadowOf s R.drcFlagpgHi])

end Sys2Proof.Machine
end

