-- ==== Sys2Proof/Machine/Act.lean ====
section
/-! DEFINITION. Activations of tasks (R377-R380, R410, R411) and the notifications they cause (R409). -/

namespace Sys2Proof.Machine

def taskOf (s : State) (t : Nat) : TaskSt := mget {} s.tsk.tasks t
def setTask (s : State) (t : Nat) (x : TaskSt) : State :=
  { s with tsk := { s.tsk with tasks := mset {} s.tsk.tasks t x } }
def partOf (s : State) (p : Nat) : TskPart := mget {} s.tsk.parts p
def setPart (s : State) (p : Nat) (x : TskPart) : State :=
  { s with tsk := { s.tsk with parts := mset {} s.tsk.parts p x } }

/-- A post to the owner of a resource, if it has one. -/
def postOwner (s : State) (o : Option Nat) (cls src code info : Nat) : State :=
  match o with
  | some p => hnqPost s p cls src code info
  | none => s

/-- The activation queue of a core: its pointers. -/
def actQ (s : State) (k : Nat) : Q Unit := mget {} s.tsk.qptr k
def setActQ (s : State) (k : Nat) (q : Q Unit) : State := { s with tsk := { s.tsk with qptr := mset {} s.tsk.qptr k q } }
def actIn (s : State) (k : Nat) : State :=
  let q := actQ s k
  setActQ s k { q with wr := (q.wr + 1) % 512, wrC := (q.wr + 1) % 512 }
def actOut (s : State) (k : Nat) : State :=
  let q := actQ s k
  setActQ s k { q with rd := (q.rd + 1) % 512, rdC := (q.rd + 1) % 512 }

/-- The tasks bound to core `k`. -/
def tasksOn (s : State) (k : Nat) : List Nat :=
  (s.tsk.tasks.filter fun e => (e.2.def_.map (·.core)) == some k).map (·.1)

/-- DROPPED of a task (R380), its first notification (R409). -/
def taskDropped (s : State) (t : Nat) : State :=
  let s := bump s (R.tskTCnt t) 23 16 1
  let s := if evt s R.tskEvt 1 then s else postOwner s (ownerOf s 3 t) 2 0x0D 0x31 t
  setEvt s R.tskEvt 1

/-- MISSED of a task (R382), its first notification (R409). -/
def taskMissed (s : State) (t : Nat) : State :=
  let s := bump s (R.tskTCnt t) 31 24 1
  let s := if evt s R.tskEvt 2 then s else postOwner s (ownerOf s 3 t) 1 0x0D 0x30 t
  setEvt s R.tskEvt 2

/-- The pending activation of a task is taken away. -/
def unpend (s : State) (t : Nat) : State := setTask s t { taskOf s t with pend := none }

/-- TSK_PTR_RESET of core `k`'s activation queue (R411). -/
def actPtrReset (s : State) (k : Nat) : State :=
  let ts := tasksOn s k
  let s := ts.foldl (fun s t => if (taskOf s t).pend.isSome then taskDropped (unpend s t) t else s) s
  let s := ptrSum (setEvt (setActQ s k {}) R.tskEvt 3) 0x0D
  let s := almPost s 1 0x0D 0x01 none [word k]
  (List.range 32).foldl (fun s p =>
    if ts.any fun t => ownerOf s 3 t = some p then hnqPost s p 0 0x0D 0x01 k else s) s

/-- The pointers of a core's queue are compared (R411). -/
def actCheck (s : State) (k : Nat) : State := if qOk (actQ s k) then s else actPtrReset s k

/-- The owner does not hold the task's core (R410): posted once until the owner holds it again. -/
def noCore (s : State) (t : Nat) : State :=
  let s := setEvt s R.tskEvt 0
  if mget false s.tsk.badCore t then s
  else
    let s := { s with tsk := { s.tsk with badCore := mset false s.tsk.badCore t true } }
    postOwner (almPost s 1 0x0D 0x32 (ownerOf s 3 t) [word t]) (ownerOf s 3 t) 0 0x0D 0x32 t

/-- The owner holds the task's core again (R410). -/
def coreBack (s : State) (t : Nat) : State :=
  { s with tsk := { s.tsk with badCore := mset false s.tsk.badCore t false } }

/-- The task's partition runs and the task is enabled (R377, R383); partitions run in two lifecycle states (R99), and a module
in LISTEN or STANDBY takes no activations (R533, R541). -/
def taskLive (s : State) (t : Nat) : Bool :=
  match ownerOf s 3 t with
  | none => false
  | some p => (partOf s p).pstate = .running && partOn s p && bit (forceOf s (R.tskTCtrl t)) 0 && s.mir.role != .listen &&
      s.mir.role != .standby && (s.trust.lc == .provisioned || s.trust.lc == .operational)

/-- A new activation of task `t` (R380): pending, in place of the one pending, or discarded while STOPPED. It is held during a
switch attempt of the owner (R396). -/
def activate (s : State) (t : Nat) (g n rt : Word) : State :=
  let ts := taskOf s t
  match ts.def_ with
  | none => s
  | some d =>
    if !taskLive s t || ts.stopped then s
    else if ownerOf s 0 d.core ≠ ownerOf s 3 t then noCore s t
    else
      let s := actCheck (coreBack s t) d.core
      let ts := taskOf s t
      let held := match ownerOf s 3 t with | some p => (partOf s p).attemptAt.isSome | none => false
      let a : Activation := { relG := g, relN := n, relT := rt, at_ := s.now, order := s.tsk.order, held := held }
      let s := { s with tsk := { s.tsk with order := s.tsk.order + 1 } }
      let s := if ts.pend.isSome then taskDropped s t else actIn s d.core
      setTask s t { taskOf s t with pend := some a }

/-- The all-ones words a run sees that no release started (R382). -/
def noRel : Word := 0xFFFFFFFF#32

/-- The event tasks of a source (R379): `edge` is the level the source reached, none where EDGE is reserved; `p` restricts
software events to their partition. -/
def fireEvent (s : State) (src num : Nat) (edge : Option Bool) (p : Option Nat) : State :=
  s.tsk.tasks.foldl (fun s (t, ts) =>
    match ts.def_ with
    | none => s
    | some d =>
      let hit := d.kind = 2 && fld d.act 31 28 == src && fld d.act 11 0 == num &&
        (match edge with
          | none => true
          | some v => fld d.act 27 26 == (if v then 0 else 1) || decide (2 ≤ fld d.act 27 26)) &&
        (match p with | none => true | some q => ownerOf s 3 t == some q)
      if hit then activate s t noRel noRel noRel else s) s

end Sys2Proof.Machine
end

