-- ==== Sys2Proof/Machine/Wire.lean ====
section
/-! DEFINITION. Frames as bytes: addresses and lengths on the wire (R201), BER elements (R235), sampled values (R235, R254), GOOSE
(R426-R430, R438) and PTP messages (R165); the receive items that wait for the SIU, the GSE and TIME (R210, R211). The tag
numbers and field places of the standards named there, and the layout of the authentication extension, are PRESUMED: log 194. -/

namespace Sys2Proof.Machine

/-! ### Bytes -/

/-- Bytes `a .. a + n - 1` of a list. -/
def bytesAt (l : List Byte) (a n : Nat) : List Byte := (l.drop a).take n
/-- A big-endian number. -/
def beNat (l : List Byte) : Nat := leNat l.reverse
/-- The bytes of a number, the highest first. -/
def beBytes (n v : Nat) : List Byte := (leBytes n v).reverse
/-- A big-endian number in a list. -/
def beAt (l : List Byte) (a n : Nat) : Nat := beNat (bytesAt l a n)
/-- A signed big-endian number. -/
def beInt (l : List Byte) : Int := if 2 * beNat l < 256 ^ l.length then beNat l else (beNat l : Int) - 256 ^ l.length
/-- The low `n` bytes of a signed number, the highest first. -/
def beBytesI (n : Nat) (v : Int) : List Byte := beBytes n (v % 256 ^ n).toNat
/-- Bytes that are all there. -/
def fullLen (l : List Byte) (n : Nat) : Bool := l.length == n

/-! ### Frames -/

/-- The frame's bytes from the destination address on, without the tag where it is stripped. -/
def frameBytes (f : EthFrame) (strip : Bool) : List Byte :=
  beBytes 6 f.da.toNat ++ beBytes 6 f.sa.toNat ++
  (match f.vlan, strip with | some t, false => beBytes 2 0x8100 ++ beBytes 2 t.toNat | _, _ => []) ++
  beBytes 2 f.et.toNat ++ f.payload

/-- The length on the wire (R201). -/
def wireLen (f : EthFrame) : Nat :=
  18 + (if f.vlan.isSome then 4 else 0) + f.payload.length + (if f.red.isSome then 6 else 0)

/-- A good frame of these parts. -/
def frameOf (da sa : Nat) (vlan : Option Nat) (et : Nat) (payload : List Byte) : EthFrame :=
  { da := BitVec.ofNat 48 da, sa := BitVec.ofNat 48 sa, vlan := vlan.map (BitVec.ofNat 16), et := BitVec.ofNat 16 et,
    payload := payload, red := none, fcsOk := true, codeOk := true, linkHeld := true }

/-! ### Receive items (R210, R211) -/

/-- The fraction of a 4 ns cycle in a receive stamp (R180), by which a command names the item it takes. -/
def stampFrac (t : Int) : Fin 1024 := Fin.ofNat 1024 (t % 1024).toNat

/-- The oldest good item of consumer `d` (1 SIU, 2 GSE, 3 TIME) from port `m`; the items that ended with OK = 0 are discarded
(R211). -/
def itemNext (s : State) (m d : Nat) : Option RxItem × State :=
  let mine := fun (x : RxItem) => x.mac == m && x.dest == d
  let l := s.net.items.filter fun x => !(mine x && x.err != 0)
  (l.find? mine, { s with net := { s.net with items := l } })

/-- The consumer takes an item. -/
def itemTake (s : State) (x : RxItem) : State := { s with net := { s.net with items := s.net.items.erase x } }

/-! ### BER (R235) -/

/-- A definite length of at most two length bytes, and the bytes after it. -/
def berLen : List Byte → Option (Nat × List Byte)
  | [] => none
  | b :: t =>
    if b.toNat < 128 then some (b.toNat, t)
    else match b.toNat, t with
      | 0x81, x :: u => some (x.toNat, u)
      | 0x82, x :: y :: u => some (x.toNat * 256 + y.toNat, u)
      | _, _ => none

/-- The first element, its tag and contents, and the bytes after it. -/
def berOne : List Byte → Option ((Nat × List Byte) × List Byte)
  | [] => none
  | tag :: t => match berLen t with
    | some (n, u) => if n ≤ u.length then some ((tag.toNat, u.take n), u.drop n) else none
    | none => none

/-- All elements of some bytes; `fuel` is at least their number. -/
def berAll : Nat → List Byte → Option (List (Nat × List Byte))
  | _, [] => some []
  | 0, _ => none
  | n + 1, bs => match berOne bs with
    | some (x, u) => (berAll n u).map (x :: ·)
    | none => none

/-- The elements of some bytes. -/
def berOf (bs : List Byte) : Option (List (Nat × List Byte)) := berAll bs.length bs

/-- The contents of the element with a tag. -/
def elem (l : List (Nat × List Byte)) (t : Nat) : Option (List Byte) := (l.find? fun e => e.1 == t).map (·.2)

/-- The elements are some of the known ones, in their order, each once. -/
def tagsOk (l : List (Nat × List Byte)) (known : List Nat) : Bool :=
  l.map (·.1) == known.filter fun t => l.any fun e => e.1 == t

/-- An element with the shortest length. -/
def berPut (tag : Nat) (bs : List Byte) : List Byte :=
  let n := bs.length
  beBytes 1 tag ++ (if n < 128 then beBytes 1 n else if n < 256 then beBytes 1 0x81 ++ beBytes 1 n else beBytes 1 0x82 ++ beBytes 2 n) ++ bs

/-- An element in the long form, with one length byte or with two (R430). -/
def berLong (tag : Nat) (two : Bool) (bs : List Byte) : List Byte :=
  beBytes 1 tag ++ (if two then beBytes 1 0x82 ++ beBytes 2 bs.length else beBytes 1 0x81 ++ beBytes 1 bs.length) ++ bs

/-! ### The header and the authentication extension of a PDU -/

/-- A PDU after APPID, Length and the two reserved words: APPID, Simulate, the bytes a MAC value covers, the PDU's element, the
extension (R235, R248, R426). -/
structure Pdu where
  appId : Nat
  sim : Bool
  body : List Byte
  apdu : Nat × List Byte
  auth : Option AuthExt
  deriving DecidableEq, Repr

/-- The extension: algorithm 1 with a MAC value of 16 bytes is AES-GMAC. -/
def authOf (body bs : List Byte) : Option AuthExt :=
  match berOf bs with
  | some l => match elem l 0x80, elem l 0x81, elem l 0x82 with
    | some a, some k, some m =>
      if tagsOk l [0x80, 0x81, 0x82] && fullLen k 4 then some { algOk := a == [1#8] && fullLen m 16, keyId := word (beNat k), body := body, mac := m }
      else none
    | _, _, _ => none
  | none => none

/-- The PDU of a frame with the given EtherType; none where it is malformed. -/
def pduOf (et : Nat) (f : EthFrame) : Option Pdu :=
  let p := f.payload
  let n := beAt p 2 2
  if f.et.toNat ≠ et ∨ p.length < n ∨ n < 8 then none
  else
    match berOne (bytesAt p 8 (n - 8)) with
    | none => none
    | some (x, rest) =>
      let body := bytesAt p 0 (n - rest.length)
      let r : Pdu := { appId := beAt p 0 2, sim := decide (0x8000 ≤ beAt p 4 2), body := body, apdu := x, auth := none }
      match rest with
      | [] => some r
      | _ => match berOne rest with
        | some ((0xAF, e), []) => (authOf body e).map fun a => { r with auth := some a }
        | _ => none

/-- The payload of a PDU: `sign` gives the MAC value with its key identifier over what it covers. -/
def pduBytes (appId : Nat) (sim : Bool) (apdu : List Byte) (sign : Option (List Byte → Word × List Byte)) : List Byte :=
  let ext := if sign.isSome then 29 else 0
  let body := beBytes 2 appId ++ beBytes 2 (8 + apdu.length + ext) ++ beBytes 2 (b2n sim 15) ++ beBytes 2 0 ++ apdu
  match sign with
  | none => body
  | some g =>
    let r := g body
    body ++ berPut 0xAF (berPut 0x80 [1#8] ++ berPut 0x81 (beBytes 4 r.1.toNat) ++ berPut 0x82 r.2)

/-- The key of a slot: target 1 GSE, 2 SVP, 3 SIU (R128, R249). -/
def slotKey (s : State) (target slot : Nat) : List Byte := mget [] s.trust.slots (target * 256 + slot)

/-- The MAC value under a slot's key with its key identifier (R248). -/
def signBy (s : State) (target slot : Nat) (keyId : Word) (body : List Byte) : Word × List Byte :=
  (keyId, (List.range 16).map (Config.crypt 1 (slotKey s target slot ++ body)))

/-! ### Sampled values (R235, R254) -/

/-- A value that, if it is there, has `n` bytes. -/
def optLen (o : Option (List Byte)) (n : Nat) : Bool := match o with | some b => fullLen b n | none => true

/-- An ASDU. -/
def svAsduOf (bs : List Byte) : Option SvAsdu :=
  match berOf bs with
  | none => none
  | some l =>
    match elem l 0x80, elem l 0x82, elem l 0x83, elem l 0x85, elem l 0x87 with
    | some id, some c, some r, some y, some d =>
      if tagsOk l ((List.range 10).map (0x80 + ·)) && fullLen c 2 && fullLen r 4 && fullLen y 1 && optLen (elem l 0x86) 2 then
        some { svId := id, smpCnt := BitVec.ofNat 16 (beNat c), confRev := word (beNat r), synch := BitVec.ofNat 8 (beNat y), rate := (elem l 0x86).map beNat, data := (List.range (d.length / 8)).map fun i => (word (beAt d (8 * i) 4), word (beAt d (8 * i + 4) 4)), extra := d.length % 8 }
      else none
    | _, _, _, _, _ => none

/-- Every element of a list gives a value. -/
def allSome {α β : Type} (f : α → Option β) : List α → Option (List β)
  | [] => some []
  | a :: t => match f a, allSome f t with
    | some b, some u => some (b :: u)
    | _, _ => none

/-- A sampled-value frame; none where it is malformed (R235). -/
def svParse (f : EthFrame) : Option SvFrame :=
  match pduOf 0x88BA f with
  | none => none
  | some p =>
    if p.apdu.1 ≠ 0x60 then none
    else
      match berOf p.apdu.2 with
      | none => none
      | some l =>
        match elem l 0x80, (elem l 0xA2).bind berOf with
        | some n, some as_ =>
          if tagsOk l [0x80, 0x81, 0xA2] && decide (n.length ≤ 2) && beNat n == as_.length && decide (1 ≤ as_.length) && decide (as_.length ≤ 8) then
            (allSome (fun (e : Nat × List Byte) => if e.1 = 0x30 then svAsduOf e.2 else none) as_).map fun asdus => { appId := BitVec.ofNat 16 p.appId, sim := p.sim, asdus := asdus, auth := p.auth }
          else none
        | _, _ => none

/-- An ASDU as the SVP sends it. -/
def svAsduBytes (x : SvAsdu) : List Byte :=
  berPut 0x30 (berPut 0x80 x.svId ++ berPut 0x82 (beBytes 2 x.smpCnt.toNat) ++ berPut 0x83 (beBytes 4 x.confRev.toNat) ++
    berPut 0x85 [x.synch] ++ berPut 0x87 (x.data.flatMap fun d => beBytes 4 d.1.toNat ++ beBytes 4 d.2.toNat))

/-- The savPdu of some ASDUs. -/
def svPduBytes (l : List SvAsdu) : List Byte :=
  berPut 0x60 (berPut 0x80 (beBytes 1 l.length) ++ berPut 0xA2 (l.flatMap svAsduBytes))

/-! ### GOOSE (R426, R430, R438) -/

/-- Bits 0 and 1 of a Quality change places between the bit string of IEC 61850-8-1 and IEC_Q. -/
def qualSwap (n : Nat) : Nat := n / 4 * 4 + n % 2 * 2 + n / 2 % 2

/-- The bits of a bit string of `n` bits as a number, bit i of the string in bit i. -/
def bitStr (n : Nat) (bs : List Byte) : Nat := (List.range n).foldl (fun a i => a + b2n (((bs[i / 8]?).getD 0#8).getLsbD (7 - i % 8)) i) 0

/-- A UtcTime: seconds and nanoseconds. -/
def utcOf (bs : List Byte) : Nat × Nat := (beAt bs 0 4, beAt bs 4 3 * 1000000000 / 2 ^ 24)

/-- A member: its type by the code of R438; none for a type that R426 does not list. -/
def gooseMember (e : Nat × List Byte) : Option GooseMember :=
  let b := e.2
  match e.1 with
  | 0x83 => if fullLen b 1 then some { type_ := 1, v := word (b2n (b != [0#8]) 0), v2 := 0#32 } else none
  | 0x84 =>
    if fullLen b 2 && b.head? == some 6#8 then some { type_ := 5, v := word (beAt b 1 1 / 64), v2 := 0#32 }
    else if fullLen b 3 && b.head? == some 3#8 then some { type_ := 6, v := word (qualSwap (bitStr 13 (b.drop 1))), v2 := 0#32 }
    else none
  | 0x85 => if 1 ≤ b.length ∧ b.length ≤ 4 then some { type_ := 3, v := BitVec.ofInt 32 (beInt b), v2 := 0#32 } else none
  | 0x87 => if fullLen b 5 && b.head? == some 8#8 then some { type_ := 4, v := word (beAt b 1 4), v2 := 0#32 } else none
  | 0x91 => if fullLen b 8 then some { type_ := 7, v := word (utcOf b).2, v2 := word (utcOf b).1 } else none
  | _ => none

/-- A BOOLEAN that, if it is there, is TRUE. -/
def optTrue (o : Option (List Byte)) : Bool := match o with | some b => b.any (· != 0#8) | none => false

/-- A GOOSE message from a pair, `age` ns after its receive stamp; none where it is malformed (R426, R433). -/
def gooseParse (f : EthFrame) (process : Bool) (age : Nat) : Option GooseMsg :=
  match pduOf 0x88B8 f with
  | none => none
  | some p =>
    if p.apdu.1 ≠ 0x61 then none
    else
      match berOf p.apdu.2 with
      | none => none
      | some l =>
        match elem l 0x80, elem l 0x81, elem l 0x82, elem l 0x84, elem l 0x85, elem l 0x86 with
        | some ref, some tal, some _, some t, some st, some sq =>
          (match elem l 0x88, elem l 0x8A, (elem l 0xAB).bind berOf with
          | some rev, some n, some ms =>
            if tagsOk l ((List.range 11).map (0x80 + ·) ++ [0xAB]) && fullLen t 8 && !optTrue (elem l 0x89) && beNat n == ms.length &&
                decide (1 ≤ ms.length) && decide (ms.length ≤ 64) then
              (allSome gooseMember ms).map fun mem =>
                { process := process, appId := BitVec.ofNat 16 p.appId, gocbRef := ref, tal := word (beNat tal), tSec := (utcOf t).1, tNs := (utcOf t).2, stNum := word (beNat st), sqNum := word (beNat sq), sim := p.sim || optTrue (elem l 0x87), confRev := word (beNat rev), members := mem, auth := p.auth, age := age }
            else none
          | _, _, _ => none)
        | _, _, _, _, _, _ => none

/-- A time as a UtcTime with its quality. -/
def utcBytes (sec ns q : Nat) : List Byte := beBytes 4 sec ++ beBytes 3 (ns * 2 ^ 24 / 1000000000) ++ beBytes 1 q

/-- A member as the GSE sends it, at the width of its type (R427, R430); `test` sets the test bit of a Quality. -/
def memberBytes (test : Bool) (utc : Nat) (q : Nat) (kind : Nat) (v : Word × Word) : List Byte :=
  match kind with
  | 3 => berLong 0x85 false (beBytes 4 v.1.toNat)
  | 4 => berLong 0x87 false (8#8 :: beBytes 4 v.1.toNat)
  | 5 | 8 => berLong 0x84 false (6#8 :: beBytes 1 (v.1.toNat % 4 * 64))
  | 6 =>
    let n := qualSwap (v.1.toNat % 2 ^ 13)
    let n := if test ∧ n / 2 ^ 11 % 2 = 0 then n + 2 ^ 11 else n
    let bits := (List.range 13).foldl (fun a i => a * 2 + n / 2 ^ i % 2) 0
    berLong 0x84 false (3#8 :: beBytes 2 (bits * 8))
  | 7 => berLong 0x91 false (utcBytes (v.2.toNat - utc) v.1.toNat q)
  | _ => berLong 0x83 false (beBytes 1 (if v.1 = 0#32 then 0 else 255))

/-- What a publication's frame tells besides its members (R426, R428). -/
structure GooseHead where
  ref : List Byte
  datSet : List Byte
  goId : List Byte
  confRev : Word
  deriving DecidableEq, Repr

/-- An unsigned number in the fixed form: five bytes hold every value of 32 bits. -/
def berNum (tag n : Nat) : List Byte := berLong tag false (beBytes 5 n)

/-- The goosePdu of a frame (R428-R430); `ms` are the members' encodings. -/
def goosePduBytes (h : GooseHead) (tal : Nat) (t : List Byte) (stNum sqNum : Word) (sim : Bool) (ms : List (List Byte)) : List Byte :=
  berLong 0x61 true (berLong 0x80 false h.ref ++ berNum 0x81 tal ++ berLong 0x82 false h.datSet ++ berLong 0x83 false h.goId ++
    berLong 0x84 false t ++ berNum 0x85 stNum.toNat ++ berNum 0x86 sqNum.toNat ++ berLong 0x87 false (beBytes 1 (if sim then 255 else 0)) ++
    berNum 0x88 h.confRev.toNat ++ berLong 0x89 false [0#8] ++ berLong 0x8A false (beBytes 1 ms.length) ++
    berLong 0xAB true (ms.flatMap id))

/-! ### PTP (R165) -/

/-- A PTP message as received; `other` lies outside the parts that R165 lists. -/
inductive PtpMsg where
  | sync (x : PtpSync)
  | followUp (x : PtpFollowUp)
  | announce (x : PtpAnnounce)
  | pdelayReq (x : PtpPdelayReq)
  | pdelayResp (x : PtpPdelayResp)
  | other
  deriving DecidableEq, Repr

/-- A port identity. -/
def ptpSrcOf (l : List Byte) : PtpSrc := { clock := BitVec.ofNat 64 (beAt l 0 8), port := BitVec.ofNat 16 (beAt l 8 2) }
/-- A Timestamp in ns. -/
def ptpTimeOf (l : List Byte) : Nat := beAt l 0 6 * 1000000000 + beAt l 6 4

/-- The TLVs of a message, type and contents; `fuel` is at least their number. -/
def ptpTlvs : Nat → List Byte → List (Nat × List Byte)
  | 0, _ => []
  | n + 1, l => if l.length < 4 then [] else (beAt l 0 2, bytesAt l 4 (beAt l 2 2)) :: ptpTlvs n (l.drop (4 + beAt l 2 2))

/-- The message of a frame: IEEE 802.3 transport, untagged or priority-tagged, version 2 (R165). -/
def ptpOf (f : EthFrame) : PtpMsg :=
  let p := f.payload
  let n := beAt p 2 2
  let kind := beAt p 0 1 % 16
  let src := ptpSrcOf (bytesAt p 20 10)
  let seq := BitVec.ofNat 16 (beAt p 30 2)
  let dom := BitVec.ofNat 8 (beAt p 4 1)
  let corr := beInt (bytesAt p 8 8)
  let log := beInt (bytesAt p 33 1)
  let two := beAt p 6 1 / 2 % 2 == 1
  let tagOk := match f.vlan with | none => true | some t => t.toNat % 4096 == 0
  let peer := f.da == 0x0180C200000E#48
  let multi := f.da == 0x011B19000000#48
  if f.et.toNat ≠ 0x88F7 ∨ p.length < n ∨ n < 44 ∨ beAt p 1 1 % 16 ≠ 2 ∨ !tagOk then .other
  else
    match kind with
    | 0 => if multi then .sync { domain := dom, src := src, seq := seq, twoStep := two, logInt := log, origin := ptpTimeOf (bytesAt p 34 10), corr := corr } else .other
    | 8 => if multi then .followUp { domain := dom, src := src, seq := seq, origin := ptpTimeOf (bytesAt p 34 10), corr := corr } else .other
    | 0xB =>
      if multi && decide (64 ≤ n) then
        let tl := ptpTlvs n (bytesAt p 64 (n - 64))
        let c37 := (tl.find? fun e => e.1 == 3 && bytesAt e.2 0 6 == beBytes 6 0x1C129D000002 && decide (16 ≤ e.2.length)).map (·.2)
        .announce { domain := dom, src := src, logInt := log, prio1 := BitVec.ofNat 8 (beAt p 47 1), cls := BitVec.ofNat 8 (beAt p 48 1), acc := BitVec.ofNat 8 (beAt p 49 1), var := BitVec.ofNat 16 (beAt p 50 2), prio2 := BitVec.ofNat 8 (beAt p 52 1), gm := BitVec.ofNat 64 (beAt p 53 8), steps := BitVec.ofNat 16 (beAt p 61 2), utc := BitVec.ofNat 16 (beAt p 44 2), utcValid := beAt p 7 1 / 4 % 2 == 1, leap59 := beAt p 7 1 / 2 % 2 == 1, leap61 := beAt p 7 1 % 2 == 1, tti := c37.map fun b => word (beAt b 12 4), gmShort := c37.map fun b => BitVec.ofNat 16 (beAt b 6 2), zone := ((tl.find? fun e => e.1 == 9).map (·.2)).getD [] }
      else .other
    | 2 => if peer then .pdelayReq { domain := dom, src := src, seq := seq } else .other
    | 3 => if peer && decide (54 ≤ n) then .pdelayResp { req := ptpSrcOf (bytesAt p 44 10), seq := seq, twoStep := two, turn := corr } else .other
    | _ => .other

/-- The clock identity of a module with the address `a`, and a port's identity. -/
def ptpSelf (a m : Nat) : PtpSrc :=
  { clock := BitVec.ofNat 64 (a / 2 ^ 24 * 2 ^ 40 + 0xFFFE000000 + a % 2 ^ 24), port := BitVec.ofNat 16 (m + 1) }

def ptpSrcBytes (x : PtpSrc) : List Byte := beBytes 8 x.clock.toNat ++ beBytes 2 x.port.toNat

/-- A Pdelay_Req of the port `self`, or with `resp` the one-step Pdelay_Resp to that port, whose correctionField tells the
turnaround in units of 2⁻¹⁶ ns. -/
def ptpBytes (dom : Nat) (self : PtpSrc) (seq : Nat) (resp : Option (PtpSrc × Int)) : List Byte :=
  beBytes 1 (if resp.isSome then 3 else 2) ++ beBytes 1 2 ++ beBytes 2 54 ++ beBytes 1 dom ++ beBytes 3 0 ++
    beBytesI 8 ((resp.map (·.2)).getD 0) ++ beBytes 4 0 ++ ptpSrcBytes self ++ beBytes 2 seq ++ beBytes 1 5 ++ beBytes 1 0x7F ++
    beBytes 10 0 ++ (match resp with | some r => ptpSrcBytes r.1 | none => beBytes 10 0)

/-- A PTP event message: Sync, Delay_Req, Pdelay_Req, Pdelay_Resp. -/
def ptpEvent (f : EthFrame) : Bool := f.et.toNat == 0x88F7 && decide (beAt f.payload 0 1 % 16 ≤ 3)

/-- A forwarded event message with a residence time, in 1/256 ns, added to its correctionField (R165). -/
def ptpResidence (f : EthFrame) (r : Int) : EthFrame :=
  if ptpEvent f then
    let p := f.payload
    { f with payload := bytesAt p 0 8 ++ beBytesI 8 (beInt (bytesAt p 8 8) + r * 256) ++ p.drop 16 }
  else f

end Sys2Proof.Machine
end

