-- ==== Sys2Proof/Machine/Time.lean ====
section
/-! DEFINITION. TIME's sources: PTP domains (R165-R168), IRIG-B and 1PPS (R177-R179), the choice of the lodestar, slews,
holdover, FAR and alignment steps (R169-R176), the sync state and the notifications (R174, R193). -/

namespace Sys2Proof.Machine

/-! ### The tick grid (R25) -/

/-- The start of tick `n` within a second, in ns (R25: 52084 BUS cycles when n mod 3 = 0, 52083 otherwise; or 62500). -/
def merNs (fs n : Nat) : Nat := if fs = 4000 then n * 250000 else n * 208332 + 4 * ((n + 2) / 3)

/-- The number of the tick that an instant of a second lies in. -/
def tickIn (fs ns : Nat) : Nat :=
  if fs = 4000 then ns / 250000
  else ns / 625000 * 3 + (if ns % 625000 < 208336 then 0 else if ns % 625000 < 416668 then 1 else 2)

/-- The release tick of the tick an instant of the LTC lies in. -/
def tickAt (s : State) (t : Nat) : Word := relTick s (secOf t) (tickIn (fsOf s) (nsOf t))

/-- The second and number of the tick after the one in progress. -/
def nextTick (s : State) : Nat × Nat :=
  if s.time.tick + 1 < fsOf s then (s.time.tickSec, s.time.tick + 1) else (s.time.tickSec + 1, 0)

/-- The LTC of the next meridian. -/
def nextMer (s : State) : Nat := (nextTick s).1 * 1000000000 + merNs (fsOf s) (nextTick s).2

/-- The first meridian at or after an instant of the LTC: its second and number. -/
def merFrom (s : State) (t : Nat) : Nat × Nat :=
  let n := tickIn (fsOf s) (nsOf t)
  if merNs (fsOf s) n = nsOf t then (secOf t, n)
  else if n + 1 < fsOf s then (secOf t, n + 1) else (secOf t + 1, 0)

/-! ### Records and notifications (R193) -/

def setTime (s : State) (t : TimeSt) : State := { s with time := t }

/-- A TIME event: sticky bit, notification of the code, and a record where `sev` names one. -/
def timeNote (s : State) (bit_ cls code info : Nat) (sev : Option Nat) : State :=
  let s := setEvt s R.timeEvt bit_
  let s := match sev with | some v => almPost s v 0x03 code none [word info] | none => s
  notifyAll s (forceOf s R.timeNotify) cls 0x03 code (info % 65536)

/-! ### Domains -/

def domOf (s : State) (d : Nat) : Dom := if d = 0 then s.time.d0 else s.time.d1
def setDom (s : State) (d : Nat) (x : Dom) : State :=
  if d = 0 then { s with time := { s.time with d0 := x } } else { s with time := { s.time with d1 := x } }
def portOf (x : Dom) (side : Bool) : PtpPort := if side then x.p1 else x.p0
def setPort (x : Dom) (side : Bool) (p : PtpPort) : Dom := if side then { x with p1 := p } else { x with p0 := p }
def pdOf (s : State) (m : Nat) : Pdelay := mget {} s.time.pd m
def setPd (s : State) (m : Nat) (x : Pdelay) : State := { s with time := { s.time with pd := mset {} s.time.pd m x } }

/-- The MAC of side `side` of domain `d` (R166). -/
def domMac (s : State) (d : Nat) (side : Bool) : Nat := fld (shadowOf s (R.domCfg d)) 9 9 * 2 + side.toNat

/-- Domain `d` is enabled. -/
def domOn (s : State) (d : Nat) : Bool := bit (shadowOf s (R.domCtrl d)) 0

/-- The enabled domain a message of domain number `n` on MAC `m` belongs to. -/
def domFor (s : State) (m : Nat) (n : Byte) (d : Nat) : Bool :=
  domOn s d && fld (shadowOf s (R.domCfg d)) 9 9 == m / 2 && fld (shadowOf s (R.domCfg d)) 7 0 == n.toNat

/-- The rank of a data set under the best master clock algorithm; the smaller is the better. -/
def bmcaKey (a : PtpAnnounce) : List Nat :=
  [a.prio1.toNat, a.cls.toNat, a.acc.toNat, a.var.toNat, a.prio2.toNat, a.gm.toNat, a.steps.toNat, a.src.clock.toNat,
   a.src.port.toNat]

/-- One list of ranks comes before another. -/
def keyLt : List Nat → List Nat → Bool
  | a :: s, b :: t => decide (a < b) || (a == b && keyLt s t)
  | _, _ => false

/-- Two Announces of a master came within 4 intervals. -/
def heard (f : Foreign) : Bool := match f.prev with | some p => decide (f.last ≤ p + 4000000000) | none => false

/-- A master is qualified: heard, its last Announce within 3 intervals (R165, R167). -/
def qualified (now : Nat) (f : Foreign) : Bool := heard f && decide (now < f.last + 3000000000)

/-- The best of some masters. -/
def bestIn (l : List Foreign) : Option Foreign :=
  l.foldl (fun r f => match r with
    | none => some f
    | some b => if keyLt (bmcaKey f.ann) (bmcaKey b.ann) then some f else some b) none

/-- The best qualified master of a port. -/
def bestOf (now : Nat) (p : PtpPort) : Option PtpAnnounce := (bestIn (p.masters.filter (qualified now))).map (·.ann)

/-- The master of the domain: the best master of its active port. -/
def domMaster (s : State) (d : Nat) : Option PtpAnnounce := bestOf s.now (portOf (domOf s d) (domOf s d).act)

/-- The port the domain takes time from (R166): the higher ranked best master, the lower MAC on a tie. -/
def actPort (s : State) (d : Nat) : Bool :=
  match bestOf s.now (domOf s d).p0, bestOf s.now (domOf s d).p1 with
  | some a, some b => keyLt (bmcaKey b) (bmcaKey a)
  | none, some _ => true
  | some _, none => false
  | none, none => (domOf s d).act

/-- The offset of source `k` from the LTC, in 1/256 ns (R168: a domain reports one from ACQUIRING onward). -/
def srcOff (s : State) (k : Nat) : Option Int :=
  match k with
  | 2 => s.irig.off
  | 3 => s.pps.off
  | _ =>
    let x := domOf s k
    if x.st = .acquiring ∨ x.st = .locked then (portOf x x.act).off else none

/-- The source is locked and meets the conditions of R169 apart from FAR. -/
def srcGood (s : State) (k : Nat) : Bool :=
  bit (forceOf s R.timeCfg) (4 + k) &&
  match k with
  | 2 => s.irig.locked
  | 3 => s.pps.locked
  | _ =>
    let cfg := shadowOf s (R.domCfg k)
    decide ((domOf s k).st = .locked) &&
    match domMaster s k with
    | none => false
    | some a => decide (a.cls.toNat ≤ fld cfg 23 16) &&
      (fld cfg 8 8 == 0 || fld cfg 31 24 == 0 ||
        match a.tti with | some t => decide (t.toNat ≤ fld cfg 31 24 * 100) | none => true)

def isFar (s : State) (k : Nat) : Bool := mget false s.time.far k

/-- The source is eligible (R169). -/
def eligible (s : State) (k : Nat) : Bool := srcGood s k && !isFar s k

/-- The sources by rank (R170). -/
def ranking (s : State) : List Nat := if fld (forceOf s R.timeCfg) 3 3 = 0 then [0, 1, 2, 3] else [1, 0, 2, 3]

/-- Every offset reduced by `δ` (1/256 ns): the LTC has gained that much. -/
def shiftPort (δ : Int) (p : PtpPort) : PtpPort :=
  { p with off := p.off.map (· - δ), hist := p.hist.map (· - δ), wait := p.wait.map fun w => (w.1, w.2 + δ) }
def shiftDom (δ : Int) (x : Dom) : Dom := { x with p0 := shiftPort δ x.p0, p1 := shiftPort δ x.p1 }
def shiftOffs (s : State) (δ : Int) : State :=
  { s with
    time := { s.time with d0 := shiftDom δ s.time.d0, d1 := shiftDom δ s.time.d1, tod := s.time.tod.map (· - δ) }
    irig := { s.irig with off := s.irig.off.map (· - δ) }
    pps := { s.pps with off := s.pps.off.map (· - δ) } }

/-- FAR of a source follows its offset after the first acquisition (R173). -/
def farUpdate (s : State) (k : Nat) : State :=
  match srcOff s k with
  | none => s
  | some o =>
    let beyond := decide ((forceOf s R.timeFarTh).toNat * 256000 < o.natAbs)
    if !s.time.acquired || beyond == isFar s k then s
    else
      let s := { s with time := { s.time with far := mset false s.time.far k beyond } }
      if beyond then timeNote s 4 1 0x14 k (some 1) else s

/-- The pull up to this instant (R171). In a slew the LTC gains on the lodestar at SLEW_PPM, until the offset is below 1 ns; else the
tracking servo pulls it, never faster (how far is left free). -/
def slewPull (s : State) : State :=
  match srcOff s s.time.lodestar with
  | none => s
  | some o =>
    let dt := s.now - s.time.pullAt
    let lim := min (dt * fld (forceOf s R.timeCfg) 15 8 * 256 / 1000000) o.natAbs
    let p := if s.time.slewing then lim else min lim (Config.servoPull dt o.natAbs)
    let s := shiftOffs s (if 0 ≤ o then p else -(p : Int))
    { s with time := { s.time with
      pullAt := if lim = 0 then s.time.pullAt else s.now, slewing := s.time.slewing && decide (256 ≤ o.natAbs - p) } }

/-- A slew starts towards the lodestar (R171). -/
def slewStart (s : State) : State :=
  { s with time := { s.time with
    slewing := (match srcOff s s.time.lodestar with | some o => decide (256 ≤ o.natAbs) | none => false)
    pullAt := s.now } }

/-- The UTC offset in force (R179); a change sets LEAP. -/
def utcUpdate (s : State) : State :=
  let u := match (if s.time.lodestar < 2 then domMaster s s.time.lodestar else none) with
    | some a => if a.utcValid then a.utc.toNat else fld (forceOf s R.timeUtc) 15 0
    | none => fld (forceOf s R.timeUtc) 15 0
  if u = s.time.utc then s else setEvt { s with time := { s.time with utc := u } } R.timeEvt 5

/-- The sync state the conditions give (R174). -/
def syncFor (s : State) : Nat :=
  match s.time.lodestar with
  | 2 => if bit (forceOf s R.timeIrigCfg) 17 then 2 else 1
  | 3 => if bit (forceOf s R.timePpsCfg) 16 then 2 else 1
  | 7 =>
    match s.time.holdAt with
    | some t => if s.now < t + fld (forceOf s R.timeCfg) 23 16 * 1000000000 then s.time.sync else 0
    | none => 0
  | k =>
    match domMaster s k with
    | some a => if a.cls = 6#8 ∨ a.cls = 7#8 then 2 else 1
    | none => 1

/-- The sync state is kept (R174, R193). -/
def syncUpdate (s : State) : State :=
  let v := syncFor s
  if v = s.time.sync then s
  else timeNote { s with time := { s.time with sync := v } } 2 1 0x12 v (if v = 0 then some 1 else none)

/-- A tick boundary after a stop or a step of the clock: a pending start waits for the next second (R191). -/
def rearm (s : State) : State :=
  { s with time := { s.time with startPend := s.time.startPend.map fun _ => (secOf s.ltc + 1) * 1000000000 } }

/-- ALIGNMENT_STEP (R175, R176): the LTC is set to source `k`, to the nearest BUS cycle. While the generator runs, the tick
that begins now becomes the step tick. -/
def alignStep (s : State) (k : Nat) : State :=
  match srcOff s k with
  | none => s
  | some o =>
    let d : Int := 4 * ((o + 512) / 1024)
    let s := shiftOffs { s with ltc := (s.ltc + d).toNat } (256 * d)
    let s := { s with time := { s.time with far := mset false s.time.far k false, slewing := false, pullAt := s.now } }
    if !s.time.tickRun then rearm s
    else
      let e := merFrom s (s.ltc + (500000000 + fsOf s - 1) / fsOf s)
      let t := if e.2 = 0 then (e.1 - 1, fsOf s - 1) else (e.1, e.2 - 1)
      let s := { s with time := { s.time with tickSec := t.1, tick := t.2, tickStart := s.ltc } }
      timeNote s 3 0 0x13 (min (d.natAbs / 1000) 0xFFFF) (some 1)

/-- The lodestar becomes `k` (7 none): holdover begins or ends (R34: HOLD_ENTER), a slew begins unless a step
follows (R170-R172, R193). -/
def setLodestar (s : State) (k : Nat) (step : Bool) : State :=
  if k = s.time.lodestar then s
  else
    let s := { s with time := { s.time with lodestar := k, slewing := false, pullAt := s.now } }
    let s := timeNote s 0 1 0x10 k (some 2)
    if k = 7 then
      timeNote (setEvt { s with time := { s.time with holdAt := some s.now } } R.sysClkEvt 1) 1 0 0x11 0 (some 1)
    else
      let s := { s with time := { s.time with holdAt := none } }
      if step then s else slewStart s

/-- The interval of a port's Syncs in ns. -/
def syncNs (p : PtpPort) : Nat := 1000000000 / 2 ^ (-p.logInt).toNat

/-- The domain returns to LISTENING (R167). -/
def domLost (s : State) (d : Nat) : State :=
  let x := domOf s d
  if x.st = .disabled then s
  else
    let clr := fun (p : PtpPort) => { p with hist := [], off := none, agree := 0, lastSeq := none, wait := none }
    setDom s d { x with st := .listening, p0 := clr x.p0, p1 := clr x.p1 }

/-- The domain takes time from side `a` (R166); a change in the lodestar domain is slewed (R171). Until the port's first Sync the
domain's offset stays what it was. -/
def takePort (s : State) (d : Nat) (a : Bool) : State :=
  let x := domOf s d
  if a = x.act then s
  else
    let p := portOf x a
    let s := setDom s d (setPort { x with act := a } a { p with off := p.off.orElse fun _ => (portOf x x.act).off, lastSync := s.now })
    if s.time.lodestar = d ∧ x.st = .locked then slewStart s else s

/-- The domain is being acquired or is locked. -/
def domUp (s : State) (d : Nat) : Bool := (domOf s d).st == .acquiring || (domOf s d).st == .locked

/-- Four Syncs and half an interval have passed since the active port's last Sync: four are missing (R167). How late a Sync is missing
the spec leaves open (DESIGN CHOICE, log 195). -/
def syncLate (s : State) (d : Nat) : Bool :=
  let p := portOf (domOf s d) (domOf s d).act
  decide (p.lastSync + 4 * syncNs p + syncNs p / 2 ≤ s.now)

/-- A domain's active port and state at a received Sync and at a meridian (R166, R167). -/
def domUpdate (s : State) (d : Nat) : State :=
  if (domOf s d).st = .disabled then s
  else
    let s := takePort s d (actPort s d)
    if domUp s d then
      if (domMaster s d).isNone then domLost s d
      else if syncLate s d then domLost (bump s (R.domCnt d) 15 0 4) d
      else s
    else
      let x := domOf s d
      if (domMaster s d).isSome ∧ (pdOf s (domMac s d false)).meas.isSome ∧ (pdOf s (domMac s d true)).meas.isSome then
        let fresh := fun (p : PtpPort) => { p with agree := 0, hist := [], lastSync := s.now }
        setDom s d { x with st := .acquiring, p0 := fresh x.p0, p1 := fresh x.p1 }
      else s

/-- Since when each reference has been eligible. -/
def setSince (s : State) (l : List (Nat × Option Nat)) : State := { s with time := { s.time with since := l } }

/-- Since when each source has been eligible without a break (R170). -/
def sinceUpdate (s : State) : State :=
  setSince s ([0, 1, 2, 3].foldl (fun m k =>
    if eligible s k then (if (mget none m k).isSome then m else mset none m k (some s.now)) else mset none m k none) s.time.since)

/-- The lodestar the conditions choose (R170). -/
def lodestarFor (s : State) : Nat :=
  let el := (ranking s).filter (eligible s)
  let l := s.time.lodestar
  if l ≠ 7 ∧ eligible s l then
    let rv := fld (forceOf s R.timeCfg) 31 24
    (((ranking s).takeWhile (· ≠ l)).find? fun k =>
      match mget none s.time.since k with
      | some t => decide (rv ≠ 0) && decide (t + rv * 1000000000 ≤ s.now)
      | none => false).getD l
  else el.head?.getD 7

/-- LODESTAR_SELECT with the alignment step it causes (R170-R176, R194): at a meridian, or at once while the generator is
stopped. -/
def timeEval (s : State) : State :=
  let s := slewPull s
  let s := sinceUpdate ([0, 1, 2, 3].foldl farUpdate s)
  let first := !s.time.acquired
  let re := s.time.realign
  let k := lodestarFor s
  let k' := if k = 7 ∧ re then ((ranking s).find? (srcGood s)).getD 7 else k
  let step := (re || first) && decide (k' ≠ 7)
  let s := { s with time := { s.time with realign := false, acquired := s.time.acquired || decide (k' ≠ 7) } }
  let s := if re ∧ k' = 7 then setEvt s R.timeEvt 4 else s
  let s := setLodestar s k' step
  let s := if step then alignStep s k' else s
  utcUpdate (syncUpdate s)

/-- A change of a source's conditions: evaluated at once while no meridian falls (R170). -/
def timeChanged (s : State) : State := if s.time.tickRun then s else timeEval s

/-! ### PTP messages -/

/-- A dropped message (R165). -/
def ptpDrop (s : State) (m : Nat) : State := bump s (R.tspPtpCnt m) 15 0 1

/-- A signed register of units of 1/256 ns. -/
def comp (s : State) (a : Nat) : Int := (forceOf s a).toInt

/-- How long so many bytes take on MAC0 to MAC3, in 1/256 ns: 25 or 10 Gbit/s (R198). -/
def wireTime (s : State) (m n : Nat) : Nat := if bit (shadowOf s (R.macCfg m)) 16 then n * 2048 / 10 else n * 2048 / 25

/-- The receive stamp of a frame of `n` bytes whose last bit passes the cage pins `frac` units of 1/256 ns after this BUS edge
(R180): that of its first bit. -/
def rxStamp (s : State) (m : Nat) (frac : Fin 1024) (n : Nat) : Int :=
  s.ltc * 256 + frac.val - wireTime s m n - comp s (R.tspRxComp m)

/-- The transmit stamp of a frame that leaves the cage pins at this BUS edge (R180). -/
def txStamp (s : State) (m : Nat) (frac : Fin 1024) : Int := s.ltc * 256 + frac.val + comp s (R.tspTxComp m)

/-- A master is dropped as its messages lie outside the profile (R165). -/
def profileErr (s : State) (d : Nat) (side : Bool) (src : PtpSrc) : State :=
  let x := domOf s d
  let p := portOf x side
  bump (setDom s d (setPort x side { p with masters := p.masters.filter fun f => f.ann.src ≠ src })) (R.domCnt d) 31 16 1

/-- A Sync with its origin time known (R167, R168): `rx` is its receive stamp. -/
def syncTake (s : State) (d : Nat) (side : Bool) (seq : Nat) (logInt origin corr : Int) (rx : Int) : State :=
  let x := domOf s d
  let m := domMac s d side
  let p := portOf x side
  let off := origin * 256 + corr / 256 + comp s (R.tspAsym m) + (pdOf s m).meas.getD 0 - rx
  let dt := s.now - p.lastSync
  let dev := (off - Config.servoPredict p.hist dt).natAbs
  let gap := match p.lastSeq with | some q => (seq + 65535 - q) % 65536 | none => 0
  let s := if 0 < gap ∧ gap < 32768 then bump s (R.domCnt d) 15 0 gap else s
  let p' := { p with lastSeq := some seq, lastSync := s.now, logInt := logInt, off := some off, hist := (off :: p.hist).take 4, wait := none, agree := if dev ≤ 25600 then p.agree + 1 else 0 }
  if domUp s d then
    let s := setDom s d (setPort { x with rate := if side = x.act then Config.servoRate p.hist dt else x.rate } side p')
    if side ≠ x.act then s
    else
    let s := { s with time := { s.time with tod := some off } }
    if 256000 < dev ∨ 4 ≤ gap ∧ gap < 32768 then domLost s d
    else if p'.agree < 4 then farUpdate s d
    else farUpdate (setDom s d { domOf s d with st := .locked }) d
  else s

/-- A Sync for domain `d` on MAC `m`. -/
def syncIn (s : State) (m d : Nat) (x : PtpSync) (rx : Int) : State :=
  if !domFor s m x.domain d then s
  else
    let side := decide (m % 2 = 1)
    let s := domUpdate (slewPull s) d
    if x.logInt < -4 ∨ 0 < x.logInt then domUpdate (profileErr s d side x.src) d
    else
      match bestOf s.now (portOf (domOf s d) side) with
      | none => s
      | some a =>
        if a.src ≠ x.src then s
        else if x.twoStep then setDom s d (setPort (domOf s d) side { portOf (domOf s d) side with wait := some (x, rx) })
        else syncTake s d side x.seq.toNat x.logInt x.origin x.corr rx

/-- TIME takes the oldest good item of port `m` (R206), where `f` gives its message an effect. -/
def ptpRx (s : State) (m : Nat) (f : PtpMsg → Int → Option (State → State)) : State :=
  let r := itemNext s m 3
  match r.1 with
  | none => s
  | some x => match f (ptpOf x.frame) x.stamp with
    | some g => g (itemTake r.2 x)
    | none => s

/-- PTP_SYNC_RX (R165, R167): the oldest message that waits is the Sync `x`, and its stamp has the fraction `frac`. -/
def execPtpSyncRx (m : Fin 4) (frac : Fin 1024) (x : PtpSync) (s : State) : Host.Outcome State Fault Refusal :=
  .next (ptpRx s m.val fun y rx =>
    if y = .sync x ∧ stampFrac rx = frac then some fun s => timeChanged (syncIn (syncIn s m.val 0 x rx) m.val 1 x rx) else none)

/-- A Follow_Up for domain `d` on MAC `m`. -/
def followIn (s : State) (m d : Nat) (x : PtpFollowUp) : State :=
  if !domFor s m x.domain d then s
  else
    let side := decide (m % 2 = 1)
    match (portOf (domOf s d) side).wait with
    | none => s
    | some (y, rx) =>
      if y.src = x.src ∧ y.seq = x.seq then syncTake (slewPull s) d side x.seq.toNat y.logInt x.origin (x.corr + y.corr) rx else s

/-- PTP_FOLLOW_UP_RX (R165): the oldest message that waits is the Follow_Up `x`. -/
def execPtpFollowUpRx (m : Fin 4) (x : PtpFollowUp) (s : State) : Host.Outcome State Fault Refusal :=
  .next (ptpRx s m.val fun y _ =>
    if y = .followUp x then some fun s => timeChanged (followIn (followIn s m.val 0 x) m.val 1 x) else none)

/-- An Announce for domain `d` on MAC `m` (R165-R167). -/
def announceIn (s : State) (m d : Nat) (x : PtpAnnounce) : State :=
  if !domFor s m x.domain d then s
  else
    let side := decide (m % 2 = 1)
    if x.logInt ≠ 0 then profileErr s d side x.src
    else
      let y := domOf s d
      let p := portOf y side
      let f : Foreign := { ann := x, last := s.now, prev := (p.masters.find? fun f => f.ann.src = x.src).map (·.last) }
      setDom s d (setPort y side { p with masters := f :: p.masters.filter fun f => f.ann.src ≠ x.src })

/-- PTP_ANNOUNCE_RX (R165, R167, R179): the oldest message that waits is the Announce `x`. -/
def execPtpAnnounceRx (m : Fin 4) (x : PtpAnnounce) (s : State) : Host.Outcome State Fault Refusal :=
  .next (ptpRx s m.val fun y _ =>
    if y = .announce x then some fun s => utcUpdate (timeChanged (announceIn (announceIn s m.val 0 x) m.val 1 x)) else none)

/-- A port of an enabled domain (R165). -/
def ptpPortOn (s : State) (m : Nat) : Bool :=
  [0, 1].any fun d => domOn s d && fld (shadowOf s (R.domCfg d)) 9 9 == m / 2

/-- A frame of TIME's becomes ready. -/
def ptpReady (s : State) (f : PtpTx) : State :=
  { s with time := { s.time with tx := s.time.tx ++ [{ f with order := s.gse.order }] }, gse := { s.gse with order := s.gse.order + 1 } }

/-- PTP_PDELAY_REQ_RX (R165): the oldest message that waits is the Pdelay_Req `x`; a one-step Pdelay_Resp to the requester waits for
the port. -/
def execPtpPdelayReqRx (m : Fin 4) (frac : Fin 1024) (x : PtpPdelayReq) (s : State) : Host.Outcome State Fault Refusal :=
  .next (ptpRx s m.val fun y rx =>
    if y = .pdelayReq x ∧ stampFrac rx = frac then some fun s =>
      if bit (shadowOf s (R.macCtrl m.val)) 0 then
        ptpReady s { mac := m.val, order := 0, seq := x.seq.toNat, resp := some rx, dom := x.domain, req := x.src }
      else s
    else none)

/-- The mode of a port's pair (R215): 0 independent, 1 PRP, 2 HSR. -/
def lreMode (s : State) (m : Nat) : Nat := if 4 ≤ m then 0 else fld (shadowOf s (R.macLreCfg (m / 2 * 2))) 1 0

/-- A port's own address (R215). -/
def macAddr (s : State) (m : Nat) : Nat :=
  let n := if lreMode s m = 1 ∨ lreMode s m = 2 then m / 2 * 2 else m
  (shadowOf s (R.macAddrLo n)).toNat + fld (shadowOf s (R.macAddrHi n)) 15 0 * 2 ^ 32

def lreOf (s : State) (p : Nat) : LreSt := mget {} s.net.lres p
def setLre (s : State) (p : Nat) (x : LreSt) : State := { s with net := { s.net with lres := mset {} s.net.lres p x } }

/-- The next sequence number of a pair in PRP or HSR mode (R220). -/
def pairSeq (s : State) (p : Nat) : Option Nat × State :=
  if lreMode s (p * 2) = 0 then (none, s)
  else (some (lreOf s p).seq, setLre s p { lreOf s p with seq := ((lreOf s p).seq + 1) % 65536 })

/-- The port identity of MAC `m`. -/
def portId (s : State) (m : Nat) : PtpSrc := ptpSelf (macAddr s m) m

/-- A Pdelay_Resp on MAC `m` (R165): the mean link delay is half the round trip less the turnaround. -/
def respIn (s : State) (m : Nat) (x : PtpPdelayResp) (rx : Int) : State :=
  let p := pdOf s m
  match p.t1 with
  | some t1 =>
    if x.seq.toNat = p.seq ∧ x.req = portId s m then timeChanged (setPd s m { p with meas := some ((rx - t1 - x.turn / 256) / 2), t1 := none })
    else s
  | none => s

/-- PTP_PDELAY_RESP_RX (R165): the oldest message that waits is the Pdelay_Resp `x`. -/
def execPtpPdelayRespRx (m : Fin 4) (frac : Fin 1024) (x : PtpPdelayResp) (s : State) : Host.Outcome State Fault Refusal :=
  .next (ptpRx s m.val fun y rx =>
    if y = .pdelayResp x ∧ stampFrac rx = frac then some fun s => if x.twoStep then ptpDrop s m.val else respIn s m.val x rx else none)

/-- PTP_MESSAGE_DROP (R165): the oldest waiting message lies outside the parts that are implemented. -/
def execPtpMessageDrop (m : Fin 4) (s : State) : Host.Outcome State Fault Refusal :=
  .next (ptpRx s m.val fun x _ => match x with
    | .other => some fun s => ptpDrop s m.val
    | _ => none)

/-- PDELAY_REQ_TX (R165): every second, a request waits for every port of an enabled domain; those of a pair in PRP or HSR mode have one
sequence number (R220). -/
def execPdelayReqTx (s : State) : Host.Outcome State Fault Refusal :=
  .next (
    let s := reach s s.time.pdNext
    let s := { s with time := { s.time with pdNext := s.now + 1000000000 } }
    upto 2 s fun p s =>
      if ptpPortOn s (2 * p) then
        let r := pairSeq s p
        let d := if domOn s 0 && fld (shadowOf s (R.domCfg 0)) 9 9 == p then 0 else 1
        upto 2 r.2 fun i s =>
          let m := 2 * p + i
          let n := ((pdOf s m).seq + 1) % 65536
          let s := setPd s m { pdOf s m with seq := n, t1 := none }
          ptpReady s { mac := m, order := 0, seq := n, resp := none, red := r.1, dom := BitVec.ofNat 8 (fld (shadowOf s (R.domCfg d)) 7 0) }
      else s)

/-- ANNOUNCE_TIMEOUT (R167): no Announce from the master of a port within 3 announce intervals. -/
def execAnnounceTimeout (d : Fin 2) (side : Bool) (s : State) : Host.Outcome State Fault Refusal :=
  .next (let x := domOf s d.val
    let p := portOf x side
    match bestIn (p.masters.filter heard) with
    | none => s
    | some f =>
      let s := slewPull (reach s (f.last + 3000000000))
      timeChanged (domUpdate (setDom s d.val (setPort x side { p with masters := p.masters.filter fun g => g.ann.src ≠ f.ann.src })) d.val))

/-- SYNC_LOSS (R167): four consecutive Syncs are missing on the active port. -/
def execSyncLoss (d : Fin 2) (s : State) : Host.Outcome State Fault Refusal :=
  .next (
    let p := portOf (domOf s d.val) (domOf s d.val).act
    if domUp s d.val then
      let s := slewPull (reach s (p.lastSync + 4 * syncNs p))
      timeChanged (domLost (bump s (R.domCnt d.val) 15 0 4) d.val)
    else s)

/-- DOMAIN_ENABLE (R167). -/
def execDomainEnable (a : Acc) (d : Fin 2) (s : State) : Host.Outcome State Fault Refusal :=
  .next (regAccess s a (R.domCtrl d.val) true fun s =>
    if domOn s d.val then s
    else
      let s := setShadow s (R.domCtrl d.val) 1#32
      timeChanged (setDom s d.val { st := .listening }))

/-- DOMAIN_DISABLE (R167). -/
def execDomainDisable (a : Acc) (d : Fin 2) (s : State) : Host.Outcome State Fault Refusal :=
  .next (regAccess s a (R.domCtrl d.val) true fun s =>
    let s := setShadow s (R.domCtrl d.val) 0#32
    timeChanged (setDom s d.val {}))

/-! ### The lodestar's own events -/

/-- REVERSION (R170): a source ranked above the lodestar has been eligible for REVERT_S seconds. The choice falls at the next
meridian, or at once while the generator is stopped. -/
def execReversion (k : Fin 4) (s : State) : Host.Outcome State Fault Refusal :=
  .next (match mget none s.time.since k.val with
    | some t =>
      let rv := fld (forceOf s R.timeCfg) 31 24
      if rv = 0 ∨ !((ranking s).takeWhile (· ≠ s.time.lodestar)).contains k.val then s
      else timeChanged (reach s (t + rv * 1000000000))
    | none => s)

/-- HOLD_KEEP_EXPIRY (R172): the sync state becomes NONE. -/
def execHoldKeepExpiry (s : State) : Host.Outcome State Fault Refusal :=
  .next (match s.time.holdAt with
    | some t => syncUpdate (reach s (t + fld (forceOf s R.timeCfg) 23 16 * 1000000000))
    | none => s)

/-- SLEW_DONE (R171): the instant the offset falls below 1 ns is reached. -/
def execSlewDone (s : State) : Host.Outcome State Fault Refusal :=
  .next (match s.time.slewing, srcOff s s.time.lodestar with
    | true, some o =>
      let r := fld (forceOf s R.timeCfg) 15 8 * 256
      slewPull (reach s (s.time.pullAt + ((o.natAbs - 255) * 1000000 + r - 1) / r))
    | _, _ => s)

/-- REALIGN (R175): a step is due at the next meridian, or at once while none falls. -/
def execRealign (a : Acc) (s : State) : Host.Outcome State Fault Refusal :=
  .next (regAccess s a R.timeCtrl true fun s =>
    timeChanged { s with time := { s.time with realign := true } })

/-! ### IRIG-B and 1PPS -/

/-- Days from 1970-01-01 to the start of a year. -/
def daysTo (y : Nat) : Nat :=
  let l := fun n : Nat => n / 4 - n / 100 + n / 400
  (y - 1970) * 365 + (l (y - 1) - l 1969)

/-- The TAI second an IRIG-B frame tells (R177). -/
def irigSec (s : State) (f : IrigFrame) : Nat :=
  let cfg := forceOf s R.timeIrigCfg
  let y := if f.code = 6 ∨ f.code = 7 then 2000 + f.year else fld cfg 15 0
  let t := (daysTo y + f.day - 1) * 86400 + f.hour * 3600 + f.min * 60 + f.sec
  let ofs : Int := if bit cfg 16 then (BitVec.ofNat 8 (fld cfg 31 24)).toInt * 900 else 0
  ((t : Int) - ofs + s.time.utc).toNat

/-- The frame is good (R177). -/
def irigGood (f : IrigFrame) : Bool :=
  f.good && (f.code == 2 || f.code == 3 || f.code == 6 || f.code == 7) &&
  !((f.code == 3 || f.code == 7) && f.sbs != f.hour * 3600 + f.min * 60 + f.sec)

/-- IRIGB_FRAME_RX (R177, R178): the on-time point lies `age` ns back. -/
def execIrigbFrameRx (f : IrigFrame) (age : Nat) (s : State) : Host.Outcome State Fault Refusal :=
  .next (
    let s := slewPull s
    if irigGood f then
      let t := irigSec s f
      let n := if s.irig.run ≠ 0 ∧ t = s.irig.lastSec + 1 then s.irig.run + 1 else 1
      let off : Int := (t * 1000000000 : Int) - s.ltc + age
      timeChanged (farUpdate { s with time := { s.time with tod := some (off * 256) }, irig := { locked := s.irig.locked || decide (3 ≤ n), code := f.code, run := min n 3, lastGood := s.now, lastSec := t, off := some (off * 256) } } 2)
    else
      let s := setEvt (bump s R.timeIrigCnt 15 0 1) R.timeEvt 6
      timeChanged { s with irig := { s.irig with run := 0 } })

/-- Lock is lost at `t`, the end of two seconds without a good frame (R178). -/
def irigDrop (s : State) (t : Nat) : State :=
  let s := reach s t
  timeChanged { s with irig := { s.irig with locked := false, run := 0, off := none } }

/-- IRIGB_LOSS (R178): 2 s without a good frame. -/
def execIrigbLoss (s : State) : Host.Outcome State Fault Refusal :=
  .next (if s.irig.locked then irigDrop s (s.irig.lastGood + 2000000000) else s)

/-- A pulse while 1PPS is locked lies outside the window (R178). -/
def ppsOut (s : State) : Bool :=
  let r := nsOf s.ltc
  decide (fld (forceOf s R.timePpsCfg) 15 0 < min r (1000000000 - r))

/-- The second a pulse marks (R178): from the last source that gave time of day, else from TIME_PPS_SEC on. -/
def ppsSecond (s : State) : Nat :=
  match s.time.tod with
  | some o => (((s.ltc : Int) * 256 + o + 128000000000) / 256000000000).toNat
  | none => match s.pps.sec with | some n => n + (s.now - s.pps.last + 500000000) / 1000000000 | none => (forceOf s R.timePpsSec).toNat

/-- PPS_PULSE (R178). -/
def execPpsPulse (s : State) : Host.Outcome State Fault Refusal :=
  .next (
    let s := slewPull s
    if s.pps.locked && ppsOut s then
      let s := setEvt s R.timeEvt 7
      let n := s.pps.bad + 1
      let s := setLive s R.timePpsStat (bumpFld (liveOf s R.timePpsStat) 31 16 1)
      timeChanged { s with pps := { s.pps with bad := n % 3, locked := decide (n < 3), run := if n < 3 then s.pps.run else 0, off := if n < 3 then s.pps.off else none } }
    else
      let d := s.now - s.pps.last
      let n := if s.pps.run ≠ 0 ∧ 999990000 ≤ d ∧ d ≤ 1000010000 then s.pps.run + 1 else 1
      let sec := ppsSecond s
      let off : Int := (sec * 1000000000 : Int) - s.ltc
      timeChanged (farUpdate { s with pps := { locked := s.pps.locked || decide (3 ≤ n), run := min n 3, last := s.now, sec := some sec, off := some (off * 256), bad := 0 } } 3))

/-! ### Commit checks (R196) -/

/-- A signed value of 1/256 ns within ±1 µs. -/
def compOk (w : Word) : Bool := decide (w.toInt.natAbs ≤ 256000)

/-- The check of a TIME set (R186, R196): cause and offset. -/
def checkTime (ps : PendSet) : Option (Nat × Nat) :=
  let v := pendVal ps.vals
  let cfg := v R.timeCfg
  if fld cfg 15 8 = 0 ∨ 100 < fld cfg 15 8 then some (3, 0)
  else if fld (v R.timeFarTh) 19 0 = 0 ∨ 1000000 < fld (v R.timeFarTh) 19 0 then some (3, 4)
  else if fld (v R.timePpsCfg) 15 0 < 100 ∨ 10000 < fld (v R.timePpsCfg) 15 0 then some (3, 0x90)
  else
    let port := (List.range 4).findSome? fun p =>
      if !compOk (v (R.tspRxComp p)) then some (3, 0x200 + p * 0x40)
      else if !compOk (v (R.tspTxComp p)) then some (3, 0x204 + p * 0x40)
      else if !compOk (v (R.tspAsym p)) then some (3, 0x208 + p * 0x40)
      else
        let w := v (R.txqWm p)
        if fld w 6 0 < fld w 22 16 ∧ fld w 22 16 ≤ 64 then none else some (2, 0x228 + p * 0x40)
    match port with
    | some f => some f
    | none =>
      let b := v R.biMirror
      let w := v R.biqWm
      if bit b 0 ∧ !inShared (fld b 31 2 * 4) then some (3, 0x408)
      else if fld w 8 0 < fld w 24 16 ∧ fld w 24 16 ≤ 256 then none else some (2, 0x438)

end Sys2Proof.Machine
end

