-- ==== Sys2Proof/Machine/Bi.lean ====
section
/-! DEFINITION. TIME's queues of stamps (R183-R187, R189), the binary inputs (R188-R190), the tick generator's commands
(R191, R192) and the read of the time (R196). -/

namespace Sys2Proof.Machine

/-! ### The queues: transmit queues 0-3, binary-input queue 4 -/

def stampQ (s : State) (i : Nat) : StampQ := mget {} s.bi.queues i
def setStampQ (s : State) (i : Nat) (x : StampQ) : State :=
  { s with bi := { s.bi with queues := mset {} s.bi.queues i x } }
def tqCap (i : Nat) : Nat := if i < 4 then 64 else 256
def tqEvt (i : Nat) : Nat := if i < 4 then R.txqEvt i else R.biqEvt
def tqWm (i : Nat) : Nat := if i < 4 then R.txqWm i else R.biqWm
def tqCnt (i : Nat) : Nat := if i < 4 then R.txqCnt i else R.biqCnt

/-- LEVEL_SIDE after a change of the level (R186, R193). -/
def tqSide (s : State) (i : Nat) : State :=
  let x := stampQ s i
  let l := x.q.items.length
  let w := forceOf s (tqWm i)
  if !x.side && decide (fld w 24 16 ≤ l) then
    let s := bump (setEvt (setStampQ s i { x with side := true }) (tqEvt i) 0) (tqCnt i) 23 16 1
    if i = 4 then notifyAll s (forceOf s R.timeNotify) 2 0x03 0x20 l else s
  else if x.side && decide (l ≤ fld w 8 0) then
    bump (setEvt (setStampQ s i { x with side := false }) (tqEvt i) 1) (tqCnt i) 23 16 1
  else s

/-- QUEUE_PTR_RESET (R187). -/
def tqPtrReset (s : State) (i : Nat) : State :=
  let s := setStampQ s i { stampQ s i with q := {}, latch := [] }
  let s := ptrSum (setEvt s (tqEvt i) 4) 3
  let s := almPost s 1 0x03 0x01 none [word i]
  tqSide (notifyAll s (forceOf s R.timeNotify) 0 0x03 0x01 i) i

def tqCheck (s : State) (i : Nat) : State := if qOk (stampQ s i).q then s else tqPtrReset s i

/-- A stamp enters a queue, or is dropped by a full one (R183, R184). -/
def tqPut (s : State) (i : Nat) (e : Stamp) : State :=
  let e := { e with put := s.now }
  let s := tqCheck s i
  let x := stampQ s i
  if x.q.items.length < tqCap i then tqSide (setStampQ s i { x with q := qPush (tqCap i) x.q e }) i
  else
    let first := !evt s (tqEvt i) 2
    let s := bump (setStampQ s i { x with lost := some (e, first) }) (tqCnt i) 15 0 1
    let s := if i < 4 ∧ first then notifyAll s (forceOf s R.timeNotify) 2 0x03 0x21 i else s
    setEvt s (tqEvt i) 2

/-- A stamp was written in this BUS cycle. -/
def putNow (s : State) (e : Stamp) : Bool := e.put / 4 == s.now / 4

/-- A stamp that met the full queue in this BUS cycle enters the place that POP0 has made: pop first, no overflow (R194). -/
def tqRegain (s : State) (i : Nat) : State :=
  let x := stampQ s i
  match x.lost with
  | none => s
  | some (e, first) =>
    let s := setStampQ s i { x with lost := none }
    if !putNow s e then s
    else
      let s := setStampQ s i { x with q := qPush (tqCap i) x.q e, lost := none }
      let w := liveOf s (tqCnt i)
      let s := if fld w 15 0 = 0 then s else setLive s (tqCnt i) (w - 1)
      if !first then s
      else
        let s := setLive s (tqEvt i) (liveOf s (tqEvt i) &&& ~~~4#32)
        if 4 ≤ i then s
        else upto 32 s fun p s =>
          if bit (forceOf s R.timeNotify) p then setHnq s p { hnqOf s p with q := qUnpush 256 (hnqOf s p).q fun x => x == hnqItem 2 0x03 0x21 i } else s

/-- The words of an entry (R183, R189). -/
def stampWords (i : Nat) (e : Stamp) : Word × List Word :=
  let ns := e.at_ / 256
  if i < 4 then
    (word (2 ^ 31 + e.id % 65536 * 256 + e.at_ % 256), [word (nsOf ns), word (secOf ns), word (secOf ns / 2 ^ 32 % 65536)])
  else
    (word (2 ^ 31 + b2n e.rise 30 + nsOf ns), [word (secOf ns), word (e.id % 16 * 65536 + secOf ns / 2 ^ 32 % 65536)])

/-- A read of a queue's POP0 (R183, R189). -/
def tqPop (s : State) (i : Nat) : State :=
  let s := tqCheck s i
  let x := stampQ s i
  match x.q.items with
  | [] => setBus (setEvt (setStampQ s i { x with latch := [] }) (tqEvt i) 3) 0#32
  | e :: _ =>
    let w := stampWords i e
    setBus (tqSide (tqRegain (setStampQ s i { x with q := qPop (tqCap i) x.q, latch := w.2 }) i) i) w.1

/-- FLUSH (R185). A stamp written in the same BUS cycle enters the emptied queue (R194). -/
def tqFlush (s : State) (i : Nat) : State :=
  let s := tqCheck s i
  let x := stampQ s i
  let keep := x.q.items.filter (putNow s)
  let s := bump s (tqCnt i) 15 0 (x.q.items.length - keep.length)
  let r := (x.q.wr + (tqCap i - keep.length % tqCap i)) % tqCap i
  tqSide (setStampQ s i { x with q := { x.q with items := keep, rd := r, rdC := r }, latch := [] }) i

/-- TXQ_POP0 (R183). -/
def execTxqPop0 (a : Acc) (m : Fin 4) (s : State) : Host.Outcome State Fault Refusal :=
  .next (regAccess s a (R.txqPop0 m.val) false fun s => tqPop s m.val)

/-- TXQ_FLUSH (R185). -/
def execTxqFlush (a : Acc) (m : Fin 4) (s : State) : Host.Outcome State Fault Refusal :=
  .next (regAccess s a (R.txqCtrl m.val) true fun s => tqFlush s m.val)

/-- BIQ_POP0 (R189). -/
def execBiqPop0 (a : Acc) (s : State) : Host.Outcome State Fault Refusal :=
  .next (regAccess s a R.biqPop0 false fun s => tqPop s 4)

/-- BIQ_FLUSH (R189). -/
def execBiqFlush (a : Acc) (s : State) : Host.Outcome State Fault Refusal :=
  .next (regAccess s a R.biqCtrl true fun s => tqFlush s 4)

/-! ### Binary inputs -/

def pinOf (s : State) (i : Nat) : BiPin := mget {} s.bi.pins i
def setPin (s : State) (i : Nat) (x : BiPin) : State := { s with bi := { s.bi with pins := mset {} s.bi.pins i x } }

/-- The filter time of an input in ns (R188). -/
def biFilterNs (s : State) (i : Nat) : Nat := fld (forceOf s (R.biFilter (i / 4))) (8 * (i % 4) + 7) (8 * (i % 4)) * 1000

/-- An edge is recorded in the word of the tick in progress; from the instant of the next meridian on, in that of the tick after it
(R190, R194). -/
def biMark (s : State) (i : Nat) : State :=
  let b := word (2 ^ i)
  if s.time.tickRun ∧ nextMer s ≤ s.ltc then { s with bi := { s.bi with nextEdges := s.bi.nextEdges ||| b } }
  else { s with bi := { s.bi with edges := s.bi.edges ||| b } }

/-- The filter time of an input's edge ends: the edge is recorded (R188, R190), queued where enabled, offered to the DRC
(R486), and fires its event tasks (R379). -/
def biRecord (s : State) (i : Nat) : State :=
  let x := pinOf s i
  match x.wait with
  | none => s
  | some (t, due) =>
    let s := reach s due
    let v := x.raw
    let s := biMark (setPin s i { x with level := v, wait := none }) i
    let s := if bit (forceOf s R.biEdgeEn) (if v then i else 16 + i) then tqPut s 4 { id := i, rise := v, at_ := t * 256 } else s
    let s := fireEvent s 2 i (some v) none
    if bit (forceOf s R.drcBiTrig) i then drcTrigger s 3 i t (tickAt s t) else s

/-- BI_PIN_EDGE (R188): input `i` changes to `v`, `ns` after this BUS edge. A level that returns within the filter time records
neither edge. -/
def execBiPinEdge (i : Fin 16) (v : Bool) (ns : Fin 4) (s : State) : Host.Outcome State Fault Refusal :=
  .next (
    let s := match (pinOf s i.val).wait with
      | some (_, due) => if due ≤ s.now then biRecord s i.val else s
      | none => s
    let x := pinOf s i.val
    if v = x.raw then s
    else if x.wait.isSome then setPin s i.val { x with raw := v, wait := none }
    else setPin s i.val { x with raw := v, wait := some (s.ltc + ns.val, s.now + biFilterNs s i.val) })

/-- BI_EDGE_RECORD (R188). -/
def execBiEdgeRecord (i : Fin 16) (s : State) : Host.Outcome State Fault Refusal := .next (biRecord s i.val)

/-- BI_STATE. -/
def biState (s : State) : Word := word ((List.range 16).foldl (fun n i => n + b2n (pinOf s i).level i) 0)

/-- BI_WORD_WRITE (R190): TIME's DMA writes the word of the tick that has ended. -/
def biWordWrite (s : State) : State :=
  let w := biState s ||| (s.bi.edges <<< 16)
  let s := { s with bi := { s.bi with edges := s.bi.nextEdges, nextEdges := 0#32 } }
  let m := forceOf s R.biMirror
  if !bit m 0 then s else dmaWrite s 3 (dmaTag s 3 none) (fld m 31 2 * 4) (leBytes 4 w.toNat)

/-! ### The tick generator -/

/-- TICK_ENABLE (R191): the generator starts at the next second boundary of the LTC. -/
def execTickEnable (a : Acc) (s : State) : Host.Outcome State Fault Refusal :=
  .next (regAccess s a R.timeTickCtrl true fun s =>
    let s := setShadow s R.timeTickCtrl 1#32
    if s.time.startPend.isSome || (s.time.tickRun && !s.time.stopPend) then s
    else { s with time := { s.time with startPend := some ((secOf s.ltc + 1) * 1000000000) } })

/-- TICK_DISABLE (R192). -/
def execTickDisable (a : Acc) (s : State) : Host.Outcome State Fault Refusal :=
  .next (regAccess s a R.timeTickCtrl true fun s =>
    if forceOf s R.partEn ≠ 0#32 then werr s 3 0x44
    else
      let s := setShadow s R.timeTickCtrl 0#32
      { s with time := { s.time with startPend := none, stopPend := s.time.tickRun } })

/-- TIME_NOW_READ (R196). -/
def execTimeNowRead (a : Acc) (s : State) : Host.Outcome State Fault Refusal :=
  .next (regAccess s a R.timeNowNs false fun s =>
    setBus { s with bi := { s.bi with nowSec := secOf s.ltc } } (word (nsOf s.ltc)))

/-! ### Registers computed from the state (R196) -/

/-- A signed number as a word, saturating (R196). -/
def satWord (n : Int) : Word := BitVec.ofInt 32 (max (-(2 ^ 31)) (min (2 ^ 31 - 1) n))

/-- TIME_STAT. -/
def timeStat (s : State) : Word :=
  let t := s.time
  word (b2n t.realign 12 + b2n t.tickRun 11 + b2n t.acquired 10 + b2n t.slewing 9 + b2n t.holdAt.isSome 8 + t.sync * 16 + t.lodestar % 8)

def domCode : DomState → Nat
  | .disabled => 0 | .listening => 1 | .acquiring => 2 | .locked => 3

/-- A register of domain `d` (R196). -/
def readDom (s : State) (d o : Nat) : Word :=
  let s := slewPull s
  let m := domMaster s d
  let x := domOf s d
  match o with
  | 0x08 => word ((m.map (·.acc.toNat)).getD 0 * 65536 + (m.map (·.cls.toNat)).getD 0 * 256 + b2n x.act 5 + b2n (isFar s d) 4 + b2n (eligible s d) 3 + domCode x.st)
  | 0x0C => satWord ((srcOff s d).getD 0 / 256)
  | 0x10 => satWord x.rate
  | 0x14 => ((m.map (·.gm)).getD 0#64).setWidth 32
  | 0x18 => (((m.map (·.gm)).getD 0#64) >>> 32).setWidth 32
  | 0x1C => (m.bind (·.tti)).getD 0xFFFFFFFF#32
  | _ => match m with
    | some a => word (b2n a.leap59 18 + b2n a.leap61 17 + b2n a.utcValid 16 + a.utc.toNat)
    | none => 0#32

/-- The RO registers of TIME at offset `o`. -/
def readTime (s : State) (o : Nat) : Option Word :=
  let qs := fun i k => ((stampQ s i).latch[k]?).getD 0#32
  if o = 0x0C then some (timeStat (slewPull s))
  else if o = 0x20 then some (word (nsOf s.ltc))
  else if o = 0x24 then some (word s.bi.nowSec)
  else if o = 0x28 then some (word (s.bi.nowSec / 2 ^ 32 % 65536))
  else if o = 0x30 then some (word (s.time.utc % 65536))
  else if o = 0x48 then some (word (s.time.tickSec % 65536 * 65536 + s.time.tick))
  else if o = 0x84 then some (word (b2n (isFar s 2) 5 + b2n s.irig.locked 4 + s.irig.code % 8))
  else if o = 0x98 then some (liveOf s R.timePpsStat ||| word (b2n (isFar s 3) 1 + b2n s.pps.locked 0))
  else if 0x100 ≤ o ∧ o < 0x180 then
    (if 8 ≤ o % 0x40 ∧ o % 0x40 ≤ 0x20 then some (readDom s ((o - 0x100) / 0x40) (o % 0x40)) else none)
  else if 0x200 ≤ o ∧ o < 0x300 then
    let m := (o - 0x200) / 0x40
    match o % 0x40 with
    | 0x0C => some (BitVec.ofInt 32 ((pdOf s m).meas.getD 0))
    | 0x14 => some (qs m 0)
    | 0x18 => some (qs m 1)
    | 0x1C => some (qs m 2)
    | 0x20 => some (word (b2n (stampQ s m).side 8 + (stampQ s m).q.items.length))
    | _ => none
  else if o = 0x400 then some (biState s)
  else if o = 0x424 then some (qs 4 0)
  else if o = 0x428 then some (qs 4 1)
  else if o = 0x430 then some (word (b2n (stampQ s 4).side 12 + (stampQ s 4).q.items.length))
  else none

end Sys2Proof.Machine
end

