-- ==== Sys2Proof/Machine/Cmd.lean ====
section
/-! DEFINITION. Lane mastership (R421); the field bus's command queue TQ0 (R457, R458, R461); the CMD: orders (R439), their
evaluation (R440), execution and results (R441-R444). -/

namespace Sys2Proof.Machine

/-- The module is lane master (R421, R541, R575): in OPERATIONAL, as the holder, from tCLAIM after a claim on. -/
def laneMaster (s : State) : Bool :=
  s.trust.ready && !s.pwr.released && !s.diag.frozen &&
    (match s.trust.lc with
      | .provisioned => true
      | .operational => decide (s.mir.role = .holder) && (match s.mir.masterAt with | some t => decide (t ≤ s.now) | none => true)
      | _ => false)

/-! ### TQ0 -/

def fbcOf (s : State) (m : Nat) : FbcSt := if m = 0 then s.fbc0 else s.fbc1
def setFbc (s : State) (m : Nat) (f : FbcSt) : State := if m = 0 then { s with fbc0 := f } else { s with fbc1 := f }

/-- FBC_CTRL.EN has been accepted and the bus is neither off nor silent to TQ0 (R455, R461). -/
def tq0Open (s : State) (m : Nat) : Bool :=
  let f := fbcOf s m
  f.on && f.fc != .busOff && f.fc != .recovering && !bit (shadowOf s (R.fbcCfg m)) 2

/-- A failure of TQ0 counted in field `hi..lo` of TQ0_CNT (R461). -/
def tq0Fail (s : State) (m hi lo : Nat) : State := setEvt (bump s (R.tq0Cnt m) hi lo 1) (R.fbcEvt m) 1

/-- A message for TQ0: taken, or failed at once (R461). -/
def tq0Put (s : State) (m : Nat) (x : Tq0Msg) : State × Bool :=
  if tq0Open s m && decide ((fbcOf s m).tq0.items.length < 16) then
    (setFbc s m { fbcOf s m with tq0 := qPush 16 (fbcOf s m).tq0 x }, true)
  else (tq0Fail s m 4 0, false)

/-- The identifier of a Ledema message (R457). -/
def ledemaId (cls dest src sub : Nat) : Nat := cls * 2 ^ 25 + dest % 256 * 2 ^ 17 + src % 256 * 2 ^ 9 + sub % 512

/-- OWN_ADDR. -/
def ownAddr (s : State) (m : Nat) : Nat := fld (shadowOf s (R.fbcCfg m)) 31 24

/-- An 8-byte command-class message (R458). -/
def ledemaMsg (id b0 : Nat) (rest : List Nat) : CanMsg :=
  { fdf := true, brs := true, ide := true, id := id,
    data := (b0 :: (255 - b0 % 256) :: rest).map (BitVec.ofNat 8) }

/-! ### Results -/

def objOf (s : State) (o : Nat) : CmdObj := mget {} s.cmd.objs o
def setObj (s : State) (o : Nat) (x : CmdObj) : State := { s with cmd := { s.cmd with objs := mset {} s.cmd.objs o x } }

/-- PHASE of an object: 0 IDLE, 1 SELECTED, 2 EXECUTING, 3 BLOCKED. -/
def objPhase (x : CmdObj) : Nat := fld (guardedVal x.st) 31 30
/-- The command state of a phase, rank, value and selection holder (R443). -/
def objSt (ph rank : Nat) (v : Bool) (orig : Nat) : DWord :=
  guarded (word (ph * 2 ^ 30 + rank % 8 * 2 ^ 27 + b2n v 26 + orig % 256 * 2 ^ 16))
/-- An object in IDLE without a selection. -/
def objIdle : CmdObj := {}

/-- The response queue is emptied (R444). -/
def resPtrReset (s : State) : State :=
  let s := ptrSum (setEvt { s with cmd := { s.cmd with res := {} } } R.cmdEvt 5) 0x10
  let s := almPost s 1 0x10 0x01 none []
  notifyAll s (forceOf s R.cmdNotify) 0 0x10 0x01 0

/-- A response of rank 5 or 6 joins the queue of 256 (R444). -/
def resPush (s : State) (w : Word) : State :=
  let s := if qOk s.cmd.res then s else resPtrReset s
  if s.cmd.res.items.length < 256 then setEvt { s with cmd := { s.cmd with res := qPush 256 s.cmd.res w } } R.cmdEvt 0
  else setEvt (bump s R.cmdResLost 15 0 1) R.cmdEvt 4

/-- CO_CNT of a cause (R442, R451); an executed order is counted when it executes. -/
def countCause (s : State) (o cause : Nat) : State :=
  match cause with
  | 0 => s
  | 13 => s
  | 1 => bump s (R.coCnt o) 23 16 1
  | 2 => bump s (R.coCnt o) 15 8 1
  | _ => bump s (R.coCnt o) 7 0 1

/-- A result (R442): CO_RESULT, CO_CNT, the response queue for ranks 5 and 6, an LC_RESULT for rank 4 (R460), the
notifications of FIELD_BUS_FAIL and TIMEOUT (R446). -/
def cmdResult (s : State) (d : Order) (cause : Nat) : State :=
  let low := if d.rank ≤ 3 then 0 else d.orig % 256 * 2 ^ 16 + d.ctl % 256 * 2 ^ 8
  let s := setLive s (R.coResult d.obj) (word (d.rank % 8 * 2 ^ 28 + cause * 2 ^ 24 + low))
  let s := countCause s d.obj cause
  let s := if cause = 7 then setLive s R.cmdCntNa (word (satAdd 0xFFFFFFFF (liveOf s R.cmdCntNa).toNat 1)) else s
  let s := if cause = 8 then
      notifyAll (almPost (setEvt s R.cmdEvt 2) 2 0x10 0x12 none [word d.obj]) (forceOf s R.cmdNotify) 1 0x10 0x12 d.obj
    else if cause = 9 then
      notifyAll (almPost s 2 0x10 0x13 none [word d.obj]) (forceOf s R.cmdNotify) 1 0x10 0x13 d.obj
    else s
  if d.rank = 5 ∨ d.rank = 6 then
    resPush s (word (2 ^ 31 + d.rank * 2 ^ 28 + cause * 2 ^ 24 + d.orig % 256 * 2 ^ 16 + d.ctl % 256 * 2 ^ 8 + d.obj % 256))
  else if d.rank = 4 ∧ d.action ≤ 2 ∧ (cause ≠ 7 ∨ s.mir.role ≠ .standby) then
    (tq0Put s d.bus { msg := ledemaMsg (ledemaId 1 d.src (ownAddr s d.bus) d.obj) cause [d.obj, d.orig, d.ctl, 0, 0, 0],
                      order := none }).1
  else s

/-! ### Orders -/

/-- An order reaches the CMD and belongs to the tick in progress (R440). -/
def cmdOrder (s : State) (d : Order) : State := { s with cmd := { s.cmd with orders := s.cmd.orders ++ [d] } }

/-- The objects whose order-flag register at offset `off` names flag `f` (R451), with the value each orders. -/
def flagOrders (s : State) (off rank f : Nat) : List Order :=
  (s.force.filter fun e => blockOf e.1 == 0x10 && decide (0x1000 ≤ offsetOf e.1) && offsetOf e.1 % 0x40 == off).flatMap
    fun e =>
      let o := (offsetOf e.1 - 0x1000) / 0x40
      (if bit e.2 31 && fld e.2 27 16 == f then [{ obj := o, rank := rank, action := 1, val := false : Order }] else []) ++
      (if bit e.2 15 && fld e.2 11 0 == f then [{ obj := o, rank := rank, action := 1, val := true : Order }] else [])

/-- A flag changed to operate: orders of ranks 1 and 2 (R439). -/
def cmdFlag (s : State) (f : Nat) : State :=
  (flagOrders s 0x08 1 f ++ flagOrders s 0x0C 2 f).foldl cmdOrder s

/-- CTL_MODEL of an object. -/
def ctlModel (s : State) (o : Nat) : Nat := fld (forceOf s (R.coCfg o)) 30 28

/-- Execution (R441): the running order of a rank 1 operate ends SUPERSEDED; the COMMAND goes to TQ0; under models 3 and 4 the
object is EXECUTING. -/
def cmdExecute (s : State) (d : Order) : State :=
  let cfg := forceOf s (R.coCfg d.obj)
  let m := fld cfg 27 27
  let s := match objPhase (objOf s d.obj), (objOf s d.obj).order with
    | 2, some r => cmdResult s r 15
    | _, _ => s
  let s := bump s (R.coCnt d.obj) 31 24 1
  let enh := ctlModel s d.obj = 3 ∨ ctlModel s d.obj = 4
  let s := if enh then
      setObj s d.obj { st := objSt 2 d.rank d.val 0, due := s.now + fld (forceOf s (R.coTmo d.obj)) 15 0 * 1000000, order := some d }
    else setObj s d.obj objIdle
  let sec := s.time.tickSec % 65536
  let r := tq0Put s m
    { msg := ledemaMsg (ledemaId 0 (fld cfg 23 16) (ownAddr s m) d.obj) (if d.val then 2 else 1)
        [d.obj, d.rank, sec % 256, sec / 256, s.time.tick % 256, s.time.tick / 256 % 256],
      order := some d }
  if r.2 then r.1 else cmdResult (setObj r.1 d.obj objIdle) d 8

/-- TQ0's report on an order (R441): `ok` when the message was sent. -/
def cmdReport (s : State) (d : Order) (ok : Bool) : State :=
  let x := objOf s d.obj
  if objPhase x = 2 ∧ x.order = some d then (if ok then s else cmdResult (setObj s d.obj objIdle) d 8)
  else if ctlModel s d.obj = 3 ∨ ctlModel s d.obj = 4 then s
  else cmdResult s d (if ok then 0 else 8)

/-- An object's guarded state fails its check (R443). -/
def objGuard (s : State) (o : Nat) : State :=
  let s := setEvt (guardFault (setObj s o { st := objSt 3 0 false 0 }) 0x10) R.cmdEvt 3
  let s := almPost s 1 0x10 0x11 none [word o]
  notifyAll s (forceOf s R.cmdNotify) 0 0x10 0x11 o

/-- The selection is held by the order's originator. -/
def holds (x : CmdObj) (d : Order) : Bool :=
  objPhase x == 1 && fld (guardedVal x.st) 29 27 == d.rank && fld (guardedVal x.st) 23 16 == d.orig % 256

/-- An order that no evaluation admits (R442). -/
def badRequest (s : State) (d : Order) : Bool :=
  !bit (forceOf s (R.coCfg d.obj)) 31 || decide (3 ≤ d.action) || (decide (d.rank ≤ 3) && d.action != 1)

/-- The interlock enable flag of an order's value is enabled and at reset (R440); `flag` reads a flag's state. -/
def interlocked (s : State) (flag : Nat → Bool) (d : Order) : Bool :=
  let e := forceOf s (R.coEna d.obj)
  if d.val then bit e 15 && !flag (fld e 11 0) else bit e 31 && !flag (fld e 27 16)

/-- Orders with their places, by rank and then arrival. -/
def byRank (l : List (Nat × Order)) : List (Nat × Order) :=
  (List.range 8).flatMap fun r => l.filter fun e => e.2.rank == r

/-- One select (R440): the object as it stands, whether a select has won, the results so far. -/
def evalSelect (s : State) (sbo : Bool) (acc : CmdObj × Bool × List (Nat × Order × Nat)) (e : Nat × Order) :
    CmdObj × Bool × List (Nat × Order × Nat) :=
  let (x, won, res) := acc
  if !sbo then (x, won, res ++ [(e.1, e.2, 11)])
  else if objPhase x = 1 || won then (x, won, res ++ [(e.1, e.2, 4)])
  else if objPhase x = 2 then (x, won, res ++ [(e.1, e.2, 6)])
  else
    ({ st := objSt 1 e.2.rank e.2.val e.2.orig,
       due := s.now + fld (forceOf s (R.coCfg e.2.obj)) 15 0 * 1000000, order := some e.2 }, true, res ++ [(e.1, e.2, 0)])

/-- One cancel (R440). -/
def evalCancel (acc : CmdObj × List (Nat × Order × Nat)) (e : Nat × Order) : CmdObj × List (Nat × Order × Nat) :=
  if holds acc.1 e.2 then (objIdle, acc.2 ++ [(e.1, e.2, 0)]) else (acc.1, acc.2 ++ [(e.1, e.2, 3)])

/-- What an evaluation gives: the object, the results with the places of their orders, the order that executes, whether the
highest rank was contradictory. -/
structure Verdict where
  obj : CmdObj
  res : List (Nat × Order × Nat)
  run : Option Order
  contra : Option Nat

/-- The evaluation of an object's orders by a live CMD (R440). -/
def evalOrders (s : State) (flag : Nat → Bool) (x : CmdObj) (ords : List (Nat × Order)) : Verdict :=
  let bad := ords.filter fun e => badRequest s e.2
  let ok := ords.filter fun e => !badRequest s e.2
  let sbo := match ords with | e :: _ => ctlModel s e.2.obj = 2 || ctlModel s e.2.obj = 4 | [] => false
  let res := bad.map fun e => (e.1, e.2, 11)
  let (x, res) := (ok.filter fun e => e.2.action == 2).foldl evalCancel (x, res)
  let (x, _, res) := (byRank (ok.filter fun e => e.2.action == 0)).foldl (evalSelect s sbo) (x, false, res)
  let ops := ok.filter fun e => e.2.action == 1
  let unsel := ops.filter fun e => decide (4 ≤ e.2.rank) && sbo && !holds x e.2
  let ops1 := ops.filter fun e => !(decide (4 ≤ e.2.rank) && sbo && !holds x e.2)
  let locked := ops1.filter fun e => decide (4 ≤ e.2.rank) && interlocked s flag e.2
  let ops2 := ops1.filter fun e => !(decide (4 ≤ e.2.rank) && interlocked s flag e.2)
  let busy := if objPhase x = 2 then ops2.filter fun e => decide (2 ≤ e.2.rank) else []
  let ops3 := if objPhase x = 2 then ops2.filter fun e => !decide (2 ≤ e.2.rank) else ops2
  let res := res ++ unsel.map (fun e => (e.1, e.2, 3)) ++ locked.map (fun e => (e.1, e.2, 5)) ++ busy.map fun e => (e.1, e.2, 6)
  let x := if ops.any fun e => holds x e.2 then objIdle else x
  let r := ops3.foldl (fun m e => min m e.2.rank) 7
  let top := ops3.filter fun e => e.2.rank == r
  let res := res ++ (ops3.filter fun e => e.2.rank != r).map fun e => (e.1, e.2, 1)
  if (top.any fun e => e.2.val) && (top.any fun e => !e.2.val) then
    { obj := x, res := res ++ top.map (fun e => (e.1, e.2, 2)), run := none, contra := some r }
  else
    match top with
    | [] => { obj := x, res := res, run := none, contra := none }
    | e :: t => { obj := x, res := res ++ t.map (fun e => (e.1, e.2, 12)), run := some e.2, contra := none }

/-- Results in the order of arrival of their orders (R442). -/
def byPlace (n : Nat) (l : List (Nat × Order × Nat)) : List (Order × Nat) :=
  (List.range n).flatMap fun i => (l.filter fun e => e.1 == i).map fun e => e.2

/-- The evaluation of one object (R440, R443). -/
def cmdEvalObj (flag : State → Nat → Bool) (live : Bool) (all : List (Nat × Order)) (o : Nat) (acc : State × List (Nat × Order × Nat) × List Order) :
    State × List (Nat × Order × Nat) × List Order :=
  let (s, res, run) := acc
  let ords := all.filter fun e => e.2.obj == o
  if ords.isEmpty && guardedOk (objOf s o).st then acc
  else if !guardedOk (objOf s o).st then (objGuard s o, res ++ ords.map (fun e => (e.1, e.2, 10)), run)
  else if objPhase (objOf s o) = 3 then (s, res ++ ords.map (fun e => (e.1, e.2, 10)), run)
  else if !live then (s, res ++ ords.map (fun e => (e.1, e.2, 7)), run)
  else
    let v := evalOrders s (flag s) (objOf s o) ords
    let s := setObj s o v.obj
    let s := match v.contra with
      | some r =>
        let s := almPost (setEvt s R.cmdEvt 1) 1 0x10 0x10 none [word (r * 256 + o)]
        notifyAll s (forceOf s R.cmdNotify) 0 0x10 0x10 (r * 256 + o)
      | none => s
    (s, res ++ v.res, run ++ v.run.toList)

/-- CMD_EVALUATE (R440): the orders of the ended tick, object by object; results in order of arrival, then the executions. -/
def cmdEvaluate (s : State) (live : Bool) (flag : State → Nat → Bool) : State :=
  let ords := s.cmd.orders
  let all := (List.range ords.length).zip ords
  let s := { s with cmd := { s.cmd with orders := [] } }
  let objs := (ords.map (·.obj) ++ s.cmd.objs.map (·.1)).foldl (fun l o => insNat o l) []
  let (s, res, run) := objs.foldl (fun acc o => cmdEvalObj flag live all o acc) (s, [], [])
  let s := (byPlace ords.length res).foldl (fun s r => cmdResult s r.1 r.2) s
  run.foldl cmdExecute s

/-- The order of a CMD_ORD write (R439, R451); a RANK other than 5 and 6 gives an order of no action, a BAD_REQUEST. -/
def mmsOrder (action rank : Nat) (val : Bool) (orig ctl o : Nat) : Order :=
  { obj := o, rank := rank, action := if rank = 5 ∨ rank = 6 then action else 3, val := val, orig := orig, ctl := ctl }

/-- CMD_SELECT, CMD_OPERATE, CMD_CANCEL (R439). -/
def execCmdSelect (a : Acc) (rank : Fin 8) (val : Bool) (orig ctl o : Fin 256) (s : State) : Host.Outcome State Fault Refusal :=
  .next (regAccess s a R.cmdOrd true fun s => cmdOrder s (mmsOrder 0 rank.val val orig.val ctl.val o.val))
def execCmdOperate (a : Acc) (rank : Fin 8) (val : Bool) (orig ctl o : Fin 256) (s : State) : Host.Outcome State Fault Refusal :=
  .next (regAccess s a R.cmdOrd true fun s => cmdOrder s (mmsOrder 1 rank.val val orig.val ctl.val o.val))
def execCmdCancel (a : Acc) (rank : Fin 8) (val : Bool) (orig ctl o : Fin 256) (s : State) : Host.Outcome State Fault Refusal :=
  .next (regAccess s a R.cmdOrd true fun s => cmdOrder s (mmsOrder 2 rank.val val orig.val ctl.val o.val))

/-- OPER_TIMEOUT of object `o` (R441). -/
def execOperTimeout (o : Fin 256) (s : State) : Host.Outcome State Fault Refusal :=
  .next (match objPhase (objOf s o.val), (objOf s o.val).order with
    | 2, some d =>
      let s := reach s (objOf s o.val).due
      cmdResult (setObj s o.val objIdle) d 9
    | _, _ => s)

/-- SELECT_TIMEOUT of object `o` (R440): SELECT_EXPIRED to the originator. A meridian at or before the time-out evaluates the
tick's orders first, the selection still held (R445). -/
def execSelectTimeout (o : Fin 256) (s : State) : Host.Outcome State Fault Refusal :=
  .next (match objPhase (objOf s o.val), (objOf s o.val).order with
    | 1, some d =>
      if s.time.tickRun ∧ nextMer s ≤ s.ltc + ((objOf s o.val).due - s.now) then s
      else
        let s := reach s (objOf s o.val).due
        cmdResult (setObj s o.val objIdle) d 14
    | _, _ => s)

/-- The Dbpos that an order's value is reached at: off (01) for open, on (10) for close. -/
def posOf (v : Bool) : Nat := if v then 2 else 1

/-- CO_POS_WRITE (R441). -/
def execCoPosWrite (a : Acc) (o : Fin 256) (pos : Fin 4) (s : State) : Host.Outcome State Fault Refusal :=
  .next (regAccess s a (R.coPos o.val) true fun s =>
    let s := setShadow s (R.coPos o.val) (word pos.val)
    match objPhase (objOf s o.val), (objOf s o.val).order with
    | 2, some d => if pos.val = posOf d.val then cmdResult (setObj s o.val objIdle) d 13 else s
    | _, _ => s)

/-- OBJ_RESET (R443): a BLOCKED object returns to IDLE without a selection. -/
def execObjReset (a : Acc) (o : Fin 256) (s : State) : Host.Outcome State Fault Refusal :=
  .next (regAccess s a R.cmdCtrl true fun s =>
    if guardedOk (objOf s o.val).st then (if objPhase (objOf s o.val) = 3 then setObj s o.val objIdle else s)
    else setObj (objGuard s o.val) o.val objIdle)

/-- CMD_RES_POP (R444). -/
def execCmdResPop (a : Acc) (s : State) : Host.Outcome State Fault Refusal :=
  .next (regAccess s a R.cmdResPop false fun s =>
    let s := if qOk s.cmd.res then s else resPtrReset s
    match s.cmd.res.items with
    | [] => setBus s 0#32
    | w :: _ => setBus { s with cmd := { s.cmd with res := qPop 256 s.cmd.res } } w)

/-! ### The check of a CMD set (R44, R439, R451) -/

/-- The check of a CMD set: cause and offset. -/
def checkCmd (ps : PendSet) : Option (Nat × Nat) :=
  (List.range 256).findSome? fun o =>
    let w := pendVal ps.vals (R.coCfg o)
    if !bit w 31 then none
    else if fld w 30 28 = 0 ∨ 4 < fld w 30 28 ∨ fld w 15 0 < 1000 then some (3, R.coCfg o % 0x10000)
    else if fld (pendVal ps.vals (R.coTmo o)) 15 0 < 100 then some (3, R.coTmo o % 0x10000)
    else none

end Sys2Proof.Machine
end

