-- ==== Sys2Proof/Machine/Gse.lean ====
section
/-! DEFINITION. GOOSE publication: the descriptor block (R427), events and first frames (R428), retransmission (R429, R431)
and the frame queue (R447). -/

namespace Sys2Proof.Machine

def pubOf (s : State) (p : Nat) : GPub := mget {} s.gse.pubs p
def setPub (s : State) (p : Nat) (g : GPub) : State := { s with gse := { s.gse with pubs := mset {} s.gse.pubs p g } }

/-- The flag state every consumer sees (R415). -/
def flagState (s : State) (f : Nat) : Bool :=
  match mget none s.tmx.forced f with
  | some v => v
  | none => mget false s.tmx.flags f

/-- A flag that leaves operate, seen by the freezes that follow it (R273): the tail of a freeze begins, but of one that was ended by
FRZ_MAX none is left. -/
def flagReset (s : State) (f : Nat) : State :=
  upto 256 s fun g s =>
    let x : AgSt := mget {} s.sca.ags g
    if fld (forceOf s (R.scaAgFrz g)) 27 16 ≠ f ∨ !bit (forceOf s (R.scaAgFrz g)) 30 then s
    else { s with sca := { s.sca with ags := mset {} s.sca.ags g { x with flagOff := if x.frzStop then none else some 0, frzStop := false } } }

/-- The tag of the GSE's accesses for an owner (R140). -/
def gseTag (s : State) (own : Option Nat) : Tag := dmaTag s 15 own

/-- A word the GSE reads for an owner; a refused read returns 0 and sets SRC_REFUSED (R155, R437). -/
def gseRead (s : State) (own : Option Nat) (a : Nat) : Word × State :=
  let r := dmaAccess s 15 (gseTag s own) false a 4
  if r.2.isSome then (0#32, setEvt r.1 R.gseEvt 6) else (rd32 r.1 a, r.1)

/-- The ports of a PAIR code (R431). -/
def pairPorts : Nat → List Nat
  | 0 => [2, 3] | 1 => [0, 1] | 2 => [0, 1, 2, 3] | _ => []

/-- The publication sends nothing for want of the lease (R431), or at all while the dump freeze holds (R575). -/
def gpHeld (s : State) (p : Nat) : Bool :=
  (bit (forceOf s (R.gpCfg p)) 30 && !laneMaster s) || s.diag.frozen

/-- The value of member word `w` (R427); `prev` is the member's value before, kept for what only a meridian reads, and `ts`
the time of the last change of the member before it. -/
def memberVal (s : State) (own : Option Nat) (mer : Bool) (w : Word) (prev : Word × Word) (ts : Nat) : (Word × Word) × State :=
  match fld w 31 28 with
  | 1 => ((word (b2n (flagState s (fld w 11 0)) 0), 0#32), s)
  | 7 => ((word (nsOf ts), word (secOf ts)), s)
  | 8 => if mer then ((word (fld (shadowOf s (R.coPos (fld w 7 0))) 1 0), 0#32), s) else (prev, s)
  | k =>
    if !mer then (prev, s)
    else
      let r := gseRead s own (0x80000000 + fld w 23 0)
      let v := if k = 5 then r.1 &&& 3#32 else if k = 6 then r.1 &&& 0x3FFF#32 else if k = 2 then word (b2n (r.1 ≠ 0#32) 0) else r.1
      ((v, 0#32), r.2)

/-- The values of all members at instant `t`, the times of change, and whether any differs from the value before. -/
def memberVals (s : State) (own : Option Nat) (mer : Bool) (g : GPub) (t : Nat) : List (Word × Word) × List (Nat × Nat) × Bool × State :=
  (List.range g.members.length).foldl (fun (vs, ch, d, s) m =>
    let w := (g.members[m]?).getD 0#32
    let prev := (g.vals[m]?).getD (0#32, 0#32)
    let r := memberVal s own mer w prev (mget 0 ch (m - 1))
    let dif := fld w 31 28 ≠ 7 ∧ r.1 ≠ prev
    (vs ++ [r.1], if dif then mset 0 ch m t else ch, d || decide dif, r.2)) ([], g.changed, false, s)

/-- stNum and sqNum advance (R428, R429): 0xFFFF_FFFF is followed by 1. -/
def nextNum (n : Word) : Word := if n = 0xFFFFFFFF#32 then 1#32 else n + 1

/-- Twice an interval in ns, rounded up to ms (R429). -/
def talOf (iv : Nat) : Nat := (2 * iv + 999999) / 1000000

/-- The interval after `iv` (R429). -/
def nextIv (s : State) (p iv : Nat) : Nat := min (2 * iv) (fld (forceOf s (R.gpTiming p)) 15 0 * 1000000)

/-- The TimeQuality of a frame (R429): LeapSecondsKnown, ClockNotSynchronized, TimeAccuracy. -/
def timeQuality (s : State) : Nat :=
  0x80 + (match s.time.sync with | 2 => 20 | 1 => 10 | _ => 0x20 + 31)

/-- GSE_PTR_RESET of publication `p` (R447). -/
def gsePtrReset (s : State) (p : Nat) : State :=
  let s := ptrSum (setEvt (setPub s p { pubOf s p with q := {} }) R.gseEvt 7) 0x0F
  postOwner (almPost s 1 0x0F 0x01 (ownerOf s 6 p) [word p]) (ownerOf s 6 p) 0 0x0F 0x01 p

/-- A name of a descriptor block (R427). -/
def nameAt (names : List Byte) (o : Nat) : List Byte := bytesAt names (o + 1) (beAt names o 1)

/-- The frame of publication `p` as it stands (R426, R428-R431, R436); the port puts its source address in (log 194). -/
def gpFrame (s : State) (p : Nat) : EthFrame :=
  let g := pubOf s p
  let cfg := forceOf s (R.gpCfg p)
  let tag := forceOf s (R.gpTag p)
  let q := timeQuality s
  let h : GooseHead := { ref := nameAt g.names 0, datSet := nameAt g.names 0x84, goId := nameAt g.names 0x108, confRev := forceOf s (R.gpConfrev p) }
  let ms := (List.range g.members.length).map fun i =>
    memberBytes (bit cfg 28) s.time.utc q (fld ((g.members[i]?).getD 0#32) 31 28) ((g.vals[i]?).getD (0#32, 0#32))
  let apdu := goosePduBytes h (talOf g.iv) (utcBytes (secOf g.t - s.time.utc) (nsOf g.t) q) g.stNum g.sqNum (bit cfg 29) ms
  let k := fld cfg 12 8
  frameOf ((forceOf s (R.gpDaLo p)).toNat + fld (forceOf s (R.gpDaHi p)) 15 0 * 2 ^ 32) 0 (some (fld tag 15 0)) 0x88B8
    (pduBytes (fld tag 31 16) (bit cfg 29) apdu (if bit cfg 24 then some (signBy s 1 k (forceOf s (R.gseKeyId k))) else none))

/-- A frame of the present state joins the queue of 8 (R428, R447); a full queue gives up its newest frame. -/
def gpSend (s : State) (p : Nat) : State :=
  if gpHeld s p then s
  else
    let s := if qOk (pubOf s p).q then s else gsePtrReset s p
    let g := pubOf s p
    let cfg := forceOf s (R.gpCfg p)
    let f : GooseFrame := { pub := p, order := s.gse.order, ports := pairPorts (fld cfg 27 26), len := g.len, stNum := g.stNum, sqNum := g.sqNum, tSec := secOf g.t - s.time.utc, tNs := nsOf g.t, tal := talOf g.iv, quality := timeQuality s, sim := bit cfg 29, vals := g.vals, frame := gpFrame s p }
    let s := bump { s with gse := { s.gse with order := s.gse.order + 1 } } (R.gpCnt p) 31 16 1
    if g.q.items.length < 8 then setPub s p { g with q := qPush 8 g.q f }
    else
      let s := bump s (R.gpCnt p) 7 0 1
      let s := if evt s R.gseEvt 5 then s else postOwner s (ownerOf s 6 p) 2 0x0F 0x20 p
      setEvt (setPub s p { g with q := { g.q with items := g.q.items.dropLast ++ [f] } }) R.gseEvt 5

/-- GOOSE_EVENT (R428) with the values already taken: numbers, time, first frame, the retransmission sequence. -/
def gpEvent (s : State) (p : Nat) (vals : List (Word × Word)) (ch : List (Nat × Nat)) (t : Nat) : State :=
  let g := pubOf s p
  let iv := fld (forceOf s (R.gpTiming p)) 31 16 * 1000
  let s := setPub s p { g with
    vals := vals, changed := ch, sent := true, flagPend := false, stNum := nextNum g.stNum, sqNum := 0#32, t := t
    iv := iv, due := s.now + iv }
  gpSend (bump s (R.gpCnt p) 15 8 1) p

/-- A flag of a publication changed (R428): an event at once with TRIG, at the next meridian without. -/
def gpFlag (s : State) (f p : Nat) : State :=
  let g := pubOf s p
  if g.on && g.members.any fun w => fld w 31 28 == 1 && fld w 11 0 == f then
    if bit (forceOf s (R.gpCfg p)) 25 then
      let r := memberVals s (ownerOf s 6 p) false g s.ltc
      gpEvent r.2.2.2 p r.1 r.2.1 s.ltc
    else setPub s p { g with flagPend := true }
  else s

/-- The publications of a flag, in ascending number (R432). -/
def gseFlag (s : State) (f : Nat) : State := (s.gse.pubs.map (·.1)).foldl (fun s p => gpFlag s f p) s

/-- The members read after a meridian (R428): an event when a value differs from the one last sent, or a flag changed. -/
def gpMeridian (s : State) (p : Nat) : State :=
  let g := pubOf s p
  if g.on then
    let r := memberVals s (ownerOf s 6 p) true g s.ltc
    if r.2.2.1 || g.flagPend || !g.sent then gpEvent r.2.2.2 p r.1 r.2.1 s.ltc else r.2.2.2
  else s
def gseMeridian (s : State) : State := (s.gse.pubs.map (·.1)).foldl gpMeridian s

/-- A member entry that R427 admits; the first is at member 0. -/
def memberOk (m : Nat) (w : Word) : Bool :=
  fld w 27 24 == 0 && (match fld w 31 28 with
    | 1 => fld w 23 12 == 0
    | 7 => m != 0 && fld w 23 0 == 0
    | 8 => fld w 23 8 == 0
    | k => decide (2 ≤ k) && decide (k ≤ 6) && fld w 23 0 % 4 == 0)

/-- GOOSE_DESC_READ (R427): the block is read with the owner's PID when the commit enters force. -/
def gpDescRead (s : State) (p : Nat) : State :=
  let cfg := forceOf s (R.gpCfg p)
  if !bit cfg 31 then (if (pubOf s p).on then setPub s p { pubOf s p with on := false, q := {} } else s)
  else
    let a := (forceOf s (R.gpRef p)).toNat
    let own := ownerOf s 6 p
    let n := fld cfg 22 16
    let r := dmaAccess s 15 (gseTag s own) false a 656
    let s := r.1
    let ms := (List.range n).map fun m => rd32 s (a + 0x190 + 4 * m)
    let lens := [rdByte s a, rdByte s (a + 0x84), rdByte s (a + 0x108)]
    let bad := ((List.range n).zip ms).any (fun e => !memberOk e.1 e.2) || lens.any fun b => b == 0#8 || decide (129 < b.toNat)
    if r.2.isSome || bad then setEvt (setPub s p { pubOf s p with on := false }) R.gseEvt 6
    else
      let names := rdBytes s a 0x18C
      let g := pubOf s p
      let keep := g.on && g.members == ms && g.names == names
      let g := if keep then g else { g with vals := [], changed := [], sent := g.sent && keep }
      let s := setPub s p { g with on := true, names := names, members := ms }
      setPub s p { pubOf s p with len := (frameBytes (gpFrame s p) false).length }

/-- GOOSE_RETRANSMIT of publication `p` (R429, R431, R433): the same state again, sqNum advanced; the next interval doubles up to
MAX_T. A held publication sends nothing. -/
def execGooseRetransmit (p : Fin 256) (s : State) : Host.Outcome State Fault Refusal :=
  .next (
    let g := pubOf s p.val
    if g.on && g.sent then
      let s := reach s g.due
      let iv := nextIv s p.val g.iv
      if gpHeld s p.val then setPub s p.val { g with due := s.now + iv }
      else gpSend (setPub s p.val { g with sqNum := nextNum g.sqNum, iv := iv, due := s.now + iv }) p.val
    else s)

end Sys2Proof.Machine
end

