-- ==== Sys2Proof/Machine/Mac.lean ====
section
/-! DEFINITION. The network ports: link and cage (R198, R199), reception, filter rules and receive rings (R201-R214), PRP and
HSR (R215-R219), transmission (R220-R223), MGT (R200). MAC number 4 is MGT. -/

namespace Sys2Proof.Machine

def macOf (s : State) (m : Nat) : MacSt := mget {} s.net.macs m
def setMac (s : State) (m : Nat) (x : MacSt) : State := { s with net := { s.net with macs := mset {} s.net.macs m x } }

/-- MAC_CTRL.EN. -/
def macOn (s : State) (m : Nat) : Bool := bit (shadowOf s (R.macCtrl m)) 0
/-- MAXLEN (R202). -/
def maxLen (s : State) (m : Nat) : Nat := fld (shadowOf s (R.macCfg m)) 10 0
/-- A counter of a port (R228). -/
def macCount (s : State) (m i : Nat) : State :=
  setLive s (R.macCnt m i) (word (satAdd 0xFFFFFFFF (liveOf s (R.macCnt m i)).toNat 1))

/-- A notification of a port (R225). -/
def macNote (s : State) (m cls code info : Nat) : State := notifyAll s (forceOf s (R.macNotify m)) cls (4 + m) code info

/-! ### Link and cage -/

/-- The rate of a port's link is the lower one: 10GBASE-R, or 100BASE-TX of MGT. -/
def portSlow (s : State) (m : Nat) : Bool := if m = 4 then (macOf s m).slow else bit (shadowOf s (R.macCfg m)) 16

/-- LINK follows its conditions (R198, R225). -/
def linkUpdate (s : State) (m : Nat) : State :=
  let x := macOf s m
  let v := x.blockLock && (x.fecLock || fld (shadowOf s (R.macCfg m)) 25 24 == 0) && !x.localFault && !x.remoteFault
  if v = x.link then s
  else
    let s := setMac s m { x with link := v, upAt := if v then s.now else x.upAt, downAt := if v then x.downAt else s.now }
    let c := if v then 0x11 else 0x10
    let i := b2n (v && portSlow s m) 0
    macNote (almPost (setEvt s (R.macEvt m) (if v then 0 else 1)) 2 (4 + m) c none [word i]) m (if v then 2 else 1) c i

/-- LINK_UP (R198): the port gains what it lacked; `slow` is the rate of MGT's link. -/
def execLinkUp (m : Fin 5) (slow : Bool) (s : State) : Host.Outcome State Fault Refusal :=
  .next (linkUpdate (setMac s m.val { macOf s m.val with
    blockLock := true, fecLock := true, localFault := false, remoteFault := false, rxLos := false, slow := slow }) m.val)

/-- LINK_DOWN (R198): the condition lost (0 block lock, 1 FEC lock, 2 local fault, 3 remote fault), and RX_LOS. -/
def execLinkDown (m : Fin 5) (why : Fin 4) (los : Bool) (s : State) : Host.Outcome State Fault Refusal :=
  .next (
    let x := { macOf s m.val with rxLos := los }
    let x := match why.val with
      | 0 => { x with blockLock := false }
      | 1 => { x with fecLock := false }
      | 2 => { x with localFault := true }
      | _ => { x with remoteFault := true }
    linkUpdate (setMac s m.val x) m.val)

/-- TX_DISABLE of a cage (R199). -/
def txDisable (s : State) (m : Nat) : Bool :=
  !bit (shadowOf s (R.macCtrl m)) 1 || !bit (shadowOf s R.pwrSfp) m || !s.sys.released

/-- RS0 and RS1 of a cage (R199). -/
def rateSelect (s : State) (m : Nat) : Bool := !bit (shadowOf s (R.macCfg m)) 16

/-- MOD_CHANGE (R199). -/
def execModChange (m : Fin 4) (v : Bool) (s : State) : Host.Outcome State Fault Refusal :=
  .next (if (macOf s m.val).modAbs = v then s
    else setEvt (setMac s m.val { macOf s m.val with modAbs := v }) (R.macEvt m.val) 3)

/-- TX_FAULT (R199). -/
def execTxFault (m : Fin 4) (v : Bool) (s : State) : Host.Outcome State Fault Refusal :=
  .next (
    let x := macOf s m.val
    let s := setMac s m.val { x with txFault := v }
    if v && !x.txFault then setEvt s (R.macEvt m.val) 4 else s)

/-- A configuration MAC_CTRL.EN = 1 accepts (R197, R198, R202). -/
def macCfgOk (s : State) (m : Nat) : Bool :=
  let c := shadowOf s (R.macCfg m)
  decide (1518 ≤ fld c 10 0) && decide (fld c 10 0 ≤ 2000) &&
  (m == 4 || (if fld c 16 16 = 0 then decide (fld c 25 24 ≤ 2) else decide (fld c 25 24 ≤ 1)))

/-- MAC_ENABLE (R198). -/
def execMacEnable (a : Acc) (m : Fin 5) (txEn : Bool) (s : State) : Host.Outcome State Fault Refusal :=
  .next (regAccess s a (R.macCtrl m.val) true fun s =>
    if macOn s m.val then setShadow s (R.macCtrl m.val) (word (1 + b2n txEn 1))
    else if macCfgOk s m.val then
      setShadow (setMac s m.val { macOf s m.val with onAt := s.now }) (R.macCtrl m.val) (word (1 + b2n txEn 1))
    else setEvt (setShadow s (R.macCtrl m.val) (word (b2n txEn 1))) (R.macEvt m.val) 2)

/-- MAC_DISABLE (R226). -/
def execMacDisable (a : Acc) (m : Fin 5) (txEn : Bool) (s : State) : Host.Outcome State Fault Refusal :=
  .next (regAccess s a (R.macCtrl m.val) true fun s =>
    let s := if macOn s m.val then setMac s m.val { macOf s m.val with offAt := s.now } else s
    setShadow s (R.macCtrl m.val) (word (b2n txEn 1)))

/-- SFP_TWO_WIRE (R199): a write of MAC_SFP_CMD with START = 1; a transaction in progress goes on. -/
def execSfpTwoWire (a : Acc) (m : Fin 4) (w : Word) (s : State) : Host.Outcome State Fault Refusal :=
  .next (regAccess s a (R.macSfpCmd m.val) true fun s =>
    if bit w 31 && !(macOf s m.val).sfpBusy then setMac s m.val { macOf s m.val with sfpBusy := true, sfpCmd := w, sfpRes := 0x80000000#32 }
    else s)

/-- SFP_TWO_WIRE_DONE (R199): a read returns a byte. -/
def execSfpTwoWireDone (m : Fin 4) (nack : Bool) (data : Byte) (s : State) : Host.Outcome State Fault Refusal :=
  .next (if (macOf s m.val).sfpBusy then
    setMac s m.val { macOf s m.val with sfpBusy := false, sfpRes := word (b2n nack 30 + (if bit (macOf s m.val).sfpCmd 30 then data.toNat else 0)) } else s)

/-! ### Rings -/

def rxRing (s : State) (m n : Nat) : Ring := mget {} (macOf s m).rx n
def setRxRing (s : State) (m n : Nat) (r : Ring) : State :=
  setMac s m { macOf s m with rx := mset {} (macOf s m).rx n r }
def txRing (s : State) (m n : Nat) : Ring := mget {} (macOf s m).tx n
def setTxRing (s : State) (m n : Nat) (r : Ring) : State :=
  setMac s m { macOf s m with tx := mset {} (macOf s m).tx n r }

/-- SIZE of a ring from its RXR_CFG (R228). -/
def ringSize (c : Word) : Nat := fld c 15 0
/-- Beats between the pointers. -/
def ringLevel (c : Word) (r : Ring) : Nat := if ringSize c = 0 then 0 else (r.wr + ringSize c - r.rd) % ringSize c
def ringOk (r : Ring) : Bool := r.wr == r.wrC && r.rd == r.rdC

/-- LEVEL_SIDE of a receive ring (R186, R214). -/
def rxSide (s : State) (m n : Nat) : State :=
  let r := rxRing s m n
  let l := ringLevel (shadowOf s (R.rxrCfg m n)) r
  let w := forceOf s (R.rxrWm m n)
  if !r.side && decide (fld w 31 16 ≤ l) then
    let s := bump (setEvt (setRxRing s m n { r with side := true }) (R.rxrEvt m n) 0) (R.rxrCnt m n) 31 24 1
    macNote s m 2 0x20 n
  else if r.side && decide (l ≤ fld w 15 0) then
    bump (setEvt (setRxRing s m n { r with side := false }) (R.rxrEvt m n) 1) (R.rxrCnt m n) 31 24 1
  else s

/-- RING_PTR_RESET (R214); a receive ring's watermarks see the level fall. -/
def ringPtrReset (s : State) (m n : Nat) (tx : Bool) : State :=
  let s := if tx then setTxRing s m n {} else rxSide (setRxRing s m n { side := (rxRing s m n).side }) m n
  let s := setEvt (setEvt s (if tx then R.txrEvt m n else R.rxrEvt m n) 4) (R.macEvt m) 5
  let i := b2n tx 3 + n
  let s := almPost (ptrSum s (4 + m)) 1 (4 + m) 0x01 none [word i]
  macNote s m 0 0x01 i

def rxCheck (s : State) (m n : Nat) : State := if ringOk (rxRing s m n) then s else ringPtrReset s m n false
def txCheck (s : State) (m n : Nat) : State := if ringOk (txRing s m n) then s else ringPtrReset s m n true

/-- Base address of a ring. -/
def rxBase (s : State) (m n : Nat) : Nat :=
  fld (shadowOf s (R.rxrBaseHi m n)) 2 0 * 2 ^ 32 + fld (shadowOf s (R.rxrBaseLo m n)) 31 5 * 32
def txBase (s : State) (m n : Nat) : Nat :=
  fld (shadowOf s (R.txrBaseHi m n)) 2 0 * 2 ^ 32 + fld (shadowOf s (R.txrBaseLo m n)) 31 5 * 32

/-- Firmware writes a receive ring's read pointer (R214). -/
def rxRdWrite (s : State) (m n v : Nat) : State :=
  let s := rxCheck s m n
  let p := v % 65536 % max 1 (ringSize (shadowOf s (R.rxrCfg m n)))
  rxSide (setRxRing s m n { rxRing s m n with rd := p, rdC := p }) m n

/-- RING_FLUSH (R214). -/
def ringFlush (s : State) (m n : Nat) (tx : Bool) : State :=
  if tx then
    let s := txCheck s m n
    let r := txRing s m n
    let s := bump s (R.txrCnt m n) 23 0 (ringLevel (shadowOf s (R.txrCfg m n)) r)
    setTxRing s m n { r with rd := r.wr, rdC := r.wr, skip := true }
  else
    let s := rxCheck s m n
    let r := rxRing s m n
    let s := bump s (R.rxrCnt m n) 23 0 (ringLevel (shadowOf s (R.rxrCfg m n)) r)
    rxSide (setRxRing s m n { r with rd := r.wr, rdC := r.wr }) m n

/-- RING_FLUSH (R214): a write of RXR_CTRL with FLUSH = 1; EN is written with it. MGT has ring 0 alone (R200). -/
def execRingFlush (a : Acc) (m : Fin 5) (tx : Bool) (n : Fin 8) (en : Bool) (s : State) : Host.Outcome State Fault Refusal :=
  .next (
    let n' := if tx then n.val % 2 else n.val
    let r := if tx then R.txrCtrl m.val n' else R.rxrCtrl m.val n'
    regAccess s a r true fun s =>
      if m.val = 4 ∧ n' ≠ 0 then s else ringFlush (setShadow s r (word (b2n en 0))) m.val n' tx)

/-! ### The receive item (R210) -/

/-- The redundancy tag a port recognises (R216, R218): an HSR tag, and in PRP mode a trailer of matching size. -/
def redOf (s : State) (m : Nat) (f : EthFrame) : Option RedTag :=
  match f.red with
  | some r => if r.hsr ∨ (lreMode s m = 1 ∧ r.sizeOk) then some r else none
  | none => none

/-- The frame as the port sees it: a trailer it does not recognise is data. -/
def asSeen (s : State) (m : Nat) (f : EthFrame) : EthFrame :=
  match f.red, redOf s m f with
  | some r, none => { f with payload := f.payload ++ beBytes 2 r.seq.toNat ++ beBytes 2 (r.lan.val * 4096 + r.size.val) ++ beBytes 2 0x88FB, red := none }
  | _, _ => f

/-- How a frame is steered (R206): HIT, the rule, the destination, whether its tag is removed. -/
structure Steer where
  hit : Nat
  rule : Nat := 0
  dest : Nat
  strip : Bool := false
  deriving DecidableEq, Repr

/-- The first two bytes after the EtherType (R207). -/
def appIdOf (f : EthFrame) : Nat :=
  match f.payload with | b :: c :: _ => b.toNat * 256 + c.toNat | [b] => b.toNat * 256 | [] => 0

/-- A register of a port in force at the elapsed time `t`, that of a frame's first byte (R209). -/
def forceAt (s : State) (t a : Nat) : Word :=
  let x := macOf s (blockOf a - 4)
  if t < x.oldTill then (mfind x.old a).getD (regReset a) else forceOf s a

/-- A MAC set has entered force; `s0` is the state before: frames in progress keep the rules of their first byte (R209). -/
def macInForce (s0 : State) (m : Nat) (s : State) : State :=
  setMac s m { macOf s m with old := s0.force.filter fun e => blockOf e.1 == 4 + m, oldTill := s.now }

/-- Rule `n` of port `m` matches a frame that began at `t` (R207, R209). -/
def ruleHit (s : State) (t m n : Nat) (f : EthFrame) : Bool :=
  let hi := forceAt s t (R.frDaHi m n)
  let da := (forceAt s t (R.frDaLo m n)).toNat + fld hi 15 0 * 2 ^ 32
  let et := forceAt s t (R.frEt m n)
  let mk := forceAt s t (R.frEtMask m n)
  let vl := forceAt s t (R.frVlan m n)
  let vid := f.vlan.map fun t => t.toNat % 4096
  bit vl 31 &&
  (!bit hi 31 || f.da.toNat >>> fld hi 21 16 == da >>> fld hi 21 16) &&
  ((f.et.toNat ^^^ fld et 15 0) &&& fld mk 15 0) == 0 &&
  ((appIdOf f ^^^ fld et 31 16) &&& fld mk 31 16) == 0 &&
  (match fld vl 29 28, vid with
    | 0, _ => true
    | 1, none => true
    | 1, some v => v == 0
    | 2, some v => ((v ^^^ fld vl 11 0) &&& fld vl 23 12) == 0
    | _, _ => false)

/-- FRAME_STEER (R206). -/
def steer (s : State) (t m : Nat) (f : EthFrame) : Steer :=
  if f.et = 0x88F7#16 ∧ ptpPortOn s m then { hit := 1, dest := 3 }
  else if f.et = 0x88FB#16 ∧ (lreMode s m = 1 ∨ lreMode s m = 2) then
    { hit := 2, dest := fld (forceAt s t (R.macSupCfg (m / 2 * 2))) 27 24 }
  else
    match (List.range 256).find? fun n => ruleHit s t m n f with
    | some n => { hit := 0, rule := n, dest := fld (forceAt s t (R.frAct m n)) 31 28, strip := bit (forceAt s t (R.frAct m n)) 16 }
    | none => { hit := 3, dest := fld (shadowOf s (R.macCfg m)) 31 28 }

/-- MGT's acceptance (R200). -/
def steerMgt (s : State) (t : Nat) (f : EthFrame) : Steer :=
  let listed := (List.range 16).any fun n =>
    let hi := forceAt s t (R.frDaHi 4 n)
    bit hi 31 && (f.da.toNat >>> fld hi 21 16 == ((forceAt s t (R.frDaLo 4 n)).toNat + fld hi 15 0 * 2 ^ 32) >>> fld hi 21 16)
  if f.da.toNat = macAddr s 4 ∨ f.da = 0xFFFFFFFFFFFF#48 ∨ listed then { hit := 3, dest := 8 } else { hit := 3, dest := 0 }

/-- The data beats' bytes, filled up to a beat. -/
def padBeat (bs : List Byte) : List Byte := bs ++ List.replicate ((32 - bs.length % 32) % 32) 0#8

/-- The receive item of a good frame (R210). -/
def rxItem (m : Nat) (f : EthFrame) (t : Steer) (stamp : Int) (wrongLan : Bool) : List Byte :=
  let st := if m = 4 then 0 else stamp.toNat
  let ns := st / 256
  let hdr := [word (0xA5000000 + (if t.hit = 0 then t.rule * 65536 else 0) + t.hit * 4096 + m % 4 * 1024),
    word (secOf ns / 2 ^ 32 % 65536 * 65536 + st % 256 * 256), word (nsOf ns), word (secOf ns),
    word (match f.vlan with | some c => 2 ^ 31 + b2n t.strip 30 + c.toNat | none => 0), 0#32, 0#32, 0#32]
  let end_ := match f.red with
    | some r => [word (0x5A800000 + wireLen f), word (r.seq.toNat * 65536 + r.lan.val * 4096 + r.size.val), word (4 + b2n wrongLan 1 + b2n r.hsr 0)]
    | none => [word (0x5A800000 + wireLen f), 0#32, 0#32]
  wordsBytes hdr ++ padBeat (frameBytes f t.strip) ++ wordsBytes (end_ ++ List.replicate 5 0#32)

/-- Beats of an item. -/
def itemBeats (f : EthFrame) (t : Steer) : Nat := 2 + ((frameBytes f t.strip).length + 31) / 32

/-- The beats of an item written into a ring from its write pointer on, by the port's DMA (R213); a refused beat is lost (R155). -/
def ringStore (s : State) (m : Nat) (pid base size p : Nat) : List Byte → Nat → State
  | _, 0 => s
  | bs, n + 1 =>
    let a := base + (p % max 1 size) * 32
    let s := dmaWrite s (4 + m) (dmaTag s (4 + m) (some pid)) a (bs.take 32)
    ringStore s m pid base size (p + 1) (bs.drop 32) n

/-- Firmware ring `n` is enabled and has room for `k` beats (R213). -/
def ringRoom (s : State) (m n k : Nat) : Bool :=
  let c := shadowOf s (R.rxrCfg m n)
  bit (shadowOf s (R.rxrCtrl m n)) 0 && decide (ringLevel c (rxRing s m n) + k < ringSize c)

/-- RING_WRITE (R213). -/
def ringWrite (s : State) (m n : Nat) (item : List Byte) (k : Nat) : State :=
  let c := shadowOf s (R.rxrCfg m n)
  let r := rxRing s m n
  let s := ringStore s m (fld c 28 24) (rxBase s m n) (ringSize c) r.wr item k
  let w := (r.wr + k) % max 1 (ringSize c)
  rxSide (setRxRing s m n { rxRing s m n with wr := w, wrC := w }) m n

/-! ### Reception -/

/-- A duplicate table without the entries whose 400 ms are over (R217). -/
def fresh (now : Nat) (l : List DupEnt) : List DupEnt := l.filter fun e => decide (now < e.at_ + 400000000)

/-- A key is in a duplicate table. -/
def dupHas (l : List DupEnt) (sa seq : Nat) : Bool := l.any fun e => e.sa == sa && e.seq == seq

/-- A key enters a duplicate table of 2048; a full table gives up its oldest entry (R217). -/
def dupPut (s : State) (m sa seq : Nat) : State :=
  let x := lreOf s (m / 2)
  let e : DupEnt := { sa := sa, seq := seq, at_ := s.now }
  if x.dup.length < 2048 then setLre s (m / 2) { x with dup := x.dup ++ [e] }
  else macCount (setLre s (m / 2) { x with dup := x.dup.tail ++ [e] }) m 17

/-- The class of a forwarded frame (R220). -/
def fwdClass (f : EthFrame) : Nat :=
  match f.vlan with
  | some t => if 6 ≤ t.toNat / 8192 then 0 else if 4 ≤ t.toNat / 8192 then 1 else 2
  | none => 2

/-- A frame joins those ready to be sent. -/
def txReady (s : State) (x : TxItem) : State :=
  { s with net := { s.net with txq := s.net.txq ++ [{ x with order := s.gse.order }] }, gse := { s.gse with order := s.gse.order + 1 } }

/-- The frame that goes on round the ring: what went wrong with it ends it with an inverted FCS, at MAXLEN at the latest (R211,
R218). -/
def fwdFrame (s : State) (m : Nat) (f : EthFrame) : EthFrame :=
  let cut_ := wireLen f - maxLen s m
  { f with payload := f.payload.take (f.payload.length - cut_), fcsOk := f.fcsOk && f.codeOk && f.linkHeld && cut_ == 0, codeOk := true, linkHeld := true }

/-- HSR_FORWARD (R218): a frame not sent to this node alone goes on once for each source and sequence number. -/
def hsrForward (s : State) (m : Nat) (f : EthFrame) (stamp : Int) : State :=
  let x := lreOf s (m / 2)
  let seq := (f.red.map fun r => r.seq.toNat).getD 0
  let l := fresh s.now x.fwd
  if dupHas l f.sa.toNat seq then setLre s (m / 2) { x with fwd := l }
  else
    let s := setLre s (m / 2) { x with fwd := l ++ [{ sa := f.sa.toNat, seq := seq, at_ := s.now }] }
    txReady (macCount s m 16) { port := m / 2 * 2 + (1 - m % 2), cls := fwdClass f, order := 0, from_ := m, noRed := true, body := .forward (fwdFrame s m f) stamp }

/-- Beats in the receive FIFO of a port (R212): those of items that wait for the SIU beyond the 512 credits a port may hold; the
other consumers never hold a port back. -/
def siuBeats (s : State) (m : Nat) : Nat :=
  (s.net.items.filter fun x => x.mac == m && x.dest == 1).foldl (fun n x => n + x.beats) 0
def fifoLevel (s : State) (m : Nat) : Nat := if m < 2 then siuBeats s m - 512 else 0
/-- The FIFO of 32 KiB admits a frame (R212). -/
def fifoRoom (s : State) (m : Nat) : Bool := decide (maxLen s m + 64 + 32 * fifoLevel s m ≤ 32768)

/-- The counter a frame is dropped under, if it is: the first condition of R203's table. -/
def rxDrop (s : State) (m : Nat) (f : EthFrame) (t : Steer) (dup own : Bool) : Option Nat :=
  let n := wireLen f
  if n ≤ 63 then some 2
  else if maxLen s m < n then some 3
  else if !f.fcsOk then some 1
  else if !f.codeOk then some 4
  else if t.dest = 0 ∧ t.hit ≠ 2 then some 5
  else if !fifoRoom s m then some 6
  else if 8 ≤ t.dest ∧ !ringRoom s m (t.dest - 8) (itemBeats f t) then some 7
  else if dup then some 8
  else if own then some 10
  else if !f.linkHeld then some 11
  else none

/-- ERR of a frame's end beat (R210, R226). -/
def rxErr (s : State) (m : Nat) (f : EthFrame) (dup : Bool) : Nat :=
  if maxLen s m < wireLen f then 2
  else if !f.linkHeld then 4
  else if !f.fcsOk then 1
  else if !f.codeOk then 3
  else if dup then 5 else 0

/-- Of two PRP copies that end in one BUS cycle the one from LAN A is the first (R226): that from LAN B, delivered just before,
becomes the duplicate. -/
def lanFirst (s : State) (m sa seq : Nat) : State :=
  let x := lreOf s (m / 2)
  match x.lastB with
  | none => s
  | some u =>
    let waits := fun (y : RxItem) => y.mac == u.mac && y.dest == 2 && y.first == u.at_ && y.frame.sa.toNat == sa && y.err == 0
    if lreMode s m ≠ 1 ∨ m % 2 = 1 ∨ u.sa ≠ sa ∨ u.seq ≠ seq ∨ (u.dest = 2 ∧ !s.net.items.any waits) then s
    else
      let s := setLre s (m / 2) { x with lastB := none, dup := x.dup.filter fun e => !(e.sa == sa && e.seq == seq) }
      let s := setLive s (R.macCnt u.mac 0) (liveOf s (R.macCnt u.mac 0) - 1)
      let s := macCount s u.mac 8
      if u.dest = 2 then { s with net := { s.net with items := s.net.items.map fun y => if waits y then { y with err := 5 } else y } }
      else
        let n := u.dest - 8
        let k := max 1 (ringSize (shadowOf s (R.rxrCfg u.mac n)))
        let r := rxRing s u.mac n
        let w := (r.wr + k - u.beats % k) % k
        rxSide (setRxRing s u.mac n { r with wr := w, wrC := w }) u.mac n

/-- The frame's trailer names the other LAN (R216). -/
def wrongLan (s : State) (m : Nat) (f : EthFrame) : Bool :=
  match f.red with
  | some r => decide (lreMode s m = 1) && (if m % 2 = 0 then r.lan.val == 11 else r.lan.val == 10)
  | none => false

/-- A frame passes to the SIU, the GSE or TIME as a receive item (R210, R211). -/
def itemPut (s : State) (m : Nat) (f : EthFrame) (t : Steer) (err first : Nat) (stamp : Int) : State :=
  let g := if t.strip then { f with vlan := none } else f
  let x : RxItem := { mac := m, dest := t.dest, stamp := stamp, first := first, end_ := s.now, err := err, beats := itemBeats f t, frame := g }
  { s with net := { s.net with items := s.net.items ++ [x] } }

/-- A first copy that ended well is entered in the duplicate table (R217); the last one from LAN B is remembered for its cycle. -/
def firstCopy (s : State) (m : Nat) (f : EthFrame) (t : Steer) (first : Nat) (seq : Nat) (got : Bool) : State :=
  let s := dupPut s m f.sa.toNat seq
  let u : RxUndo := { at_ := first, end_ := s.now, mac := m, sa := f.sa.toNat, seq := seq, dest := t.dest, beats := itemBeats f t }
  if m % 2 = 1 then setLre s (m / 2) { lreOf s (m / 2) with lastB := if got then some u else none } else s

/-- The receive side of a port for a frame `f` as the port sees it; its first byte came at elapsed time `first`. -/
def macReceive (s : State) (m : Nat) (f : EthFrame) (first : Nat) (stamp : Int) : State :=
  let t := if m = 4 then steerMgt s first f else steer s first m f
  let n := if 8 ≤ t.dest then t.dest - 8 else 0
  let s := if 8 ≤ t.dest then rxCheck s m n else s
  let own := decide (lreMode s m = 2 ∧ f.sa.toNat = macAddr s m)
  let x := lreOf s (m / 2)
  let same := fun (u : RxUndo) => decide (s.now / 4 = u.end_ / 4)
  let s := if m < 4 then setLre s (m / 2) { x with dup := fresh s.now x.dup, lastB := x.lastB.filter same } else s
  let table := decide (m < 4) && f.red.isSome && (t.dest == 2 || decide (8 ≤ t.dest))
  let seq := (f.red.map fun r => r.seq.toNat).getD 0
  let s := if table && rxErr s m f false == 0 then lanFirst s m f.sa.toNat seq else s
  let dup := table && dupHas (lreOf s (m / 2)).dup f.sa.toNat seq
  let err := rxErr s m f dup
  let s := if t.hit = 0 ∧ m < 4 ∧ 64 ≤ wireLen f then setLive s (R.frHits m t.rule) (word (satAdd 0xFFFFFFFF (liveOf s (R.frHits m t.rule)).toNat 1)) else s
  let s := if t.hit = 2 ∧ 64 ≤ wireLen f ∧ (err = 0 ∨ err = 5) then macCount s m 18 else s
  let c := rxDrop s m f t dup own
  let s := match c with
    | some c =>
      let s := macCount s m c
      if c = 7 then setEvt s (R.rxrEvt m n) 3 else s
    | none =>
      let s := macCount s m 0
      if wrongLan s m f then macCount s m 9 else s
  let s := if table && err == 0 && !own && (c.isNone || c == some 7) then firstCopy s m f t first seq c.isNone else s
  if 1 ≤ t.dest ∧ t.dest ≤ 3 then (if own || c == some 2 || c == some 6 then s else itemPut s m f t err first stamp)
  else if 8 ≤ t.dest ∧ c.isNone then ringWrite s m n (rxItem m f t stamp (wrongLan s m f)) (itemBeats f t)
  else s

/-- A unicast frame to another node of an HSR ring (R218). -/
def hsrOther (s : State) (m : Nat) (f : EthFrame) : Bool :=
  decide (lreMode s m = 2) && !f.da.getLsbD 40 && decide (f.da.toNat ≠ macAddr s m)

/-- The frame goes on round the ring (R218): cut-through, so once its length has reached byte 64. -/
def hsrGoesOn (s : State) (m : Nat) (f : EthFrame) : Bool :=
  decide (lreMode s m = 2) && decide (f.sa.toNat ≠ macAddr s m) && decide (f.da.toNat ≠ macAddr s m) && decide (64 ≤ wireLen f)

/-- The loop-back depth of a port (R566); MGT has none. -/
def lbMac (s : State) (m : Nat) : Nat := if m < 4 then fld (forceOf s R.diagLbMac) (4 * m + 3) (4 * m) else 0

/-- The port's transmit client is returned to its receive client (R566). -/
def lbNear (s : State) (m : Nat) : Bool := decide (1 ≤ lbMac s m) && decide (lbMac s m ≤ 3)

/-- The PRBS generator runs in place of the port's frames (R566). -/
def prbsMac (s : State) (m : Nat) : Bool :=
  (lbMac s m == 2 || lbMac s m == 3) && bit (shadowOf s R.diagPrbsCtrl) m

/-- A frame passes on a port: its LED is dark for 50 ms from the first frame of a burst on, and lit for as long before the next
(R91: the 50 ms; how long it is lit between bursts is a DESIGN CHOICE, log 197). -/
def macBlink (s : State) (m : Nat) : State :=
  let x := macOf s m
  match x.blinkAt with
  | some t => if s.now < t + 100000000 then s else setMac s m { x with blinkAt := some s.now }
  | none => setMac s m { x with blinkAt := some s.now }

/-- A condition, with the instants at which it last rose and fell, held at `t`. -/
def heldAt (v : Bool) (rose fell t : Nat) : Bool := decide (rose ≤ t) && (v || decide (t < fell))

/-- A frame whose first byte came at `first` reaches the receive client of a port that was enabled and up then (R201-R218); where
that ends within the frame, the link counts as lost (R226). A frame looped back needs no link. -/
def macRxIn (s : State) (m : Nat) (f : EthFrame) (loop : Bool) (first : Nat) (stamp : Int) : State :=
  let x := macOf s m
  if !heldAt (macOn s m) x.onAt x.offAt first || !(loop || heldAt x.link x.upAt x.downAt first) then s
  else
    let s := macBlink s m
    let f := asSeen s m { f with linkHeld := f.linkHeld && macOn s m && (loop || x.link) }
    let s := if hsrGoesOn s m f then hsrForward s m f stamp else s
    if hsrOther s m f ∧ f.sa.toNat ≠ macAddr s m then
      (match rxDrop s m f { hit := 3, dest := 3 } false false with | some c => macCount s m c | none => s)
    else macReceive s m f first stamp

/-- How long so many bytes take on a port, in ns. -/
def frameNs (s : State) (m n : Nat) : Nat := if m = 4 then (if (macOf s m).slow then 80 * n else 8 * n) else wireTime s m n / 256

/-- MAC_FRAME_RX (R201-R218): a frame ends on the medium of a port; at depths 1 to 3 nothing is received from it (R566). -/
def execMacFrameRx (m : Fin 5) (f : EthFrame) (frac : Fin 1024) (s : State) : Host.Outcome State Fault Refusal :=
  .next (if lbNear s m.val then s
    else macRxIn s m.val f false (s.now - frameNs s m.val (wireLen f)) (if m.val = 4 then 0 else rxStamp s m.val frac (wireLen f)))

/-- DUP_ENTRY_EXPIRY (R217): 400 ms after it was made, the oldest entry of a pair is forgotten. -/
def execDupEntryExpiry (p : Fin 2) (s : State) : Host.Outcome State Fault Refusal :=
  .next (match (lreOf s p.val).dup with
    | [] => s
    | e :: _ =>
      let s := reach s (e.at_ + 400000000)
      setLre s p.val { lreOf s p.val with dup := fresh s.now (lreOf s p.val).dup })

/-! ### Transmission -/

/-- A frame becomes ready on its port; in PRP and HSR mode on both ports of the pair with one sequence number (R220). -/
def txReadyPair (s : State) (x : TxItem) : State :=
  let p := x.port / 2
  if lreMode s x.port = 0 then txReady s x
  else
    let r := pairSeq s p
    txReady (txReady r.2 { x with port := 2 * p, seq := r.1 }) { x with port := 2 * p + 1, seq := r.1, copy := true }

/-- A supervision frame of pair `p` (R219); its contents by IEC 62439-3, PRESUMED: log 194. -/
def supFrame (s : State) (p n : Nat) : EthFrame :=
  let m := 2 * p
  frameOf (0x01154E000100 + fld (forceOf s (R.macSupCfg m)) 23 16) (macAddr s m) none 0x88FB
    (beBytes 2 1 ++ beBytes 2 n ++ beBytes 1 (if lreMode s m = 2 then 23 else 20) ++ beBytes 1 6 ++ beBytes 6 (macAddr s m) ++ beBytes 2 0)

/-- SUPERVISION_TX (R219): the lower MAC sends on both ports. -/
def execSupervisionTx (p : Fin 2) (s : State) : Host.Outcome State Fault Refusal :=
  .next (
    let m := p.val * 2
    let c := forceOf s (R.macSupCfg m)
    if bit c 31 ∧ (lreMode s m = 1 ∨ lreMode s m = 2) ∧ macOn s m then
      let s := reach s (lreOf s p.val).supNext
      let x := lreOf s p.val
      let s := setLre s p.val { x with supNext := s.now + fld c 15 0 * 1000000, supSeq := (x.supSeq + 1) % 65536 }
      txReadyPair s { port := m, cls := 2, order := 0, from_ := m, body := .supervision (supFrame s p.val x.supSeq) }
    else s)

/-- The words of bytes. -/
def wordsOf (bs : List Byte) : List Word := (List.range (bs.length / 4)).map (bytesWord bs)

/-- The address of a beat of a transmit ring and the tag of the port's DMA (R213). -/
def txAddr (s : State) (m n p : Nat) : Nat := txBase s m n + (p % max 1 (ringSize (shadowOf s (R.txrCfg m n)))) * 32
def txTag (s : State) (m n : Nat) : Tag := dmaTag s (4 + m) (some (fld (shadowOf s (R.txrCfg m n)) 28 24))

/-- A beat of a transmit ring, read by the port's DMA; a refused read gives zeros and is counted (R155). -/
def txBeat (s : State) (m n p : Nat) : List Byte × State := dmaRead s (4 + m) (txTag s m n) (txAddr s m n p) 32

/-- What a read of a beat would give. -/
def txPeek (s : State) (m n p : Nat) : List Word :=
  if (memDenied s (txTag s m n) .read (txAddr s m n p)).isSome then [] else wordsOf (rdBytes s (txAddr s m n p) 32)

/-- A descriptor beat holds a frame (R223). -/
def descOk (w : Word) : Bool := fld w 31 24 == 0xA5 && decide (14 ≤ fld w 15 0) && decide (fld w 15 0 ≤ 2000)

/-- BAD_DESCRIPTOR (R223): the ring's head moves to the next good descriptor; `fuel` is the ring's level. -/
def txHead (m n : Nat) : Nat → State → State
  | 0, s => s
  | fuel + 1, s =>
    let r := txRing s m n
    if r.rd = r.wr then s
    else
      let b := txBeat s m n r.rd
      let w := bytesWord b.1 0
      let s := b.2
      if descOk w then setTxRing s m n { txRing s m n with skip := false }
      else if r.skip ∧ fld w 31 24 = 0xA5 then txHead m n fuel (setTxRing s m n { txRing s m n with skip := false })
      else
        let s := bump s (R.txrCnt m n) 23 0 1
        let s := if r.skip then s else setEvt s (R.txrEvt m n) 5
        let p := (r.rd + 1) % max 1 (ringSize (shadowOf s (R.txrCfg m n)))
        txHead m n fuel (setTxRing s m n { txRing s m n with rd := p, rdC := p, skip := true })

/-- The head of a transmit ring is brought to a good descriptor. -/
def txClean (s : State) (m n : Nat) : State :=
  let s := txCheck s m n
  if bit (shadowOf s (R.txrCtrl m n)) 0 then txHead m n (2 * ringLevel (shadowOf s (R.txrCfg m n)) (txRing s m n)) s else s

/-- TXR_WR_WRITE (R223). -/
def execTxrWrWrite (a : Acc) (m : Fin 5) (n : Fin 2) (v : Half) (s : State) : Host.Outcome State Fault Refusal :=
  .next (regAccess s a (R.txrWr m.val n.val) true fun s =>
    if m.val = 4 ∧ n.val ≠ 0 then s
    else
    let s := txCheck s m.val n.val
    let p := v.toNat % max 1 (ringSize (shadowOf s (R.txrCfg m.val n.val)))
    txClean (setTxRing s m.val n.val { txRing s m.val n.val with wr := p, wrC := p }) m.val n.val)

/-- Bytes of `k` data beats from `p` on, read by the port's DMA. -/
def txData (m n : Nat) : Nat → Nat → State → List Byte × State
  | _, 0, s => ([], s)
  | p, k + 1, s =>
    let b := txBeat s m n p
    let r := txData m n (p + 1) k b.2
    (b.1 ++ r.1, r.2)

/-- The descriptor at the head of an enabled transmit ring, if it holds a frame. -/
def ringHead (s : State) (m n : Nat) : Option (List Word) :=
  let r := txRing s m n
  let ws := txPeek s m n r.rd
  if bit (shadowOf s (R.txrCtrl m n)) 0 && r.rd != r.wr && descOk (ws.head?.getD 0#32) then some ws else none

/-- Beats of the item with a descriptor. -/
def descBeats (ws : List Word) : Nat := 1 + (fld (ws.head?.getD 0#32) 15 0 + 31) / 32

/-- Beats in a transmit ring. -/
def txLevel (s : State) (m n : Nat) : Nat := ringLevel (shadowOf s (R.txrCfg m n)) (txRing s m n)

/-- A port may start the frame at the head of a ring (R222): all of it is there, or TX_CT_BYTES of it, in which case it does not
reach its end. -/
def ringReady (s : State) (m n : Nat) (e : TxEnd) : Bool :=
  match ringHead s m n with
  | none => false
  | some ws => decide (descBeats ws ≤ txLevel s m n) ||
    (decide (m < 4) && decide (e ≠ .sent) && decide (fld (shadowOf s (R.macTxCt m)) 10 0 ≤ 32 * (txLevel s m n - 1)))

/-- The frame at the head of a ring of MAC `o` is taken for port `m` (R222, R223); of one that is not all there, the beats still to
come are skipped. MGT inserts no tag (R200). -/
def ringTake (s : State) (o n m : Nat) : TxItem × State :=
  let ws := (ringHead s o n).getD []
  let d := (ws[1]?).getD 0#32
  let k := min (descBeats ws) (txLevel s o n)
  let r := txData o n ((txRing s o n).rd + 1) (k - 1) s
  let t := txRing r.2 o n
  let p := (t.rd + k) % max 1 (ringSize (shadowOf s (R.txrCfg o n)))
  let s' := setTxRing r.2 o n { t with rd := p, rdC := p, skip := decide (k < descBeats ws) }
  ({ port := m, cls := 3, order := s.gse.order, from_ := o, tsId := if bit d 31 then some (fld d 15 0) else none, noRed := bit d 29, ring := some n, tci := if bit d 30 ∧ o < 4 then some (fld ((ws[2]?).getD 0#32) 15 0) else none, body := .firmware (r.1.take (fld (ws.head?.getD 0#32) 15 0)) },
    setMac s' o { macOf s' o with turn := 1 - n })

/-- The rings a port may take a frame from, in turn (R220): its own; in PRP and HSR mode then those of its peer, whose frames leave on
both ports. -/
def ringOrder (s : State) (m : Nat) : List (Nat × Nat) :=
  let turn : Nat → List (Nat × Nat) := fun o => if (macOf s o).turn = 0 then [(o, 0), (o, 1)] else [(o, 1), (o, 0)]
  let peer := m / 2 * 2 + (1 - m % 2)
  if 4 ≤ m then [(m, 0)] else turn m ++ if lreMode s m = 0 ∨ !macOn s peer then [] else turn peer

/-- The head of a ring may leave on port `m`. -/
def ringFits (s : State) (m : Nat) (e : TxEnd) (x : Nat × Nat) : Bool :=
  ringReady s x.1 x.2 e && (x.1 == m || !bit ((((ringHead s x.1 x.2).getD [])[1]?).getD 0#32) 29)

/-- The ports of a GOOSE frame that a publication's frame leaves on (R220, R431). -/
def goosePort (s : State) (m : Nat) (f : GooseFrame) : Bool :=
  f.ports.contains m && (decide (lreMode s m ≠ 0) || m % 2 == 0)

/-- The GOOSE frames ready for a port. -/
def gooseReady (s : State) (m : Nat) : List TxItem :=
  s.gse.pubs.filterMap fun e => match e.2.q.items with
    | f :: _ => if goosePort s m f then some { port := m, cls := 0, order := f.order, from_ := m / 2 * 2, body := .goose f } else none
    | [] => none

/-- TIME's frames ready for a port. -/
def ptpOut (s : State) (m : Nat) : List TxItem :=
  (s.time.tx.filter fun f => f.mac == m).map fun f =>
    { port := m, cls := 0, order := f.order, from_ := m, seq := f.red, body := .ptp f }

/-- The frame a class before the rings gives a port (R220): the highest class, then the order of readiness. -/
def txPick (s : State) (m : Nat) : Option TxItem :=
  (gooseReady s m ++ ptpOut s m ++ s.net.txq.filter fun x => x.port == m).foldl (fun r x => match r with
    | none => some x
    | some y => if x.cls < y.cls ∨ (x.cls = y.cls ∧ x.order < y.order) then some x else some y) none

/-- A frame leaves the list it was ready in. -/
def txTake (s : State) (x : TxItem) : State :=
  match x.body, x.copy with
  | .goose f, false => setPub s f.pub { pubOf s f.pub with q := qPop 8 (pubOf s f.pub).q }
  | .ptp f, false => { s with time := { s.time with tx := s.time.tx.erase f } }
  | _, _ => { s with net := { s.net with txq := s.net.txq.erase x } }

/-- A copy of a frame becomes ready for port `o` with the sequence number of its pair. -/
def txCopy (x : TxItem) (seq : Option Nat) (o : Nat) (s : State) : State :=
  { s with net := { s.net with txq := s.net.txq ++ [{ x with port := o, copy := true, seq := seq }] } }

/-- A GOOSE frame for both pairs becomes ready on the other pair (R431). -/
def goosePair (s : State) (x : TxItem) : State :=
  match x.body with
  | .goose f =>
    let q := 1 - x.port / 2
    let l := [2 * q, 2 * q + 1].filter fun o => goosePort s o f
    if x.copy || l.isEmpty then s
    else
      let r := pairSeq s q
      each l r.2 (txCopy { x with from_ := q * 2 } r.1)
  | _ => s

/-- Firmware's bytes as a frame, with the tag its descriptor inserts (R221). -/
def fwFrame (bs : List Byte) (tci : Option Nat) : EthFrame :=
  let et := beAt bs 12 2
  let own := et == 0x8100 && tci.isNone
  frameOf (beAt bs 0 6) (beAt bs 6 6) (if own then some (beAt bs 14 2) else tci) (if own then beAt bs 16 2 else et) (bs.drop (if own then 18 else 14))

/-- A frame as its source gives it, with the tag of step 1 of R221; `st` is its transmit stamp. -/
def txBody (s : State) (x : TxItem) (st : Int) : EthFrame :=
  let sa := macAddr s x.port
  match x.body with
  | .goose f => { f.frame with sa := BitVec.ofNat 48 sa }
  | .sv _ _ f => { f with sa := BitVec.ofNat 48 sa }
  | .supervision f => f
  | .forward f rx => ptpResidence f (st - rx)
  | .firmware bs => fwFrame bs x.tci
  | .ptp f =>
    let t := forceOf s (R.macTxTag x.port)
    frameOf 0x0180C200000E sa (if bit t 16 then some (fld t 15 13 * 8192) else none) 0x88F7
      (ptpBytes f.dom.toNat (portId s f.mac) f.seq (f.resp.map fun rx => (f.req, (st - rx) * 256)))

/-- The tag or trailer a port puts on a frame with `n` bytes after its EtherType (R216, R218, R220). -/
def redOut (s : State) (m n : Nat) (seq : Option Nat) : Option RedTag :=
  seq.map fun q => { hsr := decide (lreMode s m = 2), lan := Fin.ofNat 16 (if m % 2 = 0 then 10 else 11), size := Fin.ofNat 4096 (n + 6), sizeOk := true, seq := BitVec.ofNat 16 q }

/-- The frame a port sends (R221): padded, with its tag or trailer, its FCS inverted where it is ended before its end (R222). A
forwarded frame stays as it is. -/
def txFrame (s : State) (x : TxItem) (seq : Option Nat) (e : TxEnd) (st : Int) : EthFrame :=
  let f := txBody s x st
  match x.body with
  | .forward _ _ => { f with fcsOk := f.fcsOk && decide (e = .sent) }
  | _ =>
    let p := f.payload ++ List.replicate (60 - (frameBytes f false).length) 0#8
    { f with payload := p, red := redOut s x.port p.length seq, fcsOk := decide (e = .sent), linkHeld := decide (e ≠ .linkLost) }

/-- A frame of publication `p` left more than a base tick after its send point (R260, R261, R264). -/
def svLate (s : State) (p : Nat) : State :=
  let s := bump s (R.pubCnt p) 15 0 1
  let s := if evt s R.svpEvt 1 then s else postOwner s (ownerOf s 8 p) 2 0x0A 0x10 p
  setEvt s R.svpEvt 1

/-- The counter of a frame that ends (R222); one forwarded with an inverted FCS is counted by the port that received it (R218). -/
def txCount (s : State) (m : Nat) (f : EthFrame) : TxEnd → State
  | .linkLost => macCount s m 15
  | .underrun => macCount s m 14
  | .sent => if f.fcsOk then macCount s m 12 else s

/-- What a frame leaves (R183, R222): the counters, the stamp where it is asked for, the transmit stamp of a Pdelay_Req. -/
def txDone (s : State) (x : TxItem) (seq : Option Nat) (f : EthFrame) (e : TxEnd) (st : Int) : State :=
  let m := x.port
  let s := macBlink (txCount s m f e) m
  let s := setMac s m { macOf s m with sent := some { body := x.body, frame := f, seq := seq, wire := wireLen f, at_ := s.now } }
  let s := match x.tsId with
    | some i => if m < 4 ∧ m = x.from_ then tqPut s m { id := i, rise := false, at_ := st.toNat } else s
    | none => s
  match x.body with
  | .ptp p => if p.resp.isNone ∧ m = p.mac ∧ p.seq = (pdOf s m).seq then setPd s m { pdOf s m with t1 := some st } else s
  | .sv p due _ => if !x.copy && decide (due + 1000000000 / fsOf s < s.now) then svLate s p else s
  | _ => s

/-- A frame sent at depths 1 to 3 returns to the receive client (R566). -/
def txLoop (s : State) (m : Nat) (f : EthFrame) (frac : Fin 1024) : State :=
  if lbNear s m then macRxIn s m f true s.now (s.ltc * 256 + frac.val - comp s (R.tspRxComp m)) else s

/-- The frame `x` is built and sent, or dropped for its length (R220, R221). -/
def txSend (s : State) (x : TxItem) (e : TxEnd) (frac : Fin 1024) : State :=
  let m := x.port
  let st := txStamp s (m % 4) frac
  let red := decide (m < 4) && decide (lreMode s m ≠ 0) && !x.noRed
  let first := red && x.seq.isNone
  let s := goosePair s x
  let r := if first then pairSeq s (m / 2) else (if red then x.seq else none, s)
  let s := r.2
  let f := txFrame s x r.1 e st
  if maxLen s m < wireLen f then
    let s := macCount s x.from_ 13
    match x.ring with | some n => setEvt s (R.txrEvt x.from_ n) 2 | none => s
  else
    let s := if first then txCopy x r.1 (m / 2 * 2 + (1 - m % 2)) s else s
    txLoop (txDone s x r.1 f e st) m f frac

/-- MAC_FRAME_TX (R220-R223): the port takes the ready frame of the highest class, and of the rings one frame from each in
turn. At depth 4, and while the PRBS generator runs, its own frames are not sent (R566). -/
def execMacFrameTx (m : Fin 5) (e : TxEnd) (frac : Fin 1024) (s : State) : Host.Outcome State Fault Refusal :=
  .next (
    let c := shadowOf s (R.macCtrl m.val)
    if !bit c 0 || !bit c 1 || !((macOf s m.val).link || lbNear s m.val) || lbMac s m.val == 4 || prbsMac s m.val then s
    else
      match txPick s m.val with
      | some x => txSend (txTake s x) x e frac
      | none =>
        let s := each (ringOrder s m.val) s fun x s => txClean s x.1 x.2
        match (ringOrder s m.val).find? (ringFits s m.val e) with
        | none => s
        | some (o, n) =>
          let r := ringTake s o n m.val
          txSend r.2 r.1 e frac)

/-! ### Registers and commit checks -/

/-- The check of a MAC set (R208, R214, R219, R228): cause and offset. -/
def checkMac (s : State) (m : Nat) (ps : PendSet) : Option (Nat × Nat) :=
  let v := pendVal ps.vals
  let sup := v (R.macSupCfg m)
  let dests := [0, 8, 9, 10, 11, 12, 13, 14, 15]
  if m < 4 ∧ (fld sup 15 0 < 100 ∨ 10000 < fld sup 15 0) then some (3, 0x38)
  else if m < 4 ∧ !dests.contains (fld sup 27 24) then some (3, 0x38)
  else
    let ring := (List.range (if m = 4 then 1 else 8)).findSome? fun n =>
      let w := v (R.rxrWm m n)
      let on := bit (shadowOf s (R.rxrCtrl m n)) 0
      if fld w 15 0 < fld w 31 16 ∧ (!on ∨ fld w 31 16 ≤ ringSize (shadowOf s (R.rxrCfg m n))) then none
      else some (2, 0x218 + n * 0x40)
    match ring with
    | some f => some f
    | none =>
      (List.range (if m = 4 then 16 else 256)).findSome? fun n =>
        if m = 4 then (if bit (v (R.frDaHi m n)) 31 ∧ 47 < fld (v (R.frDaHi m n)) 21 16 then some (3, 0x1004 + n * 0x20) else none)
        else if !bit (v (R.frVlan m n)) 31 then none
        else if 47 < fld (v (R.frDaHi m n)) 21 16 then some (3, 0x1004 + n * 0x20)
        else
          let d := fld (v (R.frAct m n)) 31 28
          if dests.contains d ∨ d = 2 ∨ (d = 1 ∧ m < 2) then none else some (3, 0x1014 + n * 0x20)

/-- MAC_STAT (R228). -/
def macStat (s : State) (m : Nat) : Word :=
  let x := macOf s m
  word (b2n (x.fecLock || fld (shadowOf s (R.macCfg m)) 25 24 == 0) 7 + b2n x.txFault 6 + b2n x.rxLos 5 + b2n x.modAbs 4 +
    b2n x.remoteFault 3 + b2n x.localFault 2 + b2n x.blockLock 1 + b2n x.link 0)

/-- The pointer and status registers of a ring. -/
def readRing (c : Word) (r : Ring) (o : Nat) : Option Word :=
  match o with
  | 0x10 => some (word r.wr)
  | 0x14 => some (word r.rd)
  | 0x1C => some (word (b2n r.side 16 + ringLevel c r))
  | _ => none

/-- A register MGT does not have (R200). -/
def mgtAbsent (o : Nat) : Bool :=
  (decide (0x1C ≤ o) && decide (o < 0x24)) || (decide (0x30 ≤ o) && decide (o < 0x100)) ||
  (decide (0x240 ≤ o) && decide (o < 0x400)) || (decide (0x440 ≤ o) && decide (o < 0x1000)) ||
  (decide (0x1000 ≤ o) && decide (o < 0x3000) && (decide (0x1200 ≤ o) || decide (8 ≤ o % 0x20)))

/-- A register that a port does not have (R200, R215). -/
def macAbsent (m o : Nat) : Bool := if m = 4 then mgtAbsent o else o == 0x30 && m % 2 == 1

/-- The registers of MAC `m` computed from its state, at offset `o`. -/
def readMac (s : State) (m o : Nat) : Option Word :=
  if macAbsent m o then some 0#32
  else if o = 0x08 then some (macStat s m)
  else if o = 0x34 then
    some (word ((lreOf s (m / 2)).dup.length % 4096 * 65536 + b2n (macOf s (m / 2 * 2 + 1)).link 1 + b2n (macOf s (m / 2 * 2)).link 0))
  else if o = 0x44 then some (macOf s m).sfpRes
  else if o = 0x50 then some (if m < 2 ∧ macOn s m then word ((512 - siuBeats s m) * 65536 + fifoLevel s m % 2048) else 0#32)
  else if 0x200 ≤ o ∧ o < 0x400 then
    readRing (shadowOf s (R.rxrCfg m ((o - 0x200) / 0x40))) (rxRing s m ((o - 0x200) / 0x40)) (o % 0x40)
  else if 0x400 ≤ o ∧ o < 0x480 then
    readRing (shadowOf s (R.txrCfg m ((o - 0x400) / 0x40))) (txRing s m ((o - 0x400) / 0x40)) (o % 0x40)
  else none

end Sys2Proof.Machine
end

