-- ==== Sys2Proof/Machine/Siu.lean ====
section
/-! DEFINITION. The SIU: matching, placing and committing of sampled values (R236-R241), the states of a context (R243, R244),
the release of alignment groups (R242, R245-R247), authentication (R248, R249), flush and pointer checks (R250-R252). -/

namespace Sys2Proof.Machine

/-! ### Contexts and groups -/

def ctxOf (s : State) (c : Nat) : Ctx := mget {} s.siu.ctxs c
def setCtx (s : State) (c : Nat) (x : Ctx) : State := { s with siu := { s.siu with ctxs := mset {} s.siu.ctxs c x } }
def grpOf (s : State) (g : Nat) : Grp := mget {} s.siu.grps g
def setGrp (s : State) (g : Nat) (x : Grp) : State := { s with siu := { s.siu with grps := mset {} s.siu.grps g x } }

/-- The rate of an SMP_RATE code, in samples per second; 0 for a code not listed (R231). -/
def smpRate (code : Nat) : Nat :=
  match code with | 0 => 4000 | 1 => 4800 | 2 => 9600 | 3 => 14400 | 4 => 19200 | _ => 0

/-- The rate is permitted at a base rate (R231). -/
def rateOk (fs code : Nat) : Bool :=
  if fs = 4000 then code == 0 else decide (1 ≤ code) && decide (code ≤ 4)

/-- CTX_CFG in force, and its fields (R263). -/
def ctxCfg (s : State) (c : Nat) : Word := forceOf s (R.ctxCfg c)
def ctxRate (s : State) (c : Nat) : Nat := max 1 (smpRate (fld (ctxCfg s c) 6 4))
/-- Source samples per base tick (R231). -/
def ctxK (s : State) (c : Nat) : Nat := max 1 (ctxRate s c / fsOf s)
def ctxN (s : State) (c : Nat) : Nat := fld (ctxCfg s c) 12 8
def ctxGrp (s : State) (c : Nat) : Nat := fld (ctxCfg s c) 23 16

/-- The contexts enabled in force, in ascending number. -/
def ctxsOn (s : State) : List Nat :=
  (mtake s.force 0xF0091000 0xF0099000).filterMap fun e =>
    if e.1 % 0x20 = 0 ∧ bit e.2 31 then some ((e.1 - 0xF0091000) / 0x20) else none

/-- The tick in progress, counted on from the epoch. -/
def curTick (s : State) : Nat := s.time.tickSec * fsOf s + s.time.tick

/-- The enabled lead contexts of a group. -/
def members (s : State) (g : Nat) : List Nat := (ctxsOn s).filter fun c => ctxGrp s c == g && decide (0 < ctxN s c)

/-- The groups enabled in force. -/
def grpsOn (s : State) : List Nat :=
  (mtake s.force 0xF0099000 0xF009A000).filterMap fun e =>
    if e.1 % 0x10 = 0 ∧ bit e.2 31 then some ((e.1 - 0xF0099000) / 0x10) else none

/-- Nominal frequency of a group in Hz (GRP_CFG.NOM_F). -/
def nomF (s : State) (g : Nat) : Nat := if bit (forceOf s (R.grpCfg g)) 30 then 60 else 50

/-- RECOV: one power-frequency cycle of samples (R243). -/
def recovLen (s : State) (c : Nat) : Nat :=
  (ctxRate s c + nomF s (ctxGrp s c) - 1) / nomF s (ctxGrp s c)

/-- A post of the SIU to the owner of a context, with a record where `sev` names one (R260). -/
def siuPost (s : State) (o : Option Nat) (cls code info : Nat) (sev : Option Nat) : State :=
  let s := match sev with | some v => almPost s v 0x09 code o [word info] | none => s
  postOwner s o cls 0x09 code info

/-- A counter of the SIU (R263). -/
def siuCount (s : State) (i n : Nat) : State :=
  setLive s (R.siuCnt i) (word (satAdd 0xFFFFFFFF (liveOf s (R.siuCnt i)).toNat n))

/-- LEVEL_SIDE of a context (R250). -/
def ctxSide (s : State) (c : Nat) : State :=
  let x := ctxOf s c
  let w := forceOf s R.siuBufWm
  let l := x.com.length
  if !x.side && decide (fld w 22 16 ≤ l) then
    let s := bump (setEvt (setCtx s c { x with side := true }) (R.ctxEvt c) 0) (R.ctxCnt c) 31 24 1
    siuPost s (ownerOf s 1 c) 2 0x20 c none
  else if x.side && decide (l ≤ fld w 6 0) then
    bump (setEvt (setCtx s c { x with side := false }) (R.ctxEvt c) 1) (R.ctxCnt c) 31 24 1
  else s

/-- CTX_ENTER_WAIT (R243, R244) of a dataset that spans `n` contexts: the unreleased samples are discarded and counted. -/
def ctxWaitOf (s : State) (c n : Nat) : State :=
  let x := ctxOf s c
  let s := siuCount s 10 (x.com.length * n)
  let s := setCtx s c { x with st := .wait, recov := recovLen s c, com := [], early := 0, timely := [], placing := .none, fromB := [] }
  ctxSide s c

def ctxWait (s : State) (c : Nat) : State := ctxWaitOf s c (ctxSpan (ctxN s c))

/-- A flush (R251): frames that began before `t` are discarded for the dataset. -/
def ctxFlushAt (s : State) (c t : Nat) : State :=
  let s := ctxWait s c
  setCtx s c { ctxOf s c with flushAt := max (ctxOf s c).flushAt t }

/-- The pointers of a context agree (R252). -/
def ctxPtrOk (x : Ctx) : Bool := x.newest == x.newestC && x.rel == x.relC

/-- SIU_PTR_RESET of a context (R252): flushed under R251. -/
def ctxPtrReset (s : State) (c : Nat) : State :=
  let x := ctxOf s c
  let s := ctxFlushAt (setCtx s c { x with newestC := x.newest, relC := x.rel }) c s.now
  let s := ptrSum (setEvt (setEvt s (R.ctxEvt c) 7) R.siuEvt 6) 9
  siuPost s (ownerOf s 1 c) 0 0x01 c (some 1)

def ctxCheck (s : State) (c : Nat) : State := if ctxPtrOk (ctxOf s c) then s else ctxPtrReset s c

/-- SIU_PTR_RESET of a group (R252): NEXT is the tick in progress, its members enter WAIT. -/
def grpPtrReset (s : State) (g : Nat) : State :=
  let t := curTick s
  let s := setGrp s g { grpOf s g with next := some t, nextC := some t }
  let s := each (members s g) s fun c s =>
    let s := ctxWait s c
    setCtx s c { ctxOf s c with rel := ctxK s c * (t - 1), relC := ctxK s c * (t - 1) }
  let s := ptrSum (setEvt s R.siuEvt 6) 9
  siuPost s (ownerOf s 2 g) 0 0x01 (32768 + g) (some 1)

def grpCheck (s : State) (g : Nat) : State :=
  if (grpOf s g).next = (grpOf s g).nextC then s else grpPtrReset s g

/-! ### The stream buffer (R232) -/

/-- The entry of channel `j` of the dataset of lead context `c` for source sample `a`. -/
def sbAddr (s : State) (c j a : Nat) : Nat :=
  0x81000000 + (c + j / 8) * 0x2000 + a % ctxRate s c % 128 * 0x40 + j % 8 * 8

/-- A value with its quality word, written by the SIU's DMA for the context's owner (R140, R154). -/
def sbPut (s : State) (c j a : Nat) (v q : Word) : State :=
  dmaWrite s 9 (dmaTag s 9 (ownerOf s 1 c)) (sbAddr s c j a) (leBytes 4 v.toNat ++ leBytes 4 q.toNat)

/-- An entry of the stream buffer, read by the SIU's DMA (R35): its value and quality. -/
def sbGet (s : State) (c j a : Nat) : (Word × Word) × State :=
  let r := dmaRead s 9 (dmaTag s 9 (ownerOf s 1 c)) (sbAddr s c j a) 8
  ((bytesWord r.1 0, bytesWord r.1 1), r.2)

/-! ### Finalising samples (R240, R242, R243) -/

/-- 2·cos θ for θ = 2π·num/den, in units of 2⁻⁶⁴, by its power series (θ is at most about 0.11 here). -/
def twoCos (num den : Nat) : Int :=
  let one : Int := 2 ^ 64
  let pi64 : Int := 57952155664616982739
  let th : Int := 2 * pi64 * num / den
  let t2 : Int := th * th / one
  let a2 := t2
  let a4 := a2 * t2 / one
  let a6 := a4 * t2 / one
  let a8 := a6 * t2 / one
  let a10 := a8 * t2 / one
  2 * (one - a2 / 2 + a4 / 24 - a6 / 720 + a8 / 40320 - a10 / 3628800)

/-- An integer saturated to INT32. -/
def satI32 (n : Int) : Word := BitVec.ofInt 32 (max (-(2 ^ 31)) (min (2 ^ 31 - 1) n))

/-- The frequency the fill uses, in µHz (R242): the group's as last reported by the SCA, or the nominal one. -/
def fillFreq (s : State) (g : Nat) : Nat :=
  let a : AgSt := mget {} s.sca.ags g
  if a.fst_ = .nominal then nomF s g * 1000000 else a.freq

/-- The fill value of R242. -/
def fillValue (s : State) (c : Nat) (x1 x2 : Word) : Word :=
  let k := twoCos (fillFreq s (ctxGrp s c)) (ctxRate s c * 1000000)
  satI32 ((k * x1.toInt + 2 ^ 63) / 2 ^ 64 - x2.toInt)

/-- The channel's sample may carry VALID = 1, the recovery count apart (R240). -/
def qualOk (s : State) (c : Nat) (q : Word) : Bool :=
  let cfg := ctxCfg s c
  let v := fld q 1 0
  let sync := if bit q 27 then 2 else if bit q 26 then 1 else 0
  let acc := match ownerOf s 1 c with | some p => bit (forceOf s R.siuTestAcc) p | none => false
  (v == 0 || (v == 3 && bit cfg 28)) && decide (fld cfg 27 26 ≤ sync) && (!bit q 29 || acc)

/-- The channel slots of a dataset, unused ones included. -/
def slotCount (s : State) (c : Nat) : Nat := 8 * ctxSpan (ctxN s c)

/-- The unused slots of a dataset's last context read 0 with VALID = 0 (R230). -/
def finUnused (s : State) (c a : Nat) : State :=
  upto (slotCount s c - ctxN s c) s fun i s => sbPut s c (ctxN s c + i) a 0#32 0#32

/-- A committed sample is released: its count of recovery falls, its qualities are final (R240, R243). -/
def finCommitted (s : State) (c a : Nat) : State :=
  let x := ctxOf s c
  let r := x.recov - 1
  let s := setCtx s c { x with recov := r, missRun := 0, com := x.com.erase a, done := (a :: x.done).take 128, held := [] }
  let s := upto (ctxN s c) s fun j s =>
    let e := sbGet s c j a
    let q := e.1.2 &&& 0x7FFFFFFF#32
    let s := setCtx e.2 c { ctxOf e.2 c with held := (ctxOf e.2 c).held ++ [e.1.1] }
    sbPut s c j a e.1.1 (if r = 0 ∧ qualOk s c q then q ||| 0x80000000#32 else q)
  ctxSide (finUnused s c a) c

/-- MISSING_SAMPLE_FILL (R242). -/
def finFilled (s : State) (c a : Nat) : State :=
  upto (ctxN s c) (finUnused s c a) fun j s =>
    let x := sbGet s c j (a - 1)
    let y := sbGet x.2 c j (a - 2)
    let s := y.2
    let v := fillValue s c x.1.1 y.1.1
    let q := (x.1.2 &&& 0x3C003FFF#32) ||| 0x40000000#32
    sbPut s c j a v (if (ctxOf s c).recov = 0 ∧ qualOk s c q then q ||| 0x80000000#32 else q)

/-- A missing sample that is not filled holds the last committed value (R240, R242). -/
def finStale (s : State) (c a : Nat) : State :=
  upto (ctxN s c) (finUnused s c a) fun j s => sbPut s c j a (((ctxOf s c).held[j]?).getD 0#32) 0x02000000#32

/-- CTX_LOST (R244). -/
def ctxLose (s : State) (c : Nat) : State :=
  let x := ctxOf s c
  let s := setEvt (setEvt (setCtx s c { x with st := .lost, timely := [] }) (R.ctxEvt c) 3) R.siuEvt 0
  let s := siuPost s (ownerOf s 1 c) 0 0x10 c (some 1)
  match x.placing with
  | .arrival _ _ => ctxWait s c
  | _ => s

/-- A source sample of a context is finalised at its group's release (R242, R243). -/
def finalise (s : State) (c a : Nat) : State :=
  let x := ctxOf s c
  let s :=
    if x.com.contains a then finCommitted s c a
    else
      let inRun := decide (x.st = .run) && decide (x.runFrom ≤ a)
      let m := satAdd 255 x.missRun 1
      let s := if inRun && x.missRun == 0 && decide (x.held ≠ []) then finFilled s c a else finStale s c a
      let s := bump s (R.ctxCnt c) 23 16 1
      let s := setCtx s c { ctxOf s c with missRun := m, recov := if x.recov ≠ 0 ∨ 2 ≤ m then recovLen s c else 0 }
      if inRun && decide (fld (forceOf s (R.grpCfg (ctxGrp s c))) 27 20 ≤ m) then ctxLose s c else s
  setCtx s c { ctxOf s c with rel := a, relC := a }

/-! ### Releasing groups (R245-R247) -/

/-- The LTC of meridian `t`, counted on from the epoch. -/
def merOf (s : State) (t : Nat) : Nat := t / fsOf s * 1000000000 + merNs (fsOf s) (t % fsOf s)

/-- The deadline of a group after meridian `t`. -/
def dueOf (s : State) (g t : Nat) : Nat := merOf s t + fld (forceOf s (R.grpCfg g)) 19 0

/-- A member is in RUN at tick `t`: RUN starts with the sample after the third in a row (R244). -/
def ctxRuns (s : State) (t c : Nat) : Bool :=
  decide ((ctxOf s c).st = .run) && decide ((ctxOf s c).runFrom ≤ ctxK s c * t)

/-- A member holds its group's release of tick `t`. -/
def ctxHolds (s : State) (t c : Nat) : Bool := ctxRuns s t c && !(ctxOf s c).com.contains (ctxK s c * t)

/-- The release of tick `t` of a group is due (R245). -/
def relDue (s : State) (g t : Nat) : Bool :=
  let ms := members s g
  !ms.isEmpty &&
  ((ms.any (ctxRuns s t) && !ms.any (ctxHolds s t)) || decide (dueOf s g t ≤ s.ltc))

/-- An SVP publication of the raw samples of context `c`: the frames that end in the release of tick `t` are ready (R253). -/
def svpRaw (s : State) (c t : Nat) : State :=
  each s.svp.pubs s fun e s =>
    let cfg := forceOf s (R.pubCfg e.1)
    if e.2.on && fld cfg 25 24 == 1 && fld (forceOf s (R.pubSrc e.1)) 9 0 == c then
      let m := max 1 (fld cfg 7 4)
      let l := ((List.range (ctxK s c)).map fun i => ctxK s c * (t - 1) + 1 + i).filter fun a => (a + 1) % m == 0
      { s with svp := { s.svp with pubs := mset {} s.svp.pubs e.1 { e.2 with ready := e.2.ready ++ l.map fun a => (a, s.now) } } }
    else s

/-- A notification of the SCA to the partitions of SCA_NOTIFY, with a record where `sev` names one (R298). -/
def scaNote (s : State) (cls code info : Nat) (sev : Option Nat) : State :=
  let s := match sev with | some v => almPost s v 0x0B code none [word info] | none => s
  notifyAll s (forceOf s R.scaNotify) cls 0x0B code info

/-- SCA_QUEUE_PTR_RESET (R297). -/
def scaPtrReset (s : State) : State :=
  let s := setEvt { s with sca := { s.sca with q := {} } } R.scaEvt 6
  scaNote (ptrSum s 0x0B) 0 0x01 0 (some 1)

/-- The queue's pointers are compared before an operation on it. -/
def scaCheck (s : State) : State := if qOk s.sca.q then s else scaPtrReset s

/-- A release enters the SCA's queue (R267, R297). -/
def scaPush (s : State) (r : Release) : State :=
  let s := scaCheck s
  { s with sca := { s.sca with q := qPush 2048 s.sca.q r } }

/-- The context's first sample in RUN is one of those of tick `t` (R244, R288). -/
def ctxEntersRun (s : State) (t c : Nat) : Bool :=
  let x := ctxOf s c
  decide (x.st = .run) && decide (ctxK s c * (t - 1) < x.runFrom) && decide (x.runFrom ≤ ctxK s c * t)

/-- GROUP_RELEASE (R245): the samples of tick `t` are finalised and the release passed to the SCA. -/
def grpRelease (s : State) (g t : Nat) : State :=
  let runs := (members s g).filter (ctxEntersRun s t)
  let dl := (members s g).isEmpty || (members s g).any (ctxHolds s t) || !(members s g).any (ctxRuns s t)
  let ms := members s g
  let s := each ms s fun c s =>
    upto (ctxK s c) (ctxCheck s c) fun i s => finalise s c (ctxK s c * (t - 1) + 1 + i)
  let s := each ms s fun c s => svpRaw s c t
  let lat := s.ltc - merOf s t
  let s := setLive s (R.grpLat g) (word (max (liveOf s (R.grpLat g)).toNat (min lat 0xFFFFF)))
  let s := if dl then bump s (R.grpCnt g) 15 0 1 else s
  let s := setGrp s g { grpOf s g with next := some (t + 1), nextC := some (t + 1) }
  scaPush s { grp := g, tick := t, dl := dl, at_ := s.now, ltc := s.ltc, runs := runs }

/-- The group's rule, evaluated now (R245, R246): indices are released in order as long as they are due. -/
def grpTry (g : Nat) : Nat → State → State
  | 0, s => s
  | fuel + 1, s =>
    let s := grpCheck s g
    match (grpOf s g).on, (grpOf s g).next with
    | true, some t => if relDue s g t then grpTry g fuel (grpRelease s g t) else s
    | _, _ => s

/-- The group's rule with room for every index a deadline can hold back. -/
def grpEval (s : State) (g : Nat) : State := grpTry g 128 s

/-- GROUP_DEADLINE (R247): the deadline of the group's next index is reached. -/
def grpDeadline (s : State) (g : Nat) : State :=
  match (grpOf s g).on, (grpOf s g).next with
  | true, some t => grpEval (reachLtc s (dueOf s g t)) g
  | _, _ => s

/-- GROUP_DEADLINE (R247). -/
def execGroupDeadline (g : Fin 256) (s : State) : Host.Outcome State Fault Refusal := .next (grpDeadline s g.val)

/-- CTX_LOST (R244): where the next index of its group brings the context to LOST_N missing samples in a row, the deadline
that does so is reached. -/
def execCtxLost (c : Fin 1024) (s : State) : Host.Outcome State Fault Refusal :=
  .next (
    let x := ctxOf s c.val
    let g := ctxGrp s c.val
    if x.st = .run ∧ fld (forceOf s (R.grpCfg g)) 27 20 ≤ x.missRun + ctxK s c.val then grpDeadline s g else s)

/-- RECOVERY_COUNT_EXPIRY (R243): where the next index of its group releases the sample that brings the count to 0, that
release is made. -/
def execRecoveryCountExpiry (c : Fin 1024) (s : State) : Host.Outcome State Fault Refusal :=
  .next (
    let x := ctxOf s c.val
    if 0 < x.recov ∧ x.recov ≤ ctxK s c.val ∧ x.com.contains (x.rel + 1) then grpDeadline s (ctxGrp s c.val) else s)

/-! ### Committing a sample (R237-R239) -/

/-- The sample number a frame's sample is placed at by count: the second nearest its arrival (R237). -/
def placeCount (rate smp arrival : Nat) : Nat :=
  (arrival * rate + rate * 500000000 - smp * 1000000000) / (rate * 1000000000) * rate + smp

/-- The tick in progress at an instant of the LTC. -/
def tickOf (s : State) (arrival : Nat) : Nat :=
  if s.time.tickStart ≤ arrival ∧ arrival < nextMer s then curTick s else secOf arrival * fsOf s + tickIn (fsOf s) (nsOf arrival)

/-- The place of the first sample placed by arrival (R238): in the release of the tick in progress at its arrival. -/
def placeFirst (s : State) (c smp arrival : Nat) : Nat :=
  let k := ctxK s c
  let t := tickOf s arrival
  k * t - (k * t + k - smp % k) % k

/-- The place of a later sample: by its difference from the last one placed (R238). -/
def placeLater (rate smp smp0 at0 : Nat) : Nat :=
  let d := (smp + rate - smp0) % rate
  if d ≤ rate / 2 then at0 + d else at0 + d - rate

/-- The synchronisation class of smpSynch, and whether it is placed by count (R237, R238, R240). -/
def syncClass (b : Byte) : Nat := if b = 2#8 then 2 else if b = 1#8 ∨ (5#8 ≤ b ∧ b ≠ 255#8) then 1 else 0

/-- The ingest quality of a committed sample before its release (R240). -/
def ingestQ (sync : Nat) (sim : Bool) (q : Word) : Word :=
  word (q.toNat % 2 ^ 14 + b2n (bit q 11) 29 + b2n sim 28 + b2n (sync == 2) 27 + b2n (sync == 1) 26)

/-- Three consecutive samples committed before their group's deadline: RUN from the sample after them on (R244). -/
def ctxResume (s : State) (c a : Nat) : State :=
  let x := ctxOf s c
  let k := ctxK s c
  if (x.st = .wait ∨ x.st = .lost) ∧ s.ltc < dueOf s (ctxGrp s c) ((a + k - 1) / k) then
    let l := (a :: x.timely).take 128
    match [a - 2, a - 1, a].find? fun b => [b, b + 1, b + 2].all l.contains with
    | some b =>
      let s := setCtx s c { x with st := .run, runFrom := b + 3, missRun := 0, timely := [] }
      let s := setEvt (setEvt s (R.ctxEvt c) 2) R.siuEvt 1
      siuPost s (ownerOf s 1 c) 2 0x11 c none
    | none => setCtx s c { x with timely := l }
  else s

/-- The group of a context is paced (R246). -/
def ctxPaced (s : State) (c : Nat) : Bool := (grpOf s (ctxGrp s c)).on && (grpOf s (ctxGrp s c)).next.isSome

/-- The values of a sample enter the stream buffer with their ingest qualities. -/
def svStore (s : State) (c a : Nat) (x : SvAsdu) (sim : Bool) : State :=
  upto (slotCount s c) s fun j s =>
    match x.data[j]? with
    | some (v, q) => sbPut s c j a v (ingestQ (syncClass x.synch) sim q)
    | none => sbPut s c j a 0#32 0#32

/-- A sample that is committed already (R239): of two copies that commit in one FAB cycle, that of MAC0 is kept. -/
def svDup (s : State) (c a port : Nat) (x : SvAsdu) (sim : Bool) : State :=
  let y := ctxOf s c
  let s := siuCount (setCtx s c { y with early := 0 }) 6 1
  if port = 0 ∧ y.com.contains a ∧ y.fromB.any fun e => e.1 == a && e.2 / 2 == s.now / 2 then svStore s c a x sim else s

/-- SV_SAMPLE_COMMIT (R239): sample `a` of context `c`, from a port. -/
def svCommit (s : State) (c a port : Nat) (x : SvAsdu) (sim : Bool) : State :=
  let y := ctxOf s c
  if ctxPaced s c ∧ (y.com.contains a ∨ y.done.contains a) then svDup s c a port x sim
  else if ctxPaced s c ∧ a ≤ y.rel then setEvt (bump (setCtx s c { y with early := 0 }) (R.ctxCnt c) 15 8 1) (R.ctxEvt c) 4
  else if !ctxPaced s c ∨ y.rel + 120 < a then
    let s := siuCount s 7 1
    if 2 ≤ y.early then ctxWait s c else setCtx s c { y with early := y.early + 1 }
  else
    let b := y.fromB.filter fun e => e.2 / 2 == s.now / 2
    let s := setCtx s c { y with com := insNat a y.com, newest := max a y.newest, newestC := max a y.newest, early := 0, fromB := if port = 1 then (a, s.now) :: b else b }
    ctxResume (ctxSide (svStore s c a x sim) c) c a

/-- A sample would be committed at place `a` (R239). -/
def svFits (s : State) (c a : Nat) : Bool :=
  let y := ctxOf s c
  ctxPaced s c && !y.com.contains a && !y.done.contains a && decide (y.rel < a) && decide (a ≤ y.rel + 120)

/-- Where a sample is placed (R237, R238). -/
def svPlaceAt (s : State) (c : Nat) (x : SvAsdu) (arrival : Nat) : Nat :=
  let n := x.smpCnt.toNat
  if syncClass x.synch ≠ 0 then placeCount (ctxRate s c) n arrival
  else match (ctxOf s c).placing with
    | .arrival n0 a0 => placeLater (ctxRate s c) n n0 a0
    | _ => placeFirst s c n arrival

/-- SIM_LATCH of a context changes (R241, R260). -/
def simLatch (s : State) (c : Nat) (v : Bool) : State :=
  let s := setCtx s c { ctxOf s c with simLatch := v }
  ctxWait (siuPost s (ownerOf s 1 c) 1 0x13 (b2n v 15 + c) (some 2)) c

/-- A matched, admitted ASDU is placed and committed (R237, R238). The first simulated frame that commits sets SIM_LATCH (R241).
A context whose pointers disagree is flushed with the frame in progress (R252). -/
def svPlace (s : State) (c port : Nat) (x : SvAsdu) (sim : Bool) (arrival first : Nat) : State :=
  if !ctxPtrOk (ctxOf s c) then
    let s := ctxPtrReset s c
    setCtx s c { ctxOf s c with flushAt := max (ctxOf s c).flushAt (first + 1) }
  else
    let byCount := decide (syncClass x.synch ≠ 0)
    let s := setCtx s c { ctxOf s c with sync := syncClass x.synch }
    let s := match (ctxOf s c).placing, byCount with
      | .arrival _ _, true => ctxWait s c
      | .count, false => ctxWait s c
      | _, _ => s
    let s := if sim && !(ctxOf s c).simLatch && svFits s c (svPlaceAt s c x arrival) then simLatch s c true else s
    let a := svPlaceAt s c x arrival
    svCommit (setCtx s c { ctxOf s c with placing := if byCount then .count else .arrival x.smpCnt.toNat a }) c a port x sim

/-! ### Frames (R234-R236, R241, R248) -/

/-- A MAC value verifies under a slot whose key identifier the frame names (R248, R249). -/
def macOk (key : Nat → List Byte) (keyId : Nat → Word) (slots : List Nat) (x : AuthExt) : Bool :=
  x.algOk && slots.any fun k => keyId k == x.keyId && decide (key k ≠ []) && Config.verifies 1 (key k ++ x.body) x.mac

/-- The frame, whose first byte came at `first`, authenticates for context `c` with the slots in force then (R249). -/
def svAuthOk (s : State) (c : Nat) (f : SvFrame) (first : Nat) : Bool :=
  match f.auth with
  | none => false
  | some x =>
    let k := forceOf s (R.ctxKey c)
    let old := decide (first < s.siu.keysTill)
    macOk (fun i => if old then mget [] s.siu.keys (3 * 256 + i) else slotKey s 3 i)
      (fun i => if old then (mfind s.siu.keyIds (R.siuKeyId i)).getD (regReset (R.siuKeyId i)) else forceOf s (R.siuKeyId i))
      [fld k 5 0, fld k 13 8] x

/-- AUTH_FAIL (R248, R260). -/
def authFail (s : State) (c : Nat) : State :=
  let s := if evt s (R.ctxEvt c) 5 then s else siuPost s (ownerOf s 1 c) 1 0x12 c (some 1)
  setEvt (setEvt (bump s (R.ctxCnt c) 7 0 1) (R.ctxEvt c) 5) R.siuEvt 2

/-- The context an ASDU matches (R236). -/
def svMatch (s : State) (port : Nat) (f : SvFrame) (x : SvAsdu) : Option Nat :=
  (ctxsOn s).find? fun c =>
    let id := forceOf s (R.ctxId c)
    decide (0 < ctxN s c) && fld id 31 16 == f.appId.toNat && fld id 5 0 == x.svId.length &&
      forceOf s (R.ctxSvidCrc c) == crc32 x.svId && bit (ctxCfg s c) port

/-- One ASDU of a frame (R236, R241, R248, R251); the list names the contexts whose failure has been counted for this frame. -/
def svAsdu (port : Nat) (f : SvFrame) (arrival first : Nat) (r : State × List Nat) (x : SvAsdu) : State × List Nat :=
  let s := r.1
  match svMatch s port f x with
  | none => (setEvt (siuCount s 1 1) R.siuEvt 4, r.2)
  | some c =>
    let acc := match ownerOf s 1 c with | some p => bit (forceOf s R.siuSimAcc) p | none => false
    if first < (ctxOf s c).flushAt then r
    else if x.confRev ≠ forceOf s (R.ctxConfrev c) then
      (setEvt (setEvt (siuCount s 3 1) R.siuEvt 5) (R.ctxEvt c) 6, r.2)
    else if x.data.length ≠ ctxN s c ∨ x.extra ≠ 0 then (setEvt (siuCount s 4 1) R.siuEvt 3, r.2)
    else if (match x.rate with | some n => n != ctxRate s c | none => false) || decide (ctxRate s c ≤ x.smpCnt.toNat) then
      (setEvt (siuCount s 5 1) R.siuEvt 3, r.2)
    else if (f.sim ∧ !acc) ∨ (acc ∧ (ctxOf s c).simLatch ∧ !f.sim) then (siuCount s 8 1, r.2)
    else
      let mode := fld (ctxCfg s c) 30 29
      let bad := decide (mode ≠ 0) && !svAuthOk s c f first
      let s := if bad && !r.2.contains c then authFail s c else s
      let l := if bad then c :: r.2 else r.2
      if bad && mode == 1 then (s, l) else (svPlace s c port x f.sim arrival first, l)

/-- The group's rule is evaluated for every enabled group (R245). -/
def siuEval (s : State) : State := each (grpsOn s) s fun g s => grpEval s g

/-- A complete receive item of the SIU (R234-R236), none where it is malformed; `port` 0 and 1 are the MACs, 2 is the loop. The groups
are evaluated once its samples have committed (R259). -/
def svFrame (s : State) (port : Nat) (f : Option SvFrame) (arrival first : Nat) : State :=
  let s := siuCount s 0 1
  match f with
  | none => setEvt (siuCount s 2 1) R.siuEvt 3
  | some f =>
    let on := f.asdus.any fun x => match svMatch s port f x with
      | some c => decide (fld (ctxCfg s c) 30 29 ≠ 0) | none => false
    let s := match f.auth with
      | some x => if on && !x.algOk then siuCount s 9 1 else s
      | none => s
    siuEval (f.asdus.foldl (svAsdu port f arrival first) (s, [])).1

/-- SV_FRAME_RX (R234): the oldest good receive item of a port, the frame `f` whose stamp has the fraction `frac`, is taken; its receive stamp
is the arrival time (R181). -/
def execSvFrameRx (port : Fin 2) (frac : Fin 1024) (f : EthFrame) (s : State) : Host.Outcome State Fault Refusal :=
  .next (
    let r := itemNext s port.val 1
    match r.1 with
    | none => r.2
    | some x =>
      if x.frame = f ∧ stampFrac x.stamp = frac then svFrame (itemTake r.2 x) port.val (svParse f) (x.stamp / 256).toNat x.first else r.2)

/-! ### Flush, settings, steps -/

/-- The lead of a context's dataset (R251). -/
def leadOf (s : State) (c : Nat) : Nat :=
  if 0 < ctxN s c ∨ !bit (ctxCfg s c) 31 then c
  else if 0 < ctxN s (c - 1) then c - 1 else c - 2

/-- CTX_FLUSH (R251), for the owner of the context named alone (R144). -/
def execCtxFlush (a : Acc) (c : Fin 1024) (s : State) : Host.Outcome State Fault Refusal :=
  .next (regAccess s a R.siuCtxFlush true fun s =>
    let t := accTag s a
    let l := leadOf s c.val
    if !t.secure && !t.sys && ownerOf s 1 c.val != some t.pid.val then busError s t true R.siuCtxFlush 6
    else if (ctxOf s l).st = .disabled then s else grpEval (ctxFlushAt (ctxCheck s l) l s.now) (ctxGrp s l))

/-- A group takes its first NEXT (R246). -/
def grpPace (s : State) (g t : Nat) : State :=
  let s := setGrp s g { on := true, next := some t, nextC := some t }
  each (members s g) s fun c s => setCtx s c { ctxOf s c with rel := ctxK s c * (t - 1), relC := ctxK s c * (t - 1) }

/-- A setting that gives a context its identity, format or group (R244). -/
def ctxIdentity (s : State) (c : Nat) : List Nat :=
  [(forceOf s (R.ctxId c)).toNat, (forceOf s (R.ctxSvidCrc c)).toNat, (forceOf s (R.ctxConfrev c)).toNat,
   fld (ctxCfg s c) 23 16, fld (ctxCfg s c) 12 8, fld (ctxCfg s c) 6 4]

/-- A context under a set that has entered force; `s0` is the state before (R244). -/
def ctxInForce (s0 s : State) (c : Nat) : State :=
  let lead := fun t => bit (ctxCfg t c) 31 && decide (0 < ctxN t c)
  if !lead s then (if lead s0 then setCtx s c {} else s)
  else if !lead s0 then
    let r := match (grpOf s (ctxGrp s c)).next with | some t => ctxK s c * (t - 1) | none => 0
    setCtx s c { st := .wait, recov := recovLen s c, rel := r, relC := r }
  else if ctxIdentity s0 c ≠ ctxIdentity s c then
    let r := match (grpOf s (ctxGrp s c)).next with | some t => ctxK s c * (t - 1) | none => 0
    let s := ctxWaitOf s c (ctxSpan (ctxN s0 c))
    setCtx s c { ctxOf s c with event := true, held := [], rel := r, relC := r, done := [] }
  else s

/-- The key slots and identifiers in force before are kept for the frames in progress (R249, R259). -/
def siuKeysOld (s0 s : State) : State :=
  { s with siu := { s.siu with
    keys := mtake s0.trust.slots (3 * 256) (4 * 256)
    keyIds := mtake s0.force (R.siuKeyId 0) (R.siuKeyId 64)
    keysTill := s.now } }

/-- A SIU set has entered force (R244, R246). -/
def siuInForce (s0 s : State) : State :=
  let s := siuKeysOld s0 s
  let gs := (grpsOn s0 ++ grpsOn s).foldl (fun l g => insNat g l) []
  let s := each gs s fun g s =>
    let on := bit (forceOf s (R.grpCfg g)) 31
    if on && !(grpOf s g).on then (if s.time.tickRun then grpPace s g (curTick s) else setGrp s g { on := true })
    else if !on then setGrp s g {} else s
  let cs := (ctxsOn s0 ++ ctxsOn s).foldl (fun l c => insNat c l) []
  each cs s fun c s => ctxInForce s0 s c

/-- The first meridian that falls paces the groups that wait for it (R246). -/
def siuPace (s : State) : State :=
  each s.siu.grps s fun e s => if e.2.on && e.2.next.isNone then grpPace s e.1 (curTick s) else s

/-- SIM_LATCH of every context whose owner's bit has returned to 0 clears (R241). -/
def siuSim (s : State) : State :=
  each s.siu.ctxs s fun e s =>
    let acc := match ownerOf s 1 e.1 with | some p => bit (forceOf s R.siuSimAcc) p | none => false
    if (ctxOf s e.1).simLatch && !acc then simLatch s e.1 false else s

/-- An alignment step (R259): every enabled context enters WAIT, every group's NEXT is the step tick's number. -/
def siuStep (s : State) : State :=
  let t := curTick s
  let s := each s.siu.ctxs s fun e s => if (ctxOf s e.1).st = .disabled then s else ctxWait s e.1
  each s.siu.grps s fun e s => if e.2.on then grpPace s e.1 t else s

/-! ### Registers and commit checks -/

def ctxCode : CtxState → Nat
  | .disabled => 0 | .wait => 1 | .run => 2 | .lost => 3

/-- The computed registers of the SIU at offset `o` (R263). -/
def readSiu (s : State) (o : Nat) : Option Word :=
  if o = 0 then
    some (word ((s.siu.ctxs.filter fun e => e.2.st = .run).length * 65536 + (s.siu.ctxs.filter fun e => e.2.st = .lost).length))
  else if 0x1000 ≤ o ∧ o < 0x9000 ∧ o % 0x20 = 0x14 then
    let x := ctxOf s (leadOf s ((o - 0x1000) / 0x20))
    some (word (ctxCode x.st * 2 ^ 30 + b2n x.simLatch 29 + b2n x.side 28 + x.com.length % 128 * 2 ^ 20 + x.sync * 2 ^ 18 + x.recov % 512 * 512 + x.missRun % 256))
  else if 0x9000 ≤ o ∧ o < 0xA000 ∧ o % 0x10 = 4 then
    let g := (o - 0x9000) / 0x10
    match (grpOf s g).next with
    | some t => some (word (b2n ((members s g).any (ctxHolds s t)) 31 + t % fsOf s * 65536 + t / fsOf s % 65536))
    | none => some 0#32
  else none

/-- The contexts enabled in a pending set. -/
def ctxsIn (ps : PendSet) : List Nat :=
  (mtake ps.vals 0xF0091000 0xF0099000).filterMap fun e =>
    if e.1 % 0x20 = 0 ∧ bit e.2 31 then some ((e.1 - 0xF0091000) / 0x20) else none

/-- The check of one context of a set (R230, R231, R248, R263). -/
def checkCtx (s : State) (ps : PendSet) (c : Nat) : Option (Nat × Nat) :=
  let v := pendVal ps.vals
  let o := 0x1000 + c * 0x20
  let cfg := v (R.ctxCfg c)
  let n := fld cfg 12 8
  let cont := fun d => decide (d < 1024) && bit (v (R.ctxCfg d)) 31 && fld (v (R.ctxCfg d)) 12 8 == 0 && fld (v (R.ctxCfg d)) 23 16 == fld cfg 23 16
  let leads := fun d => bit (v (R.ctxCfg d)) 31 && fld (v (R.ctxCfg d)) 23 16 == fld cfg 23 16
  if ownerOf s 1 c ≠ ownerOf s 2 (fld cfg 23 16) then some (2, o)
  else if n = 0 then
    let l1 := decide (0 < c) && leads (c - 1) && decide (8 < fld (v (R.ctxCfg (c - 1))) 12 8)
    let l2 := decide (1 < c) && leads (c - 2) && decide (16 < fld (v (R.ctxCfg (c - 2))) 12 8) && cont (c - 1)
    if l1 || l2 then none else some (2, o)
  else if fld cfg 30 29 = 3 ∨ fld cfg 27 26 = 3 ∨ 24 < n ∨ !rateOk (fsOf s) (fld cfg 6 4) then some (3, o)
  else if fld (v (R.ctxId c)) 5 0 = 0 then some (3, o + 4)
  else if !((List.range (ctxSpan n - 1)).all fun i => cont (c + 1 + i) && ownerOf s 1 (c + 1 + i) == ownerOf s 1 c) then some (2, o)
  else
    let key := fun d => (fld (v (R.ctxId d)) 31 16, fld (v (R.ctxId d)) 5 0, v (R.ctxSvidCrc d))
    if (ctxsIn ps).any fun d => decide (d < c) && decide (0 < fld (v (R.ctxCfg d)) 12 8) && key d == key c then some (2, o + 4) else none

/-- The check of a SIU set (R230, R231, R236, R247, R250): cause and offset. -/
def checkSiu (s : State) (ps : PendSet) : Option (Nat × Nat) :=
  let v := pendVal ps.vals
  let w := v R.siuBufWm
  if !(decide (fld w 6 0 < fld w 22 16) && decide (fld w 22 16 ≤ 120)) then some (2, 0x18)
  else
    match (ctxsIn ps).findSome? (checkCtx s ps) with
    | some f => some f
    | none =>
      (mtake ps.vals 0xF0099000 0xF009A000).findSome? fun e =>
        if e.1 % 0x10 = 0 ∧ bit e.2 31 ∧ (fld e.2 19 0 < 1000 ∨ 1000000 < fld e.2 19 0 ∨ fld e.2 27 20 < 2)
        then some (3, e.1 % 0x10000) else none

end Sys2Proof.Machine
end

