-- ==== Sys2Proof/Machine/Real.lean ====
section
/-! DEFINITION. Real functions in fixed point, for the rules that state a result by a formula: an angle or a value `x` stands for
x / 2¹⁹², and what is cut off lies below every accuracy that a rule states. -/

namespace Sys2Proof.Machine

/-- π × 2¹⁹², cut off. -/
abbrev fxPi : Int := 0x3243F6A8885A308D313198A2E03707344A4093822299F31D0

/-- 1 × 2¹⁹². -/
abbrev fxOne : Int := 2 ^ 192

/-- A product of two values. -/
def fxMul (a b : Int) : Int := a * b / fxOne

/-- `n` terms of a power series from `t`, the term of exponent `k`: each is −x² / ((k + 1)(k + 2)) times the one before. -/
def trigSum (x2 : Int) : Nat → Int → Int → Int
  | 0, _, _ => 0
  | n + 1, k, t => t + trigSum x2 n (k + 2) (-(fxMul t x2) / ((k + 1) * (k + 2)))

/-- An angle taken into [−π, π). -/
def fxWrap (x : Int) : Int := (x + fxPi) % (2 * fxPi) - fxPi

/-- Sine and cosine of an angle. -/
def fxSin (x : Int) : Int := let y := fxWrap x; trigSum (fxMul y y) 32 1 y
def fxCos (x : Int) : Int := let y := fxWrap x; trigSum (fxMul y y) 32 0 fxOne

/-- `n` terms of Euler's series of atan (a / b) with a ≤ b from `t`, the term of number `k`. -/
def atanSum (a b : Nat) : Nat → Nat → Nat → Nat
  | 0, _, _ => 0
  | n + 1, k, t => t + atanSum a b n (k + 1) (t * (2 * k + 2) * (a * a) / ((2 * k + 3) * (a * a + b * b)))

/-- atan (a / b) for a ≤ b, times 2 to the power of `s`. -/
def atanFx (s a b : Nat) : Nat := atanSum a b 140 0 (a * b * 2 ^ s / (a * a + b * b))

/-- The angle of a point with the magnitudes `a` (imaginary) and `b` (real) in the first quadrant, times 2⁴⁴⁸. -/
def atanQ (a b : Nat) : Nat :=
  if a ≤ b then atanFx 448 a b else fxPi.toNat * 2 ^ 255 - atanFx 448 b a

end Sys2Proof.Machine
end

