-- ==== Sys2Proof/Machine/Fp.lean ====
section
/-! DEFINITION. FP32 arithmetic of the protection cores (R312, R347, R348): round to nearest even, subnormals are zeros,
one quiet NaN, sticky flags and no trap. Each operation gives its result and the FPSTAT bits it sets. -/

namespace Sys2Proof.Machine

/-- FPSTAT bits (R312). -/
abbrev fINV : Nat := 1
abbrev fDZ : Nat := 2
abbrev fOF : Nat := 4
abbrev fUF : Nat := 8
abbrev fSAT : Nat := 16

/-- The canonical quiet NaN (R312). -/
abbrev qNaN : Word := 0x7FC00000#32

/-- An FP32 operand, read with subnormals as zeros. -/
inductive Fp where
  | nan (signalling : Bool)
  | inf (sg : Bool)
  | zero (sg : Bool)
  | num (sg : Bool) (m : Nat) (e : Int)   -- ±m × 2^e, 2^23 ≤ m < 2^24
  deriving DecidableEq, Repr

/-- The operand a word holds (R312: a subnormal input is a zero of the same sign). -/
def Fp.read (w : Word) : Fp :=
  let sg := bit w 31
  let ex := fld w 30 23
  let fr := fld w 22 0
  if ex = 255 then (if fr = 0 then .inf sg else .nan (!(bit w 22)))
  else if ex = 0 then .zero sg
  else .num sg (2 ^ 23 + fr) ((ex : Int) - 150)

/-- The sign bit. -/
def fpSign (sg : Bool) : Word := if sg then 0x80000000#32 else 0#32
/-- A zero of the sign. -/
def fpZero (sg : Bool) : Word := fpSign sg
/-- An infinity of the sign. -/
def fpInf (sg : Bool) : Word := fpSign sg ||| 0x7F800000#32

/-- The nearest FP32 to ±(m + δ) × 2^e, where 0 < δ < 1 exactly when `rest`; ties to even; an overflow is an infinity and
sets OF, a subnormal result is a zero and sets UF (R312). Callers keep at least 26 bits in `m` when `rest` holds. -/
def fpRound (sg : Bool) (m : Nat) (e : Int) (rest : Bool) : Word × Nat :=
  if m = 0 ∧ rest = false then (fpZero sg, 0) else
  let len := Nat.log2 m + 1
  let q := max (e + (len : Int) - 24) (-149)
  let sh := q - e
  let n :=
    if sh ≤ 0 then m <<< (-sh).toNat
    else
      let k := sh.toNat
      let d := m >>> k
      let r := m % 2 ^ k
      let h := 2 ^ (k - 1)
      if h < r ∨ (r = h ∧ (rest ∨ d % 2 = 1)) then d + 1 else d
  let (n, q) := if n = 2 ^ 24 then (2 ^ 23, q + 1) else (n, q)
  if n < 2 ^ 23 then (fpZero sg, fUF)
  else
    let ex := q + 150
    if 255 ≤ ex then (fpInf sg, fOF)
    else (fpSign sg ||| word (ex.toNat * 2 ^ 23 + (n - 2 ^ 23)), 0)

/-- INV of a NaN operand. -/
def fpSnan : Fp → Nat
  | .nan true => fINV
  | _ => 0

/-- The operand is a NaN. -/
def fpIsNan : Fp → Bool
  | .nan _ => true
  | _ => false

/-- The sum of two finite operands ±ma×2^ea, ±mb×2^eb, rounded once; `zs` is the sign of an exact zero. -/
def fpSum (sa : Bool) (ma : Nat) (ea : Int) (sb : Bool) (mb : Nat) (eb : Int) (zs : Bool) : Word × Nat :=
  let e := min ea eb
  let a : Int := (ma <<< (ea - e).toNat : Nat)
  let b : Int := (mb <<< (eb - e).toNat : Nat)
  let t := (if sa then -a else a) + (if sb then -b else b)
  if t = 0 then (fpZero zs, 0) else fpRound (decide (t < 0)) t.natAbs e false

/-- FADD of two operands read. -/
def fpAddC (x y : Fp) : Word × Nat :=
  match x, y with
  | .nan a, y => (qNaN, fpSnan (.nan a) ||| fpSnan y)
  | x, .nan b => (qNaN, fpSnan x ||| fpSnan (.nan b))
  | .inf a, .inf b => if a = b then (fpInf a, 0) else (qNaN, fINV)
  | .inf a, _ => (fpInf a, 0)
  | _, .inf b => (fpInf b, 0)
  | .zero a, .zero b => (fpZero (a && b), 0)
  | .zero a, .num b m e => fpSum a 0 e b m e false
  | .num a m e, .zero b => fpSum a m e b 0 e false
  | .num a m e, .num b n f => fpSum a m e b n f false

/-- The operand with its sign changed. -/
def fpNegC : Fp → Fp
  | .nan s => .nan s
  | .inf a => .inf (!a)
  | .zero a => .zero (!a)
  | .num a m e => .num (!a) m e

/-- FADD (R347). -/
def fadd (a b : Word) : Word × Nat := fpAddC (.read a) (.read b)
/-- FSUB (R347). -/
def fsub (a b : Word) : Word × Nat := fpAddC (.read a) (fpNegC (.read b))

/-- FMUL (R347). -/
def fmul (a b : Word) : Word × Nat :=
  match Fp.read a, Fp.read b with
  | .nan x, y => (qNaN, fpSnan (.nan x) ||| fpSnan y)
  | x, .nan y => (qNaN, fpSnan x ||| fpSnan (.nan y))
  | .inf x, .inf y => (fpInf (x != y), 0)
  | .inf _, .zero _ => (qNaN, fINV)
  | .zero _, .inf _ => (qNaN, fINV)
  | .inf x, .num y _ _ => (fpInf (x != y), 0)
  | .num x _ _, .inf y => (fpInf (x != y), 0)
  | .zero x, .zero y => (fpZero (x != y), 0)
  | .zero x, .num y _ _ => (fpZero (x != y), 0)
  | .num x _ _, .zero y => (fpZero (x != y), 0)
  | .num x m e, .num y n f => fpRound (x != y) (m * n) (e + f) false

/-- FDIV (R347): a finite dividend over zero sets DZ. -/
def fdiv (a b : Word) : Word × Nat :=
  match Fp.read a, Fp.read b with
  | .nan x, y => (qNaN, fpSnan (.nan x) ||| fpSnan y)
  | x, .nan y => (qNaN, fpSnan x ||| fpSnan (.nan y))
  | .inf _, .inf _ => (qNaN, fINV)
  | .zero _, .zero _ => (qNaN, fINV)
  | .inf x, .zero y => (fpInf (x != y), 0)
  | .inf x, .num y _ _ => (fpInf (x != y), 0)
  | .zero x, .inf y => (fpZero (x != y), 0)
  | .zero x, .num y _ _ => (fpZero (x != y), 0)
  | .num x _ _, .inf y => (fpZero (x != y), 0)
  | .num x _ _, .zero y => (fpInf (x != y), fDZ)
  | .num x m e, .num y n f => fpRound (x != y) (m <<< 40 / n) (e - f - 40) (decide (m <<< 40 % n ≠ 0))

/-- Integer square root of `n`, by digits: `k` is the bit tried. -/
def isqrtAux (n : Nat) : Nat → Nat → Nat
  | 0, r => r
  | k + 1, r => if (r + 2 ^ k) * (r + 2 ^ k) ≤ n then isqrtAux n k (r + 2 ^ k) else isqrtAux n k r

/-- The largest `r` with `r * r ≤ n`. -/
def isqrt (n : Nat) : Nat := isqrtAux n (Nat.log2 n / 2 + 1) 0

/-- The square root of m × 2^e (m > 0), rounded once. -/
def fpRoot (m : Nat) (e : Int) : Word × Nat :=
  let (m, e) := if e % 2 = 0 then (m, e) else (m * 2, e - 1)
  let n := m <<< 60
  let r := isqrt n
  fpRound false r (e / 2 - 30) (decide (r * r ≠ n))

/-- FSQRT (R347). -/
def fsqrt (a : Word) : Word × Nat :=
  match Fp.read a with
  | .nan x => (qNaN, fpSnan (.nan x))
  | .inf true => (qNaN, fINV)
  | .inf false => (fpInf false, 0)
  | .zero x => (fpZero x, 0)
  | .num true _ _ => (qNaN, fINV)
  | .num false m e => fpRoot m e

/-- FMAC: c + a × b, rounded once (R347). -/
def fmac (c a b : Word) : Word × Nat :=
  let z := Fp.read c
  match Fp.read a, Fp.read b with
  | .nan x, y => (qNaN, fpSnan (.nan x) ||| fpSnan y ||| fpSnan z)
  | x, .nan y => (qNaN, fpSnan x ||| fpSnan (.nan y) ||| fpSnan z)
  | .inf _, .zero _ => (qNaN, match z with | .nan s => (if s || Config.fmacNanInv then fINV else 0) | _ => fINV)
  | .zero _, .inf _ => (qNaN, match z with | .nan s => (if s || Config.fmacNanInv then fINV else 0) | _ => fINV)
  | .inf x, .inf y => fpAddC z (.inf (x != y))
  | .inf x, .num y _ _ => fpAddC z (.inf (x != y))
  | .num x _ _, .inf y => fpAddC z (.inf (x != y))
  | .zero x, .zero y => fpAddC z (.zero (x != y))
  | .zero x, .num y _ _ => fpAddC z (.zero (x != y))
  | .num x _ _, .zero y => fpAddC z (.zero (x != y))
  | .num x m e, .num y n f =>
    match z with
    | .nan s => (qNaN, fpSnan (.nan s))
    | .inf s => (fpInf s, 0)
    | .zero s => fpSum s 0 (e + f) (x != y) (m * n) (e + f) false
    | .num s k g => fpSum s k g (x != y) (m * n) (e + f) false

/-- The order of FMIN, FMAX and the compares: −0 and +0 are apart only where `zeros` holds. -/
def fpLt (zeros : Bool) : Fp → Fp → Bool
  | .nan _, _ => false
  | _, .nan _ => false
  | .inf a, .inf b => a && !b
  | .inf a, _ => a
  | _, .inf b => !b
  | .zero a, .zero b => zeros && a && !b
  | .zero _, .num b _ _ => !b
  | .num a _ _, .zero _ => a
  | .num a m e, .num b n f =>
    let lo := min e f
    let x : Int := (m <<< (e - lo).toNat : Nat)
    let y : Int := (n <<< (f - lo).toNat : Nat)
    decide ((if a then -x else x) < (if b then -y else y))

/-- A number as it is written: subnormals as zeros, one NaN. -/
def fpWord (w : Word) : Word :=
  match Fp.read w with
  | .nan _ => qNaN
  | .zero s => fpZero s
  | _ => w

/-- FMIN (R347, R348). -/
def fmin (a b : Word) : Word × Nat :=
  let x := Fp.read a
  let y := Fp.read b
  let fl := fpSnan x ||| fpSnan y
  if fpIsNan x then (fpWord b, fl)
  else if fpIsNan y then (fpWord a, fl)
  else if fpLt true y x then (fpWord b, fl) else (fpWord a, fl)

/-- FMAX (R347, R348). -/
def fmax (a b : Word) : Word × Nat :=
  let x := Fp.read a
  let y := Fp.read b
  let fl := fpSnan x ||| fpSnan y
  if fpIsNan x then (fpWord b, fl)
  else if fpIsNan y then (fpWord a, fl)
  else if fpLt true x y then (fpWord b, fl) else (fpWord a, fl)

/-- FABS: the sign bit cleared (R347). -/
def fabs (a : Word) : Word × Nat := (a &&& 0x7FFFFFFF#32, 0)
/-- FNEG: the sign bit inverted (R347). -/
def fneg (a : Word) : Word × Nat := (a ^^^ 0x80000000#32, 0)

/-- An integer times 2^e to FP32. -/
def fpOfInt (n : Int) (e : Int) : Word × Nat :=
  if n = 0 then (0#32, 0) else fpRound (decide (n < 0)) n.natAbs e false

/-- FCVTSW: INT32 to FP32 (R347). -/
def fcvtsw (a : Word) : Word × Nat := fpOfInt a.toInt 0
/-- FCVTSQ: Q31 to FP32 (R347). -/
def fcvtsq (a : Word) : Word × Nat := fpOfInt a.toInt (-31)

/-- m × 2^e to the nearest integer, ties to even. -/
def roundNat (m : Nat) (e : Int) : Nat :=
  if 0 ≤ e then m <<< e.toNat
  else
    let k := (-e).toNat
    let d := m >>> k
    let r := m % 2 ^ k
    let h := 2 ^ (k - 1)
    if h < r ∨ (r = h ∧ d % 2 = 1) then d + 1 else d

/-- FP32 × 2^k to a signed 32-bit integer, saturated; the flags of a NaN and of saturation (R347, R348). -/
def fpToInt (a : Word) (k : Int) (satFl : Nat) : Word × Nat :=
  match Fp.read a with
  | .nan _ => (0#32, fINV)
  | .inf s => (if s then 0x80000000#32 else 0x7FFFFFFF#32, satFl)
  | .zero _ => (0#32, 0)
  | .num s m e =>
    let n := roundNat m (e + k)
    if s then (if 2 ^ 31 < n then (0x80000000#32, satFl) else (word n * (-1), 0))
    else if 2 ^ 31 ≤ n then (0x7FFFFFFF#32, satFl) else (word n, 0)

/-- FCVTWS (R347, R348): saturation sets INV. -/
def fcvtws (a : Word) : Word × Nat := fpToInt a 0 fINV
/-- FCVTQS (R347, R348): saturation sets SAT. -/
def fcvtqs (a : Word) : Word × Nat := fpToInt a 31 fSAT

/-- A normal result `r` (magnitude) moved by `d` units in the last place, at most `lim` of them; `up` and `down` say which way the
exact value lies from it, so that the farthest step is taken only towards it (R348). It stays among the normal numbers below `top`. -/
def fpStep (r : Word) (d : Int) (lim : Nat) (up down : Bool) (top : Nat) : Word :=
  let d := max (-(lim : Int)) (min lim d)
  let n := r.toNat + d
  if (d = lim ∧ !up) ∨ (d = -(lim : Int) ∧ !down) ∨ n < 0x00800000 ∨ (top : Int) < n then r else word n.toNat

/-- m × 2^e compared with N × 2^g: at most, at least. -/
def fpLeq (m : Nat) (e : Int) (n : Nat) (g : Int) : Bool × Bool :=
  let lo := min e g
  let x := m <<< (e - lo).toNat
  let y := n <<< (g - lo).toNat
  (decide (x ≤ y), decide (y ≤ x))

/-- The angle `n` / 2⁴⁴⁸ with a sign, within 2 units in the last place (R348) and in (−π, π]. -/
def fpAngle (a b : Word) (sg : Bool) (n : Nat) : Word × Nat :=
  let r := (fpRound false n (-448) true).1
  let c := match Fp.read r with | .num _ m e => fpLeq m e n (-448) | _ => (false, false)
  (fpSign sg ||| (if r.toNat < 0x00800000 then r else fpStep r (Config.fatan2Err a b) 2 c.1 c.2 0x40490FDB), 0)

/-- FATAN2 (R347): the angle of the point (b, a). An angle of exactly −π is π, since the range is (−π, π]. -/
def fatan2 (a b : Word) : Word × Nat :=
  let pi := fxPi.toNat * 2 ^ 256
  match Fp.read a, Fp.read b with
  | .nan x, y => (qNaN, fpSnan (.nan x) ||| fpSnan y)
  | x, .nan y => (qNaN, fpSnan x ||| fpSnan (.nan y))
  | .zero x, .zero false => (fpZero x, 0)
  | .zero x, .num false _ _ => (fpZero x, 0)
  | .zero x, .inf false => (fpZero x, 0)
  | .zero _, _ => fpAngle a b false pi
  | .num x _ _, .inf false => (fpZero x, 0)
  | .num _ _ _, .inf true => fpAngle a b false pi
  | .num x _ _, .zero _ => fpAngle a b x (pi / 2)
  | .inf x, .inf y => fpAngle a b x (if y then 3 * pi / 4 else pi / 4)
  | .inf x, _ => fpAngle a b x (pi / 2)
  | .num x m e, .num y n f =>
    let lo := min e f
    let t := atanQ (m <<< (e - lo).toNat) (n <<< (f - lo).toNat)
    fpAngle a b x (if y then pi - t else t)

/-- The root of n × 2^e, within 1 unit in the last place (R348); one that overflows sets OF. -/
def fpHyp (a b : Word) (n : Nat) (e : Int) : Word × Nat :=
  let (r, fl) := fpRoot n e
  match Fp.read r with
  | .num _ m q =>
    let c := fpLeq (m * m) (2 * q) n e
    (fpStep r (Config.fhypotErr a b) 1 c.1 c.2 0x7F7FFFFF, fl)
  | _ => (r, fl)

/-- FHYPOT (R347, R348). -/
def fhypot (a b : Word) : Word × Nat :=
  match Fp.read a, Fp.read b with
  | .nan true, _ => (qNaN, fINV)
  | _, .nan true => (qNaN, fINV)
  | .inf _, _ => (fpInf false, 0)
  | _, .inf _ => (fpInf false, 0)
  | .nan false, _ => (qNaN, 0)
  | _, .nan false => (qNaN, 0)
  | .zero _, .zero _ => (0#32, 0)
  | .zero _, .num _ n f => fpHyp a b (n * n) (2 * f)
  | .num _ m e, .zero _ => fpHyp a b (m * m) (2 * e)
  | .num _ m e, .num _ n f =>
    let lo := min e f
    let x := m <<< (e - lo).toNat
    let y := n <<< (f - lo).toNat
    fpHyp a b (x * x + y * y) (2 * lo)

/-- FEQ (R350, R348). -/
def feq (a b : Word) : Bool × Nat :=
  let x := Fp.read a
  let y := Fp.read b
  (!(fpIsNan x || fpIsNan y) && !fpLt false x y && !fpLt false y x, fpSnan x ||| fpSnan y)
/-- FLT (R350). -/
def flt (a b : Word) : Bool × Nat :=
  let x := Fp.read a
  let y := Fp.read b
  (fpLt false x y, if fpIsNan x || fpIsNan y then fINV else 0)
/-- FLE (R350). -/
def fle (a b : Word) : Bool × Nat :=
  let x := Fp.read a
  let y := Fp.read b
  (!(fpIsNan x || fpIsNan y) && !fpLt false y x, if fpIsNan x || fpIsNan y then fINV else 0)
/-- FUN (R350). -/
def fun_ (a b : Word) : Bool × Nat := (fpIsNan (.read a) || fpIsNan (.read b), 0)

end Sys2Proof.Machine
end

