-- ==== Sys2Proof/Machine/Flags.lean ====
section
/-! DEFINITION. The scalar operations of the protection cores as functions of their operands, each with the FPSTAT bits it
sets: integer (R343-R346), Q31 (R349, R313), compares (R350) and predicates (R351). -/

namespace Sys2Proof.Machine

/-- An integer held in 32 bits of two's complement: saturated, with SAT when it does not fit (R311, R312). -/
def satInt (n : Int) : Word × Nat :=
  if n < -(2 ^ 31) then (0x80000000#32, fSAT)
  else if 2 ^ 31 ≤ n then (0x7FFFFFFF#32, fSAT)
  else (BitVec.ofInt 32 n, 0)

def aluAdd (a b : Word) : Word × Nat := (a + b, 0)
def aluSub (a b : Word) : Word × Nat := (a - b, 0)
def aluAnd (a b : Word) : Word × Nat := (a &&& b, 0)
def aluOr (a b : Word) : Word × Nat := (a ||| b, 0)
def aluXor (a b : Word) : Word × Nat := (a ^^^ b, 0)
/-- Shift amounts are the low five bits (R343). -/
def shAmt (b : Word) : Nat := b.toNat % 32
def aluShl (a b : Word) : Word × Nat := (a <<< shAmt b, 0)
def aluShr (a b : Word) : Word × Nat := (a >>> shAmt b, 0)
def aluSra (a b : Word) : Word × Nat := (a.sshiftRight (shAmt b), 0)
def aluMul (a b : Word) : Word × Nat := (a * b, 0)
def aluMulh (a b : Word) : Word × Nat := (BitVec.ofInt 32 (a.toInt * b.toInt / 2 ^ 32), 0)
def aluMulhu (a b : Word) : Word × Nat := (word (a.toNat * b.toNat / 2 ^ 32), 0)
def aluAdds (a b : Word) : Word × Nat := satInt (a.toInt + b.toInt)
def aluSubs (a b : Word) : Word × Nat := satInt (a.toInt - b.toInt)
def aluMin (a b : Word) : Word × Nat := (if a.toInt ≤ b.toInt then a else b, 0)
def aluMax (a b : Word) : Word × Nat := (if a.toInt ≤ b.toInt then b else a, 0)
def aluMinu (a b : Word) : Word × Nat := (if a.toNat ≤ b.toNat then a else b, 0)
def aluMaxu (a b : Word) : Word × Nat := (if a.toNat ≤ b.toNat then b else a, 0)
/-- DIV (R343, R344). -/
def aluDiv (a b : Word) : Word × Nat :=
  if b = 0#32 then (0#32, fDZ) else satInt (a.toInt.tdiv b.toInt)
/-- DIVU (R343, R344). -/
def aluDivu (a b : Word) : Word × Nat := if b = 0#32 then (0#32, fDZ) else (word (a.toNat / b.toNat), 0)
/-- REM (R343, R344). -/
def aluRem (a b : Word) : Word × Nat :=
  if b = 0#32 then (a, fDZ) else (BitVec.ofInt 32 (a.toInt.tmod b.toInt), 0)
/-- REMU (R343, R344). -/
def aluRemu (a b : Word) : Word × Nat := if b = 0#32 then (a, fDZ) else (word (a.toNat % b.toNat), 0)
/-- ABS (R343). -/
def aluAbs (a : Word) : Word × Nat := satInt (a.toInt.natAbs : Int)
/-- CLZ (R343). -/
def aluClz (a : Word) : Word × Nat := (if a = 0#32 then 32#32 else word (31 - Nat.log2 a.toNat), 0)

/-- ADD64, SUB64, MULL, MULLU, ADDS64 (R346). -/
def add64 (a b : DWord) : DWord × Nat := (a + b, 0)
def sub64 (a b : DWord) : DWord × Nat := (a - b, 0)
def mull (a b : Word) : DWord × Nat := (BitVec.ofInt 64 (a.toInt * b.toInt), 0)
def mullu (a b : Word) : DWord × Nat := (BitVec.ofNat 64 (a.toNat * b.toNat), 0)
def adds64 (a b : DWord) : DWord × Nat :=
  let n := a.toInt + b.toInt
  if n < -(2 ^ 63) then (0x8000000000000000#64, fSAT)
  else if 2 ^ 63 ≤ n then (0x7FFFFFFFFFFFFFFF#64, fSAT)
  else (BitVec.ofInt 64 n, 0)

/-- The nearest integer to n / 2^k, ties away from zero (R313, R349). -/
def roundAway (n : Int) (k : Nat) : Int :=
  if k = 0 then n
  else
    let q : Int := ((n.natAbs + 2 ^ (k - 1)) / 2 ^ k : Nat)
    if n < 0 then -q else q

def qadd (a b : Word) : Word × Nat := satInt (a.toInt + b.toInt)
def qsub (a b : Word) : Word × Nat := satInt (a.toInt - b.toInt)
/-- QMUL (R313, R349). -/
def qmul (a b : Word) : Word × Nat := satInt (roundAway (a.toInt * b.toInt) 31)
/-- QMAC: the product is rounded, then added; each saturates (R349). -/
def qmac (c a b : Word) : Word × Nat :=
  let p := qmul a b
  let r := satInt (c.toInt + p.1.toInt)
  (r.1, p.2 ||| r.2)
def qabs (a : Word) : Word × Nat := satInt (a.toInt.natAbs : Int)
def qneg (a : Word) : Word × Nat := satInt (-a.toInt)
def qshl (a b : Word) : Word × Nat := satInt (a.toInt * 2 ^ shAmt b)
def qshr (a b : Word) : Word × Nat := (BitVec.ofInt 32 (roundAway a.toInt (shAmt b)), 0)

def cEq (a b : Word) : Bool × Nat := (a == b, 0)
def cNe (a b : Word) : Bool × Nat := (a != b, 0)
def cLt (a b : Word) : Bool × Nat := (decide (a.toInt < b.toInt), 0)
def cGe (a b : Word) : Bool × Nat := (decide (b.toInt ≤ a.toInt), 0)
def cLtu (a b : Word) : Bool × Nat := (decide (a.toNat < b.toNat), 0)
def cGeu (a b : Word) : Bool × Nat := (decide (b.toNat ≤ a.toNat), 0)
def cTst (a b : Word) : Bool × Nat := (a &&& b != 0#32, 0)
def cTstn (a b : Word) : Bool × Nat := (a &&& b == 0#32, 0)

def pAnd (a b : Byte) : Byte := a &&& b
def pOr (a b : Byte) : Byte := a ||| b
def pXor (a b : Byte) : Byte := a ^^^ b
def pAndn (a b : Byte) : Byte := a &&& ~~~b
def pNot (a : Byte) : Byte := ~~~a

end Sys2Proof.Machine
end

