-- ==== Sys2Proof/Machine/Tmx.lean ====
section
/-! DEFINITION. The TMX: operate flags (R413-R416), the lanes (R418-R422) and their readback (R422, R568). -/

namespace Sys2Proof.Machine

def laneOf (s : State) (n : Nat) : Lane := mget {} s.tmx.lanes n
def setLane (s : State) (n : Nat) (l : Lane) : State := { s with tmx := { s.tmx with lanes := mset {} s.tmx.lanes n l } }

/-- The pair `j` of lane `n`, value and complement, in force. -/
def srcWord (s : State) (n j : Nat) : Word := forceOf s (R.laneSrc n j)
def srcPairOk (s : State) (n j : Nat) : Bool := guardOk (srcWord s n j) (forceOf s (R.laneSrcC n j))

/-- An enabled pair of the lane fails its check (R422). -/
def laneBadPair (s : State) (n : Nat) : Bool :=
  (List.range 4).any fun j => (bit (srcWord s n j) 31 || bit (srcWord s n j) 15) && !srcPairOk s n j

/-- The flags that pair `j` enables. -/
def srcFlags (w : Word) : List Nat :=
  (if bit w 15 then [fld w 11 0] else []) ++ (if bit w 31 then [fld w 27 16] else [])

/-- The lane's flag state (R418). -/
def laneOp (s : State) (n : Nat) : Bool :=
  (List.range 4).any fun j => (srcFlags (srcWord s n j)).any fun f => flagState s f

/-- HOLD_WHY (R420): the first condition that applies, 0 for none. -/
def holdWhy (s : State) (n : Nat) : Nat :=
  let own := ownerOf s 5 n
  if !laneMaster s then 1
  else
    match own with
    | none => 2
    | some p =>
      let ps := (partOf s p).pstate
      if !bit (forceOf s (R.laneCfg n)) 31 then 2
      else if partOn s p && ps != .halted && (ps != .running || !(partOf s p).resumed) then 3
      else if !partOn s p || ps == .halted then 4
      else if (laneOf s n).guard then 5
      else if bit s.part.sliceHold n then 6
      else 0

/-- The lane's OPERATE is held by MIN_US (R419). -/
def minActive (s : State) (n : Nat) : Bool :=
  (laneOf s n).ever && decide (s.ltc < (laneOf s n).since + fld (forceOf s (R.laneCfg n)) 15 0 * 1000)

/-- The state a lane drives (R419, R420). -/
def laneDrive (s : State) (n : Nat) : Drive :=
  if holdWhy s n ≠ 0 then .hold
  else if laneOp s n || minActive s n then .operate
  else .reset

/-- A lane guard fault (R422). -/
def laneGuard (s : State) (n : Nat) : State :=
  if laneBadPair s n && !(laneOf s n).guard then
    let s := setEvt (guardFault (setLane s n { laneOf s n with guard := true }) 0x0E) R.tmxEvt 4
    postOwner (almPost s 1 0x0E 0x01 (ownerOf s 5 n) [word n]) (ownerOf s 5 n) 0 0x0E 0x01 n
  else s

/-- One lane brought to the state its conditions give (R419-R422). -/
def laneUpdate (s : State) (n : Nat) : State :=
  let s := laneGuard s n
  let d := laneDrive s n
  let l := laneOf s n
  let l' := { l with drive := d, why := holdWhy s n }
  if d = .operate ∧ l.drive ≠ .operate then bump (setLane s n { l' with since := s.ltc, ever := true }) (R.laneCnt n) 15 0 1
  else setLane s n l'

/-- Every lane at the present edge; MASTER is compared with its last value (R421). -/
def lanesUpdate (s : State) : State :=
  let m := laneMaster s
  let s := if m = s.tmx.master then s else setEvt { s with tmx := { s.tmx with master := m } } R.tmxEvt 0
  upto 32 s fun n s => laneUpdate s n

/-- The consumers of a flag's change (R415): lanes, publications, event tasks, DRC, CMD. -/
def flagChanged (s : State) (f : Nat) (v : Bool) : State :=
  let s := if v then s else flagReset s f
  let s := lanesUpdate s
  let s := gseFlag s f
  let s := fireEvent s 1 f (some v) none
  let s := flagTriggers s f v
  if v then cmdFlag s f else s

/-- A flag's accepted value, and the consumers if its state changed (R414, R415). -/
def flagSet (s : State) (f : Nat) (v : Bool) : State :=
  let old := flagState s f
  let s := { s with tmx := { s.tmx with flags := mset false s.tmx.flags f v } }
  if flagState s f = old then s else flagChanged s f v

/-- A flag held by a force, or held no more (R400, R405: it keeps the forced state). -/
def flagForce (s : State) (f : Nat) (v : Option Bool) : State :=
  let old := flagState s f
  let s := { s with tmx := { s.tmx with forced := mset none s.tmx.forced f v, flags := match v with | none => mset false s.tmx.flags f old | some _ => s.tmx.flags } }
  if flagState s f = old then s else flagChanged s f (flagState s f)

/-- Who sends a flag word: a core, or a subscription. -/
inductive FlagSrc where
  | core (k : Nat) | sub (n : Nat)
  deriving DecidableEq, Repr

/-- The words captured at the present FAB edge (R416). -/
def edgeWords (s : State) : List (Nat × Nat × Bool) := if s.tmx.edgeAt = s.now / 2 then s.tmx.edge else []

/-- Two words for one flag at one edge (R416): the collision counted, operate wins. -/
def flagCollide (s : State) (f : Nat) : State :=
  postOwner (setEvt (bump s R.tmxCnt 7 0 1) R.tmxEvt 2) (ownerOf s 4 (f / 64)) 2 0x0E 0x12 f

/-- A refused word (R414): counted, and for the GSE posted. -/
def flagRefuse (s : State) (f : Nat) (src : FlagSrc) : State :=
  let s := setEvt (bump s R.tmxCnt 31 16 1) R.tmxEvt 1
  match src with
  | .core _ => s
  | .sub n =>
    let s := setEvt s (R.gsStat n) 4
    postOwner (almPost s 2 0x0E 0x10 (ownerOf s 4 (f / 64)) [word f]) (ownerOf s 4 (f / 64)) 1 0x0E 0x10 f

/-- A word whose halves disagree (R414). -/
def linkGuard (s : State) (src : FlagSrc) : State :=
  let k := match src with | .core k => k | .sub _ => 0
  let own := match src with | .core k => ownerOf s 0 k | .sub n => ownerOf s 7 n
  let s := bump (setEvt (guardFault s 0x0E) R.tmxEvt 3) R.tmxCnt 15 8 1
  postOwner (almPost s 1 0x0E 0x02 own [word k]) own 0 0x0E 0x02 k

/-- A word for a page of another owner is an access violation of the core, or of the GSE's DMA for its subscription's owner (R144,
R156); a flag word has no address, so the one logged is a free value. -/
def flagForeign (s : State) (f pid : Nat) (src : FlagSrc) : State :=
  let t := match src with | .core k => coreTag k pid | .sub n => gseTag s (ownerOf s 7 n)
  if ownerOf s 4 (f / 64) = some pid || t.secure then s
  else
    violate { s with draws := s.draws + 1 } t true (Config.draw s.draws).toNat 6

/-- FLAG_WORD_CAPTURE (R414, R416): the state and whether the word was accepted. -/
def flagWord (s : State) (w : DWord) (pid : Nat) (src : FlagSrc) : State × Bool :=
  let v := guardedVal w
  let f := fld v 11 0
  if !guardedOk w then (flagRefuse (linkGuard s src) f src, false)
  else
    let gse := bit (forceOf s (R.tmxPgCfg (f / 64))) 0
    let admits : Bool := match src with | .core _ => !gse | .sub _ => gse
    if ownerOf s 4 (f / 64) = some pid ∧ admits ∧ fld v 30 12 = 0 then
      match src with
      | .core k =>
        let prev := (edgeWords s).find? fun e => e.1 == f && e.2.1 != k
        let s1 := { s with tmx := { s.tmx with edge := edgeWords s ++ [(f, k, bit v 31)], edgeAt := s.now / 2 } }
        match prev with
        | some e => (flagSet (flagCollide s1 f) f (bit v 31 || e.2.2), true)
        | none => (flagSet s1 f (bit v 31), true)
      | .sub _ => (flagSet s f (bit v 31), true)
    else (flagForeign (flagRefuse s f src) f pid src, false)

/-- The check of a TMX set (R19, R418). -/
def checkTmx (s : State) (ps : PendSet) : Option (Nat × Nat) :=
  (List.range 32).findSome? fun n =>
    (List.range 4).findSome? fun j =>
      let w := pendVal ps.vals (R.laneSrc n j)
      if !bit (pendVal ps.vals (R.laneCfg n)) 31 then none
      else if !guardOk w (pendVal ps.vals (R.laneSrcC n j)) then some (1, R.laneSrc n j % 0x10000)
      else if (srcFlags w).any fun f => ownerOf s 4 (f / 64) ≠ ownerOf s 5 n then some (4, R.laneSrc n j % 0x10000)
      else none

/-- A TMX set has entered force: guard latches of the lanes it wrote end (R422). -/
def tmxInForce (s : State) (written : List Nat) : State :=
  let s := upto 32 s fun n s =>
    if written.any fun a => decide (R.laneCfg n ≤ a) && decide (a < R.laneCfg n + 0x28) then setLane s n { laneOf s n with guard := false } else s
  lanesUpdate s

/-- MIN_US_EXPIRY of lane `n` (R419). -/
def execMinUsExpiry (n : Fin 32) (s : State) : Host.Outcome State Fault Refusal :=
  .next (
    let l := laneOf s n.val
    if l.drive = .operate then laneUpdate (reachLtc s (l.since + fld (forceOf s (R.laneCfg n.val)) 15 0 * 1000)) n.val else s)

/-- The MIR and TMX record a lane's readback error (R422, R446, R568). -/
def rbError (s : State) (n : Nat) : State :=
  let s := setEvt (setLane s n { laneOf s n with rbErr := true }) R.tmxEvt 5
  postOwner (almPost s 1 0x0E 0x11 (ownerOf s 5 n) [word n]) (ownerOf s 5 n) 0 0x0E 0x11 n

end Sys2Proof.Machine
end

