-- ==== Sys2Proof/Machine/Fbc.lean ====
section
/-! DEFINITION. The field bus controllers (R452-R474): TQ0's outcomes, TQ1, filters and receive queues, errors and bus-off. -/

namespace Sys2Proof.Machine

/-- SOURCE of FBC `m` (R472). -/
def fbcSrc (m : Nat) : Nat := 0x11 + m

/-- A record and a notification of FBC `m` (R472). -/
def fbcPost (s : State) (m cls code info sev : Nat) : State :=
  let s := almPost s sev (fbcSrc m) code none [word info]
  notifyAll s (forceOf s (R.fbcNotify m)) cls (fbcSrc m) code info

/-- TQ0 reports an outcome to the CMD (R461). -/
def tq0Report (s : State) (x : Tq0Msg) (ok : Bool) : State :=
  match x.order with
  | some d => cmdReport s d ok
  | none => s

/-- Every message of TQ0 fails, counted in a field of TQ0_CNT. -/
def tq0FailAll (s : State) (m hi lo : Nat) : State :=
  let l := (fbcOf s m).tq0.items
  let s := setFbc s m { fbcOf s m with tq0 := {} }
  l.foldl (fun s x => tq0Report (tq0Fail s m hi lo) x false) s

/-! ### Receive queues -/

def rqOf (s : State) (m q : Nat) : RqSt := if q = 0 then (fbcOf s m).rq0 else (fbcOf s m).rq1
def setRq (s : State) (m q : Nat) (r : RqSt) : State :=
  setFbc s m (if q = 0 then { fbcOf s m with rq0 := r } else { fbcOf s m with rq1 := r })
/-- Depth of a receive queue (R465). -/
def rqDepth (q : Nat) : Nat := if q = 0 then 64 else 256

/-- LEVEL_SIDE follows the level between HI and LO (R466, R186). -/
def rqSide (s : State) (m q : Nat) : State :=
  let r := rqOf s m q
  let wm := forceOf s (R.rqWm m q)
  let n := r.q.items.length
  if !r.side && decide (fld wm 24 16 ≤ n) then
    let s := bump (setEvt (setRq s m q { r with side := true }) (R.rqEvt m q) 0) (R.rqCnt m q) 23 16 1
    notifyAll s (forceOf s (R.fbcNotify m)) 2 (fbcSrc m) 0x20 q
  else if r.side && decide (n ≤ fld wm 8 0) then
    bump (setEvt (setRq s m q { r with side := false }) (R.rqEvt m q) 1) (R.rqCnt m q) 23 16 1
  else s

/-- FBC_PTR_RESET of queue `i`: 0 TQ0, 1 TQ1, 2 RQ0, 3 RQ1 (R470). -/
def fbcPtrReset (s : State) (m i : Nat) : State :=
  let s := match i with
    | 0 => tq0FailAll s m 9 5
    | 1 => setEvt (setFbc s m { fbcOf s m with tq1 := {} }) (R.tq1Evt m) 2
    | 2 => rqSide (setEvt (setRq s m 0 { rqOf s m 0 with q := {} }) (R.rqEvt m 0) 4) m 0
    | _ => rqSide (setEvt (setRq s m 1 { rqOf s m 1 with q := {} }) (R.rqEvt m 1) 4) m 1
  fbcPost (ptrSum (setEvt s (R.fbcEvt m) 6) (fbcSrc m)) m 0 0x01 i 1

/-- The pointers of TQ0, TQ1, a receive queue are compared (R470). -/
def tq0Check (s : State) (m : Nat) : State := if qOk (fbcOf s m).tq0 then s else fbcPtrReset s m 0
def tq1Check (s : State) (m : Nat) : State := if qOk (fbcOf s m).tq1 then s else fbcPtrReset s m 1
def rqCheck (s : State) (m q : Nat) : State := if qOk (rqOf s m q).q then s else fbcPtrReset s m (2 + q)

/-- A frame enters a receive queue (R465). -/
def rqStore (s : State) (m q : Nat) (e : RqEnt) : State :=
  let s := rqCheck s m q
  let r := rqOf s m q
  if r.q.items.length < rqDepth q then rqSide (setRq s m q { r with q := qPush (rqDepth q) r.q e }) m q
  else bump (setEvt s (R.rqEvt m q) 2) (R.rqCnt m q) 15 0 1

/-- The words of a latched entry (R465). -/
def rqWords (e : RqEnt) : List Word :=
  let d := e.msg.data ++ List.replicate (64 - e.msg.data.length) 0#8
  [word (2 ^ 31 + b2n e.msg.fdf 30 + b2n e.msg.brs 29 + b2n e.esi 28 + b2n e.msg.ide 27 + e.filter % 64 * 2 ^ 16 + e.msg.data.length % 128),
   word e.msg.id, word e.ns, word e.sec] ++ (List.range 16).map fun i => word (leNat ((d.drop (4 * i)).take 4))

/-- RQ_HEAD (R465). -/
def execRqHead (a : Acc) (m q : Fin 2) (s : State) : Host.Outcome State Fault Refusal :=
  .next (regAccess s a (R.rqHead m.val q.val) false fun s =>
    let s := rqCheck s m.val q.val
    let r := rqOf s m.val q.val
    match r.q.items with
    | [] => setBus (setEvt (setRq s m.val q.val { r with win := [] }) (R.rqEvt m.val q.val) 3) 0#32
    | e :: _ =>
      let s := rqSide (setRq s m.val q.val { r with q := qPop (rqDepth q.val) r.q, win := rqWords e }) m.val q.val
      setBus s ((rqWords e).headD 0#32))

/-- RQ_FLUSH (R465). -/
def execRqFlush (a : Acc) (m q : Fin 2) (s : State) : Host.Outcome State Fault Refusal :=
  .next (regAccess s a (R.rqCtrl m.val q.val) true fun s =>
    let n := (rqOf s m.val q.val).q.items.length
    let s := setRq s m.val q.val { rqOf s m.val q.val with q := {}, win := [] }
    rqSide (bump s (R.rqCnt m.val q.val) 15 0 n) m.val q.val)

/-! ### Error counters (R468) -/

/-- FC of the present counters. -/
def fcUpdate (s : State) (m : Nat) : State :=
  let f := fbcOf s m
  match f.fc with
  | .busOff => s
  | .recovering => s
  | _ =>
    if 256 ≤ f.tec then
      let auto := bit (shadowOf s (R.fbcCfg m)) 3
      let s := setFbc s m { f with fc := if auto then .recovering else .busOff, bus := none }
      let s := fbcPost (setEvt s (R.fbcEvt m) 3) m 0 0x10 255 1
      tq0FailAll s m 9 5
    else if 128 ≤ f.tec ∨ 128 ≤ f.rec_ then
      if f.fc = .passive then s
      else fbcPost (setEvt (setFbc s m { f with fc := .passive }) (R.fbcEvt m) 2) m 1 0x11 (min 255 f.tec) 2
    else setFbc s m { f with fc := .active }

/-- An error counted in TEC or REC (R468); in listen-only mode the counters stay 0 (R455). -/
def canError (s : State) (m : Nat) (e : CanErr) : State :=
  let f := fbcOf s m
  if !f.on || bit (shadowOf s (R.fbcCfg m)) 2 then s
  else
    fcUpdate (setFbc s m (match e with
      | .receiver => { f with rec_ := min 255 (f.rec_ + 1) }
      | .receiverDominant => { f with rec_ := min 255 (f.rec_ + 8) }
      | .transmitter => { f with tec := f.tec + 8 })) m

/-- A frame received without error lowers REC; above 127 the standard gives a value from 119 to 127. -/
def recDown (s : State) (m : Nat) : State :=
  let f := fbcOf s m
  if 127 < f.rec_ then
    let r := draw s
    fcUpdate (setFbc r.2 m { f with rec_ := 119 + r.1.toNat % 9 }) m
  else fcUpdate (setFbc s m { f with rec_ := f.rec_ - 1 }) m

/-- A frame sent lowers TEC. -/
def tecDown (s : State) (m : Nat) : State := fcUpdate (setFbc s m { fbcOf s m with tec := (fbcOf s m).tec - 1 }) m

/-- CAN_BUS_ERROR (R468). -/
def execCanBusError (m : Fin 2) (e : CanErr) (s : State) : Host.Outcome State Fault Refusal :=
  .next (if (fbcOf s m.val).on then
    canError (setLive s (R.fbcCnt m.val 4) (word (satAdd 0xFFFFFFFF (liveOf s (R.fbcCnt m.val 4)).toNat 1))) m.val e
  else s)

/-- BUS_OFF_RECOVERED (R468). -/
def execBusOffRecovered (m : Fin 2) (s : State) : Host.Outcome State Fault Refusal :=
  .next (if (fbcOf s m.val).fc = .recovering then
    fbcPost (setEvt (setFbc s m.val { fbcOf s m.val with fc := .active, tec := 0, rec_ := 0 }) (R.fbcEvt m.val) 4) m.val 1 0x12 0 2
  else s)

/-- FBC_RECOVER (R468). -/
def execFbcRecover (a : Acc) (m : Fin 2) (s : State) : Host.Outcome State Fault Refusal :=
  .next (regAccess s a (R.fbcCtrl m.val) true fun s =>
    if (fbcOf s m.val).fc = .busOff then setFbc s m.val { fbcOf s m.val with fc := .recovering } else s)

/-! ### Reception (R452, R460, R464) -/

/-- Data lengths of CAN FD and classical CAN (R463). -/
def canLen (fdf : Bool) (n : Nat) : Bool :=
  decide (n ≤ 8) || (fdf && [12, 16, 20, 24, 32, 48, 64].contains n)

/-- The first enabled filter a frame matches (R464). -/
def filterOf (s : State) (m : Nat) (f : CanFrame) : Option Nat :=
  (List.range 64).find? fun i =>
    let w := forceOf s (R.fbfMatch m i)
    let id := if f.ide then f.id.toNat else f.id.toNat % 2 ^ 11
    bit w 31 && bit w 30 == f.ide && ((id ^^^ fld w 28 0) &&& fld (forceOf s (R.fbfMask m i)) 28 0) == 0

/-- A 32-bit saturating counter of FBC_CNT. -/
def fbcCount (s : State) (m i : Nat) : State :=
  setLive s (R.fbcCnt m i) (word (satAdd 0xFFFFFFFF (liveOf s (R.fbcCnt m i)).toNat 1))

/-- A message steered to the CMD (R460). -/
def localControl (s : State) (m : Nat) (f : CanFrame) : State :=
  let b := fun i => ((f.data[i]?).getD 0#8).toNat
  let act := b 0 - 0x10
  if f.ide && f.fdf && f.id.toNat / 2 ^ 25 == 2 && f.data.length == 8 && b 0 + b 1 == 255 && decide (0x10 ≤ b 0) &&
      decide (act ≤ 2) && bit (forceOf s (R.coCfg (b 2))) 31 then
    cmdOrder s { obj := b 2, rank := 4, action := act, val := b 3 % 2 == 1, orig := b 4, ctl := b 5, bus := m, src := f.id.toNat / 2 ^ 9 % 256 }
  else fbcCount s m 3

/-- The loop-back depth of an FBC (R566). -/
def lbFbc (s : State) (m : Nat) : Nat := fld (forceOf s R.diagLbFbc) (4 * m + 3) (4 * m)

/-- A frame reaches the receive side of an FBC; `age` ns lie between its start and now (R464, R465). -/
def canRxIn (s : State) (m : Nat) (f : CanFrame) (age : Nat) : State :=
  if !(fbcOf s m).on then s
  else if f.malformed || (!f.remote && !canLen f.fdf f.data.length) then canError (fbcCount s m 0) m .receiver
  else
    let s := recDown s m
    if f.remote then fbcCount s m 1
    else
      match filterOf s m f with
      | none => fbcCount s m 2
      | some i =>
        let s := setLive s (R.fbfHits m i) (word (satAdd 0xFFFFFFFF (liveOf s (R.fbfHits m i)).toNat 1))
        let t := s.ltc - age
        let e : RqEnt := { msg := { fdf := f.fdf, brs := f.brs, ide := f.ide, id := f.id.toNat, data := f.data }, esi := f.esi, filter := i, ns := nsOf t, sec := secOf t }
        match fld (forceOf s (R.fbfAct m i)) 1 0 with
        | 0 => s
        | 1 => rqStore s m 0 e
        | 2 => rqStore s m 1 e
        | _ => localControl s m f

/-- CAN_FRAME_RX: a frame ends on the bus; at depths 1 and 2 the bus is not received (R566). -/
def execCanFrameRx (m : Fin 2) (f : CanFrame) (age : Nat) (s : State) : Host.Outcome State Fault Refusal :=
  .next (if lbFbc s m.val = 1 ∨ lbFbc s m.val = 2 then s else canRxIn s m.val f age)

/-- A frame sent in a loop-back returns to the receive side (R566). -/
def canLoop (s : State) (m : Nat) (x : CanMsg) (ok : Bool) : State :=
  if ok && decide (lbFbc s m ≠ 0) then
    canRxIn s m { fdf := x.fdf, brs := x.brs, esi := false, ide := x.ide, remote := false, malformed := false, id := BitVec.ofNat 29 x.id, data := x.data } 0
  else s

/-! ### Sending (R461-R463) -/

/-- A frame may start: the FBC is on, on the bus, idle and not silent (R455, R462). -/
def canStart (s : State) (m : Nat) : Bool := tq0Open s m && (fbcOf s m).bus.isNone

/-- CAN_ARBITRATION (R461, R462): the head of TQ0, or else of TQ1, is offered, and wins or loses; a loop-back has no other
node to lose to (R566). -/
def execCanArbitration (m : Fin 2) (won : Bool) (s : State) : Host.Outcome State Fault Refusal :=
  .next (
    if !canStart s m.val then s
    else
      let s := tq1Check (tq0Check s m.val) m.val
      let f := fbcOf s m.val
      match f.tq0.items, f.tq1.items with
      | x :: _, _ =>
        if won || lbFbc s m.val != 0 then setFbc s m.val { f with bus := some (true, x.msg) }
        else tq0Report (tq0Fail (setFbc s m.val { f with tq0 := qPop 16 f.tq0 }) m.val 15 10) x false
      | [], y :: _ => if won || lbFbc s m.val != 0 then setFbc s m.val { f with bus := some (false, y) } else s
      | [], [] => s)

/-- CAN_TX_COMPLETE (R461, R463): the frame on the bus ends, `ok` or with an error. -/
def execCanTxComplete (m : Fin 2) (ok : Bool) (s : State) : Host.Outcome State Fault Refusal :=
  .next (
    let s := tq1Check (tq0Check s m.val) m.val
    let f := fbcOf s m.val
    match f.bus with
    | none => s
    | some (isTq0, y) =>
      let s := canLoop (setFbc s m.val { f with bus := none }) m.val y ok
      let f := fbcOf s m.val
      if isTq0 then
        match f.tq0.items with
        | [] => s
        | x :: _ =>
          let s := setFbc s m.val { f with tq0 := qPop 16 f.tq0 }
          if ok then tq0Report (tecDown (bump s (R.tq0Cnt m.val) 31 16 1) m.val) x true
          else tq0Report (tq0Fail s m.val 9 5) x false
      else if ok then tecDown (setFbc s m.val { f with tq1 := qPop 64 f.tq1 }) m.val
      else s)

/-- Words of a TQ1 item discarded (R463). -/
def tq1Discard (s : State) (m n : Nat) : State := bump s (R.tq1Cnt m) 31 16 n

/-- The identifier of an item is one TQ1 may send (R456, R463). -/
def tq1IdOk (h w : Word) : Bool :=
  let cls := fld w 28 25
  if bit h 21 then !(cls == 0 || cls == 1) && (bit h 23 || decide (8 ≤ cls)) else decide (0x400 ≤ fld w 10 0)

/-- The message of a complete item. -/
def tq1Msg (h i : Word) (d : List Word) : CanMsg :=
  { fdf := bit h 23, brs := bit h 22 && bit h 23, ide := bit h 21, id := if bit h 21 then fld i 28 0 else fld i 10 0,
    data := (d.flatMap fun w => leBytes 4 w.toNat).take (fld h 6 0) }

/-- The first word of an item (R463). -/
def tq1Head (s : State) (m : Nat) (w : Word) : State :=
  let f := fbcOf s m
  if fld w 31 24 ≠ 0xA5 then
    let s := if f.skip then s else setEvt s (R.tq1Evt m) 0
    tq1Discard (setFbc s m { fbcOf s m with skip := true }) m 1
  else if !canLen (bit w 23) (fld w 6 0) then
    tq1Discard (setEvt (setFbc s m { f with skip := true }) (R.tq1Evt m) 0) m 1
  else if 64 ≤ f.tq1.items.length then
    tq1Discard (bump (setEvt (setFbc s m { f with skip := true }) (R.tq1Evt m) 1) (R.tq1Cnt m) 15 0 1) m 1
  else setFbc s m { f with skip := false, item := [w], want := 2 + (fld w 6 0 + 3) / 4 }

/-- TQ1_PUSH (R463). -/
def execTq1Push (a : Acc) (m : Fin 2) (w : Word) (s : State) : Host.Outcome State Fault Refusal :=
  .next (regAccess s a (R.tq1Push m.val) true fun s =>
    let s := tq1Check s m.val
    let f := fbcOf s m.val
    match f.item with
    | [] => tq1Head s m.val w
    | h :: t =>
      let l := h :: t ++ [w]
      let i := (t ++ [w]).headD 0#32
      if t.isEmpty && !tq1IdOk h w then
        tq1Discard (setEvt (setFbc s m.val { f with item := [], skip := true }) (R.tq1Evt m.val) 0) m.val 2
      else if l.length < f.want then setFbc s m.val { f with item := l }
      else setFbc s m.val { f with item := [], tq1 := qPush 64 f.tq1 (tq1Msg h i (l.drop 2)) })

/-- TQ1_FLUSH (R463): complete items and the one being pushed; TQ1_PUSH then skips to the next start marker. -/
def execTq1Flush (a : Acc) (m : Fin 2) (s : State) : Host.Outcome State Fault Refusal :=
  .next (regAccess s a (R.tq1Ctrl m.val) true fun s =>
    setFbc s m.val { fbcOf s m.val with tq1 := {}, item := [], skip := true })

/-! ### Enable, transceiver, commit -/

/-- The length of a bit in ns, nominal and data (R453). -/
def nomBit (w : Word) : Nat := (fld w 31 24 + 1) * (3 + fld w 23 16 + fld w 14 8)
def datBit (w : Word) : Nat := (fld w 31 27 + 1) * (3 + fld w 26 20 + fld w 19 14)

/-- The settings refuse an enable (R453). -/
def fbcBad (s : State) (m : Nat) : Bool :=
  let n := shadowOf s (R.fbcNbt m)
  let d := shadowOf s (R.fbcDbt m)
  let c := shadowOf s (R.fbcCfg m)
  decide (nomBit n < 1000) || decide (8000 < nomBit n) || decide (datBit d < 125) || decide (nomBit n < datBit d) ||
    decide (fld n 14 8 < fld n 6 0) || decide (fld d 19 14 < fld d 13 8) || (bit c 1 && decide (nomBit n < 4000)) ||
    fld c 31 24 == 0xFF

/-- FBC_ENABLE (R453). -/
def execFbcEnable (a : Acc) (m : Fin 2) (s : State) : Host.Outcome State Fault Refusal :=
  .next (regAccess s a (R.fbcCtrl m.val) true fun s =>
    if (fbcOf s m.val).on then s
    else if fbcBad s m.val then setEvt s (R.fbcEvt m.val) 0
    else setFbc (setShadow s (R.fbcCtrl m.val) 1#32) m.val { fbcOf s m.val with on := true })

/-- FBC_DISABLE (R471): a frame being sent ends with an error; the messages left in TQ0 fail. -/
def execFbcDisable (a : Acc) (m : Fin 2) (s : State) : Host.Outcome State Fault Refusal :=
  .next (regAccess s a (R.fbcCtrl m.val) true fun s =>
    let f := fbcOf s m.val
    if !f.on then s
    else
      let s := setFbc (setShadow s (R.fbcCtrl m.val) 0#32) m.val { f with on := false, bus := none }
      let s := match f.bus, f.tq0.items with
        | some (true, _), x :: _ =>
          tq0Report (tq0Fail (setFbc s m.val { fbcOf s m.val with tq0 := qPop 16 f.tq0 }) m.val 9 5) x false
        | _, _ => s
      tq0FailAll s m.val 4 0)

/-- XCVR_FAULT (R469): the transceiver's fault output takes a level. -/
def execXcvrFault (m : Fin 2) (v : Bool) (s : State) : Host.Outcome State Fault Refusal :=
  .next (
    let f := fbcOf s m.val
    let s := setFbc s m.val { f with xcvr := v }
    if v && !f.xcvr then fbcPost (setEvt s (R.fbcEvt m.val) 5) m.val 0 0x13 0 1 else s)

/-- The check of an FBC set (R466). -/
def checkFbc (m : Nat) (ps : PendSet) : Option (Nat × Nat) :=
  (List.range 2).findSome? fun q =>
    let w := pendVal ps.vals (R.rqWm m q)
    if fld w 8 0 < fld w 24 16 ∧ fld w 24 16 ≤ rqDepth q then none else some (2, R.rqWm m q % 0x10000)

/-- FBn_BUSY (R467). -/
def fbBusy (s : State) (m : Nat) : Bool := !(fbcOf s m).on || (rqOf s m 0).side || (rqOf s m 1).side

end Sys2Proof.Machine
end

