-- ==== Sys2Proof/Machine/Pcx.lean ====
section
/-! DEFINITION. The protection cores: registers (R308, R309), memory accesses (R353, R401), memory errors (R36), exceptions and
their reactions (R325-R332), the end of a run (R302), the start of runs (R303, R381), deadlines (R382), the load engine
(R334). -/

namespace Sys2Proof.Machine

/-! ### Registers of a core -/

def coreOf (s : State) (k : Nat) : CoreSt := mget {} s.pcx.cores k
def setCore (s : State) (k : Nat) (c : CoreSt) : State := { s with pcx := { s.pcx with cores := mset {} s.pcx.cores k c } }
def modCore (s : State) (k : Nat) (f : CoreSt → CoreSt) : State := setCore s k (f (coreOf s k))

/-- Scalar, vector and predicate registers (R308, R309): s0 reads 0, p0 reads 0xFF, a write to either is discarded. -/
def sget (c : CoreSt) (r : Nat) : Word := if r = 0 then 0#32 else mget 0#32 c.sreg r
def sset (c : CoreSt) (r : Nat) (w : Word) : CoreSt := if r = 0 then c else { c with sreg := mset 0#32 c.sreg r w }
def vget (c : CoreSt) (r i : Nat) : Word := mget 0#32 c.vreg (r * 8 + i)
def vset (c : CoreSt) (r i : Nat) (w : Word) : CoreSt := { c with vreg := mset 0#32 c.vreg (r * 8 + i) w }
def pget (c : CoreSt) (p : Nat) : Byte := if p = 0 then 0xFF#8 else mget 0#8 c.preg p
/-- Only the bits of `m` are written (R339). -/
def pset (c : CoreSt) (p : Nat) (m v : Byte) : CoreSt :=
  if p = 0 then c else { c with preg := mset 0#8 c.preg p ((pget c p &&& ~~~m) ||| (v &&& m)) }
/-- A 64-bit pair (R309). -/
def dget (c : CoreSt) (r : Nat) : DWord := sget c (r + 1) ++ sget c r
def dset (c : CoreSt) (r : Nat) (w : DWord) : CoreSt := sset (sset c r (w.setWidth 32)) (r + 1) ((w >>> 32).setWidth 32)
/-- FPSTAT collects flags (R312). -/
def flags (c : CoreSt) (f : Nat) : CoreSt := { c with fpstat := c.fpstat ||| word f }

/-! ### The end of a run -/

/-- The run's handover ends with it (R149). -/
def handoverDone (s : State) (k : Nat) : State :=
  if (mfind s.part.handover k).isNone then s
  else setEvt { s with part := { s.part with handover := mdel s.part.handover k } } R.partEvt 2

/-- The run is over: the core is IDLE, or ENDING while an OPF of the run is on its way back (R326). -/
def runOver (s : State) (k : Nat) : State :=
  let c := coreOf s k
  if c.refused.isEmpty then handoverDone (setCore s k { c with mode := .idle, idleAt := s.now }) k
  else setCore s k { c with mode := .ending }

/-- A run ends without a record and without a retirement (R330, R383). -/
def runCut (s : State) (k : Nat) : State :=
  let c := coreOf s k
  if c.mode = .run then runOver (setTask s c.task { taskOf s c.task with running := false }) k else s

/-- The runs of partition `p`'s tasks. -/
def runsOf (s : State) (p : Nat) : List Nat :=
  (s.pcx.cores.filter fun e => e.2.mode == .run && e.2.pid == p).map (·.1)

/-- A run retires without an exception (R302): cycles, the count of R329. With an OPF refused and on its way back the run does
not: the refusal will end it (R326). -/
def retire (s : State) (k : Nat) : State :=
  let c := coreOf s k
  if !c.refused.isEmpty then setCore s k { c with mode := .ending }
  else
    let cyc := word (s.now - c.began)
    let s := setLive s (R.coreCyc k) cyc
    let s := if (liveOf s (R.coreCycMax k)).toNat < cyc.toNat then setLive s (R.coreCycMax k) cyc else s
    let s := { s with pcx := { s.pcx with aborts := mset 0 s.pcx.aborts c.task 0 } }
    runOver (setTask s c.task { taskOf s c.task with running := false, retired := true }) k

/-! ### Exceptions -/

/-- The reaction PCX_EXC_CFG gives an exception code (R328). -/
def reactionOf (s : State) (p code : Nat) : Nat :=
  let w := forceOf s (R.pcxExcCfg p)
  match code with
  | 1 => fld w 1 0 | 2 => fld w 3 2 | 3 => fld w 5 4 | _ => fld w 7 6

/-- The runs that a stop of their partition ends at the instruction boundary (R330): it has passed. -/
def cutDue (s : State) : State :=
  (s.pcx.cores.filter fun e => e.2.mode == .run && e.2.cutAt.any (· < s.now)).foldl (fun s e => runCut s e.1) s

/-- A partition stops (R330): its other runs end at their next instruction boundary. -/
def stopPartition (s : State) (k p : Nat) : State :=
  if bit s.pcx.pstop p then s
  else
    let s := { s with pcx := { s.pcx with pstop := s.pcx.pstop ||| word (2 ^ p) } }
    let x := partOf s p
    let s := setPart s p { x with pstate := .halted, attemptBad := if x.attemptAt.isSome then some (if x.attemptBad = some 8 then 10 else x.attemptBad.getD 2) else x.attemptBad }
    let s := (runsOf s p).foldl (fun s k => modCore s k fun c => { c with cutAt := some s.now }) s
    let s := lanesUpdate (setEvt s R.pcxEvt 3)
    hnqPost (almPost s 0 0x0C 0xF3 (some p) [word k]) p 0 0x0C 0xF3 k

/-- A task is stopped (R328). -/
def stopTask (s : State) (t p : Nat) : State :=
  let ts := taskOf s t
  let s := match ts.pend, ts.def_ with | some _, some d => actOut s d.core | _, _ => s
  let s := setTask s t { ts with stopped := true, pend := none }
  hnqPost (almPost s 1 0x0C 0xF2 (some p) [word t]) p 0 0x0C 0xF2 t

/-- The reaction in effect (R329): a run counts once. -/
def escalate (s : State) (c : CoreSt) (r : Nat) : Nat × State :=
  if r ≠ 0 ∨ c.excDone then (r, s)
  else
    let n := mget 0 s.pcx.aborts c.task + 1
    let s := { s with pcx := { s.pcx with aborts := mset 0 s.pcx.aborts c.task n } }
    let esc := fld (forceOf s (R.pcxExcCfg c.pid)) 15 8
    (if esc ≠ 0 ∧ esc ≤ n then 1 else 0, s)

/-- The count of an exception code in CORE_CNT (R336). -/
def countExc (s : State) (k code : Nat) : State :=
  match code with
  | 1 => bump s (R.coreCnt k) 31 24 1
  | 2 => bump s (R.coreCnt k) 23 16 1
  | 3 => bump s (R.coreCnt k) 15 8 1
  | _ => bump s (R.coreCnt k) 7 0 1

/-- CORE_EXC and its companions (R331): a record while VALID is 1 is only counted, with MULTI; where it is that of the same run it
takes the reaction that applies. -/
def recordExc (s : State) (k code sub react : Nat) (pc addr : Word) (imp : Bool) : State :=
  let c := coreOf s k
  if bit (liveOf s (R.coreExc k)) 31 then
    let s := setEvt s (R.coreExc k) 30
    if c.excRec then setLive s (R.coreExc k) ((liveOf s (R.coreExc k) &&& 0xFFFF3FFF#32) ||| word (react * 2 ^ 14)) else s
  else
    let s := setLive (modCore s k fun c => { c with excRec := true }) (R.coreExc k)
      (word (2 ^ 31 + b2n imp 29 + code * 2 ^ 24 + sub * 2 ^ 16 + react * 2 ^ 14 + c.pid % 32 * 2 ^ 9 + c.task % 512))
    setLive (setLive (setLive s (R.coreExcPc k) pc) (R.coreExcAddr k) addr) (R.coreExcT k) c.relT

/-- The reaction of an exception: the more severe of its own and of the one that has ended the run already (R331). -/
def severer (c : CoreSt) (r : Nat) : Nat := if c.excDone then max r c.excReact else r

/-- A core takes an exception (R325-R332): reaction, record, counts, notifications, the end of the run. A reaction that is not more
severe than the one applied to the run has no further effect (R331). -/
def takeExc (s : State) (k code sub : Nat) (pc addr : Word) (imp : Bool) : State :=
  let c := coreOf s k
  let (r, s) := escalate s c (reactionOf s c.pid code)
  let r := severer c r
  let fresh := !bit (liveOf s (R.coreExc k)) 31
  let s := recordExc s k code sub r pc addr imp
  let s := setEvt (countExc s k code) R.pcxEvt 0
  let s := if code = 1 then guardFault s 0x0C else s
  let info := code * 2 ^ 12 + r * 2 ^ 10 + c.task % 512
  let s := if fresh then almPost s (if code = 2 then 2 else 1) 0x0C 0xF1 (some c.pid) [word info] else s
  let s := hnqPost s c.pid 0 0x0C 0xF1 info
  let s := modCore s k fun c => { c with excDone := true, excReact := r, excAt := some s.now }
  let s := runCut s k
  if c.excDone ∧ r ≤ c.excReact then s
  else match r with
  | 0 => s
  | 1 => if (taskOf s c.task).stopped then s else stopTask s c.task c.pid
  | _ => stopPartition s k c.pid

/-- CORE_EXC_PC of a byte offset. -/
def excPc (c : CoreSt) (pc : Nat) : Word := word (b2n c.bank 16 + pc % 65536)

/-- OPF_REFUSAL at core `k` (R326, R331): the oldest refusal arrives. -/
def execOpfRefusal (k : Fin 64) (s : State) : Host.Outcome State Fault Refusal :=
  .next (match (coreOf s k.val).refused with
    | [] => s
    | pc :: t =>
      let s := takeExc (modCore s k.val fun c => { c with refused := t }) k.val 3 0x08 (excPc (coreOf s k.val) pc) 0#32 true
      let c := coreOf s k.val
      if c.mode = .ending ∧ t.isEmpty then runOver (setTask s c.task { taskOf s c.task with running := false }) k.val else s)

/-! ### Executing an instruction -/

/-- What an instruction gives: the state after it (the program counter not yet moved), the same with the counter already set,
or an exception with the state its side counts leave. -/
inductive Out where
  | go (s : State)
  | jump (s : State)
  | exc (code sub : Nat) (addr : Word) (s : State)

/-- The instruction at core `k`'s counter raises an exception; `c` is the core as it was fetched for. -/
def coreRaise (s : State) (k : Nat) (c : CoreSt) (code sub : Nat) (addr : Word) : State :=
  takeExc s k code sub (excPc c c.pc) addr false

/-- A word fetched from offset `o` of the active code bank (R304, R342, R353, R36); `ok` goes on with it. A fetch has no data address
(R336). -/
def coreFetch (s : State) (k : Nat) (c : CoreSt) (o : Nat) (ok : Word → State → State) : State :=
  let a := codeBase k c.bank + o
  if 0x10000 ≤ o then coreRaise s k c 3 2 0#32
  else match memDenied s (coreTag k c.pid) .fetch a with
    | some kd => coreRaise (violate s (coreTag k c.pid) false a kd) k c 3 1 0#32
    | none => if (eccRead s a 4).2 then coreRaise (eccRead s a 4).1 k c 3 6 0#32 else ok (rd32 s a) (eccRead s a 4).1

/-- What an instruction has given: the counter moves on, unless it was set, or the exception is taken. -/
def coreEnd (k len : Nat) (c : CoreSt) (o : Out) : State :=
  match o with
  | .go s => modCore s k fun c => { c with pc := c.pc + len }
  | .jump s => s
  | .exc code sub addr s => coreRaise s k c code sub addr

/-- An instruction that is fetched and decoded: the predicate tested, then executed. -/
def coreBody (k len : Nat) (vec : Bool) (p : Nat) (c : CoreSt) (f : CoreSt → State → Out) (s : State) : State :=
  if !vec && !(pget c p).getLsbD 0 then modCore s k fun c => { c with pc := c.pc + len } else coreEnd k len c (f c s)

/-- The words from the counter on: words that are not those of the instruction, `ws`, leave the core as it is, since it is not the one
the core runs next (R337, R341); `illegal` is the subcause of its fields, `m` the bits of its first word that it fixes. -/
def coreWords (ws : List Word) (m : Word) (k len : Nat) (illegal : Option Nat) (c : CoreSt) (body : State → State) (s : State) : State :=
  coreFetch s k c c.pc fun w t =>
    if ws[0]? ≠ some (w &&& m) then s
    else
      match illegal with
      | some sub => coreRaise t k c 4 sub 0#32
      | none =>
        if len = 8 then coreFetch t k c (c.pc + 4) fun w t => if ws[1]? = some w then body t else s
        else body t

/-- A run whose partition has been stopped ends at the instruction boundary (R330). -/
def cutAfter (k : Nat) (s : State) : State := if (coreOf s k).cutAt.isSome then runCut s k else s

/-- The instruction with the words `ws`, of `len` bytes, on core `k` (R337-R342, R353): fetched, decoded, the predicate tested, executed. `vec` is a
vector-class instruction, which runs whatever its predicate (R339). -/
def coreExec (ws : List Word) (k len : Nat) (illegal : Option Nat) (vec : Bool) (p : Nat) (f : CoreSt → State → Out) (s : State)
    (m : Word := 0xFFFFFFFF#32) : State :=
  let c := coreOf s k
  if c.mode ≠ .run then s
  else if c.cutAt.any (· < s.now) then runCut s k
  else cutAfter k (coreWords ws m k len illegal c (coreBody k len vec p c f) s)

/-- A pair field (R309, R338): an odd register is a reserved bit, s0 an illegal operand. -/
def pairField (r : Nat) : Option Nat := if r % 2 = 1 then some 2 else if r = 0 then some 4 else none

/-- Several pair fields: a reserved bit is found first. -/
def pairFields (l : List Nat) : Option Nat :=
  if l.any fun r => pairField r == some 2 then some 2 else if l.any fun r => pairField r == some 4 then some 4 else none

/-- A data access of core `k` (R37, R304, R353): aligned, within the 32-bit part of the map, permitted, readable; `ok` goes on. -/
def coreAccess (s : State) (k : Nat) (wr : Bool) (a n : Nat) (ok : State → Out) : Out :=
  let t := coreTag k (coreOf s k).pid
  let kind := if wr then AccKind.write else AccKind.read
  if a % n ≠ 0 then .exc 3 4 (word a) s
  else if 2 ^ 32 ≤ a then .exc 3 7 (word a) s
  else if inRegs a then .exc 3 7 (word a) (violate s t wr a 7)
  else if wr && inCodeBank a then .exc 3 3 (word a) (violate s t wr a 5)
  else
    match memDenied s t kind a with
    | some kd => .exc 3 1 (word a) (violate s t wr a kd)
    | none =>
      if wr then ok s
      else if (eccRead s a n).2 then .exc 3 6 (word a) (eccRead s a n).1
      else ok (eccRead s a n).1

/-- The bytes a force holds (R401): those of a VAR in force at this address. -/
def forcedByte (s : State) (a : Nat) : Bool :=
  s.tsk.forces.any fun e => e.2.state == 1 && decide (0 < e.2.size) &&
    decide (dataBase e.2.core + e.2.ofs ≤ a) && decide (a < dataBase e.2.core + e.2.ofs + e.2.size)

/-- A program's store (R401, R305): the bytes of forced variables are discarded, the line is marked all the same. -/
def coreStore (s : State) (a : Nat) (bs : List Byte) : State :=
  if s.tsk.forces.isEmpty then wrBytes s a bs
  else
    let s := markDirty (cow s a bs.length) a bs.length
    ((List.range bs.length).zip bs).foldl (fun s e => if forcedByte s (a + e.1) then s else pokeBytes s (a + e.1) [e.2]) s

/-- A core's scalar result. -/
def scalar (k : Nat) (s : State) (d : Nat) (r : Word × Nat) : State := modCore s k fun c => flags (sset c d r.1) r.2

/-! ### Starting runs -/

/-- A load into the data bank of core `k` is in progress (R335). -/
def dataLoading (s : State) (k : Nat) : Bool :=
  match s.pcx.load with | some l => decide (dataBase k ≤ l.dst) && decide (l.dst < coreBase (k + 1)) | none => false

/-- Whether the TSK may start task `t` (R381, R410, R533, R575). -/
def mayStart (s : State) (t : Nat) : Bool :=
  match (taskOf s t).def_, (taskOf s t).pend, ownerOf s 3 t with
  | some d, some a, some p =>
    taskLive s t && !a.held && (partOf s p).attemptAt.isNone && ownerOf s 0 d.core == some p
  | _, _, _ => false

/-- The pending task that starts on core `k`: lowest PRIO, earliest activation, lowest number (R381). -/
def chooseTask (s : State) (k : Nat) : Option Nat :=
  ((tasksOn s k).filter (mayStart s)).foldl (fun b t =>
    match b with
    | none => some t
    | some u =>
      let key := fun t => (((taskOf s t).def_.map (·.prio)).getD 16, ((taskOf s t).pend.map (·.order)).getD 0)
      if (key t).1 < (key u).1 || ((key t).1 == (key u).1 && decide ((key t).2 < (key u).2)) then some t else some u) none

/-- The core may take a run (R381). -/
def coreReady (s : State) (k : Nat) : Bool :=
  (coreOf s k).mode == .idle && (mfind s.part.handover k).isNone && !dataLoading s k && !s.tsk.applyDue.contains k &&
    !s.diag.frozen && s.mir.role != .listen && s.mir.role != .standby

/-- The timer tick of a run (R363): one that no release started has no group. -/
def timerTick (s : State) (relG relT : Word) : Word := if relG = 0xFFFFFFFF#32 then curT s else relT

/-- A run starts (R303, R382). -/
def startRun (s : State) (k t : Nat) (d : TaskDef) (a : Activation) : State :=
  let p := (ownerOf s 3 t).getD 0
  let bank := (coreOf s k).bank
  let desc := fld d.root 31 20 * 16
  let sp := forceOf s (R.coreSpill k)
  let base := dataBase k + fld sp 10 0 * 64
  let lat := s.now - a.at_
  let s := actOut s k
  let s := bump s (R.tskTCnt t) 15 0 1
  let s := if (liveOf s (R.tskTLat t)).toNat < lat then setLive s (R.tskTLat t) (word (min lat 0xFFFFF)) else s
  let first := (taskOf s t).first
  let s := setTask s t { taskOf s t with pend := none, running := true, first := 0 }
  setCore s k {
    mode := .run, bank := bank, ib := word (dataBase k + fld d.root 16 3 * 8), desc := desc
    pc := rd16 s (codeBase k bank + desc + 4) * 4, spillPtr := base, spillEnd := base + fld sp 26 16 * 64
    pid := p, task := t, relG := a.relG, relN := a.relN, relT := a.relT, rt := timerTick s a.relG a.relT, startCode := first
    began := s.now, deadline := a.at_ + d.dl
    smpBase := forceOf s R.scaSmpBase, phBase := forceOf s R.scaPhBase, agBase := forceOf s R.scaAgBase }

/-- TASK_DISPATCH on core `k` (R381). -/
def execTaskDispatch (k : Fin 64) (s : State) : Host.Outcome State Fault Refusal :=
  .next (
    let s := actCheck (cutDue s) k.val
    if !coreReady s k.val then s
    else match chooseTask s k.val with
      | none => s
      | some t =>
        match (taskOf s t).def_, (taskOf s t).pend with
        | some d, some a => startRun s k.val t d a
        | _, _ => s)

/-- The core that runs task `t`. -/
def runnerOf (s : State) (t : Nat) : Option Nat :=
  (s.pcx.cores.find? fun e => e.2.mode == .run && e.2.task == t).map (·.1)

/-- The core on which a precise exception ended the run of task `t` in the cycle of its deadline (R331). -/
def overrunMeets (s : State) (t : Nat) : Option Nat :=
  (s.pcx.cores.find? fun e => e.2.mode != .run && e.2.task == t && e.2.excAt == some s.now && e.2.deadline == s.now).map (·.1)

/-- DEADLINE_EXPIRY of task `t` (R326, R331, R382): the run gets the deadline exception, also one that a precise exception has ended
in the same cycle; a pending activation is MISSED. -/
def execDeadlineExpiry (t : Fin 512) (s : State) : Host.Outcome State Fault Refusal :=
  .next (match runnerOf s t.val, overrunMeets s t.val with
    | some k, _ =>
      let s := cutDue (reach s (coreOf s k).deadline)
      let c := coreOf s k
      if c.mode = .run then takeExc s k 2 1 (excPc c c.pc) 0#32 false else s
    | none, some k =>
      modCore (takeExc s k 2 1 (excPc (coreOf s k) (coreOf s k).pc) 0#32 false) k fun c => { c with excAt := none }
    | none, none =>
      match (taskOf s t.val).pend, (taskOf s t.val).def_ with
      | some a, some d => taskMissed (unpend (actOut (actCheck (reach s (a.at_ + d.dl)) d.core) d.core) t.val) t.val
      | _, _ => s)

/-- CORE_EXC_CLEAR (R336): a write of 1 to VALID. -/
def execCoreExcClear (a : Acc) (k : Fin 64) (s : State) : Host.Outcome State Fault Refusal :=
  .next (regAccess s a (R.coreExc k.val) true fun s =>
    setLive s (R.coreExc k.val) (liveOf s (R.coreExc k.val) &&& 0x1FFFFFFF#32))

/-! ### The load engine (R334) -/

/-- The engine's tag: MASTER 0x8C, secure, SYS = 0. -/
def engineTag : Tag := { secure := true, pid := 0, sys := false, master := 0x8C#8 }

/-- The engine copies `n` lines; it stops at the first refused one: the lines copied, and whether all were. -/
def copyLines (src dst : Nat) : Nat → State → State × Bool
  | 0, s => (s, true)
  | n + 1, s =>
    let r := dmaAccess s 0x0C engineTag false src 64
    if r.2.isSome then (r.1, false) else copyLines (src + 64) (dst + 64) n (wrBytes r.1 dst (rdBytes r.1 src 64))

/-- A load failed (R334). -/
def loadErr (s : State) (e : Nat) : State :=
  setEvt { s with pcx := { s.pcx with loadErr := e, loadDone := false } } R.pcxEvt 2

/-- PCX_LOAD_DST: core, area, offset. -/
def loadArea (w : Word) : Nat × Nat × Nat := (fld w 31 26, fld w 25 24, fld w 16 6 * 64)

/-- The target is one the engine must not touch (R334). -/
def loadActive (s : State) (k area : Nat) : Bool :=
  let c := coreOf s k
  (area == 0 && !c.bank) || (area == 1 && c.bank) || (area == 2 && c.mode != .idle)

/-- The engine is at work, for firmware or for a LOAD of the TSK. -/
def engineBusy (s : State) : Bool := s.pcx.load.isSome || s.tsk.parts.any fun e => e.2.mq == .loading

/-- PCX_LOAD (R334). -/
def execPcxLoad (a : Acc) (s : State) : Host.Outcome State Fault Refusal :=
  .next (match regDenied s (accTag s a) R.pcxLoadCmd true with
    | some kd => loadErr (busError s (accTag s a) true R.pcxLoadCmd kd) 5
    | none =>
      let s := { s with busErr := false }
      let (k, area, ofs) := loadArea (shadowOf s R.pcxLoadDst)
      let src := (shadowOf s R.pcxLoadSrc).toNat
      let len := (shadowOf s R.pcxLoadLen).toNat
      if engineBusy s then loadErr s 1
      else if loadActive s k area then loadErr s 2
      else if len = 0 then s
      else if src < 0x80000000 ∨ 0x81000000 < src + len ∨ area = 3 ∨ (if area = 2 then 0x20000 else 0x10000) < ofs + len then loadErr s 3
      else
        let dst := coreBase k + area * 0x10000 + ofs
        { s with pcx := { s.pcx with load := some { src := src, dst := dst, len := len, at_ := s.now }, loadDone := false, loadErr := 0 } })

/-- PCX_LOAD_DONE (R334). -/
def execPcxLoadDone (s : State) : Host.Outcome State Fault Refusal :=
  .next (match s.pcx.load with
    | none => s
    | some l =>
      let s := reach s (l.at_ + l.len / 64 * 8)
      let r := copyLines l.src l.dst (l.len / 64) s
      let s := { r.1 with pcx := { r.1.pcx with load := none, loadDone := r.2 } }
      if r.2 then setEvt s R.pcxEvt 1 else loadErr s 4)

/-- The check of a PCX set (R328, R336). -/
def checkPcx (ps : PendSet) : Option (Nat × Nat) :=
  match (List.range 32).find? fun p =>
      let w := pendVal ps.vals (R.pcxExcCfg p)
      fld w 1 0 = 3 || fld w 3 2 = 3 || fld w 5 4 = 3 || fld w 7 6 = 3 with
  | some p => some (3, R.pcxExcCfg p % 0x10000)
  | none =>
    match (List.range 64).find? fun k =>
        let w := pendVal ps.vals (R.coreSpill k)
        decide (2048 < fld w 10 0 + fld w 26 16) with
    | some k => some (3, R.coreSpill k % 0x10000)
    | none => none

end Sys2Proof.Machine
end

