-- ==== Sys2Proof/Machine/SarbInt.lean ====
section
/-! DEFINITION. Scalar instructions of the protection cores: ALU, immediates and ALU64 (R343-R346), LI and ADDX (R373). -/

namespace Sys2Proof.Machine

/-- A register operation on sA and sB (R343, R347, R349). -/
def aluRun (ws : List Word) (k : Fin 64) (p : Fin 8) (d a b : Fin 32) (op : Word → Word → Word × Nat) (s : State) : State :=
  coreExec ws k.val 4 none false p.val (fun c s => .go (scalar k.val s d.val (op (sget c a.val) (sget c b.val)))) s

/-- A register operation on sA. -/
def aluRun1 (ws : List Word) (k : Fin 64) (p : Fin 8) (d a : Fin 32) (op : Word → Word × Nat) (s : State) : State :=
  coreExec ws k.val 4 none false p.val (fun c s => .go (scalar k.val s d.val (op (sget c a.val)))) s

/-- A register operation that accumulates in sD. -/
def accRun (ws : List Word) (k : Fin 64) (p : Fin 8) (d a b : Fin 32) (op : Word → Word → Word → Word × Nat) (s : State) : State :=
  coreExec ws k.val 4 none false p.val
    (fun c s => .go (scalar k.val s d.val (op (sget c d.val) (sget c a.val) (sget c b.val)))) s

/-- A 64-bit result in the pair D (R309). -/
def pairOut (k : Fin 64) (s : State) (d : Fin 32) (r : DWord × Nat) : Out :=
  .go (modCore s k.val fun c => flags (dset c d.val r.1) r.2)

/-- An ALU64 operation on pairs, on single registers (R346). -/
def pairRun (ws : List Word) (k : Fin 64) (p : Fin 8) (d a b : Fin 32) (op : DWord → DWord → DWord × Nat) (s : State) : State :=
  coreExec ws k.val 4 (pairFields [d.val, a.val, b.val]) false p.val
    (fun c s => pairOut k s d (op (dget c a.val) (dget c b.val))) s
def wideRun (ws : List Word) (k : Fin 64) (p : Fin 8) (d a b : Fin 32) (op : Word → Word → DWord × Nat) (s : State) : State :=
  coreExec ws k.val 4 (pairField d.val) false p.val (fun c s => pairOut k s d (op (sget c a.val) (sget c b.val))) s

/-- ADD (R343): sD := sA + sB, wrapping. -/
def execAdd (k : Fin 64) (p : Fin 8) (d a b : Fin 32) (s : State) : Host.Outcome State Fault Refusal :=
  .next (aluRun [encR 0x01 p d a b 0x0] k p d a b aluAdd s)

/-- SUB (R343): sD := sA - sB, wrapping. -/
def execSub (k : Fin 64) (p : Fin 8) (d a b : Fin 32) (s : State) : Host.Outcome State Fault Refusal :=
  .next (aluRun [encR 0x01 p d a b 0x1] k p d a b aluSub s)

/-- AND (R343): sD := sA AND sB. -/
def execAnd (k : Fin 64) (p : Fin 8) (d a b : Fin 32) (s : State) : Host.Outcome State Fault Refusal :=
  .next (aluRun [encR 0x01 p d a b 0x2] k p d a b aluAnd s)

/-- OR (R343): sD := sA OR sB. -/
def execOr (k : Fin 64) (p : Fin 8) (d a b : Fin 32) (s : State) : Host.Outcome State Fault Refusal :=
  .next (aluRun [encR 0x01 p d a b 0x3] k p d a b aluOr s)

/-- XOR (R343): sD := sA XOR sB. -/
def execXor (k : Fin 64) (p : Fin 8) (d a b : Fin 32) (s : State) : Host.Outcome State Fault Refusal :=
  .next (aluRun [encR 0x01 p d a b 0x4] k p d a b aluXor s)

/-- SHL (R343): sD := a left shift. -/
def execShl (k : Fin 64) (p : Fin 8) (d a b : Fin 32) (s : State) : Host.Outcome State Fault Refusal :=
  .next (aluRun [encR 0x01 p d a b 0x5] k p d a b aluShl s)

/-- SHR (R343): sD := a right shift, zero fill. -/
def execShr (k : Fin 64) (p : Fin 8) (d a b : Fin 32) (s : State) : Host.Outcome State Fault Refusal :=
  .next (aluRun [encR 0x01 p d a b 0x6] k p d a b aluShr s)

/-- SRA (R343): sD := a right shift, sign fill. -/
def execSra (k : Fin 64) (p : Fin 8) (d a b : Fin 32) (s : State) : Host.Outcome State Fault Refusal :=
  .next (aluRun [encR 0x01 p d a b 0x7] k p d a b aluSra s)

/-- MUL (R343): sD := the low half of the product. -/
def execMul (k : Fin 64) (p : Fin 8) (d a b : Fin 32) (s : State) : Host.Outcome State Fault Refusal :=
  .next (aluRun [encR 0x01 p d a b 0x8] k p d a b aluMul s)

/-- MULH (R343): sD := the high half of the signed product. -/
def execMulh (k : Fin 64) (p : Fin 8) (d a b : Fin 32) (s : State) : Host.Outcome State Fault Refusal :=
  .next (aluRun [encR 0x01 p d a b 0x9] k p d a b aluMulh s)

/-- MULHU (R343): sD := the high half of the unsigned product. -/
def execMulhu (k : Fin 64) (p : Fin 8) (d a b : Fin 32) (s : State) : Host.Outcome State Fault Refusal :=
  .next (aluRun [encR 0x01 p d a b 0xa] k p d a b aluMulhu s)

/-- ADDS (R343): sD := the saturated sum. -/
def execAdds (k : Fin 64) (p : Fin 8) (d a b : Fin 32) (s : State) : Host.Outcome State Fault Refusal :=
  .next (aluRun [encR 0x01 p d a b 0xb] k p d a b aluAdds s)

/-- SUBS (R343): sD := the saturated difference. -/
def execSubs (k : Fin 64) (p : Fin 8) (d a b : Fin 32) (s : State) : Host.Outcome State Fault Refusal :=
  .next (aluRun [encR 0x01 p d a b 0xc] k p d a b aluSubs s)

/-- MIN (R343): sD := the signed minimum. -/
def execMin (k : Fin 64) (p : Fin 8) (d a b : Fin 32) (s : State) : Host.Outcome State Fault Refusal :=
  .next (aluRun [encR 0x01 p d a b 0xd] k p d a b aluMin s)

/-- MAX (R343): sD := the signed maximum. -/
def execMax (k : Fin 64) (p : Fin 8) (d a b : Fin 32) (s : State) : Host.Outcome State Fault Refusal :=
  .next (aluRun [encR 0x01 p d a b 0xe] k p d a b aluMax s)

/-- MINU (R343): sD := the unsigned minimum. -/
def execMinu (k : Fin 64) (p : Fin 8) (d a b : Fin 32) (s : State) : Host.Outcome State Fault Refusal :=
  .next (aluRun [encR 0x01 p d a b 0xf] k p d a b aluMinu s)

/-- MAXU (R343): sD := the unsigned maximum. -/
def execMaxu (k : Fin 64) (p : Fin 8) (d a b : Fin 32) (s : State) : Host.Outcome State Fault Refusal :=
  .next (aluRun [encR 0x01 p d a b 0x10] k p d a b aluMaxu s)

/-- DIV (R343, R344). -/
def execDiv (k : Fin 64) (p : Fin 8) (d a b : Fin 32) (s : State) : Host.Outcome State Fault Refusal :=
  .next (aluRun [encR 0x01 p d a b 0x11] k p d a b aluDiv s)

/-- DIVU (R343, R344). -/
def execDivu (k : Fin 64) (p : Fin 8) (d a b : Fin 32) (s : State) : Host.Outcome State Fault Refusal :=
  .next (aluRun [encR 0x01 p d a b 0x12] k p d a b aluDivu s)

/-- REM (R343, R344). -/
def execRem (k : Fin 64) (p : Fin 8) (d a b : Fin 32) (s : State) : Host.Outcome State Fault Refusal :=
  .next (aluRun [encR 0x01 p d a b 0x13] k p d a b aluRem s)

/-- REMU (R343, R344). -/
def execRemu (k : Fin 64) (p : Fin 8) (d a b : Fin 32) (s : State) : Host.Outcome State Fault Refusal :=
  .next (aluRun [encR 0x01 p d a b 0x14] k p d a b aluRemu s)

/-- ABS (R343). -/
def execAbs (k : Fin 64) (p : Fin 8) (d a : Fin 32) (s : State) : Host.Outcome State Fault Refusal :=
  .next (aluRun1 [encR 0x01 p d a 0 0x15] k p d a aluAbs s)

/-- CLZ (R343). -/
def execClz (k : Fin 64) (p : Fin 8) (d a : Fin 32) (s : State) : Host.Outcome State Fault Refusal :=
  .next (aluRun1 [encR 0x01 p d a 0 0x16] k p d a aluClz s)

/-- ADDI (R345). -/
def execAddi (k : Fin 64) (p : Fin 8) (d a : Fin 32) (imm : BitVec 13) (s : State) : Host.Outcome State Fault Refusal :=
  .next (aluRun1 [encI 0x02 p d a imm.toNat] k p d a (fun x => aluAdd x (imm.signExtend 32)) s)

/-- ANDI (R345). -/
def execAndi (k : Fin 64) (p : Fin 8) (d a : Fin 32) (imm : BitVec 13) (s : State) : Host.Outcome State Fault Refusal :=
  .next (aluRun1 [encI 0x03 p d a imm.toNat] k p d a (fun x => aluAnd x (imm.setWidth 32)) s)

/-- ORI (R345). -/
def execOri (k : Fin 64) (p : Fin 8) (d a : Fin 32) (imm : BitVec 13) (s : State) : Host.Outcome State Fault Refusal :=
  .next (aluRun1 [encI 0x04 p d a imm.toNat] k p d a (fun x => aluOr x (imm.setWidth 32)) s)

/-- XORI (R345). -/
def execXori (k : Fin 64) (p : Fin 8) (d a : Fin 32) (imm : BitVec 13) (s : State) : Host.Outcome State Fault Refusal :=
  .next (aluRun1 [encI 0x05 p d a imm.toNat] k p d a (fun x => aluXor x (imm.setWidth 32)) s)

/-- SHI_SHL by an amount in the instruction (R345). -/
def execShiShl (k : Fin 64) (p : Fin 8) (d a n : Fin 32) (s : State) : Host.Outcome State Fault Refusal :=
  .next (aluRun1 [encI 0x06 p d a (0x0 + n)] k p d a (fun x => aluShl x (word n.val)) s)

/-- SHI_SHR by an amount in the instruction (R345). -/
def execShiShr (k : Fin 64) (p : Fin 8) (d a n : Fin 32) (s : State) : Host.Outcome State Fault Refusal :=
  .next (aluRun1 [encI 0x06 p d a (0x20 + n)] k p d a (fun x => aluShr x (word n.val)) s)

/-- SHI_SRA by an amount in the instruction (R345). -/
def execShiSra (k : Fin 64) (p : Fin 8) (d a n : Fin 32) (s : State) : Host.Outcome State Fault Refusal :=
  .next (aluRun1 [encI 0x06 p d a (0x40 + n)] k p d a (fun x => aluSra x (word n.val)) s)

/-- ADD64 (R346). -/
def execAdd64 (k : Fin 64) (p : Fin 8) (d a b : Fin 32) (s : State) : Host.Outcome State Fault Refusal :=
  .next (pairRun [encR 0x07 p d a b 0x0] k p d a b add64 s)

/-- SUB64 (R346). -/
def execSub64 (k : Fin 64) (p : Fin 8) (d a b : Fin 32) (s : State) : Host.Outcome State Fault Refusal :=
  .next (pairRun [encR 0x07 p d a b 0x1] k p d a b sub64 s)

/-- ADDS64 (R346). -/
def execAdds64 (k : Fin 64) (p : Fin 8) (d a b : Fin 32) (s : State) : Host.Outcome State Fault Refusal :=
  .next (pairRun [encR 0x07 p d a b 0x4] k p d a b adds64 s)

/-- MULL (R346). -/
def execMull (k : Fin 64) (p : Fin 8) (d a b : Fin 32) (s : State) : Host.Outcome State Fault Refusal :=
  .next (wideRun [encR 0x07 p d a b 0x2] k p d a b mull s)

/-- MULLU (R346). -/
def execMullu (k : Fin 64) (p : Fin 8) (d a b : Fin 32) (s : State) : Host.Outcome State Fault Refusal :=
  .next (wideRun [encR 0x07 p d a b 0x3] k p d a b mullu s)

/-- LI (R373): an extended instruction. -/
def execLi (k : Fin 64) (p : Fin 8) (d : Fin 32) (imm : Word) (s : State) : Host.Outcome State Fault Refusal :=
  .next (coreExec [encR 0x3F p d 0 0 0x1, imm] k.val 8 none false p.val (fun _ s => .go (scalar k.val s d.val (imm, 0))) s)

/-- ADDX (R373). -/
def execAddx (k : Fin 64) (p : Fin 8) (d a : Fin 32) (imm : Word) (s : State) : Host.Outcome State Fault Refusal :=
  .next (coreExec [encR 0x3F p d a 0 0x2, imm] k.val 8 none false p.val (fun c s => .go (scalar k.val s d.val (aluAdd (sget c a.val) imm))) s)

end Sys2Proof.Machine
end

