-- ==== Sys2Proof/Machine/SarbFp.lean ====
section
/-! DEFINITION. Floating point and Q31 (R347-R349), compares (R350), predicates (R351). -/

namespace Sys2Proof.Machine

/-- FADD (R347). -/
def execFadd (k : Fin 64) (p : Fin 8) (d a b : Fin 32) (s : State) : Host.Outcome State Fault Refusal :=
  .next (aluRun [encR 0x08 p d a b 0x0] k p d a b fadd s)

/-- FSUB (R347). -/
def execFsub (k : Fin 64) (p : Fin 8) (d a b : Fin 32) (s : State) : Host.Outcome State Fault Refusal :=
  .next (aluRun [encR 0x08 p d a b 0x1] k p d a b fsub s)

/-- FMUL (R347). -/
def execFmul (k : Fin 64) (p : Fin 8) (d a b : Fin 32) (s : State) : Host.Outcome State Fault Refusal :=
  .next (aluRun [encR 0x08 p d a b 0x2] k p d a b fmul s)

/-- FDIV (R347). -/
def execFdiv (k : Fin 64) (p : Fin 8) (d a b : Fin 32) (s : State) : Host.Outcome State Fault Refusal :=
  .next (aluRun [encR 0x08 p d a b 0x3] k p d a b fdiv s)

/-- FSQRT (R347). -/
def execFsqrt (k : Fin 64) (p : Fin 8) (d a : Fin 32) (s : State) : Host.Outcome State Fault Refusal :=
  .next (aluRun1 [encR 0x08 p d a 0 0x4] k p d a fsqrt s)

/-- FMIN (R347, R348). -/
def execFmin (k : Fin 64) (p : Fin 8) (d a b : Fin 32) (s : State) : Host.Outcome State Fault Refusal :=
  .next (aluRun [encR 0x08 p d a b 0x5] k p d a b fmin s)

/-- FMAX (R347, R348). -/
def execFmax (k : Fin 64) (p : Fin 8) (d a b : Fin 32) (s : State) : Host.Outcome State Fault Refusal :=
  .next (aluRun [encR 0x08 p d a b 0x6] k p d a b fmax s)

/-- FABS (R347). -/
def execFabs (k : Fin 64) (p : Fin 8) (d a : Fin 32) (s : State) : Host.Outcome State Fault Refusal :=
  .next (aluRun1 [encR 0x08 p d a 0 0x7] k p d a fabs s)

/-- FNEG (R347). -/
def execFneg (k : Fin 64) (p : Fin 8) (d a : Fin 32) (s : State) : Host.Outcome State Fault Refusal :=
  .next (aluRun1 [encR 0x08 p d a 0 0x8] k p d a fneg s)

/-- FMAC (R347): sD + sA × sB, one rounding. -/
def execFmac (k : Fin 64) (p : Fin 8) (d a b : Fin 32) (s : State) : Host.Outcome State Fault Refusal :=
  .next (accRun [encR 0x08 p d a b 0x9] k p d a b fmac s)

/-- FCVTSW (R347, R348). -/
def execFcvtsw (k : Fin 64) (p : Fin 8) (d a : Fin 32) (s : State) : Host.Outcome State Fault Refusal :=
  .next (aluRun1 [encR 0x08 p d a 0 0xa] k p d a fcvtsw s)

/-- FCVTWS (R347, R348). -/
def execFcvtws (k : Fin 64) (p : Fin 8) (d a : Fin 32) (s : State) : Host.Outcome State Fault Refusal :=
  .next (aluRun1 [encR 0x08 p d a 0 0xb] k p d a fcvtws s)

/-- FCVTSQ (R347, R348). -/
def execFcvtsq (k : Fin 64) (p : Fin 8) (d a : Fin 32) (s : State) : Host.Outcome State Fault Refusal :=
  .next (aluRun1 [encR 0x08 p d a 0 0xc] k p d a fcvtsq s)

/-- FCVTQS (R347, R348). -/
def execFcvtqs (k : Fin 64) (p : Fin 8) (d a : Fin 32) (s : State) : Host.Outcome State Fault Refusal :=
  .next (aluRun1 [encR 0x08 p d a 0 0xd] k p d a fcvtqs s)

/-- FATAN2 (R347, R348). -/
def execFatan2 (k : Fin 64) (p : Fin 8) (d a b : Fin 32) (s : State) : Host.Outcome State Fault Refusal :=
  .next (aluRun [encR 0x08 p d a b 0xe] k p d a b fatan2 s)

/-- FHYPOT (R347, R348). -/
def execFhypot (k : Fin 64) (p : Fin 8) (d a b : Fin 32) (s : State) : Host.Outcome State Fault Refusal :=
  .next (aluRun [encR 0x08 p d a b 0xf] k p d a b fhypot s)

/-- QADD (R349). -/
def execQadd (k : Fin 64) (p : Fin 8) (d a b : Fin 32) (s : State) : Host.Outcome State Fault Refusal :=
  .next (aluRun [encR 0x09 p d a b 0x0] k p d a b qadd s)

/-- QSUB (R349). -/
def execQsub (k : Fin 64) (p : Fin 8) (d a b : Fin 32) (s : State) : Host.Outcome State Fault Refusal :=
  .next (aluRun [encR 0x09 p d a b 0x1] k p d a b qsub s)

/-- QMUL (R349). -/
def execQmul (k : Fin 64) (p : Fin 8) (d a b : Fin 32) (s : State) : Host.Outcome State Fault Refusal :=
  .next (aluRun [encR 0x09 p d a b 0x2] k p d a b qmul s)

/-- QMAC (R349): the product is rounded, then added to sD. -/
def execQmac (k : Fin 64) (p : Fin 8) (d a b : Fin 32) (s : State) : Host.Outcome State Fault Refusal :=
  .next (accRun [encR 0x09 p d a b 0x3] k p d a b qmac s)

/-- QABS (R349). -/
def execQabs (k : Fin 64) (p : Fin 8) (d a : Fin 32) (s : State) : Host.Outcome State Fault Refusal :=
  .next (aluRun1 [encR 0x09 p d a 0 0x4] k p d a qabs s)

/-- QNEG (R349). -/
def execQneg (k : Fin 64) (p : Fin 8) (d a : Fin 32) (s : State) : Host.Outcome State Fault Refusal :=
  .next (aluRun1 [encR 0x09 p d a 0 0x5] k p d a qneg s)

/-- QSHL (R349). -/
def execQshl (k : Fin 64) (p : Fin 8) (d a b : Fin 32) (s : State) : Host.Outcome State Fault Refusal :=
  .next (aluRun [encR 0x09 p d a b 0x6] k p d a b qshl s)

/-- QSHR (R349). -/
def execQshr (k : Fin 64) (p : Fin 8) (d a b : Fin 32) (s : State) : Host.Outcome State Fault Refusal :=
  .next (aluRun [encR 0x09 p d a b 0x7] k p d a b qshr s)

/-- The byte a condition writes (R350). -/
def condByte (b : Bool) : Byte := if b then 0xFF#8 else 0#8

/-- A result in a predicate register, under the governing predicate (R339). -/
def predOut (k : Fin 64) (p d : Fin 8) (s : State) (v : Byte) (f : Nat) : Out :=
  .go (modCore s k.val fun c => flags (pset c d.val (pget c p.val) v) f)

/-- A compare of sA with sB (R350). -/
def cmpRun (ws : List Word) (k : Fin 64) (p d : Fin 8) (a b : Fin 32) (op : Word → Word → Bool × Nat) (s : State) : State :=
  coreExec ws k.val 4 none false p.val (fun c s =>
    let r := op (sget c a.val) (sget c b.val)
    predOut k p d s (condByte r.1) r.2) s

/-- A predicate operation (R351). -/
def predRun (ws : List Word) (k : Fin 64) (p d a b : Fin 8) (op : Byte → Byte → Byte) (s : State) : State :=
  coreExec ws k.val 4 none false p.val (fun c s => predOut k p d s (op (pget c a.val) (pget c b.val)) 0) s

/-- CEQ (R350). -/
def execCeq (k : Fin 64) (p d : Fin 8) (a b : Fin 32) (s : State) : Host.Outcome State Fault Refusal :=
  .next (cmpRun [encR 0x0A p d a b 0x0] k p d a b cEq s)

/-- CNE (R350). -/
def execCne (k : Fin 64) (p d : Fin 8) (a b : Fin 32) (s : State) : Host.Outcome State Fault Refusal :=
  .next (cmpRun [encR 0x0A p d a b 0x1] k p d a b cNe s)

/-- CLT (R350). -/
def execClt (k : Fin 64) (p d : Fin 8) (a b : Fin 32) (s : State) : Host.Outcome State Fault Refusal :=
  .next (cmpRun [encR 0x0A p d a b 0x2] k p d a b cLt s)

/-- CGE (R350). -/
def execCge (k : Fin 64) (p d : Fin 8) (a b : Fin 32) (s : State) : Host.Outcome State Fault Refusal :=
  .next (cmpRun [encR 0x0A p d a b 0x3] k p d a b cGe s)

/-- CLTU (R350). -/
def execCltu (k : Fin 64) (p d : Fin 8) (a b : Fin 32) (s : State) : Host.Outcome State Fault Refusal :=
  .next (cmpRun [encR 0x0A p d a b 0x4] k p d a b cLtu s)

/-- CGEU (R350). -/
def execCgeu (k : Fin 64) (p d : Fin 8) (a b : Fin 32) (s : State) : Host.Outcome State Fault Refusal :=
  .next (cmpRun [encR 0x0A p d a b 0x5] k p d a b cGeu s)

/-- CTST (R350). -/
def execCtst (k : Fin 64) (p d : Fin 8) (a b : Fin 32) (s : State) : Host.Outcome State Fault Refusal :=
  .next (cmpRun [encR 0x0A p d a b 0x6] k p d a b cTst s)

/-- CTSTN (R350). -/
def execCtstn (k : Fin 64) (p d : Fin 8) (a b : Fin 32) (s : State) : Host.Outcome State Fault Refusal :=
  .next (cmpRun [encR 0x0A p d a b 0x7] k p d a b cTstn s)

/-- FEQ (R350). -/
def execFeq (k : Fin 64) (p d : Fin 8) (a b : Fin 32) (s : State) : Host.Outcome State Fault Refusal :=
  .next (cmpRun [encR 0x0A p d a b 0x8] k p d a b feq s)

/-- FLT (R350). -/
def execFlt (k : Fin 64) (p d : Fin 8) (a b : Fin 32) (s : State) : Host.Outcome State Fault Refusal :=
  .next (cmpRun [encR 0x0A p d a b 0x9] k p d a b flt s)

/-- FLE (R350). -/
def execFle (k : Fin 64) (p d : Fin 8) (a b : Fin 32) (s : State) : Host.Outcome State Fault Refusal :=
  .next (cmpRun [encR 0x0A p d a b 0xa] k p d a b fle s)

/-- FUN (R350). -/
def execFun (k : Fin 64) (p d : Fin 8) (a b : Fin 32) (s : State) : Host.Outcome State Fault Refusal :=
  .next (cmpRun [encR 0x0A p d a b 0xb] k p d a b fun_ s)

/-- PAND (R351). -/
def execPand (k : Fin 64) (p d a b : Fin 8) (s : State) : Host.Outcome State Fault Refusal :=
  .next (predRun [encR 0x0B p d a b 0x0] k p d a b pAnd s)

/-- POR (R351). -/
def execPor (k : Fin 64) (p d a b : Fin 8) (s : State) : Host.Outcome State Fault Refusal :=
  .next (predRun [encR 0x0B p d a b 0x1] k p d a b pOr s)

/-- PXOR (R351). -/
def execPxor (k : Fin 64) (p d a b : Fin 8) (s : State) : Host.Outcome State Fault Refusal :=
  .next (predRun [encR 0x0B p d a b 0x2] k p d a b pXor s)

/-- PANDN (R351). -/
def execPandn (k : Fin 64) (p d a b : Fin 8) (s : State) : Host.Outcome State Fault Refusal :=
  .next (predRun [encR 0x0B p d a b 0x3] k p d a b pAndn s)

/-- PNOT (R351). -/
def execPnot (k : Fin 64) (p d a : Fin 8) (s : State) : Host.Outcome State Fault Refusal :=
  .next (predRun [encR 0x0B p d a 0 0x4] k p d a 0 (fun x _ => pNot x) s)

/-- PTOS (R351): sD := pA. -/
def execPtos (k : Fin 64) (p : Fin 8) (d : Fin 32) (a : Fin 8) (s : State) : Host.Outcome State Fault Refusal :=
  .next (coreExec [encR 0x0C p d a 0 0x0] k.val 4 none false p.val (fun c s => .go (scalar k.val s d.val ((pget c a.val).setWidth 32, 0))) s)

/-- STOP (R351): pD := sA[7:0]. -/
def execStop (k : Fin 64) (p d : Fin 8) (a : Fin 32) (s : State) : Host.Outcome State Fault Refusal :=
  .next (coreExec [encR 0x0C p d a 0 0x1] k.val 4 none false p.val (fun c s => predOut k p d s ((sget c a.val).setWidth 8) 0) s)

/-- PSET (R351). -/
def execPset (k : Fin 64) (p d : Fin 8) (a : Fin 32) (s : State) : Host.Outcome State Fault Refusal :=
  .next (coreExec [encR 0x0C p d a 0 0x2] k.val 4 none false p.val (fun c s => predOut k p d s (condByte (sget c a.val != 0#32)) 0) s)

end Sys2Proof.Machine
end

