-- ==== Sys2Proof/Machine/SarbVec.lean ====
section
/-! DEFINITION. Vector instructions (R355-R357), VBCI (R373). -/

namespace Sys2Proof.Machine

/-- `f` on every lane whose predicate bit is 1, on the core's registers, in ascending order (R309). -/
def lanes (c : CoreSt) (m : Byte) (f : Nat → CoreSt → CoreSt) : CoreSt :=
  (List.range 8).foldl (fun c' i => if m.getLsbD i then f i c' else c') c

/-- A lane operation on vA and vB, the flags of the enabled lanes collected (R356). -/
def valuRun (ws : List Word) (k : Fin 64) (p : Fin 8) (d a b : Fin 32) (op : Word → Word → Word × Nat) (s : State) : State :=
  coreExec ws k.val 4 none true p.val (fun c s =>
    .go (setCore s k.val (lanes c (pget c p.val) fun i c' =>
      let r := op (vget c a.val i) (vget c b.val i)
      flags (vset c' d.val i r.1) r.2))) s

/-- A lane operation that accumulates in vD (R356). -/
def vaccRun (ws : List Word) (k : Fin 64) (p : Fin 8) (d a b : Fin 32) (op : Word → Word → Word → Word × Nat) (s : State) : State :=
  coreExec ws k.val 4 none true p.val (fun c s =>
    .go (setCore s k.val (lanes c (pget c p.val) fun i c' =>
      let r := op (vget c d.val i) (vget c a.val i) (vget c b.val i)
      flags (vset c' d.val i r.1) r.2))) s

/-- A compare lane by lane: bit i of pD is lane i's result, only enabled bits written (R356). -/
def vcmpRun (ws : List Word) (k : Fin 64) (p d : Fin 8) (a b : Fin 32) (op : Word → Word → Bool × Nat) (s : State) : State :=
  coreExec ws k.val 4 none true p.val (fun c s =>
    let m := pget c p.val
    let r := (List.range 8).foldl (fun (v, f) i =>
      if m.getLsbD i then
        let x := op (vget c a.val i) (vget c b.val i)
        (if x.1 then v ||| BitVec.ofNat 8 (2 ^ i) else v, f ||| x.2)
      else (v, f)) ((0#8 : Byte), (0 : Nat))
    .go (setCore s k.val (flags (pset c d.val m r.1) r.2))) s

/-- The enabled lanes of vA, in ascending order. -/
def onLanes (c : CoreSt) (m : Byte) (a : Nat) : List Word :=
  ((List.range 8).filter fun i => m.getLsbD i).map (vget c a)

/-- A reduction to sD (R357); it has no operand B, whose field is not reserved. -/
def reduceRun (ws : List Word) (k : Fin 64) (p : Fin 8) (d a : Fin 32) (op : CoreSt → Byte → Nat → Word × Nat) (s : State) : State :=
  coreExec ws k.val 4 none true p.val (fun c s => .go (scalar k.val s d.val (op c (pget c p.val) a.val))) s 0xFFFFE0FF#32

/-- Two operands of VSUMF's tree: an absent one passes the other unchanged (R357). -/
def treeAdd (x y : Option (Word × Nat)) : Option (Word × Nat) :=
  match x, y with
  | some x, some y => let r := fadd x.1 y.1; some (r.1, x.2 ||| y.2 ||| r.2)
  | some x, none => some x
  | none, y => y

/-- Lane `i` as a leaf of the tree. -/
def leaf (c : CoreSt) (m : Byte) (a i : Nat) : Option (Word × Nat) :=
  if m.getLsbD i then some (vget c a i, 0) else none

def sumI (c : CoreSt) (m : Byte) (a : Nat) : Word × Nat := ((onLanes c m a).foldl (· + ·) 0#32, 0)
def sumQ (c : CoreSt) (m : Byte) (a : Nat) : Word × Nat :=
  (onLanes c m a).foldl (fun r w => let x := qadd r.1 w; (x.1, r.2 ||| x.2)) (0#32, 0)
def sumF (c : CoreSt) (m : Byte) (a : Nat) : Word × Nat :=
  let l := leaf c m a
  (treeAdd (treeAdd (treeAdd (l 0) (l 1)) (treeAdd (l 2) (l 3)))
    (treeAdd (treeAdd (l 4) (l 5)) (treeAdd (l 6) (l 7)))).getD (0#32, 0)
/-- The maximum under the rule of FMAX, of one lane as well (R357, R312). -/
def maxF (c : CoreSt) (m : Byte) (a : Nat) : Word × Nat :=
  match onLanes c m a with
  | [] => (0#32, 0)
  | w :: t => t.foldl (fun r w => let x := fmax r.1 w; (x.1, r.2 ||| x.2)) (fmax w w)

/-- VADD (R356). -/
def execVadd (k : Fin 64) (p : Fin 8) (d a b : Fin 32) (s : State) : Host.Outcome State Fault Refusal :=
  .next (valuRun [encR 0x22 p d a b 0x0] k p d a b aluAdd s)

/-- VSUB (R356). -/
def execVsub (k : Fin 64) (p : Fin 8) (d a b : Fin 32) (s : State) : Host.Outcome State Fault Refusal :=
  .next (valuRun [encR 0x22 p d a b 0x1] k p d a b aluSub s)

/-- VAND (R356). -/
def execVand (k : Fin 64) (p : Fin 8) (d a b : Fin 32) (s : State) : Host.Outcome State Fault Refusal :=
  .next (valuRun [encR 0x22 p d a b 0x2] k p d a b aluAnd s)

/-- VOR (R356). -/
def execVor (k : Fin 64) (p : Fin 8) (d a b : Fin 32) (s : State) : Host.Outcome State Fault Refusal :=
  .next (valuRun [encR 0x22 p d a b 0x3] k p d a b aluOr s)

/-- VXOR (R356). -/
def execVxor (k : Fin 64) (p : Fin 8) (d a b : Fin 32) (s : State) : Host.Outcome State Fault Refusal :=
  .next (valuRun [encR 0x22 p d a b 0x4] k p d a b aluXor s)

/-- VSHL (R356). -/
def execVshl (k : Fin 64) (p : Fin 8) (d a b : Fin 32) (s : State) : Host.Outcome State Fault Refusal :=
  .next (valuRun [encR 0x22 p d a b 0x5] k p d a b aluShl s)

/-- VSHR (R356). -/
def execVshr (k : Fin 64) (p : Fin 8) (d a b : Fin 32) (s : State) : Host.Outcome State Fault Refusal :=
  .next (valuRun [encR 0x22 p d a b 0x6] k p d a b aluShr s)

/-- VSRA (R356). -/
def execVsra (k : Fin 64) (p : Fin 8) (d a b : Fin 32) (s : State) : Host.Outcome State Fault Refusal :=
  .next (valuRun [encR 0x22 p d a b 0x7] k p d a b aluSra s)

/-- VMUL (R356). -/
def execVmul (k : Fin 64) (p : Fin 8) (d a b : Fin 32) (s : State) : Host.Outcome State Fault Refusal :=
  .next (valuRun [encR 0x22 p d a b 0x8] k p d a b aluMul s)

/-- VMULH (R356). -/
def execVmulh (k : Fin 64) (p : Fin 8) (d a b : Fin 32) (s : State) : Host.Outcome State Fault Refusal :=
  .next (valuRun [encR 0x22 p d a b 0x9] k p d a b aluMulh s)

/-- VMULHU (R356). -/
def execVmulhu (k : Fin 64) (p : Fin 8) (d a b : Fin 32) (s : State) : Host.Outcome State Fault Refusal :=
  .next (valuRun [encR 0x22 p d a b 0xa] k p d a b aluMulhu s)

/-- VADDS (R356). -/
def execVadds (k : Fin 64) (p : Fin 8) (d a b : Fin 32) (s : State) : Host.Outcome State Fault Refusal :=
  .next (valuRun [encR 0x22 p d a b 0xb] k p d a b aluAdds s)

/-- VSUBS (R356). -/
def execVsubs (k : Fin 64) (p : Fin 8) (d a b : Fin 32) (s : State) : Host.Outcome State Fault Refusal :=
  .next (valuRun [encR 0x22 p d a b 0xc] k p d a b aluSubs s)

/-- VMIN (R356). -/
def execVmin (k : Fin 64) (p : Fin 8) (d a b : Fin 32) (s : State) : Host.Outcome State Fault Refusal :=
  .next (valuRun [encR 0x22 p d a b 0xd] k p d a b aluMin s)

/-- VMAX (R356). -/
def execVmax (k : Fin 64) (p : Fin 8) (d a b : Fin 32) (s : State) : Host.Outcome State Fault Refusal :=
  .next (valuRun [encR 0x22 p d a b 0xe] k p d a b aluMax s)

/-- VMINU (R356). -/
def execVminu (k : Fin 64) (p : Fin 8) (d a b : Fin 32) (s : State) : Host.Outcome State Fault Refusal :=
  .next (valuRun [encR 0x22 p d a b 0xf] k p d a b aluMinu s)

/-- VMAXU (R356). -/
def execVmaxu (k : Fin 64) (p : Fin 8) (d a b : Fin 32) (s : State) : Host.Outcome State Fault Refusal :=
  .next (valuRun [encR 0x22 p d a b 0x10] k p d a b aluMaxu s)

/-- VFADD (R356). -/
def execVfadd (k : Fin 64) (p : Fin 8) (d a b : Fin 32) (s : State) : Host.Outcome State Fault Refusal :=
  .next (valuRun [encR 0x22 p d a b 0x20] k p d a b fadd s)

/-- VFSUB (R356). -/
def execVfsub (k : Fin 64) (p : Fin 8) (d a b : Fin 32) (s : State) : Host.Outcome State Fault Refusal :=
  .next (valuRun [encR 0x22 p d a b 0x21] k p d a b fsub s)

/-- VFMUL (R356). -/
def execVfmul (k : Fin 64) (p : Fin 8) (d a b : Fin 32) (s : State) : Host.Outcome State Fault Refusal :=
  .next (valuRun [encR 0x22 p d a b 0x22] k p d a b fmul s)

/-- VFDIV (R356). -/
def execVfdiv (k : Fin 64) (p : Fin 8) (d a b : Fin 32) (s : State) : Host.Outcome State Fault Refusal :=
  .next (valuRun [encR 0x22 p d a b 0x23] k p d a b fdiv s)

/-- VFSQRT (R356). -/
def execVfsqrt (k : Fin 64) (p : Fin 8) (d a : Fin 32) (s : State) : Host.Outcome State Fault Refusal :=
  .next (valuRun [encR 0x22 p d a 0 0x24] k p d a 0 (fun x _ => fsqrt x) s)

/-- VFMIN (R356). -/
def execVfmin (k : Fin 64) (p : Fin 8) (d a b : Fin 32) (s : State) : Host.Outcome State Fault Refusal :=
  .next (valuRun [encR 0x22 p d a b 0x25] k p d a b fmin s)

/-- VFMAX (R356). -/
def execVfmax (k : Fin 64) (p : Fin 8) (d a b : Fin 32) (s : State) : Host.Outcome State Fault Refusal :=
  .next (valuRun [encR 0x22 p d a b 0x26] k p d a b fmax s)

/-- VFABS (R356). -/
def execVfabs (k : Fin 64) (p : Fin 8) (d a : Fin 32) (s : State) : Host.Outcome State Fault Refusal :=
  .next (valuRun [encR 0x22 p d a 0 0x27] k p d a 0 (fun x _ => fabs x) s)

/-- VFNEG (R356). -/
def execVfneg (k : Fin 64) (p : Fin 8) (d a : Fin 32) (s : State) : Host.Outcome State Fault Refusal :=
  .next (valuRun [encR 0x22 p d a 0 0x28] k p d a 0 (fun x _ => fneg x) s)

/-- VFMAC (R356): accumulates in vD. -/
def execVfmac (k : Fin 64) (p : Fin 8) (d a b : Fin 32) (s : State) : Host.Outcome State Fault Refusal :=
  .next (vaccRun [encR 0x22 p d a b 0x29] k p d a b fmac s)

/-- VFCVTSW (R356). -/
def execVfcvtsw (k : Fin 64) (p : Fin 8) (d a : Fin 32) (s : State) : Host.Outcome State Fault Refusal :=
  .next (valuRun [encR 0x22 p d a 0 0x2a] k p d a 0 (fun x _ => fcvtsw x) s)

/-- VFCVTWS (R356). -/
def execVfcvtws (k : Fin 64) (p : Fin 8) (d a : Fin 32) (s : State) : Host.Outcome State Fault Refusal :=
  .next (valuRun [encR 0x22 p d a 0 0x2b] k p d a 0 (fun x _ => fcvtws x) s)

/-- VFCVTSQ (R356). -/
def execVfcvtsq (k : Fin 64) (p : Fin 8) (d a : Fin 32) (s : State) : Host.Outcome State Fault Refusal :=
  .next (valuRun [encR 0x22 p d a 0 0x2c] k p d a 0 (fun x _ => fcvtsq x) s)

/-- VFCVTQS (R356). -/
def execVfcvtqs (k : Fin 64) (p : Fin 8) (d a : Fin 32) (s : State) : Host.Outcome State Fault Refusal :=
  .next (valuRun [encR 0x22 p d a 0 0x2d] k p d a 0 (fun x _ => fcvtqs x) s)

/-- VFATAN2 (R356). -/
def execVfatan2 (k : Fin 64) (p : Fin 8) (d a b : Fin 32) (s : State) : Host.Outcome State Fault Refusal :=
  .next (valuRun [encR 0x22 p d a b 0x2e] k p d a b fatan2 s)

/-- VFHYPOT (R356). -/
def execVfhypot (k : Fin 64) (p : Fin 8) (d a b : Fin 32) (s : State) : Host.Outcome State Fault Refusal :=
  .next (valuRun [encR 0x22 p d a b 0x2f] k p d a b fhypot s)

/-- VQADD (R356). -/
def execVqadd (k : Fin 64) (p : Fin 8) (d a b : Fin 32) (s : State) : Host.Outcome State Fault Refusal :=
  .next (valuRun [encR 0x22 p d a b 0x30] k p d a b qadd s)

/-- VQSUB (R356). -/
def execVqsub (k : Fin 64) (p : Fin 8) (d a b : Fin 32) (s : State) : Host.Outcome State Fault Refusal :=
  .next (valuRun [encR 0x22 p d a b 0x31] k p d a b qsub s)

/-- VQMUL (R356). -/
def execVqmul (k : Fin 64) (p : Fin 8) (d a b : Fin 32) (s : State) : Host.Outcome State Fault Refusal :=
  .next (valuRun [encR 0x22 p d a b 0x32] k p d a b qmul s)

/-- VQMAC (R356): accumulates in vD. -/
def execVqmac (k : Fin 64) (p : Fin 8) (d a b : Fin 32) (s : State) : Host.Outcome State Fault Refusal :=
  .next (vaccRun [encR 0x22 p d a b 0x33] k p d a b qmac s)

/-- VQABS (R356). -/
def execVqabs (k : Fin 64) (p : Fin 8) (d a : Fin 32) (s : State) : Host.Outcome State Fault Refusal :=
  .next (valuRun [encR 0x22 p d a 0 0x34] k p d a 0 (fun x _ => qabs x) s)

/-- VQNEG (R356). -/
def execVqneg (k : Fin 64) (p : Fin 8) (d a : Fin 32) (s : State) : Host.Outcome State Fault Refusal :=
  .next (valuRun [encR 0x22 p d a 0 0x35] k p d a 0 (fun x _ => qneg x) s)

/-- VQSHL (R356). -/
def execVqshl (k : Fin 64) (p : Fin 8) (d a b : Fin 32) (s : State) : Host.Outcome State Fault Refusal :=
  .next (valuRun [encR 0x22 p d a b 0x36] k p d a b qshl s)

/-- VQSHR (R356). -/
def execVqshr (k : Fin 64) (p : Fin 8) (d a b : Fin 32) (s : State) : Host.Outcome State Fault Refusal :=
  .next (valuRun [encR 0x22 p d a b 0x37] k p d a b qshr s)

/-- VCEQ (R356). -/
def execVceq (k : Fin 64) (p d : Fin 8) (a b : Fin 32) (s : State) : Host.Outcome State Fault Refusal :=
  .next (vcmpRun [encR 0x23 p d a b 0x0] k p d a b cEq s)

/-- VCNE (R356). -/
def execVcne (k : Fin 64) (p d : Fin 8) (a b : Fin 32) (s : State) : Host.Outcome State Fault Refusal :=
  .next (vcmpRun [encR 0x23 p d a b 0x1] k p d a b cNe s)

/-- VCLT (R356). -/
def execVclt (k : Fin 64) (p d : Fin 8) (a b : Fin 32) (s : State) : Host.Outcome State Fault Refusal :=
  .next (vcmpRun [encR 0x23 p d a b 0x2] k p d a b cLt s)

/-- VCGE (R356). -/
def execVcge (k : Fin 64) (p d : Fin 8) (a b : Fin 32) (s : State) : Host.Outcome State Fault Refusal :=
  .next (vcmpRun [encR 0x23 p d a b 0x3] k p d a b cGe s)

/-- VCLTU (R356). -/
def execVcltu (k : Fin 64) (p d : Fin 8) (a b : Fin 32) (s : State) : Host.Outcome State Fault Refusal :=
  .next (vcmpRun [encR 0x23 p d a b 0x4] k p d a b cLtu s)

/-- VCGEU (R356). -/
def execVcgeu (k : Fin 64) (p d : Fin 8) (a b : Fin 32) (s : State) : Host.Outcome State Fault Refusal :=
  .next (vcmpRun [encR 0x23 p d a b 0x5] k p d a b cGeu s)

/-- VCTST (R356). -/
def execVctst (k : Fin 64) (p d : Fin 8) (a b : Fin 32) (s : State) : Host.Outcome State Fault Refusal :=
  .next (vcmpRun [encR 0x23 p d a b 0x6] k p d a b cTst s)

/-- VCTSTN (R356). -/
def execVctstn (k : Fin 64) (p d : Fin 8) (a b : Fin 32) (s : State) : Host.Outcome State Fault Refusal :=
  .next (vcmpRun [encR 0x23 p d a b 0x7] k p d a b cTstn s)

/-- VFEQ (R356). -/
def execVfeq (k : Fin 64) (p d : Fin 8) (a b : Fin 32) (s : State) : Host.Outcome State Fault Refusal :=
  .next (vcmpRun [encR 0x23 p d a b 0x8] k p d a b feq s)

/-- VFLT (R356). -/
def execVflt (k : Fin 64) (p d : Fin 8) (a b : Fin 32) (s : State) : Host.Outcome State Fault Refusal :=
  .next (vcmpRun [encR 0x23 p d a b 0x9] k p d a b flt s)

/-- VFLE (R356). -/
def execVfle (k : Fin 64) (p d : Fin 8) (a b : Fin 32) (s : State) : Host.Outcome State Fault Refusal :=
  .next (vcmpRun [encR 0x23 p d a b 0xa] k p d a b fle s)

/-- VFUN (R356). -/
def execVfun (k : Fin 64) (p d : Fin 8) (a b : Fin 32) (s : State) : Host.Outcome State Fault Refusal :=
  .next (vcmpRun [encR 0x23 p d a b 0xb] k p d a b fun_ s)

/-- VBC (R357): sA in every enabled lane of vD. -/
def execVbc (k : Fin 64) (p : Fin 8) (d a : Fin 32) (s : State) : Host.Outcome State Fault Refusal :=
  .next (coreExec [encR 0x24 p d a 0 0x0] k.val 4 none true p.val (fun c s => .go (setCore s k.val (lanes c (pget c p.val) fun i c' => vset c' d.val i (sget c a.val)))) s)

/-- VEXT (R357): lane n of vA to sD, if its predicate bit is 1. -/
def execVext (k : Fin 64) (p : Fin 8) (d a : Fin 32) (n : Fin 8) (s : State) : Host.Outcome State Fault Refusal :=
  .next (coreExec [encR 0x24 p d a n 0x1] k.val 4 none true p.val (fun c s => .go (if (pget c p.val).getLsbD n.val then scalar k.val s d.val (vget c a.val n.val, 0) else s)) s)

/-- VINS (R357): sA to lane n of vD, if its predicate bit is 1. -/
def execVins (k : Fin 64) (p : Fin 8) (d a : Fin 32) (n : Fin 8) (s : State) : Host.Outcome State Fault Refusal :=
  .next (coreExec [encR 0x24 p d a n 0x2] k.val 4 none true p.val (fun c s => .go (if (pget c p.val).getLsbD n.val then setCore s k.val (vset c d.val n.val (sget c a.val)) else s)) s)

/-- VMOV (R357). -/
def execVmov (k : Fin 64) (p : Fin 8) (d a : Fin 32) (s : State) : Host.Outcome State Fault Refusal :=
  .next (valuRun [encR 0x24 p d a 0 0x3] k p d a 0 (fun x _ => (x, 0)) s)

/-- VSUMI (R357). -/
def execVsumi (k : Fin 64) (p : Fin 8) (d a : Fin 32) (s : State) : Host.Outcome State Fault Refusal :=
  .next (reduceRun [encR 0x24 p d a 0 0x4] k p d a sumI s)

/-- VSUMQ (R357). -/
def execVsumq (k : Fin 64) (p : Fin 8) (d a : Fin 32) (s : State) : Host.Outcome State Fault Refusal :=
  .next (reduceRun [encR 0x24 p d a 0 0x5] k p d a sumQ s)

/-- VSUMF (R357). -/
def execVsumf (k : Fin 64) (p : Fin 8) (d a : Fin 32) (s : State) : Host.Outcome State Fault Refusal :=
  .next (reduceRun [encR 0x24 p d a 0 0x6] k p d a sumF s)

/-- VMAXF (R357). -/
def execVmaxf (k : Fin 64) (p : Fin 8) (d a : Fin 32) (s : State) : Host.Outcome State Fault Refusal :=
  .next (reduceRun [encR 0x24 p d a 0 0x7] k p d a maxF s)

/-- VBCI (R373): an extended instruction of the vector class. -/
def execVbci (k : Fin 64) (p : Fin 8) (d : Fin 32) (imm : Word) (s : State) : Host.Outcome State Fault Refusal :=
  .next (coreExec [encR 0x3F p d 0 0 0x5, imm] k.val 8 none true p.val (fun c s => .go (setCore s k.val (lanes c (pget c p.val) fun i c' => vset c' d.val i imm))) s)

end Sys2Proof.Machine
end

