-- ==== Sys2Proof/Machine/SarbMem.lean ====
section
/-! DEFINITION. Loads and stores (R352-R355, R373), sample, phasor and group loads (R358-R361), timers and edge detectors (R362-R365). -/

namespace Sys2Proof.Machine

/-- The address of an access (R338, R352): base, the register and the sign-extended immediate; beside an instance base the register
is signed as well. A sum below 2³² is taken modulo 2³², one above lies outside what a core addresses (R37). DEDUCED: log 183. -/
def addrOf (base : Word) (c : CoreSt) (a : Fin 32) (imm : Word) : Nat :=
  let r : Int := if base = 0#32 then ((sget c a.val).toNat : Int) else (sget c a.val).toInt
  let n : Int := base.toNat + r + imm.toInt
  if 2 ^ 32 ≤ n then n.toNat else (n % 2 ^ 32).toNat

/-- A plain load of `n` bytes; `ext` widens it (R352). -/
def loadOut (k : Fin 64) (d : Fin 32) (a n : Nat) (ext : Nat → Word) (s : State) : Out :=
  coreAccess s k.val false a n fun s => .go (scalar k.val s d.val (ext (leNat (rdBytes s a n)), 0))

/-- A plain store of `n` bytes (R352). -/
def storeOut (k : Fin 64) (a n v : Nat) (s : State) : Out :=
  coreAccess s k.val true a n fun s => .go (coreStore s a (leBytes n v))

/-- A guarded load, a guarded store (R354). -/
def ldgOut (k : Fin 64) (d : Fin 32) (a : Nat) (s : State) : Out :=
  coreAccess s k.val false a 8 fun s =>
    let g := rd64 s a
    if guardedOk g then .go (scalar k.val s d.val (guardedVal g, 0)) else .exc 1 1 (word a) s
def stgOut (k : Fin 64) (a : Nat) (v : Word) (s : State) : Out := storeOut k a 8 (guarded v).toNat s

def loadRun (ws : List Word) (k : Fin 64) (p : Fin 8) (d a : Fin 32) (imm : BitVec 13) (n : Nat) (ext : Nat → Word) (s : State) : State :=
  coreExec ws k.val 4 none false p.val (fun c s => loadOut k d (addrOf 0#32 c a (imm.signExtend 32)) n ext s) s
def storeRun (ws : List Word) (k : Fin 64) (p : Fin 8) (d a : Fin 32) (imm : BitVec 13) (n : Nat) (s : State) : State :=
  coreExec ws k.val 4 none false p.val (fun c s => storeOut k (addrOf 0#32 c a (imm.signExtend 32)) n (sget c d.val).toNat s) s

/-- Sign extension of a loaded byte or halfword. -/
def sext (w n : Nat) : Word := (BitVec.ofNat w n).signExtend 32

/-- LDW (R352). -/
def execLdw (k : Fin 64) (p : Fin 8) (d a : Fin 32) (imm : BitVec 13) (s : State) : Host.Outcome State Fault Refusal :=
  .next (loadRun [encI 0x10 p d a imm.toNat] k p d a imm 4 word s)

/-- LDH (R352). -/
def execLdh (k : Fin 64) (p : Fin 8) (d a : Fin 32) (imm : BitVec 13) (s : State) : Host.Outcome State Fault Refusal :=
  .next (loadRun [encI 0x11 p d a imm.toNat] k p d a imm 2 (sext 16) s)

/-- LDHU (R352). -/
def execLdhu (k : Fin 64) (p : Fin 8) (d a : Fin 32) (imm : BitVec 13) (s : State) : Host.Outcome State Fault Refusal :=
  .next (loadRun [encI 0x12 p d a imm.toNat] k p d a imm 2 word s)

/-- LDB (R352). -/
def execLdb (k : Fin 64) (p : Fin 8) (d a : Fin 32) (imm : BitVec 13) (s : State) : Host.Outcome State Fault Refusal :=
  .next (loadRun [encI 0x13 p d a imm.toNat] k p d a imm 1 (sext 8) s)

/-- LDBU (R352). -/
def execLdbu (k : Fin 64) (p : Fin 8) (d a : Fin 32) (imm : BitVec 13) (s : State) : Host.Outcome State Fault Refusal :=
  .next (loadRun [encI 0x14 p d a imm.toNat] k p d a imm 1 word s)

/-- LDD (R352). -/
def execLdd (k : Fin 64) (p : Fin 8) (d a : Fin 32) (imm : BitVec 13) (s : State) : Host.Outcome State Fault Refusal :=
  .next (coreExec [encI 0x15 p d a imm.toNat] k.val 4 (pairField d.val) false p.val (fun c s =>
    let a := addrOf 0#32 c a (imm.signExtend 32)
    coreAccess s k.val false a 8 fun s => .go (modCore s k.val fun c => dset c d.val (rd64 s a))) s)

/-- STW (R352). -/
def execStw (k : Fin 64) (p : Fin 8) (d a : Fin 32) (imm : BitVec 13) (s : State) : Host.Outcome State Fault Refusal :=
  .next (storeRun [encI 0x16 p d a imm.toNat] k p d a imm 4 s)

/-- STH (R352). -/
def execSth (k : Fin 64) (p : Fin 8) (d a : Fin 32) (imm : BitVec 13) (s : State) : Host.Outcome State Fault Refusal :=
  .next (storeRun [encI 0x17 p d a imm.toNat] k p d a imm 2 s)

/-- STB (R352). -/
def execStb (k : Fin 64) (p : Fin 8) (d a : Fin 32) (imm : BitVec 13) (s : State) : Host.Outcome State Fault Refusal :=
  .next (storeRun [encI 0x18 p d a imm.toNat] k p d a imm 1 s)

/-- STD (R352). -/
def execStd (k : Fin 64) (p : Fin 8) (d a : Fin 32) (imm : BitVec 13) (s : State) : Host.Outcome State Fault Refusal :=
  .next (coreExec [encI 0x19 p d a imm.toNat] k.val 4 (pairField d.val) false p.val (fun c s =>
    storeOut k (addrOf 0#32 c a (imm.signExtend 32)) 8 (dget c d.val).toNat s) s)

/-- LDG (R354). -/
def execLdg (k : Fin 64) (p : Fin 8) (d a : Fin 32) (imm : BitVec 13) (s : State) : Host.Outcome State Fault Refusal :=
  .next (coreExec [encI 0x1a p d a imm.toNat] k.val 4 none false p.val (fun c s => ldgOut k d (addrOf 0#32 c a (imm.signExtend 32)) s) s)

/-- STG (R354). -/
def execStg (k : Fin 64) (p : Fin 8) (d a : Fin 32) (imm : BitVec 13) (s : State) : Host.Outcome State Fault Refusal :=
  .next (coreExec [encI 0x1b p d a imm.toNat] k.val 4 none false p.val (fun c s => stgOut k (addrOf 0#32 c a (imm.signExtend 32)) (sget c d.val) s) s)

/-- LDWI (R352): relative to IB. -/
def execLdwi (k : Fin 64) (p : Fin 8) (d a : Fin 32) (imm : BitVec 13) (s : State) : Host.Outcome State Fault Refusal :=
  .next (coreExec [encI 0x1c p d a imm.toNat] k.val 4 none false p.val (fun c s => loadOut k d (addrOf c.ib c a (imm.signExtend 32)) 4 word s) s)

/-- STWI (R352): relative to IB. -/
def execStwi (k : Fin 64) (p : Fin 8) (d a : Fin 32) (imm : BitVec 13) (s : State) : Host.Outcome State Fault Refusal :=
  .next (coreExec [encI 0x1d p d a imm.toNat] k.val 4 none false p.val (fun c s => storeOut k (addrOf c.ib c a (imm.signExtend 32)) 4 (sget c d.val).toNat s) s)

/-- LDGI (R354): relative to IB. -/
def execLdgi (k : Fin 64) (p : Fin 8) (d a : Fin 32) (imm : BitVec 13) (s : State) : Host.Outcome State Fault Refusal :=
  .next (coreExec [encI 0x1e p d a imm.toNat] k.val 4 none false p.val (fun c s => ldgOut k d (addrOf c.ib c a (imm.signExtend 32)) s) s)

/-- STGI (R354): relative to IB. -/
def execStgi (k : Fin 64) (p : Fin 8) (d a : Fin 32) (imm : BitVec 13) (s : State) : Host.Outcome State Fault Refusal :=
  .next (coreExec [encI 0x1f p d a imm.toNat] k.val 4 none false p.val (fun c s => stgOut k (addrOf c.ib c a (imm.signExtend 32)) (sget c d.val) s) s)

/-- LDWX (R373). -/
def execLdwx (k : Fin 64) (p : Fin 8) (d a : Fin 32) (imm : Word) (s : State) : Host.Outcome State Fault Refusal :=
  .next (coreExec [encR 0x3F p d a 0 0x3, imm] k.val 8 none false p.val (fun c s => loadOut k d (addrOf 0#32 c a imm) 4 word s) s)

/-- STWX (R373). -/
def execStwx (k : Fin 64) (p : Fin 8) (d a : Fin 32) (imm : Word) (s : State) : Host.Outcome State Fault Refusal :=
  .next (coreExec [encR 0x3F p d a 0 0x4, imm] k.val 8 none false p.val (fun c s => storeOut k (addrOf 0#32 c a imm) 4 (sget c d.val).toNat s) s)

/-- The words of the enabled lanes stored; the others' bytes keep their values (R355). -/
def vstBytes (s : State) (c : CoreSt) (d a : Nat) (m : Byte) : State :=
  (List.range 8).foldl (fun s i => if m.getLsbD i then coreStore s (a + 4 * i) (leBytes 4 (vget c d i).toNat) else s) s

/-- VLD (R355). -/
def execVld (k : Fin 64) (p : Fin 8) (d a : Fin 32) (imm : BitVec 13) (s : State) : Host.Outcome State Fault Refusal :=
  .next (coreExec [encI 0x20 p d a imm.toNat] k.val 4 none true p.val (fun c s =>
    let x := addrOf 0#32 c a (imm.signExtend 32)
    let m := pget c p.val
    if m = 0#8 then .go s
    else coreAccess s k.val false x 32 fun s =>
      .go (setCore s k.val (lanes c m fun i c' => vset c' d.val i (rd32 s (x + 4 * i))))) s)

/-- VST (R355). -/
def execVst (k : Fin 64) (p : Fin 8) (d a : Fin 32) (imm : BitVec 13) (s : State) : Host.Outcome State Fault Refusal :=
  .next (coreExec [encI 0x21 p d a imm.toNat] k.val 4 none true p.val (fun c s =>
    let x := addrOf 0#32 c a (imm.signExtend 32)
    let m := pget c p.val
    if m = 0#8 then .go s else coreAccess s k.val true x 32 fun s => .go (vstBytes s c d.val x m)) s)

/-- The depth D of the sample store a run sees (R290, R358). -/
def smpDepth (c : CoreSt) : Nat := 16 * 2 ^ fld c.smpBase 1 0
/-- The addresses of R360. -/
def smpAddr (c : CoreSt) (slot t : Nat) : Nat := fld c.smpBase 31 16 * 65536 + slot * 8 * smpDepth c + t % smpDepth c * 8
def phAddr (c : CoreSt) (slot t : Nat) : Nat := fld c.phBase 31 16 * 65536 + slot * 256 + t % 4 * 64
def agAddr (c : CoreSt) (g t : Nat) : Nat := fld c.agBase 31 16 * 65536 + g * 256 + t % 4 * 64

/-- A pair sD, sD+1 written. -/
def pairWords (k : Fin 64) (s : State) (d : Fin 32) (v q : Word) : Out :=
  .go (modCore s k.val fun c => sset (sset c d.val v) (d.val + 1) q)

/-- A sample load of release tick `t` (R360). -/
def smpLoad (k : Fin 64) (d : Fin 32) (c : CoreSt) (slot t : Nat) (s : State) : Out :=
  if 8191 < slot then .exc 3 1 0#32 s
  else
    let a := smpAddr c slot t
    coreAccess s k.val false a 8 fun s => pairWords k s d (rd32 s a) (rd32 s (a + 4))

/-- A record in vD and vD+1, the T check in pt (R359, R360); `z` for zeros. -/
def recOut (k : Fin 64) (p : Fin 8) (d : Fin 32) (pt : Fin 8) (c : CoreSt) (ws : List Word) (ok : Bool) (s : State) : Out :=
  let m := pget c p.val
  let c' := lanes c m fun i c' => vset (vset c' d.val i ((ws[i]?).getD 0#32)) (d.val + 1) i ((ws[i + 8]?).getD 0#32)
  .go (setCore s k.val (pset c' pt.val m (condByte ok)))

/-- A record load (R360): `rel` and `age` of a relative form, the limit of the index, the record's address. -/
def recLoad (k : Fin 64) (p : Fin 8) (d : Fin 32) (pt : Fin 8) (c : CoreSt) (zero : Bool) (ix lim : Nat) (t : Word) (addr : Nat) (s : State) : Out :=
  if pget c p.val = 0#8 then .go s
  else if zero then recOut k p d pt c [] false s
  else if lim < ix then .exc 3 1 0#32 s
  else coreAccess s k.val false addr 64 fun s =>
    recOut k p d pt c ((List.range 16).map fun i => rd32 s (addr + 4 * i)) (rd32 s (addr + 4) == t) s

/-- A vector pair field names an even register (R359). -/
def vpair (d : Fin 32) : Option Nat := if d.val % 2 = 1 then some 2 else none

/-- The relative forms answer zeros (R360). -/
def relZero (c : CoreSt) (age lim : Nat) : Bool := c.relT == 0xFFFFFFFF#32 || decide (lim ≤ age)

/-- LDSMP (R359, R360). -/
def execLdsmp (k : Fin 64) (p : Fin 8) (d a : Fin 32) (age : Fin 64) (s : State) : Host.Outcome State Fault Refusal :=
  .next (coreExec [encI 0x28 p d a age] k.val 4 (pairField d.val) false p.val (fun c s =>
    if relZero c age.val (smpDepth c) then pairWords k s d 0#32 0#32
    else smpLoad k d c (sget c a.val).toNat (c.relT - word age.val).toNat s) s)

/-- LDSMPA (R359, R360): the release tick in sB. -/
def execLdsmpa (k : Fin 64) (p : Fin 8) (d a b : Fin 32) (s : State) : Host.Outcome State Fault Refusal :=
  .next (coreExec [encR 0x25 p d a b 0x0] k.val 4 (pairField d.val) false p.val (fun c s => smpLoad k d c (sget c a.val).toNat (sget c b.val).toNat s) s)

/-- The lanes of VLDSMP: each enabled lane's entry in one access (R359, R361). -/
def vldsmpLanes (k : Fin 64) (d : Fin 32) (c : CoreSt) (m : Byte) (slot t : Nat) : List Nat → CoreSt → State → Out
  | [], c', s => .go (setCore s k.val c')
  | i :: l, c', s =>
    if m.getLsbD i then
      let a := smpAddr c (slot + i) t
      coreAccess s k.val false a 8 fun s =>
        vldsmpLanes k d c m slot t l (vset (vset c' d.val i (rd32 s a)) (d.val + 1) i (rd32 s (a + 4))) s
    else vldsmpLanes k d c m slot t l c' s

/-- VLDSMP (R359, R360). -/
def execVldsmp (k : Fin 64) (p : Fin 8) (d a : Fin 32) (age : Fin 64) (s : State) : Host.Outcome State Fault Refusal :=
  .next (coreExec [encI 0x2B p d a age] k.val 4 (vpair d) true p.val (fun c s =>
    let m := pget c p.val
    if m = 0#8 then .go s
    else if relZero c age.val (smpDepth c) then
      .go (setCore s k.val (lanes c m fun i c' => vset (vset c' d.val i 0#32) (d.val + 1) i 0#32))
    else if 8184 < (sget c a.val).toNat then .exc 3 1 0#32 s
    else vldsmpLanes k d c m (sget c a.val).toNat (c.relT - word age.val).toNat (List.range 8) c s) s)

/-- LDPH (R359, R360). -/
def execLdph (k : Fin 64) (p : Fin 8) (d a : Fin 32) (pt : Fin 8) (age : Fin 64) (s : State) : Host.Outcome State Fault Refusal :=
  .next (coreExec [encI 0x29 p d a (pt * 0x400 + age)] k.val 4 (vpair d) true p.val (fun c s =>
    let t := c.relT - word age.val
    recLoad k p d pt c (relZero c age.val 4) (sget c a.val).toNat 8191 t (phAddr c (sget c a.val).toNat t.toNat) s) s)

/-- LDPHA (R359, R360): the release tick in sB. -/
def execLdpha (k : Fin 64) (p : Fin 8) (d a b : Fin 32) (pt : Fin 8) (s : State) : Host.Outcome State Fault Refusal :=
  .next (coreExec [encR 0x26 p d a b pt] k.val 4 (vpair d) true p.val (fun c s =>
    let t := sget c b.val
    recLoad k p d pt c false (sget c a.val).toNat 8191 t (phAddr c (sget c a.val).toNat t.toNat) s) s)

/-- LDGR (R359, R360). -/
def execLdgr (k : Fin 64) (p : Fin 8) (d a : Fin 32) (pt : Fin 8) (age : Fin 64) (s : State) : Host.Outcome State Fault Refusal :=
  .next (coreExec [encI 0x2A p d a (pt * 0x400 + age)] k.val 4 (vpair d) true p.val (fun c s =>
    let t := c.relT - word age.val
    recLoad k p d pt c (relZero c age.val 4) (sget c a.val).toNat 255 t (agAddr c (sget c a.val).toNat t.toNat) s) s)

/-- LDGRA (R359, R360): the release tick in sB. -/
def execLdgra (k : Fin 64) (p : Fin 8) (d a b : Fin 32) (pt : Fin 8) (s : State) : Host.Outcome State Fault Refusal :=
  .next (coreExec [encR 0x27 p d a b pt] k.val 4 (vpair d) true p.val (fun c s =>
    let t := sget c b.val
    recLoad k p d pt c false (sget c a.val).toNat 255 t (agAddr c (sget c a.val).toNat t.toNat) s) s)

/-- A timer record without its identity (R362). -/
structure Timer where
  init : Bool
  prev : Bool
  q : Bool
  run : Bool
  elapsed : Nat
  last : Word
  deriving DecidableEq, Repr

/-- The mode of a TMR (R363). -/
inductive TmrMode where
  | ton | tof | tp
  deriving DecidableEq, Repr

/-- The steps of R363 before the mode's own: a fresh record is primed, the elapsed time advances. -/
def tmrAdvance (r : Timer) (inp : Bool) (rt : Word) : Timer :=
  let r := if r.init then r else { init := true, prev := inp, q := false, run := false, elapsed := 0, last := rt }
  let dt := (rt - r.last).toNat
  let dt := if 2 ^ 31 ≤ dt then 0 else dt
  { r with last := rt, elapsed := if r.run then min (r.elapsed + dt) (2 ^ 32 - 1) else r.elapsed }

/-- The steps of a mode (R363). -/
def tmrMode (m : TmrMode) (r : Timer) (inp : Bool) (pt fs : Nat) : Timer :=
  let due := decide (pt * fs ≤ r.elapsed * 1000000)
  match m with
  | .ton =>
    if !inp then { r with run := false, elapsed := 0, q := false }
    else if !r.run then { r with run := true, elapsed := 0, q := pt == 0 }
    else { r with q := due }
  | .tof =>
    if inp then { r with run := false, elapsed := 0, q := true }
    else if r.q && !r.run then { r with run := true, elapsed := 0, q := pt != 0 }
    else if r.q && due then { r with run := false, q := false }
    else r
  | .tp =>
    if !r.run && inp && !r.prev then { r with run := true, elapsed := 0, q := pt != 0 }
    else if r.run && due then { r with run := false, q := false }
    else r

/-- TMR on a record (R363). -/
def tmrStep (m : TmrMode) (r : Timer) (inp : Bool) (pt : Nat) (rt : Word) (fs : Nat) : Timer :=
  { tmrMode m (tmrAdvance r inp rt) inp pt fs with prev := inp }

/-- The record at an address (R362). -/
def rdTimer (s : State) (a : Nat) : Timer :=
  let w := rd32 s (a + 4)
  { init := bit w 3, prev := bit w 2, q := bit w 1, run := bit w 0, elapsed := (rd32 s (a + 8)).toNat, last := rd32 s (a + 12) }

/-- The bytes of TSTATE, ELAPSED and LAST. -/
def timerBytes (r : Timer) : List Byte :=
  leBytes 4 (b2n r.init 3 + b2n r.prev 2 + b2n r.q 1 + b2n r.run 0) ++ leBytes 4 r.elapsed ++ leBytes 4 r.last.toNat

/-- The access of a state record of `n` bytes (R353, R362): in the core's own data bank, readable and writable. -/
def recordAccess (s : State) (k a n : Nat) (ok : State → Out) : Out :=
  if a < dataBase k ∨ coreBase (k + 1) < a + n then .exc 3 1 (word a) s
  else
    let both := fun (s : State) (a : Nat) (ok : State → Out) => coreAccess s k false a 8 fun s => coreAccess s k true a 8 ok
    both s a fun s => if n = 16 then both s (a + 8) ok else ok s

/-- TMR (R363). -/
def tmrRun (ws : List Word) (k : Fin 64) (p : Fin 8) (d a b : Fin 32) (ofs : Fin 64) (m : TmrMode) (s : State) : State :=
  coreExec ws k.val 4 none false p.val (fun c s =>
    let r := c.ib.toNat + 8 * ofs.val
    recordAccess s k.val r 16 fun s =>
      let t := tmrStep m (rdTimer s r) (sget c a.val != 0#32) (sget c b.val).toNat c.rt (fsOf s)
      .go (scalar k.val (coreStore s (r + 4) (timerBytes t)) d.val (word (b2n t.q 0), 0))) s

/-- EDGE (R365): `f` gives the result from the input and PREV. -/
def edgeRun (ws : List Word) (k : Fin 64) (p : Fin 8) (d a : Fin 32) (ofs : Fin 64) (f : Bool → Bool → Bool) (s : State) : State :=
  coreExec ws k.val 4 none false p.val (fun c s =>
    let r := c.ib.toNat + 8 * ofs.val
    recordAccess s k.val r 8 fun s =>
      let inp := sget c a.val != 0#32
      let st := rd32 s (r + 4)
      let out := bit st 1 && f inp (bit st 0)
      .go (scalar k.val (coreStore s (r + 4) (leBytes 4 (2 + b2n inp 0))) d.val (word (b2n out 0), 0))) s

/-- TMR in mode TON (R363). -/
def execTmrTon (k : Fin 64) (p : Fin 8) (d a b : Fin 32) (ofs : Fin 64) (s : State) : Host.Outcome State Fault Refusal :=
  .next (tmrRun [encR 0x2C p d a b (0x0 + ofs)] k p d a b ofs .ton s)

/-- TMR in mode TOF (R363). -/
def execTmrTof (k : Fin 64) (p : Fin 8) (d a b : Fin 32) (ofs : Fin 64) (s : State) : Host.Outcome State Fault Refusal :=
  .next (tmrRun [encR 0x2C p d a b (0x40 + ofs)] k p d a b ofs .tof s)

/-- TMR in mode TP (R363). -/
def execTmrTp (k : Fin 64) (p : Fin 8) (d a b : Fin 32) (ofs : Fin 64) (s : State) : Host.Outcome State Fault Refusal :=
  .next (tmrRun [encR 0x2C p d a b (0x80 + ofs)] k p d a b ofs .tp s)

/-- EDGE in rising mode (R365). -/
def execEdgeRising (k : Fin 64) (p : Fin 8) (d a : Fin 32) (ofs : Fin 64) (s : State) : Host.Outcome State Fault Refusal :=
  .next (edgeRun [encR 0x2D p d a 0 (0x0 + ofs)] k p d a ofs (fun i v => i && !v) s)

/-- EDGE in falling mode (R365). -/
def execEdgeFalling (k : Fin 64) (p : Fin 8) (d a : Fin 32) (ofs : Fin 64) (s : State) : Host.Outcome State Fault Refusal :=
  .next (edgeRun [encR 0x2D p d a 0 (0x40 + ofs)] k p d a ofs (fun i v => v && !i) s)

/-- EDGE in either mode (R365). -/
def execEdgeEither (k : Fin 64) (p : Fin 8) (d a : Fin 32) (ofs : Fin 64) (s : State) : Host.Outcome State Fault Refusal :=
  .next (edgeRun [encR 0x2D p d a 0 (0x80 + ofs)] k p d a ofs (fun i v => i != v) s)


end Sys2Proof.Machine
end

