-- ==== Sys2Proof/Machine/SarbCtl.lean ====
section
/-! DEFINITION. Operate-flag stores (R366), control flow and function units (R320-R323, R368, R369), special registers and task control (R370-R372). -/

namespace Sys2Proof.Machine

/-- OPF (R366): the flag word goes to the TMX, whose refusal comes back to the core (R326). -/
def execOpf (k : Fin 64) (p : Fin 8) (d a : Fin 32) (imm : BitVec 12) (s : State) : Host.Outcome State Fault Refusal :=
  .next (coreExec [encI 0x2E p d a imm.toNat] k.val 4 none false p.val (fun c s =>
    let f := (sget c a.val).toNat + imm.toNat
    if 4095 < f then .exc 3 1 0#32 s
    else
      let r := flagWord s (guarded (word (b2n (sget c d.val != 0#32) 31 + f))) c.pid (.core k.val)
      .go (if r.2 then r.1 else modCore r.1 k.val fun c => { c with refused := c.refused ++ [c.pc] })) s)

/-- A jump to byte offset `t` of the active code bank (R304, R368). -/
def jumpTo (k : Fin 64) (t : Int) (s : State) : Out :=
  if t < 0 ∨ 0x10000 ≤ t then .exc 3 2 0#32 s else .jump (modCore s k.val fun c => { c with pc := t.toNat })

/-- BR (R368): P, inverted when N = 1, is the condition. -/
def execBr (k : Fin 64) (p : Fin 8) (n : Bool) (ofs : BitVec 22) (s : State) : Host.Outcome State Fault Refusal :=
  .next (coreExec [encP 0x30 p (n.toNat * 0x400000 + ofs.toNat)] k.val 4 none true p.val (fun c s =>
    if (pget c p.val).getLsbD 0 != n then jumpTo k (c.pc + 4 * ofs.toInt) s else .go s) s)

/-- JR (R368): a word offset in the active code bank. -/
def execJr (k : Fin 64) (p : Fin 8) (a : Fin 32) (s : State) : Host.Outcome State Fault Refusal :=
  .next (coreExec [encR 0x31 p 0 a 0 0x0] k.val 4 none false p.val (fun c s => jumpTo k (4 * (sget c a.val).toNat) s) s)

/-- A frame as it is spilled (R322). -/
def frameWord (k : Nat) (f : Frame) : DWord :=
  BitVec.ofNat 64 (f.desc * 2 ^ 48 + (f.ib.toNat - dataBase k) % 2 ^ 17 * 2 ^ 16 + f.pc / 4 % 2 ^ 14)

/-- A spilled frame read back. -/
def wordFrame (k : Nat) (w : DWord) : Frame :=
  { pc := w.toNat % 2 ^ 14 * 4, ib := word (dataBase k + w.toNat / 2 ^ 16 % 2 ^ 17), desc := w.toNat / 2 ^ 48 }

/-- CORE_DEPTH keeps the peaks (R336). -/
def depthPeak (s : State) (k : Nat) : State :=
  let c := coreOf s k
  let w := liveOf s (R.coreDepth k)
  setLive s (R.coreDepth k) (word (max (fld w 31 16) (min 0xFFFF (c.frames.length + c.spilled)) * 65536 + max (fld w 15 0) (min 0xFFFF c.spilled)))

/-- A frame is pushed (R322); the oldest of 16 in hardware goes to the spill area, whose end is an access violation. -/
def pushFrame (k : Fin 64) (f : Frame) (ok : State → Out) (s : State) : Out :=
  let c := coreOf s k.val
  if c.frames.length < 16 then ok (setCore s k.val { c with frames := f :: c.frames })
  else if c.spillEnd < c.spillPtr + 8 then .exc 3 5 0#32 s
  else coreAccess s k.val true c.spillPtr 8 fun s =>
    let s := wr64 s c.spillPtr (frameWord k.val ((c.frames.getLast?).getD f))
    ok (setCore s k.val { c with frames := f :: c.frames.dropLast, spilled := c.spilled + 1, spillPtr := c.spillPtr + 8 })

/-- The reads of `as`, 8 bytes each, one after the other (R353, R36). -/
def readAll (s : State) (k : Nat) (as : List Nat) (ok : State → Out) : Out :=
  match as with
  | [] => ok s
  | a :: t => coreAccess s k false a 8 fun s => readAll s k t ok

/-- FCALL of child `i` (R320), its checks in order; what it reads is read under R353, and an ENTRY outside the active code bank is
none it calls (R304). -/
def callChild (k : Fin 64) (i : Nat) (c : CoreSt) (s : State) : Out :=
  let cb := codeBase k.val c.bank
  let d0 := cb + c.desc
  readAll s k.val [d0, d0 + 8] fun s =>
  if (rdByte s (d0 + 8)).toNat ≤ i then .exc 4 0x10 0#32 s
  else
    let e := cb + rd16 s (d0 + 0xA) + 8 * i
    readAll s k.val [e] fun s =>
    let d := rd16 s e
    let cofs := (rd32 s (e + 4)).toNat
    let dd := cb + d
    if d % 16 ≠ 0 then .exc 4 0x11 0#32 s
    else readAll s k.val [dd, dd + 8] fun s =>
    if leNat (rdBytes s (dd + 0xD) 3) ≠ 0 then .exc 4 0x11 0#32 s
    else if cofs < 16 ∨ rd16 s (d0 + 6) < cofs + rd16 s (dd + 6) then .exc 4 0x12 0#32 s
    else
      let ib1 := c.ib.toNat + cofs
      if ib1 < dataBase k.val ∨ coreBase (k.val + 1) ≤ ib1 then .exc 4 0x14 0#32 s
      else coreAccess s k.val false (ib1 + 4) 4 fun s =>
      if rd32 s (ib1 + 4) ≠ rd32 s dd then .exc 4 0x13 0#32 s
      else if 16384 ≤ rd16 s (dd + 4) then .exc 3 2 0#32 s
      else pushFrame k { pc := c.pc + 4, ib := c.ib, desc := c.desc } (fun s =>
        .jump (depthPeak (modCore s k.val fun c => { c with ib := word ib1, desc := d, pc := rd16 s (dd + 4) * 4 }) k.val)) s

/-- FCALL (R320, R369). -/
def execFcall (k : Fin 64) (p : Fin 8) (a : Fin 32) (imm : Byte) (s : State) : Host.Outcome State Fault Refusal :=
  .next (coreExec [encI 0x32 p 0 a imm.toNat] k.val 4 none false p.val (fun c s => callChild k ((sget c a.val).toNat + imm.toNat) c s) s)

/-- The header halfword that holds COLD of the current instance (R319). -/
def coldAddr (c : CoreSt) : Nat := c.ib.toNat + 0xA

/-- The accesses of a return to COLD are admitted (R320, R353): it is read, and written where it is 1. -/
def coldAccess (s : State) (k : Nat) (c : CoreSt) (ok : State → Out) : Out :=
  coreAccess s k false (coldAddr c) 2 fun s =>
    if bit (word (rd16 s (coldAddr c))) 0 then coreAccess s k true (coldAddr c) 2 ok else ok s

/-- COLD of the current instance is cleared by a completed return (R320). -/
def clearCold (s : State) (k : Nat) : State :=
  let a := coldAddr (coreOf s k)
  if bit (word (rd16 s a)) 0 then coreStore s a (leBytes 2 (rd16 s a - 1)) else s

/-- The places of the spilled frames that a refill reads, newest frame first. -/
def refillAddrs (c : CoreSt) : List Nat := (List.range (min 16 c.spilled)).map fun i => c.spillPtr - 8 * (i + 1)

/-- An empty hardware stack is refilled from the spill area, newest frame first (R322). -/
def refill (s : State) (k : Nat) : State :=
  let c := coreOf s k
  if c.frames.isEmpty then
    let n := min 16 c.spilled
    setCore s k { c with
      frames := (List.range n).map fun i => wordFrame k (rd64 s (c.spillPtr - 8 * (i + 1)))
      spilled := c.spilled - n, spillPtr := c.spillPtr - 8 * n }
  else s

/-- The return of R320: at depth 0 the run ends. A return address outside the active code bank, and an access of the return that is
refused, is an exception, and nothing has changed (R304, R326). -/
def fret (k : Nat) (s : State) : Out :=
  let c := coreOf s k
  coldAccess s k c fun s =>
    match c.frames with
    | [] => .jump (retire (clearCold s k) k)
    | f :: t =>
      if 0x10000 ≤ f.pc then .exc 3 2 0#32 s
      else readAll s k (if t.isEmpty then refillAddrs c else []) fun s =>
        .jump (refill (setCore (clearCold s k) k { c with pc := f.pc, ib := f.ib, desc := f.desc, frames := t }) k)

/-- FRET (R320, R369). -/
def execFret (k : Fin 64) (p : Fin 8) (s : State) : Host.Outcome State Fault Refusal :=
  .next (coreExec [encP 0x33 p 0] k.val 4 none false p.val (fun _ s => fret k.val s) s)

/-- A special register (R310). -/
def specialReg (s : State) (k : Nat) (c : CoreSt) : Nat → Word
  | 0x0 => word k
  | 0x1 => word (k / 8)
  | 0x2 => word c.pid
  | 0x3 => word c.task
  | 0x4 => word s.time.tick
  | 0x5 => word (s.time.tickSec % 65536)
  | 0x6 => c.relG
  | 0x7 => c.relN
  | 0x8 => c.relT
  | 0x9 => word (s.now - c.began)
  | 0xA => word (c.deadline - s.now)
  | 0xB => c.fpstat
  | 0xC => c.ib
  | 0xD => word c.desc
  | 0xE => word (min 0xFFFF c.spilled * 65536 + (c.frames.length + c.spilled) % 65536)
  | _ => word c.startCode

/-- RDSR (R310, R370). -/
def execRdsr (k : Fin 64) (p : Fin 8) (d : Fin 32) (n : Fin 16) (s : State) : Host.Outcome State Fault Refusal :=
  .next (coreExec [encI 0x34 p d 0 n] k.val 4 none false p.val (fun c s => .go (scalar k.val s d.val (specialReg s k.val c n.val, 0))) s)

/-- WRSR (R370): FPSTAT is the only writable register. -/
def execWrsr (k : Fin 64) (p : Fin 8) (a : Fin 32) (n : Fin 16) (s : State) : Host.Outcome State Fault Refusal :=
  .next (coreExec [encI 0x35 p 0 a n] k.val 4 (if n.val = 0xB then none else some 3) false p.val
    (fun c s => .go (modCore s k.val fun c' => { c' with fpstat := sget c a.val })) s)

/-- TEND (R371): the run ends at any depth. -/
def execTend (k : Fin 64) (p : Fin 8) (s : State) : Host.Outcome State Fault Refusal :=
  .next (coreExec [encR 0x36 p 0 0 0 0x0] k.val 4 none false p.val (fun _ s => .jump (retire s k.val)) s)

/-- FENCE (R371): in this model every earlier store is already visible. -/
def execFence (k : Fin 64) (p : Fin 8) (s : State) : Host.Outcome State Fault Refusal :=
  .next (coreExec [encR 0x36 p 0 0 0 0x1] k.val 4 none false p.val (fun _ s => .go s) s)

/-- EVSIG (R371, R379): software event e of the run's partition. -/
def execEvsig (k : Fin 64) (p : Fin 8) (e : Fin 16) (s : State) : Host.Outcome State Fault Refusal :=
  .next (coreExec [encR 0x36 p 0 0 e 0x2] k.val 4 none false p.val (fun c s => .go (fireEvent s 0 e.val none (some c.pid))) s)

/-- NPOST (R372): a CODE of 0xF0 to 0xFF is undefined. -/
def execNpost (k : Fin 64) (p : Fin 8) (a : Fin 32) (cls : Fin 4) (code : Byte) (s : State) : Host.Outcome State Fault Refusal :=
  .next (coreExec [encI 0x37 p 0 a (cls * 0x800 + code.toNat)] k.val 4 (if 0xF0 ≤ code.toNat then some 1 else none) false p.val
    (fun c s => .go (hnqPost s c.pid cls.val 0x0C code.toNat (sget c a.val).toNat)) s)

/-- A field of an instruction word. -/
def encP (w : Word) (hi lo : Nat) : Bool := fld w hi lo != 0

/-- The subcause of an undefined word, a reserved field, a read-only special register, a pair field that names s0 (R340), or
nothing for a word that is an instruction (R337-R373). -/
def illegalWord (w : Word) : Option Nat :=
  let opc := fld w 31 26
  let D := fld w 22 18
  let A := fld w 17 13
  let B := fld w 12 8
  let fn := fld w 7 0
  let und := fun (b : Bool) (r : Option Nat) => if b then some 1 else r
  let res := fun (b : Bool) (r : Option Nat) => if b then some 2 else r
  if opc = 0x01 then und (0x16 < fn) (res (0x15 ≤ fn && B != 0) none)
  else if 0x02 ≤ opc ∧ opc ≤ 0x05 then none
  else if opc = 0x06 then und (fld w 6 5 == 3) (res (encP w 12 7) none)
  else if opc = 0x07 then und (4 < fn) (if fn = 2 ∨ fn = 3 then pairField D else pairFields [D, A, B])
  else if opc = 0x08 then und (0xF < fn) (res ([4, 7, 8, 0xA, 0xB, 0xC, 0xD].contains fn && B != 0) none)
  else if opc = 0x09 then und (7 < fn) (res ((fn == 4 || fn == 5) && B != 0) none)
  else if opc = 0x0A then und (0xB < fn) (res (8 ≤ D) none)
  else if opc = 0x0B then und (4 < fn) (res (8 ≤ D || 8 ≤ A || (if fn = 4 then B != 0 else 8 ≤ B)) none)
  else if opc = 0x0C then und (2 < fn) (res (B != 0 || (if fn = 0 then 8 ≤ A else 8 ≤ D)) none)
  else if opc = 0x15 ∨ opc = 0x19 then pairField D
  else if 0x10 ≤ opc ∧ opc ≤ 0x21 then none
  else if opc = 0x22 then
    und (!(fn ≤ 0x10 || (0x20 ≤ fn && fn ≤ 0x37)))
      (res ([0x24, 0x27, 0x28, 0x2A, 0x2B, 0x2C, 0x2D, 0x34, 0x35].contains fn && B != 0) none)
  else if opc = 0x23 then und (0xB < fn) (res (8 ≤ D) none)
  else if opc = 0x24 then
    und (7 < fn) (res (((fn == 0 || fn == 3) && B != 0) || ((fn == 1 || fn == 2) && 8 ≤ B)) none)
  else if opc = 0x25 then res (fn != 0) (pairField D)
  else if opc = 0x26 ∨ opc = 0x27 then res (D % 2 == 1 || encP w 7 3) none
  else if opc = 0x28 then res (encP w 12 6) (pairField D)
  else if opc = 0x29 ∨ opc = 0x2A then res (D % 2 == 1 || encP w 9 6) none
  else if opc = 0x2B then res (D % 2 == 1 || encP w 12 6) none
  else if opc = 0x2C then und (fld w 7 6 == 3) none
  else if opc = 0x2D then und (fld w 7 6 == 3) (res (B != 0) none)
  else if opc = 0x2E then res (encP w 12 12) none
  else if opc = 0x30 then none
  else if opc = 0x31 then res (D != 0 || B != 0 || fn != 0) none
  else if opc = 0x32 then res (D != 0 || encP w 12 8) none
  else if opc = 0x33 then res (encP w 22 0) none
  else if opc = 0x34 then res (A != 0 || encP w 12 4) none
  else if opc = 0x35 then res (D != 0 || encP w 12 4) (if fld w 3 0 = 0xB then none else some 3)
  else if opc = 0x36 then und (2 < fn) (res (D != 0 || A != 0 || (if fn = 2 then 16 ≤ B else B != 0)) none)
  else if opc = 0x37 then und (0xF0 ≤ fn) (res (D != 0 || encP w 10 8) none)
  else if opc = 0x3F then
    und (fn == 0 || 5 < fn) (res (B != 0 || ((fn == 1 || fn == 5) && A != 0)) none)
  else some 1

/-- UNDEFINED_ENCODING (R340): a word that is no instruction raises, whatever the predicate; a word that is one is no such
event. -/
def execUndefinedEncoding (k : Fin 64) (w : Word) (s : State) : Host.Outcome State Fault Refusal :=
  .next (match illegalWord w with
    | some sub => coreExec [w] k.val 4 (some sub) false 0 (fun _ s => .go s) s
    | none => s)

end Sys2Proof.Machine
end

