-- ==== Sys2Proof/Machine/Tsk.lean ====
section
/-! DEFINITION. Programs in the TSK: the image (R388-R392), LOAD to INSTALL (R393, R394), restart (R383, R384), the plinth
(R385-R387), the switch (R395-R399), forces (R400-R407), cyclic activations (R378). -/

namespace Sys2Proof.Machine

/-! ### The program image (R388-R392) -/

/-- The tag of the TSK's DMA for a partition (R140). -/
def tskTag (s : State) (p : Nat) : Tag := dmaTag s 0x0D (some p)

/-- `n` bytes of an image as a number: 0 where the read is refused (R155, R392). -/
def imgNat (s : State) (p a n : Nat) : Nat := if (rangeDenied s (tskTag s p) .read a n).isSome then 0 else leNat (rdBytes s a n)

/-- ACT of a kind is well formed (R378, R379). -/
def actOk (kind : Nat) (w : Word) (fs : Nat) : Bool :=
  match kind with
  | 0 => decide (1 ≤ fld w 31 16) && decide (fld w 31 16 ≤ 48000) && decide (fld w 15 0 < fld w 31 16)
  | 1 =>
    w &&& 0xFF00C0C0#32 == 0#32 && fs % (fld w 13 8 + 1) == 0 && decide (fld w 5 0 < fld w 13 8 + 1)
  | 2 =>
    w &&& 0x03FFF000#32 == 0#32 &&
      (match fld w 31 28 with
        | 0 => fld w 27 26 == 0 && decide (fld w 11 0 < 16)
        | 1 => fld w 27 26 != 3
        | 2 => fld w 27 26 != 3 && decide (fld w 11 0 < 16)
        | 3 => fld w 27 26 == 0 && decide (fld w 11 0 < 512)
        | _ => false)
  | _ => false

/-- The segment entry at an address (R389); `rd` reads the image. -/
def rdSeg (rd : Nat → Nat → Nat) (a : Nat) : Segment :=
  { core := rd a 1, codeOfs := rd (a + 4) 4, codeLen := rd (a + 8) 4
    dataOfs := rd (a + 0xC) 4, dataLen := rd (a + 0x10) 4, dataBase := rd (a + 0x14) 4
    retOfs := rd (a + 0x18) 4, retLen := rd (a + 0x1C) 4 }

/-- A segment's fields are in range (R389, R392). -/
def segOk (plen : Nat) (g : Segment) : Bool :=
  decide (g.core < 64) && g.codeLen % 64 == 0 && decide (g.codeLen ≤ 0x10000) && decide (g.codeOfs + g.codeLen ≤ plen) &&
    g.dataLen % 64 == 0 && decide (g.dataOfs + g.dataLen ≤ plen) && g.dataBase % 64 == 0 &&
    decide (g.dataBase + g.dataLen ≤ 0x20000) && g.retOfs % 64 == 0 && g.retLen % 64 == 0 &&
    decide (g.retOfs + g.retLen ≤ g.dataLen)

/-- The task entry at an address (R390): its number and definition. -/
def rdTask (rd : Nat → Nat → Nat) (a : Nat) : Nat × TaskDef :=
  let b := word (rd (a + 3) 1)
  (rd a 2, { kind := fld b 7 6, prio := fld b 5 2, core := rd (a + 2) 1, act := word (rd (a + 4) 4), dl := rd (a + 8) 4, root := word (rd (a + 0xC) 4) })

/-- A task's fields are in range and its root lies in its segment (R390, R392). -/
def taskOk (segs : List Segment) (fs : Nat) (e : Nat × TaskDef) : Bool :=
  let d := e.2
  decide (e.1 < 512) && actOk d.kind d.act fs && decide (1000 ≤ d.dl) && decide (d.dl ≤ 16000000) &&
    d.root &&& 0x000E0007#32 == 0#32 &&
    segs.any fun g => g.core == d.core && decide (fld d.root 31 20 * 16 + 16 ≤ g.codeLen) &&
      decide (g.dataBase ≤ fld d.root 16 3 * 8) && decide (fld d.root 16 3 * 8 + 16 ≤ g.dataBase + g.dataLen)

/-- The identity entry at an address (R391). -/
def rdId (rd : Nat → Nat → Nat) (a : Nat) : IdEnt :=
  { id := word (rd a 4), core := rd (a + 4) 1, kind := rd (a + 5) 1, size := rd (a + 6) 2, type_ := word (rd (a + 8) 4), ofs := rd (a + 0xC) 4 }

/-- An identity entry's fields are in range and it lies in its segment's image (R391, R392). -/
def idOk (segs : List Segment) (e : IdEnt) : Bool :=
  (match e.kind with
    | 1 => e.size == 16
    | 2 => e.size == 16 && e.type_ == 0#32
    | 3 => e.size == 8 && e.type_ == 0#32
    | 4 => decide (1 ≤ e.size) && decide (e.size ≤ 4096) && [1, 2, 3, 4, 5, 8].contains (fld e.type_ 31 28)
    | _ => false) &&
  segs.any fun g => g.core == e.core && decide (g.dataBase ≤ e.ofs) && decide (e.ofs + e.size ≤ g.dataBase + g.dataLen)

/-- No two entries share a key. -/
def distinct {α : Type} [BEq α] : List α → Bool
  | [] => true
  | x :: t => !t.contains x && distinct t

/-- A program's header, read from its payload; the tables are read when they lie in the payload (R388). -/
def readProgram (rd : Nat → Nat → Nat) (pay : Nat) : Program :=
  { addr := pay, rate := rd (pay + 6) 1, id := word (rd (pay + 8) 4), ver := word (rd (pay + 0xC) 4), retSig := word (rd (pay + 0x24) 4)
    segs := (List.range (rd (pay + 7) 1)).map fun i => rdSeg rd (pay + rd (pay + 0x18) 4 + 32 * i)
    tasks := (List.range (rd (pay + 0x10) 2)).map fun i => rdTask rd (pay + rd (pay + 0x1C) 4 + 16 * i)
    ids := (List.range (rd (pay + 0x14) 4)).map fun i => rdId rd (pay + rd (pay + 0x20) 4 + 16 * i)
    digest := leBytes 32 (rd (pay - 0x2000 + 0x10) 32) }

/-- The image header is that of a partition program (R116, R392). -/
def imgHeadOk (rd : Nat → Nat → Nat) (a : Nat) : Bool := rd a 4 == 0x4C444D49 && rd (a + 4) 2 == 1 && rd (a + 7) 1 == 4

/-- The program header and the places of its tables (R388). -/
def progHeadOk (rd : Nat → Nat → Nat) (pay plen : Nat) : Bool :=
  let n16 := rd (pay + 0x10) 2
  let segN := rd (pay + 7) 1
  decide (0x40 ≤ plen) && rd pay 4 == 0x4C445052 && rd (pay + 4) 2 == 1 && decide (rd (pay + 6) 1 ≤ 1) &&
    decide (1 ≤ segN) && decide (segN ≤ 64) && decide (1 ≤ n16) && decide (n16 ≤ 512) && rd (pay + 0x12) 2 == 0 &&
    rd (pay + 0x28) 24 == 0 &&
    decide (rd (pay + 0x18) 4 + 32 * segN ≤ plen) && decide (rd (pay + 0x1C) 4 + 16 * n16 ≤ plen) &&
    decide (rd (pay + 0x20) 4 + 16 * rd (pay + 0x14) 4 ≤ plen)

/-- The tables of a program are well formed (R389-R391). -/
def tablesOk (rd : Nat → Nat → Nat) (plen : Nat) (g : Program) : Bool :=
  g.segs.all (segOk plen) && distinct (g.segs.map (·.core)) && g.tasks.all (taskOk g.segs (if g.rate = 0 then 4800 else 4000)) &&
    distinct (g.tasks.map (·.1)) && g.ids.all (idOk g.segs) && distinct (g.ids.map (·.id.toNat)) &&
    (List.range g.segs.length).all (fun i => rd (g.addr + rd (g.addr + 0x18) 4 + 32 * i + 1) 3 == 0)

/-- Retentive bytes of a program (R386, R387). -/
def retLen (g : Program) : Nat := g.segs.foldl (fun n e => n + e.retLen) 0

/-- Retentive bytes of all programs in force but partition `p`'s. -/
def retOthers (s : State) (p : Nat) : Nat :=
  s.tsk.parts.foldl (fun n e => if e.1 = p then n else n + ((e.2.prog.map retLen).getD 0)) 0

/-- Two ranges overlap. -/
def overlap (a n b m : Nat) : Bool := decide (0 < n) && decide (0 < m) && decide (a < b + m) && decide (b < a + n)

/-- What a program names belongs to its partition (R379, R392). -/
def ownerOk (s : State) (p : Nat) (g : Program) : Bool :=
  let own := fun k n => ownerOf s k n == some p
  g.segs.all (fun e => own 0 e.core) && g.tasks.all fun e =>
    own 3 e.1 && own 0 e.2.core && (e.2.kind != 1 || own 2 (fld e.2.act 23 16)) &&
      (e.2.kind != 2 || match fld e.2.act 31 28 with
        | 1 => own 4 (fld e.2.act 11 0 / 64)
        | 3 => own 7 (fld e.2.act 11 0)
        | _ => true)

/-- A data image meets the spill area, or the image in force on its core (R392). -/
def overlapBad (s : State) (p : Nat) (g : Program) : Bool :=
  g.segs.any fun e =>
    let sp := forceOf s (R.coreSpill e.core)
    overlap e.dataBase e.dataLen (fld sp 10 0 * 64) (fld sp 26 16 * 64) ||
      ((partOf s p).prog.map fun o => o.segs.any fun f => f.core == e.core && overlap e.dataBase e.dataLen f.dataBase f.dataLen).getD false

/-- The checks of R392 on partition `p`'s image at `a`, in their order: the ERR code of the first that fails, 0 for none. What a
refused read hides reads 0; `refused` says that one was. -/
def imgErr_ (s : State) (p a : Nat) (refused : Bool) : Nat :=
  let rd := imgNat s p
  let pay := a + 0x2000
  let plen := rd (a + 0xC) 4
  let g := readProgram rd pay
  if !imgHeadOk rd a || !progHeadOk rd pay plen || !tablesOk rd plen g then 2
  else if g.rate ≠ fld (shadowOf s R.timeTickCfg) 0 0 then 5
  else if !ownerOk s p g then 3
  else if overlapBad s p g then 4
  else if 0x20000 < retOthers s p + retLen g ∨ (retLen g ≠ 0 ∧ fld (forceOf s (R.tskPPlinth p)) 11 0 * 4096 < 64 + retLen g) then 6
  else if refused then 7
  else 0

/-- LOAD and INSTALL check the image (R392): its header and then its payload are read by the TSK's DMA for the partition. -/
def imgCheck (s : State) (p a : Nat) : State × Nat :=
  let h := dmaAccess s 0x0D (tskTag s p) false a 0x40
  let b := if imgHeadOk (imgNat s p) a then dmaAccess h.1 0x0D (tskTag s p) false (a + 0x2000) (imgNat s p (a + 0xC) 4) else (h.1, none)
  (b.1, imgErr_ b.1 p a (h.2.isSome || b.2.isSome))

/-! ### Commands (R393) -/

def modPart (s : State) (p : Nat) (f : TskPart → TskPart) : State := setPart s p (f (partOf s p))

/-- A command that is refused or fails (R393). -/
def cmdErr (s : State) (p e : Nat) : State := setEvt (modPart s p fun x => { x with err := e }) (R.tskPEvt p) 9

/-- A command of TSK_P_CTRL: accepted under its condition, else STATE (R393). -/
def pCtrl (a : Acc) (p : Fin 32) (ok : TskPart → Bool) (f : State → State) (s : State) : State :=
  regAccess s a (R.tskPCtrl p.val) true fun s =>
    if ok (partOf s p.val) then f (modPart s p.val fun x => { x with err := 0 }) else cmdErr s p.val 1

/-- A start or stop is pending, or a series is open. -/
def noStart (x : TskPart) : Bool := x.pendOp.isNone

/-- LOAD (R392, R393): the checks, then the copy begins. -/
def execLoad (a : Acc) (p : Fin 32) (s : State) : Host.Outcome State Fault Refusal :=
  .next (pCtrl a p (fun x => x.mq == .none) (fun s =>
    let w := shadowOf s (R.tskPMq p.val)
    let r := imgCheck s p.val w.toNat
    if r.2 ≠ 0 then cmdErr r.1 p.val r.2
    else modPart r.1 p.val fun x => { x with mq := .loading, maq := some (readProgram (imgNat s p.val) (w.toNat + 0x2000)), maqImg := w }) s)

/-- The code of a program copied into the inactive banks by the load engine: the state, and the ERR of a failure (R393). -/
def copyCode (s : State) (segs : List Segment) (pay : Nat) : State × Nat :=
  segs.foldl (fun (s, e) g =>
    if e ≠ 0 then (s, e)
    else
      let src := pay + g.codeOfs
      if src < 0x80000000 ∨ 0x81000000 < src + g.codeLen then (s, 2)
      else
        let r := copyLines src (codeBase g.core (!(coreOf s g.core).bank)) (g.codeLen / 64) s
        (r.1, if r.2 then 0 else 7)) (s, 0)

/-- The maquette is dropped. -/
def dropMaq (x : TskPart) : TskPart := { x with mq := .none, maq := none, series := none, attemptAt := none, attemptBad := none }

/-- The copy of a LOAD ends (R393). -/
def loadDone (s : State) (p : Nat) : State :=
  let x := partOf s p
  match x.mq, x.maq, s.pcx.load with
  | .loading, some g, none =>
    let r := copyCode s g.segs g.addr
    if r.2 = 0 then modPart r.1 p fun x => { x with mq := .loaded }
    else cmdErr (modPart r.1 p dropMaq) p r.2
  | _, _, _ => s

/-- Lines of an image on a core. -/
def segLines (g : Segment) : List Nat := linesOf (dataBase g.core + g.dataBase) g.dataLen

/-- PREPARE (R394): the carry sets of the maquette's cores are cleared; from now on dirtied lines join them. -/
def execPrepare (a : Acc) (p : Fin 32) (s : State) : Host.Outcome State Fault Refusal :=
  .next (pCtrl a p (fun x => (x.mq == .loaded || x.mq == .prepared) && x.pstate == .running) (fun s =>
    let cores := (((partOf s p.val).prog.map (·.segs)).getD []).map (·.core)
    let s := { s with tsk := { s.tsk with carry := s.tsk.carry.filter fun l => !cores.contains ((l * 64 - 0x90000000) / 0x40000) } }
    modPart s p.val fun x => { x with mq := .preparing }) s)

/-- The place of an identity entry. -/
def idAddr (e : IdEnt) : Nat := dataBase e.core + e.ofs

/-- Two entries match (R397). -/
def idMatch (o n : IdEnt) : Bool := o.id == n.id && o.kind == n.kind && ((n.kind != 1 && n.kind != 4) || o.type_ == n.type_)

/-- Bytes of partition `p`'s images, moved by the TSK's DMA. -/
def tskMove (s : State) (p src dst n : Nat) : State :=
  let r := dmaRead s 0x0D (tskTag s p) src n
  dmaWrite r.2 0x0D (tskTag s p) dst r.1

/-- A matched entry is carried (R397). -/
def carryEntry (s : State) (p : Nat) (o n : IdEnt) : State :=
  let a := idAddr o
  let b := idAddr n
  match n.kind with
  | 1 =>
    let x := dmaRead s 0x0D (tskTag s p) (a + 0xA) 2
    let y := dmaRead x.2 0x0D (tskTag s p) (b + 0xA) 2
    dmaWrite y.2 0x0D (tskTag s p) (b + 0xA) (leBytes 2 (leNat y.1 / 2 * 2 + leNat x.1 % 2))
  | 2 => tskMove s p (a + 4) (b + 4) 12
  | 3 => tskMove s p (a + 4) (b + 4) 4
  | _ => tskMove s p a b n.size

/-- The entries of the new image that have a match, with their match. -/
def matches_ (old new : Program) : List (IdEnt × IdEnt) :=
  new.ids.filterMap fun n => (old.ids.find? fun o => idMatch o n).map fun o => (o, n)

/-- A segment's initial data image copied (R383, R394). -/
def initSeg (s : State) (p pay : Nat) (g : Segment) : State :=
  dmaCopy 0x0D (tskTag s p) (pay + g.dataOfs) (dataBase g.core + g.dataBase) (g.dataLen / 64) s

/-- The carry sets hold what touches the maquette's core: their lines of partition `p`'s old image. -/
def carryLines (s : State) (old : Program) : List Nat := s.tsk.carry.filter fun l => old.segs.any fun g => (segLines g).contains l

/-- PREPARE_DONE (R394): the image is built and the matching entries carried. -/
def execPrepareDone (p : Fin 32) (s : State) : Host.Outcome State Fault Refusal :=
  .next (
    let x := partOf s p.val
    match x.mq, x.prog, x.maq with
    | .preparing, some old, some new =>
      let keep := s.tsk.carry
      let s := new.segs.foldl (fun s g => initSeg s p.val new.addr g) s
      let s := (matches_ old new).foldl (fun s e => carryEntry s p.val e.1 e.2) s
      let s := { s with tsk := { s.tsk with carry := keep } }
      setEvt (modPart s p.val fun x => { x with mq := .prepared }) (R.tskPEvt p.val) 0
    | _, _, _ => s)

/-- The twilight save has begun: no switch and no force change is accepted (R83 step 1). -/
def saving (s : State) : Bool := decide (s.pwr.phase = .save) || decide (s.pwr.phase = .hand)

/-- SWITCH (R395): a series opens. -/
def execSwitch (a : Acc) (p : Fin 32) (s : State) : Host.Outcome State Fault Refusal :=
  .next (pCtrl a p (fun x => x.mq == .prepared && x.pstate == .running && noStart x && !saving s) (fun s =>
    modPart s p.val fun x => { x with mq := .switching, series := some s.now, attempts := 0 }) s)

/-- DISCARD (R393): the series ends, a running attempt finishes first (8; 12 after a stop of the partition, 10 before one). -/
def execDiscard (a : Acc) (p : Fin 32) (s : State) : Host.Outcome State Fault Refusal :=
  .next (pCtrl a p (fun x => x.mq != .none) (fun s =>
    modPart s p.val fun x => if x.attemptAt.isSome then { x with series := none, attemptBad := some (if x.attemptBad = some 2 then 12 else x.attemptBad.getD 8) }
      else dropMaq x) s)

/-! ### Making a program the one in force -/

/-- The banks of a program's cores flip (R304, R398). -/
def flipBanks (s : State) (g : Program) : State :=
  g.segs.foldl (fun s e => modCore s e.core fun c => { c with bank := !c.bank }) s

/-- The task definitions of the old program are replaced by those of the new (R398): a pending activation stays where the task
keeps its core. `first` is the START code of the next runs. -/
def newTasks (s : State) (old : Option Program) (g : Program) (first : Nat) : State :=
  let olds := (old.map (·.tasks)).getD []
  let s := olds.foldl (fun s e =>
    let t := taskOf s e.1
    let keep := g.tasks.any fun n => n.1 == e.1 && n.2.core == e.2.core
    let s := if t.pend.isSome && !keep then actOut s e.2.core else s
    setTask s e.1 { t with def_ := none, pend := if keep then t.pend else none }) s
  g.tasks.foldl (fun s e => setTask s e.1 { taskOf s e.1 with def_ := some e.2, first := first }) s

/-- INSTALL (R393): the maquette is the program in force at once, without carry. -/
def installProg (s : State) (p : Nat) (g : Program) : State :=
  let x := partOf s p
  let s := newTasks (flipBanks s g) x.prog g 0
  let w := shadowOf s (R.tskPMq p)
  modPart s p fun x => { dropMaq x with prog := some g, img := w, pstate := .stopped }

/-- INSTALL (R392, R393). -/
def execInstall (a : Acc) (p : Fin 32) (s : State) : Host.Outcome State Fault Refusal :=
  .next (pCtrl a p (fun x => x.mq == .loaded && (x.pstate == .none || x.pstate == .stopped)) (fun s =>
    let r := imgCheck s p.val (partOf s p.val).maqImg.toNat
    match (partOf s p.val).maq with
    | some g => if r.2 ≠ 0 then cmdErr r.1 p.val r.2 else installProg r.1 p.val g
    | none => s) s)

/-! ### The plinth (R385-R387) -/

/-- The address of a plinth copy: A, or B (R385). -/
def plinthCopy (s : State) (p : Nat) (b : Bool) : Nat :=
  let w := forceOf s (R.tskPPlinth p)
  0xA0500000 + (fld w 27 16 + if b then fld w 11 0 else 0) * 4096

/-- A copy's header is valid (R385); one that may not be read reads 0. -/
def plinthValid (s : State) (p a : Nat) : Bool :=
  (rangeDenied s (tskTag s p) .read a 64).isNone && rd32 s a == 0x4C44504C#32 && guardedOk (rd64 s (a + 8))
/-- SEQ of a header. -/
def plinthSeq (s : State) (a : Nat) : Nat := (guardedVal (rd64 s (a + 8))).toNat

/-- The active copy: none, or whether it is B (R385). -/
def plinthActive (s : State) (p : Nat) : Option Bool :=
  let a := plinthCopy s p false
  let b := plinthCopy s p true
  if fld (forceOf s (R.tskPPlinth p)) 11 0 = 0 then none
  else match plinthValid s p a, plinthValid s p b with
    | true, true => some (decide (plinthSeq s a < plinthSeq s b))
    | true, false => some false
    | false, true => some true
    | false, false => none

/-- The headers of both copies are read by the TSK's DMA; a SEQ that fails its check raises GUARD_FAULT (R17, R385). -/
def plinthRead (s : State) (p : Nat) : State :=
  if fld (forceOf s (R.tskPPlinth p)) 11 0 = 0 then s
  else [plinthCopy s p false, plinthCopy s p true].foldl (fun s a =>
    let r := dmaRead s 0x0D (tskTag s p) a 64
    if bytesWord r.1 0 = 0x4C44504C#32 ∧ !guardOk (bytesWord r.1 2) (bytesWord r.1 3) then guardFault r.2 0x0D else r.2) s

/-- The retentive lines of a program, in segment order. -/
def retLines (g : Program) : List Nat := g.segs.flatMap fun e => linesOf (dataBase e.core + e.dataBase + e.retOfs) e.retLen

/-- A header matches a program (R387). -/
def plinthMatches (s : State) (p a : Nat) (g : Program) : Bool :=
  plinthValid s p a && rd32 s (a + 0x10) == g.id && rd32 s (a + 0x14) == g.ver && rd32 s (a + 0x18) == g.retSig &&
    (rd32 s (a + 0x1C)).toNat == retLen g

/-- Every retentive line and then the header go to the copy that is not active (R398). -/
def plinthRewrite (s : State) (p : Nat) (g : Program) : State :=
  if fld (forceOf s (R.tskPPlinth p)) 11 0 = 0 ∨ retLen g = 0 then s
  else
    let s := plinthRead s p
    let act := plinthActive s p
    let b := match act with | some b => !b | none => false
    let seq := match act with | some x => word (plinthSeq s (plinthCopy s p x) + 1) | none => 1#32
    let a := plinthCopy s p b
    let ls := retLines g
    let s := ((List.range ls.length).zip ls).foldl (fun s e => tskMove s p (e.2 * 64) (a + 64 + e.1 * 64) 64) s
    let s := dmaWrite s 0x0D (tskTag s p) (a + 4) (leBytes 4 0 ++ leBytes 8 (guarded seq).toNat ++ leBytes 4 g.id.toNat ++ leBytes 4 g.ver.toNat ++
      leBytes 4 g.retSig.toNat ++ leBytes 4 (retLen g) ++ List.replicate 32 0#8)
    dmaWrite s 0x0D (tskTag s p) a (leBytes 4 0x4C44504C)

/-- PLINTH_RESTORE (R387): from the active copy, or the other; with no match PLINTH_MISMATCH and a rewrite. -/
def plinthRestore (s : State) (p : Nat) (g : Program) : State :=
  if retLen g = 0 then s
  else
    let s := plinthRead s p
    let act := (plinthActive s p).getD false
    let a := plinthCopy s p act
    let b := plinthCopy s p !act
    let src := if plinthMatches s p a g then some a else if plinthMatches s p b g then some b else none
    match src with
    | some c =>
      let ls := retLines g
      ((List.range ls.length).zip ls).foldl (fun s e => tskMove s p (c + 64 + e.1 * 64) (e.2 * 64) 64) s
    | none =>
      let s := setEvt s (R.tskPEvt p) 5
      let s := hnqPost (almPost s 1 0x0D 0x14 (some p) [0#32]) p 0 0x0D 0x14 0
      plinthRewrite s p g

/-- The retentive lines dirtied in the ended tick form a round, with the contents they have at the meridian (R386). -/
def plinthCapture (s : State) : State :=
  let ls := s.pcx.dirty.filter fun l => s.tsk.parts.any fun e => ((e.2.prog.map retLines).getD []).contains l
  let add := fun (r : List (Nat × List Byte)) => ls.foldl (fun n l => mset [] n l (rdBytes s (l * 64) 64)) r
  if s.tsk.round.isEmpty then { s with tsk := { s.tsk with round := add [] } }
  else { s with tsk := { s.tsk with nextRound := add s.tsk.nextRound } }

/-- The partition and place of a retentive line. -/
def retPlace (s : State) (l : Nat) : Option (Nat × Nat) :=
  s.tsk.parts.findSome? fun e =>
    match e.2.prog with
    | none => none
    | some g => let i := (retLines g).findIdx (· == l); if i < (retLines g).length then some (e.1, i) else none

/-- PLINTH_LINE_WRITE (R386): the next line of the round goes to the active copy. -/
def plinthLine (s : State) : State :=
  match s.tsk.round with
  | [] => s
  | (l, d) :: t =>
    let s := match retPlace s l with
      | some (p, i) =>
        let s := plinthRead s p
        match plinthActive s p with
        | some b => dmaWrite s 0x0D (tskTag s p) (plinthCopy s p b + 64 + i * 64) d
        | none => s
      | none => s
    if t.isEmpty then { s with tsk := { s.tsk with round := s.tsk.nextRound, nextRound := [] } }
    else { s with tsk := { s.tsk with round := t } }

def execPlinthLineWrite (s : State) : Host.Outcome State Fault Refusal := .next (plinthLine s)

/-! ### Forces (R400-R407) -/

/-- The key of force entry `e` of partition `p`. -/
def forceKey (p e : Nat) : Nat := p * 256 + e
def forceSt (s : State) (p e : Nat) : ForceSt := mget {} s.tsk.forces (forceKey p e)
def setForceSt (s : State) (p e : Nat) (x : ForceSt) : State :=
  { s with tsk := { s.tsk with forces := mset {} s.tsk.forces (forceKey p e) x } }

/-- A pair of the entry is intact (R407). -/
def forceGuardOk (s : State) (p e : Nat) : Bool :=
  guardOk (forceOf s (R.fVal p e)) (forceOf s (R.fValC p e)) && guardOk (forceOf s (R.fAux p e)) (forceOf s (R.fAuxC p e))

/-- EN cleared in the shadow and in force, STATE = REMOVED (R406, R407). -/
def forceRemove (s : State) (p e : Nat) : State :=
  let s := setShadow s (R.fCfg p e) (shadowOf s (R.fCfg p e) &&& 0x7FFFFFFF#32)
  let s := setForce s (R.fCfg p e) (forceOf s (R.fCfg p e) &&& 0x7FFFFFFF#32)
  let s := setForceSt s p e { state := 2 }
  if fld (forceOf s (R.fCfg p e)) 30 28 = 1 then flagForce s (fld (forceOf s (R.fCfg p e)) 11 0) none else s

/-- A guard fault of an entry in force (R407). -/
def forceGuard (s : State) (p e : Nat) : State :=
  let s := setEvt (forceRemove (guardFault s 0x0D) p e) (R.tskPEvt p) 8
  hnqPost (almPost s 1 0x0D 0x22 (some p) [word e]) p 0 0x0D 0x22 e

/-- The VAR of class 0x1 to 0x5 that an entry names in the program in force (R402). -/
def forceVar (s : State) (p e : Nat) : Option IdEnt :=
  ((partOf s p).prog.map (·.ids)).bind fun l =>
    l.find? fun i => i.kind == 4 && i.id == forceOf s (R.fId p e) && decide (1 ≤ fld i.type_ 31 28) && decide (fld i.type_ 31 28 ≤ 5)

/-- An enabled entry resolved and applied at a meridian (R402, R403). -/
def forceResolve (s : State) (p e : Nat) : State :=
  let x : ForceSt := { state := 1, cfg := forceOf s (R.fCfg p e), val := forceOf s (R.fVal p e), aux := forceOf s (R.fAux p e), qual := forceOf s (R.fQual p e) }
  if !forceGuardOk s p e then forceGuard s p e
  else
    match fld (forceOf s (R.fCfg p e)) 30 28 with
    | 0 =>
      match forceVar s p e with
      | some i =>
        let s := setForceSt s p e { x with core := i.core, ofs := i.ofs, size := min i.size (if fld i.type_ 31 28 = 4 ∨ fld i.type_ 31 28 = 5 then 8 else 4) }
        { s with tsk := { s.tsk with applyDue := insNat i.core s.tsk.applyDue } }
      | none =>
        if (forceSt s p e).state = 3 then s
        else
          let s := setEvt (setForceSt s p e { state := 3 }) (R.tskPEvt p) 7
          hnqPost (almPost s 2 0x0D 0x21 (some p) [word e]) p 1 0x0D 0x21 e
    | 1 => flagForce (setForceSt s p e x) (fld (forceOf s (R.fCfg p e)) 11 0) (some (bit (forceOf s (R.fVal p e)) 0))
    | _ => setForceSt s p e x

/-- The entries of partition `p` enabled in force. -/
def forcesOn (s : State) (p : Nat) : List Nat :=
  (mtake s.force (R.fCfg p 0) (R.fCfg p 0 + 256 * 0x20)).filterMap fun e =>
    if e.1 % 0x20 = 0 ∧ bit e.2 31 then some ((e.1 - R.fCfg p 0) / 0x20) else none

/-- The FLAG forces of all partitions. -/
def flagsForced (s : State) : List Nat :=
  (mtake s.force 0x2100000000 0x2200000000).filterMap fun e =>
    if e.1 % 0x20 = 0 ∧ bit e.2 31 ∧ fld e.2 30 28 = 1 then some (fld e.2 11 0) else none

/-- FORCE_RESOLVE of partition `p` (R402-R405): entries no longer enabled end, with them the forces of its flags; enabled ones are
resolved. What other partitions force stays until their own step 4 (R395). -/
def forcesMeridian (s : State) (p : Nat) : State :=
  let on := forcesOn s p
  let had := (mtake s.tsk.forces (p * 256) (p * 256 + 256)).map fun e => (e.1 - p * 256, e.2.state)
  let s := had.foldl (fun s e => if (e.2 = 1 ∨ e.2 = 3) ∧ !on.contains e.1 then setForceSt s p e.1 {} else s) s
  let s := (s.tmx.forced.map (·.1)).foldl (fun s f =>
    if (flagsForced s).contains f || (match ownerOf s 4 (f / 64) with | some q => q != p | none => false) then s else flagForce s f none) s
  on.foldl (fun s e => forceResolve s p e) s

/-- The bytes a VAR force writes (R400, R401). -/
def forceBytes (s : State) (p e : Nat) (i : IdEnt) : List Byte :=
  let v := (forceSt s p e).val
  let hi := match fld i.type_ 31 28 with | 4 => ~~~v | 5 => (forceSt s p e).aux | _ => 0#32
  (leBytes 4 v.toNat ++ leBytes 4 hi.toNat).take (forceSt s p e).size

/-- FORCE_APPLY on core `k` (R403): the core is IDLE, its VAR forces are written. -/
def execForceApply (k : Fin 64) (s : State) : Host.Outcome State Fault Refusal :=
  .next (
    if !s.tsk.applyDue.contains k.val || (coreOf s k.val).mode != .idle then s
    else
      let es := s.tsk.forces.filter fun e => e.2.state == 1 && e.2.core == k.val && decide (0 < e.2.size)
      let s := es.foldl (fun s e =>
        let p := e.1 / 256
        let i := e.1 % 256
        if !forceGuardOk s p i then forceGuard s p i
        else match forceVar s p i with
          | some v => dmaWrite s 0x0D (tskTag s p) (dataBase e.2.core + e.2.ofs) (forceBytes s p i v)
          | none => s) s
      { s with tsk := { s.tsk with applyDue := s.tsk.applyDue.filter (· != k.val) } })

/-- The VAR entries at a successful switch (R406): kept where ID and TYPE stay, removed otherwise; the number removed. -/
def forcesSwitch (s : State) (p : Nat) (old new : Program) : State × Nat :=
  (forcesOn s p).foldl (fun (s, n) e =>
    if fld (forceOf s (R.fCfg p e)) 30 28 ≠ 0 then (s, n)
    else
      let id := forceOf s (R.fId p e)
      let find := fun (g : Program) => g.ids.find? fun i => i.kind == 4 && i.id == id
      let keep := match find old, find new with
        | some o, some m => o.type_ == m.type_
        | none, some _ => true
        | _, none => (find old).isNone
      if keep then (s, n)
      else
        let s := setEvt (forceRemove s p e) (R.tskPEvt p) 6
        (hnqPost (almPost s 2 0x0D 0x20 (some p) [id]) p 1 0x0D 0x20 e, n + 1)) (s, 0)

/-! ### Restart (R383, R384) -/

/-- The pending activations of partition `p` are held, or held no more. -/
def holdAll (s : State) (p : Nat) (h : Bool) : State :=
  (s.tsk.tasks.filter fun e => ownerOf s 3 e.1 == some p).foldl (fun s e =>
    match e.2.pend with | some a => setTask s e.1 { e.2 with pend := some { a with held := h } } | none => s) s

/-- What follows the outcome of an attempt: step 4 for the partition, activations held no more (R395). -/
def attemptOver (s : State) (p : Nat) : State := holdAll (forcesMeridian s p) p false

/-- START_WARM, START_COLD, STOP are requested (R383, R393); a STOP ends an open series, with the attempt in progress. -/
def startOp (a : Acc) (p : Fin 32) (o : PartOp) (s : State) : State :=
  pCtrl a p (fun x =>
      noStart x && (match o with
        | .stop => x.pstate == .running || x.pstate == .starting || x.pstate == .halted
        | _ => (x.pstate == .stopped || x.pstate == .running || x.pstate == .halted) && x.series.isNone && x.attemptAt.isNone))
    (fun s =>
      let x := partOf s p.val
      let s := modPart s p.val fun x => { x with pendOp := some (o, s.now) }
      if o = .stop ∧ (x.series.isSome ∨ x.attemptAt.isSome) then
        let s := modPart s p.val fun x =>
          if x.series.isSome then { x with series := none, attemptAt := none, attemptBad := none, mq := .prepared } else dropMaq x
        if x.attemptAt.isSome then attemptOver s p.val else s
      else s) s

def execStartWarm (a : Acc) (p : Fin 32) (s : State) : Host.Outcome State Fault Refusal := .next (startOp a p .warm s)
def execStartCold (a : Acc) (p : Fin 32) (s : State) : Host.Outcome State Fault Refusal := .next (startOp a p .cold s)
def execTskStop (a : Acc) (p : Fin 32) (s : State) : Host.Outcome State Fault Refusal := .next (startOp a p .stop s)

/-- Step 1: no task starts, runs end, lanes hold, flags reset. -/
def restartStep1 (s : State) (p : Nat) : State :=
  let s := (runsOf s p).foldl runCut s
  let s := (s.tsk.tasks.filter fun e => ownerOf s 3 e.1 == some p && e.2.pend.isSome).foldl
    (fun s e => unpend (match e.2.def_ with | some d => actOut s d.core | none => s) e.1) s
  let fs := (s.tmx.flags.filter fun e => ownerOf s 4 (e.1 / 64) == some p).map (·.1)
  lanesUpdate (fs.foldl (fun s f => flagSet s f false) s)

/-- RESTART at a meridian (R383): step 1; a STOP ends there. -/
def restartMeridian (s : State) (p : Nat) : State :=
  match (partOf s p).pendOp with
  | none => s
  | some (o, t) =>
    if s.now < t + 512 then s
    else
      let s := modPart s p fun x => { x with pstate := if o = .stop then .stopped else .starting, pendOp := none, resumed := false, startKind := if o = .stop then none else some o, series := none }
      restartStep1 s p

/-- Steps 2 to 5 of a restart (R383): images, retentive lines, timers and edges, STOPPED tasks, forces; RUNNING. -/
def restartDone (s : State) (p : Nat) : State :=
  let x := partOf s p
  match x.startKind, x.prog, x.pstate with
  | some o, some g, .starting =>
    let code := if o = .warm then 1 else 2
    let s := g.segs.foldl (fun s e => initSeg s p g.addr e) s
    let s := if o = .warm then plinthRestore s p g else s
    let s := if o = .warm then
        (g.ids.filter fun i => i.kind == 2 || i.kind == 3).foldl (fun s i => dmaWrite s 0x0D (tskTag s p) (idAddr i + 4) (leBytes 4 0)) s
      else s
    let s := { s with pcx := { s.pcx with pstop := s.pcx.pstop &&& ~~~(word (2 ^ p)) } }
    let s := (s.tsk.tasks.filter fun e => ownerOf s 3 e.1 == some p && e.2.stopped).foldl (fun s e => setTask s e.1 { e.2 with stopped := false }) s
    let s := g.tasks.foldl (fun s e =>
      let s := setTask s e.1 { taskOf s e.1 with stopped := false, first := code, retired := false }
      { s with pcx := { s.pcx with aborts := mset 0 s.pcx.aborts e.1 0 } }) s
    let s := modPart s p fun x => { x with pstate := .running, startKind := none, lastStart := code }
    let s := forcesMeridian s p
    let s := if o = .cold then plinthRewrite s p g else s
    let s := setEvt s (R.tskPEvt p) 4
    hnqPost (almPost s 2 0x0D 0x13 (some p) [word code]) p 1 0x0D 0x13 code
  | some _, none, .starting => modPart s p fun x => { x with pstate := .running, startKind := none }
  | _, _, _ => s

/-- A requested start or stop takes effect while no meridian falls (R47): 512 ns after the request. -/
def restartStopped (s : State) (p : Nat) : State :=
  match (partOf s p).pendOp with
  | some (_, t) => if s.time.tickRun then s else restartMeridian (reach s (t + 512)) p
  | none => s

/-- RESTART_DONE (R383, R384). -/
def execRestartDone (p : Fin 32) (s : State) : Host.Outcome State Fault Refusal :=
  .next (restartDone (restartStopped s p.val) p.val)

/-- LANE_RESUME (R383 step 6). -/
def laneResume (s : State) (p : Nat) : State :=
  let x := partOf s p
  let need := s.tsk.tasks.filter fun e =>
    ownerOf s 3 e.1 == some p && bit (forceOf s (R.tskTCtrl e.1)) 0 &&
      (match e.2.def_ with | some d => d.kind == 0 || d.kind == 1 | none => false)
  if x.pstate = .running ∧ !x.resumed ∧ need.all fun e => e.2.retired || e.2.stopped then
    lanesUpdate (modPart s p fun x => { x with resumed := true })
  else s

/-! ### The switch (R395-R399) -/

/-- A series ends without a switch (R399): 0 TIME, 1 OWNER, 2 HALTED. -/
def abandon (s : State) (p cause : Nat) : State :=
  let s := modPart s p fun x =>
    if cause = 1 then dropMaq x else { x with mq := .prepared, series := none, attemptAt := none, attemptBad := none }
  let s := setEvt s (R.tskPEvt p) 3
  hnqPost (almPost s 1 0x0D 0x12 (some p) [word cause]) p 0 0x0D 0x12 cause

/-- SWITCH_ATTEMPT at a meridian (R395, R396 steps 1 and 2). -/
def switchAttempt (s : State) (p : Nat) : State :=
  let x := partOf s p
  match x.series, x.maq with
  | some t, some g =>
    if s.now < t + 512 ∨ x.attemptAt.isSome then s
    else if !ownerOk s p g then abandon s p 1
    else holdAll (modPart s p fun x => { x with attemptAt := some s.now }) p true
  | _, _ => s

/-- An attempt while no meridian falls (R47): 512 ns after SWITCH. -/
def switchStopped (s : State) (p : Nat) : State :=
  match (partOf s p).series with
  | some t => if s.time.tickRun then s else switchAttempt (reach s (t + 512)) p
  | none => s

/-- The lines in the carry sets of one cluster. -/
def clusterLines (ls : List Nat) (c : Nat) : List Nat := ls.filter fun l => (l * 64 - 0x90000000) / 0x200000 == c

/-- The core a line of a data bank lies on. -/
def lineCore (l : Nat) : Nat := (l * 64 - 0x90000000) / 0x40000

/-- The cores of some lines that are IDLE, with the instant at which they became so or the attempt began at `t`, earliest first. -/
def idleCores (s : State) (t : Nat) (ls : List Nat) : List (Nat × Nat) :=
  let l := (ls.foldl (fun l x => insNat (lineCore x) l) []).filter fun k => (coreOf s k).mode == .idle
  l.foldl (fun o k =>
    let e := (max t (coreOf s k).idleAt, k)
    o.takeWhile (fun x => decide (x.1 ≤ e.1)) ++ e :: o.dropWhile fun x => decide (x.1 ≤ e.1)) []

/-- One cluster's engine (R396 step 3): from the first of its cores to become IDLE 0.5 µs, then a line in 20 ns, core by core as
they become IDLE. The lines it carries, with the instants. -/
def carryPlan (s : State) (t : Nat) (ls : List Nat) : List (Nat × Nat) :=
  match idleCores s t ls with
  | [] => []
  | c :: cs =>
    ((c :: cs).foldl (fun (o, e) k =>
      (ls.filter fun l => lineCore l == k.2).foldl (fun (o, e) l => (o ++ [(l, e + 20)], e + 20)) (o, max e k.1)) ([], c.1 + 500)).1

/-- The carry plans of all clusters. -/
def carryPlans (s : State) (t : Nat) (ls : List Nat) : List (Nat × Nat) := (List.range 8).flatMap fun c => carryPlan s t (clusterLines ls c)

/-- When the last engine ends: at the earliest 0.5 µs after the last core that holds no line became IDLE. -/
def carryEnd (s : State) (t : Nat) (cores : List Nat) (plan : List (Nat × Nat)) : Nat :=
  plan.foldl (fun m e => max m e.2) (cores.foldl (fun m k => max m ((coreOf s k).idleAt + 500)) (t + 500))

/-- The entries that overlap a set of lines are carried again. -/
def recarry (s : State) (p : Nat) (old new : Program) (ls : List Nat) : State :=
  let keep := s.tsk.carry
  let s := ((matches_ old new).filter fun e => (linesOf (idAddr e.1) e.1.size).any ls.contains).foldl (fun s e => carryEntry s p e.1 e.2) s
  { s with tsk := { s.tsk with carry := keep.filter fun l => !ls.contains l } }

/-- TSK_P_CARRY: the time in 10 ns and the lines. -/
def setCarry (s : State) (p dt n : Nat) : State :=
  setLive s (R.tskPCarry p) (word (min 0xFFFF (dt / 10) * 65536 + min 0xFFFF n))

/-- The number of dropped entries of a KIND (R398). -/
def droppedOf (old new : Program) (k : Nat) : Nat :=
  (old.ids.filter fun o => o.kind == k && !new.ids.any fun n => idMatch o n).length

/-- A successful attempt (R398, R406). -/
def switchDone (s : State) (p : Nat) (old new : Program) : State :=
  let at_ := (partOf s p).attempts + 1
  let s := newTasks (flipBanks s new) (some old) new 3
  let s := modPart s p fun x => { dropMaq x with prog := some new, img := x.maqImg, lastStart := 3, attempts := at_ }
  let s := plinthRewrite s p new
  let cs := [1, 2, 3, 4].map (droppedOf old new)
  let n := cs.foldl (· + ·) 0
  let s := setEvt s (R.tskPEvt p) 1
  let s := almPost s 3 0x0D 0x10 (some p) (cs.map word)
  let s := hnqPost s p 1 0x0D 0x10 (at_ * 4096 + min 0xFFF n)
  let r := forcesSwitch s p old new
  setLive r.1 (R.tskPDrop p) (word (min 0xFFFF n * 65536 + min 0xFFFF r.2))

/-- The cores of a program are IDLE. -/
def coresIdle (s : State) (g : Program) : Bool := g.segs.all fun e => (coreOf s e.core).mode == .idle

/-- The attempt of partition `p` that began at `t` succeeds, and when its last re-carry ends (R396 steps 3 and 4). -/
def attemptOk (s : State) (x : TskPart) (t : Nat) (old new : Program) : Bool × Nat :=
  let due := carryEnd s t ((old.segs ++ new.segs).map (·.core)) (carryPlans s t (carryLines s old))
  (x.attemptBad != some 2 && x.attemptBad != some 10 && x.attemptBad != some 12 && decide (max due s.now ≤ t + 50000) && coresIdle s old && coresIdle s new, due)

/-- RECARRY_DONE (R396 step 4, R398): every core's carry set has been carried within tCARRY. -/
def execRecarryDone (p : Fin 32) (s : State) : Host.Outcome State Fault Refusal :=
  .next (
    let s := switchStopped s p.val
    let x := partOf s p.val
    match x.attemptAt, x.prog, x.maq with
    | some t, some old, some new =>
      let ok := attemptOk s x t old new
      let ls := carryLines s old
      if !ok.1 then s
      else
        let s := reach s ok.2
        let s := setCarry (recarry s p.val old new ls) p.val (ok.2 - t) ls.length
        attemptOver (switchDone s p.val old new) p.val
    | _, _, _ => s)

/-- SWITCH_ATTEMPT_FAIL (R396 step 5, R399): at tCARRY the lines reached are carried, the others stay in the sets. -/
def execSwitchAttemptFail (p : Fin 32) (s : State) : Host.Outcome State Fault Refusal :=
  .next (
    let x := partOf s p.val
    match x.attemptAt, x.prog, x.maq with
    | some t, some old, some new =>
      if (attemptOk s x t old new).1 then s
      else
        let s := reach s (t + 50000)
        let ls := ((carryPlans s t (carryLines s old)).filter fun e => decide (e.2 ≤ t + 50000)).map (·.1)
        let s := setCarry (recarry s p.val old new ls) p.val 50000 ls.length
        let n := x.attempts + 1
        let s := modPart s p.val fun x => { x with attemptAt := none, attempts := n }
        let s := hnqPost (setEvt s (R.tskPEvt p.val) 2) p.val 2 0x0D 0x11 n
        let s := match x.attemptBad with
          | some 2 => abandon s p.val 2
          | some 12 => modPart (abandon s p.val 2) p.val dropMaq
          | some _ => modPart s p.val dropMaq
          | none => if n = 9 then abandon s p.val 0 else s
        attemptOver s p.val
    | _, _, _ => s)

/-! ### Cyclic activations (R378) and the check of a TSK set -/

/-- CYCLIC_ACTIVATION at the meridian of the tick in progress (R378). -/
def cyclicMeridian (s : State) : State :=
  s.tsk.tasks.foldl (fun s e =>
    match e.2.def_ with
    | some d =>
      if d.kind = 0 ∧ fld d.act 31 16 ≠ 0 ∧ (s.time.tickSec * fsOf s + s.time.tick) % fld d.act 31 16 = fld d.act 15 0 then
        activate s e.1 noRel noRel noRel
      else s
    | none => s) s

/-- RELEASE activations of group `g`'s release `n` with release tick `t` (R378). -/
def releaseTasks (s : State) (g n : Nat) (t : Word) : State :=
  s.tsk.tasks.foldl (fun s e =>
    match e.2.def_ with
    | some d =>
      if d.kind = 1 ∧ fld d.act 23 16 = g ∧ n % (fld d.act 13 8 + 1) = fld d.act 5 0 then activate s e.1 (word g) (word n) t else s
    | none => s) s

/-- One enabled force entry of a set (R400): KIND, pairs, target. -/
def checkForceEntry (s : State) (ps : PendSet) (p e : Nat) : Option (Nat × Nat) :=
  let v := pendVal ps.vals
  let o := 0x8000 + e * 0x20
  let cfg := v (R.fCfg p e)
  if !bit cfg 31 then none
  else if !guardOk (v (R.fVal p e)) (v (R.fValC p e)) then some (1, o + 0x08)
  else if !guardOk (v (R.fAux p e)) (v (R.fAuxC p e)) then some (1, o + 0x10)
  else
    match fld cfg 30 28 with
    | 0 => none
    | 1 => if fld cfg 12 12 = 0 ∧ ownerOf s 4 (fld cfg 11 0 / 64) = some p then none else some (4, o)
    | 2 => if ownerOf s 1 (fld cfg 12 0 / 8) = some p then none else some (4, o)
    | 3 => if ownerOf s 1 (fld cfg 12 0 / 8) = some p then none else some (4, o)
    | _ => some (3, o)

/-- The target of an enabled entry, for the comparison of R400. -/
def forceTarget (ps : PendSet) (p e : Nat) : Option (Nat × Nat) :=
  let cfg := pendVal ps.vals (R.fCfg p e)
  if !bit cfg 31 then none
  else some (fld cfg 30 28, if fld cfg 30 28 = 0 then p * 2 ^ 32 + (pendVal ps.vals (R.fId p e)).toNat else fld cfg 12 0)

/-- The force entries a set lists. -/
def forceEntries (ps : PendSet) : List (Nat × Nat) :=
  ((mtake ps.vals 0x2100000000 0x2200000000).map fun e => (e.1 - 0x2100000000) / 0x20).foldr
    (fun i l => if l.head? = some (i / 256, i % 256) then l else (i / 256, i % 256) :: l) []

/-- The check of a TSK set (R385, R400, R407). -/
def checkTsk (s : State) (ps : PendSet) : Option (Nat × Nat) :=
  let pl := fun p => pendVal ps.vals (R.tskPPlinth p)
  let range := (List.range 32).findSome? fun p =>
    if 2816 < fld (pl p) 27 16 + 2 * fld (pl p) 11 0 then some (3, R.tskPPlinth p % 0x10000) else none
  let clash := (List.range 32).findSome? fun p => (List.range p).findSome? fun q =>
    if overlap (fld (pl p) 27 16) (2 * fld (pl p) 11 0) (fld (pl q) 27 16) (2 * fld (pl q) 11 0) then some (2, R.tskPPlinth p % 0x10000) else none
  let es := forceEntries ps
  let one := es.findSome? fun e => checkForceEntry s ps e.1 e.2
  let ts := es.filterMap fun e => (forceTarget ps e.1 e.2).map fun t => (t, e)
  let two := ((List.range ts.length).zip ts).findSome? fun x =>
    if (ts.take x.1).any fun y => y.1 == x.2.1 then some (2, 0x8000 + x.2.2.2 * 0x20) else none
  range.orElse fun _ => clash.orElse fun _ => one.orElse fun _ => two

end Sys2Proof.Machine
end

