-- ==== Sys2Proof/Machine/GooseRx.lean ====
section
/-! DEFINITION. GOOSE subscriptions (R433-R438): judging a message, supervision, the record, the sinks; settings of the GSE as
they enter force, its commit check and its computed registers (R450). -/

namespace Sys2Proof.Machine

def subOf (s : State) (n : Nat) : GSub := mget {} s.gse.subs n
def setSub (s : State) (n : Nat) (x : GSub) : State := { s with gse := { s.gse with subs := mset {} s.gse.subs n x } }

/-- The owner of a subscription, its PID for a flag word. -/
def subOwner (s : State) (n : Nat) : Option Nat := ownerOf s 7 n

/-- A counter of the GSE (R450). -/
def gseCount (s : State) (i : Nat) : State :=
  setLive s (R.gseCnt i) (word (satAdd 0xFFFFFFFF (liveOf s (R.gseCnt i)).toNat 1))

/-- A post of the GSE on subscription `n`, with a record where `sev` names one (R446). -/
def subPost (s : State) (n cls code info : Nat) (sev : Option Nat) : State :=
  let s := match sev with | some v => almPost s v 0x0F code (subOwner s n) [word info] | none => s
  postOwner s (subOwner s n) cls 0x0F code info

def subCode : SubState → Nat
  | .disabled => 0 | .wait => 1 | .valid => 2 | .timeout => 3

/-! ### The member map (R438) -/

/-- An entry of a member map keeps R438. -/
def mapOk (w : Word) : Bool :=
  let t := fld w 31 28
  (t == 1 || (decide (3 ≤ t) && decide (t ≤ 7))) && fld w 14 12 == 0 && fld w 25 24 != 3 &&
    (match fld w 27 26 with | 0 => true | 1 => t == 1 | 2 => t == 1 || t == 5 | _ => false)

/-- The map of a subscription, read with its owner's PID when its set enters force. -/
def subMapRead (s : State) (n : Nat) : State :=
  let a := fld (forceOf s (R.gsMap n)) 31 4 * 16
  let k := fld (forceOf s (R.gsCfg n)) 22 16
  let r := dmaAccess s 15 (gseTag s (subOwner s n)) false a (4 * k)
  let s := r.1
  if r.2.isSome then setEvt (setEvt (setSub s n { subOf s n with bad := true, map := [] }) R.gseEvt 6) R.gseEvt 1
  else
    let m := (List.range k).map fun i => rd32 s (a + 4 * i)
    if m.all mapOk then setSub s n { subOf s n with bad := false, map := m }
    else setEvt (setSub s n { subOf s n with bad := true, map := [] }) R.gseEvt 1

/-! ### The record (R437) -/

/-- Words stored into a record between its two writes of GEN. -/
def recStore (s : State) (n : Nat) (off : Nat) (ws : List Word) : State :=
  let a := fld (forceOf s (R.gsRec n)) 31 6 * 64
  let r := dmaAccess s 15 (gseTag s (subOwner s n)) true a (off + 4 * ws.length)
  let s := r.1
  if r.2.isSome then setEvt s R.gseEvt 6
  else
    let g := rd32 s a
    wr32 (wrBytes (wr32 s a (g + 1)) (a + off) (wordsBytes ws)) a (g + 2)

/-- Word 0x04 of a record. -/
def recHead (s : State) (n : Nat) (sim auth : Bool) : Word :=
  let x := subOf s n
  word (b2n (x.state = .valid) 31 + subCode x.state * 2 ^ 29 + b2n x.test 28 + b2n sim 27 + b2n auth 26)

/-- The record of a new state. -/
def recNew (s : State) (n : Nat) (m : GooseMsg) (auth : Bool) (vals : List (Word × Word)) : State :=
  recStore s n 4 ([recHead s n m.sim auth, m.stNum, m.sqNum, m.tal, word m.tNs, word (m.tSec + s.time.utc), 0#32] ++
    vals.flatMap fun v => [v.1, v.2])

/-- The STATE of a record follows the subscription's; its other fields stay. -/
def recState (s : State) (n : Nat) : State :=
  let old := rd32 s (fld (forceOf s (R.gsRec n)) 31 6 * 64 + 4)
  recStore s n 4 [recHead s n (bit old 27) (bit old 26)]

/-! ### The sinks (R438) -/

/-- A flag sink writes its flag through the TMX (R414). -/
def sinkFlag (s : State) (n f : Nat) (v : Bool) : State :=
  (flagWord s (guarded (word (b2n v 31 + f))) ((subOwner s n).getD 32) (.sub n)).1

/-- The order of a member that changed to a value that orders; `true` is close. -/
def sinkOrder (w v : Word) : Option Bool :=
  if fld w 31 28 = 1 then (if v ≠ 0#32 then some (bit w 15) else none)
  else if fld v 1 0 = 1 then some false
  else if fld v 1 0 = 2 then some true
  else none

/-- Member `i` of a new state acts on its sink; `old` are the values last applied. -/
def sinkApply (n : Nat) (old vals : List (Word × Word)) (i : Nat) (s : State) : State :=
  let w := ((subOf s n).map[i]?).getD 0#32
  let v := ((vals[i]?).getD (0#32, 0#32)).1
  match fld w 27 26 with
  | 1 => sinkFlag s n (fld w 11 0) (decide (v ≠ 0#32))
  | 2 =>
    if old[i]? = vals[i]? then s
    else match sinkOrder w v with
      | some c => cmdOrder s { obj := fld w 23 16, rank := 3, action := 1, val := c }
      | none => s
  | _ => s

/-- The flag sinks of a subscription that enters TIMEOUT. -/
def sinkFail (s : State) (n : Nat) : State :=
  each (subOf s n).map s fun w s =>
    if fld w 27 26 = 1 then
      match fld w 25 24 with
      | 0 => sinkFlag s n (fld w 11 0) false
      | 1 => sinkFlag s n (fld w 11 0) true
      | _ => s
    else s

/-! ### States (R435) -/

/-- A subscription enters WAIT: the numbers and values heard so far are forgotten. -/
def subWait (s : State) (n : Nat) : State := setSub s n { subOf s n with state := .wait, seen := false, vals := [] }

/-- SIM_LATCH changes (R435). -/
def subLatch (s : State) (n : Nat) (v : Bool) : State :=
  subWait (subPost (setSub s n { subOf s n with simLatch := v }) n 1 0x13 (b2n v 15 + n) (some 2)) n

/-- A message is accepted: supervision begins anew, VALID. -/
def subRenew (s : State) (n : Nat) (m : GooseMsg) : State :=
  let x := subOf s n
  let s := setSub s n { x with
    state := .valid, seen := true, stNum := m.stNum, sqNum := m.sqNum, expiry := s.ltc - m.age + m.tal.toNat * 1000000 }
  if x.state = .valid then s else subPost (setEvt s (R.gsStat n) 0) n 2 0x11 n none

/-- A number follows another (R434). -/
def newer (a b : Word) : Bool := decide (0 < (a - b).toNat) && decide ((a - b).toNat < 2 ^ 31)

/-- A new state (R434). -/
def isNew (x : GSub) (m : GooseMsg) : Bool :=
  !x.seen || newer m.stNum x.stNum || (m.stNum == 1#32 && m.sqNum == 0#32)

/-- The values of a message as the record holds them: a Timestamp in TAI (R164, R437). -/
def msgVals (s : State) (m : GooseMsg) : List (Word × Word) :=
  m.members.map fun e => (e.v, if e.type_.val = 7 then e.v2 + word s.time.utc else 0#32)

/-- The message is TEST (R435). -/
def msgTest (m : GooseMsg) : Bool := m.members.any fun e => e.type_.val == 6 && bit e.v 11

/-- A new state is accepted: values, record, sinks, event tasks, trigger (R434, R437, R438, R486). -/
def subNew (s : State) (n : Nat) (m : GooseMsg) (auth : Bool) : State :=
  let vals := msgVals s m
  let s := setSub s n { subOf s n with test := msgTest m }
  let s := subRenew s n m
  let s := recNew s n m auth vals
  let acc := match subOwner s n with | some p => bit (forceOf s R.gseTestAcc) p | none => false
  let old := (subOf s n).vals
  let s := if msgTest m && !acc then s
    else
      let t := upto vals.length s (sinkApply n old vals)
      setSub t n { subOf t n with vals := vals }
  let s := fireEvent s 3 n none none
  if bit (forceOf s (R.drcGseTrig (n / 32))) (n % 32) then drcTrigger s 4 n (s.ltc - m.age) (tickAt s (s.ltc - m.age)) else s

/-- A message accepted for subscription `n` (R434, R435). -/
def subAccept (s : State) (n : Nat) (m : GooseMsg) (auth : Bool) : State :=
  let s := if m.sim && !(subOf s n).simLatch then subLatch s n true else s
  let x := subOf s n
  if isNew x m then subNew s n m auth
  else if m.stNum = x.stNum ∧ newer m.sqNum x.sqNum then
    let s' := subRenew s n m
    if x.state = .valid then s' else recState s' n
  else gseCount s 6

/-! ### Judging a message (R433) -/

/-- The message matches subscription `n`. -/
def subMatch (s : State) (m : GooseMsg) (n : Nat) : Bool :=
  let cfg := forceOf s (R.gsCfg n)
  let id := forceOf s (R.gsId n)
  bit cfg 31 && fld id 31 16 == m.appId.toNat && fld id 7 0 == m.gocbRef.length && crc32 m.gocbRef == forceOf s (R.gsRefCrc n) &&
    bit cfg (if m.process then 27 else 28)

/-- The subscriptions enabled in force, in rising number. -/
def subsOn (s : State) : List Nat :=
  (mtake s.force (R.gsCfg 0) (R.gsCfg 512)).filterMap fun e =>
    if (e.1 - R.gsCfg 0) % 0x20 = 0 ∧ bit e.2 31 then some ((e.1 - R.gsCfg 0) / 0x20) else none

/-- The message authenticates for subscription `n` with the slots in force when its first byte came (R249, R436). -/
def subAuthOk (s : State) (n : Nat) (m : GooseMsg) (first : Nat) : Bool :=
  match m.auth with
  | none => false
  | some x =>
    let k := forceOf s (R.gsKey n)
    let old := decide (first < s.gse.keysTill)
    macOk (fun i => if old then mget [] s.gse.keys (256 + i) else slotKey s 1 i)
      (fun i => if old then (mfind s.gse.keyIds (R.gseKeyId i)).getD (regReset (R.gseKeyId i)) else forceOf s (R.gseKeyId i))
      [fld k 4 0, fld k 12 8] x

/-- An authentication failure (R436, R446). -/
def subAuthFail (s : State) (n : Nat) : State :=
  let s := if evt s (R.gsStat n) 3 then s else subPost s n 1 0x12 n (some 1)
  setEvt (setEvt s (R.gsStat n) 3) R.gseEvt 3

/-- A confRev mismatch (R433, R446). -/
def subConfRev (s : State) (n : Nat) : State :=
  let s := if evt s (R.gsStat n) 2 then s else subPost s n 1 0x14 n (some 2)
  gseCount (setEvt (setEvt s (R.gsStat n) 2) R.gseEvt 4) 3

/-- A matching message is judged for subscription `n` (R433). -/
def subJudge (m : GooseMsg) (first n : Nat) (s : State) : State :=
  let cfg := forceOf s (R.gsCfg n)
  let acc := match subOwner s n with | some p => bit (forceOf s R.gseSimAcc) p | none => false
  let mode := fld cfg 30 29
  let auth := subAuthOk s n m first
  if m.confRev ≠ forceOf s (R.gsConfrev n) then subConfRev s n
  else if (subOf s n).bad || m.members.map (fun e => e.type_.val) != (subOf s n).map.map (fld · 31 28) then
    setEvt (gseCount s 4) R.gseEvt 1
  else
    let s := match m.auth with | some x => if mode ≠ 0 ∧ !x.algOk then gseCount s 7 else s | none => s
    let s := if mode ≠ 0 ∧ !auth then subAuthFail s n else s
    if mode = 1 ∧ !auth then s
    else if (m.sim ∧ !acc) ∨ (acc ∧ (subOf s n).simLatch ∧ !m.sim) then gseCount s 5
    else subAccept s n m (decide (mode ≠ 0) && auth)

/-- A complete receive item of the GSE (R433), none where it is malformed. -/
def gooseFrame (s : State) (m : Option GooseMsg) (first : Nat) : State :=
  let s := gseCount s 0
  match m with
  | none => gseCount s 2
  | some m =>
    match (subsOn s).filter (subMatch s m) with
    | [] => setEvt (gseCount s 1) R.gseEvt 0
    | l => each l s (subJudge m first)

/-- GOOSE_RX (R433): the oldest good receive item of a port is taken; its receive stamp is its arrival (R181). -/
def execGooseRx (m : Fin 4) (s : State) : Host.Outcome State Fault Refusal :=
  .next (
    let r := itemNext s m.val 2
    match r.1 with
    | none => r.2
    | some x => gooseFrame (itemTake r.2 x) (gooseParse x.frame (decide (m.val < 2)) (s.ltc - (x.stamp / 256).toNat)) x.first)

/-- GOOSE_TAL_EXPIRY of subscription `n` (R435, R438): TIMEOUT. -/
def execGooseTalExpiry (n : Fin 512) (s : State) : Host.Outcome State Fault Refusal :=
  .next (
    let x := subOf s n.val
    if x.state = .valid then
      let s := reachLtc s x.expiry
      let s := setEvt (setEvt (setSub s n.val { x with state := .timeout }) (R.gsStat n.val) 1) R.gseEvt 2
      let s := subPost s n.val 0 0x10 n.val (some 1)
      sinkFail (recState s n.val) n.val
    else s)

/-! ### Settings (R435, R450) -/

/-- What gives a subscription its identity. -/
def subIdentity (s : State) (n : Nat) : List Word := [forceOf s (R.gsId n), forceOf s (R.gsRefCrc n), forceOf s (R.gsConfrev n)]

/-- The key slots and identifiers in force before are kept for the messages in progress (R249, R436). -/
def gseKeysOld (s0 s : State) : State :=
  { s with gse := { s.gse with
    keys := mtake s0.trust.slots 256 512
    keyIds := mtake s0.force (R.gseKeyId 0) (R.gseKeyId 32)
    keysTill := s.now } }

/-- A GSE set has entered force; `s0` is the state before. -/
def gseInForce (s0 s : State) : State :=
  let s := gseKeysOld s0 s
  let s := upto 256 s fun p s => if bit (forceOf s (R.gpCfg p)) 31 || (pubOf s p).on then gpDescRead s p else s
  let s := each s.gse.subs s fun e s => if bit (forceOf s (R.gsCfg e.1)) 31 then s else setSub s e.1 {}
  each (subsOn s) s fun n s =>
    let s := if (subOf s n).state = .disabled ∨ subIdentity s0 n ≠ subIdentity s n then subWait s n else s
    let s := subMapRead s n
    if (subOf s n).bad then subWait s n else s

/-- SIM_LATCH clears where the owner's bit has returned to 0 (R241, R435). -/
def gseSim (s : State) : State :=
  each s.gse.subs s fun e s =>
    let acc := match subOwner s e.1 with | some p => bit (forceOf s R.gseSimAcc) p | none => false
    if (subOf s e.1).simLatch && !acc then subLatch s e.1 false else s

/-- The check of a GSE set (R427, R431, R438, R450): cause and offset. -/
def checkGse (ps : PendSet) : Option (Nat × Nat) :=
  let v := pendVal ps.vals
  let pub := (List.range 256).findSome? fun p =>
    let cfg := v (R.gpCfg p)
    let t := v (R.gpTiming p)
    let o := 0x1000 + p * 0x40
    if !bit cfg 31 then none
    else if fld cfg 27 26 = 3 ∨ fld cfg 22 16 = 0 ∨ 64 < fld cfg 22 16 then some (3, o)
    else if fld t 31 16 < 250 ∨ fld t 15 0 < 100 ∨ 60000 < fld t 15 0 then some (3, o + 0x14)
    else if !inShared (fld (v (R.gpRef p)) 31 4 * 16) then some (3, o + 0x18)
    else none
  let sub := (List.range 512).findSome? fun n =>
    let cfg := v (R.gsCfg n)
    let o := 0x6000 + n * 0x20
    if !bit cfg 31 then none
    else if fld cfg 30 29 = 3 ∨ fld cfg 22 16 = 0 ∨ 64 < fld cfg 22 16 then some (3, o)
    else if fld (v (R.gsId n)) 7 0 = 0 ∨ 129 < fld (v (R.gsId n)) 7 0 then some (3, o + 4)
    else if !inShared (fld (v (R.gsMap n)) 31 4 * 16) then some (3, o + 0x10)
    else if !inShared (fld (v (R.gsRec n)) 31 6 * 64) then some (3, o + 0x14)
    else none
  pub.orElse fun _ => sub

/-- The computed registers of the GSE at offset `o`. -/
def readGse (s : State) (o : Nat) : Option Word :=
  if o = 0 then
    some (word ((s.gse.subs.filter fun e => e.2.state = .valid).length * 65536 +
      ((s.gse.pubs.filter fun e => e.2.on && !gpHeld s e.1).length)))
  else if 0x1000 ≤ o ∧ o < 0x5000 then
    let p := (o - 0x1000) / 0x40
    let g := pubOf s p
    match o % 0x40 with
    | 0x1C => some (word ((if !g.on then 0 else if gpHeld s p then 2 else 1) * 2 ^ 30 + g.len % 2048))
    | 0x20 => some g.stNum
    | 0x24 => some g.sqNum
    | _ => none
  else if 0x6000 ≤ o ∧ o < 0xA000 ∧ o % 0x20 = 0x1C then
    let n := (o - 0x6000) / 0x20
    let x := subOf s n
    some (word (subCode x.state * 2 ^ 30 + b2n x.simLatch 29 + b2n x.test 28) ||| (liveOf s (R.gsStat n) &&& 0x1F#32))
  else none

end Sys2Proof.Machine
end

