-- ==== Sys2Proof/Machine/Dsp.lean ====
section
/-! DEFINITION. The formulas of the signal chain in fixed point: the ROM coefficients and the accuracy they meet (R269, R271, R294), the
phasor engine's transform and the responses it divides by (R275-R277), the frequency estimate (R278), the bins of metering (R512). A
complex value is a pair of values, each x / 2¹⁹². -/

namespace Sys2Proof.Machine

/-! ### Rationals -/

/-- A quotient of the SCA's fixed-point arithmetic (R272): exact where it is whole, otherwise one of its neighbours. -/
def roundQ (n : Int) (d : Nat) : Int :=
  if n % d = 0 then n / d else n / d + (if Config.roundUp n d then 1 else 0)

/-- The nearest integer to n/d; a tie goes to either. -/
def nearQ (n : Int) (d : Nat) : Int :=
  if 2 * (n % d) < d then n / d
  else if (d : Int) < 2 * (n % d) then n / d + 1
  else n / d + (if Config.roundUp n d then 1 else 0)

/-- A result of the 48-bit fixed-point arithmetic, in units of 2⁻¹⁶ (R272); one that lies outside the format is a free value of it. -/
def fix48 (n : Int) : Int := if -(2 ^ 47) ≤ n ∧ n < 2 ^ 47 then n else (Config.fixOut n).toInt

/-- The nearest FP32 to n/d. -/
def fpOfRat (n : Int) (d : Nat) : Word :=
  let m := n.natAbs * 2 ^ 192 / max 1 d
  (fpRound (decide (n < 0)) m (-192) (decide (n.natAbs * 2 ^ 192 % max 1 d ≠ 0))).1

/-- An FP32 within one unit in the last place of n/d: the error is free, at most 2⁻²⁴ of the value before the rounding. -/
def fpNear (n : Int) (d : Nat) : Word :=
  fpOfRat (n * (2 ^ 32 + max (-256) (min 256 (Config.fpErr n d)))) (d * 2 ^ 32)

/-- √(n/d), FP32. -/
def rootOf (q d : Nat) : Word := if q = 0 then 0#32 else (fpRoot (q * 2 ^ 192 / max 1 d) (-192)).1

/-- A finite FP32 as a value. -/
def fxOfFp (w : Word) : Int :=
  match Fp.read w with
  | .num sg m e => let v : Int := (m * 2 ^ (e + 192).toNat : Nat); if sg then -v else v
  | _ => 0

/-! ### Complex values -/

def cxMul (a b : Int × Int) : Int × Int := (fxMul a.1 b.1 - fxMul a.2 b.2, fxMul a.1 b.2 + fxMul a.2 b.1)
def cxAdd (a b : Int × Int) : Int × Int := (a.1 + b.1, a.2 + b.2)
def cxScale (k : Int) (a : Int × Int) : Int × Int := (k * a.1, k * a.2)
def cxConj (a : Int × Int) : Int × Int := (a.1, -a.2)
/-- The square of the magnitude, in units of 2⁻³⁸⁴. -/
def cxSq (a : Int × Int) : Nat := (a.1 * a.1 + a.2 * a.2).toNat
def cxSum (l : List (Int × Int)) : Int × Int := l.foldl cxAdd (0, 0)

/-- exp(j·2π·num/den). -/
def fxTurn (num : Int) (den : Nat) : Int × Int :=
  let x := 2 * fxPi * (num % den) / den
  (fxCos x, fxSin x)

/-- The angle of a value, in (−π, π]. -/
def fxAngle (a : Int × Int) : Int :=
  let q : Int := (atanQ a.2.natAbs a.1.natAbs / 2 ^ 256 : Nat)
  let q := if a.1 < 0 then fxPi - q else q
  if a.2 < 0 then -q else q

/-- The root of a natural number as a value. -/
def fxRoot (n : Nat) : Int := (Nat.sqrt (n * 2 ^ 384) : Nat)

/-! ### The ROM coefficients (R269, R271, R294), in units of 2⁻³⁰ -/

/-- A set of stage 1 meets eGDLY and eDLY for phase `p`: at the 65 frequencies that divide the band up to a quarter of the stream
rate equally. -/
def polyMeets (p : Nat) (h : Nat → Int) : Bool :=
  (List.range 65).all fun i =>
    let r := cxSum ((List.range 8).map fun k => cxScale (h k) (fxTurn ((i : Int) * (768 + p - 256 * k)) 65536))
    let d := fxTurn i 128000
    let m := 2000 ^ 2 * cxSq r
    decide (1999 ^ 2 * 2 ^ 444 ≤ m) && decide (m ≤ 2001 ^ 2 * 2 ^ 444) && decide (r.2.natAbs * d.1 ≤ r.1 * d.2)

/-- A polynomial in x / 128. -/
def horner (x : Int) (l : List Int) : Int := l.foldr (fun c n => n * x / 128 + c) 0

/-- A set of stage 1 that meets the accuracy: taps 0 to 3 as polynomials in the phase, the others by symmetry. -/
def polyBase (p i : Nat) : Int :=
  let c : List (List Int) := [[-8022860, 1102048, 9379937, -1286094, -1360555, 184308],
    [44163848, -8674705, -50801553, 9964255, 6650425, -1290915],
    [-155298219, 51447022, 167768639, -55522207, -12489868, 4078688],
    [655771586, -655330906, -126043369, 125485907, 7152753, -7031366]]
  if i < 4 then horner ((p : Int) - 128) (c.getD i []) else horner (128 - (p : Int)) (c.getD (7 - i) [])

/-- Tap `i` of phase `p` of the stage 1 set (R269): free, but for the accuracy of R294. -/
def polyTap (p i : Nat) : Int := if polyMeets p (Config.polyTap p) then Config.polyTap p i else polyBase p i

/-- The amplitude of 48 symmetric taps at n/480 of the stream rate. -/
def romAmp (h : Nat → Int) (n : Nat) : Int :=
  ((List.range 24).map fun (j : Nat) => 2 * h j * (fxTurn ((n : Int) * (47 - 2 * j)) 960).1).foldl (· + ·) 0

/-- Taps of the 3:1 filter meet rDEC and aDEC: at every 480th of the stream rate in the pass band, and in the bands that alias into it. -/
def romMeets (h : Nat → Int) : Bool :=
  ((List.range 65).all fun n =>
    decide (997700 * 2 ^ 222 ≤ 1000000 * romAmp h n) && decide (1000000 * romAmp h n ≤ 1002305 * 2 ^ 222)) &&
  (List.range 129).all fun n => decide (1000 * (romAmp h (96 + n)).natAbs ≤ 2 ^ 222)

/-- Taps of the 3:1 filter that meet the accuracy. -/
def romBase (t : Nat) : Int :=
  ([-812982, -1693157, -379850, 1643161, 3540409, 1298670, -3399676, -6979050, -2963768, 6115732, 12567099, 5851618, -10302085,
    -21561455, -10842131, 17047451, 37085466, 20263373, -29815482, -70586426, -44317019, 69070613, 226019005, 339092546][t]?).getD 0

/-- Tap `t` of the default bank image (R271, R280): free, but for the accuracy of R294. -/
def romTap (t : Nat) : Word :=
  if romMeets fun t => (Config.romTap t).toInt then Config.romTap t else BitVec.ofInt 32 (romBase t)

/-- Tap `i` of a half-band (R271). No 23 taps of this form reach rDEC and aDEC, so they are free. -/
def halfCoef (i : Nat) : Int :=
  let d := if i < 11 then 11 - i else i - 11
  if d = 0 then 2 ^ 29 else if d % 2 = 0 then 0 else Config.halfTap d

/-! ### The phasor engine (R275-R277) -/

/-- What a transform is taken at: f in µHz, f0 in Hz, fs, the release index n, k, TC (0 for a frozen or bypassed blocker), and L of
the SMOOTH mode, or 1. -/
structure PhArgs where
  f : Nat
  f0 : Nat
  fs : Nat
  n : Nat
  k : Nat
  tc : Nat
  l : Nat
  deriving DecidableEq, Repr

/-- The base rate in µHz. -/
def PhArgs.den (a : PhArgs) : Nat := a.fs * 1000000

/-- The fixed delay of a channel (R269, R271, R274), d apart, in 1/12 base sample. -/
def tau12 (k l : Nat) : Nat := 36 / k + (match k with | 1 => 0 | 2 => 66 | 3 => 94 | _ => 99) + 6 * (l - 1)

/-- The weight of sample `i` of a window, in units of 1/f. -/
def winWeight (a : PhArgs) (i : Nat) : Nat := if i < a.den / a.f then a.f else if i = a.den / a.f then a.den % a.f else 0

/-- The mean of a window (R276), newest first: numerator and denominator. -/
def meanOf (a : PhArgs) (l : List Int) : Int × Nat :=
  ((((List.range l.length).zip l).map fun e => (winWeight a e.1 : Int) * e.2).foldl (· + ·) 0, a.den)

/-- The weighted sum of a window at order `h`, its fixed delay taken out (R275). -/
def binSum (a : PhArgs) (h : Nat) (l : List Int) : Int × Int :=
  let turn := fun i : Nat => (h : Int) * (12 * (a.f * i : Int) + a.f * tau12 a.k a.l - 12 * (a.f0 * 1000000 * a.n : Int))
  cxSum (((List.range l.length).zip l).map fun e => cxScale ((winWeight a e.1 : Int) * e.2) (fxTurn (turn e.1) (12 * a.den)))

/-- 1 − z⁻¹ at order `h`. -/
def dcZero (a : PhArgs) (h : Nat) : Int × Int := cxAdd (fxOne, 0) (cxScale (-1) (fxTurn (-(h * a.f : Int)) a.den))
/-- TC − (TC − 1)·z⁻¹ at order `h`. -/
def dcPole (a : PhArgs) (h : Nat) : Int × Int := cxAdd (a.tc * fxOne, 0) (cxScale (1 - (a.tc : Int)) (fxTurn (-(h * a.f : Int)) a.den))
/-- sin(π·h·f·m / fs). -/
def maSin (a : PhArgs) (h m : Nat) : Int := (fxTurn (h * a.f * m) (2 * a.den)).2

/-- |resp(h·f)| < 0.1 (R277). -/
def respLow (a : PhArgs) (h : Nat) : Bool :=
  let dc : Nat × Nat := if a.tc = 0 then (1, 1) else ((a.tc - 1) ^ 2 * cxSq (dcZero a h), cxSq (dcPole a h))
  let ma : Nat × Nat := if a.l = 1 then (1, 1) else ((maSin a h a.l).natAbs ^ 2, (a.l * (maSin a h 1).natAbs) ^ 2)
  decide (100 * dc.1 * ma.1 < dc.2 * ma.2)

/-- A bin of order `h` (R275), of a window in units of 2⁻¹⁶: its real and imaginary part. -/
def binVal (a : PhArgs) (h : Nat) (l : List Int) : Word × Word :=
  let acc := binSum a h l
  let v := if a.tc = 0 then acc else cxMul (cxMul acc (dcPole a h)) (cxConj (dcZero a h))
  let vd := if a.tc = 0 then fxOne else fxMul (a.tc - 1) (cxSq (dcZero a h))
  let m := if a.l = 1 then 1 else a.l * maSin a h 1
  let md := if a.l = 1 then 1 else maSin a h a.l
  let up := fxRoot 2 * m * (if md < 0 then -1 else 1)
  let dn := vd.toNat * md.natAbs * a.den * 2 ^ 208
  (fpNear (v.1 * up) dn, fpNear (v.2 * up) dn)

/-! ### Frequency (R278) -/

/-- The reference of a group from the words of its slots: V, or three times the positive sequence. -/
def refSum (ws : List Word) : Int × Int :=
  let at_ := fun i => (fxOfFp ((ws[2 * i]?).getD 0#32), fxOfFp ((ws[2 * i + 1]?).getD 0#32))
  if ws.length ≤ 2 then at_ 0
  else cxAdd (at_ 0) (cxAdd (cxMul (fxTurn 1 3) (at_ 1)) (cxMul (fxTurn 2 3) (at_ 2)))

/-- |V| ≥ VMIN. -/
def refGe (ws : List Word) (vmin : Nat) : Bool :=
  decide (((if ws.length ≤ 2 then 1 else 3) * vmin * 2 ^ 192) ^ 2 ≤ cxSq (refSum ws))

/-- f_est in µHz, from the references at n and n − NF. -/
def freqEst (f0 fs nf : Nat) (now_ old : List Word) : Nat :=
  let d := -fxWrap (fxAngle (refSum old) - fxAngle (refSum now_))
  (f0 * 1000000 + roundQ (d * (fs * 1000000)) (2 * fxPi * nf).toNat).toNat

/-! ### Metering (R512) -/

/-- DFT bin `b` of the samples of a window, oldest first. -/
def dftBin (b : Nat) (l : List Int) : Int × Int :=
  cxSum (((List.range l.length).zip l).map fun e => cxScale e.2 (fxTurn (-(b * e.1 : Int)) l.length))

/-- The RMS magnitude of a bin of samples in units of 1/u. -/
def dftRms (b u : Nat) (l : List Int) : Word := rootOf (2 * cxSq (dftBin b l)) ((l.length * u) ^ 2 * 2 ^ 384)

/-- N × Q of a window's voltages and currents, oldest first: Im(V · conj I) of the RMS phasors of bin `b`. -/
def dftVar (b : Nat) (v i : List Int) : Int :=
  let p := dftBin b v
  let q := dftBin b i
  roundQ (2 * (p.2 * q.1 - p.1 * q.2)) (max 1 v.length * 2 ^ 384)

end Sys2Proof.Machine
end

