-- ==== Sys2Proof/Machine/Sca.lean ====
section
/-! DEFINITION. The SCA's coefficient banks (R280-R284), settle lengths (R288, R289), frequency states (R279), settings and
registers (R300). The chain of a channel is in `Machine/Chain.lean`. -/

namespace Sys2Proof.Machine

def agOf (s : State) (g : Nat) : AgSt := mget {} s.sca.ags g
def setAg (s : State) (g : Nat) (x : AgSt) : State := { s with sca := { s.sca with ags := mset {} s.sca.ags g x } }
def chOf (s : State) (c : Nat) : ChSt := mget {} s.sca.chs c
def setCh (s : State) (c : Nat) (x : ChSt) : State := { s with sca := { s.sca with chs := mset {} s.sca.chs c x } }
def bankOf (s : State) (b : Nat) : BankSt := mget {} s.sca.banks b
def setBank (s : State) (b : Nat) (x : BankSt) : State := { s with sca := { s.sca with banks := mset {} s.sca.banks b x } }

/-- A notification of the SCA to a group's owner, with a record where `sev` names one (R298). -/
def agPost (s : State) (g cls code : Nat) (sev : Option Nat) : State :=
  let s := match sev with | some v => almPost s v 0x0B code (ownerOf s 2 g) [word g] | none => s
  postOwner s (ownerOf s 2 g) cls 0x0B code g

/-! ### Frequency -/

/-- NOM_F of a group in µHz, and the frequency in use (R279). -/
def nomU (s : State) (g : Nat) : Nat := nomF s g * 1000000
def freqOf (s : State) (g : Nat) : Nat := if (agOf s g).fst_ = .nominal then nomU s g else (agOf s g).freq

/-- The enabled lead contexts' channel slots of a group. -/
def slotsOf (s : State) (g : Nat) : List Nat :=
  (members s g).flatMap fun c => (List.range (slotCount s c)).map fun j => 8 * c + j

/-- A frequency state is entered with `f` in µHz; a step above 0.05 Hz is a stage 5 event (R279, R289). The nominal frequency is no
clamped one. -/
def freqEnter (s : State) (g : Nat) (st : FState) (f : Nat) : State :=
  let old := freqOf s g
  let s := setAg s g { agOf s g with fst_ := st, freq := f, held := 0, clamp := (agOf s g).clamp && decide (st ≠ .nominal) }
  let new := freqOf s g
  if 50000 < (old : Int) - new ∨ 50000 < (new : Int) - old then
    each (slotsOf s g) s fun c s => setCh s c { chOf s c with event := (chOf s c).event ||| 2 }
  else s

/-- A group enters NOMINAL; from HELD its owner is told (R279, R298). -/
def freqToNominal (s : State) (g : Nat) : State :=
  let held := decide ((agOf s g).fst_ = .held)
  let s := freqEnter s g .nominal 0
  if held then agPost s g 1 0x11 (some 2) else s

/-- FREQ_STATE_CHANGE from HELD to NOMINAL after FHOLD_MAX releases (R279). -/
def freqNominal (s : State) (g : Nat) : State := freqToNominal (setEvt s (R.scaAgEvt g) 2) g

/-- A group has been HELD for FHOLD_MAX releases (R279). -/
def freqHoldCheck (s : State) (g : Nat) : State :=
  if (agOf s g).fst_ = .held ∧ fld (forceOf s (R.scaAgLim g)) 31 16 ≤ (agOf s g).held then freqNominal s g else s

/-- A flag-driven freeze has lasted FRZ_MAX releases (R273). -/
def frzLimitCheck (s : State) (g : Nat) : State :=
  let w := forceOf s (R.scaAgFrz g)
  let m := fld (forceOf s (R.scaAgLim g)) 15 0
  let x := agOf s g
  if m ≠ 0 ∧ m ≤ x.frzRun ∧ !x.frzStop then
    let s := setEvt (setAg s g { x with frzStop := bit w 30 && flagState s (fld w 27 16), frzRun := 0, flagOff := none }) (R.scaAgEvt g) 3
    agPost s g 1 0x12 (some 2)
  else s

/-! ### Banks (R280-R284) -/

/-- The default value of a bank entry (R280). -/
def bankDefault (i : Nat) : DWord :=
  if i < 128 then guarded 0x40000000#32 else if i < 256 then guarded 0#32 else guarded (romTap (i - 256))

/-- Entry `i` of a bank: gains 0-127, time constants 128-255, taps 256-279. -/
def bankEnt (x : BankSt) (w : Bool) (i : Nat) : DWord := (mfind (if w then x.bankB else x.bankA) i).getD (bankDefault i)

/-- A value of a bank. -/
def bankVal (x : BankSt) (w : Bool) (i : Nat) : Word := guardedVal (bankEnt x w i)

/-- The bank is marked faulted. -/
def bankFault (x : BankSt) (w : Bool) : Bool := if w then x.faultB else x.faultA

/-- BANK_GUARD_FAULT (R284): once for a bank until it is loaded again. -/
def bankGuard (s : State) (b : Nat) (w : Bool) : State :=
  let s := guardFault s 0x0B
  let x := bankOf s b
  if bankFault x w then s
  else
    let s := setBank s b (if w then { x with faultB := true } else { x with faultA := true })
    let s := setEvt (setEvt s (R.scaGrpEvt b) 3) R.scaEvt 3
    scaNote s 0 0x02 (b2n w 8 + b) (some 1)

/-- The slots of enabled contexts of bank group `b`. -/
def bankSlots (s : State) (b : Nat) : List Nat :=
  ((grpsOn s).flatMap (slotsOf s)).filter fun c => c / 128 == b

/-- A bank is being loaded (R281, R283). -/
def bankLoading (s : State) (b : Nat) (w : Bool) : Bool :=
  match s.sca.load with | some l => l.bg == b && l.bank == w | none => false

/-- The bank in use at once, without a fade (R284): a stage 1 event for its channels. -/
def bankAtOnce (s : State) (b : Nat) (w : Bool) : State :=
  let s := setBank s b { bankOf s b with active := w, fade := none, pend := none }
  each (bankSlots s b) s fun c s => setCh s c { chOf s c with event := (chOf s c).event ||| 1, fade := 0 }

/-- FADE_START (R282). -/
def fadeStart (s : State) (b : Nat) : State :=
  let x := bankOf s b
  let s := setBank s b { x with fade := some (fld (forceOf s (R.scaGrpCfg b)) 8 0), pend := none }
  each (bankSlots s b) s fun c s => setCh s c { chOf s c with fade := 0 }

/-- Bank group `b` turns to bank `w` when it may: at once away from a fault, or by a fade (R282-R284). -/
def bankTurn (s : State) (b : Nat) (w : Bool) : State :=
  let x := bankOf s b
  if w = x.active then setBank s b { x with pend := none }
  else if bankLoading s b w then setBank s b { x with pend := some w }
  else if bankFault x x.active then bankAtOnce s b w
  else fadeStart s b

/-- A request replaces one that is pending (R283). -/
def swapCollide (s : State) (b : Nat) : State :=
  if (bankOf s b).pend.isSome then scaNote (bump (setEvt s (R.scaGrpEvt b) 0) (R.scaGrpCnt b) 15 8 1) 2 0x14 b none else s

/-- A swap request enters force (R282-R284). -/
def swapRequest (s : State) (b : Nat) (w : Bool) : State :=
  let s := swapCollide s b
  let x := bankOf s b
  match x.fade with
  | none => bankTurn s b w
  | some _ => if x.faultA || x.faultB then bankAtOnce s b w else setBank s b { x with pend := some w }

/-- FADE_END (R282, R283): every channel of the bank group has completed the fade. -/
def fadeEnd (s : State) (b : Nat) : State :=
  let x := bankOf s b
  match x.fade with
  | none => s
  | some l =>
    let cs := bankSlots s b
    if cs.any fun c => decide ((chOf s c).fade < l) then s
    else
      let w := !x.active
      let pend := if x.pend = some w then none else x.pend
      let s := setBank s b { x with active := w, fade := none, pend := pend }
      let s := each cs s fun c s => setCh s c { chOf s c with e := (chOf s c).eNew, fade := 0 }
      scaNote (bump (setEvt s (R.scaGrpEvt b) 1) (R.scaGrpCnt b) 7 0 1) 2 0x13 b none

/-- FADE_END (R282). -/
def execFadeEnd (b : Fin 64) (s : State) : Host.Outcome State Fault Refusal := .next (fadeEnd s b.val)

/-- The pending requests start their fades at a meridian (R283). -/
def scaMeridian (s : State) : State :=
  each s.sca.banks s fun e s =>
    let x := bankOf s e.1
    match x.pend, x.fade with
    | some w, none => bankTurn s e.1 w
    | _, _ => s

/-- A bank load ends (R281). -/
def bankEnd (s : State) (err : Nat) : State :=
  setEvt { s with sca := { s.sca with load := none, loadDone := true, loadErr := err } } R.scaEvt (if err = 0 then 1 else 0)

/-- BANK_LOAD (R281): a write of SCA_BANK_LOAD. -/
def execBankLoad (a : Acc) (w : Word) (s : State) : Host.Outcome State Fault Refusal :=
  .next (regAccess s a R.scaBankLoad true fun s =>
    let b := fld w 21 16
    let k := bit w 8
    let src := fld (shadowOf s R.scaBankSrc) 31 6 * 64
    if !bit w 31 then s
    else if s.sca.load.isSome then setEvt { s with sca := { s.sca with loadErr := 1 } } R.scaEvt 0
    else if (bankOf s b).active = k ∨ (bankOf s b).fade.isSome then bankEnd s 2
    else if src < 0x80000000 ∨ 0x81000000 < src + 2304 then bankEnd s 3
    else { s with sca := { s.sca with load := some { bg := b, bank := k, src := src, pid := fld w 28 24 }, loadDone := false, loadErr := 0 } })

/-- The entries of a bank image in memory (R280). -/
def imageEnts (s : State) (src : Nat) : List DWord :=
  (List.range 128).map (fun i => rd64 s (src + 0x40 + i * 16)) ++ (List.range 128).map (fun i => rd64 s (src + 0x48 + i * 16)) ++
    (List.range 24).map fun t => rd64 s (src + 0x840 + t * 8)

/-- The error of a bank image (R281): 0 none, 4 FORMAT, 5 GUARD. -/
def imageErr (s : State) (src : Nat) : Nat :=
  let es := imageEnts s src
  let tc := (es.drop 128).take 128
  if rd32 s src ≠ 0x4C444342#32 ∨ rd16 s (src + 4) ≠ 1 ∨ (rdBytes s (src + 6) 58).any (· ≠ 0#8) then 4
  else if es.any fun e => !guardedOk e then 5
  else if tc.any fun e => decide (65535 < (guardedVal e).toNat) || (decide (1 ≤ (guardedVal e).toNat) && decide ((guardedVal e).toNat ≤ 15)) then 4
  else 0

/-- BANK_LOAD_DONE (R281). -/
def execBankLoadDone (s : State) : Host.Outcome State Fault Refusal :=
  .next (match s.sca.load with
    | none => s
    | some l =>
      let r := dmaAccess s 0x0B (dmaTag s 0x0B (some l.pid)) false l.src 2304
      let s := r.1
      if r.2.isSome then bankEnd s 6
      else
        match imageErr s l.src with
        | 0 =>
          let ents := ((List.range 280).zip (imageEnts s l.src)).filter fun e => e.2 ≠ bankDefault e.1 ∨ 256 ≤ e.1
          let x := bankOf s l.bg
          let s := setBank s l.bg (if l.bank then { x with bankB := ents, faultB := false } else { x with bankA := ents, faultA := false })
          bankEnd (setEvt s (R.scaGrpEvt l.bg) 2) 0
        | e => bankEnd (if e = 5 then guardFault s 0x0B else s) e)

/-! ### Settle lengths (R289), in units of 1/12 base sample -/

/-- The delay limit of a rate (R269). -/
def delayMax (rate : Nat) : Nat := rate * 512 / 1000
/-- The delay in use (R270). -/
def delayOf (cfg : Word) (rate : Nat) : Nat := min (fld cfg 13 0) (delayMax rate)
def c1of (d k : Nat) : Nat := (8 + (d + 255) / 256) * 12 / k
def c2of (k : Nat) : Nat := match k with | 1 => 0 | 2 => 138 | 3 => 192 | _ => 207
def c4of (cfg : Word) : Nat := if fld cfg 31 30 = 1 then (fld cfg 29 20 + 1) * 12 else 0
/-- Whole base samples, rounded up. -/
def up12 (n : Nat) : Nat := (n + 11) / 12
/-- ⌈S(1)⌉, ⌈S(3)⌉ and ⌈S(4)⌉. -/
def settle1 (cfg : Word) (k rate tc : Nat) : Nat := up12 (c1of (delayOf cfg rate) k + c2of k + tc * 36 + c4of cfg)
def settle3 (cfg : Word) (tc : Nat) : Nat := up12 (tc * 36 + c4of cfg)
def settle4 (cfg : Word) : Nat := up12 (c4of cfg)
/-- c5. -/
def settle5 (cfg : Word) (fs f : Nat) : Nat :=
  if bit cfg 18 then (fs * 1000000 + f - 1) / max 1 f + 1 else 0

/-! ### Settings in force, registers, checks -/

/-- A SCA set has entered force; `s0` is the state before (R279, R282, R283). -/
def scaInForce (s0 s : State) : State :=
  let s := upto 64 s fun b s =>
    let w := bit (forceOf s (R.scaGrpCfg b)) 31
    if w = bit (forceOf s0 (R.scaGrpCfg b)) 31 then s else swapRequest s b w
  upto 256 s fun g s =>
    let s := if fld (forceOf s (R.scaAgFrz g)) 27 16 = fld (forceOf s0 (R.scaAgFrz g)) 27 16 then s
      else setAg s g { agOf s g with flagOff := none, frzStop := false }
    let c0 := forceOf s0 (R.scaAgCfg g)
    let c := forceOf s (R.scaAgCfg g)
    let moved := decide (fld c 30 30 ≠ fld c0 30 30) || decide (fld c 25 0 ≠ fld c0 25 0) ||
      decide (fld (forceOf s (R.scaAgRef g)) 12 0 ≠ fld (forceOf s0 (R.scaAgRef g)) 12 0)
    if (moved || !bit c 31) && decide ((agOf s g).fst_ ≠ .nominal) then
      let s := freqToNominal s g
      setAg s g { agOf s g with usable := 0 }
    else if moved then setAg s g { agOf s g with usable := 0 } else s

/-- DEPTH of the sample store (R290). -/
def smpD (s : State) : Nat := 16 * 2 ^ fld (forceOf s R.scaSmpBase) 1 0

/-- Two areas meet. -/
def meets (a n b m : Nat) : Bool := decide (a < b + m) && decide (b < a + n)

/-- The check of the store's areas (R290). -/
def checkStore (v : Nat → Word) : Option (Nat × Nat) :=
  let w := v R.scaSmpBase
  let a := fld w 31 16 * 65536
  let n := 8192 * 8 * 16 * 2 ^ fld w 1 0
  let b := fld (v R.scaPhBase) 31 16 * 65536
  let c := fld (v R.scaAgBase) 31 16 * 65536
  let inside := fun x m => decide (0x80000000 ≤ x) && decide (x + m ≤ 0x81000000)
  if fld w 1 0 = 3 ∨ !inside a n then some (3, 0x10)
  else if !inside b 0x200000 then some (3, 0x14)
  else if !inside c 0x10000 then some (3, 0x18)
  else if meets a n b 0x200000 then some (2, 0x14)
  else if meets a n c 0x10000 ∨ meets b 0x200000 c 0x10000 then some (2, 0x18)
  else none

/-- The check of a SCA set (R270, R273, R274, R276, R278, R282, R290): cause and offset. -/
def checkSca (s : State) (ps : PendSet) : Option (Nat × Nat) :=
  let v := pendVal ps.vals
  let fade := (List.range 64).findSome? fun b =>
    let n := fld (v (R.scaGrpCfg b)) 8 0
    if n = 0 ∨ 256 < n then some (3, 0x1000 + b * 0x10) else none
  let grp := (List.range 256).findSome? fun g =>
    let c := v (R.scaAgCfg g)
    let f := v (R.scaAgFrz g)
    let ok := fun r => bit (ctxCfg s (r / 8)) 31 && ctxGrp s (r / 8) == g
    if bit c 31 ∧ (!ok (fld c 12 0) ∨ (bit c 30 ∧ (!ok (fld c 25 13) ∨ !ok (fld (v (R.scaAgRef g)) 12 0)))) then some (2, 0x2000 + g * 0x20)
    else if bit f 30 ∧ ((ownerOf s 4 (fld f 27 16 / 64)).isNone ∨ ownerOf s 4 (fld f 27 16 / 64) ≠ ownerOf s 2 g) then some (4, 0x2008 + g * 0x20)
    else none
  let ch := (mtake ps.vals 0x2000000000 0x2000040000).findSome? fun e =>
    let c := (e.1 - 0x2000000000) / 0x20
    let o := 0x8000 + c % 512 * 0x20
    if e.1 % 0x20 = 0 then
      (if fld e.2 31 30 = 3 ∨ delayMax (smpRate (fld (ctxCfg s (leadOf s (c / 8))) 6 4)) < fld e.2 13 0 then some (3, o) else none)
    else if e.1 % 0x20 = 4 then
      (if 40 < fld e.2 5 0 ∨ 40 < fld e.2 13 8 ∨ 40 < fld e.2 21 16 then some (3, o + 4) else none)
    else none
  (checkStore v).orElse fun _ => fade.orElse fun _ => grp.orElse fun _ => ch

/-- GDELAY (R289), in 1/16 base sample. -/
def gDelay (cfg : Word) (k rate : Nat) : Nat :=
  let d := delayOf cfg rate
  let l := if fld cfg 31 30 = 1 then fld cfg 29 20 else 0
  ((768 + d) * 3 + (match k with | 1 => 0 | 2 => 8448 | 3 => 18048 | _ => 25344) + 48 * k * 8 * l) / (48 * k)

def fstCode : FState → Nat
  | .nominal => 0 | .tracking => 1 | .held => 2

/-- The bank a channel's chain runs on (R282): the new one once its own fade is complete. -/
def chBank (b : BankSt) (x : ChSt) : Bool :=
  match b.fade with | some n => if n ≤ x.fade then !b.active else b.active | none => b.active

/-- Word `o` of the channel map for slot `c` (R300). SCA_CH_INFO reads 0 while the slot has no chain in force. -/
def readCh (s : State) (c o : Nat) : Option Word :=
  let x := chOf s c
  let b := bankOf s (c / 128)
  let l := leadOf s (c / 8)
  let cfg := forceOf s (R.scaChCfg c)
  match o with
  | 0x08 =>
    let fading := match b.fade with | some n => decide (x.fade < n) | none => false
    some (word (b2n x.frozen 31 + b2n fading 30 + b2n (chBank b x) 29 + b2n x.clamped 28 + x.smpLeft % 2 ^ 18))
  | 0x0C => some (word (x.phLeft % 2 ^ 18))
  | 0x10 =>
    let tc := fld (bankVal b (chBank b x) (128 + c % 128)) 15 0
    let n := settle1 cfg (ctxK s l) (ctxRate s l) tc + settle5 cfg (fsOf s) (freqOf s (ctxGrp s l))
    some (if bit (ctxCfg s (c / 8)) 31 then word (gDelay cfg (ctxK s l) (ctxRate s l) % 2 ^ 14 * 2 ^ 18 + n % 2 ^ 18) else 0#32)
  | _ => none

/-- The computed registers of the SCA at offset `o` (R300). -/
def readSca (s : State) (o : Nat) : Option Word :=
  if o = 0 then some (word (s.sca.q.items.length * 65536 + b2n (!s.sca.q.items.isEmpty) 0))
  else if o = 0x28 then some (word (b2n s.sca.load.isSome 31 + b2n s.sca.loadDone 30 + s.sca.loadErr * 256))
  else if 0x1000 ≤ o ∧ o < 0x1400 ∧ o % 0x10 = 4 then
    let x := bankOf s ((o - 0x1000) / 0x10)
    let pos := match x.fade with
      | some n => ((bankSlots s ((o - 0x1000) / 0x10)).map fun c => (chOf s c).fade).foldl min n
      | none => 0
    some (word (b2n x.active 31 + b2n x.fade.isSome 30 + b2n x.pend.isSome 29 + b2n (x.pend = some true) 28 + b2n x.faultA 27 + b2n x.faultB 26 + pos))
  else if 0x2000 ≤ o ∧ o < 0x4000 ∧ (o % 0x20 = 0x10 ∨ o % 0x20 = 0x14) then
    let g := (o - 0x2000) / 0x20
    let x := agOf s g
    if o % 0x20 = 0x10 then
      some (word (fstCode x.fst_ * 2 ^ 30 + b2n x.frozen 29 + b2n x.clamp 28 + (match x.last with | some t => t % fsOf s | none => 0)))
    else some (word (if x.freq = 0 ∧ x.last.isNone then 0 else freqOf s g))
  else none

end Sys2Proof.Machine
end

