-- ==== Sys2Proof/Machine/DrcRow.lean ====
section
/-! DEFINITION. The recorder's rows (R475-R478), its enable (R479, R480, R484), the analogue trigger units (R487, R488), its
commit check and computed registers (R506); the almanac's firmware interface (R497, R499, R507). -/

namespace Sys2Proof.Machine

/-! ### Channels and rows -/

/-- Entry `c` of the channel list: its slot and KIND (R476). -/
def drcSlot (s : State) (c : Nat) : Nat := fld (shadowOf s (R.drcCh c)) 12 0
def drcKind (s : State) (c : Nat) : Nat := fld (shadowOf s (R.drcCh c)) 16 16
/-- The lead context of an entry's slot. -/
def drcCtx (s : State) (c : Nat) : Nat := leadOf s (drcSlot s c / 8)
/-- The entries of the list. -/
def drcNch (s : State) : Nat := (shadowOf s R.drcNch).toNat

/-- k of an entry under the settings in force (R476); 0 for a KIND 1 entry whose context is disabled. -/
def drcK (s : State) (c : Nat) : Nat :=
  if drcKind s c = 0 then 1
  else if bit (ctxCfg s (drcCtx s c)) 31 then ctxK s (drcCtx s c) else 0

/-- The flag pages recorded, in rising order. -/
def drcPages (s : State) : List Nat :=
  (List.range 64).filter fun q =>
    if q < 32 then bit (shadowOf s R.drcFlagpgLo) q else bit (shadowOf s R.drcFlagpgHi) (q - 32)

/-- ROW_BYTES for the channels' factors (R475). -/
def rowLen (s : State) (ks : List Nat) : Nat :=
  (16 + 8 * ks.foldl (· + ·) 0 + 8 + 8 * (drcPages s).length + 63) / 64 * 64

/-- A value and quality word that the recorder reads; a refused read gives zeros (R478). -/
def drcRead (s : State) (a : Nat) : List Word × State :=
  let r := drcBytes s a 8
  ([bytesWord r.1 0, bytesWord r.1 1], r.2)

/-- Where entry `c` stands for release tick `t`: its places (R232, R290, R476). -/
def drcAddrs (s : State) (c t k : Nat) : List Nat :=
  let ch := drcSlot s c
  if drcKind s c = 0 then [fld (forceOf s R.scaSmpBase) 31 16 * 65536 + ch * 8 * smpD s + t % smpD s * 8]
  else (List.range k).map fun i => sbAddr s (drcCtx s c) (ch - 8 * drcCtx s c) (k * (t - 1) + 1 + i)

/-- The group of an entry's context takes part (R477). -/
def drcGrpOn (s : State) (c : Nat) : Bool :=
  bit (ctxCfg s (drcCtx s c)) 31 && (grpOf s (ctxGrp s (drcCtx s c))).on

/-- The entry holds up the row of tick `t` until its group has released it (R477). -/
def drcWaits (s : State) (c t : Nat) : Bool :=
  drcGrpOn s c && drcK s c == (s.drc.ks[c]?).getD 1 &&
    (match (agOf s (ctxGrp s (drcCtx s c))).last with | some l => decide (l < t) | none => true)

/-- The words of entry `c` of a row, the values written as zeros, and the state (R475, R477). -/
def rowEntry (t : Nat) (acc : List Word × Nat × State) (c : Nat) : List Word × Nat × State :=
  let s := acc.2.2
  let k := (s.drc.ks[c]?).getD 1
  if !drcGrpOn s c || drcK s c != k then
    let s := if drcGrpOn s c then setEvt s R.drcEvt 4 else s
    (acc.1 ++ List.replicate (2 * k) 0#32, acc.2.1 + k, s)
  else
    let r := (drcAddrs s c t k).foldl (fun (ws, s) a => let x := drcRead s a; (ws ++ x.1, x.2)) (([] : List Word), s)
    (acc.1 ++ r.1, acc.2.1, r.2)

/-- The bytes of a row (R475). -/
def rowBytes (s : State) (r : RowSnap) : List Byte × State :=
  let x := (List.range (drcNch s)).foldl (rowEntry r.tick) ([], 0, s)
  let b := wordsBytes ([word r.tick, word (x.2.1 % 65536), word (nsOf r.mer), word (secOf r.mer)] ++ x.1 ++ [r.bi, 0#32] ++ r.flags)
  (b ++ List.replicate (s.drc.rowBytes - b.length) 0#8, x.2.2)

/-- A row enters the pre-trigger area, which is circular (R481). -/
def rowPre (s : State) (g : Nat) (b : List Byte) : State :=
  let pre := (shadowOf s R.drcPre).toNat
  let x := segOf s g
  if pre = 0 then s
  else
    let s := drcWrite s (preAddr s g ((x.firstRow + x.preRec) % pre)) b
    setSeg s g (if x.preRec < pre then { x with preRec := x.preRec + 1 } else { x with firstRow := (x.firstRow + 1) % pre })

/-- A row enters the post-trigger area; the last one closes the segment (R482, R483). -/
def rowPost (s : State) (g : Nat) (b : List Byte) : State :=
  let x := segOf s g
  let s := setSeg (drcWrite s (postAddr s g x.postRec) b) g { x with postRec := x.postRec + 1 }
  if (shadowOf s R.drcPost).toNat ≤ x.postRec + 1 then drcClose s g else s

/-- The tick of a row is the trigger row or a later one. -/
def rowLate (r : RowSnap) (x : Seg) : Bool := decide (((word r.tick).toNat + 2 ^ 32 - x.trigRow) % 2 ^ 32 < 2 ^ 31)

/-- A row is written into the current segment; with none, it is discarded (R481-R483). -/
def rowStore (s : State) (r : RowSnap) : State :=
  match s.drc.cur with
  | none => s
  | some g =>
    let b := rowBytes s r
    match (segOf s g).state with
    | .armed => rowPre b.2 g b.1
    | .recording => if rowLate r (segOf s g) then rowPost b.2 g b.1 else rowPre b.2 g b.1
    | _ => b.2

/-- The pointers of the row assembly are compared (R501), then move on. -/
def drcCheckPtr (s : State) : State := if qOk s.drc.rowPtr then s else drcPtrReset s

/-- DRC_ROW_WRITE (R477): the oldest row is written when every recorded channel's group has released its index. -/
def execDrcRowWrite (s : State) : Host.Outcome State Fault Refusal :=
  .next (match s.drc.rows with
    | r :: t =>
      if (List.range (drcNch s)).any fun c => drcWaits s c r.tick then s
      else
        let s := drcCheckPtr s
        let s := rowStore { s with drc := { s.drc with rows := t } } r
        let q := s.drc.rowPtr
        { s with drc := { s.drc with rowPtr := { q with rd := (q.rd + 1) % 4096, rdC := (q.rd + 1) % 4096, wr := (q.wr + 1) % 4096, wrC := (q.wr + 1) % 4096 } } }
    | [] => s)

/-- The flags of a page, low word first. -/
def pageWords (s : State) (q : Nat) : List Word :=
  [0, 32].map fun o => word ((List.range 32).foldl (fun n i => n + b2n (flagState s (64 * q + o + i)) i) 0)

/-- A meridian ends tick `t`, which began at the LTC `mer` (R475): its row waits to be written. -/
def drcMeridian (s : State) (t mer : Nat) (bi : Word) : State :=
  if s.drc.on then
    { s with drc := { s.drc with rows := s.drc.rows ++ [{ tick := t, mer := mer, bi := bi, flags := (drcPages s).flatMap (pageWords s) }] } }
  else s

/-! ### Enable and disable (R479, R480, R484) -/

/-- An enable is refused (R480). -/
def drcBad (s : State) (ks : List Nat) : Bool :=
  let pre := (shadowOf s R.drcPre).toNat
  let post := (shadowOf s R.drcPost).toNat
  decide (slotSize (fld (shadowOf s R.drcCfg) 11 0 + 1) < 256 + (pre + post) * rowLen s ks) || post == 0 || decide (48000 < pre) ||
    decide (480000 < post) || decide (1024 < drcNch s) ||
    (List.range (drcNch s)).any fun c => shadowOf s (R.drcCh c) &&& 0xFFFEE000#32 != 0#32

/-- Every segment is FREE (R480). -/
def drcFreeAll (s : State) : State :=
  let s := each s.drc.segs s fun e s => if e.2.state = .free then s else drcWrite s (segAddr s e.1 + 8) (wordsBytes [0#32])
  { s with drc := { s.drc with segs := [] } }

/-- DRC_CTRL.EN written 1. -/
def drcEnable (s : State) : State :=
  if s.drc.on then s
  else
    let ks := (List.range (min 1025 (drcNch s))).map (drcK s)
    if drcBad s ks then setEvt s R.drcEvt 0
    else
      let n := fld (shadowOf s R.drcCfg) 11 0 + 1
      let s := if s.drc.segN ≠ n then drcFreeAll s else s
      let s := setShadow s R.drcCtrl 1#32
      let s := { s with drc := { s.drc with on := true, ks := ks, rowBytes := rowLen s ks, segN := n, rows := [], enNum := s.drc.enNum + 1, listCrc := listCrcOf s } }
      drcArm s

/-- DRC_CTRL.EN written 0 (R484). -/
def drcDisable (s : State) : State :=
  let s := setShadow s R.drcCtrl 0#32
  let s := match s.drc.cur with
    | some i =>
      if (segOf s i).state = SegState.recording then drcHeader (setSeg s i { segOf s i with state := .aborted }) i
      else if (segOf s i).state = SegState.armed then drcWrite (setSeg s i { segOf s i with state := .free }) (segAddr s i + 8) (wordsBytes [0#32])
      else s
    | none => s
  { s with drc := { s.drc with on := false, cur := none, rows := [] } }

/-- DRC_ENABLE (R480). -/
def execDrcEnable (a : Acc) (s : State) : Host.Outcome State Fault Refusal :=
  .next (regAccess s a R.drcCtrl true drcEnable)

/-- DRC_DISABLE (R484). -/
def execDrcDisable (a : Acc) (s : State) : Host.Outcome State Fault Refusal :=
  .next (regAccess s a R.drcCtrl true drcDisable)

/-! ### Analogue trigger units (R487, R488) -/

def atuOf (s : State) (u : Nat) : Atu := mget {} s.drc.atus u
def setAtu (s : State) (u : Nat) (x : Atu) : State := { s with drc := { s.drc with atus := mset {} s.drc.atus u x } }

/-- The instant of a value of entry `c` for release tick `t`, as a fraction of ns (R488). -/
def atuTime (s : State) (c t : Nat) : Int × Nat :=
  let l := drcCtx s c
  if drcKind s c = 0 then
    ((16 * t - (gDelay (forceOf s (R.scaChCfg (drcSlot s c))) (ctxK s l) (ctxRate s l) : Int)) * 1000000000, 16 * fsOf s)
  else (((ctxK s l * (t - 1) + 1 : Nat) : Int) * 1000000000, ctxRate s l)

/-- The nearest integer to a fraction of positive denominator. -/
def nearRat (n d : Int) : Int := (2 * n + d) / (2 * d)

/-- The time of a crossing of `thr` between two values and their instants (R488). -/
def crossTime (q0 q1 thr t0 t1 : Int) (den : Nat) : Int :=
  let n := t0 * (q1 - q0) + (thr - q0) * (t1 - t0)
  let d := den * (q1 - q0)
  if d < 0 then nearRat (-n) (-d) else nearRat n d

/-- q of a value (R487): `x0` is the value before. -/
def atuQ (ty : Nat) (x : Int) (x0 : Option Int) : Option Int :=
  match ty with
  | 0 => some (x.natAbs : Int)
  | 3 => x0.map fun p => ((x - p).natAbs : Int)
  | _ => some x

/-- The value of entry `c` for release tick `t`, where it may be compared: VALID = 1 and UNSETTLED = 0; a refused read gives 0. -/
def atuValue (s : State) (c t : Nat) : Option Int × State :=
  match drcAddrs s c t (drcK s c) with
  | a :: _ =>
    let r := dmaRead s 0x13 (dmaTag s 0x13 none) a 8
    let q := bytesWord r.1 1
    (if bit q 31 && !bit q 24 then some (bytesWord r.1 0).toInt else none, r.2)
  | [] => (none, s)

/-- Unit `u` compares two consecutive values, q0 and q1: it fires, or re-arms (R487, R488). -/
def atuCompare (s : State) (u c t : Nat) (q0 q1 : Int) : State :=
  let ty := fld (forceOf s (R.atuCfg u)) 29 28
  let thr := (forceOf s (R.atuThr u)).toInt
  let h : Int := fld (forceOf s (R.atuHyst u)) 30 0
  let x := atuOf s u
  let fire := if ty = 2 then decide (thr < q0) && decide (q1 ≤ thr) else decide (q0 < thr) && decide (thr ≤ q1)
  let back := if ty = 2 then decide (thr + h < q1) else decide (q1 < thr - h)
  if fire && x.armed then
    let s := bump (setAtu s u { x with armed := false }) (R.atuCnt u) 15 0 1
    drcTrigger s 1 u (crossTime q0 q1 thr (atuTime s c (t - 1)).1 (atuTime s c t).1 (atuTime s c t).2).toNat (word t)
  else if back then setAtu s u { x with armed := true }
  else s

/-- Unit `u` takes the value of its entry for a release of tick `t`; a value that may not be compared leaves it as it is, but
the values on either side of it are not consecutive. -/
def atuStep (s : State) (u t : Nat) : State :=
  let c := fld (forceOf s (R.atuCfg u)) 9 0
  let r := atuValue s c t
  let s := r.2
  match r.1 with
  | none => setAtu s u { atuOf s u with last := none, lastX := none }
  | some v =>
    let x := atuOf s u
    let cons := match x.last with | some (_, n) => n + 1 == t | none => false
    let q := atuQ (fld (forceOf s (R.atuCfg u)) 29 28) v (if cons then x.lastX else none)
    let s' := match x.last, q with
      | some (q0, _), some q1 => if cons then atuCompare s u c t q0 q1 else s
      | _, _ => s
    setAtu s' u { atuOf s' u with last := q.map fun q => (q, t), lastX := some v }

/-- The analogue trigger units of a release of group `g` (R486, R487), in rising order. -/
def atuRelease (s : State) (g t : Nat) : State :=
  if !s.drc.on then s
  else
    upto 64 s fun u s =>
      let cfg := forceOf s (R.atuCfg u)
      if bit cfg 31 && decide (fld cfg 9 0 < drcNch s) && drcGrpOn s (fld cfg 9 0) && ctxGrp s (drcCtx s (fld cfg 9 0)) == g
      then atuStep s u t else s

/-! ### Commits and registers -/

/-- A DRC set has entered force: the units it wrote re-arm (R487, R502). -/
def drcInForce (s : State) (written : List Nat) : State :=
  upto 64 s fun u s =>
    if written.any fun a => decide (R.atuCfg u ≤ a) && decide (a < R.atuCfg u + 0xC) then setAtu s u {} else s

/-- The check of a DRC set (R490, R506). -/
def checkDrc (s : State) (ps : PendSet) : Option (Nat × Nat) :=
  let v := pendVal ps.vals
  if fld (v R.drcHold) 31 30 = 3 then some (3, 0x30)
  else
    match (List.range 64).find? fun u => bit (v (R.atuCfg u)) 31 && decide (drcNch s ≤ fld (v (R.atuCfg u)) 9 0) with
    | some u => some (2, 0x2000 + u * 0x10)
    | none => ((List.range 64).find? fun u => bit (v (R.drcFtu u)) 31 && fld (v (R.drcFtu u)) 29 28 == 3).map fun u => (3, 0x3000 + u * 4)

/-- The computed registers of the DRC at offset `o`. -/
def readDrc (s : State) (o : Nat) : Option Word :=
  let sel := segOf s (fld (shadowOf s R.drcSegSel) 11 0)
  match o with
  | 0x08 =>
    let n := (s.drc.segs.filter fun e => e.2.state = .closed ∨ e.2.state = .aborted).length
    some (word ((match s.drc.cur with | some i => segCode (segOf s i).state * 2 ^ 29 + i * 65536 | none => 0) + n))
  | 0x2C => some (word (s.drc.rowBytes % 65536))
  | 0x48 => some (word (segCode sel.state * 2 ^ 29 + b2n sel.claimed 28 + min 65535 sel.trigCount))
  | 0x4C => some (word sel.recNum)
  | 0x50 => some (word s.drc.enNum)
  | 0x54 => some s.drc.listCrc
  | _ => none

/-! ### The almanac's registers (R497, R499, R507) -/

/-- The key of core `k`'s ALM_POST register at offset `o` from ALM_POST_HDR (R497). -/
def postKey (k o : Nat) : Nat := 0x2200000000 + k * 0x40 + o

/-- ALM_POST_GO (R497): a firmware post; CRITICAL is refused to the non-secure world. -/
def execAlmPostGo (a : Acc) (s : State) : Host.Outcome State Fault Refusal :=
  .next (regAccess s a R.almPostGo true fun s =>
    let h := shadowOf s (postKey a.core.val 0)
    let sev := fld h 31 30
    if sev = 0 ∧ !a.secure then setEvt s R.almEvt 6
    else almPost s sev (if a.secure then 0x21 else 0x20) (fld h 15 8) (if bit h 7 then some (fld h 4 0) else none)
      ((List.range 6).map fun i => shadowOf s (postKey a.core.val (4 + 4 * i))))

/-- ALM_RECORD_WRITE (R496). -/
def execAlmRecordWrite (s : State) : Host.Outcome State Fault Refusal := .next (almRecordWrite s)

/-- ALM_SEEK (R499): a write of ALM_CUR_SEQ. -/
def execAlmSeek (a : Acc) (w : Word) (s : State) : Host.Outcome State Fault Refusal :=
  .next (regAccess s a R.almCurSeq true fun s =>
    let s := setShadow s R.almCurSeq w
    { s with alm := { s.alm with found := almFind s w } })

/-- The slot the window shows (R499). -/
def almShown (s : State) : Option Nat :=
  let c := shadowOf s R.almCursor
  if bit c 31 then s.alm.found else some (fld c 15 0)

/-- The computed registers of the ALM at offset `o`. -/
def readAlm (s : State) (o : Nat) : Option Word :=
  if o = 0 then
    let n := (almValid s).length
    some (word (b2n (n == 65536) 31 + b2n s.alm.scanning 30 + n))
  else if o = 0x18 then
    match almShown s with
    | some i => some (word (b2n (bit (shadowOf s R.almCursor) 31) 31 + i))
    | none => some 0#32
  else if o = 0x1C then some s.alm.seqNext
  else if o = 0x20 then
    some (match lowestSeq s (almValid s) with | some i => slotWord s i 2 | none => 0#32)
  else if o = 0x2C then some (liveOf s R.almTorn)
  else if o = 0x30 then some (word s.alm.posts.items.length)
  else if 0x100 ≤ o ∧ o < 0x140 then
    some (match almShown s with | some i => slotWord s i ((o - 0x100) / 4) | none => 0#32)
  else none

end Sys2Proof.Machine
end

