-- ==== Sys2Proof/Machine/Mtr.lean ====
section
/-! DEFINITION. Metering (R508-R531): windows, results, accumulators, checkpoints and their restore, pulse outputs. -/

namespace Sys2Proof.Machine

def mpOf (s : State) (p : Nat) : MPoint := mget {} s.mtr.points p
def setMp (s : State) (p : Nat) (x : MPoint) : State := { s with mtr := { s.mtr with points := mset {} s.mtr.points p x } }
def pulOf (s : State) (n : Nat) : Pulse := mget {} s.mtr.pulses n
def setPul (s : State) (n : Nat) (x : Pulse) : State := { s with mtr := { s.mtr with pulses := mset {} s.mtr.pulses n x } }

/-- A notification of the MTR, with a record where `sev` names one (R528). -/
def mtrNote (s : State) (cls code info : Nat) (sev : Option Nat) (words : List Word) : State :=
  let s := match sev with | some v => almPost s v 0x15 code none words | none => s
  notifyAll s (forceOf s R.mtrNotify) cls 0x15 code (info % 65536)

/-! ### Settings (R509, R510) -/

def mpCfg (s : State) (p : Nat) : Word := shadowOf s (R.mpCfg p)
/-- Elements of a wiring (R509). -/
def mpElems (cfg : Word) : Nat := match fld cfg 19 18 with | 0 => 3 | 1 => 2 | _ => 1
/-- The slots a point reads: voltages, then currents. -/
def mpSlots (s : State) (p : Nat) : List Nat :=
  let w := shadowOf s (R.mpSlots p)
  let n := mpElems (mpCfg s p)
  (List.range n).map (fld w 28 16 + ·) ++ (List.range n).map (fld w 12 0 + ·)
/-- SRC 1: the stream buffer. -/
def mpStream (s : State) (p : Nat) : Bool := bit (mpCfg s p) 17
/-- The lead context of a slot. -/
def slotCtx (s : State) (ch : Nat) : Nat := leadOf s (ch / 8)
/-- The lead context of a point's first voltage. -/
def mpCtx (s : State) (p : Nat) : Nat := slotCtx s ((mpSlots s p).headD 0)
def mpGrp (s : State) (p : Nat) : Nat := ctxGrp s (mpCtx s p)
/-- Samples a second (R509). -/
def mpRate (s : State) (p : Nat) : Nat := if mpStream s p then ctxRate s (mpCtx s p) else fsOf s
/-- H_MAX (R509). -/
def mpHmax (s : State) (p : Nat) : Nat := if mpStream s p ∧ mpRate s p = 14400 then 63 else 40
/-- N_CYC (R511). -/
def mpCyc (s : State) (p : Nat) : Nat := if nomF s (mpGrp s p) = 60 then 12 else 10
/-- M (R517). -/
def mpMod (s : State) (p : Nat) : Nat := 10 ^ fld (mpCfg s p) 28 24

/-- The results area's base (R515); 0 is none. -/
def resBase (lo hi : Word) : Nat := fld lo 31 19 * 2 ^ 19 + fld hi 2 0 * 2 ^ 32
def mtrBase (s : State) : Nat := resBase (forceOf s R.mtrResBaseLo) (forceOf s R.mtrResBaseHi)
/-- 512 KiB from `a` lie in DRAM outside the dump region. -/
def resOk (a : Nat) : Bool := decide (0x100000000 ≤ a) && decide (a + 0x80000 ≤ 0x4FC000000)

/-- An enable of point `p` is refused (R510). -/
def mpBad (s : State) (p : Nat) : Bool :=
  let cfg := mpCfg s p
  let l := mpSlots s p
  fld cfg 19 18 == 3 || decide (fld cfg 28 24 < 6) || decide (19 < fld cfg 28 24) || l.any (fun c => decide (8191 < c)) ||
    l.any (fun c => !bit (ctxCfg s (slotCtx s c)) 31 || ctxGrp s (slotCtx s c) != mpGrp s p) ||
    (mpStream s p && l.any fun c => ctxRate s (slotCtx s c) != mpRate s p) || !resOk (mtrBase s)

/-- MP_CTRL.EN written 1. -/
def mpEnable (s : State) (p : Nat) : State :=
  if (mpOf s p).on then s
  else if mpBad s p then mtrNote (setEvt s R.mtrEvt 0) 1 0x13 p none []
  else setShadow (setMp s p { mpOf s p with on := true, win := none, full := [] }) (R.mpCtrl p) 1#32

/-- MP_CTRL.EN written 0: the accumulators stay (R519). -/
def mpDisable (s : State) (p : Nat) : State :=
  setShadow (setMp s p { mpOf s p with on := false, win := none, full := [] }) (R.mpCtrl p) 0#32

/-- METER_POINT_ENABLE (R510). -/
def execMeterPointEnable (a : Acc) (p : Fin 256) (s : State) : Host.Outcome State Fault Refusal :=
  .next (regAccess s a (R.mpCtrl p.val) true fun s => mpEnable s p.val)

/-! ### Pulses (R525, R526) -/

/-- Output `n` is enabled in force. -/
def pulOn (s : State) (n : Nat) : Bool := bit (forceOf s (R.pulCfg n)) 31

/-- An output that is disabled, or whose module is not lane master, holds nothing (R526). -/
def pulseHold (s : State) : State :=
  upto 4 s fun n s =>
    if pulOn s n && laneMaster s then s else setPul s n { pulOf s n with residue := 0, backlog := 0, onTill := 0 }

/-- Output `n` takes an increase of its accumulator (R525). -/
def pulseAdd (s : State) (n de : Nat) : State :=
  let w := max 1 (forceOf s (R.pulWeight n)).toNat
  let x := pulOf s n
  let k := (x.residue + de) / w
  let room := 65535 - x.backlog
  let s := setPul s n { x with residue := (x.residue + de) % w, backlog := x.backlog + min k room }
  if k ≤ room then s
  else
    let s := setLive s (R.pulSpill n) (word (satAdd 0xFFFFFFFF (liveOf s (R.pulSpill n)).toNat (k - room)))
    if evt s R.mtrEvt 2 then s else mtrNote (setEvt s R.mtrEvt 2) 1 0x12 n (some 2) [word n]

/-- PULSE_PERIOD of output `n` (R525, R526). -/
def execPulsePeriod (n : Fin 4) (s : State) : Host.Outcome State Fault Refusal :=
  .next (
    if !pulOn s n.val then s
    else
      let x := pulOf s n.val
      let s := reach s x.next
      let t := forceOf s (R.pulTime n.val)
      let s := pulseHold (setPul s n.val { x with next := x.next + (fld t 25 16 + fld t 9 0) * 1000000 })
      let x := pulOf s n.val
      if x.backlog = 0 then s
      else setPul s n.val { x with backlog := x.backlog - 1, onTill := s.now + fld t 25 16 * 1000000 })

/-! ### Accumulators (R516, R517) -/

/-- Fractions of a unit are counted in 1/(288000 × 360000) of it, in which every rate's energies are whole. -/
def fracUnit : Nat := 288000 * 360000

/-- `x` fractions are added to accumulator `a` of point `p`; the outputs that follow it take the increase. -/
def accAdd (s : State) (p a x : Nat) : State :=
  let m := mpOf s p
  let f := mget 0 m.frac a + x
  let de := f / fracUnit
  let v := mget 0 m.acc a + de
  let s := setMp s p { m with
    frac := mset 0 m.frac a (f % fracUnit), acc := mset 0 m.acc a (v % mpMod s p), wrap := mset 0 m.wrap a ((mget 0 m.wrap a + v / mpMod s p) % 256) }
  upto 4 s fun n s =>
    let c := forceOf s (R.pulCfg n)
    if bit c 31 && fld c 7 0 == p && fld c 26 24 == a then pulseAdd s n de else s

/-- The accumulator of a reactive energy's quadrant. -/
def quadrant (p q : Int) : Nat := if 0 ≤ q then (if 0 ≤ p then 2 else 3) else if 0 ≤ p then 5 else 4

/-- A window's energies are added: P and Q as sums over N samples, in units of 10⁻⁵ W and var (R516). -/
def energyAdd (s : State) (p : Nat) (pw q : Int) : State :=
  let k := 288000 / mpRate s p
  let s := accAdd s p (if 0 ≤ pw then 0 else 1) (pw.natAbs * k)
  accAdd s p (quadrant pw q) (q.natAbs * k)

/-! ### Quantities of a window (R512) -/

def dot (a b : List Int) : Int := ((a.zip b).map fun e => e.1 * e.2).foldl (· + ·) 0
def divOr0 (a b : Word) : Word := if b = 0#32 then 0#32 else (fdiv a b).1

/-- The magnitude of an order, and whether it is at its limit; a current is in units of 1 mA, a voltage of 10 mV. -/
def orderOf (cur : Bool) (cyc hmax rate f h : Nat) (x : List Int) : Word × Bool :=
  if hmax < h then (0#32, false)
  else if rate * 45000000 ≤ h * f * 100 then (0#32, true)
  else (dftRms (h * cyc) (if cur then 1000 else 100) x, false)

/-- The magnitudes of orders 1 to 63, and whether one is at its limit. -/
def ordersOf (cur : Bool) (cyc hmax rate f : Nat) (x : List Int) : List Word × Bool :=
  let l := (List.range 63).map fun i => orderOf cur cyc hmax rate f (i + 1) x
  (l.map (·.1), l.any (·.2))

/-- THD of the magnitudes of orders 1 to 63. -/
def thdOf (l : List Word) : Word :=
  let q := (l.drop 1).foldl (fun a x => (fadd a (fmul x x).1).1) 0#32
  divOr0 (fsqrt q).1 (l.headD 0#32)

/-- The sums and words of one element. -/
structure MElem where
  p : Int
  q : Int
  words : List Word
  sv : Word
  hv : List Word
  hi : List Word
  lim : Bool
  deriving DecidableEq, Repr

/-- Element `e` of a window of `n` samples (R512). -/
def elemOf (cyc hmax rate f n : Nat) (v i : List Int) : MElem :=
  let pe := dot v i
  let qe := dftVar cyc v i
  let qv := (dot v v).toNat
  let qi := (dot i i).toNat
  let hv := ordersOf false cyc hmax rate f v
  let hi := ordersOf true cyc hmax rate f i
  let pw := fpOfRat pe (n * 100000)
  let sw := rootOf (qv * qi) (n * n * 10 ^ 10)
  { p := pe, q := qe, sv := sw, hv := hv.1, hi := hi.1, lim := hv.2 || hi.2
    words := [rootOf qv (n * 10 ^ 4), rootOf qi (n * 10 ^ 6), pw, fpOfRat qe (n * 100000), sw, divOr0 pw sw, thdOf hv.1, thdOf hi.1] }

/-- Column `j` of a window's samples, oldest first. -/
def colOf (w : MWin) (j : Nat) : List Int := w.vals.reverse.map fun x => (x[j]?).getD 0

/-- The elements of a window of point `p`. -/
def elemsOf (s : State) (p : Nat) (w : MWin) : List MElem :=
  let n := mpElems (mpCfg s p)
  (List.range n).map fun e => elemOf (mpCyc s p) (mpHmax s p) (mpRate s p) w.f w.vals.length (colOf w e) (colOf w (n + e))

/-! ### The end of a window -/

/-- The MTR's tag (R508). -/
def mtrTag (s : State) : Tag := dmaTag s 0x15 none

/-- The words of a record stored at `a` between its two generation counts; a refused write is counted. -/
def resStore (s : State) (a : Nat) (b : List Byte) : State :=
  let r := dmaAccess s 0x15 (mtrTag s) true a 0x800
  let s := r.1
  if r.2.isSome then s
  else
    let g := rd32 s a
    wr32 (wrBytes (wr32 s a (g + 1)) (a + 4) (b ++ List.replicate (0x7FC - b.length) 0#8)) a (g + 2)

/-- The result record (R515): GEN odd, the words, GEN even. -/
def resWrite (s : State) (p : Nat) (ws : List Word) : State :=
  if mtrBase s = 0 then s else resStore s (mtrBase s + p * 0x800) (wordsBytes ws)

/-- A window ends (R512-R517): its quantities, its energy where it accumulates, its result record. -/
def windowEnd (s : State) (p : Nat) (w : MWin) (short : Bool) : State :=
  if w.vals.isEmpty then s
  else
    let cfg := mpCfg s p
    let es := elemsOf s p w
    let n := w.vals.length
    let pw := (es.map (·.p)).foldl (· + ·) 0
    let q := (es.map (·.q)).foldl (· + ·) 0
    let sw := es.foldl (fun a e => (fadd a e.sv).1) 0#32
    let pf := fpOfRat pw (n * 100000)
    let test := w.test && !bit cfg 16
    let gated := bit cfg 15 && flagState s (fld cfg 11 0)
    let lim := es.any (·.lim)
    let s := if laneMaster s && !test && !gated then energyAdd s p pw q else s
    let x := mpOf s p
    let d := if x.demand.toNat < sw.toNat then sw else x.demand
    let c := x.count + 1
    let s := setMp s p { x with demand := d, count := c, flags := word (b2n w.bad 30 + b2n lim 29 + b2n gated 28 + b2n test 27) }
    let s := bump (bump s (R.mpCnt p) 31 16 1) (R.mpCnt p) 15 0 (if w.bad then 1 else 0)
    let head := word (b2n (!w.bad) 31 + b2n w.bad 30 + b2n test 29 + b2n gated 28 + b2n (evt s (R.mpStat p) 31) 27 + b2n lim 26 + b2n short 25 + c % 65536)
    let pad := fun (l : List Word) (k : Nat) => l ++ List.replicate (k - l.length) 0#32
    resWrite s p ([head, word (nsOf w.end_), word (secOf w.end_), fpOfRat w.f 1000000, word n] ++ pad (es.flatMap (·.words)) 24 ++
      [pf, fpOfRat q (n * 100000), sw, divOr0 pf sw, d, 0#32] ++ es.flatMap fun e => e.hv ++ e.hi)

/-- The ended windows of point `p` whose quantities are not yet computed. -/
def windowsDone (s : State) (p : Nat) : State :=
  let l := (mpOf s p).full
  let s := setMp s p { mpOf s p with full := [] }
  each l s fun w s => windowEnd s p w false

/-- Every window that has ended is computed. -/
def allDone (s : State) : State := each s.mtr.points s fun e s => windowsDone s e.1

/-- METER_WINDOW_END of point `p` (R512). -/
def execMeterWindowEnd (p : Fin 256) (s : State) : Host.Outcome State Fault Refusal :=
  .next (match (mpOf s p.val).full with
    | w :: t => windowEnd (setMp s p.val { mpOf s p.val with full := t }) p.val w false
    | [] => s)

/-- The window in progress of a point ends as a short window (R514). -/
def shortWindow (s : State) (p : Nat) : State :=
  let s := windowsDone s p
  match (mpOf s p).win with
  | some w => windowEnd (setMp s p { mpOf s p with win := none }) p w true
  | none => s

/-- Every window ends as a short window. -/
def shortAll (s : State) : State := each s.mtr.points s fun e s => shortWindow s e.1

/-- The windows of a group's points end as short windows (R268, R514). -/
def shortGroup (s : State) (g : Nat) : State :=
  each s.mtr.points s fun e s => if e.2.on && mpGrp s e.1 == g then shortWindow s e.1 else s

/-! ### Samples -/

/-- A value and its quality, read by the MTR; a refused read gives zeros. -/
def mtrRead (s : State) (a : Nat) : (Int × Word) × State :=
  let r := dmaRead s 0x15 (mtrTag s) a 8
  (((bytesWord r.1 0).toInt, bytesWord r.1 1), r.2)

/-- The sample number `i` of the release of tick `t`, of every slot of point `p`. -/
def mpSample (s : State) (p t i : Nat) : List (Int × Word) × State :=
  (mpSlots s p).foldl (fun (l, s) ch =>
    let c := slotCtx s ch
    let a := if mpStream s p then sbAddr s c (ch - 8 * c) (ctxK s c * (t - 1) + 1 + i)
      else fld (forceOf s R.scaSmpBase) 31 16 * 65536 + ch * 8 * smpD s + t % smpD s * 8
    let r := mtrRead s a
    (l ++ [r.1], r.2)) ([], s)

/-- The length of a window whose first release used the frequency `f` (R511). -/
def winLen (s : State) (p f : Nat) : Nat :=
  let n := mpCyc s p * mpRate s p * 1000000
  (2 * n + f) / (2 * max 1 f)

/-- A sample enters a point's window; the window that it fills has ended. -/
def mpTake (s : State) (p f at_ : Nat) (l : List (Int × Word)) : State :=
  let x := mpOf s p
  let w : MWin := x.win.getD { n := winLen s p f, f := f }
  let w : MWin := { w with
    vals := l.map (fun e => if bit e.2 31 then e.1 else 0) :: w.vals, end_ := at_, bad := w.bad || l.any (fun e => !bit e.2 31), test := w.test || l.any fun e => bit e.2 29 || bit e.2 28 }
  if w.n ≤ w.vals.length then setMp s p { x with win := none, full := x.full ++ [w] }
  else setMp s p { x with win := some w }

/-- A release of group `g` with tick `t` reaches the metering points; `f` is the frequency of its record where it is tracked,
the nominal one otherwise (R511). -/
def mtrRelease (s : State) (g t f : Nat) : State :=
  if s.mtr.stopped then s
  else
    each s.mtr.points s fun e s =>
      let p := e.1
      if (mpOf s p).on && mpGrp s p == g then
        let k := if mpStream s p then ctxK s (mpCtx s p) else 1
        upto k s fun i s =>
          let r := mpSample s p t i
          let a := if mpStream s p then k * (t - 1) + 1 + i else t
          let rate := mpRate s p
          mpTake r.2 p f (a / rate * 1000000000 + a % rate * 1000000000 / rate) r.1
      else s

/-! ### Checkpoints (R521, R522) -/

def setBase (b : Bool) : Nat := if b then 0xA0018000 else 0xA0010000
/-- The words of a guarded word. -/
def gWords (w : Word) : List Word := [w, ~~~w]

/-- DEMAND as an integer in VA, saturating (R521). -/
def demandVA (w : Word) : Nat :=
  match Fp.read w with
  | .num false m e => min 0xFFFFFFFF (if 0 ≤ e then m * 2 ^ e.toNat else (roundQ m (2 ^ (-e).toNat)).toNat)
  | .inf false => 0xFFFFFFFF
  | _ => 0

/-- The words of a point in a set (R521). -/
def pointWords (x : MPoint) : List Word :=
  ((List.range 6).flatMap fun a => gWords (word (mget 0 x.acc a)) ++ gWords (word (mget 0 x.acc a / 2 ^ 32))) ++
    gWords (word ((List.range 4).foldl (fun n a => n + mget 0 x.wrap a % 256 * 256 ^ a) 0)) ++
    gWords (word (b2n x.on 31 + mget 0 x.wrap 4 % 256 + mget 0 x.wrap 5 % 256 * 256)) ++ gWords (word (demandVA x.demand))

/-- The words of a set from offset 0x10 up, as they stand. -/
def ckptBody (s : State) : List Word :=
  [word (nsOf s.ltc), word (secOf s.ltc)] ++ List.replicate 10 0#32 ++ (List.range 256).flatMap fun p => pointWords (mpOf s p)

/-- The write of a set begins: it goes to the set that does not hold the newer valid SEQ; everything but SEQ is written. -/
def ckptStart (s : State) (c : Ckpt) : State :=
  let b := match s.mtr.newest with | some (b, _, _) => !b | none => false
  let q := match s.mtr.newest with | some (_, _, q) => q + 1 | none => 1#32
  let s := pokeBytes s (setBase b) (wordsBytes [0x4C444D45#32, word c.kind])
  let s := pokeBytes s (setBase b + 0x10) (wordsBytes c.body)
  { s with mtr := { s.mtr with busy := some (b, c.kind, q, c.cmd) } }

/-- A set is captured: DEMAND begins anew; the write begins, or waits for the one that runs (R527). -/
def ckptPut (s : State) (kind : Nat) (cmd : Bool) : State :=
  let c : Ckpt := { kind := kind, body := ckptBody s, cmd := cmd }
  let s := each s.mtr.points s fun e s => setMp s e.1 { mpOf s e.1 with demand := 0#32 }
  if s.mtr.busy.isSome then { s with mtr := { s.mtr with wait := s.mtr.wait ++ [c] } } else ckptStart s c

/-- CHECKPOINT_WRITE_DONE (R522): SEQ is written last; a running command ends; a set that waits follows. -/
def ckptDone (s : State) : State :=
  match s.mtr.busy with
  | none => s
  | some (b, k, q, cmd) =>
    let s := pokeBytes s (setBase b + 8) (wordsBytes (gWords q))
    let s := { s with mtr := { s.mtr with newest := some (b, k, q), busy := none, done := s.mtr.done || cmd } }
    match s.mtr.wait with
    | c :: t => ckptStart { s with mtr := { s.mtr with wait := t } } c
    | [] => s

def execCheckpointWriteDone (s : State) : Host.Outcome State Fault Refusal := .next (ckptDone s)

/-- A command is running. -/
def mtrCmdRuns (s : State) : Bool := (match s.mtr.busy with | some (_, _, _, c) => c | none => false) || s.mtr.wait.any (·.cmd)

/-- A command ends with an ERR code (R531). -/
def mtrErr (s : State) (e : Nat) : State := setEvt { s with mtr := { s.mtr with done := true, err := e } } R.mtrEvt 1

/-- A command of MTR_CMD begins, unless another runs (R524). -/
def mtrCmd (a : Acc) (f : State → State) (s : State) : State :=
  regAccess s a R.mtrCmd true fun s =>
    if mtrCmdRuns s then setEvt { s with mtr := { s.mtr with err := 1 } } R.mtrEvt 1
    else f { s with mtr := { s.mtr with done := false, err := 0 } }

def mtrEnd (s : State) : State := { s with mtr := { s.mtr with done := true } }

/-- MTR_PRESET (R519). -/
def mtrPreset (acc p : Nat) (s : State) : State :=
  let v := (shadowOf s R.mtrPresetHi).toNat * 2 ^ 32 + (shadowOf s R.mtrPresetLo).toNat
  if (mpOf s p).on then mtrErr s 2
  else if 5 < acc ∨ mpMod s p ≤ v then mtrErr s 3
  else
    let x := mpOf s p
    mtrEnd (setMp s p { x with acc := mset 0 x.acc acc v, wrap := mset 0 x.wrap acc 0 })
def execMtrPreset (a : Acc) (acc : Fin 8) (p : Fin 256) (s : State) : Host.Outcome State Fault Refusal :=
  .next (mtrCmd a (mtrPreset acc.val p.val) s)

/-- MTR_CKPT_NOW (R524). -/
def mtrCkptNow (s : State) : State := ckptPut (allDone s) 1 true
def execMtrCkptNow (a : Acc) (s : State) : Host.Outcome State Fault Refusal := .next (mtrCmd a mtrCkptNow s)

/-- MTR_STOP (R524). -/
def mtrStop (s : State) : State :=
  let s := ckptPut (shortAll s) 3 true
  { s with mtr := { s.mtr with stopped := true } }
def execMtrStop (a : Acc) (s : State) : Host.Outcome State Fault Refusal := .next (mtrCmd a mtrStop s)

/-- MTR_RESUME (R524). -/
def mtrResume (s : State) : State :=
  let s := each s.mtr.points s fun e s => setMp s e.1 { mpOf s e.1 with win := none, full := [] }
  mtrEnd { s with mtr := { s.mtr with stopped := false } }
def execMtrResume (a : Acc) (s : State) : Host.Outcome State Fault Refusal := .next (mtrCmd a mtrResume s)

/-- CKPT_PERIODIC (R522): the meridian of tick 0 of a second. -/
def mtrMeridian (s : State) : State :=
  let s := pulseHold s
  if s.time.tick = 0 ∧ !s.mtr.stopped then ckptPut (allDone s) 1 false else s

/-- Step 2 of the twilight save (R83, R514, R522, R526): short windows, a TWILIGHT set, metering stopped, outputs off. -/
def mtrTwilight (s : State) : State :=
  let s := upto 4 s fun n s => setPul s n { pulOf s n with backlog := 0, onTill := 0 }
  let s := shortAll s
  let s := ckptDone (ckptDone s)
  let s := ckptDone (ckptPut { s with mtr := { s.mtr with wait := [], busy := none } } 2 false)
  { s with mtr := { s.mtr with stopped := true } }

/-! ### Restore (R523) -/

/-- Word at offset `o` of a set. -/
def setWord (s : State) (b : Bool) (o : Nat) : Word := rd32 s (setBase b + o)
/-- The guarded word at offset `o` of a set passes its check. -/
def setGuard (s : State) (b : Bool) (o : Nat) : Bool := guardOk (setWord s b o) (setWord s b (o + 4))

/-- A set is valid (R522). -/
def setValid (s : State) (b : Bool) : Bool :=
  setWord s b 0 == 0x4C444D45#32 && setGuard s b 8 && (List.range 3840).all fun i => setGuard s b (0x40 + 8 * i)

/-- Point `p` as a set holds it. -/
def setPoint (s : State) (b : Bool) (p : Nat) : MPoint :=
  let o := 0x40 + 120 * p
  let wr := fun a => fld (setWord s b (o + 0x60 + a / 4 * 8)) (a % 4 * 8 + 7) (a % 4 * 8)
  { acc := (List.range 6).foldl (fun m a => mset 0 m a ((setWord s b (o + 16 * a)).toNat + (setWord s b (o + 16 * a + 8)).toNat * 2 ^ 32)) []
    wrap := (List.range 6).foldl (fun m a => mset 0 m a (wr a)) []
    latch := (List.range 6).foldl (fun m a => mset 0#32 (mset 0#32 m (2 * a) (setWord s b (o + 16 * a + 8))) (2 * a + 1) (word (wr a))) [] }

/-- The time of a supply-failure record later than `t` (R523), the newest. -/
def failTime (s : State) (t : Nat) : Option Nat :=
  (almValid s).foldl (fun r i =>
    let w := slotWord s i 1
    let u := ((slotWord s i 4).toNat + fld (slotWord s i 5) 15 0 * 2 ^ 32) * 1000000000 + (slotWord s i 3).toNat
    if fld w 23 16 = 0x17 ∧ fld w 15 8 = 0x80 ∧ t < u ∧ r.getD 0 ≤ u then some u else r) none

/-- The lost-energy bound D, in ns. -/
def lostTime (s : State) (t : Nat) : Nat :=
  match failTime s t with | some u => min 2000000000 (u + 25000000 - t) | none => 2000000000

/-- ENERGY_UNCERTAIN (R523) after a restore from `b`, none where no set was valid. -/
def mtrUncertain (s : State) (b : Option Bool) : State :=
  match b with
  | none =>
    let s := upto 256 s fun p s => setLive s (R.mpUncert p) 0xFFFFFFFF#32
    mtrNote (setEvt s R.mtrEvt 3) 0 0x10 0 (some 1) [0#32, 2000#32, 0#32, 0#32]
  | some b =>
    let d := lostTime s ((setWord s b 0x14).toNat * 1000000000 + (setWord s b 0x10).toNat)
    let ps := (List.range 256).filter fun p => bit (setWord s b (0x40 + 120 * p + 0x68)) 31
    let bound := fun p => ((setWord s b (0x40 + 120 * p + 0x70)).toNat * d + 3599999999999) / 3600000000000
    let s' := each ps s fun p s => setLive (setEvt s (R.mpStat p) 31) (R.mpUncert p) (word (bound p))
    let sum := (ps.map bound).foldl (· + ·) 0
    mtrNote (setEvt s' R.mtrEvt 3) 0 0x10 ps.length (some 1) [word ps.length, word (d / 1000000), word sum, word (sum / 2 ^ 32)]

/-- The newer of the valid sets. -/
def newerSet (s : State) : Option Bool :=
  match setValid s false, setValid s true with
  | true, true => some (decide ((setWord s false 8).toNat < (setWord s true 8).toNat))
  | true, false => some false
  | false, true => some true
  | false, false => none

/-- The set that is restored from, and whether the energy is uncertain (R523). -/
def restoreFrom (s : State) (complete incomplete : Bool) : Option Bool × Bool :=
  match newerSet s with
  | none => (none, true)
  | some b =>
    let k := (setWord s b 4).toNat
    if k = 2 ∧ complete then (some b, false)
    else if k = 3 then (some b, false)
    else if incomplete then
      (if k = 1 then some b else if setValid s (!b) ∧ setWord s (!b) 4 = 1#32 then some (!b) else none, true)
    else (some b, true)

/-- METER_RESTORE (R523), with the PERIODIC write that follows it (R522). -/
def mtrRestore (s : State) (complete incomplete : Bool) : State :=
  let s := blockRead s 0x15 (setBase false) 0x10000
  let s := each [false, true] s fun b s =>
    if setValid s b then s
    else mtrNote (setEvt (guardFault s 0x15) R.mtrEvt 4) 0 0x11 (b2n b 0) (some 1) [word (b2n b 0)]
  let r := restoreFrom s complete incomplete
  let nw := (newerSet s).map fun b => (b, (setWord s b 4).toNat, setWord s b 8)
  let pts := match r.1 with
    | some b => (List.range 256).foldl (fun m p => mset {} m p (setPoint s b p)) []
    | none => []
  let s := { s with mtr := { s.mtr with points := pts, newest := nw } }
  let s := if r.2 then mtrUncertain s r.1 else s
  ckptPut s 1 false

/-! ### Registers (R518, R531) -/

/-- ACC_READ (R518): the low word, with the high word and the count latched. -/
def accRead (s : State) (p a : Nat) : State :=
  let x := mpOf s p
  let v := mget 0 x.acc a
  setBus (setMp s p { x with latch := mset 0#32 (mset 0#32 x.latch (2 * a) (word (v / 2 ^ 32))) (2 * a + 1) (word (mget 0 x.wrap a)) }) (word v)
def execAccRead (a : Acc) (p : Fin 256) (n : Fin 6) (s : State) : Host.Outcome State Fault Refusal :=
  .next (regAccess s a (R.accLo p.val n.val) false fun s => accRead s p.val n.val)

/-- The outputs under a set that has entered force; `s0` is the state before. -/
def mtrInForce (s0 s : State) : State :=
  pulseHold (upto 4 s fun n s => if pulOn s n && !pulOn s0 n then setPul s n { next := s.now } else s)

/-- The check of a MTR set (R531). -/
def checkMtr (ps : PendSet) : Option (Nat × Nat) :=
  let v := pendVal ps.vals
  let a := resBase (v R.mtrResBaseLo) (v R.mtrResBaseHi)
  if a ≠ 0 ∧ !resOk a then some (3, 0x10)
  else
    (List.range 4).findSome? fun n =>
      let t := v (R.pulTime n)
      let bad := fun x => decide (x < 2) || decide (1000 < x)
      if !bit (v (R.pulCfg n)) 31 then none
      else if 5 < fld (v (R.pulCfg n)) 26 24 then some (3, 0x100 + n * 0x20)
      else if bad (fld t 25 16) || bad (fld t 9 0) then some (3, 0x104 + n * 0x20)
      else if v (R.pulWeight n) = 0#32 then some (3, 0x108 + n * 0x20) else none

/-- The computed registers of the MTR at offset `o`. -/
def readMtr (s : State) (o : Nat) : Option Word :=
  if o = 0 then
    some (word (b2n (decide (s.trust.lc = .operational) && !laneMaster s) 31 + b2n s.mtr.stopped 30 + b2n s.mtr.busy.isSome 29 + (s.mtr.points.filter fun e => e.2.on).length))
  else if o = 0x18 then
    some (match s.mtr.newest with | some (b, k, q) => word (k * 2 ^ 28 + b2n b 24 + q.toNat % 65536) | none => 0#32)
  else if o = 0x24 then some (word (b2n (mtrCmdRuns s) 31 + b2n (s.mtr.done && !mtrCmdRuns s) 30 + s.mtr.err * 256))
  else if 0x100 ≤ o ∧ o < 0x180 ∧ o % 0x20 = 0x0C then
    let n := (o - 0x100) / 0x20
    let x := pulOf s n
    some (word (b2n (pulOn s n && laneMaster s && decide (s.now < x.onTill)) 31 + x.backlog))
  else if 0x1000 ≤ o ∧ o < 0x9000 then
    let p := (o - 0x1000) / 0x80
    let r := o % 0x80
    if r = 0x0C then some ((liveOf s (R.mpStat p) &&& 0x80000000#32) ||| (mpOf s p).flags)
    else if r = 0x10 then some (liveOf s (R.mpUncert p))
    else if r = 0x18 then some (mpOf s p).demand
    else if 0x20 ≤ r ∧ r < 0x68 then
      let a := (r - 0x20) / 0xC
      match (r - 0x20) % 0xC with
      | 4 => some (mget 0#32 (mpOf s p).latch (2 * a))
      | 8 => some (mget 0#32 (mpOf s p).latch (2 * a + 1))
      | _ => none
    else none
  else none

end Sys2Proof.Machine
end

