-- ==== Sys2Proof/Machine/Mir.lean ====
section
/-! DEFINITION. The MIR: what is mirrored (R546, R547), readiness (R552), lease words (R534-R537), entering a role, taking and
giving up the lease (R539-R543, R555-R557), the packets of a tick (R548-R553). -/

namespace Sys2Proof.Machine

def modMir (s : State) (f : MirSt → MirSt) : State := { s with mir := f s.mir }

/-- An event of the MIR: sticky bit, record, notification (R563). -/
def mirNote (s : State) (bit_ : Option Nat) (cls code info : Nat) (sev : Option Nat) (words : List Word) : State :=
  let s := match bit_ with | some b => setEvt s R.mirEvt b | none => s
  let s := match sev with | some v => almPost s v 0x16 code none words | none => s
  notifyAll s (forceOf s R.mirNotify) cls 0x16 code info

/-- A counter of the MIR, by its place (R565). -/
def mirCount (s : State) (n : Nat) : State := setLive s (R.mirCnt n) (word (satAdd 0xFFFFFFFF (liveOf s (R.mirCnt n)).toNat 1))

/-- PAIR_POS of the module. -/
def ownPos (s : State) : Bool := bit s.sys.slot 8

/-! ### What is mirrored (R546, R547) -/

/-- First line and lines of an enabled window. -/
def winRange (v : Nat → Word) (w : Nat) : Option (Nat × Nat) :=
  let n := fld (v (R.mirWinSize w)) 12 0
  if n = 0 then none else some (fld (v (R.mirWinBase w)) 31 12 * 64, n * 64)

/-- The core's data bank is mirrored: an enabled partition owns it. -/
def coreMirrored (s : State) (k : Nat) : Bool := match ownerOf s 0 k with | some p => partOn s p | none => false

/-- A line of memory is mirrored. -/
def mirrored (s : State) (l : Nat) : Bool :=
  (inDataBank (l * 64) && coreMirrored s ((l * 64 - 0x90000000) / 0x40000)) ||
    (List.range 16).any fun w => match winRange (forceOf s) w with | some (b, n) => decide (b ≤ l) && decide (l < b + n) | none => false

/-- The block-state lines by block (R547): block index, lines. -/
def blkSizes : List (Nat × Nat) := [(0x0D, 4105), (0x0E, 8), (0x0F, 192), (0x10, 64), (0x15, 256)]
/-- The first block-state line of block `i`, by number. -/
def blkBase (i : Nat) : Nat := (0xE0000000 + i * 0x100000) / 64

/-- Every mirrored line, as first line and count, in address order (R553). -/
def mirRanges (s : State) : List (Nat × Nat) :=
  let ws := (List.range 16).foldl (fun l w => match winRange (forceOf s) w with | some (b, n) => insNat (b * 2 ^ 20 + n) l | none => l) []
  ws.map (fun e => (e / 2 ^ 20, e % 2 ^ 20)) ++
    ((List.range 64).filter (coreMirrored s)).map (fun k => (dataBase k / 64, 2048)) ++ blkSizes.map fun e => (blkBase e.1, e.2)

/-- The lines from number `pos` on, at most `n`. -/
def takeLines (pos : Nat) : List (Nat × Nat) → Nat → List Nat
  | [], _ => []
  | (b, c) :: t, n =>
    let st := max b pos
    let k := min n (b + c - st)
    (List.range k).map (st + ·) ++ takeLines pos t (n - k)

/-- The number of lines from number `pos` on. -/
def linesLeft (pos : Nat) (l : List (Nat × Nat)) : Nat := l.foldl (fun n e => n + (e.1 + e.2 - max e.1 pos)) 0

/-- Bits by number as one number. -/
def packBits (f : Nat → Bool) (n : Nat) : Nat := (List.range n).foldl (fun a i => a + b2n (f i) i) 0

/-- PSTATE as TSK_P_STAT shows it. -/
def pstCode : PState → Nat | .none => 0 | .stopped => 1 | .starting => 2 | .running => 3 | .halted => 4
def pstOf : Nat → PState | 0 => .none | 1 => .stopped | 2 => .starting | 3 => .running | _ => .halted
/-- STATE of a subscription by its code (R435). -/
def subSt (n : Fin 4) : SubState := if n = 0 then .disabled else if n = 1 then .wait else if n = 2 then .valid else .timeout

/-- The CRC-32 of the member values a publication last sent (R547). -/
def valsCrc (v : List (Word × Word)) : Word := crcWords (v.flatMap fun e => [e.1, e.2])

/-- An object as its line carries it (R547). -/
def mirObj (s : State) (o : Nat) : MirObj :=
  let x := objOf s o
  { st := x.st, left := (x.due - s.now + 999999) / 1000000,
    ctl := Fin.ofNat 256 ((x.order.map (·.ctl)).getD 0), orig := Fin.ofNat 256 ((x.order.map (·.orig)).getD 0) }

/-- The block-state line of a number, as it stands (R547). -/
def blockLine (s : State) (l : Nat) : MirLine :=
  let a := l * 64 - 0xE0000000
  let j := a % 0x100000 / 64
  let four := (List.range 4).map (4 * j + ·)
  match a / 0x100000 with
  | 0x0E => .flags j (packBits (fun b => mget false s.tmx.flags (512 * j + b)) 512)
  | 0x0F =>
    if j < 64 then .pubs j (four.map fun p => let g := pubOf s p; { stNum := g.stNum, sqNum := g.sqNum, iv := g.iv, crc := valsCrc g.vals })
    else
      .subs (j - 64) (((List.range 4).map (4 * (j - 64) + ·)).map fun n =>
        let g := subOf s n; { stNum := g.stNum, sqNum := g.sqNum, state := Fin.ofNat 4 (subCode g.state), sim := g.simLatch, expiry := g.expiry })
  | 0x10 => .objs j (four.map (mirObj s))
  | 0x0D =>
    if j < 8 then .parts j (four.map fun p => (pstCode (partOf s p).pstate, (partOf s p).lastStart))
    else if j = 8 then .stopped (packBits (fun t => (taskOf s t).stopped) 512)
    else .forces (j - 9) ([0, 1].flatMap fun i => (List.range 8).map fun w => forceOf s (0x2100000000 + (2 * (j - 9) + i) * 0x20 + 4 * w))
  | _ => let m := mpOf s j; .point j m.acc m.wrap m.frac m.demand

/-- The block-state lines that may hold more than their reset content, by number. -/
def blockKeys (s : State) : List Nat :=
  let ks := s.tsk.parts.map (fun e => blkBase 0x0D + e.1 / 4) ++ (if s.tsk.tasks.isEmpty then [] else [blkBase 0x0D + 8]) ++
    (mtake s.force 0x2100000000 0x2200000000).map (fun e => blkBase 0x0D + 9 + (e.1 - 0x2100000000) / 0x40) ++
    s.tmx.flags.map (fun e => blkBase 0x0E + e.1 / 512) ++ s.gse.pubs.map (fun e => blkBase 0x0F + e.1 / 4) ++
    s.gse.subs.map (fun e => blkBase 0x0F + 64 + e.1 / 4) ++ s.cmd.objs.map (fun e => blkBase 0x10 + e.1 / 4) ++
    s.mtr.points.map fun e => blkBase 0x15 + e.1
  ks.foldl (fun l k => insNat k l) []

/-- The block-state lines in which a value changed since the last capture (R547). -/
def blockDirty (s : State) : List Nat :=
  let ks := (s.mir.prev.map (·.1)).foldl (fun l k => insNat k l) (blockKeys s)
  ks.filter fun k => decide (blockLine s k ≠ (mfind s.mir.prev k).getD (blockLine {} k))

/-- The tag of the MIR's DMA (R140). -/
def mirTag (s : State) : Tag := dmaTag s 0x16 none

/-- The content of a mirrored line, as it stands; a line of memory whose read is refused reads 0 (R155). -/
def lineNow (s : State) (l : Nat) : MirLine :=
  if l * 64 < 0xE0000000 then
    .mem l (if (rangeDenied s (mirTag s) .read (l * 64) 64).isSome then List.replicate 64 0#8 else rdBytes s (l * 64) 64)
  else blockLine s l

/-- The lines of memory are read by the MIR's DMA (R36, R154). -/
def linesRead (s : State) (ls : List Nat) : State :=
  each (ls.filter fun l => decide (l * 64 < 0xE0000000)) s fun l s => (dmaAccess s 0x16 (mirTag s) false (l * 64) 64).1

/-! ### Readiness (R552) -/

/-- NR_CAUSE: the first cause of COPY, GAP, PROG and FORMAT that holds. -/
def nrCause (m : MirSt) : Nat := if !m.copied then 1 else if m.gap then 2 else if m.progWait then 3 else if m.fmtBad then 4 else 0

/-- The module is a ready standby. -/
def mirReady (m : MirSt) : Bool := m.role == .standby && nrCause m == 0

/-- READY is compared with what was last shown (R563). -/
def readyUpdate (s : State) : State :=
  let r := mirReady s.mir
  if r = s.mir.shown.1 then s
  else
    mirNote (modMir s fun m => { m with shown := (r, nrCause m) }) (some 5) 1 0x14 (b2n r 0 + nrCause s.mir * 16) (some 3)
      [word (b2n r 0 + nrCause s.mir * 16)]

/-- The partner's readiness (R543, R544, R552). -/
def ptnrUpdate (s : State) (r : Bool) : State :=
  if r = s.mir.ptnrReady then s
  else mirNote (modMir s fun m => { m with ptnrReady := r }) (some 5) 1 0x14 (256 + b2n r 0) (some 3) [word (256 + b2n r 0)]

/-! ### Lease words (R534, R535) -/

/-- The value of a lease word. -/
def leaseWord (s : State) (type_ : Nat) (ready : Bool) (sec tick : Nat) : Word :=
  word (type_ * 2 ^ 28 + b2n (ownPos s) 27 + b2n ready 26 + s.mir.epoch % 256 * 2 ^ 18 + sec % 32 * 2 ^ 13 + tick % 8192)

/-- READY as the module sends it (R544, R552). -/
def readySent (s : State) : Bool := mirReady s.mir && !decide (s.pwr.phase = .save) && !decide (s.pwr.phase = .hand)

/-- The tick that has ended at this meridian: second and number. -/
def endedTick (s : State) : Nat × Nat :=
  if s.time.tick = 0 then (s.time.tickSec - 1, fsOf s - 1) else (s.time.tickSec, s.time.tick - 1)

/-- A word on both paths. -/
def sendWord (s : State) (w : Word) : State := modMir s fun m => { m with busSent := some w, linkSent := some w }

/-- A word with the tick in progress (R535: CLAIM, TWILIGHT, TW_CLEAR), unless the MIR is off or the dump freeze holds. -/
def sendNow (s : State) (type_ : Nat) (ready : Bool) : State :=
  if s.mir.role = .off ∨ s.diag.frozen then s else sendWord s (leaseWord s type_ ready s.time.tickSec s.time.tick)

/-! ### Roles -/

/-- The lanes, and the pulse outputs, follow a change of mastership (R421). -/
def mastership (s : State) : State := pulseHold (lanesUpdate s)

/-- The activations that wait are given up: the TSK starts no task (R533). -/
def dropPending (s : State) : State :=
  (s.tsk.tasks.filter fun e => e.2.pend.isSome).foldl
    (fun s e => unpend (match e.2.def_ with | some d => actOut s d.core | none => s) e.1) s

/-- The MIR enters STANDBY, NOT_READY with cause COPY (R540, R542, R543). -/
def enterStandby (s : State) : State :=
  let s := modMir (dropPending s) fun m => { m with
    role := .standby, masterAt := none, copied := false, gap := false, progWait := false, fmtBad := false, bgSeen := false,
    seqRx := none, lbCount := 0, mlCount := 0, handPend := 0, nrDue := false, relBus := none, relApplied := false, bg := none, resync := false,
    unsent := [], claimAt := none, ptnrReady := false }
  mastership (readyUpdate s)

/-- A publication continues at a new lane master (R557): an event where its values differ from those mirrored, else a
retransmission with the next sqNum. -/
def pubTakeover (s : State) (p : Nat) : State :=
  let g := pubOf s p
  if !g.on || !bit (forceOf s (R.gpCfg p)) 30 then s
  else
    let r := memberVals s (ownerOf s 6 p) true g s.ltc
    let s := r.2.2.2
    let s := setPub s p { pubOf s p with mirCrc := none }
    if g.mirCrc.any (· ≠ valsCrc r.1) || (g.mirCrc.isNone && (r.2.2.1 || !g.sent)) then gpEvent s p r.1 r.2.1 s.ltc
    else gpSend (setPub s p { pubOf s p with vals := r.1, sent := true, sqNum := nextNum g.sqNum, due := s.now + g.iv }) p

/-- The module becomes lane master (R541, R543, R557). -/
def becomeMaster (s : State) : State :=
  let s := mastership (modMir s fun m => { m with masterAt := none })
  (s.gse.pubs.map (·.1)).foldl pubTakeover s

/-- tCLAIM after a claim (R541). -/
def mirTick (s : State) : State :=
  match s.mir.role, s.mir.masterAt with
  | .holder, some t => if t ≤ s.now then becomeMaster s else s
  | _, _ => s

/-- A claim's record and notification (R555, R556, R563): 0 silence, 1 release, 2 NOT_READY, 3 listen. -/
def claimNote (s : State) (kind cause : Nat) : State :=
  let sev := match kind with | 0 => 1 | 2 => 0 | _ => 3
  mirNote s (some 0) 0 0x10 kind (some sev) [word (if kind = 2 then cause else kind)]

/-- LEASE_CLAIM (R541, R543, R555, R556): CLAIM on both paths, HOLDER, lane master tCLAIM later or, after a release, at once; a
ready standby goes on from its state, a standby that is not ready restarts every enabled partition. -/
def claim (s : State) (kind : Nat) : State :=
  let ready := mirReady s.mir
  let cause := nrCause s.mir
  let was := s.mir.role
  let s := modMir s fun m => { m with
    epoch := (m.epoch + 1) % 256, role := .holder, masterAt := if kind = 1 then none else some (s.now + 10000),
    claimAt := some (s.time.tickSec, s.time.tick), relBus := none, relApplied := false, ptnrReady := false, bg := none, resync := false,
    sinceCopy := 3, handPend := 0, nrDue := false, listen := 0 }
  let s := readyUpdate (sendNow s 3 ready)
  let s := { s with tsk := { s.tsk with tasks := s.tsk.tasks.map fun e => (e.1, { e.2 with first := if ready then 0 else e.2.first }) } }
  let s := if was = .standby ∧ !ready then
      (List.range 32).foldl (fun s p => if partOn s p then modPart s p fun x => { x with pendOp := some (.warm, s.now - 512) } else s) s
    else s
  let s := claimNote s (if was = .standby ∧ !ready then 2 else kind) cause
  if kind = 1 then becomeMaster s else s

/-- The conditions of a claim after silence (R538, R540, R541). -/
def claimOk (s : State) : Bool := s.trust.ready && decide (s.pwr.phase = .normal) && !s.mir.posConflict

/-- YIELD (R542). -/
def yieldLease (s : State) (epoch : Nat) : State :=
  let s := modMir s fun m => { m with epoch := epoch }
  mirNote (enterStandby s) (some 2) 0 0x11 2 (some 1) [2#32]

/-! ### The meridian -/

/-- A path is silent (R539). -/
def silent (n : Nat) : Bool := decide (3 ≤ n)

/-- PATH_LOST and PATH_UP of a path (R541): its count and the other's before and now. -/
def pathNote (s : State) (info c0 o0 c1 o1 : Nat) : State :=
  if silent c1 && !silent o1 && !(silent c0 && !silent o0) then mirNote s (some 3) 0 0x12 info (some 1) [word info]
  else if silent c0 && !silent c1 then mirNote s (some 4) 2 0x13 info (some 2) [word info]
  else s

/-- SILENCE_COUNT (R539). -/
def silenceCount (s : State) : State :=
  let m := s.mir
  let lb := if m.lbHeard then 0 else min 255 (m.lbCount + 1)
  let ml := if m.mlHeard then 0 else min 255 (m.mlCount + 1)
  let s := modMir s fun x => { x with
    lbCount := lb, mlCount := ml, lbHeard := false, mlHeard := false, listen := if silent lb && silent ml then m.listen + 1 else 0 }
  if m.role = .standby then pathNote (pathNote s 0 m.lbCount m.mlCount lb ml) 1 m.mlCount m.lbCount ml lb else s

/-- The meridians of silence after which a module in LISTEN claims (R540). -/
def listenTicks (s : State) : Nat := fld (shadowOf s R.mirCfg) 31 24 * if ownPos s then 2 else 1

/-- The counts and the claims of a meridian (R539-R541, R543, R561), before step 3 of R26. -/
def mirClaims (s : State) : State :=
  if s.diag.frozen then s
  else
    match s.mir.role with
    | .listen =>
      let s := silenceCount s
      if listenTicks s ≤ s.mir.listen ∧ claimOk s then claim s 3 else s
    | .standby =>
      let s := silenceCount s
      if s.mir.relApplied then (if s.mir.posConflict then s else claim s 1)
      else
        match s.mir.relBus with
        | some k =>
          if 3 ≤ k ∧ !s.mir.posConflict then claim s 1 else modMir s fun m => { m with relBus := some (k + 1) }
        | none => if silent s.mir.lbCount && silent s.mir.mlCount && claimOk s then claim s 0 else s
    | _ => s

/-- The lanes up that carry packets (R551, R566). -/
def lanesUp (s : State) : List Nat :=
  [0, 1].filter fun l => s.mir.lanes.testBit l && fld (forceOf s R.diagLbMir) (4 * l + 3) (4 * l) == 0

/-- The cost of a record in 10 ps, and the budget (R551). -/
def recCost (s : State) : Nat := if (lanesUp s).length = 2 then 1152 else 2304
def recBudget (s : State) : Nat := if (lanesUp s).length = 2 then 16384 else 8192

/-- PROG_ID and PROG_VER of the programs in force (R549). -/
def progIds (s : State) : List (Word × Word) :=
  (List.range 32).map fun p => match (partOf s p).prog with | some g => (g.id, g.ver) | none => (0#32, 0#32)

/-- A packet leaves (R549). -/
def sendPacket (s : State) (t : Nat × Nat) (behind resync bg : Bool) (recs : List MirRec) (ctl : Word) : State :=
  modMir s fun m => { m with
    seqTx := m.seqTx + 1, linkSent := some ctl
    sent := some { seq := m.seqTx, sec := t.1, tick := t.2, behind := behind, resync := resync, bg := bg, progs := progIds s, recs := recs, ctl := ctl } }

/-- STATUS_PACKET_TX (R537). -/
def statusPacket (s : State) : State :=
  sendPacket s (s.mir.thruSec, s.mir.thruTick) false false false []
    (leaseWord s 2 (readySent s) s.mir.thruSec s.mir.thruTick)

/-- The pointers of the capture list are compared (R562): on a mismatch the list is emptied. -/
def capCheck (s : State) : State × Bool :=
  if qOk s.mir.capPtr then (s, true)
  else (mirNote (ptrSum (modMir s fun m => { m with capPtr := {} }) 0x16) (some 12) 0 0x01 0 (some 1) [], false)

/-- The packet of a tick over budget, or of an emptied list (R553, R562). -/
def behindPacket (s : State) (ctl : Word) : State :=
  let s := sendPacket s (endedTick s) true false false [] ctl
  modMir s fun m => { m with bg := none, resync := true, unsent := [], nrDue := m.ptnrReady }

/-- TICK_OVER_BUDGET (R553). -/
def overBudget (s : State) (n : Nat) : State :=
  mirNote (mirCount (modMir s fun m => { m with behind := true }) 7) (some 6) 1 0x15 (min 0xFFFF n) (some 2) [word (min 0xFFFF n)]

/-- Background records of this packet: the line to begin with, how many fit (R553). -/
def bgRoom (s : State) (n : Nat) : Nat := ((if fsOf s = 4800 then 200 else 240) - 3) * 100000 / recCost s - n

/-- The packet of a tick within budget: captured lines, block-state lines, background lines (R548-R553); `start` begins a
background copy. -/
def tickPacket (s : State) (mem blk : List Nat) (start : Bool) (ctl : Word) : State :=
  let pos := if start then some 0 else s.mir.bg
  let rs := mirRanges s
  let bl := match pos with | some p => takeLines p rs (bgRoom s (mem.length + blk.length)) | none => []
  let next := match pos with
    | some p => let q := match bl.getLast? with | some l => l + 1 | none => p; if linesLeft q rs = 0 then none else some q
    | none => none
  let recs := (mem ++ blk).map (fun l => ({ bg := false, line := lineNow s l } : MirRec)) ++
    bl.map fun l => ({ bg := true, line := lineNow s l } : MirRec)
  let due := fun (i : Nat) => s.now + 3000 + ((i + 1) * recCost s + 99) / 100
  let s := linesRead s (mem ++ bl)
  let un := if (lanesUp s).isEmpty then [] else (List.range mem.length).zip mem |>.map fun e => (e.2, e.1, due e.1)
  let s := sendPacket s (endedTick s) false start (!bl.isEmpty) recs ctl
  modMir s fun m => { m with
    bg := next, resync := false, unsent := un, behind := false, sinceCopy := if pos.isSome then 0 else min 3 (m.sinceCopy + 1)
    capPtr := { m.capPtr with rd := (m.capPtr.rd + recs.length) % 65536, rdC := (m.capPtr.rd + recs.length) % 65536, wr := (m.capPtr.wr + recs.length) % 65536, wrC := (m.capPtr.wr + recs.length) % 65536 } }

/-- LEASE_RELEASE (R543): the holder has sent RELEASE and gives the lease up. -/
def released (s : State) (w : Word) : State :=
  let kind := if s.mir.handPend = 2 then 1 else 0
  let s := modMir s fun m => { m with busSent := some w }
  mirNote (enterStandby s) (some 1) 0 0x11 kind (some 3) [word kind]

/-- The programs in force differ from those of the last packet (R554). -/
def progChange (s : State) : Bool := match s.mir.sent with | some k => decide (k.progs ≠ progIds s) && !k.progs.isEmpty | none => false

/-- TICK_PACKET_TX with a release that waits (R543, R548-R553). -/
def holderMeridian (s : State) : State :=
  let mem := s.pcx.dirty.filter (mirrored s)
  let blk := blockDirty s
  let n := mem.length + blk.length
  let (s, ok) := capCheck s
  let s := modMir s fun m => { m with lines := min 0xFFFF n, peak := max m.peak (min 0xFFFF n) }
  let t := endedTick s
  let beyond := decide (recBudget s < n)
  let rel := s.mir.handPend ≠ 0 ∧ !beyond ∧ ok ∧ s.mir.ptnrReady ∧ !s.mir.nrDue
  let w := leaseWord s (if rel then 4 else 1) false t.1 t.2
  if beyond then behindPacket (overBudget s n) w
  else if !ok then behindPacket s w
  else
    let s := tickPacket s mem blk (s.mir.resync || progChange s) w
    if rel then released s w else s

/-- The MIR at a meridian, step 5 of R26: the lines marked in the ended tick are captured and sent (R546-R553); a module that
does not hold the lease sends its status packet. -/
def mirMeridian (s : State) : State :=
  let s := if s.diag.frozen then s
    else match s.mir.role with
      | .holder => holderMeridian s
      | .listen => statusPacket s
      | .standby => statusPacket s
      | .off => s
  let s := if s.mir.role = .off then s else modMir s fun m => { m with prev := (blockKeys s).map fun k => (k, blockLine s k) }
  { s with pcx := { s.pcx with dirty := [] } }

end Sys2Proof.Machine
end

