-- ==== Sys2Proof/Machine/MirRx.lean ====
section
/-! DEFINITION. The MIR's reception: words (R535, R538-R544), packets and their application (R550, R552-R554), the commands and
events of the block (R532, R536, R543, R551, R565). -/

namespace Sys2Proof.Machine

/-! ### Words -/

/-- A STATUS reaches the holder (R552, R553): the partner's readiness, its last applied tick, a copy where it asks for one. -/
def statusIn (s : State) (w : LeaseWord) : State :=
  let sec := s.time.tickSec - (s.time.tickSec + 32 - w.sec5.val) % 32
  let s := ptnrUpdate s w.ready
  modMir s fun m => { m with
    thruSec := sec, thruTick := w.tick.val, nrDue := m.nrDue && w.ready
    resync := m.resync || (!w.ready && m.bg.isNone && decide (3 ≤ m.sinceCopy)) }

/-- A RENEW reaches a holder (R542). -/
def renewIn (s : State) (e : Nat) : State :=
  let d := (e + 256 - s.mir.epoch) % 256
  if d = 0 then (if ownPos s then yieldLease s e else s)
  else if d < 128 then yieldLease s e
  else mirCount s 5

/-- What a valid word of a type does in the module's role (R540-R544). -/
def roleWord (s : State) (type_ : Nat) (w : LeaseWord) : State :=
  match s.mir.role, type_ with
  | .holder, 1 => renewIn s w.epoch.val
  | .holder, 2 => statusIn s w
  | .holder, 3 => if s.mir.claimAt = some (s.time.tickSec, s.time.tick) ∧ !ownPos s then s else yieldLease s w.epoch.val
  | .listen, 1 => modMir (enterStandby s) fun m => { m with epoch := w.epoch.val }
  | .listen, 3 => modMir (enterStandby s) fun m => { m with epoch := w.epoch.val }
  | .standby, 1 => modMir s fun m => { m with epoch := w.epoch.val }
  | .standby, 3 => modMir s fun m => { m with epoch := w.epoch.val }
  | .standby, 4 => modMir s fun m => if w.path then { m with relApplied := true } else { m with relBus := some (m.relBus.getD 0) }
  | _, _ => s

/-- A TWILIGHT or TW_CLEAR (R544). -/
def twilightWord (s : State) (type_ : Nat) : State :=
  match type_ with
  | 5 =>
    let s := mirNote (modMir s fun m => { m with ptnrTwilight := true }) (some 7) 0 0x16 0 (some 1) []
    if s.mir.role = .holder then ptnrUpdate s false else s
  | 6 => modMir s fun m => { m with ptnrTwilight := false }
  | _ => s

/-- A word that has passed its checks but that of POS arrives (R538, R539). -/
def wordIn (s : State) (type_ : Nat) (w : LeaseWord) : State :=
  if s.mir.role = .off then s
  else if w.pos = ownPos s then
    mirCount (setEvt (modMir s fun m => { m with posConflict := true }) R.mirEvt 9) (if w.path then 3 else 1)
  else
    let hear := type_ == 1 || type_ == 3 || type_ == 4 || type_ == 5
    let s := modMir (mirCount s (if w.path then 2 else 0)) fun m => { m with
      lbType := if w.path then m.lbType else type_, mlType := if w.path then type_ else m.mlType
      lbHeard := m.lbHeard || (hear && !w.path), mlHeard := m.mlHeard || (hear && w.path)
      ptnrTwilight := m.ptnrTwilight && !w.ready }
    twilightWord (roleWord s type_ w) type_

def execRenewRx (w : LeaseWord) (s : State) : Host.Outcome State Fault Refusal := .next (wordIn s 1 w)
def execStatusRx (w : LeaseWord) (s : State) : Host.Outcome State Fault Refusal := .next (wordIn s 2 w)
def execClaimRx (w : LeaseWord) (s : State) : Host.Outcome State Fault Refusal := .next (wordIn s 3 w)
def execReleaseRx (w : LeaseWord) (s : State) : Host.Outcome State Fault Refusal := .next (wordIn s 4 w)
def execTwilightRx (w : LeaseWord) (s : State) : Host.Outcome State Fault Refusal := .next (wordIn s 5 w)
def execTwClearRx (w : LeaseWord) (s : State) : Host.Outcome State Fault Refusal := .next (wordIn s 6 w)

/-- LEASE_WORD_INVALID on the lease bus (R538): `guard` says that its guard check failed. -/
def execLeaseWordInvalid (guard : Bool) (s : State) : Host.Outcome State Fault Refusal :=
  .next (if s.mir.role = .off then s else mirCount (if guard then guardFault s 0x16 else s) 1)

/-! ### Applying a packet (R552) -/

/-- A mirrored flag (R552): no event task and no order follows its change. -/
def applyFlag (s : State) (f : Nat) (v : Bool) : State :=
  let old := flagState s f
  let s := { s with tmx := { s.tmx with flags := mset false s.tmx.flags f v } }
  if flagState s f = old then s
  else
    let s := if flagState s f then s else flagReset s f
    flagTriggers (gseFlag (lanesUpdate s) f) f (flagState s f)

/-- A mirrored publication (R547, R557). -/
def applyPub (s : State) (p : Nat) (x : MirPub) : State :=
  setPub s p { pubOf s p with stNum := x.stNum, sqNum := x.sqNum, iv := x.iv, mirCrc := some x.crc }

/-- A mirrored subscription (R547). -/
def applySub (s : State) (n : Nat) (x : MirSub) : State :=
  setSub s n { subOf s n with stNum := x.stNum, sqNum := x.sqNum, state := subSt x.state, simLatch := x.sim, expiry := x.expiry }

/-- A mirrored object (R547, R558): a command state that fails its check blocks the object (R443). -/
def applyObj (s : State) (o : Nat) (x : MirObj) : State :=
  if !guardedOk x.st then objGuard s o
  else
    let w := guardedVal x.st
    let c : CmdObj := { st := x.st }
    if fld w 31 30 = 0 ∨ fld w 31 30 = 3 then setObj s o { c with due := 0, order := none }
    else
      setObj s o { c with
        due := s.now + x.left * 1000000
        order := some { obj := o, rank := fld w 29 27, action := if fld w 31 30 = 1 then 0 else 1, val := bit w 26, orig := x.orig.val, ctl := x.ctl.val } }

/-- A partition's mirrored state (R547); the lanes of a partition that runs on the holder follow at a takeover (R555). -/
def applyPart (s : State) (p : Nat) (x : Nat × Nat) : State :=
  let st := pstOf x.1
  let bit_ := word (2 ^ p)
  let s := modPart s p fun y => { y with pstate := st, lastStart := x.2, resumed := decide (st = .running) }
  { s with pcx := { s.pcx with pstop := if st = .halted then s.pcx.pstop ||| bit_ else s.pcx.pstop &&& ~~~bit_ } }

/-- A pair of mirrored force entries (R547), in force and as shadow. -/
def applyForces (s : State) (j : Nat) (ws : List Word) : State :=
  ((List.range 16).zip ws).foldl (fun s e =>
    if e.1 % 8 = 7 then s
    else
      let a := 0x2100000000 + (2 * j + e.1 / 8) * 0x20 + 4 * (e.1 % 8)
      if shadowOf s a = e.2 ∧ forceOf s a = e.2 then s else setForce (setShadow s a e.2) a e.2) s

/-- The list with its places, from `b` up. -/
def numbered {α : Type} (b : Nat) (l : List α) : List (Nat × α) := ((List.range l.length).map (b + ·)).zip l

/-- A record (R552). -/
def applyLine (s : State) : MirLine → State
  | .mem l bs => if inDataBank (l * 64) || inShared (l * 64) then dmaWrite s 0x16 (mirTag s) (l * 64) (bs.take 64) else s
  | .flags j bits => if j < 8 then upto 512 s fun b s => applyFlag s (512 * j + b) (bits.testBit b) else s
  | .pubs j e => (numbered (4 * j) e).foldl (fun s x => if x.1 < 256 then applyPub s x.1 x.2 else s) s
  | .subs j e => (numbered (4 * j) e).foldl (fun s x => if x.1 < 512 then applySub s x.1 x.2 else s) s
  | .objs j e => (numbered (4 * j) e).foldl (fun s x => if x.1 < 256 then applyObj s x.1 x.2 else s) s
  | .parts j e => (numbered (4 * j) e).foldl (fun s x => if x.1 < 32 then applyPart s x.1 x.2 else s) s
  | .stopped bits => upto 512 s fun t s => setTask s t { taskOf s t with stopped := bits.testBit t }
  | .forces j ws => if j < 4096 then applyForces s j ws else s
  | .point p acc wrap frac demand =>
    if p < 256 then setMp s p { mpOf s p with acc := acc, wrap := wrap, frac := frac, demand := demand } else s

/-- MAQUETTE_AUTO_INSTALL (R554): the loaded maquette of the identity becomes the program in force, without a start. -/
def autoInstall (s : State) (p : Nat) (e : Word × Word) : State :=
  let x := partOf s p
  match x.mq, x.maq with
  | .loaded, some g =>
    if e = (g.id, g.ver) ∧ ((x.prog.map fun o => (o.id, o.ver)).getD (0#32, 0#32)) ≠ e then
      modPart (newTasks (flipBanks s g) x.prog g 0) p fun x => { dropMaq x with prog := some g, img := x.maqImg }
    else s
  | _, _ => s

/-- The maquettes that the last packet's programs match (R554). -/
def autoInstalls (s : State) : State :=
  if s.mir.role ≠ .standby then s else (numbered 0 s.mir.rxProgs).foldl (fun s e => autoInstall s e.1 e.2) s

/-- An enabled partition's program is another than the packet names (R552). -/
def progsDiffer (s : State) (l : List (Word × Word)) : Bool :=
  (List.range 32).any fun p => partOn s p && decide ((l[p]?).getD (0#32, 0#32) ≠ ((progIds s)[p]?).getD (0#32, 0#32))

/-- The number of a packet (R552): a gap since the last one of the same sender's start. -/
def seqIn (s : State) (p : MirPacket) : State :=
  let gap := match s.mir.seqRx with | some (q, n) => decide (n = p.nonce) && decide (p.seq ≠ q + 1) | none => false
  let s := if gap then mirCount (modMir s fun m => { m with gap := true, bgSeen := false }) 4 else s
  modMir s fun m => { m with seqRx := some (p.seq, p.nonce), rxProgs := p.progs }

/-- A packet whose tag has verified is applied (R552-R554). -/
def applyPacket (s : State) (p : MirPacket) : State :=
  let s := seqIn s p
  let mis := progsDiffer s p.progs
  let s := autoInstalls s
  let s := if p.behind then modMir s fun m => { m with copied := false, bgSeen := false }
    else
      let s := p.recs.foldl (fun s r => applyLine s r.line) s
      let done := s.mir.bgSeen && !p.resync && !p.bg
      modMir s fun m =>
        if done then { m with copied := true, gap := false, progWait := false, bgSeen := false }
        else { m with bgSeen := m.bgSeen || p.resync }
  modMir s fun m => { m with progWait := m.progWait || mis, fmtBad := false, thruSec := p.sec.toNat, thruTick := p.tick.val }

/-- The tag of a packet verifies (R550). -/
def packetTag (s : State) (p : MirPacket) : Bool :=
  decide (p.key.val < 2) && decide (slotKey s 4 p.key.val ≠ []) &&
    Config.verifies 2 (slotKey s 4 p.key.val ++ leBytes 4 p.seq.toNat ++ leBytes 8 p.nonce.toNat ++ p.body) p.tag

/-- A packet is discarded whole; its control word does not count as valid (R538, R550). -/
def packetDrop (s : State) : State := mirCount s 3

/-- The control word's fields (R534). -/
def ctlWord (w : Word) : LeaseWord :=
  { path := true, pos := bit w 27, ready := bit w 26, epoch := Fin.ofNat 256 (fld w 25 18), sec5 := Fin.ofNat 32 (fld w 17 13),
    tick := Fin.ofNat 8192 (fld w 12 0) }

/-- The packet is one this module applies: as a standby, or as the holder that its sender has yielded to (R552, R561). -/
def applies (s : State) (w : Word) : Bool :=
  fld w 31 28 != 2 && (s.mir.role == .standby ||
    (s.mir.role == .holder && fld w 31 28 == 1 && decide (128 ≤ (fld w 25 18 + 256 - s.mir.epoch) % 256)))

/-- TICK_PACKET_RX (R538, R550, R552-R554, R562). -/
def execTickPacketRx (p : MirPacket) (s : State) : Host.Outcome State Fault Refusal :=
  .next (
    let w := guardedVal p.ctl
    if s.mir.role = .off then s
    else if !qOk s.mir.rxPtr then ptrSum (modMir s fun m => { m with rxPtr := {} }) 0x16
    else if !packetTag s p then packetDrop (mirNote s (some 11) 0 0x18 0 (some 1) [])
    else if p.format ≠ 1#16 then packetDrop (readyUpdate (modMir s fun m => { m with fmtBad := true, seqRx := some (p.seq, p.nonce) }))
    else if !p.descOk || !guardedOk p.ctl then packetDrop (guardFault s 0x16)
    else if fld w 31 28 ≠ 1 ∧ fld w 31 28 ≠ 2 ∧ fld w 31 28 ≠ 4 then packetDrop s
    else
      let s := modMir s fun m => { m with rxPtr := { m.rxPtr with rd := (m.rxPtr.rd + 1) % 65536, rdC := (m.rxPtr.rd + 1) % 65536, wr := (m.rxPtr.wr + 1) % 65536, wrC := (m.rxPtr.wr + 1) % 65536 } }
      let s := if applies s w then applyPacket s p else s
      wordIn (readyUpdate s) (fld w 31 28) (ctlWord w))

/-! ### Commands and events -/

/-- MIR_ENABLE (R532, R565). -/
def execMirEnable (a : Acc) (s : State) : Host.Outcome State Fault Refusal :=
  .next (regAccess s a R.mirCtrl true fun s =>
    if s.mir.role ≠ .off then s
    else if s.trust.lc ≠ .operational ∨ fld (shadowOf s R.mirCfg) 31 24 < 8 then setEvt s R.mirEvt 13
    else
      let m : MirSt := { role := .listen, lanes := s.mir.lanes, epoch := s.mir.epoch, posConflict := s.mir.posConflict, seqTx := s.mir.seqTx, nonceTx := s.mir.nonceTx, peak := s.mir.peak, lines := s.mir.lines }
      mastership (dropPending (setShadow { s with mir := m } R.mirCtrl 1#32)))

/-- MIR_DISABLE (R532): role OFF. -/
def execMirDisable (a : Acc) (s : State) : Host.Outcome State Fault Refusal :=
  .next (regAccess s a R.mirCtrl true fun s =>
    if s.mir.role = .off then s
    else
      let m : MirSt := { lanes := s.mir.lanes, epoch := s.mir.epoch, posConflict := s.mir.posConflict, seqTx := s.mir.seqTx, nonceTx := s.mir.nonceTx, peak := s.mir.peak, lines := s.mir.lines }
      mastership (setShadow { s with mir := m } R.mirCtrl 0#32))

/-- HANDOVER (R543): refused without a ready partner. -/
def execHandover (a : Acc) (s : State) : Host.Outcome State Fault Refusal :=
  .next (regAccess s a R.mirCtrl true fun s =>
    if s.mir.role = .holder ∧ s.mir.ptnrReady then modMir s fun m => { m with handPend := 1 } else setEvt s R.mirEvt 8)

/-- LEASE_FRAME_TX (R536): 10 µs after the meridian; a claimant becomes lane master at that instant (R541). -/
def execLeaseFrameTx (s : State) : Host.Outcome State Fault Refusal :=
  .next (
    if s.mir.role = .off ∨ s.diag.frozen ∨ !s.time.tickRun then s
    else
      let s := mirTick (reachLtc s (s.time.tickStart + 10000))
      let t := endedTick s
      let w := if s.mir.role = .holder then leaseWord s 1 false t.1 t.2
        else leaseWord s 2 (readySent s) s.mir.thruSec s.mir.thruTick
      modMir s fun m => { m with busSent := some w })

/-- A mirror lane goes down (R551, R567). -/
def laneDown (s : State) (l : Nat) : State := mirNote s (some 10) 0 0x17 l (some 1) [word l]

/-- MIR_LANE_DOWN (R551). -/
def execMirLaneDown (l : Fin 2) (s : State) : Host.Outcome State Fault Refusal :=
  .next (if s.mir.lanes.testBit l.val then laneDown (modMir s fun m => { m with lanes := m.lanes - 2 ^ l.val }) l.val else s)

/-- MIRROR_LANE_UP (R551). -/
def execMirrorLaneUp (l : Fin 2) (s : State) : Host.Outcome State Fault Refusal :=
  .next (modMir s fun m => { m with lanes := m.lanes ||| 2 ^ l.val })

/-! ### Registers -/

/-- The SCA's areas in force: base and length (R290). -/
def scaAreas (s : State) : List (Nat × Nat) :=
  [(fld (forceOf s R.scaSmpBase) 31 16 * 65536, 8192 * 8 * smpD s), (fld (forceOf s R.scaPhBase) 31 16 * 65536, 0x200000),
   (fld (forceOf s R.scaAgBase) 31 16 * 65536, 0x10000)]

/-- The check of a MIR set (R44, R546, R565). -/
def checkMir (s : State) (ps : PendSet) : Option (Nat × Nat) :=
  let v := pendVal ps.vals
  let snap := fld (v R.mirSnap) 31 20 * 0x100000
  if !inShared snap then some (3, 0x001C)
  else
    let sb := scaAreas s
    (List.range 16).findSome? fun w =>
      match winRange v w with
      | none => none
      | some (l, n) =>
        if !inShared (l * 64) || decide (0x81000000 < (l + n) * 64) || meets (l * 64) (n * 64) snap 0x100000 ||
            sb.any fun e => meets (l * 64) (n * 64) e.1 e.2
        then some (2, R.mirWinBase w % 0x10000) else none

/-- MIR_STAT. -/
def mirStat (s : State) : Word :=
  let m := s.mir
  let role := match m.role with | .off => 0 | .listen => 1 | .holder => 2 | .standby => 3
  word (role * 2 ^ 29 + b2n (mirReady m) 28 + b2n m.ptnrReady 27 + b2n m.ptnrTwilight 26 + b2n m.behind 25 + b2n m.bg.isSome 24 +
    nrCause m * 2 ^ 20 + b2n (silent m.lbCount) 19 + b2n (silent m.mlCount) 18 + m.lanes % 4 * 2 ^ 16 + m.epoch % 256 * 2 ^ 8 +
    b2n m.posConflict 7 + b2n s.pwr.ptnr 0)

/-- The registers the MIR computes (R565). -/
def readMir (s : State) (o : Nat) : Option Word :=
  let m := s.mir
  match o with
  | 0x08 => some (mirStat s)
  | 0x20 => some (word (m.lbCount % 256 * 2 ^ 24 + m.mlCount % 256 * 2 ^ 16 + m.lbType % 16 * 16 + m.mlType % 16))
  | 0x24 => some (word (m.thruSec % 65536 * 65536 + m.thruTick % 8192))
  | 0x28 => some (word (m.peak % 65536 * 65536 + m.lines % 65536))
  | 0x2C => some (word (match m.bg with | some p => min 0xFFFFFF (linesLeft p (mirRanges s)) | none => 0))
  | _ => none

end Sys2Proof.Machine
end

