-- ==== Sys2Proof/Machine/Diag.lean ====
section
/-! DEFINITION. DIAG: the loop-backs' commit rule and their entry into force (R566, R567), the trip-lane readback (R568, R569),
the built-in self-test (R570-R572) and the sums of R573. -/

namespace Sys2Proof.Machine

def modDiag (s : State) (f : DiagSt → DiagSt) : State := { s with diag := f s.diag }

/-- A notification of DIAG (R574). -/
def diagNote (s : State) (cls code info : Nat) : State := notifyAll s (forceOf s R.diagNotify) cls 0x18 code info

/-! ### Readback (R568, R569) -/

/-- READBACK_MISMATCH (R568): lane `n` differed from its driven state at three samples in a row. -/
def execReadbackMismatch (n : Fin 32) (s : State) : Host.Outcome State Fault Refusal :=
  .next (if (laneOf s n.val).rbErr then s else rbError s n.val)

/-- READBACK_CLEAR (R568): sixteen samples in a row agreed. -/
def execReadbackClear (n : Fin 32) (s : State) : Host.Outcome State Fault Refusal :=
  .next (setLane s n.val { laneOf s n.val with rbErr := false })

/-- RB_TEST (R569): a test runs one at a time; a lane whose comparator reports an error at the start fails it. -/
def execRbTest (a : Acc) (n : Fin 32) (s : State) : Host.Outcome State Fault Refusal :=
  .next (regAccess s a R.diagRbTest true fun s =>
    if s.diag.rbTest.isSome then s
    else modDiag s fun d => { d with rbTest := some (n.val, s.now), rbLane := n.val, rbDone := false, rbPass := !(laneOf s n.val).rbErr })

/-- RB_TEST_DONE (R569): 24 FAB cycles after the start; whether a mismatch was seen within the 8 cycles, and one after them. -/
def execRbTestDone (seen after : Bool) (s : State) : Host.Outcome State Fault Refusal :=
  .next (match s.diag.rbTest with
    | none => s
    | some (n, t) =>
      let s := reach s (t + 48)
      let pass := s.diag.rbPass && seen && !after
      let s := modDiag s fun d => { d with rbTest := none, rbDone := true, rbPass := pass }
      if pass then s
      else diagNote (almPost (setEvt s R.diagEvt 2) 1 0x18 0x12 none [word n]) 1 0x12 n)

/-! ### Self-test (R570-R572) -/

/-- The record of a failed test (R571, R572). -/
def bistRecord (s : State) (t : Nat) : State := almPost (setEvt s R.diagEvt 1) 1 0x18 0x10 none [word t]

/-- BUILT_IN_SELF_TEST (R570, R571): the first stage's tests, by the tests that failed. A failure of tests 0 to 5 halts the
start; one of tests 6 to 8 is posted once firmware runs. -/
def execBuiltInSelfTest (fails : BitVec 9) (s : State) : Host.Outcome State Fault Refusal :=
  .next (
    if s.trust.stage ≠ 2 ∨ s.diag.bistOk ∨ s.trust.halted then s
    else
      let bad := (List.range 9).filter fun t => fails.getLsbD t
      let s := bad.foldl bistRecord (modDiag s fun d => { d with bistFail := word fails.toNat })
      if bad.any fun t => decide (t ≤ 5) then { s with trust := { s.trust with halted := true } }
      else modDiag s fun d => { d with bistOk := true, bistPost := bad })

/-- BIST_RERUN (R572): only tests 2 and 4; test 2 needs TRUST's engines (R138). -/
def execBistRerun (a : Acc) (t : Fin 16) (s : State) : Host.Outcome State Fault Refusal :=
  .next (regAccess s a R.diagBistCtrl true fun s =>
    if s.diag.bist.isSome then modDiag s fun d => { d with bistErr := 2 }
    else if t.val ≠ 2 ∧ t.val ≠ 4 then modDiag s fun d => { d with bistDone := true, bistErr := 1 }
    else if t.val = 2 ∧ s.trust.cmd.isSome then modDiag s fun d => { d with bistDone := true, bistErr := 2 }
    else modDiag s fun d => { d with bist := some t.val, bistDone := false, bistErr := 0 })

/-- BIST_DONE (R572). -/
def execBistDone (fail : Bool) (s : State) : Host.Outcome State Fault Refusal :=
  .next (match s.diag.bist with
    | none => s
    | some t =>
      let s := modDiag s fun d => { d with bist := none, bistDone := true, bistFail := setFld d.bistFail t t (b2n fail 0) }
      if fail then bistRecord s t else s)

/-! ### Loop-backs (R566, R567) -/

/-- Pair `q` of the ports is used by a context, a subscription, a domain or a publication (R567). -/
def pairUsed (s : State) (q : Nat) : Bool :=
  (decide (q = 0) && (List.range 1024).any fun c => let w := forceOf s (R.ctxCfg c); bit w 31 && decide (fld w 1 0 ≠ 0)) ||
  ((List.range 512).any fun n => let w := forceOf s (R.gsCfg n); bit w 31 && bit w (27 + q)) ||
  ([0, 1].any fun d => domOn s d && fld (shadowOf s (R.domCfg d)) 9 9 == q) ||
  ((List.range 64).any fun p => let w := forceOf s (R.pubCfg p); bit w 31 && (if q = 0 then fld w 27 26 == 0 || fld w 27 26 == 3 else fld w 27 26 == 1))

/-- The check of a DIAG set (R567, R579). -/
def checkDiag (s : State) (ps : PendSet) : Option (Nat × Nat) :=
  let v := pendVal ps.vals
  let mac := v R.diagLbMac
  let fbc := v R.diagLbFbc
  let mir := v R.diagLbMir
  let d := fun (w : Word) n => fld w (4 * n + 3) (4 * n)
  if (List.range 4).any fun n => decide (4 < d mac n) then some (3, 0x10)
  else if (List.range 2).any fun n => decide (3 < d fbc n) then some (3, 0x14)
  else if (List.range 2).any fun n => decide (3 < d mir n) then some (3, 0x18)
  else if (List.range 2).any fun q => d mac (2 * q) != 0 && d mac (2 * q + 1) != 0 && pairUsed s q then some (2, 0x10)
  else if (List.range 2).any fun m => d fbc m != 0 && laneMaster s &&
      (List.range 256).any fun o => let w := forceOf s (R.coCfg o); bit w 31 && fld w 27 27 == m then some (2, 0x14)
  else if d mir 0 != 0 && d mir 1 != 0 && bit (shadowOf s R.mirCtrl) 0 then some (2, 0x18)
  else none

/-- The DIAG set in force: a mirror lane that was up goes down as its loop-back begins (R567), and what the start-up tests found
is posted once firmware runs (R571). -/
def diagInForce (s0 s : State) : State :=
  let down := (lanesUp s0).filter fun l => !(lanesUp s).contains l
  let s := down.foldl laneDown s
  if 4 ≤ s.trust.stage then
    s.diag.bistPost.foldl (fun s t => diagNote s 1 0x10 t) (modDiag s fun d => { d with bistPost := [] })
  else s

/-- DIAG_PRBS_LOCK: a checker whose lane is looped at the depths the generator runs at (R566). -/
def prbsLock (s : State) : Word :=
  let p := shadowOf s R.diagPrbsCtrl
  word ((List.range 4).foldl (fun a m => a + b2n (prbsMac s m) m) 0 +
    [0, 1].foldl (fun a l => let d := fld (forceOf s R.diagLbMir) (4 * l + 3) (4 * l)
      a + b2n (bit p (4 + l) && (d == 1 || d == 2)) (4 + l)) 0)

/-- The dump-valid marker passes its guard check with its value (R576). -/
def dumpMark (s : State) : Bool := rd64 s 0x4FC000090 == guarded 0x4C445641#32

/-- The registers DIAG computes (R579). -/
def readDiag (s : State) (o : Nat) : Option Word :=
  let d := s.diag
  match o with
  | 0x0000 => some (word (b2n d.frozen 31 + b2n d.kept 30 + b2n d.bist.isSome 29))
  | 0x0024 => some (prbsLock s)
  | 0x0064 => some (word (b2n d.rbTest.isSome 31 + b2n d.rbDone 30 + b2n (d.rbDone && d.rbPass) 29 + d.rbLane))
  | 0x0084 => some (word (b2n d.bist.isSome 31 + b2n d.bistDone 30 + d.bistErr * 256))
  | 0x0088 => some d.bistFail
  | 0x020C => some (word (b2n (d.sealing.isSome || d.wiping) 31 + b2n (dumpMark s) 30 + d.dumpErr * 256 + d.badKey))
  | 0x0140 => some (word ((List.range 25).foldl (fun a i => a + b2n (evt s (R.base i + 0xFFE8) 4) i) 0))
  | _ => none

end Sys2Proof.Machine
end

