-- ==== Sys2Proof/Machine/Reset.lean ====
section
/-! DEFINITION. A reset of the device (R110-R112). What it wipes is wiped after its release (R113): `Machine/Boot.lean`. -/

namespace Sys2Proof.Machine

/-- The order of R112 among causes, given by their bits in SYS_RST_CAUSE: POR 0, BROWNOUT 1, WATCHDOG 2, SOFTWARE 3, DUMP 4,
LIFECYCLE 5, CLOCK 6. -/
def causeRank (c : Nat) : Nat :=
  match c with | 0 => 0 | 1 => 1 | 6 => 2 | 5 => 3 | 4 => 4 | 2 => 5 | _ => 6

/-- The cause recorded: of two that arise in one BUS cycle the higher one (R112). -/
def resetCause (s : State) (c : Nat) : Nat :=
  if !s.sys.released && s.sys.at_ / 4 == s.now / 4 && decide (causeRank s.sys.cause < causeRank c) then s.sys.cause else c

/-- What PWR keeps as long as the module has power: supply, pins, counts. -/
def pwrKept (x : PwrSt) : PwrSt :=
  { on := x.on, onAt := x.onAt, good := x.good, goodAt := x.goodAt, fail := x.fail, failAt := x.failAt, vinMv := x.vinMv,
    vstMv := x.vstMv, capUf := x.capUf, measured := x.measured, tSoc := x.tSoc, tInlet := x.tInlet, handle := x.handle,
    handle2 := x.handle2, ptnr := x.ptnr, opsec := x.opsec, opsecAt := x.opsecAt, cycles := x.cycles, twi := x.twi }

/-- What TRUST keeps in fuses and MRAM. -/
def trustKept (x : TrustSt) : TrustSt :=
  { prov := x.prov, decom := x.decom, svn := x.svn, fuses := x.fuses, ks := x.ks, lc := x.lc }

/-- DEVICE_RESET (R110-R112): everything at its reset value but memory, fuses, pins and what PWR keeps; KEYREG, engine slots,
session and nonce are gone. -/
def deviceReset (s : State) (c : Nat) : State :=
  { State.reset with
    now := s.now
    ltc := if resetCause s c = 0 then 0 else s.ltc
    mem := s.mem, ecc := s.ecc, draws := s.draws, pending := s.pending, bus := s.bus, busErr := s.busErr
    fbc0 := { xcvr := s.fbc0.xcvr }, fbc1 := { xcvr := s.fbc1.xcvr }
    bi := { pins := s.bi.pins.map fun e => (e.1, { level := e.2.raw, raw := e.2.raw }) }
    net := { macs := s.net.macs.map fun e => (e.1, { modAbs := e.2.modAbs, rxLos := e.2.rxLos, txFault := e.2.txFault }) }
    sys := { cause := resetCause s c, at_ := s.now }
    pwr := pwrKept s.pwr
    trust := trustKept s.trust
    ufs := s.ufs }

end Sys2Proof.Machine
end

