-- ==== Sys2Proof/Machine/Pwr.lean ====
section
/-! DEFINITION. PWR: power-up (R76), the hold-up store (R77, R78), supply failure and the twilight sequence (R79-R87), the
counts (R88), cage over-current (R73), and the registers (R89, R90). The twilight save area holds the power-cycle count at
offset 0, the operating seconds at 8, the completion marker at 0x10 and SAVE_US at 0x18: the rules give it no layout. -/

namespace Sys2Proof.Machine

def modPwr (s : State) (f : PwrSt → PwrSt) : State := { s with pwr := f s.pwr }

/-- STORE_OK (R77): ½ C (V² − 20²) is at least 1.53 J. -/
def storeOk (s : State) : Bool :=
  decide (3060000000000 ≤ s.pwr.capUf * (s.pwr.vstMv * s.pwr.vstMv - 400000000))

/-- STORE_DEGRADED (R78): the capacitance, once it has been measured, is below 1610 µF. -/
def storeDegraded (s : State) : Bool := s.pwr.measured && decide (s.pwr.capUf < 1610)

/-- FAIL_TH in mV (R79). -/
def failTh (s : State) : Nat := fld (forceOf s R.pwrCfg) 6 0 * 100

/-- The twilight save area (R40). -/
def saveArea : Nat := 0xA0020000
/-- The value of the completion marker, which no rule gives. -/
def saveMark : Word := 0x54574C54#32

/-- Both counts written to the twilight save area (R88). -/
def countsWrite (s : State) : State :=
  wrBytes s saveArea (leBytes 8 s.pwr.cycles ++ leBytes 8 s.pwr.opsec)

/-! ### Power-up (R76) -/

/-- POWER_ON (R64, R76): VIN rises through VON on a module that is off. -/
def execPowerOn (s : State) : Host.Outcome State Fault Refusal :=
  .next (if s.pwr.on then s
    else modPwr (deviceReset s 0) fun x => { on := true, onAt := s.now, good := false, handle := x.handle, handle2 := x.handle2, ptnr := x.ptnr, twi := x.twi })

/-- POWER_GOOD (R76 step 2): 12 to 20 ms after power-on, `us` µs beyond the 12 ms. -/
def execPowerGood (us : Fin 8001) (s : State) : Host.Outcome State Fault Refusal :=
  .next (if !s.pwr.on || s.pwr.good then s
    else
      let s := reach s (s.pwr.onAt + 12000000 + us.val * 1000)
      modPwr s fun x => { x with good := true, goodAt := s.now, opsecAt := s.now })

/-- STORE_OK_CHANGE (R77): the store's voltage as it crosses the criterion. -/
def execStoreOkChange (vst : Half) (s : State) : Host.Outcome State Fault Refusal :=
  .next (modPwr s fun x => { x with vstMv := vst.toNat })

/-- STORE_MEASURE (R77, R78): capacitance in µF and voltage in mV. -/
def execStoreMeasure (cap vst : Half) (s : State) : Host.Outcome State Fault Refusal :=
  .next (
    let was := storeDegraded s
    let s := modPwr s fun x => { x with capUf := cap.toNat, measured := true, vstMv := vst.toNat }
    if storeDegraded s && !was then
      almPost (setEvt s R.pwrEvt 3) 1 0x17 0x83 none [word cap.toNat]
    else s)

/-! ### Supply failure (R79-R82, R86) -/

/-- PWR_FAIL_ASSERT (R79, R80, R82, R86): VIN, below FAIL_TH for 20 µs. -/
def execPwrFailAssert (vin : Half) (s : State) : Host.Outcome State Fault Refusal :=
  .next (
    if s.pwr.fail ∨ failTh s ≤ vin.toNat then s
    else
      let ok := storeOk s
      let s := modPwr s fun x => { x with fail := true, failAt := s.now, vinMv := vin.toNat }
      let s := if s.trust.ready ∧ s.pwr.phase = .normal then modPwr s fun x => { x with phase := .ride, saveDue := !ok, twi := true } else s
      let s := sendNow (setEvt s R.pwrEvt 0) 5 (readySent s)
      almPost s 1 0x17 0x80 none [word vin.toNat])

/-- PWR_FAIL_DEASSERT (R79, R81, R86): VIN, at or above FAIL_TH + 0.5 V for 1 ms. -/
def execPwrFailDeassert (vin : Half) (s : State) : Host.Outcome State Fault Refusal :=
  .next (
    if !s.pwr.fail ∨ vin.toNat < failTh s + 500 then s
    else
      let s := modPwr s fun x => { x with fail := false, vinMv := vin.toNat }
      match s.pwr.phase with
      | .normal => deviceReset s 1
      | .ride =>
        if s.pwr.saveDue then s
        else
          let s := setEvt (modPwr s fun x => { x with phase := .normal, twi := false }) R.pwrEvt 2
          almPost (sendNow s 6 (readySent s)) 3 0x17 0x81 none [word vin.toNat]
      | _ => s)

/-- RIDE_THROUGH_END (R83): 10 ms after PWR_FAIL asserted. -/
def execRideThroughEnd (s : State) : Host.Outcome State Fault Refusal :=
  .next (if s.pwr.phase = .ride ∧ s.pwr.fail ∧ !s.pwr.saveDue then
      modPwr (reach s (s.pwr.failAt + 10000000)) fun x => { x with saveDue := true }
    else s)

/-! ### The save (R83-R86) -/

/-- Every line not yet written goes to the plinth (R83 step 3). -/
def plinthAll (s : State) : State :=
  let s := plinthCapture s
  upto (s.tsk.round.length + s.tsk.nextRound.length) s fun _ s => plinthLine s

/-- Step 1 for a partition: its series and maquette are discarded, without a record (R83, R86). -/
def switchDrop (s : State) (p : Nat) : State :=
  holdAll (modPart s p fun x => if x.mq = .switching ∨ x.attemptAt.isSome then dropMaq x else x) p false

/-- Phase SAVE begins, with steps 1 to 4 (R83). The ALM writes nothing until step 5 (R498); a dump in progress is abandoned. -/
def twilightSave (s : State) : State :=
  let s := modPwr s fun x => { x with phase := .save, saveDue := false, saveAt := s.now }
  let s := { s with alm := { s.alm with paused := true }, diag := { s.diag with sealing := none } }
  let s := upto 32 s fun p s => switchDrop s p
  countsWrite (plinthAll (mtrTwilight s))

/-- The save is due and nothing but a meridian is waited for (R47, R83). -/
def saveIfDue (s : State) : State := if s.pwr.saveDue then twilightSave s else s

/-- TWILIGHT_SAVE_DONE (R83 steps 5 and 6, R84): the save has taken `us` µs. -/
def execTwilightSaveDone (us : Fin 2001) (s : State) : Host.Outcome State Fault Refusal :=
  .next (if s.pwr.phase ≠ .save then s
    else
      let s := reach s (s.pwr.saveAt + us.val * 1000)
      let d := (s.now - s.pwr.saveAt) / 1000
      let s := almRecord { s with alm := { s.alm with paused := false } } (mkPost s 3 0x17 0x82 none [word d])
      let s := wrBytes s (saveArea + 0x10) (leBytes 8 (guarded saveMark).toNat ++ leBytes 4 d)
      let s := setEvt (modPwr s fun x => { x with phase := .hand }) R.pwrEvt 1
      if s.mir.role = .holder then modMir s fun m => { m with handPend := 2 } else s)

/-- STORE_LOW_HOLD (R84): the store falls to 22 V on a module without a ready partner to hand the lease to. -/
def execStoreLowHold (vst : Half) (s : State) : Host.Outcome State Fault Refusal :=
  .next (if s.pwr.phase = .hand ∧ vst.toNat ≤ 22000 ∧ ¬(s.mir.role = .holder ∧ s.mir.ptnrReady) then
      mastership (modPwr s fun x => { x with vstMv := vst.toNat, released := true })
    else s)

/-- STORE_CUTOFF (R84, R85): at 20 V the drivers go to high impedance and the rails switch off. -/
def execStoreCutoff (s : State) : Host.Outcome State Fault Refusal :=
  .next (if !s.pwr.fail then s
    else modPwr (deviceReset s 0) fun x => { x with on := false, good := false, highZ := true, vinMv := 0, vstMv := 20000 })

/-- TWILIGHT_HAND_END (R85): phase HAND ends with VIN recovered. -/
def execTwilightHandEnd (vin : Half) (s : State) : Host.Outcome State Fault Refusal :=
  .next (if s.pwr.phase = .hand ∧ failTh s + 500 ≤ vin.toNat then
      deviceReset (modPwr s fun x => { x with fail := false, vinMv := vin.toNat }) 1
    else s)

/-- TWILIGHT_OUTCOME_READ (R87, R88): the marker is read, a guarded word (R17), and cleared; after POR the counts are those of the
save area, with one power cycle more. The outcome: 1 COMPLETE, 2 INCOMPLETE, 3 COMPLETE with a BROWNOUT reset after it; 0, that no
twilight came since the marker was last cleared, after a reset that no loss of power caused, where none has begun and the marker
stands as it was cleared (R89; log 39). -/
def twilightRead (s : State) : State :=
  let s := blockRead s 0x17 saveArea 0x20
  let raw := rd64 s (saveArea + 0x10)
  let mark := guardedOk raw && guardedVal raw == saveMark
  let c := s.sys.cause
  let out := if mark then (if c = 1 then 3 else 1) else if c ≤ 1 ∨ s.pwr.twi ∨ raw ≠ 0#64 then 2 else 0
  let s := if raw ≠ 0#64 ∧ !guardedOk raw then guardFault s 0x17 else s
  let us := if mark then fld (rd32 s (saveArea + 0x18)) 15 0 else 0
  let cyc := if c = 0 then ((rd32 s saveArea).toNat + 1) % 2 ^ 32 else s.pwr.cycles
  let ops := if c = 0 then (rd64 s (saveArea + 8)).toNat % 2 ^ 40 else s.pwr.opsec
  wrBytes (modPwr s fun x => { x with outcome := out, saveUs := us, cycles := cyc, opsec := ops, twi := false }) (saveArea + 0x10) (List.replicate 12 0#8)

/-- OPERATING_COUNT_WRITE (R88): a second with power-good has passed. -/
def execOperatingCountWrite (s : State) : Host.Outcome State Fault Refusal :=
  .next (if !s.pwr.good then s
    else
      let s := reach s (s.pwr.opsecAt + 1000000000)
      countsWrite (modPwr s fun x => { x with opsec := (x.opsec + 1) % 2 ^ 40, opsecAt := x.opsecAt + 1000000000 }))

/-! ### Pins and sensors -/

/-- SFP_OVERCURRENT (R73). -/
def execSfpOvercurrent (n : Fin 4) (s : State) : Host.Outcome State Fault Refusal :=
  .next (if bit (shadowOf s R.pwrSfp) n.val then
      setEvt (setShadow s R.pwrSfp (shadowOf s R.pwrSfp &&& ~~~(word (2 ^ n.val)))) R.pwrSfp (8 + n.val)
    else s)

/-- HANDLE_CHANGE (R92, R495): the switch of one of the two handles. -/
def execHandleChange (v : HandleSwitch) (s : State) : Host.Outcome State Fault Refusal :=
  .next (if (if v.second then s.pwr.handle2 else s.pwr.handle) = v.opened then s
    else
      let s := modPwr s fun x => if v.second then { x with handle2 := v.opened } else { x with handle := v.opened }
      almPost (setEvt s R.pwrEvt 7) 3 0x17 0x85 none [word (b2n v.opened 0)])

/-- TEMP_WARN (R93): the junction's temperature, which reached 105 °C, and the inlet's. -/
def execTempWarn (soc inlet : Byte) (s : State) : Host.Outcome State Fault Refusal :=
  .next (
    let s := modPwr s fun x => { x with tSoc := soc, tInlet := inlet }
    if 105 ≤ soc.toInt then almPost (setEvt s R.pwrEvt 5) 1 0x17 0x84 none [word soc.toNat] else s)

/-- VIN_SURGE (R89): VIN, above 62 V. -/
def execVinSurge (vin : Half) (s : State) : Host.Outcome State Fault Refusal :=
  .next (
    let s := modPwr s fun x => { x with vinMv := vin.toNat }
    if 62000 < vin.toNat then setEvt s R.pwrEvt 4 else s)

/-- PTNR_PRES_CHANGE (R89). -/
def execPtnrPresChange (v : Bool) (s : State) : Host.Outcome State Fault Refusal :=
  .next (if s.pwr.ptnr = v then s else setEvt (modPwr s fun x => { x with ptnr := v }) R.pwrEvt 6)

/-! ### Registers -/

/-- A read of PWR_OPSEC_LO, which latches PWR_OPSEC_HI. -/
def opsecRead (s : State) : State :=
  setBus (modPwr s fun x => { x with opHi := x.opsec / 2 ^ 32 }) (word s.pwr.opsec)

/-- OPSEC_READ (R89). -/
def execOpsecRead (a : Acc) (s : State) : Host.Outcome State Fault Refusal :=
  .next (regAccess s a R.pwrOpsecLo false opsecRead)

/-- The check of a PWR set (R89). -/
def checkPwr (ps : PendSet) : Option (Nat × Nat) :=
  let t := fld (pendVal ps.vals R.pwrCfg) 6 0
  if 75 ≤ t ∧ t ≤ 82 then none else some (3, 0x0C)

/-- The registers PWR computes (R89). -/
def readPwr (s : State) (o : Nat) : Option Word :=
  let x := s.pwr
  match o with
  | 0x00 =>
    let ph := match x.phase with | .normal => 0 | .ride => 1 | .save => 2 | .hand => 3
    some (word (b2n (x.handle || x.handle2) 8 + b2n x.ptnr 7 + ph * 16 + b2n (storeDegraded s) 3 + b2n (storeOk s) 2 +
      b2n x.fail 1 + b2n (decide (9000 ≤ x.vinMv ∧ x.vinMv ≤ 60000)) 0))
  | 0x10 => some (word x.vinMv)
  | 0x14 => some (word (x.capUf * 65536 + x.vstMv))
  | 0x18 => some (word (x.tSoc.toNat * 256 + x.tInlet.toNat))
  | 0x20 => some (word x.cycles)
  | 0x24 => some (word x.opsec)
  | 0x28 => some (word x.opHi)
  | 0x30 => some (word (x.saveUs % 65536 * 65536 + x.outcome))
  | 0x40 => some ((shadowOf s R.pwrSfp &&& 0xF#32) ||| (liveOf s R.pwrSfp &&& 0xF00#32))
  | _ => none

end Sys2Proof.Machine
end

