-- ==== Sys2Proof/Machine/Chain.lean ====
section
/-! DEFINITION. The chain of a channel (R265-R277, R284-R291) and the frequency of a group (R278, R292), as one release goes
through them. -/

namespace Sys2Proof.Machine

/-! ### Stages 1 to 4 -/

/-- Stage 1 at the newest source sample of `xs` (R269), in units of 2⁻¹⁶. -/
def stage1 (xs : List Int) (d : Nat) : Int :=
  let q := d / 256
  let p := d % 256
  let x := fun i => (xs[q + i]?).getD 0
  if p = 0 then x 3 * 65536
  else roundQ (((List.range 8).map fun i => polyTap p i * x i).foldl (· + ·) 0) 16384

/-- The output of a half-band at the newest entry of `l` (R271). -/
def halfBand (l : List Int) : Int :=
  roundQ (((List.range 23).map fun i => halfCoef i * (l[i]?).getD 0).foldl (· + ·) 0) (2 ^ 30)

/-- The 3:1 filter with the taps of a bank (R271, R280). -/
def fir3 (x : BankSt) (w : Bool) (us : List Int) : Int :=
  roundQ (((List.range 48).map fun i =>
    (bankVal x w (256 + (if i < 24 then i else 47 - i))).toInt * (us[i]?).getD 0).foldl (· + ·) 0) (2 ^ 30)

/-- y2 of a release (R271). -/
def stage2 (x : BankSt) (w : Bool) (k : Nat) (us ms : List Int) : Int :=
  match k with
  | 1 => us.head?.getD 0
  | 2 => halfBand us
  | 3 => fir3 x w us
  | _ => halfBand ms

/-- Stage 3 (R272): the DC estimate and y3, with the values of a bank. -/
def stage3 (x : BankSt) (w : Bool) (i : Nat) (y2 e : Int) (frozen : Bool) : Int × Int :=
  let tc := fld (bankVal x w (128 + i)) 15 0
  let e' := if tc = 0 then 0 else if frozen then e else fix48 (e + roundQ (y2 - e) tc)
  (e', fix48 (roundQ ((bankVal x w i).toInt * (y2 - e')) (2 ^ 30)))

/-- The values a channel uses of a bank pass their checks (R284). -/
def bankOk (x : BankSt) (w : Bool) (i k : Nat) : Bool :=
  guardedOk (bankEnt x w i) && guardedOk (bankEnt x w (128 + i)) &&
    (k != 3 || (List.range 24).all fun t => guardedOk (bankEnt x w (256 + t)))

/-- The sum of the newest `n` entries. -/
def sumOf (l : List Int) (n : Nat) : Int := (l.take n).foldl (· + ·) 0

/-- The RMS value of the newest `n` entries of y3, FP32 (R274). -/
def rmsOf (l : List Int) (n : Nat) : Word :=
  let q := ((l.take n).map fun x => x.natAbs * x.natAbs).foldl (· + ·) 0
  rootOf q (n * 2 ^ 32)

/-- The conditioned value (R265). -/
def condVal (y : Int) : Word := satI32 (nearQ y 65536)

/-! ### Quality (R285, R286) -/

/-- AND of VALID, OR of INTERPOLATED, TEST, SIMULATED and STALE; the other bits are those of `newest`. -/
def qualAll (newest : Word) (l : List Word) : Word :=
  let v := l.all fun q => bit q 31
  let o := l.foldl (fun a q => a ||| (q &&& 0x72000000#32)) 0#32
  word (b2n v 31) ||| o ||| (newest &&& 0x0C003FFF#32)

/-! ### Stage 5 (R275-R277) -/

/-- A bin of order `h` is at its limit (R277). -/
def atLimit (a : PhArgs) (h : Nat) : Bool := decide (a.fs * 45000000 ≤ h * a.f * 100) || respLow a h

/-- A bin: its real and imaginary part, and whether it is at its limit or disabled (R276, R277). -/
def binOf (a : PhArgs) (code : Nat) (win dc : List Int) : List Word × Bool :=
  if code = 0 then ([0#32, 0#32], true)
  else if code = 1 then
    let m := meanOf a dc
    ([fpNear m.1 (m.2 * 65536), 0#32], false)
  else if atLimit a code then ([0#32, 0#32], true)
  else
    let p := binVal a code win
    ([p.1, p.2], false)

/-- A phasor record (R291) with quality `q`. -/
def phRecord (a : PhArgs) (t bins : Word) (win dc : List Int) (rms q : Word) : List Word :=
  let lim := atLimit a 1
  let p := if lim then (0#32, 0#32) else binVal a 1 win
  let b0 := binOf a (fld bins 5 0) win dc
  let b1 := binOf a (fld bins 13 8) win dc
  let b2 := binOf a (fld bins 21 16) win dc
  [q, t, p.1, p.2] ++ b0.1 ++ b1.1 ++ b2.1 ++ [rms, word (b2n lim 3 + b2n b2.2 2 + b2n b1.2 1 + b2n b0.2 0)] ++ List.replicate 4 0#32

/-! ### One channel -/

/-- A source sample of slot `8c + j`, read by the SCA's DMA (R266): a refused read gives zeros. -/
def chRead (s : State) (c j a : Nat) : (Int × Word) × State :=
  let r := dmaRead s 0x0B (dmaTag s 0x0B (ownerOf s 2 (ctxGrp s c))) (sbAddr s c j a) 8
  (((bytesWord r.1 0).toInt, bytesWord r.1 1), r.2)

/-- The source samples of a release, oldest first. -/
def chReads (s : State) (c j t : Nat) : List (Int × Word) × State :=
  (List.range (ctxK s c)).foldl (fun (l, s) i =>
    let r := chRead s c j (ctxK s c * (t - 1) + 1 + i)
    (l ++ [r.1], r.2)) ([], s)

/-- The source samples of a release enter the histories of stages 1 and 2 (R266, R269, R289): `disc` is a source discontinuity
of the whole release. The result says whether a discontinuity affects the release. -/
def chInput (k d : Nat) (disc : Bool) (x : ChSt) (l : List (Int × Word)) : ChSt × Bool :=
  ((List.range l.length).zip l).foldl (fun (x, ev) (i, v, q) =>
    let first := bit q 31 && !x.valid
    let xs := (v :: (if first then [] else x.xs)).take 64
    let us := (stage1 xs d :: x.us).take 64
    let ms := if k = 4 ∧ i % 2 = 1 then (halfBand us :: x.ms).take 32 else x.ms
    ({ x with xs := xs, us := us, ms := ms, valid := bit q 31 }, ev || first))
    ({ x with xs := if disc then [] else x.xs }, disc)

/-- The settle counters after the events of a release (R288, R289). -/
def chSettle (x : ChSt) (l : List (Nat × Nat)) : ChSt :=
  { x with
    smpLeft := l.foldl (fun m e => max m e.1) x.smpLeft
    phLeft := l.foldl (fun m e => max m e.2) x.phLeft }

/-- A force of kind 2 (sample) or 3 (phasor) that the owner's table holds on a slot, as last applied (R287, R395, R403). -/
def forceOn (s : State) (p : Option Nat) (kind ch : Nat) : Option (Nat × Nat) :=
  match p with
  | none => none
  | some p => ((mtake s.tsk.forces (p * 256) (p * 256 + 256)).find? fun e =>
      e.2.state == 1 && fld e.2.cfg 30 28 == kind && fld e.2.cfg 12 0 == ch).map fun e => (p, e.1 % 256)

/-- The SCA's store write under the PID of the group's owner (R290). -/
def storePut (s : State) (g a : Nat) (ws : List Word) : State :=
  let r := dmaAccess s 0x0B (dmaTag s 0x0B (ownerOf s 2 g)) true a (4 * ws.length)
  if r.2.isSome then setEvt r.1 R.scaEvt 5 else wrBytes r.1 a (wordsBytes ws)

/-- What a release carries to its channels; `runs` are the contexts that enter RUN with it. -/
structure RelCtx where
  g : Nat
  t : Nat
  disc : Bool
  frozen : Bool
  f : Nat
  runs : List Nat
  deriving DecidableEq, Repr

/-- The chain of slot `8c + j` for a release with the source samples `l` (R265-R289): the channel's new state, the quality of its
conditioned sample before the forces, and the banks whose values failed. -/
def chChain (s : State) (r : RelCtx) (c j : Nat) (l : List (Int × Word)) : ChSt × Word × List Bool :=
  let ch := 8 * c + j
  let cfg := forceOf s (R.scaChCfg ch)
  let bins := forceOf s (R.scaChBins ch)
  let k := ctxK s c
  let x := chOf s ch
  let rate := ctxRate s c
  let d := delayOf cfg rate
  let clamp := decide (delayMax rate < fld cfg 13 0)
  let b := bankOf s (ch / 128)
  let i := ch % 128
  let old := b.active
  let fading := match b.fade with | some n => decide (x.fade < n) | none => false
  let use := chBank b x
  let len := b.fade.getD 1
  let frozen := r.frozen && bit cfg 19
  let inp := chInput k d (r.disc || r.runs.contains c || (ctxOf s c).event) x l
  let y := inp.1
  let y2 := stage2 b use k y.us y.ms
  let e0 := if b.fade.isSome && !fading then x.eNew else x.e
  let a := stage3 b use i y2 e0 frozen
  let eN := if fading ∧ x.fade = 0 then x.e else x.eNew
  let a' := if fading then stage3 b (!old) i (stage2 b (!old) k y.us y.ms) eN frozen else a
  let pos := x.fade + 1
  let y3 := if fading then roundQ ((len - pos : Int) * a.2 + pos * a'.2) len else a.2
  let bad := (if fading then [old, !old] else [use]).filter fun w => !bankOk b w i k
  let ma := fld cfg 29 20 + 1
  let y3s := (y3 :: y.y3).take 1024
  let y4 := if fld cfg 31 30 = 1 then roundQ (sumOf y3s ma) ma else y3
  let tc := fld (bankVal b use (128 + i)) 15 0
  let tcN := fld (bankVal b (!old) (128 + i)) 15 0
  let s1 := settle1 cfg k rate tc
  let c5 := settle5 cfg (fsOf s) r.f
  let evs := (if inp.2 then [(s1, s1 + c5)] else []) ++
    (if (clamp && !x.clamped) || fld cfg 13 0 != fld x.cfg 13 0 || bit (word x.event) 0 then [(s1, s1 + c5)] else []) ++
    (if fading ∧ x.fade = 0 then [(len + settle3 cfg tcN, len + settle3 cfg tcN + c5)] else []) ++
    (if fld cfg 31 20 ≠ fld x.cfg 31 20 then [(settle4 cfg, settle4 cfg + c5)] else []) ++
    (if bins ≠ x.bins ∨ bit cfg 18 ≠ bit x.cfg 18 ∨ bit (word x.event) 1 then [(0, c5)] else [])
  let qs := l.map (·.2)
  let q := qualAll ((qs.getLast?).getD 0#32) qs
  let q := if bad.isEmpty then q else q &&& 0x7FFFFFFF#32
  let y := { y with y2 := (y2 :: y.y2).take 128, y3 := y3s, y4 := (y4 :: y.y4).take 128, val := condVal y4, cfg := cfg, bins := bins, clamped := clamp, frozen := frozen, event := 0 }
  let y := if fading then { y with e := a.1, eNew := a'.1, fade := pos } else if b.fade.isSome then { y with eNew := a.1 } else { y with e := a.1 }
  (chSettle { y with qs := (q :: y.qs).take 128 } evs, q, bad)

/-- The phasor record of a slot before the forces (R275-R277, R286). -/
def chPhasor (s : State) (r : RelCtx) (c j : Nat) (x : ChSt) (ok : Bool) : List Word :=
  let ch := 8 * c + j
  let t := word r.t
  if !bit x.cfg 18 then [0#32, t] ++ List.replicate 14 0#32
  else
    let b := bankOf s (ch / 128)
    let smooth := decide (fld x.cfg 31 30 = 1)
    let l := fld x.cfg 29 20 + 1
    let tc := if x.frozen then 0 else fld (bankVal b (chBank b x) (128 + ch % 128)) 15 0
    let a : PhArgs := { f := r.f, f0 := nomF s r.g, fs := fsOf s, n := r.t % fsOf s, k := ctxK s c, tc := tc, l := if smooth then l else 1 }
    let w := a.den / max 1 r.f + (if a.den % max 1 r.f = 0 then 0 else 1)
    let held := bit (forceOf s (R.scaAgCfg r.g)) 31 && decide ((agOf s r.g).fst_ ≠ .tracking)
    let q := qualAll (x.qs.head?.getD 0#32) (x.qs.take w) ||| word (b2n (decide (0 < x.phLeft)) 24 + b2n x.frozen 22 + b2n held 21)
    let q := if ok then q else q &&& 0x7FFFFFFF#32
    phRecord a t x.bins ((if smooth then x.y4 else x.y3).take w) (x.y2.take w) (if fld x.cfg 31 30 = 2 then rmsOf x.y3 l else 0#32) q

/-- The forced value of a slot, if its force holds; a guard fault removes the force (R287, R407). -/
def forceTake (s : State) (p : Option Nat) (kind ch : Nat) : Option (Nat × Nat) × State :=
  match forceOn s p kind ch with
  | none => (none, s)
  | some (p, e) => if forceGuardOk s p e then (some (p, e), s) else (none, forceGuard s p e)

/-- The quality of a forced output (R287). -/
def forceQual (s : State) (p e : Nat) : Word := ((forceSt s p e).qual &&& 0xFF603FFF#32) ||| 0x00800000#32

/-- One slot of a release: its chain, its sample entry and its phasor record (R266, R287, R290, R291). -/
def chRelease (r : RelCtx) (c j : Nat) (s : State) : State :=
  let ch := 8 * c + j
  let b := ch / 128
  let own := ownerOf s 1 (ch / 8)
  let inp := chReads s c j r.t
  let s := inp.2
  let res := chChain s r c j inp.1
  let x := res.1
  let s := each res.2.2 s fun w s => bankGuard s b w
  let s := if x.clamped && !(chOf s ch).clamped then setEvt s R.scaEvt 4 else s
  let ph := chPhasor s r c j x res.2.2.isEmpty
  let q := res.2.1 ||| word (b2n (decide (0 < x.smpLeft)) 24 + b2n x.frozen 22)
  let s := setCh s ch { x with ph := ph, smpLeft := x.smpLeft - 1, phLeft := x.phLeft - 1 }
  let f := forceTake s own 2 ch
  let smp := match f.1 with
    | some (p, e) => [(forceSt f.2 p e).val, forceQual f.2 p e]
    | none => [x.val, q]
  let h := forceTake f.2 own 3 ch
  let rec_ := match h.1 with
    | some (p, e) =>
      let re := (forceSt h.2 p e).val
      let im := (forceSt h.2 p e).aux
      [forceQual h.2 p e, word r.t, re, im] ++ List.replicate 6 0#32 ++ [(fhypot re im).1, 0#32] ++ List.replicate 4 0#32
    | none => ph
  let a := fld (forceOf h.2 R.scaSmpBase) 31 16 * 65536 + ch * 8 * smpD h.2 + r.t % smpD h.2 * 8
  let s := storePut h.2 r.g a smp
  storePut s r.g (fld (forceOf s R.scaPhBase) 31 16 * 65536 + ch * 256 + r.t % 4 * 64) rec_

/-! ### Frequency of a group (R278, R279) -/

/-- The fundamental of a reference slot may be used (R278): `w` are the words of its record. -/
def refOk (w : List Word) : Bool :=
  let q := w.head?.getD 0#32
  bit q 31 && !bit q 24 && !bit ((w[11]?).getD 0#32) 3

/-- The reference slots of a group. -/
def refSlots (s : State) (g : Nat) : List Nat :=
  let c := forceOf s (R.scaAgCfg g)
  if bit c 30 then [fld c 12 0, fld c 25 13, fld (forceOf s (R.scaAgRef g)) 12 0] else [fld c 12 0]

/-- The reference of a group: its words, and whether it is usable (R278). -/
def refOf (s : State) (g : Nat) : List Word × Bool :=
  let recs := (refSlots s g).map fun r => (chOf s r).ph
  let ws := recs.flatMap fun w => [(w[2]?).getD 0#32, (w[3]?).getD 0#32]
  let v := fld (forceOf s (R.scaAgRef g)) 31 16
  (ws, recs.all refOk && refGe ws v)

/-- A frequency within 40 and 70 Hz (R278): in µHz, and whether it was clamped. -/
def clampF (f : Int) : Nat × Bool :=
  if f < 40000000 then (40000000, true) else if 70000000 < f then (70000000, true) else (f.toNat, false)

/-- FREQ_CLAMP (R278). -/
def setClamp (s : State) (g : Nat) (v : Bool) : State :=
  let s := setAg s g { agOf s g with clamp := v }
  if v then setEvt s (R.scaAgEvt g) 1 else s

/-- The update of a group's frequency by release `n` (R278, R279). -/
def freqStep (s : State) (g : Nat) : State :=
  let cfg := forceOf s (R.scaAgCfg g)
  let f := freqOf s g
  let nf := (fsOf s + nomF s g - 1) / nomF s g
  let fh := (f :: (agOf s g).fHist).take 128
  let old := (fh[nf]?).getD f
  let roc := fpOfRat (((f : Int) - old) * fsOf s) (nf * 1000000)
  let s := setAg s g { agOf s g with fHist := fh, rocof := roc, est := none }
  if !bit cfg 31 then s
  else
    let v := refOf s g
    let x := agOf s g
    let us := if v.2 then x.usable + 1 else 0
    let vh := (v.1 :: x.vHist).take 128
    let est := if nf + 1 ≤ us then some (freqEst (nomF s g) (fsOf s) nf v.1 ((vh[nf]?).getD [])) else none
    let s := setAg s g { x with usable := min us (nf + 1), vHist := vh, est := est }
    match x.fst_, est with
    | .tracking, some e =>
      let n := clampF (f + roundQ ((e : Int) - f) (2 ^ fld cfg 29 27))
      setClamp (setAg s g { agOf s g with freq := n.1 }) g n.2
    | .tracking, none =>
      agPost (setEvt (setAg s g { agOf s g with fst_ := .held, held := 0 }) (R.scaAgEvt g) 0) g 1 0x10 none
    | _, some e => setClamp (freqEnter s g .tracking (clampF e).1) g (clampF e).2
    | .held, none =>
      let s := bump (setAg s g { agOf s g with held := x.held + 1 }) (R.scaAgCnt g) 15 0 1
      freqHoldCheck s g
    | .nominal, none => s

/-- The freeze condition of a group for a release (R273); `flagReset` watches the flag between releases. -/
def freezeStep (s : State) (g : Nat) : State :=
  let w := forceOf s (R.scaAgFrz g)
  let x := agOf s g
  let op := bit w 30 && flagState s (fld w 27 16)
  let tail := match x.flagOff with | some n => bit w 30 && decide (n < fld w 15 0) | none => false
  let stop := x.frzStop && op
  let byFlag := (op || tail) && !stop
  let frozen := bit w 31 || byFlag
  let s := if frozen && !x.frozen then bump s (R.scaAgCnt g) 31 16 1 else s
  setAg s g { x with
    frzStop := stop, flagOff := if op then none else x.flagOff.map (· + 1), frzRun := if byFlag then x.frzRun + 1 else 0, frozen := frozen }

/-- The group record (R292). -/
def groupRecord (s : State) (r : Release) (f : Nat) : State :=
  let x := agOf s r.grp
  let n := r.tick % fsOf s
  let ws := [word (2 ^ 31 + fstCode x.fst_ * 2 ^ 29 + b2n x.clamp 28 + b2n x.frozen 27 + b2n r.dl 26 + n), word r.tick,
    fpOfRat f 1000000, x.rocof, (match x.est with | some e => fpOfRat e 1000000 | none => 0#32),
    word (nsOf r.ltc), word (secOf r.ltc), word (nsOf s.ltc)] ++ List.replicate 8 0#32
  storePut s r.grp (fld (forceOf s R.scaAgBase) 31 16 * 65536 + r.grp * 256 + r.tick % 4 * 64) ws

/-- INDEX_DISCONTINUITY (R268). -/
def scaDiscont (s : State) (g : Nat) : State :=
  let s := setEvt (setEvt (bump s R.scaCntDisc 15 0 1) (R.scaAgEvt g) 4) R.scaEvt 2
  agPost s g 2 0x15 none

/-- The publications of a group's conditioned samples: the frames that end in this release are ready (R253). -/
def svpCond (s : State) (g t : Nat) : State :=
  each s.svp.pubs s fun e s =>
    let cfg := forceOf s (R.pubCfg e.1)
    if e.2.on && fld cfg 25 24 == 0 && fld cfg 23 16 == g && (t + 1) % max 1 (fld cfg 7 4) == 0 then
      { s with svp := { s.svp with pubs := mset {} s.svp.pubs e.1 { e.2 with ready := e.2.ready ++ [(t, s.now)] } } }
    else s

/-- The channels of a release (R266, step 2). -/
def relChannels (s : State) (rc : RelCtx) : State :=
  let s := each (members s rc.g) s fun c s => upto (slotCount s c) s fun j s => chRelease rc c j s
  each (members s rc.g) s fun c s => setCtx s c { ctxOf s c with event := false }

/-- A release through steps 1 to 3 of R266, with the fades that end in it. -/
def scaRelease (s : State) (r : Release) : State :=
  let g := r.grp
  let disc := match (agOf s g).last with | some l => decide (r.tick ≠ l + 1) | none => false
  let s := if disc then scaDiscont s g else s
  let s := freezeStep s g
  let f := freqOf s g
  let s := relChannels s { g := g, t := r.tick, disc := disc, frozen := (agOf s g).frozen, f := f, runs := r.runs }
  let s := freqStep s g
  let s := frzLimitCheck s g
  let s := setAg s g { agOf s g with last := some r.tick }
  let s := groupRecord s r f
  let s := setLive s R.scaCntRel (word (satAdd 0xFFFFFFFF (liveOf s R.scaCntRel).toNat 1))
  let s := setLive s R.scaLat (word (max (liveOf s R.scaLat).toNat (min (s.now - r.at_) 0xFFFFF)))
  let s := upto 64 s fun b s => fadeEnd s b
  svpCond s g r.tick

end Sys2Proof.Machine
end

