-- ==== Sys2Proof/Machine/Svp.lean ====
section
/-! DEFINITION. The SV publisher (R253-R258): sources, send points, the frame, the loop. -/

namespace Sys2Proof.Machine

def svPubOf (s : State) (p : Nat) : SvPub := mget {} s.svp.pubs p
def setSvPub (s : State) (p : Nat) (x : SvPub) : State := { s with svp := { s.svp with pubs := mset {} s.svp.pubs p x } }

def pubRate (cfg : Word) : Nat := max 1 (smpRate (fld cfg 10 8))
def pubK (s : State) (cfg : Word) : Nat := max 1 (pubRate cfg / fsOf s)
def pubAsdus (cfg : Word) : Nat := max 1 (fld cfg 7 4)

/-- The published quality of a module quality word (R255). -/
def pubQual (q : Word) (test : Bool) : Word :=
  let w := q &&& 0x3FFF#32
  let w := if !bit q 31 then setFld w 1 0 1 else if bit q 30 then setFld (setFld w 1 0 3) 13 13 1 else w
  if bit q 29 || test then setFld w 11 11 1 else w

/-- Bytes of a pattern ring's entry of `n` channels (R256): the layout of R232, once for each eight channels. -/
def ringSpan (n : Nat) : Nat := 0x40 * ((n + 7) / 8)

/-- The address of channel `j` of sample `a` in a publication's source (R253, R256, R290). -/
def pubAddr (s : State) (p a j : Nat) : Nat :=
  let cfg := forceOf s (R.pubCfg p)
  let src := forceOf s (R.pubSrc p)
  match fld cfg 25 24 with
  | 0 => fld (forceOf s R.scaSmpBase) 31 16 * 65536 + (fld src 12 0 + j) * 8 * smpD s + a % smpD s * 8
  | 1 => sbAddr s (fld src 9 0) j a
  | _ =>
    let q := a - (svPubOf s p).base.getD 0
    fld src 31 6 * 64 + q % max 1 (fld (forceOf s (R.pubRing p)) 14 0) * ringSpan (fld cfg 15 11) + j * 8

/-- The SVP's DMA for a publication (R140, R256). -/
def pubTag (s : State) (p : Nat) : Tag := dmaTag s 0x0A (ownerOf s 8 p)

/-- An entry of a publication's source, its value and quality, and whether the read was refused (R155, R256). -/
def pubEntry (s : State) (p a j : Nat) : ((Word × Word) × Bool) × State :=
  let x := pubAddr s p a j
  let r := dmaAccess s 0x0A (pubTag s p) false x 8
  (if r.2.isSome then ((0#32, 0#32), true) else ((rd32 r.1 x, rd32 r.1 (x + 4)), false), r.1)

/-- A list of reads, one after the other. -/
def readEach {α β : Type} (f : α → State → β × State) (l : List α) (s : State) : List β × State :=
  l.foldl (fun (o, s) x => let r := f x s; (o ++ [r.1], r.2)) ([], s)

/-- The samples of a frame whose last one is `a`: a refused read clears VALID in all of them and sets SRC_REFUSED (R256). -/
def pubSamples (s : State) (p a : Nat) : List (List (Word × Word)) × State :=
  let cfg := forceOf s (R.pubCfg p)
  let m := pubAsdus cfg
  let r := readEach (fun i s => readEach (fun j s => pubEntry s p (a + 1 + i - m) j) (List.range (fld cfg 15 11)) s) (List.range m) s
  let bad := r.1.any fun l => l.any (·.2)
  let q := fun w => pubQual (if bad then w &&& 0x7FFFFFFF#32 else w) (bit cfg 28)
  (r.1.map fun l => l.map fun e => (e.1.1, q e.1.2), if bad then setEvt r.2 R.svpEvt 0 else r.2)

/-- The frame of publication `p` whose last sample is `a`, with the samples `l`; its source address apart (R254). -/
def svBuild (s : State) (p a : Nat) (l : List (List (Word × Word))) : EthFrame :=
  let cfg := forceOf s (R.pubCfg p)
  let tag := forceOf s (R.pubTag p)
  let k := fld (forceOf s (R.pubKey p)) 3 0
  let as_ := ((List.range l.length).zip l).map fun e =>
    ({ svId := (svPubOf s p).svId, smpCnt := BitVec.ofNat 16 ((a + 1 + e.1 - l.length) % pubRate cfg), confRev := forceOf s (R.pubConfrev p),
       synch := BitVec.ofNat 8 s.time.sync, rate := none, data := e.2, extra := 0 } : SvAsdu)
  frameOf ((forceOf s (R.pubDaLo p)).toNat + fld (forceOf s (R.pubDaHi p)) 15 0 * 2 ^ 32) 0 (some (fld tag 15 0)) 0x88BA
    (pduBytes (fld tag 31 16) (bit cfg 29) (svPduBytes as_) (if bit cfg 3 then some (signBy s 2 k (forceOf s (R.svpKeyId k))) else none))

/-- A publication sends nothing to the network while the module is not lane master (R257), or at all while the dump freeze holds
(R575). -/
def pubHeld (s : State) (p : Nat) : Bool := (bit (forceOf s (R.pubCfg p)) 30 && !laneMaster s) || s.diag.frozen

/-- The frame of publication `p` whose last sample is `a`, due since `due`, is built and sent (R254-R258). -/
def svpSendAt (s : State) (p a due : Nat) : State :=
  let r := pubSamples s p a
  let s := r.2
  let cfg := forceOf s (R.pubCfg p)
  let f := svBuild s p a r.1
  let net := decide (fld cfg 27 26 ≠ 2) && !pubHeld s p
  let loop := decide (2 ≤ fld cfg 27 26)
  let port := if fld cfg 27 26 = 1 then 2 else 0
  let s := if net then txReadyPair s { port := port, cls := 1, order := 0, from_ := port, body := .sv p due f } else s
  let s := if net || loop then setSvPub (bump s (R.pubCnt p) 31 16 1) p { svPubOf s p with last := a % pubRate cfg } else s
  if loop then svFrame s 2 (svParse f) s.ltc s.now else s

/-- SVP_SEND (R253): a frame whose send point has come leaves; the send point of a pattern is reached. -/
def execSvpSend (p : Fin 64) (s : State) : Host.Outcome State Fault Refusal :=
  .next (
    let x := svPubOf s p.val
    let cfg := forceOf s (R.pubCfg p.val)
    if !x.on then s
    else if fld cfg 25 24 = 2 then
      if x.base.isNone then s
      else
        let k := pubK s cfg
        let s := reachLtc s (merOf s ((x.next + k - 1) / k) + fld (forceOf s (R.pubOfs p.val)) 19 0)
        svpSendAt (setSvPub s p.val { x with next := x.next + pubAsdus cfg }) p.val x.next s.now
    else
      match x.ready with
      | [] => s
      | (a, due) :: r => svpSendAt (setSvPub s p.val { x with ready := r }) p.val a due)

/-- The last sample of the first frame, of those that end at `b` or later, whose samples all count from `base` (R254). -/
def pubFirst (base b n : Nat) : Nat := max ((base + n - 1) / n * n + n - 1) ((b + n) / n * n - 1)

/-- A pattern begins at the meridian in progress (R256). -/
def pubPace (s : State) (p : Nat) : State :=
  let cfg := forceOf s (R.pubCfg p)
  let b := pubK s cfg * curTick s
  setSvPub s p { svPubOf s p with base := some b, next := pubFirst b b (pubAsdus cfg) }

/-- An enabled publication under a set that changes its source, rate or NO_ASDU: its pattern counts on from the meridian at which EN
entered force, in samples of the new rate (R256). -/
def pubMove (s0 s : State) (p : Nat) : State :=
  let c0 := forceOf s0 (R.pubCfg p)
  let c := forceOf s (R.pubCfg p)
  let x := svPubOf s p
  if fld c0 25 24 = fld c 25 24 ∧ fld c0 10 4 = fld c 10 4 ∧ forceOf s0 (R.pubSrc p) = forceOf s (R.pubSrc p) then s
  else match x.base with
    | none => setSvPub s p { x with ready := [] }
    | some b =>
      let b := b / pubK s c0 * pubK s c
      setSvPub s p { x with ready := [], base := some b, next := pubFirst b (pubK s c * curTick s) (pubAsdus c) }

/-- The svID of a publication, read by the SVP's DMA (R254). -/
def pubSvId (s : State) (p : Nat) : List Byte × State :=
  let w := forceOf s (R.pubSvid p)
  let a := fld w 31 6 * 64
  let n := fld w 5 0
  let r := dmaAccess s 0x0A (pubTag s p) false a n
  if r.2.isSome then (List.replicate n 0#8, setEvt r.1 R.svpEvt 0) else (rdBytes r.1 a n, r.1)

/-- A SVP set has entered force; `s0` is the state before. -/
def svpInForce (s0 s : State) : State :=
  upto 64 s fun p s =>
    let on := bit (forceOf s (R.pubCfg p)) 31
    if !on then setSvPub s p {}
    else
      let r := pubSvId s p
      if bit (forceOf s0 (R.pubCfg p)) 31 then pubMove s0 (setSvPub r.2 p { svPubOf r.2 p with svId := r.1 }) p
      else
        let s := setSvPub r.2 p { on := true, svId := r.1 }
        if s.time.tickRun then pubPace s p else s

/-- The first meridian begins the patterns that wait for it. -/
def svpPace (s : State) : State :=
  each s.svp.pubs s fun e s => if e.2.on && e.2.base.isNone then pubPace s e.1 else s

/-- The check of a SVP set (R253, R264): cause and offset. -/
def checkSvp (s : State) (ps : PendSet) : Option (Nat × Nat) :=
  let v := pendVal ps.vals
  (List.range 64).findSome? fun p =>
    let cfg := v (R.pubCfg p)
    let o := 0x1000 + p * 0x40
    let src := v (R.pubSrc p)
    let n := fld cfg 15 11
    if !bit cfg 31 then none
    else if fld cfg 25 24 = 3 ∨ n = 0 ∨ 24 < n ∨ fld cfg 7 4 = 0 ∨ 8 < fld cfg 7 4 ∨ !rateOk (fsOf s) (fld cfg 10 8) then some (3, o)
    else if pubRate cfg % pubAsdus cfg ≠ 0 then some (2, o)
    else if fld (v (R.pubSvid p)) 5 0 = 0 ∨ !inShared (fld (v (R.pubSvid p)) 31 6 * 64) then some (3, o + 0x14)
    else
      match fld cfg 25 24 with
      | 0 =>
        if pubRate cfg ≠ fsOf s then some (2, o)
        else if (List.range n).all fun j => decide (fld src 12 0 + j < 8192) && bit (ctxCfg s ((fld src 12 0 + j) / 8)) 31 && ctxGrp s ((fld src 12 0 + j) / 8) == fld cfg 23 16 then none
        else some (2, o + 0x18)
      | 1 => if ctxN s (fld src 9 0) = n ∧ fld (ctxCfg s (fld src 9 0)) 6 4 = fld cfg 10 8 then none else some (2, o + 0x18)
      | _ =>
        let d := fld (v (R.pubRing p)) 14 0
        let a := fld src 31 6 * 64
        if a < 0x80000000 ∨ 0x81000000 < a + d * ringSpan n then some (3, o + 0x18)
        else if d = 0 ∨ 16384 < d then some (3, o + 0x1C)
        else if 1000000 < fld (v (R.pubOfs p)) 19 0 then some (3, o + 0x20) else none

/-- The computed registers of the SVP at offset `o` (R264). -/
def readSvp (s : State) (o : Nat) : Option Word :=
  if o = 0 then some (word (s.svp.pubs.filter fun e => e.2.on && !pubHeld s e.1).length)
  else if 0x1000 ≤ o ∧ o < 0x2000 ∧ o % 0x40 = 0x28 then
    let p := (o - 0x1000) / 0x40
    let x := svPubOf s p
    some (word ((if !x.on then 0 else if pubHeld s p then 2 else 1) * 2 ^ 30 + x.last % 65536))
  else none

end Sys2Proof.Machine
end

