-- ==== Sys2Proof/Machine/Rel.lean ====
section
/-! DEFINITION. The processing of a release by the SCA and what follows it (R266, R267), and the events at which a count of a
release comes to its end (R273, R279, R288). -/

namespace Sys2Proof.Machine

/-- The release to process next: of those made in the head's FAB cycle, the one with the lowest group, then tick (R267). -/
def relHead (s : State) : Option Release :=
  match s.sca.q.items with
  | [] => none
  | h :: t => some ((t.filter fun r => r.at_ / 2 == h.at_ / 2).foldl (fun m r =>
      if r.grp < m.grp ∨ (r.grp = m.grp ∧ r.tick < m.tick) then r else m) h)

/-- The queue without a release. -/
def relPop (s : State) (r : Release) : State :=
  { s with sca := { s.sca with q := { qPop 2048 s.sca.q with items := s.sca.q.items.erase r } } }

/-- The frequency a metering window takes from a group's record (R511). -/
def meterF (s : State) (g f : Nat) : Nat := if (agOf s g).fst_ = .tracking then f else nomU s g

/-- A release is processed (R266): its channels, its group, the metering points, the analogue triggers, the RELEASE tasks. -/
def relProcess (s : State) (r : Release) : State :=
  let g := r.grp
  let f := freqOf s g
  let disc := match (agOf s g).last with | some l => decide (r.tick ≠ l + 1) | none => false
  let s := if disc then shortGroup s g else s
  let s := scaRelease s r
  let s := mtrRelease s g r.tick (meterF s g f)
  let s := atuRelease s g r.tick
  releaseTasks s g (r.tick % fsOf s) (word r.tick)

/-- The next release is taken and processed; the pointers are compared first (R297). -/
def relNext (s : State) : State :=
  let s := scaCheck s
  match relHead s with
  | some r => relProcess (relPop s r) r
  | none => s

/-- SCA_RELEASE_PROCESS (R266, R267). -/
def execScaReleaseProcess (s : State) : Host.Outcome State Fault Refusal := .next (relNext s)

/-- The next release is of group `g`. -/
def relIsOf (s : State) (g : Nat) : Bool := match relHead s with | some r => r.grp == g | none => false

/-- FREEZE_LIMIT of group `g` (R273): the freeze ends where it has lasted FRZ_MAX releases; where the next release makes it so,
that release is processed. -/
def execFreezeLimit (g : Fin 256) (s : State) : Host.Outcome State Fault Refusal :=
  .next (
    let m := fld (forceOf s (R.scaAgLim g.val)) 15 0
    let x := agOf s g.val
    if m ≠ 0 ∧ m ≤ x.frzRun then frzLimitCheck s g.val
    else if m ≠ 0 ∧ x.frzRun + 1 = m ∧ relIsOf s g.val then relNext s
    else s)

/-- FREQ_HOLD_EXPIRY of group `g` (R279): NOMINAL after FHOLD_MAX releases in HELD; where the next release is the last of them,
that release is processed. -/
def execFreqHoldExpiry (g : Fin 256) (s : State) : Host.Outcome State Fault Refusal :=
  .next (
    let m := fld (forceOf s (R.scaAgLim g.val)) 31 16
    let x := agOf s g.val
    if x.fst_ = .held ∧ m ≤ x.held then freqHoldCheck s g.val
    else if x.fst_ = .held ∧ x.held + 1 = m ∧ relIsOf s g.val then relNext s
    else s)

/-- SETTLE_COUNT_EXPIRY of slot `ch` (R288): the release that brings a settle counter to 0 is processed. -/
def execSettleCountExpiry (ch : Fin 8192) (s : State) : Host.Outcome State Fault Refusal :=
  .next (
    let x := chOf s ch.val
    if (x.smpLeft = 1 ∨ x.phLeft = 1) ∧ relIsOf s (ctxGrp s (leadOf s (ch.val / 8))) then relNext s else s)

end Sys2Proof.Machine
end

