-- ==== Sys2Proof/Machine/Crypto.lean ====
section
/-! DEFINITION. SHA3-256 and SHAKE256 (FIPS 202), in full; the other algorithms the rules name (ML-DSA, ML-KEM, AES-GCM) as
constants of Config applied to their inputs, with AES-GCM a key stream and a tag. -/

namespace Sys2Proof.Machine

/-! ### Keccak -/

/-- Lane `i` of a state. -/
def kLane (a : List DWord) (i : Nat) : DWord := (a[i]?).getD 0#64

/-- The rotation of each lane. -/
def kRot : List Nat := [0, 1, 62, 28, 27, 36, 44, 6, 55, 20, 3, 10, 43, 25, 39, 41, 45, 15, 21, 8, 18, 2, 61, 56, 14]

/-- The round constants. -/
def kRc : List DWord := [0x0000000000000001#64, 0x0000000000008082#64, 0x800000000000808A#64, 0x8000000080008000#64,
  0x000000000000808B#64, 0x0000000080000001#64, 0x8000000080008081#64, 0x8000000000008009#64, 0x000000000000008A#64,
  0x0000000000000088#64, 0x0000000080008009#64, 0x000000008000000A#64, 0x000000008000808B#64, 0x800000000000008B#64,
  0x8000000000008089#64, 0x8000000000008003#64, 0x8000000000008002#64, 0x8000000000000080#64, 0x000000000000800A#64,
  0x800000008000000A#64, 0x8000000080008081#64, 0x8000000000008080#64, 0x0000000080000001#64, 0x8000000080008008#64]

/-- One round. -/
def kRound (a : List DWord) (rc : DWord) : List DWord :=
  let c := (List.range 5).map fun x => kLane a x ^^^ kLane a (x + 5) ^^^ kLane a (x + 10) ^^^ kLane a (x + 15) ^^^ kLane a (x + 20)
  let d := (List.range 5).map fun x => kLane c ((x + 4) % 5) ^^^ (kLane c ((x + 1) % 5)).rotateLeft 1
  let t := (List.range 25).map fun i => kLane a i ^^^ kLane d (i % 5)
  let b := (List.range 25).map fun i => let j := (i % 5 + 3 * (i / 5)) % 5 + 5 * (i % 5); (kLane t j).rotateLeft ((kRot[j]?).getD 0)
  let e := (List.range 25).map fun i =>
    kLane b i ^^^ (~~~(kLane b ((i + 1) % 5 + i / 5 * 5)) &&& kLane b ((i + 2) % 5 + i / 5 * 5))
  (kLane e 0 ^^^ rc) :: e.drop 1

/-- The permutation. -/
def keccak (a : List DWord) : List DWord := kRc.foldl kRound a

/-- A block of 136 bytes enters the state. -/
def kAbsorb (a : List DWord) (b : List Byte) : List DWord :=
  keccak ((List.range 25).map fun i => if i < 17 then kLane a i ^^^ BitVec.ofNat 64 (leNat ((b.drop (8 * i)).take 8)) else kLane a i)

/-- The whole blocks of a padded message. -/
def kBlocks : Nat → List Byte → List DWord → List DWord
  | 0, _, a => a
  | n + 1, m, a => kBlocks n (m.drop 136) (kAbsorb a (m.take 136))

/-- The first 136 bytes a sponge of rate 136 gives, by its domain suffix. -/
def sponge (suffix : Nat) (m : List Byte) : List Byte :=
  let z := 135 - m.length % 136
  let p := if z = 0 then [BitVec.ofNat 8 (suffix + 0x80)] else BitVec.ofNat 8 suffix :: (List.replicate (z - 1) 0#8 ++ [0x80#8])
  (kBlocks ((m.length + 1 + z) / 136) (m ++ p) (List.replicate 25 0#64)).take 17 |>.flatMap fun w => leBytes 8 w.toNat

/-- SHA3-256. -/
def sha3 (m : List Byte) : List Byte := (sponge 0x06 m).take 32

/-- SHAKE256 truncated to 32 bytes. -/
def shake32 (m : List Byte) : List Byte := (sponge 0x1F m).take 32

/-! ### What stays a constant of Config -/

/-- `n` bytes an algorithm gives for its input. -/
def cryptBytes (alg n : Nat) (m : List Byte) : List Byte := (List.range n).map (Config.crypt alg m)

/-- Lengths of an ML-DSA public key and signature by ALG (R101: 2 ML-DSA-44, 3 ML-DSA-65, 5 ML-DSA-87; 0 for no algorithm). -/
def pkLen : Nat → Nat | 2 => 1312 | 3 => 1952 | 5 => 2592 | _ => 0
def sigLen : Nat → Nat | 2 => 2420 | 3 => 3309 | 5 => 4627 | _ => 0

/-- A signature verifies under a public key (FIPS 204); Config number 16 + ALG. -/
def dsaOk (alg : Nat) (pk m sig : List Byte) : Bool := Config.verifies (16 + alg) (pk ++ m) sig
/-- The public key of a seed; Config number 32 + ALG. -/
def dsaPk (alg : Nat) (seed : List Byte) : List Byte := cryptBytes (32 + alg) (pkLen alg) seed
/-- A signature made with a seed; Config number 48 + ALG. -/
def dsaSign (alg : Nat) (seed m : List Byte) : List Byte := cryptBytes (48 + alg) (sigLen alg) (seed ++ m)

/-- The encapsulation key of an ML-KEM-768 key (FIPS 203), and the shared secret it decapsulates; Config numbers 64 and 65. -/
def kemEk (dk : List Byte) : List Byte := cryptBytes 64 1184 dk
def kemSecret (dk ct : List Byte) : List Byte := cryptBytes 65 32 (dk ++ ct)

/-- Bytes encrypted or decrypted by AES-256-GCM: the key stream of key and IV is Config number 66. -/
def gcmBytes (key iv m : List Byte) : List Byte := ((List.range m.length).zip m).map fun e => e.2 ^^^ Config.crypt 66 (key ++ iv) e.1
/-- The tag of AES-256-GCM over additional data and ciphertext; Config number 67. -/
def gcmTag (key iv aad ct : List Byte) : List Byte := cryptBytes 67 16 (key ++ iv ++ aad ++ ct)

/-- `n` bytes of TRUST's random source. -/
def drawBytes (s : State) (n : Nat) : List Byte × State :=
  let k := (n + 3) / 4
  (((List.range k).flatMap fun i => leBytes 4 (Config.draw (s.draws + i)).toNat).take n, { s with draws := s.draws + k })

end Sys2Proof.Machine
end

