-- ==== Sys2Proof/Machine/Trust.lean ====
section
/-! DEFINITION. TRUST: image verification (R116, R117), the key store, KEYREG and engine slots (R124-R130), key import
(R131-R135), attestation (R136, R137), lifecycle commands (R100-R109), the commands' frame (R138), the watchdog (R115) and the
registers (R139). A command has its effect as it starts; RESULT, ERR and DONE follow at TRUST_CMD_DONE. The identity record
holds in each copy the state as a guarded word at offset 0, LC_PENDING as a guarded word at 8 (bit 8 set, the target in bits
3 to 0), the state before the last transition at 0x10 and the private seed of the device identity key at 0x20: the rules give it no
layout. -/

namespace Sys2Proof.Machine

def modTrust (s : State) (f : TrustSt → TrustSt) : State := { s with trust := f s.trust }

/-- The state codes of R99. -/
def lcCode : Lc → Nat
  | .blank => 0 | .provisioned => 1 | .operational => 2 | .maintenance => 3 | .decommissioned => 7

/-! ### Fuses (R106-R108) -/

def fuseOf (s : State) (n : Nat) : FuseSlot := mget {} s.trust.fuses n
def setFuse (s : State) (n : Nat) (x : FuseSlot) : State := modTrust s fun t => { t with fuses := mset {} t.fuses n x }
/-- A slot may be used, is spoiled, is empty (R107). -/
def fuseUsable (x : FuseSlot) : Bool := x.valid && !x.revoked
def fuseHashed (x : FuseSlot) : Bool := x.hash.any fun b => b != 0#8
def fuseSpoiled (x : FuseSlot) : Bool := fuseHashed x && !x.valid
/-- A slot is empty while none of its fuses is blown, REVOKED among them (DEDUCED: log 184). -/
def fuseEmpty (x : FuseSlot) : Bool := !fuseHashed x && !x.valid && !x.revoked
/-- The slots of a kind: 0 boot, 1 integrator. -/
def fuseKind (k : Nat) : List Nat := (List.range 4).map (4 * k + ·)
/-- The key hashes of the usable slots of a kind. -/
def usableHashes (s : State) (k : Nat) : List (List Byte) := ((fuseKind k).filter fun n => fuseUsable (fuseOf s n)).map fun n => (fuseOf s n).hash

/-- TRUST_FUSE_KEYS (R139). -/
def fuseKeys (s : State) : Word :=
  let f := fun (k sh : Nat) (q : FuseSlot → Bool) => (List.range 4).foldl (fun a n => a + b2n (q (fuseOf s (4 * k + n))) (sh + n)) 0
  word (f 1 28 fuseSpoiled + f 1 24 (·.revoked) + f 1 20 (·.valid) + f 0 12 fuseSpoiled + f 0 8 (·.revoked) + f 0 4 (·.valid))

/-! ### Images (R116, R117) -/

/-- Bytes `a .. a + n - 1` of a list. -/
def slice (l : List Byte) (a n : Nat) : List Byte := (l.drop a).take n
/-- A little-endian number in a list. -/
def lnat (l : List Byte) (a n : Nat) : Nat := leNat (slice l a n)

/-- CLASS of an image. -/
def imgClass (h : List Byte) : Nat := lnat h 7 1
/-- PAYLOAD_LEN of an image. -/
def imgLen (h : List Byte) : Nat := lnat h 0xC 4

/-- The six conditions of R117 in order, by the ERR code of the first that fails, 0 for none: header, class, payload digest and
signature fail as SIG_FAIL. -/
def imgErr (h pay : List Byte) (hashes : List (List Byte)) (classes : List Nat) (svn : Nat) : Nat :=
  let alg := lnat h 6 1
  let pk := slice h 0x40 (pkLen alg)
  if lnat h 0 4 ≠ 0x4C444D49 ∨ lnat h 4 2 ≠ 1 then 4
  else if pkLen alg = 0 ∨ !classes.contains (imgClass h) ∨ (imgClass h = 1 ∧ alg = 3) then 4
  else if !hashes.contains (sha3 pk) then 5
  else if sha3 pay ≠ slice h 0x10 32 then 4
  else if !dsaOk alg pk (sha3 (h.take 0x40)) (slice h 0xA60 (sigLen alg)) then 4
  else if imgClass h ≤ 3 ∧ lnat h 8 4 < svn then 6
  else 0

/-- The payload digest of a verified image enters its measurement slot, once a reset (R119). -/
def measure (s : State) (h : List Byte) : State :=
  if 1 ≤ imgClass h ∧ imgClass h ≤ 3 ∧ mget [] s.trust.meas (imgClass h) = [] then
    modTrust s fun t => { t with meas := mset [] t.meas (imgClass h) (slice h 0x10 32) }
  else s

/-! ### The frame of a command (R138) -/

/-- An argument register; an address argument counts 16 bytes (R139). -/
def targ (s : State) (n : Nat) : Nat := (shadowOf s (R.trustArg n)).toNat
def targA (s : State) (n : Nat) : Nat := targ s n * 16

/-- The tag of TRUST's DMA (R153). -/
def trustTag (s : State) : Tag := dmaTag s 1 none
/-- What TRUST reads and writes of its buffers passes the checks of any DMA access (R36, R113, R154, R155). -/
def trustRead (s : State) (a n : Nat) : List Byte × State := dmaRead s 1 (trustTag s) a n
def trustWrite (s : State) (a : Nat) (bs : List Byte) : State := dmaWrite s 1 (trustTag s) a bs

/-- The buffer lies in a secure memory region (R138). -/
def secureBuf (s : State) (a n : Nat) : Bool :=
  (List.range ((a + max 1 n + 4095) / 4096 - a / 4096)).all fun i =>
    let b := max a ((a / 4096 + i) * 4096)
    memExists b && (match regionOf s b with | some r => bit (forceOf s (R.regAttr r)) 4 | none => false)

/-- A command that ends as it starts, with ERR `e`. -/
def trustEnd (s : State) (e : Nat) : State :=
  setEvt (modTrust s fun t => { t with done := true, err := e, result := 0 }) R.trustEvt 0

/-- A command runs, to end with ERR `e` and RESULT `r`. -/
def trustRun (s : State) (e r : Nat) : State := modTrust s fun t => { t with cmd := some (e, r), done := false }

/-- A write of TRUST_CMD: BUSY leaves the running command alone, a state not allowed fails with STATE. -/
def trustCmd (a : Acc) (ok : Lc → Bool) (f : State → State) (s : State) : State :=
  regAccess s a R.trustCmd true fun s =>
    if s.trust.cmd.isSome ∨ s.diag.bist = some 2 then modTrust s fun t => { t with err := 1, done := false }
    else if !ok s.trust.lc then trustEnd s 0x0F
    else f s

def lcAll : Lc → Bool := fun _ => true
def lcNotDecom (l : Lc) : Bool := l != .decommissioned
def lcNotBlank (l : Lc) : Bool := l != .blank
/-- PROVISIONED, OPERATIONAL, MAINTENANCE. -/
def lcKeys (l : Lc) : Bool := l == .provisioned || l == .operational || l == .maintenance

/-- TRUST_CMD_DONE (R138). -/
def execTrustCmdDone (s : State) : Host.Outcome State Fault Refusal :=
  .next (match s.trust.cmd with
    | none => s
    | some (e, r) => setEvt (modTrust s fun t => { t with cmd := none, done := true, err := e, result := r }) R.trustEvt 0)

/-! ### VERIFY, HASH, NONCE, LC_STATUS -/

/-- The key hashes a VERIFY names (R138). -/
def verifyHashes (s : State) : List (List Byte) × State :=
  match targ s 1 with
  | 0 => (usableHashes s 0, s)
  | 1 => (usableHashes s 1, s)
  | _ => let r := trustRead s (targA s 2) 32; ([r.1], r.2)

/-- VERIFY (R117, R119, R120): the image at ARG0. -/
def verify (s : State) : State :=
  let a := targA s 0
  let n := imgLen (rdBytes s a 0x2000)
  if !secureBuf s a 0x2000 || !secureBuf s (a + 0x2000) n then trustEnd s 3
  else if 2 < targ s 1 then trustRun s 2 0
  else
    let rh := trustRead s a 0x2000
    let rp := trustRead rh.2 (a + 0x2000) n
    let rk := verifyHashes rp.2
    let h := rh.1
    let s := rk.2
    let e := imgErr h rp.1 rk.1 [1, 2, 3, 4, 5] s.trust.svn
    let p := targ s 3 % 32
    if e ≠ 0 then trustRun (if imgClass h = 4 then almPost s 1 0x01 0x84 (some p) [word p] else s) e 0
    else
      let s := measure s h
      let s := match imgClass h with
        | 2 => if s.trust.stage = 2 then modTrust s fun t => { t with stage := 3 } else s
        | 3 => if s.trust.stage = 3 then modTrust s fun t => { t with stage := 4 } else s
        | 4 => modTrust s fun t => { t with checked := mset [] t.checked p (slice h 0x10 32) }
        | _ => s
      trustRun s 0 0

/-- VERIFY (R117, R138). -/
def execVerify (a : Acc) (s : State) : Host.Outcome State Fault Refusal := .next (trustCmd a lcNotDecom verify s)

/-- HASH (R138). -/
def execHash (a : Acc) (s : State) : Host.Outcome State Fault Refusal :=
  .next (trustCmd a lcNotDecom (fun s =>
    if !secureBuf s (targA s 0) (targ s 1) then trustEnd s 3
    else
      let r := trustRead s (targA s 0) (targ s 1)
      trustRun (modTrust r.2 fun t => { t with digest := sha3 r.1 }) 0 0) s)

/-- NONCE (R102), also in DECOMMISSIONED, as R138's table has it and R99's does not: DESIGN CHOICE, log 185. -/
def execNonce (a : Acc) (s : State) : Host.Outcome State Fault Refusal :=
  .next (trustCmd a lcNotBlank (fun s =>
    let r := drawBytes s 32
    trustRun (modTrust r.2 fun t => { t with nonce := some r.1, digest := r.1 }) 0 0) s)

/-- RESULT of LC_STATUS (R138). -/
def lcResult (s : State) : Nat := s.trust.svn % 256 * 256 + s.trust.prev % 16 * 16 + lcCode s.trust.lc

/-- LC_STATUS (R138). -/
def execLcStatus (a : Acc) (s : State) : Host.Outcome State Fault Refusal :=
  .next (trustCmd a lcAll (fun s => trustRun s 0 (lcResult s)) s)

/-! ### The key store (R124-R130) -/

def ksOf (s : State) (n : Nat) : KsEnt := mget {} s.trust.ks n
def setKs (s : State) (n : Nat) (x : KsEnt) : State := modTrust s fun t => { t with ks := mset {} t.ks n x }
/-- The entry TRUST_KEY_SEL names. -/
def keySel (s : State) : Nat := fld (shadowOf s R.trustKeySel) 7 0
/-- Where entry `n` lies; its wrapped bytes (R124, R125: wrapped under a key no master reaches). -/
def ksAddr (n : Nat) : Nat := 0xA0030000 + n * 256
def ksWrapped (n : Nat) (x : KsEnt) : List Byte :=
  cryptBytes 68 256 (leBytes 1 n ++ leBytes 1 x.type_ ++ leBytes 1 x.target ++ leBytes 4 x.keyId.toNat ++ leBytes 5 x.created ++ x.key)

/-- A target accepts a type (R125). -/
def typeOk (target type_ : Nat) : Bool :=
  (decide (1 ≤ target) && decide (target ≤ 4) && type_ == 1) || (target == 5 && type_ == 2)

/-- Slots of a target (R125, R248, R254, R430, R558). -/
def engSlots : Nat → Nat | 1 => 32 | 2 => 16 | 3 => 64 | 4 => 2 | 5 => 4 | _ => 0

/-- The lowest EMPTY entry (R130, R131). -/
def ksFree (s : State) : Option Nat := (List.range 256).find? fun n => (ksOf s n).st == 0

/-- A key enters the store. -/
def ksPut (s : State) (n : Nat) (x : KsEnt) : State := wrBytes (setKs s n x) (ksAddr n) (ksWrapped n x)

/-- KEY_LOAD (R126, R127). An entry that is CORRUPT already fails without a second tag check, record or event: DESIGN CHOICE, log
186. -/
def execKeyLoad (a : Acc) (s : State) : Host.Outcome State Fault Refusal :=
  .next (trustCmd a lcKeys (fun s =>
    let n := keySel s
    let x := ksOf s n
    let s := if s.trust.keyreg.isSome ∨ x.st ≠ 1 then s else blockRead s 1 (ksAddr n) 256
    if s.trust.keyreg.isSome then trustRun s 7 0
    else if x.st = 0 then trustRun s 0x0C 0
    else if x.st = 2 ∨ rdBytes s (ksAddr n) 256 ≠ ksWrapped n x then
      let s := if x.st = 2 then s else almPost (setEvt (setKs s n { x with st := 2 }) R.trustEvt 2) 1 0x01 0x81 none [word n]
      trustRun s 0x12 0
    else trustRun (modTrust s fun t => { t with keyreg := some { entry := n, target := x.target, key := x.key } }) 0 n) s)

/-- TRANSFER (R126-R128): the key is the slot's shadow value until the target's next set. -/
def execTransfer (a : Acc) (s : State) : Host.Outcome State Fault Refusal :=
  .next (trustCmd a lcKeys (fun s =>
    let tgt := targ s 0 % 256
    let slot := targ s 0 / 256 % 256
    match s.trust.keyreg with
    | none => trustRun s 8 0
    | some k =>
      if tgt ≠ k.target then
        trustRun (almPost (setEvt (modTrust s fun t => { t with keyreg := none }) R.trustEvt 3) 1 0x01 0x82 none [word tgt]) 9 0
      else if engSlots tgt ≤ slot then trustRun s 0x0A 0
      else trustRun (modTrust s fun t => { t with keyreg := none, next := mset [] t.next (tgt * 256 + slot) k.key }) 0 0) s)

/-- KEY_CLEAR (R127). -/
def execKeyClear (a : Acc) (s : State) : Host.Outcome State Fault Refusal :=
  .next (trustCmd a lcKeys (fun s => trustRun (modTrust s fun t => { t with keyreg := none }) 0 0) s)

/-- KEY_GEN (R125, R129, R130): the seed's public key goes to the buffer at ARG1. -/
def execKeyGen (a : Acc) (s : State) : Host.Outcome State Fault Refusal :=
  .next (trustCmd a lcKeys (fun s =>
    let ty := targ s 0
    if ty = 2 ∧ !secureBuf s (targA s 1) (pkLen 3) then trustEnd s 3
    else if !typeOk (targ s 2) ty then trustRun s 2 0
    else
      match ksFree s with
      | none => trustRun s 0x13 0
      | some n =>
        let r := drawBytes s 32
        let pk := if ty = 2 then dsaPk 3 r.1 else []
        let s := if ty = 2 then trustWrite r.2 (targA r.2 1) pk else r.2
        let s := ksPut s n { st := 1, type_ := ty, target := targ s 2, keyId := word (targ s 3), created := s.pwr.opsec, key := r.1, pubHash := if ty = 2 then sha3 pk else [] }
        trustRun s 0 n) s)

/-- KEY_DELETE (R127): an engine slot keeps its copy. -/
def execKeyDelete (a : Acc) (s : State) : Host.Outcome State Fault Refusal :=
  .next (trustCmd a lcKeys (fun s =>
    let n := keySel s
    trustRun (wrBytes (setKs s n {}) (ksAddr n) (List.replicate 256 0#8)) 0 n) s)

/-! ### Key import (R131-R135) -/

/-- The device serial number. -/
def serialBytes : List Byte := (List.range 16).map Config.serial

/-- IMPORT_OPEN (R131, R132, R134). -/
def execImportOpen (a : Acc) (s : State) : Host.Outcome State Fault Refusal :=
  .next (trustCmd a lcKeys (fun s =>
    if !secureBuf s (targA s 0) 5843 then trustEnd s 3
    else
      let r := drawBytes s 64
      let d := draw r.2
      let offer := leBytes 4 0x4C444F46 ++ leBytes 4 d.1.toNat ++ serialBytes ++ List.replicate 8 0#8 ++ kemEk r.1
      let s := modTrust d.2 fun t => { t with session := some { id := d.1, at_ := d.2.now, dk := r.1 } }
      trustRun (trustWrite s (targA s 0) (offer ++ dsaSign 5 s.trust.idSeed (sha3 offer))) 0 5843) s)

/-- A package signature verifies under a usable integrator key (R131): the key is the one whose hash a slot holds. Which key
signed is not in the package, so the constant takes the slot's hash in the key's place. -/
def pkgSigned (s : State) (alg : Nat) (m sig : List Byte) : Bool :=
  decide (sigLen alg ≠ 0) && (usableHashes s 1).any fun h => dsaOk alg h m sig

/-- The ERR of a package, or the key it carries (R130, R131, R134, R135). TARGET and TYPE are judged before the signature (R125 and
R135 give no order), and a wrong MAGIC is SIG_FAIL: DESIGN CHOICE, log 187. -/
def pkgErr (s : State) (b : List Byte) (x : Session) : Nat × List Byte :=
  let alg := lnat b 0xE 1
  if lnat b 4 4 ≠ x.id.toNat then (0x0D, [])
  else if ksFree s = none then (0x13, [])
  else if !typeOk (lnat b 0xC 1) (lnat b 0xD 1) then (2, [])
  else if lnat b 0 4 ≠ 0x4C444B50 ∨ !pkgSigned s alg (sha3 (b.take 0x490)) (slice b 0x490 (sigLen alg)) then (4, [])
  else
    let kek := shake32 (kemSecret x.dk (slice b 0x20 1088) ++ slice b 4 4 ++ slice b 8 4)
    let iv := slice b 0x10 12
    if gcmTag kek iv (b.take 0x20) (slice b 0x460 32) ≠ slice b 0x480 16 then (0x0E, [])
    else (0, gcmBytes kek iv (slice b 0x460 32))

/-- IMPORT_APPLY (R131, R133-R135): the session closes whatever the outcome, a REGION failure included (R134 against "before it
starts" in R138: DESIGN CHOICE, log 188). -/
def execImportApply (a : Acc) (s : State) : Host.Outcome State Fault Refusal :=
  .next (trustCmd a lcKeys (fun s =>
    let n := 1168 + sigLen (rdByte s (targA s 0 + 0xE)).toNat
    if !secureBuf s (targA s 0) n then trustEnd (modTrust s fun t => { t with session := none }) 3
    else
      let r := trustRead s (targA s 0) n
      let b := r.1
      let s := r.2
      match s.trust.session with
      | none => trustRun s 0x0D 0
      | some x =>
        let e := pkgErr s b x
        let s := modTrust s fun t => { t with session := none }
        if e.1 ≠ 0 then trustRun (if e.1 = 4 ∨ e.1 = 0x0E then almPost s 1 0x01 0x83 none [word e.1] else s) e.1 0
        else
          let k := (ksFree s).getD 0
          let ent : KsEnt := { st := 1, imported := true, type_ := lnat b 0xD 1, target := lnat b 0xC 1, keyId := word (lnat b 8 4),
                               created := s.pwr.opsec, key := e.2, pubHash := if lnat b 0xD 1 = 2 then sha3 (dsaPk 3 e.2) else [] }
          trustRun (ksPut s k ent) 0 k) s)

/-- IMPORT_SESSION_EXPIRY (R134): 600 s after IMPORT_OPEN. -/
def execImportSessionExpiry (s : State) : Host.Outcome State Fault Refusal :=
  .next (match s.trust.session with
    | none => s
    | some x => setEvt (modTrust (reach s (x.at_ + 600000000000)) fun t => { t with session := none }) R.trustEvt 4)

/-! ### Attestation (R136, R137) -/

/-- The record of entry `n` (R137); EXPORT NEVER is 0. -/
def keyRecord (n : Nat) (x : KsEnt) : List Byte :=
  leBytes 2 n ++ [if x.imported then 1#8 else 0#8, 0#8] ++ leBytes 1 x.target ++ leBytes 1 x.type_ ++ leBytes 1 x.st ++ [0#8] ++
    leBytes 4 x.keyId.toNat ++ leBytes 4 0 ++ (if x.type_ = 2 then x.pubHash else List.replicate 32 0#8)

/-- 32 bytes, zero for none. -/
def orZero (l : List Byte) : List Byte := if l = [] then List.replicate 32 0#8 else l

/-- The report of R136 but its signature. -/
def report (s : State) (nonce : List Byte) : List Byte :=
  let ks := if s.trust.lc = .decommissioned then [] else s.trust.ks.filter fun e => e.2.st != 0
  let prog := fun p => match (partOf s p).prog with | some g => g.digest | none => []
  leBytes 4 0x4C444154 ++ leBytes 4 (0x4E0 + ks.length * 48 + 4627) ++ serialBytes ++ leBytes 1 (lcCode s.trust.lc) ++ leBytes 3 0 ++
    leBytes 4 s.trust.svn ++ nonce ++ sha3 (dsaPk 5 s.trust.idSeed) ++ leBytes 4 (nsOf s.ltc) ++ leBytes 4 (secOf s.ltc) ++
    leBytes 4 s.pwr.cycles ++ leBytes 4 (fuseKeys s).toNat ++ ([1, 2, 3].flatMap fun c => orZero (mget [] s.trust.meas c)) ++
    ((List.range 32).flatMap fun p => orZero (prog p)) ++ leBytes 4 ks.length ++ leBytes 12 0 ++ ks.flatMap fun e => keyRecord e.1 e.2

/-- ATTEST (R136). -/
def execAttest (a : Acc) (s : State) : Host.Outcome State Fault Refusal :=
  .next (trustCmd a lcNotBlank (fun s =>
    let n := (report s []).length + 32 + 4627
    if !secureBuf s (targA s 0) 32 || !secureBuf s (targA s 1) n then trustEnd s 3
    else
      let b := trustRead s (targA s 0) 32
      let r := report b.2 b.1
      trustRun (trustWrite b.2 (targA s 1) (r ++ dsaSign 5 s.trust.idSeed (sha3 r))) 0 n) s)

/-! ### Lifecycle (R100-R109) -/

/-- The copies of the identity record (R98). -/
def idCopy (b : Bool) : Nat := if b then 0xA0008000 else 0xA0000000

/-- LC_PENDING written into both copies (R104 step 1), and the reset of step 2. -/
def lcGo (s : State) (target : Nat) : State :=
  let w := leBytes 8 (guarded (word (0x100 + target))).toNat
  deviceReset (wrBytes (wrBytes s (idCopy false + 8) w) (idCopy true + 8) w) 5

/-- A transition R100 permits, PROVISION apart. -/
def lcPermits (l : Lc) (target : Nat) : Bool :=
  match l, target with
  | .provisioned, 2 | .operational, 3 | .maintenance, 2 => true
  | .provisioned, 7 | .operational, 7 | .maintenance, 7 => true
  | _, _ => false

/-- The ERR of a transition request (R101-R103); one for another device fails with SIG_FAIL: DESIGN CHOICE, log 189. -/
def lcErr (s : State) (b : List Byte) : Nat :=
  let alg := lnat b 0x12 1
  if s.mir.role = .holder then 0x10
  else if s.trust.nonce ≠ some (slice b 0x20 32) then 0x11
  else if b.take 16 ≠ serialBytes ∨ !pkgSigned s alg (sha3 (b.take 64)) (slice b 64 (sigLen alg)) then 4
  else if lnat b 0x10 1 ≠ lcCode s.trust.lc ∨ !lcPermits s.trust.lc (lnat b 0x11 1) then 0x0F
  else 0

/-- LC_TRANSITION (R101-R104): the nonce is void after it. -/
def execLcTransition (a : Acc) (s : State) : Host.Outcome State Fault Refusal :=
  .next (trustCmd a lcKeys (fun s =>
    let n := 64 + sigLen (rdByte s (targA s 0 + 0x12)).toNat
    if !secureBuf s (targA s 0) n then trustEnd s 3
    else
      let r := trustRead s (targA s 0) n
      let b := r.1
      let s := r.2
      let e := lcErr s b
      let s := modTrust s fun t => { t with nonce := none }
      if e ≠ 0 then trustRun s e 0 else lcGo s (lnat b 0x11 1)) s)

/-- SVN_ADVANCE (R106). -/
def execSvnAdvance (a : Acc) (s : State) : Host.Outcome State Fault Refusal :=
  .next (trustCmd a lcKeys (fun s =>
    let n := targ s 0
    if n = 0 ∨ 64 < n then trustRun s 2 0
    else if n < s.trust.svn then trustRun s 6 0
    else trustRun (modTrust s fun t => { t with svn := n }) 0 0) s)

/-- A hash is fused into a slot, and its VALID fuse blown after it (R106). -/
def fuseKey (s : State) (n : Nat) (h : List Byte) : State := setFuse s n { fuseOf s n with hash := h, valid := true }
/-- The empty slots of a kind, lowest first (R107). -/
def fuseFree (s : State) (k : Nat) : List Nat := (fuseKind k).filter fun n => fuseEmpty (fuseOf s n)

/-- FUSE_KEY with add (R107). -/
def execFuseKeyAdd (a : Acc) (s : State) : Host.Outcome State Fault Refusal :=
  .next (trustCmd a (· == .maintenance) (fun s =>
    if !secureBuf s (targA s 0) 32 then trustEnd s 3
    else if 1 < targ s 1 then trustRun s 2 0
    else
      match fuseFree s (targ s 1) with
      | [] => trustRun s 0x0B 0
      | n :: _ =>
        let r := trustRead s (targA s 0) 32
        trustRun (fuseKey r.2 n r.1) 0 (n % 4)) s)

/-- FUSE_KEY with revoke (R108). A slot that is not usable is revoked too, its REVOKED fuse blown: DESIGN CHOICE, log 190. -/
def execFuseKeyRevoke (a : Acc) (s : State) : Host.Outcome State Fault Refusal :=
  .next (trustCmd a (· == .maintenance) (fun s =>
    if 1 < targ s 1 then trustRun s 2 0
    else if 3 < targ s 3 then trustRun s 0x0A 0
    else
      let n := 4 * targ s 1 + targ s 3
      let x := fuseOf s n
      if fuseUsable x && (usableHashes s (targ s 1)).length == 1 then trustRun s 0x0F 0
      else trustRun (setFuse s n { x with revoked := true }) 0 (targ s 3)) s)

/-- The hashes of a list, fused into the lowest empty slots of a kind; a spoiled slot is never programmed (R107). -/
def fuseList (s : State) (k a n : Nat) : State :=
  (List.range n).foldl (fun s i =>
    match fuseFree s k with
    | [] => s
    | j :: _ => let r := trustRead s (a + 32 * i) 32; fuseKey r.2 j r.1) s

/-- The verified provisioning image runs (R109): the boot ROM has handed over to it in BLANK. -/
def provisioning (s : State) : Bool := s.trust.lc == .blank && s.trust.stage == 2 && !s.trust.halted

/-- PROVISION (R109), by the provisioning image only (R138): the private seed goes into both copies of the identity record.
STORE_FULL where too few slots are empty: DESIGN CHOICE, log 191. -/
def execProvision (a : Acc) (s : State) : Host.Outcome State Fault Refusal :=
  .next (trustCmd a (fun _ => provisioning s) (fun s =>
    let n := targ s 1
    let m := targ s 3
    if !secureBuf s (targA s 0) (32 * min n 4) then trustEnd s 3
    else if n = 0 ∨ 4 < n ∨ m = 0 ∨ 4 < m then trustRun s 2 0
    else if (fuseFree s 0).length < n ∨ (fuseFree s 1).length < m then trustRun s 0x0B 0
    else
      let s := fuseList (fuseList s 0 (targA s 0) n) 1 (targA s 2) m
      let r := drawBytes s 32
      let s := wrBytes (wrBytes r.2 (idCopy false + 0x20) r.1) (idCopy true + 0x20) r.1
      lcGo (modTrust s fun t => { t with idSeed := r.1 }) 1) s)

/-! ### Watchdog (R115) -/

/-- A write of TRUST_WDOG_KICK. -/
def wdogKick (s : State) (w : Word) : State :=
  if fld w 15 0 ≠ 0x0D06 then modTrust s fun t => { t with badKicks := satAdd 255 t.badKicks 1 }
  else modTrust s fun t => { t with wdog := t.wdog.map fun _ => s.now }

/-- WATCHDOG_KICK (R115). -/
def execWatchdogKick (a : Acc) (w : Word) (s : State) : Host.Outcome State Fault Refusal :=
  .next (regAccess s a R.trustWdogKick true fun s => wdogKick s w)

/-- WATCHDOG_EXPIRY (R115): 20000 ms after the last restart. -/
def execWatchdogExpiry (s : State) : Host.Outcome State Fault Refusal :=
  .next (match s.trust.wdog with
    | none => s
    | some t => deviceReset (reach s (t + 20000000000)) 2)

/-! ### Engine slots and registers -/

/-- The target codes whose slots belong to a block (R125): MIR-link with the MIR, TLS with TRUST's own set. -/
def slotTarget : Nat → Nat | 0x0F => 1 | 0x0A => 2 | 0x09 => 3 | 0x16 => 4 | 1 => 5 | _ => 0

/-- The shadowed keys of a block's slots, as its COMMIT captures them (R128). -/
def keyShadows (s : State) (i : Nat) : List (Nat × List Byte) :=
  if slotTarget i = 0 then [] else mtake s.trust.next (slotTarget i * 256) (slotTarget i * 256 + 256)

/-- The keys captured enter force with their set (R128). -/
def keysInForce (s : State) (ks : List (Nat × List Byte)) : State :=
  modTrust s fun x => { x with slots := ks.foldl (fun m e => mset [] m e.1 e.2) x.slots }

/-- TRUST_LC_STAT and TRUST_BOOT_STAT (R139). -/
def lcStat (s : State) : Word :=
  word (b2n s.trust.resumed 9 + b2n s.trust.repaired 8 + s.trust.prev % 16 * 16 + lcCode s.trust.lc)
def bootStat (s : State) : Word :=
  word (s.trust.bootFail * 256 + b2n s.trust.bootB 4 + (if s.trust.ready then 5 else s.trust.stage))

/-- The registers TRUST computes (R139). -/
def readTrust (s : State) (o : Nat) : Option Word :=
  let t := s.trust
  let x := ksOf s (keySel s)
  match o with
  | 0x00 => some (lcStat s)
  | 0x10 => some (bootStat s)
  | 0x24 => some (word (t.result % 65536 * 65536 + t.err * 256 + b2n t.done 1 + b2n t.cmd.isSome 0))
  | 0x44 => some (match t.keyreg with | some k => word (k.entry * 256 + 1) | none => 0#32)
  | 0x48 => some (word (x.target % 256 * 65536 + x.type_ % 16 * 4096 + 0x80 + b2n x.imported 6 + x.st))
  | 0x4C => some x.keyId
  | 0x50 => some (word (b2n t.mramDone 2 + b2n t.dramDone 1 + b2n t.sramDone 0))
  | 0x54 => some (fuseKeys s)
  | 0x58 => some (word (t.badKicks * 2 ^ 24 + 20000))
  | _ => if 0x60 ≤ o ∧ o < 0x80 then some (word (lnat t.digest (o - 0x60) 4)) else none

end Sys2Proof.Machine
end

