-- ==== Sys2Proof/Machine/Read.lean ====
section
/-! DEFINITION. What a read of a register returns (R11, R12): the registers computed from the state of SYS, PART, PCX, TSK, TMX,
CMD and the FBCs, the common header (R53), and the keys that paged and banked windows map to. -/

namespace Sys2Proof.Machine

/-- Bits by number as one word. -/
def bitsOf (f : Nat → Bool) (n : Nat) : Word := word (packBits f n)

/-- The registers SYS computes (R54). -/
def readSys (s : State) (o : Nat) : Option Word :=
  match o with
  | 0x10 => some (word (b2n s.time.holdAt.isSome 2 + b2n s.sys.divOk 1 + b2n s.sys.rootLock 0))
  | 0x20 => some (word (2 ^ s.sys.cause))
  | 0x28 => some s.sys.slot
  | _ => none

/-- The registers PART computes (R161). -/
def readPart (s : State) (o : Nat) : Option Word :=
  let hand := fun b => bitsOf (fun k => (mfind s.part.handover (b + k)).isSome) 32
  if o = 0x08 then some (forceOf s R.partEn)
  else if o = 0x60 then some (hand 0)
  else if o = 0x64 then some (hand 32)
  else if o = 0x408 then some (word (s.part.medErr * 256))
  else if o = 0x10 then some (shadowOf s R.partWorld ||| 0x00400006#32)
  else if 0x8000 ≤ o ∧ o < 0x8400 ∧ o % 0x20 = 8 then
    let q := (hnqOf s ((o - 0x8000) / 0x20)).q.items
    some (word (packBits (fun c => q.any fun w => itemClass w == c) 4 * 65536 + q.length))
  else none

/-- CORE_STAT (R336). -/
def coreStat (s : State) (k : Nat) : Word :=
  let c := coreOf s k
  let own := ownerOf s 0 k
  let st := match c.mode with | .run => 1 | .ending => 2 | .idle => if own.isNone then 3 else 0
  let pid := match c.mode with | .idle => own.getD 0 | _ => c.pid
  word (st * 2 ^ 30 + b2n c.bank 29 + pid % 32 * 2 ^ 24 + c.task % 512)

/-- The registers the PCX computes (R336). -/
def readPcx (s : State) (o : Nat) : Option Word :=
  match o with
  | 0x00 =>
    let run := (s.pcx.cores.filter fun e => e.2.mode == .run).length
    let exc := ((List.range 64).filter fun k => bit (liveOf s (R.coreExc k)) 31).length
    some (word (run * 65536 + exc))
  | 0x10 => some s.pcx.pstop
  | 0x30 => some (word (b2n s.pcx.load.isSome 31 + b2n s.pcx.loadDone 30 + s.pcx.loadErr * 256))
  | _ => if 0x1000 ≤ o ∧ o < 0x2000 ∧ o % 0x40 = 4 then some (coreStat s ((o - 0x1000) / 0x40)) else none

/-- Entries of partition `p` in force. -/
def forceCount (s : State) (p : Nat) : Nat :=
  ((mtake s.tsk.forces (p * 256) (p * 256 + 256)).filter fun e => e.2.state == 1).length

/-- MQ as TSK_P_STAT shows it. -/
def mqCode : MqState → Nat
  | .none => 0 | .loading => 1 | .loaded => 2 | .preparing => 3 | .prepared => 4 | .switching => 5

/-- TSK_P_STAT (R412). -/
def partStat (s : State) (p : Nat) : Word :=
  let x := partOf s p
  word (pstCode x.pstate * 2 ^ 29 + mqCode x.mq * 2 ^ 26 + x.attempts % 16 * 2 ^ 22 + x.lastStart % 4 * 2 ^ 20 + x.err % 16 * 2 ^ 16 +
    forceCount s p)

/-- A register of a task entry (R412). -/
def taskReg (s : State) (t o : Nat) : Option Word :=
  let x := taskOf s t
  let d := fun (f : TaskDef → Word) => some ((x.def_.map f).getD 0#32)
  match o with
  | 0x00 => d fun d => word (2 ^ 31 + d.kind % 4 * 2 ^ 29 + d.prio % 16 * 2 ^ 25 + d.core % 64 * 2 ^ 19)
  | 0x04 => d (·.act)
  | 0x08 => d fun d => word (d.dl % 2 ^ 24)
  | 0x0C => d (·.root)
  | 0x14 =>
    let st := if x.stopped then 3 else if x.running then 2 else if x.pend.isSome then 1 else 0
    some (word (st * 2 ^ 30 + b2n ((x.pend.map (·.held)).getD false) 29))
  | _ => none

/-- The registers the TSK computes (R412); `o` is the offset of a key. -/
def readTsk (s : State) (a o : Nat) : Option Word :=
  if 0x2100000000 ≤ a then
    if o = 0x801C then
      let i := (a - 0x2100000000) / 0x20
      let x := forceSt s (i / 256) (i % 256)
      some (word (x.state * 2 ^ 30 + x.core % 64 * 2 ^ 24 + x.ofs % 2 ^ 17))
    else none
  else if o = 0x00 then
    some (word ((s.tsk.tasks.filter fun e => e.2.pend.isSome).length * 65536 + (s.tsk.tasks.filter fun e => e.2.def_.isSome).length))
  else if o = 0x0C then some (bitsOf (fun p => forceCount s p != 0) 32)
  else if o = 0x14 then some (word (retOthers s 32))
  else if o = 0x18 then some (word (b2n (!s.tsk.round.isEmpty) 31 + (s.tsk.round.length + s.tsk.nextRound.length) % 4096))
  else if 0x100 ≤ o ∧ o < 0x500 then
    let p := (o - 0x100) / 0x20
    match o % 0x20 with
    | 0x04 => some (partStat s p)
    | 0x0C => some (partOf s p).img
    | _ => none
  else if 0x4000 ≤ o ∧ o < 0x8000 then taskReg s ((o - 0x4000) / 0x20) (o % 0x20)
  else none

/-- LANE_STAT (R449). -/
def laneStat (s : State) (n : Nat) : Word :=
  let l := laneOf s n
  let own := ownerOf s 5 n
  let d := match l.drive with | .hold => 0 | .reset => 1 | .operate => 2
  word (d * 2 ^ 30 + b2n (minActive s n && decide (l.drive = .operate) && !laneOp s n) 29 + b2n l.guard 28 + b2n l.rbErr 27 +
    holdWhy s n * 2 ^ 24 + own.getD 0 % 32 * 2 ^ 16 + b2n own.isSome 15)

/-- The registers the TMX computes (R449). -/
def readTmx (s : State) (o : Nat) : Option Word :=
  let lane := fun (d : Drive) => bitsOf (fun n => (laneOf s n).drive == d) 32
  if o = 0x00 then some (word (b2n (laneMaster s) 31 + ((List.range 32).filter fun n => (laneOf s n).drive == .operate).length))
  else if o = 0x10 then some (lane .operate)
  else if o = 0x14 then some (lane .hold)
  else if 0x200 ≤ o ∧ o < 0x400 then some (bitsOf (fun b => flagState s ((o - 0x200) / 4 * 32 + b)) 32)
  else if 0x400 ≤ o ∧ o < 0x600 then some (bitsOf (fun b => (mget none s.tmx.forced ((o - 0x400) / 4 * 32 + b)).isSome) 32)
  else if 0x1000 ≤ o ∧ o < 0x1800 then
    let n := (o - 0x1000) / 0x40
    match o % 0x40 with
    | 0x28 => some (laneStat s n)
    | 0x30 => some (word (nsOf (laneOf s n).since))
    | 0x34 => some (laneOf s n).secLatch
    | _ => none
  else none

/-- CO_STATE (R451). -/
def coState (s : State) (o : Nat) : Word :=
  let x := objOf s o
  let v := guardedVal x.st
  let left := if fld v 31 30 = 1 ∨ fld v 31 30 = 2 then min 0xFFFF ((x.due - s.now + 999999) / 1000000) else 0
  (v &&& 0xFFFF0000#32) ||| word left

/-- The registers the CMD computes (R451). -/
def readCmd (s : State) (o : Nat) : Option Word :=
  if o = 0x00 then
    some (word (b2n (laneMaster s) 31 + (s.cmd.objs.filter fun e => fld (guardedVal e.2.st) 31 30 == 2).length))
  else if o = 0x18 then some (word s.cmd.res.items.length)
  else if 0x1000 ≤ o ∧ o < 0x5000 ∧ o % 0x40 = 0x18 then some (coState s ((o - 0x1000) / 0x40))
  else none

/-- The registers an FBC computes (R474). -/
def readFbc (s : State) (m o : Nat) : Option Word :=
  let f := fbcOf s m
  let fc := match f.fc with | .active => 0 | .passive => 1 | .busOff => 2 | .recovering => 3
  match o with
  | 0x08 => some (word (b2n f.xcvr 5 + b2n (fbBusy s m) 4 + fc * 4 + b2n f.bus.isNone 1 + b2n f.on 0))
  | 0x28 => some (word (min 255 f.tec * 65536 + f.rec_ % 256))
  | 0x30 => some (word f.tq0.items.length)
  | 0x44 => some (word f.tq1.items.length)
  | 0x64 => some (word (b2n f.rq0.side 16 + f.rq0.q.items.length))
  | 0x84 => some (word (b2n f.rq1.side 16 + f.rq1.q.items.length))
  | _ =>
    if 0x100 ≤ o ∧ o < 0x150 then some ((f.rq0.win[(o - 0x100) / 4]?).getD 0#32)
    else if 0x180 ≤ o ∧ o < 0x1D0 then some ((f.rq1.win[(o - 0x180) / 4]?).getD 0#32)
    else none

/-! ### The common header (R53) -/

/-- A block's commits. -/
def commitOf (s : State) (i : Nat) : CommitSt := mget {} s.commits i

/-- A register of the header of block `i`. -/
def readHeader (s : State) (i o : Nat) : Word :=
  let c := commitOf s i
  match o with
  | 0xFFE0 => word (i * 2 ^ 24 + 0x10000)
  | 0xFFE8 => (liveOf s (R.base i + 0xFFE8) &&& 0x3C#32) ||| word (b2n (!c.checking.isEmpty) 1 + b2n c.pend.isSome 0)
  | 0xFFEC | 0xFFF4 | 0xFFF8 => liveOf s (R.base i + o)
  | 0xFFF0 => (liveOf s (R.base i + o) &&& 0xFFFF0000#32) ||| (match c.pend with | some p => p.tag.setWidth 32 | none => 0#32)
  | _ => 0#32

/-! ### Keys and values -/

/-- The key of an address for application core `h`: the paged windows of the SCA and the TSK, and the ALM_POST registers held for
each core (R412, R300, R497). -/
def regKey (s : State) (h a : Nat) : Nat :=
  let o := a % 0x10000
  match blockOf a with
  | 11 => if 0x8000 ≤ o ∧ o < 0xC000 then 0x2000000000 + (fld (shadowOf s R.scaChPage) 3 0 * 512 + (o - 0x8000) / 0x20) * 0x20 + o % 0x20 else a
  | 13 => if 0x8000 ≤ o ∧ o < 0xA000 then R.fCfg (fld (shadowOf s R.tskFPage) 4 0) ((o - 0x8000) / 0x20) + o % 0x20 else a
  | 20 => if 0x40 ≤ o ∧ o < 0x5C then 0x2200000000 + h * 0x40 + (o - 0x40) else a
  | _ => a

/-- The registers a block computes; none for one that the tables hold. -/
def computed (s : State) (a : Nat) : Option Word :=
  let o := offsetOf a
  match blockOf a with
  | 0 => readSys s o | 1 => readTrust s o | 2 => readPart s o | 3 => readTime s o
  | 4 => readMac s 0 o | 5 => readMac s 1 o | 6 => readMac s 2 o | 7 => readMac s 3 o | 8 => readMac s 4 o
  | 9 => readSiu s o | 10 => readSvp s o
  | 11 => if 0x2000000000 ≤ a then readCh s ((a - 0x2000000000) / 0x20) (o % 0x20) else readSca s o
  | 12 => readPcx s o | 13 => readTsk s a o | 14 => readTmx s o | 15 => readGse s o | 16 => readCmd s o
  | 17 => readFbc s 0 o | 18 => readFbc s 1 o | 19 => readDrc s o | 20 => if 0x2200000000 ≤ a then none else readAlm s o
  | 21 => readMtr s o | 22 => readMir s o | 23 => readPwr s o | 24 => readDiag s o
  | _ => none

/-- The value a register of the tables shows (R12): what was last written of its settings, and its status bits. -/
def tableValue (s : State) (a : Nat) (r : RegRow) : Word :=
  let m := word r.cfg
  let st := liveOf s a
  match r.cls with
  | .wo => 0#32
  | .ro => if r.rst = 0 then st else word r.rst
  | .rs | .rw | .st => (shadowOf s a &&& m) ||| (st &&& ~~~m)
  | _ => st

/-- The value of the register with key `a`. -/
def readReg (s : State) (a : Nat) : Word :=
  if a < 0x2000000000 ∧ 0xFFE0 ≤ a % 0x10000 then readHeader s (blockOf a) (a % 0x10000)
  else
    match computed s a with
    | some w => w
    | none => match rowOf a with | some r => tableValue s a r | none => 0#32

end Sys2Proof.Machine
end

