-- ==== Sys2Proof/Machine/Boot.lean ====
section
/-! DEFINITION. From the release of reset to protection-ready: what is sampled and read, the lifecycle state (R97, R98, R104,
R105), the boot ROM (R117, R118), the starts of PWR, ALM and MTR (R87, R500, R523), the wipes (R110, R113, R114) and R121. -/

namespace Sys2Proof.Machine

/-! ### The identity record (R97, R98) -/

/-- A copy of the identity record passes its guard check. -/
def idOkCopy (s : State) (b : Bool) : Bool := guardedOk (rd64 s (idCopy b))
/-- The state it holds. -/
def idState (s : State) (b : Bool) : Nat := (guardedVal (rd64 s (idCopy b))).toNat
/-- The copy that counts: A, or B where A fails. -/
def idGood (s : State) : Option Bool := [false, true].find? (idOkCopy s)

/-- The transition that LC_PENDING of a copy asks for (R104, R105). -/
def lcPending (s : State) : Option Nat :=
  [false, true].findSome? fun b =>
    let w := rd64 s (idCopy b + 8)
    if guardedOk w && bit (guardedVal w) 8 then some (fld (guardedVal w) 3 0) else none

/-- Neither copy was ever written, as before PROVISION (log 61). -/
def idNever (s : State) : Bool := rd64 s (idCopy false) == 0#64 && rd64 s (idCopy true) == 0#64

/-- LC_REPAIR (R98): a copy that fails its guard check is a GUARD_FAULT (R17) and is written again from the other one; so is a
GUARD_FAULT an LC_PENDING word that fails. -/
def lcRepair (s : State) : State :=
  let bad := fun (w : DWord) => w != 0#64 && !guardedOk w
  let s := blockRead (blockRead s 1 (idCopy false) 0x40) 1 (idCopy true) 0x40
  let s := if bad (rd64 s (idCopy false + 8)) || bad (rd64 s (idCopy true + 8)) then guardFault s 1 else s
  match idOkCopy s false, idOkCopy s true with
  | true, true => s
  | true, false => lcFix (guardFault s 1) true false
  | false, true => lcFix (guardFault s 1) false true
  | false, false => if idNever s then s else guardFault s 1
where
  /-- Copy `b` is written again from the other one. -/
  lcFix (s : State) (b good : Bool) : State :=
    setEvt (wrBytes (modTrust s fun t => { t with repaired := true }) (idCopy b) (rdBytes s (idCopy good) 0x40)) R.trustEvt 1

/-- The state of a code. -/
def lcOf : Nat → Lc | 1 => .provisioned | 2 => .operational | 3 => .maintenance | 7 => .decommissioned | _ => .blank

/-- LC_STATE_DERIVE (R97, R98): none where both copies fail or contradict the fuses. Before PROVISION a module has no record, and
one that was never written is BLANK (log 61). -/
def lcDerive (s : State) : Option Lc :=
  let v := (idGood s).map (idState s)
  if s.trust.decom then (if v = some 7 then some .decommissioned else none)
  else if !s.trust.prov then (if v = some 0 ∨ idNever s then some .blank else none)
  else match v with | some 1 => some .provisioned | some 2 => some .operational | some 3 => some .maintenance | _ => none

/-! ### The boot ROM (R109, R115, R117, R118) -/

/-- The boot ROM halts. -/
def bootHalt (s : State) (fail : Nat) : State := modTrust s fun t => { t with halted := true, bootFail := fail }

/-- The error of a first-stage copy, 0 for none. -/
def stageErr (s : State) (img : List Byte) : Nat :=
  let h := img.take 0x2000
  let blank := decide (s.trust.lc = .blank)
  let hs := if blank then [(List.range 32).map Config.provKeyHash] else usableHashes s 0
  imgErr h ((img.drop 0x2000).take (imgLen h)) hs [if blank then 5 else 1] s.trust.svn

/-- Where the boot ROM puts the first stage in shared state SRAM: its first byte, DESIGN CHOICE, log 192. -/
def bootBase : Nat := 0x80000000

/-- The copy that runs stands in shared state SRAM (R117), once that has been wiped (R113). -/
def bootLoad (s : State) : State :=
  if s.trust.stage = 2 ∧ s.trust.sramDone then wrBytes s bootBase (if s.trust.bootB then s.ufs.2 else s.ufs.1) else s

/-- The first stage starts from a copy. -/
def bootStage (s : State) (img : List Byte) (b : Bool) : State :=
  bootLoad (measure (modTrust s fun t => { t with stage := 2, bootB := b, bootFail := if b then 1 else 0, wdog := some s.now })
    (img.take 0x2000))

/-- BOOT_ROM_START: first-stage copy A of UFS, or B if A fails. A decommissioned module boots nothing (R99). -/
def bootImage (s : State) : State :=
  let imgs := s.ufs
  if s.trust.lc = .decommissioned then s
  else if s.trust.lc ≠ .blank ∧ usableHashes s 0 = [] then bootHalt s 5
  else
    let ea := stageErr s imgs.1
    let eb := stageErr s imgs.2
    if ea = 0 then bootStage s imgs.1 false
    else if eb = 0 then bootStage s imgs.2 true
    else bootHalt s (if ea = 6 ∧ eb = 6 then 4 else 2)

/-- The blocks start and the boot ROM goes on in the lifecycle state `l`: ALM_SCAN, METER_RESTORE, the first stage; a nonce for
the MIR's packets (R550). -/
def bootGo (s : State) (l : Lc) : State :=
  let s := modTrust s fun t => { t with lc := l }
  let s := mtrRestore (almScan s) (s.pwr.outcome % 2 == 1) (s.pwr.outcome == 2)
  let a := draw s
  let b := draw a.2
  let s := { b.2 with mir := { b.2.mir with nonceTx := a.1 ++ b.1 } }
  bootImage s

/-! ### Reset release (R61, R65, R66, R76, R123) -/

/-- The dump-valid marker at start-up: the dump is kept after a reset with cause DUMP (R110, R575, R578). -/
def dumpKeep (s : State) : State :=
  if s.sys.cause ≠ 4 then s
  else if dumpMark s then { s with trust := { s.trust with dramKeep := true }, diag := { s.diag with kept := true } }
  else if rd64 s 0x4FC000090 = 0#64 then s
  else guardFault s 0x18

/-- RESET_RELEASE: 10 ms after power-good, or within 1 µs of another reset. The identity pins, and the first-stage copies that UFS
holds. The clock tree is locked as the reset is released (DEDUCED: log 193). -/
def execResetRelease (slot : Fin 32) (pos : Bool) (imgA imgB : List Byte) (s : State) : Host.Outcome State Fault Refusal :=
  .next (
    if s.sys.released ∨ !s.pwr.good then s
    else
      let s := reach s (if s.sys.cause = 0 then s.pwr.goodAt + 10000000 else s.sys.at_ + 1000)
      let s := { s with
        sys := { s.sys with released := true, at_ := s.now, slot := word (b2n pos 8 + slot.val), rootLock := true, divOk := true }
        ufs := (imgA, imgB) }
      let s := dumpKeep (twilightRead (modPwr s fun x => { x with highZ := false }))
      let s := lcRepair (modTrust s fun t => { t with stage := 1 })
      let s := modTrust s fun t => { t with idSeed := rdBytes s (idCopy ((idGood s).getD false) + 0x20) 32 }
      match lcPending s with
      | some target => modTrust s fun t => { t with transit := some target, resumed := decide (s.sys.cause ≠ 5) }
      | none =>
        let s := modTrust s fun t => { t with mramDone := true }
        match lcDerive s with
        | none => bootHalt s 3
        | some l =>
          let s := modTrust s fun t => { t with prev := if s.trust.prov then (rdByte s (idCopy false + 0x10)).toNat % 16 else 0 }
          bootGo s l)

/-! ### Wipes (R110, R113, R114) -/

/-- SRAM_WIPE_DONE: core-local SRAM, shared state SRAM and the stream buffer; the first stage comes after it. -/
def execSramWipeDone (s : State) : Host.Outcome State Fault Refusal :=
  .next (if !s.sys.released ∨ s.trust.sramDone then s
    else bootLoad (modTrust (wipe (wipe s 0x80000000 0x81800000) 0x90000000 0x91000000) fun t => { t with sramDone := true }))

/-- DRAM_WIPE_DONE: the stalled masters go on (`Machine/RegOp.lean`, MEMORY_ACCESS). -/
def execDramWipeDone (s : State) : Host.Outcome State Fault Refusal := .next (dramWipe s)

/-- Everything of MRAM but the identity record and the two counts reads 0; the key store is empty (R110). -/
def mramWipe (s : State) : State :=
  modTrust (wipe (wipe s 0xA0010000 saveArea) (saveArea + 0x10) 0xA1000000) fun t => { t with ks := [], mramDone := true, transit := none }

/-- Steps 3 and 4 of R104 after the wipe: the fuse, the target state in both copies, LC_PENDING clear. -/
def lcWrite (s : State) (target prev : Nat) : State :=
  let s := modTrust s fun t => { t with prov := t.prov || target == 1, decom := t.decom || target == 7, prev := prev }
  let rec_ := leBytes 8 (guarded (word target)).toNat ++ leBytes 8 (guarded 0#32).toNat ++ leBytes 8 prev
  wrBytes (wrBytes s (idCopy false) rec_) (idCopy true) rec_

/-- MRAM_WIPE_DONE (R104 steps 3 to 5, R114): the first record after it names the transition. -/
def execMramWipeDone (s : State) : Host.Outcome State Fault Refusal :=
  .next (
    match s.trust.transit with
    | some target =>
      let prev := if s.trust.prov then ((idGood s).map (idState s)).getD 0 % 16 else 0
      let s := lcWrite (mramWipe s) target prev
      let s := almPost s 3 0x01 0x80 none [word (prev * 16 + target)]
      bootGo s (lcOf target)
    | none => s)

/-! ### Protection-ready (R121) -/

/-- The subscriptions of partition `p` are enabled (R121; log 57): each SV context and GOOSE subscription it owns whose EN firmware
has written 1 has EN 1 in force. -/
def subsEnabled (s : State) (p : Nat) : Bool :=
  let on := fun (k a n : Nat) => ownerOf s k n != some p || !bit (shadowOf s a) 31 || bit (forceOf s a) 31
  ((List.range 1024).all fun n => on 1 (R.ctxCfg n) n) && (List.range 512).all fun n => on 7 (R.gsCfg n) n

/-- Every enabled partition has a program in force that VERIFY has checked, and its subscriptions enabled. -/
def progsReady (s : State) : Bool :=
  (List.range 32).all fun p => !partOn s p || ((match (partOf s p).prog with
    | some g => g.digest == mget [] s.trust.checked p && g.digest != []
    | none => false) && subsEnabled s p)

/-- PROTECTION_READY; not once the supply has failed (R86). -/
def execProtectionReady (s : State) : Host.Outcome State Fault Refusal :=
  .next (
    if s.diag.bistOk ∧ storeOk s ∧ s.time.tickRun ∧ !s.trust.halted ∧ !s.pwr.fail ∧ progsReady s ∧
        (s.trust.lc = .provisioned ∨ s.trust.lc = .operational) then
      mastership (modTrust s fun t => { t with ready := true })
    else s)

end Sys2Proof.Machine
end

