-- ==== Sys2Proof/Machine/Commit.lean ====
section
/-! DEFINITION. Commits (R13, R42-R53): what a COMMIT write captures, the consistency check, cancelling, and how a set enters
force, at a meridian in the order of R26 or while the tick generator is stopped (R47), with the recheck of R50. -/

namespace Sys2Proof.Machine

def setCommit (s : State) (i : Nat) (c : CommitSt) : State := { s with commits := mset {} s.commits i c }

/-- The key is an RS register. -/
def isRs (a : Nat) : Bool := match rowOf a with | some r => r.cls == .rs | none => false

/-! ### Capture (R45, R48, R144) -/

/-- The owner a register's writer must be (R144): the resource's owner in force, or the partition it is fixed to. -/
def writerBad (s : State) (a : Nat) (t : Tag) : Bool :=
  !t.secure && !t.sys &&
    match regResource a, regPid a with
    | some (k, n), _ => ownerOf s k n != some t.pid.val
    | none, some p => p != t.pid.val
    | none, none => false

/-- The non-secure last writers of block `i`'s registers; a register never written counts as the secure world's (R144). -/
def writersOf (s : State) (i : Nat) : List (Nat × Tag) := s.writer.filter fun e => blockOf e.1 == i

/-- The first register among `ws` whose last writer is not its owner (R144). -/
def foreignIn (s : State) (ws : List (Nat × Tag)) : Option Nat := (ws.find? fun e => writerBad s e.1 e.2).map (·.1)

/-- The set a COMMIT write captures. -/
def capture (s : State) (i : Nat) (tag : Half) : PendSet :=
  { vals := s.shadow.filter fun e => blockOf e.1 == i && isRs e.1
    owners := if i = 2 then s.part.draft else []
    written := (commitOf s i).wrote
    keys := keyShadows s i
    writers := writersOf s i
    foreign := foreignIn s (writersOf s i)
    tag := tag
    at_ := s.now }

/-- COMMIT (R45): capture, and the check begins. -/
def commit (s : State) (i : Nat) (tag : Half) : State :=
  let c := commitOf s i
  setCommit s i { c with checking := c.checking ++ [capture s i tag], wrote := [] }

def execCommit (a : Acc) (i : Fin 25) (tag : Half) (s : State) : Host.Outcome State Fault Refusal :=
  .next (regAccess s a (R.base i.val + 0xFFE4) true fun s => commit s i.val tag)

/-! ### Checks (R13, R19, R43, R44) -/

/-- The check of block `i`'s own rules: cause and offset of the first fault. -/
def checkBlock (s : State) (i : Nat) (ps : PendSet) : Option (Nat × Nat) :=
  match i with
  | 0x02 => checkPart s ps
  | 0x03 => checkTime ps
  | 0x04 => checkMac s 0 ps
  | 0x05 => checkMac s 1 ps
  | 0x06 => checkMac s 2 ps
  | 0x07 => checkMac s 3 ps
  | 0x08 => checkMac s 4 ps
  | 0x09 => checkSiu s ps
  | 0x0A => checkSvp s ps
  | 0x0B => checkSca s ps
  | 0x0C => checkPcx ps
  | 0x0D => checkTsk s ps
  | 0x0E => checkTmx s ps
  | 0x0F => checkGse ps
  | 0x10 => checkCmd ps
  | 0x11 => checkFbc 0 ps
  | 0x12 => checkFbc 1 ps
  | 0x13 => checkDrc s ps
  | 0x15 => checkMtr ps
  | 0x16 => checkMir s ps
  | 0x17 => checkPwr ps
  | 0x18 => checkDiag s ps
  | _ => none

/-- The consistency check: the writers of R144, then the block's rules. -/
def checkSet (s : State) (i : Nat) (ps : PendSet) : Option (Nat × Nat) :=
  match ps.foreign with
  | some a => some (4, busAddr a % 0x10000)
  | none => checkBlock s i ps

/-- A commit is rejected (R13): CFG_ERR, its cause and place. -/
def rejectSet (s : State) (i cause off : Nat) : State :=
  setLive (setEvt s (R.base i + 0xFFE8) 2) (R.base i + 0xFFEC) (word (cause * 2 ^ 24 + off % 0x10000))

/-- The oldest check of block `i` ends (R45, R49): its set replaces the pending one, or is rejected. -/
def checkDone (s : State) (i : Nat) : State :=
  match (commitOf s i).checking with
  | [] => s
  | ps :: rest =>
    let c := commitOf s i
    match checkSet s i ps with
    | some (cause, off) => rejectSet (setCommit s i { c with checking := rest }) i cause off
    | none => setCommit s i { c with checking := rest, pend := some ps }

/-- CONSISTENCY_CHECK_DONE (R45). -/
def execConsistencyCheckDone (i : Fin 25) (s : State) : Host.Outcome State Fault Refusal := .next (checkDone s i.val)

/-- The checks that have ended by now: those of sets committed 512 ns ago or earlier (R45). -/
def checksEnd (s : State) (i : Nat) : State :=
  each (commitOf s i).checking s fun ps s => if ps.at_ + 512 ≤ s.now then checkDone s i else s

/-! ### Cancelling (R51) -/

/-- A set is too late to be discarded: its meridian is the next one, and less than 512 ns away (R51). -/
def cancelLate (s : State) (ps : PendSet) : Bool :=
  let m := s.now + (nextMer s - s.ltc)
  s.time.tickRun && decide (ps.at_ + 512 ≤ m) && decide (m < s.now + 512)

/-- COMMIT with CANCEL = 1 (R47, R51). -/
def commitCancel (s : State) (i : Nat) : State :=
  let c := commitOf s i
  let late := c.checking.any (cancelLate s) || c.pend.any (cancelLate s)
  let s := setCommit s i { c with checking := c.checking.filter (cancelLate s), pend := c.pend.filter (cancelLate s) }
  if late then setEvt s (R.base i + 0xFFE8) 5 else s

/-- COMMIT_CANCEL (R51). -/
def execCommitCancel (a : Acc) (i : Fin 25) (s : State) : Host.Outcome State Fault Refusal :=
  .next (regAccess s a (R.base i.val + 0xFFE4) true fun s => commitCancel s i.val)

/-! ### Entry into force (R46, R50, R149, R150) -/

/-- A resource that may not move now: a flag page with a flag at operate, a lane at operate (R150). -/
def moveBad (s : State) (o : List (Nat × Nat)) : Bool :=
  ((List.range 64).any fun n => ownerIn o 4 n ≠ ownerOf s 4 n &&
    (List.range 64).any fun b => flagState s (64 * n + b)) ||
  (List.range 32).any fun n => ownerIn o 5 n ≠ ownerOf s 5 n && (laneOf s n).drive == .operate

/-- The recheck at the instant a set enters force (R50): the writers and the block's rules against the ownership in force now; the
offset at fault. -/
def recheck (s : State) (i : Nat) (ps : PendSet) : Option Nat :=
  match foreignIn s ps.writers with
  | some a => some (busAddr a % 0x10000)
  | none =>
    match checkBlock s i ps with
    | some (_, o) => some o
    | none => if i = 2 ∧ moveBad s (setOwners s ps) then some 0 else none

/-- RESOURCE_MOVE (R146, R148, R149): the owners of a PART set; a core with a run in progress keeps its tag until the run retires. -/
def moveResources (s : State) (ps : PendSet) : State :=
  let o := setOwners s ps
  let wait := (List.range 64).foldl (fun h k =>
    if ownerIn o 0 k ≠ ownerOf s 0 k ∧ (coreOf s k).mode ≠ .idle ∧ (mfind h k).isNone then mput h k ((ownerOf s 0 k).getD 0) else h)
    s.part.handover
  { s with part := { s.part with
    owners := o, handover := wait, sliceBad := []
    draft := if bit (pendVal ps.vals R.partMode) 0 && bit (forceOf s R.partMode) 0 then s.part.draft else o } }

/-- BLK_COMMIT_TICK of a set that enters force now; 0 while the generator is stopped (R47, R53). -/
def forceTick (s : State) : Word :=
  if s.time.tickRun then word (s.time.tickSec % 65536 * 65536 + s.time.tick % 8192) else 0#32

/-- The values of a set are in force (R46, R128, R148): registers, keys, TAG_FORCE and the tick. -/
def putInForce (s : State) (i : Nat) (ps : PendSet) : State :=
  let s := if i = 2 then moveResources s ps else s
  let s := { s with force := ps.vals.foldl (fun m e => mput m e.1 e.2) s.force }
  let s := keysInForce s ps.keys
  let s := setLive s (R.base i + 0xFFF0) (word (ps.tag.toNat * 65536))
  setLive s (R.base i + 0xFFF4) (forceTick s)

/-- The pending set of block `i` if it enters force now, taken away; rejected with cause 0x05 where the recheck fails (R50). -/
def takeSet (s : State) (i : Nat) : State × Option PendSet :=
  match (commitOf s i).pend with
  | none => (s, none)
  | some ps =>
    if s.now < ps.at_ + 512 then (s, none)
    else
      let s := setCommit s i { commitOf s i with pend := none }
      match recheck s i ps with
      | some o => (rejectSet s i 5 o, none)
      | none => (s, some ps)

/-- What a block does as its set enters force; `s0` is the state before step 2. While the generator is stopped TIME looks at its
sources anew. -/
def blockInForce (s0 : State) (i : Nat) (ps : PendSet) (s : State) : State :=
  match i with
  | 0x02 => lanesUpdate s
  | 0x03 => timeChanged s
  | 0x04 => macInForce s0 0 s
  | 0x05 => macInForce s0 1 s
  | 0x06 => macInForce s0 2 s
  | 0x07 => macInForce s0 3 s
  | 0x08 => macInForce s0 4 s
  | 0x09 => siuInForce s0 s
  | 0x0A => svpInForce s0 s
  | 0x0B => scaInForce s0 s
  | 0x0E => tmxInForce s ps.written
  | 0x0F => gseInForce s0 s
  | 0x13 => drcInForce s ps.written
  | 0x15 => mtrInForce s0 s
  | 0x18 => diagInForce s0 s
  | _ => s

/-- The sets of the blocks `l` enter force together (R46): each rechecked against the state before, all values, then what each
block does. A TSK set waits once the twilight save has begun (R83). -/
def setsInForce (l : List Nat) (s0 : State) : State :=
  let r := l.foldl (fun (acc : State × List (Nat × PendSet)) i =>
    if i = 0x0D ∧ saving acc.1 then acc
    else
      match takeSet acc.1 i with
      | (s, some ps) => (s, acc.2 ++ [(i, ps)])
      | (s, none) => (s, acc.2)) (checksAll s0 l, [])
  let s := each r.2 r.1 fun e s => putInForce s e.1 e.2
  each r.2 s fun e s => blockInForce s0 e.1 e.2 s
where
  /-- The checks that have ended by now. -/
  checksAll (s : State) (l : List Nat) : State := each l s fun i s => checksEnd s i

/-- The blocks of step 2 of R26. -/
def otherBlocks : List Nat := (List.range 25).filter (· ≠ 2)

end Sys2Proof.Machine
end

