-- ==== Sys2Proof/Machine/Dump.lean ====
section
/-! DEFINITION. The fatal-error dump (R575-R578): freeze, seal, reset, unseal, acknowledge. -/

namespace Sys2Proof.Machine

/-- A write of DIAG_DUMP_CTRL: any KEY but 0xD0C5 is ignored and counted (R575). -/
def dumpCtrl (a : Acc) (key : Half) (f : State → State) (s : State) : State :=
  regAccess s a R.diagDumpCtrl true fun s =>
    if key = 0xD0C5#16 then f s else modDiag s fun d => { d with badKey := satAdd 255 d.badKey 1 }

def dumpErr (s : State) (e : Nat) : State := modDiag s fun d => { d with dumpErr := e }
/-- A seal or the wipe of ACK runs. -/
def dumpBusy (s : State) : Bool := s.diag.sealing.isSome || s.diag.wiping

/-! ### The dump (R576) -/

def dumpBase : Nat := 0x4FC000000
/-- DIAG's device-internal dump secret; Config number 70. -/
def dumpSecret : List Byte := cryptBytes 70 32 []
def dumpKey (salt : List Byte) : List Byte := shake32 (dumpSecret ++ salt)

def wordsLe (l : List Word) : List Byte := l.flatMap fun w => leBytes 4 w.toNat
/-- Cut, or filled up with zeros, to `n` bytes. -/
def fit (n : Nat) (l : List Byte) : List Byte := l.take n ++ List.replicate (n - l.length) 0#8

/-- Section 1: a protection core. -/
def dumpCore (s : State) (k : Nat) : List Byte :=
  let c := coreOf s k
  let fr := c.frames.take 16
  fit 2048 (wordsLe (
    (List.range 31).map (fun i => mget 0#32 c.sreg (i + 1)) ++ (List.range 256).map (fun i => mget 0#32 c.vreg i) ++
    (List.range 7).map (fun i => word (mget 0#8 c.preg (i + 1)).toNat) ++
    [c.ib, word c.desc, word c.pc, c.fpstat, c.relG, c.relN, c.relT, c.rt, word c.pid, word c.task, word c.startCode] ++
    (List.range 16).flatMap (fun i => match fr[i]? with | some f => [word f.pc, f.ib, word f.desc] | none => [0#32, 0#32, 0#32]) ++
    (List.range 16).map (fun i => readReg s (0xF00C1000 + k * 0x40 + i * 4))))

/-- Section 3: the common header and the RO and W1C registers of a block, from the lowest offset up. -/
def dumpWindow (s : State) (i : Nat) : List Byte :=
  let hdr := (List.range 8).map fun j => readReg s (R.base i + 0xFFE0 + 4 * j)
  let rows := (blockRows i).filter fun r => r.cls == .ro || r.cls == .w1c
  let regs := rows.flatMap fun r => (List.range r.count).map fun n => readReg s (R.base i + r.off + n * r.stride)
  fit 1024 (wordsLe (hdr ++ regs))

/-- The four pointers of a queue. -/
def ptrs {α : Type} (q : Q α) : List Word := [word (q.rd + q.rdC * 65536), word (q.wr + q.wrC * 65536)]

/-- Section 4: both copies of the queue pointers. -/
def dumpPtrs (s : State) : List Byte :=
  fit 4096 (wordsLe (
    (List.range 32).flatMap (fun p => ptrs (hnqOf s p).q) ++ (List.range 5).flatMap (fun i => ptrs (stampQ s i).q) ++
    (List.range 64).flatMap (fun k => ptrs (actQ s k)) ++ ptrs s.alm.posts ++ ptrs s.cmd.res ++ ptrs s.drc.rowPtr ++ ptrs s.sca.q ++
    ptrs s.mir.capPtr ++ ptrs s.mir.rxPtr ++
    [s.fbc0, s.fbc1].flatMap (fun f => ptrs f.tq0 ++ ptrs f.tq1 ++ ptrs f.rq0.q ++ ptrs f.rq1.q) ++
    s.net.macs.flatMap (fun e => (e.2.rx ++ e.2.tx).flatMap fun r => [word (r.2.rd + r.2.rdC * 65536), word (r.2.wr + r.2.wrC * 65536)]) ++
    s.gse.pubs.flatMap (fun e => ptrs e.2.q)))

/-- A slot placed among others by SEQ. -/
def bySeq (s : State) (i : Nat) : List Nat → List Nat
  | [] => [i]
  | j :: t => if (slotWord s i 2).toNat < (slotWord s j 2).toNat then i :: j :: t else j :: bySeq s i t

/-- Section 5: the newest 4096 almanac slots, in SEQ order. -/
def dumpAlm (s : State) : List Byte :=
  let l := (almValid s).foldl (fun l i => bySeq s i l) []
  fit 0x40000 ((l.drop (l.length - 4096)).flatMap fun i => rdBytes s (slotAddr i) 64)

/-- The length of section 6. -/
def dumpLen (s : State) : Nat := min 0x100000 (fld (shadowOf s R.diagDumpLen) 20 0)

/-- The sections as plain text. The application cores' registers are no state of the module's blocks: Config number 71. -/
def dumpSections (s : State) : List Byte :=
  (List.range 64).flatMap (dumpCore s) ++ cryptBytes 71 0x8000 (leBytes 8 s.draws) ++ (List.range 25).flatMap (dumpWindow s) ++
    dumpPtrs s ++ dumpAlm s ++ rdBytes s (0x80000000 + fld (shadowOf s R.diagDumpArg) 31 16 % 256 * 0x10000) (dumpLen s)

/-- The header's first 0x80 bytes. -/
def dumpHead (s : State) (len : Nat) (iv salt : List Byte) : List Byte :=
  wordsLe [0x4C444455#32, 1#32, word (fld (shadowOf s R.diagDumpArg) 15 0), word len,
    word (nsOf s.diag.freezeAt), word (secOf s.diag.freezeAt), word s.pwr.cycles] ++
  leBytes 8 s.pwr.opsec ++ iv ++ salt ++ List.replicate 48 0#8

/-- The dump as written: header, tag, marker, sections. -/
def dumpBytes (s : State) (iv salt : List Byte) : List Byte :=
  let p := dumpSections s
  let h := dumpHead s p.length iv salt
  let c := gcmBytes (dumpKey salt) iv p
  h ++ gcmTag (dumpKey salt) iv h c ++ leBytes 8 (guarded 0x4C445641#32).toNat ++ List.replicate 104 0#8 ++ c

/-! ### The operations -/

/-- FREEZE (R575): no lane master, runs end, nothing is sent. -/
def dumpFreeze (s : State) : State :=
  if dumpBusy s then dumpErr s 2
  else if s.diag.frozen then dumpErr s 0
  else
    let s := modDiag s fun d => { d with frozen := true, freezeAt := s.ltc, dumpErr := 0 }
    mastership ((s.pcx.cores.map (·.1)).foldl runCut s)

def execDumpFreeze (a : Acc) (key : Half) (s : State) : Host.Outcome State Fault Refusal := .next (dumpCtrl a key dumpFreeze s)

/-- SEAL (R575, R576, R578): the marker is clear until the dump is written. -/
def dumpSeal (s : State) : State :=
  if dumpBusy s then dumpErr s 2
  else if !s.diag.frozen then dumpErr s 1
  else wrBytes (modDiag s fun d => { d with sealing := some s.now, dumpErr := 0 }) (dumpBase + 0x90) (List.replicate 8 0#8)

def execDumpSeal (a : Acc) (key : Half) (s : State) : Host.Outcome State Fault Refusal := .next (dumpCtrl a key dumpSeal s)

/-- SEAL_DONE (R576). -/
def execSealDone (s : State) : Host.Outcome State Fault Refusal :=
  .next (if s.diag.sealing.isNone then s
    else
      let iv := drawBytes s 12
      let salt := drawBytes iv.2 32
      let s := blockRead salt.2 0x18 (0x80000000 + fld (shadowOf salt.2 R.diagDumpArg) 31 16 % 256 * 0x10000) (dumpLen salt.2)
      setEvt (wrBytes (modDiag s fun d => { d with sealing := none }) dumpBase (dumpBytes s iv.1 salt.1)) R.diagEvt 0)

/-- DUMP_RESET (R575, R578). -/
def execDumpReset (a : Acc) (key : Half) (s : State) : Host.Outcome State Fault Refusal :=
  .next (dumpCtrl a key (fun s => deviceReset s 4) s)

/-- UNSEAL (R577): the sections go to the destination in plain text when the tag holds. -/
def dumpUnseal (s : State) : State :=
  if dumpBusy s then dumpErr s 2
  else if !s.diag.kept then dumpErr s 4
  else
    let n := min (rd32 s (dumpBase + 0x0C)).toNat 0x3FFFF00
    let s := blockRead s 0x18 dumpBase (0x100 + n)
    let h := rdBytes s dumpBase 0x80
    let iv := (h.drop 0x24).take 12
    let k := dumpKey ((h.drop 0x30).take 32)
    let c := rdBytes s (dumpBase + 0x100) n
    let dst := fld (shadowOf s R.diagDumpArg) 31 6 * 64
    let tag : Tag := { secure := true, pid := 0, sys := true, master := 0x98#8 }
    if gcmTag k iv h c ≠ rdBytes s (dumpBase + 0x80) 16 then dumpErr s 3
    else
      dmaWrite (dumpErr s 0) 0x18 tag dst ((gcmBytes k iv c).take n)

def execDumpUnseal (a : Acc) (key : Half) (s : State) : Host.Outcome State Fault Refusal := .next (dumpCtrl a key dumpUnseal s)

/-- ACK (R577). -/
def dumpAck (s : State) : State :=
  if dumpBusy s then dumpErr s 2
  else if !s.diag.kept then dumpErr s 4
  else modDiag s fun d => { d with wiping := true, dumpErr := 0 }

def execDumpAck (a : Acc) (key : Half) (s : State) : Host.Outcome State Fault Refusal := .next (dumpCtrl a key dumpAck s)

/-- DUMP_REGION_WIPE_DONE (R577): the region reads 0 and the marker is clear. -/
def execDumpRegionWipeDone (s : State) : Host.Outcome State Fault Refusal :=
  .next (if !s.diag.wiping then s
    else wipe (modDiag s fun d => { d with wiping := false, kept := false }) dumpBase 0x500000000)

end Sys2Proof.Machine
end

