-- ==== Sys2Proof/Machine/RegOp.lean ====
section
/-! DEFINITION. Accesses of application cores and block DMA: memory (R36, R38, R154, R155), register writes by access type and by
the rows of their own (R10, R12, R52), register reads (R12), and the two resets that start here (R33, R54). -/

namespace Sys2Proof.Machine

/-! ### Memory -/

/-- The memory-error status of the block whose DMA an access of the tag is, if it is one (R36, R155). -/
def refusedRead (s : State) (t : Tag) : State := if 0x80 ≤ t.master.toNat then memError s (t.master.toNat - 0x80) else s

/-- A read of `n` bytes: the boot ROM's bytes are no state of this model. -/
def memRead (s : State) (t : Tag) (a n : Nat) : State :=
  if inRom a then let d := draw s; { d.2 with bus := d.1, busErr := false }
  else
    let r := eccRead s a n
    if r.2 then { refusedRead r.1 t with bus := 0#32, busErr := decide (t.master.toNat < 0x80) }
    else { r.1 with bus := word (leNat (rdBytes s a (min n 4))), busErr := false }

/-- An access of `n` bytes, or of the bytes written (R154, R155); one that reaches DRAM before its wipe is stalled until then
(R113). A refused access of a block's DMA reports to the block, that of an application core is a bus error. -/
def memAccess (s : State) (t : Tag) (k : AccKind) (a n : Nat) (data : List Byte) : State :=
  match rangeDenied s t k a n with
  | some kind =>
    let s := refusedRead (violate s t (decide (k = .write)) a kind) t
    { s with bus := 0#32, busErr := decide (t.master.toNat < 0x80) }
  | none =>
    let s := dramStall s a n
    match k with
    | .write => { wrBytes s a data with busErr := false }
    | _ => memRead s t a n

/-- The doubleword at `a` holds bits that nothing states: two draws. -/
def upsetBytes (s : State) (a : Nat) : State :=
  let r := draw s
  let q := draw r.2
  { q.2 with mem := storeBytes q.2.mem (a / 8 * 8) (leBytes 4 r.1.toNat ++ leBytes 4 q.1.toNat) }

/-- What the access finds in the doubleword it begins at: 0 nothing new, 1 a single-bit error, 2 an uncorrectable one, whose bytes
are open (R36); nothing where there is no memory. -/
def upsetAt (s : State) (a : Nat) (u : Nat) : State :=
  if u = 0 ∨ !memExists a then s
  else
    let s := if u = 2 then upsetBytes s a else s
    { s with ecc := mput s.ecc (a / 8) u }

/-- MEMORY_ACCESS (R154): a read or fetch of `n` bytes, or a write of `data`. -/
def execMemoryAccess (t : Tag) (k : AccKind) (addr : BitVec 35) (n : Fin 65) (data : List Byte) (upset : Fin 3) (s : State) :
    Host.Outcome State Fault Refusal :=
  .next (memAccess (upsetAt s addr.toNat upset.val) t k addr.toNat (if k = .write then data.length else n.val) data)

/-! ### Resets -/

/-- SOFTWARE_RESET (R54, R55, R110): a write of SYS_RST_REQ with KEY 0x5EED and RESET = 1. -/
def execSoftwareReset (a : Acc) (s : State) : Host.Outcome State Fault Refusal :=
  .next (regAccess s a R.sysRstReq true fun s => deviceReset s 3)

/-- CLOCK_MONITOR_CHECK (R33): whether the root PLL is locked and every divided clock within 1 % of nominal. A fault holds every
lane, resets the device with cause CLOCK and leaves UNLOCK set. -/
def execClockMonitorCheck (rootLock divOk : Bool) (s : State) : Host.Outcome State Fault Refusal :=
  .next (
    let s := if rootLock && divOk then s else setEvt (deviceReset s 6) R.sysClkEvt 0
    { s with sys := { s.sys with rootLock := rootLock, divOk := divOk } })

/-! ### Register writes -/

/-- The state after a row's meaning. -/
def nx (o : Host.Outcome State Fault Refusal) (s : State) : State := match o with | .next t => t | _ => s

/-- The command of TRUST_CMD (R138). -/
def trustOp (a : Acc) (w : Word) (s : State) : State :=
  match fld w 7 0 with
  | 0x01 => nx (execVerify a s) s
  | 0x02 => nx (execHash a s) s
  | 0x03 => nx (execKeyLoad a s) s
  | 0x04 => nx (execTransfer a s) s
  | 0x05 => nx (execKeyClear a s) s
  | 0x06 => nx (execKeyGen a s) s
  | 0x07 => nx (execKeyDelete a s) s
  | 0x08 => nx (execImportOpen a s) s
  | 0x09 => nx (execImportApply a s) s
  | 0x0A => nx (execAttest a s) s
  | 0x0B => nx (execNonce a s) s
  | 0x0C => nx (execLcTransition a s) s
  | 0x0D => nx (execSvnAdvance a s) s
  | 0x0E =>
    match targ s 2 with
    | 1 => nx (execFuseKeyAdd a s) s
    | 2 => nx (execFuseKeyRevoke a s) s
    | _ => trustCmd a (· == .maintenance) (fun s => trustRun s 2 0) s
  | 0x0F => nx (execProvision a s) s
  | 0x10 => nx (execLcStatus a s) s
  | _ => trustCmd a lcAll (fun s => trustRun s 2 0) s

/-- The operation of TSK_P_CTRL (R393). -/
def tskOp (a : Acc) (p : Fin 32) (w : Word) (s : State) : State :=
  match fld w 31 28 with
  | 1 => nx (execLoad a p s) s
  | 2 => nx (execPrepare a p s) s
  | 3 => nx (execSwitch a p s) s
  | 4 => nx (execDiscard a p s) s
  | 5 => nx (execInstall a p s) s
  | 6 => nx (execStartWarm a p s) s
  | 7 => nx (execStartCold a p s) s
  | 8 => nx (execTskStop a p s) s
  | _ => pCtrl a p (fun _ => false) id s

/-- The operation of MTR_CMD (R531). -/
def mtrOp (a : Acc) (w : Word) (s : State) : State :=
  match fld w 31 28 with
  | 1 => nx (execMtrPreset a (Fin.ofNat 8 (fld w 10 8)) (Fin.ofNat 256 (fld w 7 0)) s) s
  | 2 => nx (execMtrCkptNow a s) s
  | 3 => nx (execMtrStop a s) s
  | 4 => nx (execMtrResume a s) s
  | _ => mtrCmd a (fun s => mtrErr s 4) s

/-- The operation of DIAG_DUMP_CTRL (R575-R577). -/
def dumpOp (a : Acc) (w : Word) (s : State) : State :=
  let key : Half := w.setWidth 16
  match fld w 31 28 with
  | 1 => nx (execDumpFreeze a key s) s
  | 2 => nx (execDumpSeal a key s) s
  | 3 => nx (execDumpReset a key s) s
  | 4 => nx (execDumpUnseal a key s) s
  | 5 => nx (execDumpAck a key s) s
  | _ => dumpCtrl a key id s

/-- The operation of DRC_SEG_CMD (R491). -/
def segOp (a : Acc) (w : Word) (s : State) : State :=
  let i : Fin 4096 := Fin.ofNat 4096 (fld w 11 0)
  match fld w 31 30 with
  | 1 => nx (execSegClaim a i s) s
  | 2 => nx (execSegRelease a i s) s
  | 3 => nx (execSegUnclaim a i s) s
  | _ => s

/-- A write of PART_MED_CMD (R147). -/
def medOp (a : Acc) (w : Word) (s : State) : State :=
  match fld w 31 28 with
  | 1 => nx (execAssign a (Fin.ofNat 16 (fld w 27 24)) (Fin.ofNat 32 (fld w 4 0)) s) s
  | 2 => nx (execRelease a (Fin.ofNat 16 (fld w 27 24)) s) s
  | _ => { s with part := { s.part with medErr := 3 } }

/-- A write of CMD_ORD (R439). -/
def ordOp (a : Acc) (w : Word) (s : State) : State :=
  let rank : Fin 8 := Fin.ofNat 8 (fld w 28 26)
  let orig : Fin 256 := Fin.ofNat 256 (fld w 25 18)
  let ctl : Fin 256 := Fin.ofNat 256 (fld w 17 10)
  let o : Fin 256 := Fin.ofNat 256 (fld w 7 0)
  match fld w 31 30 with
  | 0 => nx (execCmdSelect a rank (bit w 29) orig ctl o s) s
  | 1 => nx (execCmdOperate a rank (bit w 29) orig ctl o s) s
  | 2 => nx (execCmdCancel a rank (bit w 29) orig ctl o s) s
  | _ => cmdOrder s (mmsOrder 3 rank.val (bit w 29) orig.val ctl.val o.val)

/-- Writes of TIME that are operations of their own. -/
def timeOwn (a : Acc) (o : Nat) (w : Word) (s : State) : Option State :=
  if o = 0x08 then some (if bit w 0 then nx (execRealign a s) s else s)
  else if o = 0x44 then some (if bit w 0 then nx (execTickEnable a s) s else nx (execTickDisable a s) s)
  else if o = 0x104 ∨ o = 0x144 then
    let d : Fin 2 := Fin.ofNat 2 ((o - 0x104) / 0x40)
    some (if bit w 0 then nx (execDomainEnable a d s) s else nx (execDomainDisable a d s) s)
  else if 0x200 ≤ o ∧ o < 0x300 ∧ o % 0x40 = 0x30 then some (if bit w 0 then nx (execTxqFlush a (Fin.ofNat 4 ((o - 0x200) / 0x40)) s) s else s)
  else if o = 0x440 then some (if bit w 0 then nx (execBiqFlush a s) s else s)
  else none

/-- A write of a ring's control register: FLUSH, and EN written with it (R214). -/
def ringOwn (a : Acc) (m : Fin 5) (tx : Bool) (n : Nat) (w : Word) (s : State) : State :=
  if bit w 1 then nx (execRingFlush a m tx (Fin.ofNat 8 n) (bit w 0) s) s
  else setShadow s (if tx then R.txrCtrl m.val n else R.rxrCtrl m.val n) (word (b2n (bit w 0) 0))

/-- Writes of a MAC or the MGT that are operations of their own. -/
def macOwn (a : Acc) (m : Fin 5) (o : Nat) (w : Word) (s : State) : Option State :=
  let rings := if m.val = 4 then 1 else 8
  if macAbsent m.val o then some s
  else if o = 0x04 then some (if bit w 0 then nx (execMacEnable a m (bit w 1) s) s else nx (execMacDisable a m (bit w 1) s) s)
  else if o = 0x40 ∧ m.val < 4 then some (nx (execSfpTwoWire a (Fin.ofNat 4 m.val) w s) s)
  else if 0x200 ≤ o ∧ o < 0x200 + rings * 0x40 then
    match o % 0x40 with
    | 0x0C => some (ringOwn a m false ((o - 0x200) / 0x40) w s)
    | 0x14 => some (rxRdWrite s m.val ((o - 0x200) / 0x40) (fld w 15 0))
    | _ => none
  else if 0x400 ≤ o ∧ o < 0x480 then
    match o % 0x40 with
    | 0x0C => some (ringOwn a m true ((o - 0x400) / 0x40) w s)
    | 0x10 => some (nx (execTxrWrWrite a m (Fin.ofNat 2 ((o - 0x400) / 0x40)) (w.setWidth 16) s) s)
    | _ => none
  else none

/-- Writes of an FBC that are operations of their own. -/
def fbcOwn (a : Acc) (m : Fin 2) (o : Nat) (w : Word) (s : State) : Option State :=
  match o with
  | 0x04 =>
    let s := if bit w 0 then nx (execFbcEnable a m s) s else nx (execFbcDisable a m s) s
    some (if bit w 1 then nx (execFbcRecover a m s) s else s)
  | 0x40 => some (nx (execTq1Push a m w s) s)
  | 0x4C => some (if bit w 0 then nx (execTq1Flush a m s) s else s)
  | 0x74 => some (if bit w 0 then nx (execRqFlush a m 0 s) s else s)
  | 0x94 => some (if bit w 0 then nx (execRqFlush a m 1 s) s else s)
  | _ => none

/-- A write that has an operation of its own in the table; `k` is the key, `o` its offset. -/
def ownWrite (a : Acc) (k : Nat) (w : Word) (s : State) : Option State :=
  let o := offsetOf k
  match blockOf k with
  | 0 => if o = 0x24 then some (if w = 0x5EED0001#32 ∨ (fld w 31 16 = 0x5EED ∧ bit w 0) then nx (execSoftwareReset a s) s else s) else none
  | 1 => if o = 0x20 then some (trustOp a w s) else if o = 0x5C then some (wdogKick s w) else none
  | 2 => if o = 0x400 then some (medOp a w s) else none
  | 3 => timeOwn a o w s
  | 4 => macOwn a 0 o w s
  | 5 => macOwn a 1 o w s
  | 6 => macOwn a 2 o w s
  | 7 => macOwn a 3 o w s
  | 8 => macOwn a 4 o w s
  | 9 => if o = 0x1C then some (nx (execCtxFlush a (Fin.ofNat 1024 (fld w 9 0)) s) s) else none
  | 11 => if k < 0x2000000000 ∧ o = 0x24 then some (nx (execBankLoad a w s) s) else none
  | 12 =>
    if o = 0x2C then some (if bit w 31 then nx (execPcxLoad a s) s else s)
    else if 0x1000 ≤ o ∧ o < 0x2000 ∧ o % 0x40 = 8 then
      some (if bit w 31 then nx (execCoreExcClear a (Fin.ofNat 64 ((o - 0x1000) / 0x40)) s) s else s)
    else none
  | 13 => if k < 0x2000000000 ∧ 0x100 ≤ o ∧ o < 0x500 ∧ o % 0x20 = 0 then some (tskOp a (Fin.ofNat 32 ((o - 0x100) / 0x20)) w s) else none
  | 16 =>
    if o = 0x10 then some (ordOp a w s)
    else if o = 0x1C then some (if bit w 31 then nx (execObjReset a (Fin.ofNat 256 (fld w 7 0)) s) s else s)
    else if 0x1000 ≤ o ∧ o < 0x5000 ∧ o % 0x40 = 0x14 then
      some (nx (execCoPosWrite a (Fin.ofNat 256 ((o - 0x1000) / 0x40)) (Fin.ofNat 4 (fld w 1 0)) s) s)
    else none
  | 17 => fbcOwn a 0 o w s
  | 18 => fbcOwn a 1 o w s
  | 19 =>
    if o = 0x04 then some (if bit w 0 then nx (execDrcEnable a s) s else nx (execDrcDisable a s) s)
    else if o = 0x34 then some (if bit w 0 then nx (execManualTrigger a s) s else s)
    else if o = 0x40 then some (segOp a w s) else none
  | 20 =>
    if o = 0x5C then some (if bit w 0 then nx (execAlmPostGo a s) s else s)
    else if o = 0x14 then some (nx (execAlmSeek a w s) s)
    else if o = 0x10 then some (setShadow { s with alm := { s.alm with found := none } } R.almCursor (w &&& 0x8000FFFF#32))
    else none
  | 21 =>
    if o = 0x20 then some (mtrOp a w s)
    else if 0x1000 ≤ o ∧ o < 0x9000 ∧ o % 0x80 = 8 then
      let p : Fin 256 := Fin.ofNat 256 ((o - 0x1000) / 0x80)
      some (if bit w 0 then nx (execMeterPointEnable a p s) s else mpDisable s p.val)
    else none
  | 22 =>
    if o = 0x04 then
      let s := if bit w 0 then nx (execMirEnable a s) s else nx (execMirDisable a s) s
      some (if bit w 1 then nx (execHandover a s) s else s)
    else none
  | 24 =>
    if o = 0x60 then some (if bit w 31 then nx (execRbTest a (Fin.ofNat 32 (fld w 4 0)) s) s else s)
    else if o = 0x80 then some (if bit w 31 then nx (execBistRerun a (Fin.ofNat 16 (fld w 3 0)) s) s else s)
    else if o = 0x200 then some (dumpOp a w s) else none
  | _ => none

/-- The block or context of an ST register is enabled (R12, R52). -/
def stLocked (s : State) (k : Nat) : Bool :=
  let o := offsetOf k
  let b := blockOf k
  if b = 3 then (if o = 0x40 then s.time.tickRun || s.time.startPend.isSome else if o = 0x100 then domOn s 0 else domOn s 1)
  else if 4 ≤ b ∧ b ≤ 8 then
    let m := b - 4
    if 0x200 ≤ o ∧ o < 0x400 then bit (shadowOf s (R.rxrCtrl m ((o - 0x200) / 0x40))) 0
    else if 0x400 ≤ o ∧ o < 0x480 then bit (shadowOf s (R.txrCtrl m ((o - 0x400) / 0x40))) 0
    else if o = 0x30 ∧ m < 4 then macOn s (m / 2 * 2) || macOn s (m / 2 * 2 + 1)
    else macOn s m
  else if b = 17 then s.fbc0.on
  else if b = 18 then s.fbc1.on
  else if b = 19 then s.drc.on
  else if b = 21 then (mpOf s ((o - 0x1000) / 0x80)).on
  else if b = 22 then s.mir.role != .off
  else false

/-- A write of an RS register: the shadow value, the writer's tag (R144), the key among those of the next set. -/
def rsWrite (s : State) (t : Tag) (k : Nat) (w : Word) : State :=
  let s := setShadow s k w
  let s := { s with writer := if t.secure then mdel s.writer k else mput s.writer k t }
  let i := blockOf k
  setCommit s i { commitOf s i with wrote := insNat k (commitOf s i).wrote }

/-- An ST register has been written: LINK follows MAC_CFG.FEC (R198). -/
def stWritten (s : State) (k : Nat) : State :=
  if 4 ≤ blockOf k ∧ blockOf k ≤ 8 ∧ offsetOf k = 0 then linkUpdate s (blockOf k - 4) else s

/-- A write by access type (R12); RO and RC registers ignore it. -/
def classWrite (s : State) (t : Tag) (k : Nat) (r : RegRow) (w : Word) : State :=
  let v := w &&& word r.cfg
  let s := if r.w1c = 0 then s else setLive s k (liveOf s k &&& ~~~(w &&& word r.w1c))
  match r.cls with
  | .rs => rsWrite s t k v
  | .rw => setShadow s k v
  | .st => if stLocked s k then werr s (blockOf k) (busAddr k % 0x10000) else stWritten (setShadow s k v) k
  | _ => s

/-- A write of the common header (R53). -/
def headerWrite (a : Acc) (i o : Nat) (w : Word) (s : State) : State :=
  let b : Fin 25 := Fin.ofNat 25 i
  if o = 0xFFE4 then (if bit w 31 then nx (execCommitCancel a b s) s else nx (execCommit a b (w.setWidth 16) s) s)
  else if o = 0xFFE8 then setLive s (R.base i + 0xFFE8) (liveOf s (R.base i + 0xFFE8) &&& ~~~(w &&& 0x3C#32))
  else s

/-- A write of the register with key `k`, admitted. A force entry of a module in STANDBY stays as it is (R554). -/
def regWrite (a : Acc) (k : Nat) (w : Word) (s : State) : State :=
  if k < 0x2000000000 ∧ 0xFFE0 ≤ k % 0x10000 then headerWrite a (blockOf k) (k % 0x10000) w s
  else
    match ownWrite a k w s with
    | some s => s
    | none =>
      if 0x2100000000 ≤ k ∧ k < 0x2200000000 ∧ s.mir.role = .standby then setEvt s (R.tskPEvt ((k - 0x2100000000) / 0x20 / 256)) 9
      else match rowOf k with | some r => classWrite s (accTag s a) k r w | none => s

/-- A register access that is no aligned 32-bit access is a violation of KIND 8 (R10); that KIND comes before those of an access
that is refused for its world as well: DESIGN CHOICE, log 181. -/
def regShape (s : State) (a : Acc) (addr : Word) (size : Nat) (wr : Bool) (f : Nat → State) : State :=
  if size ≠ 4 ∨ addr.toNat % 4 ≠ 0 then busError s (accTag s a) wr addr.toNat 8
  else f (regKey s a.core.val addr.toNat)

/-- REGISTER_WRITE (R10, R12): a write of `size` bytes at a register address; an address outside the register windows is one of
memory. -/
def execRegisterWrite (a : Acc) (addr : Word) (size : Fin 9) (w : Word) (s : State) : Host.Outcome State Fault Refusal :=
  .next (
    if !inRegs addr.toNat then memAccess s (accTag s a) .write addr.toNat size.val (leBytes size.val w.toNat)
    else regShape s a addr size.val true fun k =>
      if k = R.pcxLoadCmd ∧ bit w 31 then nx (execPcxLoad a s) s
      else regAccess s a k true (regWrite a k w))

/-! ### Register reads -/

/-- Reads with an operation of their own. -/
def ownRead (a : Acc) (k : Nat) (s : State) : Option State :=
  let o := offsetOf k
  match blockOf k with
  | 2 =>
    if 0x8000 ≤ o ∧ o < 0x8400 then
      let p : Fin 32 := Fin.ofNat 32 ((o - 0x8000) / 0x20)
      (if o % 0x20 = 0 then some (nx (execHnqPop a p s) s) else if o % 0x20 = 4 then some (nx (execHnqPopTag a p s) s) else none)
    else none
  | 3 =>
    if o = 0x20 then some (nx (execTimeNowRead a s) s)
    else if 0x200 ≤ o ∧ o < 0x300 ∧ o % 0x40 = 0x10 then some (nx (execTxqPop0 a (Fin.ofNat 4 ((o - 0x200) / 0x40)) s) s)
    else if o = 0x420 then some (nx (execBiqPop0 a s) s) else none
  | 14 =>
    if 0x1000 ≤ o ∧ o < 0x1800 ∧ o % 0x40 = 0x30 then
      let n := (o - 0x1000) / 0x40
      let l := laneOf s n
      some (setBus (setLane s n { l with secLatch := word (secOf l.since) }) (word (nsOf l.since)))
    else none
  | 16 => if o = 0x14 then some (nx (execCmdResPop a s) s) else none
  | 17 => if o = 0x60 then some (nx (execRqHead a 0 0 s) s) else if o = 0x80 then some (nx (execRqHead a 0 1 s) s) else none
  | 18 => if o = 0x60 then some (nx (execRqHead a 1 0 s) s) else if o = 0x80 then some (nx (execRqHead a 1 1 s) s) else none
  | 21 =>
    if 0x1000 ≤ o ∧ o < 0x9000 ∧ 0x20 ≤ o % 0x80 ∧ o % 0x80 < 0x68 ∧ (o % 0x80 - 0x20) % 12 = 0 then
      some (nx (execAccRead a (Fin.ofNat 256 ((o - 0x1000) / 0x80)) (Fin.ofNat 6 ((o % 0x80 - 0x20) / 12)) s) s)
    else none
  | 23 => if o = 0x24 then some (nx (execOpsecRead a s) s) else none
  | _ => none

/-- A read of the register with key `k`, admitted: an RC register is cleared (R12). -/
def regRead (a : Acc) (k : Nat) (s : State) : State :=
  match ownRead a k s with
  | some s => s
  | none =>
    let v := readReg s k
    let s := match rowOf k with | some r => if r.cls = .rc then setLive s k 0#32 else s | none => s
    setBus s v

/-- READ_CLEAR (R12): a read of `size` bytes at a register address returns its value, and clears an RC register. -/
def execReadClear (a : Acc) (addr : Word) (size : Fin 9) (s : State) : Host.Outcome State Fault Refusal :=
  .next (
    if !inRegs addr.toNat then memAccess s (accTag s a) .read addr.toNat size.val []
    else regShape s a addr size.val false fun k => regAccess s a k false (regRead a k))

end Sys2Proof.Machine
end

