-- ==== Sys2Proof/Machine/Meridian.lean ====
section
/-! DEFINITION. The meridian (R26, R191, R192): everything due at a tick boundary, in the fixed order of steps 1 to 5, and the
commands that take place at one. -/

namespace Sys2Proof.Machine

/-! ### Slice guards (R152) -/

/-- The flag-page pair of slice `p` passes. -/
def slicePageOk (s : State) (p : Nat) : Bool := guardOk (forceOf s (R.slcFlagpg p)) (forceOf s (R.slcFlagpgC p))

/-- The lane-mask pair of slice `p` passes. -/
def sliceLaneOk (s : State) (p : Nat) : Bool := guardOk (forceOf s (R.slcLanes p)) (forceOf s (R.slcLanesC p))

/-- The lanes slice `p` holds: those in either half of a failing mask, kept until both pairs pass (R152). -/
def sliceLanes (s : State) (p : Nat) : Word :=
  if sliceLaneOk s p then (if slicePageOk s p then 0#32 else s.part.sliceHold &&& forceOf s (R.slcLanes p))
  else forceOf s (R.slcLanes p) ||| ~~~ forceOf s (R.slcLanesC p)

/-- Steps 1, 3 and 4 of R152 for one pair, once for each fault. -/
def sliceFault (s : State) (key p : Nat) (ok : Bool) : State :=
  let was := mget false s.part.sliceBad key
  let s := { s with part := { s.part with sliceBad := mset false s.part.sliceBad key !ok } }
  if ok || was then s else almPost (setEvt (guardFault s 2) R.partEvt 1) 0 0x02 0x81 (some p) [word p]

/-- SLICE_GUARD_CHECK (R152), whatever the mode. -/
def sliceCheck (s : State) : State :=
  let hold := (List.range 8).foldl (fun w p => w ||| sliceLanes s p) 0#32
  let s := upto 8 s fun p s => sliceFault (sliceFault s (2 * p) p (slicePageOk s p)) (2 * p + 1) p (sliceLaneOk s p)
  { s with part := { s.part with sliceHold := hold } }

/-! ### The order of R26 -/

/-- Steps 1 and 2 of R26 with the slice check between them; groups and publications that wait for a first meridian are paced. -/
def steps12 (s : State) : State :=
  let s := setsInForce otherBlocks (sliceCheck (setsInForce [2] s))
  scaMeridian (gseSim (siuEval (siuSim (svpPace (siuPace s)))))

/-- TIME's domains and choices at a meridian (R167, R170-R176); a step is seen by the SIU and the MTR (R259, R514). -/
def timeMeridian (s : State) : State :=
  let due := s.time.realign || !s.time.acquired
  let s := timeEval (domUpdate (domUpdate (slewPull s) 0) 1)
  if due ∧ s.time.lodestar ≠ 7 then shortAll (siuStep s) else s

/-- The TSK takes no switch and no force change: the twilight save has begun, or begins at this meridian (R83 step 1). -/
def tskClosed (s : State) : Bool := saving s || s.pwr.saveDue

/-- Restarts, and switch attempts where no twilight save begins, partition by partition. -/
def restartsDue (s : State) : State :=
  upto 32 s fun p s =>
    let s := restartMeridian s p
    if tskClosed s then s else switchAttempt s p

/-- Step 3 of R26: standby installs, restarts, switch attempts. -/
def step3 (s : State) : State := restartsDue (autoInstalls s)

/-- Forces of every partition but those in a switch attempt (step 4 of R26), and none once a twilight save begins (R83). -/
def forcesDue (s : State) : State :=
  upto 32 s fun p s => if tskClosed s ∨ (partOf s p).attemptAt.isSome then s else forcesMeridian s p

/-- Step 4 of R26: forces, but not where a switch attempt has yet to be decided; then the lanes. -/
def step4 (s : State) : State :=
  lanesUpdate (upto 32 (forcesDue s) fun p s => laneResume s p)

/-- The generator stops at a meridian at which a stop is due (R192). -/
def genStop (s : State) : State :=
  if s.time.stopPend then { s with time := { s.time with tickRun := false, stopPend := false } } else s

/-- The changes due at the meridian that begins the tick in progress; `live0` says whether the module was lane master in the
ended tick. -/
def meridianPass (live0 : Bool) (s : State) : State :=
  let s := mirClaims (timeMeridian (steps12 s))
  let s := mirMeridian (plinthCapture (step4 (step3 s)))
  let s := cyclicMeridian s
  let s := cmdEvaluate s (live0 && laneMaster s) flagState
  mirTick (genStop (saveIfDue (biWordWrite (mtrMeridian (gseMeridian s)))))

/-- A meridian falls (R25, R26). -/
def meridian (s : State) : State :=
  let s := cutDue (mirTick (reachLtc s (nextMer s)))
  let live0 := laneMaster s
  let t := nextTick s
  let s := drcMeridian s (curTick s) s.time.tickStart (biState s ||| (s.bi.edges <<< 16))
  meridianPass live0 { s with time := { s.time with tickSec := t.1, tick := t.2, tickStart := s.ltc } }

/-- MERIDIAN (R26). No meridian falls while the generator is stopped. -/
def execMeridian (s : State) : Host.Outcome State Fault Refusal := .next (if s.time.tickRun then meridian s else s)

/-- The tick generator starts at the LTC `t`, with tick 0 (R191). -/
def genStart (s : State) (t : Nat) : State :=
  let s := mirTick (reachLtc s t)
  meridianPass (laneMaster s)
    { s with time := { s.time with tickRun := true, tickSec := secOf s.ltc, tick := 0, tickStart := s.ltc, startPend := none } }

/-! ### While the generator is stopped (R47) -/

/-- A TSK set enters force now. -/
def tskDue (s : State) : Bool :=
  let c := commitOf s 0x0D
  c.checking.any (fun ps => decide (ps.at_ + 512 ≤ s.now)) || c.pend.any fun ps => decide (ps.at_ + 512 ≤ s.now)

/-- While the generator is stopped, everything due by now takes effect in the order of R26 (R47): sets, restarts and switches,
forces. -/
def stoppedDue (s : State) : State :=
  if s.time.tickRun then s
  else
    let f := tskDue s
    let s := siuEval (setsInForce otherBlocks (setsInForce [2] s))
    let s := restartsDue s
    if f then forcesDue s else s

/-- The instants at which sets, restarts and switches fall due while the generator is stopped, in rising order. -/
def dueInstants (s : State) : List Nat :=
  let sets := s.commits.flatMap fun e => (e.2.checking ++ e.2.pend.toList).map fun ps => ps.at_ + 512
  let ops := s.tsk.parts.flatMap fun e => ((e.2.pendOp.map (·.2)).toList ++ e.2.series.toList).map (· + 512)
  (sets ++ ops).foldl (fun l t => insNat t l) []

/-- The instant `t` is reached while the generator is stopped: what falls due by then takes effect on its way. -/
def stoppedReach (s : State) (t : Nat) : State :=
  if s.time.tickRun then s
  else
    let s := each ((dueInstants s).filter (· ≤ t)) s fun d s => stoppedDue (reach s d)
    stoppedDue (reach s t)

/-- STOPPED_SET_IN_FORCE (R47): block `i`'s pending set, or the oldest one whose check runs, enters force 512 ns after its COMMIT
write. -/
def execStoppedSetInForce (i : Fin 25) (s : State) : Host.Outcome State Fault Refusal :=
  .next (
    if s.time.tickRun then s
    else
      match (commitOf s i.val).pend.orElse fun _ => (commitOf s i.val).checking.head? with
      | some ps => stoppedReach s (ps.at_ + 512)
      | none => s)

/-! ### The tick generator -/

/-- TICK_GEN_START (R191). -/
def execTickGenStart (s : State) : Host.Outcome State Fault Refusal :=
  .next (match s.time.startPend, s.time.tickRun with
    | some t, false => genStart (stoppedReach s (s.now + (t - s.ltc))) t
    | _, _ => s)

/-- TWILIGHT_SAVE (R83): at the next meridian, or at once while the generator is stopped. -/
def execTwilightSave (s : State) : Host.Outcome State Fault Refusal :=
  .next (if s.pwr.saveDue then (if s.time.tickRun then meridian s else twilightSave s) else s)

/-- LEASE_SILENCE_EXPIRY (R541): the meridian at which both paths of a standby become silent. -/
def execLeaseSilenceExpiry (s : State) : Host.Outcome State Fault Refusal :=
  .next (if s.time.tickRun ∧ s.mir.role = .standby ∧ !s.mir.lbHeard ∧ !s.mir.mlHeard ∧ 2 ≤ s.mir.lbCount ∧ 2 ≤ s.mir.mlCount
    then meridian s else s)

/-- LISTEN_SILENCE_EXPIRY (R540): the meridian at which the silence of LISTEN_TICKS, or twice that, is complete. -/
def execListenSilenceExpiry (s : State) : Host.Outcome State Fault Refusal :=
  .next (if s.time.tickRun ∧ s.mir.role = .listen ∧ !s.mir.lbHeard ∧ !s.mir.mlHeard ∧ 2 ≤ s.mir.lbCount ∧ 2 ≤ s.mir.mlCount ∧
      listenTicks s ≤ s.mir.listen + 1
    then meridian s else s)

/-- LOAD_DONE (R393, R554): a standby installs a maquette that the holder's program matches. -/
def execLoadDone (p : Fin 32) (s : State) : Host.Outcome State Fault Refusal :=
  .next (let s := loadDone s p.val
    if s.time.tickRun then s else autoInstalls s)

/-! ### The idle edge -/

/-- One BUS edge with no command. -/
def idleEdge (s : State) : State := stoppedDue (cutDue (mirTick (elapse s 4)))

end Sys2Proof.Machine
end

