-- ==== Sys2Proof/Machine/Dispatch.lean ====
section
/-! DEFINITION. The dispatch of commands to their meanings, one arm per row of the command table. -/

namespace Sys2Proof.Machine

/-- The effect of a command on everything but the queue. -/
def exec (i : Instr) (s : State) : Host.Outcome State Fault Refusal :=
  match i with
  | .meridian => Sys2Proof.Machine.execMeridian s
  | .commit a ix tag => Sys2Proof.Machine.execCommit a ix tag s
  | .commitCancel a ix => Sys2Proof.Machine.execCommitCancel a ix s
  | .consistencyCheckDone ix => Sys2Proof.Machine.execConsistencyCheckDone ix s
  | .stoppedSetInForce ix => Sys2Proof.Machine.execStoppedSetInForce ix s
  | .registerWrite a addr size w => Sys2Proof.Machine.execRegisterWrite a addr size w s
  | .readClear a addr size => Sys2Proof.Machine.execReadClear a addr size s
  | .clockMonitorCheck rootLock divOk => Sys2Proof.Machine.execClockMonitorCheck rootLock divOk s
  | .memoryAccess t k addr n data upset => Sys2Proof.Machine.execMemoryAccess t k addr n data upset s
  | .softwareReset a => Sys2Proof.Machine.execSoftwareReset a s
  | .resetRelease slot pos imgA imgB => Sys2Proof.Machine.execResetRelease slot pos imgA imgB s
  | .sramWipeDone => Sys2Proof.Machine.execSramWipeDone s
  | .dramWipeDone => Sys2Proof.Machine.execDramWipeDone s
  | .powerOn => Sys2Proof.Machine.execPowerOn s
  | .powerGood us => Sys2Proof.Machine.execPowerGood us s
  | .storeOkChange vst => Sys2Proof.Machine.execStoreOkChange vst s
  | .storeMeasure cap vst => Sys2Proof.Machine.execStoreMeasure cap vst s
  | .pwrFailAssert vin => Sys2Proof.Machine.execPwrFailAssert vin s
  | .pwrFailDeassert vin => Sys2Proof.Machine.execPwrFailDeassert vin s
  | .rideThroughEnd => Sys2Proof.Machine.execRideThroughEnd s
  | .twilightSave => Sys2Proof.Machine.execTwilightSave s
  | .twilightSaveDone us => Sys2Proof.Machine.execTwilightSaveDone us s
  | .storeLowHold vst => Sys2Proof.Machine.execStoreLowHold vst s
  | .storeCutoff => Sys2Proof.Machine.execStoreCutoff s
  | .twilightHandEnd vin => Sys2Proof.Machine.execTwilightHandEnd vin s
  | .operatingCountWrite => Sys2Proof.Machine.execOperatingCountWrite s
  | .sfpOvercurrent n => Sys2Proof.Machine.execSfpOvercurrent n s
  | .handleChange v => Sys2Proof.Machine.execHandleChange v s
  | .tempWarn soc inlet => Sys2Proof.Machine.execTempWarn soc inlet s
  | .vinSurge vin => Sys2Proof.Machine.execVinSurge vin s
  | .ptnrPresChange v => Sys2Proof.Machine.execPtnrPresChange v s
  | .opsecRead a => Sys2Proof.Machine.execOpsecRead a s
  | .verify a => Sys2Proof.Machine.execVerify a s
  | .hash a => Sys2Proof.Machine.execHash a s
  | .keyLoad a => Sys2Proof.Machine.execKeyLoad a s
  | .transfer a => Sys2Proof.Machine.execTransfer a s
  | .keyClear a => Sys2Proof.Machine.execKeyClear a s
  | .keyGen a => Sys2Proof.Machine.execKeyGen a s
  | .keyDelete a => Sys2Proof.Machine.execKeyDelete a s
  | .importOpen a => Sys2Proof.Machine.execImportOpen a s
  | .importApply a => Sys2Proof.Machine.execImportApply a s
  | .attest a => Sys2Proof.Machine.execAttest a s
  | .nonce a => Sys2Proof.Machine.execNonce a s
  | .lcTransition a => Sys2Proof.Machine.execLcTransition a s
  | .svnAdvance a => Sys2Proof.Machine.execSvnAdvance a s
  | .fuseKeyAdd a => Sys2Proof.Machine.execFuseKeyAdd a s
  | .fuseKeyRevoke a => Sys2Proof.Machine.execFuseKeyRevoke a s
  | .provision a => Sys2Proof.Machine.execProvision a s
  | .lcStatus a => Sys2Proof.Machine.execLcStatus a s
  | .trustCmdDone => Sys2Proof.Machine.execTrustCmdDone s
  | .importSessionExpiry => Sys2Proof.Machine.execImportSessionExpiry s
  | .watchdogKick a w => Sys2Proof.Machine.execWatchdogKick a w s
  | .watchdogExpiry => Sys2Proof.Machine.execWatchdogExpiry s
  | .mramWipeDone => Sys2Proof.Machine.execMramWipeDone s
  | .protectionReady => Sys2Proof.Machine.execProtectionReady s
  | .assign a rtype p => Sys2Proof.Machine.execAssign a rtype p s
  | .release a rtype => Sys2Proof.Machine.execRelease a rtype s
  | .hnqPop a p => Sys2Proof.Machine.execHnqPop a p s
  | .hnqPopTag a p => Sys2Proof.Machine.execHnqPopTag a p s
  | .ptpSyncRx m frac x => Sys2Proof.Machine.execPtpSyncRx m frac x s
  | .ptpFollowUpRx m x => Sys2Proof.Machine.execPtpFollowUpRx m x s
  | .ptpAnnounceRx m x => Sys2Proof.Machine.execPtpAnnounceRx m x s
  | .ptpPdelayReqRx m frac x => Sys2Proof.Machine.execPtpPdelayReqRx m frac x s
  | .ptpPdelayRespRx m frac x => Sys2Proof.Machine.execPtpPdelayRespRx m frac x s
  | .ptpMessageDrop m => Sys2Proof.Machine.execPtpMessageDrop m s
  | .pdelayReqTx => Sys2Proof.Machine.execPdelayReqTx s
  | .announceTimeout d side => Sys2Proof.Machine.execAnnounceTimeout d side s
  | .syncLoss d => Sys2Proof.Machine.execSyncLoss d s
  | .domainEnable a d => Sys2Proof.Machine.execDomainEnable a d s
  | .domainDisable a d => Sys2Proof.Machine.execDomainDisable a d s
  | .reversion k => Sys2Proof.Machine.execReversion k s
  | .holdKeepExpiry => Sys2Proof.Machine.execHoldKeepExpiry s
  | .slewDone => Sys2Proof.Machine.execSlewDone s
  | .realign a => Sys2Proof.Machine.execRealign a s
  | .irigbFrameRx f age => Sys2Proof.Machine.execIrigbFrameRx f age s
  | .irigbLoss => Sys2Proof.Machine.execIrigbLoss s
  | .ppsPulse => Sys2Proof.Machine.execPpsPulse s
  | .txqPop0 a m => Sys2Proof.Machine.execTxqPop0 a m s
  | .txqFlush a m => Sys2Proof.Machine.execTxqFlush a m s
  | .biPinEdge ix v ns => Sys2Proof.Machine.execBiPinEdge ix v ns s
  | .biEdgeRecord ix => Sys2Proof.Machine.execBiEdgeRecord ix s
  | .biqPop0 a => Sys2Proof.Machine.execBiqPop0 a s
  | .biqFlush a => Sys2Proof.Machine.execBiqFlush a s
  | .tickEnable a => Sys2Proof.Machine.execTickEnable a s
  | .tickGenStart => Sys2Proof.Machine.execTickGenStart s
  | .tickDisable a => Sys2Proof.Machine.execTickDisable a s
  | .timeNowRead a => Sys2Proof.Machine.execTimeNowRead a s
  | .macFrameRx m f frac => Sys2Proof.Machine.execMacFrameRx m f frac s
  | .linkUp m slow => Sys2Proof.Machine.execLinkUp m slow s
  | .linkDown m why los => Sys2Proof.Machine.execLinkDown m why los s
  | .modChange m v => Sys2Proof.Machine.execModChange m v s
  | .txFault m v => Sys2Proof.Machine.execTxFault m v s
  | .macEnable a m txEn => Sys2Proof.Machine.execMacEnable a m txEn s
  | .macDisable a m txEn => Sys2Proof.Machine.execMacDisable a m txEn s
  | .sfpTwoWire a m w => Sys2Proof.Machine.execSfpTwoWire a m w s
  | .sfpTwoWireDone m nack data => Sys2Proof.Machine.execSfpTwoWireDone m nack data s
  | .ringFlush a m tx n en => Sys2Proof.Machine.execRingFlush a m tx n en s
  | .txrWrWrite a m n v => Sys2Proof.Machine.execTxrWrWrite a m n v s
  | .macFrameTx m e frac => Sys2Proof.Machine.execMacFrameTx m e frac s
  | .supervisionTx p => Sys2Proof.Machine.execSupervisionTx p s
  | .dupEntryExpiry p => Sys2Proof.Machine.execDupEntryExpiry p s
  | .svFrameRx port frac f => Sys2Proof.Machine.execSvFrameRx port frac f s
  | .groupDeadline g => Sys2Proof.Machine.execGroupDeadline g s
  | .ctxLost c => Sys2Proof.Machine.execCtxLost c s
  | .recoveryCountExpiry c => Sys2Proof.Machine.execRecoveryCountExpiry c s
  | .ctxFlush a c => Sys2Proof.Machine.execCtxFlush a c s
  | .svpSend p => Sys2Proof.Machine.execSvpSend p s
  | .scaReleaseProcess => Sys2Proof.Machine.execScaReleaseProcess s
  | .freezeLimit g => Sys2Proof.Machine.execFreezeLimit g s
  | .freqHoldExpiry g => Sys2Proof.Machine.execFreqHoldExpiry g s
  | .settleCountExpiry ch => Sys2Proof.Machine.execSettleCountExpiry ch s
  | .bankLoad a w => Sys2Proof.Machine.execBankLoad a w s
  | .bankLoadDone => Sys2Proof.Machine.execBankLoadDone s
  | .fadeEnd b => Sys2Proof.Machine.execFadeEnd b s
  | .taskDispatch k => Sys2Proof.Machine.execTaskDispatch k s
  | .opfRefusal k => Sys2Proof.Machine.execOpfRefusal k s
  | .deadlineExpiry t => Sys2Proof.Machine.execDeadlineExpiry t s
  | .pcxLoad a => Sys2Proof.Machine.execPcxLoad a s
  | .pcxLoadDone => Sys2Proof.Machine.execPcxLoadDone s
  | .coreExcClear a k => Sys2Proof.Machine.execCoreExcClear a k s
  | .undefinedEncoding k w => Sys2Proof.Machine.execUndefinedEncoding k w s
  | .add k p d a b => Sys2Proof.Machine.execAdd k p d a b s
  | .sub k p d a b => Sys2Proof.Machine.execSub k p d a b s
  | .and k p d a b => Sys2Proof.Machine.execAnd k p d a b s
  | .or k p d a b => Sys2Proof.Machine.execOr k p d a b s
  | .xor k p d a b => Sys2Proof.Machine.execXor k p d a b s
  | .shl k p d a b => Sys2Proof.Machine.execShl k p d a b s
  | .shr k p d a b => Sys2Proof.Machine.execShr k p d a b s
  | .sra k p d a b => Sys2Proof.Machine.execSra k p d a b s
  | .mul k p d a b => Sys2Proof.Machine.execMul k p d a b s
  | .mulh k p d a b => Sys2Proof.Machine.execMulh k p d a b s
  | .mulhu k p d a b => Sys2Proof.Machine.execMulhu k p d a b s
  | .adds k p d a b => Sys2Proof.Machine.execAdds k p d a b s
  | .subs k p d a b => Sys2Proof.Machine.execSubs k p d a b s
  | .min k p d a b => Sys2Proof.Machine.execMin k p d a b s
  | .max k p d a b => Sys2Proof.Machine.execMax k p d a b s
  | .minu k p d a b => Sys2Proof.Machine.execMinu k p d a b s
  | .maxu k p d a b => Sys2Proof.Machine.execMaxu k p d a b s
  | .div k p d a b => Sys2Proof.Machine.execDiv k p d a b s
  | .divu k p d a b => Sys2Proof.Machine.execDivu k p d a b s
  | .rem k p d a b => Sys2Proof.Machine.execRem k p d a b s
  | .remu k p d a b => Sys2Proof.Machine.execRemu k p d a b s
  | .abs k p d a => Sys2Proof.Machine.execAbs k p d a s
  | .clz k p d a => Sys2Proof.Machine.execClz k p d a s
  | .addi k p d a imm => Sys2Proof.Machine.execAddi k p d a imm s
  | .andi k p d a imm => Sys2Proof.Machine.execAndi k p d a imm s
  | .ori k p d a imm => Sys2Proof.Machine.execOri k p d a imm s
  | .xori k p d a imm => Sys2Proof.Machine.execXori k p d a imm s
  | .shiShl k p d a n => Sys2Proof.Machine.execShiShl k p d a n s
  | .shiShr k p d a n => Sys2Proof.Machine.execShiShr k p d a n s
  | .shiSra k p d a n => Sys2Proof.Machine.execShiSra k p d a n s
  | .add64 k p d a b => Sys2Proof.Machine.execAdd64 k p d a b s
  | .sub64 k p d a b => Sys2Proof.Machine.execSub64 k p d a b s
  | .mull k p d a b => Sys2Proof.Machine.execMull k p d a b s
  | .mullu k p d a b => Sys2Proof.Machine.execMullu k p d a b s
  | .adds64 k p d a b => Sys2Proof.Machine.execAdds64 k p d a b s
  | .fadd k p d a b => Sys2Proof.Machine.execFadd k p d a b s
  | .fsub k p d a b => Sys2Proof.Machine.execFsub k p d a b s
  | .fmul k p d a b => Sys2Proof.Machine.execFmul k p d a b s
  | .fdiv k p d a b => Sys2Proof.Machine.execFdiv k p d a b s
  | .fsqrt k p d a => Sys2Proof.Machine.execFsqrt k p d a s
  | .fmin k p d a b => Sys2Proof.Machine.execFmin k p d a b s
  | .fmax k p d a b => Sys2Proof.Machine.execFmax k p d a b s
  | .fabs k p d a => Sys2Proof.Machine.execFabs k p d a s
  | .fneg k p d a => Sys2Proof.Machine.execFneg k p d a s
  | .fmac k p d a b => Sys2Proof.Machine.execFmac k p d a b s
  | .fcvtsw k p d a => Sys2Proof.Machine.execFcvtsw k p d a s
  | .fcvtws k p d a => Sys2Proof.Machine.execFcvtws k p d a s
  | .fcvtsq k p d a => Sys2Proof.Machine.execFcvtsq k p d a s
  | .fcvtqs k p d a => Sys2Proof.Machine.execFcvtqs k p d a s
  | .fatan2 k p d a b => Sys2Proof.Machine.execFatan2 k p d a b s
  | .fhypot k p d a b => Sys2Proof.Machine.execFhypot k p d a b s
  | .qadd k p d a b => Sys2Proof.Machine.execQadd k p d a b s
  | .qsub k p d a b => Sys2Proof.Machine.execQsub k p d a b s
  | .qmul k p d a b => Sys2Proof.Machine.execQmul k p d a b s
  | .qmac k p d a b => Sys2Proof.Machine.execQmac k p d a b s
  | .qabs k p d a => Sys2Proof.Machine.execQabs k p d a s
  | .qneg k p d a => Sys2Proof.Machine.execQneg k p d a s
  | .qshl k p d a b => Sys2Proof.Machine.execQshl k p d a b s
  | .qshr k p d a b => Sys2Proof.Machine.execQshr k p d a b s
  | .ceq k p d a b => Sys2Proof.Machine.execCeq k p d a b s
  | .cne k p d a b => Sys2Proof.Machine.execCne k p d a b s
  | .clt k p d a b => Sys2Proof.Machine.execClt k p d a b s
  | .cge k p d a b => Sys2Proof.Machine.execCge k p d a b s
  | .cltu k p d a b => Sys2Proof.Machine.execCltu k p d a b s
  | .cgeu k p d a b => Sys2Proof.Machine.execCgeu k p d a b s
  | .ctst k p d a b => Sys2Proof.Machine.execCtst k p d a b s
  | .ctstn k p d a b => Sys2Proof.Machine.execCtstn k p d a b s
  | .feq k p d a b => Sys2Proof.Machine.execFeq k p d a b s
  | .flt k p d a b => Sys2Proof.Machine.execFlt k p d a b s
  | .fle k p d a b => Sys2Proof.Machine.execFle k p d a b s
  | .funord k p d a b => Sys2Proof.Machine.execFun k p d a b s
  | .pand k p d a b => Sys2Proof.Machine.execPand k p d a b s
  | .por k p d a b => Sys2Proof.Machine.execPor k p d a b s
  | .pxor k p d a b => Sys2Proof.Machine.execPxor k p d a b s
  | .pandn k p d a b => Sys2Proof.Machine.execPandn k p d a b s
  | .pnot k p d a => Sys2Proof.Machine.execPnot k p d a s
  | .ptos k p d a => Sys2Proof.Machine.execPtos k p d a s
  | .stop k p d a => Sys2Proof.Machine.execStop k p d a s
  | .pset k p d a => Sys2Proof.Machine.execPset k p d a s
  | .ldw k p d a imm => Sys2Proof.Machine.execLdw k p d a imm s
  | .ldh k p d a imm => Sys2Proof.Machine.execLdh k p d a imm s
  | .ldhu k p d a imm => Sys2Proof.Machine.execLdhu k p d a imm s
  | .ldb k p d a imm => Sys2Proof.Machine.execLdb k p d a imm s
  | .ldbu k p d a imm => Sys2Proof.Machine.execLdbu k p d a imm s
  | .ldd k p d a imm => Sys2Proof.Machine.execLdd k p d a imm s
  | .stw k p d a imm => Sys2Proof.Machine.execStw k p d a imm s
  | .sth k p d a imm => Sys2Proof.Machine.execSth k p d a imm s
  | .stb k p d a imm => Sys2Proof.Machine.execStb k p d a imm s
  | .std k p d a imm => Sys2Proof.Machine.execStd k p d a imm s
  | .ldg k p d a imm => Sys2Proof.Machine.execLdg k p d a imm s
  | .stg k p d a imm => Sys2Proof.Machine.execStg k p d a imm s
  | .ldwi k p d a imm => Sys2Proof.Machine.execLdwi k p d a imm s
  | .stwi k p d a imm => Sys2Proof.Machine.execStwi k p d a imm s
  | .ldgi k p d a imm => Sys2Proof.Machine.execLdgi k p d a imm s
  | .stgi k p d a imm => Sys2Proof.Machine.execStgi k p d a imm s
  | .vld k p d a imm => Sys2Proof.Machine.execVld k p d a imm s
  | .vst k p d a imm => Sys2Proof.Machine.execVst k p d a imm s
  | .vadd k p d a b => Sys2Proof.Machine.execVadd k p d a b s
  | .vsub k p d a b => Sys2Proof.Machine.execVsub k p d a b s
  | .vand k p d a b => Sys2Proof.Machine.execVand k p d a b s
  | .vor k p d a b => Sys2Proof.Machine.execVor k p d a b s
  | .vxor k p d a b => Sys2Proof.Machine.execVxor k p d a b s
  | .vshl k p d a b => Sys2Proof.Machine.execVshl k p d a b s
  | .vshr k p d a b => Sys2Proof.Machine.execVshr k p d a b s
  | .vsra k p d a b => Sys2Proof.Machine.execVsra k p d a b s
  | .vmul k p d a b => Sys2Proof.Machine.execVmul k p d a b s
  | .vmulh k p d a b => Sys2Proof.Machine.execVmulh k p d a b s
  | .vmulhu k p d a b => Sys2Proof.Machine.execVmulhu k p d a b s
  | .vadds k p d a b => Sys2Proof.Machine.execVadds k p d a b s
  | .vsubs k p d a b => Sys2Proof.Machine.execVsubs k p d a b s
  | .vmin k p d a b => Sys2Proof.Machine.execVmin k p d a b s
  | .vmax k p d a b => Sys2Proof.Machine.execVmax k p d a b s
  | .vminu k p d a b => Sys2Proof.Machine.execVminu k p d a b s
  | .vmaxu k p d a b => Sys2Proof.Machine.execVmaxu k p d a b s
  | .vfadd k p d a b => Sys2Proof.Machine.execVfadd k p d a b s
  | .vfsub k p d a b => Sys2Proof.Machine.execVfsub k p d a b s
  | .vfmul k p d a b => Sys2Proof.Machine.execVfmul k p d a b s
  | .vfdiv k p d a b => Sys2Proof.Machine.execVfdiv k p d a b s
  | .vfsqrt k p d a => Sys2Proof.Machine.execVfsqrt k p d a s
  | .vfmin k p d a b => Sys2Proof.Machine.execVfmin k p d a b s
  | .vfmax k p d a b => Sys2Proof.Machine.execVfmax k p d a b s
  | .vfabs k p d a => Sys2Proof.Machine.execVfabs k p d a s
  | .vfneg k p d a => Sys2Proof.Machine.execVfneg k p d a s
  | .vfmac k p d a b => Sys2Proof.Machine.execVfmac k p d a b s
  | .vfcvtsw k p d a => Sys2Proof.Machine.execVfcvtsw k p d a s
  | .vfcvtws k p d a => Sys2Proof.Machine.execVfcvtws k p d a s
  | .vfcvtsq k p d a => Sys2Proof.Machine.execVfcvtsq k p d a s
  | .vfcvtqs k p d a => Sys2Proof.Machine.execVfcvtqs k p d a s
  | .vfatan2 k p d a b => Sys2Proof.Machine.execVfatan2 k p d a b s
  | .vfhypot k p d a b => Sys2Proof.Machine.execVfhypot k p d a b s
  | .vqadd k p d a b => Sys2Proof.Machine.execVqadd k p d a b s
  | .vqsub k p d a b => Sys2Proof.Machine.execVqsub k p d a b s
  | .vqmul k p d a b => Sys2Proof.Machine.execVqmul k p d a b s
  | .vqmac k p d a b => Sys2Proof.Machine.execVqmac k p d a b s
  | .vqabs k p d a => Sys2Proof.Machine.execVqabs k p d a s
  | .vqneg k p d a => Sys2Proof.Machine.execVqneg k p d a s
  | .vqshl k p d a b => Sys2Proof.Machine.execVqshl k p d a b s
  | .vqshr k p d a b => Sys2Proof.Machine.execVqshr k p d a b s
  | .vceq k p d a b => Sys2Proof.Machine.execVceq k p d a b s
  | .vcne k p d a b => Sys2Proof.Machine.execVcne k p d a b s
  | .vclt k p d a b => Sys2Proof.Machine.execVclt k p d a b s
  | .vcge k p d a b => Sys2Proof.Machine.execVcge k p d a b s
  | .vcltu k p d a b => Sys2Proof.Machine.execVcltu k p d a b s
  | .vcgeu k p d a b => Sys2Proof.Machine.execVcgeu k p d a b s
  | .vctst k p d a b => Sys2Proof.Machine.execVctst k p d a b s
  | .vctstn k p d a b => Sys2Proof.Machine.execVctstn k p d a b s
  | .vfeq k p d a b => Sys2Proof.Machine.execVfeq k p d a b s
  | .vflt k p d a b => Sys2Proof.Machine.execVflt k p d a b s
  | .vfle k p d a b => Sys2Proof.Machine.execVfle k p d a b s
  | .vfun k p d a b => Sys2Proof.Machine.execVfun k p d a b s
  | .vbc k p d a => Sys2Proof.Machine.execVbc k p d a s
  | .vext k p d a n => Sys2Proof.Machine.execVext k p d a n s
  | .vins k p d a n => Sys2Proof.Machine.execVins k p d a n s
  | .vmov k p d a => Sys2Proof.Machine.execVmov k p d a s
  | .vsumi k p d a => Sys2Proof.Machine.execVsumi k p d a s
  | .vsumq k p d a => Sys2Proof.Machine.execVsumq k p d a s
  | .vsumf k p d a => Sys2Proof.Machine.execVsumf k p d a s
  | .vmaxf k p d a => Sys2Proof.Machine.execVmaxf k p d a s
  | .ldsmp k p d a age => Sys2Proof.Machine.execLdsmp k p d a age s
  | .ldsmpa k p d a b => Sys2Proof.Machine.execLdsmpa k p d a b s
  | .vldsmp k p d a age => Sys2Proof.Machine.execVldsmp k p d a age s
  | .ldph k p d a pt age => Sys2Proof.Machine.execLdph k p d a pt age s
  | .ldpha k p d a b pt => Sys2Proof.Machine.execLdpha k p d a b pt s
  | .ldgr k p d a pt age => Sys2Proof.Machine.execLdgr k p d a pt age s
  | .ldgra k p d a b pt => Sys2Proof.Machine.execLdgra k p d a b pt s
  | .tmrTon k p d a b ofs => Sys2Proof.Machine.execTmrTon k p d a b ofs s
  | .tmrTof k p d a b ofs => Sys2Proof.Machine.execTmrTof k p d a b ofs s
  | .tmrTp k p d a b ofs => Sys2Proof.Machine.execTmrTp k p d a b ofs s
  | .edgeRising k p d a ofs => Sys2Proof.Machine.execEdgeRising k p d a ofs s
  | .edgeFalling k p d a ofs => Sys2Proof.Machine.execEdgeFalling k p d a ofs s
  | .edgeEither k p d a ofs => Sys2Proof.Machine.execEdgeEither k p d a ofs s
  | .opf k p d a imm => Sys2Proof.Machine.execOpf k p d a imm s
  | .br k p n ofs => Sys2Proof.Machine.execBr k p n ofs s
  | .jr k p a => Sys2Proof.Machine.execJr k p a s
  | .fcall k p a imm => Sys2Proof.Machine.execFcall k p a imm s
  | .fret k p => Sys2Proof.Machine.execFret k p s
  | .rdsr k p d n => Sys2Proof.Machine.execRdsr k p d n s
  | .wrsr k p a n => Sys2Proof.Machine.execWrsr k p a n s
  | .tend k p => Sys2Proof.Machine.execTend k p s
  | .fence k p => Sys2Proof.Machine.execFence k p s
  | .evsig k p e => Sys2Proof.Machine.execEvsig k p e s
  | .npost k p a cls code => Sys2Proof.Machine.execNpost k p a cls code s
  | .li k p d imm => Sys2Proof.Machine.execLi k p d imm s
  | .addx k p d a imm => Sys2Proof.Machine.execAddx k p d a imm s
  | .ldwx k p d a imm => Sys2Proof.Machine.execLdwx k p d a imm s
  | .stwx k p d a imm => Sys2Proof.Machine.execStwx k p d a imm s
  | .vbci k p d imm => Sys2Proof.Machine.execVbci k p d imm s
  | .load a p => Sys2Proof.Machine.execLoad a p s
  | .loadDone p => Sys2Proof.Machine.execLoadDone p s
  | .prepare a p => Sys2Proof.Machine.execPrepare a p s
  | .prepareDone p => Sys2Proof.Machine.execPrepareDone p s
  | .switch a p => Sys2Proof.Machine.execSwitch a p s
  | .discard a p => Sys2Proof.Machine.execDiscard a p s
  | .install a p => Sys2Proof.Machine.execInstall a p s
  | .startWarm a p => Sys2Proof.Machine.execStartWarm a p s
  | .startCold a p => Sys2Proof.Machine.execStartCold a p s
  | .tskStop a p => Sys2Proof.Machine.execTskStop a p s
  | .restartDone p => Sys2Proof.Machine.execRestartDone p s
  | .plinthLineWrite => Sys2Proof.Machine.execPlinthLineWrite s
  | .recarryDone p => Sys2Proof.Machine.execRecarryDone p s
  | .switchAttemptFail p => Sys2Proof.Machine.execSwitchAttemptFail p s
  | .forceApply k => Sys2Proof.Machine.execForceApply k s
  | .minUsExpiry n => Sys2Proof.Machine.execMinUsExpiry n s
  | .readbackMismatch n => Sys2Proof.Machine.execReadbackMismatch n s
  | .readbackClear n => Sys2Proof.Machine.execReadbackClear n s
  | .gooseRetransmit p => Sys2Proof.Machine.execGooseRetransmit p s
  | .gooseRx m => Sys2Proof.Machine.execGooseRx m s
  | .gooseTalExpiry n => Sys2Proof.Machine.execGooseTalExpiry n s
  | .cmdSelect a rank val orig ctl o => Sys2Proof.Machine.execCmdSelect a rank val orig ctl o s
  | .cmdOperate a rank val orig ctl o => Sys2Proof.Machine.execCmdOperate a rank val orig ctl o s
  | .cmdCancel a rank val orig ctl o => Sys2Proof.Machine.execCmdCancel a rank val orig ctl o s
  | .operTimeout o => Sys2Proof.Machine.execOperTimeout o s
  | .selectTimeout o => Sys2Proof.Machine.execSelectTimeout o s
  | .coPosWrite a o pos => Sys2Proof.Machine.execCoPosWrite a o pos s
  | .objReset a o => Sys2Proof.Machine.execObjReset a o s
  | .cmdResPop a => Sys2Proof.Machine.execCmdResPop a s
  | .canFrameRx m f age => Sys2Proof.Machine.execCanFrameRx m f age s
  | .canArbitration m won => Sys2Proof.Machine.execCanArbitration m won s
  | .canTxComplete m ok => Sys2Proof.Machine.execCanTxComplete m ok s
  | .canBusError m e => Sys2Proof.Machine.execCanBusError m e s
  | .busOffRecovered m => Sys2Proof.Machine.execBusOffRecovered m s
  | .fbcRecover a m => Sys2Proof.Machine.execFbcRecover a m s
  | .fbcEnable a m => Sys2Proof.Machine.execFbcEnable a m s
  | .fbcDisable a m => Sys2Proof.Machine.execFbcDisable a m s
  | .tq1Push a m w => Sys2Proof.Machine.execTq1Push a m w s
  | .tq1Flush a m => Sys2Proof.Machine.execTq1Flush a m s
  | .rqHead a m q => Sys2Proof.Machine.execRqHead a m q s
  | .rqFlush a m q => Sys2Proof.Machine.execRqFlush a m q s
  | .xcvrFault m v => Sys2Proof.Machine.execXcvrFault m v s
  | .drcEnable a => Sys2Proof.Machine.execDrcEnable a s
  | .drcDisable a => Sys2Proof.Machine.execDrcDisable a s
  | .drcRowWrite => Sys2Proof.Machine.execDrcRowWrite s
  | .manualTrigger a => Sys2Proof.Machine.execManualTrigger a s
  | .holdOffExpiry => Sys2Proof.Machine.execHoldOffExpiry s
  | .segClaim a ix => Sys2Proof.Machine.execSegClaim a ix s
  | .segRelease a ix => Sys2Proof.Machine.execSegRelease a ix s
  | .segUnclaim a ix => Sys2Proof.Machine.execSegUnclaim a ix s
  | .almPostGo a => Sys2Proof.Machine.execAlmPostGo a s
  | .almRecordWrite => Sys2Proof.Machine.execAlmRecordWrite s
  | .almSeek a w => Sys2Proof.Machine.execAlmSeek a w s
  | .meterWindowEnd p => Sys2Proof.Machine.execMeterWindowEnd p s
  | .mtrPreset a acc p => Sys2Proof.Machine.execMtrPreset a acc p s
  | .mtrCkptNow a => Sys2Proof.Machine.execMtrCkptNow a s
  | .mtrStop a => Sys2Proof.Machine.execMtrStop a s
  | .mtrResume a => Sys2Proof.Machine.execMtrResume a s
  | .meterPointEnable a p => Sys2Proof.Machine.execMeterPointEnable a p s
  | .accRead a p n => Sys2Proof.Machine.execAccRead a p n s
  | .pulsePeriod n => Sys2Proof.Machine.execPulsePeriod n s
  | .mirEnable a => Sys2Proof.Machine.execMirEnable a s
  | .mirDisable a => Sys2Proof.Machine.execMirDisable a s
  | .handover a => Sys2Proof.Machine.execHandover a s
  | .leaseFrameTx => Sys2Proof.Machine.execLeaseFrameTx s
  | .renewRx w => Sys2Proof.Machine.execRenewRx w s
  | .statusRx w => Sys2Proof.Machine.execStatusRx w s
  | .claimRx w => Sys2Proof.Machine.execClaimRx w s
  | .releaseRx w => Sys2Proof.Machine.execReleaseRx w s
  | .twilightRx w => Sys2Proof.Machine.execTwilightRx w s
  | .twClearRx w => Sys2Proof.Machine.execTwClearRx w s
  | .tickPacketRx p => Sys2Proof.Machine.execTickPacketRx p s
  | .leaseSilenceExpiry => Sys2Proof.Machine.execLeaseSilenceExpiry s
  | .listenSilenceExpiry => Sys2Proof.Machine.execListenSilenceExpiry s
  | .mirLaneDown l => Sys2Proof.Machine.execMirLaneDown l s
  | .rbTest a n => Sys2Proof.Machine.execRbTest a n s
  | .rbTestDone seen after => Sys2Proof.Machine.execRbTestDone seen after s
  | .bistRerun a t => Sys2Proof.Machine.execBistRerun a t s
  | .bistDone fail => Sys2Proof.Machine.execBistDone fail s
  | .builtInSelfTest fails => Sys2Proof.Machine.execBuiltInSelfTest fails s
  | .dumpFreeze a key => Sys2Proof.Machine.execDumpFreeze a key s
  | .dumpSeal a key => Sys2Proof.Machine.execDumpSeal a key s
  | .sealDone => Sys2Proof.Machine.execSealDone s
  | .dumpReset a key => Sys2Proof.Machine.execDumpReset a key s
  | .dumpUnseal a key => Sys2Proof.Machine.execDumpUnseal a key s
  | .dumpAck a key => Sys2Proof.Machine.execDumpAck a key s
  | .mirrorLaneUp l => Sys2Proof.Machine.execMirrorLaneUp l s
  | .leaseWordInvalid guard => Sys2Proof.Machine.execLeaseWordInvalid guard s
  | .checkpointWriteDone => Sys2Proof.Machine.execCheckpointWriteDone s
  | .dumpRegionWipeDone => Sys2Proof.Machine.execDumpRegionWipeDone s

end Sys2Proof.Machine
end

