-- ==== Sys2Proof/Machine/Outputs.lean ====
section
/-! DEFINITION. What the module shows outside, as functions of the state: the front-panel LEDs (R91) and the interrupt lines of
the blocks (an event bit whose enable bit is 1). The drive of a trip lane, a pulse output and a port's last frame stand in
the state itself. -/

namespace Sys2Proof.Machine

/-- What an LED displays (R91); a lamp test lights every LED in every colour it has in turn. -/
inductive Led where
  | off | green | greenFlash | greenFlash4 | amber | amberFlash | red | redFlash | lampTest
  deriving DecidableEq, Repr

/-- LAMP_TEST of PWR_LED_CTRL. -/
def lamp (s : State) (l : Led) : Led := if s.pwr.on && bit (shadowOf s R.pwrLedCtrl) 2 then .lampTest else l

def ledRun (s : State) : Led :=
  lamp s (if !s.pwr.on || !s.sys.released then .off
    else if s.pwr.phase ≠ .normal then .greenFlash4
    else if s.trust.ready then .green else .greenFlash)

def ledRole (s : State) : Led :=
  lamp s (if s.mir.role = .holder then .green
    else if s.mir.role = .standby then (if mirReady s.mir then .amber else .amberFlash)
    else .off)

def ledTime (s : State) : Led :=
  lamp s (if s.time.lodestar < 2 then .green
    else if s.time.lodestar < 4 then .greenFlash
    else if s.time.holdAt.isSome then .amber else .off)

def ledForce (s : State) : Led :=
  lamp s (if s.tsk.forces.any fun e => e.2.state == 1 then .amber
    else if [R.siuTestAcc, R.siuSimAcc, R.gseTestAcc, R.gseSimAcc].any fun a => forceOf s a ≠ 0#32 then .amberFlash
    else .off)

def ledFault (s : State) : Led :=
  let f := fld (shadowOf s R.pwrLedCtrl) 1 0
  lamp s (if s.pwr.on ∧ s.trust.stage < 2 ∧ !s.trust.ready then .red
    else if 2 ≤ f then .red else if f = 1 then .redFlash else .off)

/-- The link LED of port `m` is dark for a frame burst (R91). -/
def ledDark (s : State) (m : Nat) : Bool := match (macOf s m).blinkAt with | some t => decide (s.now < t + 50000000) | none => false

/-- The link LED of port `m`; port 4 is MGT's. -/
def ledLink (s : State) (m : Nat) : Led :=
  lamp s (if !(macOf s m).link || ledDark s m then .off
    else if m ≠ 4 ∧ bit (shadowOf s (R.macCfg m)) 16 then .amber else .green)

/-- The interrupt line of a block with its event and enable registers. -/
def irq (s : State) (evtReg enReg : Nat) : Bool := liveOf s evtReg &&& shadowOf s enReg ≠ 0#32

/-- The blocks that have an interrupt line, with their event and enable registers. -/
def irqLines : List (Nat × Nat × Nat) :=
  [(0x17, R.pwrEvt, R.pwrIntEn), (0x01, R.trustEvt, R.trustIntEn), (0x02, R.partEvt, R.partIntEn),
    (0x03, R.timeEvt, R.timeIntEn), (0x04, R.macEvt 0, R.macIntEn 0), (0x05, R.macEvt 1, R.macIntEn 1),
    (0x06, R.macEvt 2, R.macIntEn 2), (0x07, R.macEvt 3, R.macIntEn 3), (0x08, R.macEvt 4, R.macIntEn 4)] ++
  [(0x09, R.siuEvt, R.siuIntEn), (0x0A, R.svpEvt, R.svpIntEn), (0x0B, R.scaEvt, R.scaIntEn), (0x0C, R.pcxEvt, R.pcxIntEn),
    (0x0D, R.tskEvt, R.tskIntEn), (0x0E, R.tmxEvt, R.tmxIntEn), (0x0F, R.gseEvt, R.gseIntEn),
    (0x10, R.cmdEvt, R.cmdIntEn), (0x11, R.fbcEvt 0, R.fbcIntEn 0), (0x12, R.fbcEvt 1, R.fbcIntEn 1)] ++
  [(0x13, R.drcEvt, R.drcIntEn), (0x14, R.almEvt, R.almIntEn), (0x15, R.mtrEvt, R.mtrIntEn), (0x16, R.mirEvt, R.mirIntEn),
    (0x18, R.diagEvt, R.diagIntEn)]

/-- The interrupt of partition `p`: an item is queued whose class HNQ_CFG names (R161). A level, DEDUCED: log 182. -/
def partIrq (s : State) (p : Nat) : Bool :=
  (hnqOf s p).q.items.any fun w => bit (shadowOf s (R.base 2 + 0x8000 + p * 0x20 + 0x14)) (itemClass w)

/-- The blocks whose interrupt line is up. -/
def irqUp (s : State) : List Nat := (irqLines.filter fun e => irq s e.2.1 e.2.2).map (·.1)

end Sys2Proof.Machine
end

