-- ==== Sys2Proof/WellFormed.lean ====
section
/-! DEFINITION. Well-formed commands: what an operand's type leaves too wide. A frame or message that a rule makes the module
examine and drop is well formed; what is refused here is an operand that describes nothing the outside could send. -/

namespace Sys2Proof

/-- An access size of the register bridge and of a single access (R11, R154). -/
def sizeWf (n : Nat) : Bool := [1, 2, 4, 8].contains n

/-- The data lengths of a CAN frame (R452: ISO 11898-1). -/
def canLenWf (fdf : Bool) (n : Nat) : Bool :=
  decide (n ≤ 8) || fdf && [12, 16, 20, 24, 32, 48, 64].contains n

/-- The identifier fits its format; a remote frame carries no data; the bit-rate switch and the error state are CAN FD's. -/
def CanFrame.wf (f : CanFrame) : Bool :=
  (f.ide || decide (f.id.toNat < 2 ^ 11)) && canLenWf f.fdf f.data.length && (!f.remote || f.data.isEmpty && !f.fdf) &&
    (f.fdf || !f.brs && !f.esi)

/-- The fields an IRIG-B frame can show, where its marks and fields are well formed. -/
def IrigFrame.wf (f : IrigFrame) : Bool :=
  !f.good || decide (1 ≤ f.day) && decide (f.day ≤ 366) && decide (f.hour < 24) && decide (f.min < 60) && decide (f.sec ≤ 60) &&
    decide (f.year < 100) && decide (f.sbs < 2 ^ 17)

/-- A frame whose length a receive item can tell in 16 bits (R210); a tag with TPID 0x8100 stands in its own field (R204). -/
def EthFrame.wf (f : EthFrame) : Bool := decide (f.payload.length < 65500) && (f.vlan.isSome || f.et != 0x8100#16)

/-- A mirrored line has 64 bytes, a pair of force entries 16 words (R546, R547). -/
def MirLine.wf : MirLine → Bool
  | .mem _ bytes => bytes.length == 64
  | .forces _ w => w.length == 16
  | .pubs _ e => decide (e.length ≤ 4)
  | .subs _ e => decide (e.length ≤ 4)
  | .objs _ e => decide (e.length ≤ 4)
  | .parts _ e => decide (e.length ≤ 4)
  | .flags _ bits => decide (bits < 2 ^ 512)
  | .stopped bits => decide (bits < 2 ^ 512)
  | .point _ _ _ _ _ => true

/-- A packet names 32 programs and carries a tag of 16 bytes (R549, R550). -/
def MirPacket.wf (p : MirPacket) : Bool := p.progs.length == 32 && p.tag.length == 16 && p.recs.all fun r => r.line.wf

/-- A single access moves 1 to 64 bytes; a write brings its bytes, another access none (R154). -/
def accessWf (k : AccKind) (n : Nat) (data : List Byte) : Bool :=
  decide (1 ≤ n) && (if k = .write then data.length == n else data.isEmpty)

/-- The command is well formed. -/
def Instr.wf : Instr → Bool
  | .registerWrite _ _ size _ => sizeWf size.val
  | .readClear _ _ size => sizeWf size.val
  | .memoryAccess _ k _ n data _ => accessWf k n.val data
  | .irigbFrameRx f _ => f.wf
  | .macFrameRx _ f _ => f.wf
  | .canFrameRx _ f _ => f.wf
  | .tickPacketRx p => p.wf
  | _ => true

end Sys2Proof
end

