-- ==== Sys2Proof/Safety.lean ====
section
/-! DEFINITION. What counts as a safe state and a safe step, and the terms claims about commands use. -/

namespace Sys2Proof.Machine

/-- Every memory of the state is in canonical form. -/
def memOk (s : State) : Prop := Memory.wf s.mem = true

/-- No lane is at OPERATE or RESET while a condition of R420 asks for HOLD. -/
def laneSafe (s : State) : Prop := ∀ n, n < 32 → holdWhy s n ≠ 0 → (laneOf s n).drive = .hold

/-- The outcome is a next state that meets `P`. -/
def Answers (o : Host.Outcome State Fault Refusal) (P : State → Prop) : Prop := ∃ t, o = .next t ∧ P t

/-! ### Instructions of the protection cores -/

/-- The address of offset `o` in core `k`'s active code bank (R304). -/
def fetchAddr (s : State) (k o : Nat) : Nat := codeBase k (coreOf s k).bank + o

/-- A word at offset `o` of the active code bank can be fetched: inside the bank (R304), permitted (R353), without an
uncorrectable error (R36). -/
def canFetch (s : State) (k o : Nat) : Prop :=
  o < 0x10000 ∧ memDenied s (coreTag k (coreOf s k).pid) .fetch (fetchAddr s k o) = none ∧ eccOf s (fetchAddr s k o) 4 < 2

/-- A fetch counts an error it corrects (R36). -/
def fetchCounted (s : State) (k o : Nat) : State := (eccRead s (fetchAddr s k o) 4).1

/-- Core `k` runs, no STOP_PARTITION ends its run (R331), and it can fetch the `len` bytes (4, or 8: R342) of the instruction at its
counter. -/
def issues (s : State) (k len : Nat) : Prop :=
  (coreOf s k).mode = .run ∧ (coreOf s k).cutAt = none ∧ canFetch s k (coreOf s k).pc ∧ (len = 8 → canFetch s k ((coreOf s k).pc + 4))

/-- The state after that fetch. -/
def fetched (s : State) (k len : Nat) : State :=
  if len = 8 then fetchCounted (fetchCounted s k (coreOf s k).pc) k ((coreOf s k).pc + 4) else fetchCounted s k (coreOf s k).pc

/-- Bit 0 of the governing predicate is 1 (R309). -/
def predOn (s : State) (k p : Nat) : Prop := (pget (coreOf s k) p).getLsbD 0 = true

/-- Core `k`'s registers changed by `f` and its counter moved on; nothing else. -/
def stepCore (s : State) (k len : Nat) (f : CoreSt → CoreSt) : State := modCore s k fun c => { f c with pc := c.pc + len }

/-- The words at core `k`'s counter are those of `i` in their format (R337, R341). -/
def spelt (i : Instr) (s : State) (k : Nat) : Prop :=
  ∀ n, n < (sarbWords i).length → spells i n (rd32 s (fetchAddr s k ((coreOf s k).pc + 4 * n))) = true

/-- Where the words at the counter are those of `i`, it leaves `t`. -/
def CoreIs (i : Instr) (s : State) (k : Nat) (t : State) : Prop := spelt i s k → exec i s = .next t

/-- Where the words at the counter are those of `i`, it leaves a state that meets `P`. -/
def CoreAnswers (i : Instr) (s : State) (k : Nat) (P : State → Prop) : Prop := spelt i s k → Answers (exec i s) P

/-- The instruction writes `r` to sD, collects the flags `fl` in FPSTAT, moves on, and changes nothing else. -/
def ScalarIs (i : Instr) (s : State) (k len d : Nat) (r : Word) (fl : Nat) : Prop :=
  CoreIs i s k (stepCore (fetched s k len) k len fun c => flags (sset c d r) fl)

/-- The same for a pair (R309). -/
def PairIs (i : Instr) (s : State) (k d : Nat) (r : DWord) (fl : Nat) : Prop :=
  CoreIs i s k (stepCore (fetched s k 4) k 4 fun c => flags (dset c d r) fl)

/-- The same for predicate register pD, of which the bits of the governing predicate are written (R339). -/
def PredIs (i : Instr) (s : State) (k p d : Nat) (v : Byte) (fl : Nat) : Prop :=
  CoreIs i s k (stepCore (fetched s k 4) k 4 fun c => flags (pset c d (pget c p) v) fl)

/-- An integer saturated to 32 bits of two's complement, and SAT (bit 4 of FPSTAT) when it does not fit (R312, R343). -/
def clamp32 (n : Int) : Word := BitVec.ofInt 32 (max (-2147483648) (min 2147483647 n))
def clampSat (n : Int) : Nat := if -2147483648 ≤ n ∧ n ≤ 2147483647 then 0 else 16

/-- The bits of an FP32 NaN. -/
def isNan (w : Word) : Prop := 0x7F800000 < (w &&& 0x7FFFFFFF#32).toNat

/-- `r` is n / 2^k rounded to nearest, ties away from zero (R313). -/
def nearestAway (n : Int) (k : Nat) (r : Int) : Prop :=
  (2 * (n - r * 2 ^ k)).natAbs ≤ 2 ^ k ∧ ((2 * (n - r * 2 ^ k)).natAbs = 2 ^ k → n.natAbs ≤ (r * 2 ^ k).natAbs)

/-- Lane `j` is enabled by predicate `p` (R309). -/
def laneOn (s : State) (k p j : Nat) : Bool := (pget (coreOf s k) p).getLsbD j

/-- The flags of the enabled lanes together. -/
def laneFlags (s : State) (k p : Nat) (fl : Nat → Nat) : Nat :=
  (List.range 8).foldl (fun f j => if laneOn s k p j then f ||| fl j else f) 0

/-- From `base` the instruction moves core `k` on by `len`, writes the enabled lanes of the vector registers that `w` names
(its value for register `r`, lane `j`), collects `fl` in FPSTAT, leaves every other lane and everything else as it is. -/
def LanesAre (i : Instr) (s base : State) (k p len : Nat) (w : Nat → Nat → Option Word) (fl : Nat) : Prop :=
  CoreAnswers i s k fun t =>
    let c := coreOf s k
    let c' := coreOf t k
    t = setCore base k c' ∧
      c' = { c with vreg := c'.vreg, fpstat := c.fpstat ||| word fl, pc := c.pc + len } ∧
      ∀ r j, r < 32 → j < 8 →
        vget c' r j = match w r j with | some v => if laneOn s k p j then v else vget c r j | none => vget c r j

/-- A read of `n` bytes by core `k`'s run: aligned, below 2³², no register window, permitted, no uncorrectable error (R36, R37, R353). -/
def canRead (s : State) (k a n : Nat) : Prop :=
  a % n = 0 ∧ a < 2 ^ 32 ∧ inRegs a = false ∧ memDenied s (coreTag k (coreOf s k).pid) .read a = none ∧ eccOf s a n < 2

/-- The same where no error is corrected either. -/
def cleanRead (s : State) (k a n : Nat) : Prop := canRead s k a n ∧ eccIn s a n = []

/-- A write of `n` bytes by core `k`'s run: no code bank (R304). -/
def canWrite (s : State) (k a n : Nat) : Prop :=
  a % n = 0 ∧ a < 2 ^ 32 ∧ inRegs a = false ∧ inCodeBank a = false ∧ memDenied s (coreTag k (coreOf s k).pid) .write a = none

/-- The state after fetch and read: corrected errors are counted. -/
def readAt (s : State) (k len a n : Nat) : State := (eccRead (fetched s k len) a n).1

/-- A load: sD takes `r`. -/
def LoadIs (i : Instr) (s : State) (k len d a n : Nat) (r : Word) : Prop :=
  CoreIs i s k (stepCore (readAt s k len a n) k len fun c => sset c d r)

/-- A store: the bytes `bs` from `a` up. -/
def StoreIs (i : Instr) (s : State) (k len a : Nat) (bs : List Byte) : Prop :=
  CoreIs i s k (stepCore (coreStore (fetched s k len) a bs) k len fun c => c)

/-- The state in which core `k` has raised exception `code` with subcause `sub` and address `addr`, from `base` (R325). -/
def excAfter (s base : State) (k code sub : Nat) (addr : Word) : State :=
  takeExc base k code sub (excPc (coreOf s k) (coreOf s k).pc) addr false

/-- The instruction raises that exception. -/
def Raises (i : Instr) (s base : State) (k code sub : Nat) (addr : Word) : Prop := CoreIs i s k (excAfter s base k code sub addr)

/-! ### Commands of the blocks -/

/-- The register access is admitted (R144, R153, R159). -/
def admitted (s : State) (a : Acc) (k : Nat) (wr : Bool) : Prop := regDenied s (accTag s a) k wr = none

/-- The state in which an admitted access takes place: it is no bus error. -/
def accessed (s : State) : State := { s with busErr := false }

/-- A block's DMA access of `n` bytes goes through: DRAM is wiped if it lies there (R113), the regions permit it (R154), no error is counted
(R36). -/
def dmaMay (s : State) (t : Tag) (k : AccKind) (a n : Nat) : Prop :=
  ((inDram a || inDram (a + n - 1)) = true → s.trust.dramDone = true) ∧ rangeDenied s t k a n = none ∧ (k = .read → eccIn s a n = [])

/-- What a device reset (R110 to R112, R126, R128, R131) from `s` leaves, with cause `c`: memory as it was; of TRUST the fuses, the lifecycle
state, the key store and the identity key (no KEYREG, engine key, session, nonce or command); every register at its reset value, every
lane at HOLD, no role. -/
def ResetFrom (s : State) (c : Nat) (t : State) : Prop :=
  t.mem = s.mem ∧ t.pending = s.pending ∧ t.now = s.now ∧ t.sys.cause = c ∧ t.sys.released = false ∧ t.sys.at_ = s.now ∧
    (∀ k, shadowOf t k = regReset k ∧ forceOf t k = regReset k) ∧ (∀ n, (laneOf t n).drive = .hold ∧ (coreOf t n).mode = .idle) ∧
    t.time.tickRun = false ∧ t.mir.role = .off ∧ t.part.owners = [] ∧
    t.trust = trustKept s.trust

/-- No other cause of the same BUS cycle stands above (R112). -/
def soleCause (s : State) : Prop := s.sys.released = true ∨ s.sys.at_ / 4 ≠ s.now / 4

/-- A command of TRUST can begin: admitted, none runs, no self-test of the unit, a lifecycle state that allows it (R138). -/
def trustMay (s : State) (a : Acc) (ok : Lc → Bool) : Prop :=
  admitted s a R.trustCmd true ∧ s.trust.cmd = none ∧ s.diag.bist ≠ some 2 ∧ ok s.trust.lc = true

/-- The command takes `u` as its effect and runs, to end with ERR `e` and RESULT `r`. -/
def TrustRuns (i : Instr) (s u : State) (e r : Nat) : Prop :=
  exec i s = .next { u with trust := { u.trust with cmd := some (e, r), done := false } }

/-- The command ends as it starts, with ERR `e`. -/
def TrustEnds (i : Instr) (s : State) (e : Nat) : Prop :=
  exec i s = .next (setEvt { accessed s with trust := { s.trust with done := true, err := e, result := 0 } } R.trustEvt 0)

end Sys2Proof.Machine
end

