-- ==== Sys2Proof/Certificates/Slice0/Obligations.lean ====
section
/-! DEFINITION. The statements for the provers. Each says what a command does by the spec's rules, under hypotheses on the state
and the operands alone; the words they use stand in `Sys2Proof/Safety.lean`. -/

open Sys2Proof Sys2Proof.Machine

/-! ### The whole machine -/

/-- A step takes the command at the front of the queue; on an empty queue it is one BUS edge (the model's choice, log entry 1). -/
def Obligations.StepRunsFrontCommand : Prop :=
  ∀ (c : Instr) (rest : List Instr) (s : State),
    (s.pending = c :: rest → step s = exec c { s with pending := rest }) ∧ (s.pending = [] → step s = .next (idleEdge s))

/-- R12, R39, R98, R308, R420: what reset leaves, and the values the model chooses where the rules give none (log entries 8, 10, 11). -/
def Obligations.ResetState : Prop :=
  let s := State.reset
  memOk s ∧ s.pending = [] ∧ laneSafe s ∧ s.time.tickRun = false ∧ s.time.lodestar = 7 ∧ s.mir.role = .off ∧ s.trust.ready = false ∧
    s.trust.keyreg = none ∧ s.trust.session = none ∧ s.trust.nonce = none ∧ s.trust.slots = [] ∧ s.part.owners = [] ∧
    (∀ a, rdByte s a = 0#8 ∧ shadowOf s a = regReset a ∧ forceOf s a = regReset a ∧ liveOf s a = 0#32) ∧
    (∀ n, (laneOf s n).drive = .hold ∧ (coreOf s n).mode = .idle ∧ (ctxOf s n).st = .disabled ∧ (partOf s n).pstate = .none ∧
      ownerOf s 0 n = none) ∧
    ∀ k r, sget (coreOf s k) r = 0#32 ∧ (1 ≤ r → pget (coreOf s k) r = 0#8) ∧ ∀ j, vget (coreOf s k) r j = 0#32

/-- Every step keeps the memory's canonical form. -/
def Obligations.StepKeepsMemoryForm : Prop := ∀ s t : State, memOk s → step s = .next t → memOk t

/-- R101, R106, R107, R162: whatever command takes place, from whatever state: it answers a next state, the queue's rest waits as before,
elapsed time does not run back, the security version does not fall, a blown lifecycle fuse stays blown. -/
def Obligations.EveryCommandAnswersAndNothingRunsBack : Prop :=
  ∀ (c : Instr) (s : State), Answers (exec c s) fun t =>
    t.pending = s.pending ∧ s.now ≤ t.now ∧ s.trust.svn ≤ t.trust.svn ∧ (s.trust.prov = true → t.trust.prov = true) ∧
      (s.trust.decom = true → t.trust.decom = true)

/-- R419: the lanes brought to their conditions: HOLD where one of R420 applies, else OPERATE with a flag at operate and until MIN_US is over
since the last change to OPERATE, else RESET. -/
def Obligations.LanesFollowTheirConditions : Prop :=
  ∀ (s : State) (n : Nat), n < 32 →
    let t := lanesUpdate s
    let l := laneOf s n
    let min := l.ever = true ∧ s.ltc < l.since + fld (forceOf s (R.laneCfg n)) 15 0 * 1000
    (holdWhy t n ≠ 0 → (laneOf t n).drive = .hold) ∧
    (holdWhy t n = 0 → laneOp s n = true ∨ min → (laneOf t n).drive = .operate) ∧
    (holdWhy t n = 0 → laneOp s n = false → ¬min → (laneOf t n).drive = .reset) ∧
    ((laneOf t n).drive = .operate → l.drive ≠ .operate → (laneOf t n).since = s.ltc ∧ (laneOf t n).ever = true) ∧
    ((laneOf t n).drive ≠ .operate ∨ l.drive = .operate → (laneOf t n).since = l.since ∧ (laneOf t n).ever = l.ever)

/-! ### Register and memory accesses -/

/-- What a write, a sticky set and an entry into force do to every register of the tables, and a store to every byte. -/
def Obligations.RegisterTables : Prop :=
  ∀ (s : State) (a b i : Nat) (w : Word) (bs : List Byte),
    shadowOf (setShadow s a w) b = (if b = a then w else shadowOf s b) ∧
    forceOf (setForce s a w) b = (if b = a then w else forceOf s b) ∧
    liveOf (setLive s a w) b = (if b = a then w else liveOf s b) ∧
    (i < 32 → liveOf (setEvt s a i) b = if b = a then liveOf s b ||| (1#32 <<< i) else liveOf s b) ∧
    rdByte (pokeBytes s a bs) b = (if a ≤ b ∧ b < a + bs.length then bs[b - a]?.getD 0#8 else rdByte s b)

/-- R10, R12: an admitted write of a listed register that is no operation of its own, by access type; with its status bits cleared where
ones are written. -/
def Obligations.RegisterWritesByClass : Prop :=
  ∀ (a : Acc) (addr w : Word) (s : State) (k : Nat) (r : RegRow), inRegs addr.toNat = true → addr.toNat % 4 = 0 →
    regKey s a.core.val addr.toNat = k → admitted s a k true → ownWrite a k w (accessed s) = none → rowOf k = some r →
    ¬(k < 0x2000000000 ∧ 0xFFE0 ≤ k % 0x10000) → ¬(0x2100000000 ≤ k ∧ k < 0x2200000000 ∧ s.mir.role = .standby) →
    let base := if r.w1c = 0 then accessed s else setLive (accessed s) k (liveOf s k &&& ~~~(w &&& word r.w1c))
    let v := w &&& word r.cfg
    (r.cls = .rw → exec (.registerWrite a addr 4 w) s = .next (setShadow base k v)) ∧
    (r.cls = .rs → Answers (exec (.registerWrite a addr 4 w) s) fun t =>
      shadowOf t k = v ∧ t.force = s.force ∧ t.live = base.live ∧ t.mem = s.mem ∧
        { t with shadow := s.shadow, writer := s.writer, commits := s.commits } = base) ∧
    (r.cls = .st → exec (.registerWrite a addr 4 w) s =
      .next (if stLocked base k then werr base (blockOf k) (busAddr k % 0x10000) else stWritten (setShadow base k v) k)) ∧
    (r.cls ∈ [.ro, .rc, .w1c, .wo] → exec (.registerWrite a addr 4 w) s = .next base)

/-- R12, R53: an admitted read of a register without an operation of its own returns its value, clears it if it is RC and leaves all else. -/
def Obligations.RegisterReads : Prop :=
  ∀ (a : Acc) (addr : Word) (s : State) (k : Nat), inRegs addr.toNat = true → addr.toNat % 4 = 0 →
    regKey s a.core.val addr.toNat = k → admitted s a k false → ownRead a k (accessed s) = none →
    ((∀ r, rowOf k = some r → r.cls ≠ .rc) → exec (.readClear a addr 4) s = .next (setBus (accessed s) (readReg (accessed s) k))) ∧
    (∀ r, rowOf k = some r → r.cls = .rc →
      exec (.readClear a addr 4) s = .next (setBus (setLive (accessed s) k 0#32) (readReg (accessed s) k)))

/-- R10, R155: a register access that is no aligned word is a violation of KIND 0x08; it writes no register and no memory, and a read
returns 0. -/
def Obligations.MisshapenAccessesRefused : Prop :=
  ∀ (a : Acc) (addr w : Word) (size : Fin 9) (s : State), inRegs addr.toNat = true → (size.val ≠ 4 ∨ addr.toNat % 4 ≠ 0) →
    exec (.registerWrite a addr size w) s = .next (busError s (accTag s a) true addr.toNat 8) ∧
    exec (.readClear a addr size) s = .next (busError s (accTag s a) false addr.toNat 8)

/-! ### The protection cores -/

/-- R343 to R345, R373: what each operation of the ALU and each immediate form writes to sD and sets in FPSTAT; a division
never traps; all else stays. -/
def Obligations.IntegerResults : Prop :=
  (∀ (k : Fin 64) (p : Fin 8) (d a b : Fin 32) (s : State), issues s k 4 → predOn s k p →
    let x := sget (coreOf s k) a
    let y := sget (coreOf s k) b
    ScalarIs (.add k p d a b) s k 4 d (x + y) 0 ∧
    ScalarIs (.sub k p d a b) s k 4 d (x - y) 0 ∧
    ScalarIs (.and k p d a b) s k 4 d (x &&& y) 0 ∧
    ScalarIs (.or k p d a b) s k 4 d (x ||| y) 0 ∧
    ScalarIs (.xor k p d a b) s k 4 d (x ^^^ y) 0 ∧
    ScalarIs (.shl k p d a b) s k 4 d (x <<< (y &&& 31#32)) 0 ∧
    ScalarIs (.shr k p d a b) s k 4 d (x >>> (y &&& 31#32)) 0 ∧
    ScalarIs (.sra k p d a b) s k 4 d (x.sshiftRight' (y &&& 31#32)) 0 ∧
    ScalarIs (.mul k p d a b) s k 4 d (x * y) 0 ∧
    ScalarIs (.mulh k p d a b) s k 4 d ((x.signExtend 64 * y.signExtend 64).extractLsb' 32 32) 0 ∧
    ScalarIs (.mulhu k p d a b) s k 4 d ((x.setWidth 64 * y.setWidth 64).extractLsb' 32 32) 0 ∧
    ScalarIs (.adds k p d a b) s k 4 d (clamp32 (x.toInt + y.toInt)) (clampSat (x.toInt + y.toInt)) ∧
    ScalarIs (.subs k p d a b) s k 4 d (clamp32 (x.toInt - y.toInt)) (clampSat (x.toInt - y.toInt)) ∧
    ScalarIs (.min k p d a b) s k 4 d (if x.slt y then x else y) 0 ∧
    ScalarIs (.max k p d a b) s k 4 d (if x.slt y then y else x) 0 ∧
    ScalarIs (.minu k p d a b) s k 4 d (if x.ult y then x else y) 0 ∧
    ScalarIs (.maxu k p d a b) s k 4 d (if x.ult y then y else x) 0 ∧
    ScalarIs (.abs k p d a) s k 4 d (clamp32 x.toInt.natAbs) (clampSat x.toInt.natAbs) ∧
    (∃ n : Nat, n ≤ 32 ∧ x.toNat < 2 ^ (32 - n) ∧ (n < 32 → 2 ^ (31 - n) ≤ x.toNat) ∧
      ScalarIs (.clz k p d a) s k 4 d (BitVec.ofNat 32 n) 0)) ∧
  (∀ (k : Fin 64) (p : Fin 8) (d a b : Fin 32) (s : State), issues s k 4 → predOn s k p →
    let x := sget (coreOf s k) a
    let y := sget (coreOf s k) b
    (y = 0#32 →
      ScalarIs (.div k p d a b) s k 4 d 0#32 2 ∧ ScalarIs (.divu k p d a b) s k 4 d 0#32 2 ∧
      ScalarIs (.rem k p d a b) s k 4 d x 2 ∧ ScalarIs (.remu k p d a b) s k 4 d x 2) ∧
    (x = 0x80000000#32 ∧ y = 0xFFFFFFFF#32 →
      ScalarIs (.div k p d a b) s k 4 d 0x7FFFFFFF#32 16 ∧ ScalarIs (.rem k p d a b) s k 4 d 0#32 0) ∧
    (y ≠ 0#32 →
      (¬(x = 0x80000000#32 ∧ y = 0xFFFFFFFF#32) →
        ScalarIs (.div k p d a b) s k 4 d (x.sdiv y) 0 ∧ ScalarIs (.rem k p d a b) s k 4 d (x.srem y) 0) ∧
      ScalarIs (.divu k p d a b) s k 4 d (x / y) 0 ∧ ScalarIs (.remu k p d a b) s k 4 d (x % y) 0)) ∧
  (∀ (k : Fin 64) (p : Fin 8) (d a n : Fin 32) (imm : BitVec 13) (w : Word) (s : State), predOn s k p →
    let x := sget (coreOf s k) a
    (issues s k 4 →
      ScalarIs (.addi k p d a imm) s k 4 d (x + imm.signExtend 32) 0 ∧
      ScalarIs (.andi k p d a imm) s k 4 d (x &&& imm.setWidth 32) 0 ∧
      ScalarIs (.ori k p d a imm) s k 4 d (x ||| imm.setWidth 32) 0 ∧
      ScalarIs (.xori k p d a imm) s k 4 d (x ^^^ imm.setWidth 32) 0 ∧
      ScalarIs (.shiShl k p d a n) s k 4 d (x <<< n.val) 0 ∧
      ScalarIs (.shiShr k p d a n) s k 4 d (x >>> n.val) 0 ∧
      ScalarIs (.shiSra k p d a n) s k 4 d (x.sshiftRight n.val) 0) ∧
    (issues s k 8 → ScalarIs (.li k p d w) s k 8 d w 0 ∧ ScalarIs (.addx k p d a w) s k 8 d (x + w) 0))

/-- R309, R340, R346: the results of the pair operations; a pair field that names an odd register is an illegal instruction
with subcause 0x02, one that names s0 with subcause 0x04. -/
def Obligations.PairResults : Prop :=
  (∀ (k : Fin 64) (p : Fin 8) (d a b : Fin 32) (s : State), issues s k 4 → predOn s k p → d.val % 2 = 0 → d.val ≠ 0 →
    let c := coreOf s k
    (a.val % 2 = 0 → a.val ≠ 0 → b.val % 2 = 0 → b.val ≠ 0 →
      let x := dget c a
      let y := dget c b
      let n := x.toInt + y.toInt
      PairIs (.add64 k p d a b) s k d (x + y) 0 ∧
      PairIs (.sub64 k p d a b) s k d (x - y) 0 ∧
      PairIs (.adds64 k p d a b) s k d (BitVec.ofInt 64 (max (-(2 ^ 63)) (min (2 ^ 63 - 1) n)))
        (if -(2 ^ 63) ≤ n ∧ n < 2 ^ 63 then 0 else 16)) ∧
    PairIs (.mull k p d a b) s k d ((sget c a).signExtend 64 * (sget c b).signExtend 64) 0 ∧
    PairIs (.mullu k p d a b) s k d ((sget c a).setWidth 64 * (sget c b).setWidth 64) 0) ∧
  (∀ (k : Fin 64) (p : Fin 8) (d a b : Fin 32) (imm : BitVec 13) (age : Fin 64) (s : State), issues s k 4 →
    let base := fetched s k 4
    (d.val % 2 = 1 →
      (∀ i ∈ [Instr.add64 k p d a b, .sub64 k p d a b, .adds64 k p d a b, .mull k p d a b, .mullu k p d a b, .ldd k p d a imm,
        .std k p d a imm, .ldsmp k p d a age, .ldsmpa k p d a b], Raises i s base k 4 2 0#32)) ∧
    (d.val = 0 → a.val % 2 = 0 → b.val % 2 = 0 →
      (∀ i ∈ [Instr.add64 k p d a b, .sub64 k p d a b, .adds64 k p d a b, .mull k p d a b, .mullu k p d a b, .ldd k p d a imm,
        .std k p d a imm, .ldsmp k p d a age, .ldsmpa k p d a b], Raises i s base k 4 4 0#32)))

/-- R312, R347, R348: each FP32 operation writes the value and sets the flags of its function, FMAC over sD too; a computed
NaN is the canonical quiet one; FMIN, FMAX, the conversions and atan2 at their special operands. -/
def Obligations.FloatResults : Prop :=
  (∀ (k : Fin 64) (p : Fin 8) (d a b : Fin 32) (s : State), issues s k 4 → predOn s k p →
    let x := sget (coreOf s k) a
    let y := sget (coreOf s k) b
    let z := sget (coreOf s k) d
    ScalarIs (.fadd k p d a b) s k 4 d (fadd x y).1 (fadd x y).2 ∧
    ScalarIs (.fsub k p d a b) s k 4 d (fsub x y).1 (fsub x y).2 ∧
    ScalarIs (.fmul k p d a b) s k 4 d (fmul x y).1 (fmul x y).2 ∧
    ScalarIs (.fdiv k p d a b) s k 4 d (fdiv x y).1 (fdiv x y).2 ∧
    ScalarIs (.fsqrt k p d a) s k 4 d (fsqrt x).1 (fsqrt x).2 ∧
    ScalarIs (.fmin k p d a b) s k 4 d (fmin x y).1 (fmin x y).2 ∧
    ScalarIs (.fmax k p d a b) s k 4 d (fmax x y).1 (fmax x y).2 ∧
    ScalarIs (.fabs k p d a) s k 4 d (x &&& 0x7FFFFFFF#32) 0 ∧
    ScalarIs (.fneg k p d a) s k 4 d (x ^^^ 0x80000000#32) 0 ∧
    ScalarIs (.fmac k p d a b) s k 4 d (fmac z x y).1 (fmac z x y).2 ∧
    ScalarIs (.fcvtsw k p d a) s k 4 d (fcvtsw x).1 (fcvtsw x).2 ∧
    ScalarIs (.fcvtws k p d a) s k 4 d (fcvtws x).1 (fcvtws x).2 ∧
    ScalarIs (.fcvtsq k p d a) s k 4 d (fcvtsq x).1 (fcvtsq x).2 ∧
    ScalarIs (.fcvtqs k p d a) s k 4 d (fcvtqs x).1 (fcvtqs x).2 ∧
    ScalarIs (.fatan2 k p d a b) s k 4 d (fatan2 x y).1 (fatan2 x y).2 ∧
    ScalarIs (.fhypot k p d a b) s k 4 d (fhypot x y).1 (fhypot x y).2) ∧
  (∀ x y z : Word, ∀ r ∈ [(fadd x y).1, (fsub x y).1, (fmul x y).1, (fdiv x y).1, (fsqrt x).1, (fmac z x y).1, (fmin x y).1,
      (fmax x y).1, (fcvtsw x).1, (fcvtsq x).1], isNan r → r = 0x7FC00000#32) ∧
  (∀ x y : Word,
    (isNan x → isNan y → (fmin x y).1 = 0x7FC00000#32 ∧ (fmax x y).1 = 0x7FC00000#32) ∧
    (isNan x → fcvtws x = (0#32, 1) ∧ fcvtqs x = (0#32, 1)) ∧
    (¬isNan x → (fcvtws x).2 = 0 ∨ (fcvtws x).2 = 1 ∧ ((fcvtws x).1 = 0x7FFFFFFF#32 ∨ (fcvtws x).1 = 0x80000000#32)) ∧
    (¬isNan x → (fcvtqs x).2 = 0 ∨ (fcvtqs x).2 = 16 ∧ ((fcvtqs x).1 = 0x7FFFFFFF#32 ∨ (fcvtqs x).1 = 0x80000000#32)) ∧
    fatan2 0#32 0#32 = (0#32, 0) ∧ fatan2 0x80000000#32 0#32 = (0x80000000#32, 0))

/-- R349 with the rounding of R313: every result saturates, every saturation sets SAT. -/
def Obligations.Q31Results : Prop :=
  ∀ (k : Fin 64) (p : Fin 8) (d a b : Fin 32) (s : State), issues s k 4 → predOn s k p →
    let x := (sget (coreOf s k) a).toInt
    let y := (sget (coreOf s k) b).toInt
    let z := (sget (coreOf s k) d).toInt
    let n := (sget (coreOf s k) b).toNat % 32
    ScalarIs (.qadd k p d a b) s k 4 d (clamp32 (x + y)) (clampSat (x + y)) ∧
    ScalarIs (.qsub k p d a b) s k 4 d (clamp32 (x - y)) (clampSat (x - y)) ∧
    ScalarIs (.qabs k p d a) s k 4 d (clamp32 x.natAbs) (clampSat x.natAbs) ∧
    ScalarIs (.qneg k p d a) s k 4 d (clamp32 (-x)) (clampSat (-x)) ∧
    ScalarIs (.qshl k p d a b) s k 4 d (clamp32 (x * 2 ^ n)) (clampSat (x * 2 ^ n)) ∧
    (∃ r, nearestAway x n r ∧ ScalarIs (.qshr k p d a b) s k 4 d (clamp32 r) (clampSat r)) ∧
    (∃ r, nearestAway (x * y) 31 r ∧
      ScalarIs (.qmul k p d a b) s k 4 d (clamp32 r) (clampSat r) ∧
      ScalarIs (.qmac k p d a b) s k 4 d (clamp32 (z + (clamp32 r).toInt)) (clampSat r ||| clampSat (z + (clamp32 r).toInt)))

/-- R308, R309, R339, R350, R351: the byte a compare, a predicate operation or a move writes to pD; what a register write
does to every register; s0 and p0 are hard-wired. -/
def Obligations.ComparesAndPredicates : Prop :=
  (∀ (k : Fin 64) (p d : Fin 8) (a b : Fin 32) (s : State), issues s k 4 → predOn s k p →
    let x := sget (coreOf s k) a
    let y := sget (coreOf s k) b
    let is := fun (i : Instr) (c : Bool) (fl : Nat) => PredIs i s k p d (if c then 0xFF#8 else 0#8) fl
    is (.ceq k p d a b) (x == y) 0 ∧ is (.cne k p d a b) (x != y) 0 ∧
    is (.clt k p d a b) (x.slt y) 0 ∧ is (.cge k p d a b) (y.sle x) 0 ∧
    is (.cltu k p d a b) (x.ult y) 0 ∧ is (.cgeu k p d a b) (y.ule x) 0 ∧
    is (.ctst k p d a b) (x &&& y != 0#32) 0 ∧ is (.ctstn k p d a b) (x &&& y == 0#32) 0 ∧
    is (.feq k p d a b) (feq x y).1 (feq x y).2 ∧ is (.flt k p d a b) (flt x y).1 (flt x y).2 ∧
    is (.fle k p d a b) (fle x y).1 (fle x y).2 ∧ is (.funord k p d a b) (fun_ x y).1 0 ∧
    (isNan x ∨ isNan y → (feq x y).1 = false ∧ flt x y = (false, 1) ∧ fle x y = (false, 1) ∧ (fun_ x y).1 = true) ∧
    (¬isNan x → ¬isNan y → (feq x y).2 = 0 ∧ (flt x y).2 = 0 ∧ (fle x y).2 = 0 ∧ (fun_ x y).1 = false ∧
      (fle x y).1 = ((flt x y).1 || (feq x y).1))) ∧
  (∀ (k : Fin 64) (p d a b : Fin 8) (e : Fin 32) (s : State), issues s k 4 → predOn s k p →
    let c := coreOf s k
    PredIs (.pand k p d a b) s k p d (pget c a &&& pget c b) 0 ∧
    PredIs (.por k p d a b) s k p d (pget c a ||| pget c b) 0 ∧
    PredIs (.pxor k p d a b) s k p d (pget c a ^^^ pget c b) 0 ∧
    PredIs (.pandn k p d a b) s k p d (pget c a &&& ~~~pget c b) 0 ∧
    PredIs (.pnot k p d a) s k p d (~~~pget c a) 0 ∧
    ScalarIs (.ptos k p e a) s k 4 e ((pget c a).setWidth 32) 0 ∧
    PredIs (.stop k p d e) s k p d ((sget c e).setWidth 8) 0 ∧
    PredIs (.pset k p d e) s k p d (if sget c e = 0#32 then 0#8 else 0xFF#8) 0) ∧
  (∀ (c : CoreSt) (d r : Nat) (w : Word) (x : DWord) (m v : Byte),
    (sget (sset c d w) r = if r = 0 then 0#32 else if r = d then w else sget c r) ∧
    (d % 2 = 0 → d ≠ 0 → dget (dset c d x) d = x ∧ ∀ r, r ≠ d → r ≠ d + 1 → sget (dset c d x) r = sget c r) ∧
    (pget (pset c d m v) r = if r = 0 then 0xFF#8 else if r = d then (pget c d &&& ~~~m) ||| (v &&& m) else pget c r) ∧
    (∀ i j, i < 8 → j < 8 → vget (vset c d i w) r j = if r = d ∧ j = i then w else vget c r j) ∧
    sset c 0 w = c ∧ pset c 0 m v = c)

/-- R356: a VALU operation does the scalar operation in every enabled lane; VFMAC and VQMAC take vD too. -/
def Obligations.VectorArithmeticLanes : Prop :=
  ∀ (k : Fin 64) (p : Fin 8) (d a b : Fin 32) (s : State), issues s k 4 →
    let c := coreOf s k
    let lanes2 := fun (i : Instr) (op : Word → Word → Word × Nat) =>
      LanesAre i s (fetched s k 4) k p 4 (fun r j => if r = d.val then some (op (vget c a j) (vget c b j)).1 else none)
        (laneFlags s k p fun j => (op (vget c a j) (vget c b j)).2)
    let lanes1 := fun (i : Instr) (op : Word → Word × Nat) =>
      LanesAre i s (fetched s k 4) k p 4 (fun r j => if r = d.val then some (op (vget c a j)).1 else none)
        (laneFlags s k p fun j => (op (vget c a j)).2)
    let lanes3 := fun (i : Instr) (op : Word → Word → Word → Word × Nat) =>
      LanesAre i s (fetched s k 4) k p 4
        (fun r j => if r = d.val then some (op (vget c d j) (vget c a j) (vget c b j)).1 else none)
        (laneFlags s k p fun j => (op (vget c d j) (vget c a j) (vget c b j)).2)
    lanes2 (.vadd k p d a b) aluAdd ∧ lanes2 (.vsub k p d a b) aluSub ∧ lanes2 (.vand k p d a b) aluAnd ∧
    lanes2 (.vor k p d a b) aluOr ∧ lanes2 (.vxor k p d a b) aluXor ∧ lanes2 (.vshl k p d a b) aluShl ∧
    lanes2 (.vshr k p d a b) aluShr ∧ lanes2 (.vsra k p d a b) aluSra ∧ lanes2 (.vmul k p d a b) aluMul ∧
    lanes2 (.vmulh k p d a b) aluMulh ∧ lanes2 (.vmulhu k p d a b) aluMulhu ∧ lanes2 (.vadds k p d a b) aluAdds ∧
    lanes2 (.vsubs k p d a b) aluSubs ∧ lanes2 (.vmin k p d a b) aluMin ∧ lanes2 (.vmax k p d a b) aluMax ∧
    lanes2 (.vminu k p d a b) aluMinu ∧ lanes2 (.vmaxu k p d a b) aluMaxu ∧
    lanes2 (.vfadd k p d a b) fadd ∧ lanes2 (.vfsub k p d a b) fsub ∧ lanes2 (.vfmul k p d a b) fmul ∧
    lanes2 (.vfdiv k p d a b) fdiv ∧ lanes1 (.vfsqrt k p d a) fsqrt ∧ lanes2 (.vfmin k p d a b) fmin ∧
    lanes2 (.vfmax k p d a b) fmax ∧ lanes1 (.vfabs k p d a) fabs ∧ lanes1 (.vfneg k p d a) fneg ∧
    lanes3 (.vfmac k p d a b) fmac ∧ lanes1 (.vfcvtsw k p d a) fcvtsw ∧ lanes1 (.vfcvtws k p d a) fcvtws ∧
    lanes1 (.vfcvtsq k p d a) fcvtsq ∧ lanes1 (.vfcvtqs k p d a) fcvtqs ∧ lanes2 (.vfatan2 k p d a b) fatan2 ∧
    lanes2 (.vfhypot k p d a b) fhypot ∧ lanes2 (.vqadd k p d a b) qadd ∧ lanes2 (.vqsub k p d a b) qsub ∧
    lanes2 (.vqmul k p d a b) qmul ∧ lanes3 (.vqmac k p d a b) qmac ∧ lanes1 (.vqabs k p d a) qabs ∧
    lanes1 (.vqneg k p d a) qneg ∧ lanes2 (.vqshl k p d a b) qshl ∧ lanes2 (.vqshr k p d a b) qshr

/-- R356, R357, R373: vector compares, broadcast, extract, insert, move, VBCI and the reductions over the enabled lanes. -/
def Obligations.VectorComparesMovesAndReductions : Prop :=
  (∀ (k : Fin 64) (p d : Fin 8) (a b : Fin 32) (s : State), issues s k 4 →
    let c := coreOf s k
    let is := fun (i : Instr) (op : Word → Word → Bool × Nat) =>
      ∃ v : Byte, (∀ j, j < 8 → laneOn s k p j = true → v.getLsbD j = (op (vget c a j) (vget c b j)).1) ∧
        PredIs i s k p d v (laneFlags s k p fun j => (op (vget c a j) (vget c b j)).2)
    is (.vceq k p d a b) cEq ∧ is (.vcne k p d a b) cNe ∧ is (.vclt k p d a b) cLt ∧ is (.vcge k p d a b) cGe ∧
    is (.vcltu k p d a b) cLtu ∧ is (.vcgeu k p d a b) cGeu ∧ is (.vctst k p d a b) cTst ∧ is (.vctstn k p d a b) cTstn ∧
    is (.vfeq k p d a b) feq ∧ is (.vflt k p d a b) flt ∧ is (.vfle k p d a b) fle ∧ is (.vfun k p d a b) fun_) ∧
  (∀ (k : Fin 64) (p : Fin 8) (d a : Fin 32) (n : Fin 8) (w : Word) (s : State),
    let c := coreOf s k
    (issues s k 4 →
      LanesAre (.vbc k p d a) s (fetched s k 4) k p 4 (fun r _ => if r = d.val then some (sget c a) else none) 0 ∧
      LanesAre (.vmov k p d a) s (fetched s k 4) k p 4 (fun r j => if r = d.val then some (vget c a j) else none) 0 ∧
      LanesAre (.vins k p d a n) s (fetched s k 4) k p 4
        (fun r j => if r = d.val ∧ j = n.val then some (sget c a) else none) 0 ∧
      (laneOn s k p n = true → ScalarIs (.vext k p d a n) s k 4 d (vget c a n) 0) ∧
      (laneOn s k p n = false → CoreIs (.vext k p d a n) s k (stepCore (fetched s k 4) k 4 id))) ∧
    (issues s k 8 → LanesAre (.vbci k p d w) s (fetched s k 8) k p 8 (fun r _ => if r = d.val then some w else none) 0)) ∧
  (∀ (k : Fin 64) (p : Fin 8) (d a : Fin 32) (s : State), issues s k 4 →
    let c := coreOf s k
    let ls := ((List.range 8).filter fun j => laneOn s k p j).map (vget c a)
    let l := vget c a
    let q := ls.foldl (fun (r : Word × Nat) w => ((qadd r.1 w).1, r.2 ||| (qadd r.1 w).2)) (0#32, 0)
    ScalarIs (.vsumi k p d a) s k 4 d (BitVec.ofNat 32 (ls.map BitVec.toNat).sum) 0 ∧
    ScalarIs (.vsumq k p d a) s k 4 d q.1 q.2 ∧
    (∃ r f, ScalarIs (.vsumf k p d a) s k 4 d r f ∧ ScalarIs (.vmaxf k p d a) s k 4 d (maxF c (pget c p) a).1 (maxF c (pget c p) a).2 ∧
      (ls = [] → r = 0#32 ∧ f = 0 ∧ maxF c (pget c p) a = (0#32, 0)) ∧
      (∀ w, ls = [w] → r = w ∧ f = 0 ∧ maxF c (pget c p) a = fmax w w) ∧
      (pget c p = 0xFF#8 →
        r = (fadd (fadd (fadd (l 0) (l 1)).1 (fadd (l 2) (l 3)).1).1 (fadd (fadd (l 4) (l 5)).1 (fadd (l 6) (l 7)).1).1).1)))

/-- R352 to R354, R373: the loads, each at its address and with its extension; a guarded load of a pair that does not agree
raises a guard fault with the address and writes no register. -/
def Obligations.LoadResults : Prop :=
  (∀ (k : Fin 64) (p : Fin 8) (d a : Fin 32) (imm : BitVec 13) (w : Word) (s : State), predOn s k p →
    let c := coreOf s k
    let x := addrOf 0#32 c a (imm.signExtend 32)
    let xi := addrOf c.ib c a (imm.signExtend 32)
    let xw := addrOf 0#32 c a w
    (x < 2 ^ 32 → x = (sget c a + imm.signExtend 32).toNat) ∧ (xi < 2 ^ 32 → xi = (c.ib + sget c a + imm.signExtend 32).toNat) ∧
    (xw < 2 ^ 32 → xw = (sget c a + w).toNat) ∧
    (issues s k 4 →
      (canRead s k x 4 → LoadIs (.ldw k p d a imm) s k 4 d x 4 (rd32 s x)) ∧
      (canRead s k x 2 → LoadIs (.ldh k p d a imm) s k 4 d x 2 ((rdByte s (x + 1) ++ rdByte s x).signExtend 32) ∧
        LoadIs (.ldhu k p d a imm) s k 4 d x 2 ((rdByte s (x + 1) ++ rdByte s x).setWidth 32)) ∧
      (canRead s k x 1 → LoadIs (.ldb k p d a imm) s k 4 d x 1 ((rdByte s x).signExtend 32) ∧
        LoadIs (.ldbu k p d a imm) s k 4 d x 1 ((rdByte s x).setWidth 32)) ∧
      (canRead s k x 8 → d.val % 2 = 0 → d.val ≠ 0 →
        CoreIs (.ldd k p d a imm) s k (stepCore (readAt s k 4 x 8) k 4 fun c => dset c d (rd32 s (x + 4) ++ rd32 s x))) ∧
      (canRead s k xi 4 → LoadIs (.ldwi k p d a imm) s k 4 d xi 4 (rd32 s xi))) ∧
    (issues s k 8 → canRead s k xw 4 → LoadIs (.ldwx k p d a w) s k 8 d xw 4 (rd32 s xw))) ∧
  (∀ (k : Fin 64) (p : Fin 8) (d a : Fin 32) (imm : BitVec 13) (s : State), issues s k 4 → predOn s k p →
    let c := coreOf s k
    let x := addrOf 0#32 c a (imm.signExtend 32)
    let xi := addrOf c.ib c a (imm.signExtend 32)
    let is := fun (i : Instr) (x : Nat) => canRead s k x 8 →
      (rd32 s (x + 4) = ~~~rd32 s x → LoadIs i s k 4 d x 8 (rd32 s x)) ∧
      (rd32 s (x + 4) ≠ ~~~rd32 s x → Raises i s (readAt s k 4 x 8) k 1 1 (BitVec.ofNat 32 x))
    is (.ldg k p d a imm) x ∧ is (.ldgi k p d a imm) xi)

/-- R305, R352, R354, R373, R401, R548: each store writes its bytes at its address; a byte of a forced variable keeps its
value, no byte elsewhere changes; a captured line still to be sent is first copied, as it was, to its place in the
snapshot area. -/
def Obligations.StoreResults : Prop :=
  (∀ (k : Fin 64) (p : Fin 8) (d a : Fin 32) (imm : BitVec 13) (w : Word) (s : State), predOn s k p →
    let c := coreOf s k
    let x := addrOf 0#32 c a (imm.signExtend 32)
    let xi := addrOf c.ib c a (imm.signExtend 32)
    let xw := addrOf 0#32 c a w
    let v := sget c d
    let bs := fun (v : Word) => [v.extractLsb' 0 8, v.extractLsb' 8 8, v.extractLsb' 16 8, v.extractLsb' 24 8]
    (issues s k 4 →
      (canWrite s k x 4 → StoreIs (.stw k p d a imm) s k 4 x (bs v)) ∧
      (canWrite s k x 2 → StoreIs (.sth k p d a imm) s k 4 x ((bs v).take 2)) ∧
      (canWrite s k x 1 → StoreIs (.stb k p d a imm) s k 4 x ((bs v).take 1)) ∧
      (canWrite s k x 8 → d.val % 2 = 0 → d.val ≠ 0 → StoreIs (.std k p d a imm) s k 4 x (bs v ++ bs (sget c (d.val + 1)))) ∧
      (canWrite s k x 8 → StoreIs (.stg k p d a imm) s k 4 x (bs v ++ bs (~~~v))) ∧
      (canWrite s k xi 4 → StoreIs (.stwi k p d a imm) s k 4 xi (bs v)) ∧
      (canWrite s k xi 8 → StoreIs (.stgi k p d a imm) s k 4 xi (bs v ++ bs (~~~v)))) ∧
    (issues s k 8 → canWrite s k xw 4 → StoreIs (.stwx k p d a w) s k 8 xw (bs v))) ∧
  (∀ (s : State) (a : Nat) (bs : List Byte), memOk s → bs.length ≤ 64 → (∀ e ∈ s.mir.unsent, s.now < e.2.2 → e.1 ∉ linesOf a bs.length) →
    let t := coreStore s a bs
    memOk t ∧
    (∀ i, i < bs.length → rdByte t (a + i) = if forcedByte s (a + i) then rdByte s (a + i) else (bs[i]?).getD 0#8) ∧
    (∀ x, x < a ∨ a + bs.length ≤ x → rdByte t x = rdByte s x) ∧
    (∀ l ∈ linesOf a bs.length, tracked l = true → l ∈ t.pcx.dirty) ∧
    (∀ l ∈ s.pcx.dirty, l ∈ t.pcx.dirty) ∧
    { t with mem := s.mem, ecc := s.ecc, pcx := { t.pcx with dirty := s.pcx.dirty }, tsk := { t.tsk with carry := s.tsk.carry },
             mir := { t.mir with unsent := s.mir.unsent } } = s) ∧
  (∀ (s : State) (l i t a : Nat) (bs : List Byte), s.mir.unsent = [(l, i, t)] → s.now < t → l ∈ linesOf a bs.length →
    let snap := fld (forceOf s R.mirSnap) 31 20 * 0x100000 + 64 * i
    (snap + 64 ≤ a ∨ a + bs.length ≤ snap) → dmaMay s (dmaTag s 0x16 none) .write snap 64 →
    let s' := wrBytes s a bs
    s'.mir.unsent = [] ∧ ∀ j, j < 64 → rdByte s' (snap + j) = rdByte s (l * 64 + j))

/-- R37, R304, R339, R353, R355: VLD and VST move the enabled lanes' words, with predicate 0 there is no access; a data
access that is misaligned, meets a register window, writes a code bank or is refused by the regions raises an access
violation with its subcause and moves no data. -/
def Obligations.VectorAndRefusedAccesses : Prop :=
  (∀ (k : Fin 64) (p : Fin 8) (d a : Fin 32) (imm : BitVec 13) (s : State), issues s k 4 →
    let c := coreOf s k
    let x := addrOf 0#32 c a (imm.signExtend 32)
    (pget c p = 0#8 → CoreIs (.vld k p d a imm) s k (stepCore (fetched s k 4) k 4 id) ∧
      CoreIs (.vst k p d a imm) s k (stepCore (fetched s k 4) k 4 id)) ∧
    (pget c p ≠ 0#8 → canRead s k x 32 →
      LanesAre (.vld k p d a imm) s (readAt s k 4 x 32) k p 4 (fun r j => if r = d.val then some (rd32 s (x + 4 * j)) else none) 0) ∧
    (pget c p ≠ 0#8 → canWrite s k x 32 →
      CoreIs (.vst k p d a imm) s k (stepCore
        ((List.range 8).foldl (fun u j => if laneOn s k p j then coreStore u (x + 4 * j) (leBytes 4 (vget c d j).toNat) else u)
          (fetched s k 4)) k 4 id))) ∧
  (∀ (k : Fin 64) (p : Fin 8) (d a : Fin 32) (imm : BitVec 13) (s : State), issues s k 4 → predOn s k p →
    let c := coreOf s k
    let x := addrOf 0#32 c a (imm.signExtend 32)
    let tag := coreTag k c.pid
    let base := fetched s k 4
    let w := BitVec.ofNat 32 x
    (x % 4 ≠ 0 → Raises (.ldw k p d a imm) s base k 3 4 w ∧ Raises (.stw k p d a imm) s base k 3 4 w) ∧
    (x % 8 ≠ 0 → Raises (.ldg k p d a imm) s base k 3 4 w ∧ Raises (.stg k p d a imm) s base k 3 4 w) ∧
    (x % 4 = 0 → x < 2 ^ 32 → inRegs x = true →
      Raises (.ldw k p d a imm) s (violate base tag false x 7) k 3 7 w ∧
      Raises (.stw k p d a imm) s (violate base tag true x 7) k 3 7 w) ∧
    (x % 4 = 0 → x < 2 ^ 32 → inRegs x = false → inCodeBank x = true → Raises (.stw k p d a imm) s (violate base tag true x 5) k 3 3 w) ∧
    (x % 4 = 0 → 2 ^ 32 ≤ x → Raises (.ldw k p d a imm) s base k 3 7 w ∧ Raises (.stw k p d a imm) s base k 3 7 w) ∧
    (x % 4 = 0 → x < 2 ^ 32 → inRegs x = false → eccOf s x 4 ≥ 2 → memDenied s tag .read x = none →
      Raises (.ldw k p d a imm) s (readAt s k 4 x 4) k 3 6 w) ∧
    (∀ kd, x % 4 = 0 → x < 2 ^ 32 → inRegs x = false → memDenied s tag .read x = some kd →
      Raises (.ldw k p d a imm) s (violate base tag false x kd) k 3 1 w) ∧
    (∀ kd, x % 4 = 0 → x < 2 ^ 32 → inRegs x = false → inCodeBank x = false → memDenied s tag .write x = some kd →
      Raises (.stw k p d a imm) s (violate base tag true x kd) k 3 1 w))

/-- R359, R360: sample, phasor and group loads: zeros where the rule says zeros, else the entry or record at its address,
with the T check in pt. -/
def Obligations.SampleLoadResults : Prop :=
  ∀ (k : Fin 64) (p : Fin 8) (d a b : Fin 32) (pt : Fin 8) (age : Fin 64) (s : State), issues s k 4 → d.val % 2 = 0 →
    let c := coreOf s k
    let n := (sget c a).toNat
    let depth := 16 * 2 ^ fld c.smpBase 1 0
    let rel := c.relT - BitVec.ofNat 32 age.val
    let tb := sget c b
    let smp := fun (slot : Nat) (t : Word) => fld c.smpBase 31 16 * 65536 + slot * 8 * depth + t.toNat % depth * 8
    let rec_ := fun (base : Word) (t : Word) => fld base 31 16 * 65536 + n * 256 + t.toNat % 4 * 64
    let zeros := fun (i : Instr) => LanesAre i s (fetched s k 4) k p 4 (fun r _ => if r = d.val ∨ r = d.val + 1 then some 0#32 else none) 0
    let pair := fun (i : Instr) (x : Nat) => canRead s k x 8 →
      CoreIs i s k (stepCore (readAt s k 4 x 8) k 4 fun c => sset (sset c d (rd32 s x)) (d.val + 1) (rd32 s (x + 4)))
    let record := fun (i : Instr) (x : Nat) (t : Word) => canRead s k x 64 →
      CoreAnswers i s k fun u =>
        u = setCore (readAt s k 4 x 64) k (coreOf u k) ∧ (coreOf u k).pc = c.pc + 4 ∧ (coreOf u k).sreg = c.sreg ∧
        (∀ j, j < 8 → laneOn s k p j = true →
          vget (coreOf u k) d j = rd32 s (x + 4 * j) ∧ vget (coreOf u k) (d.val + 1) j = rd32 s (x + 32 + 4 * j)) ∧
        (∀ j, j < 8 → laneOn s k p j = false →
          vget (coreOf u k) d j = vget c d j ∧ vget (coreOf u k) (d.val + 1) j = vget c (d.val + 1) j) ∧
        pget (coreOf u k) pt = pget (pset c pt (pget c p) (if rd32 s (x + 4) = t then 0xFF#8 else 0#8)) pt
    (predOn s k p → d.val ≠ 0 →
      ((c.relT = 0xFFFFFFFF#32 ∨ depth ≤ age.val) →
        CoreIs (.ldsmp k p d a age) s k (stepCore (fetched s k 4) k 4 fun c => sset (sset c d 0#32) (d.val + 1) 0#32)) ∧
      (c.relT ≠ 0xFFFFFFFF#32 → age.val < depth → n ≤ 8191 → pair (.ldsmp k p d a age) (smp n rel)) ∧
      (n ≤ 8191 → pair (.ldsmpa k p d a b) (smp n tb)) ∧
      (8191 < n → Raises (.ldsmpa k p d a b) s (fetched s k 4) k 3 1 0#32)) ∧
    (pget c p ≠ 0#8 →
      ((c.relT = 0xFFFFFFFF#32 ∨ depth ≤ age.val) → zeros (.vldsmp k p d a age)) ∧
      (c.relT ≠ 0xFFFFFFFF#32 → age.val < depth → n ≤ 8184 →
        (∀ j, j < 8 → laneOn s k p j = true → cleanRead s k (smp (n + j) rel) 8) →
        LanesAre (.vldsmp k p d a age) s (fetched s k 4) k p 4 (fun r j => if r = d.val then some (rd32 s (smp (n + j) rel))
          else if r = d.val + 1 then some (rd32 s (smp (n + j) rel + 4)) else none) 0) ∧
      (c.relT ≠ 0xFFFFFFFF#32 → age.val < 4 → n ≤ 8191 → record (.ldph k p d a pt age) (rec_ c.phBase rel) rel) ∧
      (n ≤ 8191 → record (.ldpha k p d a b pt) (rec_ c.phBase tb) tb) ∧
      (c.relT ≠ 0xFFFFFFFF#32 → age.val < 4 → n ≤ 255 → record (.ldgr k p d a pt age) (rec_ c.agBase rel) rel) ∧
      (n ≤ 255 → record (.ldgra k p d a b pt) (rec_ c.agBase tb) tb))

/-- R362 to R365: the timers and edge detectors on a record in the core's own data bank: what sD becomes and what is stored;
how TMR advances a record. -/
def Obligations.TimersAndEdges : Prop :=
  (∀ (k : Fin 64) (p : Fin 8) (d a b : Fin 32) (ofs : Fin 64) (s : State), issues s k 4 → predOn s k p →
    let c := coreOf s k
    let r := c.ib.toNat + 8 * ofs.val
    let inp := sget c a != 0#32
    let pt := (sget c b).toNat
    let old := rdTimer s r
    let adv := tmrAdvance old inp c.rt
    let due := decide (pt * fsOf s ≤ adv.elapsed * 1000000)
    let st := rd32 s (r + 4)
    let primed := bit st 1
    let prev := bit st 0
    let tmr := fun (i : Instr) (q run : Bool) (el : Nat) =>
      CoreIs i s k (stepCore (coreStore (fetched s k 4) (r + 4) (timerBytes { adv with q := q, run := run, elapsed := el, prev := inp }))
        k 4 fun c => sset c d (if q then 1#32 else 0#32))
    let edge := fun (i : Instr) (q : Bool) =>
      CoreIs i s k (stepCore (coreStore (fetched s k 4) (r + 4) (leBytes 4 (if inp then 3 else 2))) k 4
        fun c => sset c d (if q then 1#32 else 0#32))
    (dataBase k ≤ r → r + 16 ≤ coreBase (k.val + 1) →
      (∀ x ∈ [r, r + 8], cleanRead s k x 8 ∧ canWrite s k x 8) →
      (inp = false → tmr (.tmrTon k p d a b ofs) false false 0) ∧
      (inp = true → adv.run = false → tmr (.tmrTon k p d a b ofs) (pt == 0) true 0) ∧
      (inp = true → adv.run = true → tmr (.tmrTon k p d a b ofs) due true adv.elapsed) ∧
      (inp = true → tmr (.tmrTof k p d a b ofs) true false 0) ∧
      (inp = false → adv.q = true → adv.run = false → tmr (.tmrTof k p d a b ofs) (pt != 0) true 0) ∧
      (inp = false → adv.q = true → adv.run = true →
        tmr (.tmrTof k p d a b ofs) (!due) (!due) adv.elapsed) ∧
      (inp = false → adv.q = false → tmr (.tmrTof k p d a b ofs) false adv.run adv.elapsed) ∧
      (adv.run = false → inp = true → adv.prev = false → tmr (.tmrTp k p d a b ofs) (pt != 0) true 0) ∧
      (adv.run = false → (inp = false ∨ adv.prev = true) → tmr (.tmrTp k p d a b ofs) adv.q false adv.elapsed) ∧
      (adv.run = true → tmr (.tmrTp k p d a b ofs) (if due then false else adv.q) (!due) adv.elapsed)) ∧
    (dataBase k ≤ r → r + 8 ≤ coreBase (k.val + 1) → cleanRead s k r 8 → canWrite s k r 8 →
      edge (.edgeRising k p d a ofs) (primed && inp && !prev) ∧ edge (.edgeFalling k p d a ofs) (primed && prev && !inp) ∧
      edge (.edgeEither k p d a ofs) (primed && (inp != prev)))) ∧
  (∀ (r : Timer) (inp : Bool) (rt : Word),
    (r.init = false → tmrAdvance r inp rt = { init := true, prev := inp, q := false, run := false, elapsed := 0, last := rt }) ∧
    (r.init = true →
      let dt := if (rt - r.last).toNat < 2 ^ 31 then (rt - r.last).toNat else 0
      let el := if r.run = false then r.elapsed else if r.elapsed + dt < 2 ^ 32 then r.elapsed + dt else 2 ^ 32 - 1
      tmrAdvance r inp rt = { r with last := rt, elapsed := el }) ∧
    (r.elapsed < 2 ^ 32 → tmrAdvance (tmrAdvance r inp rt) inp rt = tmrAdvance r inp rt))

/-- R302, R304, R320, R368, R371: branches and jumps, taken, not taken, with a target outside the bank; TEND, and a return
at depth 0, retire the run. -/
def Obligations.JumpsAndRunEnds : Prop :=
  (∀ (k : Fin 64) (p : Fin 8) (n : Bool) (ofs : BitVec 22) (a : Fin 32) (s : State), issues s k 4 →
    let c := coreOf s k
    let x := (c.pc : Int) + 4 * ofs.toInt
    let j := 4 * (sget c a).toNat
    let base := fetched s k 4
    let cond := (pget c p).getLsbD 0 != n
    (cond = false → CoreIs (.br k p n ofs) s k (stepCore base k 4 id)) ∧
    (cond = true → 0 ≤ x → x < 0x10000 → CoreIs (.br k p n ofs) s k (modCore base k fun c => { c with pc := x.toNat })) ∧
    (cond = true → (x < 0 ∨ 0x10000 ≤ x) → Raises (.br k p n ofs) s base k 3 2 0#32) ∧
    (predOn s k p → j < 0x10000 → CoreIs (.jr k p a) s k (modCore base k fun c => { c with pc := j })) ∧
    (predOn s k p → 0x10000 ≤ j → Raises (.jr k p a) s base k 3 2 0#32)) ∧
  (∀ (k : Fin 64) (p : Fin 8) (s : State), issues s k 4 → predOn s k p → (coreOf s k).refused = [] →
    let c := coreOf s k
    let done := fun (t : State) => (coreOf t k).mode = .idle ∧ (taskOf t c.task).running = false ∧ (taskOf t c.task).retired = true ∧
      mget 0 t.pcx.aborts c.task = 0 ∧ liveOf t (R.coreCyc k) = BitVec.ofNat 32 (s.now - c.began)
    CoreAnswers (.tend k p) s k (fun t => done t ∧ t.mem = s.mem) ∧
    (c.frames = [] → canRead s k (c.ib.toNat + 10) 2 → canWrite s k (c.ib.toNat + 10) 2 → CoreAnswers (.fret k p) s k done))

/-- R320, R322: a call whose checks pass pushes the frame and enters the child, the return brings the caller back; a frame
spilled and refilled is the frame it was. -/
def Obligations.CallsAndReturns : Prop :=
  (∀ (k : Fin 64) (p : Fin 8) (a : Fin 32) (imm : Byte) (s : State), issues s k 4 → predOn s k p → fetched s k 4 = s →
    let c := coreOf s k
    let cb := codeBase k c.bank
    let i := (sget c a).toNat + imm.toNat
    let e := cb + rd16 s (cb + c.desc + 0xA) + 8 * i
    let d := rd16 s e
    let ib1 := c.ib.toNat + (rd32 s (e + 4)).toNat
    let f : Frame := { pc := c.pc + 4, ib := c.ib, desc := c.desc }
    let own := cleanRead s k (cb + c.desc) 8 ∧ cleanRead s k (cb + c.desc + 8) 8
    let checks := i < (rdByte s (cb + c.desc + 8)).toNat ∧ d % 16 = 0 ∧ (∀ j ∈ [0xD, 0xE, 0xF], rdByte s (cb + d + j) = 0#8) ∧
      16 ≤ (rd32 s (e + 4)).toNat ∧ (rd32 s (e + 4)).toNat + rd16 s (cb + d + 6) ≤ rd16 s (cb + c.desc + 6) ∧
      dataBase k ≤ ib1 ∧ ib1 < coreBase (k.val + 1) ∧ rd32 s (ib1 + 4) = rd32 s (cb + d) ∧
      cleanRead s k e 8 ∧ cleanRead s k (cb + d) 8 ∧ cleanRead s k (cb + d + 8) 8 ∧ cleanRead s k (ib1 + 4) 4
    let entry := rd16 s (cb + d + 4)
    (own → checks → entry < 16384 → c.frames.length < 16 →
      CoreAnswers (.fcall k p a imm) s k fun t =>
        coreOf t k = { c with ib := BitVec.ofNat 32 ib1, desc := d, pc := entry * 4, frames := f :: c.frames } ∧
        { t with pcx := s.pcx, live := s.live } = s) ∧
    (own → checks → entry < 16384 → c.frames.length = 16 → c.spillPtr + 8 ≤ c.spillEnd → canWrite s k c.spillPtr 8 →
      CoreAnswers (.fcall k p a imm) s k fun t =>
        (coreOf t k).frames = f :: c.frames.dropLast ∧ (coreOf t k).spilled = c.spilled + 1 ∧
        (coreOf t k).spillPtr = c.spillPtr + 8 ∧ (coreOf t k).ib = BitVec.ofNat 32 ib1 ∧ (coreOf t k).desc = d) ∧
    (own → checks → entry < 16384 → c.frames.length = 16 → c.spillEnd < c.spillPtr + 8 → Raises (.fcall k p a imm) s s k 3 5 0#32) ∧
    (own → checks → 16384 ≤ entry → Raises (.fcall k p a imm) s s k 3 2 0#32) ∧
    (own → (rdByte s (cb + c.desc + 8)).toNat ≤ i → Raises (.fcall k p a imm) s s k 4 0x10 0#32) ∧
    (∀ g fs, c.frames = g :: fs → (fs ≠ [] ∨ c.spilled = 0) → cleanRead s k (c.ib.toNat + 10) 2 →
      rd16 s (c.ib.toNat + 10) % 2 = 0 →
      (g.pc < 0x10000 → CoreIs (.fret k p) s k (setCore s k { c with pc := g.pc, ib := g.ib, desc := g.desc, frames := fs })) ∧
      (0x10000 ≤ g.pc → Raises (.fret k p) s s k 3 2 0#32))) ∧
  (∀ (k : Fin 64) (f : Frame), f.pc % 4 = 0 → f.pc < 0x10000 → f.desc < 0x10000 → dataBase k ≤ f.ib.toNat →
    f.ib.toNat < coreBase (k.val + 1) → wordFrame k (frameWord k f) = f)

/-- R310, R366, R370 to R372: RDSR gives each special register, WRSR writes FPSTAT and no other; FENCE, EVSIG, NPOST and
OPF. -/
def Obligations.SpecialRegistersAndSignals : Prop :=
  (∀ (k : Fin 64) (p : Fin 8) (d a : Fin 32) (s : State), issues s k 4 →
    let c := coreOf s k
    let rd := fun (n : Fin 16) (v : Word) => ScalarIs (.rdsr k p d n) s k 4 d v 0
    (predOn s k p →
      rd 0 (BitVec.ofNat 32 k.val) ∧ rd 1 (BitVec.ofNat 32 (k.val / 8)) ∧ rd 2 (BitVec.ofNat 32 c.pid) ∧
      rd 3 (BitVec.ofNat 32 c.task) ∧ rd 4 (BitVec.ofNat 32 s.time.tick) ∧ rd 5 (BitVec.ofNat 32 (s.time.tickSec % 65536)) ∧
      rd 6 c.relG ∧ rd 7 c.relN ∧ rd 8 c.relT ∧ rd 9 (BitVec.ofNat 32 (s.now - c.began)) ∧
      rd 10 (BitVec.ofNat 32 (c.deadline - s.now)) ∧ rd 11 c.fpstat ∧ rd 12 c.ib ∧ rd 13 (BitVec.ofNat 32 c.desc) ∧
      rd 15 (BitVec.ofNat 32 c.startCode) ∧
      (c.spilled + c.frames.length < 65536 → rd 14 (BitVec.ofNat 32 (c.spilled * 65536 + (c.spilled + c.frames.length)))) ∧
      CoreIs (.wrsr k p a 11) s k (stepCore (fetched s k 4) k 4 fun c' => { c' with fpstat := sget c a })) ∧
    (∀ n : Fin 16, n ≠ 11 → Raises (.wrsr k p a n) s (fetched s k 4) k 4 3 0#32)) ∧
  (∀ (k : Fin 64) (p : Fin 8) (d a : Fin 32) (e : Fin 16) (cls : Fin 4) (code : Byte) (imm : BitVec 12) (s : State),
    issues s k 4 → predOn s k p →
    let c := coreOf s k
    let base := fetched s k 4
    let f := (sget c a).toNat + imm.toNat
    let w : Word := BitVec.ofNat 32 ((if sget c d = 0#32 then 0 else 2 ^ 31) + f)
    let sent := flagWord base (~~~w ++ w) c.pid (.core k.val)
    CoreIs (.fence k p) s k (stepCore base k 4 id) ∧
    CoreIs (.evsig k p e) s k (stepCore (fireEvent base 0 e.val none (some c.pid)) k 4 id) ∧
    (code.toNat < 0xF0 →
      CoreIs (.npost k p a cls code) s k (stepCore (hnqPost base c.pid cls.val 0x0C code.toNat (sget c a).toNat) k 4 id)) ∧
    (0xF0 ≤ code.toNat → Raises (.npost k p a cls code) s base k 4 1 0#32) ∧
    (4095 < f → Raises (.opf k p d a imm) s base k 3 1 0#32) ∧
    (f ≤ 4095 → CoreIs (.opf k p d a imm) s k (stepCore sent.1 k 4 fun c' => if sent.2 then c' else { c' with refused := c'.refused ++ [c.pc] })))

/-- R304, R309, R339, R340, R342: a scalar instruction whose predicate bit 0 is 0 only passes; what is raised before an
instruction executes; a core that runs nothing executes nothing (the model's reading: log entry 105). -/
def Obligations.FetchPredicateAndIdle : Prop :=
  (∀ (k : Fin 64) (p : Fin 8) (d a b : Fin 32) (imm : BitVec 13) (w : Word) (i12 : BitVec 12) (e : Fin 16) (ofs : Fin 64) (s : State),
    (pget (coreOf s k) p).getLsbD 0 = false →
    (issues s k 4 →
      (∀ i ∈ [Instr.add k p d a b, .div k p d a b, .addi k p d a imm, .fadd k p d a b, .qmac k p d a b, .ceq k p p a b, .pand k p p p p,
          .ldw k p d a imm, .stw k p d a imm, .ldg k p d a imm, .stg k p d a imm, .tmrTon k p d a b ofs, .edgeRising k p d a ofs,
          .opf k p d a i12, .jr k p a, .fcall k p a 0#8, .fret k p, .rdsr k p d e, .wrsr k p a 11, .tend k p, .fence k p,
          .evsig k p e, .npost k p a 0 0#8], CoreIs i s k (stepCore (fetched s k 4) k 4 id))) ∧
    (issues s k 8 → ∀ i ∈ [Instr.li k p d w, .addx k p d a w, .ldwx k p d a w, .stwx k p d a w],
      CoreIs i s k (stepCore (fetched s k 8) k 8 id))) ∧
  (∀ (k : Fin 64) (p : Fin 8) (d a b : Fin 32) (w : Word) (s : State),
    let c := coreOf s k
    (c.mode = .run → c.cutAt = none → 0x10000 ≤ c.pc →
      ∀ i ∈ [Instr.add k p d a b, .vadd k p d a b, .undefinedEncoding k 0#32], exec i s = .next (excAfter s s k 3 2 0#32)) ∧
    (issues s k 4 → 0x10000 ≤ c.pc + 4 → spells (.li k p d w) 0 (rd32 s (fetchAddr s k c.pc)) = true →
      exec (.li k p d w) s = .next (excAfter s (fetched s k 4) k 3 2 0#32)) ∧
    (issues s k 4 →
      Raises (.undefinedEncoding k 0#32) s (fetched s k 4) k 4 1 0#32 ∧
      (∀ w, fld w 31 26 ∈ [0x00, 0x0D, 0x0E, 0x0F, 0x2F, 0x38, 0x39, 0x3A, 0x3B, 0x3C, 0x3D, 0x3E] →
        Raises (.undefinedEncoding k w) s (fetched s k 4) k 4 1 0#32) ∧
      (∀ w, fld w 31 26 = 0x31 → (fld w 22 18 ≠ 0 ∨ fld w 12 0 ≠ 0) → Raises (.undefinedEncoding k w) s (fetched s k 4) k 4 2 0#32) ∧
      (∀ w, fld w 31 26 = 0x35 → fld w 22 18 = 0 → fld w 12 4 = 0 → fld w 3 0 ≠ 0xB →
        Raises (.undefinedEncoding k w) s (fetched s k 4) k 4 3 0#32)) ∧
    exec (.undefinedEncoding k 0x08000000#32) s = .next s) ∧
  (∀ (k : Fin 64) (p : Fin 8) (d a b : Fin 32) (imm : BitVec 13) (w : Word) (s : State),
    ∀ i ∈ [Instr.add k p d a b, .fadd k p d a b, .qadd k p d a b, .ldw k p d a imm, .stw k p d a imm, .vadd k p d a b, .li k p d w,
      .jr k p a, .fret k p, .tend k p, .undefinedEncoding k w],
      ((coreOf s k).mode ≠ .run → exec i s = .next s) ∧
      (issues s k 4 → spells i 0 (rd32 s (fetchAddr s k (coreOf s k).pc)) = false → exec i s = .next s))

/-- R325 to R328, R331: an exception whose reaction is ABORT_RUN, at a core whose record is empty: the record, the count,
the event, and the run is over; memory stays as it was. -/
def Obligations.ExceptionRecordsAndEndsRun : Prop :=
  ∀ (k : Fin 64) (s : State) (code sub : Nat) (pc addr : Word), (coreOf s k).mode = .run → 1 ≤ code → code ≤ 4 → sub < 256 →
    (coreOf s k).pid < 32 → (coreOf s k).task < 512 → liveOf s (R.coreExc k) = 0#32 → (coreOf s k).refused = [] →
    reactionOf s (coreOf s k).pid code = 0 → fld (forceOf s (R.pcxExcCfg (coreOf s k).pid)) 15 8 = 0 →
    let c := coreOf s k
    let t := takeExc s k code sub pc addr false
    liveOf t (R.coreExc k) = BitVec.ofNat 32 (2 ^ 31 + code * 2 ^ 24 + sub * 2 ^ 16 + c.pid * 2 ^ 9 + c.task) ∧
    liveOf t (R.coreExcPc k) = pc ∧ liveOf t (R.coreExcAddr k) = addr ∧ liveOf t (R.coreExcT k) = c.relT ∧
    evt t R.pcxEvt 0 = true ∧ (coreOf t k).mode = .idle ∧ (taskOf t c.task).running = false ∧ t.mem = s.mem ∧
    mget 0 t.pcx.aborts c.task = mget 0 s.pcx.aborts c.task + (if c.excDone then 0 else 1)

/-- R140, R144, R147, R153, R155, R156, R158: a command at a register that is refused is a violation and nothing else: a bus error, counted and,
with none logged yet, logged; registers, memory and every block but PART and the ALM stay as they were. -/
def Obligations.RefusedCommandsAreViolations : Prop :=
  (∀ (s : State) (t : Tag) (wr : Bool) (k kind : Nat),
    let u := busError s t wr k kind
    u.bus = 0#32 ∧ u.busErr = true ∧ u.part.owners = s.part.owners ∧ u.part.draft = s.part.draft ∧
      fld (liveOf u R.partAvCount) 15 0 = min 0xFFFF (fld (liveOf s R.partAvCount) 15 0 + 1) ∧
      (evt s R.partEvt 0 = false → evt u R.partEvt 0 = true ∧ liveOf u R.partAvInfo = avInfo t wr kind) ∧
      { u with bus := s.bus, busErr := s.busErr, live := s.live, alm := s.alm, part := s.part } = s) ∧
  ∀ (a : Acc) (s : State) (w : Word) (h : Half) (v : Bool) (b25 : Fin 25) (m4 : Fin 4) (m5 : Fin 5) (m2 q2 : Fin 2) (p32 : Fin 32)
    (n2 : Fin 2) (o b1 b2 : Fin 256) (rk n8 : Fin 8) (pos : Fin 4) (t16 : Fin 16) (sg : Fin 4096) (c : Fin 1024) (k64 : Fin 64) (acc : Fin 6)
    (kind : Nat),
    let refused := fun (i : Instr) (k : Nat) (wr : Bool) =>
      regDenied s (accTag s a) k wr = some kind → exec i s = .next (busError s (accTag s a) wr k kind)
    refused (.commit a b25 h) (R.base b25 + 0xFFE4) true ∧ refused (.commitCancel a b25) (R.base b25 + 0xFFE4) true ∧
    refused (.softwareReset a) R.sysRstReq true ∧ refused (.opsecRead a) R.pwrOpsecLo false ∧
    (∀ i ∈ [Instr.verify a, .hash a, .keyLoad a, .transfer a, .keyClear a, .keyGen a, .keyDelete a, .importOpen a, .importApply a, .attest a,
      .nonce a, .lcTransition a, .svnAdvance a, .fuseKeyAdd a, .fuseKeyRevoke a, .provision a, .lcStatus a], refused i R.trustCmd true) ∧
    refused (.watchdogKick a w) R.trustWdogKick true ∧
    refused (.assign a t16 p32) R.partMedCmd true ∧ refused (.release a t16) R.partMedCmd true ∧
    refused (.hnqPop a p32) (R.hnqPop p32) false ∧ refused (.hnqPopTag a p32) (R.hnqPopTag p32) false ∧
    refused (.domainEnable a m2) (R.domCtrl m2) true ∧ refused (.domainDisable a m2) (R.domCtrl m2) true ∧
    refused (.realign a) R.timeCtrl true ∧ refused (.txqPop0 a m4) (R.txqPop0 m4) false ∧ refused (.txqFlush a m4) (R.txqCtrl m4) true ∧
    refused (.biqPop0 a) R.biqPop0 false ∧ refused (.biqFlush a) R.biqCtrl true ∧ refused (.tickEnable a) R.timeTickCtrl true ∧
    refused (.tickDisable a) R.timeTickCtrl true ∧ refused (.timeNowRead a) R.timeNowNs false ∧
    refused (.macEnable a m5 v) (R.macCtrl m5) true ∧ refused (.macDisable a m5 v) (R.macCtrl m5) true ∧
    refused (.sfpTwoWire a m4 w) (R.macSfpCmd m4) true ∧ refused (.txrWrWrite a m5 n2 h) (R.txrWr m5 n2) true ∧
    refused (.ctxFlush a c) R.siuCtxFlush true ∧ refused (.bankLoad a w) R.scaBankLoad true ∧ refused (.coreExcClear a k64) (R.coreExc k64) true ∧
    (∀ i ∈ [Instr.load a p32, .prepare a p32, .switch a p32, .discard a p32, .install a p32, .startWarm a p32, .startCold a p32, .tskStop a p32],
      refused i (R.tskPCtrl p32) true) ∧
    (∀ i ∈ [Instr.cmdSelect a rk v b1 b2 o, .cmdOperate a rk v b1 b2 o, .cmdCancel a rk v b1 b2 o], refused i R.cmdOrd true) ∧
    refused (.coPosWrite a o pos) (R.coPos o) true ∧ refused (.objReset a o) R.cmdCtrl true ∧ refused (.cmdResPop a) R.cmdResPop false ∧
    (∀ i ∈ [Instr.fbcRecover a m2, .fbcEnable a m2, .fbcDisable a m2], refused i (R.fbcCtrl m2) true) ∧
    refused (.tq1Push a m2 w) (R.tq1Push m2) true ∧ refused (.tq1Flush a m2) (R.tq1Ctrl m2) true ∧
    refused (.rqHead a m2 q2) (R.rqHead m2 q2) false ∧ refused (.rqFlush a m2 q2) (R.rqCtrl m2 q2) true ∧
    refused (.drcEnable a) R.drcCtrl true ∧ refused (.drcDisable a) R.drcCtrl true ∧ refused (.manualTrigger a) R.drcTrigMan true ∧
    (∀ i ∈ [Instr.segClaim a sg, .segRelease a sg, .segUnclaim a sg], refused i R.drcSegCmd true) ∧
    refused (.almPostGo a) R.almPostGo true ∧ refused (.almSeek a w) R.almCurSeq true ∧
    (∀ i ∈ [Instr.mtrPreset a n8 o, .mtrCkptNow a, .mtrStop a, .mtrResume a], refused i R.mtrCmd true) ∧
    refused (.meterPointEnable a o) (R.mpCtrl o) true ∧ refused (.accRead a o acc) (R.accLo o acc) false ∧
    (∀ i ∈ [Instr.mirEnable a, .mirDisable a, .handover a], refused i R.mirCtrl true) ∧
    refused (.rbTest a p32) R.diagRbTest true ∧ refused (.bistRerun a t16) R.diagBistCtrl true ∧
    ∀ i ∈ [Instr.dumpFreeze a h, .dumpSeal a h, .dumpReset a h, .dumpUnseal a h, .dumpAck a h], refused i R.diagDumpCtrl true

/-- R36, R38, R110, R154, R155: memory accesses of application cores and block DMA, DRAM already wiped: a permitted write stores its bytes
and no other, a permitted read or fetch changes no byte and returns the word, an uncorrectable error returns none, a refused one is a
violation. A doubleword the environment upsets first is `upsetAt`. -/
def Obligations.MemoryAccesses : Prop :=
  ∀ (t : Tag) (k : AccKind) (addr : BitVec 35) (n : Fin 65) (bs : List Byte) (up : Fin 3) (s : State), s.mir.unsent = [] →
    inRom addr.toNat = false → s.trust.dramDone = true →
    let a := addr.toNat
    let base := upsetAt s a up
    (rangeDenied s t .write a bs.length = none → Answers (exec (.memoryAccess t .write addr n bs up) s) fun u =>
      (∀ b, rdByte u b = if a ≤ b ∧ b < a + bs.length then bs[b - a]?.getD 0#8 else rdByte base b) ∧ u.busErr = false ∧
        u.shadow = s.shadow ∧ u.force = s.force ∧ u.live = s.live ∧ u.part = s.part) ∧
    (k ≠ .write → rangeDenied s t k a n = none → eccOf base a n = 0 → 4 ≤ n.val →
      exec (.memoryAccess t k addr n bs up) s = .next { base with bus := rd32 s a, busErr := false }) ∧
    (k ≠ .write → rangeDenied s t k a n = none → 2 ≤ eccOf base a n →
      Answers (exec (.memoryAccess t k addr n bs up) s) fun u => u.mem = base.mem ∧ u.bus = 0#32 ∧ u.busErr = decide (t.master.toNat < 0x80)) ∧
    (∀ kind, rangeDenied s t k a (if k = .write then bs.length else n) = some kind →
      Answers (exec (.memoryAccess t k addr n bs up) s) fun u => u.mem = base.mem ∧ u.bus = 0#32 ∧ u.busErr = decide (t.master.toNat < 0x80) ∧
        u.shadow = s.shadow ∧ u.force = s.force)

/-! ### Commits and the meridian -/

/-- R13, R45, R46, R47, R49, R51: a COMMIT captures and its check begins, nothing enters force; the check's end makes the set pending
or rejects it with cause and place; a cancel drops the sets it is in time for; a pending set that is checked again enters force or is
rejected; with the tick generator stopped it does so 512 ns after its COMMIT, with all else that is due then. -/
def Obligations.Commits : Prop :=
  ∀ (a : Acc) (i : Fin 25) (tag : Half) (s : State),
    let c := commitOf s i
    let key := R.base i + 0xFFE4
    (admitted s a key true → ∃ ps : PendSet, ps.tag = tag ∧ ps.at_ = s.now ∧ ps.written = c.wrote ∧
      ps.vals = (s.shadow.filter fun e => blockOf e.1 == i && isRs e.1) ∧
      exec (.commit a i tag) s = .next (setCommit (accessed s) i { c with checking := c.checking ++ [ps], wrote := [] })) ∧
    (admitted s a key true → (∀ ps, (ps ∈ c.checking ∨ c.pend = some ps) → cancelLate s ps = false) →
      exec (.commitCancel a i) s = .next (setCommit (accessed s) i { c with checking := [], pend := none })) ∧
    (admitted s a key true → (∃ ps, (ps ∈ c.checking ∨ c.pend = some ps) ∧ cancelLate s ps = true) →
      exec (.commitCancel a i) s = .next (setEvt (setCommit (accessed s) i
        { c with checking := c.checking.filter (cancelLate s), pend := c.pend.filter (cancelLate s) }) (R.base i + 0xFFE8) 5)) ∧
    (c.checking = [] → exec (.consistencyCheckDone i) s = .next s) ∧
    (∀ ps rest, c.checking = ps :: rest →
      (checkSet s i ps = none → exec (.consistencyCheckDone i) s = .next (setCommit s i { c with checking := rest, pend := some ps })) ∧
      (∀ cause off, checkSet s i ps = some (cause, off) →
        Answers (exec (.consistencyCheckDone i) s) fun t => t.force = s.force ∧ t.shadow = s.shadow ∧
          commitOf t i = { c with checking := rest } ∧ evt t (R.base i + 0xFFE8) 2 = true ∧
          liveOf t (R.base i + 0xFFEC) = word (cause * 2 ^ 24 + off % 0x10000))) ∧
    (s.time.tickRun = true ∨ (c.pend = none ∧ c.checking = []) → exec (.stoppedSetInForce i) s = .next s) ∧
    (∀ ps, s.time.tickRun = false → (c.pend = some ps ∨ (c.pend = none ∧ c.checking.head? = some ps)) →
      exec (.stoppedSetInForce i) s = .next (stoppedReach s (ps.at_ + 512)) ∧ ps.at_ + 512 ≤ (stoppedReach s (ps.at_ + 512)).now) ∧
    (∀ ps, c.pend = some ps → c.checking = [] → ps.at_ + 512 ≤ s.now → ¬(i.val = 0x0D ∧ saving s = true) →
      let r := setCommit s i { c with pend := none }
      let f := putInForce r i ps
      (∀ o, recheck r i ps = some o → setsInForce [i.val] s = rejectSet r i 5 o) ∧
      (recheck r i ps = none → setsInForce [i.val] s = blockInForce s i ps f) ∧
      f.force = ps.vals.foldl (fun m e => mput m e.1 e.2) s.force ∧ f.shadow = s.shadow ∧ f.mem = s.mem ∧
      liveOf f (R.base i + 0xFFF0) = word (ps.tag.toNat * 65536) ∧ liveOf f (R.base i + 0xFFF4) = forceTick s ∧
      (i.val = 2 → f.part.owners = setOwners s ps) ∧ (i.val ≠ 2 → f.part = s.part)) ∧
    (s.time.tickRun = false → let v := siuEval (setsInForce otherBlocks (setsInForce [2] s))
      stoppedDue s = if tskDue s then forcesDue (restartsDue v) else restartsDue v)

/-- R25, R26, R146, R152, R191, R192, R540, R541: the order of a meridian, which the start of the generator and the save of a due twilight are too; no
meridian while the generator is stopped. -/
def Obligations.MeridianOrder : Prop :=
  ∀ s : State,
    let sets := fun u => setsInForce otherBlocks (sliceCheck (setsInForce [2] u))
    let step2 := fun u => timeMeridian (scaMeridian (gseSim (siuEval (siuSim (svpPace (siuPace (sets u)))))))
    let pass := fun (live0 : Bool) u =>
      let v := mirMeridian (plinthCapture (step4 (step3 (mirClaims (step2 u)))))
      let w := cmdEvaluate (cyclicMeridian v) (live0 && laneMaster (cyclicMeridian v)) flagState
      mirTick (genStop (saveIfDue (biWordWrite (mtrMeridian (gseMeridian w)))))
    let at_ := cutDue (mirTick (reachLtc s (nextMer s)))
    let t := nextTick at_
    let row := drcMeridian at_ (curTick at_) at_.time.tickStart (biState at_ ||| (at_.bi.edges <<< 16))
    let mer := pass (laneMaster at_) { row with time := { row.time with tickSec := t.1, tick := t.2, tickStart := row.ltc } }
    let silent := s.mir.lbHeard = false ∧ s.mir.mlHeard = false ∧ 2 ≤ s.mir.lbCount ∧ 2 ≤ s.mir.mlCount
    (s.time.tickRun = false → exec .meridian s = .next s) ∧ (s.time.tickRun = true → exec .meridian s = .next mer) ∧
    (∀ x, s.time.startPend = some x → s.time.tickRun = false →
      let st := mirTick (reachLtc (stoppedReach s (s.now + (x - s.ltc))) x)
      exec .tickGenStart s = .next (pass (laneMaster st)
        { st with time := { st.time with tickRun := true, tickSec := st.ltc / 1000000000, tick := 0, tickStart := st.ltc, startPend := none } })) ∧
    (s.time.startPend = none ∨ s.time.tickRun = true → exec .tickGenStart s = .next s) ∧
    (s.pwr.saveDue = true → s.time.tickRun = true → exec .twilightSave s = .next mer) ∧
    (s.pwr.saveDue = true → s.time.tickRun = false → exec .twilightSave s = .next (twilightSave s)) ∧
    (s.pwr.saveDue = false → exec .twilightSave s = .next s) ∧
    (s.time.tickRun = true → s.mir.role = .standby → silent → exec .leaseSilenceExpiry s = .next mer) ∧
    (s.time.tickRun = true → s.mir.role = .listen → silent → listenTicks s ≤ s.mir.listen + 1 → exec .listenSilenceExpiry s = .next mer)

/-! ### Resets, start-up and supply -/

/-- R33, R54, R110 to R115: the resets by software, by the clock monitors and by the watchdog; the wipes of SRAM and DRAM. -/
def Obligations.ResetsAndWipes : Prop :=
  ∀ (a : Acc) (root div : Bool) (s : State),
    (admitted s a R.sysRstReq true → soleCause s → Answers (exec (.softwareReset a) s) (ResetFrom s 3)) ∧
    exec (.clockMonitorCheck true true) s = .next { s with sys := { s.sys with rootLock := true, divOk := true } } ∧
    ((root && div) = false → soleCause s → Answers (exec (.clockMonitorCheck root div) s) fun t =>
      ResetFrom s 6 t ∧ evt t R.sysClkEvt 0 = true ∧ t.sys.rootLock = root ∧ t.sys.divOk = div) ∧
    (∀ x, s.trust.wdog = some x → s.sys.released = true → Answers (exec .watchdogExpiry s) fun t =>
      ResetFrom (reach s (x + 20000000000)) 2 t ∧ x + 20000000000 ≤ t.now) ∧
    (s.trust.wdog = none → exec .watchdogExpiry s = .next s) ∧
    (s.sys.released = true → s.trust.sramDone = false → Answers (exec .sramWipeDone s) fun t => t.trust = { s.trust with sramDone := true } ∧
      (s.trust.stage ≠ 2 → ∀ b, rdByte t b = if inShared b ∨ inStream b ∨ inLocal b then 0#8 else rdByte s b) ∧
      (s.trust.stage = 2 → s.mir.unsent = [] →
        let img := if s.trust.bootB then s.ufs.2 else s.ufs.1
        rdBytes t bootBase img.length = img)) ∧
    (s.sys.released = true → s.trust.dramDone = false → Answers (exec .dramWipeDone s) fun t => t.trust = { s.trust with dramDone := true } ∧
      ∀ b, rdByte t b = if inDram b ∧ ¬(inDump b ∧ s.trust.dramKeep) then 0#8 else rdByte s b) ∧
    (s.sys.released = false ∨ s.trust.sramDone = true → exec .sramWipeDone s = .next s) ∧
    (s.sys.released = false ∨ s.trust.dramDone = true → exec .dramWipeDone s = .next s)

/-- R61, R76, R97 to R99, R104, R114, R121: power-on, power-good and the release of reset with the lifecycle state it derives (the record's layout: log
entry 63), the transition an MRAM wipe completes, protection-ready. -/
def Obligations.StartUp : Prop :=
  ∀ (us : Fin 8001) (slot : Fin 32) (pos : Bool) (ia ib : List Byte) (s : State),
    (s.pwr.on = false → Answers (exec .powerOn s) fun t => t.pwr.on = true ∧ t.pwr.onAt = s.now ∧ t.pwr.good = false ∧ t.ltc = 0 ∧
      t.sys.cause = 0 ∧ t.mem = s.mem ∧ t.mir.role = .off ∧ t.trust.ready = false) ∧
    (s.pwr.on = true → exec .powerOn s = .next s) ∧
    (s.pwr.on = true → s.pwr.good = false →
      let r := reach s (s.pwr.onAt + 12000000 + us * 1000)
      exec (.powerGood us) s = .next { r with pwr := { r.pwr with good := true, goodAt := r.now, opsecAt := r.now } }) ∧
    (s.sys.released = false → s.pwr.good = true → s.mir.unsent = [] →
      let same := idOkCopy s false = idOkCopy s true
      let released := fun t : State => t.sys.released = true ∧ t.ufs = (ia, ib) ∧ t.sys.slot = word ((if pos then 256 else 0) + slot) ∧ t.pwr.highZ = false ∧
        (if s.sys.cause = 0 then s.pwr.goodAt + 10000000 else s.sys.at_ + 1000) ≤ t.now
      (∀ x, same → lcPending s = some x → Answers (exec (.resetRelease slot pos ia ib) s) fun t => released t ∧ t.trust.transit = some x ∧
        t.trust.stage = 1) ∧
      (same → lcPending s = none → lcDerive s = none → Answers (exec (.resetRelease slot pos ia ib) s) fun t => released t ∧
        t.trust.halted = true ∧ t.trust.bootFail = 3 ∧ t.trust.mramDone = true) ∧
      (∀ l, same → lcPending s = none → lcDerive s = some l → Answers (exec (.resetRelease slot pos ia ib) s) fun t => released t ∧
        t.trust.lc = l ∧ t.trust.mramDone = true ∧ (l = .decommissioned → t.trust.stage = 1)) ∧
      (∀ b, idOkCopy s b = true → idOkCopy s (!b) = false → Answers (exec (.resetRelease slot pos ia ib) s) fun t => released t ∧
        t.trust.repaired = true ∧ evt t R.trustEvt 1 = true ∧ rdBytes t (idCopy (!b)) 64 = rdBytes s (idCopy b) 64)) ∧
    (s.sys.released = true ∨ s.pwr.good = false → exec (.resetRelease slot pos ia ib) s = .next s) ∧
    (∀ x, s.trust.transit = some x → Answers (exec .mramWipeDone s) fun t =>
      t.trust.lc = lcOf x ∧ t.trust.ks = [] ∧ t.trust.mramDone = true ∧ t.trust.transit = none ∧
        t.trust.prov = (s.trust.prov || x == 1) ∧ t.trust.decom = (s.trust.decom || x == 7)) ∧
    (s.trust.transit = none → exec .mramWipeDone s = .next s) ∧
    (s.diag.bistOk = true → storeOk s = true → s.time.tickRun = true → s.trust.halted = false → s.pwr.fail = false → progsReady s = true →
      (s.trust.lc = .provisioned ∨ s.trust.lc = .operational) → Answers (exec .protectionReady s) fun t =>
        t.trust = { s.trust with ready := true } ∧ t.mem = s.mem) ∧
    (s.diag.bistOk = false ∨ storeOk s = false ∨ s.time.tickRun = false ∨ s.trust.halted = true ∨ s.pwr.fail = true ∨ progsReady s = false ∨
      (s.trust.lc ≠ .provisioned ∧ s.trust.lc ≠ .operational) → exec .protectionReady s = .next s)

/-- R77 to R86: the hold-up store, supply failure and its end, the twilight sequence and its ends, the operating count (layout of the save area:
log entry 38). -/
def Obligations.SupplyAndTwilight : Prop :=
  ∀ (vin cap vst : Half) (us : Fin 2001) (s : State),
    let th := fld (forceOf s R.pwrCfg) 6 0 * 100
    let p := s.pwr
    exec (.storeOkChange vst) s = .next { s with pwr := { p with vstMv := vst.toNat } } ∧
    (let t := { s with pwr := { p with capUf := cap.toNat, measured := true, vstMv := vst.toNat } }
     exec (.storeMeasure cap vst) s = .next (if cap.toNat < 1610 ∧ (p.measured = false ∨ 1610 ≤ p.capUf) then
      almPost (setEvt t R.pwrEvt 3) 1 0x17 0x83 none [cap.setWidth 32] else t)) ∧
    (p.fail = false → vin.toNat < th →
      let ride := s.trust.ready = true ∧ p.phase = .normal
      let t := { s with pwr := { p with fail := true, failAt := s.now, vinMv := vin.toNat, phase := if ride then .ride else p.phase,
                                        saveDue := if ride then !storeOk s else p.saveDue, twi := p.twi || decide ride } }
      exec (.pwrFailAssert vin) s = .next (almPost (sendNow (setEvt t R.pwrEvt 0) 5 (readySent s)) 1 0x17 0x80 none [vin.setWidth 32])) ∧
    (p.fail = true ∨ th ≤ vin.toNat → exec (.pwrFailAssert vin) s = .next s) ∧
    (p.fail = true → th + 500 ≤ vin.toNat →
      (p.phase = .normal → soleCause s → Answers (exec (.pwrFailDeassert vin) s) fun t => ResetFrom s 1 t ∧ t.pwr.fail = false) ∧
      (p.phase = .ride → p.saveDue = false → exec (.pwrFailDeassert vin) s =
        .next (almPost (sendNow (setEvt { s with pwr := { p with fail := false, vinMv := vin.toNat, phase := .normal, twi := false } } R.pwrEvt 2) 6
          (mirReady s.mir)) 3 0x17 0x81 none [vin.setWidth 32])) ∧
      ((p.phase = .ride ∧ p.saveDue = true) ∨ p.phase = .save ∨ p.phase = .hand →
        exec (.pwrFailDeassert vin) s = .next { s with pwr := { p with fail := false, vinMv := vin.toNat } })) ∧
    (p.phase = .ride → p.fail = true → p.saveDue = false →
      let r := reach s (p.failAt + 10000000)
      exec .rideThroughEnd s = .next { r with pwr := { p with saveDue := true } }) ∧
    (p.phase = .save → s.now ≤ p.saveAt → Answers (exec (.twilightSaveDone us) s) fun t => t.pwr.phase = .hand ∧ t.now = p.saveAt + us * 1000 ∧
      evt t R.pwrEvt 1 = true ∧ t.alm.paused = false ∧ (s.mir.role = .holder → t.mir.handPend = 2) ∧
      (s.mir.unsent = [] → rdBytes t 0xA0020010 12 = leBytes 8 (guarded saveMark).toNat ++ leBytes 4 us)) ∧
    (p.phase ≠ .save → exec (.twilightSaveDone us) s = .next s) ∧
    (p.phase = .hand → vst.toNat ≤ 22000 → ¬(s.mir.role = .holder ∧ s.mir.ptnrReady = true) → Answers (exec (.storeLowHold vst) s) fun t =>
      t.pwr = { p with vstMv := vst.toNat, released := true } ∧ t.mem = s.mem ∧ ∀ n, n < 32 → (laneOf t n).drive = .hold) ∧
    (p.fail = true → Answers (exec .storeCutoff s) fun t => ResetFrom s 0 { t with pwr := s.pwr } ∧ t.pwr.on = false ∧ t.pwr.good = false ∧
      t.pwr.highZ = true) ∧
    (p.phase = .hand → th + 500 ≤ vin.toNat → soleCause s → Answers (exec (.twilightHandEnd vin) s) fun t => ResetFrom s 1 t ∧
      t.pwr.fail = false ∧ t.pwr.phase = .normal) ∧
    (p.good = true → s.mir.unsent = [] → Answers (exec .operatingCountWrite s) fun t => t.pwr.opsec = (p.opsec + 1) % 2 ^ 40 ∧
      t.pwr.opsecAt = p.opsecAt + 1000000000 ∧ p.opsecAt + 1000000000 ≤ t.now ∧
      rdBytes t 0xA0020000 16 = leBytes 8 p.cycles ++ leBytes 8 ((p.opsec + 1) % 2 ^ 40))

/-- R73, R89, R92, R93: over-current at a cage, handle, temperatures, surge, partner presence and the latched read of the operating seconds. -/
def Obligations.BoardSignals : Prop :=
  ∀ (a : Acc) (n : Fin 4) (v : Bool) (soc inlet : Byte) (vin : Half) (s : State),
    let p := s.pwr
    (bit (shadowOf s R.pwrSfp) n = true → Answers (exec (.sfpOvercurrent n) s) fun t =>
      (∀ i, i < 32 → bit (shadowOf t R.pwrSfp) i = (bit (shadowOf s R.pwrSfp) i && i != n.val)) ∧ evt t R.pwrSfp (8 + n) = true ∧
        { t with shadow := s.shadow, live := s.live } = s) ∧
    (bit (shadowOf s R.pwrSfp) n = false → exec (.sfpOvercurrent n) s = .next s) ∧
    (p.handle ≠ v → exec (.handleChange ⟨false, v⟩) s =
      .next (almPost (setEvt { s with pwr := { p with handle := v } } R.pwrEvt 7) 3 0x17 0x85 none [if v then 1#32 else 0#32])) ∧
    (p.handle2 ≠ v → exec (.handleChange ⟨true, v⟩) s =
      .next (almPost (setEvt { s with pwr := { p with handle2 := v } } R.pwrEvt 7) 3 0x17 0x85 none [if v then 1#32 else 0#32])) ∧
    (p.handle = v → exec (.handleChange ⟨false, v⟩) s = .next s) ∧ (p.handle2 = v → exec (.handleChange ⟨true, v⟩) s = .next s) ∧
    (let t := { s with pwr := { p with tSoc := soc, tInlet := inlet } }
     exec (.tempWarn soc inlet) s = .next (if 105 ≤ soc.toInt then almPost (setEvt t R.pwrEvt 5) 1 0x17 0x84 none [soc.setWidth 32] else t)) ∧
    (let t := { s with pwr := { p with vinMv := vin.toNat } }
     exec (.vinSurge vin) s = .next (if 62000 < vin.toNat then setEvt t R.pwrEvt 4 else t)) ∧
    (p.ptnr ≠ v → exec (.ptnrPresChange v) s = .next (setEvt { s with pwr := { p with ptnr := v } } R.pwrEvt 6)) ∧
    (p.ptnr = v → exec (.ptnrPresChange v) s = .next s) ∧
    (admitted s a R.pwrOpsecLo false →
      exec (.opsecRead a) s = .next { accessed s with bus := BitVec.ofNat 32 p.opsec, pwr := { p with opHi := p.opsec / 2 ^ 32 } })

/-! ### TRUST -/

/-- R100 to R109, R115, R117, R124 to R138: what each command of TRUST does when it may begin, and how it ends. -/
def Obligations.TrustCommands : Prop :=
  ∀ (a : Acc) (s : State),
    let u := accessed s
    let x := s.trust
    let buf := fun (n len : Nat) => secureBuf s (targA s n) len = true ∧ dmaMay s (trustTag s) .read (targA s n) len
    let out := fun (n len : Nat) => secureBuf s (targA s n) len = true ∧ dmaMay s (trustTag s) .write (targA s n) len
    let bytes := fun (n len : Nat) => rdBytes s (targA s n) len
    (trustMay s a lcNotDecom →
      (let h := bytes 0 0x2000
       let pay := rdBytes s (targA s 0 + 0x2000) (imgLen h)
       let e := imgErr h pay (verifyHashes s).1 [1, 2, 3, 4, 5] x.svn
       buf 0 0x2000 → secureBuf s (targA s 0 + 0x2000) (imgLen h) = true → dmaMay s (trustTag s) .read (targA s 0 + 0x2000) (imgLen h) →
        targ s 1 ≤ 2 → (targ s 1 = 2 → dmaMay s (trustTag s) .read (targA s 2) 32) →
        (e ≠ 0 → imgClass h ≠ 4 → TrustRuns (.verify a) s u e 0) ∧
        (e ≠ 0 → imgClass h = 4 →
          TrustRuns (.verify a) s (almPost u 1 0x01 0x84 (some (targ s 3 % 32)) [word (targ s 3 % 32)]) e 0) ∧
        (e = 0 → imgClass h = 4 → TrustRuns (.verify a) s
          { u with trust := { x with checked := mset [] x.checked (targ s 3 % 32) (slice h 0x10 32) } } 0 0) ∧
        (e = 0 → imgClass h ≠ 4 → Answers (exec (.verify a) s) fun t => t.trust.cmd = some (0, 0) ∧
          (imgClass h = 2 → x.stage = 2 → t.trust.stage = 3) ∧ (imgClass h = 3 → x.stage = 3 → t.trust.stage = 4) ∧
          (mget [] x.meas (imgClass h) = [] → t.trust.meas = mset [] x.meas (imgClass h) (slice h 0x10 32)) ∧
          (mget [] x.meas (imgClass h) ≠ [] → t.trust.meas = x.meas))) ∧
      (secureBuf s (targA s 0) 0x2000 = false → TrustEnds (.verify a) s 3) ∧
      (buf 0 (targ s 1) → TrustRuns (.hash a) s { u with trust := { x with digest := sha3 (bytes 0 (targ s 1)) } } 0 0) ∧
      (secureBuf s (targA s 0) (targ s 1) = false → TrustEnds (.hash a) s 3)) ∧
    (trustMay s a lcNotBlank →
      (Answers (exec (.nonce a) s) fun t => ∃ b, t.trust = { x with nonce := some b, digest := b, cmd := some (0, 0), done := false } ∧
        { t with trust := x, draws := s.draws } = u) ∧
      (let r := report s (bytes 0 32)
       buf 0 32 → out 1 (r.length + 4627) →
        TrustRuns (.attest a) s (wrBytes u (targA s 1) (r ++ dsaSign 5 x.idSeed (sha3 r))) 0 (r.length + 4627))) ∧
    (trustMay s a lcAll → TrustRuns (.lcStatus a) s u 0 (x.svn % 256 * 256 + x.prev % 16 * 16 + lcCode x.lc)) ∧
    (trustMay s a (· == .maintenance) →
      (targ s 1 ≤ 1 → buf 0 32 →
        (∀ n, (fuseKind (targ s 1)).find? (fun n => fuseEmpty (fuseOf s n)) = some n → TrustRuns (.fuseKeyAdd a) s
          { u with trust := { x with fuses := mset {} x.fuses n { hash := bytes 0 32, valid := true } } } 0 (n % 4)) ∧
        ((∀ n ∈ fuseKind (targ s 1), fuseEmpty (fuseOf s n) = false) → TrustRuns (.fuseKeyAdd a) s u 0x0B 0)) ∧
      (targ s 1 ≤ 1 → targ s 3 ≤ 3 →
        let n := 4 * targ s 1 + targ s 3
        let last := fuseUsable (fuseOf s n) = true ∧ (usableHashes s (targ s 1)).length = 1
        (last → TrustRuns (.fuseKeyRevoke a) s u 0x0F 0) ∧
        (¬last → TrustRuns (.fuseKeyRevoke a) s
          { u with trust := { x with fuses := mset {} x.fuses n { fuseOf s n with revoked := true } } } 0 (targ s 3)))) ∧
    (trustMay s a lcAll → provisioning s = true → 1 ≤ targ s 1 → targ s 1 ≤ 4 → 1 ≤ targ s 3 → targ s 3 ≤ 4 →
      secureBuf s (targA s 0) (32 * targ s 1) = true → (∀ i, i < targ s 1 → dmaMay s (trustTag s) .read (targA s 0 + 32 * i) 32) →
      (∀ i, i < targ s 3 → dmaMay s (trustTag s) .read (targA s 2 + 32 * i) 32) → (∀ i, i < 8 → fuseEmpty (fuseOf s i) = true) → soleCause s →
      s.mir.unsent = [] → Answers (exec (.provision a) s) fun t => t.sys.cause = 5 ∧ t.trust.keyreg = none ∧ lcPending t = some 1 ∧ rdBytes t (idCopy false + 32) 32 = rdBytes t (idCopy true + 32) 32 ∧
        (∀ i, i < targ s 1 → fuseOf t i = { hash := rdBytes s (targA s 0 + 32 * i) 32, valid := true }) ∧
        ∀ i, i < targ s 3 → fuseOf t (4 + i) = { hash := rdBytes s (targA s 2 + 32 * i) 32, valid := true })

/-- R100 to R103, R124 to R135: the commands on keys, sessions and the lifecycle, in PROVISIONED, OPERATIONAL and MAINTENANCE. -/
def Obligations.TrustKeysAndLifecycle : Prop :=
  ∀ (a : Acc) (s : State), trustMay s a lcKeys →
    let u := accessed s
    let x := s.trust
    let n := fld (shadowOf s R.trustKeySel) 7 0
    let e := ksOf s n
    let intact := rdBytes s (ksAddr n) 256 = ksWrapped n e
    let tgt := targ s 0 % 256
    let slot := targ s 0 / 256 % 256
    (x.keyreg ≠ none → TrustRuns (.keyLoad a) s u 7 0) ∧
    (x.keyreg = none → e.st = 0 → TrustRuns (.keyLoad a) s u 0x0C 0) ∧
    (x.keyreg = none → e.st = 2 → TrustRuns (.keyLoad a) s u 0x12 0) ∧
    (x.keyreg = none → e.st = 1 → eccIn s (ksAddr n) 256 = [] → intact →
      TrustRuns (.keyLoad a) s { u with trust := { x with keyreg := some { entry := n, target := e.target, key := e.key } } } 0 n) ∧
    (x.keyreg = none → e.st = 1 → eccIn s (ksAddr n) 256 = [] → ¬intact → TrustRuns (.keyLoad a) s
      (almPost (setEvt { u with trust := { x with ks := mset {} x.ks n { e with st := 2 } } } R.trustEvt 2) 1 0x01 0x81 none [word n]) 0x12 0) ∧
    (x.keyreg = none → TrustRuns (.transfer a) s u 8 0) ∧
    (∀ k, x.keyreg = some k → tgt ≠ k.target → TrustRuns (.transfer a) s
      (almPost (setEvt { u with trust := { x with keyreg := none } } R.trustEvt 3) 1 0x01 0x82 none [word tgt]) 9 0) ∧
    (∀ k, x.keyreg = some k → tgt = k.target → engSlots tgt ≤ slot → TrustRuns (.transfer a) s u 0x0A 0) ∧
    (∀ k, x.keyreg = some k → tgt = k.target → slot < engSlots tgt → TrustRuns (.transfer a) s
      { u with trust := { x with keyreg := none, next := mset [] x.next (tgt * 256 + slot) k.key } } 0 0) ∧
    TrustRuns (.keyClear a) s { u with trust := { x with keyreg := none } } 0 0 ∧
    (targ s 0 = 1 → 1 ≤ targ s 2 → targ s 2 ≤ 4 → ∀ f, ksFree s = some f → Answers (exec (.keyGen a) s) fun t => ∃ key,
      ksOf t f = { st := 1, type_ := 1, target := targ s 2, keyId := word (targ s 3), created := s.pwr.opsec, key := key, pubHash := [] } ∧
        t.trust.cmd = some (0, f) ∧ t.trust.keyreg = x.keyreg) ∧
    (targ s 0 ≠ 2 → typeOk (targ s 2) (targ s 0) = true → ksFree s = none → TrustRuns (.keyGen a) s u 0x13 0) ∧
    (s.mir.unsent = [] → Answers (exec (.keyDelete a) s) fun t => ksOf t n = {} ∧ rdBytes t (ksAddr n) 256 = List.replicate 256 0#8 ∧
      t.trust.cmd = some (0, n) ∧ t.trust.slots = x.slots ∧ t.trust.next = x.next) ∧
    (secureBuf s (targA s 0) 5843 = true → Answers (exec (.importOpen a) s) fun t =>
      (∃ id dk, t.trust.session = some { id := id, at_ := s.now, dk := dk }) ∧ t.trust.cmd = some (0, 5843)) ∧
    (secureBuf s (targA s 0) 5843 = false → TrustEnds (.importOpen a) s 3) ∧
    (let len := 1168 + sigLen (rdByte s (targA s 0 + 0xE)).toNat
     let b := rdBytes s (targA s 0) len
     secureBuf s (targA s 0) len = true → dmaMay s (trustTag s) .read (targA s 0) len →
      (x.session = none → TrustRuns (.importApply a) s u 0x0D 0) ∧
      (∀ y, x.session = some y →
        (∀ key f, pkgErr s b y = (0, key) → ksFree s = some f → Answers (exec (.importApply a) s) fun t =>
          (ksOf t f).st = 1 ∧ (ksOf t f).imported = true ∧ (ksOf t f).key = key ∧ (ksOf t f).target = lnat b 0xC 1 ∧
            t.trust.session = none ∧ t.trust.cmd = some (0, f)) ∧
        ((pkgErr s b y).1 ≠ 0 → Answers (exec (.importApply a) s) fun t =>
          t.trust = { x with session := none, cmd := some ((pkgErr s b y).1, 0), done := false } ∧ t.mem = s.mem))) ∧
    (let len := 64 + sigLen (rdByte s (targA s 0 + 0x12)).toNat
     let b := rdBytes s (targA s 0) len
     secureBuf s (targA s 0) len = true → dmaMay s (trustTag s) .read (targA s 0) len →
      (lcErr s b ≠ 0 → TrustRuns (.lcTransition a) s { u with trust := { x with nonce := none } } (lcErr s b) 0) ∧
      (lcErr s b = 0 → soleCause s → s.mir.unsent = [] → Answers (exec (.lcTransition a) s) fun t =>
        t.sys.cause = 5 ∧ lcPending t = some (lnat b 0x11 1) ∧ t.trust.keyreg = none ∧ t.trust.slots = [] ∧ t.trust.nonce = none)) ∧
    (1 ≤ targ s 0 → targ s 0 ≤ 64 → x.svn ≤ targ s 0 → TrustRuns (.svnAdvance a) s { u with trust := { x with svn := targ s 0 } } 0 0) ∧
    (1 ≤ targ s 0 → targ s 0 ≤ 64 → targ s 0 < x.svn → TrustRuns (.svnAdvance a) s u 6 0) ∧
    (targ s 0 = 0 ∨ 64 < targ s 0 → TrustRuns (.svnAdvance a) s u 2 0)

/-- R115, R134, R138: the end of a command, a command while one runs or in a state that does not allow it, the end of a session by
time, the watchdog's restarts. -/
def Obligations.TrustFrame : Prop :=
  ∀ (a : Acc) (w : Word) (s : State),
    let x := s.trust
    (∀ e r, x.cmd = some (e, r) →
      exec .trustCmdDone s = .next (setEvt { s with trust := { x with cmd := none, done := true, err := e, result := r } } R.trustEvt 0)) ∧
    (x.cmd = none → exec .trustCmdDone s = .next s) ∧
    (∀ y, x.session = some y →
      let r := reach s (y.at_ + 600000000000)
      exec .importSessionExpiry s = .next (setEvt { r with trust := { x with session := none } } R.trustEvt 4)) ∧
    (x.session = none → exec .importSessionExpiry s = .next s) ∧
    (admitted s a R.trustWdogKick true →
      (fld w 15 0 = 0x0D06 → exec (.watchdogKick a w) s =
        .next { accessed s with trust := { x with wdog := x.wdog.map fun _ => s.now } }) ∧
      (fld w 15 0 ≠ 0x0D06 → exec (.watchdogKick a w) s =
        .next { accessed s with trust := { x with badKicks := min 255 (x.badKicks + 1) } })) ∧
    (admitted s a R.trustCmd true →
      (x.cmd ≠ none ∨ s.diag.bist = some 2 → ∀ i ∈ [Instr.verify a, .hash a, .keyLoad a, .transfer a, .keyClear a, .keyGen a, .keyDelete a,
          .importOpen a, .importApply a, .attest a, .nonce a, .lcTransition a, .svnAdvance a, .fuseKeyAdd a, .fuseKeyRevoke a, .provision a,
          .lcStatus a], exec i s = .next { accessed s with trust := { x with err := 1, done := false } }) ∧
      (x.cmd = none → s.diag.bist ≠ some 2 →
        (x.lc = .decommissioned → ∀ i ∈ [Instr.verify a, .hash a, .keyLoad a, .transfer a, .keyClear a, .keyGen a, .keyDelete a, .importOpen a,
          .importApply a, .lcTransition a, .svnAdvance a, .fuseKeyAdd a, .fuseKeyRevoke a, .provision a], TrustEnds i s 0x0F) ∧
        (x.lc = .blank → ∀ i ∈ [Instr.keyLoad a, .transfer a, .keyClear a, .keyGen a, .keyDelete a, .importOpen a, .importApply a, .attest a,
          .nonce a, .lcTransition a, .svnAdvance a, .fuseKeyAdd a, .fuseKeyRevoke a], TrustEnds i s 0x0F) ∧
        (x.lc ≠ .maintenance → TrustEnds (.fuseKeyAdd a) s 0x0F ∧ TrustEnds (.fuseKeyRevoke a) s 0x0F) ∧
        (provisioning s = false → TrustEnds (.provision a) s 0x0F)))

/-! ### PART: mediation and the host queues -/

/-- R147, R157 to R160: assignment and release of resources in a draft, with their errors; a pop of a host queue gives the oldest item of
the most urgent class present; a pop of an empty one; a post joins the queue, in a full one in place of the oldest least urgent. -/
def Obligations.MediationAndHostQueues : Prop :=
  ∀ (a : Acc) (rt : Fin 16) (p : Fin 32) (w : Word) (s : State),
    let u := accessed s
    let arg := shadowOf s R.partMedArg
    let first := fld arg 15 0
    let count := fld arg 31 16
    let h := hnqOf s p
    let med := fun (i : Instr) (o : Nat) =>
      (bit (forceOf s R.partMode) 0 = false → exec i s = .next { u with part := { s.part with medErr := 2 } }) ∧
      (bit (forceOf s R.partMode) 0 = true → 9 ≤ rt.val → exec i s = .next { u with part := { s.part with medErr := 3 } }) ∧
      (bit (forceOf s R.partMode) 0 = true → rt.val < 9 → kindCount rt < first + count →
        exec i s = .next { u with part := { s.part with medErr := 1 } }) ∧
      (bit (forceOf s R.partMode) 0 = true → rt.val < 9 → first + count ≤ kindCount rt → Answers (exec i s) fun t =>
        { t with part := { t.part with draft := s.part.draft, medErr := s.part.medErr } } = u ∧ t.part.medErr = 0 ∧
          ∀ k, mget 0 t.part.draft k = if rt.val * 0x10000 + first ≤ k ∧ k < rt.val * 0x10000 + first + count then o else mget 0 s.part.draft k)
    (admitted s a R.partMedCmd true → med (.assign a rt p) (p + 1) ∧ med (.release a rt) 0) ∧
    (qOk h.q = true →
      let pop := fun (i : Instr) =>
        ∃ x, h.q.items[urgentIdx h.q.items]? = some x ∧ Answers (exec i s) fun t => t.bus = x ∧ (hnqOf t p).last = x ∧
          (hnqOf t p).q.items = dropAt h.q.items (urgentIdx h.q.items) ∧
          (∀ y ∈ h.q.items, itemClass x ≤ itemClass y) ∧ (∀ y ∈ h.q.items.take (urgentIdx h.q.items), itemClass x < itemClass y) ∧
          { t with bus := s.bus, part := s.part } = u
      (admitted s a (R.hnqPop p) false →
        (h.q.items ≠ [] → pop (.hnqPop a p)) ∧
        (h.q.items = [] → exec (.hnqPop a p) s = .next { setEvt u (R.hnqEvt p) 1 with bus := h.last })) ∧
      (admitted s a (R.hnqPopTag p) false →
        (h.q.items ≠ [] → pop (.hnqPopTag a p)) ∧ (h.q.items = [] → exec (.hnqPopTag a p) s = .next { u with bus := 0#32 })) ∧
      (h.q.items.length < 256 → (hnqOf (hnqPut s p w) p).q.items = h.q.items ++ [w] ∧ evt (hnqPut s p w) (R.hnqEvt p) 0 = true) ∧
      (h.q.items.length = 256 → (hnqOf (hnqPut s p w) p).q.items = dropAt h.q.items (leastIdx h.q.items) ++ [w] ∧
        fld (liveOf (hnqPut s p w) (R.hnqLost p)) 15 0 = min 0xFFFF (fld (liveOf s (R.hnqLost p)) 15 0 + 1)))

/-! ### TIME -/

/-- R165 to R168, R179, R206: what the oldest PTP message that waits at a port, named by its command, does to the masters, offsets and link
delays of an enabled domain, while meridians fall; a command that names another leaves all as it is. -/
def Obligations.PtpMessages : Prop :=
  ∀ (m : Fin 4) (d : Fin 2) (s : State),
    let side := decide (m.val % 2 = 1)
    let port := fun t : State => portOf (domOf t d) side
    let up := fun t : State => (domOf t d).st = .acquiring ∨ (domOf t d).st = .locked
    (∀ (k : Fin 1024) (x : PtpSync) (y : PtpFollowUp) (z : PtpAnnounce) (q : PtpPdelayReq) (r : PtpPdelayResp),
      let is := fun (n : PtpMsg) (stamped : Bool) => ∃ i, (itemNext s m 3).1 = some i ∧ ptpOf i.frame = n ∧ (stamped = true → stampFrac i.stamp = k)
      (¬is (.sync x) true → exec (.ptpSyncRx m k x) s = .next s) ∧ (¬is (.followUp y) false → exec (.ptpFollowUpRx m y) s = .next s) ∧
      (¬is (.announce z) false → exec (.ptpAnnounceRx m z) s = .next s) ∧ (¬is (.pdelayReq q) true → exec (.ptpPdelayReqRx m k q) s = .next s) ∧
      (¬is (.pdelayResp r) true → exec (.ptpPdelayRespRx m k r) s = .next s) ∧ (¬is .other false → exec (.ptpMessageDrop m) s = .next s)) ∧
    (∀ i : RxItem, (itemNext s m 3).1 = some i →
      let b0 := itemTake (itemNext s m 3).2 i
      let b := slewPull b0
      let rx := i.stamp
      let k := stampFrac rx
      let offset := fun (origin corr stamp : Int) =>
        origin * 256 + corr / 256 + (forceOf b (R.tspAsym m)).toInt + (pdOf b m).meas.getD 0 - stamp
      let gap := fun (seq : Nat) => match (port b).lastSeq with | some q => (seq + 65535 - q) % 65536 | none => 0
      let near := fun (off : Int) => (off - Config.servoPredict (port b).hist (b.now - (port b).lastSync)).natAbs ≤ 256000
      let taken := fun (c : Instr) (seq : Nat) (off : Int) =>
        (side ≠ (domOf b d).act ∨ (near off ∧ ¬(4 ≤ gap seq ∧ gap seq < 32768)) → Answers (exec c s) fun t =>
          (port t).off = some off ∧ (port t).lastSeq = some seq ∧ (port t).lastSync = s.now ∧ (port t).wait = none ∧ t.ltc = b.ltc ∧
            (side = (domOf b d).act → t.time.tod = some off)) ∧
        (side = (domOf b d).act → (¬near off ∨ (4 ≤ gap seq ∧ gap seq < 32768)) → Answers (exec c s) fun t => (domOf t d).st = .listening)
      (s.time.tickRun = true →
        (∀ x, ptpOf i.frame = .sync x → domUpdate b d = b → domFor b m x.domain d = true → domFor b m x.domain (1 - d) = false →
          -4 ≤ x.logInt → x.logInt ≤ 0 → ∀ a, bestOf b.now (port b) = some a → a.src = x.src →
          (x.twoStep = true →
            exec (.ptpSyncRx m k x) s = .next (setDom b d (setPort (domOf b d) side { port b with wait := some (x, rx) }))) ∧
          (x.twoStep = false → up b → taken (.ptpSyncRx m k x) x.seq.toNat (offset x.origin x.corr rx))) ∧
        (∀ y, ptpOf i.frame = .followUp y → domFor b m y.domain d = true → domFor b m y.domain (1 - d) = false →
          ∀ w stamp, (port b).wait = some (w, stamp) → up b → w.src = y.src → w.seq = y.seq →
          taken (.ptpFollowUpRx m y) y.seq.toNat (offset y.origin (y.corr + w.corr) stamp)) ∧
        (∀ z, ptpOf i.frame = .announce z → domFor b m z.domain d = true → domFor b m z.domain (1 - d) = false →
          (z.logInt = 0 → Answers (exec (.ptpAnnounceRx m z) s) fun t => (port t).masters =
            { ann := z, last := s.now, prev := ((port b).masters.find? fun f => f.ann.src = z.src).map (·.last) } ::
              (port b).masters.filter fun f => f.ann.src ≠ z.src) ∧
          (z.logInt ≠ 0 → Answers (exec (.ptpAnnounceRx m z) s) fun t =>
            (port t).masters = (port b).masters.filter fun f => f.ann.src ≠ z.src))) ∧
      (∀ q, ptpOf i.frame = .pdelayReq q →
        (bit (shadowOf b0 (R.macCtrl m)) 0 = true → exec (.ptpPdelayReqRx m k q) s = .next { b0 with
          time := { b0.time with tx := b0.time.tx ++
            [{ mac := m, order := b0.gse.order, seq := q.seq.toNat, resp := some rx, dom := q.domain, req := q.src }] },
          gse := { b0.gse with order := b0.gse.order + 1 } }) ∧
        (bit (shadowOf b0 (R.macCtrl m)) 0 = false → exec (.ptpPdelayReqRx m k q) s = .next b0)) ∧
      (∀ r, ptpOf i.frame = .pdelayResp r →
        (r.twoStep = true → exec (.ptpPdelayRespRx m k r) s = .next (bump b0 (R.tspPtpCnt m) 15 0 1)) ∧
        (r.twoStep = false → ∀ t1, (pdOf b0 m).t1 = some t1 → (pdOf b0 m).seq = r.seq.toNat → r.req = portId b0 m →
          exec (.ptpPdelayRespRx m k r) s =
            .next (timeChanged (setPd b0 m { pdOf b0 m with meas := some ((rx - t1 - r.turn / 256) / 2), t1 := none })))) ∧
      (ptpOf i.frame = .other → exec (.ptpMessageDrop m) s = .next (bump b0 (R.tspPtpCnt m) 15 0 1))) ∧
    (Answers (exec .pdelayReqTx s) fun t => t.time.pdNext = max s.now s.time.pdNext + 1000000000 ∧
      ∀ n : Fin 4, (ptpPortOn s n = true → (pdOf t n).seq = ((pdOf s n).seq + 1) % 65536 ∧ (pdOf t n).t1 = none ∧
        ∃ f ∈ t.time.tx, f.mac = n.val ∧ f.seq = (pdOf t n).seq ∧ f.resp = none) ∧ (ptpPortOn s n = false → pdOf t n = pdOf s n)) ∧
    (s.time.tickRun = true → ∀ f, bestIn ((port s).masters.filter heard) = some f → Answers (exec (.announceTimeout d side) s) fun t =>
      (port t).masters = (port s).masters.filter (fun g => g.ann.src ≠ f.ann.src) ∧ f.last + 3000000000 ≤ t.now ∧
        (up t → (domMaster t d).isSome)) ∧
    (s.time.tickRun = true → up s → Answers (exec (.syncLoss d) s) fun t =>
      (domOf t d).st = .listening ∧ (domOf t d).p0.off = none ∧ (domOf t d).p1.off = none ∧
        fld (liveOf t (R.domCnt d)) 15 0 = min 0xFFFF (fld (liveOf s (R.domCnt d)) 15 0 + 4))

/-- R167, R170 to R172, R175, R177, R178, R191, R192, R196: the domains' switches, the lodestar's own events, IRIG-B and 1PPS, the tick generator's
commands and the read of the time; `timeChanged` evaluates the sources at once while no meridian falls (R170). -/
def Obligations.TimeSources : Prop :=
  ∀ (a : Acc) (d : Fin 2) (k : Fin 4) (f : IrigFrame) (age : Nat) (s : State),
    let u := accessed s
    let cfg := forceOf s R.timeCfg
    let x := s.time
    let b := slewPull s
    (admitted s a (R.domCtrl d) true →
      (bit (shadowOf s (R.domCtrl d)) 0 = false →
        exec (.domainEnable a d) s = .next (timeChanged (setDom (setShadow u (R.domCtrl d) 1#32) d { st := .listening }))) ∧
      (bit (shadowOf s (R.domCtrl d)) 0 = true → exec (.domainEnable a d) s = .next u) ∧
      exec (.domainDisable a d) s = .next (timeChanged (setDom (setShadow u (R.domCtrl d) 0#32) d {}))) ∧
    (∀ t, mget none x.since k = some t → fld cfg 31 24 ≠ 0 → k.val ∈ (ranking s).takeWhile (· ≠ x.lodestar) →
      exec (.reversion k) s = .next (timeChanged (reach s (t + fld cfg 31 24 * 1000000000)))) ∧
    (∀ t, x.holdAt = some t → x.lodestar = 7 → Answers (exec .holdKeepExpiry s) fun v => v.time.sync = 0 ∧
      t + fld cfg 23 16 * 1000000000 ≤ v.now ∧ v.time.lodestar = 7) ∧
    (∀ o, x.slewing = true → srcOff s x.lodestar = some o → fld cfg 15 8 ≠ 0 → Answers (exec .slewDone s) fun t =>
      t.time.slewing = false ∧ t.time.lodestar = x.lodestar ∧ ∃ o', srcOff t x.lodestar = some o' ∧ o'.natAbs < 256) ∧
    (admitted s a R.timeCtrl true → exec (.realign a) s = .next (timeChanged { u with time := { x with realign := true } })) ∧
    (irigGood f = true →
      let t := irigSec b f
      let n := if b.irig.run ≠ 0 ∧ t = b.irig.lastSec + 1 then b.irig.run + 1 else 1
      let off : Int := ((t * 1000000000 : Int) - s.ltc + age) * 256
      exec (.irigbFrameRx f age) s = .next (timeChanged (farUpdate { b with time := { b.time with tod := some off }, irig :=
        { locked := b.irig.locked || decide (3 ≤ n), code := f.code, run := min n 3, lastGood := s.now, lastSec := t, off := some off } } 2))) ∧
    (irigGood f = false →
      let t := setEvt (bump b R.timeIrigCnt 15 0 1) R.timeEvt 6
      exec (.irigbFrameRx f age) s = .next (timeChanged { t with irig := { b.irig with run := 0 } })) ∧
    (s.irig.locked = true →
      let r := reach s (s.irig.lastGood + 2000000000)
      exec .irigbLoss s = .next (timeChanged { r with irig := { s.irig with locked := false, run := 0, off := none } })) ∧
    ((b.pps.locked && ppsOut b) = true →
      let n := b.pps.bad + 1
      let t := setEvt b R.timeEvt 7
      let t := setLive t R.timePpsStat (bumpFld (liveOf t R.timePpsStat) 31 16 1)
      exec .ppsPulse s = .next (timeChanged { t with pps :=
        { b.pps with bad := n % 3, locked := decide (n < 3), run := if n < 3 then b.pps.run else 0, off := if n < 3 then b.pps.off else none } })) ∧
    ((b.pps.locked && ppsOut b) = false →
      let gap := b.now - b.pps.last
      let n := if b.pps.run ≠ 0 ∧ 999990000 ≤ gap ∧ gap ≤ 1000010000 then b.pps.run + 1 else 1
      exec .ppsPulse s = .next (timeChanged (farUpdate { b with pps :=
        { locked := b.pps.locked || decide (3 ≤ n), run := min n 3, last := s.now, sec := some (ppsSecond b)
          off := some (((ppsSecond b * 1000000000 : Int) - s.ltc) * 256), bad := 0 } } 3))) ∧
    (admitted s a R.timeTickCtrl true →
      (x.startPend = none → (x.tickRun = false ∨ x.stopPend = true) →
        let t := setShadow u R.timeTickCtrl 1#32
        exec (.tickEnable a) s = .next { t with time := { x with startPend := some ((s.ltc / 1000000000 + 1) * 1000000000) } }) ∧
      (x.startPend ≠ none ∨ (x.tickRun = true ∧ x.stopPend = false) → exec (.tickEnable a) s = .next (setShadow u R.timeTickCtrl 1#32)) ∧
      (forceOf s R.partEn = 0#32 →
        let t := setShadow u R.timeTickCtrl 0#32
        exec (.tickDisable a) s = .next { t with time := { x with startPend := none, stopPend := x.tickRun } }) ∧
      (forceOf s R.partEn ≠ 0#32 → exec (.tickDisable a) s = .next (werr u 3 0x44))) ∧
    (admitted s a R.timeNowNs false → exec (.timeNowRead a) s =
      .next { u with bi := { s.bi with nowSec := s.ltc / 1000000000 }, bus := word (s.ltc % 1000000000) })

/-- R183 to R186, R188 to R190, R194: the queues of stamps (0 to 3 transmit, 4 binary inputs), their pointers agreeing: a pop, an empty pop, a flush; a
pin's edge, an edge back within the filter time, the edge's record. -/
def Obligations.StampQueuesAndBinaryInputs : Prop :=
  ∀ (a : Acc) (m : Fin 4) (i : Fin 16) (v : Bool) (ns : Fin 4) (s : State),
    let u := accessed s
    let pops := fun (c : Instr) (n : Nat) (pop : State) =>
      let x := stampQ s n
      qOk x.q = true →
        (∀ e rest, x.q.items = e :: rest → Answers (exec c s) fun t => t.bus = (stampWords n e).1 ∧ (stampQ t n).latch = (stampWords n e).2 ∧
          (stampQ t n).q.items = rest ++ (match x.lost with | some (y, _) => if putNow s y then [y] else [] | none => []) ∧
            t.shadow = s.shadow ∧ t.force = s.force ∧ t.mem = s.mem) ∧
        (x.q.items = [] → exec c s = .next { setEvt pop (tqEvt n) 3 with bus := 0#32 })
    let flushes := fun (c : Instr) (n : Nat) =>
      let x := stampQ s n
      qOk x.q = true → Answers (exec c s) fun t => (stampQ t n).q.items = x.q.items.filter (putNow s) ∧ (stampQ t n).latch = [] ∧ qOk (stampQ t n).q = true ∧
        fld (liveOf t (tqCnt n)) 15 0 = min 0xFFFF (fld (liveOf s (tqCnt n)) 15 0 + (x.q.items.length - (x.q.items.filter (putNow s)).length))
    let p := pinOf s i
    (admitted s a (R.txqPop0 m) false → pops (.txqPop0 a m) m (setStampQ u m { stampQ s m with latch := [] })) ∧
    (admitted s a R.biqPop0 false → pops (.biqPop0 a) 4 (setStampQ u 4 { stampQ s 4 with latch := [] })) ∧
    (admitted s a (R.txqCtrl m) true → flushes (.txqFlush a m) m) ∧ (admitted s a R.biqCtrl true → flushes (.biqFlush a) 4) ∧
    (p.wait = none → v ≠ p.raw → exec (.biPinEdge i v ns) s =
      .next (setPin s i { p with raw := v, wait := some (s.ltc + ns, s.now + biFilterNs s i) })) ∧
    (v = p.raw → p.wait = none → exec (.biPinEdge i v ns) s = .next s) ∧
    (∀ t due, p.wait = some (t, due) → s.now < due →
      (v ≠ p.raw → exec (.biPinEdge i v ns) s = .next (setPin s i { p with raw := v, wait := none })) ∧
      (v = p.raw → exec (.biPinEdge i v ns) s = .next s)) ∧
    (p.wait = none → exec (.biEdgeRecord i) s = .next s) ∧
    (∀ t due, p.wait = some (t, due) → Answers (exec (.biEdgeRecord i) s) fun r =>
      pinOf r i = { p with level := p.raw, wait := none } ∧ due ≤ r.now ∧
        (if r.time.tickRun ∧ nextMer r ≤ r.ltc then bit r.bi.nextEdges i = true else bit r.bi.edges i = true) ∧
        (qOk (stampQ s 4).q = true → (stampQ s 4).q.items.length < 256 →
          (stampQ r 4).q.items = (stampQ s 4).q.items ++
            (if bit (forceOf s R.biEdgeEn) (if p.raw then i else 16 + i) then [{ id := i, rise := p.raw, at_ := t * 256, put := r.now }] else [])))

/-! ### The network ports -/

/-- R198, R199, R200, R214, R223, R226: link and cage events, a port's switches, the two-wire transaction, the rings' flush and write pointer. -/
def Obligations.PortsAndRings : Prop :=
  ∀ (a : Acc) (m : Fin 5) (p : Fin 4) (why : Fin 4) (v en : Bool) (data : Byte) (w : Word) (n : Fin 8) (n2 : Fin 2) (h : Half) (s : State),
    let u := accessed s
    let x := macOf s m
    let fec0 := fld (shadowOf s (R.macCfg m)) 25 24 = 0
    let y := macOf s p
    let one := fun k : Nat => m.val = 4 → k = 0
    (Answers (exec (.linkUp m v) s) fun t =>
      macOf t m = { x with blockLock := true, fecLock := true, localFault := false, remoteFault := false, rxLos := false, slow := v, link := true
                           upAt := if x.link then x.upAt else s.now } ∧
        (x.link = false → evt t (R.macEvt m) 0 = true) ∧ t.mem = s.mem ∧ t.shadow = s.shadow) ∧
    (let x' := { x with rxLos := v, blockLock := x.blockLock && why != 0, fecLock := x.fecLock && why != 1
                        localFault := x.localFault || why == 2, remoteFault := x.remoteFault || why == 3 }
     let up := x'.blockLock && (x'.fecLock || decide fec0) && !x'.localFault && !x'.remoteFault
     Answers (exec (.linkDown m why v) s) fun t => macOf t m = { x' with link := up, upAt := if up && !x.link then s.now else x.upAt
                                                                         downAt := if x.link && !up then s.now else x.downAt } ∧
       (x.link = true → up = false → evt t (R.macEvt m) 1 = true) ∧ t.mem = s.mem ∧ t.shadow = s.shadow) ∧
    exec (.modChange p v) s = .next (if y.modAbs = v then s else setEvt (setMac s p { y with modAbs := v }) (R.macEvt p) 3) ∧
    exec (.txFault p v) s = .next (let t := setMac s p { y with txFault := v }
      if v = true ∧ y.txFault = false then setEvt t (R.macEvt p) 4 else t) ∧
    (admitted s a (R.macCtrl m) true →
      (macOn s m = true → exec (.macEnable a m v) s = .next (setShadow u (R.macCtrl m) (if v then 3#32 else 1#32)) ∧
        exec (.macDisable a m v) s = .next (setShadow (setMac u m { x with offAt := s.now }) (R.macCtrl m) (if v then 2#32 else 0#32))) ∧
      (macOn s m = false → exec (.macDisable a m v) s = .next (setShadow u (R.macCtrl m) (if v then 2#32 else 0#32)) ∧
        exec (.macEnable a m v) s = .next (if macCfgOk s m = true
          then setShadow (setMac u m { x with onAt := s.now }) (R.macCtrl m) (if v then 3#32 else 1#32)
          else setEvt (setShadow u (R.macCtrl m) (if v then 2#32 else 0#32)) (R.macEvt m) 2))) ∧
    (admitted s a (R.macSfpCmd p) true → exec (.sfpTwoWire a p w) s = .next
      (if bit w 31 = true ∧ y.sfpBusy = false then setMac u p { y with sfpBusy := true, sfpCmd := w, sfpRes := 0x80000000#32 } else u)) ∧
    (y.sfpBusy = true → exec (.sfpTwoWireDone p v data) s = .next (setMac s p { y with
      sfpBusy := false, sfpRes := (if v then 0x40000000#32 else 0#32) + if bit y.sfpCmd 30 then data.setWidth 32 else 0#32 })) ∧
    (y.sfpBusy = false → exec (.sfpTwoWireDone p v data) s = .next s) ∧
    (admitted s a (R.rxrCtrl m n) true → (one n → ringOk (rxRing s m n) = true → Answers (exec (.ringFlush a m false n en) s) fun t =>
      (rxRing t m n).rd = (rxRing s m n).wr ∧ (rxRing t m n).wr = (rxRing s m n).wr ∧ ringOk (rxRing t m n) = true ∧
        shadowOf t (R.rxrCtrl m n) = (if en then 1#32 else 0#32) ∧ fld (liveOf t (R.rxrCnt m n)) 23 0 =
          min 0xFFFFFF (fld (liveOf s (R.rxrCnt m n)) 23 0 + ringLevel (shadowOf s (R.rxrCfg m n)) (rxRing s m n))) ∧
      (¬ one n → exec (.ringFlush a m false n en) s = .next u)) ∧
    (admitted s a (R.txrCtrl m n2) true → (one n2 → ringOk (txRing s m n2) = true →
      Answers (exec (.ringFlush a m true (Fin.ofNat 8 n2) en) s) fun t =>
      txRing t m n2 = { txRing s m n2 with rd := (txRing s m n2).wr, rdC := (txRing s m n2).wr, skip := true } ∧
        shadowOf t (R.txrCtrl m n2) = (if en then 1#32 else 0#32) ∧ fld (liveOf t (R.txrCnt m n2)) 23 0 =
          min 0xFFFFFF (fld (liveOf s (R.txrCnt m n2)) 23 0 + ringLevel (shadowOf s (R.txrCfg m n2)) (txRing s m n2))) ∧
      (¬ one n2 → exec (.ringFlush a m true (Fin.ofNat 8 n2) en) s = .next u)) ∧
    (admitted s a (R.txrWr m n2) true → (one n2 → ringOk (txRing s m n2) = true →
      let q := h.toNat % max 1 (fld (shadowOf s (R.txrCfg m n2)) 15 0)
      (bit (shadowOf s (R.txrCtrl m n2)) 0 = false →
        exec (.txrWrWrite a m n2 h) s = .next (setTxRing u m n2 { txRing s m n2 with wr := q, wrC := q })) ∧
      Answers (exec (.txrWrWrite a m n2 h) s) fun t => (txRing t m n2).wr = q ∧ (txRing t m n2).wrC = q) ∧
      (¬ one n2 → exec (.txrWrWrite a m n2 h) s = .next u))

/-- R200, R203, R206, R209 to R213, R217, R218: what the end of a frame does on a port that was on and had its link at the frame's first byte: the one drop
counter that counts it, or the good frame's count, its item in the ring or with its consumer, its key in the duplicate table; the frame of an
HSR ring goes on. The instant of the first byte is reckoned back from the frame's end. -/
def Obligations.FrameReception : Prop :=
  ∀ (m : Fin 5) (f : EthFrame) (frac : Fin 1024) (s : State),
    let x := macOf s m
    let first := s.now - frameNs s m (wireLen f)
    let stamp := if m.val = 4 then 0 else rxStamp s m frac (wireLen f)
    let g := asSeen s m f
    let t := if m.val = 4 then steerMgt s first g else steer s first m g
    let n := t.dest - 8
    let sa := g.sa.toNat
    let seq := (g.red.map fun r => r.seq.toNat).getD 0
    let table := decide (m.val < 4) && g.red.isSome && (t.dest == 2 || decide (8 ≤ t.dest))
    let dup := table && dupHas (fresh s.now (lreOf s (m / 2)).dup) sa seq
    let own := decide (lreMode s m = 2 ∧ sa = macAddr s m)
    let counted := fun (r : State) (c : Nat) => (liveOf r (R.macCnt m c)).toNat = min 0xFFFFFFFF ((liveOf s (R.macCnt m c)).toNat + 1)
    let item := { mac := m, dest := t.dest, stamp := stamp, first := first, end_ := s.now, err := rxErr s m g dup, beats := itemBeats g t
                  frame := if t.strip then { g with vlan := none } else g : RxItem }
    (macOn s m = true → x.link = true → lbNear s m = false → x.onAt ≤ first → x.upAt ≤ first →
      (¬ (hsrOther s m g = true ∧ sa ≠ macAddr s m) → (8 ≤ t.dest → ringOk (rxRing s m n) = true) →
        (∀ u, (lreOf s (m / 2)).lastB = some u → u.end_ / 4 ≠ s.now / 4) →
        (∀ c, rxDrop s m g t dup own = some c → Answers (exec (.macFrameRx m f frac) s) fun r =>
          counted r c ∧ r.mem = s.mem ∧ (∀ k, rxRing r m k = rxRing s m k) ∧ (c = 7 → evt r (R.rxrEvt m n) 3 = true) ∧
          r.net.items = s.net.items ++ if 1 ≤ t.dest ∧ t.dest ≤ 3 ∧ own = false ∧ c ≠ 2 ∧ c ≠ 6 then [item] else []) ∧
        (rxDrop s m g t dup own = none → Answers (exec (.macFrameRx m f frac) s) fun r =>
          counted r 0 ∧ (table = true → dupHas (lreOf r (m / 2)).dup sa seq = true) ∧
          (8 ≤ t.dest → (rxRing r m n).wr = ((rxRing s m n).wr + itemBeats g t) % max 1 (fld (shadowOf s (R.rxrCfg m n)) 15 0) ∧
            (rxRing r m n).rd = (rxRing s m n).rd ∧ ringOk (rxRing r m n) = true ∧ r.net.items = s.net.items) ∧
          (t.dest < 8 → r.mem = s.mem ∧ r.net.items = s.net.items ++ if 1 ≤ t.dest ∧ t.dest ≤ 3 then [item] else []))) ∧
      (∀ u, lreMode s m = 1 → m.val % 2 = 0 → (lreOf s (m / 2)).lastB = some u → u.end_ / 4 = s.now / 4 → u.mac = m.val + 1 → u.sa = sa →
        u.seq = seq → 8 ≤ u.dest → 8 ≤ t.dest → table = true → ringOk (rxRing s m n) = true → rxDrop s m g t false false = none →
        Answers (exec (.macFrameRx m f frac) s) fun r => counted r 0 ∧
          liveOf r (R.macCnt u.mac 0) = liveOf s (R.macCnt u.mac 0) - 1 ∧
          (liveOf r (R.macCnt u.mac 8)).toNat = min 0xFFFFFFFF ((liveOf s (R.macCnt u.mac 8)).toNat + 1)) ∧
      (hsrGoesOn s m g = true → dupHas (fresh s.now (lreOf s (m / 2)).fwd) sa seq = false →
        Answers (exec (.macFrameRx m f frac) s) fun r => counted r 16 ∧ (∃ i ∈ r.net.txq, i.port = m / 2 * 2 + (1 - m % 2) ∧
          i.body = .forward (fwdFrame s m g) stamp ∧ i.noRed = true) ∧
          (hsrOther s m g = true → r.mem = s.mem ∧ r.net.items = s.net.items)) ∧
      (hsrGoesOn s m g = true → dupHas (fresh s.now (lreOf s (m / 2)).fwd) sa seq = true →
        Answers (exec (.macFrameRx m f frac) s) fun r => r.net.txq = s.net.txq)) ∧
    (lbNear s m = true ∨ heldAt (macOn s m) x.onAt x.offAt first = false ∨ heldAt x.link x.upAt x.downAt first = false →
      exec (.macFrameRx m f frac) s = .next s)

/-- R217, R219 to R223: what a port sends and what that leaves; a port that is off, without link or in a self-test sends nothing; a frame of a
redundant pair becomes ready on the other port with the same sequence number; supervision frames; the duplicate table forgets. -/
def Obligations.FrameTransmission : Prop :=
  ∀ (m : Fin 5) (e : TxEnd) (frac : Fin 1024) (p : Fin 2) (s : State),
    let ctl := shadowOf s (R.macCtrl m)
    let may := bit ctl 0 = true ∧ bit ctl 1 = true ∧ (macOf s m).link = true ∧ lbMac s m = 0
    let count := fun (r : State) (k c : Nat) => (liveOf r (R.macCnt k c)).toNat = min 0xFFFFFFFF ((liveOf s (R.macCnt k c)).toNat + 1)
    let red := fun x : TxItem => decide (m.val < 4) && decide (lreMode s m ≠ 0) && !x.noRed
    let seqOf := fun x : TxItem => if red x = true then some (x.seq.getD (lreOf s (m / 2)).seq) else none
    let frame := fun (c : State) (x : TxItem) => txFrame c x (seqOf x) e (txStamp c (m % 4) frac)
    let sends := fun (c : State) (x : TxItem) (r : State) => let g := frame c x
      (macOf r m).sent = some { body := x.body, frame := g, seq := seqOf x, wire := wireLen g, at_ := s.now } ∧
        (e = .sent → g.fcsOk = true → count r m 12) ∧ (e = .underrun → count r m 14) ∧ (e = .linkLost → count r m 15) ∧
        (red x = true → x.seq = none → ∃ i ∈ r.net.txq, i.port = m / 2 * 2 + (1 - m % 2) ∧ i.body = x.body ∧ i.seq = seqOf x ∧ i.copy = true)
    (bit ctl 0 = false ∨ bit ctl 1 = false ∨ ((macOf s m).link = false ∧ lbNear s m = false) ∨ lbMac s m = 4 ∨ prbsMac s m = true →
      exec (.macFrameTx m e frac) s = .next s) ∧
    (may → ∀ x, txPick s m = some x →
      (wireLen (frame s x) ≤ maxLen s m → Answers (exec (.macFrameTx m e frac) s) (sends s x)) ∧
      (maxLen s m < wireLen (frame s x) → x.ring = none → Answers (exec (.macFrameTx m e frac) s) fun r => count r x.from_ 13)) ∧
    (may → txPick s m = none →
      let c := each (ringOrder s m) s fun x s => txClean s x.1 x.2
      ((ringOrder c m).find? (ringFits c m e) = none → exec (.macFrameTx m e frac) s = .next c) ∧
      ∀ o n, (ringOrder c m).find? (ringFits c m e) = some (o, n) → let x := (ringTake c o n m).1
        (wireLen (frame c x) ≤ maxLen s m → Answers (exec (.macFrameTx m e frac) s) fun r => sends c x r ∧
          (txRing r o n).rd = ((txRing c o n).rd + min (descBeats ((ringHead c o n).getD [])) (txLevel c o n)) %
            max 1 (fld (shadowOf s (R.txrCfg o n)) 15 0) ∧ (macOf r o).turn = 1 - n) ∧
        (maxLen s m < wireLen (frame c x) → Answers (exec (.macFrameTx m e frac) s) fun r =>
          count r o 13 ∧ evt r (R.txrEvt o n) 2 = true)) ∧
    (bit (forceOf s (R.macSupCfg (p * 2))) 31 = true ∧ (lreMode s (p * 2) = 1 ∨ lreMode s (p * 2) = 2) ∧ macOn s (p * 2) = true →
      let r := reach s (lreOf s p).supNext
      let l := { lreOf s p with supNext := r.now + fld (forceOf s (R.macSupCfg (p * 2))) 15 0 * 1000000
                                supSeq := ((lreOf s p).supSeq + 1) % 65536 }
      exec (.supervisionTx p) s = .next (txReadyPair (setLre r p l)
        { port := p * 2, cls := 2, order := 0, from_ := p * 2, body := .supervision (supFrame s p (lreOf s p).supSeq) })) ∧
    (¬ (bit (forceOf s (R.macSupCfg (p * 2))) 31 = true ∧ (lreMode s (p * 2) = 1 ∨ lreMode s (p * 2) = 2) ∧ macOn s (p * 2) = true) →
      exec (.supervisionTx p) s = .next s) ∧
    (∀ d rest, (lreOf s p).dup = d :: rest → Answers (exec (.dupEntryExpiry p) s) fun r =>
      (lreOf r p).dup = (d :: rest).filter (fun y => decide (r.now < y.at_ + 400000000)) ∧ d ∉ (lreOf r p).dup ∧ d.at_ + 400000000 ≤ r.now)

/-! ### Sampled values and conditioning -/

/-- R181, R234 to R244, R248, R249, R251: the oldest good receive item of a port is counted and its ASDUs taken in order; the cause under which one is
dropped; the sample an admitted one commits, with its values and ingest qualities in the stream buffer (placed by count: R237); a late, an early and a
repeated one, of two in one FAB cycle MAC0's being kept; a sample finalised as committed or as missing. -/
def Obligations.SampledValueFrames : Prop :=
  ∀ (port : Fin 2) (i : RxItem) (f : SvFrame) (x : SvAsdu) (s : State),
    let rx := exec (.svFrameRx port (stampFrac i.stamp) i.frame) s
    ((∀ u, (itemNext s port 1).1 = some u → u.frame ≠ i.frame ∨ stampFrac u.stamp ≠ stampFrac i.stamp) → rx = .next (itemNext s port 1).2) ∧
    ((itemNext s port 1).1 = some i →
      let b0 := siuCount (itemTake (itemNext s port 1).2 i) 0 1
      let arrival := (i.stamp / 256).toNat
      let authOn := fun (y : SvAsdu) => match svMatch s port f y with | some c => decide (fld (ctxCfg s c) 30 29 ≠ 0) | none => false
      let b := match f.auth with | some y => if f.asdus.any authOn && !y.algOk then siuCount b0 9 1 else b0 | none => b0
      let leaves := fun r : State => rx = .next (siuEval r)
      (svParse i.frame = none → rx = .next (setEvt (siuCount b0 2 1) R.siuEvt 3)) ∧
      (svParse i.frame = some f → leaves (f.asdus.foldl (svAsdu port f arrival i.first) (b, [])).1) ∧
      (svParse i.frame = some f → f.asdus = [x] →
        (svMatch s port f x = none → leaves (setEvt (siuCount b 1 1) R.siuEvt 4)) ∧
        ∀ c, svMatch s port f x = some c →
          let y := ctxOf s c
          let g := ctxGrp s c
          let acc := match ownerOf s 1 c with | some p => bit (forceOf s R.siuSimAcc) p | none => false
          let badRate := (∃ n, x.rate = some n ∧ n ≠ ctxRate s c) ∨ ctxRate s c ≤ x.smpCnt.toNat
          let badSim := (f.sim = true ∧ acc = false) ∨ (acc = true ∧ y.simLatch = true ∧ f.sim = false)
          let mode := fld (ctxCfg s c) 30 29
          let authOk := svAuthOk s c f i.first
          (i.first < y.flushAt → leaves b) ∧
          (y.flushAt ≤ i.first → x.confRev ≠ forceOf s (R.ctxConfrev c) →
            leaves (setEvt (setEvt (siuCount b 3 1) R.siuEvt 5) (R.ctxEvt c) 6)) ∧
          (y.flushAt ≤ i.first → x.confRev = forceOf s (R.ctxConfrev c) →
            (x.data.length ≠ ctxN s c ∨ x.extra ≠ 0 → leaves (setEvt (siuCount b 4 1) R.siuEvt 3)) ∧
            (x.data.length = ctxN s c → x.extra = 0 →
              (badRate → leaves (setEvt (siuCount b 5 1) R.siuEvt 3)) ∧
              (¬badRate → badSim → leaves (siuCount b 8 1)) ∧
              (¬badRate → ¬badSim → mode = 1 → authOk = false → leaves (authFail b c)) ∧
              (¬badRate → ¬badSim → 1 < mode → authOk = false → leaves (svPlace (authFail b c) c port x f.sim arrival i.first)) ∧
              (¬badRate → ¬badSim → mode = 0 ∨ authOk = true → ctxPtrOk y = true →
                (y.placing = .none ∨ y.placing = .count) → syncClass x.synch ≠ 0 → (grpOf s g).on = true → (grpOf s g).next ≠ none →
                let a := placeCount (ctxRate s c) x.smpCnt.toNat arrival
                let r := svPlace b c port x f.sim arrival i.first
                let z := setCtx b c { y with sync := syncClass x.synch, placing := .count, early := 0 }
                let dma := ∀ j, j < slotCount s c → dmaMay s (dmaTag s 9 (ownerOf s 1 c)) .write (sbAddr s c j a) 8
                let stored := (∀ j v q, x.data[j]? = some (v, q) → rd32 r (sbAddr s c j a) = v ∧
                    rd32 r (sbAddr s c j a + 4) = ingestQ (syncClass x.synch) f.sim q) ∧
                  ∀ j, ctxN s c ≤ j → j < slotCount s c → rd32 r (sbAddr s c j a) = 0#32 ∧ rd32 r (sbAddr s c j a + 4) = 0#32
                let both := ∃ e ∈ y.fromB, e.1 = a ∧ e.2 / 2 = s.now / 2
                leaves r ∧
                (a ∉ y.com → a ∉ y.done → y.rel < a → a ≤ y.rel + 120 →
                  a ∈ (ctxOf r c).com ∧ (f.sim = true → (ctxOf r c).simLatch = true) ∧
                  ((f.sim = true → y.simLatch = true) → (ctxOf r c).com = insNat a y.com ∧ (ctxOf r c).newest = max a y.newest) ∧
                  (s.mir.unsent = [] → dma → stored)) ∧
                ((f.sim = true → y.simLatch = true) →
                  (a ∈ y.com ∨ a ∈ y.done → ¬(port = 0 ∧ a ∈ y.com ∧ both) → r = siuCount z 6 1) ∧
                  (port = 0 → a ∈ y.com → both → s.mir.unsent = [] → dma → stored) ∧
                  (a ∉ y.com → a ∉ y.done → a ≤ y.rel → r = setEvt (bump z (R.ctxCnt c) 15 8 1) (R.ctxEvt c) 4) ∧
                  (a ∉ y.com → a ∉ y.done → y.rel + 120 < a → if 2 ≤ y.early then (ctxOf r c).st = .wait ∧ (ctxOf r c).com = []
                    else r = setCtx (siuCount (setCtx b c { ctxOf z c with early := y.early }) 7 1) c { ctxOf z c with early := y.early + 1 }))))))) ∧
    (∀ c a, let y := ctxOf s c
      let r := finalise s c a
      (ctxOf r c).rel = a ∧ (ctxOf r c).relC = a ∧
      (a ∈ y.com → (ctxOf r c).recov = y.recov - 1 ∧ (ctxOf r c).missRun = 0 ∧ (ctxOf r c).com = y.com.erase a) ∧
      (a ∉ y.com → y.st = .run → y.runFrom ≤ a → fld (forceOf s (R.grpCfg (ctxGrp s c))) 27 20 ≤ min 255 (y.missRun + 1) →
        (∀ n i, y.placing ≠ .arrival n i) → (ctxOf r c).st = .lost ∧ evt r (R.ctxEvt c) 3 = true ∧ evt r R.siuEvt 0 = true))

/-- R144, R243 to R247, R251, R253 to R258: the deadline of a group's next index releases it; the deadlines that lose a context or end its recovery; the
flush of a context, for its owner alone; what a publication sends at its send point. -/
def Obligations.GroupReleaseAndPublishing : Prop :=
  ∀ (a : Acc) (g : Fin 256) (c : Fin 1024) (p : Fin 64) (s : State),
    let u := accessed s
    let y := ctxOf s c
    let cg : Fin 256 := Fin.ofNat 256 (ctxGrp s c)
    (∀ t, (grpOf s g).on = true → (grpOf s g).next = some t → (grpOf s g).nextC = some t → members s g ≠ [] →
      Answers (exec (.groupDeadline g) s) fun r => dueOf s g t ≤ r.ltc ∧ ∃ n, (grpOf r g).next = some n ∧ t + 1 ≤ n) ∧
    ((grpOf s g).on = false ∨ (grpOf s g).next = none → exec (.groupDeadline g) s = .next s) ∧
    (y.st = .run → fld (forceOf s (R.grpCfg (ctxGrp s c))) 27 20 ≤ y.missRun + ctxK s c →
      Answers (exec (.ctxLost c) s) fun t => exec (.groupDeadline cg) s = .next t) ∧
    (0 < y.recov → y.recov ≤ ctxK s c → y.rel + 1 ∈ y.com →
      Answers (exec (.recoveryCountExpiry c) s) fun t => exec (.groupDeadline cg) s = .next t) ∧
    (admitted s a R.siuCtxFlush true →
      let l := leadOf s c
      let r := ctxFlushAt u l s.now
      let t := accTag u a
      let own := t.secure = true ∨ t.sys = true ∨ ownerOf s 1 c = some t.pid.val
      (¬own → exec (.ctxFlush a c) s = .next (busError u t true R.siuCtxFlush 6)) ∧
      (own → (ctxOf s l).st = .disabled → exec (.ctxFlush a c) s = .next u) ∧
      (own → (ctxOf s l).st ≠ .disabled → ctxPtrOk (ctxOf s l) = true → exec (.ctxFlush a c) s = .next (grpEval r (ctxGrp s l)) ∧
        (ctxOf r l).st = .wait ∧ (ctxOf r l).com = [] ∧ (ctxOf r l).recov = recovLen s l ∧ s.now ≤ (ctxOf r l).flushAt ∧
        (liveOf r (R.siuCnt 10)).toNat = min 0xFFFFFFFF ((liveOf s (R.siuCnt 10)).toNat + (ctxOf s l).com.length * ctxSpan (ctxN s l)))) ∧
    (let x := svPubOf s p
     let cfg := forceOf s (R.pubCfg p)
     let dest := fld cfg 27 26
     let port := if dest = 1 then 2 else 0
     let send := fun (b : State) (i due : Nat) =>
       let q := pubSamples b p i
       let fr := svBuild q.2 p i q.1
       let item : TxItem := { port := port, cls := 1, order := 0, from_ := port, body := .sv p due fr }
       let counted := fun r : State => setSvPub (bump r (R.pubCnt p) 31 16 1) p { svPubOf r p with last := i % pubRate cfg }
       (pubHeld s p = false → dest < 2 → exec (.svpSend p) s = .next (counted (txReadyPair q.2 item)) ∧
         ∃ e ∈ (txReadyPair q.2 item).net.txq, e.port = port ∧ e.cls = 1 ∧ e.body = .sv p due fr) ∧
       (pubHeld s p = true → dest < 2 → exec (.svpSend p) s = .next q.2) ∧
       (2 ≤ dest → let r := if dest = 3 ∧ pubHeld s p = false then txReadyPair q.2 item else q.2
         exec (.svpSend p) s = .next (svFrame (counted r) 2 (svParse fr) q.2.ltc q.2.now))
     (x.on = false → exec (.svpSend p) s = .next s) ∧
     (x.on = true → fld cfg 25 24 ≠ 2 → x.ready = [] → exec (.svpSend p) s = .next s) ∧
     (∀ i due rest, x.on = true → fld cfg 25 24 ≠ 2 → x.ready = (i, due) :: rest →
       send (setSvPub s p { x with ready := rest }) i due) ∧
     (x.on = true → fld cfg 25 24 = 2 → x.base = none → exec (.svpSend p) s = .next s) ∧
     (x.on = true → fld cfg 25 24 = 2 → x.base ≠ none →
       let m := reachLtc s (merOf s ((x.next + pubK s cfg - 1) / pubK s cfg) + fld (forceOf s (R.pubOfs p)) 19 0)
       send (setSvPub m p { x with next := x.next + pubAsdus cfg }) x.next m.now))

/-- R266, R267, R273, R279, R281 to R284, R288: the order in which releases are processed; the ends of a freeze, of HELD and of a settle count; bank
loads with their errors and the end of a fade. -/
def Obligations.ReleasesAndBanks : Prop :=
  ∀ (a : Acc) (g : Fin 256) (ch : Fin 8192) (w : Word) (b : Fin 64) (s : State),
    let u := accessed s
    let same := fun i => Answers (exec i s) fun t => exec .scaReleaseProcess s = .next t
    let lim := forceOf s (R.scaAgLim g)
    let frz := forceOf s (R.scaAgFrz g)
    let x := agOf s g
    let next := fun n : Nat => ∃ r, relHead s = some r ∧ r.grp = n
    (qOk s.sca.q = true → s.sca.q.items = [] → exec .scaReleaseProcess s = .next s) ∧
    (∀ h l, s.sca.q.items = h :: l → qOk s.sca.q = true → ∃ r, relHead s = some r ∧ r ∈ s.sca.q.items ∧ r.at_ / 2 = h.at_ / 2 ∧
      (∀ y ∈ s.sca.q.items, y.at_ / 2 = h.at_ / 2 → r.grp < y.grp ∨ (r.grp = y.grp ∧ r.tick ≤ y.tick)) ∧
      Answers (exec .scaReleaseProcess s) fun t => t.sca.q.items = s.sca.q.items.erase r ∧ (agOf t r.grp).last = some r.tick) ∧
    (fld lim 15 0 ≠ 0 → fld lim 15 0 ≤ x.frzRun → x.frzStop = false → Answers (exec (.freezeLimit g) s) fun t =>
      agOf t g = { x with frzStop := bit frz 30 && flagState s (fld frz 27 16), frzRun := 0, flagOff := none } ∧ evt t (R.scaAgEvt g) 3 = true) ∧
    (x.frzRun + 1 = fld lim 15 0 → next g → same (.freezeLimit g)) ∧
    (x.fst_ = .held → fld lim 31 16 ≤ x.held → Answers (exec (.freqHoldExpiry g) s) fun t =>
      (agOf t g).fst_ = .nominal ∧ (agOf t g).held = 0 ∧ evt t (R.scaAgEvt g) 2 = true) ∧
    (x.fst_ = .held → x.held + 1 = fld lim 31 16 → next g → same (.freqHoldExpiry g)) ∧
    ((chOf s ch).smpLeft = 1 ∨ (chOf s ch).phLeft = 1 → next (ctxGrp s (leadOf s (ch / 8))) → same (.settleCountExpiry ch)) ∧
    (admitted s a R.scaBankLoad true →
      let n := fld w 21 16
      let k := bit w 8
      let src := fld (shadowOf s R.scaBankSrc) 31 6 * 64
      let ended := fun e : Nat => exec (.bankLoad a w) s =
        .next (setEvt { u with sca := { s.sca with load := none, loadDone := true, loadErr := e } } R.scaEvt 0)
      (bit w 31 = false → exec (.bankLoad a w) s = .next u) ∧
      (bit w 31 = true → s.sca.load ≠ none →
        exec (.bankLoad a w) s = .next (setEvt { u with sca := { s.sca with loadErr := 1 } } R.scaEvt 0)) ∧
      (bit w 31 = true → s.sca.load = none →
        ((bankOf s n).active = k ∨ (bankOf s n).fade ≠ none → ended 2) ∧
        ((bankOf s n).active ≠ k → (bankOf s n).fade = none → (src < 0x80000000 ∨ 0x81000000 < src + 2304) → ended 3) ∧
        ((bankOf s n).active ≠ k → (bankOf s n).fade = none → 0x80000000 ≤ src → src + 2304 ≤ 0x81000000 →
          exec (.bankLoad a w) s = .next { u with sca := { s.sca with
            load := some { bg := n, bank := k, src := src, pid := fld w 28 24 }, loadDone := false, loadErr := 0 } }))) ∧
    (s.sca.load = none → exec .bankLoadDone s = .next s) ∧
    (∀ l, s.sca.load = some l →
      let tag := dmaTag s 0x0B (some l.pid)
      let wiped := (inDram l.src || inDram (l.src + 2303)) = true → s.trust.dramDone = true
      let done := fun (e : Nat) (t : State) => t.sca.load = none ∧ t.sca.loadDone = true ∧ t.sca.loadErr = e
      (∀ k, wiped → rangeDenied s tag .read l.src 2304 = some k → Answers (exec .bankLoadDone s) (done 6)) ∧
      (wiped → rangeDenied s tag .read l.src 2304 = none → imageErr s l.src ≠ 0 → Answers (exec .bankLoadDone s) fun t =>
        done (imageErr s l.src) t ∧ t.sca.banks = s.sca.banks) ∧
      (wiped → rangeDenied s tag .read l.src 2304 = none → imageErr s l.src = 0 → Answers (exec .bankLoadDone s) fun t =>
        done 0 t ∧ evt t (R.scaGrpEvt l.bg) 2 = true ∧ bankFault (bankOf t l.bg) l.bank = false ∧ ∀ i : Fin 128,
          bankEnt (bankOf t l.bg) l.bank i = rd64 s (l.src + 0x40 + i * 16) ∧
          bankEnt (bankOf t l.bg) l.bank (128 + i) = rd64 s (l.src + 0x48 + i * 16) ∧
          (i.val < 24 → bankEnt (bankOf t l.bg) l.bank (256 + i) = rd64 s (l.src + 0x840 + i * 8)))) ∧
    (∀ n, (bankOf s b).fade = some n →
      ((∃ c ∈ bankSlots s b, (chOf s c).fade < n) → exec (.fadeEnd b) s = .next s) ∧
      ((∀ c ∈ bankSlots s b, n ≤ (chOf s c).fade) → Answers (exec (.fadeEnd b) s) fun t =>
        (bankOf t b).active = !(bankOf s b).active ∧ (bankOf t b).fade = none ∧ evt t (R.scaGrpEvt b) 1 = true ∧
          ∀ c ∈ bankSlots s b, (chOf t c).e = (chOf s c).eNew ∧ (chOf t c).fade = 0)) ∧
    ((bankOf s b).fade = none → exec (.fadeEnd b) s = .next s)

/-! ### Runs, the load engine and programs -/

/-- R302, R303, R326, R330, R331, R334, R336, R381, R382: the task a free core takes and the run it starts, once the runs that a stop has ended are over; a refused OPF, a deadline, also in the cycle of a precise exception; the load engine's
commands and copies; the clear of an exception record. -/
def Obligations.RunsAndLoadEngine : Prop :=
  ∀ (a : Acc) (k : Fin 64) (t : Fin 512) (s : State),
    let u := accessed s
    let c := coreOf s k
    let v := cutDue s
    let free := qOk (actQ v k) = true ∧ coreReady v k = true
    let sp := forceOf s (R.coreSpill k)
    (qOk (actQ v k) = true → coreReady v k = false ∨ chooseTask v k = none → exec (.taskDispatch k) s = .next v) ∧
    (free → ∀ n, chooseTask v k = some n → ∃ d x, (taskOf v n).def_ = some d ∧ (taskOf v n).pend = some x ∧ n ∈ tasksOn v k ∧
      (∀ m e y, m ∈ tasksOn v k → mayStart v m = true → (taskOf v m).def_ = some e → (taskOf v m).pend = some y →
        d.prio < e.prio ∨ (d.prio = e.prio ∧ x.order ≤ y.order)) ∧
      Answers (exec (.taskDispatch k) s) fun r => taskOf r n = { taskOf v n with pend := none, running := true, first := 0 } ∧ r.mem = v.mem ∧
        fld (liveOf r (R.tskTCnt n)) 15 0 = min 0xFFFF (fld (liveOf v (R.tskTCnt n)) 15 0 + 1) ∧
        let b := (coreOf v k).bank
        coreOf r k = { mode := .run, bank := b, ib := word (dataBase k + fld d.root 16 3 * 8), desc := fld d.root 31 20 * 16
                       pc := rd16 v (codeBase k b + fld d.root 31 20 * 16 + 4) * 4, spillPtr := dataBase k + fld sp 10 0 * 64
                       spillEnd := dataBase k + fld sp 10 0 * 64 + fld sp 26 16 * 64, pid := (ownerOf s 3 n).getD 0, task := n
                       relG := x.relG, relN := x.relN, relT := x.relT, rt := if x.relG = 0xFFFFFFFF#32 then curT s else x.relT
                       startCode := (taskOf v n).first, began := s.now, deadline := x.at_ + d.dl, smpBase := forceOf s R.scaSmpBase
                       phBase := forceOf s R.scaPhBase, agBase := forceOf s R.scaAgBase }) ∧
    (c.refused = [] → exec (.opfRefusal k) s = .next s) ∧
    (∀ pc rest, c.refused = pc :: rest → Answers (exec (.opfRefusal k) s) fun r => (coreOf r k).refused = rest ∧
      bit (liveOf r (R.coreExc k)) 31 = true ∧ evt r R.pcxEvt 0 = true ∧
      (c.mode ≠ .idle → (coreOf r k).mode = if rest = [] then .idle else .ending)) ∧
    (∀ j, runnerOf s t = some j → let v := cutDue (reach s (coreOf s j).deadline)
      exec (.deadlineExpiry t) s = .next (if (coreOf v j).mode = .run
        then takeExc v j 2 1 (excPc (coreOf v j) (coreOf v j).pc) 0#32 false else v)) ∧
    (∀ j, runnerOf s t = none → overrunMeets s t = some j → exec (.deadlineExpiry t) s =
      .next (modCore (takeExc s j 2 1 (excPc (coreOf s j) (coreOf s j).pc) 0#32 false) j fun c => { c with excAt := none })) ∧
    (∀ x d, runnerOf s t = none → overrunMeets s t = none → (taskOf s t).pend = some x → (taskOf s t).def_ = some d → qOk (actQ s d.core) = true →
      Answers (exec (.deadlineExpiry t) s) fun r => (taskOf r t).pend = none ∧ evt r R.tskEvt 2 = true ∧ x.at_ + d.dl ≤ r.now ∧
        fld (liveOf r (R.tskTCnt t)) 31 24 = min 255 (fld (liveOf s (R.tskTCnt t)) 31 24 + 1)) ∧
    (let w := shadowOf s R.pcxLoadDst
     let src := (shadowOf s R.pcxLoadSrc).toNat
     let len := (shadowOf s R.pcxLoadLen).toNat
     let ofs := fld w 16 6 * 64
     let area := fld w 25 24
     let fails := fun (v : State) (e : Nat) => exec (.pcxLoad a) s =
       .next (setEvt { v with pcx := { v.pcx with loadErr := e, loadDone := false } } R.pcxEvt 2)
     let wide := src < 0x80000000 ∨ 0x81000000 < src + len ∨ area = 3 ∨ (if area = 2 then 0x20000 else 0x10000) < ofs + len
     (∀ kd, regDenied s (accTag s a) R.pcxLoadCmd true = some kd → fails (busError s (accTag s a) true R.pcxLoadCmd kd) 5) ∧
     (admitted s a R.pcxLoadCmd true →
       (engineBusy s = true → fails u 1) ∧
       (engineBusy s = false → loadActive s (fld w 31 26) area = true → fails u 2) ∧
       (engineBusy s = false → loadActive s (fld w 31 26) area = false → len = 0 → exec (.pcxLoad a) s = .next u) ∧
       (engineBusy s = false → loadActive s (fld w 31 26) area = false → len ≠ 0 → wide → fails u 3) ∧
       (engineBusy s = false → loadActive s (fld w 31 26) area = false → len ≠ 0 → ¬wide → exec (.pcxLoad a) s = .next
         { u with pcx := { s.pcx with load := some { src := src, dst := coreBase (fld w 31 26) + area * 0x10000 + ofs, len := len, at_ := s.now }
                                      loadDone := false, loadErr := 0 } }))) ∧
    (s.pcx.load = none → exec .pcxLoadDone s = .next s) ∧
    (∀ l, s.pcx.load = some l → l.len % 64 = 0 → 0x80000000 ≤ l.src → l.src + l.len ≤ 0x81000000 → 0x90000000 ≤ l.dst → s.mir.unsent = [] →
      ((∀ i, i < l.len / 64 → rangeDenied s engineTag .read (l.src + 64 * i) 64 = none) → Answers (exec .pcxLoadDone s) fun r =>
        (∀ b, rdByte r b = if l.dst ≤ b ∧ b < l.dst + l.len then rdByte s (l.src + (b - l.dst)) else rdByte s b) ∧
          r.pcx.load = none ∧ r.pcx.loadDone = true ∧ evt r R.pcxEvt 1 = true ∧ l.at_ + l.len / 64 * 8 ≤ r.now) ∧
      ((∃ i, i < l.len / 64 ∧ rangeDenied s engineTag .read (l.src + 64 * i) 64 ≠ none) → Answers (exec .pcxLoadDone s) fun r =>
        r.pcx.load = none ∧ r.pcx.loadDone = false ∧ r.pcx.loadErr = 4 ∧ evt r R.pcxEvt 2 = true)) ∧
    (admitted s a (R.coreExc k) true →
      exec (.coreExcClear a k) s = .next (setLive u (R.coreExc k) (liveOf s (R.coreExc k) &&& 0x1FFFFFFF#32)))

/-- R83, R383, R392 to R395: the commands of TSK_P_CTRL: each is accepted under its condition, else ERR is STATE and CMD_ERR set; an accepted one clears
ERR and does what follows. -/
def Obligations.ProgramCommands : Prop :=
  ∀ (a : Acc) (p : Fin 32) (s : State), admitted s a (R.tskPCtrl p) true →
    let x := partOf s p
    let y := { x with err := 0 }
    let u := setPart (accessed s) p y
    let ends := fun (i : Instr) (v : State) (e : Nat) => exec i s = .next (setEvt (setPart v p { x with err := e }) (R.tskPEvt p) 9)
    let accepts := fun (i : Instr) (ok : Prop) (effect : Prop) => (¬ok → ends i (accessed s) 1) ∧ (ok → effect)
    let idle := x.pendOp = none
    accepts (.load a p) (x.mq = .none)
      (let w := shadowOf s (R.tskPMq p)
       let r := imgCheck u p w.toNat
       (r.2 ≠ 0 → ends (.load a p) r.1 r.2) ∧
       (r.2 = 0 → exec (.load a p) s = .next (setPart r.1 p
         { y with mq := .loading, maq := some (readProgram (imgNat u p) (w.toNat + 0x2000)), maqImg := w }))) ∧
    accepts (.prepare a p) ((x.mq = .loaded ∨ x.mq = .prepared) ∧ x.pstate = .running)
      (let cores := ((x.prog.map (·.segs)).getD []).map (·.core)
       let v := { u with tsk := { u.tsk with carry := s.tsk.carry.filter fun l => !cores.contains ((l * 64 - 0x90000000) / 0x40000) } }
       exec (.prepare a p) s = .next (setPart v p { y with mq := .preparing })) ∧
    accepts (.switch a p) (x.mq = .prepared ∧ x.pstate = .running ∧ idle ∧ saving s = false)
      (exec (.switch a p) s = .next (setPart u p { y with mq := .switching, series := some s.now, attempts := 0 })) ∧
    accepts (.discard a p) (x.mq ≠ .none)
      ((x.attemptAt = none → exec (.discard a p) s =
          .next (setPart u p { y with mq := .none, maq := none, series := none, attemptAt := none, attemptBad := none })) ∧
        (x.attemptAt ≠ none → exec (.discard a p) s = .next (setPart u p
          { y with series := none, attemptBad := some (if x.attemptBad = some 2 then 12 else x.attemptBad.getD 8) }))) ∧
    accepts (.install a p) (x.mq = .loaded ∧ (x.pstate = .none ∨ x.pstate = .stopped))
      (∀ g, x.maq = some g →
        let r := imgCheck u p x.maqImg.toNat
        (r.2 ≠ 0 → ends (.install a p) r.1 r.2) ∧
        (r.2 = 0 → exec (.install a p) s = .next (setPart (newTasks (flipBanks r.1 g) x.prog g 0) p { y with
          prog := some g, img := shadowOf s (R.tskPMq p), pstate := .stopped, mq := .none, maq := none, series := none, attemptAt := none, attemptBad := none }))) ∧
    (∀ e ∈ [(Instr.startWarm a p, PartOp.warm), (.startCold a p, .cold)],
      accepts e.1 (idle ∧ x.series = none ∧ x.attemptAt = none ∧ (x.pstate = .stopped ∨ x.pstate = .running ∨ x.pstate = .halted))
        (exec e.1 s = .next (setPart u p { y with pendOp := some (e.2, s.now) }))) ∧
    accepts (.tskStop a p) (idle ∧ (x.pstate = .running ∨ x.pstate = .starting ∨ x.pstate = .halted))
      (let z := { y with pendOp := some (.stop, s.now) }
       let ended := { z with series := none, attemptAt := none, attemptBad := none }
       let over_ := fun w : TskPart => if x.attemptAt = none then setPart u p w else attemptOver (setPart u p w) p
       (x.series = none → x.attemptAt = none → exec (.tskStop a p) s = .next (setPart u p z)) ∧
       (x.series ≠ none → exec (.tskStop a p) s = .next (over_ { ended with mq := .prepared })) ∧
       (x.series = none → x.attemptAt ≠ none → exec (.tskStop a p) s = .next (over_ { ended with mq := .none, maq := none })))

/-- R383, R386, R393 to R396, R398, R399, R403: how a LOAD, a PREPARE, a restart and an attempt to switch end, and how they fail; a line to the plinth;
forces applied on an idle core. -/
def Obligations.ProgramEvents : Prop :=
  ∀ (p : Fin 32) (k : Fin 64) (s : State),
    let x := partOf s p
    (s.mir.role ≠ .standby →
      (∀ g, x.mq = .loading → x.maq = some g → s.pcx.load = none →
        let r := copyCode s g.segs g.addr
        (r.2 = 0 → Answers (exec (.loadDone p) s) fun t => partOf t p = { x with mq := .loaded } ∧ t.mem = r.1.mem) ∧
        (r.2 ≠ 0 → Answers (exec (.loadDone p) s) fun t => evt t (R.tskPEvt p) 9 = true ∧
          partOf t p = { x with mq := .none, maq := none, series := none, attemptAt := none, attemptBad := none, err := r.2 })) ∧
      (x.mq ≠ .loading ∨ x.maq = none ∨ s.pcx.load ≠ none → exec (.loadDone p) s = .next s)) ∧
    (∀ old new, x.mq = .preparing → x.prog = some old → x.maq = some new →
      let built := (matches_ old new).foldl (fun v e => carryEntry v p e.1 e.2) (new.segs.foldl (fun v g => initSeg v p new.addr g) s)
      Answers (exec (.prepareDone p) s) fun t => partOf t p = { x with mq := .prepared } ∧ evt t (R.tskPEvt p) 0 = true ∧
        t.mem = built.mem ∧ t.tsk.carry = s.tsk.carry) ∧
    (x.mq ≠ .preparing → exec (.prepareDone p) s = .next s) ∧
    (s.time.tickRun = true →
      (∀ o g, x.startKind = some o → x.prog = some g → x.pstate = .starting →
        let code := if o = .warm then 1 else 2
        Answers (exec (.restartDone p) s) fun t => (partOf t p).pstate = .running ∧ (partOf t p).startKind = none ∧
          (partOf t p).lastStart = code ∧ evt t (R.tskPEvt p) 4 = true ∧ bit t.pcx.pstop p = false ∧
          ∀ e ∈ g.tasks, (taskOf t e.1).stopped = false ∧ (taskOf t e.1).retired = false ∧ (taskOf t e.1).first = code) ∧
      (x.startKind = none → exec (.restartDone p) s = .next s)) ∧
    (s.tsk.round = [] → exec .plinthLineWrite s = .next s) ∧
    (∀ l d rest q i b, s.tsk.round = (l, d) :: rest → retPlace s l = some (q, i) → plinthActive (plinthRead s q) q = some b →
      let w := dmaWrite (plinthRead s q) 0x0D (tskTag s q) (plinthCopy s q b + 64 + i * 64) d
      (rest ≠ [] → exec .plinthLineWrite s = .next { w with tsk := { w.tsk with round := rest } }) ∧
      (rest = [] → exec .plinthLineWrite s = .next { w with tsk := { w.tsk with round := s.tsk.nextRound, nextRound := [] } })) ∧
    (∀ at_ old new, x.attemptAt = some at_ → x.prog = some old → x.maq = some new →
      let due := carryEnd s at_ ((old.segs ++ new.segs).map (·.core)) (carryPlans s at_ (carryLines s old))
      let may := x.attemptBad ∉ [some 2, some 10, some 12] ∧ due ≤ at_ + 50000 ∧ s.now ≤ at_ + 50000 ∧
        coresIdle s old = true ∧ coresIdle s new = true
      (s.time.tickRun = true →
        (may → Answers (exec (.recarryDone p) s) fun t => due ≤ t.now ∧ evt t (R.tskPEvt p) 1 = true ∧
          partOf t p = { x with prog := some new, img := x.maqImg, mq := .none, maq := none, series := none, attemptAt := none, attemptBad := none
                                lastStart := 3, attempts := x.attempts + 1 }) ∧
        (¬may → exec (.recarryDone p) s = .next s)) ∧
      (may → exec (.switchAttemptFail p) s = .next s) ∧
      (¬may → Answers (exec (.switchAttemptFail p) s) fun t => at_ + 50000 ≤ t.now ∧ evt t (R.tskPEvt p) 2 = true ∧
        let y := { x with attemptAt := none, attempts := x.attempts + 1 }
        let kept := { y with mq := .prepared, series := none, attemptBad := none }
        let gone := { y with mq := .none, maq := none, series := none, attemptBad := none }
        (x.attemptBad = some 2 ∨ (x.attemptBad = none ∧ x.attempts = 8) → partOf t p = kept ∧ evt t (R.tskPEvt p) 3 = true) ∧
        (x.attemptBad = some 12 → partOf t p = gone ∧ evt t (R.tskPEvt p) 3 = true) ∧
        (x.attemptBad = some 8 ∨ x.attemptBad = some 10 → partOf t p = gone) ∧
        (x.attemptBad = none → x.attempts ≠ 8 → partOf t p = y))) ∧
    (x.attemptAt = none → exec (.switchAttemptFail p) s = .next s) ∧
    (k.val ∉ s.tsk.applyDue ∨ (coreOf s k).mode ≠ .idle → exec (.forceApply k) s = .next s) ∧
    (k.val ∈ s.tsk.applyDue → (coreOf s k).mode = .idle →
      let es := s.tsk.forces.filter fun e => e.2.state == 1 && e.2.core == k.val && decide (0 < e.2.size)
      (∀ e ∈ es, forceGuardOk s (e.1 / 256) (e.1 % 256) = true) → Answers (exec (.forceApply k) s) fun t => k.val ∉ t.tsk.applyDue ∧
        t.mem = (es.foldl (fun v e => match forceVar s (e.1 / 256) (e.1 % 256) with
          | some i => dmaWrite v 0x0D (tskTag s (e.1 / 256)) (dataBase e.2.core + e.2.ofs) (forceBytes s (e.1 / 256) (e.1 % 256) i)
          | none => v) s).mem)

/-! ### Lanes, GOOSE and commands -/

/-- R419, R422, R429, R431, R433 to R436, R568: the end of MIN_US; readback errors; a retransmission; a GOOSE message counted, and dropped under its
cause or accepted for the subscription it matches; the end of a message's time to live. -/
def Obligations.LanesAndGoose : Prop :=
  ∀ (n : Fin 32) (p : Fin 256) (q : Fin 512) (k : Fin 4) (i : RxItem) (m : GooseMsg) (s : State),
    let l := laneOf s n
    let r := reachLtc s (l.since + fld (forceOf s (R.laneCfg n)) 15 0 * 1000)
    (l.drive = .operate → Answers (exec (.minUsExpiry n) s) fun t => t.ltc = r.ltc ∧ (holdWhy t n ≠ 0 → (laneOf t n).drive = .hold) ∧
      (holdWhy t n = 0 → (laneOf t n).drive = if laneOp s n then .operate else .reset)) ∧
    (l.drive ≠ .operate → exec (.minUsExpiry n) s = .next s) ∧
    (l.rbErr = false →
      let v := setEvt (setLane s n { l with rbErr := true }) R.tmxEvt 5
      exec (.readbackMismatch n) s =
        .next (postOwner (almPost v 1 0x0E 0x11 (ownerOf s 5 n) [word n]) (ownerOf s 5 n) 0 0x0E 0x11 n)) ∧
    (l.rbErr = true → exec (.readbackMismatch n) s = .next s) ∧
    exec (.readbackClear n) s = .next (setLane s n { l with rbErr := false }) ∧
    (let g := pubOf s p
     let r := reach s g.due
     let iv := min (2 * g.iv) (fld (forceOf s (R.gpTiming p)) 15 0 * 1000000)
     let sq := if g.sqNum = 0xFFFFFFFF#32 then 1#32 else g.sqNum + 1
     (g.on = false ∨ g.sent = false → exec (.gooseRetransmit p) s = .next s) ∧
     (g.on = true → g.sent = true →
       (gpHeld r p = true → exec (.gooseRetransmit p) s = .next (setPub r p { g with due := r.now + iv })) ∧
       (gpHeld r p = false → qOk g.q = true → g.q.items.length < 8 → Answers (exec (.gooseRetransmit p) s) fun t => ∃ f : GooseFrame,
         (pubOf t p).q.items = g.q.items ++ [f] ∧ f.stNum = g.stNum ∧ f.sqNum = sq ∧ f.vals = g.vals ∧ f.tal = (2 * iv + 999999) / 1000000 ∧
           (pubOf t p).sqNum = sq ∧ (pubOf t p).iv = iv ∧ (pubOf t p).due = r.now + iv ∧ (pubOf t p).stNum = g.stNum))) ∧
    ((itemNext s k 2).1 = none → exec (.gooseRx k) s = .next (itemNext s k 2).2) ∧
    ((itemNext s k 2).1 = some i →
     let c := gseCount (itemTake (itemNext s k 2).2 i) 0
     let rx := exec (.gooseRx k) s
     let parsed := gooseParse i.frame (decide (k.val < 2)) (s.ltc - (i.stamp / 256).toNat)
     (parsed = none → rx = .next (gseCount c 2)) ∧
     (parsed = some m →
       ((subsOn s).filter (subMatch s m) = [] → rx = .next (setEvt (gseCount c 1) R.gseEvt 0)) ∧
       (rx = .next (each ((subsOn s).filter (subMatch s m)) c (subJudge m i.first)) ∨ (subsOn s).filter (subMatch s m) = []) ∧
       ((subsOn s).filter (subMatch s m) = [q.val] →
         let x := subOf s q
         let shape := x.bad = false ∧ m.members.map (fun e => e.type_.val) = x.map.map (fld · 31 28)
         let acc := match ownerOf s 7 q with | some o => bit (forceOf s R.gseSimAcc) o | none => false
         let expiry := s.ltc - m.age + m.tal.toNat * 1000000
         (m.confRev ≠ forceOf s (R.gsConfrev q) → Answers rx fun t => t.gse = s.gse ∧ evt t (R.gsStat q) 2 = true ∧ evt t R.gseEvt 4 = true) ∧
         (m.confRev = forceOf s (R.gsConfrev q) →
           (¬shape → rx = .next (setEvt (gseCount c 4) R.gseEvt 1)) ∧
           (shape → fld (forceOf s (R.gsCfg q)) 30 29 = 1 → subAuthOk s q m i.first = false → Answers rx fun t => t.gse = s.gse ∧
             evt t (R.gsStat q) 3 = true ∧ evt t R.gseEvt 3 = true) ∧
           (shape → fld (forceOf s (R.gsCfg q)) 30 29 = 0 ∨ subAuthOk s q m i.first = true →
             ((m.sim = true ∧ acc = false) ∨ (acc = true ∧ x.simLatch = true ∧ m.sim = false) → rx = .next (gseCount c 5)) ∧
             (m.sim = false → (acc = false ∨ x.simLatch = false) →
               (isNew x m = true → Answers rx fun t => (subOf t q).state = .valid ∧ (subOf t q).seen = true ∧ (subOf t q).stNum = m.stNum ∧
                 (subOf t q).sqNum = m.sqNum ∧ (subOf t q).expiry = expiry ∧ (subOf t q).test = msgTest m) ∧
               (isNew x m = false → m.stNum = x.stNum → newer m.sqNum x.sqNum = true → Answers rx fun t =>
                 subOf t q = { x with state := .valid, seen := true, sqNum := m.sqNum, expiry := expiry }) ∧
               (isNew x m = false → ¬(m.stNum = x.stNum ∧ newer m.sqNum x.sqNum = true) → rx = .next (gseCount c 6)))))))) ∧
    ((subOf s q).state = .valid → Answers (exec (.gooseTalExpiry q) s) fun t => (subOf t q).state = .timeout ∧
      evt t (R.gsStat q) 1 = true ∧ evt t R.gseEvt 2 = true ∧ (subOf s q).expiry ≤ t.ltc) ∧
    ((subOf s q).state ≠ .valid → exec (.gooseTalExpiry q) s = .next s)

/-- R439 to R444: an order joins those of the tick; the time-outs of an operation and of a selection, a position that ends one, the
reset of a blocked object, the response queue; a result; how the orders of one object are judged. -/
def Obligations.Commands : Prop :=
  ∀ (a : Acc) (rank : Fin 8) (v : Bool) (orig ctl o : Fin 256) (pos : Fin 4) (s : State),
    let u := accessed s
    let x := objOf s o
    let order := fun (i : Instr) (action : Nat) => exec i s = .next { u with cmd := { s.cmd with orders := s.cmd.orders ++
      [{ obj := o, rank := rank, action := if rank.val = 5 ∨ rank.val = 6 then action else 3, val := v, orig := orig, ctl := ctl }] } }
    let first := s.time.tickRun = true ∧ nextMer s ≤ s.ltc + (x.due - s.now)
    (admitted s a R.cmdOrd true →
      order (.cmdSelect a rank v orig ctl o) 0 ∧ order (.cmdOperate a rank v orig ctl o) 1 ∧ order (.cmdCancel a rank v orig ctl o) 2) ∧
    (∀ d, x.order = some d →
      (objPhase x = 2 → exec (.operTimeout o) s = .next (cmdResult (setObj (reach s x.due) o {}) d 9)) ∧
      (objPhase x = 1 → ¬first → exec (.selectTimeout o) s = .next (cmdResult (setObj (reach s x.due) o {}) d 14)) ∧
      (objPhase x = 1 → first → exec (.selectTimeout o) s = .next s) ∧
      (admitted s a (R.coPos o) true → objPhase x = 2 →
        let w := setShadow u (R.coPos o) (word pos)
        (pos.val = (if d.val then 2 else 1) → exec (.coPosWrite a o pos) s = .next (cmdResult (setObj w o {}) d 13)) ∧
        (pos.val ≠ (if d.val then 2 else 1) → exec (.coPosWrite a o pos) s = .next w))) ∧
    (objPhase x ≠ 2 → exec (.operTimeout o) s = .next s ∧
      (admitted s a (R.coPos o) true → exec (.coPosWrite a o pos) s = .next (setShadow u (R.coPos o) (word pos)))) ∧
    (objPhase x ≠ 1 → exec (.selectTimeout o) s = .next s) ∧
    (admitted s a R.cmdCtrl true →
      (guardedOk x.st = true → objPhase x = 3 → exec (.objReset a o) s = .next (setObj u o {})) ∧
      (guardedOk x.st = true → objPhase x ≠ 3 → exec (.objReset a o) s = .next u) ∧
      (guardedOk x.st = false → Answers (exec (.objReset a o) s) fun t => objOf t o = {} ∧ evt t R.cmdEvt 3 = true)) ∧
    (admitted s a R.cmdResPop false → qOk s.cmd.res = true →
      (s.cmd.res.items = [] → exec (.cmdResPop a) s = .next { u with bus := 0#32 }) ∧
      ∀ w rest, s.cmd.res.items = w :: rest → Answers (exec (.cmdResPop a) s) fun t => t.bus = w ∧ t.cmd.res.items = rest ∧
        qOk t.cmd.res = true ∧ { t with bus := s.bus, cmd := { t.cmd with res := s.cmd.res } } = u) ∧
    (∀ (d : Order) (cause : Fin 16), d.obj < 256 → d.rank < 8 → d.orig < 256 → d.ctl < 256 →
      let t := cmdResult s d cause
      liveOf t (R.coResult d.obj) = word (d.rank * 2 ^ 28 + cause * 2 ^ 24 + if d.rank ≤ 3 then 0 else d.orig * 2 ^ 16 + d.ctl * 2 ^ 8) ∧
      t.cmd.orders = s.cmd.orders ∧ t.cmd.objs = s.cmd.objs ∧
      (d.rank = 5 ∨ d.rank = 6 → qOk s.cmd.res = true → s.cmd.res.items.length < 256 → evt t R.cmdEvt 0 = true ∧
        t.cmd.res.items = s.cmd.res.items ++
          [word (2 ^ 31 + d.rank * 2 ^ 28 + cause * 2 ^ 24 + d.orig * 2 ^ 16 + d.ctl * 2 ^ 8 + d.obj)])) ∧
    (∀ (flag : Nat → Bool) (y : CmdObj) (d e : Order), d.action = 1 → d.obj = e.obj →
      let sbo := ctlModel s d.obj = 2 ∨ ctlModel s d.obj = 4
      let one := evalOrders s flag y [(0, d)]
      let two := evalOrders s flag y [(0, d), (1, e)]
      (badRequest s d = true → one.run = none ∧ one.res = [(0, d, 11)] ∧ one.obj = y) ∧
      (badRequest s d = false →
        (4 ≤ d.rank → sbo → holds y d = false → one.run = none ∧ one.res = [(0, d, 3)]) ∧
        (4 ≤ d.rank → (sbo → holds y d = true) → interlocked s flag d = true → one.run = none ∧ one.res = [(0, d, 5)]) ∧
        (2 ≤ d.rank → objPhase y = 2 → (4 ≤ d.rank → ¬sbo ∧ interlocked s flag d = false) → one.run = none ∧ one.res = [(0, d, 6)]) ∧
        (d.rank < 8 → objPhase y ≠ 2 → (4 ≤ d.rank → (sbo → holds y d = true) ∧ interlocked s flag d = false) →
          one.run = some d ∧ one.res = [])) ∧
      (badRequest s d = false → badRequest s e = false → e.action = 1 → objPhase y = 0 → d.rank < 4 → e.rank < 4 →
        (d.rank = e.rank → d.val ≠ e.val → two.run = none ∧ two.contra = some d.rank ∧ two.res = [(0, d, 2), (1, e, 2)]) ∧
        (d.rank < e.rank → two.run = some d ∧ two.res = [(1, e, 1)]) ∧
        (d.rank = e.rank → d.val = e.val → two.run = some d ∧ two.res = [(1, e, 12)])))

/-! ### Field buses -/

/-- R452, R453, R460 to R465, R468, R469, R471: what each command of a field bus controller does: a frame received, arbitration, the end of a
transmission, errors and bus-off, its switches, the pushed items of TQ1, the receive queues, the transceiver's fault. -/
def Obligations.FieldBuses : Prop :=
  ∀ (a : Acc) (m q : Fin 2) (f : CanFrame) (age : Nat) (e : CanErr) (w : Word) (v : Bool) (s : State),
    let u := accessed s
    let x := fbcOf s m
    let rx := exec (.canFrameRx m f age) s
    let count := fun (t : State) (i : Nat) => (liveOf t (R.fbcCnt m i)).toNat = min 0xFFFFFFFF ((liveOf s (R.fbcCnt m i)).toNat + 1)
    let good := f.malformed = false ∧ (f.remote = true ∨ canLen f.fdf f.data.length = true)
    let silent := bit (shadowOf s (R.fbcCfg m)) 2 = true
    (lbFbc s m = 1 ∨ lbFbc s m = 2 ∨ x.on = false → rx = .next s) ∧
    (lbFbc s m = 0 → x.on = true →
      (¬good → Answers rx fun t => count t 0 ∧ (¬silent → (fbcOf t m).rec_ = min 255 (x.rec_ + 1))) ∧
      (good → Answers rx fun t => (x.rec_ ≤ 127 → (fbcOf t m).rec_ = x.rec_ - 1) ∧
        (127 < x.rec_ → 119 ≤ (fbcOf t m).rec_ ∧ (fbcOf t m).rec_ ≤ 127) ∧ (f.remote = true → count t 1) ∧
        (f.remote = false → filterOf s m f = none → count t 2) ∧
        ∀ i, f.remote = false → filterOf s m f = some i →
          let act := fld (forceOf s (R.fbfAct m i)) 1 0
          let y := rqOf s m q
          (act = q.val + 1 → qOk y.q = true → y.q.items.length < rqDepth q → (rqOf t m q).q.items = y.q.items ++
            [{ msg := { fdf := f.fdf, brs := f.brs, ide := f.ide, id := f.id.toNat, data := f.data }, esi := f.esi, filter := i
               ns := nsOf (s.ltc - age), sec := secOf (s.ltc - age) }]) ∧
          (act = q.val + 1 → qOk y.q = true → rqDepth q ≤ y.q.items.length → (rqOf t m q).q.items = y.q.items ∧
            evt t (R.rqEvt m q) 2 = true) ∧
          (∀ o c orig ctl b6 b7 : Byte, act = 3 → f.ide = true → f.fdf = true → f.id.toNat / 2 ^ 25 = 2 → c.toNat ≤ 2 →
            f.data = [0x10#8 + c, 0xEF#8 - c, o, if v then 1#8 else 0#8, orig, ctl, b6, b7] → bit (forceOf s (R.coCfg o.toNat)) 31 = true →
            t.cmd.orders = s.cmd.orders ++ [{ obj := o.toNat, rank := 4, action := c.toNat, val := v, orig := orig.toNat, ctl := ctl.toNat
                                              bus := m, src := f.id.toNat / 2 ^ 9 % 256 }]))) ∧
    (canStart s m = false → exec (.canArbitration m v) s = .next s) ∧
    (canStart s m = true → qOk x.tq0 = true → qOk x.tq1 = true → lbFbc s m = 0 →
      (∀ i rest, x.tq0.items = i :: rest →
        exec (.canArbitration m true) s = .next (setFbc s m { x with bus := some (true, i.msg) }) ∧
        exec (.canArbitration m false) s = .next (tq0Report (tq0Fail (setFbc s m { x with tq0 := qPop 16 x.tq0 }) m 15 10) i false)) ∧
      (∀ i rest, x.tq0.items = [] → x.tq1.items = i :: rest →
        exec (.canArbitration m true) s = .next (setFbc s m { x with bus := some (false, i) }) ∧
        exec (.canArbitration m false) s = .next s)) ∧
    (x.bus = none → qOk x.tq0 = true → qOk x.tq1 = true → exec (.canTxComplete m v) s = .next s) ∧
    (qOk x.tq0 = true → qOk x.tq1 = true → lbFbc s m = 0 →
      (∀ y i rest, x.bus = some (true, y) → x.tq0.items = i :: rest →
        let p := setFbc s m { x with bus := none, tq0 := qPop 16 x.tq0 }
        exec (.canTxComplete m true) s = .next (tq0Report (tecDown (bump p (R.tq0Cnt m) 31 16 1) m) i true) ∧
        exec (.canTxComplete m false) s = .next (tq0Report (tq0Fail p m 9 5) i false)) ∧
      (∀ y, x.bus = some (false, y) →
        exec (.canTxComplete m true) s = .next (tecDown (setFbc s m { x with bus := none, tq1 := qPop 64 x.tq1 }) m) ∧
        exec (.canTxComplete m false) s = .next (setFbc s m { x with bus := none }))) ∧
    (x.on = false → exec (.canBusError m e) s = .next s) ∧
    (x.on = true → Answers (exec (.canBusError m e) s) fun t => count t 4 ∧ (¬silent →
      (fbcOf t m).tec = (if e = .transmitter then x.tec + 8 else x.tec) ∧
      (fbcOf t m).rec_ = (match e with | .transmitter => x.rec_ | .receiver => min 255 (x.rec_ + 1) | .receiverDominant => min 255 (x.rec_ + 8)) ∧
      (x.fc = .active ∨ x.fc = .passive →
        (256 ≤ (fbcOf t m).tec → (fbcOf t m).fc = (if bit (shadowOf s (R.fbcCfg m)) 3 then .recovering else .busOff) ∧
          evt t (R.fbcEvt m) 3 = true ∧ (fbcOf t m).tq0.items = [] ∧ (fbcOf t m).bus = none) ∧
        ((fbcOf t m).tec < 256 → (fbcOf t m).fc = if 128 ≤ (fbcOf t m).tec ∨ 128 ≤ (fbcOf t m).rec_ then .passive else .active)))) ∧
    (x.fc = .recovering → exec (.busOffRecovered m) s =
      .next (fbcPost (setEvt (setFbc s m { x with fc := .active, tec := 0, rec_ := 0 }) (R.fbcEvt m) 4) m 1 0x12 0 2)) ∧
    (x.fc ≠ .recovering → exec (.busOffRecovered m) s = .next s) ∧
    (admitted s a (R.fbcCtrl m) true →
      exec (.fbcRecover a m) s = .next (if x.fc = .busOff then setFbc u m { x with fc := .recovering } else u) ∧
      (x.on = true → exec (.fbcEnable a m) s = .next u) ∧
      (x.on = false → fbcBad s m = true → exec (.fbcEnable a m) s = .next (setEvt u (R.fbcEvt m) 0)) ∧
      (x.on = false → fbcBad s m = false →
        exec (.fbcEnable a m) s = .next (setFbc (setShadow u (R.fbcCtrl m) 1#32) m { x with on := true })) ∧
      (x.on = false → exec (.fbcDisable a m) s = .next u) ∧
      (x.on = true → Answers (exec (.fbcDisable a m) s) fun t => (fbcOf t m).on = false ∧ (fbcOf t m).bus = none ∧
        (fbcOf t m).tq0.items = [] ∧ (fbcOf t m).tq1 = x.tq1 ∧ t.shadow = (setShadow s (R.fbcCtrl m) 0#32).shadow)) ∧
    (admitted s a (R.tq1Push m) true → qOk x.tq1 = true →
      let push := exec (.tq1Push a m w) s
      (x.item = [] → fld w 31 24 ≠ 0xA5 →
        push = .next (tq1Discard (setFbc (if x.skip then u else setEvt u (R.tq1Evt m) 0) m { x with skip := true }) m 1)) ∧
      (x.item = [] → fld w 31 24 = 0xA5 → canLen (bit w 23) (fld w 6 0) = true → x.tq1.items.length < 64 →
        push = .next (setFbc u m { x with skip := false, item := [w], want := 2 + (fld w 6 0 + 3) / 4 })) ∧
      (x.item = [] → fld w 31 24 = 0xA5 → canLen (bit w 23) (fld w 6 0) = true → 64 ≤ x.tq1.items.length → Answers push fun t =>
        fbcOf t m = { x with skip := true } ∧ evt t (R.tq1Evt m) 1 = true) ∧
      (∀ h, x.item = [h] → tq1IdOk h w = false → Answers push fun t => fbcOf t m = { x with item := [], skip := true } ∧
        evt t (R.tq1Evt m) 0 = true) ∧
      (∀ h l, x.item = h :: l → (l = [] → tq1IdOk h w = true) →
        (l.length + 2 < x.want → push = .next (setFbc u m { x with item := h :: l ++ [w] })) ∧
        (x.want ≤ l.length + 2 → push = .next (setFbc u m
          { x with item := [], tq1 := qPush 64 x.tq1 (tq1Msg h ((l ++ [w]).headD 0#32) (l.drop 1 ++ if l = [] then [] else [w])) })))) ∧
    (admitted s a (R.tq1Ctrl m) true → exec (.tq1Flush a m) s = .next (setFbc u m { x with tq1 := {}, item := [], skip := true })) ∧
    (let y := rqOf s m q
     (admitted s a (R.rqHead m q) false → qOk y.q = true →
       (y.q.items = [] → exec (.rqHead a m q) s =
         .next { setEvt (setRq u m q { y with win := [] }) (R.rqEvt m q) 3 with bus := 0#32 }) ∧
       ∀ h rest, y.q.items = h :: rest → Answers (exec (.rqHead a m q) s) fun t => t.bus = (rqWords h).headD 0#32 ∧
         (rqOf t m q).win = rqWords h ∧ (rqOf t m q).q.items = rest ∧ qOk (rqOf t m q).q = true) ∧
     (admitted s a (R.rqCtrl m q) true → Answers (exec (.rqFlush a m q) s) fun t => (rqOf t m q).q.items = [] ∧ (rqOf t m q).win = [] ∧
       fld (liveOf t (R.rqCnt m q)) 15 0 = min 0xFFFF (fld (liveOf s (R.rqCnt m q)) 15 0 + y.q.items.length))) ∧
    exec (.xcvrFault m v) s = .next (let t := setFbc s m { x with xcvr := v }
      if v = true ∧ x.xcvr = false then fbcPost (setEvt t (R.fbcEvt m) 5) m 0 0x13 0 1 else t)

/-! ### The recorder and the almanac -/

/-- R477, R479 to R484, R486, R489 to R491: the recorder's switches, triggers, rows, hold-off and segment commands. -/
def Obligations.Recorder : Prop :=
  ∀ (a : Acc) (i : Fin 4096) (s : State),
    let u := accessed s
    let d := s.drc
    let ks := (List.range (min 1025 (drcNch s))).map (drcK s)
    let n := fld (shadowOf s R.drcCfg) 11 0 + 1
    let x := segOf s i
    (admitted s a R.drcCtrl true →
      (d.on = true → exec (.drcEnable a) s = .next u) ∧
      (d.on = false → drcBad s ks = true → exec (.drcEnable a) s = .next (setEvt u R.drcEvt 0)) ∧
      (d.on = false → drcBad s ks = false → Answers (exec (.drcEnable a) s) fun t => t.drc.on = true ∧ t.drc.ks = ks ∧
        t.drc.rowBytes = rowLen s ks ∧ t.drc.segN = n ∧ t.drc.rows = [] ∧ t.drc.enNum = d.enNum + 1 ∧ shadowOf t R.drcCtrl = 1#32 ∧
        ∀ j, (if d.segN = n then nextSeg s else some 0) = some j → t.drc.cur = some j ∧
          segOf t j = { state := .armed, recNum := d.recNum + 1, enNum := d.enNum + 1, listCrc := listCrcOf s }) ∧
      (Answers (exec (.drcDisable a) s) fun t => t.drc.on = false ∧ t.drc.cur = none ∧ t.drc.rows = [] ∧ shadowOf t R.drcCtrl = 0#32 ∧
        (d.cur = some i.val → (segOf t i).state = match x.state with | .recording => .aborted | .armed => .free | y => y) ∧
        (d.cur ≠ some i.val → segOf t i = x))) ∧
    (admitted s a R.drcTrigMan true → exec (.manualTrigger a) s = .next (drcTrigger u 5 0 s.ltc (curT s))) ∧
    (∀ (ty ix at_ : Nat) (row : Word), d.on = true → d.holdUntil = none →
      let t := drcTrigger s ty ix at_ row
      let src := word (ty * 2 ^ 28 + ix)
      (d.holdCount ≠ 0 → t = drcCount { s with drc := { d with holdCount := d.holdCount - 1 } } 2) ∧
      (d.holdCount = 0 → d.cur = none → t = drcCount s 3) ∧
      (d.holdCount = 0 → d.cur = some i.val → x.state = .recording → t = drcCount (setSeg s i { x with
        trigCount := min 0xFFFFFFFF (x.trigCount + 1)
        further := if x.further.length < 16 then x.further ++ [((at_ : Int) - x.trigT, src)] else x.further }) 1) ∧
      (d.holdCount = 0 → d.cur = some i.val → x.state = .armed → shadowOf s R.drcPre = 0#32 → x.postRec < (shadowOf s R.drcPost).toNat →
        (segOf t i).state = .recording ∧ (segOf t i).trigT = at_ ∧ (segOf t i).trigRow = row.toNat ∧ (segOf t i).trigSrc = src ∧
          (liveOf t (R.drcCnt 0)).toNat = min 0xFFFFFFFF ((liveOf s (R.drcCnt 0)).toNat + 1))) ∧
    (∀ x, d.holdUntil = some x →
      let r := reach s x
      exec .holdOffExpiry s = .next { r with drc := { d with holdUntil := none } }) ∧
    (d.holdUntil = none → exec .holdOffExpiry s = .next s) ∧
    (admitted s a R.drcSegCmd true →
      (x.state = .closed ∨ x.state = .aborted → exec (.segClaim a i) s = .next (setSeg u i { x with claimed := true })) ∧
      (x.state ≠ .closed → x.state ≠ .aborted → exec (.segClaim a i) s = .next (setEvt u R.drcEvt 5)) ∧
      (x.claimed = false → exec (.segRelease a i) s = .next (setEvt u R.drcEvt 5)) ∧
      (x.claimed = true →
        let v := drcWrite (setSeg u i { x with claimed := false, state := .free }) (segAddr s i + 8) [0#8, 0#8, 0#8, 0#8]
        exec (.segRelease a i) s = .next (if d.on && d.cur.isNone then drcArm v else v)) ∧
      exec (.segUnclaim a i) s = .next (setSeg u i { x with claimed := false })) ∧
    (d.rows = [] → exec .drcRowWrite s = .next s) ∧
    (∀ r rest, d.rows = r :: rest →
      ((∃ c, c < drcNch s ∧ drcWaits s c r.tick = true) → exec .drcRowWrite s = .next s) ∧
      ((∀ c, c < drcNch s → drcWaits s c r.tick = false) → qOk d.rowPtr = true → d.cur = some i.val → Answers (exec .drcRowWrite s) fun t =>
        let pre := (shadowOf s R.drcPre).toNat
        let b := (rowBytes { s with drc := { d with rows := rest } } r).1
        let at_ := if x.state = .armed then preAddr s i ((x.firstRow + x.preRec) % pre) else postAddr s i x.postRec
        let last := x.state = .recording ∧ (shadowOf s R.drcPost).toNat ≤ x.postRec + 1
        t.drc.rows = rest ∧
        (x.state = .armed → 0 < pre →
          segOf t i = if x.preRec < pre then { x with preRec := x.preRec + 1 } else { x with firstRow := (x.firstRow + 1) % pre }) ∧
        (x.state = .recording → rowLate r x = true → ¬last → segOf t i = { x with postRec := x.postRec + 1 }) ∧
        ((x.state = .armed ∧ 0 < pre) ∨ (x.state = .recording ∧ rowLate r x = true ∧ ¬last) →
          dmaMay s (dmaTag s 0x13 none) .write at_ b.length → rdBytes t at_ b.length = b)))

/-- R494, R496, R497, R499: a post joins the queue, a record is written from it into its slot; which slot it takes; a firmware post; a seek. -/
def Obligations.Almanac : Prop :=
  ∀ (a : Acc) (w : Word) (s : State),
    let u := accessed s
    let h := shadowOf s (0x2200000000 + a.core.val * 0x40)
    let x := s.alm
    let calm := s.mir.unsent = [] ∧ ∀ p, p < 32 → qOk (hnqOf s p).q = true
    (admitted s a R.almPostGo true →
      (fld h 31 30 = 0 → a.secure = false → exec (.almPostGo a) s = .next (setEvt u R.almEvt 6)) ∧
      (fld h 31 30 ≠ 0 ∨ a.secure = true → qOk x.posts = true → x.posts.items.length < 64 →
        let info := (List.range 6).map fun i => shadowOf s (0x2200000000 + a.core.val * 0x40 + (4 + 4 * i))
        let post : Post := { sev := fld h 31 30, src := if a.secure then 0x21 else 0x20, code := fld h 15 8
                             pid := if bit h 7 then some (fld h 4 0) else none, info := info, ns := nsOf s.ltc, sec := secOf s.ltc
                             sync := s.time.sync, tick := s.time.tick }
        exec (.almPostGo a) s = .next { u with alm := { x with posts := qPush 64 x.posts post } })) ∧
    (admitted s a R.almCurSeq true → let v := setShadow u R.almCurSeq w
      exec (.almSeek a w) s = .next { v with alm := { x with found := almFind s w } }) ∧
    (qOk x.posts = true →
      (x.paused = true ∨ x.scanning = true ∨ x.posts.items = [] → exec .almRecordWrite s = .next s) ∧
      (∀ p rest, x.paused = false → x.scanning = false → x.posts.items = p :: rest →
        (∀ i, almSlot s p.sev = some i → Answers (exec .almRecordWrite s) fun t => (calm → t.alm.posts.items = rest) ∧ t.alm.seqNext = x.seqNext + 1 ∧
          evt t R.almEvt 0 = true ∧ slotWord t i 0 = slotWord s i 0 + 2 ∧ slotWord t i 15 = crcWords (recordWords s p) ∧
          ∀ j v, (recordWords s p)[j]? = some v → slotWord t i (j + 1) = v) ∧
        (almSlot s p.sev = none → Answers (exec .almRecordWrite s) fun t => (calm → t.alm.posts.items = rest) ∧ t.alm.seqNext = x.seqNext ∧
          evt t R.almEvt 3 = true ∧ t.mem = s.mem))) ∧
    (memOk s → ∀ sev i, almSlot s sev = some i →
      (slotValid s i = false ∧ i < 65536 ∧ ∀ j, j < i → slotValid s j = true) ∨
      ((∀ j, j < 65536 → slotValid s j = true) ∧ slotValid s i = true ∧ sev ≤ fld (slotWord s i 1) 31 30))

/-! ### Metering -/

/-- R510, R512, R516 to R519, R521, R522, R524 to R526, R531: enables, windows and accumulators, the commands of MTR_CMD and their errors, the write of a
checkpoint, the latched read of an accumulator, the pulses. -/
def Obligations.Metering : Prop :=
  ∀ (a : Acc) (p : Fin 256) (acc8 : Fin 8) (acc : Fin 6) (n : Fin 4) (s : State),
    let u := accessed s
    let m := s.mtr
    let x := mpOf s p
    (admitted s a (R.mpCtrl p) true →
      (x.on = true → exec (.meterPointEnable a p) s = .next u) ∧
      (x.on = false → mpBad s p = true → exec (.meterPointEnable a p) s = .next (mtrNote (setEvt u R.mtrEvt 0) 1 0x13 p none [])) ∧
      (x.on = false → mpBad s p = false → exec (.meterPointEnable a p) s =
        .next (setShadow (setMp u p { x with on := true, win := none, full := [] }) (R.mpCtrl p) 1#32))) ∧
    (x.full = [] → exec (.meterWindowEnd p) s = .next s) ∧
    (∀ w rest, x.full = w :: rest → w.vals ≠ [] →
      let es := elemsOf s p w
      let pw := (es.map (·.p)).foldl (· + ·) 0
      let q := (es.map (·.q)).foldl (· + ·) 0
      let counts := laneMaster s = true ∧ (w.test = false ∨ bit (mpCfg s p) 16 = true) ∧
        (bit (mpCfg s p) 15 = false ∨ flagState s (fld (mpCfg s p) 11 0) = false)
      Answers (exec (.meterWindowEnd p) s) fun t => (mpOf t p).full = rest ∧ (mpOf t p).count = x.count + 1 ∧
        (¬counts → (mpOf t p).acc = x.acc ∧ (mpOf t p).frac = x.frac) ∧
        (counts → (mpOf t p).acc = (mpOf (energyAdd s p pw q) p).acc ∧ (mpOf t p).wrap = (mpOf (energyAdd s p pw q) p).wrap)) ∧
    (∀ e : Nat,
      let t := accAdd s p acc e
      let v := mget 0 x.acc acc + (mget 0 x.frac acc + e) / fracUnit
      mget 0 (mpOf t p).frac acc = (mget 0 x.frac acc + e) % fracUnit ∧ mget 0 (mpOf t p).acc acc = v % mpMod s p ∧
        mget 0 (mpOf t p).wrap acc = (mget 0 x.wrap acc + v / mpMod s p) % 256 ∧
        ∀ j : Fin 6, j ≠ acc → mget 0 (mpOf t p).acc j = mget 0 x.acc j) ∧
    (admitted s a R.mtrCmd true →
      let ended := fun (i : Instr) (e : Nat) => exec i s = .next (setEvt { u with mtr := { m with done := true, err := e } } R.mtrEvt 1)
      let b := match m.newest with | some (b, _, _) => !b | none => false
      let q := match m.newest with | some (_, _, q) => q + 1 | none => 1#32
      let begins := fun (kind : Nat) (t : State) => t.mtr.busy = some (b, kind, q, true) ∧ t.mtr.done = false ∧ t.mtr.err = 0 ∧
        rdBytes t (setBase b) 8 = leBytes 4 0x4C444D45 ++ leBytes 4 kind ∧ ∀ j, (mpOf t j).demand = 0#32
      (mtrCmdRuns s = true → ∀ i ∈ [Instr.mtrPreset a acc8 p, .mtrCkptNow a, .mtrStop a, .mtrResume a],
        exec i s = .next (setEvt { u with mtr := { m with err := 1 } } R.mtrEvt 1)) ∧
      (mtrCmdRuns s = false →
        (let v := (shadowOf s R.mtrPresetHi).toNat * 2 ^ 32 + (shadowOf s R.mtrPresetLo).toNat
         (x.on = true → ended (.mtrPreset a acc8 p) 2) ∧
         (x.on = false → 5 < acc8.val ∨ mpMod s p ≤ v → ended (.mtrPreset a acc8 p) 3) ∧
         (x.on = false → acc8.val ≤ 5 → v < mpMod s p → Answers (exec (.mtrPreset a acc8 p) s) fun t => t.mtr.done = true ∧ t.mtr.err = 0 ∧
           mpOf t p = { x with acc := mset 0 x.acc acc8 v, wrap := mset 0 x.wrap acc8 0 })) ∧
        (m.busy = none → Answers (exec (.mtrCkptNow a) s) (begins 1)) ∧
        (m.busy = none → Answers (exec (.mtrStop a) s) fun t => begins 3 t ∧ t.mtr.stopped = true) ∧
        Answers (exec (.mtrResume a) s) fun t => t.mtr.stopped = false ∧ t.mtr.done = true ∧ t.mtr.err = 0 ∧
          ∀ j, (mpOf t j).win = none ∧ (mpOf t j).full = [] ∧ (mpOf t j).acc = (mpOf s j).acc)) ∧
    (m.busy = none → exec .checkpointWriteDone s = .next s) ∧
    (∀ b k q cmd, m.busy = some (b, k, q, cmd) →
      (m.wait = [] → exec .checkpointWriteDone s = .next { pokeBytes s (setBase b + 8) (leBytes 4 q.toNat ++ leBytes 4 (~~~q).toNat) with
        mtr := { m with newest := some (b, k, q), busy := none, done := m.done || cmd } }) ∧
      ∀ c rest, m.wait = c :: rest → Answers (exec .checkpointWriteDone s) fun t => t.mtr.newest = some (b, k, q) ∧
        t.mtr.busy = some (!b, c.kind, q + 1, c.cmd) ∧ t.mtr.wait = rest) ∧
    (admitted s a (R.accLo p acc) false → Answers (exec (.accRead a p acc) s) fun t => t.bus = word (mget 0 x.acc acc) ∧
      mget 0#32 (mpOf t p).latch (2 * acc) = word (mget 0 x.acc acc / 2 ^ 32) ∧
      mget 0#32 (mpOf t p).latch (2 * acc + 1) = word (mget 0 x.wrap acc) ∧ (mpOf t p).acc = x.acc) ∧
    (pulOn s n = false → exec (.pulsePeriod n) s = .next s) ∧
    (pulOn s n = true →
      let y := pulOf s n
      let r := reach s y.next
      let w := forceOf s (R.pulTime n)
      let z := { y with next := y.next + (fld w 25 16 + fld w 9 0) * 1000000 }
      Answers (exec (.pulsePeriod n) s) fun t => t.now = r.now ∧
        (laneMaster r = true → y.backlog = 0 → pulOf t n = z) ∧
        (laneMaster r = true → y.backlog ≠ 0 → pulOf t n = { z with backlog := y.backlog - 1, onTill := r.now + fld w 25 16 * 1000000 }) ∧
        (laneMaster r = false → pulOf t n = { z with residue := 0, backlog := 0, onTill := 0 }))

/-! ### Self-tests and the dump -/

/-- R569 to R572: the readback test of a lane, the start-up self-test and its reruns. -/
def Obligations.SelfTests : Prop :=
  ∀ (a : Acc) (n : Fin 32) (k : Fin 16) (x y : Bool) (fails : BitVec 9) (s : State),
    let u := accessed s
    let d := s.diag
    let bad := (List.range 9).filter fun i => fails.getLsbD i
    (admitted s a R.diagRbTest true →
      (d.rbTest ≠ none → exec (.rbTest a n) s = .next u) ∧
      (d.rbTest = none → exec (.rbTest a n) s = .next { u with diag := { d with
        rbTest := some (n.val, s.now), rbLane := n, rbDone := false, rbPass := !(laneOf s n).rbErr } })) ∧
    (d.rbTest = none → exec (.rbTestDone x y) s = .next s) ∧
    (∀ l t, d.rbTest = some (l, t) →
      let r := reach s (t + 48)
      let pass := d.rbPass && x && !y
      let v := { r with diag := { d with rbTest := none, rbDone := true, rbPass := pass } }
      exec (.rbTestDone x y) s = .next (if pass then v else
        diagNote (almPost (setEvt v R.diagEvt 2) 1 0x18 0x12 none [word l]) 1 0x12 l)) ∧
    (s.trust.stage ≠ 2 ∨ d.bistOk = true ∨ s.trust.halted = true → exec (.builtInSelfTest fails) s = .next s) ∧
    (s.trust.stage = 2 → d.bistOk = false → s.trust.halted = false → Answers (exec (.builtInSelfTest fails) s) fun t =>
      t.diag.bistFail = word fails.toNat ∧ (bad ≠ [] → evt t R.diagEvt 1 = true) ∧
        (if ∃ i ∈ bad, i ≤ 5 then t.trust = { s.trust with halted := true } ∧ t.diag.bistOk = false
         else t.trust = s.trust ∧ t.diag.bistOk = true ∧ t.diag.bistPost = bad)) ∧
    (admitted s a R.diagBistCtrl true →
      let sets := fun f : DiagSt => exec (.bistRerun a k) s = .next { u with diag := f }
      (d.bist ≠ none → sets { d with bistErr := 2 }) ∧
      (d.bist = none → k.val ≠ 2 → k.val ≠ 4 → sets { d with bistDone := true, bistErr := 1 }) ∧
      (d.bist = none → k.val = 2 → s.trust.cmd ≠ none → sets { d with bistDone := true, bistErr := 2 }) ∧
      (d.bist = none → k.val = 4 ∨ (k.val = 2 ∧ s.trust.cmd = none) → sets { d with bist := some k.val, bistDone := false, bistErr := 0 })) ∧
    (d.bist = none → exec (.bistDone x) s = .next s) ∧
    (∀ i, d.bist = some i →
      let v := { s with diag := { d with bist := none, bistDone := true, bistFail := setFld d.bistFail i i (b2n x 0) } }
      exec (.bistDone x) s = .next (if x then almPost (setEvt v R.diagEvt 1) 1 0x18 0x10 none [word i] else v))

/-- R575 to R578: the operations of the dump and their errors: the freeze stops every run and every lane, a seal writes the dump with its marker, a reset keeps
it, an unseal opens it where its tag holds, an acknowledge wipes it; a wrong key is counted. -/
def Obligations.FatalErrorDump : Prop :=
  ∀ (a : Acc) (key : Half) (s : State),
    let u := accessed s
    let d := s.diag
    let sets := fun (i : Instr) (f : DiagSt) => exec i s = .next { u with diag := f }
    (admitted s a R.diagDumpCtrl true →
      (key ≠ 0xD0C5#16 → ∀ i ∈ [Instr.dumpFreeze a key, .dumpSeal a key, .dumpReset a key, .dumpUnseal a key, .dumpAck a key],
        sets i { d with badKey := min 255 (d.badKey + 1) }) ∧
      (key = 0xD0C5#16 →
        (dumpBusy s = true → ∀ i ∈ [Instr.dumpFreeze a key, .dumpSeal a key, .dumpUnseal a key, .dumpAck a key], sets i { d with dumpErr := 2 }) ∧
        (soleCause s → Answers (exec (.dumpReset a key) s) (ResetFrom s 4)) ∧
        (dumpBusy s = false →
          (d.frozen = true → sets (.dumpFreeze a key) { d with dumpErr := 0 }) ∧
          (d.frozen = false → Answers (exec (.dumpFreeze a key) s) fun t =>
            t.diag = { d with frozen := true, freezeAt := s.ltc, dumpErr := 0 } ∧ t.mem = s.mem ∧
              ∀ n, n < 64 → (coreOf t n).mode ≠ .run ∧ (n < 32 → (laneOf t n).drive = .hold)) ∧
          (d.frozen = false → sets (.dumpSeal a key) { d with dumpErr := 1 }) ∧
          (d.frozen = true → exec (.dumpSeal a key) s = .next (wrBytes { u with diag := { d with sealing := some s.now, dumpErr := 0 } }
            0x4FC000090 (List.replicate 8 0#8))) ∧
          (d.kept = false → sets (.dumpUnseal a key) { d with dumpErr := 4 } ∧ sets (.dumpAck a key) { d with dumpErr := 4 }) ∧
          (d.kept = true → sets (.dumpAck a key) { d with wiping := true, dumpErr := 0 }) ∧
          (d.kept = true → eccIn s 0x4FC000000 (0x100 + min (rd32 s 0x4FC00000C).toNat 0x3FFFF00) = [] →
            let h := rdBytes s 0x4FC000000 0x80
            let n := min (rd32 s 0x4FC00000C).toNat 0x3FFFF00
            let iv := slice h 0x24 12
            let k := dumpKey (slice h 0x30 32)
            let c := rdBytes s 0x4FC000100 n
            let dst := fld (shadowOf s R.diagDumpArg) 31 6 * 64
            let tag : Tag := { secure := true, pid := 0, sys := true, master := 0x98#8 }
            (gcmTag k iv h c ≠ rdBytes s 0x4FC000080 16 → sets (.dumpUnseal a key) { d with dumpErr := 3 }) ∧
            (gcmTag k iv h c = rdBytes s 0x4FC000080 16 → dmaMay s tag .write dst n →
              exec (.dumpUnseal a key) s = .next (wrBytes { u with diag := { d with dumpErr := 0 } } dst ((gcmBytes k iv c).take n))))))) ∧
    (d.sealing = none → exec .sealDone s = .next s) ∧
    (d.sealing ≠ none → Answers (exec .sealDone s) fun t => t.diag = { d with sealing := none } ∧ evt t R.diagEvt 0 = true ∧ dumpMark t = true ∧
      rd32 t 0x4FC000000 = 0x4C444455#32) ∧
    (d.wiping = false → exec .dumpRegionWipeDone s = .next s) ∧
    (d.wiping = true → Answers (exec .dumpRegionWipeDone s) fun t => t.diag = { d with wiping := false, kept := false } ∧
      ∀ b, rdByte t b = if inDump b then 0#8 else rdByte s b)

/-! ### The mirror -/

/-- R532, R536, R538, R540 to R543, R551: the switches of the mirror, a handover, the lease frame of a tick, its lanes, invalid words. -/
def Obligations.MirrorControl : Prop :=
  ∀ (a : Acc) (l : Fin 2) (v : Bool) (s : State),
    let u := accessed s
    let m := s.mir
    let held := fun t : State => ∀ n, n < 32 → (laneOf t n).drive = .hold
    (admitted s a R.mirCtrl true →
      (m.role ≠ .off → exec (.mirEnable a) s = .next u) ∧
      (m.role = .off → s.trust.lc ≠ .operational ∨ fld (shadowOf s R.mirCfg) 31 24 < 8 →
        exec (.mirEnable a) s = .next (setEvt u R.mirEvt 13)) ∧
      (m.role = .off → s.trust.lc = .operational → 8 ≤ fld (shadowOf s R.mirCfg) 31 24 → Answers (exec (.mirEnable a) s) fun t =>
        t.mir.role = .listen ∧ t.mir.epoch = m.epoch ∧ t.mir.listen = 0 ∧ t.mir.copied = false ∧ shadowOf t R.mirCtrl = 1#32 ∧ held t ∧
          ∀ k, (taskOf t k).pend = none) ∧
      (m.role = .off → exec (.mirDisable a) s = .next u) ∧
      (m.role ≠ .off → Answers (exec (.mirDisable a) s) fun t => t.mir.role = .off ∧ t.mir.epoch = m.epoch ∧ shadowOf t R.mirCtrl = 0#32 ∧
        (s.trust.lc = .operational → held t)) ∧
      (m.role = .holder → m.ptnrReady = true → exec (.handover a) s = .next { u with mir := { m with handPend := 1 } }) ∧
      (m.role ≠ .holder ∨ m.ptnrReady = false → exec (.handover a) s = .next (setEvt u R.mirEvt 8))) ∧
    (m.role = .off ∨ s.diag.frozen = true ∨ s.time.tickRun = false → exec .leaseFrameTx s = .next s) ∧
    (s.diag.frozen = false → s.time.tickRun = true →
      let r := reachLtc s (s.time.tickStart + 10000)
      (m.role = .listen ∨ m.role = .standby → exec .leaseFrameTx s =
        .next { r with mir := { m with busSent := some (leaseWord s 2 (readySent s) m.thruSec m.thruTick) } }) ∧
      (m.role = .holder → Answers (exec .leaseFrameTx s) fun t => t.now = r.now ∧ t.mir.role = .holder ∧
        t.mir.busSent = some (leaseWord s 1 false (endedTick s).1 (endedTick s).2) ∧ (∀ x, m.masterAt = some x → x ≤ r.now → t.mir.masterAt = none))) ∧
    (m.lanes.testBit l = false → exec (.mirLaneDown l) s = .next s) ∧
    (m.lanes.testBit l = true → Answers (exec (.mirLaneDown l) s) fun t => t.mir = { m with lanes := m.lanes - 2 ^ l.val } ∧
      evt t R.mirEvt 10 = true) ∧
    exec (.mirrorLaneUp l) s = .next { s with mir := { m with lanes := m.lanes ||| 2 ^ l.val } } ∧
    (m.role = .off → exec (.leaseWordInvalid v) s = .next s) ∧
    (m.role ≠ .off → exec (.leaseWordInvalid v) s = .next (mirCount (if v then guardFault s 0x16 else s) 1))

/-- R538 to R544, R550, R552 to R554: what a lease word does in each role: one of the module's own position, in LISTEN, in STANDBY and at the
holder, which yields to a newer epoch; a tick packet discarded under its cause, or applied by a standby. -/
def Obligations.MirrorReception : Prop :=
  ∀ (w : LeaseWord) (p : MirPacket) (s : State),
    let m := s.mir
    let types := [(Instr.renewRx w, 1), (.statusRx w, 2), (.claimRx w, 3), (.releaseRx w, 4), (.twilightRx w, 5), (.twClearRx w, 6)]
    let heard := fun (type_ : Nat) =>
      let hear := type_ == 1 || type_ == 3 || type_ == 4 || type_ == 5
      { m with lbType := if w.path then m.lbType else type_, mlType := if w.path then type_ else m.mlType
               lbHeard := m.lbHeard || (hear && !w.path), mlHeard := m.mlHeard || (hear && w.path), ptnrTwilight := m.ptnrTwilight && !w.ready }
    let becomes := fun (i : Instr) (x : MirSt) => Answers (exec i s) fun t => t.mir = x ∧ t.mem = s.mem ∧ t.force = s.force
    let d := (w.epoch.val + 256 - m.epoch) % 256
    let yields := fun (i : Instr) => Answers (exec i s) fun t => t.mir.role = .standby ∧ t.mir.epoch = w.epoch ∧ t.mir.masterAt = none ∧
      t.mir.copied = false ∧ evt t R.mirEvt 2 = true ∧ (s.trust.lc = .operational → ∀ n, n < 32 → (laneOf t n).drive = .hold)
    (m.role = .off → ∀ e ∈ types, exec e.1 s = .next s) ∧
    (m.role ≠ .off → w.pos = ownPos s → ∀ e ∈ types, exec e.1 s =
      .next (mirCount (setEvt { s with mir := { m with posConflict := true } } R.mirEvt 9) (if w.path then 3 else 1))) ∧
    (w.pos ≠ ownPos s →
      (m.role ≠ .off → becomes (.twClearRx w) { heard 6 with ptnrTwilight := false }) ∧
      (m.role = .listen ∨ m.role = .standby → becomes (.statusRx w) (heard 2) ∧ becomes (.twilightRx w) { heard 5 with ptnrTwilight := true }) ∧
      (m.role = .standby → becomes (.renewRx w) { heard 1 with epoch := w.epoch } ∧ becomes (.claimRx w) { heard 3 with epoch := w.epoch } ∧
        becomes (.releaseRx w) (if w.path then { heard 4 with relApplied := true } else { heard 4 with relBus := some (m.relBus.getD 0) })) ∧
      (m.role = .listen → ∀ i ∈ [Instr.renewRx w, .claimRx w], Answers (exec i s) fun t => t.mir.role = .standby ∧ t.mir.epoch = w.epoch ∧
        t.mir.copied = false ∧ ∀ k, (taskOf t k).pend = none) ∧
      (m.role = .listen → becomes (.releaseRx w) (heard 4)) ∧
      (m.role = .holder →
        (d = 0 → ownPos s = false → becomes (.renewRx w) (heard 1)) ∧ (d = 0 → ownPos s = true → yields (.renewRx w)) ∧
        (0 < d → d < 128 → yields (.renewRx w)) ∧
        (128 ≤ d → Answers (exec (.renewRx w) s) fun t => t.mir = heard 1 ∧
          (liveOf t (R.mirCnt 5)).toNat = min 0xFFFFFFFF ((liveOf s (R.mirCnt 5)).toNat + 1)) ∧
        (m.claimAt = some (s.time.tickSec, s.time.tick) → ownPos s = false → becomes (.claimRx w) (heard 3)) ∧
        (m.claimAt ≠ some (s.time.tickSec, s.time.tick) ∨ ownPos s = true → yields (.claimRx w)) ∧
        becomes (.releaseRx w) (heard 4) ∧ becomes (.twilightRx w) { heard 5 with ptnrTwilight := true, ptnrReady := false } ∧
        becomes (.statusRx w) { heard 2 with
          ptnrReady := w.ready, thruSec := s.time.tickSec - (s.time.tickSec + 32 - w.sec5.val) % 32, thruTick := w.tick
          nrDue := m.nrDue && w.ready, resync := m.resync || (!w.ready && m.bg.isNone && decide (3 ≤ m.sinceCopy)) })) ∧
    (let c := guardedVal p.ctl
     let rx := exec (.tickPacketRx p) s
     (m.role = .off → rx = .next s) ∧
     (m.role ≠ .off → qOk m.rxPtr = true →
       (packetTag s p = false → Answers rx fun t => t.mir = m ∧ t.mem = s.mem ∧ evt t R.mirEvt 11 = true) ∧
       (packetTag s p = true → p.format ≠ 1#16 → Answers rx fun t => t.mir.fmtBad = true ∧ t.mir.epoch = m.epoch ∧ t.mem = s.mem) ∧
       (packetTag s p = true → p.format = 1#16 → p.descOk = false ∨ guardedOk p.ctl = false → rx = .next (mirCount (guardFault s 0x16) 3)) ∧
       (packetTag s p = true → p.format = 1#16 → p.descOk = true → guardedOk p.ctl = true → m.role = .standby → fld c 31 28 = 1 →
         bit c 27 ≠ ownPos s → m.seqRx = some (p.seq - 1, p.nonce) → Answers rx fun t =>
           t.mir.epoch = fld c 25 18 ∧ t.mir.thruSec = p.sec.toNat ∧ t.mir.thruTick = p.tick ∧ t.mir.seqRx = some (p.seq, p.nonce) ∧
           (p.behind = true → t.mir.copied = false ∧ t.mem = s.mem) ∧
           (p.behind = false → t.mir.copied = (m.copied || (m.bgSeen && !p.resync && !p.bg)) ∧
             ∀ l bs bg, p.recs = [{ bg := bg, line := .mem l bs }] → inDataBank (l * 64) || inShared (l * 64) → bs.length = 64 →
               m.unsent = [] → rangeDenied s (mirTag s) .write (l * 64) 64 = none → ∀ b, rdByte t b = if l * 64 ≤ b ∧ b < l * 64 + 64 then bs[b - l * 64]?.getD 0#8 else rdByte s b))))
end

