-- ==== Sys2Proof/Laws/State.lean ====
section
/-! SUPPORT. The updates of State: what each leaves as it is, one lemma for each field of State, all by computation. -/

namespace Sys2Proof.Machine

section setLive
variable (s : State) (a : Nat) (w : Word)
@[simp] theorem setLive_now : (setLive s a w).now = s.now := rfl
@[simp] theorem setLive_ltc : (setLive s a w).ltc = s.ltc := rfl
@[simp] theorem setLive_shadow : (setLive s a w).shadow = s.shadow := rfl
@[simp] theorem setLive_force : (setLive s a w).force = s.force := rfl
@[simp] theorem setLive_writer : (setLive s a w).writer = s.writer := rfl
@[simp] theorem setLive_commits : (setLive s a w).commits = s.commits := rfl
@[simp] theorem setLive_mem : (setLive s a w).mem = s.mem := rfl
@[simp] theorem setLive_ecc : (setLive s a w).ecc = s.ecc := rfl
@[simp] theorem setLive_bus : (setLive s a w).bus = s.bus := rfl
@[simp] theorem setLive_busErr : (setLive s a w).busErr = s.busErr := rfl
@[simp] theorem setLive_draws : (setLive s a w).draws = s.draws := rfl
@[simp] theorem setLive_memErr : (setLive s a w).memErr = s.memErr := rfl
@[simp] theorem setLive_ufs : (setLive s a w).ufs = s.ufs := rfl
@[simp] theorem setLive_part : (setLive s a w).part = s.part := rfl
@[simp] theorem setLive_alm : (setLive s a w).alm = s.alm := rfl
@[simp] theorem setLive_pcx : (setLive s a w).pcx = s.pcx := rfl
@[simp] theorem setLive_tsk : (setLive s a w).tsk = s.tsk := rfl
@[simp] theorem setLive_tmx : (setLive s a w).tmx = s.tmx := rfl
@[simp] theorem setLive_gse : (setLive s a w).gse = s.gse := rfl
@[simp] theorem setLive_cmd : (setLive s a w).cmd = s.cmd := rfl
@[simp] theorem setLive_fbc0 : (setLive s a w).fbc0 = s.fbc0 := rfl
@[simp] theorem setLive_fbc1 : (setLive s a w).fbc1 = s.fbc1 := rfl
@[simp] theorem setLive_drc : (setLive s a w).drc = s.drc := rfl
@[simp] theorem setLive_time : (setLive s a w).time = s.time := rfl
@[simp] theorem setLive_irig : (setLive s a w).irig = s.irig := rfl
@[simp] theorem setLive_pps : (setLive s a w).pps = s.pps := rfl
@[simp] theorem setLive_bi : (setLive s a w).bi = s.bi := rfl
@[simp] theorem setLive_net : (setLive s a w).net = s.net := rfl
@[simp] theorem setLive_siu : (setLive s a w).siu = s.siu := rfl
@[simp] theorem setLive_svp : (setLive s a w).svp = s.svp := rfl
@[simp] theorem setLive_sca : (setLive s a w).sca = s.sca := rfl
@[simp] theorem setLive_mtr : (setLive s a w).mtr = s.mtr := rfl
@[simp] theorem setLive_sys : (setLive s a w).sys = s.sys := rfl
@[simp] theorem setLive_pwr : (setLive s a w).pwr = s.pwr := rfl
@[simp] theorem setLive_trust : (setLive s a w).trust = s.trust := rfl
@[simp] theorem setLive_mir : (setLive s a w).mir = s.mir := rfl
@[simp] theorem setLive_diag : (setLive s a w).diag = s.diag := rfl
@[simp] theorem setLive_pending : (setLive s a w).pending = s.pending := rfl
end setLive

section setShadow
variable (s : State) (a : Nat) (w : Word)
@[simp] theorem setShadow_now : (setShadow s a w).now = s.now := rfl
@[simp] theorem setShadow_ltc : (setShadow s a w).ltc = s.ltc := rfl
@[simp] theorem setShadow_force : (setShadow s a w).force = s.force := rfl
@[simp] theorem setShadow_live : (setShadow s a w).live = s.live := rfl
@[simp] theorem setShadow_writer : (setShadow s a w).writer = s.writer := rfl
@[simp] theorem setShadow_commits : (setShadow s a w).commits = s.commits := rfl
@[simp] theorem setShadow_mem : (setShadow s a w).mem = s.mem := rfl
@[simp] theorem setShadow_ecc : (setShadow s a w).ecc = s.ecc := rfl
@[simp] theorem setShadow_bus : (setShadow s a w).bus = s.bus := rfl
@[simp] theorem setShadow_busErr : (setShadow s a w).busErr = s.busErr := rfl
@[simp] theorem setShadow_draws : (setShadow s a w).draws = s.draws := rfl
@[simp] theorem setShadow_memErr : (setShadow s a w).memErr = s.memErr := rfl
@[simp] theorem setShadow_ufs : (setShadow s a w).ufs = s.ufs := rfl
@[simp] theorem setShadow_part : (setShadow s a w).part = s.part := rfl
@[simp] theorem setShadow_alm : (setShadow s a w).alm = s.alm := rfl
@[simp] theorem setShadow_pcx : (setShadow s a w).pcx = s.pcx := rfl
@[simp] theorem setShadow_tsk : (setShadow s a w).tsk = s.tsk := rfl
@[simp] theorem setShadow_tmx : (setShadow s a w).tmx = s.tmx := rfl
@[simp] theorem setShadow_gse : (setShadow s a w).gse = s.gse := rfl
@[simp] theorem setShadow_cmd : (setShadow s a w).cmd = s.cmd := rfl
@[simp] theorem setShadow_fbc0 : (setShadow s a w).fbc0 = s.fbc0 := rfl
@[simp] theorem setShadow_fbc1 : (setShadow s a w).fbc1 = s.fbc1 := rfl
@[simp] theorem setShadow_drc : (setShadow s a w).drc = s.drc := rfl
@[simp] theorem setShadow_time : (setShadow s a w).time = s.time := rfl
@[simp] theorem setShadow_irig : (setShadow s a w).irig = s.irig := rfl
@[simp] theorem setShadow_pps : (setShadow s a w).pps = s.pps := rfl
@[simp] theorem setShadow_bi : (setShadow s a w).bi = s.bi := rfl
@[simp] theorem setShadow_net : (setShadow s a w).net = s.net := rfl
@[simp] theorem setShadow_siu : (setShadow s a w).siu = s.siu := rfl
@[simp] theorem setShadow_svp : (setShadow s a w).svp = s.svp := rfl
@[simp] theorem setShadow_sca : (setShadow s a w).sca = s.sca := rfl
@[simp] theorem setShadow_mtr : (setShadow s a w).mtr = s.mtr := rfl
@[simp] theorem setShadow_sys : (setShadow s a w).sys = s.sys := rfl
@[simp] theorem setShadow_pwr : (setShadow s a w).pwr = s.pwr := rfl
@[simp] theorem setShadow_trust : (setShadow s a w).trust = s.trust := rfl
@[simp] theorem setShadow_mir : (setShadow s a w).mir = s.mir := rfl
@[simp] theorem setShadow_diag : (setShadow s a w).diag = s.diag := rfl
@[simp] theorem setShadow_pending : (setShadow s a w).pending = s.pending := rfl
end setShadow

section setForce
variable (s : State) (a : Nat) (w : Word)
@[simp] theorem setForce_now : (setForce s a w).now = s.now := rfl
@[simp] theorem setForce_ltc : (setForce s a w).ltc = s.ltc := rfl
@[simp] theorem setForce_shadow : (setForce s a w).shadow = s.shadow := rfl
@[simp] theorem setForce_live : (setForce s a w).live = s.live := rfl
@[simp] theorem setForce_writer : (setForce s a w).writer = s.writer := rfl
@[simp] theorem setForce_commits : (setForce s a w).commits = s.commits := rfl
@[simp] theorem setForce_mem : (setForce s a w).mem = s.mem := rfl
@[simp] theorem setForce_ecc : (setForce s a w).ecc = s.ecc := rfl
@[simp] theorem setForce_bus : (setForce s a w).bus = s.bus := rfl
@[simp] theorem setForce_busErr : (setForce s a w).busErr = s.busErr := rfl
@[simp] theorem setForce_draws : (setForce s a w).draws = s.draws := rfl
@[simp] theorem setForce_memErr : (setForce s a w).memErr = s.memErr := rfl
@[simp] theorem setForce_ufs : (setForce s a w).ufs = s.ufs := rfl
@[simp] theorem setForce_part : (setForce s a w).part = s.part := rfl
@[simp] theorem setForce_alm : (setForce s a w).alm = s.alm := rfl
@[simp] theorem setForce_pcx : (setForce s a w).pcx = s.pcx := rfl
@[simp] theorem setForce_tsk : (setForce s a w).tsk = s.tsk := rfl
@[simp] theorem setForce_tmx : (setForce s a w).tmx = s.tmx := rfl
@[simp] theorem setForce_gse : (setForce s a w).gse = s.gse := rfl
@[simp] theorem setForce_cmd : (setForce s a w).cmd = s.cmd := rfl
@[simp] theorem setForce_fbc0 : (setForce s a w).fbc0 = s.fbc0 := rfl
@[simp] theorem setForce_fbc1 : (setForce s a w).fbc1 = s.fbc1 := rfl
@[simp] theorem setForce_drc : (setForce s a w).drc = s.drc := rfl
@[simp] theorem setForce_time : (setForce s a w).time = s.time := rfl
@[simp] theorem setForce_irig : (setForce s a w).irig = s.irig := rfl
@[simp] theorem setForce_pps : (setForce s a w).pps = s.pps := rfl
@[simp] theorem setForce_bi : (setForce s a w).bi = s.bi := rfl
@[simp] theorem setForce_net : (setForce s a w).net = s.net := rfl
@[simp] theorem setForce_siu : (setForce s a w).siu = s.siu := rfl
@[simp] theorem setForce_svp : (setForce s a w).svp = s.svp := rfl
@[simp] theorem setForce_sca : (setForce s a w).sca = s.sca := rfl
@[simp] theorem setForce_mtr : (setForce s a w).mtr = s.mtr := rfl
@[simp] theorem setForce_sys : (setForce s a w).sys = s.sys := rfl
@[simp] theorem setForce_pwr : (setForce s a w).pwr = s.pwr := rfl
@[simp] theorem setForce_trust : (setForce s a w).trust = s.trust := rfl
@[simp] theorem setForce_mir : (setForce s a w).mir = s.mir := rfl
@[simp] theorem setForce_diag : (setForce s a w).diag = s.diag := rfl
@[simp] theorem setForce_pending : (setForce s a w).pending = s.pending := rfl
end setForce

section setEvt
variable (s : State) (a i : Nat)
@[simp] theorem setEvt_now : (setEvt s a i).now = s.now := rfl
@[simp] theorem setEvt_ltc : (setEvt s a i).ltc = s.ltc := rfl
@[simp] theorem setEvt_shadow : (setEvt s a i).shadow = s.shadow := rfl
@[simp] theorem setEvt_force : (setEvt s a i).force = s.force := rfl
@[simp] theorem setEvt_writer : (setEvt s a i).writer = s.writer := rfl
@[simp] theorem setEvt_commits : (setEvt s a i).commits = s.commits := rfl
@[simp] theorem setEvt_mem : (setEvt s a i).mem = s.mem := rfl
@[simp] theorem setEvt_ecc : (setEvt s a i).ecc = s.ecc := rfl
@[simp] theorem setEvt_bus : (setEvt s a i).bus = s.bus := rfl
@[simp] theorem setEvt_busErr : (setEvt s a i).busErr = s.busErr := rfl
@[simp] theorem setEvt_draws : (setEvt s a i).draws = s.draws := rfl
@[simp] theorem setEvt_memErr : (setEvt s a i).memErr = s.memErr := rfl
@[simp] theorem setEvt_ufs : (setEvt s a i).ufs = s.ufs := rfl
@[simp] theorem setEvt_part : (setEvt s a i).part = s.part := rfl
@[simp] theorem setEvt_alm : (setEvt s a i).alm = s.alm := rfl
@[simp] theorem setEvt_pcx : (setEvt s a i).pcx = s.pcx := rfl
@[simp] theorem setEvt_tsk : (setEvt s a i).tsk = s.tsk := rfl
@[simp] theorem setEvt_tmx : (setEvt s a i).tmx = s.tmx := rfl
@[simp] theorem setEvt_gse : (setEvt s a i).gse = s.gse := rfl
@[simp] theorem setEvt_cmd : (setEvt s a i).cmd = s.cmd := rfl
@[simp] theorem setEvt_fbc0 : (setEvt s a i).fbc0 = s.fbc0 := rfl
@[simp] theorem setEvt_fbc1 : (setEvt s a i).fbc1 = s.fbc1 := rfl
@[simp] theorem setEvt_drc : (setEvt s a i).drc = s.drc := rfl
@[simp] theorem setEvt_time : (setEvt s a i).time = s.time := rfl
@[simp] theorem setEvt_irig : (setEvt s a i).irig = s.irig := rfl
@[simp] theorem setEvt_pps : (setEvt s a i).pps = s.pps := rfl
@[simp] theorem setEvt_bi : (setEvt s a i).bi = s.bi := rfl
@[simp] theorem setEvt_net : (setEvt s a i).net = s.net := rfl
@[simp] theorem setEvt_siu : (setEvt s a i).siu = s.siu := rfl
@[simp] theorem setEvt_svp : (setEvt s a i).svp = s.svp := rfl
@[simp] theorem setEvt_sca : (setEvt s a i).sca = s.sca := rfl
@[simp] theorem setEvt_mtr : (setEvt s a i).mtr = s.mtr := rfl
@[simp] theorem setEvt_sys : (setEvt s a i).sys = s.sys := rfl
@[simp] theorem setEvt_pwr : (setEvt s a i).pwr = s.pwr := rfl
@[simp] theorem setEvt_trust : (setEvt s a i).trust = s.trust := rfl
@[simp] theorem setEvt_mir : (setEvt s a i).mir = s.mir := rfl
@[simp] theorem setEvt_diag : (setEvt s a i).diag = s.diag := rfl
@[simp] theorem setEvt_pending : (setEvt s a i).pending = s.pending := rfl
end setEvt

section bump
variable (s : State) (a hi lo n : Nat)
@[simp] theorem bump_now : (bump s a hi lo n).now = s.now := rfl
@[simp] theorem bump_ltc : (bump s a hi lo n).ltc = s.ltc := rfl
@[simp] theorem bump_shadow : (bump s a hi lo n).shadow = s.shadow := rfl
@[simp] theorem bump_force : (bump s a hi lo n).force = s.force := rfl
@[simp] theorem bump_writer : (bump s a hi lo n).writer = s.writer := rfl
@[simp] theorem bump_commits : (bump s a hi lo n).commits = s.commits := rfl
@[simp] theorem bump_mem : (bump s a hi lo n).mem = s.mem := rfl
@[simp] theorem bump_ecc : (bump s a hi lo n).ecc = s.ecc := rfl
@[simp] theorem bump_bus : (bump s a hi lo n).bus = s.bus := rfl
@[simp] theorem bump_busErr : (bump s a hi lo n).busErr = s.busErr := rfl
@[simp] theorem bump_draws : (bump s a hi lo n).draws = s.draws := rfl
@[simp] theorem bump_memErr : (bump s a hi lo n).memErr = s.memErr := rfl
@[simp] theorem bump_ufs : (bump s a hi lo n).ufs = s.ufs := rfl
@[simp] theorem bump_part : (bump s a hi lo n).part = s.part := rfl
@[simp] theorem bump_alm : (bump s a hi lo n).alm = s.alm := rfl
@[simp] theorem bump_pcx : (bump s a hi lo n).pcx = s.pcx := rfl
@[simp] theorem bump_tsk : (bump s a hi lo n).tsk = s.tsk := rfl
@[simp] theorem bump_tmx : (bump s a hi lo n).tmx = s.tmx := rfl
@[simp] theorem bump_gse : (bump s a hi lo n).gse = s.gse := rfl
@[simp] theorem bump_cmd : (bump s a hi lo n).cmd = s.cmd := rfl
@[simp] theorem bump_fbc0 : (bump s a hi lo n).fbc0 = s.fbc0 := rfl
@[simp] theorem bump_fbc1 : (bump s a hi lo n).fbc1 = s.fbc1 := rfl
@[simp] theorem bump_drc : (bump s a hi lo n).drc = s.drc := rfl
@[simp] theorem bump_time : (bump s a hi lo n).time = s.time := rfl
@[simp] theorem bump_irig : (bump s a hi lo n).irig = s.irig := rfl
@[simp] theorem bump_pps : (bump s a hi lo n).pps = s.pps := rfl
@[simp] theorem bump_bi : (bump s a hi lo n).bi = s.bi := rfl
@[simp] theorem bump_net : (bump s a hi lo n).net = s.net := rfl
@[simp] theorem bump_siu : (bump s a hi lo n).siu = s.siu := rfl
@[simp] theorem bump_svp : (bump s a hi lo n).svp = s.svp := rfl
@[simp] theorem bump_sca : (bump s a hi lo n).sca = s.sca := rfl
@[simp] theorem bump_mtr : (bump s a hi lo n).mtr = s.mtr := rfl
@[simp] theorem bump_sys : (bump s a hi lo n).sys = s.sys := rfl
@[simp] theorem bump_pwr : (bump s a hi lo n).pwr = s.pwr := rfl
@[simp] theorem bump_trust : (bump s a hi lo n).trust = s.trust := rfl
@[simp] theorem bump_mir : (bump s a hi lo n).mir = s.mir := rfl
@[simp] theorem bump_diag : (bump s a hi lo n).diag = s.diag := rfl
@[simp] theorem bump_pending : (bump s a hi lo n).pending = s.pending := rfl
end bump

section ptrSum
variable (s : State) (i : Nat)
@[simp] theorem ptrSum_now : (ptrSum s i).now = s.now := rfl
@[simp] theorem ptrSum_ltc : (ptrSum s i).ltc = s.ltc := rfl
@[simp] theorem ptrSum_shadow : (ptrSum s i).shadow = s.shadow := rfl
@[simp] theorem ptrSum_force : (ptrSum s i).force = s.force := rfl
@[simp] theorem ptrSum_writer : (ptrSum s i).writer = s.writer := rfl
@[simp] theorem ptrSum_commits : (ptrSum s i).commits = s.commits := rfl
@[simp] theorem ptrSum_mem : (ptrSum s i).mem = s.mem := rfl
@[simp] theorem ptrSum_ecc : (ptrSum s i).ecc = s.ecc := rfl
@[simp] theorem ptrSum_bus : (ptrSum s i).bus = s.bus := rfl
@[simp] theorem ptrSum_busErr : (ptrSum s i).busErr = s.busErr := rfl
@[simp] theorem ptrSum_draws : (ptrSum s i).draws = s.draws := rfl
@[simp] theorem ptrSum_memErr : (ptrSum s i).memErr = s.memErr := rfl
@[simp] theorem ptrSum_ufs : (ptrSum s i).ufs = s.ufs := rfl
@[simp] theorem ptrSum_part : (ptrSum s i).part = s.part := rfl
@[simp] theorem ptrSum_alm : (ptrSum s i).alm = s.alm := rfl
@[simp] theorem ptrSum_pcx : (ptrSum s i).pcx = s.pcx := rfl
@[simp] theorem ptrSum_tsk : (ptrSum s i).tsk = s.tsk := rfl
@[simp] theorem ptrSum_tmx : (ptrSum s i).tmx = s.tmx := rfl
@[simp] theorem ptrSum_gse : (ptrSum s i).gse = s.gse := rfl
@[simp] theorem ptrSum_cmd : (ptrSum s i).cmd = s.cmd := rfl
@[simp] theorem ptrSum_fbc0 : (ptrSum s i).fbc0 = s.fbc0 := rfl
@[simp] theorem ptrSum_fbc1 : (ptrSum s i).fbc1 = s.fbc1 := rfl
@[simp] theorem ptrSum_drc : (ptrSum s i).drc = s.drc := rfl
@[simp] theorem ptrSum_time : (ptrSum s i).time = s.time := rfl
@[simp] theorem ptrSum_irig : (ptrSum s i).irig = s.irig := rfl
@[simp] theorem ptrSum_pps : (ptrSum s i).pps = s.pps := rfl
@[simp] theorem ptrSum_bi : (ptrSum s i).bi = s.bi := rfl
@[simp] theorem ptrSum_net : (ptrSum s i).net = s.net := rfl
@[simp] theorem ptrSum_siu : (ptrSum s i).siu = s.siu := rfl
@[simp] theorem ptrSum_svp : (ptrSum s i).svp = s.svp := rfl
@[simp] theorem ptrSum_sca : (ptrSum s i).sca = s.sca := rfl
@[simp] theorem ptrSum_mtr : (ptrSum s i).mtr = s.mtr := rfl
@[simp] theorem ptrSum_sys : (ptrSum s i).sys = s.sys := rfl
@[simp] theorem ptrSum_pwr : (ptrSum s i).pwr = s.pwr := rfl
@[simp] theorem ptrSum_trust : (ptrSum s i).trust = s.trust := rfl
@[simp] theorem ptrSum_mir : (ptrSum s i).mir = s.mir := rfl
@[simp] theorem ptrSum_diag : (ptrSum s i).diag = s.diag := rfl
@[simp] theorem ptrSum_pending : (ptrSum s i).pending = s.pending := rfl
end ptrSum

section guardFault
variable (s : State) (i : Nat)
@[simp] theorem guardFault_now : (guardFault s i).now = s.now := rfl
@[simp] theorem guardFault_ltc : (guardFault s i).ltc = s.ltc := rfl
@[simp] theorem guardFault_shadow : (guardFault s i).shadow = s.shadow := rfl
@[simp] theorem guardFault_force : (guardFault s i).force = s.force := rfl
@[simp] theorem guardFault_writer : (guardFault s i).writer = s.writer := rfl
@[simp] theorem guardFault_commits : (guardFault s i).commits = s.commits := rfl
@[simp] theorem guardFault_mem : (guardFault s i).mem = s.mem := rfl
@[simp] theorem guardFault_ecc : (guardFault s i).ecc = s.ecc := rfl
@[simp] theorem guardFault_bus : (guardFault s i).bus = s.bus := rfl
@[simp] theorem guardFault_busErr : (guardFault s i).busErr = s.busErr := rfl
@[simp] theorem guardFault_draws : (guardFault s i).draws = s.draws := rfl
@[simp] theorem guardFault_memErr : (guardFault s i).memErr = s.memErr := rfl
@[simp] theorem guardFault_ufs : (guardFault s i).ufs = s.ufs := rfl
@[simp] theorem guardFault_part : (guardFault s i).part = s.part := rfl
@[simp] theorem guardFault_alm : (guardFault s i).alm = s.alm := rfl
@[simp] theorem guardFault_pcx : (guardFault s i).pcx = s.pcx := rfl
@[simp] theorem guardFault_tsk : (guardFault s i).tsk = s.tsk := rfl
@[simp] theorem guardFault_tmx : (guardFault s i).tmx = s.tmx := rfl
@[simp] theorem guardFault_gse : (guardFault s i).gse = s.gse := rfl
@[simp] theorem guardFault_cmd : (guardFault s i).cmd = s.cmd := rfl
@[simp] theorem guardFault_fbc0 : (guardFault s i).fbc0 = s.fbc0 := rfl
@[simp] theorem guardFault_fbc1 : (guardFault s i).fbc1 = s.fbc1 := rfl
@[simp] theorem guardFault_drc : (guardFault s i).drc = s.drc := rfl
@[simp] theorem guardFault_time : (guardFault s i).time = s.time := rfl
@[simp] theorem guardFault_irig : (guardFault s i).irig = s.irig := rfl
@[simp] theorem guardFault_pps : (guardFault s i).pps = s.pps := rfl
@[simp] theorem guardFault_bi : (guardFault s i).bi = s.bi := rfl
@[simp] theorem guardFault_net : (guardFault s i).net = s.net := rfl
@[simp] theorem guardFault_siu : (guardFault s i).siu = s.siu := rfl
@[simp] theorem guardFault_svp : (guardFault s i).svp = s.svp := rfl
@[simp] theorem guardFault_sca : (guardFault s i).sca = s.sca := rfl
@[simp] theorem guardFault_mtr : (guardFault s i).mtr = s.mtr := rfl
@[simp] theorem guardFault_sys : (guardFault s i).sys = s.sys := rfl
@[simp] theorem guardFault_pwr : (guardFault s i).pwr = s.pwr := rfl
@[simp] theorem guardFault_trust : (guardFault s i).trust = s.trust := rfl
@[simp] theorem guardFault_mir : (guardFault s i).mir = s.mir := rfl
@[simp] theorem guardFault_diag : (guardFault s i).diag = s.diag := rfl
@[simp] theorem guardFault_pending : (guardFault s i).pending = s.pending := rfl
end guardFault

section setBus
variable (s : State) (w : Word)
@[simp] theorem setBus_now : (setBus s w).now = s.now := rfl
@[simp] theorem setBus_ltc : (setBus s w).ltc = s.ltc := rfl
@[simp] theorem setBus_shadow : (setBus s w).shadow = s.shadow := rfl
@[simp] theorem setBus_force : (setBus s w).force = s.force := rfl
@[simp] theorem setBus_live : (setBus s w).live = s.live := rfl
@[simp] theorem setBus_writer : (setBus s w).writer = s.writer := rfl
@[simp] theorem setBus_commits : (setBus s w).commits = s.commits := rfl
@[simp] theorem setBus_mem : (setBus s w).mem = s.mem := rfl
@[simp] theorem setBus_ecc : (setBus s w).ecc = s.ecc := rfl
@[simp] theorem setBus_busErr : (setBus s w).busErr = s.busErr := rfl
@[simp] theorem setBus_draws : (setBus s w).draws = s.draws := rfl
@[simp] theorem setBus_memErr : (setBus s w).memErr = s.memErr := rfl
@[simp] theorem setBus_ufs : (setBus s w).ufs = s.ufs := rfl
@[simp] theorem setBus_part : (setBus s w).part = s.part := rfl
@[simp] theorem setBus_alm : (setBus s w).alm = s.alm := rfl
@[simp] theorem setBus_pcx : (setBus s w).pcx = s.pcx := rfl
@[simp] theorem setBus_tsk : (setBus s w).tsk = s.tsk := rfl
@[simp] theorem setBus_tmx : (setBus s w).tmx = s.tmx := rfl
@[simp] theorem setBus_gse : (setBus s w).gse = s.gse := rfl
@[simp] theorem setBus_cmd : (setBus s w).cmd = s.cmd := rfl
@[simp] theorem setBus_fbc0 : (setBus s w).fbc0 = s.fbc0 := rfl
@[simp] theorem setBus_fbc1 : (setBus s w).fbc1 = s.fbc1 := rfl
@[simp] theorem setBus_drc : (setBus s w).drc = s.drc := rfl
@[simp] theorem setBus_time : (setBus s w).time = s.time := rfl
@[simp] theorem setBus_irig : (setBus s w).irig = s.irig := rfl
@[simp] theorem setBus_pps : (setBus s w).pps = s.pps := rfl
@[simp] theorem setBus_bi : (setBus s w).bi = s.bi := rfl
@[simp] theorem setBus_net : (setBus s w).net = s.net := rfl
@[simp] theorem setBus_siu : (setBus s w).siu = s.siu := rfl
@[simp] theorem setBus_svp : (setBus s w).svp = s.svp := rfl
@[simp] theorem setBus_sca : (setBus s w).sca = s.sca := rfl
@[simp] theorem setBus_mtr : (setBus s w).mtr = s.mtr := rfl
@[simp] theorem setBus_sys : (setBus s w).sys = s.sys := rfl
@[simp] theorem setBus_pwr : (setBus s w).pwr = s.pwr := rfl
@[simp] theorem setBus_trust : (setBus s w).trust = s.trust := rfl
@[simp] theorem setBus_mir : (setBus s w).mir = s.mir := rfl
@[simp] theorem setBus_diag : (setBus s w).diag = s.diag := rfl
@[simp] theorem setBus_pending : (setBus s w).pending = s.pending := rfl
end setBus

section pokeBytes
variable (s : State) (a : Nat) (bs : List Byte)
@[simp] theorem pokeBytes_now : (pokeBytes s a bs).now = s.now := rfl
@[simp] theorem pokeBytes_ltc : (pokeBytes s a bs).ltc = s.ltc := rfl
@[simp] theorem pokeBytes_shadow : (pokeBytes s a bs).shadow = s.shadow := rfl
@[simp] theorem pokeBytes_force : (pokeBytes s a bs).force = s.force := rfl
@[simp] theorem pokeBytes_live : (pokeBytes s a bs).live = s.live := rfl
@[simp] theorem pokeBytes_writer : (pokeBytes s a bs).writer = s.writer := rfl
@[simp] theorem pokeBytes_commits : (pokeBytes s a bs).commits = s.commits := rfl
@[simp] theorem pokeBytes_bus : (pokeBytes s a bs).bus = s.bus := rfl
@[simp] theorem pokeBytes_busErr : (pokeBytes s a bs).busErr = s.busErr := rfl
@[simp] theorem pokeBytes_draws : (pokeBytes s a bs).draws = s.draws := rfl
@[simp] theorem pokeBytes_memErr : (pokeBytes s a bs).memErr = s.memErr := rfl
@[simp] theorem pokeBytes_ufs : (pokeBytes s a bs).ufs = s.ufs := rfl
@[simp] theorem pokeBytes_part : (pokeBytes s a bs).part = s.part := rfl
@[simp] theorem pokeBytes_alm : (pokeBytes s a bs).alm = s.alm := rfl
@[simp] theorem pokeBytes_pcx : (pokeBytes s a bs).pcx = s.pcx := rfl
@[simp] theorem pokeBytes_tsk : (pokeBytes s a bs).tsk = s.tsk := rfl
@[simp] theorem pokeBytes_tmx : (pokeBytes s a bs).tmx = s.tmx := rfl
@[simp] theorem pokeBytes_gse : (pokeBytes s a bs).gse = s.gse := rfl
@[simp] theorem pokeBytes_cmd : (pokeBytes s a bs).cmd = s.cmd := rfl
@[simp] theorem pokeBytes_fbc0 : (pokeBytes s a bs).fbc0 = s.fbc0 := rfl
@[simp] theorem pokeBytes_fbc1 : (pokeBytes s a bs).fbc1 = s.fbc1 := rfl
@[simp] theorem pokeBytes_drc : (pokeBytes s a bs).drc = s.drc := rfl
@[simp] theorem pokeBytes_time : (pokeBytes s a bs).time = s.time := rfl
@[simp] theorem pokeBytes_irig : (pokeBytes s a bs).irig = s.irig := rfl
@[simp] theorem pokeBytes_pps : (pokeBytes s a bs).pps = s.pps := rfl
@[simp] theorem pokeBytes_bi : (pokeBytes s a bs).bi = s.bi := rfl
@[simp] theorem pokeBytes_net : (pokeBytes s a bs).net = s.net := rfl
@[simp] theorem pokeBytes_siu : (pokeBytes s a bs).siu = s.siu := rfl
@[simp] theorem pokeBytes_svp : (pokeBytes s a bs).svp = s.svp := rfl
@[simp] theorem pokeBytes_sca : (pokeBytes s a bs).sca = s.sca := rfl
@[simp] theorem pokeBytes_mtr : (pokeBytes s a bs).mtr = s.mtr := rfl
@[simp] theorem pokeBytes_sys : (pokeBytes s a bs).sys = s.sys := rfl
@[simp] theorem pokeBytes_pwr : (pokeBytes s a bs).pwr = s.pwr := rfl
@[simp] theorem pokeBytes_trust : (pokeBytes s a bs).trust = s.trust := rfl
@[simp] theorem pokeBytes_mir : (pokeBytes s a bs).mir = s.mir := rfl
@[simp] theorem pokeBytes_diag : (pokeBytes s a bs).diag = s.diag := rfl
@[simp] theorem pokeBytes_pending : (pokeBytes s a bs).pending = s.pending := rfl
end pokeBytes

section wipe
variable (s : State) (lo hi : Nat)
@[simp] theorem wipe_now : (wipe s lo hi).now = s.now := rfl
@[simp] theorem wipe_ltc : (wipe s lo hi).ltc = s.ltc := rfl
@[simp] theorem wipe_shadow : (wipe s lo hi).shadow = s.shadow := rfl
@[simp] theorem wipe_force : (wipe s lo hi).force = s.force := rfl
@[simp] theorem wipe_live : (wipe s lo hi).live = s.live := rfl
@[simp] theorem wipe_writer : (wipe s lo hi).writer = s.writer := rfl
@[simp] theorem wipe_commits : (wipe s lo hi).commits = s.commits := rfl
@[simp] theorem wipe_bus : (wipe s lo hi).bus = s.bus := rfl
@[simp] theorem wipe_busErr : (wipe s lo hi).busErr = s.busErr := rfl
@[simp] theorem wipe_draws : (wipe s lo hi).draws = s.draws := rfl
@[simp] theorem wipe_memErr : (wipe s lo hi).memErr = s.memErr := rfl
@[simp] theorem wipe_ufs : (wipe s lo hi).ufs = s.ufs := rfl
@[simp] theorem wipe_part : (wipe s lo hi).part = s.part := rfl
@[simp] theorem wipe_alm : (wipe s lo hi).alm = s.alm := rfl
@[simp] theorem wipe_pcx : (wipe s lo hi).pcx = s.pcx := rfl
@[simp] theorem wipe_tsk : (wipe s lo hi).tsk = s.tsk := rfl
@[simp] theorem wipe_tmx : (wipe s lo hi).tmx = s.tmx := rfl
@[simp] theorem wipe_gse : (wipe s lo hi).gse = s.gse := rfl
@[simp] theorem wipe_cmd : (wipe s lo hi).cmd = s.cmd := rfl
@[simp] theorem wipe_fbc0 : (wipe s lo hi).fbc0 = s.fbc0 := rfl
@[simp] theorem wipe_fbc1 : (wipe s lo hi).fbc1 = s.fbc1 := rfl
@[simp] theorem wipe_drc : (wipe s lo hi).drc = s.drc := rfl
@[simp] theorem wipe_time : (wipe s lo hi).time = s.time := rfl
@[simp] theorem wipe_irig : (wipe s lo hi).irig = s.irig := rfl
@[simp] theorem wipe_pps : (wipe s lo hi).pps = s.pps := rfl
@[simp] theorem wipe_bi : (wipe s lo hi).bi = s.bi := rfl
@[simp] theorem wipe_net : (wipe s lo hi).net = s.net := rfl
@[simp] theorem wipe_siu : (wipe s lo hi).siu = s.siu := rfl
@[simp] theorem wipe_svp : (wipe s lo hi).svp = s.svp := rfl
@[simp] theorem wipe_sca : (wipe s lo hi).sca = s.sca := rfl
@[simp] theorem wipe_mtr : (wipe s lo hi).mtr = s.mtr := rfl
@[simp] theorem wipe_sys : (wipe s lo hi).sys = s.sys := rfl
@[simp] theorem wipe_pwr : (wipe s lo hi).pwr = s.pwr := rfl
@[simp] theorem wipe_trust : (wipe s lo hi).trust = s.trust := rfl
@[simp] theorem wipe_mir : (wipe s lo hi).mir = s.mir := rfl
@[simp] theorem wipe_diag : (wipe s lo hi).diag = s.diag := rfl
@[simp] theorem wipe_pending : (wipe s lo hi).pending = s.pending := rfl
end wipe

section markDirty
variable (s : State) (a n : Nat)
@[simp] theorem markDirty_now : (markDirty s a n).now = s.now := rfl
@[simp] theorem markDirty_ltc : (markDirty s a n).ltc = s.ltc := rfl
@[simp] theorem markDirty_shadow : (markDirty s a n).shadow = s.shadow := rfl
@[simp] theorem markDirty_force : (markDirty s a n).force = s.force := rfl
@[simp] theorem markDirty_live : (markDirty s a n).live = s.live := rfl
@[simp] theorem markDirty_writer : (markDirty s a n).writer = s.writer := rfl
@[simp] theorem markDirty_commits : (markDirty s a n).commits = s.commits := rfl
@[simp] theorem markDirty_mem : (markDirty s a n).mem = s.mem := rfl
@[simp] theorem markDirty_ecc : (markDirty s a n).ecc = s.ecc := rfl
@[simp] theorem markDirty_bus : (markDirty s a n).bus = s.bus := rfl
@[simp] theorem markDirty_busErr : (markDirty s a n).busErr = s.busErr := rfl
@[simp] theorem markDirty_draws : (markDirty s a n).draws = s.draws := rfl
@[simp] theorem markDirty_memErr : (markDirty s a n).memErr = s.memErr := rfl
@[simp] theorem markDirty_ufs : (markDirty s a n).ufs = s.ufs := rfl
@[simp] theorem markDirty_part : (markDirty s a n).part = s.part := rfl
@[simp] theorem markDirty_alm : (markDirty s a n).alm = s.alm := rfl
@[simp] theorem markDirty_tmx : (markDirty s a n).tmx = s.tmx := rfl
@[simp] theorem markDirty_gse : (markDirty s a n).gse = s.gse := rfl
@[simp] theorem markDirty_cmd : (markDirty s a n).cmd = s.cmd := rfl
@[simp] theorem markDirty_fbc0 : (markDirty s a n).fbc0 = s.fbc0 := rfl
@[simp] theorem markDirty_fbc1 : (markDirty s a n).fbc1 = s.fbc1 := rfl
@[simp] theorem markDirty_drc : (markDirty s a n).drc = s.drc := rfl
@[simp] theorem markDirty_time : (markDirty s a n).time = s.time := rfl
@[simp] theorem markDirty_irig : (markDirty s a n).irig = s.irig := rfl
@[simp] theorem markDirty_pps : (markDirty s a n).pps = s.pps := rfl
@[simp] theorem markDirty_bi : (markDirty s a n).bi = s.bi := rfl
@[simp] theorem markDirty_net : (markDirty s a n).net = s.net := rfl
@[simp] theorem markDirty_siu : (markDirty s a n).siu = s.siu := rfl
@[simp] theorem markDirty_svp : (markDirty s a n).svp = s.svp := rfl
@[simp] theorem markDirty_sca : (markDirty s a n).sca = s.sca := rfl
@[simp] theorem markDirty_mtr : (markDirty s a n).mtr = s.mtr := rfl
@[simp] theorem markDirty_sys : (markDirty s a n).sys = s.sys := rfl
@[simp] theorem markDirty_pwr : (markDirty s a n).pwr = s.pwr := rfl
@[simp] theorem markDirty_trust : (markDirty s a n).trust = s.trust := rfl
@[simp] theorem markDirty_mir : (markDirty s a n).mir = s.mir := rfl
@[simp] theorem markDirty_diag : (markDirty s a n).diag = s.diag := rfl
@[simp] theorem markDirty_pending : (markDirty s a n).pending = s.pending := rfl
end markDirty

section elapse
variable (s : State) (d : Nat)
@[simp] theorem elapse_shadow : (elapse s d).shadow = s.shadow := rfl
@[simp] theorem elapse_force : (elapse s d).force = s.force := rfl
@[simp] theorem elapse_live : (elapse s d).live = s.live := rfl
@[simp] theorem elapse_writer : (elapse s d).writer = s.writer := rfl
@[simp] theorem elapse_commits : (elapse s d).commits = s.commits := rfl
@[simp] theorem elapse_mem : (elapse s d).mem = s.mem := rfl
@[simp] theorem elapse_ecc : (elapse s d).ecc = s.ecc := rfl
@[simp] theorem elapse_bus : (elapse s d).bus = s.bus := rfl
@[simp] theorem elapse_busErr : (elapse s d).busErr = s.busErr := rfl
@[simp] theorem elapse_draws : (elapse s d).draws = s.draws := rfl
@[simp] theorem elapse_memErr : (elapse s d).memErr = s.memErr := rfl
@[simp] theorem elapse_ufs : (elapse s d).ufs = s.ufs := rfl
@[simp] theorem elapse_part : (elapse s d).part = s.part := rfl
@[simp] theorem elapse_alm : (elapse s d).alm = s.alm := rfl
@[simp] theorem elapse_pcx : (elapse s d).pcx = s.pcx := rfl
@[simp] theorem elapse_tsk : (elapse s d).tsk = s.tsk := rfl
@[simp] theorem elapse_tmx : (elapse s d).tmx = s.tmx := rfl
@[simp] theorem elapse_gse : (elapse s d).gse = s.gse := rfl
@[simp] theorem elapse_cmd : (elapse s d).cmd = s.cmd := rfl
@[simp] theorem elapse_fbc0 : (elapse s d).fbc0 = s.fbc0 := rfl
@[simp] theorem elapse_fbc1 : (elapse s d).fbc1 = s.fbc1 := rfl
@[simp] theorem elapse_drc : (elapse s d).drc = s.drc := rfl
@[simp] theorem elapse_time : (elapse s d).time = s.time := rfl
@[simp] theorem elapse_irig : (elapse s d).irig = s.irig := rfl
@[simp] theorem elapse_pps : (elapse s d).pps = s.pps := rfl
@[simp] theorem elapse_bi : (elapse s d).bi = s.bi := rfl
@[simp] theorem elapse_net : (elapse s d).net = s.net := rfl
@[simp] theorem elapse_siu : (elapse s d).siu = s.siu := rfl
@[simp] theorem elapse_svp : (elapse s d).svp = s.svp := rfl
@[simp] theorem elapse_sca : (elapse s d).sca = s.sca := rfl
@[simp] theorem elapse_mtr : (elapse s d).mtr = s.mtr := rfl
@[simp] theorem elapse_sys : (elapse s d).sys = s.sys := rfl
@[simp] theorem elapse_pwr : (elapse s d).pwr = s.pwr := rfl
@[simp] theorem elapse_trust : (elapse s d).trust = s.trust := rfl
@[simp] theorem elapse_mir : (elapse s d).mir = s.mir := rfl
@[simp] theorem elapse_diag : (elapse s d).diag = s.diag := rfl
@[simp] theorem elapse_pending : (elapse s d).pending = s.pending := rfl
end elapse

section reach
variable (s : State) (t : Nat)
@[simp] theorem reach_shadow : (reach s t).shadow = s.shadow := rfl
@[simp] theorem reach_force : (reach s t).force = s.force := rfl
@[simp] theorem reach_live : (reach s t).live = s.live := rfl
@[simp] theorem reach_writer : (reach s t).writer = s.writer := rfl
@[simp] theorem reach_commits : (reach s t).commits = s.commits := rfl
@[simp] theorem reach_mem : (reach s t).mem = s.mem := rfl
@[simp] theorem reach_ecc : (reach s t).ecc = s.ecc := rfl
@[simp] theorem reach_bus : (reach s t).bus = s.bus := rfl
@[simp] theorem reach_busErr : (reach s t).busErr = s.busErr := rfl
@[simp] theorem reach_draws : (reach s t).draws = s.draws := rfl
@[simp] theorem reach_memErr : (reach s t).memErr = s.memErr := rfl
@[simp] theorem reach_ufs : (reach s t).ufs = s.ufs := rfl
@[simp] theorem reach_part : (reach s t).part = s.part := rfl
@[simp] theorem reach_alm : (reach s t).alm = s.alm := rfl
@[simp] theorem reach_pcx : (reach s t).pcx = s.pcx := rfl
@[simp] theorem reach_tsk : (reach s t).tsk = s.tsk := rfl
@[simp] theorem reach_tmx : (reach s t).tmx = s.tmx := rfl
@[simp] theorem reach_gse : (reach s t).gse = s.gse := rfl
@[simp] theorem reach_cmd : (reach s t).cmd = s.cmd := rfl
@[simp] theorem reach_fbc0 : (reach s t).fbc0 = s.fbc0 := rfl
@[simp] theorem reach_fbc1 : (reach s t).fbc1 = s.fbc1 := rfl
@[simp] theorem reach_drc : (reach s t).drc = s.drc := rfl
@[simp] theorem reach_time : (reach s t).time = s.time := rfl
@[simp] theorem reach_irig : (reach s t).irig = s.irig := rfl
@[simp] theorem reach_pps : (reach s t).pps = s.pps := rfl
@[simp] theorem reach_bi : (reach s t).bi = s.bi := rfl
@[simp] theorem reach_net : (reach s t).net = s.net := rfl
@[simp] theorem reach_siu : (reach s t).siu = s.siu := rfl
@[simp] theorem reach_svp : (reach s t).svp = s.svp := rfl
@[simp] theorem reach_sca : (reach s t).sca = s.sca := rfl
@[simp] theorem reach_mtr : (reach s t).mtr = s.mtr := rfl
@[simp] theorem reach_sys : (reach s t).sys = s.sys := rfl
@[simp] theorem reach_pwr : (reach s t).pwr = s.pwr := rfl
@[simp] theorem reach_trust : (reach s t).trust = s.trust := rfl
@[simp] theorem reach_mir : (reach s t).mir = s.mir := rfl
@[simp] theorem reach_diag : (reach s t).diag = s.diag := rfl
@[simp] theorem reach_pending : (reach s t).pending = s.pending := rfl
end reach

section reachLtc
variable (s : State) (t : Nat)
@[simp] theorem reachLtc_shadow : (reachLtc s t).shadow = s.shadow := rfl
@[simp] theorem reachLtc_force : (reachLtc s t).force = s.force := rfl
@[simp] theorem reachLtc_live : (reachLtc s t).live = s.live := rfl
@[simp] theorem reachLtc_writer : (reachLtc s t).writer = s.writer := rfl
@[simp] theorem reachLtc_commits : (reachLtc s t).commits = s.commits := rfl
@[simp] theorem reachLtc_mem : (reachLtc s t).mem = s.mem := rfl
@[simp] theorem reachLtc_ecc : (reachLtc s t).ecc = s.ecc := rfl
@[simp] theorem reachLtc_bus : (reachLtc s t).bus = s.bus := rfl
@[simp] theorem reachLtc_busErr : (reachLtc s t).busErr = s.busErr := rfl
@[simp] theorem reachLtc_draws : (reachLtc s t).draws = s.draws := rfl
@[simp] theorem reachLtc_memErr : (reachLtc s t).memErr = s.memErr := rfl
@[simp] theorem reachLtc_ufs : (reachLtc s t).ufs = s.ufs := rfl
@[simp] theorem reachLtc_part : (reachLtc s t).part = s.part := rfl
@[simp] theorem reachLtc_alm : (reachLtc s t).alm = s.alm := rfl
@[simp] theorem reachLtc_pcx : (reachLtc s t).pcx = s.pcx := rfl
@[simp] theorem reachLtc_tsk : (reachLtc s t).tsk = s.tsk := rfl
@[simp] theorem reachLtc_tmx : (reachLtc s t).tmx = s.tmx := rfl
@[simp] theorem reachLtc_gse : (reachLtc s t).gse = s.gse := rfl
@[simp] theorem reachLtc_cmd : (reachLtc s t).cmd = s.cmd := rfl
@[simp] theorem reachLtc_fbc0 : (reachLtc s t).fbc0 = s.fbc0 := rfl
@[simp] theorem reachLtc_fbc1 : (reachLtc s t).fbc1 = s.fbc1 := rfl
@[simp] theorem reachLtc_drc : (reachLtc s t).drc = s.drc := rfl
@[simp] theorem reachLtc_time : (reachLtc s t).time = s.time := rfl
@[simp] theorem reachLtc_irig : (reachLtc s t).irig = s.irig := rfl
@[simp] theorem reachLtc_pps : (reachLtc s t).pps = s.pps := rfl
@[simp] theorem reachLtc_bi : (reachLtc s t).bi = s.bi := rfl
@[simp] theorem reachLtc_net : (reachLtc s t).net = s.net := rfl
@[simp] theorem reachLtc_siu : (reachLtc s t).siu = s.siu := rfl
@[simp] theorem reachLtc_svp : (reachLtc s t).svp = s.svp := rfl
@[simp] theorem reachLtc_sca : (reachLtc s t).sca = s.sca := rfl
@[simp] theorem reachLtc_mtr : (reachLtc s t).mtr = s.mtr := rfl
@[simp] theorem reachLtc_sys : (reachLtc s t).sys = s.sys := rfl
@[simp] theorem reachLtc_pwr : (reachLtc s t).pwr = s.pwr := rfl
@[simp] theorem reachLtc_trust : (reachLtc s t).trust = s.trust := rfl
@[simp] theorem reachLtc_mir : (reachLtc s t).mir = s.mir := rfl
@[simp] theorem reachLtc_diag : (reachLtc s t).diag = s.diag := rfl
@[simp] theorem reachLtc_pending : (reachLtc s t).pending = s.pending := rfl
end reachLtc

section setCommit
variable (s : State) (i : Nat) (c : CommitSt)
@[simp] theorem setCommit_now : (setCommit s i c).now = s.now := rfl
@[simp] theorem setCommit_ltc : (setCommit s i c).ltc = s.ltc := rfl
@[simp] theorem setCommit_shadow : (setCommit s i c).shadow = s.shadow := rfl
@[simp] theorem setCommit_force : (setCommit s i c).force = s.force := rfl
@[simp] theorem setCommit_live : (setCommit s i c).live = s.live := rfl
@[simp] theorem setCommit_writer : (setCommit s i c).writer = s.writer := rfl
@[simp] theorem setCommit_mem : (setCommit s i c).mem = s.mem := rfl
@[simp] theorem setCommit_ecc : (setCommit s i c).ecc = s.ecc := rfl
@[simp] theorem setCommit_bus : (setCommit s i c).bus = s.bus := rfl
@[simp] theorem setCommit_busErr : (setCommit s i c).busErr = s.busErr := rfl
@[simp] theorem setCommit_draws : (setCommit s i c).draws = s.draws := rfl
@[simp] theorem setCommit_memErr : (setCommit s i c).memErr = s.memErr := rfl
@[simp] theorem setCommit_ufs : (setCommit s i c).ufs = s.ufs := rfl
@[simp] theorem setCommit_part : (setCommit s i c).part = s.part := rfl
@[simp] theorem setCommit_alm : (setCommit s i c).alm = s.alm := rfl
@[simp] theorem setCommit_pcx : (setCommit s i c).pcx = s.pcx := rfl
@[simp] theorem setCommit_tsk : (setCommit s i c).tsk = s.tsk := rfl
@[simp] theorem setCommit_tmx : (setCommit s i c).tmx = s.tmx := rfl
@[simp] theorem setCommit_gse : (setCommit s i c).gse = s.gse := rfl
@[simp] theorem setCommit_cmd : (setCommit s i c).cmd = s.cmd := rfl
@[simp] theorem setCommit_fbc0 : (setCommit s i c).fbc0 = s.fbc0 := rfl
@[simp] theorem setCommit_fbc1 : (setCommit s i c).fbc1 = s.fbc1 := rfl
@[simp] theorem setCommit_drc : (setCommit s i c).drc = s.drc := rfl
@[simp] theorem setCommit_time : (setCommit s i c).time = s.time := rfl
@[simp] theorem setCommit_irig : (setCommit s i c).irig = s.irig := rfl
@[simp] theorem setCommit_pps : (setCommit s i c).pps = s.pps := rfl
@[simp] theorem setCommit_bi : (setCommit s i c).bi = s.bi := rfl
@[simp] theorem setCommit_net : (setCommit s i c).net = s.net := rfl
@[simp] theorem setCommit_siu : (setCommit s i c).siu = s.siu := rfl
@[simp] theorem setCommit_svp : (setCommit s i c).svp = s.svp := rfl
@[simp] theorem setCommit_sca : (setCommit s i c).sca = s.sca := rfl
@[simp] theorem setCommit_mtr : (setCommit s i c).mtr = s.mtr := rfl
@[simp] theorem setCommit_sys : (setCommit s i c).sys = s.sys := rfl
@[simp] theorem setCommit_pwr : (setCommit s i c).pwr = s.pwr := rfl
@[simp] theorem setCommit_trust : (setCommit s i c).trust = s.trust := rfl
@[simp] theorem setCommit_mir : (setCommit s i c).mir = s.mir := rfl
@[simp] theorem setCommit_diag : (setCommit s i c).diag = s.diag := rfl
@[simp] theorem setCommit_pending : (setCommit s i c).pending = s.pending := rfl
end setCommit

section setHnq
variable (s : State) (p : Nat) (h : Hnq)
@[simp] theorem setHnq_now : (setHnq s p h).now = s.now := rfl
@[simp] theorem setHnq_ltc : (setHnq s p h).ltc = s.ltc := rfl
@[simp] theorem setHnq_shadow : (setHnq s p h).shadow = s.shadow := rfl
@[simp] theorem setHnq_force : (setHnq s p h).force = s.force := rfl
@[simp] theorem setHnq_live : (setHnq s p h).live = s.live := rfl
@[simp] theorem setHnq_writer : (setHnq s p h).writer = s.writer := rfl
@[simp] theorem setHnq_commits : (setHnq s p h).commits = s.commits := rfl
@[simp] theorem setHnq_mem : (setHnq s p h).mem = s.mem := rfl
@[simp] theorem setHnq_ecc : (setHnq s p h).ecc = s.ecc := rfl
@[simp] theorem setHnq_bus : (setHnq s p h).bus = s.bus := rfl
@[simp] theorem setHnq_busErr : (setHnq s p h).busErr = s.busErr := rfl
@[simp] theorem setHnq_draws : (setHnq s p h).draws = s.draws := rfl
@[simp] theorem setHnq_memErr : (setHnq s p h).memErr = s.memErr := rfl
@[simp] theorem setHnq_ufs : (setHnq s p h).ufs = s.ufs := rfl
@[simp] theorem setHnq_alm : (setHnq s p h).alm = s.alm := rfl
@[simp] theorem setHnq_pcx : (setHnq s p h).pcx = s.pcx := rfl
@[simp] theorem setHnq_tsk : (setHnq s p h).tsk = s.tsk := rfl
@[simp] theorem setHnq_tmx : (setHnq s p h).tmx = s.tmx := rfl
@[simp] theorem setHnq_gse : (setHnq s p h).gse = s.gse := rfl
@[simp] theorem setHnq_cmd : (setHnq s p h).cmd = s.cmd := rfl
@[simp] theorem setHnq_fbc0 : (setHnq s p h).fbc0 = s.fbc0 := rfl
@[simp] theorem setHnq_fbc1 : (setHnq s p h).fbc1 = s.fbc1 := rfl
@[simp] theorem setHnq_drc : (setHnq s p h).drc = s.drc := rfl
@[simp] theorem setHnq_time : (setHnq s p h).time = s.time := rfl
@[simp] theorem setHnq_irig : (setHnq s p h).irig = s.irig := rfl
@[simp] theorem setHnq_pps : (setHnq s p h).pps = s.pps := rfl
@[simp] theorem setHnq_bi : (setHnq s p h).bi = s.bi := rfl
@[simp] theorem setHnq_net : (setHnq s p h).net = s.net := rfl
@[simp] theorem setHnq_siu : (setHnq s p h).siu = s.siu := rfl
@[simp] theorem setHnq_svp : (setHnq s p h).svp = s.svp := rfl
@[simp] theorem setHnq_sca : (setHnq s p h).sca = s.sca := rfl
@[simp] theorem setHnq_mtr : (setHnq s p h).mtr = s.mtr := rfl
@[simp] theorem setHnq_sys : (setHnq s p h).sys = s.sys := rfl
@[simp] theorem setHnq_pwr : (setHnq s p h).pwr = s.pwr := rfl
@[simp] theorem setHnq_trust : (setHnq s p h).trust = s.trust := rfl
@[simp] theorem setHnq_mir : (setHnq s p h).mir = s.mir := rfl
@[simp] theorem setHnq_diag : (setHnq s p h).diag = s.diag := rfl
@[simp] theorem setHnq_pending : (setHnq s p h).pending = s.pending := rfl
end setHnq

section setTask
variable (s : State) (t : Nat) (x : TaskSt)
@[simp] theorem setTask_now : (setTask s t x).now = s.now := rfl
@[simp] theorem setTask_ltc : (setTask s t x).ltc = s.ltc := rfl
@[simp] theorem setTask_shadow : (setTask s t x).shadow = s.shadow := rfl
@[simp] theorem setTask_force : (setTask s t x).force = s.force := rfl
@[simp] theorem setTask_live : (setTask s t x).live = s.live := rfl
@[simp] theorem setTask_writer : (setTask s t x).writer = s.writer := rfl
@[simp] theorem setTask_commits : (setTask s t x).commits = s.commits := rfl
@[simp] theorem setTask_mem : (setTask s t x).mem = s.mem := rfl
@[simp] theorem setTask_ecc : (setTask s t x).ecc = s.ecc := rfl
@[simp] theorem setTask_bus : (setTask s t x).bus = s.bus := rfl
@[simp] theorem setTask_busErr : (setTask s t x).busErr = s.busErr := rfl
@[simp] theorem setTask_draws : (setTask s t x).draws = s.draws := rfl
@[simp] theorem setTask_memErr : (setTask s t x).memErr = s.memErr := rfl
@[simp] theorem setTask_ufs : (setTask s t x).ufs = s.ufs := rfl
@[simp] theorem setTask_part : (setTask s t x).part = s.part := rfl
@[simp] theorem setTask_alm : (setTask s t x).alm = s.alm := rfl
@[simp] theorem setTask_pcx : (setTask s t x).pcx = s.pcx := rfl
@[simp] theorem setTask_tmx : (setTask s t x).tmx = s.tmx := rfl
@[simp] theorem setTask_gse : (setTask s t x).gse = s.gse := rfl
@[simp] theorem setTask_cmd : (setTask s t x).cmd = s.cmd := rfl
@[simp] theorem setTask_fbc0 : (setTask s t x).fbc0 = s.fbc0 := rfl
@[simp] theorem setTask_fbc1 : (setTask s t x).fbc1 = s.fbc1 := rfl
@[simp] theorem setTask_drc : (setTask s t x).drc = s.drc := rfl
@[simp] theorem setTask_time : (setTask s t x).time = s.time := rfl
@[simp] theorem setTask_irig : (setTask s t x).irig = s.irig := rfl
@[simp] theorem setTask_pps : (setTask s t x).pps = s.pps := rfl
@[simp] theorem setTask_bi : (setTask s t x).bi = s.bi := rfl
@[simp] theorem setTask_net : (setTask s t x).net = s.net := rfl
@[simp] theorem setTask_siu : (setTask s t x).siu = s.siu := rfl
@[simp] theorem setTask_svp : (setTask s t x).svp = s.svp := rfl
@[simp] theorem setTask_sca : (setTask s t x).sca = s.sca := rfl
@[simp] theorem setTask_mtr : (setTask s t x).mtr = s.mtr := rfl
@[simp] theorem setTask_sys : (setTask s t x).sys = s.sys := rfl
@[simp] theorem setTask_pwr : (setTask s t x).pwr = s.pwr := rfl
@[simp] theorem setTask_trust : (setTask s t x).trust = s.trust := rfl
@[simp] theorem setTask_mir : (setTask s t x).mir = s.mir := rfl
@[simp] theorem setTask_diag : (setTask s t x).diag = s.diag := rfl
@[simp] theorem setTask_pending : (setTask s t x).pending = s.pending := rfl
end setTask

section setPart
variable (s : State) (p : Nat) (x : TskPart)
@[simp] theorem setPart_now : (setPart s p x).now = s.now := rfl
@[simp] theorem setPart_ltc : (setPart s p x).ltc = s.ltc := rfl
@[simp] theorem setPart_shadow : (setPart s p x).shadow = s.shadow := rfl
@[simp] theorem setPart_force : (setPart s p x).force = s.force := rfl
@[simp] theorem setPart_live : (setPart s p x).live = s.live := rfl
@[simp] theorem setPart_writer : (setPart s p x).writer = s.writer := rfl
@[simp] theorem setPart_commits : (setPart s p x).commits = s.commits := rfl
@[simp] theorem setPart_mem : (setPart s p x).mem = s.mem := rfl
@[simp] theorem setPart_ecc : (setPart s p x).ecc = s.ecc := rfl
@[simp] theorem setPart_bus : (setPart s p x).bus = s.bus := rfl
@[simp] theorem setPart_busErr : (setPart s p x).busErr = s.busErr := rfl
@[simp] theorem setPart_draws : (setPart s p x).draws = s.draws := rfl
@[simp] theorem setPart_memErr : (setPart s p x).memErr = s.memErr := rfl
@[simp] theorem setPart_ufs : (setPart s p x).ufs = s.ufs := rfl
@[simp] theorem setPart_part : (setPart s p x).part = s.part := rfl
@[simp] theorem setPart_alm : (setPart s p x).alm = s.alm := rfl
@[simp] theorem setPart_pcx : (setPart s p x).pcx = s.pcx := rfl
@[simp] theorem setPart_tmx : (setPart s p x).tmx = s.tmx := rfl
@[simp] theorem setPart_gse : (setPart s p x).gse = s.gse := rfl
@[simp] theorem setPart_cmd : (setPart s p x).cmd = s.cmd := rfl
@[simp] theorem setPart_fbc0 : (setPart s p x).fbc0 = s.fbc0 := rfl
@[simp] theorem setPart_fbc1 : (setPart s p x).fbc1 = s.fbc1 := rfl
@[simp] theorem setPart_drc : (setPart s p x).drc = s.drc := rfl
@[simp] theorem setPart_time : (setPart s p x).time = s.time := rfl
@[simp] theorem setPart_irig : (setPart s p x).irig = s.irig := rfl
@[simp] theorem setPart_pps : (setPart s p x).pps = s.pps := rfl
@[simp] theorem setPart_bi : (setPart s p x).bi = s.bi := rfl
@[simp] theorem setPart_net : (setPart s p x).net = s.net := rfl
@[simp] theorem setPart_siu : (setPart s p x).siu = s.siu := rfl
@[simp] theorem setPart_svp : (setPart s p x).svp = s.svp := rfl
@[simp] theorem setPart_sca : (setPart s p x).sca = s.sca := rfl
@[simp] theorem setPart_mtr : (setPart s p x).mtr = s.mtr := rfl
@[simp] theorem setPart_sys : (setPart s p x).sys = s.sys := rfl
@[simp] theorem setPart_pwr : (setPart s p x).pwr = s.pwr := rfl
@[simp] theorem setPart_trust : (setPart s p x).trust = s.trust := rfl
@[simp] theorem setPart_mir : (setPart s p x).mir = s.mir := rfl
@[simp] theorem setPart_diag : (setPart s p x).diag = s.diag := rfl
@[simp] theorem setPart_pending : (setPart s p x).pending = s.pending := rfl
end setPart

section modPart
variable (s : State) (p : Nat) (f : TskPart → TskPart)
@[simp] theorem modPart_now : (modPart s p f).now = s.now := rfl
@[simp] theorem modPart_ltc : (modPart s p f).ltc = s.ltc := rfl
@[simp] theorem modPart_shadow : (modPart s p f).shadow = s.shadow := rfl
@[simp] theorem modPart_force : (modPart s p f).force = s.force := rfl
@[simp] theorem modPart_live : (modPart s p f).live = s.live := rfl
@[simp] theorem modPart_writer : (modPart s p f).writer = s.writer := rfl
@[simp] theorem modPart_commits : (modPart s p f).commits = s.commits := rfl
@[simp] theorem modPart_mem : (modPart s p f).mem = s.mem := rfl
@[simp] theorem modPart_ecc : (modPart s p f).ecc = s.ecc := rfl
@[simp] theorem modPart_bus : (modPart s p f).bus = s.bus := rfl
@[simp] theorem modPart_busErr : (modPart s p f).busErr = s.busErr := rfl
@[simp] theorem modPart_draws : (modPart s p f).draws = s.draws := rfl
@[simp] theorem modPart_memErr : (modPart s p f).memErr = s.memErr := rfl
@[simp] theorem modPart_ufs : (modPart s p f).ufs = s.ufs := rfl
@[simp] theorem modPart_part : (modPart s p f).part = s.part := rfl
@[simp] theorem modPart_alm : (modPart s p f).alm = s.alm := rfl
@[simp] theorem modPart_pcx : (modPart s p f).pcx = s.pcx := rfl
@[simp] theorem modPart_tmx : (modPart s p f).tmx = s.tmx := rfl
@[simp] theorem modPart_gse : (modPart s p f).gse = s.gse := rfl
@[simp] theorem modPart_cmd : (modPart s p f).cmd = s.cmd := rfl
@[simp] theorem modPart_fbc0 : (modPart s p f).fbc0 = s.fbc0 := rfl
@[simp] theorem modPart_fbc1 : (modPart s p f).fbc1 = s.fbc1 := rfl
@[simp] theorem modPart_drc : (modPart s p f).drc = s.drc := rfl
@[simp] theorem modPart_time : (modPart s p f).time = s.time := rfl
@[simp] theorem modPart_irig : (modPart s p f).irig = s.irig := rfl
@[simp] theorem modPart_pps : (modPart s p f).pps = s.pps := rfl
@[simp] theorem modPart_bi : (modPart s p f).bi = s.bi := rfl
@[simp] theorem modPart_net : (modPart s p f).net = s.net := rfl
@[simp] theorem modPart_siu : (modPart s p f).siu = s.siu := rfl
@[simp] theorem modPart_svp : (modPart s p f).svp = s.svp := rfl
@[simp] theorem modPart_sca : (modPart s p f).sca = s.sca := rfl
@[simp] theorem modPart_mtr : (modPart s p f).mtr = s.mtr := rfl
@[simp] theorem modPart_sys : (modPart s p f).sys = s.sys := rfl
@[simp] theorem modPart_pwr : (modPart s p f).pwr = s.pwr := rfl
@[simp] theorem modPart_trust : (modPart s p f).trust = s.trust := rfl
@[simp] theorem modPart_mir : (modPart s p f).mir = s.mir := rfl
@[simp] theorem modPart_diag : (modPart s p f).diag = s.diag := rfl
@[simp] theorem modPart_pending : (modPart s p f).pending = s.pending := rfl
end modPart

section setActQ
variable (s : State) (k : Nat) (q : Q Unit)
@[simp] theorem setActQ_now : (setActQ s k q).now = s.now := rfl
@[simp] theorem setActQ_ltc : (setActQ s k q).ltc = s.ltc := rfl
@[simp] theorem setActQ_shadow : (setActQ s k q).shadow = s.shadow := rfl
@[simp] theorem setActQ_force : (setActQ s k q).force = s.force := rfl
@[simp] theorem setActQ_live : (setActQ s k q).live = s.live := rfl
@[simp] theorem setActQ_writer : (setActQ s k q).writer = s.writer := rfl
@[simp] theorem setActQ_commits : (setActQ s k q).commits = s.commits := rfl
@[simp] theorem setActQ_mem : (setActQ s k q).mem = s.mem := rfl
@[simp] theorem setActQ_ecc : (setActQ s k q).ecc = s.ecc := rfl
@[simp] theorem setActQ_bus : (setActQ s k q).bus = s.bus := rfl
@[simp] theorem setActQ_busErr : (setActQ s k q).busErr = s.busErr := rfl
@[simp] theorem setActQ_draws : (setActQ s k q).draws = s.draws := rfl
@[simp] theorem setActQ_memErr : (setActQ s k q).memErr = s.memErr := rfl
@[simp] theorem setActQ_ufs : (setActQ s k q).ufs = s.ufs := rfl
@[simp] theorem setActQ_part : (setActQ s k q).part = s.part := rfl
@[simp] theorem setActQ_alm : (setActQ s k q).alm = s.alm := rfl
@[simp] theorem setActQ_pcx : (setActQ s k q).pcx = s.pcx := rfl
@[simp] theorem setActQ_tmx : (setActQ s k q).tmx = s.tmx := rfl
@[simp] theorem setActQ_gse : (setActQ s k q).gse = s.gse := rfl
@[simp] theorem setActQ_cmd : (setActQ s k q).cmd = s.cmd := rfl
@[simp] theorem setActQ_fbc0 : (setActQ s k q).fbc0 = s.fbc0 := rfl
@[simp] theorem setActQ_fbc1 : (setActQ s k q).fbc1 = s.fbc1 := rfl
@[simp] theorem setActQ_drc : (setActQ s k q).drc = s.drc := rfl
@[simp] theorem setActQ_time : (setActQ s k q).time = s.time := rfl
@[simp] theorem setActQ_irig : (setActQ s k q).irig = s.irig := rfl
@[simp] theorem setActQ_pps : (setActQ s k q).pps = s.pps := rfl
@[simp] theorem setActQ_bi : (setActQ s k q).bi = s.bi := rfl
@[simp] theorem setActQ_net : (setActQ s k q).net = s.net := rfl
@[simp] theorem setActQ_siu : (setActQ s k q).siu = s.siu := rfl
@[simp] theorem setActQ_svp : (setActQ s k q).svp = s.svp := rfl
@[simp] theorem setActQ_sca : (setActQ s k q).sca = s.sca := rfl
@[simp] theorem setActQ_mtr : (setActQ s k q).mtr = s.mtr := rfl
@[simp] theorem setActQ_sys : (setActQ s k q).sys = s.sys := rfl
@[simp] theorem setActQ_pwr : (setActQ s k q).pwr = s.pwr := rfl
@[simp] theorem setActQ_trust : (setActQ s k q).trust = s.trust := rfl
@[simp] theorem setActQ_mir : (setActQ s k q).mir = s.mir := rfl
@[simp] theorem setActQ_diag : (setActQ s k q).diag = s.diag := rfl
@[simp] theorem setActQ_pending : (setActQ s k q).pending = s.pending := rfl
end setActQ

section setForceSt
variable (s : State) (p e : Nat) (x : ForceSt)
@[simp] theorem setForceSt_now : (setForceSt s p e x).now = s.now := rfl
@[simp] theorem setForceSt_ltc : (setForceSt s p e x).ltc = s.ltc := rfl
@[simp] theorem setForceSt_shadow : (setForceSt s p e x).shadow = s.shadow := rfl
@[simp] theorem setForceSt_force : (setForceSt s p e x).force = s.force := rfl
@[simp] theorem setForceSt_live : (setForceSt s p e x).live = s.live := rfl
@[simp] theorem setForceSt_writer : (setForceSt s p e x).writer = s.writer := rfl
@[simp] theorem setForceSt_commits : (setForceSt s p e x).commits = s.commits := rfl
@[simp] theorem setForceSt_mem : (setForceSt s p e x).mem = s.mem := rfl
@[simp] theorem setForceSt_ecc : (setForceSt s p e x).ecc = s.ecc := rfl
@[simp] theorem setForceSt_bus : (setForceSt s p e x).bus = s.bus := rfl
@[simp] theorem setForceSt_busErr : (setForceSt s p e x).busErr = s.busErr := rfl
@[simp] theorem setForceSt_draws : (setForceSt s p e x).draws = s.draws := rfl
@[simp] theorem setForceSt_memErr : (setForceSt s p e x).memErr = s.memErr := rfl
@[simp] theorem setForceSt_ufs : (setForceSt s p e x).ufs = s.ufs := rfl
@[simp] theorem setForceSt_part : (setForceSt s p e x).part = s.part := rfl
@[simp] theorem setForceSt_alm : (setForceSt s p e x).alm = s.alm := rfl
@[simp] theorem setForceSt_pcx : (setForceSt s p e x).pcx = s.pcx := rfl
@[simp] theorem setForceSt_tmx : (setForceSt s p e x).tmx = s.tmx := rfl
@[simp] theorem setForceSt_gse : (setForceSt s p e x).gse = s.gse := rfl
@[simp] theorem setForceSt_cmd : (setForceSt s p e x).cmd = s.cmd := rfl
@[simp] theorem setForceSt_fbc0 : (setForceSt s p e x).fbc0 = s.fbc0 := rfl
@[simp] theorem setForceSt_fbc1 : (setForceSt s p e x).fbc1 = s.fbc1 := rfl
@[simp] theorem setForceSt_drc : (setForceSt s p e x).drc = s.drc := rfl
@[simp] theorem setForceSt_time : (setForceSt s p e x).time = s.time := rfl
@[simp] theorem setForceSt_irig : (setForceSt s p e x).irig = s.irig := rfl
@[simp] theorem setForceSt_pps : (setForceSt s p e x).pps = s.pps := rfl
@[simp] theorem setForceSt_bi : (setForceSt s p e x).bi = s.bi := rfl
@[simp] theorem setForceSt_net : (setForceSt s p e x).net = s.net := rfl
@[simp] theorem setForceSt_siu : (setForceSt s p e x).siu = s.siu := rfl
@[simp] theorem setForceSt_svp : (setForceSt s p e x).svp = s.svp := rfl
@[simp] theorem setForceSt_sca : (setForceSt s p e x).sca = s.sca := rfl
@[simp] theorem setForceSt_mtr : (setForceSt s p e x).mtr = s.mtr := rfl
@[simp] theorem setForceSt_sys : (setForceSt s p e x).sys = s.sys := rfl
@[simp] theorem setForceSt_pwr : (setForceSt s p e x).pwr = s.pwr := rfl
@[simp] theorem setForceSt_trust : (setForceSt s p e x).trust = s.trust := rfl
@[simp] theorem setForceSt_mir : (setForceSt s p e x).mir = s.mir := rfl
@[simp] theorem setForceSt_diag : (setForceSt s p e x).diag = s.diag := rfl
@[simp] theorem setForceSt_pending : (setForceSt s p e x).pending = s.pending := rfl
end setForceSt

section setCore
variable (s : State) (k : Nat) (c : CoreSt)
@[simp] theorem setCore_now : (setCore s k c).now = s.now := rfl
@[simp] theorem setCore_ltc : (setCore s k c).ltc = s.ltc := rfl
@[simp] theorem setCore_shadow : (setCore s k c).shadow = s.shadow := rfl
@[simp] theorem setCore_force : (setCore s k c).force = s.force := rfl
@[simp] theorem setCore_live : (setCore s k c).live = s.live := rfl
@[simp] theorem setCore_writer : (setCore s k c).writer = s.writer := rfl
@[simp] theorem setCore_commits : (setCore s k c).commits = s.commits := rfl
@[simp] theorem setCore_mem : (setCore s k c).mem = s.mem := rfl
@[simp] theorem setCore_ecc : (setCore s k c).ecc = s.ecc := rfl
@[simp] theorem setCore_bus : (setCore s k c).bus = s.bus := rfl
@[simp] theorem setCore_busErr : (setCore s k c).busErr = s.busErr := rfl
@[simp] theorem setCore_draws : (setCore s k c).draws = s.draws := rfl
@[simp] theorem setCore_memErr : (setCore s k c).memErr = s.memErr := rfl
@[simp] theorem setCore_ufs : (setCore s k c).ufs = s.ufs := rfl
@[simp] theorem setCore_part : (setCore s k c).part = s.part := rfl
@[simp] theorem setCore_alm : (setCore s k c).alm = s.alm := rfl
@[simp] theorem setCore_tsk : (setCore s k c).tsk = s.tsk := rfl
@[simp] theorem setCore_tmx : (setCore s k c).tmx = s.tmx := rfl
@[simp] theorem setCore_gse : (setCore s k c).gse = s.gse := rfl
@[simp] theorem setCore_cmd : (setCore s k c).cmd = s.cmd := rfl
@[simp] theorem setCore_fbc0 : (setCore s k c).fbc0 = s.fbc0 := rfl
@[simp] theorem setCore_fbc1 : (setCore s k c).fbc1 = s.fbc1 := rfl
@[simp] theorem setCore_drc : (setCore s k c).drc = s.drc := rfl
@[simp] theorem setCore_time : (setCore s k c).time = s.time := rfl
@[simp] theorem setCore_irig : (setCore s k c).irig = s.irig := rfl
@[simp] theorem setCore_pps : (setCore s k c).pps = s.pps := rfl
@[simp] theorem setCore_bi : (setCore s k c).bi = s.bi := rfl
@[simp] theorem setCore_net : (setCore s k c).net = s.net := rfl
@[simp] theorem setCore_siu : (setCore s k c).siu = s.siu := rfl
@[simp] theorem setCore_svp : (setCore s k c).svp = s.svp := rfl
@[simp] theorem setCore_sca : (setCore s k c).sca = s.sca := rfl
@[simp] theorem setCore_mtr : (setCore s k c).mtr = s.mtr := rfl
@[simp] theorem setCore_sys : (setCore s k c).sys = s.sys := rfl
@[simp] theorem setCore_pwr : (setCore s k c).pwr = s.pwr := rfl
@[simp] theorem setCore_trust : (setCore s k c).trust = s.trust := rfl
@[simp] theorem setCore_mir : (setCore s k c).mir = s.mir := rfl
@[simp] theorem setCore_diag : (setCore s k c).diag = s.diag := rfl
@[simp] theorem setCore_pending : (setCore s k c).pending = s.pending := rfl
end setCore

section modCore
variable (s : State) (k : Nat) (f : CoreSt → CoreSt)
@[simp] theorem modCore_now : (modCore s k f).now = s.now := rfl
@[simp] theorem modCore_ltc : (modCore s k f).ltc = s.ltc := rfl
@[simp] theorem modCore_shadow : (modCore s k f).shadow = s.shadow := rfl
@[simp] theorem modCore_force : (modCore s k f).force = s.force := rfl
@[simp] theorem modCore_live : (modCore s k f).live = s.live := rfl
@[simp] theorem modCore_writer : (modCore s k f).writer = s.writer := rfl
@[simp] theorem modCore_commits : (modCore s k f).commits = s.commits := rfl
@[simp] theorem modCore_mem : (modCore s k f).mem = s.mem := rfl
@[simp] theorem modCore_ecc : (modCore s k f).ecc = s.ecc := rfl
@[simp] theorem modCore_bus : (modCore s k f).bus = s.bus := rfl
@[simp] theorem modCore_busErr : (modCore s k f).busErr = s.busErr := rfl
@[simp] theorem modCore_draws : (modCore s k f).draws = s.draws := rfl
@[simp] theorem modCore_memErr : (modCore s k f).memErr = s.memErr := rfl
@[simp] theorem modCore_ufs : (modCore s k f).ufs = s.ufs := rfl
@[simp] theorem modCore_part : (modCore s k f).part = s.part := rfl
@[simp] theorem modCore_alm : (modCore s k f).alm = s.alm := rfl
@[simp] theorem modCore_tsk : (modCore s k f).tsk = s.tsk := rfl
@[simp] theorem modCore_tmx : (modCore s k f).tmx = s.tmx := rfl
@[simp] theorem modCore_gse : (modCore s k f).gse = s.gse := rfl
@[simp] theorem modCore_cmd : (modCore s k f).cmd = s.cmd := rfl
@[simp] theorem modCore_fbc0 : (modCore s k f).fbc0 = s.fbc0 := rfl
@[simp] theorem modCore_fbc1 : (modCore s k f).fbc1 = s.fbc1 := rfl
@[simp] theorem modCore_drc : (modCore s k f).drc = s.drc := rfl
@[simp] theorem modCore_time : (modCore s k f).time = s.time := rfl
@[simp] theorem modCore_irig : (modCore s k f).irig = s.irig := rfl
@[simp] theorem modCore_pps : (modCore s k f).pps = s.pps := rfl
@[simp] theorem modCore_bi : (modCore s k f).bi = s.bi := rfl
@[simp] theorem modCore_net : (modCore s k f).net = s.net := rfl
@[simp] theorem modCore_siu : (modCore s k f).siu = s.siu := rfl
@[simp] theorem modCore_svp : (modCore s k f).svp = s.svp := rfl
@[simp] theorem modCore_sca : (modCore s k f).sca = s.sca := rfl
@[simp] theorem modCore_mtr : (modCore s k f).mtr = s.mtr := rfl
@[simp] theorem modCore_sys : (modCore s k f).sys = s.sys := rfl
@[simp] theorem modCore_pwr : (modCore s k f).pwr = s.pwr := rfl
@[simp] theorem modCore_trust : (modCore s k f).trust = s.trust := rfl
@[simp] theorem modCore_mir : (modCore s k f).mir = s.mir := rfl
@[simp] theorem modCore_diag : (modCore s k f).diag = s.diag := rfl
@[simp] theorem modCore_pending : (modCore s k f).pending = s.pending := rfl
end modCore

section setLane
variable (s : State) (n : Nat) (l : Lane)
@[simp] theorem setLane_now : (setLane s n l).now = s.now := rfl
@[simp] theorem setLane_ltc : (setLane s n l).ltc = s.ltc := rfl
@[simp] theorem setLane_shadow : (setLane s n l).shadow = s.shadow := rfl
@[simp] theorem setLane_force : (setLane s n l).force = s.force := rfl
@[simp] theorem setLane_live : (setLane s n l).live = s.live := rfl
@[simp] theorem setLane_writer : (setLane s n l).writer = s.writer := rfl
@[simp] theorem setLane_commits : (setLane s n l).commits = s.commits := rfl
@[simp] theorem setLane_mem : (setLane s n l).mem = s.mem := rfl
@[simp] theorem setLane_ecc : (setLane s n l).ecc = s.ecc := rfl
@[simp] theorem setLane_bus : (setLane s n l).bus = s.bus := rfl
@[simp] theorem setLane_busErr : (setLane s n l).busErr = s.busErr := rfl
@[simp] theorem setLane_draws : (setLane s n l).draws = s.draws := rfl
@[simp] theorem setLane_memErr : (setLane s n l).memErr = s.memErr := rfl
@[simp] theorem setLane_ufs : (setLane s n l).ufs = s.ufs := rfl
@[simp] theorem setLane_part : (setLane s n l).part = s.part := rfl
@[simp] theorem setLane_alm : (setLane s n l).alm = s.alm := rfl
@[simp] theorem setLane_pcx : (setLane s n l).pcx = s.pcx := rfl
@[simp] theorem setLane_tsk : (setLane s n l).tsk = s.tsk := rfl
@[simp] theorem setLane_gse : (setLane s n l).gse = s.gse := rfl
@[simp] theorem setLane_cmd : (setLane s n l).cmd = s.cmd := rfl
@[simp] theorem setLane_fbc0 : (setLane s n l).fbc0 = s.fbc0 := rfl
@[simp] theorem setLane_fbc1 : (setLane s n l).fbc1 = s.fbc1 := rfl
@[simp] theorem setLane_drc : (setLane s n l).drc = s.drc := rfl
@[simp] theorem setLane_time : (setLane s n l).time = s.time := rfl
@[simp] theorem setLane_irig : (setLane s n l).irig = s.irig := rfl
@[simp] theorem setLane_pps : (setLane s n l).pps = s.pps := rfl
@[simp] theorem setLane_bi : (setLane s n l).bi = s.bi := rfl
@[simp] theorem setLane_net : (setLane s n l).net = s.net := rfl
@[simp] theorem setLane_siu : (setLane s n l).siu = s.siu := rfl
@[simp] theorem setLane_svp : (setLane s n l).svp = s.svp := rfl
@[simp] theorem setLane_sca : (setLane s n l).sca = s.sca := rfl
@[simp] theorem setLane_mtr : (setLane s n l).mtr = s.mtr := rfl
@[simp] theorem setLane_sys : (setLane s n l).sys = s.sys := rfl
@[simp] theorem setLane_pwr : (setLane s n l).pwr = s.pwr := rfl
@[simp] theorem setLane_trust : (setLane s n l).trust = s.trust := rfl
@[simp] theorem setLane_mir : (setLane s n l).mir = s.mir := rfl
@[simp] theorem setLane_diag : (setLane s n l).diag = s.diag := rfl
@[simp] theorem setLane_pending : (setLane s n l).pending = s.pending := rfl
end setLane

section setPub
variable (s : State) (p : Nat) (g : GPub)
@[simp] theorem setPub_now : (setPub s p g).now = s.now := rfl
@[simp] theorem setPub_ltc : (setPub s p g).ltc = s.ltc := rfl
@[simp] theorem setPub_shadow : (setPub s p g).shadow = s.shadow := rfl
@[simp] theorem setPub_force : (setPub s p g).force = s.force := rfl
@[simp] theorem setPub_live : (setPub s p g).live = s.live := rfl
@[simp] theorem setPub_writer : (setPub s p g).writer = s.writer := rfl
@[simp] theorem setPub_commits : (setPub s p g).commits = s.commits := rfl
@[simp] theorem setPub_mem : (setPub s p g).mem = s.mem := rfl
@[simp] theorem setPub_ecc : (setPub s p g).ecc = s.ecc := rfl
@[simp] theorem setPub_bus : (setPub s p g).bus = s.bus := rfl
@[simp] theorem setPub_busErr : (setPub s p g).busErr = s.busErr := rfl
@[simp] theorem setPub_draws : (setPub s p g).draws = s.draws := rfl
@[simp] theorem setPub_memErr : (setPub s p g).memErr = s.memErr := rfl
@[simp] theorem setPub_ufs : (setPub s p g).ufs = s.ufs := rfl
@[simp] theorem setPub_part : (setPub s p g).part = s.part := rfl
@[simp] theorem setPub_alm : (setPub s p g).alm = s.alm := rfl
@[simp] theorem setPub_pcx : (setPub s p g).pcx = s.pcx := rfl
@[simp] theorem setPub_tsk : (setPub s p g).tsk = s.tsk := rfl
@[simp] theorem setPub_tmx : (setPub s p g).tmx = s.tmx := rfl
@[simp] theorem setPub_cmd : (setPub s p g).cmd = s.cmd := rfl
@[simp] theorem setPub_fbc0 : (setPub s p g).fbc0 = s.fbc0 := rfl
@[simp] theorem setPub_fbc1 : (setPub s p g).fbc1 = s.fbc1 := rfl
@[simp] theorem setPub_drc : (setPub s p g).drc = s.drc := rfl
@[simp] theorem setPub_time : (setPub s p g).time = s.time := rfl
@[simp] theorem setPub_irig : (setPub s p g).irig = s.irig := rfl
@[simp] theorem setPub_pps : (setPub s p g).pps = s.pps := rfl
@[simp] theorem setPub_bi : (setPub s p g).bi = s.bi := rfl
@[simp] theorem setPub_net : (setPub s p g).net = s.net := rfl
@[simp] theorem setPub_siu : (setPub s p g).siu = s.siu := rfl
@[simp] theorem setPub_svp : (setPub s p g).svp = s.svp := rfl
@[simp] theorem setPub_sca : (setPub s p g).sca = s.sca := rfl
@[simp] theorem setPub_mtr : (setPub s p g).mtr = s.mtr := rfl
@[simp] theorem setPub_sys : (setPub s p g).sys = s.sys := rfl
@[simp] theorem setPub_pwr : (setPub s p g).pwr = s.pwr := rfl
@[simp] theorem setPub_trust : (setPub s p g).trust = s.trust := rfl
@[simp] theorem setPub_mir : (setPub s p g).mir = s.mir := rfl
@[simp] theorem setPub_diag : (setPub s p g).diag = s.diag := rfl
@[simp] theorem setPub_pending : (setPub s p g).pending = s.pending := rfl
end setPub

section setSub
variable (s : State) (n : Nat) (x : GSub)
@[simp] theorem setSub_now : (setSub s n x).now = s.now := rfl
@[simp] theorem setSub_ltc : (setSub s n x).ltc = s.ltc := rfl
@[simp] theorem setSub_shadow : (setSub s n x).shadow = s.shadow := rfl
@[simp] theorem setSub_force : (setSub s n x).force = s.force := rfl
@[simp] theorem setSub_live : (setSub s n x).live = s.live := rfl
@[simp] theorem setSub_writer : (setSub s n x).writer = s.writer := rfl
@[simp] theorem setSub_commits : (setSub s n x).commits = s.commits := rfl
@[simp] theorem setSub_mem : (setSub s n x).mem = s.mem := rfl
@[simp] theorem setSub_ecc : (setSub s n x).ecc = s.ecc := rfl
@[simp] theorem setSub_bus : (setSub s n x).bus = s.bus := rfl
@[simp] theorem setSub_busErr : (setSub s n x).busErr = s.busErr := rfl
@[simp] theorem setSub_draws : (setSub s n x).draws = s.draws := rfl
@[simp] theorem setSub_memErr : (setSub s n x).memErr = s.memErr := rfl
@[simp] theorem setSub_ufs : (setSub s n x).ufs = s.ufs := rfl
@[simp] theorem setSub_part : (setSub s n x).part = s.part := rfl
@[simp] theorem setSub_alm : (setSub s n x).alm = s.alm := rfl
@[simp] theorem setSub_pcx : (setSub s n x).pcx = s.pcx := rfl
@[simp] theorem setSub_tsk : (setSub s n x).tsk = s.tsk := rfl
@[simp] theorem setSub_tmx : (setSub s n x).tmx = s.tmx := rfl
@[simp] theorem setSub_cmd : (setSub s n x).cmd = s.cmd := rfl
@[simp] theorem setSub_fbc0 : (setSub s n x).fbc0 = s.fbc0 := rfl
@[simp] theorem setSub_fbc1 : (setSub s n x).fbc1 = s.fbc1 := rfl
@[simp] theorem setSub_drc : (setSub s n x).drc = s.drc := rfl
@[simp] theorem setSub_time : (setSub s n x).time = s.time := rfl
@[simp] theorem setSub_irig : (setSub s n x).irig = s.irig := rfl
@[simp] theorem setSub_pps : (setSub s n x).pps = s.pps := rfl
@[simp] theorem setSub_bi : (setSub s n x).bi = s.bi := rfl
@[simp] theorem setSub_net : (setSub s n x).net = s.net := rfl
@[simp] theorem setSub_siu : (setSub s n x).siu = s.siu := rfl
@[simp] theorem setSub_svp : (setSub s n x).svp = s.svp := rfl
@[simp] theorem setSub_sca : (setSub s n x).sca = s.sca := rfl
@[simp] theorem setSub_mtr : (setSub s n x).mtr = s.mtr := rfl
@[simp] theorem setSub_sys : (setSub s n x).sys = s.sys := rfl
@[simp] theorem setSub_pwr : (setSub s n x).pwr = s.pwr := rfl
@[simp] theorem setSub_trust : (setSub s n x).trust = s.trust := rfl
@[simp] theorem setSub_mir : (setSub s n x).mir = s.mir := rfl
@[simp] theorem setSub_diag : (setSub s n x).diag = s.diag := rfl
@[simp] theorem setSub_pending : (setSub s n x).pending = s.pending := rfl
end setSub

section setObj
variable (s : State) (o : Nat) (x : CmdObj)
@[simp] theorem setObj_now : (setObj s o x).now = s.now := rfl
@[simp] theorem setObj_ltc : (setObj s o x).ltc = s.ltc := rfl
@[simp] theorem setObj_shadow : (setObj s o x).shadow = s.shadow := rfl
@[simp] theorem setObj_force : (setObj s o x).force = s.force := rfl
@[simp] theorem setObj_live : (setObj s o x).live = s.live := rfl
@[simp] theorem setObj_writer : (setObj s o x).writer = s.writer := rfl
@[simp] theorem setObj_commits : (setObj s o x).commits = s.commits := rfl
@[simp] theorem setObj_mem : (setObj s o x).mem = s.mem := rfl
@[simp] theorem setObj_ecc : (setObj s o x).ecc = s.ecc := rfl
@[simp] theorem setObj_bus : (setObj s o x).bus = s.bus := rfl
@[simp] theorem setObj_busErr : (setObj s o x).busErr = s.busErr := rfl
@[simp] theorem setObj_draws : (setObj s o x).draws = s.draws := rfl
@[simp] theorem setObj_memErr : (setObj s o x).memErr = s.memErr := rfl
@[simp] theorem setObj_ufs : (setObj s o x).ufs = s.ufs := rfl
@[simp] theorem setObj_part : (setObj s o x).part = s.part := rfl
@[simp] theorem setObj_alm : (setObj s o x).alm = s.alm := rfl
@[simp] theorem setObj_pcx : (setObj s o x).pcx = s.pcx := rfl
@[simp] theorem setObj_tsk : (setObj s o x).tsk = s.tsk := rfl
@[simp] theorem setObj_tmx : (setObj s o x).tmx = s.tmx := rfl
@[simp] theorem setObj_gse : (setObj s o x).gse = s.gse := rfl
@[simp] theorem setObj_fbc0 : (setObj s o x).fbc0 = s.fbc0 := rfl
@[simp] theorem setObj_fbc1 : (setObj s o x).fbc1 = s.fbc1 := rfl
@[simp] theorem setObj_drc : (setObj s o x).drc = s.drc := rfl
@[simp] theorem setObj_time : (setObj s o x).time = s.time := rfl
@[simp] theorem setObj_irig : (setObj s o x).irig = s.irig := rfl
@[simp] theorem setObj_pps : (setObj s o x).pps = s.pps := rfl
@[simp] theorem setObj_bi : (setObj s o x).bi = s.bi := rfl
@[simp] theorem setObj_net : (setObj s o x).net = s.net := rfl
@[simp] theorem setObj_siu : (setObj s o x).siu = s.siu := rfl
@[simp] theorem setObj_svp : (setObj s o x).svp = s.svp := rfl
@[simp] theorem setObj_sca : (setObj s o x).sca = s.sca := rfl
@[simp] theorem setObj_mtr : (setObj s o x).mtr = s.mtr := rfl
@[simp] theorem setObj_sys : (setObj s o x).sys = s.sys := rfl
@[simp] theorem setObj_pwr : (setObj s o x).pwr = s.pwr := rfl
@[simp] theorem setObj_trust : (setObj s o x).trust = s.trust := rfl
@[simp] theorem setObj_mir : (setObj s o x).mir = s.mir := rfl
@[simp] theorem setObj_diag : (setObj s o x).diag = s.diag := rfl
@[simp] theorem setObj_pending : (setObj s o x).pending = s.pending := rfl
end setObj

section setFbc
variable (s : State) (m : Nat) (f : FbcSt)
@[simp] theorem setFbc_now : (setFbc s m f).now = s.now := by unfold setFbc; split <;> rfl
@[simp] theorem setFbc_ltc : (setFbc s m f).ltc = s.ltc := by unfold setFbc; split <;> rfl
@[simp] theorem setFbc_shadow : (setFbc s m f).shadow = s.shadow := by unfold setFbc; split <;> rfl
@[simp] theorem setFbc_force : (setFbc s m f).force = s.force := by unfold setFbc; split <;> rfl
@[simp] theorem setFbc_live : (setFbc s m f).live = s.live := by unfold setFbc; split <;> rfl
@[simp] theorem setFbc_writer : (setFbc s m f).writer = s.writer := by unfold setFbc; split <;> rfl
@[simp] theorem setFbc_commits : (setFbc s m f).commits = s.commits := by unfold setFbc; split <;> rfl
@[simp] theorem setFbc_mem : (setFbc s m f).mem = s.mem := by unfold setFbc; split <;> rfl
@[simp] theorem setFbc_ecc : (setFbc s m f).ecc = s.ecc := by unfold setFbc; split <;> rfl
@[simp] theorem setFbc_bus : (setFbc s m f).bus = s.bus := by unfold setFbc; split <;> rfl
@[simp] theorem setFbc_busErr : (setFbc s m f).busErr = s.busErr := by unfold setFbc; split <;> rfl
@[simp] theorem setFbc_draws : (setFbc s m f).draws = s.draws := by unfold setFbc; split <;> rfl
@[simp] theorem setFbc_memErr : (setFbc s m f).memErr = s.memErr := by unfold setFbc; split <;> rfl
@[simp] theorem setFbc_ufs : (setFbc s m f).ufs = s.ufs := by unfold setFbc; split <;> rfl
@[simp] theorem setFbc_part : (setFbc s m f).part = s.part := by unfold setFbc; split <;> rfl
@[simp] theorem setFbc_alm : (setFbc s m f).alm = s.alm := by unfold setFbc; split <;> rfl
@[simp] theorem setFbc_pcx : (setFbc s m f).pcx = s.pcx := by unfold setFbc; split <;> rfl
@[simp] theorem setFbc_tsk : (setFbc s m f).tsk = s.tsk := by unfold setFbc; split <;> rfl
@[simp] theorem setFbc_tmx : (setFbc s m f).tmx = s.tmx := by unfold setFbc; split <;> rfl
@[simp] theorem setFbc_gse : (setFbc s m f).gse = s.gse := by unfold setFbc; split <;> rfl
@[simp] theorem setFbc_cmd : (setFbc s m f).cmd = s.cmd := by unfold setFbc; split <;> rfl
@[simp] theorem setFbc_drc : (setFbc s m f).drc = s.drc := by unfold setFbc; split <;> rfl
@[simp] theorem setFbc_time : (setFbc s m f).time = s.time := by unfold setFbc; split <;> rfl
@[simp] theorem setFbc_irig : (setFbc s m f).irig = s.irig := by unfold setFbc; split <;> rfl
@[simp] theorem setFbc_pps : (setFbc s m f).pps = s.pps := by unfold setFbc; split <;> rfl
@[simp] theorem setFbc_bi : (setFbc s m f).bi = s.bi := by unfold setFbc; split <;> rfl
@[simp] theorem setFbc_net : (setFbc s m f).net = s.net := by unfold setFbc; split <;> rfl
@[simp] theorem setFbc_siu : (setFbc s m f).siu = s.siu := by unfold setFbc; split <;> rfl
@[simp] theorem setFbc_svp : (setFbc s m f).svp = s.svp := by unfold setFbc; split <;> rfl
@[simp] theorem setFbc_sca : (setFbc s m f).sca = s.sca := by unfold setFbc; split <;> rfl
@[simp] theorem setFbc_mtr : (setFbc s m f).mtr = s.mtr := by unfold setFbc; split <;> rfl
@[simp] theorem setFbc_sys : (setFbc s m f).sys = s.sys := by unfold setFbc; split <;> rfl
@[simp] theorem setFbc_pwr : (setFbc s m f).pwr = s.pwr := by unfold setFbc; split <;> rfl
@[simp] theorem setFbc_trust : (setFbc s m f).trust = s.trust := by unfold setFbc; split <;> rfl
@[simp] theorem setFbc_mir : (setFbc s m f).mir = s.mir := by unfold setFbc; split <;> rfl
@[simp] theorem setFbc_diag : (setFbc s m f).diag = s.diag := by unfold setFbc; split <;> rfl
@[simp] theorem setFbc_pending : (setFbc s m f).pending = s.pending := by unfold setFbc; split <;> rfl
end setFbc

section setRq
variable (s : State) (m q : Nat) (r : RqSt)
@[simp] theorem setRq_now : (setRq s m q r).now = s.now := by unfold setRq setFbc; split <;> rfl
@[simp] theorem setRq_ltc : (setRq s m q r).ltc = s.ltc := by unfold setRq setFbc; split <;> rfl
@[simp] theorem setRq_shadow : (setRq s m q r).shadow = s.shadow := by unfold setRq setFbc; split <;> rfl
@[simp] theorem setRq_force : (setRq s m q r).force = s.force := by unfold setRq setFbc; split <;> rfl
@[simp] theorem setRq_live : (setRq s m q r).live = s.live := by unfold setRq setFbc; split <;> rfl
@[simp] theorem setRq_writer : (setRq s m q r).writer = s.writer := by unfold setRq setFbc; split <;> rfl
@[simp] theorem setRq_commits : (setRq s m q r).commits = s.commits := by unfold setRq setFbc; split <;> rfl
@[simp] theorem setRq_mem : (setRq s m q r).mem = s.mem := by unfold setRq setFbc; split <;> rfl
@[simp] theorem setRq_ecc : (setRq s m q r).ecc = s.ecc := by unfold setRq setFbc; split <;> rfl
@[simp] theorem setRq_bus : (setRq s m q r).bus = s.bus := by unfold setRq setFbc; split <;> rfl
@[simp] theorem setRq_busErr : (setRq s m q r).busErr = s.busErr := by unfold setRq setFbc; split <;> rfl
@[simp] theorem setRq_draws : (setRq s m q r).draws = s.draws := by unfold setRq setFbc; split <;> rfl
@[simp] theorem setRq_memErr : (setRq s m q r).memErr = s.memErr := by unfold setRq setFbc; split <;> rfl
@[simp] theorem setRq_ufs : (setRq s m q r).ufs = s.ufs := by unfold setRq setFbc; split <;> rfl
@[simp] theorem setRq_part : (setRq s m q r).part = s.part := by unfold setRq setFbc; split <;> rfl
@[simp] theorem setRq_alm : (setRq s m q r).alm = s.alm := by unfold setRq setFbc; split <;> rfl
@[simp] theorem setRq_pcx : (setRq s m q r).pcx = s.pcx := by unfold setRq setFbc; split <;> rfl
@[simp] theorem setRq_tsk : (setRq s m q r).tsk = s.tsk := by unfold setRq setFbc; split <;> rfl
@[simp] theorem setRq_tmx : (setRq s m q r).tmx = s.tmx := by unfold setRq setFbc; split <;> rfl
@[simp] theorem setRq_gse : (setRq s m q r).gse = s.gse := by unfold setRq setFbc; split <;> rfl
@[simp] theorem setRq_cmd : (setRq s m q r).cmd = s.cmd := by unfold setRq setFbc; split <;> rfl
@[simp] theorem setRq_drc : (setRq s m q r).drc = s.drc := by unfold setRq setFbc; split <;> rfl
@[simp] theorem setRq_time : (setRq s m q r).time = s.time := by unfold setRq setFbc; split <;> rfl
@[simp] theorem setRq_irig : (setRq s m q r).irig = s.irig := by unfold setRq setFbc; split <;> rfl
@[simp] theorem setRq_pps : (setRq s m q r).pps = s.pps := by unfold setRq setFbc; split <;> rfl
@[simp] theorem setRq_bi : (setRq s m q r).bi = s.bi := by unfold setRq setFbc; split <;> rfl
@[simp] theorem setRq_net : (setRq s m q r).net = s.net := by unfold setRq setFbc; split <;> rfl
@[simp] theorem setRq_siu : (setRq s m q r).siu = s.siu := by unfold setRq setFbc; split <;> rfl
@[simp] theorem setRq_svp : (setRq s m q r).svp = s.svp := by unfold setRq setFbc; split <;> rfl
@[simp] theorem setRq_sca : (setRq s m q r).sca = s.sca := by unfold setRq setFbc; split <;> rfl
@[simp] theorem setRq_mtr : (setRq s m q r).mtr = s.mtr := by unfold setRq setFbc; split <;> rfl
@[simp] theorem setRq_sys : (setRq s m q r).sys = s.sys := by unfold setRq setFbc; split <;> rfl
@[simp] theorem setRq_pwr : (setRq s m q r).pwr = s.pwr := by unfold setRq setFbc; split <;> rfl
@[simp] theorem setRq_trust : (setRq s m q r).trust = s.trust := by unfold setRq setFbc; split <;> rfl
@[simp] theorem setRq_mir : (setRq s m q r).mir = s.mir := by unfold setRq setFbc; split <;> rfl
@[simp] theorem setRq_diag : (setRq s m q r).diag = s.diag := by unfold setRq setFbc; split <;> rfl
@[simp] theorem setRq_pending : (setRq s m q r).pending = s.pending := by unfold setRq setFbc; split <;> rfl
end setRq

section setSeg
variable (s : State) (i : Nat) (g : Seg)
@[simp] theorem setSeg_now : (setSeg s i g).now = s.now := rfl
@[simp] theorem setSeg_ltc : (setSeg s i g).ltc = s.ltc := rfl
@[simp] theorem setSeg_shadow : (setSeg s i g).shadow = s.shadow := rfl
@[simp] theorem setSeg_force : (setSeg s i g).force = s.force := rfl
@[simp] theorem setSeg_live : (setSeg s i g).live = s.live := rfl
@[simp] theorem setSeg_writer : (setSeg s i g).writer = s.writer := rfl
@[simp] theorem setSeg_commits : (setSeg s i g).commits = s.commits := rfl
@[simp] theorem setSeg_mem : (setSeg s i g).mem = s.mem := rfl
@[simp] theorem setSeg_ecc : (setSeg s i g).ecc = s.ecc := rfl
@[simp] theorem setSeg_bus : (setSeg s i g).bus = s.bus := rfl
@[simp] theorem setSeg_busErr : (setSeg s i g).busErr = s.busErr := rfl
@[simp] theorem setSeg_draws : (setSeg s i g).draws = s.draws := rfl
@[simp] theorem setSeg_memErr : (setSeg s i g).memErr = s.memErr := rfl
@[simp] theorem setSeg_ufs : (setSeg s i g).ufs = s.ufs := rfl
@[simp] theorem setSeg_part : (setSeg s i g).part = s.part := rfl
@[simp] theorem setSeg_alm : (setSeg s i g).alm = s.alm := rfl
@[simp] theorem setSeg_pcx : (setSeg s i g).pcx = s.pcx := rfl
@[simp] theorem setSeg_tsk : (setSeg s i g).tsk = s.tsk := rfl
@[simp] theorem setSeg_tmx : (setSeg s i g).tmx = s.tmx := rfl
@[simp] theorem setSeg_gse : (setSeg s i g).gse = s.gse := rfl
@[simp] theorem setSeg_cmd : (setSeg s i g).cmd = s.cmd := rfl
@[simp] theorem setSeg_fbc0 : (setSeg s i g).fbc0 = s.fbc0 := rfl
@[simp] theorem setSeg_fbc1 : (setSeg s i g).fbc1 = s.fbc1 := rfl
@[simp] theorem setSeg_time : (setSeg s i g).time = s.time := rfl
@[simp] theorem setSeg_irig : (setSeg s i g).irig = s.irig := rfl
@[simp] theorem setSeg_pps : (setSeg s i g).pps = s.pps := rfl
@[simp] theorem setSeg_bi : (setSeg s i g).bi = s.bi := rfl
@[simp] theorem setSeg_net : (setSeg s i g).net = s.net := rfl
@[simp] theorem setSeg_siu : (setSeg s i g).siu = s.siu := rfl
@[simp] theorem setSeg_svp : (setSeg s i g).svp = s.svp := rfl
@[simp] theorem setSeg_sca : (setSeg s i g).sca = s.sca := rfl
@[simp] theorem setSeg_mtr : (setSeg s i g).mtr = s.mtr := rfl
@[simp] theorem setSeg_sys : (setSeg s i g).sys = s.sys := rfl
@[simp] theorem setSeg_pwr : (setSeg s i g).pwr = s.pwr := rfl
@[simp] theorem setSeg_trust : (setSeg s i g).trust = s.trust := rfl
@[simp] theorem setSeg_mir : (setSeg s i g).mir = s.mir := rfl
@[simp] theorem setSeg_diag : (setSeg s i g).diag = s.diag := rfl
@[simp] theorem setSeg_pending : (setSeg s i g).pending = s.pending := rfl
end setSeg

section setAtu
variable (s : State) (u : Nat) (x : Atu)
@[simp] theorem setAtu_now : (setAtu s u x).now = s.now := rfl
@[simp] theorem setAtu_ltc : (setAtu s u x).ltc = s.ltc := rfl
@[simp] theorem setAtu_shadow : (setAtu s u x).shadow = s.shadow := rfl
@[simp] theorem setAtu_force : (setAtu s u x).force = s.force := rfl
@[simp] theorem setAtu_live : (setAtu s u x).live = s.live := rfl
@[simp] theorem setAtu_writer : (setAtu s u x).writer = s.writer := rfl
@[simp] theorem setAtu_commits : (setAtu s u x).commits = s.commits := rfl
@[simp] theorem setAtu_mem : (setAtu s u x).mem = s.mem := rfl
@[simp] theorem setAtu_ecc : (setAtu s u x).ecc = s.ecc := rfl
@[simp] theorem setAtu_bus : (setAtu s u x).bus = s.bus := rfl
@[simp] theorem setAtu_busErr : (setAtu s u x).busErr = s.busErr := rfl
@[simp] theorem setAtu_draws : (setAtu s u x).draws = s.draws := rfl
@[simp] theorem setAtu_memErr : (setAtu s u x).memErr = s.memErr := rfl
@[simp] theorem setAtu_ufs : (setAtu s u x).ufs = s.ufs := rfl
@[simp] theorem setAtu_part : (setAtu s u x).part = s.part := rfl
@[simp] theorem setAtu_alm : (setAtu s u x).alm = s.alm := rfl
@[simp] theorem setAtu_pcx : (setAtu s u x).pcx = s.pcx := rfl
@[simp] theorem setAtu_tsk : (setAtu s u x).tsk = s.tsk := rfl
@[simp] theorem setAtu_tmx : (setAtu s u x).tmx = s.tmx := rfl
@[simp] theorem setAtu_gse : (setAtu s u x).gse = s.gse := rfl
@[simp] theorem setAtu_cmd : (setAtu s u x).cmd = s.cmd := rfl
@[simp] theorem setAtu_fbc0 : (setAtu s u x).fbc0 = s.fbc0 := rfl
@[simp] theorem setAtu_fbc1 : (setAtu s u x).fbc1 = s.fbc1 := rfl
@[simp] theorem setAtu_time : (setAtu s u x).time = s.time := rfl
@[simp] theorem setAtu_irig : (setAtu s u x).irig = s.irig := rfl
@[simp] theorem setAtu_pps : (setAtu s u x).pps = s.pps := rfl
@[simp] theorem setAtu_bi : (setAtu s u x).bi = s.bi := rfl
@[simp] theorem setAtu_net : (setAtu s u x).net = s.net := rfl
@[simp] theorem setAtu_siu : (setAtu s u x).siu = s.siu := rfl
@[simp] theorem setAtu_svp : (setAtu s u x).svp = s.svp := rfl
@[simp] theorem setAtu_sca : (setAtu s u x).sca = s.sca := rfl
@[simp] theorem setAtu_mtr : (setAtu s u x).mtr = s.mtr := rfl
@[simp] theorem setAtu_sys : (setAtu s u x).sys = s.sys := rfl
@[simp] theorem setAtu_pwr : (setAtu s u x).pwr = s.pwr := rfl
@[simp] theorem setAtu_trust : (setAtu s u x).trust = s.trust := rfl
@[simp] theorem setAtu_mir : (setAtu s u x).mir = s.mir := rfl
@[simp] theorem setAtu_diag : (setAtu s u x).diag = s.diag := rfl
@[simp] theorem setAtu_pending : (setAtu s u x).pending = s.pending := rfl
end setAtu

section setDom
variable (s : State) (d : Nat) (x : Dom)
@[simp] theorem setDom_now : (setDom s d x).now = s.now := by unfold setDom; split <;> rfl
@[simp] theorem setDom_ltc : (setDom s d x).ltc = s.ltc := by unfold setDom; split <;> rfl
@[simp] theorem setDom_shadow : (setDom s d x).shadow = s.shadow := by unfold setDom; split <;> rfl
@[simp] theorem setDom_force : (setDom s d x).force = s.force := by unfold setDom; split <;> rfl
@[simp] theorem setDom_live : (setDom s d x).live = s.live := by unfold setDom; split <;> rfl
@[simp] theorem setDom_writer : (setDom s d x).writer = s.writer := by unfold setDom; split <;> rfl
@[simp] theorem setDom_commits : (setDom s d x).commits = s.commits := by unfold setDom; split <;> rfl
@[simp] theorem setDom_mem : (setDom s d x).mem = s.mem := by unfold setDom; split <;> rfl
@[simp] theorem setDom_ecc : (setDom s d x).ecc = s.ecc := by unfold setDom; split <;> rfl
@[simp] theorem setDom_bus : (setDom s d x).bus = s.bus := by unfold setDom; split <;> rfl
@[simp] theorem setDom_busErr : (setDom s d x).busErr = s.busErr := by unfold setDom; split <;> rfl
@[simp] theorem setDom_draws : (setDom s d x).draws = s.draws := by unfold setDom; split <;> rfl
@[simp] theorem setDom_memErr : (setDom s d x).memErr = s.memErr := by unfold setDom; split <;> rfl
@[simp] theorem setDom_ufs : (setDom s d x).ufs = s.ufs := by unfold setDom; split <;> rfl
@[simp] theorem setDom_part : (setDom s d x).part = s.part := by unfold setDom; split <;> rfl
@[simp] theorem setDom_alm : (setDom s d x).alm = s.alm := by unfold setDom; split <;> rfl
@[simp] theorem setDom_pcx : (setDom s d x).pcx = s.pcx := by unfold setDom; split <;> rfl
@[simp] theorem setDom_tsk : (setDom s d x).tsk = s.tsk := by unfold setDom; split <;> rfl
@[simp] theorem setDom_tmx : (setDom s d x).tmx = s.tmx := by unfold setDom; split <;> rfl
@[simp] theorem setDom_gse : (setDom s d x).gse = s.gse := by unfold setDom; split <;> rfl
@[simp] theorem setDom_cmd : (setDom s d x).cmd = s.cmd := by unfold setDom; split <;> rfl
@[simp] theorem setDom_fbc0 : (setDom s d x).fbc0 = s.fbc0 := by unfold setDom; split <;> rfl
@[simp] theorem setDom_fbc1 : (setDom s d x).fbc1 = s.fbc1 := by unfold setDom; split <;> rfl
@[simp] theorem setDom_drc : (setDom s d x).drc = s.drc := by unfold setDom; split <;> rfl
@[simp] theorem setDom_irig : (setDom s d x).irig = s.irig := by unfold setDom; split <;> rfl
@[simp] theorem setDom_pps : (setDom s d x).pps = s.pps := by unfold setDom; split <;> rfl
@[simp] theorem setDom_bi : (setDom s d x).bi = s.bi := by unfold setDom; split <;> rfl
@[simp] theorem setDom_net : (setDom s d x).net = s.net := by unfold setDom; split <;> rfl
@[simp] theorem setDom_siu : (setDom s d x).siu = s.siu := by unfold setDom; split <;> rfl
@[simp] theorem setDom_svp : (setDom s d x).svp = s.svp := by unfold setDom; split <;> rfl
@[simp] theorem setDom_sca : (setDom s d x).sca = s.sca := by unfold setDom; split <;> rfl
@[simp] theorem setDom_mtr : (setDom s d x).mtr = s.mtr := by unfold setDom; split <;> rfl
@[simp] theorem setDom_sys : (setDom s d x).sys = s.sys := by unfold setDom; split <;> rfl
@[simp] theorem setDom_pwr : (setDom s d x).pwr = s.pwr := by unfold setDom; split <;> rfl
@[simp] theorem setDom_trust : (setDom s d x).trust = s.trust := by unfold setDom; split <;> rfl
@[simp] theorem setDom_mir : (setDom s d x).mir = s.mir := by unfold setDom; split <;> rfl
@[simp] theorem setDom_diag : (setDom s d x).diag = s.diag := by unfold setDom; split <;> rfl
@[simp] theorem setDom_pending : (setDom s d x).pending = s.pending := by unfold setDom; split <;> rfl
end setDom

section setPd
variable (s : State) (m : Nat) (x : Pdelay)
@[simp] theorem setPd_now : (setPd s m x).now = s.now := rfl
@[simp] theorem setPd_ltc : (setPd s m x).ltc = s.ltc := rfl
@[simp] theorem setPd_shadow : (setPd s m x).shadow = s.shadow := rfl
@[simp] theorem setPd_force : (setPd s m x).force = s.force := rfl
@[simp] theorem setPd_live : (setPd s m x).live = s.live := rfl
@[simp] theorem setPd_writer : (setPd s m x).writer = s.writer := rfl
@[simp] theorem setPd_commits : (setPd s m x).commits = s.commits := rfl
@[simp] theorem setPd_mem : (setPd s m x).mem = s.mem := rfl
@[simp] theorem setPd_ecc : (setPd s m x).ecc = s.ecc := rfl
@[simp] theorem setPd_bus : (setPd s m x).bus = s.bus := rfl
@[simp] theorem setPd_busErr : (setPd s m x).busErr = s.busErr := rfl
@[simp] theorem setPd_draws : (setPd s m x).draws = s.draws := rfl
@[simp] theorem setPd_memErr : (setPd s m x).memErr = s.memErr := rfl
@[simp] theorem setPd_ufs : (setPd s m x).ufs = s.ufs := rfl
@[simp] theorem setPd_part : (setPd s m x).part = s.part := rfl
@[simp] theorem setPd_alm : (setPd s m x).alm = s.alm := rfl
@[simp] theorem setPd_pcx : (setPd s m x).pcx = s.pcx := rfl
@[simp] theorem setPd_tsk : (setPd s m x).tsk = s.tsk := rfl
@[simp] theorem setPd_tmx : (setPd s m x).tmx = s.tmx := rfl
@[simp] theorem setPd_gse : (setPd s m x).gse = s.gse := rfl
@[simp] theorem setPd_cmd : (setPd s m x).cmd = s.cmd := rfl
@[simp] theorem setPd_fbc0 : (setPd s m x).fbc0 = s.fbc0 := rfl
@[simp] theorem setPd_fbc1 : (setPd s m x).fbc1 = s.fbc1 := rfl
@[simp] theorem setPd_drc : (setPd s m x).drc = s.drc := rfl
@[simp] theorem setPd_irig : (setPd s m x).irig = s.irig := rfl
@[simp] theorem setPd_pps : (setPd s m x).pps = s.pps := rfl
@[simp] theorem setPd_bi : (setPd s m x).bi = s.bi := rfl
@[simp] theorem setPd_net : (setPd s m x).net = s.net := rfl
@[simp] theorem setPd_siu : (setPd s m x).siu = s.siu := rfl
@[simp] theorem setPd_svp : (setPd s m x).svp = s.svp := rfl
@[simp] theorem setPd_sca : (setPd s m x).sca = s.sca := rfl
@[simp] theorem setPd_mtr : (setPd s m x).mtr = s.mtr := rfl
@[simp] theorem setPd_sys : (setPd s m x).sys = s.sys := rfl
@[simp] theorem setPd_pwr : (setPd s m x).pwr = s.pwr := rfl
@[simp] theorem setPd_trust : (setPd s m x).trust = s.trust := rfl
@[simp] theorem setPd_mir : (setPd s m x).mir = s.mir := rfl
@[simp] theorem setPd_diag : (setPd s m x).diag = s.diag := rfl
@[simp] theorem setPd_pending : (setPd s m x).pending = s.pending := rfl
end setPd

section setStampQ
variable (s : State) (i : Nat) (x : StampQ)
@[simp] theorem setStampQ_now : (setStampQ s i x).now = s.now := rfl
@[simp] theorem setStampQ_ltc : (setStampQ s i x).ltc = s.ltc := rfl
@[simp] theorem setStampQ_shadow : (setStampQ s i x).shadow = s.shadow := rfl
@[simp] theorem setStampQ_force : (setStampQ s i x).force = s.force := rfl
@[simp] theorem setStampQ_live : (setStampQ s i x).live = s.live := rfl
@[simp] theorem setStampQ_writer : (setStampQ s i x).writer = s.writer := rfl
@[simp] theorem setStampQ_commits : (setStampQ s i x).commits = s.commits := rfl
@[simp] theorem setStampQ_mem : (setStampQ s i x).mem = s.mem := rfl
@[simp] theorem setStampQ_ecc : (setStampQ s i x).ecc = s.ecc := rfl
@[simp] theorem setStampQ_bus : (setStampQ s i x).bus = s.bus := rfl
@[simp] theorem setStampQ_busErr : (setStampQ s i x).busErr = s.busErr := rfl
@[simp] theorem setStampQ_draws : (setStampQ s i x).draws = s.draws := rfl
@[simp] theorem setStampQ_memErr : (setStampQ s i x).memErr = s.memErr := rfl
@[simp] theorem setStampQ_ufs : (setStampQ s i x).ufs = s.ufs := rfl
@[simp] theorem setStampQ_part : (setStampQ s i x).part = s.part := rfl
@[simp] theorem setStampQ_alm : (setStampQ s i x).alm = s.alm := rfl
@[simp] theorem setStampQ_pcx : (setStampQ s i x).pcx = s.pcx := rfl
@[simp] theorem setStampQ_tsk : (setStampQ s i x).tsk = s.tsk := rfl
@[simp] theorem setStampQ_tmx : (setStampQ s i x).tmx = s.tmx := rfl
@[simp] theorem setStampQ_gse : (setStampQ s i x).gse = s.gse := rfl
@[simp] theorem setStampQ_cmd : (setStampQ s i x).cmd = s.cmd := rfl
@[simp] theorem setStampQ_fbc0 : (setStampQ s i x).fbc0 = s.fbc0 := rfl
@[simp] theorem setStampQ_fbc1 : (setStampQ s i x).fbc1 = s.fbc1 := rfl
@[simp] theorem setStampQ_drc : (setStampQ s i x).drc = s.drc := rfl
@[simp] theorem setStampQ_time : (setStampQ s i x).time = s.time := rfl
@[simp] theorem setStampQ_irig : (setStampQ s i x).irig = s.irig := rfl
@[simp] theorem setStampQ_pps : (setStampQ s i x).pps = s.pps := rfl
@[simp] theorem setStampQ_net : (setStampQ s i x).net = s.net := rfl
@[simp] theorem setStampQ_siu : (setStampQ s i x).siu = s.siu := rfl
@[simp] theorem setStampQ_svp : (setStampQ s i x).svp = s.svp := rfl
@[simp] theorem setStampQ_sca : (setStampQ s i x).sca = s.sca := rfl
@[simp] theorem setStampQ_mtr : (setStampQ s i x).mtr = s.mtr := rfl
@[simp] theorem setStampQ_sys : (setStampQ s i x).sys = s.sys := rfl
@[simp] theorem setStampQ_pwr : (setStampQ s i x).pwr = s.pwr := rfl
@[simp] theorem setStampQ_trust : (setStampQ s i x).trust = s.trust := rfl
@[simp] theorem setStampQ_mir : (setStampQ s i x).mir = s.mir := rfl
@[simp] theorem setStampQ_diag : (setStampQ s i x).diag = s.diag := rfl
@[simp] theorem setStampQ_pending : (setStampQ s i x).pending = s.pending := rfl
end setStampQ

section setPin
variable (s : State) (i : Nat) (x : BiPin)
@[simp] theorem setPin_now : (setPin s i x).now = s.now := rfl
@[simp] theorem setPin_ltc : (setPin s i x).ltc = s.ltc := rfl
@[simp] theorem setPin_shadow : (setPin s i x).shadow = s.shadow := rfl
@[simp] theorem setPin_force : (setPin s i x).force = s.force := rfl
@[simp] theorem setPin_live : (setPin s i x).live = s.live := rfl
@[simp] theorem setPin_writer : (setPin s i x).writer = s.writer := rfl
@[simp] theorem setPin_commits : (setPin s i x).commits = s.commits := rfl
@[simp] theorem setPin_mem : (setPin s i x).mem = s.mem := rfl
@[simp] theorem setPin_ecc : (setPin s i x).ecc = s.ecc := rfl
@[simp] theorem setPin_bus : (setPin s i x).bus = s.bus := rfl
@[simp] theorem setPin_busErr : (setPin s i x).busErr = s.busErr := rfl
@[simp] theorem setPin_draws : (setPin s i x).draws = s.draws := rfl
@[simp] theorem setPin_memErr : (setPin s i x).memErr = s.memErr := rfl
@[simp] theorem setPin_ufs : (setPin s i x).ufs = s.ufs := rfl
@[simp] theorem setPin_part : (setPin s i x).part = s.part := rfl
@[simp] theorem setPin_alm : (setPin s i x).alm = s.alm := rfl
@[simp] theorem setPin_pcx : (setPin s i x).pcx = s.pcx := rfl
@[simp] theorem setPin_tsk : (setPin s i x).tsk = s.tsk := rfl
@[simp] theorem setPin_tmx : (setPin s i x).tmx = s.tmx := rfl
@[simp] theorem setPin_gse : (setPin s i x).gse = s.gse := rfl
@[simp] theorem setPin_cmd : (setPin s i x).cmd = s.cmd := rfl
@[simp] theorem setPin_fbc0 : (setPin s i x).fbc0 = s.fbc0 := rfl
@[simp] theorem setPin_fbc1 : (setPin s i x).fbc1 = s.fbc1 := rfl
@[simp] theorem setPin_drc : (setPin s i x).drc = s.drc := rfl
@[simp] theorem setPin_time : (setPin s i x).time = s.time := rfl
@[simp] theorem setPin_irig : (setPin s i x).irig = s.irig := rfl
@[simp] theorem setPin_pps : (setPin s i x).pps = s.pps := rfl
@[simp] theorem setPin_net : (setPin s i x).net = s.net := rfl
@[simp] theorem setPin_siu : (setPin s i x).siu = s.siu := rfl
@[simp] theorem setPin_svp : (setPin s i x).svp = s.svp := rfl
@[simp] theorem setPin_sca : (setPin s i x).sca = s.sca := rfl
@[simp] theorem setPin_mtr : (setPin s i x).mtr = s.mtr := rfl
@[simp] theorem setPin_sys : (setPin s i x).sys = s.sys := rfl
@[simp] theorem setPin_pwr : (setPin s i x).pwr = s.pwr := rfl
@[simp] theorem setPin_trust : (setPin s i x).trust = s.trust := rfl
@[simp] theorem setPin_mir : (setPin s i x).mir = s.mir := rfl
@[simp] theorem setPin_diag : (setPin s i x).diag = s.diag := rfl
@[simp] theorem setPin_pending : (setPin s i x).pending = s.pending := rfl
end setPin

section setMac
variable (s : State) (m : Nat) (x : MacSt)
@[simp] theorem setMac_now : (setMac s m x).now = s.now := rfl
@[simp] theorem setMac_ltc : (setMac s m x).ltc = s.ltc := rfl
@[simp] theorem setMac_shadow : (setMac s m x).shadow = s.shadow := rfl
@[simp] theorem setMac_force : (setMac s m x).force = s.force := rfl
@[simp] theorem setMac_live : (setMac s m x).live = s.live := rfl
@[simp] theorem setMac_writer : (setMac s m x).writer = s.writer := rfl
@[simp] theorem setMac_commits : (setMac s m x).commits = s.commits := rfl
@[simp] theorem setMac_mem : (setMac s m x).mem = s.mem := rfl
@[simp] theorem setMac_ecc : (setMac s m x).ecc = s.ecc := rfl
@[simp] theorem setMac_bus : (setMac s m x).bus = s.bus := rfl
@[simp] theorem setMac_busErr : (setMac s m x).busErr = s.busErr := rfl
@[simp] theorem setMac_draws : (setMac s m x).draws = s.draws := rfl
@[simp] theorem setMac_memErr : (setMac s m x).memErr = s.memErr := rfl
@[simp] theorem setMac_ufs : (setMac s m x).ufs = s.ufs := rfl
@[simp] theorem setMac_part : (setMac s m x).part = s.part := rfl
@[simp] theorem setMac_alm : (setMac s m x).alm = s.alm := rfl
@[simp] theorem setMac_pcx : (setMac s m x).pcx = s.pcx := rfl
@[simp] theorem setMac_tsk : (setMac s m x).tsk = s.tsk := rfl
@[simp] theorem setMac_tmx : (setMac s m x).tmx = s.tmx := rfl
@[simp] theorem setMac_gse : (setMac s m x).gse = s.gse := rfl
@[simp] theorem setMac_cmd : (setMac s m x).cmd = s.cmd := rfl
@[simp] theorem setMac_fbc0 : (setMac s m x).fbc0 = s.fbc0 := rfl
@[simp] theorem setMac_fbc1 : (setMac s m x).fbc1 = s.fbc1 := rfl
@[simp] theorem setMac_drc : (setMac s m x).drc = s.drc := rfl
@[simp] theorem setMac_time : (setMac s m x).time = s.time := rfl
@[simp] theorem setMac_irig : (setMac s m x).irig = s.irig := rfl
@[simp] theorem setMac_pps : (setMac s m x).pps = s.pps := rfl
@[simp] theorem setMac_bi : (setMac s m x).bi = s.bi := rfl
@[simp] theorem setMac_siu : (setMac s m x).siu = s.siu := rfl
@[simp] theorem setMac_svp : (setMac s m x).svp = s.svp := rfl
@[simp] theorem setMac_sca : (setMac s m x).sca = s.sca := rfl
@[simp] theorem setMac_mtr : (setMac s m x).mtr = s.mtr := rfl
@[simp] theorem setMac_sys : (setMac s m x).sys = s.sys := rfl
@[simp] theorem setMac_pwr : (setMac s m x).pwr = s.pwr := rfl
@[simp] theorem setMac_trust : (setMac s m x).trust = s.trust := rfl
@[simp] theorem setMac_mir : (setMac s m x).mir = s.mir := rfl
@[simp] theorem setMac_diag : (setMac s m x).diag = s.diag := rfl
@[simp] theorem setMac_pending : (setMac s m x).pending = s.pending := rfl
end setMac

section setLre
variable (s : State) (p : Nat) (x : LreSt)
@[simp] theorem setLre_now : (setLre s p x).now = s.now := rfl
@[simp] theorem setLre_ltc : (setLre s p x).ltc = s.ltc := rfl
@[simp] theorem setLre_shadow : (setLre s p x).shadow = s.shadow := rfl
@[simp] theorem setLre_force : (setLre s p x).force = s.force := rfl
@[simp] theorem setLre_live : (setLre s p x).live = s.live := rfl
@[simp] theorem setLre_writer : (setLre s p x).writer = s.writer := rfl
@[simp] theorem setLre_commits : (setLre s p x).commits = s.commits := rfl
@[simp] theorem setLre_mem : (setLre s p x).mem = s.mem := rfl
@[simp] theorem setLre_ecc : (setLre s p x).ecc = s.ecc := rfl
@[simp] theorem setLre_bus : (setLre s p x).bus = s.bus := rfl
@[simp] theorem setLre_busErr : (setLre s p x).busErr = s.busErr := rfl
@[simp] theorem setLre_draws : (setLre s p x).draws = s.draws := rfl
@[simp] theorem setLre_memErr : (setLre s p x).memErr = s.memErr := rfl
@[simp] theorem setLre_ufs : (setLre s p x).ufs = s.ufs := rfl
@[simp] theorem setLre_part : (setLre s p x).part = s.part := rfl
@[simp] theorem setLre_alm : (setLre s p x).alm = s.alm := rfl
@[simp] theorem setLre_pcx : (setLre s p x).pcx = s.pcx := rfl
@[simp] theorem setLre_tsk : (setLre s p x).tsk = s.tsk := rfl
@[simp] theorem setLre_tmx : (setLre s p x).tmx = s.tmx := rfl
@[simp] theorem setLre_gse : (setLre s p x).gse = s.gse := rfl
@[simp] theorem setLre_cmd : (setLre s p x).cmd = s.cmd := rfl
@[simp] theorem setLre_fbc0 : (setLre s p x).fbc0 = s.fbc0 := rfl
@[simp] theorem setLre_fbc1 : (setLre s p x).fbc1 = s.fbc1 := rfl
@[simp] theorem setLre_drc : (setLre s p x).drc = s.drc := rfl
@[simp] theorem setLre_time : (setLre s p x).time = s.time := rfl
@[simp] theorem setLre_irig : (setLre s p x).irig = s.irig := rfl
@[simp] theorem setLre_pps : (setLre s p x).pps = s.pps := rfl
@[simp] theorem setLre_bi : (setLre s p x).bi = s.bi := rfl
@[simp] theorem setLre_siu : (setLre s p x).siu = s.siu := rfl
@[simp] theorem setLre_svp : (setLre s p x).svp = s.svp := rfl
@[simp] theorem setLre_sca : (setLre s p x).sca = s.sca := rfl
@[simp] theorem setLre_mtr : (setLre s p x).mtr = s.mtr := rfl
@[simp] theorem setLre_sys : (setLre s p x).sys = s.sys := rfl
@[simp] theorem setLre_pwr : (setLre s p x).pwr = s.pwr := rfl
@[simp] theorem setLre_trust : (setLre s p x).trust = s.trust := rfl
@[simp] theorem setLre_mir : (setLre s p x).mir = s.mir := rfl
@[simp] theorem setLre_diag : (setLre s p x).diag = s.diag := rfl
@[simp] theorem setLre_pending : (setLre s p x).pending = s.pending := rfl
end setLre

section setCtx
variable (s : State) (c : Nat) (x : Ctx)
@[simp] theorem setCtx_now : (setCtx s c x).now = s.now := rfl
@[simp] theorem setCtx_ltc : (setCtx s c x).ltc = s.ltc := rfl
@[simp] theorem setCtx_shadow : (setCtx s c x).shadow = s.shadow := rfl
@[simp] theorem setCtx_force : (setCtx s c x).force = s.force := rfl
@[simp] theorem setCtx_live : (setCtx s c x).live = s.live := rfl
@[simp] theorem setCtx_writer : (setCtx s c x).writer = s.writer := rfl
@[simp] theorem setCtx_commits : (setCtx s c x).commits = s.commits := rfl
@[simp] theorem setCtx_mem : (setCtx s c x).mem = s.mem := rfl
@[simp] theorem setCtx_ecc : (setCtx s c x).ecc = s.ecc := rfl
@[simp] theorem setCtx_bus : (setCtx s c x).bus = s.bus := rfl
@[simp] theorem setCtx_busErr : (setCtx s c x).busErr = s.busErr := rfl
@[simp] theorem setCtx_draws : (setCtx s c x).draws = s.draws := rfl
@[simp] theorem setCtx_memErr : (setCtx s c x).memErr = s.memErr := rfl
@[simp] theorem setCtx_ufs : (setCtx s c x).ufs = s.ufs := rfl
@[simp] theorem setCtx_part : (setCtx s c x).part = s.part := rfl
@[simp] theorem setCtx_alm : (setCtx s c x).alm = s.alm := rfl
@[simp] theorem setCtx_pcx : (setCtx s c x).pcx = s.pcx := rfl
@[simp] theorem setCtx_tsk : (setCtx s c x).tsk = s.tsk := rfl
@[simp] theorem setCtx_tmx : (setCtx s c x).tmx = s.tmx := rfl
@[simp] theorem setCtx_gse : (setCtx s c x).gse = s.gse := rfl
@[simp] theorem setCtx_cmd : (setCtx s c x).cmd = s.cmd := rfl
@[simp] theorem setCtx_fbc0 : (setCtx s c x).fbc0 = s.fbc0 := rfl
@[simp] theorem setCtx_fbc1 : (setCtx s c x).fbc1 = s.fbc1 := rfl
@[simp] theorem setCtx_drc : (setCtx s c x).drc = s.drc := rfl
@[simp] theorem setCtx_time : (setCtx s c x).time = s.time := rfl
@[simp] theorem setCtx_irig : (setCtx s c x).irig = s.irig := rfl
@[simp] theorem setCtx_pps : (setCtx s c x).pps = s.pps := rfl
@[simp] theorem setCtx_bi : (setCtx s c x).bi = s.bi := rfl
@[simp] theorem setCtx_net : (setCtx s c x).net = s.net := rfl
@[simp] theorem setCtx_svp : (setCtx s c x).svp = s.svp := rfl
@[simp] theorem setCtx_sca : (setCtx s c x).sca = s.sca := rfl
@[simp] theorem setCtx_mtr : (setCtx s c x).mtr = s.mtr := rfl
@[simp] theorem setCtx_sys : (setCtx s c x).sys = s.sys := rfl
@[simp] theorem setCtx_pwr : (setCtx s c x).pwr = s.pwr := rfl
@[simp] theorem setCtx_trust : (setCtx s c x).trust = s.trust := rfl
@[simp] theorem setCtx_mir : (setCtx s c x).mir = s.mir := rfl
@[simp] theorem setCtx_diag : (setCtx s c x).diag = s.diag := rfl
@[simp] theorem setCtx_pending : (setCtx s c x).pending = s.pending := rfl
end setCtx

section setGrp
variable (s : State) (g : Nat) (x : Grp)
@[simp] theorem setGrp_now : (setGrp s g x).now = s.now := rfl
@[simp] theorem setGrp_ltc : (setGrp s g x).ltc = s.ltc := rfl
@[simp] theorem setGrp_shadow : (setGrp s g x).shadow = s.shadow := rfl
@[simp] theorem setGrp_force : (setGrp s g x).force = s.force := rfl
@[simp] theorem setGrp_live : (setGrp s g x).live = s.live := rfl
@[simp] theorem setGrp_writer : (setGrp s g x).writer = s.writer := rfl
@[simp] theorem setGrp_commits : (setGrp s g x).commits = s.commits := rfl
@[simp] theorem setGrp_mem : (setGrp s g x).mem = s.mem := rfl
@[simp] theorem setGrp_ecc : (setGrp s g x).ecc = s.ecc := rfl
@[simp] theorem setGrp_bus : (setGrp s g x).bus = s.bus := rfl
@[simp] theorem setGrp_busErr : (setGrp s g x).busErr = s.busErr := rfl
@[simp] theorem setGrp_draws : (setGrp s g x).draws = s.draws := rfl
@[simp] theorem setGrp_memErr : (setGrp s g x).memErr = s.memErr := rfl
@[simp] theorem setGrp_ufs : (setGrp s g x).ufs = s.ufs := rfl
@[simp] theorem setGrp_part : (setGrp s g x).part = s.part := rfl
@[simp] theorem setGrp_alm : (setGrp s g x).alm = s.alm := rfl
@[simp] theorem setGrp_pcx : (setGrp s g x).pcx = s.pcx := rfl
@[simp] theorem setGrp_tsk : (setGrp s g x).tsk = s.tsk := rfl
@[simp] theorem setGrp_tmx : (setGrp s g x).tmx = s.tmx := rfl
@[simp] theorem setGrp_gse : (setGrp s g x).gse = s.gse := rfl
@[simp] theorem setGrp_cmd : (setGrp s g x).cmd = s.cmd := rfl
@[simp] theorem setGrp_fbc0 : (setGrp s g x).fbc0 = s.fbc0 := rfl
@[simp] theorem setGrp_fbc1 : (setGrp s g x).fbc1 = s.fbc1 := rfl
@[simp] theorem setGrp_drc : (setGrp s g x).drc = s.drc := rfl
@[simp] theorem setGrp_time : (setGrp s g x).time = s.time := rfl
@[simp] theorem setGrp_irig : (setGrp s g x).irig = s.irig := rfl
@[simp] theorem setGrp_pps : (setGrp s g x).pps = s.pps := rfl
@[simp] theorem setGrp_bi : (setGrp s g x).bi = s.bi := rfl
@[simp] theorem setGrp_net : (setGrp s g x).net = s.net := rfl
@[simp] theorem setGrp_svp : (setGrp s g x).svp = s.svp := rfl
@[simp] theorem setGrp_sca : (setGrp s g x).sca = s.sca := rfl
@[simp] theorem setGrp_mtr : (setGrp s g x).mtr = s.mtr := rfl
@[simp] theorem setGrp_sys : (setGrp s g x).sys = s.sys := rfl
@[simp] theorem setGrp_pwr : (setGrp s g x).pwr = s.pwr := rfl
@[simp] theorem setGrp_trust : (setGrp s g x).trust = s.trust := rfl
@[simp] theorem setGrp_mir : (setGrp s g x).mir = s.mir := rfl
@[simp] theorem setGrp_diag : (setGrp s g x).diag = s.diag := rfl
@[simp] theorem setGrp_pending : (setGrp s g x).pending = s.pending := rfl
end setGrp

section setSvPub
variable (s : State) (p : Nat) (x : SvPub)
@[simp] theorem setSvPub_now : (setSvPub s p x).now = s.now := rfl
@[simp] theorem setSvPub_ltc : (setSvPub s p x).ltc = s.ltc := rfl
@[simp] theorem setSvPub_shadow : (setSvPub s p x).shadow = s.shadow := rfl
@[simp] theorem setSvPub_force : (setSvPub s p x).force = s.force := rfl
@[simp] theorem setSvPub_live : (setSvPub s p x).live = s.live := rfl
@[simp] theorem setSvPub_writer : (setSvPub s p x).writer = s.writer := rfl
@[simp] theorem setSvPub_commits : (setSvPub s p x).commits = s.commits := rfl
@[simp] theorem setSvPub_mem : (setSvPub s p x).mem = s.mem := rfl
@[simp] theorem setSvPub_ecc : (setSvPub s p x).ecc = s.ecc := rfl
@[simp] theorem setSvPub_bus : (setSvPub s p x).bus = s.bus := rfl
@[simp] theorem setSvPub_busErr : (setSvPub s p x).busErr = s.busErr := rfl
@[simp] theorem setSvPub_draws : (setSvPub s p x).draws = s.draws := rfl
@[simp] theorem setSvPub_memErr : (setSvPub s p x).memErr = s.memErr := rfl
@[simp] theorem setSvPub_ufs : (setSvPub s p x).ufs = s.ufs := rfl
@[simp] theorem setSvPub_part : (setSvPub s p x).part = s.part := rfl
@[simp] theorem setSvPub_alm : (setSvPub s p x).alm = s.alm := rfl
@[simp] theorem setSvPub_pcx : (setSvPub s p x).pcx = s.pcx := rfl
@[simp] theorem setSvPub_tsk : (setSvPub s p x).tsk = s.tsk := rfl
@[simp] theorem setSvPub_tmx : (setSvPub s p x).tmx = s.tmx := rfl
@[simp] theorem setSvPub_gse : (setSvPub s p x).gse = s.gse := rfl
@[simp] theorem setSvPub_cmd : (setSvPub s p x).cmd = s.cmd := rfl
@[simp] theorem setSvPub_fbc0 : (setSvPub s p x).fbc0 = s.fbc0 := rfl
@[simp] theorem setSvPub_fbc1 : (setSvPub s p x).fbc1 = s.fbc1 := rfl
@[simp] theorem setSvPub_drc : (setSvPub s p x).drc = s.drc := rfl
@[simp] theorem setSvPub_time : (setSvPub s p x).time = s.time := rfl
@[simp] theorem setSvPub_irig : (setSvPub s p x).irig = s.irig := rfl
@[simp] theorem setSvPub_pps : (setSvPub s p x).pps = s.pps := rfl
@[simp] theorem setSvPub_bi : (setSvPub s p x).bi = s.bi := rfl
@[simp] theorem setSvPub_net : (setSvPub s p x).net = s.net := rfl
@[simp] theorem setSvPub_siu : (setSvPub s p x).siu = s.siu := rfl
@[simp] theorem setSvPub_sca : (setSvPub s p x).sca = s.sca := rfl
@[simp] theorem setSvPub_mtr : (setSvPub s p x).mtr = s.mtr := rfl
@[simp] theorem setSvPub_sys : (setSvPub s p x).sys = s.sys := rfl
@[simp] theorem setSvPub_pwr : (setSvPub s p x).pwr = s.pwr := rfl
@[simp] theorem setSvPub_trust : (setSvPub s p x).trust = s.trust := rfl
@[simp] theorem setSvPub_mir : (setSvPub s p x).mir = s.mir := rfl
@[simp] theorem setSvPub_diag : (setSvPub s p x).diag = s.diag := rfl
@[simp] theorem setSvPub_pending : (setSvPub s p x).pending = s.pending := rfl
end setSvPub

section setAg
variable (s : State) (g : Nat) (x : AgSt)
@[simp] theorem setAg_now : (setAg s g x).now = s.now := rfl
@[simp] theorem setAg_ltc : (setAg s g x).ltc = s.ltc := rfl
@[simp] theorem setAg_shadow : (setAg s g x).shadow = s.shadow := rfl
@[simp] theorem setAg_force : (setAg s g x).force = s.force := rfl
@[simp] theorem setAg_live : (setAg s g x).live = s.live := rfl
@[simp] theorem setAg_writer : (setAg s g x).writer = s.writer := rfl
@[simp] theorem setAg_commits : (setAg s g x).commits = s.commits := rfl
@[simp] theorem setAg_mem : (setAg s g x).mem = s.mem := rfl
@[simp] theorem setAg_ecc : (setAg s g x).ecc = s.ecc := rfl
@[simp] theorem setAg_bus : (setAg s g x).bus = s.bus := rfl
@[simp] theorem setAg_busErr : (setAg s g x).busErr = s.busErr := rfl
@[simp] theorem setAg_draws : (setAg s g x).draws = s.draws := rfl
@[simp] theorem setAg_memErr : (setAg s g x).memErr = s.memErr := rfl
@[simp] theorem setAg_ufs : (setAg s g x).ufs = s.ufs := rfl
@[simp] theorem setAg_part : (setAg s g x).part = s.part := rfl
@[simp] theorem setAg_alm : (setAg s g x).alm = s.alm := rfl
@[simp] theorem setAg_pcx : (setAg s g x).pcx = s.pcx := rfl
@[simp] theorem setAg_tsk : (setAg s g x).tsk = s.tsk := rfl
@[simp] theorem setAg_tmx : (setAg s g x).tmx = s.tmx := rfl
@[simp] theorem setAg_gse : (setAg s g x).gse = s.gse := rfl
@[simp] theorem setAg_cmd : (setAg s g x).cmd = s.cmd := rfl
@[simp] theorem setAg_fbc0 : (setAg s g x).fbc0 = s.fbc0 := rfl
@[simp] theorem setAg_fbc1 : (setAg s g x).fbc1 = s.fbc1 := rfl
@[simp] theorem setAg_drc : (setAg s g x).drc = s.drc := rfl
@[simp] theorem setAg_time : (setAg s g x).time = s.time := rfl
@[simp] theorem setAg_irig : (setAg s g x).irig = s.irig := rfl
@[simp] theorem setAg_pps : (setAg s g x).pps = s.pps := rfl
@[simp] theorem setAg_bi : (setAg s g x).bi = s.bi := rfl
@[simp] theorem setAg_net : (setAg s g x).net = s.net := rfl
@[simp] theorem setAg_siu : (setAg s g x).siu = s.siu := rfl
@[simp] theorem setAg_svp : (setAg s g x).svp = s.svp := rfl
@[simp] theorem setAg_mtr : (setAg s g x).mtr = s.mtr := rfl
@[simp] theorem setAg_sys : (setAg s g x).sys = s.sys := rfl
@[simp] theorem setAg_pwr : (setAg s g x).pwr = s.pwr := rfl
@[simp] theorem setAg_trust : (setAg s g x).trust = s.trust := rfl
@[simp] theorem setAg_mir : (setAg s g x).mir = s.mir := rfl
@[simp] theorem setAg_diag : (setAg s g x).diag = s.diag := rfl
@[simp] theorem setAg_pending : (setAg s g x).pending = s.pending := rfl
end setAg

section setCh
variable (s : State) (c : Nat) (x : ChSt)
@[simp] theorem setCh_now : (setCh s c x).now = s.now := rfl
@[simp] theorem setCh_ltc : (setCh s c x).ltc = s.ltc := rfl
@[simp] theorem setCh_shadow : (setCh s c x).shadow = s.shadow := rfl
@[simp] theorem setCh_force : (setCh s c x).force = s.force := rfl
@[simp] theorem setCh_live : (setCh s c x).live = s.live := rfl
@[simp] theorem setCh_writer : (setCh s c x).writer = s.writer := rfl
@[simp] theorem setCh_commits : (setCh s c x).commits = s.commits := rfl
@[simp] theorem setCh_mem : (setCh s c x).mem = s.mem := rfl
@[simp] theorem setCh_ecc : (setCh s c x).ecc = s.ecc := rfl
@[simp] theorem setCh_bus : (setCh s c x).bus = s.bus := rfl
@[simp] theorem setCh_busErr : (setCh s c x).busErr = s.busErr := rfl
@[simp] theorem setCh_draws : (setCh s c x).draws = s.draws := rfl
@[simp] theorem setCh_memErr : (setCh s c x).memErr = s.memErr := rfl
@[simp] theorem setCh_ufs : (setCh s c x).ufs = s.ufs := rfl
@[simp] theorem setCh_part : (setCh s c x).part = s.part := rfl
@[simp] theorem setCh_alm : (setCh s c x).alm = s.alm := rfl
@[simp] theorem setCh_pcx : (setCh s c x).pcx = s.pcx := rfl
@[simp] theorem setCh_tsk : (setCh s c x).tsk = s.tsk := rfl
@[simp] theorem setCh_tmx : (setCh s c x).tmx = s.tmx := rfl
@[simp] theorem setCh_gse : (setCh s c x).gse = s.gse := rfl
@[simp] theorem setCh_cmd : (setCh s c x).cmd = s.cmd := rfl
@[simp] theorem setCh_fbc0 : (setCh s c x).fbc0 = s.fbc0 := rfl
@[simp] theorem setCh_fbc1 : (setCh s c x).fbc1 = s.fbc1 := rfl
@[simp] theorem setCh_drc : (setCh s c x).drc = s.drc := rfl
@[simp] theorem setCh_time : (setCh s c x).time = s.time := rfl
@[simp] theorem setCh_irig : (setCh s c x).irig = s.irig := rfl
@[simp] theorem setCh_pps : (setCh s c x).pps = s.pps := rfl
@[simp] theorem setCh_bi : (setCh s c x).bi = s.bi := rfl
@[simp] theorem setCh_net : (setCh s c x).net = s.net := rfl
@[simp] theorem setCh_siu : (setCh s c x).siu = s.siu := rfl
@[simp] theorem setCh_svp : (setCh s c x).svp = s.svp := rfl
@[simp] theorem setCh_mtr : (setCh s c x).mtr = s.mtr := rfl
@[simp] theorem setCh_sys : (setCh s c x).sys = s.sys := rfl
@[simp] theorem setCh_pwr : (setCh s c x).pwr = s.pwr := rfl
@[simp] theorem setCh_trust : (setCh s c x).trust = s.trust := rfl
@[simp] theorem setCh_mir : (setCh s c x).mir = s.mir := rfl
@[simp] theorem setCh_diag : (setCh s c x).diag = s.diag := rfl
@[simp] theorem setCh_pending : (setCh s c x).pending = s.pending := rfl
end setCh

section setBank
variable (s : State) (b : Nat) (x : BankSt)
@[simp] theorem setBank_now : (setBank s b x).now = s.now := rfl
@[simp] theorem setBank_ltc : (setBank s b x).ltc = s.ltc := rfl
@[simp] theorem setBank_shadow : (setBank s b x).shadow = s.shadow := rfl
@[simp] theorem setBank_force : (setBank s b x).force = s.force := rfl
@[simp] theorem setBank_live : (setBank s b x).live = s.live := rfl
@[simp] theorem setBank_writer : (setBank s b x).writer = s.writer := rfl
@[simp] theorem setBank_commits : (setBank s b x).commits = s.commits := rfl
@[simp] theorem setBank_mem : (setBank s b x).mem = s.mem := rfl
@[simp] theorem setBank_ecc : (setBank s b x).ecc = s.ecc := rfl
@[simp] theorem setBank_bus : (setBank s b x).bus = s.bus := rfl
@[simp] theorem setBank_busErr : (setBank s b x).busErr = s.busErr := rfl
@[simp] theorem setBank_draws : (setBank s b x).draws = s.draws := rfl
@[simp] theorem setBank_memErr : (setBank s b x).memErr = s.memErr := rfl
@[simp] theorem setBank_ufs : (setBank s b x).ufs = s.ufs := rfl
@[simp] theorem setBank_part : (setBank s b x).part = s.part := rfl
@[simp] theorem setBank_alm : (setBank s b x).alm = s.alm := rfl
@[simp] theorem setBank_pcx : (setBank s b x).pcx = s.pcx := rfl
@[simp] theorem setBank_tsk : (setBank s b x).tsk = s.tsk := rfl
@[simp] theorem setBank_tmx : (setBank s b x).tmx = s.tmx := rfl
@[simp] theorem setBank_gse : (setBank s b x).gse = s.gse := rfl
@[simp] theorem setBank_cmd : (setBank s b x).cmd = s.cmd := rfl
@[simp] theorem setBank_fbc0 : (setBank s b x).fbc0 = s.fbc0 := rfl
@[simp] theorem setBank_fbc1 : (setBank s b x).fbc1 = s.fbc1 := rfl
@[simp] theorem setBank_drc : (setBank s b x).drc = s.drc := rfl
@[simp] theorem setBank_time : (setBank s b x).time = s.time := rfl
@[simp] theorem setBank_irig : (setBank s b x).irig = s.irig := rfl
@[simp] theorem setBank_pps : (setBank s b x).pps = s.pps := rfl
@[simp] theorem setBank_bi : (setBank s b x).bi = s.bi := rfl
@[simp] theorem setBank_net : (setBank s b x).net = s.net := rfl
@[simp] theorem setBank_siu : (setBank s b x).siu = s.siu := rfl
@[simp] theorem setBank_svp : (setBank s b x).svp = s.svp := rfl
@[simp] theorem setBank_mtr : (setBank s b x).mtr = s.mtr := rfl
@[simp] theorem setBank_sys : (setBank s b x).sys = s.sys := rfl
@[simp] theorem setBank_pwr : (setBank s b x).pwr = s.pwr := rfl
@[simp] theorem setBank_trust : (setBank s b x).trust = s.trust := rfl
@[simp] theorem setBank_mir : (setBank s b x).mir = s.mir := rfl
@[simp] theorem setBank_diag : (setBank s b x).diag = s.diag := rfl
@[simp] theorem setBank_pending : (setBank s b x).pending = s.pending := rfl
end setBank

section setMp
variable (s : State) (p : Nat) (x : MPoint)
@[simp] theorem setMp_now : (setMp s p x).now = s.now := rfl
@[simp] theorem setMp_ltc : (setMp s p x).ltc = s.ltc := rfl
@[simp] theorem setMp_shadow : (setMp s p x).shadow = s.shadow := rfl
@[simp] theorem setMp_force : (setMp s p x).force = s.force := rfl
@[simp] theorem setMp_live : (setMp s p x).live = s.live := rfl
@[simp] theorem setMp_writer : (setMp s p x).writer = s.writer := rfl
@[simp] theorem setMp_commits : (setMp s p x).commits = s.commits := rfl
@[simp] theorem setMp_mem : (setMp s p x).mem = s.mem := rfl
@[simp] theorem setMp_ecc : (setMp s p x).ecc = s.ecc := rfl
@[simp] theorem setMp_bus : (setMp s p x).bus = s.bus := rfl
@[simp] theorem setMp_busErr : (setMp s p x).busErr = s.busErr := rfl
@[simp] theorem setMp_draws : (setMp s p x).draws = s.draws := rfl
@[simp] theorem setMp_memErr : (setMp s p x).memErr = s.memErr := rfl
@[simp] theorem setMp_ufs : (setMp s p x).ufs = s.ufs := rfl
@[simp] theorem setMp_part : (setMp s p x).part = s.part := rfl
@[simp] theorem setMp_alm : (setMp s p x).alm = s.alm := rfl
@[simp] theorem setMp_pcx : (setMp s p x).pcx = s.pcx := rfl
@[simp] theorem setMp_tsk : (setMp s p x).tsk = s.tsk := rfl
@[simp] theorem setMp_tmx : (setMp s p x).tmx = s.tmx := rfl
@[simp] theorem setMp_gse : (setMp s p x).gse = s.gse := rfl
@[simp] theorem setMp_cmd : (setMp s p x).cmd = s.cmd := rfl
@[simp] theorem setMp_fbc0 : (setMp s p x).fbc0 = s.fbc0 := rfl
@[simp] theorem setMp_fbc1 : (setMp s p x).fbc1 = s.fbc1 := rfl
@[simp] theorem setMp_drc : (setMp s p x).drc = s.drc := rfl
@[simp] theorem setMp_time : (setMp s p x).time = s.time := rfl
@[simp] theorem setMp_irig : (setMp s p x).irig = s.irig := rfl
@[simp] theorem setMp_pps : (setMp s p x).pps = s.pps := rfl
@[simp] theorem setMp_bi : (setMp s p x).bi = s.bi := rfl
@[simp] theorem setMp_net : (setMp s p x).net = s.net := rfl
@[simp] theorem setMp_siu : (setMp s p x).siu = s.siu := rfl
@[simp] theorem setMp_svp : (setMp s p x).svp = s.svp := rfl
@[simp] theorem setMp_sca : (setMp s p x).sca = s.sca := rfl
@[simp] theorem setMp_sys : (setMp s p x).sys = s.sys := rfl
@[simp] theorem setMp_pwr : (setMp s p x).pwr = s.pwr := rfl
@[simp] theorem setMp_trust : (setMp s p x).trust = s.trust := rfl
@[simp] theorem setMp_mir : (setMp s p x).mir = s.mir := rfl
@[simp] theorem setMp_diag : (setMp s p x).diag = s.diag := rfl
@[simp] theorem setMp_pending : (setMp s p x).pending = s.pending := rfl
end setMp

section setPul
variable (s : State) (n : Nat) (x : Pulse)
@[simp] theorem setPul_now : (setPul s n x).now = s.now := rfl
@[simp] theorem setPul_ltc : (setPul s n x).ltc = s.ltc := rfl
@[simp] theorem setPul_shadow : (setPul s n x).shadow = s.shadow := rfl
@[simp] theorem setPul_force : (setPul s n x).force = s.force := rfl
@[simp] theorem setPul_live : (setPul s n x).live = s.live := rfl
@[simp] theorem setPul_writer : (setPul s n x).writer = s.writer := rfl
@[simp] theorem setPul_commits : (setPul s n x).commits = s.commits := rfl
@[simp] theorem setPul_mem : (setPul s n x).mem = s.mem := rfl
@[simp] theorem setPul_ecc : (setPul s n x).ecc = s.ecc := rfl
@[simp] theorem setPul_bus : (setPul s n x).bus = s.bus := rfl
@[simp] theorem setPul_busErr : (setPul s n x).busErr = s.busErr := rfl
@[simp] theorem setPul_draws : (setPul s n x).draws = s.draws := rfl
@[simp] theorem setPul_memErr : (setPul s n x).memErr = s.memErr := rfl
@[simp] theorem setPul_ufs : (setPul s n x).ufs = s.ufs := rfl
@[simp] theorem setPul_part : (setPul s n x).part = s.part := rfl
@[simp] theorem setPul_alm : (setPul s n x).alm = s.alm := rfl
@[simp] theorem setPul_pcx : (setPul s n x).pcx = s.pcx := rfl
@[simp] theorem setPul_tsk : (setPul s n x).tsk = s.tsk := rfl
@[simp] theorem setPul_tmx : (setPul s n x).tmx = s.tmx := rfl
@[simp] theorem setPul_gse : (setPul s n x).gse = s.gse := rfl
@[simp] theorem setPul_cmd : (setPul s n x).cmd = s.cmd := rfl
@[simp] theorem setPul_fbc0 : (setPul s n x).fbc0 = s.fbc0 := rfl
@[simp] theorem setPul_fbc1 : (setPul s n x).fbc1 = s.fbc1 := rfl
@[simp] theorem setPul_drc : (setPul s n x).drc = s.drc := rfl
@[simp] theorem setPul_time : (setPul s n x).time = s.time := rfl
@[simp] theorem setPul_irig : (setPul s n x).irig = s.irig := rfl
@[simp] theorem setPul_pps : (setPul s n x).pps = s.pps := rfl
@[simp] theorem setPul_bi : (setPul s n x).bi = s.bi := rfl
@[simp] theorem setPul_net : (setPul s n x).net = s.net := rfl
@[simp] theorem setPul_siu : (setPul s n x).siu = s.siu := rfl
@[simp] theorem setPul_svp : (setPul s n x).svp = s.svp := rfl
@[simp] theorem setPul_sca : (setPul s n x).sca = s.sca := rfl
@[simp] theorem setPul_sys : (setPul s n x).sys = s.sys := rfl
@[simp] theorem setPul_pwr : (setPul s n x).pwr = s.pwr := rfl
@[simp] theorem setPul_trust : (setPul s n x).trust = s.trust := rfl
@[simp] theorem setPul_mir : (setPul s n x).mir = s.mir := rfl
@[simp] theorem setPul_diag : (setPul s n x).diag = s.diag := rfl
@[simp] theorem setPul_pending : (setPul s n x).pending = s.pending := rfl
end setPul

section modPwr
variable (s : State) (f : PwrSt → PwrSt)
@[simp] theorem modPwr_now : (modPwr s f).now = s.now := rfl
@[simp] theorem modPwr_ltc : (modPwr s f).ltc = s.ltc := rfl
@[simp] theorem modPwr_shadow : (modPwr s f).shadow = s.shadow := rfl
@[simp] theorem modPwr_force : (modPwr s f).force = s.force := rfl
@[simp] theorem modPwr_live : (modPwr s f).live = s.live := rfl
@[simp] theorem modPwr_writer : (modPwr s f).writer = s.writer := rfl
@[simp] theorem modPwr_commits : (modPwr s f).commits = s.commits := rfl
@[simp] theorem modPwr_mem : (modPwr s f).mem = s.mem := rfl
@[simp] theorem modPwr_ecc : (modPwr s f).ecc = s.ecc := rfl
@[simp] theorem modPwr_bus : (modPwr s f).bus = s.bus := rfl
@[simp] theorem modPwr_busErr : (modPwr s f).busErr = s.busErr := rfl
@[simp] theorem modPwr_draws : (modPwr s f).draws = s.draws := rfl
@[simp] theorem modPwr_memErr : (modPwr s f).memErr = s.memErr := rfl
@[simp] theorem modPwr_ufs : (modPwr s f).ufs = s.ufs := rfl
@[simp] theorem modPwr_part : (modPwr s f).part = s.part := rfl
@[simp] theorem modPwr_alm : (modPwr s f).alm = s.alm := rfl
@[simp] theorem modPwr_pcx : (modPwr s f).pcx = s.pcx := rfl
@[simp] theorem modPwr_tsk : (modPwr s f).tsk = s.tsk := rfl
@[simp] theorem modPwr_tmx : (modPwr s f).tmx = s.tmx := rfl
@[simp] theorem modPwr_gse : (modPwr s f).gse = s.gse := rfl
@[simp] theorem modPwr_cmd : (modPwr s f).cmd = s.cmd := rfl
@[simp] theorem modPwr_fbc0 : (modPwr s f).fbc0 = s.fbc0 := rfl
@[simp] theorem modPwr_fbc1 : (modPwr s f).fbc1 = s.fbc1 := rfl
@[simp] theorem modPwr_drc : (modPwr s f).drc = s.drc := rfl
@[simp] theorem modPwr_time : (modPwr s f).time = s.time := rfl
@[simp] theorem modPwr_irig : (modPwr s f).irig = s.irig := rfl
@[simp] theorem modPwr_pps : (modPwr s f).pps = s.pps := rfl
@[simp] theorem modPwr_bi : (modPwr s f).bi = s.bi := rfl
@[simp] theorem modPwr_net : (modPwr s f).net = s.net := rfl
@[simp] theorem modPwr_siu : (modPwr s f).siu = s.siu := rfl
@[simp] theorem modPwr_svp : (modPwr s f).svp = s.svp := rfl
@[simp] theorem modPwr_sca : (modPwr s f).sca = s.sca := rfl
@[simp] theorem modPwr_mtr : (modPwr s f).mtr = s.mtr := rfl
@[simp] theorem modPwr_sys : (modPwr s f).sys = s.sys := rfl
@[simp] theorem modPwr_trust : (modPwr s f).trust = s.trust := rfl
@[simp] theorem modPwr_mir : (modPwr s f).mir = s.mir := rfl
@[simp] theorem modPwr_diag : (modPwr s f).diag = s.diag := rfl
@[simp] theorem modPwr_pending : (modPwr s f).pending = s.pending := rfl
end modPwr

section modTrust
variable (s : State) (f : TrustSt → TrustSt)
@[simp] theorem modTrust_now : (modTrust s f).now = s.now := rfl
@[simp] theorem modTrust_ltc : (modTrust s f).ltc = s.ltc := rfl
@[simp] theorem modTrust_shadow : (modTrust s f).shadow = s.shadow := rfl
@[simp] theorem modTrust_force : (modTrust s f).force = s.force := rfl
@[simp] theorem modTrust_live : (modTrust s f).live = s.live := rfl
@[simp] theorem modTrust_writer : (modTrust s f).writer = s.writer := rfl
@[simp] theorem modTrust_commits : (modTrust s f).commits = s.commits := rfl
@[simp] theorem modTrust_mem : (modTrust s f).mem = s.mem := rfl
@[simp] theorem modTrust_ecc : (modTrust s f).ecc = s.ecc := rfl
@[simp] theorem modTrust_bus : (modTrust s f).bus = s.bus := rfl
@[simp] theorem modTrust_busErr : (modTrust s f).busErr = s.busErr := rfl
@[simp] theorem modTrust_draws : (modTrust s f).draws = s.draws := rfl
@[simp] theorem modTrust_memErr : (modTrust s f).memErr = s.memErr := rfl
@[simp] theorem modTrust_ufs : (modTrust s f).ufs = s.ufs := rfl
@[simp] theorem modTrust_part : (modTrust s f).part = s.part := rfl
@[simp] theorem modTrust_alm : (modTrust s f).alm = s.alm := rfl
@[simp] theorem modTrust_pcx : (modTrust s f).pcx = s.pcx := rfl
@[simp] theorem modTrust_tsk : (modTrust s f).tsk = s.tsk := rfl
@[simp] theorem modTrust_tmx : (modTrust s f).tmx = s.tmx := rfl
@[simp] theorem modTrust_gse : (modTrust s f).gse = s.gse := rfl
@[simp] theorem modTrust_cmd : (modTrust s f).cmd = s.cmd := rfl
@[simp] theorem modTrust_fbc0 : (modTrust s f).fbc0 = s.fbc0 := rfl
@[simp] theorem modTrust_fbc1 : (modTrust s f).fbc1 = s.fbc1 := rfl
@[simp] theorem modTrust_drc : (modTrust s f).drc = s.drc := rfl
@[simp] theorem modTrust_time : (modTrust s f).time = s.time := rfl
@[simp] theorem modTrust_irig : (modTrust s f).irig = s.irig := rfl
@[simp] theorem modTrust_pps : (modTrust s f).pps = s.pps := rfl
@[simp] theorem modTrust_bi : (modTrust s f).bi = s.bi := rfl
@[simp] theorem modTrust_net : (modTrust s f).net = s.net := rfl
@[simp] theorem modTrust_siu : (modTrust s f).siu = s.siu := rfl
@[simp] theorem modTrust_svp : (modTrust s f).svp = s.svp := rfl
@[simp] theorem modTrust_sca : (modTrust s f).sca = s.sca := rfl
@[simp] theorem modTrust_mtr : (modTrust s f).mtr = s.mtr := rfl
@[simp] theorem modTrust_sys : (modTrust s f).sys = s.sys := rfl
@[simp] theorem modTrust_pwr : (modTrust s f).pwr = s.pwr := rfl
@[simp] theorem modTrust_mir : (modTrust s f).mir = s.mir := rfl
@[simp] theorem modTrust_diag : (modTrust s f).diag = s.diag := rfl
@[simp] theorem modTrust_pending : (modTrust s f).pending = s.pending := rfl
end modTrust

section modMir
variable (s : State) (f : MirSt → MirSt)
@[simp] theorem modMir_now : (modMir s f).now = s.now := rfl
@[simp] theorem modMir_ltc : (modMir s f).ltc = s.ltc := rfl
@[simp] theorem modMir_shadow : (modMir s f).shadow = s.shadow := rfl
@[simp] theorem modMir_force : (modMir s f).force = s.force := rfl
@[simp] theorem modMir_live : (modMir s f).live = s.live := rfl
@[simp] theorem modMir_writer : (modMir s f).writer = s.writer := rfl
@[simp] theorem modMir_commits : (modMir s f).commits = s.commits := rfl
@[simp] theorem modMir_mem : (modMir s f).mem = s.mem := rfl
@[simp] theorem modMir_ecc : (modMir s f).ecc = s.ecc := rfl
@[simp] theorem modMir_bus : (modMir s f).bus = s.bus := rfl
@[simp] theorem modMir_busErr : (modMir s f).busErr = s.busErr := rfl
@[simp] theorem modMir_draws : (modMir s f).draws = s.draws := rfl
@[simp] theorem modMir_memErr : (modMir s f).memErr = s.memErr := rfl
@[simp] theorem modMir_ufs : (modMir s f).ufs = s.ufs := rfl
@[simp] theorem modMir_part : (modMir s f).part = s.part := rfl
@[simp] theorem modMir_alm : (modMir s f).alm = s.alm := rfl
@[simp] theorem modMir_pcx : (modMir s f).pcx = s.pcx := rfl
@[simp] theorem modMir_tsk : (modMir s f).tsk = s.tsk := rfl
@[simp] theorem modMir_tmx : (modMir s f).tmx = s.tmx := rfl
@[simp] theorem modMir_gse : (modMir s f).gse = s.gse := rfl
@[simp] theorem modMir_cmd : (modMir s f).cmd = s.cmd := rfl
@[simp] theorem modMir_fbc0 : (modMir s f).fbc0 = s.fbc0 := rfl
@[simp] theorem modMir_fbc1 : (modMir s f).fbc1 = s.fbc1 := rfl
@[simp] theorem modMir_drc : (modMir s f).drc = s.drc := rfl
@[simp] theorem modMir_time : (modMir s f).time = s.time := rfl
@[simp] theorem modMir_irig : (modMir s f).irig = s.irig := rfl
@[simp] theorem modMir_pps : (modMir s f).pps = s.pps := rfl
@[simp] theorem modMir_bi : (modMir s f).bi = s.bi := rfl
@[simp] theorem modMir_net : (modMir s f).net = s.net := rfl
@[simp] theorem modMir_siu : (modMir s f).siu = s.siu := rfl
@[simp] theorem modMir_svp : (modMir s f).svp = s.svp := rfl
@[simp] theorem modMir_sca : (modMir s f).sca = s.sca := rfl
@[simp] theorem modMir_mtr : (modMir s f).mtr = s.mtr := rfl
@[simp] theorem modMir_sys : (modMir s f).sys = s.sys := rfl
@[simp] theorem modMir_pwr : (modMir s f).pwr = s.pwr := rfl
@[simp] theorem modMir_trust : (modMir s f).trust = s.trust := rfl
@[simp] theorem modMir_diag : (modMir s f).diag = s.diag := rfl
@[simp] theorem modMir_pending : (modMir s f).pending = s.pending := rfl
end modMir

section modDiag
variable (s : State) (f : DiagSt → DiagSt)
@[simp] theorem modDiag_now : (modDiag s f).now = s.now := rfl
@[simp] theorem modDiag_ltc : (modDiag s f).ltc = s.ltc := rfl
@[simp] theorem modDiag_shadow : (modDiag s f).shadow = s.shadow := rfl
@[simp] theorem modDiag_force : (modDiag s f).force = s.force := rfl
@[simp] theorem modDiag_live : (modDiag s f).live = s.live := rfl
@[simp] theorem modDiag_writer : (modDiag s f).writer = s.writer := rfl
@[simp] theorem modDiag_commits : (modDiag s f).commits = s.commits := rfl
@[simp] theorem modDiag_mem : (modDiag s f).mem = s.mem := rfl
@[simp] theorem modDiag_ecc : (modDiag s f).ecc = s.ecc := rfl
@[simp] theorem modDiag_bus : (modDiag s f).bus = s.bus := rfl
@[simp] theorem modDiag_busErr : (modDiag s f).busErr = s.busErr := rfl
@[simp] theorem modDiag_draws : (modDiag s f).draws = s.draws := rfl
@[simp] theorem modDiag_memErr : (modDiag s f).memErr = s.memErr := rfl
@[simp] theorem modDiag_ufs : (modDiag s f).ufs = s.ufs := rfl
@[simp] theorem modDiag_part : (modDiag s f).part = s.part := rfl
@[simp] theorem modDiag_alm : (modDiag s f).alm = s.alm := rfl
@[simp] theorem modDiag_pcx : (modDiag s f).pcx = s.pcx := rfl
@[simp] theorem modDiag_tsk : (modDiag s f).tsk = s.tsk := rfl
@[simp] theorem modDiag_tmx : (modDiag s f).tmx = s.tmx := rfl
@[simp] theorem modDiag_gse : (modDiag s f).gse = s.gse := rfl
@[simp] theorem modDiag_cmd : (modDiag s f).cmd = s.cmd := rfl
@[simp] theorem modDiag_fbc0 : (modDiag s f).fbc0 = s.fbc0 := rfl
@[simp] theorem modDiag_fbc1 : (modDiag s f).fbc1 = s.fbc1 := rfl
@[simp] theorem modDiag_drc : (modDiag s f).drc = s.drc := rfl
@[simp] theorem modDiag_time : (modDiag s f).time = s.time := rfl
@[simp] theorem modDiag_irig : (modDiag s f).irig = s.irig := rfl
@[simp] theorem modDiag_pps : (modDiag s f).pps = s.pps := rfl
@[simp] theorem modDiag_bi : (modDiag s f).bi = s.bi := rfl
@[simp] theorem modDiag_net : (modDiag s f).net = s.net := rfl
@[simp] theorem modDiag_siu : (modDiag s f).siu = s.siu := rfl
@[simp] theorem modDiag_svp : (modDiag s f).svp = s.svp := rfl
@[simp] theorem modDiag_sca : (modDiag s f).sca = s.sca := rfl
@[simp] theorem modDiag_mtr : (modDiag s f).mtr = s.mtr := rfl
@[simp] theorem modDiag_sys : (modDiag s f).sys = s.sys := rfl
@[simp] theorem modDiag_pwr : (modDiag s f).pwr = s.pwr := rfl
@[simp] theorem modDiag_trust : (modDiag s f).trust = s.trust := rfl
@[simp] theorem modDiag_mir : (modDiag s f).mir = s.mir := rfl
@[simp] theorem modDiag_pending : (modDiag s f).pending = s.pending := rfl
end modDiag

end Sys2Proof.Machine
end

