-- ==== Sys2Proof/Laws/Tables.lean ====
section
/-! SUPPORT. Read after write for the tables of State and for bytes in memory, on any list, canonical or not. -/

namespace Sys2Proof.Machine

theorem mget_mdel {α : Type} (d : α) (m : List (Nat × α)) (k j : Nat) : mget d (mdel m k) j = if j = k then d else mget d m j := by
  induction m with
  | nil => simp [mdel, mget]
  | cons e t ih =>
    obtain ⟨i, v⟩ := e
    simp only [mdel, mget]
    split
    · rename_i h
      rw [ih]
      split
      · rfl
      · rw [if_neg (by omega)]
    · rename_i h
      simp only [mget]
      rw [ih]
      split
      · rw [if_neg (by omega)]
      · rfl

theorem mdel_ne {α : Type} (m : List (Nat × α)) (k : Nat) : ∀ e ∈ mdel m k, e.1 ≠ k := by
  induction m with
  | nil => simp [mdel]
  | cons e t ih =>
    obtain ⟨i, w⟩ := e
    intro e he
    simp only [mdel] at he
    split at he
    · exact ih e he
    · rcases List.mem_cons.mp he with rfl | he
      · assumption
      · exact ih e he

theorem mget_mins {α : Type} (d : α) (k j : Nat) (v : α) (m : List (Nat × α)) (h : ∀ e ∈ m, e.1 ≠ k) :
    mget d (mins k v m) j = if j = k then v else mget d m j := by
  induction m with
  | nil => simp [mins, mget, eq_comm]
  | cons e t ih =>
    obtain ⟨i, w⟩ := e
    have hi : i ≠ k := h (i, w) (List.mem_cons_self ..)
    simp only [mins]
    split
    · simp only [mget]
      by_cases hj : j = k
      · simp [hj]
      · rw [if_neg fun h => hj h.symm]; simp [hj]
    · simp only [mget]
      rw [ih fun e he => h e (List.mem_cons_of_mem _ he)]
      by_cases hj : j = k
      · subst hj; simp [hi]
      · simp [hj]

theorem mget_mset {α : Type} [DecidableEq α] (d : α) (m : List (Nat × α)) (k j : Nat) (v : α) :
    mget d (mset d m k v) j = if j = k then v else mget d m j := by
  unfold mset
  split
  · rename_i h; rw [mget_mdel, h]
  · rw [mget_mins _ _ _ _ _ (mdel_ne m k), mget_mdel]
    split <;> rfl

@[simp] theorem mget_mset_self {α : Type} [DecidableEq α] (d : α) (m : List (Nat × α)) (k : Nat) (v : α) : mget d (mset d m k v) k = v := by
  rw [mget_mset, if_pos rfl]

theorem mget_mset_ne {α : Type} [DecidableEq α] (d : α) (m : List (Nat × α)) (k j : Nat) (v : α) (h : j ≠ k) :
    mget d (mset d m k v) j = mget d m j := by rw [mget_mset, if_neg h]

theorem mfind_mdel {α : Type} (m : List (Nat × α)) (k j : Nat) : mfind (mdel m k) j = if j = k then none else mfind m j := by
  induction m with
  | nil => simp [mdel, mfind]
  | cons e t ih =>
    obtain ⟨i, v⟩ := e
    simp only [mdel, mfind]
    split
    · rw [ih]
      split
      · rfl
      · rw [if_neg (by omega)]
    · simp only [mfind]
      rw [ih]
      split
      · rw [if_neg (by omega)]
      · rfl

theorem mfind_mput {α : Type} (m : List (Nat × α)) (k j : Nat) (v : α) : mfind (mput m k v) j = if j = k then some v else mfind m j := by
  have key : ∀ l : List (Nat × α), (∀ e ∈ l, e.1 ≠ k) → mfind (mins k v l) j = if j = k then some v else mfind l j := by
    intro l h
    induction l with
    | nil => simp [mins, mfind, eq_comm]
    | cons e t ih =>
      obtain ⟨i, w⟩ := e
      have hi : i ≠ k := h (i, w) (List.mem_cons_self ..)
      simp only [mins]
      split
      · simp only [mfind]
        by_cases hj : j = k
        · simp [hj]
        · rw [if_neg fun h => hj h.symm]; simp [hj]
      · simp only [mfind]
        rw [ih fun e he => h e (List.mem_cons_of_mem _ he)]
        by_cases hj : j = k
        · subst hj; simp [hi]
        · simp [hj]
  rw [mput, key _ (mdel_ne m k), mfind_mdel]
  split <;> rfl

/-- The second of two writes under one key stands alone. -/
theorem mdel_mins {α : Type} (k : Nat) (v : α) (m : List (Nat × α)) : mdel (mins k v m) k = mdel m k := by
  induction m with
  | nil => simp [mins, mdel]
  | cons e t ih =>
    obtain ⟨i, w⟩ := e
    simp only [mins]
    split
    · simp [mdel]
    · simp only [mdel]; rw [ih]

theorem mdel_mdel {α : Type} (m : List (Nat × α)) (k : Nat) : mdel (mdel m k) k = mdel m k := by
  induction m with
  | nil => rfl
  | cons e t ih =>
    obtain ⟨i, w⟩ := e
    simp only [mdel]
    split
    · exact ih
    · rename_i h; simp only [mdel]; rw [if_neg h, ih]

@[simp] theorem mset_mset {α : Type} [DecidableEq α] (d : α) (m : List (Nat × α)) (k : Nat) (v w : α) :
    mset d (mset d m k v) k w = mset d m k w := by
  have h : mdel (mset d m k v) k = mdel m k := by
    unfold mset; split
    · exact mdel_mdel m k
    · rw [mdel_mins, mdel_mdel]
  unfold mset at h ⊢
  rw [h]

@[simp] theorem mput_mput {α : Type} (m : List (Nat × α)) (k : Nat) (v w : α) : mput (mput m k v) k w = mput m k w := by
  simp only [mput, mdel_mins, mdel_mdel]

theorem mget_append {α : Type} (d : α) (l m : List (Nat × α)) (k : Nat) (h : ∀ e ∈ l, e.1 ≠ k) : mget d (l ++ m) k = mget d m k := by
  induction l with
  | nil => rfl
  | cons e t ih =>
    obtain ⟨i, v⟩ := e
    simp only [List.cons_append, mget]
    rw [if_neg (h (i, v) (List.mem_cons_self ..)), ih fun e he => h e (List.mem_cons_of_mem _ he)]

theorem mget_append_right {α : Type} (d : α) (l m : List (Nat × α)) (k : Nat) (h : ∀ e ∈ m, e.1 ≠ k) : mget d (l ++ m) k = mget d l k := by
  induction l with
  | nil =>
    induction m with
    | nil => rfl
    | cons e t ih =>
      obtain ⟨i, v⟩ := e
      simp only [List.nil_append, mget] at ih ⊢
      rw [if_neg (h (i, v) (List.mem_cons_self ..)), ih fun e he => h e (List.mem_cons_of_mem _ he)]
  | cons e t ih =>
    obtain ⟨i, v⟩ := e
    simp only [List.cons_append, mget]
    rw [ih]

theorem mget_filter {α : Type} (d : α) (m : List (Nat × α)) (p : Nat → Bool) (k : Nat) :
    mget d (m.filter fun e => p e.1) k = if p k then mget d m k else d := by
  induction m with
  | nil => simp [mget]
  | cons e t ih =>
    obtain ⟨i, v⟩ := e
    simp only [List.filter_cons, mget]
    by_cases hp : p i
    · rw [if_pos hp]
      simp only [mget]
      by_cases h : i = k
      · subst h; simp [hp]
      · simp [h, ih]
    · rw [if_neg hp, ih]
      by_cases h : i = k
      · subst h; simp [hp]
      · simp [h]

theorem mget_cellsOf (bs : List Byte) (a k : Nat) :
    mget 0#8 (cellsOf a bs) k = if a ≤ k ∧ k < a + bs.length then bs[k - a]?.getD 0#8 else 0#8 := by
  induction bs generalizing a with
  | nil => simp [cellsOf, mget]
  | cons b t ih =>
    have tail : mget 0#8 (cellsOf (a + 1) t) k = if a + 1 ≤ k ∧ k < a + 1 + t.length then t[k - (a + 1)]?.getD 0#8 else 0#8 := ih (a + 1)
    by_cases hk : k = a
    · subst hk
      simp only [cellsOf]
      split
      · rename_i h; rw [tail, if_neg (by omega), if_pos (by simp)]; simp [h]
      · simp [mget]
    · have hs : mget 0#8 (cellsOf a (b :: t)) k = mget 0#8 (cellsOf (a + 1) t) k := by
        simp only [cellsOf]
        split
        · rfl
        · simp only [mget]; rw [if_neg fun h => hk h.symm]
      rw [hs, tail]
      simp only [List.length_cons]
      by_cases h : a + 1 ≤ k ∧ k < a + 1 + t.length
      · rw [if_pos h, if_pos (by omega)]
        obtain ⟨j, hj⟩ : ∃ j, k - a = j + 1 := ⟨k - a - 1, by omega⟩
        rw [hj, List.getElem?_cons_succ, show k - (a + 1) = j from by omega]
      · rw [if_neg h, if_neg (by omega)]

/-- A byte of memory after bytes are stored. -/
theorem mget_storeBytes (m : List Host.Cell) (a : Nat) (bs : List Byte) (k : Nat) :
    mget 0#8 (storeBytes m a bs) k = if a ≤ k ∧ k < a + bs.length then bs[k - a]?.getD 0#8 else mget 0#8 m k := by
  have lo : mget 0#8 (m.filter fun c => decide (c.1 < a)) k = if k < a then mget 0#8 m k else 0#8 := by
    have := mget_filter 0#8 m (fun i => decide (i < a)) k
    simpa using this
  have hi : mget 0#8 (m.filter fun c => decide (a + bs.length ≤ c.1)) k = if a + bs.length ≤ k then mget 0#8 m k else 0#8 := by
    have := mget_filter 0#8 m (fun i => decide (a + bs.length ≤ i)) k
    simpa using this
  have mid := mget_cellsOf bs a k
  have cells : ∀ e ∈ cellsOf a bs, a ≤ e.1 ∧ e.1 < a + bs.length := by
    clear lo hi mid
    induction bs generalizing a with
    | nil => simp [cellsOf]
    | cons b t ih =>
      intro e he
      simp only [cellsOf] at he
      simp only [List.length_cons]
      split at he
      · have := ih (a + 1) e he; omega
      · rcases List.mem_cons.mp he with rfl | he
        · exact ⟨Nat.le_refl _, by show a < _; omega⟩
        · have := ih (a + 1) e he; omega
  unfold storeBytes
  by_cases h1 : k < a
  · rw [mget_append_right _ _ _ _ (by intro e he; have := List.mem_filter.mp he; simp at this; omega),
      mget_append_right _ _ _ _ (by intro e he; have := cells e he; omega), lo, if_pos h1, if_neg (by omega)]
  · by_cases h2 : a + bs.length ≤ k
    · rw [mget_append _ _ _ _ (by
        intro e he
        rcases List.mem_append.mp he with he | he
        · have := List.mem_filter.mp he; simp at this; omega
        · have := cells e he; omega), hi, if_pos h2, if_neg (by omega)]
    · rw [mget_append_right _ _ _ _ (by intro e he; have := List.mem_filter.mp he; simp at this; omega),
        mget_append _ _ _ _ (by intro e he; have := List.mem_filter.mp he; simp at this; omega), mid]
      rw [if_pos (by omega), if_pos (by omega)]

end Sys2Proof.Machine
end

