-- ==== Sys2Proof/Laws/Core.lean ====
section
/-! SUPPORT. What the issue of an instruction on a protection core does, said once: a core that issues comes to the body of its
instruction from the state after its fetch; a false predicate only moves the counter on; a true one ends with the outcome of the body. -/

namespace Sys2Proof.Machine

/-- Only live bits differ: what a fetch or a read sees is the same. -/
def LiveOnly (s t : State) : Prop := ∃ l, t = { s with live := l }

theorem LiveOnly.refl (s : State) : LiveOnly s s := ⟨s.live, rfl⟩
theorem LiveOnly.trans {s t u : State} (h : LiveOnly s t) (g : LiveOnly t u) : LiveOnly s u := by
  obtain ⟨l, rfl⟩ := h
  obtain ⟨m, rfl⟩ := g
  exact ⟨m, rfl⟩
theorem liveOnly_memCe (s : State) (a : Nat) : LiveOnly s (memCe s a) := ⟨_, rfl⟩

theorem foldl_max_le (l : List (Nat × Nat)) (w : Nat) :
    w ≤ l.foldl (fun w e => max w e.2) w ∧ ∀ e ∈ l, e.2 ≤ l.foldl (fun w e => max w e.2) w := by
  induction l generalizing w with
  | nil => simp
  | cons x l ih =>
    have h := ih (max w x.2)
    simp only [List.foldl_cons, List.mem_cons]
    refine ⟨by omega, fun e he => ?_⟩
    rcases he with rfl | he
    · omega
    · exact h.2 e he

/-- A read without an uncorrectable error only counts the errors it corrects (R36). -/
theorem eccRead_ok (s : State) (a n : Nat) (h : eccOf s a n < 2) : LiveOnly s (eccRead s a n).1 ∧ (eccRead s a n).2 = false := by
  have hm : ∀ e ∈ eccIn s a n, e.2 < 2 := fun e he => Nat.lt_of_le_of_lt ((foldl_max_le (eccIn s a n) 0).2 e he) h
  refine ⟨?_, by simp [eccRead]; omega⟩
  unfold eccRead
  dsimp only
  generalize eccIn s a n = l at hm
  have step : ∀ (l : List (Nat × Nat)) (t : State), (∀ e ∈ l, e.2 < 2) → LiveOnly s t →
      LiveOnly s (l.foldl (fun s e => match e.2 with | 0 => s | 1 => memCe s (8 * e.1) | _ => memUe s (8 * e.1)) t) := by
    intro l
    induction l with
    | nil => intro t _ h; exact h
    | cons x l ih =>
      intro t hl ht
      refine ih _ (fun e he => hl e (List.mem_cons_of_mem _ he)) ?_
      have hx := hl x List.mem_cons_self
      match hk : x.2 with
      | 0 => simpa [hk] using ht
      | 1 => simpa [hk] using ht.trans (liveOnly_memCe _ _)
      | n + 2 => omega
  exact step l s hm (LiveOnly.refl s)

theorem LiveOnly.memDenied {s t : State} (h : LiveOnly s t) (g : Tag) (k : AccKind) (a : Nat) : memDenied t g k a = memDenied s g k a := by
  obtain ⟨l, rfl⟩ := h; rfl
theorem LiveOnly.eccOf {s t : State} (h : LiveOnly s t) (a n : Nat) : eccOf t a n = eccOf s a n := by obtain ⟨l, rfl⟩ := h; rfl
theorem LiveOnly.rd32 {s t : State} (h : LiveOnly s t) (a : Nat) : rd32 t a = rd32 s a := by obtain ⟨l, rfl⟩ := h; rfl
theorem LiveOnly.coreOf {s t : State} (h : LiveOnly s t) (k : Nat) : coreOf t k = coreOf s k := by obtain ⟨l, rfl⟩ := h; rfl

/-- A fetch that is permitted only counts. -/
theorem fetchCounted_live (s : State) (k o : Nat) (h : canFetch s k o) : LiveOnly s (fetchCounted s k o) := (eccRead_ok _ _ _ h.2.2).1

theorem canFetch_live {s t : State} {k o : Nat} (h : LiveOnly s t) (g : canFetch s k o) : canFetch t k o := by
  obtain ⟨l, rfl⟩ := h; exact g

/-- The state after the fetch of an instruction that issues. -/
theorem fetched_live (s : State) (k len : Nat) (h : issues s k len) : LiveOnly s (fetched s k len) := by
  obtain ⟨_, _, h1, h2⟩ := h
  unfold fetched
  split
  · exact (fetchCounted_live _ _ _ h1).trans (fetchCounted_live _ _ _ (canFetch_live (fetchCounted_live _ _ _ h1) (h2 (by assumption))))
  · exact fetchCounted_live _ _ _ h1

/-- A permitted fetch goes on with the word from the state in which corrected errors are counted (R36, R304, R353). -/
theorem coreFetch_ok (s : State) (k o : Nat) (c : CoreSt) (ok : Word → State → State) (hc : c.bank = (coreOf s k).bank ∧ c.pid = (coreOf s k).pid)
    (h : canFetch s k o) : coreFetch s k c o ok = ok (rd32 s (fetchAddr s k o)) (fetchCounted s k o) := by
  obtain ⟨h1, h2, h3⟩ := h
  have h4 : ¬ 0x10000 ≤ o := by omega
  have h5 := (eccRead_ok _ _ _ h3).2
  unfold fetchAddr at h2 h5
  unfold coreFetch fetchCounted fetchAddr
  rw [hc.1, hc.2]
  simp [h4, h2, h5]

/-- A core that issues the words of its instruction comes to the instruction's body (R304, R337, R342). -/
theorem coreExec_issues (ws : List Word) (m : Word) (s : State) (k len p : Nat) (vec : Bool) (f : CoreSt → State → Out)
    (h : issues s k len) (hw : ws[0]? = some (rd32 s (fetchAddr s k (coreOf s k).pc) &&& m))
    (hx : len = 8 → ws[1]? = some (rd32 s (fetchAddr s k ((coreOf s k).pc + 4)))) :
    coreExec ws k len none vec p f s m = cutAfter k (coreBody k len vec p (coreOf s k) f (fetched s k len)) := by
  obtain ⟨hm, hcut, h1, h2⟩ := h
  unfold coreExec coreWords fetched
  simp only [hm, hcut, ne_eq, not_true_eq_false, if_false, Option.any_none]
  rw [coreFetch_ok s k _ _ _ ⟨rfl, rfl⟩ h1]
  have hl := fetchCounted_live s k _ h1
  simp only [hw, not_true_eq_false, if_false]
  by_cases h8 : len = 8
  · simp only [h8, if_true]
    rw [coreFetch_ok _ k _ _ _ (by rw [hl.coreOf]; exact ⟨rfl, rfl⟩) (canFetch_live hl (h2 h8))]
    have e : rd32 (fetchCounted s k (coreOf s k).pc) (fetchAddr (fetchCounted s k (coreOf s k).pc) k ((coreOf s k).pc + 4)) =
        rd32 s (fetchAddr s k ((coreOf s k).pc + 4)) := by
      unfold fetchAddr; rw [hl.coreOf, hl.rd32]
    simp [hx h8, e]
  · simp [h8]

/-- A run that no STOP_PARTITION ends goes on. -/
theorem cutAfter_none (k : Nat) (s : State) (h : (coreOf s k).cutAt = none) : cutAfter k s = s := by simp [cutAfter, h]

/-- A scalar instruction whose predicate is false moves the counter on and nothing else (R309). -/
theorem coreBody_off (k len p : Nat) (c : CoreSt) (f : CoreSt → State → Out) (s : State) (h : (pget c p).getLsbD 0 = false) :
    coreBody k len false p c f s = stepCore s k len id := by
  unfold coreBody
  rw [h]
  rfl

theorem coreBody_on (k len p : Nat) (c : CoreSt) (f : CoreSt → State → Out) (s : State) (h : (pget c p).getLsbD 0 = true) :
    coreBody k len false p c f s = coreEnd k len c (f c s) := by
  unfold coreBody
  rw [h]
  rfl

theorem coreBody_vec (k len p : Nat) (c : CoreSt) (f : CoreSt → State → Out) (s : State) :
    coreBody k len true p c f s = coreEnd k len c (f c s) := by
  simp [coreBody]

@[simp] theorem coreOf_setCore (s : State) (k j : Nat) (c : CoreSt) : coreOf (setCore s k c) j = if j = k then c else coreOf s j := by
  unfold coreOf setCore
  exact mget_mset _ _ _ _ _

@[simp] theorem setCore_setCore (s : State) (k : Nat) (c d : CoreSt) : setCore (setCore s k c) k d = setCore s k d := by
  simp [setCore]

@[simp] theorem modCore_modCore (s : State) (k : Nat) (f g : CoreSt → CoreSt) : modCore (modCore s k f) k g = modCore s k fun c => g (f c) := by
  simp [modCore]

@[simp] theorem coreOf_modCore (s : State) (k j : Nat) (f : CoreSt → CoreSt) :
    coreOf (modCore s k f) j = if j = k then f (coreOf s k) else coreOf s j := by simp [modCore]

@[simp] theorem sset_pc (c : CoreSt) (d : Nat) (w : Word) : (sset c d w).pc = c.pc := by unfold sset; split <;> rfl
@[simp] theorem dset_pc (c : CoreSt) (d : Nat) (w : DWord) : (dset c d w).pc = c.pc := by simp [dset]
@[simp] theorem pset_pc (c : CoreSt) (d : Nat) (m v : Byte) : (pset c d m v).pc = c.pc := by unfold pset; split <;> rfl
@[simp] theorem flags_pc (c : CoreSt) (f : Nat) : (flags c f).pc = c.pc := rfl

/-- An instruction that changes its core's registers by `f` and goes on. -/
theorem coreEnd_go (s : State) (k len : Nat) (c : CoreSt) (f : CoreSt → CoreSt) (h : ∀ c, (f c).pc = c.pc) :
    coreEnd k len c (.go (modCore s k f)) = stepCore s k len f := by
  simp only [coreEnd, modCore_modCore, stepCore, h]

@[simp] theorem sset_cutAt (c : CoreSt) (d : Nat) (w : Word) : (sset c d w).cutAt = c.cutAt := by unfold sset; split <;> rfl
@[simp] theorem flags_cutAt (c : CoreSt) (f : Nat) : (flags c f).cutAt = c.cutAt := rfl

/-- A scalar instruction that issues with a true predicate writes its register, collects its flags and goes on (R312, R339). -/
theorem coreExec_scalar (ws : List Word) (m : Word) (s : State) (k len p d : Nat) (g : CoreSt → State → Word × Nat) (h : issues s k len)
    (hp : predOn s k p) (hw : ws[0]? = some (rd32 s (fetchAddr s k (coreOf s k).pc) &&& m))
    (hx : len = 8 → ws[1]? = some (rd32 s (fetchAddr s k ((coreOf s k).pc + 4)))) :
    coreExec ws k len none false p (fun c s => .go (scalar k s d (g c s))) s m =
      stepCore (fetched s k len) k len fun c =>
        flags (sset c d (g (coreOf s k) (fetched s k len)).1) (g (coreOf s k) (fetched s k len)).2 := by
  have hl := fetched_live s k len h
  rw [coreExec_issues _ _ _ _ _ _ _ _ h hw hx, coreBody_on _ _ _ _ _ _ hp]
  refine (congrArg (cutAfter k) (coreEnd_go _ _ _ _ _ (by simp))).trans (cutAfter_none _ _ ?_)
  simp [stepCore, hl.coreOf, h.2.1]

end Sys2Proof.Machine
end

