-- ==== Sys2Proof/Laws/Keeps.lean ====
section
/-! SUPPORT. What no command loses: the memory's canonical form, the queue, the time and the one-way fuses. -/

namespace Sys2Proof.Machine

/-- The canonical form of a table: no default listed, numbers rising. -/
theorem mwf_iff {α : Type} [DecidableEq α] (d : α) :
    ∀ m : List (Nat × α), mwf d m = true ↔ (∀ e ∈ m, e.2 ≠ d) ∧ m.Pairwise (fun x y => x.1 < y.1)
  | [] => by simp [mwf]
  | [(k, v)] => by simp [mwf]
  | (k, v) :: (k', v') :: t => by
    have ih := mwf_iff d ((k', v') :: t)
    simp only [mwf, Bool.and_eq_true, decide_eq_true_eq, ih, List.pairwise_cons, List.mem_cons]
    constructor
    · rintro ⟨⟨h1, h2⟩, h3, h4, h5⟩
      refine ⟨?_, ?_, h4, h5⟩
      · rintro e (rfl | he)
        · exact h1
        · exact h3 e he
      · rintro e (rfl | he)
        · exact h2
        · exact Nat.lt_trans h2 (h4 e he)
    · rintro ⟨h1, h2, h4, h5⟩
      exact ⟨⟨h1 (k, v) (.inl rfl), h2 (k', v') (.inl rfl)⟩, fun e he => h1 e (.inr he), h4, h5⟩

/-- Dropping a range keeps the form. -/
theorem mdrop_wf {α : Type} [DecidableEq α] (d : α) (m : List (Nat × α)) (lo hi : Nat) (h : mwf d m = true) :
    mwf d (mdrop m lo hi) = true := by
  rw [mwf_iff] at h ⊢
  exact ⟨fun e he => h.1 e ((List.mem_filter.mp he).1), h.2.filter _⟩

theorem cellsOf_mem : ∀ (bs : List Byte) (a : Nat) (e : Host.Cell), e ∈ cellsOf a bs →
    a ≤ e.1 ∧ e.1 < a + bs.length ∧ e.2 ≠ 0#8
  | [], _, _, h => by simp [cellsOf] at h
  | b :: t, a, e, h => by
    simp only [cellsOf] at h
    have ih := cellsOf_mem t (a + 1) e
    simp only [List.length_cons]
    split at h
    · have := ih h
      exact ⟨by omega, by omega, this.2.2⟩
    · rcases List.mem_cons.mp h with rfl | h
      · exact ⟨Nat.le_refl _, by show a < _; omega, by assumption⟩
      · have := ih h
        exact ⟨by omega, by omega, this.2.2⟩

theorem cellsOf_pairwise : ∀ (bs : List Byte) (a : Nat), (cellsOf a bs).Pairwise (fun x y => x.1 < y.1)
  | [], _ => List.Pairwise.nil
  | b :: t, a => by
    simp only [cellsOf]
    split
    · exact cellsOf_pairwise t (a + 1)
    · exact List.Pairwise.cons (fun e he => by have := cellsOf_mem t (a + 1) e he; show a < e.1; omega) (cellsOf_pairwise t (a + 1))

/-- A store keeps the memory's canonical form. -/
theorem storeBytes_wf (m : List Host.Cell) (a : Nat) (bs : List Byte) (h : Memory.wf m = true) :
    Memory.wf (storeBytes m a bs) = true := by
  unfold Memory.wf at h ⊢
  rw [mwf_iff] at h ⊢
  refine ⟨fun e he => ?_, ?_⟩
  · simp only [storeBytes, List.mem_append, List.mem_filter] at he
    rcases he with (he | he) | he
    · exact h.1 e he.1
    · exact (cellsOf_mem bs a e he).2.2
    · exact h.1 e he.1
  · simp only [storeBytes, List.pairwise_append]
    refine ⟨⟨h.2.filter _, cellsOf_pairwise bs a, ?_⟩, h.2.filter _, ?_⟩
    · intro x hx y hy
      have := cellsOf_mem bs a y hy
      simp only [List.mem_filter, decide_eq_true_eq] at hx
      omega
    · intro x hx y hy
      simp only [List.mem_filter, decide_eq_true_eq, List.mem_append] at hx hy
      rcases hx with hx | hx
      · omega
      · have := cellsOf_mem bs a x hx
        omega

/-- From `s` to a state with this memory, queue, time and fuses. -/
structure KeepsParts (s : State) (mem : List Host.Cell) (pending : List Instr) (now : Nat) (trust : TrustSt) : Prop where
  mem : Memory.wf s.mem = true → Memory.wf mem = true
  pending : pending = s.pending
  now : s.now ≤ now
  svn : s.trust.svn ≤ trust.svn
  prov : s.trust.prov = true → trust.prov = true
  decom : s.trust.decom = true → trust.decom = true

/-- What every function from `s` to `t` keeps: the canonical form, the queue, the time going on, the one-way fuses (R107, R111). -/
@[reducible] def Keeps (s t : State) : Prop := KeepsParts s t.mem t.pending t.now t.trust

theorem Keeps.refl (s : State) : Keeps s s := ⟨id, rfl, Nat.le_refl _, Nat.le_refl _, id, id⟩

theorem Keeps.trans {s t u : State} (h : Keeps s t) (g : Keeps t u) : Keeps s u :=
  ⟨g.mem ∘ h.mem, g.pending.trans h.pending, Nat.le_trans h.now g.now, Nat.le_trans h.svn g.svn, g.prov ∘ h.prov, g.decom ∘ h.decom⟩

/-- `Keeps` at a core's outcome. -/
def KeepsOut (s : State) : Out → Prop
  | .go t => Keeps s t
  | .jump t => Keeps s t
  | .exc _ _ _ t => Keeps s t

/-- A change of TRUST that keeps the one-way fuses. -/
def TrustKeeps (t u : TrustSt) : Prop := t.svn ≤ u.svn ∧ (t.prov = true → u.prov = true) ∧ (t.decom = true → u.decom = true)

theorem keepsOut_go {s0 s : State} (h : Keeps s0 s) : KeepsOut s0 (.go s) := h
theorem keepsOut_jump {s0 s : State} (h : Keeps s0 s) : KeepsOut s0 (.jump s) := h
theorem keepsOut_exc {s0 s : State} {c n : Nat} {a : Word} (h : Keeps s0 s) : KeepsOut s0 (.exc c n a s) := h

/-- The same where there is a state. -/
def KeepsOpt (s : State) (o : Option State) : Prop := ∀ t, o = some t → Keeps s t

theorem keepsOpt_some {s0 s : State} (h : Keeps s0 s) : KeepsOpt s0 (some s) := fun _ e => Option.some.inj e ▸ h
theorem keepsOpt_none (s0 : State) : KeepsOpt s0 none := fun _ e => nomatch e

/-- `Keeps` at a command's outcome. -/
def KeepsEnd (s : State) : Host.Outcome State Fault Refusal → Prop
  | .next t => Keeps s t
  | .fault _ => True
  | .refused _ => True

theorem keepsEnd_next {s0 t : State} (h : Keeps s0 t) : KeepsEnd s0 (.next t) := h

theorem Keeps.cut {s0 x : State} {P : Prop} (h : Keeps s0 x) (g : Keeps s0 x → P) : P := g h

theorem keeps_foldl {s0 : State} {α : Type} (f : State → α → State) (hf : ∀ s a, Keeps s0 s → Keeps s0 (f s a)) :
    ∀ (l : List α) (s : State), Keeps s0 s → Keeps s0 (l.foldl f s)
  | [], _, h => h
  | a :: l, s, h => keeps_foldl f hf l (f s a) (hf s a h)

/-- A fold over pairs and tuples that carry a state. -/
theorem keeps_foldl_of {α β : Type} (P : β → Prop) (f : β → α → β) (hf : ∀ b a, P b → P (f b a)) :
    ∀ (l : List α) (b : β), P b → P (l.foldl f b)
  | [], _, h => h
  | a :: l, b, h => keeps_foldl_of P f hf l (f b a) (hf b a h)

theorem keeps_upto {s0 : State} (n : Nat) (s : State) (f : Nat → State → State) (h : Keeps s0 s)
    (hf : ∀ a s, Keeps s0 s → Keeps s0 (f a s)) : Keeps s0 (upto n s f) :=
  keeps_foldl _ (fun s a h => hf a s h) _ _ h

theorem keeps_each {s0 : State} {α : Type} (l : List α) (s : State) (f : α → State → State) (h : Keeps s0 s)
    (hf : ∀ a s, Keeps s0 s → Keeps s0 (f a s)) : Keeps s0 (each l s f) :=
  keeps_foldl _ (fun s a h => hf a s h) _ _ h

end Sys2Proof.Machine
end

