-- ==== Sys2Proof/Laws/KeepsOps.lean ====
section
/-! SUPPORT. What the functions of Machine/Ops.lean keep. -/

namespace Sys2Proof.Machine

theorem setLive_keeps {s0 : State} : ∀ s9 a1 a2, Keeps s0 s9 → Keeps s0 (setLive s9 a1 a2) :=
  fun _ _ _ h => ⟨h.mem, h.pending, h.now, h.svn, h.prov, h.decom⟩

theorem setEvt_keeps {s0 : State} : ∀ s9 a1 a2, Keeps s0 s9 → Keeps s0 (setEvt s9 a1 a2) :=
  fun _ _ _ h => ⟨h.mem, h.pending, h.now, h.svn, h.prov, h.decom⟩

theorem bump_keeps {s0 : State} : ∀ s9 a1 a2 a3 a4, Keeps s0 s9 → Keeps s0 (bump s9 a1 a2 a3 a4) :=
  fun _ _ _ _ _ h => ⟨h.mem, h.pending, h.now, h.svn, h.prov, h.decom⟩

theorem ptrSum_keeps {s0 : State} : ∀ s9 a1, Keeps s0 s9 → Keeps s0 (ptrSum s9 a1) :=
  fun _ _ h => ⟨h.mem, h.pending, h.now, h.svn, h.prov, h.decom⟩

theorem setBus_keeps {s0 : State} : ∀ s9 a1, Keeps s0 s9 → Keeps s0 (setBus s9 a1) :=
  fun _ _ h => ⟨h.mem, h.pending, h.now, h.svn, h.prov, h.decom⟩

theorem guardFault_keeps {s0 : State} : ∀ s9 a1, Keeps s0 s9 → Keeps s0 (guardFault s9 a1) :=
  fun _ _ h => ⟨h.mem, h.pending, h.now, h.svn, h.prov, h.decom⟩

theorem wipe_keeps {s0 : State} : ∀ s9 a1 a2, Keeps s0 s9 → Keeps s0 (wipe s9 a1 a2) := by
  intro s lo hi h
  exact ⟨fun w => mdrop_wf _ _ _ _ (h.mem w), h.pending, h.now, h.svn, h.prov, h.decom⟩

theorem markDirty_keeps {s0 : State} : ∀ s9 a1 a2, Keeps s0 s9 → Keeps s0 (markDirty s9 a1 a2) :=
  fun _ _ _ h => ⟨h.mem, h.pending, h.now, h.svn, h.prov, h.decom⟩

theorem pokeBytes_keeps {s0 : State} : ∀ s9 a1 a2, Keeps s0 s9 → Keeps s0 (pokeBytes s9 a1 a2) := by
  intro s a bs h
  exact ⟨fun w => storeBytes_wf _ _ _ (h.mem w), h.pending, h.now, h.svn, h.prov, h.decom⟩

theorem setForce_keeps {s0 : State} : ∀ s9 a1 a2, Keeps s0 s9 → Keeps s0 (setForce s9 a1 a2) :=
  fun _ _ _ h => ⟨h.mem, h.pending, h.now, h.svn, h.prov, h.decom⟩

theorem setShadow_keeps {s0 : State} : ∀ s9 a1 a2, Keeps s0 s9 → Keeps s0 (setShadow s9 a1 a2) :=
  fun _ _ _ h => ⟨h.mem, h.pending, h.now, h.svn, h.prov, h.decom⟩

theorem elapse_keeps {s0 : State} : ∀ s9 a1, Keeps s0 s9 → Keeps s0 (elapse s9 a1) := by
  intro s d h
  exact ⟨h.mem, h.pending, Nat.le_trans h.now (Nat.le_add_right _ _), h.svn, h.prov, h.decom⟩

theorem reach_keeps {s0 : State} : ∀ s9 a1, Keeps s0 s9 → Keeps s0 (reach s9 a1) := by
  intro s9 a1 h
  unfold reach
  repeat' first
    | with_reducible first | assumption | apply elapse_keeps
    | dsimp only
    | split

theorem draw_keeps {s0 : State} : ∀ s9, Keeps s0 s9 → Keeps s0 (draw s9).2 :=
  fun _ h => ⟨h.mem, h.pending, h.now, h.svn, h.prov, h.decom⟩

theorem draw_keeps' {s0 t : State} {r} {s9} (e : draw s9 = (r, t)) (h : Keeps s0 s9) : Keeps s0 t :=
  by have := draw_keeps s9 h; rw [e] at this; exact this

theorem werr_keeps {s0 : State} : ∀ s9 a1 a2, Keeps s0 s9 → Keeps s0 (werr s9 a1 a2) := by
  intro s9 a1 a2 h
  unfold werr
  repeat' first
    | with_reducible first | assumption | apply setLive_keeps | apply setEvt_keeps
    | dsimp only
    | split

theorem reachLtc_keeps {s0 : State} : ∀ s9 a1, Keeps s0 s9 → Keeps s0 (reachLtc s9 a1) := by
  intro s9 a1 h
  unfold reachLtc
  repeat' first
    | with_reducible first | assumption | apply elapse_keeps
    | dsimp only
    | split

end Sys2Proof.Machine
end

