-- ==== Sys2Proof/Laws/KeepsAlm.lean ====
section
/-! SUPPORT. What the functions of Machine/Alm.lean keep. -/

namespace Sys2Proof.Machine

theorem almCount_keeps {s0 : State} : ∀ s9 a1, Keeps s0 s9 → Keeps s0 (almCount s9 a1) := by
  intro s9 a1 h
  unfold almCount
  repeat' first
    | with_reducible first | assumption | apply bump_keeps
    | dsimp only
    | split

theorem almQueue_keeps {s0 : State} : ∀ s9 a1, Keeps s0 s9 → Keeps s0 (almQueue s9 a1) := by
  intro s9 a1 h
  unfold almQueue
  repeat' first
    | with_reducible first | assumption | apply almCount_keeps
    | dsimp only
    | split

theorem setHnq_keeps {s0 : State} : ∀ s9 a1 a2, Keeps s0 s9 → Keeps s0 (setHnq s9 a1 a2) :=
  fun _ _ _ h => ⟨h.mem, h.pending, h.now, h.svn, h.prov, h.decom⟩

theorem hnqPut_keeps {s0 : State} : ∀ s9 a1 a2, Keeps s0 s9 → Keeps s0 (hnqPut s9 a1 a2) := by
  intro s9 a1 a2 h
  unfold hnqPut
  repeat' first
    | with_reducible first | assumption | apply bump_keeps | apply setEvt_keeps | apply setHnq_keeps
    | dsimp only
    | split

theorem hnqEmpty_keeps {s0 : State} : ∀ s9 a1, Keeps s0 s9 → Keeps s0 (hnqEmpty s9 a1) := by
  intro s9 a1 h
  unfold hnqEmpty
  repeat' first
    | with_reducible first | assumption | intro _ | apply setHnq_keeps | apply hnqPut_keeps | apply ptrSum_keeps | apply setEvt_keeps | apply keeps_foldl | apply keeps_upto | apply keeps_each
    | (extract_lets +onlyGivenNames x; refine Keeps.cut (s0 := s0) (x := x) ?_ (fun _ => ?_); unfold x; clear x; rotate_left; clear_value x; revert x; intro y _; rotate_left)
    | (extract_lets +onlyGivenNames x; subst x)
    | dsimp -zeta only [id]
    | split

theorem hnqSafe_keeps {s0 : State} : ∀ s9 a1 a2, Keeps s0 s9 → Keeps s0 (hnqSafe s9 a1 a2) := by
  intro s9 a1 a2 h
  unfold hnqSafe
  repeat' first
    | with_reducible first | assumption | intro _ | apply hnqPut_keeps | apply hnqEmpty_keeps | apply almQueue_keeps | apply keeps_foldl | apply keeps_upto | apply keeps_each
    | (extract_lets +onlyGivenNames x; refine Keeps.cut (s0 := s0) (x := x) ?_ (fun _ => ?_); unfold x; clear x; rotate_left; clear_value x; revert x; intro y _; rotate_left)
    | (extract_lets +onlyGivenNames x; subst x)
    | dsimp -zeta only [id]
    | split

theorem almPtrReset_keeps {s0 : State} : ∀ s9, Keeps s0 s9 → Keeps s0 (almPtrReset s9) := by
  intro s9 h
  unfold almPtrReset
  repeat' first
    | with_reducible first | assumption | intro _ | apply almCount_keeps | apply ptrSum_keeps | apply setEvt_keeps | apply almQueue_keeps | apply hnqSafe_keeps | apply keeps_foldl | apply keeps_upto | apply keeps_each
    | dsimp only
    | split

theorem almDrop_keeps {s0 : State} : ∀ a0 s1 a2, Keeps s0 s1 → Keeps s0 (almDrop a0 s1 a2) := by
  intro a0 s1 a2 h
  unfold almDrop
  repeat' first
    | with_reducible first | assumption | intro _ | apply setEvt_keeps | apply hnqSafe_keeps | apply keeps_foldl | apply keeps_upto | apply keeps_each
    | dsimp only
    | split

theorem almPost_keeps {s0 : State} : ∀ s9 a1 a2 a3 a4 a5, Keeps s0 s9 → Keeps s0 (almPost s9 a1 a2 a3 a4 a5) := by
  intro s9 a1 a2 a3 a4 a5 h
  unfold almPost
  repeat' first
    | with_reducible first | assumption | apply almPtrReset_keeps | apply almDrop_keeps | apply almQueue_keeps
    | dsimp only
    | split

theorem hnqPtrReset_keeps {s0 : State} : ∀ s9 a1, Keeps s0 s9 → Keeps s0 (hnqPtrReset s9 a1) := by
  intro s9 a1 h
  unfold hnqPtrReset
  repeat' first
    | with_reducible first | assumption | apply almPost_keeps | apply hnqEmpty_keeps
    | dsimp only
    | split

theorem hnqPost_keeps {s0 : State} : ∀ s9 a1 a2 a3 a4 a5, Keeps s0 s9 → Keeps s0 (hnqPost s9 a1 a2 a3 a4 a5) := by
  intro s9 a1 a2 a3 a4 a5 h
  unfold hnqPost
  repeat' first
    | with_reducible first | assumption | apply hnqPtrReset_keeps | apply hnqPut_keeps
    | dsimp only
    | split

theorem notifyAll_keeps {s0 : State} : ∀ s9 a1 a2 a3 a4 a5, Keeps s0 s9 → Keeps s0 (notifyAll s9 a1 a2 a3 a4 a5) := by
  intro s9 a1 a2 a3 a4 a5 h
  unfold notifyAll
  repeat' first
    | with_reducible first | assumption | intro _ | apply hnqPost_keeps | apply keeps_foldl | apply keeps_upto | apply keeps_each
    | dsimp only
    | split

end Sys2Proof.Machine
end

