-- ==== Sys2Proof/Laws/KeepsAct.lean ====
section
/-! SUPPORT. What the functions of Machine/Act.lean keep. -/

namespace Sys2Proof.Machine

theorem setPart_keeps {s0 : State} : ∀ s9 a1 a2, Keeps s0 s9 → Keeps s0 (setPart s9 a1 a2) :=
  fun _ _ _ h => ⟨h.mem, h.pending, h.now, h.svn, h.prov, h.decom⟩

theorem setTask_keeps {s0 : State} : ∀ s9 a1 a2, Keeps s0 s9 → Keeps s0 (setTask s9 a1 a2) :=
  fun _ _ _ h => ⟨h.mem, h.pending, h.now, h.svn, h.prov, h.decom⟩

theorem setActQ_keeps {s0 : State} : ∀ s9 a1 a2, Keeps s0 s9 → Keeps s0 (setActQ s9 a1 a2) :=
  fun _ _ _ h => ⟨h.mem, h.pending, h.now, h.svn, h.prov, h.decom⟩

theorem actOut_keeps {s0 : State} : ∀ s9 a1, Keeps s0 s9 → Keeps s0 (actOut s9 a1) :=
  fun _ _ h => ⟨h.mem, h.pending, h.now, h.svn, h.prov, h.decom⟩

theorem postOwner_keeps {s0 : State} : ∀ s9 a1 a2 a3 a4 a5, Keeps s0 s9 → Keeps s0 (postOwner s9 a1 a2 a3 a4 a5) := by
  intro s9 a1 a2 a3 a4 a5 h
  unfold postOwner
  repeat' first
    | with_reducible first | assumption | apply hnqPost_keeps
    | dsimp only
    | split

theorem taskDropped_keeps {s0 : State} : ∀ s9 a1, Keeps s0 s9 → Keeps s0 (taskDropped s9 a1) := by
  intro s9 a1 h
  unfold taskDropped
  repeat' first
    | with_reducible first | assumption | apply bump_keeps | apply postOwner_keeps | apply setEvt_keeps
    | dsimp only
    | split

theorem unpend_keeps {s0 : State} : ∀ s9 a1, Keeps s0 s9 → Keeps s0 (unpend s9 a1) :=
  fun _ _ h => ⟨h.mem, h.pending, h.now, h.svn, h.prov, h.decom⟩

theorem actPtrReset_keeps {s0 : State} : ∀ s9 a1, Keeps s0 s9 → Keeps s0 (actPtrReset s9 a1) := by
  intro s9 a1 h
  unfold actPtrReset
  repeat' first
    | with_reducible first | assumption | intro _ | apply taskDropped_keeps | apply unpend_keeps | apply ptrSum_keeps | apply setEvt_keeps | apply setActQ_keeps | apply almPost_keeps | apply hnqPost_keeps | apply keeps_foldl | apply keeps_upto | apply keeps_each
    | dsimp only
    | split

theorem actCheck_keeps {s0 : State} : ∀ s9 a1, Keeps s0 s9 → Keeps s0 (actCheck s9 a1) := by
  intro s9 a1 h
  unfold actCheck
  repeat' first
    | with_reducible first | assumption | apply actPtrReset_keeps
    | dsimp only
    | split

theorem actIn_keeps {s0 : State} : ∀ s9 a1, Keeps s0 s9 → Keeps s0 (actIn s9 a1) :=
  fun _ _ h => ⟨h.mem, h.pending, h.now, h.svn, h.prov, h.decom⟩

theorem noCore_keeps {s0 : State} : ∀ s9 a1, Keeps s0 s9 → Keeps s0 (noCore s9 a1) := by
  intro s9 a1 h
  unfold noCore
  repeat' first
    | with_reducible first | assumption | apply setEvt_keeps | apply postOwner_keeps | apply almPost_keeps
    | dsimp only
    | split

theorem coreBack_keeps {s0 : State} : ∀ s9 a1, Keeps s0 s9 → Keeps s0 (coreBack s9 a1) :=
  fun _ _ h => ⟨h.mem, h.pending, h.now, h.svn, h.prov, h.decom⟩

theorem activate_keeps {s0 : State} : ∀ s9 a1 a2 a3 a4, Keeps s0 s9 → Keeps s0 (activate s9 a1 a2 a3 a4) := by
  intro s9 a1 a2 a3 a4 h
  unfold activate
  repeat' first
    | with_reducible first | assumption | apply noCore_keeps | apply actCheck_keeps | apply coreBack_keeps | apply taskDropped_keeps | apply actIn_keeps | apply setTask_keeps
    | dsimp only
    | split

theorem fireEvent_keeps {s0 : State} : ∀ s9 a1 a2 a3 a4, Keeps s0 s9 → Keeps s0 (fireEvent s9 a1 a2 a3 a4) := by
  intro s9 a1 a2 a3 a4 h
  unfold fireEvent
  repeat' first
    | with_reducible first | assumption | intro _ | apply activate_keeps | apply keeps_foldl | apply keeps_upto | apply keeps_each
    | dsimp only
    | split

theorem taskMissed_keeps {s0 : State} : ∀ s9 a1, Keeps s0 s9 → Keeps s0 (taskMissed s9 a1) := by
  intro s9 a1 h
  unfold taskMissed
  repeat' first
    | with_reducible first | assumption | apply bump_keeps | apply postOwner_keeps | apply setEvt_keeps
    | dsimp only
    | split

end Sys2Proof.Machine
end

