-- ==== Sys2Proof/Laws/KeepsPart.lean ====
section
/-! SUPPORT. What the functions of Machine/Part.lean keep. -/

namespace Sys2Proof.Machine

theorem avLog_keeps {s0 : State} : ∀ s9 a1 a2 a3 a4, Keeps s0 s9 → Keeps s0 (avLog s9 a1 a2 a3 a4) := by
  intro s9 a1 a2 a3 a4 h
  unfold avLog
  repeat' first
    | with_reducible first | assumption | apply setEvt_keeps | apply setLive_keeps | apply almPost_keeps | apply hnqPost_keeps
    | dsimp only
    | split

theorem avUnlog_keeps {s0 : State} : ∀ s9, Keeps s0 s9 → Keeps s0 (avUnlog s9) :=
  fun _ h => ⟨h.mem, h.pending, h.now, h.svn, h.prov, h.decom⟩

theorem violate_keeps {s0 : State} : ∀ s9 a1 a2 a3 a4, Keeps s0 s9 → Keeps s0 (violate s9 a1 a2 a3 a4) := by
  intro s9 a1 a2 a3 a4 h
  unfold violate
  repeat' first
    | with_reducible first | assumption | apply bump_keeps | apply avLog_keeps | apply avUnlog_keeps
    | dsimp only
    | split

theorem busError_keeps {s0 : State} : ∀ s9 a1 a2 a3 a4, Keeps s0 s9 → Keeps s0 (busError s9 a1 a2 a3 a4) := by
  intro s9 a1 a2 a3 a4 h
  unfold busError
  repeat' first
    | with_reducible first | assumption | apply violate_keeps
    | dsimp only
    | split

theorem regAccess_keeps {s0 : State} : ∀ s9 a1 a2 a3 f4, Keeps s0 s9 → (∀ t0, Keeps s0 t0 → Keeps s0 (f4 t0)) → Keeps s0 (regAccess s9 a1 a2 a3 f4) := by
  intro s9 a1 a2 a3 f4 h h1
  unfold regAccess
  repeat' first
    | with_reducible first | assumption | apply h1 | apply busError_keeps
    | dsimp only
    | split

theorem mediate_keeps {s0 : State} : ∀ s9 a1 a2, Keeps s0 s9 → Keeps s0 (mediate s9 a1 a2) := by
  intro s9 a1 a2 h
  unfold mediate
  repeat' first
    | with_reducible first | assumption
    | dsimp only
    | split

theorem execAssign_keeps {s0 : State} : ∀ a0 a1 a2 s3, Keeps s0 s3 → KeepsEnd s0 (execAssign a0 a1 a2 s3) := by
  intro a0 a1 a2 s3 h
  unfold execAssign
  refine keepsEnd_next ?_
  repeat' first
    | with_reducible first | assumption | intro _ | apply regAccess_keeps | apply mediate_keeps | apply keeps_foldl | apply keeps_upto | apply keeps_each
    | dsimp only
    | split

theorem execRelease_keeps {s0 : State} : ∀ a0 a1 s2, Keeps s0 s2 → KeepsEnd s0 (execRelease a0 a1 s2) := by
  intro a0 a1 s2 h
  unfold execRelease
  refine keepsEnd_next ?_
  repeat' first
    | with_reducible first | assumption | intro _ | apply regAccess_keeps | apply mediate_keeps | apply keeps_foldl | apply keeps_upto | apply keeps_each
    | dsimp only
    | split

theorem hnqRead_keeps {s0 : State} : ∀ s9 a1 a2, Keeps s0 s9 → Keeps s0 (hnqRead s9 a1 a2) := by
  intro s9 a1 a2 h
  unfold hnqRead
  repeat' first
    | with_reducible first | assumption | apply hnqPtrReset_keeps | apply setBus_keeps | apply setEvt_keeps | apply setHnq_keeps
    | dsimp only
    | split

theorem execHnqPop_keeps {s0 : State} : ∀ a0 a1 s2, Keeps s0 s2 → KeepsEnd s0 (execHnqPop a0 a1 s2) := by
  intro a0 a1 s2 h
  unfold execHnqPop
  refine keepsEnd_next ?_
  repeat' first
    | with_reducible first | assumption | intro _ | apply regAccess_keeps | apply hnqRead_keeps | apply keeps_foldl | apply keeps_upto | apply keeps_each
    | dsimp only
    | split

theorem execHnqPopTag_keeps {s0 : State} : ∀ a0 a1 s2, Keeps s0 s2 → KeepsEnd s0 (execHnqPopTag a0 a1 s2) := by
  intro a0 a1 s2 h
  unfold execHnqPopTag
  refine keepsEnd_next ?_
  repeat' first
    | with_reducible first | assumption | intro _ | apply regAccess_keeps | apply hnqRead_keeps | apply keeps_foldl | apply keeps_upto | apply keeps_each
    | dsimp only
    | split

end Sys2Proof.Machine
end

