-- ==== Sys2Proof/Laws/KeepsMem.lean ====
section
/-! SUPPORT. What the functions of Machine/Mem.lean keep. -/

namespace Sys2Proof.Machine

theorem bump32_keeps {s0 : State} : ∀ s9 a1, Keeps s0 s9 → Keeps s0 (bump32 s9 a1) :=
  fun _ _ h => ⟨h.mem, h.pending, h.now, h.svn, h.prov, h.decom⟩

theorem memCe_keeps {s0 : State} : ∀ s9 a1, Keeps s0 s9 → Keeps s0 (memCe s9 a1) :=
  fun _ _ h => ⟨h.mem, h.pending, h.now, h.svn, h.prov, h.decom⟩

theorem memUe_keeps {s0 : State} : ∀ s9 a1, Keeps s0 s9 → Keeps s0 (memUe s9 a1) := by
  intro s9 a1 h
  unfold memUe
  repeat' first
    | with_reducible first | assumption | apply setEvt_keeps | apply bump32_keeps | apply notifyAll_keeps | apply almPost_keeps
    | dsimp only
    | split

theorem eccRead_keeps {s0 : State} : ∀ s9 a1 a2, Keeps s0 s9 → Keeps s0 (eccRead s9 a1 a2).1 := by
  intro s a n h
  unfold eccRead
  refine keeps_foldl _ (fun s e h => ?_) _ _ h
  split
  · exact h
  · exact memCe_keeps _ _ h
  · exact memUe_keeps _ _ h

theorem eccRead_keeps' {s0 t : State} {r} {s9 a1 a2} (e : eccRead s9 a1 a2 = (t, r)) (h : Keeps s0 s9) : Keeps s0 t :=
  by have := eccRead_keeps s9 a1 a2 h; rw [e] at this; exact this

theorem dramWipe_keeps {s0 : State} : ∀ s9, Keeps s0 s9 → Keeps s0 (dramWipe s9) := by
  intro s h
  unfold dramWipe
  split
  · exact h
  · have g := wipe_keeps _ 0x100000000 0x4FC000000 h
    dsimp only
    split
    · exact ⟨g.mem, g.pending, g.now, g.svn, g.prov, g.decom⟩
    · have k := wipe_keeps _ 0x4FC000000 0x500000000 g
      exact ⟨k.mem, k.pending, k.now, k.svn, k.prov, k.decom⟩

theorem dramStall_keeps {s0 : State} : ∀ s9 a1 a2, Keeps s0 s9 → Keeps s0 (dramStall s9 a1 a2) := by
  intro s9 a1 a2 h
  unfold dramStall
  repeat' first
    | with_reducible first | assumption | intro _ | apply dramWipe_keeps | apply keeps_foldl | apply keeps_upto | apply keeps_each
    | (extract_lets +onlyGivenNames x; refine Keeps.cut (s0 := s0) (x := x) ?_ (fun _ => ?_); unfold x; clear x; rotate_left; clear_value x; revert x; intro y _; rotate_left)
    | (extract_lets +onlyGivenNames x; subst x)
    | dsimp -zeta only [id]
    | split

theorem memError_keeps {s0 : State} : ∀ s9 a1, Keeps s0 s9 → Keeps s0 (memError s9 a1) := by
  intro s9 a1 h
  unfold memError
  repeat' first
    | with_reducible first | assumption | intro _ | apply keeps_foldl | apply keeps_upto | apply keeps_each
    | (extract_lets +onlyGivenNames x; refine Keeps.cut (s0 := s0) (x := x) ?_ (fun _ => ?_); unfold x; clear x; rotate_left; clear_value x; revert x; intro y _; rotate_left)
    | (extract_lets +onlyGivenNames x; subst x)
    | dsimp -zeta only [id]
    | split

theorem dmaAccess_keeps {s0 : State} : ∀ s9 a1 a2 a3 a4 a5, Keeps s0 s9 → Keeps s0 (dmaAccess s9 a1 a2 a3 a4 a5).1 := by
  intro s9 a1 a2 a3 a4 a5 h
  unfold dmaAccess
  repeat' first
    | with_reducible first | assumption | intro _ | apply dramStall_keeps | apply memError_keeps | apply violate_keeps | apply eccRead_keeps | refine eccRead_keeps' (by assumption) ?_ | apply keeps_foldl | apply keeps_upto | apply keeps_each
    | (extract_lets +onlyGivenNames x; refine Keeps.cut (s0 := s0) (x := x) ?_ (fun _ => ?_); unfold x; clear x; rotate_left; clear_value x; revert x; intro y _; rotate_left)
    | (extract_lets +onlyGivenNames x; subst x)
    | dsimp -zeta only [id]
    | split

theorem dmaAccess_keeps' {s0 t : State} {r} {s9 a1 a2 a3 a4 a5} (e : dmaAccess s9 a1 a2 a3 a4 a5 = (t, r)) (h : Keeps s0 s9) : Keeps s0 t :=
  by have := dmaAccess_keeps s9 a1 a2 a3 a4 a5 h; rw [e] at this; exact this

theorem cowLine_keeps {s0 : State} : ∀ s9 a1, Keeps s0 s9 → Keeps s0 (cowLine s9 a1) := by
  intro s9 a1 h
  unfold cowLine
  repeat' first
    | with_reducible first | assumption | apply dmaAccess_keeps | refine dmaAccess_keeps' (by assumption) ?_ | apply markDirty_keeps | apply pokeBytes_keeps | apply setLive_keeps
    | dsimp only
    | split

theorem cow_keeps {s0 : State} : ∀ s9 a1 a2, Keeps s0 s9 → Keeps s0 (cow s9 a1 a2) := by
  intro s9 a1 a2 h
  unfold cow
  repeat' first
    | with_reducible first | assumption | intro _ | apply cowLine_keeps | apply keeps_foldl | apply keeps_upto | apply keeps_each
    | dsimp only
    | split

theorem wrBytes_keeps {s0 : State} : ∀ s9 a1 a2, Keeps s0 s9 → Keeps s0 (wrBytes s9 a1 a2) := by
  intro s9 a1 a2 h
  unfold wrBytes
  repeat' first
    | with_reducible first | assumption | apply markDirty_keeps | apply pokeBytes_keeps | apply cow_keeps
    | dsimp only
    | split

theorem wr32_keeps {s0 : State} : ∀ s9 a1 a2, Keeps s0 s9 → Keeps s0 (wr32 s9 a1 a2) := by
  intro s9 a1 a2 h
  unfold wr32
  repeat' first
    | with_reducible first | assumption | apply wrBytes_keeps
    | dsimp only
    | split

theorem almWriteSlot_keeps {s0 : State} : ∀ s9 a1 a2, Keeps s0 s9 → Keeps s0 (almWriteSlot s9 a1 a2) := by
  intro s9 a1 a2 h
  unfold almWriteSlot
  repeat' first
    | with_reducible first | assumption | apply wr32_keeps | apply wrBytes_keeps | apply setEvt_keeps | apply notifyAll_keeps
    | dsimp only
    | split

theorem almRecord_keeps {s0 : State} : ∀ s9 a1, Keeps s0 s9 → Keeps s0 (almRecord s9 a1) := by
  intro s9 a1 h
  unfold almRecord
  repeat' first
    | with_reducible first | assumption | apply almWriteSlot_keeps | apply almDrop_keeps | apply almCount_keeps
    | dsimp only
    | split

theorem almRecordWrite_keeps {s0 : State} : ∀ s9, Keeps s0 s9 → Keeps s0 (almRecordWrite s9) := by
  intro s9 h
  unfold almRecordWrite
  repeat' first
    | with_reducible first | assumption | apply almPtrReset_keeps | apply almRecord_keeps
    | dsimp only
    | split

theorem blockRead_keeps {s0 : State} : ∀ s9 a1 a2 a3, Keeps s0 s9 → Keeps s0 (blockRead s9 a1 a2 a3) := by
  intro s9 a1 a2 a3 h
  unfold blockRead
  repeat' first
    | with_reducible first | assumption | intro _ | apply eccRead_keeps | refine eccRead_keeps' (by assumption) ?_ | apply memError_keeps | apply keeps_foldl | apply keeps_upto | apply keeps_each
    | (extract_lets +onlyGivenNames x; refine Keeps.cut (s0 := s0) (x := x) ?_ (fun _ => ?_); unfold x; clear x; rotate_left; clear_value x; revert x; intro y _; rotate_left)
    | (extract_lets +onlyGivenNames x; subst x)
    | dsimp -zeta only [id]
    | split

theorem repairSlot_keeps {s0 : State} : ∀ s9 a1, Keeps s0 s9 → Keeps s0 (repairSlot s9 a1) := by
  intro s9 a1 h
  unfold repairSlot
  repeat' first
    | with_reducible first | assumption | apply wr32_keeps
    | dsimp only
    | split

theorem almScan_keeps {s0 : State} : ∀ s9, Keeps s0 s9 → Keeps s0 (almScan s9) := by
  intro s9 h
  unfold almScan
  repeat' first
    | with_reducible first | assumption | intro _ | apply blockRead_keeps | apply repairSlot_keeps | apply setEvt_keeps | apply setLive_keeps | apply keeps_foldl | apply keeps_upto | apply keeps_each
    | dsimp only
    | split

theorem dmaWrite_keeps {s0 : State} : ∀ s9 a1 a2 a3 a4, Keeps s0 s9 → Keeps s0 (dmaWrite s9 a1 a2 a3 a4) := by
  intro s9 a1 a2 a3 a4 h
  unfold dmaWrite
  repeat' first
    | with_reducible first | assumption | intro _ | apply dmaAccess_keeps | refine dmaAccess_keeps' (by assumption) ?_ | apply wrBytes_keeps | apply keeps_foldl | apply keeps_upto | apply keeps_each
    | (extract_lets +onlyGivenNames x; refine Keeps.cut (s0 := s0) (x := x) ?_ (fun _ => ?_); unfold x; clear x; rotate_left; clear_value x; revert x; intro y _; rotate_left)
    | (extract_lets +onlyGivenNames x; subst x)
    | dsimp -zeta only [id]
    | split

theorem dmaRead_keeps {s0 : State} : ∀ s9 a1 a2 a3 a4, Keeps s0 s9 → Keeps s0 (dmaRead s9 a1 a2 a3 a4).2 := by
  intro s9 a1 a2 a3 a4 h
  unfold dmaRead
  repeat' first
    | with_reducible first | assumption | intro _ | apply dmaAccess_keeps | refine dmaAccess_keeps' (by assumption) ?_ | apply keeps_foldl | apply keeps_upto | apply keeps_each
    | (extract_lets +onlyGivenNames x; refine Keeps.cut (s0 := s0) (x := x) ?_ (fun _ => ?_); unfold x; clear x; rotate_left; clear_value x; revert x; intro y _; rotate_left)
    | (extract_lets +onlyGivenNames x; subst x)
    | dsimp -zeta only [id]
    | split

theorem dmaRead_keeps' {s0 t : State} {r} {s9 a1 a2 a3 a4} (e : dmaRead s9 a1 a2 a3 a4 = (r, t)) (h : Keeps s0 s9) : Keeps s0 t :=
  by have := dmaRead_keeps s9 a1 a2 a3 a4 h; rw [e] at this; exact this

theorem wr64_keeps {s0 : State} : ∀ s9 a1 a2, Keeps s0 s9 → Keeps s0 (wr64 s9 a1 a2) := by
  intro s9 a1 a2 h
  unfold wr64
  repeat' first
    | with_reducible first | assumption | apply wrBytes_keeps
    | dsimp only
    | split

theorem dmaCopy_keeps {s0 : State} : ∀ a0 a1 a2 a3 a4 s5, Keeps s0 s5 → Keeps s0 (dmaCopy a0 a1 a2 a3 a4 s5) := by
  intro i t src dst n
  induction n generalizing src dst with
  | zero => intro s h; unfold dmaCopy; exact h
  | succ n ih => intro s h; unfold dmaCopy; exact ih _ _ _ (dmaWrite_keeps _ _ _ _ _ (dmaRead_keeps _ _ _ _ _ h))

end Sys2Proof.Machine
end

