-- ==== Sys2Proof/Laws/KeepsDrc.lean ====
section
/-! SUPPORT. What the functions of Machine/Drc.lean keep. -/

namespace Sys2Proof.Machine

theorem drcCount_keeps {s0 : State} : ∀ s9 a1, Keeps s0 s9 → Keeps s0 (drcCount s9 a1) :=
  fun _ _ h => ⟨h.mem, h.pending, h.now, h.svn, h.prov, h.decom⟩

theorem setSeg_keeps {s0 : State} : ∀ s9 a1 a2, Keeps s0 s9 → Keeps s0 (setSeg s9 a1 a2) :=
  fun _ _ _ h => ⟨h.mem, h.pending, h.now, h.svn, h.prov, h.decom⟩

theorem drcRefused_keeps {s0 : State} : ∀ s9, Keeps s0 s9 → Keeps s0 (drcRefused s9) := by
  intro s9 h
  unfold drcRefused
  repeat' first
    | with_reducible first | assumption | apply setEvt_keeps | apply setLive_keeps
    | dsimp only
    | split

theorem drcBytes_keeps {s0 : State} : ∀ s9 a1 a2, Keeps s0 s9 → Keeps s0 (drcBytes s9 a1 a2).2 := by
  intro s9 a1 a2 h
  unfold drcBytes
  repeat' first
    | with_reducible first | assumption | intro _ | apply dmaAccess_keeps | refine dmaAccess_keeps' (by assumption) ?_ | apply drcRefused_keeps | apply keeps_foldl | apply keeps_upto | apply keeps_each
    | (extract_lets +onlyGivenNames x; refine Keeps.cut (s0 := s0) (x := x) ?_ (fun _ => ?_); unfold x; clear x; rotate_left; clear_value x; revert x; intro y _; rotate_left)
    | (extract_lets +onlyGivenNames x; subst x)
    | dsimp -zeta only [id]
    | split

theorem drcBytes_keeps' {s0 t : State} {r} {s9 a1 a2} (e : drcBytes s9 a1 a2 = (r, t)) (h : Keeps s0 s9) : Keeps s0 t :=
  by have := drcBytes_keeps s9 a1 a2 h; rw [e] at this; exact this

theorem drcWrite_keeps {s0 : State} : ∀ s9 a1 a2, Keeps s0 s9 → Keeps s0 (drcWrite s9 a1 a2) := by
  intro s9 a1 a2 h
  unfold drcWrite
  repeat' first
    | with_reducible first | assumption | apply dmaAccess_keeps | refine dmaAccess_keeps' (by assumption) ?_ | apply drcRefused_keeps | apply wrBytes_keeps
    | dsimp only
    | split

theorem moveRows_keeps {s0 : State} : ∀ s9 a1, Keeps s0 s9 → Keeps s0 (moveRows s9 a1) := by
  intro s9 a1 h
  unfold moveRows
  repeat' first
    | with_reducible first | assumption | intro _ | apply drcBytes_keeps | refine drcBytes_keeps' (by assumption) ?_ | apply drcWrite_keeps | apply setSeg_keeps | apply keeps_foldl | apply keeps_upto | apply keeps_each
    | dsimp only
    | split

theorem drcHeader_keeps {s0 : State} : ∀ s9 a1, Keeps s0 s9 → Keeps s0 (drcHeader s9 a1) := by
  intro s9 a1 h
  unfold drcHeader
  repeat' first
    | with_reducible first | assumption | apply drcWrite_keeps
    | dsimp only
    | split

theorem holdOff_keeps {s0 : State} : ∀ s9, Keeps s0 s9 → Keeps s0 (holdOff s9) := by
  intro s9 h
  unfold holdOff
  repeat' first
    | with_reducible first | assumption
    | dsimp only
    | split

theorem setCur_keeps {s0 : State} : ∀ s9 a1, Keeps s0 s9 → Keeps s0 (setCur s9 a1) :=
  fun _ _ h => ⟨h.mem, h.pending, h.now, h.svn, h.prov, h.decom⟩

theorem drcArm_keeps {s0 : State} : ∀ s9, Keeps s0 s9 → Keeps s0 (drcArm s9) := by
  intro s9 h
  unfold drcArm
  repeat' first
    | with_reducible first | assumption | apply drcHeader_keeps | apply setSeg_keeps | apply setCur_keeps | apply almPost_keeps | apply setEvt_keeps | apply notifyAll_keeps
    | dsimp only
    | split

theorem drcClose_keeps {s0 : State} : ∀ s9 a1, Keeps s0 s9 → Keeps s0 (drcClose s9 a1) := by
  intro s9 a1 h
  unfold drcClose
  repeat' first
    | with_reducible first | assumption | apply drcHeader_keeps | apply setSeg_keeps | apply almPost_keeps | apply setEvt_keeps | apply notifyAll_keeps | apply holdOff_keeps | apply drcArm_keeps
    | dsimp only
    | split

theorem drcTrigger_keeps {s0 : State} : ∀ s9 a1 a2 a3 a4, Keeps s0 s9 → Keeps s0 (drcTrigger s9 a1 a2 a3 a4) := by
  intro s9 a1 a2 a3 a4 h
  unfold drcTrigger
  repeat' first
    | with_reducible first | assumption | apply drcCount_keeps | apply setSeg_keeps | apply moveRows_keeps | apply drcHeader_keeps | apply drcClose_keeps
    | dsimp only
    | split

theorem flagTriggers_keeps {s0 : State} : ∀ s9 a1 a2, Keeps s0 s9 → Keeps s0 (flagTriggers s9 a1 a2) := by
  intro s9 a1 a2 h
  unfold flagTriggers
  repeat' first
    | with_reducible first | assumption | intro _ | apply drcTrigger_keeps | apply keeps_foldl | apply keeps_upto | apply keeps_each
    | dsimp only
    | split

theorem drcPtrReset_keeps {s0 : State} : ∀ s9, Keeps s0 s9 → Keeps s0 (drcPtrReset s9) := by
  intro s9 h
  unfold drcPtrReset
  repeat' first
    | with_reducible first | assumption | apply drcHeader_keeps | apply setSeg_keeps | apply ptrSum_keeps | apply setEvt_keeps | apply almPost_keeps | apply drcArm_keeps | apply notifyAll_keeps
    | dsimp only
    | split

theorem execManualTrigger_keeps {s0 : State} : ∀ a0 s1, Keeps s0 s1 → KeepsEnd s0 (execManualTrigger a0 s1) := by
  intro a0 s1 h
  unfold execManualTrigger
  refine keepsEnd_next ?_
  repeat' first
    | with_reducible first | assumption | intro _ | apply regAccess_keeps | apply drcTrigger_keeps | apply keeps_foldl | apply keeps_upto | apply keeps_each
    | dsimp only
    | split

theorem execSegClaim_keeps {s0 : State} : ∀ a0 a1 s2, Keeps s0 s2 → KeepsEnd s0 (execSegClaim a0 a1 s2) := by
  intro a0 a1 s2 h
  unfold execSegClaim
  refine keepsEnd_next ?_
  repeat' first
    | with_reducible first | assumption | intro _ | apply regAccess_keeps | apply setSeg_keeps | apply setEvt_keeps | apply keeps_foldl | apply keeps_upto | apply keeps_each
    | dsimp only
    | split

theorem execSegRelease_keeps {s0 : State} : ∀ a0 a1 s2, Keeps s0 s2 → KeepsEnd s0 (execSegRelease a0 a1 s2) := by
  intro a0 a1 s2 h
  unfold execSegRelease
  refine keepsEnd_next ?_
  repeat' first
    | with_reducible first | assumption | intro _ | apply regAccess_keeps | apply setSeg_keeps | apply drcWrite_keeps | apply drcArm_keeps | apply setEvt_keeps | apply keeps_foldl | apply keeps_upto | apply keeps_each
    | dsimp only
    | split

theorem execSegUnclaim_keeps {s0 : State} : ∀ a0 a1 s2, Keeps s0 s2 → KeepsEnd s0 (execSegUnclaim a0 a1 s2) := by
  intro a0 a1 s2 h
  unfold execSegUnclaim
  refine keepsEnd_next ?_
  repeat' first
    | with_reducible first | assumption | intro _ | apply regAccess_keeps | apply setSeg_keeps | apply keeps_foldl | apply keeps_upto | apply keeps_each
    | dsimp only
    | split

theorem execHoldOffExpiry_keeps {s0 : State} : ∀ s9, Keeps s0 s9 → KeepsEnd s0 (execHoldOffExpiry s9) := by
  intro s9 h
  unfold execHoldOffExpiry
  refine keepsEnd_next ?_
  repeat' first
    | with_reducible first | assumption | apply reach_keeps
    | dsimp only
    | split

end Sys2Proof.Machine
end

