-- ==== Sys2Proof/Laws/KeepsBi.lean ====
section
/-! SUPPORT. What the functions of Machine/Bi.lean keep. -/

namespace Sys2Proof.Machine

theorem biMark_keeps {s0 : State} : ∀ s9 a1, Keeps s0 s9 → Keeps s0 (biMark s9 a1) := by
  intro s9 a1 h
  unfold biMark
  repeat' first
    | with_reducible first | assumption | intro _ | apply keeps_foldl | apply keeps_upto | apply keeps_each
    | (extract_lets +onlyGivenNames x; refine Keeps.cut (s0 := s0) (x := x) ?_ (fun _ => ?_); unfold x; clear x; rotate_left; clear_value x; revert x; intro y _; rotate_left)
    | (extract_lets +onlyGivenNames x; subst x)
    | dsimp -zeta only [id]
    | split

theorem setPin_keeps {s0 : State} : ∀ s9 a1 a2, Keeps s0 s9 → Keeps s0 (setPin s9 a1 a2) :=
  fun _ _ _ h => ⟨h.mem, h.pending, h.now, h.svn, h.prov, h.decom⟩

theorem setStampQ_keeps {s0 : State} : ∀ s9 a1 a2, Keeps s0 s9 → Keeps s0 (setStampQ s9 a1 a2) :=
  fun _ _ _ h => ⟨h.mem, h.pending, h.now, h.svn, h.prov, h.decom⟩

theorem tqSide_keeps {s0 : State} : ∀ s9 a1, Keeps s0 s9 → Keeps s0 (tqSide s9 a1) := by
  intro s9 a1 h
  unfold tqSide
  repeat' first
    | with_reducible first | assumption | apply bump_keeps | apply setEvt_keeps | apply setStampQ_keeps | apply notifyAll_keeps
    | dsimp only
    | split

theorem tqPtrReset_keeps {s0 : State} : ∀ s9 a1, Keeps s0 s9 → Keeps s0 (tqPtrReset s9 a1) := by
  intro s9 a1 h
  unfold tqPtrReset
  repeat' first
    | with_reducible first | assumption | apply setStampQ_keeps | apply ptrSum_keeps | apply setEvt_keeps | apply almPost_keeps | apply tqSide_keeps | apply notifyAll_keeps
    | dsimp only
    | split

theorem tqCheck_keeps {s0 : State} : ∀ s9 a1, Keeps s0 s9 → Keeps s0 (tqCheck s9 a1) := by
  intro s9 a1 h
  unfold tqCheck
  repeat' first
    | with_reducible first | assumption | apply tqPtrReset_keeps
    | dsimp only
    | split

theorem tqPut_keeps {s0 : State} : ∀ s9 a1 a2, Keeps s0 s9 → Keeps s0 (tqPut s9 a1 a2) := by
  intro s9 a1 a2 h
  unfold tqPut
  repeat' first
    | with_reducible first | assumption | apply tqCheck_keeps | apply tqSide_keeps | apply setStampQ_keeps | apply bump_keeps | apply notifyAll_keeps | apply setEvt_keeps
    | dsimp only
    | split

theorem biRecord_keeps {s0 : State} : ∀ s9 a1, Keeps s0 s9 → Keeps s0 (biRecord s9 a1) := by
  intro s9 a1 h
  unfold biRecord
  repeat' first
    | with_reducible first | assumption | apply reach_keeps | apply biMark_keeps | apply setPin_keeps | apply tqPut_keeps | apply fireEvent_keeps | apply drcTrigger_keeps
    | dsimp only
    | split

theorem biWordWrite_keeps {s0 : State} : ∀ s9, Keeps s0 s9 → Keeps s0 (biWordWrite s9) := by
  intro s9 h
  unfold biWordWrite
  repeat' first
    | with_reducible first | assumption | apply dmaWrite_keeps
    | dsimp only
    | split

theorem execTickEnable_keeps {s0 : State} : ∀ a0 s1, Keeps s0 s1 → KeepsEnd s0 (execTickEnable a0 s1) := by
  intro a0 s1 h
  unfold execTickEnable
  refine keepsEnd_next ?_
  repeat' first
    | with_reducible first | assumption | intro _ | apply regAccess_keeps | apply setShadow_keeps | apply keeps_foldl | apply keeps_upto | apply keeps_each
    | dsimp only
    | split

theorem execTickDisable_keeps {s0 : State} : ∀ a0 s1, Keeps s0 s1 → KeepsEnd s0 (execTickDisable a0 s1) := by
  intro a0 s1 h
  unfold execTickDisable
  refine keepsEnd_next ?_
  repeat' first
    | with_reducible first | assumption | intro _ | apply regAccess_keeps | apply werr_keeps | apply setShadow_keeps | apply keeps_foldl | apply keeps_upto | apply keeps_each
    | dsimp only
    | split

theorem tqFlush_keeps {s0 : State} : ∀ s9 a1, Keeps s0 s9 → Keeps s0 (tqFlush s9 a1) := by
  intro s9 a1 h
  unfold tqFlush
  repeat' first
    | with_reducible first | assumption | apply tqCheck_keeps | apply bump_keeps | apply tqSide_keeps | apply setStampQ_keeps
    | dsimp only
    | split

theorem execTxqFlush_keeps {s0 : State} : ∀ a0 a1 s2, Keeps s0 s2 → KeepsEnd s0 (execTxqFlush a0 a1 s2) := by
  intro a0 a1 s2 h
  unfold execTxqFlush
  refine keepsEnd_next ?_
  repeat' first
    | with_reducible first | assumption | intro _ | apply regAccess_keeps | apply tqFlush_keeps | apply keeps_foldl | apply keeps_upto | apply keeps_each
    | dsimp only
    | split

theorem execBiqFlush_keeps {s0 : State} : ∀ a0 s1, Keeps s0 s1 → KeepsEnd s0 (execBiqFlush a0 s1) := by
  intro a0 s1 h
  unfold execBiqFlush
  refine keepsEnd_next ?_
  repeat' first
    | with_reducible first | assumption | intro _ | apply regAccess_keeps | apply tqFlush_keeps | apply keeps_foldl | apply keeps_upto | apply keeps_each
    | dsimp only
    | split

theorem execTimeNowRead_keeps {s0 : State} : ∀ a0 s1, Keeps s0 s1 → KeepsEnd s0 (execTimeNowRead a0 s1) := by
  intro a0 s1 h
  unfold execTimeNowRead
  refine keepsEnd_next ?_
  repeat' first
    | with_reducible first | assumption | intro _ | apply regAccess_keeps | apply setBus_keeps | apply keeps_foldl | apply keeps_upto | apply keeps_each
    | dsimp only
    | split

theorem tqRegain_keeps {s0 : State} : ∀ s9 a1, Keeps s0 s9 → Keeps s0 (tqRegain s9 a1) := by
  intro s9 a1 h
  unfold tqRegain
  repeat' first
    | with_reducible first | assumption | intro _ | apply setStampQ_keeps | apply setLive_keeps | apply setHnq_keeps | apply keeps_foldl | apply keeps_upto | apply keeps_each
    | (extract_lets +onlyGivenNames x; refine Keeps.cut (s0 := s0) (x := x) ?_ (fun _ => ?_); unfold x; clear x; rotate_left; clear_value x; revert x; intro y _; rotate_left)
    | (extract_lets +onlyGivenNames x; subst x)
    | dsimp -zeta only [id]
    | split

theorem tqPop_keeps {s0 : State} : ∀ s9 a1, Keeps s0 s9 → Keeps s0 (tqPop s9 a1) := by
  intro s9 a1 h
  unfold tqPop
  repeat' first
    | with_reducible first | assumption | apply tqCheck_keeps | apply setBus_keeps | apply setEvt_keeps | apply setStampQ_keeps | apply tqSide_keeps | apply tqRegain_keeps
    | dsimp only
    | split

theorem execTxqPop0_keeps {s0 : State} : ∀ a0 a1 s2, Keeps s0 s2 → KeepsEnd s0 (execTxqPop0 a0 a1 s2) := by
  intro a0 a1 s2 h
  unfold execTxqPop0
  refine keepsEnd_next ?_
  repeat' first
    | with_reducible first | assumption | intro _ | apply regAccess_keeps | apply tqPop_keeps | apply keeps_foldl | apply keeps_upto | apply keeps_each
    | dsimp only
    | split

theorem execBiqPop0_keeps {s0 : State} : ∀ a0 s1, Keeps s0 s1 → KeepsEnd s0 (execBiqPop0 a0 s1) := by
  intro a0 s1 h
  unfold execBiqPop0
  refine keepsEnd_next ?_
  repeat' first
    | with_reducible first | assumption | intro _ | apply regAccess_keeps | apply tqPop_keeps | apply keeps_foldl | apply keeps_upto | apply keeps_each
    | dsimp only
    | split

theorem execBiPinEdge_keeps {s0 : State} : ∀ a0 a1 a2 s3, Keeps s0 s3 → KeepsEnd s0 (execBiPinEdge a0 a1 a2 s3) := by
  intro a0 a1 a2 s3 h
  unfold execBiPinEdge
  refine keepsEnd_next ?_
  repeat' first
    | with_reducible first | assumption | apply biRecord_keeps | apply setPin_keeps
    | dsimp only
    | split

theorem execBiEdgeRecord_keeps {s0 : State} : ∀ a0 s1, Keeps s0 s1 → KeepsEnd s0 (execBiEdgeRecord a0 s1) := by
  intro a0 s1 h
  unfold execBiEdgeRecord
  refine keepsEnd_next ?_
  repeat' first
    | with_reducible first | assumption | apply biRecord_keeps
    | dsimp only
    | split

end Sys2Proof.Machine
end

