-- ==== Sys2Proof/Laws/KeepsGse.lean ====
section
/-! SUPPORT. What the functions of Machine/Gse.lean keep. -/

namespace Sys2Proof.Machine

theorem flagReset_keeps {s0 : State} : ∀ s9 a1, Keeps s0 s9 → Keeps s0 (flagReset s9 a1) := by
  intro s9 a1 h
  unfold flagReset
  repeat' first
    | with_reducible first | assumption | intro _ | apply keeps_foldl | apply keeps_upto | apply keeps_each
    | (extract_lets +onlyGivenNames x; refine Keeps.cut (s0 := s0) (x := x) ?_ (fun _ => ?_); unfold x; clear x; rotate_left; clear_value x; revert x; intro y _; rotate_left)
    | (extract_lets +onlyGivenNames x; subst x)
    | dsimp -zeta only [id]
    | split

theorem gseRead_keeps {s0 : State} : ∀ s9 a1 a2, Keeps s0 s9 → Keeps s0 (gseRead s9 a1 a2).2 := by
  intro s9 a1 a2 h
  unfold gseRead
  repeat' first
    | with_reducible first | assumption | apply dmaAccess_keeps | refine dmaAccess_keeps' (by assumption) ?_ | apply setEvt_keeps
    | dsimp only
    | split

theorem gseRead_keeps' {s0 t : State} {r} {s9 a1 a2} (e : gseRead s9 a1 a2 = (r, t)) (h : Keeps s0 s9) : Keeps s0 t :=
  by have := gseRead_keeps s9 a1 a2 h; rw [e] at this; exact this

theorem memberVal_keeps {s0 : State} : ∀ s9 a1 a2 a3 a4 a5, Keeps s0 s9 → Keeps s0 (memberVal s9 a1 a2 a3 a4 a5).2 := by
  intro s9 a1 a2 a3 a4 a5 h
  unfold memberVal
  repeat' first
    | with_reducible first | assumption | apply gseRead_keeps | refine gseRead_keeps' (by assumption) ?_
    | dsimp only
    | split

theorem memberVals_keeps {s0 : State} : ∀ s9 a1 a2 a3 a4, Keeps s0 s9 → Keeps s0 (memberVals s9 a1 a2 a3 a4).2.2.2 := by
  intro s own mer g t h
  unfold memberVals
  refine keeps_foldl_of (fun acc : List (Word × Word) × List (Nat × Nat) × Bool × State => Keeps s0 acc.2.2.2) _ (fun acc m h => ?_) _ _ h
  exact memberVal_keeps _ _ _ _ _ _ h

theorem memberVals_keeps' {s0 t : State} {r r1 r2} {s9 a1 a2 a3 a4} (e : memberVals s9 a1 a2 a3 a4 = (r, r1, r2, t)) (h : Keeps s0 s9) : Keeps s0 t :=
  by have := memberVals_keeps s9 a1 a2 a3 a4 h; rw [e] at this; exact this

theorem setPub_keeps {s0 : State} : ∀ s9 a1 a2, Keeps s0 s9 → Keeps s0 (setPub s9 a1 a2) :=
  fun _ _ _ h => ⟨h.mem, h.pending, h.now, h.svn, h.prov, h.decom⟩

theorem gsePtrReset_keeps {s0 : State} : ∀ s9 a1, Keeps s0 s9 → Keeps s0 (gsePtrReset s9 a1) := by
  intro s9 a1 h
  unfold gsePtrReset
  repeat' first
    | with_reducible first | assumption | apply ptrSum_keeps | apply setEvt_keeps | apply setPub_keeps | apply postOwner_keeps | apply almPost_keeps
    | dsimp only
    | split

theorem gpSend_keeps {s0 : State} : ∀ s9 a1, Keeps s0 s9 → Keeps s0 (gpSend s9 a1) := by
  intro s9 a1 h
  unfold gpSend
  repeat' first
    | with_reducible first | assumption | apply gsePtrReset_keeps | apply bump_keeps | apply setPub_keeps | apply postOwner_keeps | apply setEvt_keeps
    | dsimp only
    | split

theorem gpEvent_keeps {s0 : State} : ∀ s9 a1 a2 a3 a4, Keeps s0 s9 → Keeps s0 (gpEvent s9 a1 a2 a3 a4) := by
  intro s9 a1 a2 a3 a4 h
  unfold gpEvent
  repeat' first
    | with_reducible first | assumption | apply setPub_keeps | apply gpSend_keeps | apply bump_keeps
    | dsimp only
    | split

theorem gpFlag_keeps {s0 : State} : ∀ s9 a1 a2, Keeps s0 s9 → Keeps s0 (gpFlag s9 a1 a2) := by
  intro s9 a1 a2 h
  unfold gpFlag
  repeat' first
    | with_reducible first | assumption | apply memberVals_keeps | refine memberVals_keeps' (by assumption) ?_ | apply gpEvent_keeps | apply setPub_keeps
    | dsimp only
    | split

theorem gseFlag_keeps {s0 : State} : ∀ s9 a1, Keeps s0 s9 → Keeps s0 (gseFlag s9 a1) := by
  intro s9 a1 h
  unfold gseFlag
  repeat' first
    | with_reducible first | assumption | intro _ | apply gpFlag_keeps | apply keeps_foldl | apply keeps_upto | apply keeps_each
    | dsimp only
    | split

theorem gpDescRead_keeps {s0 : State} : ∀ s9 a1, Keeps s0 s9 → Keeps s0 (gpDescRead s9 a1) := by
  intro s9 a1 h
  unfold gpDescRead
  repeat' first
    | with_reducible first | assumption | apply setPub_keeps | apply dmaAccess_keeps | refine dmaAccess_keeps' (by assumption) ?_ | apply setEvt_keeps
    | dsimp only
    | split

theorem gpMeridian_keeps {s0 : State} : ∀ s9 a1, Keeps s0 s9 → Keeps s0 (gpMeridian s9 a1) := by
  intro s9 a1 h
  unfold gpMeridian
  repeat' first
    | with_reducible first | assumption | apply memberVals_keeps | refine memberVals_keeps' (by assumption) ?_ | apply gpEvent_keeps
    | dsimp only
    | split

theorem gseMeridian_keeps {s0 : State} : ∀ s9, Keeps s0 s9 → Keeps s0 (gseMeridian s9) := by
  intro s9 h
  unfold gseMeridian
  repeat' first
    | with_reducible first | assumption | intro _ | apply gpMeridian_keeps | apply keeps_foldl | apply keeps_upto | apply keeps_each
    | dsimp only
    | split

theorem execGooseRetransmit_keeps {s0 : State} : ∀ a0 s1, Keeps s0 s1 → KeepsEnd s0 (execGooseRetransmit a0 s1) := by
  intro a0 s1 h
  unfold execGooseRetransmit
  refine keepsEnd_next ?_
  repeat' first
    | with_reducible first | assumption | apply reach_keeps | apply setPub_keeps | apply gpSend_keeps
    | dsimp only
    | split

end Sys2Proof.Machine
end

