-- ==== Sys2Proof/Laws/KeepsMtr.lean ====
section
/-! SUPPORT. What the functions of Machine/Mtr.lean keep. -/

namespace Sys2Proof.Machine

theorem setMp_keeps {s0 : State} : ∀ s9 a1 a2, Keeps s0 s9 → Keeps s0 (setMp s9 a1 a2) :=
  fun _ _ _ h => ⟨h.mem, h.pending, h.now, h.svn, h.prov, h.decom⟩

theorem setPul_keeps {s0 : State} : ∀ s9 a1 a2, Keeps s0 s9 → Keeps s0 (setPul s9 a1 a2) :=
  fun _ _ _ h => ⟨h.mem, h.pending, h.now, h.svn, h.prov, h.decom⟩

theorem mtrNote_keeps {s0 : State} : ∀ s9 a1 a2 a3 a4 a5, Keeps s0 s9 → Keeps s0 (mtrNote s9 a1 a2 a3 a4 a5) := by
  intro s9 a1 a2 a3 a4 a5 h
  unfold mtrNote
  repeat' first
    | with_reducible first | assumption | apply almPost_keeps | apply notifyAll_keeps
    | dsimp only
    | split

theorem pulseAdd_keeps {s0 : State} : ∀ s9 a1 a2, Keeps s0 s9 → Keeps s0 (pulseAdd s9 a1 a2) := by
  intro s9 a1 a2 h
  unfold pulseAdd
  repeat' first
    | with_reducible first | assumption | apply setPul_keeps | apply setLive_keeps | apply mtrNote_keeps | apply setEvt_keeps
    | dsimp only
    | split

theorem accAdd_keeps {s0 : State} : ∀ s9 a1 a2 a3, Keeps s0 s9 → Keeps s0 (accAdd s9 a1 a2 a3) := by
  intro s9 a1 a2 a3 h
  unfold accAdd
  repeat' first
    | with_reducible first | assumption | intro _ | apply setMp_keeps | apply pulseAdd_keeps | apply keeps_foldl | apply keeps_upto | apply keeps_each
    | dsimp only
    | split

theorem accRead_keeps {s0 : State} : ∀ s9 a1 a2, Keeps s0 s9 → Keeps s0 (accRead s9 a1 a2) :=
  fun _ _ _ h => ⟨h.mem, h.pending, h.now, h.svn, h.prov, h.decom⟩

theorem energyAdd_keeps {s0 : State} : ∀ s9 a1 a2 a3, Keeps s0 s9 → Keeps s0 (energyAdd s9 a1 a2 a3) := by
  intro s9 a1 a2 a3 h
  unfold energyAdd
  repeat' first
    | with_reducible first | assumption | apply accAdd_keeps
    | dsimp only
    | split

theorem resStore_keeps {s0 : State} : ∀ s9 a1 a2, Keeps s0 s9 → Keeps s0 (resStore s9 a1 a2) := by
  intro s a b h
  have g := dmaAccess_keeps s 0x15 (mtrTag s) true a 0x800 h
  unfold resStore
  dsimp only
  split
  · exact g
  · exact wr32_keeps _ _ _ (wrBytes_keeps _ _ _ (wr32_keeps _ _ _ g))

theorem resWrite_keeps {s0 : State} : ∀ s9 a1 a2, Keeps s0 s9 → Keeps s0 (resWrite s9 a1 a2) := by
  intro s9 a1 a2 h
  unfold resWrite
  repeat' first
    | with_reducible first | assumption | apply resStore_keeps
    | dsimp only
    | split

theorem windowEnd_keeps {s0 : State} : ∀ s9 a1 a2 a3, Keeps s0 s9 → Keeps s0 (windowEnd s9 a1 a2 a3) := by
  intro s9 a1 a2 a3 h
  unfold windowEnd
  repeat' first
    | with_reducible first | assumption | apply energyAdd_keeps | apply setMp_keeps | apply bump_keeps | apply resWrite_keeps
    | dsimp only
    | split

theorem windowsDone_keeps {s0 : State} : ∀ s9 a1, Keeps s0 s9 → Keeps s0 (windowsDone s9 a1) := by
  intro s9 a1 h
  unfold windowsDone
  repeat' first
    | with_reducible first | assumption | intro _ | apply setMp_keeps | apply windowEnd_keeps | apply keeps_foldl | apply keeps_upto | apply keeps_each
    | dsimp only
    | split

theorem allDone_keeps {s0 : State} : ∀ s9, Keeps s0 s9 → Keeps s0 (allDone s9) := by
  intro s9 h
  unfold allDone
  repeat' first
    | with_reducible first | assumption | intro _ | apply windowsDone_keeps | apply keeps_foldl | apply keeps_upto | apply keeps_each
    | dsimp only
    | split

theorem pulseHold_keeps {s0 : State} : ∀ s9, Keeps s0 s9 → Keeps s0 (pulseHold s9) := by
  intro s9 h
  unfold pulseHold
  repeat' first
    | with_reducible first | assumption | intro _ | apply setPul_keeps | apply keeps_foldl | apply keeps_upto | apply keeps_each
    | dsimp only
    | split

theorem mtrInForce_keeps {s0 : State} : ∀ s9 s1, Keeps s0 s9 → Keeps s0 s1 → Keeps s0 (mtrInForce s9 s1) := by
  intro s9 s1 h h
  unfold mtrInForce
  repeat' first
    | with_reducible first | assumption | intro _ | apply pulseHold_keeps | apply setPul_keeps | apply keeps_foldl | apply keeps_upto | apply keeps_each
    | dsimp only
    | split

theorem mtrUncertain_keeps {s0 : State} : ∀ s9 a1, Keeps s0 s9 → Keeps s0 (mtrUncertain s9 a1) := by
  intro s9 a1 h
  unfold mtrUncertain
  repeat' first
    | with_reducible first | assumption | intro _ | apply setLive_keeps | apply mtrNote_keeps | apply setEvt_keeps | apply keeps_foldl | apply keeps_upto | apply keeps_each
    | dsimp only
    | split

theorem ckptStart_keeps {s0 : State} : ∀ s9 a1, Keeps s0 s9 → Keeps s0 (ckptStart s9 a1) := by
  intro s9 a1 h
  unfold ckptStart
  repeat' first
    | with_reducible first | assumption | apply pokeBytes_keeps
    | dsimp only
    | split

theorem ckptPut_keeps {s0 : State} : ∀ s9 a1 a2, Keeps s0 s9 → Keeps s0 (ckptPut s9 a1 a2) := by
  intro s9 a1 a2 h
  unfold ckptPut
  repeat' first
    | with_reducible first | assumption | intro _ | apply setMp_keeps | apply ckptStart_keeps | apply keeps_foldl | apply keeps_upto | apply keeps_each
    | dsimp only
    | split

theorem mtrRestore_keeps {s0 : State} : ∀ s9 a1 a2, Keeps s0 s9 → Keeps s0 (mtrRestore s9 a1 a2) := by
  intro s9 a1 a2 h
  unfold mtrRestore
  repeat' first
    | with_reducible first | assumption | intro _ | apply blockRead_keeps | apply mtrNote_keeps | apply setEvt_keeps | apply guardFault_keeps | apply mtrUncertain_keeps | apply ckptPut_keeps | apply keeps_foldl | apply keeps_upto | apply keeps_each
    | dsimp only
    | split

theorem ckptDone_keeps {s0 : State} : ∀ s9, Keeps s0 s9 → Keeps s0 (ckptDone s9) := by
  intro s9 h
  unfold ckptDone
  repeat' first
    | with_reducible first | assumption | apply pokeBytes_keeps | apply ckptStart_keeps
    | dsimp only
    | split

theorem shortWindow_keeps {s0 : State} : ∀ s9 a1, Keeps s0 s9 → Keeps s0 (shortWindow s9 a1) := by
  intro s9 a1 h
  unfold shortWindow
  repeat' first
    | with_reducible first | assumption | apply windowsDone_keeps | apply windowEnd_keeps | apply setMp_keeps
    | dsimp only
    | split

theorem shortAll_keeps {s0 : State} : ∀ s9, Keeps s0 s9 → Keeps s0 (shortAll s9) := by
  intro s9 h
  unfold shortAll
  repeat' first
    | with_reducible first | assumption | intro _ | apply shortWindow_keeps | apply keeps_foldl | apply keeps_upto | apply keeps_each
    | dsimp only
    | split

theorem mtrTwilight_keeps {s0 : State} : ∀ s9, Keeps s0 s9 → Keeps s0 (mtrTwilight s9) := by
  intro s9 h
  unfold mtrTwilight
  repeat' first
    | with_reducible first | assumption | intro _ | apply setPul_keeps | apply shortAll_keeps | apply ckptDone_keeps | apply ckptPut_keeps | apply keeps_foldl | apply keeps_upto | apply keeps_each
    | dsimp only
    | split

theorem mtrMeridian_keeps {s0 : State} : ∀ s9, Keeps s0 s9 → Keeps s0 (mtrMeridian s9) := by
  intro s9 h
  unfold mtrMeridian
  repeat' first
    | with_reducible first | assumption | apply pulseHold_keeps | apply ckptPut_keeps | apply allDone_keeps
    | dsimp only
    | split

theorem mtrCmd_keeps {s0 : State} : ∀ a0 f1 s2, (∀ t0, Keeps s0 t0 → Keeps s0 (f1 t0)) → Keeps s0 s2 → Keeps s0 (mtrCmd a0 f1 s2) := by
  intro a0 f1 s2 h0 h
  unfold mtrCmd
  repeat' first
    | with_reducible first | assumption | intro _ | apply h0 | apply regAccess_keeps | apply setEvt_keeps | apply keeps_foldl | apply keeps_upto | apply keeps_each
    | dsimp only
    | split

theorem mtrErr_keeps {s0 : State} : ∀ s9 a1, Keeps s0 s9 → Keeps s0 (mtrErr s9 a1) :=
  fun _ _ h => ⟨h.mem, h.pending, h.now, h.svn, h.prov, h.decom⟩

theorem mtrEnd_keeps {s0 : State} : ∀ s9, Keeps s0 s9 → Keeps s0 (mtrEnd s9) :=
  fun _ h => ⟨h.mem, h.pending, h.now, h.svn, h.prov, h.decom⟩

theorem mtrPreset_keeps {s0 : State} : ∀ a0 a1 s2, Keeps s0 s2 → Keeps s0 (mtrPreset a0 a1 s2) := by
  intro a0 a1 s2 h
  unfold mtrPreset
  repeat' first
    | with_reducible first | assumption | apply mtrErr_keeps | apply mtrEnd_keeps | apply setMp_keeps
    | dsimp only
    | split

theorem execMtrPreset_keeps {s0 : State} : ∀ a0 a1 a2 s3, Keeps s0 s3 → KeepsEnd s0 (execMtrPreset a0 a1 a2 s3) := by
  intro a0 a1 a2 s3 h
  unfold execMtrPreset
  refine keepsEnd_next ?_
  repeat' first
    | with_reducible first | assumption | apply mtrCmd_keeps | apply mtrPreset_keeps
    | dsimp only
    | split

theorem mtrCkptNow_keeps {s0 : State} : ∀ s9, Keeps s0 s9 → Keeps s0 (mtrCkptNow s9) := by
  intro s9 h
  unfold mtrCkptNow
  repeat' first
    | with_reducible first | assumption | apply ckptPut_keeps | apply allDone_keeps
    | dsimp only
    | split

theorem execMtrCkptNow_keeps {s0 : State} : ∀ a0 s1, Keeps s0 s1 → KeepsEnd s0 (execMtrCkptNow a0 s1) := by
  intro a0 s1 h
  unfold execMtrCkptNow
  refine keepsEnd_next ?_
  repeat' first
    | with_reducible first | assumption | apply mtrCmd_keeps | apply mtrCkptNow_keeps
    | dsimp only
    | split

theorem mtrStop_keeps {s0 : State} : ∀ s9, Keeps s0 s9 → Keeps s0 (mtrStop s9) := by
  intro s9 h
  unfold mtrStop
  repeat' first
    | with_reducible first | assumption | apply ckptPut_keeps | apply shortAll_keeps
    | dsimp only
    | split

theorem execMtrStop_keeps {s0 : State} : ∀ a0 s1, Keeps s0 s1 → KeepsEnd s0 (execMtrStop a0 s1) := by
  intro a0 s1 h
  unfold execMtrStop
  refine keepsEnd_next ?_
  repeat' first
    | with_reducible first | assumption | apply mtrCmd_keeps | apply mtrStop_keeps
    | dsimp only
    | split

theorem mtrResume_keeps {s0 : State} : ∀ s9, Keeps s0 s9 → Keeps s0 (mtrResume s9) := by
  intro s9 h
  unfold mtrResume
  repeat' first
    | with_reducible first | assumption | intro _ | apply setMp_keeps | apply mtrEnd_keeps | apply keeps_foldl | apply keeps_upto | apply keeps_each
    | dsimp only
    | split

theorem execMtrResume_keeps {s0 : State} : ∀ a0 s1, Keeps s0 s1 → KeepsEnd s0 (execMtrResume a0 s1) := by
  intro a0 s1 h
  unfold execMtrResume
  refine keepsEnd_next ?_
  repeat' first
    | with_reducible first | assumption | apply mtrCmd_keeps | apply mtrResume_keeps
    | dsimp only
    | split

theorem mpEnable_keeps {s0 : State} : ∀ s9 a1, Keeps s0 s9 → Keeps s0 (mpEnable s9 a1) := by
  intro s9 a1 h
  unfold mpEnable
  repeat' first
    | with_reducible first | assumption | apply mtrNote_keeps | apply setEvt_keeps | apply setShadow_keeps | apply setMp_keeps
    | dsimp only
    | split

theorem execMeterPointEnable_keeps {s0 : State} : ∀ a0 a1 s2, Keeps s0 s2 → KeepsEnd s0 (execMeterPointEnable a0 a1 s2) := by
  intro a0 a1 s2 h
  unfold execMeterPointEnable
  refine keepsEnd_next ?_
  repeat' first
    | with_reducible first | assumption | intro _ | apply regAccess_keeps | apply mpEnable_keeps | apply keeps_foldl | apply keeps_upto | apply keeps_each
    | dsimp only
    | split

theorem mpDisable_keeps {s0 : State} : ∀ s9 a1, Keeps s0 s9 → Keeps s0 (mpDisable s9 a1) :=
  fun _ _ h => ⟨h.mem, h.pending, h.now, h.svn, h.prov, h.decom⟩

theorem execAccRead_keeps {s0 : State} : ∀ a0 a1 a2 s3, Keeps s0 s3 → KeepsEnd s0 (execAccRead a0 a1 a2 s3) := by
  intro a0 a1 a2 s3 h
  unfold execAccRead
  refine keepsEnd_next ?_
  repeat' first
    | with_reducible first | assumption | intro _ | apply regAccess_keeps | apply accRead_keeps | apply keeps_foldl | apply keeps_upto | apply keeps_each
    | dsimp only
    | split

theorem shortGroup_keeps {s0 : State} : ∀ s9 a1, Keeps s0 s9 → Keeps s0 (shortGroup s9 a1) := by
  intro s9 a1 h
  unfold shortGroup
  repeat' first
    | with_reducible first | assumption | intro _ | apply shortWindow_keeps | apply keeps_foldl | apply keeps_upto | apply keeps_each
    | dsimp only
    | split

theorem mtrRead_keeps {s0 : State} : ∀ s9 a1, Keeps s0 s9 → Keeps s0 (mtrRead s9 a1).2 := by
  intro s9 a1 h
  unfold mtrRead
  repeat' first
    | with_reducible first | assumption | apply dmaRead_keeps | refine dmaRead_keeps' (by assumption) ?_
    | dsimp only
    | split

theorem mpSample_keeps {s0 : State} : ∀ s9 a1 a2 a3, Keeps s0 s9 → Keeps s0 (mpSample s9 a1 a2 a3).2 := by
  intro s p t i h
  unfold mpSample
  exact keeps_foldl_of (fun acc : List (Int × Word) × State => Keeps s0 acc.2) _ (fun acc x h => mtrRead_keeps _ _ h) _ _ h

theorem mpSample_keeps' {s0 t : State} {r} {s9 a1 a2 a3} (e : mpSample s9 a1 a2 a3 = (r, t)) (h : Keeps s0 s9) : Keeps s0 t :=
  by have := mpSample_keeps s9 a1 a2 a3 h; rw [e] at this; exact this

theorem mpTake_keeps {s0 : State} : ∀ s9 a1 a2 a3 a4, Keeps s0 s9 → Keeps s0 (mpTake s9 a1 a2 a3 a4) := by
  intro s9 a1 a2 a3 a4 h
  unfold mpTake
  repeat' first
    | with_reducible first | assumption | apply setMp_keeps
    | dsimp only
    | split

theorem mtrRelease_keeps {s0 : State} : ∀ s9 a1 a2 a3, Keeps s0 s9 → Keeps s0 (mtrRelease s9 a1 a2 a3) := by
  intro s9 a1 a2 a3 h
  unfold mtrRelease
  repeat' first
    | with_reducible first | assumption | intro _ | apply mpSample_keeps | refine mpSample_keeps' (by assumption) ?_ | apply mpTake_keeps | apply keeps_foldl | apply keeps_upto | apply keeps_each
    | dsimp only
    | split

theorem execMeterWindowEnd_keeps {s0 : State} : ∀ a0 s1, Keeps s0 s1 → KeepsEnd s0 (execMeterWindowEnd a0 s1) := by
  intro a0 s1 h
  unfold execMeterWindowEnd
  refine keepsEnd_next ?_
  repeat' first
    | with_reducible first | assumption | apply windowEnd_keeps | apply setMp_keeps
    | dsimp only
    | split

theorem execPulsePeriod_keeps {s0 : State} : ∀ a0 s1, Keeps s0 s1 → KeepsEnd s0 (execPulsePeriod a0 s1) := by
  intro a0 s1 h
  unfold execPulsePeriod
  refine keepsEnd_next ?_
  repeat' first
    | with_reducible first | assumption | apply reach_keeps | apply pulseHold_keeps | apply setPul_keeps
    | dsimp only
    | split

theorem execCheckpointWriteDone_keeps {s0 : State} : ∀ s9, Keeps s0 s9 → KeepsEnd s0 (execCheckpointWriteDone s9) := by
  intro s9 h
  unfold execCheckpointWriteDone
  refine keepsEnd_next ?_
  repeat' first
    | with_reducible first | assumption | apply ckptDone_keeps
    | dsimp only
    | split

end Sys2Proof.Machine
end

