-- ==== Sys2Proof/Laws/KeepsCmd.lean ====
section
/-! SUPPORT. What the functions of Machine/Cmd.lean keep. -/

namespace Sys2Proof.Machine

theorem setObj_keeps {s0 : State} : ∀ s9 a1 a2, Keeps s0 s9 → Keeps s0 (setObj s9 a1 a2) :=
  fun _ _ _ h => ⟨h.mem, h.pending, h.now, h.svn, h.prov, h.decom⟩

theorem objGuard_keeps {s0 : State} : ∀ s9 a1, Keeps s0 s9 → Keeps s0 (objGuard s9 a1) := by
  intro s9 a1 h
  unfold objGuard
  repeat' first
    | with_reducible first | assumption | apply setEvt_keeps | apply guardFault_keeps | apply setObj_keeps | apply almPost_keeps | apply notifyAll_keeps
    | dsimp only
    | split

theorem cmdOrder_keeps {s0 : State} : ∀ s9 a1, Keeps s0 s9 → Keeps s0 (cmdOrder s9 a1) :=
  fun _ _ h => ⟨h.mem, h.pending, h.now, h.svn, h.prov, h.decom⟩

theorem cmdFlag_keeps {s0 : State} : ∀ s9 a1, Keeps s0 s9 → Keeps s0 (cmdFlag s9 a1) := by
  intro s9 a1 h
  unfold cmdFlag
  repeat' first
    | with_reducible first | assumption | intro _ | apply cmdOrder_keeps | apply keeps_foldl | apply keeps_upto | apply keeps_each
    | dsimp only
    | split

theorem setFbc_keeps {s0 : State} : ∀ s9 a1 a2, Keeps s0 s9 → Keeps s0 (setFbc s9 a1 a2) := by
  intro s9 a1 a2 h
  unfold setFbc
  repeat' first
    | with_reducible first | assumption
    | dsimp only
    | split

theorem countCause_keeps {s0 : State} : ∀ s9 a1 a2, Keeps s0 s9 → Keeps s0 (countCause s9 a1 a2) := by
  intro s9 a1 a2 h
  unfold countCause
  repeat' first
    | with_reducible first | assumption | apply bump_keeps
    | dsimp only
    | split

theorem resPtrReset_keeps {s0 : State} : ∀ s9, Keeps s0 s9 → Keeps s0 (resPtrReset s9) := by
  intro s9 h
  unfold resPtrReset
  repeat' first
    | with_reducible first | assumption | apply ptrSum_keeps | apply setEvt_keeps | apply almPost_keeps | apply notifyAll_keeps
    | dsimp only
    | split

theorem resPush_keeps {s0 : State} : ∀ s9 a1, Keeps s0 s9 → Keeps s0 (resPush s9 a1) := by
  intro s9 a1 h
  unfold resPush
  repeat' first
    | with_reducible first | assumption | apply resPtrReset_keeps | apply setEvt_keeps | apply bump_keeps
    | dsimp only
    | split

theorem tq0Fail_keeps {s0 : State} : ∀ s9 a1 a2 a3, Keeps s0 s9 → Keeps s0 (tq0Fail s9 a1 a2 a3) :=
  fun _ _ _ _ h => ⟨h.mem, h.pending, h.now, h.svn, h.prov, h.decom⟩

theorem tq0Put_keeps {s0 : State} : ∀ s9 a1 a2, Keeps s0 s9 → Keeps s0 (tq0Put s9 a1 a2).1 := by
  intro s9 a1 a2 h
  unfold tq0Put
  repeat' first
    | with_reducible first | assumption | apply setFbc_keeps | apply tq0Fail_keeps
    | dsimp only
    | split

theorem tq0Put_keeps' {s0 t : State} {r} {s9 a1 a2} (e : tq0Put s9 a1 a2 = (t, r)) (h : Keeps s0 s9) : Keeps s0 t :=
  by have := tq0Put_keeps s9 a1 a2 h; rw [e] at this; exact this

theorem cmdResult_keeps {s0 : State} : ∀ s9 a1 a2, Keeps s0 s9 → Keeps s0 (cmdResult s9 a1 a2) := by
  intro s9 a1 a2 h
  unfold cmdResult
  repeat' first
    | with_reducible first | assumption | apply setLive_keeps | apply countCause_keeps | apply notifyAll_keeps | apply almPost_keeps | apply setEvt_keeps | apply resPush_keeps | apply tq0Put_keeps | refine tq0Put_keeps' (by assumption) ?_
    | dsimp only
    | split

theorem cmdReport_keeps {s0 : State} : ∀ s9 a1 a2, Keeps s0 s9 → Keeps s0 (cmdReport s9 a1 a2) := by
  intro s9 a1 a2 h
  unfold cmdReport
  repeat' first
    | with_reducible first | assumption | apply cmdResult_keeps | apply setObj_keeps
    | dsimp only
    | split

theorem cmdExecute_keeps {s0 : State} : ∀ s9 a1, Keeps s0 s9 → Keeps s0 (cmdExecute s9 a1) := by
  intro s9 a1 h
  unfold cmdExecute
  repeat' first
    | with_reducible first | assumption | apply cmdResult_keeps | apply bump_keeps | apply setObj_keeps | apply tq0Put_keeps | refine tq0Put_keeps' (by assumption) ?_
    | dsimp only
    | split

theorem cmdEvalObj_keeps {s0 : State} (flag : State → Nat → Bool) (live : Bool) (all : List (Nat × Order)) (o : Nat)
    (acc : State × List (Nat × Order × Nat) × List Order) (h : Keeps s0 acc.1) : Keeps s0 (cmdEvalObj flag live all o acc).1 := by
  unfold cmdEvalObj
  repeat' first
    | with_reducible assumption
    | with_reducible apply objGuard_keeps
    | with_reducible apply notifyAll_keeps
    | with_reducible apply almPost_keeps
    | with_reducible apply setEvt_keeps
    | with_reducible apply setObj_keeps
    | dsimp only
    | split

theorem cmdEvaluate_keeps {s0 : State} : ∀ s9 a1 a2, Keeps s0 s9 → Keeps s0 (cmdEvaluate s9 a1 a2) := by
  intro s live flag h
  unfold cmdEvaluate
  exact keeps_foldl _ (fun s a h => cmdExecute_keeps _ _ h) _ _ (keeps_foldl _ (fun s a h => cmdResult_keeps _ _ _ h) _ _
    (keeps_foldl_of (fun acc : State × List (Nat × Order × Nat) × List Order => Keeps s0 acc.1) _ (fun acc o h => cmdEvalObj_keeps _ _ _ _ _ h) _ _ ⟨h.mem, h.pending, h.now, h.svn, h.prov, h.decom⟩))

theorem execCmdSelect_keeps {s0 : State} : ∀ a0 a1 a2 a3 a4 a5 s6, Keeps s0 s6 → KeepsEnd s0 (execCmdSelect a0 a1 a2 a3 a4 a5 s6) := by
  intro a0 a1 a2 a3 a4 a5 s6 h
  unfold execCmdSelect
  refine keepsEnd_next ?_
  repeat' first
    | with_reducible first | assumption | intro _ | apply regAccess_keeps | apply cmdOrder_keeps | apply keeps_foldl | apply keeps_upto | apply keeps_each
    | dsimp only
    | split

theorem execCmdOperate_keeps {s0 : State} : ∀ a0 a1 a2 a3 a4 a5 s6, Keeps s0 s6 → KeepsEnd s0 (execCmdOperate a0 a1 a2 a3 a4 a5 s6) := by
  intro a0 a1 a2 a3 a4 a5 s6 h
  unfold execCmdOperate
  refine keepsEnd_next ?_
  repeat' first
    | with_reducible first | assumption | intro _ | apply regAccess_keeps | apply cmdOrder_keeps | apply keeps_foldl | apply keeps_upto | apply keeps_each
    | dsimp only
    | split

theorem execCmdCancel_keeps {s0 : State} : ∀ a0 a1 a2 a3 a4 a5 s6, Keeps s0 s6 → KeepsEnd s0 (execCmdCancel a0 a1 a2 a3 a4 a5 s6) := by
  intro a0 a1 a2 a3 a4 a5 s6 h
  unfold execCmdCancel
  refine keepsEnd_next ?_
  repeat' first
    | with_reducible first | assumption | intro _ | apply regAccess_keeps | apply cmdOrder_keeps | apply keeps_foldl | apply keeps_upto | apply keeps_each
    | dsimp only
    | split

theorem execObjReset_keeps {s0 : State} : ∀ a0 a1 s2, Keeps s0 s2 → KeepsEnd s0 (execObjReset a0 a1 s2) := by
  intro a0 a1 s2 h
  unfold execObjReset
  refine keepsEnd_next ?_
  repeat' first
    | with_reducible first | assumption | intro _ | apply regAccess_keeps | apply setObj_keeps | apply objGuard_keeps | apply keeps_foldl | apply keeps_upto | apply keeps_each
    | dsimp only
    | split

theorem execCoPosWrite_keeps {s0 : State} : ∀ a0 a1 a2 s3, Keeps s0 s3 → KeepsEnd s0 (execCoPosWrite a0 a1 a2 s3) := by
  intro a0 a1 a2 s3 h
  unfold execCoPosWrite
  refine keepsEnd_next ?_
  repeat' first
    | with_reducible first | assumption | intro _ | apply regAccess_keeps | apply setShadow_keeps | apply cmdResult_keeps | apply setObj_keeps | apply keeps_foldl | apply keeps_upto | apply keeps_each
    | dsimp only
    | split

theorem execCmdResPop_keeps {s0 : State} : ∀ a0 s1, Keeps s0 s1 → KeepsEnd s0 (execCmdResPop a0 s1) := by
  intro a0 s1 h
  unfold execCmdResPop
  refine keepsEnd_next ?_
  repeat' first
    | with_reducible first | assumption | intro _ | apply regAccess_keeps | apply resPtrReset_keeps | apply setBus_keeps | apply keeps_foldl | apply keeps_upto | apply keeps_each
    | dsimp only
    | split

theorem execOperTimeout_keeps {s0 : State} : ∀ a0 s1, Keeps s0 s1 → KeepsEnd s0 (execOperTimeout a0 s1) := by
  intro a0 s1 h
  unfold execOperTimeout
  refine keepsEnd_next ?_
  repeat' first
    | with_reducible first | assumption | apply reach_keeps | apply cmdResult_keeps | apply setObj_keeps
    | dsimp only
    | split

theorem execSelectTimeout_keeps {s0 : State} : ∀ a0 s1, Keeps s0 s1 → KeepsEnd s0 (execSelectTimeout a0 s1) := by
  intro a0 s1 h
  unfold execSelectTimeout
  refine keepsEnd_next ?_
  repeat' first
    | with_reducible first | assumption | apply reach_keeps | apply cmdResult_keeps | apply setObj_keeps
    | dsimp only
    | split

end Sys2Proof.Machine
end

