-- ==== Sys2Proof/Laws/KeepsTmx.lean ====
section
/-! SUPPORT. What the functions of Machine/Tmx.lean keep. -/

namespace Sys2Proof.Machine

theorem setLane_keeps {s0 : State} : ∀ s9 a1 a2, Keeps s0 s9 → Keeps s0 (setLane s9 a1 a2) :=
  fun _ _ _ h => ⟨h.mem, h.pending, h.now, h.svn, h.prov, h.decom⟩

theorem laneGuard_keeps {s0 : State} : ∀ s9 a1, Keeps s0 s9 → Keeps s0 (laneGuard s9 a1) := by
  intro s9 a1 h
  unfold laneGuard
  repeat' first
    | with_reducible first | assumption | apply setEvt_keeps | apply guardFault_keeps | apply setLane_keeps | apply postOwner_keeps | apply almPost_keeps
    | dsimp only
    | split

theorem laneUpdate_keeps {s0 : State} : ∀ s9 a1, Keeps s0 s9 → Keeps s0 (laneUpdate s9 a1) := by
  intro s9 a1 h
  unfold laneUpdate
  repeat' first
    | with_reducible first | assumption | apply laneGuard_keeps | apply bump_keeps | apply setLane_keeps
    | dsimp only
    | split

theorem lanesUpdate_keeps {s0 : State} : ∀ s9, Keeps s0 s9 → Keeps s0 (lanesUpdate s9) := by
  intro s9 h
  unfold lanesUpdate
  repeat' first
    | with_reducible first | assumption | intro _ | apply setEvt_keeps | apply laneUpdate_keeps | apply keeps_foldl | apply keeps_upto | apply keeps_each
    | dsimp only
    | split

theorem flagChanged_keeps {s0 : State} : ∀ s9 a1 a2, Keeps s0 s9 → Keeps s0 (flagChanged s9 a1 a2) := by
  intro s9 a1 a2 h
  unfold flagChanged
  repeat' first
    | with_reducible first | assumption | apply flagReset_keeps | apply lanesUpdate_keeps | apply gseFlag_keeps | apply fireEvent_keeps | apply flagTriggers_keeps | apply cmdFlag_keeps
    | dsimp only
    | split

theorem flagForce_keeps {s0 : State} : ∀ s9 a1 a2, Keeps s0 s9 → Keeps s0 (flagForce s9 a1 a2) := by
  intro s9 a1 a2 h
  unfold flagForce
  repeat' first
    | with_reducible first | assumption | apply flagChanged_keeps
    | dsimp only
    | split

theorem tmxInForce_keeps {s0 : State} : ∀ s9 a1, Keeps s0 s9 → Keeps s0 (tmxInForce s9 a1) := by
  intro s9 a1 h
  unfold tmxInForce
  repeat' first
    | with_reducible first | assumption | intro _ | apply setLane_keeps | apply lanesUpdate_keeps | apply keeps_foldl | apply keeps_upto | apply keeps_each
    | dsimp only
    | split

theorem flagSet_keeps {s0 : State} : ∀ s9 a1 a2, Keeps s0 s9 → Keeps s0 (flagSet s9 a1 a2) := by
  intro s9 a1 a2 h
  unfold flagSet
  repeat' first
    | with_reducible first | assumption | apply flagChanged_keeps
    | dsimp only
    | split

theorem flagRefuse_keeps {s0 : State} : ∀ s9 a1 a2, Keeps s0 s9 → Keeps s0 (flagRefuse s9 a1 a2) := by
  intro s9 a1 a2 h
  unfold flagRefuse
  repeat' first
    | with_reducible first | assumption | apply setEvt_keeps | apply bump_keeps | apply postOwner_keeps | apply almPost_keeps
    | dsimp only
    | split

theorem linkGuard_keeps {s0 : State} : ∀ s9 a1, Keeps s0 s9 → Keeps s0 (linkGuard s9 a1) := by
  intro s9 a1 h
  unfold linkGuard
  repeat' first
    | with_reducible first | assumption | apply bump_keeps | apply setEvt_keeps | apply guardFault_keeps | apply postOwner_keeps | apply almPost_keeps
    | dsimp only
    | split

theorem flagCollide_keeps {s0 : State} : ∀ s9 a1, Keeps s0 s9 → Keeps s0 (flagCollide s9 a1) := by
  intro s9 a1 h
  unfold flagCollide
  repeat' first
    | with_reducible first | assumption | apply postOwner_keeps | apply setEvt_keeps | apply bump_keeps
    | dsimp only
    | split

theorem flagForeign_keeps {s0 : State} : ∀ s9 a1 a2 a3, Keeps s0 s9 → Keeps s0 (flagForeign s9 a1 a2 a3) := by
  intro s9 a1 a2 a3 h
  unfold flagForeign
  repeat' first
    | with_reducible first | assumption | apply violate_keeps
    | dsimp only
    | split

theorem flagWord_keeps {s0 : State} : ∀ s9 a1 a2 a3, Keeps s0 s9 → Keeps s0 (flagWord s9 a1 a2 a3).1 := by
  intro s9 a1 a2 a3 h
  unfold flagWord
  repeat' first
    | with_reducible first | assumption | apply flagRefuse_keeps | apply linkGuard_keeps | apply flagSet_keeps | apply flagCollide_keeps | apply flagForeign_keeps
    | dsimp only
    | split

theorem flagWord_keeps' {s0 t : State} {r} {s9 a1 a2 a3} (e : flagWord s9 a1 a2 a3 = (t, r)) (h : Keeps s0 s9) : Keeps s0 t :=
  by have := flagWord_keeps s9 a1 a2 a3 h; rw [e] at this; exact this

theorem execMinUsExpiry_keeps {s0 : State} : ∀ a0 s1, Keeps s0 s1 → KeepsEnd s0 (execMinUsExpiry a0 s1) := by
  intro a0 s1 h
  unfold execMinUsExpiry
  refine keepsEnd_next ?_
  repeat' first
    | with_reducible first | assumption | apply laneUpdate_keeps | apply reachLtc_keeps
    | dsimp only
    | split

theorem rbError_keeps {s0 : State} : ∀ s9 a1, Keeps s0 s9 → Keeps s0 (rbError s9 a1) := by
  intro s9 a1 h
  unfold rbError
  repeat' first
    | with_reducible first | assumption | apply setEvt_keeps | apply setLane_keeps | apply postOwner_keeps | apply almPost_keeps
    | dsimp only
    | split

end Sys2Proof.Machine
end

