-- ==== Sys2Proof/Laws/KeepsPcx.lean ====
section
/-! SUPPORT. What the functions of Machine/Pcx.lean keep. -/

namespace Sys2Proof.Machine

theorem handoverDone_keeps {s0 : State} : ∀ s9 a1, Keeps s0 s9 → Keeps s0 (handoverDone s9 a1) := by
  intro s9 a1 h
  unfold handoverDone
  repeat' first
    | with_reducible first | assumption | apply setEvt_keeps
    | dsimp only
    | split

theorem setCore_keeps {s0 : State} : ∀ s9 a1 a2, Keeps s0 s9 → Keeps s0 (setCore s9 a1 a2) :=
  fun _ _ _ h => ⟨h.mem, h.pending, h.now, h.svn, h.prov, h.decom⟩

theorem runOver_keeps {s0 : State} : ∀ s9 a1, Keeps s0 s9 → Keeps s0 (runOver s9 a1) := by
  intro s9 a1 h
  unfold runOver
  repeat' first
    | with_reducible first | assumption | apply handoverDone_keeps | apply setCore_keeps
    | dsimp only
    | split

theorem runCut_keeps {s0 : State} : ∀ s9 a1, Keeps s0 s9 → Keeps s0 (runCut s9 a1) := by
  intro s9 a1 h
  unfold runCut
  repeat' first
    | with_reducible first | assumption | apply runOver_keeps | apply setTask_keeps
    | dsimp only
    | split

theorem cutAfter_keeps {s0 : State} : ∀ a0 s1, Keeps s0 s1 → Keeps s0 (cutAfter a0 s1) := by
  intro a0 s1 h
  unfold cutAfter
  repeat' first
    | with_reducible first | assumption | intro _ | apply runCut_keeps | apply keeps_foldl | apply keeps_upto | apply keeps_each
    | (extract_lets +onlyGivenNames x; refine Keeps.cut (s0 := s0) (x := x) ?_ (fun _ => ?_); unfold x; clear x; rotate_left; clear_value x; revert x; intro y _; rotate_left)
    | (extract_lets +onlyGivenNames x; subst x)
    | dsimp -zeta only [id]
    | split

theorem escalate_keeps {s0 : State} : ∀ s9 a1 a2, Keeps s0 s9 → Keeps s0 (escalate s9 a1 a2).2 := by
  intro s9 a1 a2 h
  unfold escalate
  repeat' first
    | with_reducible first | assumption
    | dsimp only
    | split

theorem escalate_keeps' {s0 t : State} {r} {s9 a1 a2} (e : escalate s9 a1 a2 = (r, t)) (h : Keeps s0 s9) : Keeps s0 t :=
  by have := escalate_keeps s9 a1 a2 h; rw [e] at this; exact this

theorem modCore_keeps {s0 : State} : ∀ s9 a1 a2, Keeps s0 s9 → Keeps s0 (modCore s9 a1 a2) :=
  fun _ _ _ h => ⟨h.mem, h.pending, h.now, h.svn, h.prov, h.decom⟩

theorem recordExc_keeps {s0 : State} : ∀ s9 a1 a2 a3 a4 a5 a6 a7, Keeps s0 s9 → Keeps s0 (recordExc s9 a1 a2 a3 a4 a5 a6 a7) := by
  intro s9 a1 a2 a3 a4 a5 a6 a7 h
  unfold recordExc
  repeat' first
    | with_reducible first | assumption | apply setEvt_keeps | apply setLive_keeps | apply modCore_keeps
    | dsimp only
    | split

theorem countExc_keeps {s0 : State} : ∀ s9 a1 a2, Keeps s0 s9 → Keeps s0 (countExc s9 a1 a2) := by
  intro s9 a1 a2 h
  unfold countExc
  repeat' first
    | with_reducible first | assumption | apply bump_keeps
    | dsimp only
    | split

theorem stopTask_keeps {s0 : State} : ∀ s9 a1 a2, Keeps s0 s9 → Keeps s0 (stopTask s9 a1 a2) := by
  intro s9 a1 a2 h
  unfold stopTask
  repeat' first
    | with_reducible first | assumption | apply actOut_keeps | apply setTask_keeps | apply hnqPost_keeps | apply almPost_keeps
    | dsimp only
    | split

theorem stopPartition_keeps {s0 : State} : ∀ s9 a1 a2, Keeps s0 s9 → Keeps s0 (stopPartition s9 a1 a2) := by
  intro s9 a1 a2 h
  unfold stopPartition
  repeat' first
    | with_reducible first | assumption | intro _ | apply setPart_keeps | apply modCore_keeps | apply lanesUpdate_keeps | apply setEvt_keeps | apply hnqPost_keeps | apply almPost_keeps | apply keeps_foldl | apply keeps_upto | apply keeps_each
    | dsimp only
    | split

theorem takeExc_keeps {s0 : State} : ∀ s9 a1 a2 a3 a4 a5 a6, Keeps s0 s9 → Keeps s0 (takeExc s9 a1 a2 a3 a4 a5 a6) := by
  intro s9 a1 a2 a3 a4 a5 a6 h
  unfold takeExc
  repeat' first
    | with_reducible first | assumption | apply escalate_keeps | refine escalate_keeps' (by assumption) ?_ | apply recordExc_keeps | apply setEvt_keeps | apply countExc_keeps | apply guardFault_keeps | apply almPost_keeps | apply hnqPost_keeps | apply modCore_keeps | apply runCut_keeps | apply stopTask_keeps | apply stopPartition_keeps
    | dsimp only
    | split

theorem coreRaise_keeps {s0 : State} : ∀ s9 a1 a2 a3 a4 a5, Keeps s0 s9 → Keeps s0 (coreRaise s9 a1 a2 a3 a4 a5) := by
  intro s9 a1 a2 a3 a4 a5 h
  unfold coreRaise
  repeat' first
    | with_reducible first | assumption | apply takeExc_keeps
    | dsimp only
    | split

theorem coreFetch_keeps {s0 : State} : ∀ s9 a1 a2 a3 f4, Keeps s0 s9 → (∀ x0 t1, Keeps s0 t1 → Keeps s0 (f4 x0 t1)) → Keeps s0 (coreFetch s9 a1 a2 a3 f4) := by
  intro s9 a1 a2 a3 f4 h h1
  unfold coreFetch
  repeat' first
    | with_reducible first | assumption | apply h1 | apply coreRaise_keeps | apply violate_keeps | apply eccRead_keeps | refine eccRead_keeps' (by assumption) ?_
    | dsimp only
    | split

theorem coreWords_keeps {s0 : State} : ∀ a0 a1 a2 a3 a4 a5 f6 s7, (∀ t0, Keeps s0 t0 → Keeps s0 (f6 t0)) → Keeps s0 s7 → Keeps s0 (coreWords a0 a1 a2 a3 a4 a5 f6 s7) := by
  intro a0 a1 a2 a3 a4 a5 f6 s7 h0 h
  unfold coreWords
  repeat' first
    | with_reducible first | assumption | intro _ | apply h0 | apply coreFetch_keeps | apply coreRaise_keeps | apply keeps_foldl | apply keeps_upto | apply keeps_each
    | (extract_lets +onlyGivenNames x; refine Keeps.cut (s0 := s0) (x := x) ?_ (fun _ => ?_); unfold x; clear x; rotate_left; clear_value x; revert x; intro y _; rotate_left)
    | (extract_lets +onlyGivenNames x; subst x)
    | dsimp -zeta only [id]
    | split

theorem coreEnd_keeps {s0 : State} : ∀ k len c o, KeepsOut s0 o → Keeps s0 (coreEnd k len c o) := by
  intro k len c o h
  cases o with
  | go s => exact modCore_keeps _ _ _ h
  | jump s => exact h
  | exc code sub addr s => exact coreRaise_keeps _ _ _ _ _ _ h

theorem coreBody_keeps {s0 : State} : ∀ a0 a1 a2 a3 a4 f5 s6, (∀ x0 t1, Keeps s0 t1 → KeepsOut s0 (f5 x0 t1)) → Keeps s0 s6 → Keeps s0 (coreBody a0 a1 a2 a3 a4 f5 s6) := by
  intro k len vec p c f s h0 h1
  unfold coreBody
  split
  · exact modCore_keeps _ _ _ h1
  · exact coreEnd_keeps _ _ _ _ (h0 _ _ h1)

theorem coreExec_keeps {s0 : State} : ∀ a0 a1 a2 a3 a4 a5 f6 s7 a8, (∀ x0 t1, Keeps s0 t1 → KeepsOut s0 (f6 x0 t1)) → Keeps s0 s7 → Keeps s0 (coreExec a0 a1 a2 a3 a4 a5 f6 s7 a8) := by
  intro a0 a1 a2 a3 a4 a5 f6 s7 a8 h0 h
  unfold coreExec
  repeat' first
    | with_reducible first | assumption | intro _ | apply keepsOut_go | apply keepsOut_jump | apply keepsOut_exc | apply h0 | apply runCut_keeps | apply cutAfter_keeps | apply coreWords_keeps | apply coreBody_keeps | apply keeps_foldl | apply keeps_upto | apply keeps_each
    | dsimp only
    | split

theorem scalar_keeps {s0 : State} : ∀ a0 s1 a2 a3, Keeps s0 s1 → Keeps s0 (scalar a0 s1 a2 a3) :=
  fun _ _ _ _ h => ⟨h.mem, h.pending, h.now, h.svn, h.prov, h.decom⟩

theorem coreAccess_keeps {s0 : State} : ∀ s9 a1 a2 a3 a4 f5, Keeps s0 s9 → (∀ t0, Keeps s0 t0 → KeepsOut s0 (f5 t0)) → KeepsOut s0 (coreAccess s9 a1 a2 a3 a4 f5) := by
  intro s9 a1 a2 a3 a4 f5 h h1
  unfold coreAccess
  repeat' first
    | with_reducible first | assumption | apply keepsOut_go | apply keepsOut_jump | apply keepsOut_exc | apply h1 | apply violate_keeps | apply eccRead_keeps | refine eccRead_keeps' (by assumption) ?_
    | dsimp only
    | split

theorem coreStore_keeps {s0 : State} : ∀ s9 a1 a2, Keeps s0 s9 → Keeps s0 (coreStore s9 a1 a2) := by
  intro s9 a1 a2 h
  unfold coreStore
  repeat' first
    | with_reducible first | assumption | intro _ | apply wrBytes_keeps | apply markDirty_keeps | apply cow_keeps | apply pokeBytes_keeps | apply keeps_foldl | apply keeps_upto | apply keeps_each
    | dsimp only
    | split

theorem copyLines_keeps {s0 : State} : ∀ a0 a1 a2 s3, Keeps s0 s3 → Keeps s0 (copyLines a0 a1 a2 s3).1 := by
  intro src dst n
  induction n generalizing src dst with
  | zero => intro s h; unfold copyLines; exact h
  | succ n ih =>
    intro s h
    have g := dmaAccess_keeps s 0x0C engineTag false src 64 h
    unfold copyLines
    dsimp only
    split
    · exact g
    · exact ih _ _ _ (wrBytes_keeps _ _ _ g)

theorem copyLines_keeps' {s0 t : State} {r} {a0 a1 a2 s3} (e : copyLines a0 a1 a2 s3 = (t, r)) (h : Keeps s0 s3) : Keeps s0 t :=
  by have := copyLines_keeps a0 a1 a2 s3 h; rw [e] at this; exact this

theorem cutDue_keeps {s0 : State} : ∀ s9, Keeps s0 s9 → Keeps s0 (cutDue s9) := by
  intro s9 h
  unfold cutDue
  repeat' first
    | with_reducible first | assumption | intro _ | apply runCut_keeps | apply keeps_foldl | apply keeps_upto | apply keeps_each
    | (extract_lets +onlyGivenNames x; refine Keeps.cut (s0 := s0) (x := x) ?_ (fun _ => ?_); unfold x; clear x; rotate_left; clear_value x; revert x; intro y _; rotate_left)
    | (extract_lets +onlyGivenNames x; subst x)
    | dsimp -zeta only [id]
    | split

theorem loadErr_keeps {s0 : State} : ∀ s9 a1, Keeps s0 s9 → Keeps s0 (loadErr s9 a1) :=
  fun _ _ h => ⟨h.mem, h.pending, h.now, h.svn, h.prov, h.decom⟩

theorem execPcxLoad_keeps {s0 : State} : ∀ a0 s1, Keeps s0 s1 → KeepsEnd s0 (execPcxLoad a0 s1) := by
  intro a0 s1 h
  unfold execPcxLoad
  refine keepsEnd_next ?_
  repeat' first
    | with_reducible first | assumption | apply loadErr_keeps | apply busError_keeps
    | dsimp only
    | split

theorem execCoreExcClear_keeps {s0 : State} : ∀ a0 a1 s2, Keeps s0 s2 → KeepsEnd s0 (execCoreExcClear a0 a1 s2) := by
  intro a0 a1 s2 h
  unfold execCoreExcClear
  refine keepsEnd_next ?_
  repeat' first
    | with_reducible first | assumption | intro _ | apply regAccess_keeps | apply setLive_keeps | apply keeps_foldl | apply keeps_upto | apply keeps_each
    | dsimp only
    | split

theorem startRun_keeps {s0 : State} : ∀ s9 a1 a2 a3 a4, Keeps s0 s9 → Keeps s0 (startRun s9 a1 a2 a3 a4) := by
  intro s9 a1 a2 a3 a4 h
  unfold startRun
  repeat' first
    | with_reducible first | assumption | apply actOut_keeps | apply bump_keeps | apply setLive_keeps | apply setTask_keeps | apply setCore_keeps
    | dsimp only
    | split

theorem execTaskDispatch_keeps {s0 : State} : ∀ a0 s1, Keeps s0 s1 → KeepsEnd s0 (execTaskDispatch a0 s1) := by
  intro a0 s1 h
  unfold execTaskDispatch
  refine keepsEnd_next ?_
  repeat' first
    | with_reducible first | assumption | apply actCheck_keeps | apply cutDue_keeps | apply startRun_keeps
    | dsimp only
    | split

theorem execOpfRefusal_keeps {s0 : State} : ∀ a0 s1, Keeps s0 s1 → KeepsEnd s0 (execOpfRefusal a0 s1) := by
  intro a0 s1 h
  unfold execOpfRefusal
  refine keepsEnd_next ?_
  repeat' first
    | with_reducible first | assumption | apply takeExc_keeps | apply modCore_keeps | apply runOver_keeps | apply setTask_keeps
    | dsimp only
    | split

theorem execDeadlineExpiry_keeps {s0 : State} : ∀ a0 s1, Keeps s0 s1 → KeepsEnd s0 (execDeadlineExpiry a0 s1) := by
  intro a0 s1 h
  unfold execDeadlineExpiry
  refine keepsEnd_next ?_
  repeat' first
    | with_reducible first | assumption | apply cutDue_keeps | apply reach_keeps | apply takeExc_keeps | apply modCore_keeps | apply taskMissed_keeps | apply unpend_keeps | apply actOut_keeps | apply actCheck_keeps
    | dsimp only
    | split

theorem execPcxLoadDone_keeps {s0 : State} : ∀ s9, Keeps s0 s9 → KeepsEnd s0 (execPcxLoadDone s9) := by
  intro s9 h
  unfold execPcxLoadDone
  refine keepsEnd_next ?_
  repeat' first
    | with_reducible first | assumption | apply reach_keeps | apply copyLines_keeps | refine copyLines_keeps' (by assumption) ?_ | apply setEvt_keeps | apply loadErr_keeps
    | dsimp only
    | split

theorem retire_keeps {s0 : State} : ∀ s9 a1, Keeps s0 s9 → Keeps s0 (retire s9 a1) := by
  intro s9 a1 h
  unfold retire
  repeat' first
    | with_reducible first | assumption | apply setCore_keeps | apply setLive_keeps | apply runOver_keeps | apply setTask_keeps
    | dsimp only
    | split

end Sys2Proof.Machine
end

