-- ==== Sys2Proof/Laws/KeepsTsk.lean ====
section
/-! SUPPORT. What the functions of Machine/Tsk.lean keep. -/

namespace Sys2Proof.Machine

theorem modPart_keeps {s0 : State} : ∀ s9 a1 a2, Keeps s0 s9 → Keeps s0 (modPart s9 a1 a2) :=
  fun _ _ _ h => ⟨h.mem, h.pending, h.now, h.svn, h.prov, h.decom⟩

theorem abandon_keeps {s0 : State} : ∀ s9 a1 a2, Keeps s0 s9 → Keeps s0 (abandon s9 a1 a2) := by
  intro s9 a1 a2 h
  unfold abandon
  repeat' first
    | with_reducible first | assumption | apply modPart_keeps | apply setEvt_keeps | apply hnqPost_keeps | apply almPost_keeps
    | dsimp only
    | split

theorem newTasks_keeps {s0 : State} : ∀ s9 a1 a2 a3, Keeps s0 s9 → Keeps s0 (newTasks s9 a1 a2 a3) := by
  intro s9 a1 a2 a3 h
  unfold newTasks
  repeat' first
    | with_reducible first | assumption | intro _ | apply actOut_keeps | apply setTask_keeps | apply keeps_foldl | apply keeps_upto | apply keeps_each
    | dsimp only
    | split

theorem flipBanks_keeps {s0 : State} : ∀ s9 a1, Keeps s0 s9 → Keeps s0 (flipBanks s9 a1) := by
  intro s9 a1 h
  unfold flipBanks
  repeat' first
    | with_reducible first | assumption | intro _ | apply modCore_keeps | apply keeps_foldl | apply keeps_upto | apply keeps_each
    | dsimp only
    | split

theorem holdAll_keeps {s0 : State} : ∀ s9 a1 a2, Keeps s0 s9 → Keeps s0 (holdAll s9 a1 a2) := by
  intro s9 a1 a2 h
  unfold holdAll
  repeat' first
    | with_reducible first | assumption | intro _ | apply setTask_keeps | apply keeps_foldl | apply keeps_upto | apply keeps_each
    | dsimp only
    | split

theorem setForceSt_keeps {s0 : State} : ∀ s9 a1 a2 a3, Keeps s0 s9 → Keeps s0 (setForceSt s9 a1 a2 a3) :=
  fun _ _ _ _ h => ⟨h.mem, h.pending, h.now, h.svn, h.prov, h.decom⟩

theorem forceRemove_keeps {s0 : State} : ∀ s9 a1 a2, Keeps s0 s9 → Keeps s0 (forceRemove s9 a1 a2) := by
  intro s9 a1 a2 h
  unfold forceRemove
  repeat' first
    | with_reducible first | assumption | apply setShadow_keeps | apply setForce_keeps | apply setForceSt_keeps | apply flagForce_keeps
    | dsimp only
    | split

theorem forceGuard_keeps {s0 : State} : ∀ s9 a1 a2, Keeps s0 s9 → Keeps s0 (forceGuard s9 a1 a2) := by
  intro s9 a1 a2 h
  unfold forceGuard
  repeat' first
    | with_reducible first | assumption | apply setEvt_keeps | apply forceRemove_keeps | apply guardFault_keeps | apply hnqPost_keeps | apply almPost_keeps
    | dsimp only
    | split

theorem forceResolve_keeps {s0 : State} : ∀ s9 a1 a2, Keeps s0 s9 → Keeps s0 (forceResolve s9 a1 a2) := by
  intro s9 a1 a2 h
  unfold forceResolve
  repeat' first
    | with_reducible first | assumption | apply forceGuard_keeps | apply setForceSt_keeps | apply setEvt_keeps | apply hnqPost_keeps | apply almPost_keeps | apply flagForce_keeps
    | dsimp only
    | split

theorem forcesMeridian_keeps {s0 : State} : ∀ s9 a1, Keeps s0 s9 → Keeps s0 (forcesMeridian s9 a1) := by
  intro s9 a1 h
  unfold forcesMeridian
  repeat' first
    | with_reducible first | assumption | intro _ | apply setForceSt_keeps | apply flagForce_keeps | apply forceResolve_keeps | apply keeps_foldl | apply keeps_upto | apply keeps_each
    | dsimp only
    | split

theorem attemptOver_keeps {s0 : State} : ∀ s9 a1, Keeps s0 s9 → Keeps s0 (attemptOver s9 a1) := by
  intro s9 a1 h
  unfold attemptOver
  repeat' first
    | with_reducible first | assumption | apply holdAll_keeps | apply forcesMeridian_keeps
    | dsimp only
    | split

theorem tskMove_keeps {s0 : State} : ∀ s9 a1 a2 a3 a4, Keeps s0 s9 → Keeps s0 (tskMove s9 a1 a2 a3 a4) := by
  intro s9 a1 a2 a3 a4 h
  unfold tskMove
  repeat' first
    | with_reducible first | assumption | intro _ | apply dmaRead_keeps | refine dmaRead_keeps' (by assumption) ?_ | apply dmaWrite_keeps | apply keeps_foldl | apply keeps_upto | apply keeps_each
    | (extract_lets +onlyGivenNames x; refine Keeps.cut (s0 := s0) (x := x) ?_ (fun _ => ?_); unfold x; clear x; rotate_left; clear_value x; revert x; intro y _; rotate_left)
    | (extract_lets +onlyGivenNames x; subst x)
    | dsimp -zeta only [id]
    | split

theorem carryEntry_keeps {s0 : State} : ∀ s9 a1 a2 a3, Keeps s0 s9 → Keeps s0 (carryEntry s9 a1 a2 a3) := by
  intro s9 a1 a2 a3 h
  unfold carryEntry
  repeat' first
    | with_reducible first | assumption | apply dmaRead_keeps | refine dmaRead_keeps' (by assumption) ?_ | apply dmaWrite_keeps | apply tskMove_keeps
    | dsimp only
    | split

theorem cmdErr_keeps {s0 : State} : ∀ s9 a1 a2, Keeps s0 s9 → Keeps s0 (cmdErr s9 a1 a2) :=
  fun _ _ _ h => ⟨h.mem, h.pending, h.now, h.svn, h.prov, h.decom⟩

theorem copyCode_keeps {s0 : State} : ∀ s9 a1 a2, Keeps s0 s9 → Keeps s0 (copyCode s9 a1 a2).1 := by
  intro s segs pay h
  unfold copyCode
  refine keeps_foldl_of (fun acc : State × Nat => Keeps s0 acc.1) _ (fun acc x h => ?_) _ _ h
  dsimp only
  split
  · exact h
  · split
    · exact h
    · exact copyLines_keeps _ _ _ _ h

theorem copyCode_keeps' {s0 t : State} {r} {s9 a1 a2} (e : copyCode s9 a1 a2 = (t, r)) (h : Keeps s0 s9) : Keeps s0 t :=
  by have := copyCode_keeps s9 a1 a2 h; rw [e] at this; exact this

theorem cyclicMeridian_keeps {s0 : State} : ∀ s9, Keeps s0 s9 → Keeps s0 (cyclicMeridian s9) := by
  intro s9 h
  unfold cyclicMeridian
  repeat' first
    | with_reducible first | assumption | intro _ | apply activate_keeps | apply keeps_foldl | apply keeps_upto | apply keeps_each
    | dsimp only
    | split

theorem plinthCapture_keeps {s0 : State} : ∀ s9, Keeps s0 s9 → Keeps s0 (plinthCapture s9) := by
  intro s9 h
  unfold plinthCapture
  repeat' first
    | with_reducible first | assumption
    | dsimp only
    | split

theorem laneResume_keeps {s0 : State} : ∀ s9 a1, Keeps s0 s9 → Keeps s0 (laneResume s9 a1) := by
  intro s9 a1 h
  unfold laneResume
  repeat' first
    | with_reducible first | assumption | apply lanesUpdate_keeps | apply modPart_keeps
    | dsimp only
    | split

theorem restartStep1_keeps {s0 : State} : ∀ s9 a1, Keeps s0 s9 → Keeps s0 (restartStep1 s9 a1) := by
  intro s9 a1 h
  unfold restartStep1
  repeat' first
    | with_reducible first | assumption | intro _ | apply runCut_keeps | apply unpend_keeps | apply actOut_keeps | apply lanesUpdate_keeps | apply flagSet_keeps | apply keeps_foldl | apply keeps_upto | apply keeps_each
    | dsimp only
    | split

theorem restartMeridian_keeps {s0 : State} : ∀ s9 a1, Keeps s0 s9 → Keeps s0 (restartMeridian s9 a1) := by
  intro s9 a1 h
  unfold restartMeridian
  repeat' first
    | with_reducible first | assumption | apply modPart_keeps | apply restartStep1_keeps
    | dsimp only
    | split

theorem switchAttempt_keeps {s0 : State} : ∀ s9 a1, Keeps s0 s9 → Keeps s0 (switchAttempt s9 a1) := by
  intro s9 a1 h
  unfold switchAttempt
  repeat' first
    | with_reducible first | assumption | apply abandon_keeps | apply holdAll_keeps | apply modPart_keeps
    | dsimp only
    | split

theorem plinthRead_keeps {s0 : State} : ∀ s9 a1, Keeps s0 s9 → Keeps s0 (plinthRead s9 a1) := by
  intro s9 a1 h
  unfold plinthRead
  repeat' first
    | with_reducible first | assumption | intro _ | apply dmaRead_keeps | refine dmaRead_keeps' (by assumption) ?_ | apply guardFault_keeps | apply keeps_foldl | apply keeps_upto | apply keeps_each
    | (extract_lets +onlyGivenNames x; refine Keeps.cut (s0 := s0) (x := x) ?_ (fun _ => ?_); unfold x; clear x; rotate_left; clear_value x; revert x; intro y _; rotate_left)
    | (extract_lets +onlyGivenNames x; subst x)
    | dsimp -zeta only [id]
    | split

theorem plinthLine_keeps {s0 : State} : ∀ s9, Keeps s0 s9 → Keeps s0 (plinthLine s9) := by
  intro s9 h
  unfold plinthLine
  repeat' first
    | with_reducible first | assumption | apply plinthRead_keeps | apply dmaWrite_keeps
    | dsimp only
    | split

theorem pCtrl_keeps {s0 : State} : ∀ a0 a1 a2 f3 s4, (∀ t0, Keeps s0 t0 → Keeps s0 (f3 t0)) → Keeps s0 s4 → Keeps s0 (pCtrl a0 a1 a2 f3 s4) := by
  intro a0 a1 a2 f3 s4 h0 h
  unfold pCtrl
  repeat' first
    | with_reducible first | assumption | intro _ | apply h0 | apply regAccess_keeps | apply modPart_keeps | apply cmdErr_keeps | apply keeps_foldl | apply keeps_upto | apply keeps_each
    | dsimp only
    | split

theorem imgCheck_keeps {s0 : State} : ∀ s9 a1 a2, Keeps s0 s9 → Keeps s0 (imgCheck s9 a1 a2).1 := by
  intro s9 a1 a2 h
  unfold imgCheck
  repeat' first
    | with_reducible first | assumption | intro _ | apply dmaAccess_keeps | refine dmaAccess_keeps' (by assumption) ?_ | apply keeps_foldl | apply keeps_upto | apply keeps_each
    | (extract_lets +onlyGivenNames x; refine Keeps.cut (s0 := s0) (x := x) ?_ (fun _ => ?_); unfold x; clear x; rotate_left; clear_value x; revert x; intro y _; rotate_left)
    | (extract_lets +onlyGivenNames x; subst x)
    | dsimp -zeta only [id]
    | split

theorem imgCheck_keeps' {s0 t : State} {r} {s9 a1 a2} (e : imgCheck s9 a1 a2 = (t, r)) (h : Keeps s0 s9) : Keeps s0 t :=
  by have := imgCheck_keeps s9 a1 a2 h; rw [e] at this; exact this

theorem execLoad_keeps {s0 : State} : ∀ a0 a1 s2, Keeps s0 s2 → KeepsEnd s0 (execLoad a0 a1 s2) := by
  intro a0 a1 s2 h
  unfold execLoad
  refine keepsEnd_next ?_
  repeat' first
    | with_reducible first | assumption | intro _ | apply pCtrl_keeps | apply imgCheck_keeps | refine imgCheck_keeps' (by assumption) ?_ | apply cmdErr_keeps | apply modPart_keeps | apply keeps_foldl | apply keeps_upto | apply keeps_each
    | dsimp only
    | split

theorem execPrepare_keeps {s0 : State} : ∀ a0 a1 s2, Keeps s0 s2 → KeepsEnd s0 (execPrepare a0 a1 s2) := by
  intro a0 a1 s2 h
  unfold execPrepare
  refine keepsEnd_next ?_
  repeat' first
    | with_reducible first | assumption | intro _ | apply pCtrl_keeps | apply modPart_keeps | apply keeps_foldl | apply keeps_upto | apply keeps_each
    | dsimp only
    | split

theorem execSwitch_keeps {s0 : State} : ∀ a0 a1 s2, Keeps s0 s2 → KeepsEnd s0 (execSwitch a0 a1 s2) := by
  intro a0 a1 s2 h
  unfold execSwitch
  refine keepsEnd_next ?_
  repeat' first
    | with_reducible first | assumption | intro _ | apply pCtrl_keeps | apply modPart_keeps | apply keeps_foldl | apply keeps_upto | apply keeps_each
    | dsimp only
    | split

theorem execDiscard_keeps {s0 : State} : ∀ a0 a1 s2, Keeps s0 s2 → KeepsEnd s0 (execDiscard a0 a1 s2) := by
  intro a0 a1 s2 h
  unfold execDiscard
  refine keepsEnd_next ?_
  repeat' first
    | with_reducible first | assumption | intro _ | apply pCtrl_keeps | apply modPart_keeps | apply keeps_foldl | apply keeps_upto | apply keeps_each
    | dsimp only
    | split

theorem installProg_keeps {s0 : State} : ∀ s9 a1 a2, Keeps s0 s9 → Keeps s0 (installProg s9 a1 a2) := by
  intro s9 a1 a2 h
  unfold installProg
  repeat' first
    | with_reducible first | assumption | apply newTasks_keeps | apply flipBanks_keeps | apply modPart_keeps
    | dsimp only
    | split

theorem execInstall_keeps {s0 : State} : ∀ a0 a1 s2, Keeps s0 s2 → KeepsEnd s0 (execInstall a0 a1 s2) := by
  intro a0 a1 s2 h
  unfold execInstall
  refine keepsEnd_next ?_
  repeat' first
    | with_reducible first | assumption | intro _ | apply pCtrl_keeps | apply imgCheck_keeps | refine imgCheck_keeps' (by assumption) ?_ | apply cmdErr_keeps | apply installProg_keeps | apply keeps_foldl | apply keeps_upto | apply keeps_each
    | dsimp only
    | split

theorem startOp_keeps {s0 : State} : ∀ a0 a1 a2 s3, Keeps s0 s3 → Keeps s0 (startOp a0 a1 a2 s3) := by
  intro a0 a1 a2 s3 h
  unfold startOp
  repeat' first
    | with_reducible first | assumption | intro _ | apply pCtrl_keeps | apply modPart_keeps | apply attemptOver_keeps | apply keeps_foldl | apply keeps_upto | apply keeps_each
    | dsimp only
    | split

theorem execStartWarm_keeps {s0 : State} : ∀ a0 a1 s2, Keeps s0 s2 → KeepsEnd s0 (execStartWarm a0 a1 s2) := by
  intro a0 a1 s2 h
  unfold execStartWarm
  refine keepsEnd_next ?_
  repeat' first
    | with_reducible first | assumption | apply startOp_keeps
    | dsimp only
    | split

theorem execStartCold_keeps {s0 : State} : ∀ a0 a1 s2, Keeps s0 s2 → KeepsEnd s0 (execStartCold a0 a1 s2) := by
  intro a0 a1 s2 h
  unfold execStartCold
  refine keepsEnd_next ?_
  repeat' first
    | with_reducible first | assumption | apply startOp_keeps
    | dsimp only
    | split

theorem execTskStop_keeps {s0 : State} : ∀ a0 a1 s2, Keeps s0 s2 → KeepsEnd s0 (execTskStop a0 a1 s2) := by
  intro a0 a1 s2 h
  unfold execTskStop
  refine keepsEnd_next ?_
  repeat' first
    | with_reducible first | assumption | apply startOp_keeps
    | dsimp only
    | split

theorem releaseTasks_keeps {s0 : State} : ∀ s9 a1 a2 a3, Keeps s0 s9 → Keeps s0 (releaseTasks s9 a1 a2 a3) := by
  intro s9 a1 a2 a3 h
  unfold releaseTasks
  repeat' first
    | with_reducible first | assumption | intro _ | apply activate_keeps | apply keeps_foldl | apply keeps_upto | apply keeps_each
    | dsimp only
    | split

theorem loadDone_keeps {s0 : State} : ∀ s9 a1, Keeps s0 s9 → Keeps s0 (loadDone s9 a1) := by
  intro s9 a1 h
  unfold loadDone
  repeat' first
    | with_reducible first | assumption | apply copyCode_keeps | refine copyCode_keeps' (by assumption) ?_ | apply modPart_keeps | apply cmdErr_keeps
    | dsimp only
    | split

theorem initSeg_keeps {s0 : State} : ∀ s9 a1 a2 a3, Keeps s0 s9 → Keeps s0 (initSeg s9 a1 a2 a3) := by
  intro s9 a1 a2 a3 h
  unfold initSeg
  repeat' first
    | with_reducible first | assumption | apply dmaCopy_keeps
    | dsimp only
    | split

theorem execPrepareDone_keeps {s0 : State} : ∀ a0 s1, Keeps s0 s1 → KeepsEnd s0 (execPrepareDone a0 s1) := by
  intro a0 s1 h
  unfold execPrepareDone
  refine keepsEnd_next ?_
  repeat' first
    | with_reducible first | assumption | intro _ | apply initSeg_keeps | apply carryEntry_keeps | apply setEvt_keeps | apply modPart_keeps | apply keeps_foldl | apply keeps_upto | apply keeps_each
    | dsimp only
    | split

theorem plinthRewrite_keeps {s0 : State} : ∀ s9 a1 a2, Keeps s0 s9 → Keeps s0 (plinthRewrite s9 a1 a2) := by
  intro s9 a1 a2 h
  unfold plinthRewrite
  repeat' first
    | with_reducible first | assumption | intro _ | apply plinthRead_keeps | apply tskMove_keeps | apply dmaWrite_keeps | apply keeps_foldl | apply keeps_upto | apply keeps_each
    | dsimp only
    | split

theorem plinthRestore_keeps {s0 : State} : ∀ s9 a1 a2, Keeps s0 s9 → Keeps s0 (plinthRestore s9 a1 a2) := by
  intro s9 a1 a2 h
  unfold plinthRestore
  repeat' first
    | with_reducible first | assumption | intro _ | apply plinthRead_keeps | apply tskMove_keeps | apply setEvt_keeps | apply hnqPost_keeps | apply almPost_keeps | apply plinthRewrite_keeps | apply keeps_foldl | apply keeps_upto | apply keeps_each
    | dsimp only
    | split

theorem restartDone_keeps {s0 : State} : ∀ s9 a1, Keeps s0 s9 → Keeps s0 (restartDone s9 a1) := by
  intro s9 a1 h
  unfold restartDone
  repeat' first
    | with_reducible first | assumption | intro _ | apply initSeg_keeps | apply plinthRestore_keeps | apply dmaWrite_keeps | apply setTask_keeps | apply modPart_keeps | apply forcesMeridian_keeps | apply plinthRewrite_keeps | apply setEvt_keeps | apply hnqPost_keeps | apply almPost_keeps | apply keeps_foldl | apply keeps_upto | apply keeps_each
    | dsimp only
    | split

theorem restartStopped_keeps {s0 : State} : ∀ s9 a1, Keeps s0 s9 → Keeps s0 (restartStopped s9 a1) := by
  intro s9 a1 h
  unfold restartStopped
  repeat' first
    | with_reducible first | assumption | apply restartMeridian_keeps | apply reach_keeps
    | dsimp only
    | split

theorem execRestartDone_keeps {s0 : State} : ∀ a0 s1, Keeps s0 s1 → KeepsEnd s0 (execRestartDone a0 s1) := by
  intro a0 s1 h
  unfold execRestartDone
  refine keepsEnd_next ?_
  repeat' first
    | with_reducible first | assumption | apply restartDone_keeps | apply restartStopped_keeps
    | dsimp only
    | split

theorem execPlinthLineWrite_keeps {s0 : State} : ∀ s9, Keeps s0 s9 → KeepsEnd s0 (execPlinthLineWrite s9) := by
  intro s9 h
  unfold execPlinthLineWrite
  refine keepsEnd_next ?_
  repeat' first
    | with_reducible first | assumption | apply plinthLine_keeps
    | dsimp only
    | split

theorem switchStopped_keeps {s0 : State} : ∀ s9 a1, Keeps s0 s9 → Keeps s0 (switchStopped s9 a1) := by
  intro s9 a1 h
  unfold switchStopped
  repeat' first
    | with_reducible first | assumption | apply switchAttempt_keeps | apply reach_keeps
    | dsimp only
    | split

theorem setCarry_keeps {s0 : State} : ∀ s9 a1 a2 a3, Keeps s0 s9 → Keeps s0 (setCarry s9 a1 a2 a3) :=
  fun _ _ _ _ h => ⟨h.mem, h.pending, h.now, h.svn, h.prov, h.decom⟩

theorem recarry_keeps {s0 : State} : ∀ s9 a1 a2 a3 a4, Keeps s0 s9 → Keeps s0 (recarry s9 a1 a2 a3 a4) := by
  intro s9 a1 a2 a3 a4 h
  unfold recarry
  repeat' first
    | with_reducible first | assumption | intro _ | apply carryEntry_keeps | apply keeps_foldl | apply keeps_upto | apply keeps_each
    | dsimp only
    | split

theorem forcesSwitch_keeps {s0 : State} : ∀ s9 a1 a2 a3, Keeps s0 s9 → Keeps s0 (forcesSwitch s9 a1 a2 a3).1 := by
  intro s p old new h
  unfold forcesSwitch
  refine keeps_foldl_of (fun acc : State × Nat => Keeps s0 acc.1) _ (fun acc x h => ?_) _ _ h
  dsimp only
  repeat' first
    | with_reducible assumption
    | with_reducible apply hnqPost_keeps
    | with_reducible apply almPost_keeps
    | with_reducible apply setEvt_keeps
    | with_reducible apply forceRemove_keeps
    | split

theorem forcesSwitch_keeps' {s0 t : State} {r} {s9 a1 a2 a3} (e : forcesSwitch s9 a1 a2 a3 = (t, r)) (h : Keeps s0 s9) : Keeps s0 t :=
  by have := forcesSwitch_keeps s9 a1 a2 a3 h; rw [e] at this; exact this

theorem switchDone_keeps {s0 : State} : ∀ s9 a1 a2 a3, Keeps s0 s9 → Keeps s0 (switchDone s9 a1 a2 a3) := by
  intro s9 a1 a2 a3 h
  unfold switchDone
  repeat' first
    | with_reducible first | assumption | apply newTasks_keeps | apply flipBanks_keeps | apply modPart_keeps | apply plinthRewrite_keeps | apply setEvt_keeps | apply almPost_keeps | apply hnqPost_keeps | apply forcesSwitch_keeps | refine forcesSwitch_keeps' (by assumption) ?_ | apply setLive_keeps
    | dsimp only
    | split

theorem execRecarryDone_keeps {s0 : State} : ∀ a0 s1, Keeps s0 s1 → KeepsEnd s0 (execRecarryDone a0 s1) := by
  intro a0 s1 h
  unfold execRecarryDone
  refine keepsEnd_next ?_
  repeat' first
    | with_reducible first | assumption | apply switchStopped_keeps | apply reach_keeps | apply setCarry_keeps | apply recarry_keeps | apply attemptOver_keeps | apply switchDone_keeps
    | dsimp only
    | split

theorem execSwitchAttemptFail_keeps {s0 : State} : ∀ a0 s1, Keeps s0 s1 → KeepsEnd s0 (execSwitchAttemptFail a0 s1) := by
  intro a0 s1 h
  unfold execSwitchAttemptFail
  refine keepsEnd_next ?_
  repeat' first
    | with_reducible first | assumption | apply reach_keeps | apply setCarry_keeps | apply recarry_keeps | apply modPart_keeps | apply hnqPost_keeps | apply setEvt_keeps | apply abandon_keeps | apply attemptOver_keeps
    | dsimp only
    | split

theorem execForceApply_keeps {s0 : State} : ∀ a0 s1, Keeps s0 s1 → KeepsEnd s0 (execForceApply a0 s1) := by
  intro a0 s1 h
  unfold execForceApply
  refine keepsEnd_next ?_
  repeat' first
    | with_reducible first | assumption | intro _ | apply forceGuard_keeps | apply dmaWrite_keeps | apply keeps_foldl | apply keeps_upto | apply keeps_each
    | dsimp only
    | split

end Sys2Proof.Machine
end

