-- ==== Sys2Proof/Laws/KeepsMir.lean ====
section
/-! SUPPORT. What the functions of Machine/Mir.lean keep. -/

namespace Sys2Proof.Machine

theorem mirCount_keeps {s0 : State} : ∀ s9 a1, Keeps s0 s9 → Keeps s0 (mirCount s9 a1) :=
  fun _ _ h => ⟨h.mem, h.pending, h.now, h.svn, h.prov, h.decom⟩

theorem modMir_keeps {s0 : State} : ∀ s9 a1, Keeps s0 s9 → Keeps s0 (modMir s9 a1) :=
  fun _ _ h => ⟨h.mem, h.pending, h.now, h.svn, h.prov, h.decom⟩

theorem mastership_keeps {s0 : State} : ∀ s9, Keeps s0 s9 → Keeps s0 (mastership s9) := by
  intro s9 h
  unfold mastership
  repeat' first
    | with_reducible first | assumption | apply pulseHold_keeps | apply lanesUpdate_keeps
    | dsimp only
    | split

theorem pubTakeover_keeps {s0 : State} : ∀ s9 a1, Keeps s0 s9 → Keeps s0 (pubTakeover s9 a1) := by
  intro s9 a1 h
  unfold pubTakeover
  repeat' first
    | with_reducible first | assumption | apply memberVals_keeps | refine memberVals_keeps' (by assumption) ?_ | apply setPub_keeps | apply gpEvent_keeps | apply gpSend_keeps
    | dsimp only
    | split

theorem becomeMaster_keeps {s0 : State} : ∀ s9, Keeps s0 s9 → Keeps s0 (becomeMaster s9) := by
  intro s9 h
  unfold becomeMaster
  repeat' first
    | with_reducible first | assumption | intro _ | apply mastership_keeps | apply modMir_keeps | apply pubTakeover_keeps | apply keeps_foldl | apply keeps_upto | apply keeps_each
    | dsimp only
    | split

theorem sendPacket_keeps {s0 : State} : ∀ s9 a1 a2 a3 a4 a5 a6, Keeps s0 s9 → Keeps s0 (sendPacket s9 a1 a2 a3 a4 a5 a6) :=
  fun _ _ _ _ _ _ _ h => ⟨h.mem, h.pending, h.now, h.svn, h.prov, h.decom⟩

theorem behindPacket_keeps {s0 : State} : ∀ s9 a1, Keeps s0 s9 → Keeps s0 (behindPacket s9 a1) :=
  fun _ _ h => ⟨h.mem, h.pending, h.now, h.svn, h.prov, h.decom⟩

theorem mirNote_keeps {s0 : State} : ∀ s9 a1 a2 a3 a4 a5 a6, Keeps s0 s9 → Keeps s0 (mirNote s9 a1 a2 a3 a4 a5 a6) := by
  intro s9 a1 a2 a3 a4 a5 a6 h
  unfold mirNote
  repeat' first
    | with_reducible first | assumption | apply setEvt_keeps | apply almPost_keeps | apply notifyAll_keeps
    | dsimp only
    | split

theorem capCheck_keeps {s0 : State} : ∀ s9, Keeps s0 s9 → Keeps s0 (capCheck s9).1 := by
  intro s9 h
  unfold capCheck
  repeat' first
    | with_reducible first | assumption | apply mirNote_keeps | apply ptrSum_keeps | apply modMir_keeps
    | dsimp only
    | split

theorem capCheck_keeps' {s0 t : State} {r} {s9} (e : capCheck s9 = (t, r)) (h : Keeps s0 s9) : Keeps s0 t :=
  by have := capCheck_keeps s9 h; rw [e] at this; exact this

theorem readyUpdate_keeps {s0 : State} : ∀ s9, Keeps s0 s9 → Keeps s0 (readyUpdate s9) := by
  intro s9 h
  unfold readyUpdate
  repeat' first
    | with_reducible first | assumption | apply mirNote_keeps | apply modMir_keeps
    | dsimp only
    | split

theorem sendWord_keeps {s0 : State} : ∀ s9 a1, Keeps s0 s9 → Keeps s0 (sendWord s9 a1) :=
  fun _ _ h => ⟨h.mem, h.pending, h.now, h.svn, h.prov, h.decom⟩

theorem sendNow_keeps {s0 : State} : ∀ s9 a1 a2, Keeps s0 s9 → Keeps s0 (sendNow s9 a1 a2) := by
  intro s9 a1 a2 h
  unfold sendNow
  repeat' first
    | with_reducible first | assumption | apply sendWord_keeps
    | dsimp only
    | split

theorem claimNote_keeps {s0 : State} : ∀ s9 a1 a2, Keeps s0 s9 → Keeps s0 (claimNote s9 a1 a2) := by
  intro s9 a1 a2 h
  unfold claimNote
  repeat' first
    | with_reducible first | assumption | apply mirNote_keeps
    | dsimp only
    | split

theorem claim_keeps {s0 : State} : ∀ s9 a1, Keeps s0 s9 → Keeps s0 (claim s9 a1) := by
  intro s9 a1 h
  unfold claim
  repeat' first
    | with_reducible first | assumption | intro _ | apply modMir_keeps | apply readyUpdate_keeps | apply sendNow_keeps | apply modPart_keeps | apply claimNote_keeps | apply becomeMaster_keeps | apply keeps_foldl | apply keeps_upto | apply keeps_each
    | dsimp only
    | split

theorem dropPending_keeps {s0 : State} : ∀ s9, Keeps s0 s9 → Keeps s0 (dropPending s9) := by
  intro s9 h
  unfold dropPending
  repeat' first
    | with_reducible first | assumption | intro _ | apply unpend_keeps | apply actOut_keeps | apply keeps_foldl | apply keeps_upto | apply keeps_each
    | dsimp only
    | split

theorem enterStandby_keeps {s0 : State} : ∀ s9, Keeps s0 s9 → Keeps s0 (enterStandby s9) := by
  intro s9 h
  unfold enterStandby
  repeat' first
    | with_reducible first | assumption | apply modMir_keeps | apply dropPending_keeps | apply mastership_keeps | apply readyUpdate_keeps
    | dsimp only
    | split

theorem mirTick_keeps {s0 : State} : ∀ s9, Keeps s0 s9 → Keeps s0 (mirTick s9) := by
  intro s9 h
  unfold mirTick
  repeat' first
    | with_reducible first | assumption | apply becomeMaster_keeps
    | dsimp only
    | split

theorem pathNote_keeps {s0 : State} : ∀ s9 a1 a2 a3 a4 a5, Keeps s0 s9 → Keeps s0 (pathNote s9 a1 a2 a3 a4 a5) := by
  intro s9 a1 a2 a3 a4 a5 h
  unfold pathNote
  repeat' first
    | with_reducible first | assumption | apply mirNote_keeps
    | dsimp only
    | split

theorem silenceCount_keeps {s0 : State} : ∀ s9, Keeps s0 s9 → Keeps s0 (silenceCount s9) := by
  intro s9 h
  unfold silenceCount
  repeat' first
    | with_reducible first | assumption | apply modMir_keeps | apply pathNote_keeps
    | dsimp only
    | split

theorem mirClaims_keeps {s0 : State} : ∀ s9, Keeps s0 s9 → Keeps s0 (mirClaims s9) := by
  intro s9 h
  unfold mirClaims
  repeat' first
    | with_reducible first | assumption | apply silenceCount_keeps | apply claim_keeps | apply modMir_keeps
    | dsimp only
    | split

theorem overBudget_keeps {s0 : State} : ∀ s9 a1, Keeps s0 s9 → Keeps s0 (overBudget s9 a1) := by
  intro s9 a1 h
  unfold overBudget
  repeat' first
    | with_reducible first | assumption | apply mirNote_keeps | apply mirCount_keeps | apply modMir_keeps
    | dsimp only
    | split

theorem linesRead_keeps {s0 : State} : ∀ s9 a1, Keeps s0 s9 → Keeps s0 (linesRead s9 a1) := by
  intro s9 a1 h
  unfold linesRead
  repeat' first
    | with_reducible first | assumption | intro _ | apply dmaAccess_keeps | refine dmaAccess_keeps' (by assumption) ?_ | apply keeps_foldl | apply keeps_upto | apply keeps_each
    | (extract_lets +onlyGivenNames x; refine Keeps.cut (s0 := s0) (x := x) ?_ (fun _ => ?_); unfold x; clear x; rotate_left; clear_value x; revert x; intro y _; rotate_left)
    | (extract_lets +onlyGivenNames x; subst x)
    | dsimp -zeta only [id]
    | split

theorem tickPacket_keeps {s0 : State} : ∀ s9 a1 a2 a3 a4, Keeps s0 s9 → Keeps s0 (tickPacket s9 a1 a2 a3 a4) := by
  intro s9 a1 a2 a3 a4 h
  unfold tickPacket
  repeat' first
    | with_reducible first | assumption | intro _ | apply linesRead_keeps | apply sendPacket_keeps | apply modMir_keeps | apply keeps_foldl | apply keeps_upto | apply keeps_each
    | (extract_lets +onlyGivenNames x; refine Keeps.cut (s0 := s0) (x := x) ?_ (fun _ => ?_); unfold x; clear x; rotate_left; clear_value x; revert x; intro y _; rotate_left)
    | (extract_lets +onlyGivenNames x; subst x)
    | dsimp -zeta only [id]
    | split

theorem released_keeps {s0 : State} : ∀ s9 a1, Keeps s0 s9 → Keeps s0 (released s9 a1) := by
  intro s9 a1 h
  unfold released
  repeat' first
    | with_reducible first | assumption | apply modMir_keeps | apply mirNote_keeps | apply enterStandby_keeps
    | dsimp only
    | split

theorem holderMeridian_keeps {s0 : State} : ∀ s9, Keeps s0 s9 → Keeps s0 (holderMeridian s9) := by
  intro s9 h
  unfold holderMeridian
  repeat' first
    | with_reducible first | assumption | apply capCheck_keeps | refine capCheck_keeps' (by assumption) ?_ | apply modMir_keeps | apply behindPacket_keeps | apply overBudget_keeps | apply tickPacket_keeps | apply released_keeps
    | dsimp only
    | split

theorem statusPacket_keeps {s0 : State} : ∀ s9, Keeps s0 s9 → Keeps s0 (statusPacket s9) :=
  fun _ h => ⟨h.mem, h.pending, h.now, h.svn, h.prov, h.decom⟩

theorem mirMeridian_keeps {s0 : State} : ∀ s9, Keeps s0 s9 → Keeps s0 (mirMeridian s9) := by
  intro s9 h
  unfold mirMeridian
  repeat' first
    | with_reducible first | assumption | apply holderMeridian_keeps | apply statusPacket_keeps | apply modMir_keeps
    | dsimp only
    | split

theorem ptnrUpdate_keeps {s0 : State} : ∀ s9 a1, Keeps s0 s9 → Keeps s0 (ptnrUpdate s9 a1) := by
  intro s9 a1 h
  unfold ptnrUpdate
  repeat' first
    | with_reducible first | assumption | apply mirNote_keeps | apply modMir_keeps
    | dsimp only
    | split

theorem yieldLease_keeps {s0 : State} : ∀ s9 a1, Keeps s0 s9 → Keeps s0 (yieldLease s9 a1) := by
  intro s9 a1 h
  unfold yieldLease
  repeat' first
    | with_reducible first | assumption | apply modMir_keeps | apply mirNote_keeps | apply enterStandby_keeps
    | dsimp only
    | split

end Sys2Proof.Machine
end

