-- ==== Sys2Proof/Laws/KeepsReset.lean ====
section
/-! SUPPORT. What the functions of Machine/Reset.lean keep. -/

namespace Sys2Proof.Machine

theorem deviceReset_keeps {s0 : State} : ∀ s9 a1, Keeps s0 s9 → Keeps s0 (deviceReset s9 a1) := by
  intro s c h
  exact ⟨h.mem, h.pending, h.now, h.svn, h.prov, h.decom⟩

end Sys2Proof.Machine
end

