-- ==== Sys2Proof/Laws/KeepsPwr.lean ====
section
/-! SUPPORT. What the functions of Machine/Pwr.lean keep. -/

namespace Sys2Proof.Machine

theorem countsWrite_keeps {s0 : State} : ∀ s9, Keeps s0 s9 → Keeps s0 (countsWrite s9) := by
  intro s9 h
  unfold countsWrite
  repeat' first
    | with_reducible first | assumption | apply wrBytes_keeps
    | dsimp only
    | split

theorem modPwr_keeps {s0 : State} : ∀ s9 a1, Keeps s0 s9 → Keeps s0 (modPwr s9 a1) :=
  fun _ _ h => ⟨h.mem, h.pending, h.now, h.svn, h.prov, h.decom⟩

theorem switchDrop_keeps {s0 : State} : ∀ s9 a1, Keeps s0 s9 → Keeps s0 (switchDrop s9 a1) := by
  intro s9 a1 h
  unfold switchDrop
  repeat' first
    | with_reducible first | assumption | apply holdAll_keeps | apply modPart_keeps
    | dsimp only
    | split

theorem plinthAll_keeps {s0 : State} : ∀ s9, Keeps s0 s9 → Keeps s0 (plinthAll s9) := by
  intro s9 h
  unfold plinthAll
  repeat' first
    | with_reducible first | assumption | intro _ | apply plinthCapture_keeps | apply plinthLine_keeps | apply keeps_foldl | apply keeps_upto | apply keeps_each
    | dsimp only
    | split

theorem twilightSave_keeps {s0 : State} : ∀ s9, Keeps s0 s9 → Keeps s0 (twilightSave s9) := by
  intro s9 h
  unfold twilightSave
  repeat' first
    | with_reducible first | assumption | intro _ | apply modPwr_keeps | apply switchDrop_keeps | apply countsWrite_keeps | apply plinthAll_keeps | apply mtrTwilight_keeps | apply keeps_foldl | apply keeps_upto | apply keeps_each
    | dsimp only
    | split

theorem saveIfDue_keeps {s0 : State} : ∀ s9, Keeps s0 s9 → Keeps s0 (saveIfDue s9) := by
  intro s9 h
  unfold saveIfDue
  repeat' first
    | with_reducible first | assumption | apply twilightSave_keeps
    | dsimp only
    | split

theorem opsecRead_keeps {s0 : State} : ∀ s9, Keeps s0 s9 → Keeps s0 (opsecRead s9) :=
  fun _ h => ⟨h.mem, h.pending, h.now, h.svn, h.prov, h.decom⟩

theorem execOpsecRead_keeps {s0 : State} : ∀ a0 s1, Keeps s0 s1 → KeepsEnd s0 (execOpsecRead a0 s1) := by
  intro a0 s1 h
  unfold execOpsecRead
  refine keepsEnd_next ?_
  repeat' first
    | with_reducible first | assumption | apply regAccess_keeps | apply opsecRead_keeps
    | dsimp only
    | split

theorem twilightRead_keeps {s0 : State} : ∀ s9, Keeps s0 s9 → Keeps s0 (twilightRead s9) := by
  intro s9 h
  unfold twilightRead
  repeat' first
    | with_reducible first | assumption | apply blockRead_keeps | apply guardFault_keeps | apply wrBytes_keeps | apply modPwr_keeps
    | dsimp only
    | split

theorem execPowerOn_keeps {s0 : State} : ∀ s9, Keeps s0 s9 → KeepsEnd s0 (execPowerOn s9) := by
  intro s9 h
  unfold execPowerOn
  refine keepsEnd_next ?_
  repeat' first
    | with_reducible first | assumption | apply modPwr_keeps | apply deviceReset_keeps
    | dsimp only
    | split

theorem execPowerGood_keeps {s0 : State} : ∀ a0 s1, Keeps s0 s1 → KeepsEnd s0 (execPowerGood a0 s1) := by
  intro a0 s1 h
  unfold execPowerGood
  refine keepsEnd_next ?_
  repeat' first
    | with_reducible first | assumption | apply reach_keeps | apply modPwr_keeps
    | dsimp only
    | split

theorem execStoreOkChange_keeps {s0 : State} : ∀ a0 s1, Keeps s0 s1 → KeepsEnd s0 (execStoreOkChange a0 s1) :=
  fun _ _ h => ⟨h.mem, h.pending, h.now, h.svn, h.prov, h.decom⟩

theorem execStoreMeasure_keeps {s0 : State} : ∀ a0 a1 s2, Keeps s0 s2 → KeepsEnd s0 (execStoreMeasure a0 a1 s2) := by
  intro a0 a1 s2 h
  unfold execStoreMeasure
  refine keepsEnd_next ?_
  repeat' first
    | with_reducible first | assumption | apply modPwr_keeps | apply almPost_keeps | apply setEvt_keeps
    | dsimp only
    | split

theorem execPwrFailAssert_keeps {s0 : State} : ∀ a0 s1, Keeps s0 s1 → KeepsEnd s0 (execPwrFailAssert a0 s1) := by
  intro a0 s1 h
  unfold execPwrFailAssert
  refine keepsEnd_next ?_
  repeat' first
    | with_reducible first | assumption | apply modPwr_keeps | apply sendNow_keeps | apply setEvt_keeps | apply almPost_keeps
    | dsimp only
    | split

theorem execPwrFailDeassert_keeps {s0 : State} : ∀ a0 s1, Keeps s0 s1 → KeepsEnd s0 (execPwrFailDeassert a0 s1) := by
  intro a0 s1 h
  unfold execPwrFailDeassert
  refine keepsEnd_next ?_
  repeat' first
    | with_reducible first | assumption | apply modPwr_keeps | apply deviceReset_keeps | apply setEvt_keeps | apply almPost_keeps | apply sendNow_keeps
    | dsimp only
    | split

theorem execRideThroughEnd_keeps {s0 : State} : ∀ s9, Keeps s0 s9 → KeepsEnd s0 (execRideThroughEnd s9) := by
  intro s9 h
  unfold execRideThroughEnd
  refine keepsEnd_next ?_
  repeat' first
    | with_reducible first | assumption | apply modPwr_keeps | apply reach_keeps
    | dsimp only
    | split

theorem execTwilightSaveDone_keeps {s0 : State} : ∀ a0 s1, Keeps s0 s1 → KeepsEnd s0 (execTwilightSaveDone a0 s1) := by
  intro a0 s1 h
  unfold execTwilightSaveDone
  refine keepsEnd_next ?_
  repeat' first
    | with_reducible first | assumption | apply reach_keeps | apply almRecord_keeps | apply wrBytes_keeps | apply setEvt_keeps | apply modPwr_keeps | apply modMir_keeps
    | dsimp only
    | split

theorem execStoreLowHold_keeps {s0 : State} : ∀ a0 s1, Keeps s0 s1 → KeepsEnd s0 (execStoreLowHold a0 s1) := by
  intro a0 s1 h
  unfold execStoreLowHold
  refine keepsEnd_next ?_
  repeat' first
    | with_reducible first | assumption | apply mastership_keeps | apply modPwr_keeps
    | dsimp only
    | split

theorem execStoreCutoff_keeps {s0 : State} : ∀ s9, Keeps s0 s9 → KeepsEnd s0 (execStoreCutoff s9) := by
  intro s9 h
  unfold execStoreCutoff
  refine keepsEnd_next ?_
  repeat' first
    | with_reducible first | assumption | apply modPwr_keeps | apply deviceReset_keeps
    | dsimp only
    | split

theorem execTwilightHandEnd_keeps {s0 : State} : ∀ a0 s1, Keeps s0 s1 → KeepsEnd s0 (execTwilightHandEnd a0 s1) := by
  intro a0 s1 h
  unfold execTwilightHandEnd
  refine keepsEnd_next ?_
  repeat' first
    | with_reducible first | assumption | apply deviceReset_keeps | apply modPwr_keeps
    | dsimp only
    | split

theorem execOperatingCountWrite_keeps {s0 : State} : ∀ s9, Keeps s0 s9 → KeepsEnd s0 (execOperatingCountWrite s9) := by
  intro s9 h
  unfold execOperatingCountWrite
  refine keepsEnd_next ?_
  repeat' first
    | with_reducible first | assumption | apply reach_keeps | apply countsWrite_keeps | apply modPwr_keeps
    | dsimp only
    | split

theorem execSfpOvercurrent_keeps {s0 : State} : ∀ a0 s1, Keeps s0 s1 → KeepsEnd s0 (execSfpOvercurrent a0 s1) := by
  intro a0 s1 h
  unfold execSfpOvercurrent
  refine keepsEnd_next ?_
  repeat' first
    | with_reducible first | assumption | apply setEvt_keeps | apply setShadow_keeps
    | dsimp only
    | split

theorem execHandleChange_keeps {s0 : State} : ∀ a0 s2, Keeps s0 s2 → KeepsEnd s0 (execHandleChange a0 s2) := by
  intro a0 s2 h
  unfold execHandleChange
  refine keepsEnd_next ?_
  repeat' first
    | with_reducible first | assumption | apply modPwr_keeps | apply almPost_keeps | apply setEvt_keeps
    | dsimp only
    | split

theorem execTempWarn_keeps {s0 : State} : ∀ a0 a1 s2, Keeps s0 s2 → KeepsEnd s0 (execTempWarn a0 a1 s2) := by
  intro a0 a1 s2 h
  unfold execTempWarn
  refine keepsEnd_next ?_
  repeat' first
    | with_reducible first | assumption | apply modPwr_keeps | apply almPost_keeps | apply setEvt_keeps
    | dsimp only
    | split

theorem execVinSurge_keeps {s0 : State} : ∀ a0 s1, Keeps s0 s1 → KeepsEnd s0 (execVinSurge a0 s1) := by
  intro a0 s1 h
  unfold execVinSurge
  refine keepsEnd_next ?_
  repeat' first
    | with_reducible first | assumption | apply modPwr_keeps | apply setEvt_keeps
    | dsimp only
    | split

theorem execPtnrPresChange_keeps {s0 : State} : ∀ a0 s1, Keeps s0 s1 → KeepsEnd s0 (execPtnrPresChange a0 s1) := by
  intro a0 s1 h
  unfold execPtnrPresChange
  refine keepsEnd_next ?_
  repeat' first
    | with_reducible first | assumption | apply setEvt_keeps | apply modPwr_keeps
    | dsimp only
    | split

end Sys2Proof.Machine
end

