-- ==== Sys2Proof/Laws/KeepsCrypto.lean ====
section
/-! SUPPORT. What the functions of Machine/Crypto.lean keep. -/

namespace Sys2Proof.Machine

theorem drawBytes_keeps {s0 : State} : ∀ s9 a1, Keeps s0 s9 → Keeps s0 (drawBytes s9 a1).2 :=
  fun _ _ h => ⟨h.mem, h.pending, h.now, h.svn, h.prov, h.decom⟩

theorem drawBytes_keeps' {s0 t : State} {r} {s9 a1} (e : drawBytes s9 a1 = (r, t)) (h : Keeps s0 s9) : Keeps s0 t :=
  by have := drawBytes_keeps s9 a1 h; rw [e] at this; exact this

end Sys2Proof.Machine
end

