-- ==== Sys2Proof/Laws/KeepsTrust.lean ====
section
/-! SUPPORT. What the functions of Machine/Trust.lean keep. -/

namespace Sys2Proof.Machine

theorem modTrust_keeps {s0 : State} : ∀ s f, Keeps s0 s → (∀ t, TrustKeeps t (f t)) → Keeps s0 (modTrust s f) := by
  intro s f h g
  exact ⟨h.mem, h.pending, h.now, Nat.le_trans h.svn (g s.trust).1, fun w => (g s.trust).2.1 (h.prov w), fun w => (g s.trust).2.2 (h.decom w)⟩

theorem measure_keeps {s0 : State} : ∀ s9 a1, Keeps s0 s9 → Keeps s0 (measure s9 a1) := by
  intro s9 a1 h
  unfold measure
  repeat' first
    | exact fun _ => ⟨Nat.le_refl _, id, id⟩
    | with_reducible first | assumption | apply modTrust_keeps
    | dsimp only
    | split

theorem keysInForce_keeps {s0 : State} : ∀ s9 a1, Keeps s0 s9 → Keeps s0 (keysInForce s9 a1) :=
  fun _ _ h => ⟨h.mem, h.pending, h.now, h.svn, h.prov, h.decom⟩

theorem trustEnd_keeps {s0 : State} : ∀ s9 a1, Keeps s0 s9 → Keeps s0 (trustEnd s9 a1) :=
  fun _ _ h => ⟨h.mem, h.pending, h.now, h.svn, h.prov, h.decom⟩

theorem trustCmd_keeps {s0 : State} : ∀ a0 a1 f2 s3, (∀ t0, Keeps s0 t0 → Keeps s0 (f2 t0)) → Keeps s0 s3 → Keeps s0 (trustCmd a0 a1 f2 s3) := by
  intro a0 a1 f2 s3 h0 h
  unfold trustCmd
  repeat' first
    | exact fun _ => ⟨Nat.le_refl _, id, id⟩
    | with_reducible first | assumption | intro _ | apply h0 | apply regAccess_keeps | apply modTrust_keeps | apply trustEnd_keeps | apply keeps_foldl | apply keeps_upto | apply keeps_each
    | dsimp only
    | split

theorem trustRun_keeps {s0 : State} : ∀ s9 a1 a2, Keeps s0 s9 → Keeps s0 (trustRun s9 a1 a2) :=
  fun _ _ _ h => ⟨h.mem, h.pending, h.now, h.svn, h.prov, h.decom⟩

theorem trustRead_keeps {s0 : State} : ∀ s9 a1 a2, Keeps s0 s9 → Keeps s0 (trustRead s9 a1 a2).2 := by
  intro s9 a1 a2 h
  unfold trustRead
  repeat' first
    | with_reducible first | assumption | intro _ | apply dmaRead_keeps | refine dmaRead_keeps' (by assumption) ?_ | apply keeps_foldl | apply keeps_upto | apply keeps_each
    | (extract_lets +onlyGivenNames x; refine Keeps.cut (s0 := s0) (x := x) ?_ (fun _ => ?_); unfold x; clear x; rotate_left; clear_value x; revert x; intro y _; rotate_left)
    | (extract_lets +onlyGivenNames x; subst x)
    | dsimp -zeta only [id]
    | split

theorem trustRead_keeps' {s0 t : State} {r} {s9 a1 a2} (e : trustRead s9 a1 a2 = (r, t)) (h : Keeps s0 s9) : Keeps s0 t :=
  by have := trustRead_keeps s9 a1 a2 h; rw [e] at this; exact this

theorem verifyHashes_keeps {s0 : State} : ∀ s9, Keeps s0 s9 → Keeps s0 (verifyHashes s9).2 := by
  intro s9 h
  unfold verifyHashes
  repeat' first
    | with_reducible first | assumption | intro _ | apply trustRead_keeps | refine trustRead_keeps' (by assumption) ?_ | apply keeps_foldl | apply keeps_upto | apply keeps_each
    | (extract_lets +onlyGivenNames x; refine Keeps.cut (s0 := s0) (x := x) ?_ (fun _ => ?_); unfold x; clear x; rotate_left; clear_value x; revert x; intro y _; rotate_left)
    | (extract_lets +onlyGivenNames x; subst x)
    | dsimp -zeta only [id]
    | split

theorem verifyHashes_keeps' {s0 t : State} {r} {s9} (e : verifyHashes s9 = (r, t)) (h : Keeps s0 s9) : Keeps s0 t :=
  by have := verifyHashes_keeps s9 h; rw [e] at this; exact this

theorem verify_keeps {s0 : State} : ∀ s9, Keeps s0 s9 → Keeps s0 (verify s9) := by
  intro s9 h
  unfold verify
  repeat' first
    | exact fun _ => ⟨Nat.le_refl _, id, id⟩
    | with_reducible first | assumption | apply trustEnd_keeps | apply trustRun_keeps | apply trustRead_keeps | refine trustRead_keeps' (by assumption) ?_ | apply verifyHashes_keeps | refine verifyHashes_keeps' (by assumption) ?_ | apply almPost_keeps | apply measure_keeps | apply modTrust_keeps
    | dsimp only
    | split

theorem execVerify_keeps {s0 : State} : ∀ a0 s1, Keeps s0 s1 → KeepsEnd s0 (execVerify a0 s1) := by
  intro a0 s1 h
  unfold execVerify
  refine keepsEnd_next ?_
  repeat' first
    | with_reducible first | assumption | apply trustCmd_keeps | apply verify_keeps
    | dsimp only
    | split

theorem execHash_keeps {s0 : State} : ∀ a0 s1, Keeps s0 s1 → KeepsEnd s0 (execHash a0 s1) := by
  intro a0 s1 h
  unfold execHash
  refine keepsEnd_next ?_
  repeat' first
    | exact fun _ => ⟨Nat.le_refl _, id, id⟩
    | with_reducible first | assumption | intro _ | apply trustCmd_keeps | apply trustEnd_keeps | apply trustRead_keeps | refine trustRead_keeps' (by assumption) ?_ | apply trustRun_keeps | apply modTrust_keeps | apply keeps_foldl | apply keeps_upto | apply keeps_each
    | dsimp only
    | split

theorem setKs_keeps {s0 : State} : ∀ s9 a1 a2, Keeps s0 s9 → Keeps s0 (setKs s9 a1 a2) :=
  fun _ _ _ h => ⟨h.mem, h.pending, h.now, h.svn, h.prov, h.decom⟩

theorem execKeyLoad_keeps {s0 : State} : ∀ a0 s1, Keeps s0 s1 → KeepsEnd s0 (execKeyLoad a0 s1) := by
  intro a0 s1 h
  unfold execKeyLoad
  refine keepsEnd_next ?_
  repeat' first
    | exact fun _ => ⟨Nat.le_refl _, id, id⟩
    | with_reducible first | assumption | intro _ | apply trustCmd_keeps | apply blockRead_keeps | apply trustRun_keeps | apply almPost_keeps | apply setEvt_keeps | apply setKs_keeps | apply modTrust_keeps | apply keeps_foldl | apply keeps_upto | apply keeps_each
    | dsimp only
    | split

theorem execTransfer_keeps {s0 : State} : ∀ a0 s1, Keeps s0 s1 → KeepsEnd s0 (execTransfer a0 s1) := by
  intro a0 s1 h
  unfold execTransfer
  refine keepsEnd_next ?_
  repeat' first
    | exact fun _ => ⟨Nat.le_refl _, id, id⟩
    | with_reducible first | assumption | intro _ | apply trustCmd_keeps | apply trustRun_keeps | apply almPost_keeps | apply setEvt_keeps | apply modTrust_keeps | apply keeps_foldl | apply keeps_upto | apply keeps_each
    | dsimp only
    | split

theorem execKeyClear_keeps {s0 : State} : ∀ a0 s1, Keeps s0 s1 → KeepsEnd s0 (execKeyClear a0 s1) := by
  intro a0 s1 h
  unfold execKeyClear
  refine keepsEnd_next ?_
  repeat' first
    | exact fun _ => ⟨Nat.le_refl _, id, id⟩
    | with_reducible first | assumption | intro _ | apply trustCmd_keeps | apply trustRun_keeps | apply modTrust_keeps | apply keeps_foldl | apply keeps_upto | apply keeps_each
    | dsimp only
    | split

theorem trustWrite_keeps {s0 : State} : ∀ s9 a1 a2, Keeps s0 s9 → Keeps s0 (trustWrite s9 a1 a2) := by
  intro s9 a1 a2 h
  unfold trustWrite
  repeat' first
    | with_reducible first | assumption | intro _ | apply dmaWrite_keeps | apply keeps_foldl | apply keeps_upto | apply keeps_each
    | (extract_lets +onlyGivenNames x; refine Keeps.cut (s0 := s0) (x := x) ?_ (fun _ => ?_); unfold x; clear x; rotate_left; clear_value x; revert x; intro y _; rotate_left)
    | (extract_lets +onlyGivenNames x; subst x)
    | dsimp -zeta only [id]
    | split

theorem ksPut_keeps {s0 : State} : ∀ s9 a1 a2, Keeps s0 s9 → Keeps s0 (ksPut s9 a1 a2) := by
  intro s9 a1 a2 h
  unfold ksPut
  repeat' first
    | with_reducible first | assumption | apply wrBytes_keeps | apply setKs_keeps
    | dsimp only
    | split

theorem execKeyGen_keeps {s0 : State} : ∀ a0 s1, Keeps s0 s1 → KeepsEnd s0 (execKeyGen a0 s1) := by
  intro a0 s1 h
  unfold execKeyGen
  refine keepsEnd_next ?_
  repeat' first
    | with_reducible first | assumption | intro _ | apply trustCmd_keeps | apply trustEnd_keeps | apply trustRun_keeps | apply drawBytes_keeps | refine drawBytes_keeps' (by assumption) ?_ | apply trustWrite_keeps | apply ksPut_keeps | apply keeps_foldl | apply keeps_upto | apply keeps_each
    | dsimp only
    | split

theorem execKeyDelete_keeps {s0 : State} : ∀ a0 s1, Keeps s0 s1 → KeepsEnd s0 (execKeyDelete a0 s1) := by
  intro a0 s1 h
  unfold execKeyDelete
  refine keepsEnd_next ?_
  repeat' first
    | with_reducible first | assumption | intro _ | apply trustCmd_keeps | apply trustRun_keeps | apply wrBytes_keeps | apply setKs_keeps | apply keeps_foldl | apply keeps_upto | apply keeps_each
    | dsimp only
    | split

theorem execImportOpen_keeps {s0 : State} : ∀ a0 s1, Keeps s0 s1 → KeepsEnd s0 (execImportOpen a0 s1) := by
  intro a0 s1 h
  unfold execImportOpen
  refine keepsEnd_next ?_
  repeat' first
    | exact fun _ => ⟨Nat.le_refl _, id, id⟩
    | with_reducible first | assumption | intro _ | apply trustCmd_keeps | apply trustEnd_keeps | apply drawBytes_keeps | refine drawBytes_keeps' (by assumption) ?_ | apply draw_keeps | refine draw_keeps' (by assumption) ?_ | apply modTrust_keeps | apply trustRun_keeps | apply trustWrite_keeps | apply keeps_foldl | apply keeps_upto | apply keeps_each
    | dsimp only
    | split

theorem execImportApply_keeps {s0 : State} : ∀ a0 s1, Keeps s0 s1 → KeepsEnd s0 (execImportApply a0 s1) := by
  intro a0 s1 h
  unfold execImportApply
  refine keepsEnd_next ?_
  repeat' first
    | exact fun _ => ⟨Nat.le_refl _, id, id⟩
    | with_reducible first | assumption | intro _ | apply trustCmd_keeps | apply trustEnd_keeps | apply modTrust_keeps | apply trustRead_keeps | refine trustRead_keeps' (by assumption) ?_ | apply trustRun_keeps | apply almPost_keeps | apply ksPut_keeps | apply keeps_foldl | apply keeps_upto | apply keeps_each
    | dsimp only
    | split

theorem execAttest_keeps {s0 : State} : ∀ a0 s1, Keeps s0 s1 → KeepsEnd s0 (execAttest a0 s1) := by
  intro a0 s1 h
  unfold execAttest
  refine keepsEnd_next ?_
  repeat' first
    | with_reducible first | assumption | intro _ | apply trustCmd_keeps | apply trustEnd_keeps | apply trustRead_keeps | refine trustRead_keeps' (by assumption) ?_ | apply trustRun_keeps | apply trustWrite_keeps | apply keeps_foldl | apply keeps_upto | apply keeps_each
    | dsimp only
    | split

theorem execNonce_keeps {s0 : State} : ∀ a0 s1, Keeps s0 s1 → KeepsEnd s0 (execNonce a0 s1) := by
  intro a0 s1 h
  unfold execNonce
  refine keepsEnd_next ?_
  repeat' first
    | exact fun _ => ⟨Nat.le_refl _, id, id⟩
    | with_reducible first | assumption | intro _ | apply trustCmd_keeps | apply drawBytes_keeps | refine drawBytes_keeps' (by assumption) ?_ | apply trustRun_keeps | apply modTrust_keeps | apply keeps_foldl | apply keeps_upto | apply keeps_each
    | dsimp only
    | split

theorem lcGo_keeps {s0 : State} : ∀ s9 a1, Keeps s0 s9 → Keeps s0 (lcGo s9 a1) := by
  intro s9 a1 h
  unfold lcGo
  repeat' first
    | with_reducible first | assumption | apply deviceReset_keeps | apply wrBytes_keeps
    | dsimp only
    | split

theorem execLcTransition_keeps {s0 : State} : ∀ a0 s1, Keeps s0 s1 → KeepsEnd s0 (execLcTransition a0 s1) := by
  intro a0 s1 h
  unfold execLcTransition
  refine keepsEnd_next ?_
  repeat' first
    | exact fun _ => ⟨Nat.le_refl _, id, id⟩
    | with_reducible first | assumption | intro _ | apply trustCmd_keeps | apply trustEnd_keeps | apply trustRead_keeps | refine trustRead_keeps' (by assumption) ?_ | apply modTrust_keeps | apply trustRun_keeps | apply lcGo_keeps | apply keeps_foldl | apply keeps_upto | apply keeps_each
    | dsimp only
    | split

theorem modTrust_keeps_at {s0 s : State} {f : TrustSt → TrustSt} (h : Keeps s0 s) (g : TrustKeeps s.trust (f s.trust)) : Keeps s0 (modTrust s f) :=
  ⟨h.mem, h.pending, h.now, Nat.le_trans h.svn g.1, fun w => g.2.1 (h.prov w), fun w => g.2.2 (h.decom w)⟩

theorem execSvnAdvance_keeps {s0 : State} : ∀ a0 s1, Keeps s0 s1 → KeepsEnd s0 (execSvnAdvance a0 s1) := by
  intro a s h
  unfold execSvnAdvance
  change Keeps _ _
  refine trustCmd_keeps _ _ _ _ (fun t g => ?_) h
  dsimp only
  split
  · exact trustRun_keeps _ _ _ g
  · split
    · exact trustRun_keeps _ _ _ g
    · exact trustRun_keeps _ _ _ (modTrust_keeps_at g ⟨by show t.trust.svn ≤ targ t 0; omega, id, id⟩)

theorem setFuse_keeps {s0 : State} : ∀ s9 a1 a2, Keeps s0 s9 → Keeps s0 (setFuse s9 a1 a2) :=
  fun _ _ _ h => ⟨h.mem, h.pending, h.now, h.svn, h.prov, h.decom⟩

theorem fuseKey_keeps {s0 : State} : ∀ s9 a1 a2, Keeps s0 s9 → Keeps s0 (fuseKey s9 a1 a2) :=
  fun _ _ _ h => ⟨h.mem, h.pending, h.now, h.svn, h.prov, h.decom⟩

theorem execFuseKeyAdd_keeps {s0 : State} : ∀ a0 s1, Keeps s0 s1 → KeepsEnd s0 (execFuseKeyAdd a0 s1) := by
  intro a0 s1 h
  unfold execFuseKeyAdd
  refine keepsEnd_next ?_
  repeat' first
    | with_reducible first | assumption | intro _ | apply trustCmd_keeps | apply trustEnd_keeps | apply trustRun_keeps | apply trustRead_keeps | refine trustRead_keeps' (by assumption) ?_ | apply fuseKey_keeps | apply keeps_foldl | apply keeps_upto | apply keeps_each
    | dsimp only
    | split

theorem execFuseKeyRevoke_keeps {s0 : State} : ∀ a0 s1, Keeps s0 s1 → KeepsEnd s0 (execFuseKeyRevoke a0 s1) := by
  intro a0 s1 h
  unfold execFuseKeyRevoke
  refine keepsEnd_next ?_
  repeat' first
    | with_reducible first | assumption | intro _ | apply trustCmd_keeps | apply trustRun_keeps | apply setFuse_keeps | apply keeps_foldl | apply keeps_upto | apply keeps_each
    | dsimp only
    | split

theorem fuseList_keeps {s0 : State} : ∀ s9 a1 a2 a3, Keeps s0 s9 → Keeps s0 (fuseList s9 a1 a2 a3) := by
  intro s9 a1 a2 a3 h
  unfold fuseList
  repeat' first
    | with_reducible first | assumption | intro _ | apply trustRead_keeps | refine trustRead_keeps' (by assumption) ?_ | apply fuseKey_keeps | apply keeps_foldl | apply keeps_upto | apply keeps_each
    | (extract_lets +onlyGivenNames x; refine Keeps.cut (s0 := s0) (x := x) ?_ (fun _ => ?_); unfold x; clear x; rotate_left; clear_value x; revert x; intro y _; rotate_left)
    | (extract_lets +onlyGivenNames x; subst x)
    | dsimp -zeta only [id]
    | split

theorem execProvision_keeps {s0 : State} : ∀ a0 s1, Keeps s0 s1 → KeepsEnd s0 (execProvision a0 s1) := by
  intro a0 s1 h
  unfold execProvision
  refine keepsEnd_next ?_
  repeat' first
    | exact fun _ => ⟨Nat.le_refl _, id, id⟩
    | with_reducible first | assumption | intro _ | apply trustCmd_keeps | apply trustEnd_keeps | apply trustRun_keeps | apply fuseList_keeps | apply drawBytes_keeps | refine drawBytes_keeps' (by assumption) ?_ | apply wrBytes_keeps | apply lcGo_keeps | apply modTrust_keeps | apply keeps_foldl | apply keeps_upto | apply keeps_each
    | dsimp only
    | split

theorem execLcStatus_keeps {s0 : State} : ∀ a0 s1, Keeps s0 s1 → KeepsEnd s0 (execLcStatus a0 s1) := by
  intro a0 s1 h
  unfold execLcStatus
  refine keepsEnd_next ?_
  repeat' first
    | with_reducible first | assumption | intro _ | apply trustCmd_keeps | apply trustRun_keeps | apply keeps_foldl | apply keeps_upto | apply keeps_each
    | dsimp only
    | split

theorem wdogKick_keeps {s0 : State} : ∀ s9 a1, Keeps s0 s9 → Keeps s0 (wdogKick s9 a1) := by
  intro s9 a1 h
  unfold wdogKick
  repeat' first
    | exact fun _ => ⟨Nat.le_refl _, id, id⟩
    | with_reducible first | assumption | apply modTrust_keeps
    | dsimp only
    | split

theorem execTrustCmdDone_keeps {s0 : State} : ∀ s9, Keeps s0 s9 → KeepsEnd s0 (execTrustCmdDone s9) := by
  intro s9 h
  unfold execTrustCmdDone
  refine keepsEnd_next ?_
  repeat' first
    | exact fun _ => ⟨Nat.le_refl _, id, id⟩
    | with_reducible first | assumption | apply setEvt_keeps | apply modTrust_keeps
    | dsimp only
    | split

theorem execImportSessionExpiry_keeps {s0 : State} : ∀ s9, Keeps s0 s9 → KeepsEnd s0 (execImportSessionExpiry s9) := by
  intro s9 h
  unfold execImportSessionExpiry
  refine keepsEnd_next ?_
  repeat' first
    | exact fun _ => ⟨Nat.le_refl _, id, id⟩
    | with_reducible first | assumption | apply setEvt_keeps | apply modTrust_keeps | apply reach_keeps
    | dsimp only
    | split

theorem execWatchdogKick_keeps {s0 : State} : ∀ a0 a1 s2, Keeps s0 s2 → KeepsEnd s0 (execWatchdogKick a0 a1 s2) := by
  intro a0 a1 s2 h
  unfold execWatchdogKick
  refine keepsEnd_next ?_
  repeat' first
    | with_reducible first | assumption | intro _ | apply regAccess_keeps | apply wdogKick_keeps | apply keeps_foldl | apply keeps_upto | apply keeps_each
    | dsimp only
    | split

theorem execWatchdogExpiry_keeps {s0 : State} : ∀ s9, Keeps s0 s9 → KeepsEnd s0 (execWatchdogExpiry s9) := by
  intro s9 h
  unfold execWatchdogExpiry
  refine keepsEnd_next ?_
  repeat' first
    | with_reducible first | assumption | apply deviceReset_keeps | apply reach_keeps
    | dsimp only
    | split

end Sys2Proof.Machine
end

