-- ==== Sys2Proof/Laws/KeepsBoot.lean ====
section
/-! SUPPORT. What the functions of Machine/Boot.lean keep. -/

namespace Sys2Proof.Machine

theorem bootHalt_keeps {s0 : State} : ∀ s9 a1, Keeps s0 s9 → Keeps s0 (bootHalt s9 a1) :=
  fun _ _ h => ⟨h.mem, h.pending, h.now, h.svn, h.prov, h.decom⟩

theorem bootLoad_keeps {s0 : State} : ∀ s9, Keeps s0 s9 → Keeps s0 (bootLoad s9) := by
  intro s9 h
  unfold bootLoad
  repeat' first
    | with_reducible first | assumption | intro _ | apply wrBytes_keeps | apply keeps_foldl | apply keeps_upto | apply keeps_each
    | (extract_lets +onlyGivenNames x; refine Keeps.cut (s0 := s0) (x := x) ?_ (fun _ => ?_); unfold x; clear x; rotate_left; clear_value x; revert x; intro y _; rotate_left)
    | (extract_lets +onlyGivenNames x; subst x)
    | dsimp -zeta only [id]
    | split

theorem bootStage_keeps {s0 : State} : ∀ s9 a1 a2, Keeps s0 s9 → Keeps s0 (bootStage s9 a1 a2) := by
  intro s9 a1 a2 h
  unfold bootStage
  repeat' first
    | exact fun _ => ⟨Nat.le_refl _, id, id⟩
    | with_reducible first | assumption | apply bootLoad_keeps | apply measure_keeps | apply modTrust_keeps
    | dsimp only
    | split

theorem bootImage_keeps {s0 : State} : ∀ s9, Keeps s0 s9 → Keeps s0 (bootImage s9) := by
  intro s9 h
  unfold bootImage
  repeat' first
    | with_reducible first | assumption | apply bootHalt_keeps | apply bootStage_keeps
    | dsimp only
    | split

theorem bootGo_keeps {s0 : State} : ∀ s9 a1, Keeps s0 s9 → Keeps s0 (bootGo s9 a1) := by
  intro s9 a1 h
  unfold bootGo
  repeat' first
    | exact fun _ => ⟨Nat.le_refl _, id, id⟩
    | with_reducible first | assumption | apply modTrust_keeps | apply mtrRestore_keeps | apply almScan_keeps | apply draw_keeps | refine draw_keeps' (by assumption) ?_ | apply bootImage_keeps
    | dsimp only
    | split

theorem dumpKeep_keeps {s0 : State} : ∀ s9, Keeps s0 s9 → Keeps s0 (dumpKeep s9) := by
  intro s h
  unfold dumpKeep
  split
  · exact h
  · split
    · exact ⟨h.mem, h.pending, h.now, h.svn, h.prov, h.decom⟩
    · split
      · exact h
      · exact guardFault_keeps _ _ h

theorem lcRepair_lcFix_keeps {s0 : State} : ∀ s9 a1 a2, Keeps s0 s9 → Keeps s0 (lcRepair.lcFix s9 a1 a2) := by
  intro s9 a1 a2 h
  unfold lcRepair.lcFix
  repeat' first
    | exact fun _ => ⟨Nat.le_refl _, id, id⟩
    | with_reducible first | assumption | apply setEvt_keeps | apply wrBytes_keeps | apply modTrust_keeps
    | dsimp only
    | split

theorem lcRepair_keeps {s0 : State} : ∀ s9, Keeps s0 s9 → Keeps s0 (lcRepair s9) := by
  intro s h
  have g := blockRead_keeps _ 1 (idCopy true) 0x40 (blockRead_keeps _ 1 (idCopy false) 0x40 h)
  unfold lcRepair
  generalize blockRead (blockRead s 1 (idCopy false) 0x40) 1 (idCopy true) 0x40 = t at g ⊢
  have k : Keeps s0 (if (rd64 t (idCopy false + 8) != 0#64 && !guardedOk (rd64 t (idCopy false + 8)) ||
      rd64 t (idCopy true + 8) != 0#64 && !guardedOk (rd64 t (idCopy true + 8))) = true then guardFault t 1 else t) := by
    split
    · exact guardFault_keeps _ _ g
    · exact g
  dsimp only
  generalize (if (rd64 t (idCopy false + 8) != 0#64 && !guardedOk (rd64 t (idCopy false + 8)) ||
      rd64 t (idCopy true + 8) != 0#64 && !guardedOk (rd64 t (idCopy true + 8))) = true then guardFault t 1 else t) = u at k ⊢
  split
  · exact k
  · exact lcRepair_lcFix_keeps _ _ _ (guardFault_keeps _ _ k)
  · exact lcRepair_lcFix_keeps _ _ _ (guardFault_keeps _ _ k)
  · split
    · exact k
    · exact guardFault_keeps _ _ k

theorem execResetRelease_keeps {s0 : State} : ∀ a0 a1 a2 a3 s4, Keeps s0 s4 → KeepsEnd s0 (execResetRelease a0 a1 a2 a3 s4) := by
  intro a0 a1 a2 a3 s4 h
  unfold execResetRelease
  refine keepsEnd_next ?_
  repeat' first
    | exact fun _ => ⟨Nat.le_refl _, id, id⟩
    | with_reducible first | assumption | apply reach_keeps | apply dumpKeep_keeps | apply twilightRead_keeps | apply modPwr_keeps | apply lcRepair_keeps | apply modTrust_keeps | apply bootHalt_keeps | apply bootGo_keeps
    | dsimp only
    | split

theorem execSramWipeDone_keeps {s0 : State} : ∀ s9, Keeps s0 s9 → KeepsEnd s0 (execSramWipeDone s9) := by
  intro s9 h
  unfold execSramWipeDone
  refine keepsEnd_next ?_
  repeat' first
    | exact fun _ => ⟨Nat.le_refl _, id, id⟩
    | with_reducible first | assumption | apply bootLoad_keeps | apply modTrust_keeps | apply wipe_keeps
    | dsimp only
    | split

theorem execDramWipeDone_keeps {s0 : State} : ∀ s9, Keeps s0 s9 → KeepsEnd s0 (execDramWipeDone s9) := by
  intro s9 h
  unfold execDramWipeDone
  refine keepsEnd_next ?_
  repeat' first
    | with_reducible first | assumption | apply dramWipe_keeps
    | dsimp only
    | split

theorem lcWrite_keeps {s0 : State} : ∀ s9 a1 a2, Keeps s0 s9 → Keeps s0 (lcWrite s9 a1 a2) := by
  intro s target prev h
  unfold lcWrite
  refine wrBytes_keeps _ _ _ (wrBytes_keeps _ _ _ (modTrust_keeps _ _ h fun t => ⟨Nat.le_refl _, fun e => ?_, fun e => ?_⟩))
  · show (t.prov || _) = true
    rw [e]; rfl
  · show (t.decom || _) = true
    rw [e]; rfl

theorem mramWipe_keeps {s0 : State} : ∀ s9, Keeps s0 s9 → Keeps s0 (mramWipe s9) := by
  intro s9 h
  unfold mramWipe
  repeat' first
    | exact fun _ => ⟨Nat.le_refl _, id, id⟩
    | with_reducible first | assumption | apply modTrust_keeps | apply wipe_keeps
    | dsimp only
    | split

theorem execMramWipeDone_keeps {s0 : State} : ∀ s9, Keeps s0 s9 → KeepsEnd s0 (execMramWipeDone s9) := by
  intro s9 h
  unfold execMramWipeDone
  refine keepsEnd_next ?_
  repeat' first
    | with_reducible first | assumption | apply lcWrite_keeps | apply mramWipe_keeps | apply almPost_keeps | apply bootGo_keeps
    | dsimp only
    | split

theorem execProtectionReady_keeps {s0 : State} : ∀ s9, Keeps s0 s9 → KeepsEnd s0 (execProtectionReady s9) := by
  intro s9 h
  unfold execProtectionReady
  refine keepsEnd_next ?_
  repeat' first
    | exact fun _ => ⟨Nat.le_refl _, id, id⟩
    | with_reducible first | assumption | apply mastership_keeps | apply modTrust_keeps
    | dsimp only
    | split

end Sys2Proof.Machine
end

