-- ==== Sys2Proof/Laws/KeepsWire.lean ====
section
/-! SUPPORT. What the functions of Machine/Wire.lean keep. -/

namespace Sys2Proof.Machine

theorem itemNext_keeps {s0 : State} : ∀ s9 a1 a2, Keeps s0 s9 → Keeps s0 (itemNext s9 a1 a2).2 := by
  intro s9 a1 a2 h
  unfold itemNext
  repeat' first
    | with_reducible first | assumption | intro _ | apply keeps_foldl | apply keeps_upto | apply keeps_each
    | (extract_lets +onlyGivenNames x; refine Keeps.cut (s0 := s0) (x := x) ?_ (fun _ => ?_); unfold x; clear x; rotate_left; clear_value x; revert x; intro y _; rotate_left)
    | (extract_lets +onlyGivenNames x; subst x)
    | dsimp -zeta only [id]
    | split

theorem itemNext_keeps' {s0 t : State} {r} {s9 a1 a2} (e : itemNext s9 a1 a2 = (r, t)) (h : Keeps s0 s9) : Keeps s0 t :=
  by have := itemNext_keeps s9 a1 a2 h; rw [e] at this; exact this

theorem itemTake_keeps {s0 : State} : ∀ s9 a1, Keeps s0 s9 → Keeps s0 (itemTake s9 a1) := by
  intro s9 a1 h
  unfold itemTake
  repeat' first
    | with_reducible first | assumption | intro _ | apply keeps_foldl | apply keeps_upto | apply keeps_each
    | (extract_lets +onlyGivenNames x; refine Keeps.cut (s0 := s0) (x := x) ?_ (fun _ => ?_); unfold x; clear x; rotate_left; clear_value x; revert x; intro y _; rotate_left)
    | (extract_lets +onlyGivenNames x; subst x)
    | dsimp -zeta only [id]
    | split

end Sys2Proof.Machine
end

