-- ==== Sys2Proof/Laws/KeepsSiu.lean ====
section
/-! SUPPORT. What the functions of Machine/Siu.lean keep. -/

namespace Sys2Proof.Machine

theorem siuPost_keeps {s0 : State} : ∀ s9 a1 a2 a3 a4 a5, Keeps s0 s9 → Keeps s0 (siuPost s9 a1 a2 a3 a4 a5) := by
  intro s9 a1 a2 a3 a4 a5 h
  unfold siuPost
  repeat' first
    | with_reducible first | assumption | apply almPost_keeps | apply postOwner_keeps
    | dsimp only
    | split

theorem authFail_keeps {s0 : State} : ∀ s9 a1, Keeps s0 s9 → Keeps s0 (authFail s9 a1) := by
  intro s9 a1 h
  unfold authFail
  repeat' first
    | with_reducible first | assumption | apply siuPost_keeps | apply setEvt_keeps | apply bump_keeps
    | dsimp only
    | split

theorem scaNote_keeps {s0 : State} : ∀ s9 a1 a2 a3 a4, Keeps s0 s9 → Keeps s0 (scaNote s9 a1 a2 a3 a4) := by
  intro s9 a1 a2 a3 a4 h
  unfold scaNote
  repeat' first
    | with_reducible first | assumption | apply almPost_keeps | apply notifyAll_keeps
    | dsimp only
    | split

theorem siuKeysOld_keeps {s0 : State} : ∀ s9 s1, Keeps s0 s9 → Keeps s0 s1 → Keeps s0 (siuKeysOld s9 s1) := by
  intro s9 s1 h h
  unfold siuKeysOld
  repeat' first
    | with_reducible first | assumption | intro _ | apply keeps_foldl | apply keeps_upto | apply keeps_each
    | (extract_lets +onlyGivenNames x; refine Keeps.cut (s0 := s0) (x := x) ?_ (fun _ => ?_); unfold x; clear x; rotate_left; clear_value x; revert x; intro y _; rotate_left)
    | (extract_lets +onlyGivenNames x; subst x)
    | dsimp -zeta only [id]
    | split

theorem setGrp_keeps {s0 : State} : ∀ s9 a1 a2, Keeps s0 s9 → Keeps s0 (setGrp s9 a1 a2) :=
  fun _ _ _ h => ⟨h.mem, h.pending, h.now, h.svn, h.prov, h.decom⟩

theorem setCtx_keeps {s0 : State} : ∀ s9 a1 a2, Keeps s0 s9 → Keeps s0 (setCtx s9 a1 a2) :=
  fun _ _ _ h => ⟨h.mem, h.pending, h.now, h.svn, h.prov, h.decom⟩

theorem grpPace_keeps {s0 : State} : ∀ s9 a1 a2, Keeps s0 s9 → Keeps s0 (grpPace s9 a1 a2) := by
  intro s9 a1 a2 h
  unfold grpPace
  repeat' first
    | with_reducible first | assumption | intro _ | apply setGrp_keeps | apply setCtx_keeps | apply keeps_foldl | apply keeps_upto | apply keeps_each
    | dsimp only
    | split

theorem siuCount_keeps {s0 : State} : ∀ s9 a1 a2, Keeps s0 s9 → Keeps s0 (siuCount s9 a1 a2) :=
  fun _ _ _ h => ⟨h.mem, h.pending, h.now, h.svn, h.prov, h.decom⟩

theorem ctxSide_keeps {s0 : State} : ∀ s9 a1, Keeps s0 s9 → Keeps s0 (ctxSide s9 a1) := by
  intro s9 a1 h
  unfold ctxSide
  repeat' first
    | with_reducible first | assumption | apply bump_keeps | apply setEvt_keeps | apply setCtx_keeps | apply siuPost_keeps
    | dsimp only
    | split

theorem ctxWaitOf_keeps {s0 : State} : ∀ s9 a1 a2, Keeps s0 s9 → Keeps s0 (ctxWaitOf s9 a1 a2) := by
  intro s9 a1 a2 h
  unfold ctxWaitOf
  repeat' first
    | with_reducible first | assumption | intro _ | apply siuCount_keeps | apply setCtx_keeps | apply ctxSide_keeps | apply keeps_foldl | apply keeps_upto | apply keeps_each
    | (extract_lets +onlyGivenNames x; refine Keeps.cut (s0 := s0) (x := x) ?_ (fun _ => ?_); unfold x; clear x; rotate_left; clear_value x; revert x; intro y _; rotate_left)
    | (extract_lets +onlyGivenNames x; subst x)
    | dsimp -zeta only [id]
    | split

theorem ctxInForce_keeps {s0 : State} : ∀ s9 s1 a2, Keeps s0 s9 → Keeps s0 s1 → Keeps s0 (ctxInForce s9 s1 a2) := by
  intro s9 s1 a2 h h
  unfold ctxInForce
  repeat' first
    | with_reducible first | assumption | apply setCtx_keeps | apply ctxWaitOf_keeps
    | dsimp only
    | split

theorem siuInForce_keeps {s0 : State} : ∀ s9 s1, Keeps s0 s9 → Keeps s0 s1 → Keeps s0 (siuInForce s9 s1) := by
  intro s9 s1 h h
  unfold siuInForce
  repeat' first
    | with_reducible first | assumption | intro _ | apply siuKeysOld_keeps | apply grpPace_keeps | apply setGrp_keeps | apply ctxInForce_keeps | apply keeps_foldl | apply keeps_upto | apply keeps_each
    | dsimp only
    | split

theorem ctxWait_keeps {s0 : State} : ∀ s9 a1, Keeps s0 s9 → Keeps s0 (ctxWait s9 a1) := by
  intro s9 a1 h
  unfold ctxWait
  repeat' first
    | with_reducible first | assumption | apply ctxWaitOf_keeps
    | dsimp only
    | split

theorem ctxFlushAt_keeps {s0 : State} : ∀ s9 a1 a2, Keeps s0 s9 → Keeps s0 (ctxFlushAt s9 a1 a2) := by
  intro s9 a1 a2 h
  unfold ctxFlushAt
  repeat' first
    | with_reducible first | assumption | intro _ | apply ctxWait_keeps | apply setCtx_keeps | apply keeps_foldl | apply keeps_upto | apply keeps_each
    | (extract_lets +onlyGivenNames x; refine Keeps.cut (s0 := s0) (x := x) ?_ (fun _ => ?_); unfold x; clear x; rotate_left; clear_value x; revert x; intro y _; rotate_left)
    | (extract_lets +onlyGivenNames x; subst x)
    | dsimp -zeta only [id]
    | split

theorem ctxPtrReset_keeps {s0 : State} : ∀ s9 a1, Keeps s0 s9 → Keeps s0 (ctxPtrReset s9 a1) := by
  intro s9 a1 h
  unfold ctxPtrReset
  repeat' first
    | with_reducible first | assumption | apply ctxFlushAt_keeps | apply setCtx_keeps | apply ptrSum_keeps | apply setEvt_keeps | apply siuPost_keeps
    | dsimp only
    | split

theorem ctxCheck_keeps {s0 : State} : ∀ s9 a1, Keeps s0 s9 → Keeps s0 (ctxCheck s9 a1) := by
  intro s9 a1 h
  unfold ctxCheck
  repeat' first
    | with_reducible first | assumption | apply ctxPtrReset_keeps
    | dsimp only
    | split

theorem ctxLose_keeps {s0 : State} : ∀ s9 a1, Keeps s0 s9 → Keeps s0 (ctxLose s9 a1) := by
  intro s9 a1 h
  unfold ctxLose
  repeat' first
    | with_reducible first | assumption | apply setEvt_keeps | apply setCtx_keeps | apply siuPost_keeps | apply ctxWait_keeps
    | dsimp only
    | split

theorem ctxResume_keeps {s0 : State} : ∀ s9 a1 a2, Keeps s0 s9 → Keeps s0 (ctxResume s9 a1 a2) := by
  intro s9 a1 a2 h
  unfold ctxResume
  repeat' first
    | with_reducible first | assumption | apply setCtx_keeps | apply setEvt_keeps | apply siuPost_keeps
    | dsimp only
    | split

theorem siuStep_keeps {s0 : State} : ∀ s9, Keeps s0 s9 → Keeps s0 (siuStep s9) := by
  intro s9 h
  unfold siuStep
  repeat' first
    | with_reducible first | assumption | intro _ | apply ctxWait_keeps | apply grpPace_keeps | apply keeps_foldl | apply keeps_upto | apply keeps_each
    | dsimp only
    | split

theorem grpPtrReset_keeps {s0 : State} : ∀ s9 a1, Keeps s0 s9 → Keeps s0 (grpPtrReset s9 a1) := by
  intro s9 a1 h
  unfold grpPtrReset
  repeat' first
    | with_reducible first | assumption | intro _ | apply setGrp_keeps | apply ctxWait_keeps | apply setCtx_keeps | apply ptrSum_keeps | apply setEvt_keeps | apply siuPost_keeps | apply keeps_foldl | apply keeps_upto | apply keeps_each
    | dsimp only
    | split

theorem grpCheck_keeps {s0 : State} : ∀ s9 a1, Keeps s0 s9 → Keeps s0 (grpCheck s9 a1) := by
  intro s9 a1 h
  unfold grpCheck
  repeat' first
    | with_reducible first | assumption | apply grpPtrReset_keeps
    | dsimp only
    | split

theorem sbGet_keeps {s0 : State} : ∀ s9 a1 a2 a3, Keeps s0 s9 → Keeps s0 (sbGet s9 a1 a2 a3).2 := by
  intro s9 a1 a2 a3 h
  unfold sbGet
  repeat' first
    | with_reducible first | assumption | intro _ | apply dmaRead_keeps | refine dmaRead_keeps' (by assumption) ?_ | apply keeps_foldl | apply keeps_upto | apply keeps_each
    | (extract_lets +onlyGivenNames x; refine Keeps.cut (s0 := s0) (x := x) ?_ (fun _ => ?_); unfold x; clear x; rotate_left; clear_value x; revert x; intro y _; rotate_left)
    | (extract_lets +onlyGivenNames x; subst x)
    | dsimp -zeta only [id]
    | split

theorem sbGet_keeps' {s0 t : State} {r} {s9 a1 a2 a3} (e : sbGet s9 a1 a2 a3 = (r, t)) (h : Keeps s0 s9) : Keeps s0 t :=
  by have := sbGet_keeps s9 a1 a2 a3 h; rw [e] at this; exact this

theorem sbPut_keeps {s0 : State} : ∀ s9 a1 a2 a3 a4 a5, Keeps s0 s9 → Keeps s0 (sbPut s9 a1 a2 a3 a4 a5) := by
  intro s9 a1 a2 a3 a4 a5 h
  unfold sbPut
  repeat' first
    | with_reducible first | assumption | apply dmaWrite_keeps
    | dsimp only
    | split

theorem finUnused_keeps {s0 : State} : ∀ s9 a1 a2, Keeps s0 s9 → Keeps s0 (finUnused s9 a1 a2) := by
  intro s9 a1 a2 h
  unfold finUnused
  repeat' first
    | with_reducible first | assumption | intro _ | apply sbPut_keeps | apply keeps_foldl | apply keeps_upto | apply keeps_each
    | (extract_lets +onlyGivenNames x; refine Keeps.cut (s0 := s0) (x := x) ?_ (fun _ => ?_); unfold x; clear x; rotate_left; clear_value x; revert x; intro y _; rotate_left)
    | (extract_lets +onlyGivenNames x; subst x)
    | dsimp -zeta only [id]
    | split

theorem finCommitted_keeps {s0 : State} : ∀ s9 a1 a2, Keeps s0 s9 → Keeps s0 (finCommitted s9 a1 a2) := by
  intro s9 a1 a2 h
  unfold finCommitted
  repeat' first
    | with_reducible first | assumption | intro _ | apply setCtx_keeps | apply sbGet_keeps | refine sbGet_keeps' (by assumption) ?_ | apply sbPut_keeps | apply ctxSide_keeps | apply finUnused_keeps | apply keeps_foldl | apply keeps_upto | apply keeps_each
    | dsimp only
    | split

theorem finFilled_keeps {s0 : State} : ∀ s9 a1 a2, Keeps s0 s9 → Keeps s0 (finFilled s9 a1 a2) := by
  intro s9 a1 a2 h
  unfold finFilled
  repeat' first
    | with_reducible first | assumption | intro _ | apply finUnused_keeps | apply sbGet_keeps | refine sbGet_keeps' (by assumption) ?_ | apply sbPut_keeps | apply keeps_foldl | apply keeps_upto | apply keeps_each
    | dsimp only
    | split

theorem finStale_keeps {s0 : State} : ∀ s9 a1 a2, Keeps s0 s9 → Keeps s0 (finStale s9 a1 a2) := by
  intro s9 a1 a2 h
  unfold finStale
  repeat' first
    | with_reducible first | assumption | intro _ | apply finUnused_keeps | apply sbPut_keeps | apply keeps_foldl | apply keeps_upto | apply keeps_each
    | dsimp only
    | split

theorem finalise_keeps {s0 : State} : ∀ s9 a1 a2, Keeps s0 s9 → Keeps s0 (finalise s9 a1 a2) := by
  intro s9 a1 a2 h
  unfold finalise
  repeat' first
    | with_reducible first | assumption | apply finCommitted_keeps | apply finFilled_keeps | apply finStale_keeps | apply bump_keeps | apply setCtx_keeps | apply ctxLose_keeps
    | dsimp only
    | split

theorem svpRaw_keeps {s0 : State} : ∀ s9 a1 a2, Keeps s0 s9 → Keeps s0 (svpRaw s9 a1 a2) := by
  intro s9 a1 a2 h
  unfold svpRaw
  repeat' first
    | with_reducible first | assumption | intro _ | apply keeps_foldl | apply keeps_upto | apply keeps_each
    | dsimp only
    | split

theorem scaPtrReset_keeps {s0 : State} : ∀ s9, Keeps s0 s9 → Keeps s0 (scaPtrReset s9) := by
  intro s9 h
  unfold scaPtrReset
  repeat' first
    | with_reducible first | assumption | apply setEvt_keeps | apply scaNote_keeps | apply ptrSum_keeps
    | dsimp only
    | split

theorem scaCheck_keeps {s0 : State} : ∀ s9, Keeps s0 s9 → Keeps s0 (scaCheck s9) := by
  intro s9 h
  unfold scaCheck
  repeat' first
    | with_reducible first | assumption | apply scaPtrReset_keeps
    | dsimp only
    | split

theorem scaPush_keeps {s0 : State} : ∀ s9 a1, Keeps s0 s9 → Keeps s0 (scaPush s9 a1) := by
  intro s9 a1 h
  unfold scaPush
  repeat' first
    | with_reducible first | assumption | intro _ | apply scaCheck_keeps | apply keeps_foldl | apply keeps_upto | apply keeps_each
    | (extract_lets +onlyGivenNames x; refine Keeps.cut (s0 := s0) (x := x) ?_ (fun _ => ?_); unfold x; clear x; rotate_left; clear_value x; revert x; intro y _; rotate_left)
    | (extract_lets +onlyGivenNames x; subst x)
    | dsimp -zeta only [id]
    | split

theorem grpRelease_keeps {s0 : State} : ∀ s9 a1 a2, Keeps s0 s9 → Keeps s0 (grpRelease s9 a1 a2) := by
  intro s9 a1 a2 h
  unfold grpRelease
  repeat' first
    | with_reducible first | assumption | intro _ | apply ctxCheck_keeps | apply finalise_keeps | apply svpRaw_keeps | apply setLive_keeps | apply bump_keeps | apply setGrp_keeps | apply scaPush_keeps | apply keeps_foldl | apply keeps_upto | apply keeps_each
    | dsimp only
    | split

theorem grpTry_keeps {s0 : State} : ∀ a0 a1 s2, Keeps s0 s2 → Keeps s0 (grpTry a0 a1 s2) := by
  intro g n
  induction n with
  | zero => intro s h; exact h
  | succ n ih =>
    intro s h
    unfold grpTry
    dsimp only
    split
    · split
      · exact ih _ (grpRelease_keeps _ _ _ (grpCheck_keeps _ _ h))
      · exact grpCheck_keeps _ _ h
    · exact grpCheck_keeps _ _ h

theorem grpEval_keeps {s0 : State} : ∀ s9 a1, Keeps s0 s9 → Keeps s0 (grpEval s9 a1) := by
  intro s9 a1 h
  unfold grpEval
  repeat' first
    | with_reducible first | assumption | apply grpTry_keeps
    | dsimp only
    | split

theorem siuEval_keeps {s0 : State} : ∀ s9, Keeps s0 s9 → Keeps s0 (siuEval s9) := by
  intro s9 h
  unfold siuEval
  repeat' first
    | with_reducible first | assumption | intro _ | apply grpEval_keeps | apply keeps_foldl | apply keeps_upto | apply keeps_each
    | (extract_lets +onlyGivenNames x; refine Keeps.cut (s0 := s0) (x := x) ?_ (fun _ => ?_); unfold x; clear x; rotate_left; clear_value x; revert x; intro y _; rotate_left)
    | (extract_lets +onlyGivenNames x; subst x)
    | dsimp -zeta only [id]
    | split

theorem simLatch_keeps {s0 : State} : ∀ s9 a1 a2, Keeps s0 s9 → Keeps s0 (simLatch s9 a1 a2) := by
  intro s9 a1 a2 h
  unfold simLatch
  repeat' first
    | with_reducible first | assumption | apply setCtx_keeps | apply ctxWait_keeps | apply siuPost_keeps
    | dsimp only
    | split

theorem siuSim_keeps {s0 : State} : ∀ s9, Keeps s0 s9 → Keeps s0 (siuSim s9) := by
  intro s9 h
  unfold siuSim
  repeat' first
    | with_reducible first | assumption | intro _ | apply simLatch_keeps | apply keeps_foldl | apply keeps_upto | apply keeps_each
    | dsimp only
    | split

theorem siuPace_keeps {s0 : State} : ∀ s9, Keeps s0 s9 → Keeps s0 (siuPace s9) := by
  intro s9 h
  unfold siuPace
  repeat' first
    | with_reducible first | assumption | intro _ | apply grpPace_keeps | apply keeps_foldl | apply keeps_upto | apply keeps_each
    | dsimp only
    | split

theorem execCtxFlush_keeps {s0 : State} : ∀ a0 a1 s2, Keeps s0 s2 → KeepsEnd s0 (execCtxFlush a0 a1 s2) := by
  intro a0 a1 s2 h
  unfold execCtxFlush
  refine keepsEnd_next ?_
  repeat' first
    | with_reducible first | assumption | intro _ | apply regAccess_keeps | apply busError_keeps | apply grpEval_keeps | apply ctxFlushAt_keeps | apply ctxCheck_keeps | apply keeps_foldl | apply keeps_upto | apply keeps_each
    | dsimp only
    | split

theorem svStore_keeps {s0 : State} : ∀ s9 a1 a2 a3 a4, Keeps s0 s9 → Keeps s0 (svStore s9 a1 a2 a3 a4) := by
  intro s9 a1 a2 a3 a4 h
  unfold svStore
  repeat' first
    | with_reducible first | assumption | intro _ | apply sbPut_keeps | apply keeps_foldl | apply keeps_upto | apply keeps_each
    | (extract_lets +onlyGivenNames x; refine Keeps.cut (s0 := s0) (x := x) ?_ (fun _ => ?_); unfold x; clear x; rotate_left; clear_value x; revert x; intro y _; rotate_left)
    | (extract_lets +onlyGivenNames x; subst x)
    | dsimp -zeta only [id]
    | split

theorem svDup_keeps {s0 : State} : ∀ s9 a1 a2 a3 a4 a5, Keeps s0 s9 → Keeps s0 (svDup s9 a1 a2 a3 a4 a5) := by
  intro s9 a1 a2 a3 a4 a5 h
  unfold svDup
  repeat' first
    | with_reducible first | assumption | intro _ | apply siuCount_keeps | apply setCtx_keeps | apply svStore_keeps | apply keeps_foldl | apply keeps_upto | apply keeps_each
    | (extract_lets +onlyGivenNames x; refine Keeps.cut (s0 := s0) (x := x) ?_ (fun _ => ?_); unfold x; clear x; rotate_left; clear_value x; revert x; intro y _; rotate_left)
    | (extract_lets +onlyGivenNames x; subst x)
    | dsimp -zeta only [id]
    | split

theorem svCommit_keeps {s0 : State} : ∀ s9 a1 a2 a3 a4 a5, Keeps s0 s9 → Keeps s0 (svCommit s9 a1 a2 a3 a4 a5) := by
  intro s9 a1 a2 a3 a4 a5 h
  unfold svCommit
  repeat' first
    | with_reducible first | assumption | intro _ | apply svDup_keeps | apply setEvt_keeps | apply bump_keeps | apply setCtx_keeps | apply siuCount_keeps | apply ctxWait_keeps | apply ctxResume_keeps | apply ctxSide_keeps | apply svStore_keeps | apply keeps_foldl | apply keeps_upto | apply keeps_each
    | dsimp only
    | split

theorem svPlace_keeps {s0 : State} : ∀ s9 a1 a2 a3 a4 a5 a6, Keeps s0 s9 → Keeps s0 (svPlace s9 a1 a2 a3 a4 a5 a6) := by
  intro s9 a1 a2 a3 a4 a5 a6 h
  unfold svPlace
  repeat' first
    | with_reducible first | assumption | apply ctxPtrReset_keeps | apply setCtx_keeps | apply ctxWait_keeps | apply simLatch_keeps | apply svCommit_keeps
    | dsimp only
    | split

theorem svAsdu_keeps {s0 : State} (port : Nat) (f : SvFrame) (arrival first : Nat) (r : State × List Nat) (x : SvAsdu) (h : Keeps s0 r.1) :
    Keeps s0 (svAsdu port f arrival first r x).1 := by
  unfold svAsdu
  repeat' first
    | with_reducible assumption
    | with_reducible apply setEvt_keeps
    | with_reducible apply siuCount_keeps
    | with_reducible apply svPlace_keeps
    | with_reducible apply authFail_keeps
    | dsimp only
    | split

theorem svFrame_keeps {s0 : State} : ∀ s9 a1 a2 a3 a4, Keeps s0 s9 → Keeps s0 (svFrame s9 a1 a2 a3 a4) := by
  intro s port f arrival first h
  unfold svFrame
  dsimp only
  split
  · exact setEvt_keeps _ _ _ (siuCount_keeps _ _ _ (siuCount_keeps _ _ _ h))
  · refine siuEval_keeps _ (keeps_foldl_of (fun acc : State × List Nat => Keeps s0 acc.1) _ (fun acc x h => svAsdu_keeps _ _ _ _ _ _ h) _ _ ?_)
    dsimp only
    split
    · split
      · exact siuCount_keeps _ _ _ (siuCount_keeps _ _ _ h)
      · exact siuCount_keeps _ _ _ h
    · exact siuCount_keeps _ _ _ h

theorem execSvFrameRx_keeps {s0 : State} : ∀ a0 a1 a2 s1, Keeps s0 s1 → KeepsEnd s0 (execSvFrameRx a0 a1 a2 s1) := by
  intro a0 a1 a2 s1 h
  unfold execSvFrameRx
  refine keepsEnd_next ?_
  repeat' first
    | with_reducible first | assumption | apply itemNext_keeps | refine itemNext_keeps' (by assumption) ?_ | apply svFrame_keeps | apply itemTake_keeps
    | dsimp only
    | split

theorem grpDeadline_keeps {s0 : State} : ∀ s9 a1, Keeps s0 s9 → Keeps s0 (grpDeadline s9 a1) := by
  intro s9 a1 h
  unfold grpDeadline
  repeat' first
    | with_reducible first | assumption | apply grpEval_keeps | apply reachLtc_keeps
    | dsimp only
    | split

theorem execGroupDeadline_keeps {s0 : State} : ∀ a0 s1, Keeps s0 s1 → KeepsEnd s0 (execGroupDeadline a0 s1) := by
  intro a0 s1 h
  unfold execGroupDeadline
  refine keepsEnd_next ?_
  repeat' first
    | with_reducible first | assumption | apply grpDeadline_keeps
    | dsimp only
    | split

theorem execCtxLost_keeps {s0 : State} : ∀ a0 s1, Keeps s0 s1 → KeepsEnd s0 (execCtxLost a0 s1) := by
  intro a0 s1 h
  unfold execCtxLost
  refine keepsEnd_next ?_
  repeat' first
    | with_reducible first | assumption | apply grpDeadline_keeps
    | dsimp only
    | split

theorem execRecoveryCountExpiry_keeps {s0 : State} : ∀ a0 s1, Keeps s0 s1 → KeepsEnd s0 (execRecoveryCountExpiry a0 s1) := by
  intro a0 s1 h
  unfold execRecoveryCountExpiry
  refine keepsEnd_next ?_
  repeat' first
    | with_reducible first | assumption | apply grpDeadline_keeps
    | dsimp only
    | split

end Sys2Proof.Machine
end

