-- ==== Sys2Proof/Laws/KeepsSca.lean ====
section
/-! SUPPORT. What the functions of Machine/Sca.lean keep. -/

namespace Sys2Proof.Machine

theorem agPost_keeps {s0 : State} : ∀ s9 a1 a2 a3 a4, Keeps s0 s9 → Keeps s0 (agPost s9 a1 a2 a3 a4) := by
  intro s9 a1 a2 a3 a4 h
  unfold agPost
  repeat' first
    | with_reducible first | assumption | apply almPost_keeps | apply postOwner_keeps
    | dsimp only
    | split

theorem setBank_keeps {s0 : State} : ∀ s9 a1 a2, Keeps s0 s9 → Keeps s0 (setBank s9 a1 a2) :=
  fun _ _ _ h => ⟨h.mem, h.pending, h.now, h.svn, h.prov, h.decom⟩

theorem setCh_keeps {s0 : State} : ∀ s9 a1 a2, Keeps s0 s9 → Keeps s0 (setCh s9 a1 a2) :=
  fun _ _ _ h => ⟨h.mem, h.pending, h.now, h.svn, h.prov, h.decom⟩

theorem bankAtOnce_keeps {s0 : State} : ∀ s9 a1 a2, Keeps s0 s9 → Keeps s0 (bankAtOnce s9 a1 a2) := by
  intro s9 a1 a2 h
  unfold bankAtOnce
  repeat' first
    | with_reducible first | assumption | intro _ | apply setBank_keeps | apply setCh_keeps | apply keeps_foldl | apply keeps_upto | apply keeps_each
    | dsimp only
    | split

theorem bankEnd_keeps {s0 : State} : ∀ s9 a1, Keeps s0 s9 → Keeps s0 (bankEnd s9 a1) :=
  fun _ _ h => ⟨h.mem, h.pending, h.now, h.svn, h.prov, h.decom⟩

theorem bankGuard_keeps {s0 : State} : ∀ s9 a1 a2, Keeps s0 s9 → Keeps s0 (bankGuard s9 a1 a2) := by
  intro s9 a1 a2 h
  unfold bankGuard
  repeat' first
    | with_reducible first | assumption | apply guardFault_keeps | apply setBank_keeps | apply setEvt_keeps | apply scaNote_keeps
    | dsimp only
    | split

theorem fadeStart_keeps {s0 : State} : ∀ s9 a1, Keeps s0 s9 → Keeps s0 (fadeStart s9 a1) := by
  intro s9 a1 h
  unfold fadeStart
  repeat' first
    | with_reducible first | assumption | intro _ | apply setBank_keeps | apply setCh_keeps | apply keeps_foldl | apply keeps_upto | apply keeps_each
    | dsimp only
    | split

theorem bankTurn_keeps {s0 : State} : ∀ s9 a1 a2, Keeps s0 s9 → Keeps s0 (bankTurn s9 a1 a2) := by
  intro s9 a1 a2 h
  unfold bankTurn
  repeat' first
    | with_reducible first | assumption | apply setBank_keeps | apply bankAtOnce_keeps | apply fadeStart_keeps
    | dsimp only
    | split

theorem swapCollide_keeps {s0 : State} : ∀ s9 a1, Keeps s0 s9 → Keeps s0 (swapCollide s9 a1) := by
  intro s9 a1 h
  unfold swapCollide
  repeat' first
    | with_reducible first | assumption | intro _ | apply scaNote_keeps | apply bump_keeps | apply setEvt_keeps | apply keeps_foldl | apply keeps_upto | apply keeps_each
    | (extract_lets +onlyGivenNames x; refine Keeps.cut (s0 := s0) (x := x) ?_ (fun _ => ?_); unfold x; clear x; rotate_left; clear_value x; revert x; intro y _; rotate_left)
    | (extract_lets +onlyGivenNames x; subst x)
    | dsimp -zeta only [id]
    | split

theorem swapRequest_keeps {s0 : State} : ∀ s9 a1 a2, Keeps s0 s9 → Keeps s0 (swapRequest s9 a1 a2) := by
  intro s9 a1 a2 h
  unfold swapRequest
  repeat' first
    | with_reducible first | assumption | apply swapCollide_keeps | apply bankTurn_keeps | apply bankAtOnce_keeps | apply setBank_keeps
    | dsimp only
    | split

theorem setAg_keeps {s0 : State} : ∀ s9 a1 a2, Keeps s0 s9 → Keeps s0 (setAg s9 a1 a2) :=
  fun _ _ _ h => ⟨h.mem, h.pending, h.now, h.svn, h.prov, h.decom⟩

theorem freqEnter_keeps {s0 : State} : ∀ s9 a1 a2 a3, Keeps s0 s9 → Keeps s0 (freqEnter s9 a1 a2 a3) := by
  intro s9 a1 a2 a3 h
  unfold freqEnter
  repeat' first
    | with_reducible first | assumption | intro _ | apply setAg_keeps | apply setCh_keeps | apply keeps_foldl | apply keeps_upto | apply keeps_each
    | dsimp only
    | split

theorem freqToNominal_keeps {s0 : State} : ∀ s9 a1, Keeps s0 s9 → Keeps s0 (freqToNominal s9 a1) := by
  intro s9 a1 h
  unfold freqToNominal
  repeat' first
    | with_reducible first | assumption | intro _ | apply freqEnter_keeps | apply agPost_keeps | apply keeps_foldl | apply keeps_upto | apply keeps_each
    | (extract_lets +onlyGivenNames x; refine Keeps.cut (s0 := s0) (x := x) ?_ (fun _ => ?_); unfold x; clear x; rotate_left; clear_value x; revert x; intro y _; rotate_left)
    | (extract_lets +onlyGivenNames x; subst x)
    | dsimp -zeta only [id]
    | split

theorem scaInForce_keeps {s0 : State} : ∀ s9 s1, Keeps s0 s9 → Keeps s0 s1 → Keeps s0 (scaInForce s9 s1) := by
  intro s9 s1 h h
  unfold scaInForce
  repeat' first
    | with_reducible first | assumption | intro _ | apply swapRequest_keeps | apply setAg_keeps | apply freqToNominal_keeps | apply keeps_foldl | apply keeps_upto | apply keeps_each
    | dsimp only
    | split

theorem scaMeridian_keeps {s0 : State} : ∀ s9, Keeps s0 s9 → Keeps s0 (scaMeridian s9) := by
  intro s9 h
  unfold scaMeridian
  repeat' first
    | with_reducible first | assumption | intro _ | apply bankTurn_keeps | apply keeps_foldl | apply keeps_upto | apply keeps_each
    | dsimp only
    | split

theorem execBankLoad_keeps {s0 : State} : ∀ a0 a1 s2, Keeps s0 s2 → KeepsEnd s0 (execBankLoad a0 a1 s2) := by
  intro a0 a1 s2 h
  unfold execBankLoad
  refine keepsEnd_next ?_
  repeat' first
    | with_reducible first | assumption | intro _ | apply regAccess_keeps | apply setEvt_keeps | apply bankEnd_keeps | apply keeps_foldl | apply keeps_upto | apply keeps_each
    | dsimp only
    | split

theorem freqNominal_keeps {s0 : State} : ∀ s9 a1, Keeps s0 s9 → Keeps s0 (freqNominal s9 a1) := by
  intro s9 a1 h
  unfold freqNominal
  repeat' first
    | with_reducible first | assumption | apply freqToNominal_keeps | apply setEvt_keeps
    | dsimp only
    | split

theorem freqHoldCheck_keeps {s0 : State} : ∀ s9 a1, Keeps s0 s9 → Keeps s0 (freqHoldCheck s9 a1) := by
  intro s9 a1 h
  unfold freqHoldCheck
  repeat' first
    | with_reducible first | assumption | apply freqNominal_keeps
    | dsimp only
    | split

theorem frzLimitCheck_keeps {s0 : State} : ∀ s9 a1, Keeps s0 s9 → Keeps s0 (frzLimitCheck s9 a1) := by
  intro s9 a1 h
  unfold frzLimitCheck
  repeat' first
    | with_reducible first | assumption | apply setEvt_keeps | apply setAg_keeps | apply agPost_keeps
    | dsimp only
    | split

theorem fadeEnd_keeps {s0 : State} : ∀ s9 a1, Keeps s0 s9 → Keeps s0 (fadeEnd s9 a1) := by
  intro s9 a1 h
  unfold fadeEnd
  repeat' first
    | with_reducible first | assumption | intro _ | apply setBank_keeps | apply setCh_keeps | apply scaNote_keeps | apply bump_keeps | apply setEvt_keeps | apply keeps_foldl | apply keeps_upto | apply keeps_each
    | dsimp only
    | split

theorem execBankLoadDone_keeps {s0 : State} : ∀ s9, Keeps s0 s9 → KeepsEnd s0 (execBankLoadDone s9) := by
  intro s9 h
  unfold execBankLoadDone
  refine keepsEnd_next ?_
  repeat' first
    | with_reducible first | assumption | apply dmaAccess_keeps | refine dmaAccess_keeps' (by assumption) ?_ | apply bankEnd_keeps | apply setBank_keeps | apply setEvt_keeps | apply guardFault_keeps
    | dsimp only
    | split

theorem execFadeEnd_keeps {s0 : State} : ∀ a0 s1, Keeps s0 s1 → KeepsEnd s0 (execFadeEnd a0 s1) := by
  intro a0 s1 h
  unfold execFadeEnd
  refine keepsEnd_next ?_
  repeat' first
    | with_reducible first | assumption | apply fadeEnd_keeps
    | dsimp only
    | split

end Sys2Proof.Machine
end

