-- ==== Sys2Proof/Laws/KeepsChain.lean ====
section
/-! SUPPORT. What the functions of Machine/Chain.lean keep. -/

namespace Sys2Proof.Machine

theorem chRead_keeps {s0 : State} : ∀ s9 a1 a2 a3, Keeps s0 s9 → Keeps s0 (chRead s9 a1 a2 a3).2 := by
  intro s9 a1 a2 a3 h
  unfold chRead
  repeat' first
    | with_reducible first | assumption | intro _ | apply dmaRead_keeps | refine dmaRead_keeps' (by assumption) ?_ | apply keeps_foldl | apply keeps_upto | apply keeps_each
    | (extract_lets +onlyGivenNames x; refine Keeps.cut (s0 := s0) (x := x) ?_ (fun _ => ?_); unfold x; clear x; rotate_left; clear_value x; revert x; intro y _; rotate_left)
    | (extract_lets +onlyGivenNames x; subst x)
    | dsimp -zeta only [id]
    | split

theorem chReads_keeps {s0 : State} : ∀ s9 a1 a2 a3, Keeps s0 s9 → Keeps s0 (chReads s9 a1 a2 a3).2 := by
  intro s c j t h
  unfold chReads
  exact keeps_foldl_of (fun acc : List (Int × Word) × State => Keeps s0 acc.2) _ (fun acc x h => chRead_keeps _ _ _ _ h) _ _ h

theorem chReads_keeps' {s0 t : State} {r} {s9 a1 a2 a3} (e : chReads s9 a1 a2 a3 = (r, t)) (h : Keeps s0 s9) : Keeps s0 t :=
  by have := chReads_keeps s9 a1 a2 a3 h; rw [e] at this; exact this

theorem forceTake_keeps {s0 : State} : ∀ s9 a1 a2 a3, Keeps s0 s9 → Keeps s0 (forceTake s9 a1 a2 a3).2 := by
  intro s9 a1 a2 a3 h
  unfold forceTake
  repeat' first
    | with_reducible first | assumption | apply forceGuard_keeps
    | dsimp only
    | split

theorem forceTake_keeps' {s0 t : State} {r} {s9 a1 a2 a3} (e : forceTake s9 a1 a2 a3 = (r, t)) (h : Keeps s0 s9) : Keeps s0 t :=
  by have := forceTake_keeps s9 a1 a2 a3 h; rw [e] at this; exact this

theorem storePut_keeps {s0 : State} : ∀ s9 a1 a2 a3, Keeps s0 s9 → Keeps s0 (storePut s9 a1 a2 a3) := by
  intro s9 a1 a2 a3 h
  unfold storePut
  repeat' first
    | with_reducible first | assumption | apply dmaAccess_keeps | refine dmaAccess_keeps' (by assumption) ?_ | apply setEvt_keeps | apply wrBytes_keeps
    | dsimp only
    | split

theorem chRelease_keeps {s0 : State} : ∀ a0 a1 a2 s3, Keeps s0 s3 → Keeps s0 (chRelease a0 a1 a2 s3) := by
  intro a0 a1 a2 s3 h
  unfold chRelease
  repeat' first
    | with_reducible first | assumption | intro _ | apply chReads_keeps | refine chReads_keeps' (by assumption) ?_ | apply bankGuard_keeps | apply setEvt_keeps | apply setCh_keeps | apply forceTake_keeps | refine forceTake_keeps' (by assumption) ?_ | apply storePut_keeps | apply keeps_foldl | apply keeps_upto | apply keeps_each
    | (extract_lets +onlyGivenNames x; refine Keeps.cut (s0 := s0) (x := x) ?_ (fun _ => ?_); unfold x; clear x; rotate_left; clear_value x; revert x; intro y _; rotate_left)
    | (extract_lets +onlyGivenNames x; subst x)
    | dsimp -zeta only [id]
    | split

theorem scaDiscont_keeps {s0 : State} : ∀ s9 a1, Keeps s0 s9 → Keeps s0 (scaDiscont s9 a1) := by
  intro s9 a1 h
  unfold scaDiscont
  repeat' first
    | with_reducible first | assumption | apply setEvt_keeps | apply bump_keeps | apply agPost_keeps
    | dsimp only
    | split

theorem freezeStep_keeps {s0 : State} : ∀ s9 a1, Keeps s0 s9 → Keeps s0 (freezeStep s9 a1) := by
  intro s9 a1 h
  unfold freezeStep
  repeat' first
    | with_reducible first | assumption | apply bump_keeps | apply setAg_keeps
    | dsimp only
    | split

theorem relChannels_keeps {s0 : State} : ∀ s9 a1, Keeps s0 s9 → Keeps s0 (relChannels s9 a1) := by
  intro s9 a1 h
  unfold relChannels
  repeat' first
    | with_reducible first | assumption | intro _ | apply chRelease_keeps | apply setCtx_keeps | apply keeps_foldl | apply keeps_upto | apply keeps_each
    | dsimp only
    | split

theorem setClamp_keeps {s0 : State} : ∀ s9 a1 a2, Keeps s0 s9 → Keeps s0 (setClamp s9 a1 a2) := by
  intro s9 a1 a2 h
  unfold setClamp
  repeat' first
    | with_reducible first | assumption | apply setAg_keeps | apply setEvt_keeps
    | dsimp only
    | split

theorem freqStep_keeps {s0 : State} : ∀ s9 a1, Keeps s0 s9 → Keeps s0 (freqStep s9 a1) := by
  intro s9 a1 h
  unfold freqStep
  repeat' first
    | with_reducible first | assumption | apply setAg_keeps | apply setClamp_keeps | apply agPost_keeps | apply setEvt_keeps | apply freqEnter_keeps | apply bump_keeps | apply freqHoldCheck_keeps
    | dsimp only
    | split

theorem groupRecord_keeps {s0 : State} : ∀ s9 a1 a2, Keeps s0 s9 → Keeps s0 (groupRecord s9 a1 a2) := by
  intro s9 a1 a2 h
  unfold groupRecord
  repeat' first
    | with_reducible first | assumption | apply storePut_keeps
    | dsimp only
    | split

theorem svpCond_keeps {s0 : State} : ∀ s9 a1 a2, Keeps s0 s9 → Keeps s0 (svpCond s9 a1 a2) := by
  intro s9 a1 a2 h
  unfold svpCond
  repeat' first
    | with_reducible first | assumption | intro _ | apply keeps_foldl | apply keeps_upto | apply keeps_each
    | dsimp only
    | split

theorem scaRelease_keeps {s0 : State} : ∀ s9 a1, Keeps s0 s9 → Keeps s0 (scaRelease s9 a1) := by
  intro s9 a1 h
  unfold scaRelease
  repeat' first
    | with_reducible first | assumption | intro _ | apply scaDiscont_keeps | apply freezeStep_keeps | apply relChannels_keeps | apply freqStep_keeps | apply frzLimitCheck_keeps | apply setAg_keeps | apply groupRecord_keeps | apply setLive_keeps | apply fadeEnd_keeps | apply svpCond_keeps | apply keeps_foldl | apply keeps_upto | apply keeps_each
    | dsimp only
    | split

end Sys2Proof.Machine
end

