-- ==== Sys2Proof/Laws/KeepsGooseRx.lean ====
section
/-! SUPPORT. What the functions of Machine/GooseRx.lean keep. -/

namespace Sys2Proof.Machine

theorem setSub_keeps {s0 : State} : ∀ s9 a1 a2, Keeps s0 s9 → Keeps s0 (setSub s9 a1 a2) :=
  fun _ _ _ h => ⟨h.mem, h.pending, h.now, h.svn, h.prov, h.decom⟩

theorem gseKeysOld_keeps {s0 : State} : ∀ s9 s1, Keeps s0 s9 → Keeps s0 s1 → Keeps s0 (gseKeysOld s9 s1) := by
  intro s9 s1 h h
  unfold gseKeysOld
  repeat' first
    | with_reducible first | assumption | intro _ | apply keeps_foldl | apply keeps_upto | apply keeps_each
    | (extract_lets +onlyGivenNames x; refine Keeps.cut (s0 := s0) (x := x) ?_ (fun _ => ?_); unfold x; clear x; rotate_left; clear_value x; revert x; intro y _; rotate_left)
    | (extract_lets +onlyGivenNames x; subst x)
    | dsimp -zeta only [id]
    | split

theorem subWait_keeps {s0 : State} : ∀ s9 a1, Keeps s0 s9 → Keeps s0 (subWait s9 a1) :=
  fun _ _ h => ⟨h.mem, h.pending, h.now, h.svn, h.prov, h.decom⟩

theorem subMapRead_keeps {s0 : State} : ∀ s9 a1, Keeps s0 s9 → Keeps s0 (subMapRead s9 a1) := by
  intro s9 a1 h
  unfold subMapRead
  repeat' first
    | with_reducible first | assumption | apply dmaAccess_keeps | refine dmaAccess_keeps' (by assumption) ?_ | apply setEvt_keeps | apply setSub_keeps
    | dsimp only
    | split

theorem gseInForce_keeps {s0 : State} : ∀ s9 s1, Keeps s0 s9 → Keeps s0 s1 → Keeps s0 (gseInForce s9 s1) := by
  intro s9 s1 h h
  unfold gseInForce
  repeat' first
    | with_reducible first | assumption | intro _ | apply gseKeysOld_keeps | apply gpDescRead_keeps | apply setSub_keeps | apply subWait_keeps | apply subMapRead_keeps | apply keeps_foldl | apply keeps_upto | apply keeps_each
    | dsimp only
    | split

theorem subPost_keeps {s0 : State} : ∀ s9 a1 a2 a3 a4 a5, Keeps s0 s9 → Keeps s0 (subPost s9 a1 a2 a3 a4 a5) := by
  intro s9 a1 a2 a3 a4 a5 h
  unfold subPost
  repeat' first
    | with_reducible first | assumption | apply almPost_keeps | apply postOwner_keeps
    | dsimp only
    | split

theorem subLatch_keeps {s0 : State} : ∀ s9 a1 a2, Keeps s0 s9 → Keeps s0 (subLatch s9 a1 a2) := by
  intro s9 a1 a2 h
  unfold subLatch
  repeat' first
    | with_reducible first | assumption | apply subWait_keeps | apply subPost_keeps | apply setSub_keeps
    | dsimp only
    | split

theorem gseSim_keeps {s0 : State} : ∀ s9, Keeps s0 s9 → Keeps s0 (gseSim s9) := by
  intro s9 h
  unfold gseSim
  repeat' first
    | with_reducible first | assumption | intro _ | apply subLatch_keeps | apply keeps_foldl | apply keeps_upto | apply keeps_each
    | dsimp only
    | split

theorem gseCount_keeps {s0 : State} : ∀ s9 a1, Keeps s0 s9 → Keeps s0 (gseCount s9 a1) :=
  fun _ _ h => ⟨h.mem, h.pending, h.now, h.svn, h.prov, h.decom⟩

theorem subConfRev_keeps {s0 : State} : ∀ s9 a1, Keeps s0 s9 → Keeps s0 (subConfRev s9 a1) := by
  intro s9 a1 h
  unfold subConfRev
  repeat' first
    | with_reducible first | assumption | apply subPost_keeps | apply gseCount_keeps | apply setEvt_keeps
    | dsimp only
    | split

theorem subAuthFail_keeps {s0 : State} : ∀ s9 a1, Keeps s0 s9 → Keeps s0 (subAuthFail s9 a1) := by
  intro s9 a1 h
  unfold subAuthFail
  repeat' first
    | with_reducible first | assumption | apply subPost_keeps | apply setEvt_keeps
    | dsimp only
    | split

theorem subRenew_keeps {s0 : State} : ∀ s9 a1 a2, Keeps s0 s9 → Keeps s0 (subRenew s9 a1 a2) := by
  intro s9 a1 a2 h
  unfold subRenew
  repeat' first
    | with_reducible first | assumption | apply setSub_keeps | apply subPost_keeps | apply setEvt_keeps
    | dsimp only
    | split

theorem recStore_keeps {s0 : State} : ∀ s9 a1 a2 a3, Keeps s0 s9 → Keeps s0 (recStore s9 a1 a2 a3) := by
  intro s9 a1 a2 a3 h
  unfold recStore
  repeat' first
    | with_reducible first | assumption | apply dmaAccess_keeps | refine dmaAccess_keeps' (by assumption) ?_ | apply setEvt_keeps | apply wr32_keeps | apply wrBytes_keeps
    | dsimp only
    | split

theorem recNew_keeps {s0 : State} : ∀ s9 a1 a2 a3 a4, Keeps s0 s9 → Keeps s0 (recNew s9 a1 a2 a3 a4) := by
  intro s9 a1 a2 a3 a4 h
  unfold recNew
  repeat' first
    | with_reducible first | assumption | apply recStore_keeps
    | dsimp only
    | split

theorem sinkFlag_keeps {s0 : State} : ∀ s9 a1 a2 a3, Keeps s0 s9 → Keeps s0 (sinkFlag s9 a1 a2 a3) := by
  intro s9 a1 a2 a3 h
  unfold sinkFlag
  repeat' first
    | with_reducible first | assumption | apply flagWord_keeps | refine flagWord_keeps' (by assumption) ?_
    | dsimp only
    | split

theorem sinkApply_keeps {s0 : State} : ∀ a0 a1 a2 a3 s4, Keeps s0 s4 → Keeps s0 (sinkApply a0 a1 a2 a3 s4) := by
  intro a0 a1 a2 a3 s4 h
  unfold sinkApply
  repeat' first
    | with_reducible first | assumption | apply sinkFlag_keeps | apply cmdOrder_keeps
    | dsimp only
    | split

theorem subNew_keeps {s0 : State} : ∀ s9 a1 a2 a3, Keeps s0 s9 → Keeps s0 (subNew s9 a1 a2 a3) := by
  intro s9 a1 a2 a3 h
  unfold subNew
  repeat' first
    | with_reducible first | assumption | intro _ | apply setSub_keeps | apply subRenew_keeps | apply recNew_keeps | apply sinkApply_keeps | apply fireEvent_keeps | apply drcTrigger_keeps | apply keeps_foldl | apply keeps_upto | apply keeps_each
    | dsimp only
    | split

theorem recState_keeps {s0 : State} : ∀ s9 a1, Keeps s0 s9 → Keeps s0 (recState s9 a1) := by
  intro s9 a1 h
  unfold recState
  repeat' first
    | with_reducible first | assumption | apply recStore_keeps
    | dsimp only
    | split

theorem subAccept_keeps {s0 : State} : ∀ s9 a1 a2 a3, Keeps s0 s9 → Keeps s0 (subAccept s9 a1 a2 a3) := by
  intro s9 a1 a2 a3 h
  unfold subAccept
  repeat' first
    | with_reducible first | assumption | apply subLatch_keeps | apply subNew_keeps | apply subRenew_keeps | apply recState_keeps | apply gseCount_keeps
    | dsimp only
    | split

theorem subJudge_keeps {s0 : State} : ∀ a0 a1 a2 s3, Keeps s0 s3 → Keeps s0 (subJudge a0 a1 a2 s3) := by
  intro a0 a1 a2 s3 h
  unfold subJudge
  repeat' first
    | with_reducible first | assumption | apply subConfRev_keeps | apply setEvt_keeps | apply gseCount_keeps | apply subAuthFail_keeps | apply subAccept_keeps
    | dsimp only
    | split

theorem gooseFrame_keeps {s0 : State} : ∀ s9 a1 a2, Keeps s0 s9 → Keeps s0 (gooseFrame s9 a1 a2) := by
  intro s9 a1 a2 h
  unfold gooseFrame
  repeat' first
    | with_reducible first | assumption | intro _ | apply gseCount_keeps | apply setEvt_keeps | apply subJudge_keeps | apply keeps_foldl | apply keeps_upto | apply keeps_each
    | (extract_lets +onlyGivenNames x; refine Keeps.cut (s0 := s0) (x := x) ?_ (fun _ => ?_); unfold x; clear x; rotate_left; clear_value x; revert x; intro y _; rotate_left)
    | (extract_lets +onlyGivenNames x; subst x)
    | dsimp -zeta only [id]
    | split

theorem execGooseRx_keeps {s0 : State} : ∀ a0 s1, Keeps s0 s1 → KeepsEnd s0 (execGooseRx a0 s1) := by
  intro a0 s1 h
  unfold execGooseRx
  refine keepsEnd_next ?_
  repeat' first
    | with_reducible first | assumption | intro _ | apply itemNext_keeps | refine itemNext_keeps' (by assumption) ?_ | apply gooseFrame_keeps | apply itemTake_keeps | apply keeps_foldl | apply keeps_upto | apply keeps_each
    | dsimp only
    | split

theorem sinkFail_keeps {s0 : State} : ∀ s9 a1, Keeps s0 s9 → Keeps s0 (sinkFail s9 a1) := by
  intro s9 a1 h
  unfold sinkFail
  repeat' first
    | with_reducible first | assumption | intro _ | apply sinkFlag_keeps | apply keeps_foldl | apply keeps_upto | apply keeps_each
    | dsimp only
    | split

theorem execGooseTalExpiry_keeps {s0 : State} : ∀ a0 s1, Keeps s0 s1 → KeepsEnd s0 (execGooseTalExpiry a0 s1) := by
  intro a0 s1 h
  unfold execGooseTalExpiry
  refine keepsEnd_next ?_
  repeat' first
    | with_reducible first | assumption | apply reachLtc_keeps | apply setEvt_keeps | apply setSub_keeps | apply subPost_keeps | apply sinkFail_keeps | apply recState_keeps
    | dsimp only
    | split

end Sys2Proof.Machine
end

