-- ==== Sys2Proof/Laws/KeepsMirRx.lean ====
section
/-! SUPPORT. What the functions of Machine/MirRx.lean keep. -/

namespace Sys2Proof.Machine

theorem applyFlag_keeps {s0 : State} : ∀ s9 a1 a2, Keeps s0 s9 → Keeps s0 (applyFlag s9 a1 a2) := by
  intro s9 a1 a2 h
  unfold applyFlag
  repeat' first
    | with_reducible first | assumption | apply flagReset_keeps | apply flagTriggers_keeps | apply gseFlag_keeps | apply lanesUpdate_keeps
    | dsimp only
    | split

theorem applyForces_keeps {s0 : State} : ∀ s9 a1 a2, Keeps s0 s9 → Keeps s0 (applyForces s9 a1 a2) := by
  intro s9 a1 a2 h
  unfold applyForces
  repeat' first
    | with_reducible first | assumption | intro _ | apply setForce_keeps | apply setShadow_keeps | apply keeps_foldl | apply keeps_upto | apply keeps_each
    | dsimp only
    | split

theorem applyPub_keeps {s0 : State} : ∀ s9 a1 a2, Keeps s0 s9 → Keeps s0 (applyPub s9 a1 a2) :=
  fun _ _ _ h => ⟨h.mem, h.pending, h.now, h.svn, h.prov, h.decom⟩

theorem applySub_keeps {s0 : State} : ∀ s9 a1 a2, Keeps s0 s9 → Keeps s0 (applySub s9 a1 a2) :=
  fun _ _ _ h => ⟨h.mem, h.pending, h.now, h.svn, h.prov, h.decom⟩

theorem applyObj_keeps {s0 : State} : ∀ s9 a1 a2, Keeps s0 s9 → Keeps s0 (applyObj s9 a1 a2) := by
  intro s9 a1 a2 h
  unfold applyObj
  repeat' first
    | with_reducible first | assumption | apply objGuard_keeps | apply setObj_keeps
    | dsimp only
    | split

theorem applyPart_keeps {s0 : State} : ∀ s9 a1 a2, Keeps s0 s9 → Keeps s0 (applyPart s9 a1 a2) :=
  fun _ _ _ h => ⟨h.mem, h.pending, h.now, h.svn, h.prov, h.decom⟩

theorem applyLine_keeps {s0 : State} : ∀ s9 a1, Keeps s0 s9 → Keeps s0 (applyLine s9 a1) := by
  intro s9 a1 h
  unfold applyLine
  repeat' first
    | with_reducible first | assumption | intro _ | apply dmaWrite_keeps | apply applyFlag_keeps | apply applyPub_keeps | apply applySub_keeps | apply applyObj_keeps | apply applyPart_keeps | apply setTask_keeps | apply applyForces_keeps | apply setMp_keeps | apply keeps_foldl | apply keeps_upto | apply keeps_each
    | dsimp only
    | split

theorem seqIn_keeps {s0 : State} : ∀ s9 a1, Keeps s0 s9 → Keeps s0 (seqIn s9 a1) := by
  intro s9 a1 h
  unfold seqIn
  repeat' first
    | with_reducible first | assumption | apply mirCount_keeps | apply modMir_keeps
    | dsimp only
    | split

theorem autoInstall_keeps {s0 : State} : ∀ s9 a1 a2, Keeps s0 s9 → Keeps s0 (autoInstall s9 a1 a2) := by
  intro s9 a1 a2 h
  unfold autoInstall
  repeat' first
    | with_reducible first | assumption | apply modPart_keeps | apply newTasks_keeps | apply flipBanks_keeps
    | dsimp only
    | split

theorem autoInstalls_keeps {s0 : State} : ∀ s9, Keeps s0 s9 → Keeps s0 (autoInstalls s9) := by
  intro s9 h
  unfold autoInstalls
  repeat' first
    | with_reducible first | assumption | intro _ | apply autoInstall_keeps | apply keeps_foldl | apply keeps_upto | apply keeps_each
    | dsimp only
    | split

theorem applyPacket_keeps {s0 : State} : ∀ s9 a1, Keeps s0 s9 → Keeps s0 (applyPacket s9 a1) := by
  intro s9 a1 h
  unfold applyPacket
  repeat' first
    | with_reducible first | assumption | intro _ | apply seqIn_keeps | apply autoInstalls_keeps | apply modMir_keeps | apply applyLine_keeps | apply keeps_foldl | apply keeps_upto | apply keeps_each
    | dsimp only
    | split

theorem laneDown_keeps {s0 : State} : ∀ s9 a1, Keeps s0 s9 → Keeps s0 (laneDown s9 a1) := by
  intro s9 a1 h
  unfold laneDown
  repeat' first
    | with_reducible first | assumption | apply mirNote_keeps
    | dsimp only
    | split

theorem execMirEnable_keeps {s0 : State} : ∀ a0 s1, Keeps s0 s1 → KeepsEnd s0 (execMirEnable a0 s1) := by
  intro a0 s1 h
  unfold execMirEnable
  refine keepsEnd_next ?_
  repeat' first
    | with_reducible first | assumption | intro _ | apply regAccess_keeps | apply setEvt_keeps | apply mastership_keeps | apply dropPending_keeps | apply setShadow_keeps | apply keeps_foldl | apply keeps_upto | apply keeps_each
    | dsimp only
    | split

theorem execMirDisable_keeps {s0 : State} : ∀ a0 s1, Keeps s0 s1 → KeepsEnd s0 (execMirDisable a0 s1) := by
  intro a0 s1 h
  unfold execMirDisable
  refine keepsEnd_next ?_
  repeat' first
    | with_reducible first | assumption | intro _ | apply regAccess_keeps | apply mastership_keeps | apply setShadow_keeps | apply keeps_foldl | apply keeps_upto | apply keeps_each
    | dsimp only
    | split

theorem execHandover_keeps {s0 : State} : ∀ a0 s1, Keeps s0 s1 → KeepsEnd s0 (execHandover a0 s1) := by
  intro a0 s1 h
  unfold execHandover
  refine keepsEnd_next ?_
  repeat' first
    | with_reducible first | assumption | intro _ | apply regAccess_keeps | apply modMir_keeps | apply setEvt_keeps | apply keeps_foldl | apply keeps_upto | apply keeps_each
    | dsimp only
    | split

theorem execLeaseFrameTx_keeps {s0 : State} : ∀ s9, Keeps s0 s9 → KeepsEnd s0 (execLeaseFrameTx s9) := by
  intro s9 h
  unfold execLeaseFrameTx
  refine keepsEnd_next ?_
  repeat' first
    | with_reducible first | assumption | apply mirTick_keeps | apply reachLtc_keeps | apply modMir_keeps
    | dsimp only
    | split

theorem twilightWord_keeps {s0 : State} : ∀ s9 a1, Keeps s0 s9 → Keeps s0 (twilightWord s9 a1) := by
  intro s9 a1 h
  unfold twilightWord
  repeat' first
    | with_reducible first | assumption | apply mirNote_keeps | apply modMir_keeps | apply ptnrUpdate_keeps
    | dsimp only
    | split

theorem renewIn_keeps {s0 : State} : ∀ s9 a1, Keeps s0 s9 → Keeps s0 (renewIn s9 a1) := by
  intro s9 a1 h
  unfold renewIn
  repeat' first
    | with_reducible first | assumption | apply yieldLease_keeps | apply mirCount_keeps
    | dsimp only
    | split

theorem statusIn_keeps {s0 : State} : ∀ s9 a1, Keeps s0 s9 → Keeps s0 (statusIn s9 a1) := by
  intro s9 a1 h
  unfold statusIn
  repeat' first
    | with_reducible first | assumption | apply ptnrUpdate_keeps | apply modMir_keeps
    | dsimp only
    | split

theorem roleWord_keeps {s0 : State} : ∀ s9 a1 a2, Keeps s0 s9 → Keeps s0 (roleWord s9 a1 a2) := by
  intro s9 a1 a2 h
  unfold roleWord
  repeat' first
    | with_reducible first | assumption | apply renewIn_keeps | apply statusIn_keeps | apply yieldLease_keeps | apply modMir_keeps | apply enterStandby_keeps
    | dsimp only
    | split

theorem wordIn_keeps {s0 : State} : ∀ s9 a1 a2, Keeps s0 s9 → Keeps s0 (wordIn s9 a1 a2) := by
  intro s9 a1 a2 h
  unfold wordIn
  repeat' first
    | with_reducible first | assumption | apply mirCount_keeps | apply setEvt_keeps | apply modMir_keeps | apply twilightWord_keeps | apply roleWord_keeps
    | dsimp only
    | split

theorem execRenewRx_keeps {s0 : State} : ∀ a0 s1, Keeps s0 s1 → KeepsEnd s0 (execRenewRx a0 s1) := by
  intro a0 s1 h
  unfold execRenewRx
  refine keepsEnd_next ?_
  repeat' first
    | with_reducible first | assumption | apply wordIn_keeps
    | dsimp only
    | split

theorem execStatusRx_keeps {s0 : State} : ∀ a0 s1, Keeps s0 s1 → KeepsEnd s0 (execStatusRx a0 s1) := by
  intro a0 s1 h
  unfold execStatusRx
  refine keepsEnd_next ?_
  repeat' first
    | with_reducible first | assumption | apply wordIn_keeps
    | dsimp only
    | split

theorem execClaimRx_keeps {s0 : State} : ∀ a0 s1, Keeps s0 s1 → KeepsEnd s0 (execClaimRx a0 s1) := by
  intro a0 s1 h
  unfold execClaimRx
  refine keepsEnd_next ?_
  repeat' first
    | with_reducible first | assumption | apply wordIn_keeps
    | dsimp only
    | split

theorem execReleaseRx_keeps {s0 : State} : ∀ a0 s1, Keeps s0 s1 → KeepsEnd s0 (execReleaseRx a0 s1) := by
  intro a0 s1 h
  unfold execReleaseRx
  refine keepsEnd_next ?_
  repeat' first
    | with_reducible first | assumption | apply wordIn_keeps
    | dsimp only
    | split

theorem execTwilightRx_keeps {s0 : State} : ∀ a0 s1, Keeps s0 s1 → KeepsEnd s0 (execTwilightRx a0 s1) := by
  intro a0 s1 h
  unfold execTwilightRx
  refine keepsEnd_next ?_
  repeat' first
    | with_reducible first | assumption | apply wordIn_keeps
    | dsimp only
    | split

theorem execTwClearRx_keeps {s0 : State} : ∀ a0 s1, Keeps s0 s1 → KeepsEnd s0 (execTwClearRx a0 s1) := by
  intro a0 s1 h
  unfold execTwClearRx
  refine keepsEnd_next ?_
  repeat' first
    | with_reducible first | assumption | apply wordIn_keeps
    | dsimp only
    | split

theorem packetDrop_keeps {s0 : State} : ∀ s9, Keeps s0 s9 → Keeps s0 (packetDrop s9) :=
  fun _ h => ⟨h.mem, h.pending, h.now, h.svn, h.prov, h.decom⟩

theorem execTickPacketRx_keeps {s0 : State} : ∀ a0 s1, Keeps s0 s1 → KeepsEnd s0 (execTickPacketRx a0 s1) := by
  intro a0 s1 h
  unfold execTickPacketRx
  refine keepsEnd_next ?_
  repeat' first
    | with_reducible first | assumption | apply ptrSum_keeps | apply modMir_keeps | apply packetDrop_keeps | apply mirNote_keeps | apply readyUpdate_keeps | apply guardFault_keeps | apply applyPacket_keeps | apply wordIn_keeps
    | dsimp only
    | split

theorem execMirLaneDown_keeps {s0 : State} : ∀ a0 s1, Keeps s0 s1 → KeepsEnd s0 (execMirLaneDown a0 s1) := by
  intro a0 s1 h
  unfold execMirLaneDown
  refine keepsEnd_next ?_
  repeat' first
    | with_reducible first | assumption | apply laneDown_keeps | apply modMir_keeps
    | dsimp only
    | split

theorem execMirrorLaneUp_keeps {s0 : State} : ∀ a0 s1, Keeps s0 s1 → KeepsEnd s0 (execMirrorLaneUp a0 s1) :=
  fun _ _ h => ⟨h.mem, h.pending, h.now, h.svn, h.prov, h.decom⟩

theorem execLeaseWordInvalid_keeps {s0 : State} : ∀ a0 s1, Keeps s0 s1 → KeepsEnd s0 (execLeaseWordInvalid a0 s1) := by
  intro a0 s1 h
  unfold execLeaseWordInvalid
  refine keepsEnd_next ?_
  repeat' first
    | with_reducible first | assumption | apply mirCount_keeps | apply guardFault_keeps
    | dsimp only
    | split

end Sys2Proof.Machine
end

