-- ==== Sys2Proof/Laws/KeepsDiag.lean ====
section
/-! SUPPORT. What the functions of Machine/Diag.lean keep. -/

namespace Sys2Proof.Machine

theorem bistRecord_keeps {s0 : State} : ∀ s9 a1, Keeps s0 s9 → Keeps s0 (bistRecord s9 a1) := by
  intro s9 a1 h
  unfold bistRecord
  repeat' first
    | with_reducible first | assumption | apply almPost_keeps | apply setEvt_keeps
    | dsimp only
    | split

theorem diagNote_keeps {s0 : State} : ∀ s9 a1 a2 a3, Keeps s0 s9 → Keeps s0 (diagNote s9 a1 a2 a3) := by
  intro s9 a1 a2 a3 h
  unfold diagNote
  repeat' first
    | with_reducible first | assumption | apply notifyAll_keeps
    | dsimp only
    | split

theorem modDiag_keeps {s0 : State} : ∀ s9 a1, Keeps s0 s9 → Keeps s0 (modDiag s9 a1) :=
  fun _ _ h => ⟨h.mem, h.pending, h.now, h.svn, h.prov, h.decom⟩

theorem diagInForce_keeps {s0 : State} : ∀ s9 s1, Keeps s0 s9 → Keeps s0 s1 → Keeps s0 (diagInForce s9 s1) := by
  intro s9 s1 h h
  unfold diagInForce
  repeat' first
    | with_reducible first | assumption | intro _ | apply laneDown_keeps | apply diagNote_keeps | apply modDiag_keeps | apply keeps_foldl | apply keeps_upto | apply keeps_each
    | dsimp only
    | split

theorem execRbTest_keeps {s0 : State} : ∀ a0 a1 s2, Keeps s0 s2 → KeepsEnd s0 (execRbTest a0 a1 s2) := by
  intro a0 a1 s2 h
  unfold execRbTest
  refine keepsEnd_next ?_
  repeat' first
    | with_reducible first | assumption | intro _ | apply regAccess_keeps | apply modDiag_keeps | apply keeps_foldl | apply keeps_upto | apply keeps_each
    | dsimp only
    | split

theorem execBistRerun_keeps {s0 : State} : ∀ a0 a1 s2, Keeps s0 s2 → KeepsEnd s0 (execBistRerun a0 a1 s2) := by
  intro a0 a1 s2 h
  unfold execBistRerun
  refine keepsEnd_next ?_
  repeat' first
    | with_reducible first | assumption | intro _ | apply regAccess_keeps | apply modDiag_keeps | apply keeps_foldl | apply keeps_upto | apply keeps_each
    | dsimp only
    | split

theorem execReadbackMismatch_keeps {s0 : State} : ∀ a0 s1, Keeps s0 s1 → KeepsEnd s0 (execReadbackMismatch a0 s1) := by
  intro a0 s1 h
  unfold execReadbackMismatch
  refine keepsEnd_next ?_
  repeat' first
    | with_reducible first | assumption | apply rbError_keeps
    | dsimp only
    | split

theorem execReadbackClear_keeps {s0 : State} : ∀ a0 s1, Keeps s0 s1 → KeepsEnd s0 (execReadbackClear a0 s1) :=
  fun _ _ h => ⟨h.mem, h.pending, h.now, h.svn, h.prov, h.decom⟩

theorem execRbTestDone_keeps {s0 : State} : ∀ a0 a1 s2, Keeps s0 s2 → KeepsEnd s0 (execRbTestDone a0 a1 s2) := by
  intro a0 a1 s2 h
  unfold execRbTestDone
  refine keepsEnd_next ?_
  repeat' first
    | with_reducible first | assumption | apply reach_keeps | apply modDiag_keeps | apply diagNote_keeps | apply almPost_keeps | apply setEvt_keeps
    | dsimp only
    | split

theorem execBistDone_keeps {s0 : State} : ∀ a0 s1, Keeps s0 s1 → KeepsEnd s0 (execBistDone a0 s1) := by
  intro a0 s1 h
  unfold execBistDone
  refine keepsEnd_next ?_
  repeat' first
    | with_reducible first | assumption | apply modDiag_keeps | apply bistRecord_keeps
    | dsimp only
    | split

theorem execBuiltInSelfTest_keeps {s0 : State} : ∀ a0 s1, Keeps s0 s1 → KeepsEnd s0 (execBuiltInSelfTest a0 s1) := by
  intro fails s h
  unfold execBuiltInSelfTest
  change Keeps _ _
  split
  · exact h
  · have g : Keeps s0 (((List.range 9).filter fun t => fails.getLsbD t).foldl bistRecord (modDiag s fun d => { d with bistFail := word fails.toNat })) :=
      keeps_foldl _ (fun s a h => bistRecord_keeps _ _ h) _ _ (modDiag_keeps _ _ h)
    dsimp only
    split
    · exact ⟨g.mem, g.pending, g.now, g.svn, g.prov, g.decom⟩
    · exact modDiag_keeps _ _ g

end Sys2Proof.Machine
end

