-- ==== Sys2Proof/Laws/KeepsDrcRow.lean ====
section
/-! SUPPORT. What the functions of Machine/DrcRow.lean keep. -/

namespace Sys2Proof.Machine

theorem setAtu_keeps {s0 : State} : ∀ s9 a1 a2, Keeps s0 s9 → Keeps s0 (setAtu s9 a1 a2) :=
  fun _ _ _ h => ⟨h.mem, h.pending, h.now, h.svn, h.prov, h.decom⟩

theorem atuCompare_keeps {s0 : State} : ∀ s9 a1 a2 a3 a4 a5, Keeps s0 s9 → Keeps s0 (atuCompare s9 a1 a2 a3 a4 a5) := by
  intro s9 a1 a2 a3 a4 a5 h
  unfold atuCompare
  repeat' first
    | with_reducible first | assumption | apply bump_keeps | apply setAtu_keeps | apply drcTrigger_keeps
    | dsimp only
    | split

theorem atuValue_keeps {s0 : State} : ∀ s9 a1 a2, Keeps s0 s9 → Keeps s0 (atuValue s9 a1 a2).2 := by
  intro s9 a1 a2 h
  unfold atuValue
  repeat' first
    | with_reducible first | assumption | intro _ | apply dmaRead_keeps | refine dmaRead_keeps' (by assumption) ?_ | apply keeps_foldl | apply keeps_upto | apply keeps_each
    | (extract_lets +onlyGivenNames x; refine Keeps.cut (s0 := s0) (x := x) ?_ (fun _ => ?_); unfold x; clear x; rotate_left; clear_value x; revert x; intro y _; rotate_left)
    | (extract_lets +onlyGivenNames x; subst x)
    | dsimp -zeta only [id]
    | split

theorem atuValue_keeps' {s0 t : State} {r} {s9 a1 a2} (e : atuValue s9 a1 a2 = (r, t)) (h : Keeps s0 s9) : Keeps s0 t :=
  by have := atuValue_keeps s9 a1 a2 h; rw [e] at this; exact this

theorem atuStep_keeps {s0 : State} : ∀ s9 a1 a2, Keeps s0 s9 → Keeps s0 (atuStep s9 a1 a2) := by
  intro s9 a1 a2 h
  unfold atuStep
  repeat' first
    | with_reducible first | assumption | apply atuValue_keeps | refine atuValue_keeps' (by assumption) ?_ | apply setAtu_keeps | apply atuCompare_keeps
    | dsimp only
    | split

theorem atuRelease_keeps {s0 : State} : ∀ s9 a1 a2, Keeps s0 s9 → Keeps s0 (atuRelease s9 a1 a2) := by
  intro s9 a1 a2 h
  unfold atuRelease
  repeat' first
    | with_reducible first | assumption | intro _ | apply atuStep_keeps | apply keeps_foldl | apply keeps_upto | apply keeps_each
    | dsimp only
    | split

theorem drcInForce_keeps {s0 : State} : ∀ s9 a1, Keeps s0 s9 → Keeps s0 (drcInForce s9 a1) := by
  intro s9 a1 h
  unfold drcInForce
  repeat' first
    | with_reducible first | assumption | intro _ | apply setAtu_keeps | apply keeps_foldl | apply keeps_upto | apply keeps_each
    | dsimp only
    | split

theorem drcCheckPtr_keeps {s0 : State} : ∀ s9, Keeps s0 s9 → Keeps s0 (drcCheckPtr s9) := by
  intro s9 h
  unfold drcCheckPtr
  repeat' first
    | with_reducible first | assumption | apply drcPtrReset_keeps
    | dsimp only
    | split

theorem drcDisable_keeps {s0 : State} : ∀ s9, Keeps s0 s9 → Keeps s0 (drcDisable s9) := by
  intro s9 h
  unfold drcDisable
  repeat' first
    | with_reducible first | assumption | apply setShadow_keeps | apply drcHeader_keeps | apply setSeg_keeps | apply drcWrite_keeps
    | dsimp only
    | split

theorem drcFreeAll_keeps {s0 : State} : ∀ s9, Keeps s0 s9 → Keeps s0 (drcFreeAll s9) := by
  intro s9 h
  unfold drcFreeAll
  repeat' first
    | with_reducible first | assumption | intro _ | apply drcWrite_keeps | apply keeps_foldl | apply keeps_upto | apply keeps_each
    | dsimp only
    | split

theorem drcEnable_keeps {s0 : State} : ∀ s9, Keeps s0 s9 → Keeps s0 (drcEnable s9) := by
  intro s9 h
  unfold drcEnable
  repeat' first
    | with_reducible first | assumption | apply setEvt_keeps | apply drcFreeAll_keeps | apply setShadow_keeps | apply drcArm_keeps
    | dsimp only
    | split

theorem drcMeridian_keeps {s0 : State} : ∀ s9 a1 a2 a3, Keeps s0 s9 → Keeps s0 (drcMeridian s9 a1 a2 a3) := by
  intro s9 a1 a2 a3 h
  unfold drcMeridian
  repeat' first
    | with_reducible first | assumption
    | dsimp only
    | split

theorem drcRead_keeps {s0 : State} : ∀ s9 a1, Keeps s0 s9 → Keeps s0 (drcRead s9 a1).2 := by
  intro s9 a1 h
  unfold drcRead
  repeat' first
    | with_reducible first | assumption | apply drcBytes_keeps | refine drcBytes_keeps' (by assumption) ?_
    | dsimp only
    | split

theorem execDrcEnable_keeps {s0 : State} : ∀ a0 s1, Keeps s0 s1 → KeepsEnd s0 (execDrcEnable a0 s1) := by
  intro a0 s1 h
  unfold execDrcEnable
  refine keepsEnd_next ?_
  repeat' first
    | with_reducible first | assumption | apply regAccess_keeps | apply drcEnable_keeps
    | dsimp only
    | split

theorem execDrcDisable_keeps {s0 : State} : ∀ a0 s1, Keeps s0 s1 → KeepsEnd s0 (execDrcDisable a0 s1) := by
  intro a0 s1 h
  unfold execDrcDisable
  refine keepsEnd_next ?_
  repeat' first
    | with_reducible first | assumption | apply regAccess_keeps | apply drcDisable_keeps
    | dsimp only
    | split

theorem execAlmPostGo_keeps {s0 : State} : ∀ a0 s1, Keeps s0 s1 → KeepsEnd s0 (execAlmPostGo a0 s1) := by
  intro a0 s1 h
  unfold execAlmPostGo
  refine keepsEnd_next ?_
  repeat' first
    | with_reducible first | assumption | intro _ | apply regAccess_keeps | apply setEvt_keeps | apply almPost_keeps | apply keeps_foldl | apply keeps_upto | apply keeps_each
    | dsimp only
    | split

theorem execAlmSeek_keeps {s0 : State} : ∀ a0 a1 s2, Keeps s0 s2 → KeepsEnd s0 (execAlmSeek a0 a1 s2) := by
  intro a0 a1 s2 h
  unfold execAlmSeek
  refine keepsEnd_next ?_
  repeat' first
    | with_reducible first | assumption | intro _ | apply regAccess_keeps | apply setShadow_keeps | apply keeps_foldl | apply keeps_upto | apply keeps_each
    | dsimp only
    | split

theorem rowEntry_keeps {s0 : State} (t : Nat) (acc : List Word × Nat × State) (c : Nat) (h : Keeps s0 acc.2.2) :
    Keeps s0 (rowEntry t acc c).2.2 := by
  unfold rowEntry
  dsimp only
  split
  · dsimp only
    split
    · exact setEvt_keeps _ _ _ h
    · exact h
  · exact keeps_foldl_of (fun x : List Word × State => Keeps s0 x.2) (fun x a => (x.1 ++ (drcRead x.2 a).1, (drcRead x.2 a).2)) (fun x a h => drcRead_keeps _ _ h) _ (([] : List Word), acc.2.2) h

theorem rowBytes_keeps {s0 : State} : ∀ s9 a1, Keeps s0 s9 → Keeps s0 (rowBytes s9 a1).2 := by
  intro s r h
  unfold rowBytes
  exact keeps_foldl_of (fun acc : List Word × Nat × State => Keeps s0 acc.2.2) _ (fun acc c h => rowEntry_keeps _ _ _ h) _ _ h

theorem rowBytes_keeps' {s0 t : State} {r} {s9 a1} (e : rowBytes s9 a1 = (r, t)) (h : Keeps s0 s9) : Keeps s0 t :=
  by have := rowBytes_keeps s9 a1 h; rw [e] at this; exact this

theorem rowPre_keeps {s0 : State} : ∀ s9 a1 a2, Keeps s0 s9 → Keeps s0 (rowPre s9 a1 a2) := by
  intro s9 a1 a2 h
  unfold rowPre
  repeat' first
    | with_reducible first | assumption | apply drcWrite_keeps | apply setSeg_keeps
    | dsimp only
    | split

theorem rowPost_keeps {s0 : State} : ∀ s9 a1 a2, Keeps s0 s9 → Keeps s0 (rowPost s9 a1 a2) := by
  intro s9 a1 a2 h
  unfold rowPost
  repeat' first
    | with_reducible first | assumption | apply setSeg_keeps | apply drcWrite_keeps | apply drcClose_keeps
    | dsimp only
    | split

theorem rowStore_keeps {s0 : State} : ∀ s9 a1, Keeps s0 s9 → Keeps s0 (rowStore s9 a1) := by
  intro s9 a1 h
  unfold rowStore
  repeat' first
    | with_reducible first | assumption | apply rowBytes_keeps | refine rowBytes_keeps' (by assumption) ?_ | apply rowPre_keeps | apply rowPost_keeps
    | dsimp only
    | split

theorem execDrcRowWrite_keeps {s0 : State} : ∀ s9, Keeps s0 s9 → KeepsEnd s0 (execDrcRowWrite s9) := by
  intro s9 h
  unfold execDrcRowWrite
  refine keepsEnd_next ?_
  repeat' first
    | with_reducible first | assumption | apply drcCheckPtr_keeps | apply rowStore_keeps
    | dsimp only
    | split

theorem execAlmRecordWrite_keeps {s0 : State} : ∀ s9, Keeps s0 s9 → KeepsEnd s0 (execAlmRecordWrite s9) := by
  intro s9 h
  unfold execAlmRecordWrite
  refine keepsEnd_next ?_
  repeat' first
    | with_reducible first | assumption | apply almRecordWrite_keeps
    | dsimp only
    | split

end Sys2Proof.Machine
end

