-- ==== Sys2Proof/Laws/KeepsTime.lean ====
section
/-! SUPPORT. What the functions of Machine/Time.lean keep. -/

namespace Sys2Proof.Machine

theorem shiftOffs_keeps {s0 : State} : ∀ s9 a1, Keeps s0 s9 → Keeps s0 (shiftOffs s9 a1) :=
  fun _ _ h => ⟨h.mem, h.pending, h.now, h.svn, h.prov, h.decom⟩

theorem rearm_keeps {s0 : State} : ∀ s9, Keeps s0 s9 → Keeps s0 (rearm s9) :=
  fun _ h => ⟨h.mem, h.pending, h.now, h.svn, h.prov, h.decom⟩

theorem timeNote_keeps {s0 : State} : ∀ s9 a1 a2 a3 a4 a5, Keeps s0 s9 → Keeps s0 (timeNote s9 a1 a2 a3 a4 a5) := by
  intro s9 a1 a2 a3 a4 a5 h
  unfold timeNote
  repeat' first
    | with_reducible first | assumption | apply setEvt_keeps | apply almPost_keeps | apply notifyAll_keeps
    | dsimp only
    | split

theorem alignStep_keeps {s0 : State} : ∀ s9 a1, Keeps s0 s9 → Keeps s0 (alignStep s9 a1) := by
  intro s9 a1 h
  unfold alignStep
  repeat' first
    | with_reducible first | assumption | apply shiftOffs_keeps | apply rearm_keeps | apply timeNote_keeps
    | dsimp only
    | split

theorem setDom_keeps {s0 : State} : ∀ s9 a1 a2, Keeps s0 s9 → Keeps s0 (setDom s9 a1 a2) := by
  intro s9 a1 a2 h
  unfold setDom
  repeat' first
    | with_reducible first | assumption
    | dsimp only
    | split

theorem profileErr_keeps {s0 : State} : ∀ s9 a1 a2 a3, Keeps s0 s9 → Keeps s0 (profileErr s9 a1 a2 a3) := by
  intro s9 a1 a2 a3 h
  unfold profileErr
  repeat' first
    | with_reducible first | assumption | apply bump_keeps | apply setDom_keeps
    | dsimp only
    | split

theorem announceIn_keeps {s0 : State} : ∀ s9 a1 a2 a3, Keeps s0 s9 → Keeps s0 (announceIn s9 a1 a2 a3) := by
  intro s9 a1 a2 a3 h
  unfold announceIn
  repeat' first
    | with_reducible first | assumption | apply profileErr_keeps | apply setDom_keeps
    | dsimp only
    | split

theorem slewPull_keeps {s0 : State} : ∀ s9, Keeps s0 s9 → Keeps s0 (slewPull s9) := by
  intro s9 h
  unfold slewPull
  repeat' first
    | with_reducible first | assumption | apply shiftOffs_keeps
    | dsimp only
    | split

theorem setSince_keeps {s0 : State} : ∀ s9 a1, Keeps s0 s9 → Keeps s0 (setSince s9 a1) :=
  fun _ _ h => ⟨h.mem, h.pending, h.now, h.svn, h.prov, h.decom⟩

theorem sinceUpdate_keeps {s0 : State} : ∀ s9, Keeps s0 s9 → Keeps s0 (sinceUpdate s9) := by
  intro s9 h
  unfold sinceUpdate
  repeat' first
    | with_reducible first | assumption | apply setSince_keeps
    | dsimp only
    | split

theorem farUpdate_keeps {s0 : State} : ∀ s9 a1, Keeps s0 s9 → Keeps s0 (farUpdate s9 a1) := by
  intro s9 a1 h
  unfold farUpdate
  repeat' first
    | with_reducible first | assumption | apply timeNote_keeps
    | dsimp only
    | split

theorem slewStart_keeps {s0 : State} : ∀ s9, Keeps s0 s9 → Keeps s0 (slewStart s9) :=
  fun _ h => ⟨h.mem, h.pending, h.now, h.svn, h.prov, h.decom⟩

theorem setLodestar_keeps {s0 : State} : ∀ s9 a1 a2, Keeps s0 s9 → Keeps s0 (setLodestar s9 a1 a2) := by
  intro s9 a1 a2 h
  unfold setLodestar
  repeat' first
    | with_reducible first | assumption | apply timeNote_keeps | apply setEvt_keeps | apply slewStart_keeps
    | dsimp only
    | split

theorem utcUpdate_keeps {s0 : State} : ∀ s9, Keeps s0 s9 → Keeps s0 (utcUpdate s9) := by
  intro s9 h
  unfold utcUpdate
  repeat' first
    | with_reducible first | assumption | apply setEvt_keeps
    | dsimp only
    | split

theorem syncUpdate_keeps {s0 : State} : ∀ s9, Keeps s0 s9 → Keeps s0 (syncUpdate s9) := by
  intro s9 h
  unfold syncUpdate
  repeat' first
    | with_reducible first | assumption | apply timeNote_keeps
    | dsimp only
    | split

theorem timeEval_keeps {s0 : State} : ∀ s9, Keeps s0 s9 → Keeps s0 (timeEval s9) := by
  intro s9 h
  unfold timeEval
  repeat' first
    | with_reducible first | assumption | intro _ | apply slewPull_keeps | apply sinceUpdate_keeps | apply farUpdate_keeps | apply setEvt_keeps | apply setLodestar_keeps | apply alignStep_keeps | apply utcUpdate_keeps | apply syncUpdate_keeps | apply keeps_foldl | apply keeps_upto | apply keeps_each
    | dsimp only
    | split

theorem timeChanged_keeps {s0 : State} : ∀ s9, Keeps s0 s9 → Keeps s0 (timeChanged s9) := by
  intro s9 h
  unfold timeChanged
  repeat' first
    | with_reducible first | assumption | apply timeEval_keeps
    | dsimp only
    | split

theorem domLost_keeps {s0 : State} : ∀ s9 a1, Keeps s0 s9 → Keeps s0 (domLost s9 a1) := by
  intro s9 a1 h
  unfold domLost
  repeat' first
    | with_reducible first | assumption | apply setDom_keeps
    | dsimp only
    | split

theorem takePort_keeps {s0 : State} : ∀ s9 a1 a2, Keeps s0 s9 → Keeps s0 (takePort s9 a1 a2) := by
  intro s9 a1 a2 h
  unfold takePort
  repeat' first
    | with_reducible first | assumption | intro _ | apply setDom_keeps | apply slewStart_keeps | apply keeps_foldl | apply keeps_upto | apply keeps_each
    | (extract_lets +onlyGivenNames x; refine Keeps.cut (s0 := s0) (x := x) ?_ (fun _ => ?_); unfold x; clear x; rotate_left; clear_value x; revert x; intro y _; rotate_left)
    | (extract_lets +onlyGivenNames x; subst x)
    | dsimp -zeta only [id]
    | split

theorem domUpdate_keeps {s0 : State} : ∀ s9 a1, Keeps s0 s9 → Keeps s0 (domUpdate s9 a1) := by
  intro s9 a1 h
  unfold domUpdate
  repeat' first
    | with_reducible first | assumption | apply takePort_keeps | apply domLost_keeps | apply bump_keeps | apply setDom_keeps
    | dsimp only
    | split

theorem setLre_keeps {s0 : State} : ∀ s9 a1 a2, Keeps s0 s9 → Keeps s0 (setLre s9 a1 a2) :=
  fun _ _ _ h => ⟨h.mem, h.pending, h.now, h.svn, h.prov, h.decom⟩

theorem execRealign_keeps {s0 : State} : ∀ a0 s1, Keeps s0 s1 → KeepsEnd s0 (execRealign a0 s1) := by
  intro a0 s1 h
  unfold execRealign
  refine keepsEnd_next ?_
  repeat' first
    | with_reducible first | assumption | intro _ | apply regAccess_keeps | apply timeChanged_keeps | apply keeps_foldl | apply keeps_upto | apply keeps_each
    | dsimp only
    | split

theorem execDomainEnable_keeps {s0 : State} : ∀ a0 a1 s2, Keeps s0 s2 → KeepsEnd s0 (execDomainEnable a0 a1 s2) := by
  intro a0 a1 s2 h
  unfold execDomainEnable
  refine keepsEnd_next ?_
  repeat' first
    | with_reducible first | assumption | intro _ | apply regAccess_keeps | apply setShadow_keeps | apply timeChanged_keeps | apply setDom_keeps | apply keeps_foldl | apply keeps_upto | apply keeps_each
    | dsimp only
    | split

theorem execDomainDisable_keeps {s0 : State} : ∀ a0 a1 s2, Keeps s0 s2 → KeepsEnd s0 (execDomainDisable a0 a1 s2) := by
  intro a0 a1 s2 h
  unfold execDomainDisable
  refine keepsEnd_next ?_
  repeat' first
    | with_reducible first | assumption | intro _ | apply regAccess_keeps | apply setShadow_keeps | apply timeChanged_keeps | apply setDom_keeps | apply keeps_foldl | apply keeps_upto | apply keeps_each
    | dsimp only
    | split

theorem ptpRx_keeps {s0 : State} : ∀ s m f, (∀ x y g, f x y = some g → ∀ t, Keeps s0 t → Keeps s0 (g t)) → Keeps s0 s → Keeps s0 (ptpRx s m f) := by
  intro s m f hf h
  have g := itemNext_keeps s m 3 h
  unfold ptpRx
  dsimp only
  split
  · exact h
  · split
    · next x _ k e => exact hf _ _ k e _ (itemTake_keeps _ _ g)
    · exact h

theorem syncTake_keeps {s0 : State} : ∀ s9 a1 a2 a3 a4 a5 a6 a7, Keeps s0 s9 → Keeps s0 (syncTake s9 a1 a2 a3 a4 a5 a6 a7) := by
  intro s9 a1 a2 a3 a4 a5 a6 a7 h
  unfold syncTake
  repeat' first
    | with_reducible first | assumption | apply bump_keeps | apply setDom_keeps | apply domLost_keeps | apply farUpdate_keeps
    | dsimp only
    | split

theorem syncIn_keeps {s0 : State} : ∀ s9 a1 a2 a3 a4, Keeps s0 s9 → Keeps s0 (syncIn s9 a1 a2 a3 a4) := by
  intro s9 a1 a2 a3 a4 h
  unfold syncIn
  repeat' first
    | with_reducible first | assumption | apply domUpdate_keeps | apply slewPull_keeps | apply profileErr_keeps | apply setDom_keeps | apply syncTake_keeps
    | dsimp only
    | split

theorem execPtpSyncRx_keeps {s0 : State} : ∀ a0 a1 a2 s1, Keeps s0 s1 → KeepsEnd s0 (execPtpSyncRx a0 a1 a2 s1) := by
  intro m fr z s h
  unfold execPtpSyncRx
  refine keepsEnd_next (ptpRx_keeps _ _ _ (fun x y g e t k => ?_) h)
  split at e
  · cases Option.some.inj e
    repeat' first
      | with_reducible first | assumption | apply timeChanged_keeps | apply syncIn_keeps
      | dsimp only
      | split
  · cases e

theorem followIn_keeps {s0 : State} : ∀ s9 a1 a2 a3, Keeps s0 s9 → Keeps s0 (followIn s9 a1 a2 a3) := by
  intro s9 a1 a2 a3 h
  unfold followIn
  repeat' first
    | with_reducible first | assumption | apply syncTake_keeps | apply slewPull_keeps
    | dsimp only
    | split

theorem execPtpFollowUpRx_keeps {s0 : State} : ∀ a0 a1 s1, Keeps s0 s1 → KeepsEnd s0 (execPtpFollowUpRx a0 a1 s1) := by
  intro m z s h
  unfold execPtpFollowUpRx
  refine keepsEnd_next (ptpRx_keeps _ _ _ (fun x y g e t k => ?_) h)
  split at e
  · cases Option.some.inj e
    repeat' first
      | with_reducible first | assumption | apply timeChanged_keeps | apply followIn_keeps
      | dsimp only
      | split
  · cases e

theorem execPtpAnnounceRx_keeps {s0 : State} : ∀ a0 a1 s1, Keeps s0 s1 → KeepsEnd s0 (execPtpAnnounceRx a0 a1 s1) := by
  intro m z s h
  unfold execPtpAnnounceRx
  refine keepsEnd_next (ptpRx_keeps _ _ _ (fun x y g e t k => ?_) h)
  split at e
  · cases Option.some.inj e
    repeat' first
      | with_reducible first | assumption | apply utcUpdate_keeps | apply timeChanged_keeps | apply announceIn_keeps
      | dsimp only
      | split
  · cases e

theorem ptpReady_keeps {s0 : State} : ∀ s9 a1, Keeps s0 s9 → Keeps s0 (ptpReady s9 a1) :=
  fun _ _ h => ⟨h.mem, h.pending, h.now, h.svn, h.prov, h.decom⟩

theorem execPtpPdelayReqRx_keeps {s0 : State} : ∀ a0 a1 a2 s1, Keeps s0 s1 → KeepsEnd s0 (execPtpPdelayReqRx a0 a1 a2 s1) := by
  intro m fr z s h
  unfold execPtpPdelayReqRx
  refine keepsEnd_next (ptpRx_keeps _ _ _ (fun x y g e t k => ?_) h)
  split at e
  · cases Option.some.inj e
    repeat' first
      | with_reducible first | assumption | apply ptpReady_keeps
      | dsimp only
      | split
  · cases e

theorem ptpDrop_keeps {s0 : State} : ∀ s9 a1, Keeps s0 s9 → Keeps s0 (ptpDrop s9 a1) :=
  fun _ _ h => ⟨h.mem, h.pending, h.now, h.svn, h.prov, h.decom⟩

theorem setPd_keeps {s0 : State} : ∀ s9 a1 a2, Keeps s0 s9 → Keeps s0 (setPd s9 a1 a2) :=
  fun _ _ _ h => ⟨h.mem, h.pending, h.now, h.svn, h.prov, h.decom⟩

theorem respIn_keeps {s0 : State} : ∀ s9 a1 a2 a3, Keeps s0 s9 → Keeps s0 (respIn s9 a1 a2 a3) := by
  intro s9 a1 a2 a3 h
  unfold respIn
  repeat' first
    | with_reducible first | assumption | intro _ | apply timeChanged_keeps | apply setPd_keeps | apply keeps_foldl | apply keeps_upto | apply keeps_each
    | (extract_lets +onlyGivenNames x; refine Keeps.cut (s0 := s0) (x := x) ?_ (fun _ => ?_); unfold x; clear x; rotate_left; clear_value x; revert x; intro y _; rotate_left)
    | (extract_lets +onlyGivenNames x; subst x)
    | dsimp -zeta only [id]
    | split

theorem execPtpPdelayRespRx_keeps {s0 : State} : ∀ a0 a1 a2 s1, Keeps s0 s1 → KeepsEnd s0 (execPtpPdelayRespRx a0 a1 a2 s1) := by
  intro m fr z s h
  unfold execPtpPdelayRespRx
  refine keepsEnd_next (ptpRx_keeps _ _ _ (fun x y g e t k => ?_) h)
  split at e
  · cases Option.some.inj e
    repeat' first
      | with_reducible first | assumption | apply ptpDrop_keeps | apply respIn_keeps
      | dsimp only
      | split
  · cases e

theorem execPtpMessageDrop_keeps {s0 : State} : ∀ a0 s1, Keeps s0 s1 → KeepsEnd s0 (execPtpMessageDrop a0 s1) := by
  intro m s h
  unfold execPtpMessageDrop
  refine keepsEnd_next (ptpRx_keeps _ _ _ (fun x y g e t k => ?_) h)
  split at e
  · cases Option.some.inj e
    repeat' first
      | with_reducible first | assumption | apply ptpDrop_keeps
      | dsimp only
      | split
  · cases e

theorem pairSeq_keeps {s0 : State} : ∀ s9 a1, Keeps s0 s9 → Keeps s0 (pairSeq s9 a1).2 := by
  intro s9 a1 h
  unfold pairSeq
  repeat' first
    | with_reducible first | assumption | apply setLre_keeps
    | dsimp only
    | split

theorem pairSeq_keeps' {s0 t : State} {r} {s9 a1} (e : pairSeq s9 a1 = (r, t)) (h : Keeps s0 s9) : Keeps s0 t :=
  by have := pairSeq_keeps s9 a1 h; rw [e] at this; exact this

theorem execPdelayReqTx_keeps {s0 : State} : ∀ s9, Keeps s0 s9 → KeepsEnd s0 (execPdelayReqTx s9) := by
  intro s9 h
  unfold execPdelayReqTx
  refine keepsEnd_next ?_
  repeat' first
    | with_reducible first | assumption | intro _ | apply reach_keeps | apply pairSeq_keeps | refine pairSeq_keeps' (by assumption) ?_ | apply setPd_keeps | apply ptpReady_keeps | apply keeps_foldl | apply keeps_upto | apply keeps_each
    | dsimp only
    | split

theorem execAnnounceTimeout_keeps {s0 : State} : ∀ a0 a1 s2, Keeps s0 s2 → KeepsEnd s0 (execAnnounceTimeout a0 a1 s2) := by
  intro a0 a1 s2 h
  unfold execAnnounceTimeout
  refine keepsEnd_next ?_
  repeat' first
    | with_reducible first | assumption | apply slewPull_keeps | apply reach_keeps | apply timeChanged_keeps | apply domUpdate_keeps | apply setDom_keeps
    | dsimp only
    | split

theorem execSyncLoss_keeps {s0 : State} : ∀ a0 s1, Keeps s0 s1 → KeepsEnd s0 (execSyncLoss a0 s1) := by
  intro a0 s1 h
  unfold execSyncLoss
  refine keepsEnd_next ?_
  repeat' first
    | with_reducible first | assumption | apply slewPull_keeps | apply reach_keeps | apply timeChanged_keeps | apply domLost_keeps | apply bump_keeps
    | dsimp only
    | split

theorem execReversion_keeps {s0 : State} : ∀ a0 s1, Keeps s0 s1 → KeepsEnd s0 (execReversion a0 s1) := by
  intro a0 s1 h
  unfold execReversion
  refine keepsEnd_next ?_
  repeat' first
    | with_reducible first | assumption | apply timeChanged_keeps | apply reach_keeps
    | dsimp only
    | split

theorem execHoldKeepExpiry_keeps {s0 : State} : ∀ s9, Keeps s0 s9 → KeepsEnd s0 (execHoldKeepExpiry s9) := by
  intro s9 h
  unfold execHoldKeepExpiry
  refine keepsEnd_next ?_
  repeat' first
    | with_reducible first | assumption | apply syncUpdate_keeps | apply reach_keeps
    | dsimp only
    | split

theorem execSlewDone_keeps {s0 : State} : ∀ s9, Keeps s0 s9 → KeepsEnd s0 (execSlewDone s9) := by
  intro s9 h
  unfold execSlewDone
  refine keepsEnd_next ?_
  repeat' first
    | with_reducible first | assumption | apply slewPull_keeps | apply reach_keeps
    | dsimp only
    | split

theorem execIrigbFrameRx_keeps {s0 : State} : ∀ a0 a1 s2, Keeps s0 s2 → KeepsEnd s0 (execIrigbFrameRx a0 a1 s2) := by
  intro a0 a1 s2 h
  unfold execIrigbFrameRx
  refine keepsEnd_next ?_
  repeat' first
    | with_reducible first | assumption | apply slewPull_keeps | apply timeChanged_keeps | apply farUpdate_keeps | apply setEvt_keeps | apply bump_keeps
    | dsimp only
    | split

theorem irigDrop_keeps {s0 : State} : ∀ s9 a1, Keeps s0 s9 → Keeps s0 (irigDrop s9 a1) := by
  intro s9 a1 h
  unfold irigDrop
  repeat' first
    | with_reducible first | assumption | intro _ | apply reach_keeps | apply timeChanged_keeps | apply keeps_foldl | apply keeps_upto | apply keeps_each
    | dsimp only
    | split

theorem execIrigbLoss_keeps {s0 : State} : ∀ s9, Keeps s0 s9 → KeepsEnd s0 (execIrigbLoss s9) := by
  intro s9 h
  unfold execIrigbLoss
  refine keepsEnd_next ?_
  repeat' first
    | with_reducible first | assumption | intro _ | apply irigDrop_keeps | apply keeps_foldl | apply keeps_upto | apply keeps_each
    | dsimp only
    | split

theorem execPpsPulse_keeps {s0 : State} : ∀ s9, Keeps s0 s9 → KeepsEnd s0 (execPpsPulse s9) := by
  intro s9 h
  unfold execPpsPulse
  refine keepsEnd_next ?_
  repeat' first
    | with_reducible first | assumption | apply slewPull_keeps | apply setEvt_keeps | apply setLive_keeps | apply timeChanged_keeps | apply farUpdate_keeps
    | dsimp only
    | split

theorem setTime_keeps {s0 : State} : ∀ s9 a1, Keeps s0 s9 → Keeps s0 (setTime s9 a1) :=
  fun _ _ h => ⟨h.mem, h.pending, h.now, h.svn, h.prov, h.decom⟩

end Sys2Proof.Machine
end

