-- ==== Sys2Proof/Laws/KeepsMac.lean ====
section
/-! SUPPORT. What the functions of Machine/Mac.lean keep. -/

namespace Sys2Proof.Machine

theorem setMac_keeps {s0 : State} : ∀ s9 a1 a2, Keeps s0 s9 → Keeps s0 (setMac s9 a1 a2) :=
  fun _ _ _ h => ⟨h.mem, h.pending, h.now, h.svn, h.prov, h.decom⟩

theorem macInForce_keeps {s0 : State} : ∀ s9 a1 s2, Keeps s0 s9 → Keeps s0 s2 → Keeps s0 (macInForce s9 a1 s2) := by
  intro s9 a1 s2 h h
  unfold macInForce
  repeat' first
    | with_reducible first | assumption | intro _ | apply setMac_keeps | apply keeps_foldl | apply keeps_upto | apply keeps_each
    | (extract_lets +onlyGivenNames x; refine Keeps.cut (s0 := s0) (x := x) ?_ (fun _ => ?_); unfold x; clear x; rotate_left; clear_value x; revert x; intro y _; rotate_left)
    | (extract_lets +onlyGivenNames x; subst x)
    | dsimp -zeta only [id]
    | split

theorem macNote_keeps {s0 : State} : ∀ s9 a1 a2 a3 a4, Keeps s0 s9 → Keeps s0 (macNote s9 a1 a2 a3 a4) := by
  intro s9 a1 a2 a3 a4 h
  unfold macNote
  repeat' first
    | with_reducible first | assumption | apply notifyAll_keeps
    | dsimp only
    | split

theorem linkUpdate_keeps {s0 : State} : ∀ s9 a1, Keeps s0 s9 → Keeps s0 (linkUpdate s9 a1) := by
  intro s9 a1 h
  unfold linkUpdate
  repeat' first
    | with_reducible first | assumption | apply setMac_keeps | apply macNote_keeps | apply almPost_keeps | apply setEvt_keeps
    | dsimp only
    | split

theorem macCount_keeps {s0 : State} : ∀ s9 a1 a2, Keeps s0 s9 → Keeps s0 (macCount s9 a1 a2) :=
  fun _ _ _ h => ⟨h.mem, h.pending, h.now, h.svn, h.prov, h.decom⟩

theorem dupPut_keeps {s0 : State} : ∀ s9 a1 a2 a3, Keeps s0 s9 → Keeps s0 (dupPut s9 a1 a2 a3) := by
  intro s9 a1 a2 a3 h
  unfold dupPut
  repeat' first
    | with_reducible first | assumption | apply setLre_keeps | apply macCount_keeps
    | dsimp only
    | split

theorem execMacEnable_keeps {s0 : State} : ∀ a0 a1 a2 s3, Keeps s0 s3 → KeepsEnd s0 (execMacEnable a0 a1 a2 s3) := by
  intro a0 a1 a2 s3 h
  unfold execMacEnable
  refine keepsEnd_next ?_
  repeat' first
    | with_reducible first | assumption | intro _ | apply regAccess_keeps | apply setShadow_keeps | apply setMac_keeps | apply setEvt_keeps | apply keeps_foldl | apply keeps_upto | apply keeps_each
    | dsimp only
    | split

theorem execMacDisable_keeps {s0 : State} : ∀ a0 a1 a2 s3, Keeps s0 s3 → KeepsEnd s0 (execMacDisable a0 a1 a2 s3) := by
  intro a0 a1 a2 s3 h
  unfold execMacDisable
  refine keepsEnd_next ?_
  repeat' first
    | with_reducible first | assumption | intro _ | apply regAccess_keeps | apply setMac_keeps | apply setShadow_keeps | apply keeps_foldl | apply keeps_upto | apply keeps_each
    | dsimp only
    | split

theorem execSfpTwoWire_keeps {s0 : State} : ∀ a0 a1 a2 s3, Keeps s0 s3 → KeepsEnd s0 (execSfpTwoWire a0 a1 a2 s3) := by
  intro a0 a1 a2 s3 h
  unfold execSfpTwoWire
  refine keepsEnd_next ?_
  repeat' first
    | with_reducible first | assumption | intro _ | apply regAccess_keeps | apply setMac_keeps | apply keeps_foldl | apply keeps_upto | apply keeps_each
    | dsimp only
    | split

theorem setTxRing_keeps {s0 : State} : ∀ s9 a1 a2 a3, Keeps s0 s9 → Keeps s0 (setTxRing s9 a1 a2 a3) :=
  fun _ _ _ _ h => ⟨h.mem, h.pending, h.now, h.svn, h.prov, h.decom⟩

theorem setRxRing_keeps {s0 : State} : ∀ s9 a1 a2 a3, Keeps s0 s9 → Keeps s0 (setRxRing s9 a1 a2 a3) :=
  fun _ _ _ _ h => ⟨h.mem, h.pending, h.now, h.svn, h.prov, h.decom⟩

theorem rxSide_keeps {s0 : State} : ∀ s9 a1 a2, Keeps s0 s9 → Keeps s0 (rxSide s9 a1 a2) := by
  intro s9 a1 a2 h
  unfold rxSide
  repeat' first
    | with_reducible first | assumption | apply bump_keeps | apply setEvt_keeps | apply setRxRing_keeps | apply macNote_keeps
    | dsimp only
    | split

theorem ringPtrReset_keeps {s0 : State} : ∀ s9 a1 a2 a3, Keeps s0 s9 → Keeps s0 (ringPtrReset s9 a1 a2 a3) := by
  intro s9 a1 a2 a3 h
  unfold ringPtrReset
  repeat' first
    | with_reducible first | assumption | apply setTxRing_keeps | apply rxSide_keeps | apply setRxRing_keeps | apply setEvt_keeps | apply almPost_keeps | apply ptrSum_keeps | apply macNote_keeps
    | dsimp only
    | split

theorem txCheck_keeps {s0 : State} : ∀ s9 a1 a2, Keeps s0 s9 → Keeps s0 (txCheck s9 a1 a2) := by
  intro s9 a1 a2 h
  unfold txCheck
  repeat' first
    | with_reducible first | assumption | apply ringPtrReset_keeps
    | dsimp only
    | split

theorem rxCheck_keeps {s0 : State} : ∀ s9 a1 a2, Keeps s0 s9 → Keeps s0 (rxCheck s9 a1 a2) := by
  intro s9 a1 a2 h
  unfold rxCheck
  repeat' first
    | with_reducible first | assumption | apply ringPtrReset_keeps
    | dsimp only
    | split

theorem ringFlush_keeps {s0 : State} : ∀ s9 a1 a2 a3, Keeps s0 s9 → Keeps s0 (ringFlush s9 a1 a2 a3) := by
  intro s9 a1 a2 a3 h
  unfold ringFlush
  repeat' first
    | with_reducible first | assumption | apply txCheck_keeps | apply bump_keeps | apply setTxRing_keeps | apply rxCheck_keeps | apply rxSide_keeps | apply setRxRing_keeps
    | dsimp only
    | split

theorem execRingFlush_keeps {s0 : State} : ∀ a0 a1 a2 a3 a4 s5, Keeps s0 s5 → KeepsEnd s0 (execRingFlush a0 a1 a2 a3 a4 s5) := by
  intro a0 a1 a2 a3 a4 s5 h
  unfold execRingFlush
  refine keepsEnd_next ?_
  repeat' first
    | with_reducible first | assumption | intro _ | apply regAccess_keeps | apply ringFlush_keeps | apply setShadow_keeps | apply keeps_foldl | apply keeps_upto | apply keeps_each
    | dsimp only
    | split

theorem rxRdWrite_keeps {s0 : State} : ∀ s9 a1 a2 a3, Keeps s0 s9 → Keeps s0 (rxRdWrite s9 a1 a2 a3) := by
  intro s9 a1 a2 a3 h
  unfold rxRdWrite
  repeat' first
    | with_reducible first | assumption | apply rxCheck_keeps | apply rxSide_keeps | apply setRxRing_keeps
    | dsimp only
    | split

theorem txBeat_keeps {s0 : State} : ∀ s9 a1 a2 a3, Keeps s0 s9 → Keeps s0 (txBeat s9 a1 a2 a3).2 := by
  intro s9 a1 a2 a3 h
  unfold txBeat
  repeat' first
    | with_reducible first | assumption | apply dmaRead_keeps | refine dmaRead_keeps' (by assumption) ?_
    | dsimp only
    | split

theorem txHead_keeps {s0 : State} : ∀ a0 a1 a2 s3, Keeps s0 s3 → Keeps s0 (txHead a0 a1 a2 s3) := by
  intro m n f
  induction f with
  | zero => intro s h; exact h
  | succ f ih =>
    intro s h
    have g := txBeat_keeps s m n (txRing s m n).rd h
    unfold txHead
    dsimp only
    split
    · exact h
    · split
      · exact setTxRing_keeps _ _ _ _ g
      · split
        · exact ih _ (setTxRing_keeps _ _ _ _ g)
        · refine ih _ (setTxRing_keeps _ _ _ _ ?_)
          split
          · exact bump_keeps _ _ _ _ _ g
          · exact setEvt_keeps _ _ _ (bump_keeps _ _ _ _ _ g)

theorem txClean_keeps {s0 : State} : ∀ s9 a1 a2, Keeps s0 s9 → Keeps s0 (txClean s9 a1 a2) := by
  intro s9 a1 a2 h
  unfold txClean
  repeat' first
    | with_reducible first | assumption | apply txCheck_keeps | apply txHead_keeps
    | dsimp only
    | split

theorem execTxrWrWrite_keeps {s0 : State} : ∀ a0 a1 a2 a3 s4, Keeps s0 s4 → KeepsEnd s0 (execTxrWrWrite a0 a1 a2 a3 s4) := by
  intro a0 a1 a2 a3 s4 h
  unfold execTxrWrWrite
  refine keepsEnd_next ?_
  repeat' first
    | with_reducible first | assumption | intro _ | apply regAccess_keeps | apply txCheck_keeps | apply txClean_keeps | apply setTxRing_keeps | apply keeps_foldl | apply keeps_upto | apply keeps_each
    | dsimp only
    | split

theorem macBlink_keeps {s0 : State} : ∀ s9 a1, Keeps s0 s9 → Keeps s0 (macBlink s9 a1) := by
  intro s9 a1 h
  unfold macBlink
  repeat' first
    | with_reducible first | assumption | intro _ | apply setMac_keeps | apply keeps_foldl | apply keeps_upto | apply keeps_each
    | (extract_lets +onlyGivenNames x; refine Keeps.cut (s0 := s0) (x := x) ?_ (fun _ => ?_); unfold x; clear x; rotate_left; clear_value x; revert x; intro y _; rotate_left)
    | (extract_lets +onlyGivenNames x; subst x)
    | dsimp -zeta only [id]
    | split

theorem txReady_keeps {s0 : State} : ∀ s9 a1, Keeps s0 s9 → Keeps s0 (txReady s9 a1) :=
  fun _ _ h => ⟨h.mem, h.pending, h.now, h.svn, h.prov, h.decom⟩

theorem hsrForward_keeps {s0 : State} : ∀ s9 a1 a2 a3, Keeps s0 s9 → Keeps s0 (hsrForward s9 a1 a2 a3) := by
  intro s9 a1 a2 a3 h
  unfold hsrForward
  repeat' first
    | with_reducible first | assumption | apply setLre_keeps | apply txReady_keeps | apply macCount_keeps
    | dsimp only
    | split

theorem lanFirst_keeps {s0 : State} : ∀ s9 a1 a2 a3, Keeps s0 s9 → Keeps s0 (lanFirst s9 a1 a2 a3) := by
  intro s9 a1 a2 a3 h
  unfold lanFirst
  repeat' first
    | with_reducible first | assumption | intro _ | apply setLre_keeps | apply setLive_keeps | apply macCount_keeps | apply rxSide_keeps | apply setRxRing_keeps | apply keeps_foldl | apply keeps_upto | apply keeps_each
    | (extract_lets +onlyGivenNames x; refine Keeps.cut (s0 := s0) (x := x) ?_ (fun _ => ?_); unfold x; clear x; rotate_left; clear_value x; revert x; intro y _; rotate_left)
    | (extract_lets +onlyGivenNames x; subst x)
    | dsimp -zeta only [id]
    | split

theorem firstCopy_keeps {s0 : State} : ∀ s9 a1 a2 a3 a4 a5 a6, Keeps s0 s9 → Keeps s0 (firstCopy s9 a1 a2 a3 a4 a5 a6) := by
  intro s9 a1 a2 a3 a4 a5 a6 h
  unfold firstCopy
  repeat' first
    | with_reducible first | assumption | intro _ | apply dupPut_keeps | apply setLre_keeps | apply keeps_foldl | apply keeps_upto | apply keeps_each
    | (extract_lets +onlyGivenNames x; refine Keeps.cut (s0 := s0) (x := x) ?_ (fun _ => ?_); unfold x; clear x; rotate_left; clear_value x; revert x; intro y _; rotate_left)
    | (extract_lets +onlyGivenNames x; subst x)
    | dsimp -zeta only [id]
    | split

theorem itemPut_keeps {s0 : State} : ∀ s9 a1 a2 a3 a4 a5 a6, Keeps s0 s9 → Keeps s0 (itemPut s9 a1 a2 a3 a4 a5 a6) := by
  intro s9 a1 a2 a3 a4 a5 a6 h
  unfold itemPut
  repeat' first
    | with_reducible first | assumption | intro _ | apply keeps_foldl | apply keeps_upto | apply keeps_each
    | (extract_lets +onlyGivenNames x; refine Keeps.cut (s0 := s0) (x := x) ?_ (fun _ => ?_); unfold x; clear x; rotate_left; clear_value x; revert x; intro y _; rotate_left)
    | (extract_lets +onlyGivenNames x; subst x)
    | dsimp -zeta only [id]
    | split

theorem ringStore_keeps {s0 : State} : ∀ s9 a1 a2 a3 a4 a5 a6 a7, Keeps s0 s9 → Keeps s0 (ringStore s9 a1 a2 a3 a4 a5 a6 a7) := by
  intro s m pid base size p bs n
  induction n generalizing s p bs with
  | zero => intro h; unfold ringStore; exact h
  | succ n ih => intro h; unfold ringStore; exact ih _ _ _ (dmaWrite_keeps _ _ _ _ _ h)

theorem ringWrite_keeps {s0 : State} : ∀ s9 a1 a2 a3 a4, Keeps s0 s9 → Keeps s0 (ringWrite s9 a1 a2 a3 a4) := by
  intro s9 a1 a2 a3 a4 h
  unfold ringWrite
  repeat' first
    | with_reducible first | assumption | apply ringStore_keeps | apply rxSide_keeps | apply setRxRing_keeps
    | dsimp only
    | split

theorem macReceive_keeps {s0 : State} : ∀ s9 a1 a2 a3 a4, Keeps s0 s9 → Keeps s0 (macReceive s9 a1 a2 a3 a4) := by
  intro s9 a1 a2 a3 a4 h
  unfold macReceive
  repeat' first
    | with_reducible first | assumption | intro _ | apply rxCheck_keeps | apply setLre_keeps | apply lanFirst_keeps | apply setLive_keeps | apply macCount_keeps | apply setEvt_keeps | apply firstCopy_keeps | apply itemPut_keeps | apply ringWrite_keeps | apply keeps_foldl | apply keeps_upto | apply keeps_each
    | (extract_lets +onlyGivenNames x; refine Keeps.cut (s0 := s0) (x := x) ?_ (fun _ => ?_); unfold x; clear x; rotate_left; clear_value x; revert x; intro y _; rotate_left)
    | (extract_lets +onlyGivenNames x; subst x)
    | dsimp -zeta only [id]
    | split

theorem macRxIn_keeps {s0 : State} : ∀ s9 a1 a2 a3 a4 a5, Keeps s0 s9 → Keeps s0 (macRxIn s9 a1 a2 a3 a4 a5) := by
  intro s9 a1 a2 a3 a4 a5 h
  unfold macRxIn
  repeat' first
    | with_reducible first | assumption | apply macBlink_keeps | apply hsrForward_keeps | apply macCount_keeps | apply macReceive_keeps
    | dsimp only
    | split

theorem execMacFrameRx_keeps {s0 : State} : ∀ a0 a1 a2 s3, Keeps s0 s3 → KeepsEnd s0 (execMacFrameRx a0 a1 a2 s3) := by
  intro a0 a1 a2 s3 h
  unfold execMacFrameRx
  refine keepsEnd_next ?_
  repeat' first
    | with_reducible first | assumption | apply macRxIn_keeps
    | dsimp only
    | split

theorem execLinkUp_keeps {s0 : State} : ∀ a0 a1 s2, Keeps s0 s2 → KeepsEnd s0 (execLinkUp a0 a1 s2) := by
  intro a0 a1 s2 h
  unfold execLinkUp
  refine keepsEnd_next ?_
  repeat' first
    | with_reducible first | assumption | apply linkUpdate_keeps | apply setMac_keeps
    | dsimp only
    | split

theorem execLinkDown_keeps {s0 : State} : ∀ a0 a1 a2 s3, Keeps s0 s3 → KeepsEnd s0 (execLinkDown a0 a1 a2 s3) := by
  intro a0 a1 a2 s3 h
  unfold execLinkDown
  refine keepsEnd_next ?_
  repeat' first
    | with_reducible first | assumption | apply linkUpdate_keeps | apply setMac_keeps
    | dsimp only
    | split

theorem execModChange_keeps {s0 : State} : ∀ a0 a1 s2, Keeps s0 s2 → KeepsEnd s0 (execModChange a0 a1 s2) := by
  intro a0 a1 s2 h
  unfold execModChange
  refine keepsEnd_next ?_
  repeat' first
    | with_reducible first | assumption | apply setEvt_keeps | apply setMac_keeps
    | dsimp only
    | split

theorem execTxFault_keeps {s0 : State} : ∀ a0 a1 s2, Keeps s0 s2 → KeepsEnd s0 (execTxFault a0 a1 s2) := by
  intro a0 a1 s2 h
  unfold execTxFault
  refine keepsEnd_next ?_
  repeat' first
    | with_reducible first | assumption | apply setMac_keeps | apply setEvt_keeps
    | dsimp only
    | split

theorem execSfpTwoWireDone_keeps {s0 : State} : ∀ a0 a1 a2 s3, Keeps s0 s3 → KeepsEnd s0 (execSfpTwoWireDone a0 a1 a2 s3) := by
  intro a0 a1 a2 s3 h
  unfold execSfpTwoWireDone
  refine keepsEnd_next ?_
  repeat' first
    | with_reducible first | assumption | apply setMac_keeps
    | dsimp only
    | split

theorem txCopy_keeps {s0 : State} : ∀ a0 a1 a2 s3, Keeps s0 s3 → Keeps s0 (txCopy a0 a1 a2 s3) :=
  fun _ _ _ _ h => ⟨h.mem, h.pending, h.now, h.svn, h.prov, h.decom⟩

theorem goosePair_keeps {s0 : State} : ∀ s9 a1, Keeps s0 s9 → Keeps s0 (goosePair s9 a1) := by
  intro s9 a1 h
  unfold goosePair
  repeat' first
    | with_reducible first | assumption | intro _ | apply pairSeq_keeps | refine pairSeq_keeps' (by assumption) ?_ | apply txCopy_keeps | apply keeps_foldl | apply keeps_upto | apply keeps_each
    | dsimp only
    | split

theorem txLoop_keeps {s0 : State} : ∀ s9 a1 a2 a3, Keeps s0 s9 → Keeps s0 (txLoop s9 a1 a2 a3) := by
  intro s9 a1 a2 a3 h
  unfold txLoop
  repeat' first
    | with_reducible first | assumption | apply macRxIn_keeps
    | dsimp only
    | split

theorem txCount_keeps {s0 : State} : ∀ s9 a1 a2 a3, Keeps s0 s9 → Keeps s0 (txCount s9 a1 a2 a3) := by
  intro s9 a1 a2 a3 h
  unfold txCount
  repeat' first
    | with_reducible first | assumption | intro _ | apply macCount_keeps | apply keeps_foldl | apply keeps_upto | apply keeps_each
    | (extract_lets +onlyGivenNames x; refine Keeps.cut (s0 := s0) (x := x) ?_ (fun _ => ?_); unfold x; clear x; rotate_left; clear_value x; revert x; intro y _; rotate_left)
    | (extract_lets +onlyGivenNames x; subst x)
    | dsimp -zeta only [id]
    | split

theorem svLate_keeps {s0 : State} : ∀ s9 a1, Keeps s0 s9 → Keeps s0 (svLate s9 a1) := by
  intro s9 a1 h
  unfold svLate
  repeat' first
    | with_reducible first | assumption | apply bump_keeps | apply postOwner_keeps | apply setEvt_keeps
    | dsimp only
    | split

theorem txDone_keeps {s0 : State} : ∀ s9 a1 a2 a3 a4 a5, Keeps s0 s9 → Keeps s0 (txDone s9 a1 a2 a3 a4 a5) := by
  intro s9 a1 a2 a3 a4 a5 h
  unfold txDone
  repeat' first
    | with_reducible first | assumption | apply macBlink_keeps | apply txCount_keeps | apply setMac_keeps | apply tqPut_keeps | apply setPd_keeps | apply svLate_keeps
    | dsimp only
    | split

theorem txSend_keeps {s0 : State} : ∀ s9 a1 a2 a3, Keeps s0 s9 → Keeps s0 (txSend s9 a1 a2 a3) := by
  intro s9 a1 a2 a3 h
  unfold txSend
  repeat' first
    | with_reducible first | assumption | apply goosePair_keeps | apply pairSeq_keeps | refine pairSeq_keeps' (by assumption) ?_ | apply macCount_keeps | apply setEvt_keeps | apply txCopy_keeps | apply txLoop_keeps | apply txDone_keeps
    | dsimp only
    | split

theorem txTake_keeps {s0 : State} : ∀ s9 a1, Keeps s0 s9 → Keeps s0 (txTake s9 a1) := by
  intro s9 a1 h
  unfold txTake
  repeat' first
    | with_reducible first | assumption | apply setPub_keeps
    | dsimp only
    | split

theorem txData_keeps {s0 : State} : ∀ a0 a1 a2 a3 s4, Keeps s0 s4 → Keeps s0 (txData a0 a1 a2 a3 s4).2 := by
  intro m n p k
  induction k generalizing p with
  | zero => intro s h; unfold txData; exact h
  | succ k ih => intro s h; unfold txData; exact ih _ _ (txBeat_keeps _ _ _ _ h)

theorem txData_keeps' {s0 t : State} {r} {a0 a1 a2 a3 s4} (e : txData a0 a1 a2 a3 s4 = (r, t)) (h : Keeps s0 s4) : Keeps s0 t :=
  by have := txData_keeps a0 a1 a2 a3 s4 h; rw [e] at this; exact this

theorem ringTake_keeps {s0 : State} : ∀ s9 a1 a2 a3, Keeps s0 s9 → Keeps s0 (ringTake s9 a1 a2 a3).2 := by
  intro s9 a1 a2 a3 h
  unfold ringTake
  repeat' first
    | with_reducible first | assumption | intro _ | apply txData_keeps | refine txData_keeps' (by assumption) ?_ | apply setTxRing_keeps | apply setMac_keeps | apply keeps_foldl | apply keeps_upto | apply keeps_each
    | (extract_lets +onlyGivenNames x; refine Keeps.cut (s0 := s0) (x := x) ?_ (fun _ => ?_); unfold x; clear x; rotate_left; clear_value x; revert x; intro y _; rotate_left)
    | (extract_lets +onlyGivenNames x; subst x)
    | dsimp -zeta only [id]
    | split

theorem ringTake_keeps' {s0 t : State} {r} {s9 a1 a2 a3} (e : ringTake s9 a1 a2 a3 = (r, t)) (h : Keeps s0 s9) : Keeps s0 t :=
  by have := ringTake_keeps s9 a1 a2 a3 h; rw [e] at this; exact this

theorem execMacFrameTx_keeps {s0 : State} : ∀ a0 a1 a2 s3, Keeps s0 s3 → KeepsEnd s0 (execMacFrameTx a0 a1 a2 s3) := by
  intro a0 a1 a2 s3 h
  unfold execMacFrameTx
  refine keepsEnd_next ?_
  repeat' first
    | with_reducible first | assumption | intro _ | apply txSend_keeps | apply txTake_keeps | apply txClean_keeps | apply ringTake_keeps | refine ringTake_keeps' (by assumption) ?_ | apply keeps_foldl | apply keeps_upto | apply keeps_each
    | (extract_lets +onlyGivenNames x; refine Keeps.cut (s0 := s0) (x := x) ?_ (fun _ => ?_); unfold x; clear x; rotate_left; clear_value x; revert x; intro y _; rotate_left)
    | (extract_lets +onlyGivenNames x; subst x)
    | dsimp -zeta only [id]
    | split

theorem txReadyPair_keeps {s0 : State} : ∀ s9 a1, Keeps s0 s9 → Keeps s0 (txReadyPair s9 a1) := by
  intro s9 a1 h
  unfold txReadyPair
  repeat' first
    | with_reducible first | assumption | intro _ | apply txReady_keeps | apply pairSeq_keeps | refine pairSeq_keeps' (by assumption) ?_ | apply keeps_foldl | apply keeps_upto | apply keeps_each
    | (extract_lets +onlyGivenNames x; refine Keeps.cut (s0 := s0) (x := x) ?_ (fun _ => ?_); unfold x; clear x; rotate_left; clear_value x; revert x; intro y _; rotate_left)
    | (extract_lets +onlyGivenNames x; subst x)
    | dsimp -zeta only [id]
    | split

theorem execSupervisionTx_keeps {s0 : State} : ∀ a0 s1, Keeps s0 s1 → KeepsEnd s0 (execSupervisionTx a0 s1) := by
  intro a0 s1 h
  unfold execSupervisionTx
  refine keepsEnd_next ?_
  repeat' first
    | with_reducible first | assumption | apply reach_keeps | apply setLre_keeps | apply txReadyPair_keeps
    | dsimp only
    | split

theorem execDupEntryExpiry_keeps {s0 : State} : ∀ a0 s1, Keeps s0 s1 → KeepsEnd s0 (execDupEntryExpiry a0 s1) := by
  intro a0 s1 h
  unfold execDupEntryExpiry
  refine keepsEnd_next ?_
  repeat' first
    | with_reducible first | assumption | apply reach_keeps | apply setLre_keeps
    | dsimp only
    | split

end Sys2Proof.Machine
end

