-- ==== Sys2Proof/Laws/KeepsSvp.lean ====
section
/-! SUPPORT. What the functions of Machine/Svp.lean keep. -/

namespace Sys2Proof.Machine

theorem setSvPub_keeps {s0 : State} : ∀ s9 a1 a2, Keeps s0 s9 → Keeps s0 (setSvPub s9 a1 a2) :=
  fun _ _ _ h => ⟨h.mem, h.pending, h.now, h.svn, h.prov, h.decom⟩

theorem pubSvId_keeps {s0 : State} : ∀ s9 a1, Keeps s0 s9 → Keeps s0 (pubSvId s9 a1).2 := by
  intro s9 a1 h
  unfold pubSvId
  repeat' first
    | with_reducible first | assumption | apply dmaAccess_keeps | refine dmaAccess_keeps' (by assumption) ?_ | apply setEvt_keeps
    | dsimp only
    | split

theorem pubSvId_keeps' {s0 t : State} {r} {s9 a1} (e : pubSvId s9 a1 = (r, t)) (h : Keeps s0 s9) : Keeps s0 t :=
  by have := pubSvId_keeps s9 a1 h; rw [e] at this; exact this

theorem pubMove_keeps {s0 : State} : ∀ s9 s1 a2, Keeps s0 s9 → Keeps s0 s1 → Keeps s0 (pubMove s9 s1 a2) := by
  intro s9 s1 a2 h h
  unfold pubMove
  repeat' first
    | with_reducible first | assumption | intro _ | apply setSvPub_keeps | apply keeps_foldl | apply keeps_upto | apply keeps_each
    | (extract_lets +onlyGivenNames x; refine Keeps.cut (s0 := s0) (x := x) ?_ (fun _ => ?_); unfold x; clear x; rotate_left; clear_value x; revert x; intro y _; rotate_left)
    | (extract_lets +onlyGivenNames x; subst x)
    | dsimp -zeta only [id]
    | split

theorem pubPace_keeps {s0 : State} : ∀ s9 a1, Keeps s0 s9 → Keeps s0 (pubPace s9 a1) :=
  fun _ _ h => ⟨h.mem, h.pending, h.now, h.svn, h.prov, h.decom⟩

theorem svpInForce_keeps {s0 : State} : ∀ s9 s1, Keeps s0 s9 → Keeps s0 s1 → Keeps s0 (svpInForce s9 s1) := by
  intro s9 s1 h h
  unfold svpInForce
  repeat' first
    | with_reducible first | assumption | intro _ | apply setSvPub_keeps | apply pubSvId_keeps | refine pubSvId_keeps' (by assumption) ?_ | apply pubMove_keeps | apply pubPace_keeps | apply keeps_foldl | apply keeps_upto | apply keeps_each
    | dsimp only
    | split

theorem svpPace_keeps {s0 : State} : ∀ s9, Keeps s0 s9 → Keeps s0 (svpPace s9) := by
  intro s9 h
  unfold svpPace
  repeat' first
    | with_reducible first | assumption | intro _ | apply pubPace_keeps | apply keeps_foldl | apply keeps_upto | apply keeps_each
    | dsimp only
    | split

theorem readEach_keeps {s0 : State} : ∀ {α β : Type} (f : α → State → β × State) l s, (∀ x t, Keeps s0 t → Keeps s0 (f x t).2) → Keeps s0 s → Keeps s0 (readEach f l s).2 := by
  intro α β f l s hf h
  unfold readEach
  exact keeps_foldl_of (fun acc : List β × State => Keeps s0 acc.2) _ (fun acc x h => hf _ _ h) _ _ h

theorem pubEntry_keeps {s0 : State} : ∀ s9 a1 a2 a3, Keeps s0 s9 → Keeps s0 (pubEntry s9 a1 a2 a3).2 := by
  intro s9 a1 a2 a3 h
  unfold pubEntry
  repeat' first
    | with_reducible first | assumption | intro _ | apply dmaAccess_keeps | refine dmaAccess_keeps' (by assumption) ?_ | apply keeps_foldl | apply keeps_upto | apply keeps_each
    | (extract_lets +onlyGivenNames x; refine Keeps.cut (s0 := s0) (x := x) ?_ (fun _ => ?_); unfold x; clear x; rotate_left; clear_value x; revert x; intro y _; rotate_left)
    | (extract_lets +onlyGivenNames x; subst x)
    | dsimp -zeta only [id]
    | split

theorem pubEntry_keeps' {s0 t : State} {r} {s9 a1 a2 a3} (e : pubEntry s9 a1 a2 a3 = (r, t)) (h : Keeps s0 s9) : Keeps s0 t :=
  by have := pubEntry_keeps s9 a1 a2 a3 h; rw [e] at this; exact this

theorem pubSamples_keeps {s0 : State} : ∀ s9 a1 a2, Keeps s0 s9 → Keeps s0 (pubSamples s9 a1 a2).2 := by
  intro s9 a1 a2 h
  unfold pubSamples
  repeat' first
    | with_reducible first | assumption | intro _ | apply readEach_keeps | apply pubEntry_keeps | refine pubEntry_keeps' (by assumption) ?_ | apply setEvt_keeps | apply keeps_foldl | apply keeps_upto | apply keeps_each
    | (extract_lets +onlyGivenNames x; refine Keeps.cut (s0 := s0) (x := x) ?_ (fun _ => ?_); unfold x; clear x; rotate_left; clear_value x; revert x; intro y _; rotate_left)
    | (extract_lets +onlyGivenNames x; subst x)
    | dsimp -zeta only [id]
    | split

theorem pubSamples_keeps' {s0 t : State} {r} {s9 a1 a2} (e : pubSamples s9 a1 a2 = (r, t)) (h : Keeps s0 s9) : Keeps s0 t :=
  by have := pubSamples_keeps s9 a1 a2 h; rw [e] at this; exact this

theorem svpSendAt_keeps {s0 : State} : ∀ s9 a1 a2 a3, Keeps s0 s9 → Keeps s0 (svpSendAt s9 a1 a2 a3) := by
  intro s9 a1 a2 a3 h
  unfold svpSendAt
  repeat' first
    | with_reducible first | assumption | apply pubSamples_keeps | refine pubSamples_keeps' (by assumption) ?_ | apply txReadyPair_keeps | apply setSvPub_keeps | apply bump_keeps | apply svFrame_keeps
    | dsimp only
    | split

theorem execSvpSend_keeps {s0 : State} : ∀ a0 s1, Keeps s0 s1 → KeepsEnd s0 (execSvpSend a0 s1) := by
  intro a0 s1 h
  unfold execSvpSend
  refine keepsEnd_next ?_
  repeat' first
    | with_reducible first | assumption | apply reachLtc_keeps | apply svpSendAt_keeps | apply setSvPub_keeps
    | dsimp only
    | split

end Sys2Proof.Machine
end

