-- ==== Sys2Proof/Laws/KeepsCommit.lean ====
section
/-! SUPPORT. What the functions of Machine/Commit.lean keep. -/

namespace Sys2Proof.Machine

theorem blockInForce_keeps {s0 : State} : ∀ s9 a1 a2 s3, Keeps s0 s9 → Keeps s0 s3 → Keeps s0 (blockInForce s9 a1 a2 s3) := by
  intro s9 a1 a2 s3 h h
  unfold blockInForce
  repeat' first
    | with_reducible first | assumption | intro _ | apply lanesUpdate_keeps | apply timeChanged_keeps | apply macInForce_keeps | apply siuInForce_keeps | apply svpInForce_keeps | apply scaInForce_keeps | apply tmxInForce_keeps | apply gseInForce_keeps | apply drcInForce_keeps | apply mtrInForce_keeps | apply diagInForce_keeps | apply keeps_foldl | apply keeps_upto | apply keeps_each
    | dsimp only
    | split

theorem rejectSet_keeps {s0 : State} : ∀ s9 a1 a2 a3, Keeps s0 s9 → Keeps s0 (rejectSet s9 a1 a2 a3) := by
  intro s9 a1 a2 a3 h
  unfold rejectSet
  repeat' first
    | with_reducible first | assumption | apply setLive_keeps | apply setEvt_keeps
    | dsimp only
    | split

theorem setCommit_keeps {s0 : State} : ∀ s9 a1 a2, Keeps s0 s9 → Keeps s0 (setCommit s9 a1 a2) :=
  fun _ _ _ h => ⟨h.mem, h.pending, h.now, h.svn, h.prov, h.decom⟩

theorem checkDone_keeps {s0 : State} : ∀ s9 a1, Keeps s0 s9 → Keeps s0 (checkDone s9 a1) := by
  intro s9 a1 h
  unfold checkDone
  repeat' first
    | with_reducible first | assumption | apply rejectSet_keeps | apply setCommit_keeps
    | dsimp only
    | split

theorem checksEnd_keeps {s0 : State} : ∀ s9 a1, Keeps s0 s9 → Keeps s0 (checksEnd s9 a1) := by
  intro s9 a1 h
  unfold checksEnd
  repeat' first
    | with_reducible first | assumption | intro _ | apply checkDone_keeps | apply keeps_foldl | apply keeps_upto | apply keeps_each
    | dsimp only
    | split

theorem commit_keeps {s0 : State} : ∀ s9 a1 a2, Keeps s0 s9 → Keeps s0 (commit s9 a1 a2) :=
  fun _ _ _ h => ⟨h.mem, h.pending, h.now, h.svn, h.prov, h.decom⟩

theorem commitCancel_keeps {s0 : State} : ∀ s9 a1, Keeps s0 s9 → Keeps s0 (commitCancel s9 a1) := by
  intro s9 a1 h
  unfold commitCancel
  repeat' first
    | with_reducible first | assumption | apply setCommit_keeps | apply setEvt_keeps
    | dsimp only
    | split

theorem takeSet_keeps {s0 : State} : ∀ s9 a1, Keeps s0 s9 → Keeps s0 (takeSet s9 a1).1 := by
  intro s9 a1 h
  unfold takeSet
  repeat' first
    | with_reducible first | assumption | apply setCommit_keeps | apply rejectSet_keeps
    | dsimp only
    | split

theorem takeSet_keeps' {s0 t : State} {r} {s9 a1} (e : takeSet s9 a1 = (t, r)) (h : Keeps s0 s9) : Keeps s0 t :=
  by have := takeSet_keeps s9 a1 h; rw [e] at this; exact this

theorem setsInForce_checksAll_keeps {s0 : State} : ∀ s9 a1, Keeps s0 s9 → Keeps s0 (setsInForce.checksAll s9 a1) := by
  intro s9 a1 h
  unfold setsInForce.checksAll
  repeat' first
    | with_reducible first | assumption | intro _ | apply checksEnd_keeps | apply keeps_foldl | apply keeps_upto | apply keeps_each
    | dsimp only
    | split

theorem moveResources_keeps {s0 : State} : ∀ s9 a1, Keeps s0 s9 → Keeps s0 (moveResources s9 a1) :=
  fun _ _ h => ⟨h.mem, h.pending, h.now, h.svn, h.prov, h.decom⟩

theorem putInForce_keeps {s0 : State} : ∀ s9 a1 a2, Keeps s0 s9 → Keeps s0 (putInForce s9 a1 a2) := by
  intro s9 a1 a2 h
  unfold putInForce
  repeat' first
    | with_reducible first | assumption | apply moveResources_keeps | apply keysInForce_keeps | apply setLive_keeps
    | dsimp only
    | split

theorem setsInForce_keeps {s0 : State} : ∀ a0 s1, Keeps s0 s1 → Keeps s0 (setsInForce a0 s1) := by
  intro l s h
  unfold setsInForce
  refine keeps_each _ _ _ (keeps_each _ _ _ (keeps_foldl_of (fun acc : State × List (Nat × PendSet) => Keeps s0 acc.1) _ (fun acc i h => ?_) _ _ (setsInForce_checksAll_keeps _ _ h))
    fun a s h => putInForce_keeps _ _ _ h) fun a t g => blockInForce_keeps _ _ _ _ h g
  split
  · exact h
  · split
    · exact takeSet_keeps' (by assumption) h
    · exact takeSet_keeps' (by assumption) h

theorem execCommit_keeps {s0 : State} : ∀ a0 a1 a2 s3, Keeps s0 s3 → KeepsEnd s0 (execCommit a0 a1 a2 s3) := by
  intro a0 a1 a2 s3 h
  unfold execCommit
  refine keepsEnd_next ?_
  repeat' first
    | with_reducible first | assumption | intro _ | apply regAccess_keeps | apply commit_keeps | apply keeps_foldl | apply keeps_upto | apply keeps_each
    | dsimp only
    | split

theorem execCommitCancel_keeps {s0 : State} : ∀ a0 a1 s2, Keeps s0 s2 → KeepsEnd s0 (execCommitCancel a0 a1 s2) := by
  intro a0 a1 s2 h
  unfold execCommitCancel
  refine keepsEnd_next ?_
  repeat' first
    | with_reducible first | assumption | intro _ | apply regAccess_keeps | apply commitCancel_keeps | apply keeps_foldl | apply keeps_upto | apply keeps_each
    | dsimp only
    | split

theorem execConsistencyCheckDone_keeps {s0 : State} : ∀ a0 s1, Keeps s0 s1 → KeepsEnd s0 (execConsistencyCheckDone a0 s1) := by
  intro a0 s1 h
  unfold execConsistencyCheckDone
  refine keepsEnd_next ?_
  repeat' first
    | with_reducible first | assumption | apply checkDone_keeps
    | dsimp only
    | split

end Sys2Proof.Machine
end

