-- ==== Sys2Proof/Laws/KeepsDump.lean ====
section
/-! SUPPORT. What the functions of Machine/Dump.lean keep. -/

namespace Sys2Proof.Machine

theorem dumpErr_keeps {s0 : State} : ∀ s9 a1, Keeps s0 s9 → Keeps s0 (dumpErr s9 a1) :=
  fun _ _ h => ⟨h.mem, h.pending, h.now, h.svn, h.prov, h.decom⟩

theorem dumpAck_keeps {s0 : State} : ∀ s9, Keeps s0 s9 → Keeps s0 (dumpAck s9) := by
  intro s9 h
  unfold dumpAck
  repeat' first
    | with_reducible first | assumption | apply dumpErr_keeps | apply modDiag_keeps
    | dsimp only
    | split

theorem dumpCtrl_keeps {s0 : State} : ∀ a0 a1 f2 s3, (∀ t0, Keeps s0 t0 → Keeps s0 (f2 t0)) → Keeps s0 s3 → Keeps s0 (dumpCtrl a0 a1 f2 s3) := by
  intro a0 a1 f2 s3 h0 h
  unfold dumpCtrl
  repeat' first
    | with_reducible first | assumption | intro _ | apply h0 | apply regAccess_keeps | apply modDiag_keeps | apply keeps_foldl | apply keeps_upto | apply keeps_each
    | dsimp only
    | split

theorem dumpFreeze_keeps {s0 : State} : ∀ s9, Keeps s0 s9 → Keeps s0 (dumpFreeze s9) := by
  intro s9 h
  unfold dumpFreeze
  repeat' first
    | with_reducible first | assumption | intro _ | apply dumpErr_keeps | apply modDiag_keeps | apply mastership_keeps | apply runCut_keeps | apply keeps_foldl | apply keeps_upto | apply keeps_each
    | dsimp only
    | split

theorem execDumpFreeze_keeps {s0 : State} : ∀ a0 a1 s2, Keeps s0 s2 → KeepsEnd s0 (execDumpFreeze a0 a1 s2) := by
  intro a0 a1 s2 h
  unfold execDumpFreeze
  refine keepsEnd_next ?_
  repeat' first
    | with_reducible first | assumption | apply dumpCtrl_keeps | apply dumpFreeze_keeps
    | dsimp only
    | split

theorem dumpSeal_keeps {s0 : State} : ∀ s9, Keeps s0 s9 → Keeps s0 (dumpSeal s9) := by
  intro s9 h
  unfold dumpSeal
  repeat' first
    | with_reducible first | assumption | apply dumpErr_keeps | apply wrBytes_keeps | apply modDiag_keeps
    | dsimp only
    | split

theorem execDumpSeal_keeps {s0 : State} : ∀ a0 a1 s2, Keeps s0 s2 → KeepsEnd s0 (execDumpSeal a0 a1 s2) := by
  intro a0 a1 s2 h
  unfold execDumpSeal
  refine keepsEnd_next ?_
  repeat' first
    | with_reducible first | assumption | apply dumpCtrl_keeps | apply dumpSeal_keeps
    | dsimp only
    | split

theorem execDumpReset_keeps {s0 : State} : ∀ a0 a1 s2, Keeps s0 s2 → KeepsEnd s0 (execDumpReset a0 a1 s2) := by
  intro a0 a1 s2 h
  unfold execDumpReset
  refine keepsEnd_next ?_
  repeat' first
    | with_reducible first | assumption | intro _ | apply dumpCtrl_keeps | apply deviceReset_keeps | apply keeps_foldl | apply keeps_upto | apply keeps_each
    | dsimp only
    | split

theorem dumpUnseal_keeps {s0 : State} : ∀ s9, Keeps s0 s9 → Keeps s0 (dumpUnseal s9) := by
  intro s9 h
  unfold dumpUnseal
  repeat' first
    | with_reducible first | assumption | apply dumpErr_keeps | apply blockRead_keeps | apply dmaWrite_keeps
    | dsimp only
    | split

theorem execDumpUnseal_keeps {s0 : State} : ∀ a0 a1 s2, Keeps s0 s2 → KeepsEnd s0 (execDumpUnseal a0 a1 s2) := by
  intro a0 a1 s2 h
  unfold execDumpUnseal
  refine keepsEnd_next ?_
  repeat' first
    | with_reducible first | assumption | apply dumpCtrl_keeps | apply dumpUnseal_keeps
    | dsimp only
    | split

theorem execDumpAck_keeps {s0 : State} : ∀ a0 a1 s2, Keeps s0 s2 → KeepsEnd s0 (execDumpAck a0 a1 s2) := by
  intro a0 a1 s2 h
  unfold execDumpAck
  refine keepsEnd_next ?_
  repeat' first
    | with_reducible first | assumption | apply dumpCtrl_keeps | apply dumpAck_keeps
    | dsimp only
    | split

theorem execSealDone_keeps {s0 : State} : ∀ s9, Keeps s0 s9 → KeepsEnd s0 (execSealDone s9) := by
  intro s9 h
  unfold execSealDone
  refine keepsEnd_next ?_
  repeat' first
    | with_reducible first | assumption | apply drawBytes_keeps | refine drawBytes_keeps' (by assumption) ?_ | apply blockRead_keeps | apply setEvt_keeps | apply wrBytes_keeps | apply modDiag_keeps
    | dsimp only
    | split

theorem execDumpRegionWipeDone_keeps {s0 : State} : ∀ s9, Keeps s0 s9 → KeepsEnd s0 (execDumpRegionWipeDone s9) := by
  intro s9 h
  unfold execDumpRegionWipeDone
  refine keepsEnd_next ?_
  repeat' first
    | with_reducible first | assumption | apply wipe_keeps | apply modDiag_keeps
    | dsimp only
    | split

end Sys2Proof.Machine
end

