-- ==== Sys2Proof/Laws/KeepsFbc.lean ====
section
/-! SUPPORT. What the functions of Machine/Fbc.lean keep. -/

namespace Sys2Proof.Machine

theorem fbcPost_keeps {s0 : State} : ∀ s9 a1 a2 a3 a4 a5, Keeps s0 s9 → Keeps s0 (fbcPost s9 a1 a2 a3 a4 a5) := by
  intro s9 a1 a2 a3 a4 a5 h
  unfold fbcPost
  repeat' first
    | with_reducible first | assumption | apply almPost_keeps | apply notifyAll_keeps
    | dsimp only
    | split

theorem tq0Report_keeps {s0 : State} : ∀ s9 a1 a2, Keeps s0 s9 → Keeps s0 (tq0Report s9 a1 a2) := by
  intro s9 a1 a2 h
  unfold tq0Report
  repeat' first
    | with_reducible first | assumption | apply cmdReport_keeps
    | dsimp only
    | split

theorem tq0FailAll_keeps {s0 : State} : ∀ s9 a1 a2 a3, Keeps s0 s9 → Keeps s0 (tq0FailAll s9 a1 a2 a3) := by
  intro s9 a1 a2 a3 h
  unfold tq0FailAll
  repeat' first
    | with_reducible first | assumption | intro _ | apply setFbc_keeps | apply tq0Report_keeps | apply tq0Fail_keeps | apply keeps_foldl | apply keeps_upto | apply keeps_each
    | dsimp only
    | split

theorem fcUpdate_keeps {s0 : State} : ∀ s9 a1, Keeps s0 s9 → Keeps s0 (fcUpdate s9 a1) := by
  intro s9 a1 h
  unfold fcUpdate
  repeat' first
    | with_reducible first | assumption | apply setFbc_keeps | apply fbcPost_keeps | apply setEvt_keeps | apply tq0FailAll_keeps
    | dsimp only
    | split

theorem canError_keeps {s0 : State} : ∀ s9 a1 a2, Keeps s0 s9 → Keeps s0 (canError s9 a1 a2) := by
  intro s9 a1 a2 h
  unfold canError
  repeat' first
    | with_reducible first | assumption | apply fcUpdate_keeps | apply setFbc_keeps
    | dsimp only
    | split

theorem fbcCount_keeps {s0 : State} : ∀ s9 a1 a2, Keeps s0 s9 → Keeps s0 (fbcCount s9 a1 a2) :=
  fun _ _ _ h => ⟨h.mem, h.pending, h.now, h.svn, h.prov, h.decom⟩

theorem recDown_keeps {s0 : State} : ∀ s9 a1, Keeps s0 s9 → Keeps s0 (recDown s9 a1) := by
  intro s9 a1 h
  unfold recDown
  repeat' first
    | with_reducible first | assumption | apply draw_keeps | refine draw_keeps' (by assumption) ?_ | apply fcUpdate_keeps | apply setFbc_keeps
    | dsimp only
    | split

theorem setRq_keeps {s0 : State} : ∀ s9 a1 a2 a3, Keeps s0 s9 → Keeps s0 (setRq s9 a1 a2 a3) := by
  intro s9 a1 a2 a3 h
  unfold setRq
  repeat' first
    | with_reducible first | assumption | apply setFbc_keeps
    | dsimp only
    | split

theorem rqSide_keeps {s0 : State} : ∀ s9 a1 a2, Keeps s0 s9 → Keeps s0 (rqSide s9 a1 a2) := by
  intro s9 a1 a2 h
  unfold rqSide
  repeat' first
    | with_reducible first | assumption | apply bump_keeps | apply setEvt_keeps | apply setRq_keeps | apply notifyAll_keeps
    | dsimp only
    | split

theorem fbcPtrReset_keeps {s0 : State} : ∀ s9 a1 a2, Keeps s0 s9 → Keeps s0 (fbcPtrReset s9 a1 a2) := by
  intro s9 a1 a2 h
  unfold fbcPtrReset
  repeat' first
    | with_reducible first | assumption | apply tq0FailAll_keeps | apply setEvt_keeps | apply setFbc_keeps | apply rqSide_keeps | apply setRq_keeps | apply fbcPost_keeps | apply ptrSum_keeps
    | dsimp only
    | split

theorem rqCheck_keeps {s0 : State} : ∀ s9 a1 a2, Keeps s0 s9 → Keeps s0 (rqCheck s9 a1 a2) := by
  intro s9 a1 a2 h
  unfold rqCheck
  repeat' first
    | with_reducible first | assumption | apply fbcPtrReset_keeps
    | dsimp only
    | split

theorem rqStore_keeps {s0 : State} : ∀ s9 a1 a2 a3, Keeps s0 s9 → Keeps s0 (rqStore s9 a1 a2 a3) := by
  intro s9 a1 a2 a3 h
  unfold rqStore
  repeat' first
    | with_reducible first | assumption | apply rqCheck_keeps | apply rqSide_keeps | apply setRq_keeps | apply bump_keeps | apply setEvt_keeps
    | dsimp only
    | split

theorem localControl_keeps {s0 : State} : ∀ s9 a1 a2, Keeps s0 s9 → Keeps s0 (localControl s9 a1 a2) := by
  intro s9 a1 a2 h
  unfold localControl
  repeat' first
    | with_reducible first | assumption | apply cmdOrder_keeps | apply fbcCount_keeps
    | dsimp only
    | split

theorem canRxIn_keeps {s0 : State} : ∀ s9 a1 a2 a3, Keeps s0 s9 → Keeps s0 (canRxIn s9 a1 a2 a3) := by
  intro s9 a1 a2 a3 h
  unfold canRxIn
  repeat' first
    | with_reducible first | assumption | apply canError_keeps | apply fbcCount_keeps | apply recDown_keeps | apply setLive_keeps | apply rqStore_keeps | apply localControl_keeps
    | dsimp only
    | split

theorem canLoop_keeps {s0 : State} : ∀ s9 a1 a2 a3, Keeps s0 s9 → Keeps s0 (canLoop s9 a1 a2 a3) := by
  intro s9 a1 a2 a3 h
  unfold canLoop
  repeat' first
    | with_reducible first | assumption | apply canRxIn_keeps
    | dsimp only
    | split

theorem execFbcEnable_keeps {s0 : State} : ∀ a0 a1 s2, Keeps s0 s2 → KeepsEnd s0 (execFbcEnable a0 a1 s2) := by
  intro a0 a1 s2 h
  unfold execFbcEnable
  refine keepsEnd_next ?_
  repeat' first
    | with_reducible first | assumption | intro _ | apply regAccess_keeps | apply setEvt_keeps | apply setFbc_keeps | apply setShadow_keeps | apply keeps_foldl | apply keeps_upto | apply keeps_each
    | dsimp only
    | split

theorem execFbcDisable_keeps {s0 : State} : ∀ a0 a1 s2, Keeps s0 s2 → KeepsEnd s0 (execFbcDisable a0 a1 s2) := by
  intro a0 a1 s2 h
  unfold execFbcDisable
  refine keepsEnd_next ?_
  repeat' first
    | with_reducible first | assumption | intro _ | apply regAccess_keeps | apply setFbc_keeps | apply setShadow_keeps | apply tq0Report_keeps | apply tq0Fail_keeps | apply tq0FailAll_keeps | apply keeps_foldl | apply keeps_upto | apply keeps_each
    | dsimp only
    | split

theorem execFbcRecover_keeps {s0 : State} : ∀ a0 a1 s2, Keeps s0 s2 → KeepsEnd s0 (execFbcRecover a0 a1 s2) := by
  intro a0 a1 s2 h
  unfold execFbcRecover
  refine keepsEnd_next ?_
  repeat' first
    | with_reducible first | assumption | intro _ | apply regAccess_keeps | apply setFbc_keeps | apply keeps_foldl | apply keeps_upto | apply keeps_each
    | dsimp only
    | split

theorem tq1Check_keeps {s0 : State} : ∀ s9 a1, Keeps s0 s9 → Keeps s0 (tq1Check s9 a1) := by
  intro s9 a1 h
  unfold tq1Check
  repeat' first
    | with_reducible first | assumption | apply fbcPtrReset_keeps
    | dsimp only
    | split

theorem tq1Discard_keeps {s0 : State} : ∀ s9 a1 a2, Keeps s0 s9 → Keeps s0 (tq1Discard s9 a1 a2) :=
  fun _ _ _ h => ⟨h.mem, h.pending, h.now, h.svn, h.prov, h.decom⟩

theorem tq1Head_keeps {s0 : State} : ∀ s9 a1 a2, Keeps s0 s9 → Keeps s0 (tq1Head s9 a1 a2) := by
  intro s9 a1 a2 h
  unfold tq1Head
  repeat' first
    | with_reducible first | assumption | apply setEvt_keeps | apply tq1Discard_keeps | apply setFbc_keeps | apply bump_keeps
    | dsimp only
    | split

theorem execTq1Push_keeps {s0 : State} : ∀ a0 a1 a2 s3, Keeps s0 s3 → KeepsEnd s0 (execTq1Push a0 a1 a2 s3) := by
  intro a0 a1 a2 s3 h
  unfold execTq1Push
  refine keepsEnd_next ?_
  repeat' first
    | with_reducible first | assumption | intro _ | apply regAccess_keeps | apply tq1Check_keeps | apply tq1Head_keeps | apply tq1Discard_keeps | apply setEvt_keeps | apply setFbc_keeps | apply keeps_foldl | apply keeps_upto | apply keeps_each
    | dsimp only
    | split

theorem execTq1Flush_keeps {s0 : State} : ∀ a0 a1 s2, Keeps s0 s2 → KeepsEnd s0 (execTq1Flush a0 a1 s2) := by
  intro a0 a1 s2 h
  unfold execTq1Flush
  refine keepsEnd_next ?_
  repeat' first
    | with_reducible first | assumption | intro _ | apply regAccess_keeps | apply setFbc_keeps | apply keeps_foldl | apply keeps_upto | apply keeps_each
    | dsimp only
    | split

theorem execRqFlush_keeps {s0 : State} : ∀ a0 a1 a2 s3, Keeps s0 s3 → KeepsEnd s0 (execRqFlush a0 a1 a2 s3) := by
  intro a0 a1 a2 s3 h
  unfold execRqFlush
  refine keepsEnd_next ?_
  repeat' first
    | with_reducible first | assumption | intro _ | apply regAccess_keeps | apply setRq_keeps | apply rqSide_keeps | apply bump_keeps | apply keeps_foldl | apply keeps_upto | apply keeps_each
    | dsimp only
    | split

theorem execRqHead_keeps {s0 : State} : ∀ a0 a1 a2 s3, Keeps s0 s3 → KeepsEnd s0 (execRqHead a0 a1 a2 s3) := by
  intro a0 a1 a2 s3 h
  unfold execRqHead
  refine keepsEnd_next ?_
  repeat' first
    | with_reducible first | assumption | intro _ | apply regAccess_keeps | apply rqCheck_keeps | apply setBus_keeps | apply setEvt_keeps | apply setRq_keeps | apply rqSide_keeps | apply keeps_foldl | apply keeps_upto | apply keeps_each
    | dsimp only
    | split

theorem execCanFrameRx_keeps {s0 : State} : ∀ a0 a1 a2 s3, Keeps s0 s3 → KeepsEnd s0 (execCanFrameRx a0 a1 a2 s3) := by
  intro a0 a1 a2 s3 h
  unfold execCanFrameRx
  refine keepsEnd_next ?_
  repeat' first
    | with_reducible first | assumption | apply canRxIn_keeps
    | dsimp only
    | split

theorem tq0Check_keeps {s0 : State} : ∀ s9 a1, Keeps s0 s9 → Keeps s0 (tq0Check s9 a1) := by
  intro s9 a1 h
  unfold tq0Check
  repeat' first
    | with_reducible first | assumption | apply fbcPtrReset_keeps
    | dsimp only
    | split

theorem execCanArbitration_keeps {s0 : State} : ∀ a0 a1 s2, Keeps s0 s2 → KeepsEnd s0 (execCanArbitration a0 a1 s2) := by
  intro a0 a1 s2 h
  unfold execCanArbitration
  refine keepsEnd_next ?_
  repeat' first
    | with_reducible first | assumption | apply tq1Check_keeps | apply tq0Check_keeps | apply setFbc_keeps | apply tq0Report_keeps | apply tq0Fail_keeps
    | dsimp only
    | split

theorem tecDown_keeps {s0 : State} : ∀ s9 a1, Keeps s0 s9 → Keeps s0 (tecDown s9 a1) := by
  intro s9 a1 h
  unfold tecDown
  repeat' first
    | with_reducible first | assumption | apply fcUpdate_keeps | apply setFbc_keeps
    | dsimp only
    | split

theorem execCanTxComplete_keeps {s0 : State} : ∀ a0 a1 s2, Keeps s0 s2 → KeepsEnd s0 (execCanTxComplete a0 a1 s2) := by
  intro a0 a1 s2 h
  unfold execCanTxComplete
  refine keepsEnd_next ?_
  repeat' first
    | with_reducible first | assumption | apply tq1Check_keeps | apply tq0Check_keeps | apply canLoop_keeps | apply setFbc_keeps | apply tq0Report_keeps | apply tecDown_keeps | apply bump_keeps | apply tq0Fail_keeps
    | dsimp only
    | split

theorem execCanBusError_keeps {s0 : State} : ∀ a0 a1 s2, Keeps s0 s2 → KeepsEnd s0 (execCanBusError a0 a1 s2) := by
  intro a0 a1 s2 h
  unfold execCanBusError
  refine keepsEnd_next ?_
  repeat' first
    | with_reducible first | assumption | apply canError_keeps | apply setLive_keeps
    | dsimp only
    | split

theorem execBusOffRecovered_keeps {s0 : State} : ∀ a0 s1, Keeps s0 s1 → KeepsEnd s0 (execBusOffRecovered a0 s1) := by
  intro a0 s1 h
  unfold execBusOffRecovered
  refine keepsEnd_next ?_
  repeat' first
    | with_reducible first | assumption | apply fbcPost_keeps | apply setEvt_keeps | apply setFbc_keeps
    | dsimp only
    | split

theorem execXcvrFault_keeps {s0 : State} : ∀ a0 a1 s2, Keeps s0 s2 → KeepsEnd s0 (execXcvrFault a0 a1 s2) := by
  intro a0 a1 s2 h
  unfold execXcvrFault
  refine keepsEnd_next ?_
  repeat' first
    | with_reducible first | assumption | apply setFbc_keeps | apply fbcPost_keeps | apply setEvt_keeps
    | dsimp only
    | split

end Sys2Proof.Machine
end

