-- ==== Sys2Proof/Laws/KeepsMeridian.lean ====
section
/-! SUPPORT. What the functions of Machine/Meridian.lean keep. -/

namespace Sys2Proof.Machine

theorem timeMeridian_keeps {s0 : State} : ∀ s9, Keeps s0 s9 → Keeps s0 (timeMeridian s9) := by
  intro s9 h
  unfold timeMeridian
  repeat' first
    | with_reducible first | assumption | apply timeEval_keeps | apply domUpdate_keeps | apply slewPull_keeps | apply shortAll_keeps | apply siuStep_keeps
    | dsimp only
    | split

theorem sliceFault_keeps {s0 : State} : ∀ s9 a1 a2 a3, Keeps s0 s9 → Keeps s0 (sliceFault s9 a1 a2 a3) := by
  intro s9 a1 a2 a3 h
  unfold sliceFault
  repeat' first
    | with_reducible first | assumption | apply almPost_keeps | apply setEvt_keeps | apply guardFault_keeps
    | dsimp only
    | split

theorem sliceCheck_keeps {s0 : State} : ∀ s9, Keeps s0 s9 → Keeps s0 (sliceCheck s9) := by
  intro s9 h
  unfold sliceCheck
  repeat' first
    | with_reducible first | assumption | intro _ | apply sliceFault_keeps | apply keeps_foldl | apply keeps_upto | apply keeps_each
    | dsimp only
    | split

theorem steps12_keeps {s0 : State} : ∀ s9, Keeps s0 s9 → Keeps s0 (steps12 s9) := by
  intro s9 h
  unfold steps12
  repeat' first
    | with_reducible first | assumption | apply setsInForce_keeps | apply sliceCheck_keeps | apply scaMeridian_keeps | apply gseSim_keeps | apply siuEval_keeps | apply siuSim_keeps | apply svpPace_keeps | apply siuPace_keeps
    | dsimp only
    | split

theorem forcesDue_keeps {s0 : State} : ∀ s9, Keeps s0 s9 → Keeps s0 (forcesDue s9) := by
  intro s9 h
  unfold forcesDue
  repeat' first
    | with_reducible first | assumption | intro _ | apply forcesMeridian_keeps | apply keeps_foldl | apply keeps_upto | apply keeps_each
    | (extract_lets +onlyGivenNames x; refine Keeps.cut (s0 := s0) (x := x) ?_ (fun _ => ?_); unfold x; clear x; rotate_left; clear_value x; revert x; intro y _; rotate_left)
    | (extract_lets +onlyGivenNames x; subst x)
    | dsimp -zeta only [id]
    | split

theorem step4_keeps {s0 : State} : ∀ s9, Keeps s0 s9 → Keeps s0 (step4 s9) := by
  intro s9 h
  unfold step4
  repeat' first
    | with_reducible first | assumption | intro _ | apply lanesUpdate_keeps | apply forcesDue_keeps | apply laneResume_keeps | apply keeps_foldl | apply keeps_upto | apply keeps_each
    | dsimp only
    | split

theorem restartsDue_keeps {s0 : State} : ∀ s9, Keeps s0 s9 → Keeps s0 (restartsDue s9) := by
  intro s9 h
  unfold restartsDue
  repeat' first
    | with_reducible first | assumption | intro _ | apply restartMeridian_keeps | apply switchAttempt_keeps | apply keeps_foldl | apply keeps_upto | apply keeps_each
    | (extract_lets +onlyGivenNames x; refine Keeps.cut (s0 := s0) (x := x) ?_ (fun _ => ?_); unfold x; clear x; rotate_left; clear_value x; revert x; intro y _; rotate_left)
    | (extract_lets +onlyGivenNames x; subst x)
    | dsimp -zeta only [id]
    | split

theorem step3_keeps {s0 : State} : ∀ s9, Keeps s0 s9 → Keeps s0 (step3 s9) := by
  intro s9 h
  unfold step3
  repeat' first
    | with_reducible first | assumption | intro _ | apply restartsDue_keeps | apply autoInstalls_keeps | apply keeps_foldl | apply keeps_upto | apply keeps_each
    | dsimp only
    | split

theorem genStop_keeps {s0 : State} : ∀ s9, Keeps s0 s9 → Keeps s0 (genStop s9) := by
  intro s9 h
  unfold genStop
  repeat' first
    | with_reducible first | assumption
    | dsimp only
    | split

theorem meridianPass_keeps {s0 : State} : ∀ a0 s1, Keeps s0 s1 → Keeps s0 (meridianPass a0 s1) := by
  intro a0 s1 h
  unfold meridianPass
  repeat' first
    | with_reducible first | assumption | apply mirClaims_keeps | apply timeMeridian_keeps | apply steps12_keeps | apply mirMeridian_keeps | apply plinthCapture_keeps | apply step4_keeps | apply step3_keeps | apply cyclicMeridian_keeps | apply cmdEvaluate_keeps | apply mirTick_keeps | apply genStop_keeps | apply saveIfDue_keeps | apply biWordWrite_keeps | apply mtrMeridian_keeps | apply gseMeridian_keeps
    | dsimp only
    | split

theorem meridian_keeps {s0 : State} : ∀ s9, Keeps s0 s9 → Keeps s0 (meridian s9) := by
  intro s9 h
  unfold meridian
  repeat' first
    | with_reducible first | assumption | apply cutDue_keeps | apply mirTick_keeps | apply reachLtc_keeps | apply drcMeridian_keeps | apply meridianPass_keeps
    | dsimp only
    | split

theorem execMeridian_keeps {s0 : State} : ∀ s9, Keeps s0 s9 → KeepsEnd s0 (execMeridian s9) := by
  intro s9 h
  unfold execMeridian
  refine keepsEnd_next ?_
  repeat' first
    | with_reducible first | assumption | apply meridian_keeps
    | dsimp only
    | split

theorem stoppedDue_keeps {s0 : State} : ∀ s9, Keeps s0 s9 → Keeps s0 (stoppedDue s9) := by
  intro s9 h
  unfold stoppedDue
  repeat' first
    | with_reducible first | assumption | intro _ | apply siuEval_keeps | apply setsInForce_keeps | apply restartsDue_keeps | apply forcesDue_keeps | apply keeps_foldl | apply keeps_upto | apply keeps_each
    | dsimp only
    | split

theorem stoppedReach_keeps {s0 : State} : ∀ s9 a1, Keeps s0 s9 → Keeps s0 (stoppedReach s9 a1) := by
  intro s9 a1 h
  unfold stoppedReach
  repeat' first
    | with_reducible first | assumption | intro _ | apply stoppedDue_keeps | apply reach_keeps | apply keeps_foldl | apply keeps_upto | apply keeps_each
    | (extract_lets +onlyGivenNames x; refine Keeps.cut (s0 := s0) (x := x) ?_ (fun _ => ?_); unfold x; clear x; rotate_left; clear_value x; revert x; intro y _; rotate_left)
    | (extract_lets +onlyGivenNames x; subst x)
    | dsimp -zeta only [id]
    | split

theorem execStoppedSetInForce_keeps {s0 : State} : ∀ a0 s1, Keeps s0 s1 → KeepsEnd s0 (execStoppedSetInForce a0 s1) := by
  intro a0 s1 h
  unfold execStoppedSetInForce
  refine keepsEnd_next ?_
  repeat' first
    | with_reducible first | assumption | apply stoppedReach_keeps
    | dsimp only
    | split

theorem execTwilightSave_keeps {s0 : State} : ∀ s9, Keeps s0 s9 → KeepsEnd s0 (execTwilightSave s9) := by
  intro s9 h
  unfold execTwilightSave
  refine keepsEnd_next ?_
  repeat' first
    | with_reducible first | assumption | apply meridian_keeps | apply twilightSave_keeps
    | dsimp only
    | split

theorem genStart_keeps {s0 : State} : ∀ s9 a1, Keeps s0 s9 → Keeps s0 (genStart s9 a1) := by
  intro s9 a1 h
  unfold genStart
  repeat' first
    | with_reducible first | assumption | apply mirTick_keeps | apply reachLtc_keeps | apply meridianPass_keeps
    | dsimp only
    | split

theorem execTickGenStart_keeps {s0 : State} : ∀ s9, Keeps s0 s9 → KeepsEnd s0 (execTickGenStart s9) := by
  intro s9 h
  unfold execTickGenStart
  refine keepsEnd_next ?_
  repeat' first
    | with_reducible first | assumption | apply genStart_keeps | apply stoppedReach_keeps
    | dsimp only
    | split

theorem execLoadDone_keeps {s0 : State} : ∀ a0 s1, Keeps s0 s1 → KeepsEnd s0 (execLoadDone a0 s1) := by
  intro a0 s1 h
  unfold execLoadDone
  refine keepsEnd_next ?_
  repeat' first
    | with_reducible first | assumption | apply loadDone_keeps | apply autoInstalls_keeps
    | dsimp only
    | split

theorem execLeaseSilenceExpiry_keeps {s0 : State} : ∀ s9, Keeps s0 s9 → KeepsEnd s0 (execLeaseSilenceExpiry s9) := by
  intro s9 h
  unfold execLeaseSilenceExpiry
  refine keepsEnd_next ?_
  repeat' first
    | with_reducible first | assumption | apply meridian_keeps
    | dsimp only
    | split

theorem execListenSilenceExpiry_keeps {s0 : State} : ∀ s9, Keeps s0 s9 → KeepsEnd s0 (execListenSilenceExpiry s9) := by
  intro s9 h
  unfold execListenSilenceExpiry
  refine keepsEnd_next ?_
  repeat' first
    | with_reducible first | assumption | apply meridian_keeps
    | dsimp only
    | split

theorem idleEdge_keeps {s0 : State} : ∀ s9, Keeps s0 s9 → Keeps s0 (idleEdge s9) := by
  intro s9 h
  unfold idleEdge
  repeat' first
    | with_reducible first | assumption | apply stoppedDue_keeps | apply cutDue_keeps | apply mirTick_keeps | apply elapse_keeps
    | dsimp only
    | split

end Sys2Proof.Machine
end

