-- ==== Sys2Proof/Laws/KeepsRegOp.lean ====
section
/-! SUPPORT. What the functions of Machine/RegOp.lean keep. -/

namespace Sys2Proof.Machine

theorem rsWrite_keeps {s0 : State} : ∀ s9 a1 a2 a3, Keeps s0 s9 → Keeps s0 (rsWrite s9 a1 a2 a3) :=
  fun _ _ _ _ h => ⟨h.mem, h.pending, h.now, h.svn, h.prov, h.decom⟩

theorem stWritten_keeps {s0 : State} : ∀ s9 a1, Keeps s0 s9 → Keeps s0 (stWritten s9 a1) := by
  intro s9 a1 h
  unfold stWritten
  repeat' first
    | with_reducible first | assumption | intro _ | apply linkUpdate_keeps | apply keeps_foldl | apply keeps_upto | apply keeps_each
    | (extract_lets +onlyGivenNames x; refine Keeps.cut (s0 := s0) (x := x) ?_ (fun _ => ?_); unfold x; clear x; rotate_left; clear_value x; revert x; intro y _; rotate_left)
    | (extract_lets +onlyGivenNames x; subst x)
    | dsimp -zeta only [id]
    | split

theorem classWrite_keeps {s0 : State} : ∀ s9 a1 a2 a3 a4, Keeps s0 s9 → Keeps s0 (classWrite s9 a1 a2 a3 a4) := by
  intro s9 a1 a2 a3 a4 h
  unfold classWrite
  repeat' first
    | with_reducible first | assumption | apply setLive_keeps | apply rsWrite_keeps | apply setShadow_keeps | apply werr_keeps | apply stWritten_keeps
    | dsimp only
    | split

theorem nx_keeps {s0 : State} : ∀ o s, KeepsEnd s0 o → Keeps s0 s → Keeps s0 (nx o s) := by
  intro o s h g
  cases o with
  | next t => exact h
  | fault _ => exact g
  | refused _ => exact g

theorem dumpOp_keeps {s0 : State} : ∀ a0 a1 s2, Keeps s0 s2 → Keeps s0 (dumpOp a0 a1 s2) := by
  intro a0 a1 s2 h
  unfold dumpOp
  repeat' first
    | with_reducible first | assumption | intro _ | apply nx_keeps | apply execDumpFreeze_keeps | apply execDumpSeal_keeps | apply execDumpReset_keeps | apply execDumpUnseal_keeps | apply execDumpAck_keeps | apply dumpCtrl_keeps | apply keeps_foldl | apply keeps_upto | apply keeps_each
    | (extract_lets +onlyGivenNames x; refine Keeps.cut (s0 := s0) (x := x) ?_ (fun _ => ?_); unfold x; clear x; rotate_left; clear_value x; revert x; intro y _; rotate_left)
    | (extract_lets +onlyGivenNames x; subst x)
    | dsimp -zeta only [id]
    | split

theorem refusedRead_keeps {s0 : State} : ∀ s9 a1, Keeps s0 s9 → Keeps s0 (refusedRead s9 a1) := by
  intro s9 a1 h
  unfold refusedRead
  repeat' first
    | with_reducible first | assumption | intro _ | apply memError_keeps | apply keeps_foldl | apply keeps_upto | apply keeps_each
    | (extract_lets +onlyGivenNames x; refine Keeps.cut (s0 := s0) (x := x) ?_ (fun _ => ?_); unfold x; clear x; rotate_left; clear_value x; revert x; intro y _; rotate_left)
    | (extract_lets +onlyGivenNames x; subst x)
    | dsimp -zeta only [id]
    | split

theorem memRead_keeps {s0 : State} : ∀ s9 a1 a2 a3, Keeps s0 s9 → Keeps s0 (memRead s9 a1 a2 a3) := by
  intro s9 a1 a2 a3 h
  unfold memRead
  repeat' first
    | with_reducible first | assumption | apply draw_keeps | refine draw_keeps' (by assumption) ?_ | apply eccRead_keeps | refine eccRead_keeps' (by assumption) ?_ | apply refusedRead_keeps
    | dsimp only
    | split

theorem memAccess_keeps {s0 : State} : ∀ s9 a1 a2 a3 a4 a5, Keeps s0 s9 → Keeps s0 (memAccess s9 a1 a2 a3 a4 a5) := by
  intro s9 a1 a2 a3 a4 a5 h
  unfold memAccess
  repeat' first
    | with_reducible first | assumption | apply refusedRead_keeps | apply violate_keeps | apply dramStall_keeps | apply wrBytes_keeps | apply memRead_keeps
    | dsimp only
    | split

theorem regShape_keeps {s0 : State} : ∀ s9 a1 a2 a3 a4 f5, Keeps s0 s9 → (∀ x0, Keeps s0 (f5 x0)) → Keeps s0 (regShape s9 a1 a2 a3 a4 f5) := by
  intro s9 a1 a2 a3 a4 f5 h h1
  unfold regShape
  repeat' first
    | with_reducible first | assumption | apply h1 | apply busError_keeps
    | dsimp only
    | split

theorem headerWrite_keeps {s0 : State} : ∀ a0 a1 a2 a3 s4, Keeps s0 s4 → Keeps s0 (headerWrite a0 a1 a2 a3 s4) := by
  intro a0 a1 a2 a3 s4 h
  unfold headerWrite
  repeat' first
    | with_reducible first | assumption | apply nx_keeps | apply execCommitCancel_keeps | apply execCommit_keeps | apply setLive_keeps
    | dsimp only
    | split

theorem execSoftwareReset_keeps {s0 : State} : ∀ a0 s1, Keeps s0 s1 → KeepsEnd s0 (execSoftwareReset a0 s1) := by
  intro a0 s1 h
  unfold execSoftwareReset
  refine keepsEnd_next ?_
  repeat' first
    | with_reducible first | assumption | intro _ | apply regAccess_keeps | apply deviceReset_keeps | apply keeps_foldl | apply keeps_upto | apply keeps_each
    | dsimp only
    | split

theorem trustOp_keeps {s0 : State} : ∀ a0 a1 s2, Keeps s0 s2 → Keeps s0 (trustOp a0 a1 s2) := by
  intro a0 a1 s2 h
  unfold trustOp
  repeat' first
    | with_reducible first | assumption | intro _ | apply nx_keeps | apply execVerify_keeps | apply execHash_keeps | apply execKeyLoad_keeps | apply execTransfer_keeps | apply execKeyClear_keeps | apply execKeyGen_keeps | apply execKeyDelete_keeps | apply execImportOpen_keeps | apply execImportApply_keeps | apply execAttest_keeps | apply execNonce_keeps | apply execLcTransition_keeps | apply execSvnAdvance_keeps | apply execFuseKeyAdd_keeps | apply execFuseKeyRevoke_keeps | apply trustCmd_keeps | apply trustRun_keeps | apply execProvision_keeps | apply execLcStatus_keeps | apply keeps_foldl | apply keeps_upto | apply keeps_each
    | dsimp only
    | split

theorem medOp_keeps {s0 : State} : ∀ a0 a1 s2, Keeps s0 s2 → Keeps s0 (medOp a0 a1 s2) := by
  intro a0 a1 s2 h
  unfold medOp
  repeat' first
    | with_reducible first | assumption | apply nx_keeps | apply execAssign_keeps | apply execRelease_keeps
    | dsimp only
    | split

theorem timeOwn_keeps {s0 : State} : ∀ a0 a1 a2 s3, Keeps s0 s3 → KeepsOpt s0 (timeOwn a0 a1 a2 s3) := by
  intro a0 a1 a2 s3 h
  unfold timeOwn
  repeat' first
    | with_reducible first | assumption | apply keepsOpt_some | exact keepsOpt_none _ | apply nx_keeps | apply execRealign_keeps | apply execTickEnable_keeps | apply execTickDisable_keeps | apply execDomainEnable_keeps | apply execDomainDisable_keeps | apply execTxqFlush_keeps | apply execBiqFlush_keeps
    | dsimp only
    | split

theorem timeOwn_keeps' {s0 t : State} {a0 a1 a2 s3} (e : timeOwn a0 a1 a2 s3 = some t) (h : Keeps s0 s3) : Keeps s0 t :=
  (timeOwn_keeps a0 a1 a2 s3 h) _ e

theorem ringOwn_keeps {s0 : State} : ∀ a0 a1 a2 a3 a4 s5, Keeps s0 s5 → Keeps s0 (ringOwn a0 a1 a2 a3 a4 s5) := by
  intro a0 a1 a2 a3 a4 s5 h
  unfold ringOwn
  repeat' first
    | with_reducible first | assumption | apply nx_keeps | apply execRingFlush_keeps | apply setShadow_keeps
    | dsimp only
    | split

theorem macOwn_keeps {s0 : State} : ∀ a0 a1 a2 a3 s4, Keeps s0 s4 → KeepsOpt s0 (macOwn a0 a1 a2 a3 s4) := by
  intro a0 a1 a2 a3 s4 h
  unfold macOwn
  repeat' first
    | with_reducible first | assumption | apply keepsOpt_some | exact keepsOpt_none _ | apply nx_keeps | apply execMacEnable_keeps | apply execMacDisable_keeps | apply execSfpTwoWire_keeps | apply ringOwn_keeps | apply rxRdWrite_keeps | apply execTxrWrWrite_keeps
    | dsimp only
    | split

theorem macOwn_keeps' {s0 t : State} {a0 a1 a2 a3 s4} (e : macOwn a0 a1 a2 a3 s4 = some t) (h : Keeps s0 s4) : Keeps s0 t :=
  (macOwn_keeps a0 a1 a2 a3 s4 h) _ e

theorem tskOp_keeps {s0 : State} : ∀ a0 a1 a2 s3, Keeps s0 s3 → Keeps s0 (tskOp a0 a1 a2 s3) := by
  intro a0 a1 a2 s3 h
  unfold tskOp
  repeat' first
    | with_reducible first | assumption | intro _ | apply nx_keeps | apply execLoad_keeps | apply execPrepare_keeps | apply execSwitch_keeps | apply execDiscard_keeps | apply execInstall_keeps | apply execStartWarm_keeps | apply execStartCold_keeps | apply execTskStop_keeps | apply pCtrl_keeps | apply keeps_foldl | apply keeps_upto | apply keeps_each
    | (extract_lets +onlyGivenNames x; refine Keeps.cut (s0 := s0) (x := x) ?_ (fun _ => ?_); unfold x; clear x; rotate_left; clear_value x; revert x; intro y _; rotate_left)
    | (extract_lets +onlyGivenNames x; subst x)
    | dsimp -zeta only [id]
    | split

theorem ordOp_keeps {s0 : State} : ∀ a0 a1 s2, Keeps s0 s2 → Keeps s0 (ordOp a0 a1 s2) := by
  intro a0 a1 s2 h
  unfold ordOp
  repeat' first
    | with_reducible first | assumption | apply nx_keeps | apply execCmdSelect_keeps | apply execCmdOperate_keeps | apply execCmdCancel_keeps | apply cmdOrder_keeps
    | dsimp only
    | split

theorem fbcOwn_keeps {s0 : State} : ∀ a0 a1 a2 a3 s4, Keeps s0 s4 → KeepsOpt s0 (fbcOwn a0 a1 a2 a3 s4) := by
  intro a0 a1 a2 a3 s4 h
  unfold fbcOwn
  repeat' first
    | with_reducible first | assumption | apply keepsOpt_some | exact keepsOpt_none _ | apply nx_keeps | apply execFbcEnable_keeps | apply execFbcDisable_keeps | apply execFbcRecover_keeps | apply execTq1Push_keeps | apply execTq1Flush_keeps | apply execRqFlush_keeps
    | dsimp only
    | split

theorem fbcOwn_keeps' {s0 t : State} {a0 a1 a2 a3 s4} (e : fbcOwn a0 a1 a2 a3 s4 = some t) (h : Keeps s0 s4) : Keeps s0 t :=
  (fbcOwn_keeps a0 a1 a2 a3 s4 h) _ e

theorem segOp_keeps {s0 : State} : ∀ a0 a1 s2, Keeps s0 s2 → Keeps s0 (segOp a0 a1 s2) := by
  intro a0 a1 s2 h
  unfold segOp
  repeat' first
    | with_reducible first | assumption | apply nx_keeps | apply execSegClaim_keeps | apply execSegRelease_keeps | apply execSegUnclaim_keeps
    | dsimp only
    | split

theorem mtrOp_keeps {s0 : State} : ∀ a0 a1 s2, Keeps s0 s2 → Keeps s0 (mtrOp a0 a1 s2) := by
  intro a0 a1 s2 h
  unfold mtrOp
  repeat' first
    | with_reducible first | assumption | intro _ | apply nx_keeps | apply execMtrPreset_keeps | apply execMtrCkptNow_keeps | apply execMtrStop_keeps | apply execMtrResume_keeps | apply mtrCmd_keeps | apply mtrErr_keeps | apply keeps_foldl | apply keeps_upto | apply keeps_each
    | dsimp only
    | split

theorem ownWrite_keeps {s0 : State} : ∀ a0 a1 a2 s3, Keeps s0 s3 → KeepsOpt s0 (ownWrite a0 a1 a2 s3) := by
  intro a0 a1 a2 s3 h
  unfold ownWrite
  repeat' first
    | with_reducible first | assumption | apply keepsOpt_some | exact keepsOpt_none _ | apply nx_keeps | apply execSoftwareReset_keeps | apply trustOp_keeps | apply wdogKick_keeps | apply medOp_keeps | apply timeOwn_keeps | refine timeOwn_keeps' (by assumption) ?_ | apply macOwn_keeps | refine macOwn_keeps' (by assumption) ?_ | apply execCtxFlush_keeps | apply execBankLoad_keeps | apply execPcxLoad_keeps | apply execCoreExcClear_keeps | apply tskOp_keeps | apply ordOp_keeps | apply execObjReset_keeps | apply execCoPosWrite_keeps | apply fbcOwn_keeps | refine fbcOwn_keeps' (by assumption) ?_ | apply execDrcEnable_keeps | apply execDrcDisable_keeps | apply execManualTrigger_keeps | apply segOp_keeps | apply execAlmPostGo_keeps | apply execAlmSeek_keeps | apply setShadow_keeps | apply mtrOp_keeps | apply execMeterPointEnable_keeps | apply mpDisable_keeps | apply execMirEnable_keeps | apply execMirDisable_keeps | apply execHandover_keeps | apply execRbTest_keeps | apply execBistRerun_keeps | apply dumpOp_keeps
    | dsimp only
    | split

theorem ownWrite_keeps' {s0 t : State} {a0 a1 a2 s3} (e : ownWrite a0 a1 a2 s3 = some t) (h : Keeps s0 s3) : Keeps s0 t :=
  (ownWrite_keeps a0 a1 a2 s3 h) _ e

theorem regWrite_keeps {s0 : State} : ∀ a0 a1 a2 s3, Keeps s0 s3 → Keeps s0 (regWrite a0 a1 a2 s3) := by
  intro a0 a1 a2 s3 h
  unfold regWrite
  repeat' first
    | with_reducible first | assumption | apply headerWrite_keeps | refine ownWrite_keeps' (by assumption) ?_ | apply setEvt_keeps | apply classWrite_keeps
    | dsimp only
    | split

theorem execRegisterWrite_keeps {s0 : State} : ∀ a0 a1 a2 a3 s4, Keeps s0 s4 → KeepsEnd s0 (execRegisterWrite a0 a1 a2 a3 s4) := by
  intro a0 a1 a2 a3 s4 h
  unfold execRegisterWrite
  refine keepsEnd_next ?_
  repeat' first
    | with_reducible first | assumption | intro _ | apply memAccess_keeps | apply regShape_keeps | apply nx_keeps | apply execPcxLoad_keeps | apply regAccess_keeps | apply regWrite_keeps | apply keeps_foldl | apply keeps_upto | apply keeps_each
    | dsimp only
    | split

theorem ownRead_keeps {s0 : State} : ∀ a0 a1 s2, Keeps s0 s2 → KeepsOpt s0 (ownRead a0 a1 s2) := by
  intro a0 a1 s2 h
  unfold ownRead
  repeat' first
    | with_reducible first | assumption | apply keepsOpt_some | exact keepsOpt_none _ | apply nx_keeps | apply execHnqPop_keeps | apply execHnqPopTag_keeps | apply execTimeNowRead_keeps | apply execTxqPop0_keeps | apply execBiqPop0_keeps | apply setBus_keeps | apply setLane_keeps | apply execCmdResPop_keeps | apply execRqHead_keeps | apply execAccRead_keeps | apply execOpsecRead_keeps
    | dsimp only
    | split

theorem ownRead_keeps' {s0 t : State} {a0 a1 s2} (e : ownRead a0 a1 s2 = some t) (h : Keeps s0 s2) : Keeps s0 t :=
  (ownRead_keeps a0 a1 s2 h) _ e

theorem regRead_keeps {s0 : State} : ∀ a0 a1 s2, Keeps s0 s2 → Keeps s0 (regRead a0 a1 s2) := by
  intro a0 a1 s2 h
  unfold regRead
  repeat' first
    | with_reducible first | assumption | refine ownRead_keeps' (by assumption) ?_ | apply setLive_keeps | apply setBus_keeps
    | dsimp only
    | split

theorem execReadClear_keeps {s0 : State} : ∀ a0 a1 a2 s3, Keeps s0 s3 → KeepsEnd s0 (execReadClear a0 a1 a2 s3) := by
  intro a0 a1 a2 s3 h
  unfold execReadClear
  refine keepsEnd_next ?_
  repeat' first
    | with_reducible first | assumption | intro _ | apply memAccess_keeps | apply regShape_keeps | apply regAccess_keeps | apply regRead_keeps | apply keeps_foldl | apply keeps_upto | apply keeps_each
    | dsimp only
    | split

theorem execClockMonitorCheck_keeps {s0 : State} : ∀ a0 a1 s2, Keeps s0 s2 → KeepsEnd s0 (execClockMonitorCheck a0 a1 s2) := by
  intro a0 a1 s2 h
  unfold execClockMonitorCheck
  refine keepsEnd_next ?_
  repeat' first
    | with_reducible first | assumption | apply setEvt_keeps | apply deviceReset_keeps
    | dsimp only
    | split

theorem upsetBytes_keeps {s0 : State} : ∀ s9 a1, Keeps s0 s9 → Keeps s0 (upsetBytes s9 a1) := by
  intro s a h
  have g := draw_keeps _ (draw_keeps _ h)
  unfold upsetBytes
  exact ⟨fun w => storeBytes_wf _ _ _ (g.mem w), g.pending, g.now, g.svn, g.prov, g.decom⟩

theorem upsetAt_keeps {s0 : State} : ∀ s9 a1 a2, Keeps s0 s9 → Keeps s0 (upsetAt s9 a1 a2) := by
  intro s9 a1 a2 h
  unfold upsetAt
  repeat' first
    | with_reducible first | assumption | apply upsetBytes_keeps
    | dsimp only
    | split

theorem execMemoryAccess_keeps {s0 : State} : ∀ a0 a1 a2 a3 a4 a5 s6, Keeps s0 s6 → KeepsEnd s0 (execMemoryAccess a0 a1 a2 a3 a4 a5 s6) := by
  intro a0 a1 a2 a3 a4 a5 s6 h
  unfold execMemoryAccess
  refine keepsEnd_next ?_
  repeat' first
    | with_reducible first | assumption | apply memAccess_keeps | apply upsetAt_keeps
    | dsimp only
    | split

end Sys2Proof.Machine
end

