-- ==== Sys2Proof/Laws/KeepsRel.lean ====
section
/-! SUPPORT. What the functions of Machine/Rel.lean keep. -/

namespace Sys2Proof.Machine

theorem relProcess_keeps {s0 : State} : ∀ s9 a1, Keeps s0 s9 → Keeps s0 (relProcess s9 a1) := by
  intro s9 a1 h
  unfold relProcess
  repeat' first
    | with_reducible first | assumption | apply shortGroup_keeps | apply scaRelease_keeps | apply mtrRelease_keeps | apply atuRelease_keeps | apply releaseTasks_keeps
    | dsimp only
    | split

theorem relPop_keeps {s0 : State} : ∀ s9 a1, Keeps s0 s9 → Keeps s0 (relPop s9 a1) :=
  fun _ _ h => ⟨h.mem, h.pending, h.now, h.svn, h.prov, h.decom⟩

theorem relNext_keeps {s0 : State} : ∀ s9, Keeps s0 s9 → Keeps s0 (relNext s9) := by
  intro s9 h
  unfold relNext
  repeat' first
    | with_reducible first | assumption | apply scaCheck_keeps | apply relProcess_keeps | apply relPop_keeps
    | dsimp only
    | split

theorem execScaReleaseProcess_keeps {s0 : State} : ∀ s9, Keeps s0 s9 → KeepsEnd s0 (execScaReleaseProcess s9) := by
  intro s9 h
  unfold execScaReleaseProcess
  refine keepsEnd_next ?_
  repeat' first
    | with_reducible first | assumption | apply relNext_keeps
    | dsimp only
    | split

theorem execFreezeLimit_keeps {s0 : State} : ∀ a0 s1, Keeps s0 s1 → KeepsEnd s0 (execFreezeLimit a0 s1) := by
  intro a0 s1 h
  unfold execFreezeLimit
  refine keepsEnd_next ?_
  repeat' first
    | with_reducible first | assumption | apply frzLimitCheck_keeps | apply relNext_keeps
    | dsimp only
    | split

theorem execFreqHoldExpiry_keeps {s0 : State} : ∀ a0 s1, Keeps s0 s1 → KeepsEnd s0 (execFreqHoldExpiry a0 s1) := by
  intro a0 s1 h
  unfold execFreqHoldExpiry
  refine keepsEnd_next ?_
  repeat' first
    | with_reducible first | assumption | apply freqHoldCheck_keeps | apply relNext_keeps
    | dsimp only
    | split

theorem execSettleCountExpiry_keeps {s0 : State} : ∀ a0 s1, Keeps s0 s1 → KeepsEnd s0 (execSettleCountExpiry a0 s1) := by
  intro a0 s1 h
  unfold execSettleCountExpiry
  refine keepsEnd_next ?_
  repeat' first
    | with_reducible first | assumption | apply relNext_keeps
    | dsimp only
    | split

end Sys2Proof.Machine
end

