-- ==== Sys2Proof/Laws/KeepsSarbCtl.lean ====
section
/-! SUPPORT. What the functions of Machine/SarbCtl.lean keep. -/

namespace Sys2Proof.Machine

theorem readAll_keeps {s0 : State} : ∀ s9 a1 a2 f3, Keeps s0 s9 → (∀ t0, Keeps s0 t0 → KeepsOut s0 (f3 t0)) → KeepsOut s0 (readAll s9 a1 a2 f3) := by
  intro s k as ok h hok
  induction as generalizing s with
  | nil => unfold readAll; exact hok _ h
  | cons a t ih => unfold readAll; exact coreAccess_keeps _ _ _ _ _ _ h (fun s g => ih s g)

theorem pushFrame_keeps {s0 : State} : ∀ a0 a1 f2 s3, (∀ t0, Keeps s0 t0 → KeepsOut s0 (f2 t0)) → Keeps s0 s3 → KeepsOut s0 (pushFrame a0 a1 f2 s3) := by
  intro a0 a1 f2 s3 h0 h
  unfold pushFrame
  repeat' first
    | with_reducible first | assumption | intro _ | apply keepsOut_go | apply keepsOut_jump | apply keepsOut_exc | apply h0 | apply setCore_keeps | apply coreAccess_keeps | apply wr64_keeps | apply keeps_foldl | apply keeps_upto | apply keeps_each
    | (extract_lets +onlyGivenNames x; refine Keeps.cut (s0 := s0) (x := x) ?_ (fun _ => ?_); unfold x; clear x; rotate_left; clear_value x; revert x; intro y _; rotate_left)
    | (extract_lets +onlyGivenNames x; subst x)
    | dsimp -zeta only [id]
    | split

theorem depthPeak_keeps {s0 : State} : ∀ s9 a1, Keeps s0 s9 → Keeps s0 (depthPeak s9 a1) :=
  fun _ _ h => ⟨h.mem, h.pending, h.now, h.svn, h.prov, h.decom⟩

theorem callChild_keeps {s0 : State} : ∀ a0 a1 a2 s3, Keeps s0 s3 → KeepsOut s0 (callChild a0 a1 a2 s3) := by
  intro a0 a1 a2 s3 h
  unfold callChild
  repeat' first
    | with_reducible first | assumption | intro _ | apply keepsOut_go | apply keepsOut_jump | apply keepsOut_exc | apply readAll_keeps | apply coreAccess_keeps | apply pushFrame_keeps | apply depthPeak_keeps | apply modCore_keeps | apply keeps_foldl | apply keeps_upto | apply keeps_each
    | dsimp only
    | split

theorem clearCold_keeps {s0 : State} : ∀ s9 a1, Keeps s0 s9 → Keeps s0 (clearCold s9 a1) := by
  intro s9 a1 h
  unfold clearCold
  repeat' first
    | with_reducible first | assumption | apply coreStore_keeps
    | dsimp only
    | split

theorem coldAccess_keeps {s0 : State} : ∀ s9 a1 a2 f3, Keeps s0 s9 → (∀ t0, Keeps s0 t0 → KeepsOut s0 (f3 t0)) → KeepsOut s0 (coldAccess s9 a1 a2 f3) := by
  intro s9 a1 a2 f3 h h1
  unfold coldAccess
  repeat' first
    | with_reducible first | assumption | intro _ | apply keepsOut_go | apply keepsOut_jump | apply keepsOut_exc | apply h1 | apply coreAccess_keeps | apply keeps_foldl | apply keeps_upto | apply keeps_each
    | (extract_lets +onlyGivenNames x; refine Keeps.cut (s0 := s0) (x := x) ?_ (fun _ => ?_); unfold x; clear x; rotate_left; clear_value x; revert x; intro y _; rotate_left)
    | (extract_lets +onlyGivenNames x; subst x)
    | dsimp -zeta only [id]
    | split

theorem execUndefinedEncoding_keeps {s0 : State} : ∀ a0 a1 s2, Keeps s0 s2 → KeepsEnd s0 (execUndefinedEncoding a0 a1 s2) := by
  intro a0 a1 s2 h
  unfold execUndefinedEncoding
  refine keepsEnd_next ?_
  repeat' first
    | with_reducible first | assumption | intro _ | apply keepsOut_go | apply keepsOut_jump | apply keepsOut_exc | apply coreExec_keeps | apply keeps_foldl | apply keeps_upto | apply keeps_each
    | dsimp only
    | split

theorem execOpf_keeps {s0 : State} : ∀ a0 a1 a2 a3 a4 s5, Keeps s0 s5 → KeepsEnd s0 (execOpf a0 a1 a2 a3 a4 s5) := by
  intro a0 a1 a2 a3 a4 s5 h
  unfold execOpf
  refine keepsEnd_next ?_
  repeat' first
    | with_reducible first | assumption | intro _ | apply keepsOut_go | apply keepsOut_jump | apply keepsOut_exc | apply coreExec_keeps | apply flagWord_keeps | refine flagWord_keeps' (by assumption) ?_ | apply modCore_keeps | apply keeps_foldl | apply keeps_upto | apply keeps_each
    | dsimp only
    | split

theorem jumpTo_keeps {s0 : State} : ∀ a0 a1 s2, Keeps s0 s2 → KeepsOut s0 (jumpTo a0 a1 s2) := by
  intro a0 a1 s2 h
  unfold jumpTo
  repeat' first
    | with_reducible first | assumption | apply keepsOut_go | apply keepsOut_jump | apply keepsOut_exc | apply modCore_keeps
    | dsimp only
    | split

theorem execBr_keeps {s0 : State} : ∀ a0 a1 a2 a3 s4, Keeps s0 s4 → KeepsEnd s0 (execBr a0 a1 a2 a3 s4) := by
  intro a0 a1 a2 a3 s4 h
  unfold execBr
  refine keepsEnd_next ?_
  repeat' first
    | with_reducible first | assumption | intro _ | apply keepsOut_go | apply keepsOut_jump | apply keepsOut_exc | apply coreExec_keeps | apply jumpTo_keeps | apply keeps_foldl | apply keeps_upto | apply keeps_each
    | dsimp only
    | split

theorem execJr_keeps {s0 : State} : ∀ a0 a1 a2 s3, Keeps s0 s3 → KeepsEnd s0 (execJr a0 a1 a2 s3) := by
  intro a0 a1 a2 s3 h
  unfold execJr
  refine keepsEnd_next ?_
  repeat' first
    | with_reducible first | assumption | intro _ | apply keepsOut_go | apply keepsOut_jump | apply keepsOut_exc | apply coreExec_keeps | apply jumpTo_keeps | apply keeps_foldl | apply keeps_upto | apply keeps_each
    | dsimp only
    | split

theorem execFcall_keeps {s0 : State} : ∀ a0 a1 a2 a3 s4, Keeps s0 s4 → KeepsEnd s0 (execFcall a0 a1 a2 a3 s4) := by
  intro a0 a1 a2 a3 s4 h
  unfold execFcall
  refine keepsEnd_next ?_
  repeat' first
    | with_reducible first | assumption | intro _ | apply keepsOut_go | apply keepsOut_jump | apply keepsOut_exc | apply coreExec_keeps | apply callChild_keeps | apply keeps_foldl | apply keeps_upto | apply keeps_each
    | dsimp only
    | split

theorem refill_keeps {s0 : State} : ∀ s9 a1, Keeps s0 s9 → Keeps s0 (refill s9 a1) := by
  intro s9 a1 h
  unfold refill
  repeat' first
    | with_reducible first | assumption | apply setCore_keeps
    | dsimp only
    | split

theorem fret_keeps {s0 : State} : ∀ a0 s1, Keeps s0 s1 → KeepsOut s0 (fret a0 s1) := by
  intro a0 s1 h
  unfold fret
  repeat' first
    | with_reducible first | assumption | intro _ | apply keepsOut_go | apply keepsOut_jump | apply keepsOut_exc | apply coldAccess_keeps | apply retire_keeps | apply clearCold_keeps | apply readAll_keeps | apply refill_keeps | apply setCore_keeps | apply keeps_foldl | apply keeps_upto | apply keeps_each
    | (extract_lets +onlyGivenNames x; refine Keeps.cut (s0 := s0) (x := x) ?_ (fun _ => ?_); unfold x; clear x; rotate_left; clear_value x; revert x; intro y _; rotate_left)
    | (extract_lets +onlyGivenNames x; subst x)
    | dsimp -zeta only [id]
    | split

theorem execFret_keeps {s0 : State} : ∀ a0 a1 s2, Keeps s0 s2 → KeepsEnd s0 (execFret a0 a1 s2) := by
  intro a0 a1 s2 h
  unfold execFret
  refine keepsEnd_next ?_
  repeat' first
    | with_reducible first | assumption | intro _ | apply keepsOut_go | apply keepsOut_jump | apply keepsOut_exc | apply coreExec_keeps | apply fret_keeps | apply keeps_foldl | apply keeps_upto | apply keeps_each
    | dsimp only
    | split

theorem execRdsr_keeps {s0 : State} : ∀ a0 a1 a2 a3 s4, Keeps s0 s4 → KeepsEnd s0 (execRdsr a0 a1 a2 a3 s4) := by
  intro a0 a1 a2 a3 s4 h
  unfold execRdsr
  refine keepsEnd_next ?_
  repeat' first
    | with_reducible first | assumption | intro _ | apply keepsOut_go | apply keepsOut_jump | apply keepsOut_exc | apply coreExec_keeps | apply scalar_keeps | apply keeps_foldl | apply keeps_upto | apply keeps_each
    | dsimp only
    | split

theorem execWrsr_keeps {s0 : State} : ∀ a0 a1 a2 a3 s4, Keeps s0 s4 → KeepsEnd s0 (execWrsr a0 a1 a2 a3 s4) := by
  intro a0 a1 a2 a3 s4 h
  unfold execWrsr
  refine keepsEnd_next ?_
  repeat' first
    | with_reducible first | assumption | intro _ | apply keepsOut_go | apply keepsOut_jump | apply keepsOut_exc | apply coreExec_keeps | apply modCore_keeps | apply keeps_foldl | apply keeps_upto | apply keeps_each
    | dsimp only
    | split

theorem execTend_keeps {s0 : State} : ∀ a0 a1 s2, Keeps s0 s2 → KeepsEnd s0 (execTend a0 a1 s2) := by
  intro a0 a1 s2 h
  unfold execTend
  refine keepsEnd_next ?_
  repeat' first
    | with_reducible first | assumption | intro _ | apply keepsOut_go | apply keepsOut_jump | apply keepsOut_exc | apply coreExec_keeps | apply retire_keeps | apply keeps_foldl | apply keeps_upto | apply keeps_each
    | dsimp only
    | split

theorem execFence_keeps {s0 : State} : ∀ a0 a1 s2, Keeps s0 s2 → KeepsEnd s0 (execFence a0 a1 s2) := by
  intro a0 a1 s2 h
  unfold execFence
  refine keepsEnd_next ?_
  repeat' first
    | with_reducible first | assumption | intro _ | apply keepsOut_go | apply keepsOut_jump | apply keepsOut_exc | apply coreExec_keeps | apply keeps_foldl | apply keeps_upto | apply keeps_each
    | dsimp only
    | split

theorem execEvsig_keeps {s0 : State} : ∀ a0 a1 a2 s3, Keeps s0 s3 → KeepsEnd s0 (execEvsig a0 a1 a2 s3) := by
  intro a0 a1 a2 s3 h
  unfold execEvsig
  refine keepsEnd_next ?_
  repeat' first
    | with_reducible first | assumption | intro _ | apply keepsOut_go | apply keepsOut_jump | apply keepsOut_exc | apply coreExec_keeps | apply fireEvent_keeps | apply keeps_foldl | apply keeps_upto | apply keeps_each
    | dsimp only
    | split

theorem execNpost_keeps {s0 : State} : ∀ a0 a1 a2 a3 a4 s5, Keeps s0 s5 → KeepsEnd s0 (execNpost a0 a1 a2 a3 a4 s5) := by
  intro a0 a1 a2 a3 a4 s5 h
  unfold execNpost
  refine keepsEnd_next ?_
  repeat' first
    | with_reducible first | assumption | intro _ | apply keepsOut_go | apply keepsOut_jump | apply keepsOut_exc | apply coreExec_keeps | apply hnqPost_keeps | apply keeps_foldl | apply keeps_upto | apply keeps_each
    | dsimp only
    | split

end Sys2Proof.Machine
end

