-- ==== Sys2Proof/Laws/KeepsSarbInt.lean ====
section
/-! SUPPORT. What the functions of Machine/SarbInt.lean keep. -/

namespace Sys2Proof.Machine

theorem accRun_keeps {s0 : State} : ∀ a0 a1 a2 a3 a4 a5 a6 s7, Keeps s0 s7 → Keeps s0 (accRun a0 a1 a2 a3 a4 a5 a6 s7) := by
  intro a0 a1 a2 a3 a4 a5 a6 s7 h
  unfold accRun
  repeat' first
    | with_reducible first | assumption | intro _ | apply keepsOut_go | apply keepsOut_jump | apply keepsOut_exc | apply coreExec_keeps | apply scalar_keeps | apply keeps_foldl | apply keeps_upto | apply keeps_each
    | dsimp only
    | split

theorem aluRun_keeps {s0 : State} : ∀ a0 a1 a2 a3 a4 a5 a6 s7, Keeps s0 s7 → Keeps s0 (aluRun a0 a1 a2 a3 a4 a5 a6 s7) := by
  intro a0 a1 a2 a3 a4 a5 a6 s7 h
  unfold aluRun
  repeat' first
    | with_reducible first | assumption | intro _ | apply keepsOut_go | apply keepsOut_jump | apply keepsOut_exc | apply coreExec_keeps | apply scalar_keeps | apply keeps_foldl | apply keeps_upto | apply keeps_each
    | dsimp only
    | split

theorem aluRun1_keeps {s0 : State} : ∀ a0 a1 a2 a3 a4 a5 s6, Keeps s0 s6 → Keeps s0 (aluRun1 a0 a1 a2 a3 a4 a5 s6) := by
  intro a0 a1 a2 a3 a4 a5 s6 h
  unfold aluRun1
  repeat' first
    | with_reducible first | assumption | intro _ | apply keepsOut_go | apply keepsOut_jump | apply keepsOut_exc | apply coreExec_keeps | apply scalar_keeps | apply keeps_foldl | apply keeps_upto | apply keeps_each
    | dsimp only
    | split

theorem execAdd_keeps {s0 : State} : ∀ a0 a1 a2 a3 a4 s5, Keeps s0 s5 → KeepsEnd s0 (execAdd a0 a1 a2 a3 a4 s5) := by
  intro a0 a1 a2 a3 a4 s5 h
  unfold execAdd
  refine keepsEnd_next ?_
  repeat' first
    | with_reducible first | assumption | apply aluRun_keeps
    | dsimp only
    | split

theorem execSub_keeps {s0 : State} : ∀ a0 a1 a2 a3 a4 s5, Keeps s0 s5 → KeepsEnd s0 (execSub a0 a1 a2 a3 a4 s5) := by
  intro a0 a1 a2 a3 a4 s5 h
  unfold execSub
  refine keepsEnd_next ?_
  repeat' first
    | with_reducible first | assumption | apply aluRun_keeps
    | dsimp only
    | split

theorem execAnd_keeps {s0 : State} : ∀ a0 a1 a2 a3 a4 s5, Keeps s0 s5 → KeepsEnd s0 (execAnd a0 a1 a2 a3 a4 s5) := by
  intro a0 a1 a2 a3 a4 s5 h
  unfold execAnd
  refine keepsEnd_next ?_
  repeat' first
    | with_reducible first | assumption | apply aluRun_keeps
    | dsimp only
    | split

theorem execOr_keeps {s0 : State} : ∀ a0 a1 a2 a3 a4 s5, Keeps s0 s5 → KeepsEnd s0 (execOr a0 a1 a2 a3 a4 s5) := by
  intro a0 a1 a2 a3 a4 s5 h
  unfold execOr
  refine keepsEnd_next ?_
  repeat' first
    | with_reducible first | assumption | apply aluRun_keeps
    | dsimp only
    | split

theorem execXor_keeps {s0 : State} : ∀ a0 a1 a2 a3 a4 s5, Keeps s0 s5 → KeepsEnd s0 (execXor a0 a1 a2 a3 a4 s5) := by
  intro a0 a1 a2 a3 a4 s5 h
  unfold execXor
  refine keepsEnd_next ?_
  repeat' first
    | with_reducible first | assumption | apply aluRun_keeps
    | dsimp only
    | split

theorem execShl_keeps {s0 : State} : ∀ a0 a1 a2 a3 a4 s5, Keeps s0 s5 → KeepsEnd s0 (execShl a0 a1 a2 a3 a4 s5) := by
  intro a0 a1 a2 a3 a4 s5 h
  unfold execShl
  refine keepsEnd_next ?_
  repeat' first
    | with_reducible first | assumption | apply aluRun_keeps
    | dsimp only
    | split

theorem execShr_keeps {s0 : State} : ∀ a0 a1 a2 a3 a4 s5, Keeps s0 s5 → KeepsEnd s0 (execShr a0 a1 a2 a3 a4 s5) := by
  intro a0 a1 a2 a3 a4 s5 h
  unfold execShr
  refine keepsEnd_next ?_
  repeat' first
    | with_reducible first | assumption | apply aluRun_keeps
    | dsimp only
    | split

theorem execSra_keeps {s0 : State} : ∀ a0 a1 a2 a3 a4 s5, Keeps s0 s5 → KeepsEnd s0 (execSra a0 a1 a2 a3 a4 s5) := by
  intro a0 a1 a2 a3 a4 s5 h
  unfold execSra
  refine keepsEnd_next ?_
  repeat' first
    | with_reducible first | assumption | apply aluRun_keeps
    | dsimp only
    | split

theorem execMul_keeps {s0 : State} : ∀ a0 a1 a2 a3 a4 s5, Keeps s0 s5 → KeepsEnd s0 (execMul a0 a1 a2 a3 a4 s5) := by
  intro a0 a1 a2 a3 a4 s5 h
  unfold execMul
  refine keepsEnd_next ?_
  repeat' first
    | with_reducible first | assumption | apply aluRun_keeps
    | dsimp only
    | split

theorem execMulh_keeps {s0 : State} : ∀ a0 a1 a2 a3 a4 s5, Keeps s0 s5 → KeepsEnd s0 (execMulh a0 a1 a2 a3 a4 s5) := by
  intro a0 a1 a2 a3 a4 s5 h
  unfold execMulh
  refine keepsEnd_next ?_
  repeat' first
    | with_reducible first | assumption | apply aluRun_keeps
    | dsimp only
    | split

theorem execMulhu_keeps {s0 : State} : ∀ a0 a1 a2 a3 a4 s5, Keeps s0 s5 → KeepsEnd s0 (execMulhu a0 a1 a2 a3 a4 s5) := by
  intro a0 a1 a2 a3 a4 s5 h
  unfold execMulhu
  refine keepsEnd_next ?_
  repeat' first
    | with_reducible first | assumption | apply aluRun_keeps
    | dsimp only
    | split

theorem execAdds_keeps {s0 : State} : ∀ a0 a1 a2 a3 a4 s5, Keeps s0 s5 → KeepsEnd s0 (execAdds a0 a1 a2 a3 a4 s5) := by
  intro a0 a1 a2 a3 a4 s5 h
  unfold execAdds
  refine keepsEnd_next ?_
  repeat' first
    | with_reducible first | assumption | apply aluRun_keeps
    | dsimp only
    | split

theorem execSubs_keeps {s0 : State} : ∀ a0 a1 a2 a3 a4 s5, Keeps s0 s5 → KeepsEnd s0 (execSubs a0 a1 a2 a3 a4 s5) := by
  intro a0 a1 a2 a3 a4 s5 h
  unfold execSubs
  refine keepsEnd_next ?_
  repeat' first
    | with_reducible first | assumption | apply aluRun_keeps
    | dsimp only
    | split

theorem execMin_keeps {s0 : State} : ∀ a0 a1 a2 a3 a4 s5, Keeps s0 s5 → KeepsEnd s0 (execMin a0 a1 a2 a3 a4 s5) := by
  intro a0 a1 a2 a3 a4 s5 h
  unfold execMin
  refine keepsEnd_next ?_
  repeat' first
    | with_reducible first | assumption | apply aluRun_keeps
    | dsimp only
    | split

theorem execMax_keeps {s0 : State} : ∀ a0 a1 a2 a3 a4 s5, Keeps s0 s5 → KeepsEnd s0 (execMax a0 a1 a2 a3 a4 s5) := by
  intro a0 a1 a2 a3 a4 s5 h
  unfold execMax
  refine keepsEnd_next ?_
  repeat' first
    | with_reducible first | assumption | apply aluRun_keeps
    | dsimp only
    | split

theorem execMinu_keeps {s0 : State} : ∀ a0 a1 a2 a3 a4 s5, Keeps s0 s5 → KeepsEnd s0 (execMinu a0 a1 a2 a3 a4 s5) := by
  intro a0 a1 a2 a3 a4 s5 h
  unfold execMinu
  refine keepsEnd_next ?_
  repeat' first
    | with_reducible first | assumption | apply aluRun_keeps
    | dsimp only
    | split

theorem execMaxu_keeps {s0 : State} : ∀ a0 a1 a2 a3 a4 s5, Keeps s0 s5 → KeepsEnd s0 (execMaxu a0 a1 a2 a3 a4 s5) := by
  intro a0 a1 a2 a3 a4 s5 h
  unfold execMaxu
  refine keepsEnd_next ?_
  repeat' first
    | with_reducible first | assumption | apply aluRun_keeps
    | dsimp only
    | split

theorem execDiv_keeps {s0 : State} : ∀ a0 a1 a2 a3 a4 s5, Keeps s0 s5 → KeepsEnd s0 (execDiv a0 a1 a2 a3 a4 s5) := by
  intro a0 a1 a2 a3 a4 s5 h
  unfold execDiv
  refine keepsEnd_next ?_
  repeat' first
    | with_reducible first | assumption | apply aluRun_keeps
    | dsimp only
    | split

theorem execDivu_keeps {s0 : State} : ∀ a0 a1 a2 a3 a4 s5, Keeps s0 s5 → KeepsEnd s0 (execDivu a0 a1 a2 a3 a4 s5) := by
  intro a0 a1 a2 a3 a4 s5 h
  unfold execDivu
  refine keepsEnd_next ?_
  repeat' first
    | with_reducible first | assumption | apply aluRun_keeps
    | dsimp only
    | split

theorem execRem_keeps {s0 : State} : ∀ a0 a1 a2 a3 a4 s5, Keeps s0 s5 → KeepsEnd s0 (execRem a0 a1 a2 a3 a4 s5) := by
  intro a0 a1 a2 a3 a4 s5 h
  unfold execRem
  refine keepsEnd_next ?_
  repeat' first
    | with_reducible first | assumption | apply aluRun_keeps
    | dsimp only
    | split

theorem execRemu_keeps {s0 : State} : ∀ a0 a1 a2 a3 a4 s5, Keeps s0 s5 → KeepsEnd s0 (execRemu a0 a1 a2 a3 a4 s5) := by
  intro a0 a1 a2 a3 a4 s5 h
  unfold execRemu
  refine keepsEnd_next ?_
  repeat' first
    | with_reducible first | assumption | apply aluRun_keeps
    | dsimp only
    | split

theorem execAbs_keeps {s0 : State} : ∀ a0 a1 a2 a3 s4, Keeps s0 s4 → KeepsEnd s0 (execAbs a0 a1 a2 a3 s4) := by
  intro a0 a1 a2 a3 s4 h
  unfold execAbs
  refine keepsEnd_next ?_
  repeat' first
    | with_reducible first | assumption | apply aluRun1_keeps
    | dsimp only
    | split

theorem execClz_keeps {s0 : State} : ∀ a0 a1 a2 a3 s4, Keeps s0 s4 → KeepsEnd s0 (execClz a0 a1 a2 a3 s4) := by
  intro a0 a1 a2 a3 s4 h
  unfold execClz
  refine keepsEnd_next ?_
  repeat' first
    | with_reducible first | assumption | apply aluRun1_keeps
    | dsimp only
    | split

theorem execAddi_keeps {s0 : State} : ∀ a0 a1 a2 a3 a4 s5, Keeps s0 s5 → KeepsEnd s0 (execAddi a0 a1 a2 a3 a4 s5) := by
  intro a0 a1 a2 a3 a4 s5 h
  unfold execAddi
  refine keepsEnd_next ?_
  repeat' first
    | with_reducible first | assumption | apply aluRun1_keeps
    | dsimp only
    | split

theorem execAndi_keeps {s0 : State} : ∀ a0 a1 a2 a3 a4 s5, Keeps s0 s5 → KeepsEnd s0 (execAndi a0 a1 a2 a3 a4 s5) := by
  intro a0 a1 a2 a3 a4 s5 h
  unfold execAndi
  refine keepsEnd_next ?_
  repeat' first
    | with_reducible first | assumption | apply aluRun1_keeps
    | dsimp only
    | split

theorem execOri_keeps {s0 : State} : ∀ a0 a1 a2 a3 a4 s5, Keeps s0 s5 → KeepsEnd s0 (execOri a0 a1 a2 a3 a4 s5) := by
  intro a0 a1 a2 a3 a4 s5 h
  unfold execOri
  refine keepsEnd_next ?_
  repeat' first
    | with_reducible first | assumption | apply aluRun1_keeps
    | dsimp only
    | split

theorem execXori_keeps {s0 : State} : ∀ a0 a1 a2 a3 a4 s5, Keeps s0 s5 → KeepsEnd s0 (execXori a0 a1 a2 a3 a4 s5) := by
  intro a0 a1 a2 a3 a4 s5 h
  unfold execXori
  refine keepsEnd_next ?_
  repeat' first
    | with_reducible first | assumption | apply aluRun1_keeps
    | dsimp only
    | split

theorem execShiShl_keeps {s0 : State} : ∀ a0 a1 a2 a3 a4 s5, Keeps s0 s5 → KeepsEnd s0 (execShiShl a0 a1 a2 a3 a4 s5) := by
  intro a0 a1 a2 a3 a4 s5 h
  unfold execShiShl
  refine keepsEnd_next ?_
  repeat' first
    | with_reducible first | assumption | apply aluRun1_keeps
    | dsimp only
    | split

theorem execShiShr_keeps {s0 : State} : ∀ a0 a1 a2 a3 a4 s5, Keeps s0 s5 → KeepsEnd s0 (execShiShr a0 a1 a2 a3 a4 s5) := by
  intro a0 a1 a2 a3 a4 s5 h
  unfold execShiShr
  refine keepsEnd_next ?_
  repeat' first
    | with_reducible first | assumption | apply aluRun1_keeps
    | dsimp only
    | split

theorem execShiSra_keeps {s0 : State} : ∀ a0 a1 a2 a3 a4 s5, Keeps s0 s5 → KeepsEnd s0 (execShiSra a0 a1 a2 a3 a4 s5) := by
  intro a0 a1 a2 a3 a4 s5 h
  unfold execShiSra
  refine keepsEnd_next ?_
  repeat' first
    | with_reducible first | assumption | apply aluRun1_keeps
    | dsimp only
    | split

theorem pairOut_keeps {s0 : State} : ∀ a0 s1 a2 a3, Keeps s0 s1 → KeepsOut s0 (pairOut a0 s1 a2 a3) :=
  fun _ _ _ _ h => ⟨h.mem, h.pending, h.now, h.svn, h.prov, h.decom⟩

theorem pairRun_keeps {s0 : State} : ∀ a0 a1 a2 a3 a4 a5 a6 s7, Keeps s0 s7 → Keeps s0 (pairRun a0 a1 a2 a3 a4 a5 a6 s7) := by
  intro a0 a1 a2 a3 a4 a5 a6 s7 h
  unfold pairRun
  repeat' first
    | with_reducible first | assumption | intro _ | apply keepsOut_go | apply keepsOut_jump | apply keepsOut_exc | apply coreExec_keeps | apply pairOut_keeps | apply keeps_foldl | apply keeps_upto | apply keeps_each
    | dsimp only
    | split

theorem execAdd64_keeps {s0 : State} : ∀ a0 a1 a2 a3 a4 s5, Keeps s0 s5 → KeepsEnd s0 (execAdd64 a0 a1 a2 a3 a4 s5) := by
  intro a0 a1 a2 a3 a4 s5 h
  unfold execAdd64
  refine keepsEnd_next ?_
  repeat' first
    | with_reducible first | assumption | apply pairRun_keeps
    | dsimp only
    | split

theorem execSub64_keeps {s0 : State} : ∀ a0 a1 a2 a3 a4 s5, Keeps s0 s5 → KeepsEnd s0 (execSub64 a0 a1 a2 a3 a4 s5) := by
  intro a0 a1 a2 a3 a4 s5 h
  unfold execSub64
  refine keepsEnd_next ?_
  repeat' first
    | with_reducible first | assumption | apply pairRun_keeps
    | dsimp only
    | split

theorem wideRun_keeps {s0 : State} : ∀ a0 a1 a2 a3 a4 a5 a6 s7, Keeps s0 s7 → Keeps s0 (wideRun a0 a1 a2 a3 a4 a5 a6 s7) := by
  intro a0 a1 a2 a3 a4 a5 a6 s7 h
  unfold wideRun
  repeat' first
    | with_reducible first | assumption | intro _ | apply keepsOut_go | apply keepsOut_jump | apply keepsOut_exc | apply coreExec_keeps | apply pairOut_keeps | apply keeps_foldl | apply keeps_upto | apply keeps_each
    | dsimp only
    | split

theorem execMull_keeps {s0 : State} : ∀ a0 a1 a2 a3 a4 s5, Keeps s0 s5 → KeepsEnd s0 (execMull a0 a1 a2 a3 a4 s5) := by
  intro a0 a1 a2 a3 a4 s5 h
  unfold execMull
  refine keepsEnd_next ?_
  repeat' first
    | with_reducible first | assumption | apply wideRun_keeps
    | dsimp only
    | split

theorem execMullu_keeps {s0 : State} : ∀ a0 a1 a2 a3 a4 s5, Keeps s0 s5 → KeepsEnd s0 (execMullu a0 a1 a2 a3 a4 s5) := by
  intro a0 a1 a2 a3 a4 s5 h
  unfold execMullu
  refine keepsEnd_next ?_
  repeat' first
    | with_reducible first | assumption | apply wideRun_keeps
    | dsimp only
    | split

theorem execAdds64_keeps {s0 : State} : ∀ a0 a1 a2 a3 a4 s5, Keeps s0 s5 → KeepsEnd s0 (execAdds64 a0 a1 a2 a3 a4 s5) := by
  intro a0 a1 a2 a3 a4 s5 h
  unfold execAdds64
  refine keepsEnd_next ?_
  repeat' first
    | with_reducible first | assumption | apply pairRun_keeps
    | dsimp only
    | split

theorem execLi_keeps {s0 : State} : ∀ a0 a1 a2 a3 s4, Keeps s0 s4 → KeepsEnd s0 (execLi a0 a1 a2 a3 s4) := by
  intro a0 a1 a2 a3 s4 h
  unfold execLi
  refine keepsEnd_next ?_
  repeat' first
    | with_reducible first | assumption | intro _ | apply keepsOut_go | apply keepsOut_jump | apply keepsOut_exc | apply coreExec_keeps | apply scalar_keeps | apply keeps_foldl | apply keeps_upto | apply keeps_each
    | dsimp only
    | split

theorem execAddx_keeps {s0 : State} : ∀ a0 a1 a2 a3 a4 s5, Keeps s0 s5 → KeepsEnd s0 (execAddx a0 a1 a2 a3 a4 s5) := by
  intro a0 a1 a2 a3 a4 s5 h
  unfold execAddx
  refine keepsEnd_next ?_
  repeat' first
    | with_reducible first | assumption | intro _ | apply keepsOut_go | apply keepsOut_jump | apply keepsOut_exc | apply coreExec_keeps | apply scalar_keeps | apply keeps_foldl | apply keeps_upto | apply keeps_each
    | dsimp only
    | split

end Sys2Proof.Machine
end

