-- ==== Sys2Proof/Laws/KeepsSarbFp.lean ====
section
/-! SUPPORT. What the functions of Machine/SarbFp.lean keep. -/

namespace Sys2Proof.Machine

theorem predOut_keeps {s0 : State} : ∀ a0 a1 a2 s3 a4 a5, Keeps s0 s3 → KeepsOut s0 (predOut a0 a1 a2 s3 a4 a5) :=
  fun _ _ _ _ _ _ h => ⟨h.mem, h.pending, h.now, h.svn, h.prov, h.decom⟩

theorem cmpRun_keeps {s0 : State} : ∀ a0 a1 a2 a3 a4 a5 a6 s7, Keeps s0 s7 → Keeps s0 (cmpRun a0 a1 a2 a3 a4 a5 a6 s7) := by
  intro a0 a1 a2 a3 a4 a5 a6 s7 h
  unfold cmpRun
  repeat' first
    | with_reducible first | assumption | intro _ | apply keepsOut_go | apply keepsOut_jump | apply keepsOut_exc | apply coreExec_keeps | apply predOut_keeps | apply keeps_foldl | apply keeps_upto | apply keeps_each
    | dsimp only
    | split

theorem execFadd_keeps {s0 : State} : ∀ a0 a1 a2 a3 a4 s5, Keeps s0 s5 → KeepsEnd s0 (execFadd a0 a1 a2 a3 a4 s5) := by
  intro a0 a1 a2 a3 a4 s5 h
  unfold execFadd
  refine keepsEnd_next ?_
  repeat' first
    | with_reducible first | assumption | apply aluRun_keeps
    | dsimp only
    | split

theorem execFsub_keeps {s0 : State} : ∀ a0 a1 a2 a3 a4 s5, Keeps s0 s5 → KeepsEnd s0 (execFsub a0 a1 a2 a3 a4 s5) := by
  intro a0 a1 a2 a3 a4 s5 h
  unfold execFsub
  refine keepsEnd_next ?_
  repeat' first
    | with_reducible first | assumption | apply aluRun_keeps
    | dsimp only
    | split

theorem execFmul_keeps {s0 : State} : ∀ a0 a1 a2 a3 a4 s5, Keeps s0 s5 → KeepsEnd s0 (execFmul a0 a1 a2 a3 a4 s5) := by
  intro a0 a1 a2 a3 a4 s5 h
  unfold execFmul
  refine keepsEnd_next ?_
  repeat' first
    | with_reducible first | assumption | apply aluRun_keeps
    | dsimp only
    | split

theorem execFdiv_keeps {s0 : State} : ∀ a0 a1 a2 a3 a4 s5, Keeps s0 s5 → KeepsEnd s0 (execFdiv a0 a1 a2 a3 a4 s5) := by
  intro a0 a1 a2 a3 a4 s5 h
  unfold execFdiv
  refine keepsEnd_next ?_
  repeat' first
    | with_reducible first | assumption | apply aluRun_keeps
    | dsimp only
    | split

theorem execFsqrt_keeps {s0 : State} : ∀ a0 a1 a2 a3 s4, Keeps s0 s4 → KeepsEnd s0 (execFsqrt a0 a1 a2 a3 s4) := by
  intro a0 a1 a2 a3 s4 h
  unfold execFsqrt
  refine keepsEnd_next ?_
  repeat' first
    | with_reducible first | assumption | apply aluRun1_keeps
    | dsimp only
    | split

theorem execFmin_keeps {s0 : State} : ∀ a0 a1 a2 a3 a4 s5, Keeps s0 s5 → KeepsEnd s0 (execFmin a0 a1 a2 a3 a4 s5) := by
  intro a0 a1 a2 a3 a4 s5 h
  unfold execFmin
  refine keepsEnd_next ?_
  repeat' first
    | with_reducible first | assumption | apply aluRun_keeps
    | dsimp only
    | split

theorem execFmax_keeps {s0 : State} : ∀ a0 a1 a2 a3 a4 s5, Keeps s0 s5 → KeepsEnd s0 (execFmax a0 a1 a2 a3 a4 s5) := by
  intro a0 a1 a2 a3 a4 s5 h
  unfold execFmax
  refine keepsEnd_next ?_
  repeat' first
    | with_reducible first | assumption | apply aluRun_keeps
    | dsimp only
    | split

theorem execFabs_keeps {s0 : State} : ∀ a0 a1 a2 a3 s4, Keeps s0 s4 → KeepsEnd s0 (execFabs a0 a1 a2 a3 s4) := by
  intro a0 a1 a2 a3 s4 h
  unfold execFabs
  refine keepsEnd_next ?_
  repeat' first
    | with_reducible first | assumption | apply aluRun1_keeps
    | dsimp only
    | split

theorem execFneg_keeps {s0 : State} : ∀ a0 a1 a2 a3 s4, Keeps s0 s4 → KeepsEnd s0 (execFneg a0 a1 a2 a3 s4) := by
  intro a0 a1 a2 a3 s4 h
  unfold execFneg
  refine keepsEnd_next ?_
  repeat' first
    | with_reducible first | assumption | apply aluRun1_keeps
    | dsimp only
    | split

theorem execFmac_keeps {s0 : State} : ∀ a0 a1 a2 a3 a4 s5, Keeps s0 s5 → KeepsEnd s0 (execFmac a0 a1 a2 a3 a4 s5) := by
  intro a0 a1 a2 a3 a4 s5 h
  unfold execFmac
  refine keepsEnd_next ?_
  repeat' first
    | with_reducible first | assumption | apply accRun_keeps
    | dsimp only
    | split

theorem execFcvtsw_keeps {s0 : State} : ∀ a0 a1 a2 a3 s4, Keeps s0 s4 → KeepsEnd s0 (execFcvtsw a0 a1 a2 a3 s4) := by
  intro a0 a1 a2 a3 s4 h
  unfold execFcvtsw
  refine keepsEnd_next ?_
  repeat' first
    | with_reducible first | assumption | apply aluRun1_keeps
    | dsimp only
    | split

theorem execFcvtws_keeps {s0 : State} : ∀ a0 a1 a2 a3 s4, Keeps s0 s4 → KeepsEnd s0 (execFcvtws a0 a1 a2 a3 s4) := by
  intro a0 a1 a2 a3 s4 h
  unfold execFcvtws
  refine keepsEnd_next ?_
  repeat' first
    | with_reducible first | assumption | apply aluRun1_keeps
    | dsimp only
    | split

theorem execFcvtsq_keeps {s0 : State} : ∀ a0 a1 a2 a3 s4, Keeps s0 s4 → KeepsEnd s0 (execFcvtsq a0 a1 a2 a3 s4) := by
  intro a0 a1 a2 a3 s4 h
  unfold execFcvtsq
  refine keepsEnd_next ?_
  repeat' first
    | with_reducible first | assumption | apply aluRun1_keeps
    | dsimp only
    | split

theorem execFcvtqs_keeps {s0 : State} : ∀ a0 a1 a2 a3 s4, Keeps s0 s4 → KeepsEnd s0 (execFcvtqs a0 a1 a2 a3 s4) := by
  intro a0 a1 a2 a3 s4 h
  unfold execFcvtqs
  refine keepsEnd_next ?_
  repeat' first
    | with_reducible first | assumption | apply aluRun1_keeps
    | dsimp only
    | split

theorem execFatan2_keeps {s0 : State} : ∀ a0 a1 a2 a3 a4 s5, Keeps s0 s5 → KeepsEnd s0 (execFatan2 a0 a1 a2 a3 a4 s5) := by
  intro a0 a1 a2 a3 a4 s5 h
  unfold execFatan2
  refine keepsEnd_next ?_
  repeat' first
    | with_reducible first | assumption | apply aluRun_keeps
    | dsimp only
    | split

theorem execFhypot_keeps {s0 : State} : ∀ a0 a1 a2 a3 a4 s5, Keeps s0 s5 → KeepsEnd s0 (execFhypot a0 a1 a2 a3 a4 s5) := by
  intro a0 a1 a2 a3 a4 s5 h
  unfold execFhypot
  refine keepsEnd_next ?_
  repeat' first
    | with_reducible first | assumption | apply aluRun_keeps
    | dsimp only
    | split

theorem execQadd_keeps {s0 : State} : ∀ a0 a1 a2 a3 a4 s5, Keeps s0 s5 → KeepsEnd s0 (execQadd a0 a1 a2 a3 a4 s5) := by
  intro a0 a1 a2 a3 a4 s5 h
  unfold execQadd
  refine keepsEnd_next ?_
  repeat' first
    | with_reducible first | assumption | apply aluRun_keeps
    | dsimp only
    | split

theorem execQsub_keeps {s0 : State} : ∀ a0 a1 a2 a3 a4 s5, Keeps s0 s5 → KeepsEnd s0 (execQsub a0 a1 a2 a3 a4 s5) := by
  intro a0 a1 a2 a3 a4 s5 h
  unfold execQsub
  refine keepsEnd_next ?_
  repeat' first
    | with_reducible first | assumption | apply aluRun_keeps
    | dsimp only
    | split

theorem execQmul_keeps {s0 : State} : ∀ a0 a1 a2 a3 a4 s5, Keeps s0 s5 → KeepsEnd s0 (execQmul a0 a1 a2 a3 a4 s5) := by
  intro a0 a1 a2 a3 a4 s5 h
  unfold execQmul
  refine keepsEnd_next ?_
  repeat' first
    | with_reducible first | assumption | apply aluRun_keeps
    | dsimp only
    | split

theorem execQmac_keeps {s0 : State} : ∀ a0 a1 a2 a3 a4 s5, Keeps s0 s5 → KeepsEnd s0 (execQmac a0 a1 a2 a3 a4 s5) := by
  intro a0 a1 a2 a3 a4 s5 h
  unfold execQmac
  refine keepsEnd_next ?_
  repeat' first
    | with_reducible first | assumption | apply accRun_keeps
    | dsimp only
    | split

theorem execQabs_keeps {s0 : State} : ∀ a0 a1 a2 a3 s4, Keeps s0 s4 → KeepsEnd s0 (execQabs a0 a1 a2 a3 s4) := by
  intro a0 a1 a2 a3 s4 h
  unfold execQabs
  refine keepsEnd_next ?_
  repeat' first
    | with_reducible first | assumption | apply aluRun1_keeps
    | dsimp only
    | split

theorem execQneg_keeps {s0 : State} : ∀ a0 a1 a2 a3 s4, Keeps s0 s4 → KeepsEnd s0 (execQneg a0 a1 a2 a3 s4) := by
  intro a0 a1 a2 a3 s4 h
  unfold execQneg
  refine keepsEnd_next ?_
  repeat' first
    | with_reducible first | assumption | apply aluRun1_keeps
    | dsimp only
    | split

theorem execQshl_keeps {s0 : State} : ∀ a0 a1 a2 a3 a4 s5, Keeps s0 s5 → KeepsEnd s0 (execQshl a0 a1 a2 a3 a4 s5) := by
  intro a0 a1 a2 a3 a4 s5 h
  unfold execQshl
  refine keepsEnd_next ?_
  repeat' first
    | with_reducible first | assumption | apply aluRun_keeps
    | dsimp only
    | split

theorem execQshr_keeps {s0 : State} : ∀ a0 a1 a2 a3 a4 s5, Keeps s0 s5 → KeepsEnd s0 (execQshr a0 a1 a2 a3 a4 s5) := by
  intro a0 a1 a2 a3 a4 s5 h
  unfold execQshr
  refine keepsEnd_next ?_
  repeat' first
    | with_reducible first | assumption | apply aluRun_keeps
    | dsimp only
    | split

theorem execCeq_keeps {s0 : State} : ∀ a0 a1 a2 a3 a4 s5, Keeps s0 s5 → KeepsEnd s0 (execCeq a0 a1 a2 a3 a4 s5) := by
  intro a0 a1 a2 a3 a4 s5 h
  unfold execCeq
  refine keepsEnd_next ?_
  repeat' first
    | with_reducible first | assumption | apply cmpRun_keeps
    | dsimp only
    | split

theorem execCne_keeps {s0 : State} : ∀ a0 a1 a2 a3 a4 s5, Keeps s0 s5 → KeepsEnd s0 (execCne a0 a1 a2 a3 a4 s5) := by
  intro a0 a1 a2 a3 a4 s5 h
  unfold execCne
  refine keepsEnd_next ?_
  repeat' first
    | with_reducible first | assumption | apply cmpRun_keeps
    | dsimp only
    | split

theorem execClt_keeps {s0 : State} : ∀ a0 a1 a2 a3 a4 s5, Keeps s0 s5 → KeepsEnd s0 (execClt a0 a1 a2 a3 a4 s5) := by
  intro a0 a1 a2 a3 a4 s5 h
  unfold execClt
  refine keepsEnd_next ?_
  repeat' first
    | with_reducible first | assumption | apply cmpRun_keeps
    | dsimp only
    | split

theorem execCge_keeps {s0 : State} : ∀ a0 a1 a2 a3 a4 s5, Keeps s0 s5 → KeepsEnd s0 (execCge a0 a1 a2 a3 a4 s5) := by
  intro a0 a1 a2 a3 a4 s5 h
  unfold execCge
  refine keepsEnd_next ?_
  repeat' first
    | with_reducible first | assumption | apply cmpRun_keeps
    | dsimp only
    | split

theorem execCltu_keeps {s0 : State} : ∀ a0 a1 a2 a3 a4 s5, Keeps s0 s5 → KeepsEnd s0 (execCltu a0 a1 a2 a3 a4 s5) := by
  intro a0 a1 a2 a3 a4 s5 h
  unfold execCltu
  refine keepsEnd_next ?_
  repeat' first
    | with_reducible first | assumption | apply cmpRun_keeps
    | dsimp only
    | split

theorem execCgeu_keeps {s0 : State} : ∀ a0 a1 a2 a3 a4 s5, Keeps s0 s5 → KeepsEnd s0 (execCgeu a0 a1 a2 a3 a4 s5) := by
  intro a0 a1 a2 a3 a4 s5 h
  unfold execCgeu
  refine keepsEnd_next ?_
  repeat' first
    | with_reducible first | assumption | apply cmpRun_keeps
    | dsimp only
    | split

theorem execCtst_keeps {s0 : State} : ∀ a0 a1 a2 a3 a4 s5, Keeps s0 s5 → KeepsEnd s0 (execCtst a0 a1 a2 a3 a4 s5) := by
  intro a0 a1 a2 a3 a4 s5 h
  unfold execCtst
  refine keepsEnd_next ?_
  repeat' first
    | with_reducible first | assumption | apply cmpRun_keeps
    | dsimp only
    | split

theorem execCtstn_keeps {s0 : State} : ∀ a0 a1 a2 a3 a4 s5, Keeps s0 s5 → KeepsEnd s0 (execCtstn a0 a1 a2 a3 a4 s5) := by
  intro a0 a1 a2 a3 a4 s5 h
  unfold execCtstn
  refine keepsEnd_next ?_
  repeat' first
    | with_reducible first | assumption | apply cmpRun_keeps
    | dsimp only
    | split

theorem execFeq_keeps {s0 : State} : ∀ a0 a1 a2 a3 a4 s5, Keeps s0 s5 → KeepsEnd s0 (execFeq a0 a1 a2 a3 a4 s5) := by
  intro a0 a1 a2 a3 a4 s5 h
  unfold execFeq
  refine keepsEnd_next ?_
  repeat' first
    | with_reducible first | assumption | apply cmpRun_keeps
    | dsimp only
    | split

theorem execFlt_keeps {s0 : State} : ∀ a0 a1 a2 a3 a4 s5, Keeps s0 s5 → KeepsEnd s0 (execFlt a0 a1 a2 a3 a4 s5) := by
  intro a0 a1 a2 a3 a4 s5 h
  unfold execFlt
  refine keepsEnd_next ?_
  repeat' first
    | with_reducible first | assumption | apply cmpRun_keeps
    | dsimp only
    | split

theorem execFle_keeps {s0 : State} : ∀ a0 a1 a2 a3 a4 s5, Keeps s0 s5 → KeepsEnd s0 (execFle a0 a1 a2 a3 a4 s5) := by
  intro a0 a1 a2 a3 a4 s5 h
  unfold execFle
  refine keepsEnd_next ?_
  repeat' first
    | with_reducible first | assumption | apply cmpRun_keeps
    | dsimp only
    | split

theorem execFun_keeps {s0 : State} : ∀ a0 a1 a2 a3 a4 s5, Keeps s0 s5 → KeepsEnd s0 (execFun a0 a1 a2 a3 a4 s5) := by
  intro a0 a1 a2 a3 a4 s5 h
  unfold execFun
  refine keepsEnd_next ?_
  repeat' first
    | with_reducible first | assumption | apply cmpRun_keeps
    | dsimp only
    | split

theorem predRun_keeps {s0 : State} : ∀ a0 a1 a2 a3 a4 a5 a6 s7, Keeps s0 s7 → Keeps s0 (predRun a0 a1 a2 a3 a4 a5 a6 s7) := by
  intro a0 a1 a2 a3 a4 a5 a6 s7 h
  unfold predRun
  repeat' first
    | with_reducible first | assumption | intro _ | apply keepsOut_go | apply keepsOut_jump | apply keepsOut_exc | apply coreExec_keeps | apply predOut_keeps | apply keeps_foldl | apply keeps_upto | apply keeps_each
    | dsimp only
    | split

theorem execPand_keeps {s0 : State} : ∀ a0 a1 a2 a3 a4 s5, Keeps s0 s5 → KeepsEnd s0 (execPand a0 a1 a2 a3 a4 s5) := by
  intro a0 a1 a2 a3 a4 s5 h
  unfold execPand
  refine keepsEnd_next ?_
  repeat' first
    | with_reducible first | assumption | apply predRun_keeps
    | dsimp only
    | split

theorem execPor_keeps {s0 : State} : ∀ a0 a1 a2 a3 a4 s5, Keeps s0 s5 → KeepsEnd s0 (execPor a0 a1 a2 a3 a4 s5) := by
  intro a0 a1 a2 a3 a4 s5 h
  unfold execPor
  refine keepsEnd_next ?_
  repeat' first
    | with_reducible first | assumption | apply predRun_keeps
    | dsimp only
    | split

theorem execPxor_keeps {s0 : State} : ∀ a0 a1 a2 a3 a4 s5, Keeps s0 s5 → KeepsEnd s0 (execPxor a0 a1 a2 a3 a4 s5) := by
  intro a0 a1 a2 a3 a4 s5 h
  unfold execPxor
  refine keepsEnd_next ?_
  repeat' first
    | with_reducible first | assumption | apply predRun_keeps
    | dsimp only
    | split

theorem execPandn_keeps {s0 : State} : ∀ a0 a1 a2 a3 a4 s5, Keeps s0 s5 → KeepsEnd s0 (execPandn a0 a1 a2 a3 a4 s5) := by
  intro a0 a1 a2 a3 a4 s5 h
  unfold execPandn
  refine keepsEnd_next ?_
  repeat' first
    | with_reducible first | assumption | apply predRun_keeps
    | dsimp only
    | split

theorem execPnot_keeps {s0 : State} : ∀ a0 a1 a2 a3 s4, Keeps s0 s4 → KeepsEnd s0 (execPnot a0 a1 a2 a3 s4) := by
  intro a0 a1 a2 a3 s4 h
  unfold execPnot
  refine keepsEnd_next ?_
  repeat' first
    | with_reducible first | assumption | apply predRun_keeps
    | dsimp only
    | split

theorem execPtos_keeps {s0 : State} : ∀ a0 a1 a2 a3 s4, Keeps s0 s4 → KeepsEnd s0 (execPtos a0 a1 a2 a3 s4) := by
  intro a0 a1 a2 a3 s4 h
  unfold execPtos
  refine keepsEnd_next ?_
  repeat' first
    | with_reducible first | assumption | intro _ | apply keepsOut_go | apply keepsOut_jump | apply keepsOut_exc | apply coreExec_keeps | apply scalar_keeps | apply keeps_foldl | apply keeps_upto | apply keeps_each
    | dsimp only
    | split

theorem execStop_keeps {s0 : State} : ∀ a0 a1 a2 a3 s4, Keeps s0 s4 → KeepsEnd s0 (execStop a0 a1 a2 a3 s4) := by
  intro a0 a1 a2 a3 s4 h
  unfold execStop
  refine keepsEnd_next ?_
  repeat' first
    | with_reducible first | assumption | intro _ | apply keepsOut_go | apply keepsOut_jump | apply keepsOut_exc | apply coreExec_keeps | apply predOut_keeps | apply keeps_foldl | apply keeps_upto | apply keeps_each
    | dsimp only
    | split

theorem execPset_keeps {s0 : State} : ∀ a0 a1 a2 a3 s4, Keeps s0 s4 → KeepsEnd s0 (execPset a0 a1 a2 a3 s4) := by
  intro a0 a1 a2 a3 s4 h
  unfold execPset
  refine keepsEnd_next ?_
  repeat' first
    | with_reducible first | assumption | intro _ | apply keepsOut_go | apply keepsOut_jump | apply keepsOut_exc | apply coreExec_keeps | apply predOut_keeps | apply keeps_foldl | apply keeps_upto | apply keeps_each
    | dsimp only
    | split

end Sys2Proof.Machine
end

