-- ==== Sys2Proof/Laws/KeepsSarbMem.lean ====
section
/-! SUPPORT. What the functions of Machine/SarbMem.lean keep. -/

namespace Sys2Proof.Machine

theorem recordAccess_keeps {s0 : State} : ∀ s9 a1 a2 a3 f4, Keeps s0 s9 → (∀ t0, Keeps s0 t0 → KeepsOut s0 (f4 t0)) → KeepsOut s0 (recordAccess s9 a1 a2 a3 f4) := by
  intro s9 a1 a2 a3 f4 h h1
  unfold recordAccess
  repeat' first
    | with_reducible first | assumption | intro _ | apply keepsOut_go | apply keepsOut_jump | apply keepsOut_exc | apply h1 | apply coreAccess_keeps | apply keeps_foldl | apply keeps_upto | apply keeps_each
    | dsimp only
    | split

theorem edgeRun_keeps {s0 : State} : ∀ a0 a1 a2 a3 a4 a5 a6 s7, Keeps s0 s7 → Keeps s0 (edgeRun a0 a1 a2 a3 a4 a5 a6 s7) := by
  intro a0 a1 a2 a3 a4 a5 a6 s7 h
  unfold edgeRun
  repeat' first
    | with_reducible first | assumption | intro _ | apply keepsOut_go | apply keepsOut_jump | apply keepsOut_exc | apply coreExec_keeps | apply recordAccess_keeps | apply scalar_keeps | apply coreStore_keeps | apply keeps_foldl | apply keeps_upto | apply keeps_each
    | dsimp only
    | split

theorem loadOut_keeps {s0 : State} : ∀ a0 a1 a2 a3 a4 s5, Keeps s0 s5 → KeepsOut s0 (loadOut a0 a1 a2 a3 a4 s5) := by
  intro a0 a1 a2 a3 a4 s5 h
  unfold loadOut
  repeat' first
    | with_reducible first | assumption | intro _ | apply keepsOut_go | apply keepsOut_jump | apply keepsOut_exc | apply coreAccess_keeps | apply scalar_keeps | apply keeps_foldl | apply keeps_upto | apply keeps_each
    | dsimp only
    | split

theorem loadRun_keeps {s0 : State} : ∀ a0 a1 a2 a3 a4 a5 a6 a7 s8, Keeps s0 s8 → Keeps s0 (loadRun a0 a1 a2 a3 a4 a5 a6 a7 s8) := by
  intro a0 a1 a2 a3 a4 a5 a6 a7 s8 h
  unfold loadRun
  repeat' first
    | with_reducible first | assumption | intro _ | apply keepsOut_go | apply keepsOut_jump | apply keepsOut_exc | apply coreExec_keeps | apply loadOut_keeps | apply keeps_foldl | apply keeps_upto | apply keeps_each
    | dsimp only
    | split

theorem execLdw_keeps {s0 : State} : ∀ a0 a1 a2 a3 a4 s5, Keeps s0 s5 → KeepsEnd s0 (execLdw a0 a1 a2 a3 a4 s5) := by
  intro a0 a1 a2 a3 a4 s5 h
  unfold execLdw
  refine keepsEnd_next ?_
  repeat' first
    | with_reducible first | assumption | apply loadRun_keeps
    | dsimp only
    | split

theorem execLdh_keeps {s0 : State} : ∀ a0 a1 a2 a3 a4 s5, Keeps s0 s5 → KeepsEnd s0 (execLdh a0 a1 a2 a3 a4 s5) := by
  intro a0 a1 a2 a3 a4 s5 h
  unfold execLdh
  refine keepsEnd_next ?_
  repeat' first
    | with_reducible first | assumption | apply loadRun_keeps
    | dsimp only
    | split

theorem execLdhu_keeps {s0 : State} : ∀ a0 a1 a2 a3 a4 s5, Keeps s0 s5 → KeepsEnd s0 (execLdhu a0 a1 a2 a3 a4 s5) := by
  intro a0 a1 a2 a3 a4 s5 h
  unfold execLdhu
  refine keepsEnd_next ?_
  repeat' first
    | with_reducible first | assumption | apply loadRun_keeps
    | dsimp only
    | split

theorem execLdb_keeps {s0 : State} : ∀ a0 a1 a2 a3 a4 s5, Keeps s0 s5 → KeepsEnd s0 (execLdb a0 a1 a2 a3 a4 s5) := by
  intro a0 a1 a2 a3 a4 s5 h
  unfold execLdb
  refine keepsEnd_next ?_
  repeat' first
    | with_reducible first | assumption | apply loadRun_keeps
    | dsimp only
    | split

theorem execLdbu_keeps {s0 : State} : ∀ a0 a1 a2 a3 a4 s5, Keeps s0 s5 → KeepsEnd s0 (execLdbu a0 a1 a2 a3 a4 s5) := by
  intro a0 a1 a2 a3 a4 s5 h
  unfold execLdbu
  refine keepsEnd_next ?_
  repeat' first
    | with_reducible first | assumption | apply loadRun_keeps
    | dsimp only
    | split

theorem execLdd_keeps {s0 : State} : ∀ a0 a1 a2 a3 a4 s5, Keeps s0 s5 → KeepsEnd s0 (execLdd a0 a1 a2 a3 a4 s5) := by
  intro a0 a1 a2 a3 a4 s5 h
  unfold execLdd
  refine keepsEnd_next ?_
  repeat' first
    | with_reducible first | assumption | intro _ | apply keepsOut_go | apply keepsOut_jump | apply keepsOut_exc | apply coreExec_keeps | apply coreAccess_keeps | apply modCore_keeps | apply keeps_foldl | apply keeps_upto | apply keeps_each
    | dsimp only
    | split

theorem storeOut_keeps {s0 : State} : ∀ a0 a1 a2 a3 s4, Keeps s0 s4 → KeepsOut s0 (storeOut a0 a1 a2 a3 s4) := by
  intro a0 a1 a2 a3 s4 h
  unfold storeOut
  repeat' first
    | with_reducible first | assumption | intro _ | apply keepsOut_go | apply keepsOut_jump | apply keepsOut_exc | apply coreAccess_keeps | apply coreStore_keeps | apply keeps_foldl | apply keeps_upto | apply keeps_each
    | dsimp only
    | split

theorem storeRun_keeps {s0 : State} : ∀ a0 a1 a2 a3 a4 a5 a6 s7, Keeps s0 s7 → Keeps s0 (storeRun a0 a1 a2 a3 a4 a5 a6 s7) := by
  intro a0 a1 a2 a3 a4 a5 a6 s7 h
  unfold storeRun
  repeat' first
    | with_reducible first | assumption | intro _ | apply keepsOut_go | apply keepsOut_jump | apply keepsOut_exc | apply coreExec_keeps | apply storeOut_keeps | apply keeps_foldl | apply keeps_upto | apply keeps_each
    | dsimp only
    | split

theorem execStw_keeps {s0 : State} : ∀ a0 a1 a2 a3 a4 s5, Keeps s0 s5 → KeepsEnd s0 (execStw a0 a1 a2 a3 a4 s5) := by
  intro a0 a1 a2 a3 a4 s5 h
  unfold execStw
  refine keepsEnd_next ?_
  repeat' first
    | with_reducible first | assumption | apply storeRun_keeps
    | dsimp only
    | split

theorem execSth_keeps {s0 : State} : ∀ a0 a1 a2 a3 a4 s5, Keeps s0 s5 → KeepsEnd s0 (execSth a0 a1 a2 a3 a4 s5) := by
  intro a0 a1 a2 a3 a4 s5 h
  unfold execSth
  refine keepsEnd_next ?_
  repeat' first
    | with_reducible first | assumption | apply storeRun_keeps
    | dsimp only
    | split

theorem execStb_keeps {s0 : State} : ∀ a0 a1 a2 a3 a4 s5, Keeps s0 s5 → KeepsEnd s0 (execStb a0 a1 a2 a3 a4 s5) := by
  intro a0 a1 a2 a3 a4 s5 h
  unfold execStb
  refine keepsEnd_next ?_
  repeat' first
    | with_reducible first | assumption | apply storeRun_keeps
    | dsimp only
    | split

theorem execStd_keeps {s0 : State} : ∀ a0 a1 a2 a3 a4 s5, Keeps s0 s5 → KeepsEnd s0 (execStd a0 a1 a2 a3 a4 s5) := by
  intro a0 a1 a2 a3 a4 s5 h
  unfold execStd
  refine keepsEnd_next ?_
  repeat' first
    | with_reducible first | assumption | intro _ | apply keepsOut_go | apply keepsOut_jump | apply keepsOut_exc | apply coreExec_keeps | apply storeOut_keeps | apply keeps_foldl | apply keeps_upto | apply keeps_each
    | dsimp only
    | split

theorem ldgOut_keeps {s0 : State} : ∀ a0 a1 a2 s3, Keeps s0 s3 → KeepsOut s0 (ldgOut a0 a1 a2 s3) := by
  intro a0 a1 a2 s3 h
  unfold ldgOut
  repeat' first
    | with_reducible first | assumption | intro _ | apply keepsOut_go | apply keepsOut_jump | apply keepsOut_exc | apply coreAccess_keeps | apply scalar_keeps | apply keeps_foldl | apply keeps_upto | apply keeps_each
    | dsimp only
    | split

theorem execLdg_keeps {s0 : State} : ∀ a0 a1 a2 a3 a4 s5, Keeps s0 s5 → KeepsEnd s0 (execLdg a0 a1 a2 a3 a4 s5) := by
  intro a0 a1 a2 a3 a4 s5 h
  unfold execLdg
  refine keepsEnd_next ?_
  repeat' first
    | with_reducible first | assumption | intro _ | apply keepsOut_go | apply keepsOut_jump | apply keepsOut_exc | apply coreExec_keeps | apply ldgOut_keeps | apply keeps_foldl | apply keeps_upto | apply keeps_each
    | dsimp only
    | split

theorem stgOut_keeps {s0 : State} : ∀ a0 a1 a2 s3, Keeps s0 s3 → KeepsOut s0 (stgOut a0 a1 a2 s3) := by
  intro a0 a1 a2 s3 h
  unfold stgOut
  repeat' first
    | with_reducible first | assumption | apply keepsOut_go | apply keepsOut_jump | apply keepsOut_exc | apply storeOut_keeps
    | dsimp only
    | split

theorem execStg_keeps {s0 : State} : ∀ a0 a1 a2 a3 a4 s5, Keeps s0 s5 → KeepsEnd s0 (execStg a0 a1 a2 a3 a4 s5) := by
  intro a0 a1 a2 a3 a4 s5 h
  unfold execStg
  refine keepsEnd_next ?_
  repeat' first
    | with_reducible first | assumption | intro _ | apply keepsOut_go | apply keepsOut_jump | apply keepsOut_exc | apply coreExec_keeps | apply stgOut_keeps | apply keeps_foldl | apply keeps_upto | apply keeps_each
    | dsimp only
    | split

theorem execLdwi_keeps {s0 : State} : ∀ a0 a1 a2 a3 a4 s5, Keeps s0 s5 → KeepsEnd s0 (execLdwi a0 a1 a2 a3 a4 s5) := by
  intro a0 a1 a2 a3 a4 s5 h
  unfold execLdwi
  refine keepsEnd_next ?_
  repeat' first
    | with_reducible first | assumption | intro _ | apply keepsOut_go | apply keepsOut_jump | apply keepsOut_exc | apply coreExec_keeps | apply loadOut_keeps | apply keeps_foldl | apply keeps_upto | apply keeps_each
    | dsimp only
    | split

theorem execStwi_keeps {s0 : State} : ∀ a0 a1 a2 a3 a4 s5, Keeps s0 s5 → KeepsEnd s0 (execStwi a0 a1 a2 a3 a4 s5) := by
  intro a0 a1 a2 a3 a4 s5 h
  unfold execStwi
  refine keepsEnd_next ?_
  repeat' first
    | with_reducible first | assumption | intro _ | apply keepsOut_go | apply keepsOut_jump | apply keepsOut_exc | apply coreExec_keeps | apply storeOut_keeps | apply keeps_foldl | apply keeps_upto | apply keeps_each
    | dsimp only
    | split

theorem execLdgi_keeps {s0 : State} : ∀ a0 a1 a2 a3 a4 s5, Keeps s0 s5 → KeepsEnd s0 (execLdgi a0 a1 a2 a3 a4 s5) := by
  intro a0 a1 a2 a3 a4 s5 h
  unfold execLdgi
  refine keepsEnd_next ?_
  repeat' first
    | with_reducible first | assumption | intro _ | apply keepsOut_go | apply keepsOut_jump | apply keepsOut_exc | apply coreExec_keeps | apply ldgOut_keeps | apply keeps_foldl | apply keeps_upto | apply keeps_each
    | dsimp only
    | split

theorem execStgi_keeps {s0 : State} : ∀ a0 a1 a2 a3 a4 s5, Keeps s0 s5 → KeepsEnd s0 (execStgi a0 a1 a2 a3 a4 s5) := by
  intro a0 a1 a2 a3 a4 s5 h
  unfold execStgi
  refine keepsEnd_next ?_
  repeat' first
    | with_reducible first | assumption | intro _ | apply keepsOut_go | apply keepsOut_jump | apply keepsOut_exc | apply coreExec_keeps | apply stgOut_keeps | apply keeps_foldl | apply keeps_upto | apply keeps_each
    | dsimp only
    | split

theorem execVld_keeps {s0 : State} : ∀ a0 a1 a2 a3 a4 s5, Keeps s0 s5 → KeepsEnd s0 (execVld a0 a1 a2 a3 a4 s5) := by
  intro a0 a1 a2 a3 a4 s5 h
  unfold execVld
  refine keepsEnd_next ?_
  repeat' first
    | with_reducible first | assumption | intro _ | apply keepsOut_go | apply keepsOut_jump | apply keepsOut_exc | apply coreExec_keeps | apply coreAccess_keeps | apply setCore_keeps | apply keeps_foldl | apply keeps_upto | apply keeps_each
    | dsimp only
    | split

theorem vstBytes_keeps {s0 : State} : ∀ s9 a1 a2 a3 a4, Keeps s0 s9 → Keeps s0 (vstBytes s9 a1 a2 a3 a4) := by
  intro s9 a1 a2 a3 a4 h
  unfold vstBytes
  repeat' first
    | with_reducible first | assumption | intro _ | apply coreStore_keeps | apply keeps_foldl | apply keeps_upto | apply keeps_each
    | dsimp only
    | split

theorem execVst_keeps {s0 : State} : ∀ a0 a1 a2 a3 a4 s5, Keeps s0 s5 → KeepsEnd s0 (execVst a0 a1 a2 a3 a4 s5) := by
  intro a0 a1 a2 a3 a4 s5 h
  unfold execVst
  refine keepsEnd_next ?_
  repeat' first
    | with_reducible first | assumption | intro _ | apply keepsOut_go | apply keepsOut_jump | apply keepsOut_exc | apply coreExec_keeps | apply coreAccess_keeps | apply vstBytes_keeps | apply keeps_foldl | apply keeps_upto | apply keeps_each
    | dsimp only
    | split

theorem pairWords_keeps {s0 : State} : ∀ a0 s1 a2 a3 a4, Keeps s0 s1 → KeepsOut s0 (pairWords a0 s1 a2 a3 a4) :=
  fun _ _ _ _ _ h => ⟨h.mem, h.pending, h.now, h.svn, h.prov, h.decom⟩

theorem smpLoad_keeps {s0 : State} : ∀ a0 a1 a2 a3 a4 s5, Keeps s0 s5 → KeepsOut s0 (smpLoad a0 a1 a2 a3 a4 s5) := by
  intro a0 a1 a2 a3 a4 s5 h
  unfold smpLoad
  repeat' first
    | with_reducible first | assumption | intro _ | apply keepsOut_go | apply keepsOut_jump | apply keepsOut_exc | apply coreAccess_keeps | apply pairWords_keeps | apply keeps_foldl | apply keeps_upto | apply keeps_each
    | dsimp only
    | split

theorem execLdsmp_keeps {s0 : State} : ∀ a0 a1 a2 a3 a4 s5, Keeps s0 s5 → KeepsEnd s0 (execLdsmp a0 a1 a2 a3 a4 s5) := by
  intro a0 a1 a2 a3 a4 s5 h
  unfold execLdsmp
  refine keepsEnd_next ?_
  repeat' first
    | with_reducible first | assumption | intro _ | apply keepsOut_go | apply keepsOut_jump | apply keepsOut_exc | apply coreExec_keeps | apply pairWords_keeps | apply smpLoad_keeps | apply keeps_foldl | apply keeps_upto | apply keeps_each
    | dsimp only
    | split

theorem execLdsmpa_keeps {s0 : State} : ∀ a0 a1 a2 a3 a4 s5, Keeps s0 s5 → KeepsEnd s0 (execLdsmpa a0 a1 a2 a3 a4 s5) := by
  intro a0 a1 a2 a3 a4 s5 h
  unfold execLdsmpa
  refine keepsEnd_next ?_
  repeat' first
    | with_reducible first | assumption | intro _ | apply keepsOut_go | apply keepsOut_jump | apply keepsOut_exc | apply coreExec_keeps | apply smpLoad_keeps | apply keeps_foldl | apply keeps_upto | apply keeps_each
    | dsimp only
    | split

theorem vldsmpLanes_keeps {s0 : State} : ∀ a0 a1 a2 a3 a4 a5 a6 a7 s8, Keeps s0 s8 → KeepsOut s0 (vldsmpLanes a0 a1 a2 a3 a4 a5 a6 a7 s8) := by
  intro k d c m slot t l
  induction l with
  | nil => intro c' s h; exact setCore_keeps _ _ _ h
  | cons i l ih =>
    intro c' s h
    unfold vldsmpLanes
    split
    · exact coreAccess_keeps _ _ _ _ _ _ h fun s h => ih _ _ h
    · exact ih _ _ h

theorem execVldsmp_keeps {s0 : State} : ∀ a0 a1 a2 a3 a4 s5, Keeps s0 s5 → KeepsEnd s0 (execVldsmp a0 a1 a2 a3 a4 s5) := by
  intro a0 a1 a2 a3 a4 s5 h
  unfold execVldsmp
  refine keepsEnd_next ?_
  repeat' first
    | with_reducible first | assumption | intro _ | apply keepsOut_go | apply keepsOut_jump | apply keepsOut_exc | apply coreExec_keeps | apply setCore_keeps | apply vldsmpLanes_keeps | apply keeps_foldl | apply keeps_upto | apply keeps_each
    | dsimp only
    | split

theorem recOut_keeps {s0 : State} : ∀ a0 a1 a2 a3 a4 a5 a6 s7, Keeps s0 s7 → KeepsOut s0 (recOut a0 a1 a2 a3 a4 a5 a6 s7) :=
  fun _ _ _ _ _ _ _ _ h => ⟨h.mem, h.pending, h.now, h.svn, h.prov, h.decom⟩

theorem recLoad_keeps {s0 : State} : ∀ a0 a1 a2 a3 a4 a5 a6 a7 a8 a9 s10, Keeps s0 s10 → KeepsOut s0 (recLoad a0 a1 a2 a3 a4 a5 a6 a7 a8 a9 s10) := by
  intro a0 a1 a2 a3 a4 a5 a6 a7 a8 a9 s10 h
  unfold recLoad
  repeat' first
    | with_reducible first | assumption | intro _ | apply keepsOut_go | apply keepsOut_jump | apply keepsOut_exc | apply recOut_keeps | apply coreAccess_keeps | apply keeps_foldl | apply keeps_upto | apply keeps_each
    | dsimp only
    | split

theorem execLdph_keeps {s0 : State} : ∀ a0 a1 a2 a3 a4 a5 s6, Keeps s0 s6 → KeepsEnd s0 (execLdph a0 a1 a2 a3 a4 a5 s6) := by
  intro a0 a1 a2 a3 a4 a5 s6 h
  unfold execLdph
  refine keepsEnd_next ?_
  repeat' first
    | with_reducible first | assumption | intro _ | apply keepsOut_go | apply keepsOut_jump | apply keepsOut_exc | apply coreExec_keeps | apply recLoad_keeps | apply keeps_foldl | apply keeps_upto | apply keeps_each
    | dsimp only
    | split

theorem execLdpha_keeps {s0 : State} : ∀ a0 a1 a2 a3 a4 a5 s6, Keeps s0 s6 → KeepsEnd s0 (execLdpha a0 a1 a2 a3 a4 a5 s6) := by
  intro a0 a1 a2 a3 a4 a5 s6 h
  unfold execLdpha
  refine keepsEnd_next ?_
  repeat' first
    | with_reducible first | assumption | intro _ | apply keepsOut_go | apply keepsOut_jump | apply keepsOut_exc | apply coreExec_keeps | apply recLoad_keeps | apply keeps_foldl | apply keeps_upto | apply keeps_each
    | dsimp only
    | split

theorem execLdgr_keeps {s0 : State} : ∀ a0 a1 a2 a3 a4 a5 s6, Keeps s0 s6 → KeepsEnd s0 (execLdgr a0 a1 a2 a3 a4 a5 s6) := by
  intro a0 a1 a2 a3 a4 a5 s6 h
  unfold execLdgr
  refine keepsEnd_next ?_
  repeat' first
    | with_reducible first | assumption | intro _ | apply keepsOut_go | apply keepsOut_jump | apply keepsOut_exc | apply coreExec_keeps | apply recLoad_keeps | apply keeps_foldl | apply keeps_upto | apply keeps_each
    | dsimp only
    | split

theorem execLdgra_keeps {s0 : State} : ∀ a0 a1 a2 a3 a4 a5 s6, Keeps s0 s6 → KeepsEnd s0 (execLdgra a0 a1 a2 a3 a4 a5 s6) := by
  intro a0 a1 a2 a3 a4 a5 s6 h
  unfold execLdgra
  refine keepsEnd_next ?_
  repeat' first
    | with_reducible first | assumption | intro _ | apply keepsOut_go | apply keepsOut_jump | apply keepsOut_exc | apply coreExec_keeps | apply recLoad_keeps | apply keeps_foldl | apply keeps_upto | apply keeps_each
    | dsimp only
    | split

theorem tmrRun_keeps {s0 : State} : ∀ a0 a1 a2 a3 a4 a5 a6 a7 s8, Keeps s0 s8 → Keeps s0 (tmrRun a0 a1 a2 a3 a4 a5 a6 a7 s8) := by
  intro a0 a1 a2 a3 a4 a5 a6 a7 s8 h
  unfold tmrRun
  repeat' first
    | with_reducible first | assumption | intro _ | apply keepsOut_go | apply keepsOut_jump | apply keepsOut_exc | apply coreExec_keeps | apply recordAccess_keeps | apply scalar_keeps | apply coreStore_keeps | apply keeps_foldl | apply keeps_upto | apply keeps_each
    | dsimp only
    | split

theorem execTmrTon_keeps {s0 : State} : ∀ a0 a1 a2 a3 a4 a5 s6, Keeps s0 s6 → KeepsEnd s0 (execTmrTon a0 a1 a2 a3 a4 a5 s6) := by
  intro a0 a1 a2 a3 a4 a5 s6 h
  unfold execTmrTon
  refine keepsEnd_next ?_
  repeat' first
    | with_reducible first | assumption | apply tmrRun_keeps
    | dsimp only
    | split

theorem execTmrTof_keeps {s0 : State} : ∀ a0 a1 a2 a3 a4 a5 s6, Keeps s0 s6 → KeepsEnd s0 (execTmrTof a0 a1 a2 a3 a4 a5 s6) := by
  intro a0 a1 a2 a3 a4 a5 s6 h
  unfold execTmrTof
  refine keepsEnd_next ?_
  repeat' first
    | with_reducible first | assumption | apply tmrRun_keeps
    | dsimp only
    | split

theorem execTmrTp_keeps {s0 : State} : ∀ a0 a1 a2 a3 a4 a5 s6, Keeps s0 s6 → KeepsEnd s0 (execTmrTp a0 a1 a2 a3 a4 a5 s6) := by
  intro a0 a1 a2 a3 a4 a5 s6 h
  unfold execTmrTp
  refine keepsEnd_next ?_
  repeat' first
    | with_reducible first | assumption | apply tmrRun_keeps
    | dsimp only
    | split

theorem execEdgeRising_keeps {s0 : State} : ∀ a0 a1 a2 a3 a4 s5, Keeps s0 s5 → KeepsEnd s0 (execEdgeRising a0 a1 a2 a3 a4 s5) := by
  intro a0 a1 a2 a3 a4 s5 h
  unfold execEdgeRising
  refine keepsEnd_next ?_
  repeat' first
    | with_reducible first | assumption | apply edgeRun_keeps
    | dsimp only
    | split

theorem execEdgeFalling_keeps {s0 : State} : ∀ a0 a1 a2 a3 a4 s5, Keeps s0 s5 → KeepsEnd s0 (execEdgeFalling a0 a1 a2 a3 a4 s5) := by
  intro a0 a1 a2 a3 a4 s5 h
  unfold execEdgeFalling
  refine keepsEnd_next ?_
  repeat' first
    | with_reducible first | assumption | apply edgeRun_keeps
    | dsimp only
    | split

theorem execEdgeEither_keeps {s0 : State} : ∀ a0 a1 a2 a3 a4 s5, Keeps s0 s5 → KeepsEnd s0 (execEdgeEither a0 a1 a2 a3 a4 s5) := by
  intro a0 a1 a2 a3 a4 s5 h
  unfold execEdgeEither
  refine keepsEnd_next ?_
  repeat' first
    | with_reducible first | assumption | apply edgeRun_keeps
    | dsimp only
    | split

theorem execLdwx_keeps {s0 : State} : ∀ a0 a1 a2 a3 a4 s5, Keeps s0 s5 → KeepsEnd s0 (execLdwx a0 a1 a2 a3 a4 s5) := by
  intro a0 a1 a2 a3 a4 s5 h
  unfold execLdwx
  refine keepsEnd_next ?_
  repeat' first
    | with_reducible first | assumption | intro _ | apply keepsOut_go | apply keepsOut_jump | apply keepsOut_exc | apply coreExec_keeps | apply loadOut_keeps | apply keeps_foldl | apply keeps_upto | apply keeps_each
    | dsimp only
    | split

theorem execStwx_keeps {s0 : State} : ∀ a0 a1 a2 a3 a4 s5, Keeps s0 s5 → KeepsEnd s0 (execStwx a0 a1 a2 a3 a4 s5) := by
  intro a0 a1 a2 a3 a4 s5 h
  unfold execStwx
  refine keepsEnd_next ?_
  repeat' first
    | with_reducible first | assumption | intro _ | apply keepsOut_go | apply keepsOut_jump | apply keepsOut_exc | apply coreExec_keeps | apply storeOut_keeps | apply keeps_foldl | apply keeps_upto | apply keeps_each
    | dsimp only
    | split

end Sys2Proof.Machine
end

