-- ==== Sys2Proof/Laws/KeepsSarbVec.lean ====
section
/-! SUPPORT. What the functions of Machine/SarbVec.lean keep. -/

namespace Sys2Proof.Machine

theorem valuRun_keeps {s0 : State} : ∀ a0 a1 a2 a3 a4 a5 a6 s7, Keeps s0 s7 → Keeps s0 (valuRun a0 a1 a2 a3 a4 a5 a6 s7) := by
  intro a0 a1 a2 a3 a4 a5 a6 s7 h
  unfold valuRun
  repeat' first
    | with_reducible first | assumption | intro _ | apply keepsOut_go | apply keepsOut_jump | apply keepsOut_exc | apply coreExec_keeps | apply setCore_keeps | apply keeps_foldl | apply keeps_upto | apply keeps_each
    | dsimp only
    | split

theorem execVadd_keeps {s0 : State} : ∀ a0 a1 a2 a3 a4 s5, Keeps s0 s5 → KeepsEnd s0 (execVadd a0 a1 a2 a3 a4 s5) := by
  intro a0 a1 a2 a3 a4 s5 h
  unfold execVadd
  refine keepsEnd_next ?_
  repeat' first
    | with_reducible first | assumption | apply valuRun_keeps
    | dsimp only
    | split

theorem execVsub_keeps {s0 : State} : ∀ a0 a1 a2 a3 a4 s5, Keeps s0 s5 → KeepsEnd s0 (execVsub a0 a1 a2 a3 a4 s5) := by
  intro a0 a1 a2 a3 a4 s5 h
  unfold execVsub
  refine keepsEnd_next ?_
  repeat' first
    | with_reducible first | assumption | apply valuRun_keeps
    | dsimp only
    | split

theorem execVand_keeps {s0 : State} : ∀ a0 a1 a2 a3 a4 s5, Keeps s0 s5 → KeepsEnd s0 (execVand a0 a1 a2 a3 a4 s5) := by
  intro a0 a1 a2 a3 a4 s5 h
  unfold execVand
  refine keepsEnd_next ?_
  repeat' first
    | with_reducible first | assumption | apply valuRun_keeps
    | dsimp only
    | split

theorem execVor_keeps {s0 : State} : ∀ a0 a1 a2 a3 a4 s5, Keeps s0 s5 → KeepsEnd s0 (execVor a0 a1 a2 a3 a4 s5) := by
  intro a0 a1 a2 a3 a4 s5 h
  unfold execVor
  refine keepsEnd_next ?_
  repeat' first
    | with_reducible first | assumption | apply valuRun_keeps
    | dsimp only
    | split

theorem execVxor_keeps {s0 : State} : ∀ a0 a1 a2 a3 a4 s5, Keeps s0 s5 → KeepsEnd s0 (execVxor a0 a1 a2 a3 a4 s5) := by
  intro a0 a1 a2 a3 a4 s5 h
  unfold execVxor
  refine keepsEnd_next ?_
  repeat' first
    | with_reducible first | assumption | apply valuRun_keeps
    | dsimp only
    | split

theorem execVshl_keeps {s0 : State} : ∀ a0 a1 a2 a3 a4 s5, Keeps s0 s5 → KeepsEnd s0 (execVshl a0 a1 a2 a3 a4 s5) := by
  intro a0 a1 a2 a3 a4 s5 h
  unfold execVshl
  refine keepsEnd_next ?_
  repeat' first
    | with_reducible first | assumption | apply valuRun_keeps
    | dsimp only
    | split

theorem execVshr_keeps {s0 : State} : ∀ a0 a1 a2 a3 a4 s5, Keeps s0 s5 → KeepsEnd s0 (execVshr a0 a1 a2 a3 a4 s5) := by
  intro a0 a1 a2 a3 a4 s5 h
  unfold execVshr
  refine keepsEnd_next ?_
  repeat' first
    | with_reducible first | assumption | apply valuRun_keeps
    | dsimp only
    | split

theorem execVsra_keeps {s0 : State} : ∀ a0 a1 a2 a3 a4 s5, Keeps s0 s5 → KeepsEnd s0 (execVsra a0 a1 a2 a3 a4 s5) := by
  intro a0 a1 a2 a3 a4 s5 h
  unfold execVsra
  refine keepsEnd_next ?_
  repeat' first
    | with_reducible first | assumption | apply valuRun_keeps
    | dsimp only
    | split

theorem execVmul_keeps {s0 : State} : ∀ a0 a1 a2 a3 a4 s5, Keeps s0 s5 → KeepsEnd s0 (execVmul a0 a1 a2 a3 a4 s5) := by
  intro a0 a1 a2 a3 a4 s5 h
  unfold execVmul
  refine keepsEnd_next ?_
  repeat' first
    | with_reducible first | assumption | apply valuRun_keeps
    | dsimp only
    | split

theorem execVmulh_keeps {s0 : State} : ∀ a0 a1 a2 a3 a4 s5, Keeps s0 s5 → KeepsEnd s0 (execVmulh a0 a1 a2 a3 a4 s5) := by
  intro a0 a1 a2 a3 a4 s5 h
  unfold execVmulh
  refine keepsEnd_next ?_
  repeat' first
    | with_reducible first | assumption | apply valuRun_keeps
    | dsimp only
    | split

theorem execVmulhu_keeps {s0 : State} : ∀ a0 a1 a2 a3 a4 s5, Keeps s0 s5 → KeepsEnd s0 (execVmulhu a0 a1 a2 a3 a4 s5) := by
  intro a0 a1 a2 a3 a4 s5 h
  unfold execVmulhu
  refine keepsEnd_next ?_
  repeat' first
    | with_reducible first | assumption | apply valuRun_keeps
    | dsimp only
    | split

theorem execVadds_keeps {s0 : State} : ∀ a0 a1 a2 a3 a4 s5, Keeps s0 s5 → KeepsEnd s0 (execVadds a0 a1 a2 a3 a4 s5) := by
  intro a0 a1 a2 a3 a4 s5 h
  unfold execVadds
  refine keepsEnd_next ?_
  repeat' first
    | with_reducible first | assumption | apply valuRun_keeps
    | dsimp only
    | split

theorem execVsubs_keeps {s0 : State} : ∀ a0 a1 a2 a3 a4 s5, Keeps s0 s5 → KeepsEnd s0 (execVsubs a0 a1 a2 a3 a4 s5) := by
  intro a0 a1 a2 a3 a4 s5 h
  unfold execVsubs
  refine keepsEnd_next ?_
  repeat' first
    | with_reducible first | assumption | apply valuRun_keeps
    | dsimp only
    | split

theorem execVmin_keeps {s0 : State} : ∀ a0 a1 a2 a3 a4 s5, Keeps s0 s5 → KeepsEnd s0 (execVmin a0 a1 a2 a3 a4 s5) := by
  intro a0 a1 a2 a3 a4 s5 h
  unfold execVmin
  refine keepsEnd_next ?_
  repeat' first
    | with_reducible first | assumption | apply valuRun_keeps
    | dsimp only
    | split

theorem execVmax_keeps {s0 : State} : ∀ a0 a1 a2 a3 a4 s5, Keeps s0 s5 → KeepsEnd s0 (execVmax a0 a1 a2 a3 a4 s5) := by
  intro a0 a1 a2 a3 a4 s5 h
  unfold execVmax
  refine keepsEnd_next ?_
  repeat' first
    | with_reducible first | assumption | apply valuRun_keeps
    | dsimp only
    | split

theorem execVminu_keeps {s0 : State} : ∀ a0 a1 a2 a3 a4 s5, Keeps s0 s5 → KeepsEnd s0 (execVminu a0 a1 a2 a3 a4 s5) := by
  intro a0 a1 a2 a3 a4 s5 h
  unfold execVminu
  refine keepsEnd_next ?_
  repeat' first
    | with_reducible first | assumption | apply valuRun_keeps
    | dsimp only
    | split

theorem execVmaxu_keeps {s0 : State} : ∀ a0 a1 a2 a3 a4 s5, Keeps s0 s5 → KeepsEnd s0 (execVmaxu a0 a1 a2 a3 a4 s5) := by
  intro a0 a1 a2 a3 a4 s5 h
  unfold execVmaxu
  refine keepsEnd_next ?_
  repeat' first
    | with_reducible first | assumption | apply valuRun_keeps
    | dsimp only
    | split

theorem execVfadd_keeps {s0 : State} : ∀ a0 a1 a2 a3 a4 s5, Keeps s0 s5 → KeepsEnd s0 (execVfadd a0 a1 a2 a3 a4 s5) := by
  intro a0 a1 a2 a3 a4 s5 h
  unfold execVfadd
  refine keepsEnd_next ?_
  repeat' first
    | with_reducible first | assumption | apply valuRun_keeps
    | dsimp only
    | split

theorem execVfsub_keeps {s0 : State} : ∀ a0 a1 a2 a3 a4 s5, Keeps s0 s5 → KeepsEnd s0 (execVfsub a0 a1 a2 a3 a4 s5) := by
  intro a0 a1 a2 a3 a4 s5 h
  unfold execVfsub
  refine keepsEnd_next ?_
  repeat' first
    | with_reducible first | assumption | apply valuRun_keeps
    | dsimp only
    | split

theorem execVfmul_keeps {s0 : State} : ∀ a0 a1 a2 a3 a4 s5, Keeps s0 s5 → KeepsEnd s0 (execVfmul a0 a1 a2 a3 a4 s5) := by
  intro a0 a1 a2 a3 a4 s5 h
  unfold execVfmul
  refine keepsEnd_next ?_
  repeat' first
    | with_reducible first | assumption | apply valuRun_keeps
    | dsimp only
    | split

theorem execVfdiv_keeps {s0 : State} : ∀ a0 a1 a2 a3 a4 s5, Keeps s0 s5 → KeepsEnd s0 (execVfdiv a0 a1 a2 a3 a4 s5) := by
  intro a0 a1 a2 a3 a4 s5 h
  unfold execVfdiv
  refine keepsEnd_next ?_
  repeat' first
    | with_reducible first | assumption | apply valuRun_keeps
    | dsimp only
    | split

theorem execVfsqrt_keeps {s0 : State} : ∀ a0 a1 a2 a3 s4, Keeps s0 s4 → KeepsEnd s0 (execVfsqrt a0 a1 a2 a3 s4) := by
  intro a0 a1 a2 a3 s4 h
  unfold execVfsqrt
  refine keepsEnd_next ?_
  repeat' first
    | with_reducible first | assumption | apply valuRun_keeps
    | dsimp only
    | split

theorem execVfmin_keeps {s0 : State} : ∀ a0 a1 a2 a3 a4 s5, Keeps s0 s5 → KeepsEnd s0 (execVfmin a0 a1 a2 a3 a4 s5) := by
  intro a0 a1 a2 a3 a4 s5 h
  unfold execVfmin
  refine keepsEnd_next ?_
  repeat' first
    | with_reducible first | assumption | apply valuRun_keeps
    | dsimp only
    | split

theorem execVfmax_keeps {s0 : State} : ∀ a0 a1 a2 a3 a4 s5, Keeps s0 s5 → KeepsEnd s0 (execVfmax a0 a1 a2 a3 a4 s5) := by
  intro a0 a1 a2 a3 a4 s5 h
  unfold execVfmax
  refine keepsEnd_next ?_
  repeat' first
    | with_reducible first | assumption | apply valuRun_keeps
    | dsimp only
    | split

theorem execVfabs_keeps {s0 : State} : ∀ a0 a1 a2 a3 s4, Keeps s0 s4 → KeepsEnd s0 (execVfabs a0 a1 a2 a3 s4) := by
  intro a0 a1 a2 a3 s4 h
  unfold execVfabs
  refine keepsEnd_next ?_
  repeat' first
    | with_reducible first | assumption | apply valuRun_keeps
    | dsimp only
    | split

theorem execVfneg_keeps {s0 : State} : ∀ a0 a1 a2 a3 s4, Keeps s0 s4 → KeepsEnd s0 (execVfneg a0 a1 a2 a3 s4) := by
  intro a0 a1 a2 a3 s4 h
  unfold execVfneg
  refine keepsEnd_next ?_
  repeat' first
    | with_reducible first | assumption | apply valuRun_keeps
    | dsimp only
    | split

theorem vaccRun_keeps {s0 : State} : ∀ a0 a1 a2 a3 a4 a5 a6 s7, Keeps s0 s7 → Keeps s0 (vaccRun a0 a1 a2 a3 a4 a5 a6 s7) := by
  intro a0 a1 a2 a3 a4 a5 a6 s7 h
  unfold vaccRun
  repeat' first
    | with_reducible first | assumption | intro _ | apply keepsOut_go | apply keepsOut_jump | apply keepsOut_exc | apply coreExec_keeps | apply setCore_keeps | apply keeps_foldl | apply keeps_upto | apply keeps_each
    | dsimp only
    | split

theorem execVfmac_keeps {s0 : State} : ∀ a0 a1 a2 a3 a4 s5, Keeps s0 s5 → KeepsEnd s0 (execVfmac a0 a1 a2 a3 a4 s5) := by
  intro a0 a1 a2 a3 a4 s5 h
  unfold execVfmac
  refine keepsEnd_next ?_
  repeat' first
    | with_reducible first | assumption | apply vaccRun_keeps
    | dsimp only
    | split

theorem execVfcvtsw_keeps {s0 : State} : ∀ a0 a1 a2 a3 s4, Keeps s0 s4 → KeepsEnd s0 (execVfcvtsw a0 a1 a2 a3 s4) := by
  intro a0 a1 a2 a3 s4 h
  unfold execVfcvtsw
  refine keepsEnd_next ?_
  repeat' first
    | with_reducible first | assumption | apply valuRun_keeps
    | dsimp only
    | split

theorem execVfcvtws_keeps {s0 : State} : ∀ a0 a1 a2 a3 s4, Keeps s0 s4 → KeepsEnd s0 (execVfcvtws a0 a1 a2 a3 s4) := by
  intro a0 a1 a2 a3 s4 h
  unfold execVfcvtws
  refine keepsEnd_next ?_
  repeat' first
    | with_reducible first | assumption | apply valuRun_keeps
    | dsimp only
    | split

theorem execVfcvtsq_keeps {s0 : State} : ∀ a0 a1 a2 a3 s4, Keeps s0 s4 → KeepsEnd s0 (execVfcvtsq a0 a1 a2 a3 s4) := by
  intro a0 a1 a2 a3 s4 h
  unfold execVfcvtsq
  refine keepsEnd_next ?_
  repeat' first
    | with_reducible first | assumption | apply valuRun_keeps
    | dsimp only
    | split

theorem execVfcvtqs_keeps {s0 : State} : ∀ a0 a1 a2 a3 s4, Keeps s0 s4 → KeepsEnd s0 (execVfcvtqs a0 a1 a2 a3 s4) := by
  intro a0 a1 a2 a3 s4 h
  unfold execVfcvtqs
  refine keepsEnd_next ?_
  repeat' first
    | with_reducible first | assumption | apply valuRun_keeps
    | dsimp only
    | split

theorem execVfatan2_keeps {s0 : State} : ∀ a0 a1 a2 a3 a4 s5, Keeps s0 s5 → KeepsEnd s0 (execVfatan2 a0 a1 a2 a3 a4 s5) := by
  intro a0 a1 a2 a3 a4 s5 h
  unfold execVfatan2
  refine keepsEnd_next ?_
  repeat' first
    | with_reducible first | assumption | apply valuRun_keeps
    | dsimp only
    | split

theorem execVfhypot_keeps {s0 : State} : ∀ a0 a1 a2 a3 a4 s5, Keeps s0 s5 → KeepsEnd s0 (execVfhypot a0 a1 a2 a3 a4 s5) := by
  intro a0 a1 a2 a3 a4 s5 h
  unfold execVfhypot
  refine keepsEnd_next ?_
  repeat' first
    | with_reducible first | assumption | apply valuRun_keeps
    | dsimp only
    | split

theorem execVqadd_keeps {s0 : State} : ∀ a0 a1 a2 a3 a4 s5, Keeps s0 s5 → KeepsEnd s0 (execVqadd a0 a1 a2 a3 a4 s5) := by
  intro a0 a1 a2 a3 a4 s5 h
  unfold execVqadd
  refine keepsEnd_next ?_
  repeat' first
    | with_reducible first | assumption | apply valuRun_keeps
    | dsimp only
    | split

theorem execVqsub_keeps {s0 : State} : ∀ a0 a1 a2 a3 a4 s5, Keeps s0 s5 → KeepsEnd s0 (execVqsub a0 a1 a2 a3 a4 s5) := by
  intro a0 a1 a2 a3 a4 s5 h
  unfold execVqsub
  refine keepsEnd_next ?_
  repeat' first
    | with_reducible first | assumption | apply valuRun_keeps
    | dsimp only
    | split

theorem execVqmul_keeps {s0 : State} : ∀ a0 a1 a2 a3 a4 s5, Keeps s0 s5 → KeepsEnd s0 (execVqmul a0 a1 a2 a3 a4 s5) := by
  intro a0 a1 a2 a3 a4 s5 h
  unfold execVqmul
  refine keepsEnd_next ?_
  repeat' first
    | with_reducible first | assumption | apply valuRun_keeps
    | dsimp only
    | split

theorem execVqmac_keeps {s0 : State} : ∀ a0 a1 a2 a3 a4 s5, Keeps s0 s5 → KeepsEnd s0 (execVqmac a0 a1 a2 a3 a4 s5) := by
  intro a0 a1 a2 a3 a4 s5 h
  unfold execVqmac
  refine keepsEnd_next ?_
  repeat' first
    | with_reducible first | assumption | apply vaccRun_keeps
    | dsimp only
    | split

theorem execVqabs_keeps {s0 : State} : ∀ a0 a1 a2 a3 s4, Keeps s0 s4 → KeepsEnd s0 (execVqabs a0 a1 a2 a3 s4) := by
  intro a0 a1 a2 a3 s4 h
  unfold execVqabs
  refine keepsEnd_next ?_
  repeat' first
    | with_reducible first | assumption | apply valuRun_keeps
    | dsimp only
    | split

theorem execVqneg_keeps {s0 : State} : ∀ a0 a1 a2 a3 s4, Keeps s0 s4 → KeepsEnd s0 (execVqneg a0 a1 a2 a3 s4) := by
  intro a0 a1 a2 a3 s4 h
  unfold execVqneg
  refine keepsEnd_next ?_
  repeat' first
    | with_reducible first | assumption | apply valuRun_keeps
    | dsimp only
    | split

theorem execVqshl_keeps {s0 : State} : ∀ a0 a1 a2 a3 a4 s5, Keeps s0 s5 → KeepsEnd s0 (execVqshl a0 a1 a2 a3 a4 s5) := by
  intro a0 a1 a2 a3 a4 s5 h
  unfold execVqshl
  refine keepsEnd_next ?_
  repeat' first
    | with_reducible first | assumption | apply valuRun_keeps
    | dsimp only
    | split

theorem execVqshr_keeps {s0 : State} : ∀ a0 a1 a2 a3 a4 s5, Keeps s0 s5 → KeepsEnd s0 (execVqshr a0 a1 a2 a3 a4 s5) := by
  intro a0 a1 a2 a3 a4 s5 h
  unfold execVqshr
  refine keepsEnd_next ?_
  repeat' first
    | with_reducible first | assumption | apply valuRun_keeps
    | dsimp only
    | split

theorem vcmpRun_keeps {s0 : State} : ∀ a0 a1 a2 a3 a4 a5 a6 s7, Keeps s0 s7 → Keeps s0 (vcmpRun a0 a1 a2 a3 a4 a5 a6 s7) := by
  intro a0 a1 a2 a3 a4 a5 a6 s7 h
  unfold vcmpRun
  repeat' first
    | with_reducible first | assumption | intro _ | apply keepsOut_go | apply keepsOut_jump | apply keepsOut_exc | apply coreExec_keeps | apply setCore_keeps | apply keeps_foldl | apply keeps_upto | apply keeps_each
    | dsimp only
    | split

theorem execVceq_keeps {s0 : State} : ∀ a0 a1 a2 a3 a4 s5, Keeps s0 s5 → KeepsEnd s0 (execVceq a0 a1 a2 a3 a4 s5) := by
  intro a0 a1 a2 a3 a4 s5 h
  unfold execVceq
  refine keepsEnd_next ?_
  repeat' first
    | with_reducible first | assumption | apply vcmpRun_keeps
    | dsimp only
    | split

theorem execVcne_keeps {s0 : State} : ∀ a0 a1 a2 a3 a4 s5, Keeps s0 s5 → KeepsEnd s0 (execVcne a0 a1 a2 a3 a4 s5) := by
  intro a0 a1 a2 a3 a4 s5 h
  unfold execVcne
  refine keepsEnd_next ?_
  repeat' first
    | with_reducible first | assumption | apply vcmpRun_keeps
    | dsimp only
    | split

theorem execVclt_keeps {s0 : State} : ∀ a0 a1 a2 a3 a4 s5, Keeps s0 s5 → KeepsEnd s0 (execVclt a0 a1 a2 a3 a4 s5) := by
  intro a0 a1 a2 a3 a4 s5 h
  unfold execVclt
  refine keepsEnd_next ?_
  repeat' first
    | with_reducible first | assumption | apply vcmpRun_keeps
    | dsimp only
    | split

theorem execVcge_keeps {s0 : State} : ∀ a0 a1 a2 a3 a4 s5, Keeps s0 s5 → KeepsEnd s0 (execVcge a0 a1 a2 a3 a4 s5) := by
  intro a0 a1 a2 a3 a4 s5 h
  unfold execVcge
  refine keepsEnd_next ?_
  repeat' first
    | with_reducible first | assumption | apply vcmpRun_keeps
    | dsimp only
    | split

theorem execVcltu_keeps {s0 : State} : ∀ a0 a1 a2 a3 a4 s5, Keeps s0 s5 → KeepsEnd s0 (execVcltu a0 a1 a2 a3 a4 s5) := by
  intro a0 a1 a2 a3 a4 s5 h
  unfold execVcltu
  refine keepsEnd_next ?_
  repeat' first
    | with_reducible first | assumption | apply vcmpRun_keeps
    | dsimp only
    | split

theorem execVcgeu_keeps {s0 : State} : ∀ a0 a1 a2 a3 a4 s5, Keeps s0 s5 → KeepsEnd s0 (execVcgeu a0 a1 a2 a3 a4 s5) := by
  intro a0 a1 a2 a3 a4 s5 h
  unfold execVcgeu
  refine keepsEnd_next ?_
  repeat' first
    | with_reducible first | assumption | apply vcmpRun_keeps
    | dsimp only
    | split

theorem execVctst_keeps {s0 : State} : ∀ a0 a1 a2 a3 a4 s5, Keeps s0 s5 → KeepsEnd s0 (execVctst a0 a1 a2 a3 a4 s5) := by
  intro a0 a1 a2 a3 a4 s5 h
  unfold execVctst
  refine keepsEnd_next ?_
  repeat' first
    | with_reducible first | assumption | apply vcmpRun_keeps
    | dsimp only
    | split

theorem execVctstn_keeps {s0 : State} : ∀ a0 a1 a2 a3 a4 s5, Keeps s0 s5 → KeepsEnd s0 (execVctstn a0 a1 a2 a3 a4 s5) := by
  intro a0 a1 a2 a3 a4 s5 h
  unfold execVctstn
  refine keepsEnd_next ?_
  repeat' first
    | with_reducible first | assumption | apply vcmpRun_keeps
    | dsimp only
    | split

theorem execVfeq_keeps {s0 : State} : ∀ a0 a1 a2 a3 a4 s5, Keeps s0 s5 → KeepsEnd s0 (execVfeq a0 a1 a2 a3 a4 s5) := by
  intro a0 a1 a2 a3 a4 s5 h
  unfold execVfeq
  refine keepsEnd_next ?_
  repeat' first
    | with_reducible first | assumption | apply vcmpRun_keeps
    | dsimp only
    | split

theorem execVflt_keeps {s0 : State} : ∀ a0 a1 a2 a3 a4 s5, Keeps s0 s5 → KeepsEnd s0 (execVflt a0 a1 a2 a3 a4 s5) := by
  intro a0 a1 a2 a3 a4 s5 h
  unfold execVflt
  refine keepsEnd_next ?_
  repeat' first
    | with_reducible first | assumption | apply vcmpRun_keeps
    | dsimp only
    | split

theorem execVfle_keeps {s0 : State} : ∀ a0 a1 a2 a3 a4 s5, Keeps s0 s5 → KeepsEnd s0 (execVfle a0 a1 a2 a3 a4 s5) := by
  intro a0 a1 a2 a3 a4 s5 h
  unfold execVfle
  refine keepsEnd_next ?_
  repeat' first
    | with_reducible first | assumption | apply vcmpRun_keeps
    | dsimp only
    | split

theorem execVfun_keeps {s0 : State} : ∀ a0 a1 a2 a3 a4 s5, Keeps s0 s5 → KeepsEnd s0 (execVfun a0 a1 a2 a3 a4 s5) := by
  intro a0 a1 a2 a3 a4 s5 h
  unfold execVfun
  refine keepsEnd_next ?_
  repeat' first
    | with_reducible first | assumption | apply vcmpRun_keeps
    | dsimp only
    | split

theorem execVbc_keeps {s0 : State} : ∀ a0 a1 a2 a3 s4, Keeps s0 s4 → KeepsEnd s0 (execVbc a0 a1 a2 a3 s4) := by
  intro a0 a1 a2 a3 s4 h
  unfold execVbc
  refine keepsEnd_next ?_
  repeat' first
    | with_reducible first | assumption | intro _ | apply keepsOut_go | apply keepsOut_jump | apply keepsOut_exc | apply coreExec_keeps | apply setCore_keeps | apply keeps_foldl | apply keeps_upto | apply keeps_each
    | dsimp only
    | split

theorem execVext_keeps {s0 : State} : ∀ a0 a1 a2 a3 a4 s5, Keeps s0 s5 → KeepsEnd s0 (execVext a0 a1 a2 a3 a4 s5) := by
  intro a0 a1 a2 a3 a4 s5 h
  unfold execVext
  refine keepsEnd_next ?_
  repeat' first
    | with_reducible first | assumption | intro _ | apply keepsOut_go | apply keepsOut_jump | apply keepsOut_exc | apply coreExec_keeps | apply scalar_keeps | apply keeps_foldl | apply keeps_upto | apply keeps_each
    | dsimp only
    | split

theorem execVins_keeps {s0 : State} : ∀ a0 a1 a2 a3 a4 s5, Keeps s0 s5 → KeepsEnd s0 (execVins a0 a1 a2 a3 a4 s5) := by
  intro a0 a1 a2 a3 a4 s5 h
  unfold execVins
  refine keepsEnd_next ?_
  repeat' first
    | with_reducible first | assumption | intro _ | apply keepsOut_go | apply keepsOut_jump | apply keepsOut_exc | apply coreExec_keeps | apply setCore_keeps | apply keeps_foldl | apply keeps_upto | apply keeps_each
    | dsimp only
    | split

theorem execVmov_keeps {s0 : State} : ∀ a0 a1 a2 a3 s4, Keeps s0 s4 → KeepsEnd s0 (execVmov a0 a1 a2 a3 s4) := by
  intro a0 a1 a2 a3 s4 h
  unfold execVmov
  refine keepsEnd_next ?_
  repeat' first
    | with_reducible first | assumption | apply valuRun_keeps
    | dsimp only
    | split

theorem reduceRun_keeps {s0 : State} : ∀ a0 a1 a2 a3 a4 a5 s6, Keeps s0 s6 → Keeps s0 (reduceRun a0 a1 a2 a3 a4 a5 s6) := by
  intro a0 a1 a2 a3 a4 a5 s6 h
  unfold reduceRun
  repeat' first
    | with_reducible first | assumption | intro _ | apply keepsOut_go | apply keepsOut_jump | apply keepsOut_exc | apply coreExec_keeps | apply scalar_keeps | apply keeps_foldl | apply keeps_upto | apply keeps_each
    | dsimp only
    | split

theorem execVsumi_keeps {s0 : State} : ∀ a0 a1 a2 a3 s4, Keeps s0 s4 → KeepsEnd s0 (execVsumi a0 a1 a2 a3 s4) := by
  intro a0 a1 a2 a3 s4 h
  unfold execVsumi
  refine keepsEnd_next ?_
  repeat' first
    | with_reducible first | assumption | apply reduceRun_keeps
    | dsimp only
    | split

theorem execVsumq_keeps {s0 : State} : ∀ a0 a1 a2 a3 s4, Keeps s0 s4 → KeepsEnd s0 (execVsumq a0 a1 a2 a3 s4) := by
  intro a0 a1 a2 a3 s4 h
  unfold execVsumq
  refine keepsEnd_next ?_
  repeat' first
    | with_reducible first | assumption | apply reduceRun_keeps
    | dsimp only
    | split

theorem execVsumf_keeps {s0 : State} : ∀ a0 a1 a2 a3 s4, Keeps s0 s4 → KeepsEnd s0 (execVsumf a0 a1 a2 a3 s4) := by
  intro a0 a1 a2 a3 s4 h
  unfold execVsumf
  refine keepsEnd_next ?_
  repeat' first
    | with_reducible first | assumption | apply reduceRun_keeps
    | dsimp only
    | split

theorem execVmaxf_keeps {s0 : State} : ∀ a0 a1 a2 a3 s4, Keeps s0 s4 → KeepsEnd s0 (execVmaxf a0 a1 a2 a3 s4) := by
  intro a0 a1 a2 a3 s4 h
  unfold execVmaxf
  refine keepsEnd_next ?_
  repeat' first
    | with_reducible first | assumption | apply reduceRun_keeps
    | dsimp only
    | split

theorem execVbci_keeps {s0 : State} : ∀ a0 a1 a2 a3 s4, Keeps s0 s4 → KeepsEnd s0 (execVbci a0 a1 a2 a3 s4) := by
  intro a0 a1 a2 a3 s4 h
  unfold execVbci
  refine keepsEnd_next ?_
  repeat' first
    | with_reducible first | assumption | intro _ | apply keepsOut_go | apply keepsOut_jump | apply keepsOut_exc | apply coreExec_keeps | apply setCore_keeps | apply keeps_foldl | apply keeps_upto | apply keeps_each
    | dsimp only
    | split

end Sys2Proof.Machine
end

