-- ==== Sys2Proof/Tests/Slice0.lean ====
section
/-! SUPPORT. The model's own tests, each about a small state: ill-formed commands are refused; the words of instructions are those of
the encoding tables (R337 to R341); for every statement of `Certificates/Slice0` one theorem shows states and operands that meet its
hypotheses, clause by clause (`test_meets_…`); a few results the spec states. -/

namespace Sys2Proof.Tests

open Sys2Proof Sys2Proof.Machine

set_option Elab.async false

/-! ### Small states -/

/-- The secure firmware of core 0, and core 0 outside the secure world (as partition 0: PART_HART_CTX is 0 at reset). -/
def sec : Acc := ⟨0, true⟩
def non : Acc := ⟨0, false⟩

def withForce (s : State) (l : List (Nat × Word)) : State := l.foldl (fun s e => setForce s e.1 e.2) s
def withShadow (s : State) (l : List (Nat × Word)) : State := l.foldl (fun s e => setShadow s e.1 e.2) s
def withBytes (s : State) (a : Nat) (bs : List Byte) : State := { s with mem := storeBytes s.mem a bs }
def withCore (s : State) (c : CoreSt) : State := setCore s 0 c

/-- Reset, with one memory region that permits every access (R154). -/
def open_ : State := withForce State.reset
  [(R.regBaseLo 0, 0x80000000#32), (R.regSize 0, 0x80000#32), (R.regAttr 0, 0x10F#32), (R.regPidmask 0, 0xFFFFFFFF#32)]

/-- Reset is over, the wipes too, power is good. -/
def up : State :=
  { open_ with sys := { open_.sys with released := true }, trust := { open_.trust with dramDone := true, sramDone := true, lc := .provisioned }
               pwr := { open_.pwr with on := true, good := true, vstMv := 48000 }, diag := { open_.diag with bistOk := true } }

/-- The tick generator runs; it is the first tick of second 5. -/
def ticking : State := { up with ltc := 5000000000, now := 5000000000, time := { up.time with tickRun := true, tickSec := 5, tickStart := 5000000000 } }

/-- Core 0 runs at offset `o` of bank A, where the words `ws` stand, with scalar registers `l`. -/
def running (ws : List Word) (l : List (Nat × Word) := []) (o : Nat := 0) : State :=
  withBytes (withCore open_ { mode := .run, ib := 0x90020400#32, sreg := l, pc := o }) (0x90000000 + o) (ws.flatMap fun w => leBytes 4 w.toNat)

/-- The same for the words of `i`. -/
def at_ (i : Instr) (l : List (Nat × Word) := []) (o : Nat := 0) : State := running (sarbWords i) l o

/-- A word at an address. -/
def withWord (s : State) (a : Nat) (w : Word) : State := withBytes s a (leBytes 4 w.toNat)

/-- Core 0 can execute `i`, which stands at its counter. -/
def ready (i : Instr) (s : State) (len : Nat) : Prop := issues s 0 len ∧ spelt i s 0

/-! ### Ill-formed commands, one for each check -/

theorem test_wf_registerWrite : Instr.wf (.registerWrite sec 0xF0000000#32 3 0#32) = false := by decide
theorem test_wf_readClear : Instr.wf (.readClear sec 0xF0000000#32 0) = false := by decide
theorem test_wf_access_length :
    Instr.wf (.memoryAccess ⟨true, 0, false, 0⟩ .write 0x80000000#35 4 [1#8] 0) = false ∧
    Instr.wf (.memoryAccess ⟨true, 0, false, 0⟩ .read 0x80000000#35 4 [1#8] 0) = false ∧
    Instr.wf (.memoryAccess ⟨true, 0, false, 0⟩ .read 0x80000000#35 0 [] 0) = false ∧
    Instr.wf (.memoryAccess ⟨true, 0, false, 0⟩ .write 0x80000000#35 1 [1#8] 0) = true := by decide
theorem test_wf_can_frame :
    Instr.wf (.canFrameRx 0 ⟨false, false, false, false, false, false, 0x800#29, []⟩ 0) = false ∧
    Instr.wf (.canFrameRx 0 ⟨false, false, false, true, false, false, 0#29, List.replicate 12 0#8⟩ 0) = false ∧
    Instr.wf (.canFrameRx 0 ⟨false, false, false, true, true, false, 0#29, [0#8]⟩ 0) = false ∧
    Instr.wf (.canFrameRx 0 ⟨false, true, false, true, false, false, 0#29, []⟩ 0) = false ∧
    Instr.wf (.canFrameRx 0 ⟨true, true, false, true, false, false, 0#29, List.replicate 64 0#8⟩ 0) = true := by decide
theorem test_wf_irig_frame : Instr.wf (.irigbFrameRx ⟨4, true, 0, 0, 0, 0, 0, 0⟩ 0) = false ∧
    Instr.wf (.irigbFrameRx ⟨4, true, 366, 23, 59, 60, 99, 0⟩ 0) = true := by decide
theorem test_wf_tag_in_ethertype :
    Instr.wf (.macFrameRx 0 ⟨0, 0, none, 0x8100#16, [], none, true, true, true⟩ 0) = false ∧
    Instr.wf (.macFrameRx 0 ⟨0, 0, some 1#16, 0x8100#16, [], none, true, true, true⟩ 0) = true := by decide

/-- A packet with the given records, which names `n` programs and carries a tag of `m` bytes. -/
def packet (n m : Nat) (recs : List MirRec) : MirPacket :=
  ⟨0#16, 0, false, false, false, 0#32, 0#32, 0, 0#64, List.replicate n (0#32, 0#32), recs, true, 0#64, [], List.replicate m 0#8⟩
theorem test_wf_packet :
    Instr.wf (.tickPacketRx (packet 31 16 [])) = false ∧ Instr.wf (.tickPacketRx (packet 32 15 [])) = false ∧
    Instr.wf (.tickPacketRx (packet 32 16 [⟨false, .mem 0 [0#8]⟩])) = false ∧
    Instr.wf (.tickPacketRx (packet 32 16 [⟨false, .forces 0 [0#32]⟩])) = false ∧
    Instr.wf (.tickPacketRx (packet 32 16 [⟨false, .parts 0 (List.replicate 5 (0, 0))⟩])) = false ∧
    Instr.wf (.tickPacketRx (packet 32 16 [⟨false, .stopped (2 ^ 512)⟩])) = false ∧
    Instr.wf (.tickPacketRx (packet 32 16 [⟨true, .mem 0 (List.replicate 64 0#8)⟩])) = true := by decide +kernel

/-! ### Words of the instruction set, field by field as R337 lays them out -/

theorem test_words_registers :  -- OPC, P, D, A, B, FN (R341, R343, R346, R347, R349 to R351, R356, R357)
    sarbWords (.add 0 3 4 5 6) = [0b000001_011_00100_00101_00110_00000000#32] ∧
    sarbWords (.clz 0 0 4 5) = [0b000001_000_00100_00101_00000_00010110#32] ∧
    sarbWords (.adds64 0 1 2 4 6) = [0b000111_001_00010_00100_00110_00000100#32] ∧
    sarbWords (.fmac 0 0 31 30 29) = [0b001000_000_11111_11110_11101_00001001#32] ∧
    sarbWords (.qmul 0 7 1 2 3) = [0b001001_111_00001_00010_00011_00000010#32] ∧
    sarbWords (.clt 0 0 2 5 6) = [0b001010_000_00010_00101_00110_00000010#32] ∧
    sarbWords (.pandn 0 0 1 2 3) = [0b001011_000_00001_00010_00011_00000011#32] ∧
    sarbWords (.ptos 0 0 9 3) = [0b001100_000_01001_00011_00000_00000000#32] ∧
    sarbWords (.vfmac 0 2 8 9 10) = [0b100010_010_01000_01001_01010_00101001#32] ∧
    sarbWords (.vclt 0 2 3 9 10) = [0b100011_010_00011_01001_01010_00000010#32] ∧
    sarbWords (.vext 0 2 3 9 5) = [0b100100_010_00011_01001_00101_00000001#32] := by decide
theorem test_words_immediates :  -- OPC, P, D, A, IMM (R344, R352, R359, R366, R370, R372)
    sarbWords (.addi 0 0 0 0 0#13) = [0x08000000#32] ∧
    sarbWords (.addi 0 0 1 2 (-1)) = [0b000010_000_00001_00010_1111111111111#32] ∧
    sarbWords (.shiSra 0 0 1 2 31) = [0b000110_000_00001_00010_0000001011111#32] ∧
    sarbWords (.ldw 0 4 7 8 12#13) = [0b010000_100_00111_01000_0000000001100#32] ∧
    sarbWords (.stgi 0 4 7 0 8#13) = [0b011111_100_00111_00000_0000000001000#32] ∧
    sarbWords (.vst 0 1 7 8 32#13) = [0b100001_001_00111_01000_0000000100000#32] ∧
    sarbWords (.ldph 0 1 4 8 5 3) = [0b101001_001_00100_01000_1010000000011#32] ∧
    sarbWords (.opf 0 0 4 8 0xFFF#12) = [0b101110_000_00100_01000_0111111111111#32] ∧
    sarbWords (.rdsr 0 0 4 11) = [0b110100_000_00100_00000_0000000001011#32] ∧
    sarbWords (.npost 0 0 4 3 0xEF#8) = [0b110111_000_00000_00100_1100011101111#32] := by decide
theorem test_words_others :  -- formats T, B and X; TASK (R363, R368, R371, R373)
    sarbWords (.tmrTp 0 0 1 2 3 63) = [0b101100_000_00001_00010_00011_10_111111#32] ∧
    sarbWords (.tmrTon 0 0 1 1 2 2) = [0xB0042202#32] ∧  -- the worked example of R365
    sarbWords (.edgeFalling 0 0 1 2 4) = [0b101101_000_00001_00010_00000_01_000100#32] ∧
    sarbWords (.br 0 2 true (-1)) = [0b110000_010_1_1111111111111111111111#32] ∧
    sarbWords (.evsig 0 0 9) = [0b110110_000_00000_00000_01001_00000010#32] ∧
    sarbWords (.li 0 0 5 0x12345678#32) = [0b111111_000_00101_00000_00000_00000001#32, 0x12345678#32] ∧
    sarbWords (.vbci 0 6 5 1#32) = [0b111111_110_00101_00000_00000_00000101#32, 1#32] := by decide

/-! ### The protection cores: hypotheses met -/

theorem test_meets_IntegerResults :
    (∀ i ∈ [Instr.add 0 0 2 4 6, .sub 0 0 2 4 6, .and 0 0 2 4 6, .or 0 0 2 4 6, .xor 0 0 2 4 6, .shl 0 0 2 4 6, .shr 0 0 2 4 6, .sra 0 0 2 4 6,
        .mul 0 0 2 4 6, .mulh 0 0 2 4 6, .mulhu 0 0 2 4 6, .adds 0 0 2 4 6, .subs 0 0 2 4 6, .min 0 0 2 4 6, .max 0 0 2 4 6, .minu 0 0 2 4 6,
        .maxu 0 0 2 4 6, .abs 0 0 2 4, .clz 0 0 2 4, .div 0 0 2 4 6, .divu 0 0 2 4 6, .rem 0 0 2 4 6, .remu 0 0 2 4 6, .addi 0 0 2 4 1#13,
        .andi 0 0 2 4 1#13, .ori 0 0 2 4 1#13, .xori 0 0 2 4 1#13, .shiShl 0 0 2 4 31, .shiShr 0 0 2 4 31, .shiSra 0 0 2 4 0],
      ready i (at_ i) 4 ∧ predOn (at_ i) 0 0) ∧
    (∀ i ∈ [Instr.li 0 0 2 5#32, .addx 0 0 2 4 5#32], ready i (at_ i) 8 ∧ predOn (at_ i) 0 0) ∧
    sget (coreOf (at_ (.div 0 0 2 4 6)) 0) 6 = 0#32 ∧
    (let s := at_ (.div 0 0 2 4 6) [(4, 0x80000000#32), (6, 0xFFFFFFFF#32)]
     ready (.div 0 0 2 4 6) s 4 ∧ sget (coreOf s 0) 4 = 0x80000000#32 ∧ sget (coreOf s 0) 6 = 0xFFFFFFFF#32) := by
  delta ready issues canFetch spelt predOn; and_intros <;> decide +kernel

theorem test_meets_PairResults :
    (∀ i ∈ [Instr.add64 0 0 2 4 6, .sub64 0 0 2 4 6, .adds64 0 0 2 4 6, .mull 0 0 2 4 6, .mullu 0 0 2 4 6], ready i (at_ i) 4 ∧ predOn (at_ i) 0 0) ∧
    (∀ i ∈ [Instr.add64 0 0 3 4 6, .ldd 0 0 3 4 0#13, .std 0 0 3 4 0#13, .ldsmp 0 0 3 4 0, .ldsmpa 0 0 3 4 6, .add64 0 0 0 4 6, .ldd 0 0 0 4 0#13],
      ready i (at_ i) 4) := by
  delta ready issues canFetch spelt predOn; and_intros <;> decide +kernel

theorem test_meets_FloatResults :
    (∀ i ∈ [Instr.fadd 0 0 2 4 6, .fsub 0 0 2 4 6, .fmul 0 0 2 4 6, .fdiv 0 0 2 4 6, .fsqrt 0 0 2 4, .fmin 0 0 2 4 6, .fmax 0 0 2 4 6, .fabs 0 0 2 4,
        .fneg 0 0 2 4, .fmac 0 0 2 4 6, .fcvtsw 0 0 2 4, .fcvtws 0 0 2 4, .fcvtsq 0 0 2 4, .fcvtqs 0 0 2 4, .fatan2 0 0 2 4 6, .fhypot 0 0 2 4 6],
      ready i (at_ i) 4 ∧ predOn (at_ i) 0 0) ∧
    isNan 0x7F800001#32 ∧ isNan 0xFFFFFFFF#32 ∧ ¬isNan 0x7F800000#32 ∧ isNan (fadd 0x7F800000#32 0xFF800000#32).1 := by
  delta ready issues canFetch spelt predOn isNan; and_intros <;> decide +kernel

theorem test_meets_Q31Results :
    ∀ i ∈ [Instr.qadd 0 0 2 4 6, .qsub 0 0 2 4 6, .qmul 0 0 2 4 6, .qmac 0 0 2 4 6, .qabs 0 0 2 4, .qneg 0 0 2 4, .qshl 0 0 2 4 6, .qshr 0 0 2 4 6],
      ready i (at_ i) 4 ∧ predOn (at_ i) 0 0 := by
  delta ready issues canFetch spelt predOn; and_intros <;> decide +kernel

theorem test_meets_ComparesAndPredicates :
    (∀ i ∈ [Instr.ceq 0 0 2 4 6, .cne 0 0 2 4 6, .clt 0 0 2 4 6, .cge 0 0 2 4 6, .cltu 0 0 2 4 6, .cgeu 0 0 2 4 6, .ctst 0 0 2 4 6, .ctstn 0 0 2 4 6,
        .feq 0 0 2 4 6, .flt 0 0 2 4 6, .fle 0 0 2 4 6, .funord 0 0 2 4 6, .pand 0 0 2 3 4, .por 0 0 2 3 4, .pxor 0 0 2 3 4, .pandn 0 0 2 3 4,
        .pnot 0 0 2 3, .ptos 0 0 2 3, .stop 0 0 2 4, .pset 0 0 2 4],
      ready i (at_ i) 4 ∧ predOn (at_ i) 0 0) ∧
    isNan 0x7FC00000#32 ∧ ¬isNan 0#32 := by
  delta ready issues canFetch spelt predOn isNan; and_intros <;> decide +kernel

theorem test_meets_VectorArithmeticLanes :
    ∀ i ∈ [Instr.vadd 0 0 2 4 6, .vsub 0 0 2 4 6, .vand 0 0 2 4 6, .vor 0 0 2 4 6, .vxor 0 0 2 4 6, .vshl 0 0 2 4 6, .vshr 0 0 2 4 6, .vsra 0 0 2 4 6,
        .vmul 0 0 2 4 6, .vmulh 0 0 2 4 6, .vmulhu 0 0 2 4 6, .vadds 0 0 2 4 6, .vsubs 0 0 2 4 6, .vmin 0 0 2 4 6, .vmax 0 0 2 4 6,
        .vminu 0 0 2 4 6, .vmaxu 0 0 2 4 6, .vfadd 0 0 2 4 6, .vfsub 0 0 2 4 6, .vfmul 0 0 2 4 6, .vfdiv 0 0 2 4 6, .vfsqrt 0 0 2 4,
        .vfmin 0 0 2 4 6, .vfmax 0 0 2 4 6, .vfabs 0 0 2 4, .vfneg 0 0 2 4, .vfmac 0 0 2 4 6, .vfcvtsw 0 0 2 4, .vfcvtws 0 0 2 4,
        .vfcvtsq 0 0 2 4, .vfcvtqs 0 0 2 4, .vfatan2 0 0 2 4 6, .vfhypot 0 0 2 4 6, .vqadd 0 0 2 4 6, .vqsub 0 0 2 4 6, .vqmul 0 0 2 4 6,
        .vqmac 0 0 2 4 6, .vqabs 0 0 2 4, .vqneg 0 0 2 4, .vqshl 0 0 2 4 6, .vqshr 0 0 2 4 6],
      ready i (at_ i) 4 := by
  delta ready issues canFetch spelt; and_intros <;> decide +kernel

theorem test_meets_VectorComparesMovesAndReductions :
    (∀ i ∈ [Instr.vceq 0 0 2 4 6, .vcne 0 0 2 4 6, .vclt 0 0 2 4 6, .vcge 0 0 2 4 6, .vcltu 0 0 2 4 6, .vcgeu 0 0 2 4 6, .vctst 0 0 2 4 6,
        .vctstn 0 0 2 4 6, .vfeq 0 0 2 4 6, .vflt 0 0 2 4 6, .vfle 0 0 2 4 6, .vfun 0 0 2 4 6, .vbc 0 0 2 4, .vmov 0 0 2 4, .vins 0 0 2 4 7,
        .vext 0 0 2 4 7, .vsumi 0 0 2 4, .vsumq 0 0 2 4, .vsumf 0 0 2 4, .vmaxf 0 0 2 4], ready i (at_ i) 4) ∧
    ready (.vbci 0 0 2 5#32) (at_ (.vbci 0 0 2 5#32)) 8 ∧
    -- p0 enables every lane, p1 of this state none
    (let s := at_ (.vext 0 1 2 4 7); ready (.vext 0 1 2 4 7) s 4 ∧ laneOn s 0 1 7 = false ∧ laneOn s 0 0 7 = true ∧ pget (coreOf s 0) 0 = 0xFF#8) := by
  delta ready issues canFetch spelt; and_intros <;> decide +kernel

theorem test_meets_LoadResults :
    let l : List (Nat × Word) := [(4, 0x90020000#32)]
    (∀ i ∈ [Instr.ldw 0 0 2 4 0#13, .ldh 0 0 2 4 0#13, .ldhu 0 0 2 4 0#13, .ldb 0 0 2 4 0#13, .ldbu 0 0 2 4 0#13, .ldd 0 0 2 4 0#13, .ldwi 0 0 2 0 0#13],
      ready i (at_ i l) 4 ∧ predOn (at_ i l) 0 0 ∧ canRead (at_ i l) 0 0x90020000 8 ∧ canRead (at_ i l) 0 0x90020400 4) ∧
    (let i := Instr.ldwx 0 0 2 4 4#32; ready i (at_ i l) 8 ∧ canRead (at_ i l) 0 0x90020004 4) ∧
    addrOf 0#32 (coreOf (at_ (.ldw 0 0 2 4 0#13) l) 0) 4 0#32 = 0x90020000 ∧
    -- a pair that agrees, a pair that does not, for LDG and LDGI
    (∀ i ∈ [Instr.ldg 0 0 2 4 0#13, .ldgi 0 0 2 0 0#13], ready i (at_ i l) 4 ∧
      let g := withWord (withWord (at_ i l) 0x90020004 0xFFFFFFFF#32) 0x90020404 0xFFFFFFFF#32
      ready i g 4 ∧ rd32 g 0x90020004 = ~~~rd32 g 0x90020000 ∧ rd32 g 0x90020404 = ~~~rd32 g 0x90020400 ∧
        canRead g 0 0x90020000 8 ∧ canRead g 0 0x90020400 8 ∧
        rd32 (at_ i l) 0x90020004 ≠ ~~~rd32 (at_ i l) 0x90020000 ∧ rd32 (at_ i l) 0x90020404 ≠ ~~~rd32 (at_ i l) 0x90020400) := by
  delta ready issues canFetch spelt predOn canRead; and_intros <;> decide +kernel

theorem test_meets_StoreResults :
    let l : List (Nat × Word) := [(4, 0x90020000#32)]
    (∀ i ∈ [Instr.stw 0 0 2 4 0#13, .sth 0 0 2 4 0#13, .stb 0 0 2 4 0#13, .std 0 0 2 4 0#13, .stg 0 0 2 4 0#13, .stwi 0 0 2 0 0#13, .stgi 0 0 2 0 0#13],
      ready i (at_ i l) 4 ∧ predOn (at_ i l) 0 0 ∧ canWrite (at_ i l) 0 0x90020000 8 ∧ canWrite (at_ i l) 0 0x90020400 8) ∧
    (let i := Instr.stwx 0 0 2 4 4#32; ready i (at_ i l) 8 ∧ canWrite (at_ i l) 0 0x90020004 4) ∧
    memOk (at_ (.stw 0 0 2 4 0#13) l) ∧ (at_ (.stw 0 0 2 4 0#13) l).mir.unsent = [] ∧
    (let s := { withForce up [(R.mirSnap, 0x80F00000#32)] with mir := { up.mir with unsent := [(0x90020040 / 64, 3, 1)] } }
     s.now < 1 ∧ 0x90020040 / 64 ∈ linesOf 0x9002003C 8 ∧ fld (forceOf s R.mirSnap) 31 20 * 0x100000 + 64 * 3 + 64 ≤ 0x9002003C ∧
       dmaMay s (dmaTag s 0x16 none) .write (fld (forceOf s R.mirSnap) 31 20 * 0x100000 + 64 * 3) 64) := by
  delta ready issues canFetch spelt predOn canWrite memOk dmaMay; and_intros <;> decide +kernel

theorem test_meets_VectorAndRefusedAccesses :
    let l := fun (x : Nat) => [((4 : Nat), BitVec.ofNat 32 x)]
    (∀ i ∈ [Instr.vld 0 0 2 4 0#13, .vst 0 0 2 4 0#13], let s := at_ i (l 0x90020000)
      ready i s 4 ∧ pget (coreOf s 0) 0 ≠ 0#8 ∧ canRead s 0 0x90020000 32 ∧ canWrite s 0 0x90020000 32) ∧
    (∀ i ∈ [Instr.vld 0 1 2 4 0#13, .vst 0 1 2 4 0#13], ready i (at_ i) 4 ∧ pget (coreOf (at_ i) 0) 1 = 0#8) ∧
    (∀ i ∈ [Instr.ldw 0 0 2 4 0#13, .stw 0 0 2 4 0#13, .ldg 0 0 2 4 0#13, .stg 0 0 2 4 0#13],
      ∀ x ∈ [0x90020001, 0xF0000000, 0x90000100, 0xC0000000], ready i (at_ i (l x)) 4 ∧ predOn (at_ i (l x)) 0 0) ∧
    inRegs 0xF0000000 = true ∧ inRegs 0x90000100 = false ∧ inCodeBank 0x90000100 = true ∧
    (let s := at_ (.ldw 0 0 2 4 4#13) (l 0xFFFFFFFC); ready (.ldw 0 0 2 4 4#13) s 4 ∧ addrOf 0#32 (coreOf s 0) 4 4#32 = 2 ^ 32) ∧
    (let s := { at_ (.ldw 0 0 2 4 0#13) (l 0x90020000) with ecc := [(0x90020000 / 8, 2)] }
     ready (.ldw 0 0 2 4 0#13) s 4 ∧ eccOf s 0x90020000 4 = 2 ∧ memDenied s (coreTag 0 0) .read 0x90020000 = none) ∧
    (let s := at_ (.stw 0 0 2 4 0#13) (l 0xC0000000)
     ready (.stw 0 0 2 4 0#13) s 4 ∧ inRegs 0xC0000000 = false ∧ inCodeBank 0xC0000000 = false ∧
       (memDenied s (coreTag 0 0) .write 0xC0000000).isSome ∧ (memDenied s (coreTag 0 0) .read 0xC0000000).isSome) := by
  delta ready issues canFetch spelt predOn canRead canWrite; and_intros <;> decide +kernel

/-- Core 0 in a run of release tick 7, its sample store at 0x80100000 (depth 16), phasor and group records at 0x80300000 and 0x80400000. -/
def sampled (i : Instr) (n : Word) : State :=
  let s := at_ i
  withCore s { coreOf s 0 with sreg := [(4, n), (6, 7#32)], relT := 7#32, smpBase := 0x80100000#32, phBase := 0x80300000#32, agBase := 0x80400000#32 }

theorem test_meets_SampleLoadResults :
    (∀ i ∈ [Instr.ldsmp 0 0 2 4 15, .ldsmpa 0 0 2 4 6, .vldsmp 0 0 2 4 15, .ldph 0 0 2 4 1 3, .ldpha 0 0 2 4 6 1, .ldgr 0 0 2 4 1 3, .ldgra 0 0 2 4 6 1],
      let s := sampled i 255#32
      ready i s 4 ∧ predOn s 0 0 ∧ pget (coreOf s 0) 0 ≠ 0#8 ∧ (coreOf s 0).relT ≠ 0xFFFFFFFF#32 ∧ canRead s 0 (0x80100000 + 255 * 128 + 8 * 7) 8 ∧
        canRead s 0 (0x80300000 + 255 * 256 + 3 * 64) 64 ∧ canRead s 0 (0x80400000 + 255 * 256) 64) ∧
    (let s := sampled (.vldsmp 0 0 2 4 0) 8184#32
     ready (.vldsmp 0 0 2 4 0) s 4 ∧ ∀ j, j < 8 → cleanRead s 0 (0x80100000 + (8184 + j) * 128 + 8 * 7) 8) ∧
    ready (.ldsmp 0 0 2 4 16) (sampled (.ldsmp 0 0 2 4 16) 0#32) 4 ∧ (let s := withCore (at_ (.ldsmp 0 0 2 4 0)) { coreOf (at_ (.ldsmp 0 0 2 4 0)) 0 with relT := 0xFFFFFFFF#32 }
     ready (.ldsmp 0 0 2 4 0) s 4 ∧ (coreOf s 0).relT = 0xFFFFFFFF#32) ∧
    ready (.ldsmpa 0 0 2 4 6) (sampled (.ldsmpa 0 0 2 4 6) 8191#32) 4 ∧ ready (.ldsmpa 0 0 2 4 6) (sampled (.ldsmpa 0 0 2 4 6) 8192#32) 4 := by
  delta ready issues canFetch spelt predOn canRead cleanRead canRead; and_intros <;> decide +kernel

/-- A timer record at IB + 8 with TSTATE `st`, ELAPSED 7 and LAST 0, for an instruction whose sA is `x` and whose preset is 1 s. -/
def timer (i : Instr) (x st : Nat) : State :=
  withBytes (at_ i [(4, BitVec.ofNat 32 x), (6, 1000000#32)]) 0x90020408 (leBytes 4 9 ++ leBytes 4 st ++ leBytes 4 7 ++ leBytes 4 0)

theorem test_meets_TimersAndEdges :
    (∀ i ∈ [Instr.tmrTon 0 0 2 4 6 1, .tmrTof 0 0 2 4 6 1, .tmrTp 0 0 2 4 6 1, .edgeRising 0 0 2 4 1, .edgeFalling 0 0 2 4 1, .edgeEither 0 0 2 4 1],
      let s := timer i 1 8
      ready i s 4 ∧ predOn s 0 0 ∧ dataBase 0 ≤ 0x90020408 ∧ 0x90020408 + 16 ≤ coreBase 1 ∧
        ∀ x ∈ [0x90020408, 0x90020410], cleanRead s 0 x 8 ∧ canWrite s 0 x 8) ∧
    -- INIT with PREV, Q and RUN as the clauses ask
    (let r := rdTimer (timer (.tmrTon 0 0 2 4 6 1) 1 8) 0x90020408; r.init ∧ !r.prev ∧ !r.q ∧ !r.run ∧ r.elapsed < 2 ^ 32) ∧
    (let r := rdTimer (timer (.tmrTof 0 0 2 4 6 1) 0 0xB) 0x90020408; (tmrAdvance r false 0#32).q ∧ (tmrAdvance r false 0#32).run) ∧
    (let r := rdTimer (timer (.tmrTof 0 0 2 4 6 1) 0 0xA) 0x90020408; (tmrAdvance r false 0#32).q ∧ !(tmrAdvance r false 0#32).run) ∧
    (rdTimer (timer (.tmrTp 0 0 2 4 6 1) 0 0) 0x90020408).init = false := by
  delta ready issues canFetch spelt predOn cleanRead canRead canWrite; and_intros <;> decide +kernel

theorem test_meets_JumpsAndRunEnds :
    -- taken to the start of the bank and to its last word, not taken, to a word before and after the bank
    (∀ i ∈ [Instr.br 0 0 false 0#22, .br 0 0 false 0x3FFF#22, .br 0 0 true 0#22, .br 0 0 false (-1), .br 0 0 false 0x4000#22], ready i (at_ i) 4) ∧
    (∀ x ∈ [0x3FFF, 0x4000], let s := at_ (.jr 0 0 4) [(4, BitVec.ofNat 32 x)]; ready (.jr 0 0 4) s 4 ∧ predOn s 0 0) ∧
    (let s := at_ (.tend 0 0); ready (.tend 0 0) s 4 ∧ predOn s 0 0 ∧ (coreOf s 0).refused = []) ∧
    (let s := at_ (.fret 0 0)
     ready (.fret 0 0) s 4 ∧ (coreOf s 0).refused = [] ∧ (coreOf s 0).frames = [] ∧ canRead s 0 (0x90020400 + 10) 2 ∧ canWrite s 0 (0x90020400 + 10) 2) := by
  delta ready issues canFetch spelt predOn canRead canWrite; and_intros <;> decide +kernel

/-- A unit at descriptor 64 with two children; sA picks child `n`, whose entry is `entry`; `depth` frames in the stack, room to spill up to
`room`. -/
def calling (n entry depth room : Nat) : State :=
  let s := running [0b110010_000_00000_00100_0000000000000#32] [(4, BitVec.ofNat 32 n)]
  let s := withBytes s 0x90000046 (leBytes 2 512 ++ [2#8, 0#8] ++ leBytes 2 128)
  let s := withBytes (withBytes s 0x90000080 (leBytes 2 256 ++ leBytes 2 0 ++ leBytes 4 32)) 0x90000100 (leBytes 4 0xABCD1234 ++ leBytes 2 entry ++ leBytes 2 64)
  let s := withWord s 0x90020424 0xABCD1234#32
  withCore s { coreOf s 0 with desc := 64, frames := List.replicate depth ⟨12, 0x90020100#32, 0⟩, spillPtr := 0x90030000, spillEnd := room }

/-- The checks of a call of child 0 pass there. -/
def callable (s : State) : Prop :=
  cleanRead s 0 0x90000040 8 ∧ cleanRead s 0 0x90000048 8 ∧ (rdByte s 0x90000048).toNat = 2 ∧ rd16 s 0x9000004A = 128 ∧ rd16 s 0x90000080 = 256 ∧
    (∀ j ∈ [0xD, 0xE, 0xF], rdByte s (0x90000100 + j) = 0#8) ∧ rd32 s 0x90000084 = 32#32 ∧ 32 + rd16 s 0x90000106 ≤ rd16 s 0x90000046 ∧
    rd32 s 0x90020424 = rd32 s 0x90000100 ∧ cleanRead s 0 0x90000080 8 ∧ cleanRead s 0 0x90000100 8 ∧ cleanRead s 0 0x90000108 8 ∧
    cleanRead s 0 0x90020424 4

theorem test_meets_CallsAndReturns :
    (∀ x ∈ [(0x3FFF, 15, 0x90030000), (0x3FFF, 16, 0x90030008), (0x3FFF, 16, 0x90030007), (0x4000, 0, 0x90030000)],
      let s := calling 0 x.1 x.2.1 x.2.2
      ready (.fcall 0 0 4 0#8) s 4 ∧ predOn s 0 0 ∧ fetched s 0 4 = s ∧ rd16 s 0x90000104 = x.1) ∧
    callable (calling 0 0x3FFF 16 0x90030008) ∧ callable (calling 0 0x4000 0 0) ∧
    canWrite (calling 0 5 16 0x90030008) 0 0x90030000 8 ∧
    (let s := calling 2 5 0 0; ready (.fcall 0 0 4 0#8) s 4 ∧ sget (coreOf s 0) 4 = 2#32) ∧
    (∀ x ∈ [0xFFFC, 0x10000], let s := at_ (.fret 0 0)
      let s := withCore s { coreOf s 0 with frames := [⟨x, 0x90020100#32, 0⟩] }
      ready (.fret 0 0) s 4 ∧ fetched s 0 4 = s ∧ (coreOf s 0).spilled = 0 ∧ cleanRead s 0 0x9002040A 2 ∧ rd16 s 0x9002040A % 2 = 0) ∧
    dataBase 0 ≤ (0x9003FFFF#32).toNat ∧ (0x9003FFFF#32).toNat < coreBase 1 := by
  delta ready issues canFetch spelt predOn callable cleanRead canRead canWrite; and_intros <;> decide +kernel

theorem test_meets_SpecialRegistersAndSignals :
    (∀ n ∈ [0, 1, 2, 3, 4, 5, 6, 7, 8, 9, 10, 11, 12, 13, 14, 15], let i := Instr.rdsr 0 0 2 (Fin.ofNat 16 n); ready i (at_ i) 4 ∧ predOn (at_ i) 0 0) ∧
    (∀ n ∈ [10, 11, 12], let i := Instr.wrsr 0 0 4 (Fin.ofNat 16 n); ready i (at_ i) 4) ∧
    (coreOf (at_ (.rdsr 0 0 2 14)) 0).spilled + (coreOf (at_ (.rdsr 0 0 2 14)) 0).frames.length < 65536 ∧
    (∀ i ∈ [Instr.fence 0 0, .evsig 0 0 15, .npost 0 0 4 3 0xEF#8, .npost 0 0 4 3 0xF0#8, .opf 0 0 2 0 0xFFF#12], ready i (at_ i) 4 ∧ predOn (at_ i) 0 0) ∧
    (let s := at_ (.opf 0 0 2 4 0xFFF#12) [(4, 1#32)]; ready (.opf 0 0 2 4 0xFFF#12) s 4 ∧ 4095 < (sget (coreOf s 0) 4).toNat + (0xFFF#12).toNat) := by
  delta ready issues canFetch spelt predOn; and_intros <;> decide +kernel

theorem test_meets_FetchPredicateAndIdle :
    -- p1 is 0 in these states
    (∀ i ∈ [Instr.add 0 1 2 4 6, .div 0 1 2 4 6, .addi 0 1 2 4 1#13, .fadd 0 1 2 4 6, .qmac 0 1 2 4 6, .ceq 0 1 1 4 6, .pand 0 1 1 1 1, .ldw 0 1 2 4 0#13,
        .stw 0 1 2 4 0#13, .ldg 0 1 2 4 0#13, .stg 0 1 2 4 0#13, .tmrTon 0 1 2 4 6 1, .edgeRising 0 1 2 4 1, .opf 0 1 2 4 0#12, .jr 0 1 4, .fcall 0 1 4 0#8,
        .fret 0 1, .rdsr 0 1 2 3, .wrsr 0 1 4 11, .tend 0 1, .fence 0 1, .evsig 0 1 3, .npost 0 1 4 0 0#8],
      ready i (at_ i) 4 ∧ (pget (coreOf (at_ i) 0) 1).getLsbD 0 = false) ∧
    (∀ i ∈ [Instr.li 0 1 2 5#32, .addx 0 1 2 4 5#32, .ldwx 0 1 2 4 5#32, .stwx 0 1 2 4 5#32], ready i (at_ i) 8) ∧
    (let s := at_ (.li 0 0 2 5#32) [] 0xFFFC; issues s 0 4 ∧ 0x10000 ≤ (coreOf s 0).pc + 4 ∧ spells (.li 0 0 2 5#32) 0 (rd32 s 0x9000FFFC) = true) ∧
    (let s := at_ (.add 0 0 2 4 6) [] 0x10000; (coreOf s 0).mode = .run ∧ (coreOf s 0).cutAt = none ∧ (coreOf s 0).pc = 0x10000) ∧
    (∀ w ∈ [0, 0xF8000000, 0xC4000001, 0xC4040000, 0xD4000000, 0xD400000A], let i := Instr.undefinedEncoding 0 (BitVec.ofNat 32 w); ready i (at_ i) 4) ∧
    (let s := at_ (.add 0 0 2 4 6)
     issues s 0 4 ∧ spells (.add 0 0 2 4 7) 0 (rd32 s 0x90000000) = false ∧ (coreOf s 1).mode ≠ .run) := by
  delta ready issues canFetch spelt; and_intros <;> decide +kernel

theorem test_meets_ExceptionRecordsAndEndsRun :
    let s := withForce (withCore open_ { mode := .run, pid := 31, task := 511 }) [(R.pcxExcCfg 31, 0#32)]
    (coreOf s 0).mode = .run ∧ (coreOf s 0).pid < 32 ∧ (coreOf s 0).task < 512 ∧ liveOf s (R.coreExc 0) = 0#32 ∧ (coreOf s 0).refused = [] ∧
      (∀ c ∈ [1, 2, 3, 4], reactionOf s 31 c = 0) ∧ fld (forceOf s (R.pcxExcCfg 31)) 15 8 = 0 := by
  and_intros <;> decide +kernel

/-! ### Registers, lanes, memory accesses: hypotheses met -/

/-- Lane 3 is configured with MIN_US = 1000, enabled, owned by partition 0, which runs; flag 3 of page 0 is its source. -/
def lane (op : Bool) : State :=
  let s := withForce ticking [(R.partEn, 1#32), (R.laneCfg 3, 0x800003E8#32), (R.laneSrc 3 0, 0x8003#32), (R.laneSrcC 3 0, 0xFFFF7FFC#32)]
  { s with trust := { s.trust with ready := true }, part := { s.part with owners := [(0x50003, 1)] }
           tsk := { s.tsk with parts := [(0, { pstate := .running, resumed := true })] }, tmx := { s.tmx with flags := [(3, op)], master := true } }

theorem test_meets_LanesFollowTheirConditions :
    holdWhy (lanesUpdate ticking) 0 ≠ 0 ∧ holdWhy (lanesUpdate (lane true)) 3 = 0 ∧ laneOp (lane true) 3 = true ∧
    holdWhy (lanesUpdate (lane false)) 3 = 0 ∧ laneOp (lane false) 3 = false ∧
    -- MIN_US over at the very instant, and one nanosecond before
    (let s := setLane (lane false) 3 { laneOf (lane false) 3 with drive := .operate, ever := true, since := 4999000000 }
     ¬((laneOf s 3).ever = true ∧ s.ltc < (laneOf s 3).since + fld (forceOf s (R.laneCfg 3)) 15 0 * 1000) ∧ holdWhy (lanesUpdate s) 3 = 0) ∧
    (let s := setLane (lane false) 3 { laneOf (lane false) 3 with drive := .operate, ever := true, since := 4999000001 }
     (laneOf s 3).ever = true ∧ s.ltc < (laneOf s 3).since + fld (forceOf s (R.laneCfg 3)) 15 0 * 1000) := by
  and_intros <;> decide +kernel

theorem test_meets_RegisterWritesByClass :
    -- TRUST_INT_EN, PWR_SFP (with status bits), PART_MODE, TIME_TICK_CFG, SYS_ID, PART_AV_COUNT, SYS_CLK_EVT
    (∀ x ∈ [(0xF001002C, RegClass.rw), (0xF0170040, .rw), (0xF0020000, .rs), (0xF0030040, .st), (0xF0000000, .ro), (0xF002005C, .rc), (0xF0000014, .w1c)],
      let s := open_
      inRegs x.1 = true ∧ x.1 % 4 = 0 ∧ regKey s 0 x.1 = x.1 ∧ admitted s sec x.1 true ∧ ownWrite sec x.1 1#32 (accessed s) = none ∧
        (rowOf x.1).map (·.cls) = some x.2 ∧ x.1 % 0x10000 < 0xFFE0) ∧
    (rowOf 0xF0170040).map (·.w1c) = some 0xF00 ∧ stLocked open_ 0xF0030040 = false ∧ stLocked ticking 0xF0030040 = true := by
  delta admitted; and_intros <;> decide +kernel

theorem test_meets_RegisterReads :
    ∀ x ∈ [0xF0000000, 0xF002005C], let s := open_
      inRegs x = true ∧ x % 4 = 0 ∧ regKey s 0 x = x ∧ admitted s sec x false ∧ ownRead sec x (accessed s) = none ∧
        (rowOf x).map (·.cls) = some (if x = 0xF0000000 then .ro else .rc) := by
  delta admitted; decide +kernel

theorem test_meets_MisshapenAccessesRefused :
    inRegs (0xF0000000#32).toNat = true ∧ (2 : Fin 9).val ≠ 4 ∧ inRegs (0xF0000001#32).toNat = true ∧ (0xF0000001#32).toNat % 4 ≠ 0 := by decide +kernel

theorem test_meets_RefusedCommandsAreViolations :
    evt open_ R.partEvt 0 = false ∧
    -- core 0 outside the secure world at registers of secure blocks, and at a resource it does not own
    regDenied open_ (accTag open_ non) R.trustCmd true = some 7 ∧ regDenied open_ (accTag open_ non) R.diagDumpCtrl true = some 7 ∧
    regDenied (withForce open_ [(R.partWorld, 0#32)]) (accTag open_ non) (R.laneCfg 31) true = some 6 := by
  and_intros <;> decide +kernel

theorem test_meets_MemoryAccesses :
    let t : Tag := ⟨false, 0, false, 0⟩
    let hole := 0x70000000
    up.mir.unsent = [] ∧ inRom 0x80000000 = false ∧ up.trust.dramDone = true ∧
    rangeDenied up t .write 0x8000003C 64 = none ∧ rangeDenied up t .fetch 0x80000000 4 = none ∧ eccOf (upsetAt up 0x80000000 0) 0x80000000 4 = 0 ∧
    2 ≤ eccOf (upsetAt up 0x80000000 2) 0x80000000 4 ∧ (rangeDenied up t .read hole 4).isSome ∧ (rangeDenied up t .write hole 4).isSome := by
  and_intros <;> decide +kernel

/-! ### Commits, meridian, resets, start-up and supply: hypotheses met -/

/-- A set of the lanes' block (14) committed at the start. -/
def set3 : PendSet := { vals := [(R.laneCfg 3, 0x80000005#32)], owners := [], written := [R.laneCfg 3], foreign := none, tag := 7, at_ := 0 }
/-- Commit states of block 14: being checked, pending. -/
def checking (s : State) (ps : PendSet) : State := setCommit s 14 { checking := [ps] }
def pending (s : State) (ps : PendSet) : State := setCommit s 14 { pend := some ps }

theorem test_meets_Commits :
    let late := { ticking with ltc := 4999999500, now := 4999999500, time := { ticking.time with tickSec := 4, tick := 4799, tickStart := 4999791666 } }
    let foreign := { set3 with writers := [(R.laneCfg 3, ⟨false, 3, false, 0⟩)] }
    admitted up sec (R.base 14 + 0xFFE4) true ∧
    cancelLate (pending up set3) set3 = false ∧ cancelLate (pending late set3) set3 = true ∧
    (commitOf up 14).checking = [] ∧ (commitOf (checking up set3) 14).checking = [set3] ∧
    checkSet (checking up set3) 14 set3 = none ∧ checkSet (checking up set3) 14 { set3 with foreign := some (R.laneCfg 3) } = some (4, 0x10C0) ∧
    up.time.tickRun = false ∧ ticking.time.tickRun = true ∧
    -- 512 ns after the COMMIT, without and with a writer that lost the resource
    (let s := { pending up set3 with now := 512 }
     (commitOf s 14).pend = some set3 ∧ (commitOf s 14).checking = [] ∧ set3.at_ + 512 ≤ s.now ∧ recheck (setCommit s 14 {}) 14 set3 = none ∧
       (recheck (setCommit s 14 {}) 14 foreign).isSome) := by
  delta admitted; and_intros <;> decide +kernel

theorem test_meets_MeridianOrder :
    let silent := { ticking with mir := { ticking.mir with role := .standby, lbCount := 2, mlCount := 2 } }
    let hear := { ticking with mir := { ticking.mir with role := .listen, lbCount := 2, mlCount := 2, listen := listenTicks ticking } }
    up.time.tickRun = false ∧ ticking.time.tickRun = true ∧ up.time.startPend = none ∧
    ({ up with time := { up.time with startPend := some 1000000000 } }).time.startPend = some 1000000000 ∧
    ({ up with pwr := { up.pwr with saveDue := true } }).pwr.saveDue = true ∧ up.pwr.saveDue = false ∧
    silent.time.tickRun = true ∧ silent.mir.lbHeard = false ∧ silent.mir.mlHeard = false ∧ hear.mir.role = .listen ∧ hear.mir.lbHeard = false ∧
      hear.mir.mlHeard = false ∧ listenTicks hear ≤ hear.mir.listen + 1 := by
  and_intros <;> decide +kernel

theorem test_meets_ResetsAndWipes :
    let fresh := { up with trust := { up.trust with sramDone := false, dramDone := false } }
    admitted up sec R.sysRstReq true ∧ soleCause up ∧ (true && false) = false ∧
    ({ up with trust := { up.trust with wdog := some 0 } }).trust.wdog = some 0 ∧ up.sys.released = true ∧ up.trust.wdog = none ∧
    fresh.sys.released = true ∧ fresh.trust.sramDone = false ∧ fresh.trust.dramDone = false ∧ fresh.trust.stage ≠ 2 ∧
    ({ fresh with trust := { fresh.trust with stage := 2 } }).trust.stage = 2 ∧ fresh.mir.unsent = [] ∧ up.trust.sramDone = true ∧ up.trust.dramDone = true := by
  delta admitted soleCause; and_intros <;> decide +kernel

/-- Power is good, reset not yet released; the identity record's copies hold `a` and `b`, the pending transition `x`. -/
def holding (a b x : Word) : State :=
  let s := { open_ with pwr := { open_.pwr with on := true, good := true } }
  let put := fun (s : State) (at_ : Nat) (w : Word) => withBytes s at_ (leBytes 8 (guarded w).toNat)
  put (put (put s (idCopy false) a) (idCopy true) b) (idCopy false + 8) x

theorem test_meets_StartUp :
    (({ open_ with pwr := { open_.pwr with on := false } }).pwr.on = false ∧ up.pwr.on = true ∧ open_.sys.released = false) ∧
    (let s := holding 0x100#32 0x100#32 0x101#32
     s.sys.released = false ∧ s.pwr.good = true ∧ s.mir.unsent = [] ∧ idOkCopy s false = idOkCopy s true ∧ lcPending s = some 1) ∧
    -- never written: BLANK; PROV blown and no copy: no state
    (let s := holding 0#32 0#32 0#32; idOkCopy s false = idOkCopy s true ∧ lcPending s = none ∧ (lcDerive s).isSome) ∧
    (let s := { holding 9#32 9#32 0#32 with trust := { open_.trust with prov := true } }
     idOkCopy s false = idOkCopy s true ∧ lcPending s = none ∧ lcDerive s = none) ∧
    (let s := withWord (holding 1#32 1#32 0#32) (idCopy true) 5#32; idOkCopy s false = true ∧ idOkCopy s true = false) ∧
    (let s := { up with time := { up.time with tickRun := true }, pwr := { up.pwr with capUf := 2300, vstMv := 48000 } }
     s.diag.bistOk = true ∧ storeOk s = true ∧ s.trust.halted = false ∧ s.pwr.fail = false ∧ progsReady s = true ∧ s.trust.lc = .provisioned) ∧
    storeOk up = false ∧ ({ up with trust := { up.trust with transit := some 1 } }).trust.transit = some 1 ∧ up.trust.transit = none := by
  and_intros <;> decide +kernel

/-- A supply state: PWR_FAIL asserted and the phase. -/
def supply (fail : Bool) (ph : Phase) (due : Bool) : State :=
  { up with pwr := { up.pwr with fail := fail, phase := ph, saveDue := due }, trust := { up.trust with ready := true } }

theorem test_meets_SupplyAndTwilight :
    let th := fld (forceOf up R.pwrCfg) 6 0 * 100
    th + 500 ≤ (65535#16 : Half).toNat ∧ (0#16 : Half).toNat < th ∧ up.pwr.fail = false ∧
    (supply true .normal false).pwr.fail = true ∧ soleCause up ∧ (supply true .ride false).pwr.saveDue = false ∧ (supply true .ride true).pwr.saveDue = true ∧
    (supply false .save false).now ≤ ({ supply false .save false with pwr := { up.pwr with saveAt := 5000000000 } }).pwr.saveAt ∧
    (22000#16 : Half).toNat ≤ 22000 ∧ ¬((supply true .hand false).mir.role = .holder ∧ (supply true .hand false).mir.ptnrReady = true) ∧
    (supply false .hand false).pwr.phase = .hand ∧ up.pwr.good = true ∧ up.mir.unsent = [] := by
  delta soleCause; and_intros <;> decide +kernel

theorem test_meets_BoardSignals :
    let s := withShadow up [(R.pwrSfp, 8#32)]
    bit (shadowOf s R.pwrSfp) 3 = true ∧ bit (shadowOf s R.pwrSfp) 0 = false ∧ up.pwr.handle = false ∧ up.pwr.handle2 = false ∧ up.pwr.ptnr = false ∧
    105 ≤ (105#8).toInt ∧ ¬105 ≤ (104#8).toInt ∧ 62000 < (62001#16).toNat ∧ ¬62000 < (62000#16).toNat ∧ admitted up sec R.pwrOpsecLo false := by
  delta admitted; and_intros <;> decide +kernel

/-! ### TRUST, partitions, time: hypotheses met. What rests on a signature or a tag (`Config.verifies`, `Config.crypt`) has no decidable
witness: those constants have no value. -/

/-- Secure memory at 0x80000000, TRUST_ARG3 to 0 = `d`, `c`, `b`, `a`. -/
def vault (lc : Lc) (a b c d : Nat) : State :=
  let s := withShadow (withForce up [(R.regAttr 0, 0x11F#32)])
    [(R.trustArg 0, word a), (R.trustArg 1, word b), (R.trustArg 2, word c), (R.trustArg 3, word d)]
  { s with trust := { s.trust with lc := lc } }

theorem test_meets_TrustCommands :
    let s := vault .maintenance 0x8010000 1 0x8020000 3
    (∀ ok ∈ [lcNotDecom, lcNotBlank, lcAll, fun l => l == .maintenance], trustMay s sec ok) ∧
    (secureBuf s (targA s 0) 0x2000 = true ∧ dmaMay s (trustTag s) .read (targA s 0) 32 ∧ targ s 1 ≤ 2 ∧ targ s 3 ≤ 3) ∧
    imgErr (rdBytes s (targA s 0) 64) [] (verifyHashes s).1 [1, 2, 3, 4, 5] s.trust.svn = 4 ∧
    secureBuf (vault .maintenance 0x7000000 0 0 0) 0x70000000 0x2000 = false ∧
    secureBuf s (targA s 0) (targ s 1) = true ∧ dmaMay s (trustTag s) .write (targA s 2) 32 ∧
    (fuseKind 1).find? (fun n => fuseEmpty (fuseOf s n)) = some 4 ∧
    (let u := { s with trust := { s.trust with fuses := (List.range 8).map fun i => (i, { hash := [1#8], valid := true }) } }
     (∀ n ∈ fuseKind 1, fuseEmpty (fuseOf u n) = false) ∧ ¬(usableHashes u 1).length = 1) ∧
    (let u := { s with trust := { s.trust with fuses := [(7, { hash := [1#8], valid := true })] } }
     fuseUsable (fuseOf u 7) = true ∧ (usableHashes u 1).length = 1) ∧
    (let u := vault .blank 0x8010000 4 0x8020000 4
     let u := { u with trust := { u.trust with stage := 2 } }
     trustMay u sec lcAll ∧ provisioning u = true ∧ secureBuf u (targA u 0) (32 * 4) = true ∧ (∀ i, i < 8 → fuseEmpty (fuseOf u i) = true) ∧ soleCause u ∧
       u.mir.unsent = []) ∧
    (let u := vault .blank 0x8010000 4 0x8020000 4
     ∀ i, i < 4 → dmaMay u (trustTag u) .read (targA u 0 + 32 * i) 32 ∧ dmaMay u (trustTag u) .read (targA u 2 + 32 * i) 32) := by
  delta trustMay admitted dmaMay soleCause; and_intros <;> decide +kernel

theorem test_meets_TrustKeysAndLifecycle :
    let s := vault .operational 1 0 4 5
    let ent : KsEnt := { st := 1, type_ := 1, target := 4, keyId := 3#32, key := [1#8] }
    let held := { s with trust := { s.trust with keyreg := some { entry := 0, target := 1, key := [3#8] } } }
    trustMay s sec lcKeys ∧ held.trust.keyreg ≠ none ∧ s.trust.keyreg = none ∧ (ksOf s 0).st = 0 ∧
    (ksOf { s with trust := { s.trust with ks := [(0, { ent with st := 2 })] } } 0).st = 2 ∧ (ksOf { s with trust := { s.trust with ks := [(0, ent)] } } 0).st = 1 ∧
    eccIn s (ksAddr 0) 256 = [] ∧
    targ held 0 % 256 = 1 ∧ targ held 0 / 256 % 256 < engSlots 1 ∧ targ (vault .operational 0x2001 0 0 0) 0 / 256 % 256 = engSlots 1 ∧
    targ (vault .operational 2 0 0 0) 0 % 256 ≠ 1 ∧
    targ s 0 = 1 ∧ 1 ≤ targ s 2 ∧ targ s 2 ≤ 4 ∧ ksFree s = some 0 ∧ typeOk (targ s 2) (targ s 0) = true ∧
    ksFree { s with trust := { s.trust with ks := (List.range 256).map fun i => (i, ent) } } = none ∧
    (let u := vault .operational 0x8010000 0 0 0
     secureBuf u (targA u 0) 5843 = true ∧ dmaMay u (trustTag u) .read (targA u 0) 1168 ∧ u.trust.session = none ∧
       (pkgErr u (rdBytes u (targA u 0) 1168) ⟨1#32, 0, []⟩).1 = 0x0D ∧ lcErr u (rdBytes u (targA u 0) 64) = 0x11) ∧
    secureBuf s (targA s 0) 5843 = false ∧
    (∀ x ∈ [1, 64], 1 ≤ targ (vault .operational x 0 0 0) 0 ∧ targ (vault .operational x 0 0 0) 0 ≤ 64) ∧ 64 < targ (vault .operational 65 0 0 0) 0 ∧
    targ s 0 < ({ s with trust := { s.trust with svn := 2 } }).trust.svn ∧ s.trust.svn ≤ targ s 0 := by
  delta trustMay admitted dmaMay; and_intros <;> decide +kernel

theorem test_meets_TrustFrame :
    ({ up with trust := { up.trust with cmd := some (0, 0) } }).trust.cmd = some (0, 0) ∧ up.trust.cmd = none ∧
    ({ up with trust := { up.trust with session := some ⟨1#32, 0, []⟩ } }).trust.session = some ⟨1#32, 0, []⟩ ∧ up.trust.session = none ∧
    admitted up sec R.trustWdogKick true ∧ fld 0x0D06#32 15 0 = 0x0D06 ∧ fld 0#32 15 0 ≠ 0x0D06 ∧ admitted up sec R.trustCmd true ∧
    up.diag.bist ≠ some 2 ∧ (vault .decommissioned 0 0 0 0).trust.lc = .decommissioned ∧ (vault .blank 0 0 0 0).trust.lc = .blank ∧
    up.trust.lc ≠ .maintenance ∧ provisioning up = false := by
  delta admitted; and_intros <;> decide +kernel

theorem test_meets_MediationAndHostQueues :
    let med := withForce up [(R.partMode, 1#32)]
    let arg := fun (first n : Nat) => withShadow med [(R.partMedArg, word (n * 0x10000 + first))]
    let q := fun (l : List Word) => { up with part := { up.part with hnq := [(0, { q := { items := l, rd := 0, rdC := 0, wr := l.length % 256, wrC := l.length % 256 } })] } }
    admitted up sec R.partMedCmd true ∧ bit (forceOf up R.partMode) 0 = false ∧ bit (forceOf med R.partMode) 0 = true ∧
    (9 ≤ (9 : Fin 16).val ∧ (8 : Fin 16).val < 9) ∧
    -- the last range of type 5 that fits, and the first that does not
    (let w := shadowOf (arg (kindCount 5 - 1) 1) R.partMedArg; fld w 15 0 + fld w 31 16 ≤ kindCount 5) ∧
    (let w := shadowOf (arg (kindCount 5) 1) R.partMedArg; kindCount 5 < fld w 15 0 + fld w 31 16) ∧
    admitted up sec (R.hnqPop 0) false ∧ admitted up sec (R.hnqPopTag 0) false ∧ qOk (hnqOf (q [1#32]) 0).q = true ∧
    (hnqOf (q [1#32]) 0).q.items ≠ [] ∧ (hnqOf (q []) 0).q.items = [] ∧ qOk (hnqOf (q []) 0).q = true ∧
    (hnqOf (q (List.replicate 255 1#32)) 0).q.items.length < 256 ∧ (hnqOf (q (List.replicate 256 1#32)) 0).q.items.length = 256 ∧
    qOk (hnqOf (q (List.replicate 256 1#32)) 0).q = true := by
  delta admitted; and_intros <;> decide +kernel

/-- The binary inputs' and the transmit queues: `n` stamps each. -/
def stamped (n : Nat) : State :=
  let q : StampQ := { q := { items := List.replicate n { id := 1, rise := true, at_ := 0, put := 0 }, rd := 0, rdC := 0, wr := n, wrC := n } }
  setStampQ (setStampQ up 3 q) 4 q

theorem test_meets_StampQueuesAndBinaryInputs :
    admitted up sec (R.txqPop0 3) false ∧ admitted up sec R.biqPop0 false ∧ admitted up sec (R.txqCtrl 3) true ∧ admitted up sec R.biqCtrl true ∧
    (∀ n ∈ [3, 4], qOk (stampQ (stamped 1) n).q = true ∧ (stampQ (stamped 1) n).q.items.length = 1 ∧ qOk (stampQ (stamped 0) n).q = true ∧
      (stampQ (stamped 0) n).q.items = []) ∧
    (pinOf up 15).wait = none ∧ (pinOf up 15).raw = false ∧
    (let s := setPin up 15 { raw := true, wait := some (5, 1) }; (pinOf s 15).wait = some (5, 1) ∧ s.now < 1 ∧ (pinOf s 15).raw = true) := by
  delta admitted; and_intros <;> decide +kernel

/-- A frame in which a Sync message (`kind` 0) of domain `d` stands, or another PTP message. -/
def ptp (kind d : Nat) (flags log : Nat) (body : List Byte) : EthFrame :=
  ⟨if kind = 2 ∨ kind = 3 then 0x0180C200000E#48 else 0x011B19000000#48, 6#48, none, 0x88F7#16,
    beBytes 1 kind ++ beBytes 1 2 ++ beBytes 2 (34 + body.length) ++ beBytes 1 d ++ [0#8] ++ beBytes 1 flags ++ [0#8] ++ List.replicate 12 0#8 ++
      beBytes 8 7 ++ beBytes 2 1 ++ beBytes 2 9 ++ [0#8] ++ beBytes 1 log ++ body, none, true, true, true⟩

/-- The item of frame `f`, for consumer `d`, waits at port 0. -/
def waiting (s : State) (d : Nat) (f : EthFrame) : State :=
  { s with net := { s.net with items := [{ mac := 0, dest := d, stamp := 1280000000000, first := s.now, end_ := s.now, err := 0, beats := 4, frame := f }] } }

theorem test_meets_PtpMessages :
    let dom := withShadow ticking [(R.domCtrl 0, 1#32), (R.domCfg 0, 0#32), (R.domCfg 1, 0x201#32)]
    let body := List.replicate 10 0#8
    (itemNext dom 0 3).1 = none ∧
    (∀ x ∈ [(0, 2), (0, 0), (8, 0), (2, 0), (9, 0)], (itemNext (waiting dom 3 (ptp x.1 0 x.2 0 (List.replicate 20 0#8))) 0 3).1.isSome) ∧
    (match ptpOf (ptp 0 0 2 0 body) with | .sync x => x.twoStep && x.logInt == 0 | _ => false) = true ∧
    (match ptpOf (ptp 0 0 0 0 body) with | .sync x => !x.twoStep | _ => false) = true ∧
    (match ptpOf (ptp 8 0 0 0 body) with | .followUp _ => true | _ => false) = true ∧
    (match ptpOf (ptp 2 0 0 0 (body ++ body)) with | .pdelayReq _ => true | _ => false) = true ∧
    (match ptpOf (ptp 0xB 0 0 0 (List.replicate 30 0#8)) with | .announce z => z.logInt == 0 | _ => false) = true ∧
    (match ptpOf (ptp 3 0 0 0 (body ++ body)) with | .pdelayResp r => !r.twoStep | _ => false) = true ∧
    ptpOf (ptp 9 0 0 0 body) = .other ∧ domFor dom 0 0#8 0 = true ∧ domFor dom 0 0#8 1 = false ∧ ticking.time.tickRun = true ∧ ptpPortOn dom 0 = true := by
  and_intros <;> decide +kernel

theorem test_meets_TimeSources :
    let frame : IrigFrame := ⟨7, true, 1, 0, 0, 5, 26, 5⟩
    let locked := { up with ltc := 500000000, irig := { up.irig with locked := true, off := some 0 }, pps := { up.pps with locked := true } }
    admitted up sec (R.domCtrl 1) true ∧ bit (shadowOf up (R.domCtrl 1)) 0 = false ∧ bit (shadowOf (withShadow up [(R.domCtrl 1, 1#32)]) (R.domCtrl 1)) 0 = true ∧
    mget none ({ up with time := { up.time with since := [(2, some 0)] } }).time.since 2 = some 0 ∧ fld (forceOf up R.timeCfg) 31 24 ≠ 0 ∧
    2 ∈ (ranking up).takeWhile (· ≠ up.time.lodestar) ∧
    ({ up with time := { up.time with holdAt := some 0, lodestar := 7 } }).time.holdAt = some 0 ∧
    (srcOff { locked with time := { up.time with slewing := true, lodestar := 2 } } 2).isSome ∧ fld (forceOf up R.timeCfg) 15 8 ≠ 0 ∧
    admitted up sec R.timeCtrl true ∧ irigGood frame = true ∧ irigGood { frame with good := false } = false ∧ locked.irig.locked = true ∧
    ((slewPull locked).pps.locked && ppsOut (slewPull locked)) = true ∧ ((slewPull up).pps.locked && ppsOut (slewPull up)) = false ∧
    admitted up sec R.timeTickCtrl true ∧ up.time.startPend = none ∧ up.time.tickRun = false ∧ ticking.time.stopPend = false ∧ forceOf up R.partEn = 0#32 ∧
    forceOf (withForce up [(R.partEn, 1#32)]) R.partEn ≠ 0#32 ∧ admitted up sec R.timeNowNs false := by
  delta admitted; and_intros <;> decide +kernel

/-! ### Memory form and ports: hypotheses met -/

theorem test_meets_StepKeepsMemoryForm : memOk State.reset ∧ memOk up := by
  delta memOk; and_intros <;> decide +kernel

theorem test_meets_RegisterTables : (0 : Nat) < 32 ∧ 31 < 32 := by decide

/-- Port `m` is on and its link is up; its state is changed by `g`. -/
def port (m : Nat) (g : MacSt → MacSt := id) : State :=
  let s := withShadow up [(R.macCtrl m, 3#32), (R.macCfg m, 0x800005EE#32), (R.rxrCfg m 0, 200#32), (R.rxrCtrl m 0, 1#32), (R.txrCfg m 0, 40#32)]
  setMac { s with now := 1000000, ltc := 1000000 } m (g { blockLock := true, fecLock := true, link := true })

theorem test_meets_PortsAndRings :
    let s := port 0
    let off := withShadow s [(R.macCtrl 0, 0#32)]
    (∀ v, ({ link := v : MacSt }).link = v) ∧ (macOf (port 4) 4).link = true ∧
    admitted s sec (R.macCtrl 4) true ∧ macOn s 0 = true ∧ macOn off 0 = false ∧ macCfgOk off 0 = true ∧
      macCfgOk (withShadow off [(R.macCfg 0, 0#32)]) 0 = false ∧
    admitted s sec (R.macSfpCmd 3) true ∧ bit 0x80000000#32 31 = true ∧ (macOf s 0).sfpBusy = false ∧
      (macOf (port 0 fun x => { x with sfpBusy := true }) 0).sfpBusy = true ∧
    admitted s sec (R.rxrCtrl 4 7) true ∧ ringOk (rxRing s 0 7) = true ∧ ¬((4 : Fin 5).val = 4 → (7 : Fin 8).val = 0) ∧
    admitted s sec (R.txrCtrl 4 1) true ∧ ringOk (txRing s 4 0) = true ∧ ¬((4 : Fin 5).val = 4 → (1 : Fin 2).val = 0) ∧
    admitted s sec (R.txrWr 0 1) true ∧ bit (shadowOf s (R.txrCtrl 0 1)) 0 = false := by
  delta admitted; and_intros <;> decide +kernel

/-- A frame of 46 payload bytes, with the given redundancy. -/
def ether (red : Option RedTag) : EthFrame := ⟨0x020304050607#48, 0x0A0B0C0D0E0F#48, none, 0x800#16, List.replicate 46 7#8, red, true, true, true⟩
def lre (s : State) (p md : Nat) (f : LreSt → LreSt := id) : State :=
  let s := withShadow s [(R.macLreCfg (2 * p), word md)]
  setLre s p (f (lreOf s p))

theorem test_meets_FrameReception :
    let s := port 2
    let f := ether none
    let prp : RedTag := ⟨false, 10, 52, true, 3#16⟩
    let first := s.now - frameNs s 2 (wireLen f)
    let seen := steer s first 2 (asSeen s 2 f)
    macOn s 2 = true ∧ (macOf s 2).link = true ∧ lbNear s 2 = false ∧ (macOf s 2).onAt ≤ first ∧ (macOf s 2).upAt ≤ first ∧
    ¬(hsrOther s 2 (asSeen s 2 f) = true) ∧ seen.dest = 8 ∧ ringOk (rxRing s 2 0) = true ∧ (lreOf s 1).lastB = none ∧
    rxDrop s 2 (asSeen s 2 f) seen false false = none ∧ rxDrop s 2 { asSeen s 2 f with fcsOk := false } seen false false = some 1 ∧
    -- a PRP frame whose copy ended at the other port within this cycle
    (let u : RxUndo := { at_ := s.now - 50, end_ := s.now, mac := 3, sa := 0x0A0B0C0D0E0F, seq := 3, dest := 8, beats := 3 }
     let s := lre s 1 1 fun l => { l with lastB := some u }
     let f := ether (some prp)
     let g := asSeen s 2 f
     let t := steer s (s.now - frameNs s 2 (wireLen f)) 2 g
     lreMode s 2 = 1 ∧ (lreOf s 1).lastB = some u ∧ u.end_ / 4 = s.now / 4 ∧ u.sa = g.sa.toNat ∧ (g.red.map fun r => r.seq.toNat) = some u.seq ∧
       t.dest = 8 ∧ ringOk (rxRing s 2 0) = true ∧ rxDrop s 2 g t false false = none) ∧
    -- an HSR frame to another station
    (let s := lre s 1 2
     let g := asSeen s 2 (ether (some { prp with hsr := true }))
     hsrGoesOn s 2 g = true ∧ hsrOther s 2 g = true ∧ g.sa.toNat ≠ macAddr s 2 ∧
       dupHas (fresh s.now (lreOf s 1).fwd) g.sa.toNat 3 = false ∧
       dupHas (fresh s.now (lreOf (lre s 1 2 fun l => { l with fwd := [{ sa := 0x0A0B0C0D0E0F, seq := 3, at_ := s.now }] }) 1).fwd) g.sa.toNat 3 = true) ∧
    lbNear (withForce s [(R.diagLbMac, 0x1111#32)]) 2 = true ∧ heldAt (macOn (port 2) 2) s.now 0 first = false := by
  and_intros <;> decide +kernel

/-- A frame of `n` payload bytes waits for port 0. -/
def queued (n : Nat) : State :=
  let s := port 0
  { s with net := { s.net with txq := [{ port := 0, cls := 1, order := 0, from_ := 0, body := .forward { ether none with payload := List.replicate n 7#8 } 5 }] } }

/-- Nothing waits but an item of `n` bytes in transmit ring 0 of port 0. -/
def ringItem (n : Nat) : State :=
  let s := withShadow (port 0 fun x => { x with tx := [(0, { wr := 10, wrC := 10 })] }) [(R.txrCtrl 0 0, 1#32), (R.txrBaseLo 0 0, 0x80000000#32)]
  withBytes s 0x80000000 (leBytes 4 (0xA5000000 + n) ++ leBytes 4 0 ++ List.replicate 64 1#8)

theorem test_meets_FrameTransmission :
    let may := fun s : State => bit (shadowOf s (R.macCtrl 0)) 0 = true ∧ bit (shadowOf s (R.macCtrl 0)) 1 = true ∧ (macOf s 0).link = true ∧ lbMac s 0 = 0
    let fr := fun (s : State) => (txPick s 0).map fun x => wireLen (txFrame s x none .sent (txStamp s 0 0))
    bit (shadowOf (withShadow (port 0) [(R.macCtrl 0, 2#32)]) (R.macCtrl 0)) 0 = false ∧
    (may (queued 46) ∧ fr (queued 46) = some 64 ∧ 64 ≤ maxLen (queued 46) 0) ∧ (may (queued 1501) ∧ fr (queued 1501) = some 1519 ∧ maxLen (queued 1501) 0 = 1518) ∧
    (let s := ringItem 60
     let c := each (ringOrder s 0) s fun x s => txClean s x.1 x.2
     may s ∧ txPick s 0 = none ∧ (ringOrder c 0).find? (ringFits c 0 .sent) = some (0, 0) ∧
       wireLen (txFrame c (ringTake c 0 0 0).1 none .sent (txStamp c 0 0)) ≤ maxLen s 0) ∧
    (may (port 0) ∧ txPick (port 0) 0 = none ∧ (ringOrder (port 0) 0).find? (ringFits (port 0) 0 .sent) = none) ∧
    (let s := withForce (lre (port 0) 0 1) [(R.macSupCfg 0, 0x80000005#32)]
     bit (forceOf s (R.macSupCfg 0)) 31 = true ∧ lreMode s 0 = 1 ∧ macOn s 0 = true) ∧ lreMode (port 0) 0 = 0 ∧
    (let d : DupEnt := { sa := 7, seq := 3, at_ := 5 }
     (lreOf (lre (port 0) 0 1 fun l => { l with dup := [d] }) 0).dup = [d]) := by
  and_intros <;> decide +kernel

/-! ### Sampled values, releases, runs: hypotheses met -/

/-- Context 3 takes stream 'AB' with APPID 0x4001 for group 7, 4 channels, authentication as `auth` says; its state is `y`. -/
def stream (auth : Nat) (y : Ctx) : State :=
  let s := withForce ticking [(R.ctxCfg 3, word (0x80070403 + auth * 0x20000000)), (R.ctxId 3, 0x40010002#32), (R.ctxSvidCrc 3, crc32 [65#8, 66#8]), (R.ctxConfrev 3, 9#32),
    (R.grpCfg 7, 0x80300000#32)]
  { s with ltc := 5000001000, now := 1000000, siu := { s.siu with ctxs := [(3, y)], grps := [(7, { on := true, next := some 2, nextC := some 2 })] }
           part := { s.part with owners := [(0x10003, 1), (0x20007, 1)] } }
/-- An ASDU of that stream and the frame that holds it, as an item that waits. -/
def asdu (confRev : Word) (n : Nat) : SvAsdu := ⟨[65#8, 66#8], 0#16, confRev, 2#8, none, (List.range n).map fun i => (word i, 0#32), 0⟩
def svEther (sim : Bool) (xs : List SvAsdu) : EthFrame := frameOf 5 6 none 0x88BA (pduBytes 0x4001 sim (svPduBytes xs) none)
def svItem (f : EthFrame) : RxItem := { mac := 0, dest := 1, stamp := 5000000900 * 256, first := 999900, end_ := 1000000, err := 0, beats := 5, frame := f }
def svFrameOf (sim : Bool) (xs : List SvAsdu) : SvFrame := ⟨0x4001#16, sim, xs, none⟩
def ctx0 : Ctx := { st := .run, com := [], newest := 0, newestC := 0, rel := 0, relC := 0, placing := .count }

theorem test_meets_SampledValueFrames_frame :
    let s := stream 0 ctx0
    let x := asdu 9#32 4
    let f := svFrameOf false [x]
    let put := fun i : RxItem => { s with net := { s.net with items := [i] } }
    (itemNext s 0 1).1 = none ∧ (itemNext (put (svItem (svEther false [x]))) 0 1).1 = some (svItem (svEther false [x])) ∧
    svParse (ether none) = none ∧ svParse (svEther false [x]) = some f ∧ svParse (svEther false []) ≠ some f ∧
    ctxCfg s 3 = 0x80070403#32 ∧ svMatch s 0 f x = some 3 ∧ svMatch s 0 f { x with svId := [1#8] } = none ∧
    x.confRev = forceOf s (R.ctxConfrev 3) ∧ (8#32 : Word) ≠ forceOf s (R.ctxConfrev 3) ∧ x.data.length = ctxN s 3 ∧ (asdu 9#32 5).data.length ≠ ctxN s 3 ∧
    x.smpCnt.toNat < ctxRate s 3 ∧ ctxRate s 3 ≤ (65535#16 : Half).toNat ∧
    (999900 : Nat) < ({ ctx0 with flushAt := 999901 } : Ctx).flushAt ∧ ctx0.flushAt ≤ 999900 ∧
    bit (forceOf s R.siuSimAcc) 0 = false ∧ bit (forceOf (withForce s [(R.siuSimAcc, 1#32)]) R.siuSimAcc) 0 = true ∧ ownerOf s 1 3 = some 0 ∧
    fld (ctxCfg (stream 1 ctx0) 3) 30 29 = 1 ∧ svAuthOk (stream 1 ctx0) 3 f 999900 = false ∧ fld (ctxCfg (stream 2 ctx0) 3) 30 29 = 2 ∧
    fld (ctxCfg s 3) 30 29 = 0 := by
  and_intros <;> decide +kernel

theorem test_meets_SampledValueFrames_place :
    let s := stream 0 ctx0
    let x := asdu 9#32 4
    let a := placeCount (ctxRate s 3) 0 5000000900
    let y := { ctx0 with rel := a - 1, relC := a - 1 }
    ctxPtrOk ctx0 = true ∧ syncClass x.synch ≠ 0 ∧ (grpOf s (ctxGrp s 3)).on = true ∧ (grpOf s (ctxGrp s 3)).next ≠ none ∧
    (a ∉ y.com ∧ a ∉ y.done ∧ y.rel < a ∧ a ≤ y.rel + 120) ∧ s.mir.unsent = [] ∧
    (∀ j, j < 8 → dmaMay s (dmaTag s 9 (ownerOf s 1 3)) .write (sbAddr s 3 j a) 8) ∧
    a ∈ ({ y with com := [a] } : Ctx).com ∧ ¬(∃ e ∈ y.fromB, e.1 = a ∧ e.2 / 2 = s.now / 2) ∧
    (∃ e ∈ ({ y with fromB := [(a, 1000000)] } : Ctx).fromB, e.1 = a ∧ e.2 / 2 = s.now / 2) ∧
    a ≤ ({ y with rel := a } : Ctx).rel ∧ ({ y with rel := a - 121 } : Ctx).rel + 120 < a ∧
    2 ≤ ({ y with early := 2 } : Ctx).early ∧ y.early < 2 ∧
    -- finalising: committed or not, the last misses before the context is lost
    (ctx0.st = .run ∧ ctx0.runFrom ≤ 5 ∧ fld (forceOf s (R.grpCfg (ctxGrp s 3))) 27 20 ≤ min 255 (({ ctx0 with missRun := 2 } : Ctx).missRun + 1)) := by
  delta dmaMay; and_intros <;> decide +kernel

theorem test_meets_GroupReleaseAndPublishing :
    let y := { ctx0 with missRun := 2 }
    let s := stream 0 y
    let s := { s with ltc := 5002000000 }
    let pub := fun (src dest : Nat) (x : SvPub) => let s := withForce s [(R.pubCfg 5, word (0xC0000800 + src * 0x1000000 + dest * 0x4000000))]
      { s with svp := { s.svp with pubs := [(5, x)] } }
    let x : SvPub := { on := true, svId := [65#8], base := some 3, ready := [(3, 5)], next := 1 }
    ((grpOf s 7).on = true ∧ (grpOf s 7).next = some 2 ∧ (grpOf s 7).nextC = some 2 ∧ members s 7 ≠ []) ∧ (grpOf s 8).on = false ∧
    (y.st = .run ∧ fld (forceOf s (R.grpCfg (ctxGrp s 3))) 27 20 ≤ y.missRun + ctxK s 3) ∧
    (let y := { ctx0 with recov := 1, com := [1] }; 0 < y.recov ∧ y.recov ≤ ctxK s 3 ∧ y.rel + 1 ∈ y.com) ∧
    admitted s sec R.siuCtxFlush true ∧ (accTag { s with busErr := false } sec).secure = true ∧
    (let s := { withForce s [(R.partWorld, 0#32)] with part := { s.part with owners := [(0x10003, 2)] } }
     let t := accTag { s with busErr := false } non
     admitted s non R.siuCtxFlush true ∧ ¬(t.secure = true ∨ t.sys = true ∨ ownerOf s 1 3 = some t.pid.val)) ∧
    (ctxOf s (leadOf s 9)).st = .disabled ∧ (ctxOf s (leadOf s 3)).st ≠ .disabled ∧ ctxPtrOk (ctxOf s (leadOf s 3)) = true ∧
    (svPubOf (pub 0 0 x) 5).on = true ∧ pubHeld (pub 0 0 x) 5 = true ∧ pubHeld (withForce (pub 0 0 x) [(R.pubCfg 5, 0x80000800#32)]) 5 = false ∧
    (svPubOf s 5).on = false ∧ (svPubOf (pub 0 0 { x with ready := [] }) 5).ready = [] ∧
    fld (forceOf (pub 0 0 x) (R.pubCfg 5)) 25 24 ≠ 2 ∧ fld (forceOf (pub 2 0 x) (R.pubCfg 5)) 25 24 = 2 ∧
    fld (forceOf (pub 0 1 x) (R.pubCfg 5)) 27 26 < 2 ∧ fld (forceOf (pub 0 2 x) (R.pubCfg 5)) 27 26 = 2 ∧ fld (forceOf (pub 0 3 x) (R.pubCfg 5)) 27 26 = 3 := by
  delta admitted; and_intros <;> decide +kernel

/-! ### Coefficient banks: hypotheses met -/

/-- Byte `i` of a coefficient image whose entries are all 0, each with its complement (R286). -/
def imageByte (i : Nat) : Byte :=
  if i < 64 then [0x42#8, 0x43#8, 0x44#8, 0x4C#8, 1#8].getD i 0#8 else if i % 8 < 4 then 0#8 else 255#8
/-- That image at 0x80001000. -/
def bankImage : State := { up with mem := (List.range' 0 2304).map fun i => (0x80001000 + i, imageByte i) }

/-- A byte of a memory that lists every address of a range. -/
theorem mget_dense (f : Nat → Byte) (b k n : Nat) : ∀ a, a ≤ k → k < a + n → mget 0#8 ((List.range' a n).map fun i => (b + i, f i)) (b + k) = f k := by
  induction n with
  | zero => intro a; omega
  | succ n ih =>
    intro a ha hk
    simp only [List.range'_succ, List.map_cons, mget]
    split
    · rw [show a = k by omega]
    · exact ih (a + 1) (by omega) (by omega)

theorem rdBytes_bankImage (k n : Nat) (h : k + n ≤ 2304) :
    rdBytes bankImage (0x80001000 + k) n = (List.range n).map fun i => imageByte (k + i) := by
  refine List.map_congr_left fun i hi => ?_
  have := List.mem_range.mp hi
  rw [Nat.add_assoc]
  exact mget_dense imageByte _ _ _ 0 (by omega) (by omega)

theorem rd64_bankImage (k : Nat) (h : k + 8 ≤ 2304) :
    rd64 bankImage (0x80001000 + k) = BitVec.ofNat 64 (leNat ((List.range 8).map fun i => imageByte (k + i))) := by
  unfold rd64; rw [rdBytes_bankImage k 8 h]

theorem imageEnts_bankImage : imageEnts bankImage 0x80001000 = List.replicate 280 0xFFFFFFFF00000000#64 := by
  have e : ∀ k, k < 280 → BitVec.ofNat 64 (leNat ((List.range 8).map fun i => imageByte (64 + 8 * k + i))) = 0xFFFFFFFF00000000#64 := by
    decide +kernel
  have r : ∀ (n : Nat) (f : Nat → Nat), (∀ i, i < n → ∃ k, k < 280 ∧ f i = 0x80001000 + (64 + 8 * k)) →
      (List.range n).map (fun i => rd64 bankImage (f i)) = List.replicate n 0xFFFFFFFF00000000#64 := by
    intro n f hf
    rw [List.eq_replicate_iff]
    refine ⟨by simp, fun b hb => ?_⟩
    obtain ⟨i, hi, rfl⟩ := List.mem_map.mp hb
    obtain ⟨k, hk, h⟩ := hf i (List.mem_range.mp hi)
    rw [h, rd64_bankImage _ (by omega)]
    exact e k hk
  unfold imageEnts
  rw [r 128 _ fun i hi => ⟨2 * i, by omega, by omega⟩, r 128 _ fun i hi => ⟨2 * i + 1, by omega, by omega⟩,
    r 24 _ fun i hi => ⟨256 + i, by omega, by omega⟩]
  simp only [List.replicate_append_replicate, Nat.reduceAdd]

theorem imageErr_bankImage : imageErr bankImage 0x80001000 = 0 := by
  have h0 := rdBytes_bankImage 0 4 (by decide)
  have h4 := rdBytes_bankImage 4 2 (by decide)
  have h6 := rdBytes_bankImage 6 58 (by decide)
  simp only [Nat.add_zero, show 0x80001000 + 4 = 0x80001004 from rfl, show 0x80001000 + 6 = 0x80001006 from rfl] at h0 h4 h6
  unfold imageErr rd32 rd16
  rw [imageEnts_bankImage]
  simp only [show 0x80001000 + 4 = 0x80001004 from rfl, show 0x80001000 + 6 = 0x80001006 from rfl, h0, h4, h6]
  decide +kernel
theorem test_meets_ReleasesAndBanks :
    let rel : Release := { grp := 7, tick := 1, dl := false, at_ := 1000000, ltc := 5000001000, runs := [] }
    let s := withForce { bankImage with now := 1000000, ltc := 5000001000 } [(R.scaAgLim 7, 0x30003#32), (R.regAttr 0, 0x10F#32)]
    let ag := fun x : AgSt => { s with sca := { s.sca with ags := [(7, x)], q := { items := [rel, { rel with grp := 9 }], wr := 2, wrC := 2 } } }
    let load := fun (src : Nat) (b : BankSt) => let s := withShadow s [(R.scaBankSrc, word src)]; { s with sca := { s.sca with banks := [(0, b)] } }
    let l : BankLoad := { bg := 0, bank := true, src := 0x80001000, pid := 0 }
    (qOk s.sca.q = true ∧ s.sca.q.items = []) ∧
    (qOk (ag {}).sca.q = true ∧ (ag {}).sca.q.items = [rel, { rel with grp := 9 }] ∧ relHead (ag {}) = some rel ∧ rel.grp = 7) ∧
    (let x : AgSt := { frzRun := 3 }; fld (forceOf (ag x) (R.scaAgLim 7)) 15 0 ≠ 0 ∧ fld (forceOf (ag x) (R.scaAgLim 7)) 15 0 ≤ (agOf (ag x) 7).frzRun ∧ x.frzStop = false) ∧
    ((agOf (ag { frzRun := 2 }) 7).frzRun + 1 = fld (forceOf s (R.scaAgLim 7)) 15 0) ∧
    (let x : AgSt := { fst_ := .held, held := 3 }; x.fst_ = .held ∧ fld (forceOf (ag x) (R.scaAgLim 7)) 31 16 ≤ x.held) ∧
    ({ held := 2 } : AgSt).held + 1 = fld (forceOf s (R.scaAgLim 7)) 31 16 ∧ ({ smpLeft := 1 } : ChSt).smpLeft = 1 ∧
    admitted s sec R.scaBankLoad true ∧ bit 0x80000100#32 31 = true ∧ bit 0x100#32 31 = false ∧ s.sca.load = none ∧
    (bankOf (load 0x80001000 { active := true }) 0).active = bit 0x80000100#32 8 ∧ (bankOf (load 0x80001000 {}) 0).active ≠ bit 0x80000100#32 8 ∧
    (bankOf (load 0x80001000 {}) 0).fade = none ∧
    -- the first source too low, the last that fits, the first too high
    (let src := fun a => fld (shadowOf (load a {}) R.scaBankSrc) 31 6 * 64
     src 0x7FFFFFC0 < 0x80000000 ∧ src 0x80FFF700 + 2304 ≤ 0x81000000 ∧ 0x81000000 < src 0x80FFF740 + 2304) ∧
    ((inDram l.src || inDram (l.src + 2303)) = false ∧ rangeDenied s (dmaTag s 0x0B (some l.pid)) .read l.src 2304 = none ∧
      (rangeDenied (withForce s [(R.regAttr 0, 0#32)]) (dmaTag s 0x0B (some l.pid)) .read l.src 2304).isSome) ∧
    (imageErr up 0x80001000 ≠ 0) ∧ (bankOf (load 0 { fade := some 10 }) 0).fade = some 10 := by
  delta admitted; and_intros <;> decide +kernel


/-! ### Runs and programs: hypotheses met -/

def activation : Activation := ⟨0#32, 0#32, 0#32, 1000000, 1, false⟩
/-- Partition 0 owns core 0, task 5 and lane 0; its program is `g` and task 5, defined on core 0, is to start. -/
def program (g : Program) (x : TskPart := { pstate := .running }) : State :=
  let s := withForce ticking [(R.partEn, 1#32), (R.tskTCtrl 5, 1#32)]
  { s with now := 1000000, part := { s.part with owners := [(0, 1), (0x30005, 1)] }
           tsk := { s.tsk with parts := [(0, { x with prog := some g })]
                               tasks := [(5, { def_ := some ⟨0, 3, 0, 0#32, 2000, 0#32⟩, pend := some activation })] } }
def prog0 : Program := { addr := 0x80022000, rate := 0, id := 1#32, ver := 1#32, retSig := 0#32, segs := [⟨0, 0, 64, 0, 64, 0, 0, 64⟩], tasks := [], ids := [] }

theorem test_meets_RunsAndLoadEngine :
    let s := program prog0
    let core := fun c : CoreSt => { s with pcx := { s.pcx with cores := [(0, c)] } }
    let load := fun (dst src len : Word) => withShadow s [(R.pcxLoadDst, dst), (R.pcxLoadSrc, src), (R.pcxLoadLen, len)]
    let wide := fun (s : State) =>
      let w := shadowOf s R.pcxLoadDst
      (shadowOf s R.pcxLoadSrc).toNat < 0x80000000 ∨ 0x81000000 < (shadowOf s R.pcxLoadSrc).toNat + (shadowOf s R.pcxLoadLen).toNat ∨ fld w 25 24 = 3 ∨
        (if fld w 25 24 = 2 then 0x20000 else 0x10000) < fld w 16 6 * 64 + (shadowOf s R.pcxLoadLen).toNat
    (qOk (actQ (cutDue s) 0) = true ∧ coreReady (cutDue s) 0 = true ∧ chooseTask (cutDue s) 0 = some 5) ∧
    (chooseTask (cutDue (withForce s [(R.tskTCtrl 5, 0#32)])) 0 = none ∧ coreReady (core { mode := .run }) 0 = false) ∧
    ((coreOf s 0).refused = [] ∧ (coreOf (core { refused := [16] }) 0).refused = [16]) ∧
    (runnerOf (core { mode := .run, task := 5 }) 5 = some 0 ∧ runnerOf s 5 = none ∧ overrunMeets s 5 = none ∧
      overrunMeets (core { task := 5, excAt := some 1000000, deadline := 1000000 }) 5 = some 0) ∧
    ((taskOf s 5).pend = some activation ∧ (taskOf s 5).def_.isSome ∧ qOk (actQ s 0) = true) ∧
    regDenied s (accTag s non) R.pcxLoadCmd true = some 7 ∧ admitted s sec R.pcxLoadCmd true ∧ engineBusy s = false ∧
    engineBusy { s with pcx := { s.pcx with load := some ⟨0x80000000, 0x90010000, 64, 3⟩ } } = true ∧
    loadActive s 0 0 = true ∧ loadActive s 0 1 = false ∧
    (shadowOf (load 0x1000000#32 0x80000000#32 0#32) R.pcxLoadLen).toNat = 0 ∧
    -- the last copies that fit in the source and in a bank, and the first that do not
    ¬wide (load 0x1000000#32 0x80FFFFC0#32 64#32) ∧ wide (load 0x1000000#32 0x80FFFFC0#32 65#32) ∧ ¬wide (load 0x100FFC0#32 0x80000000#32 64#32) ∧
    wide (load 0x100FFC0#32 0x80000000#32 128#32) ∧ wide (load 0x3000000#32 0x80000000#32 64#32) ∧ wide (load 0x1000000#32 0x7FFFFFC0#32 64#32) ∧
    ((∀ i, i < 64 / 64 → rangeDenied s engineTag .read (0x80000000 + 64 * i) 64 = none) ∧ s.mir.unsent = [] ∧
      ∃ i, i < 64 / 64 ∧ rangeDenied (withForce s [(R.regAttr 0, 0#32)]) engineTag .read (0x80000000 + 64 * i) 64 ≠ none) ∧
    admitted s sec (R.coreExc 63) true := by
  delta admitted; and_intros <;> decide +kernel

theorem test_meets_ProgramCommands :
    let s := withShadow (program prog0) [(R.tskPMq 0, 0x80010000#32)]
    let x := partOf s 0
    -- an image of one segment and one task; where there is none
    let image := withBytes (withBytes s 0x80010000 (leBytes 4 0x4C444D49 ++ leBytes 2 1 ++ leBytes 1 0 ++ leBytes 1 4 ++ leBytes 4 1 ++ leBytes 4 0x100))
      0x80012000 (leBytes 4 0x4C445052 ++ leBytes 2 1 ++ leBytes 1 0 ++ leBytes 1 1 ++ leBytes 4 77 ++ leBytes 4 1 ++ leBytes 4 1 ++ leBytes 4 0 ++
        leBytes 4 0x40 ++ leBytes 4 0x60 ++ leBytes 4 0x70 ++ leBytes 4 9 ++ leBytes 24 0 ++
        leBytes 4 0 ++ leBytes 4 0x80 ++ leBytes 4 64 ++ leBytes 4 0xC0 ++ leBytes 4 64 ++ leBytes 4 64 ++ leBytes 4 0 ++ leBytes 4 0 ++
        leBytes 2 5 ++ leBytes 1 0 ++ leBytes 1 4 ++ leBytes 4 0xA0000 ++ leBytes 4 2000 ++ leBytes 4 0x40)
    (imgCheck s 0 0x80010000).2 = 2 ∧ admitted s sec (R.tskPCtrl 0) true ∧
    x.mq = .none ∧ ({ x with mq := .loaded } : TskPart).mq = .loaded ∧ x.pstate = .running ∧ x.pendOp = none ∧ saving s = false ∧ x.series = none ∧
    x.attemptAt = none ∧ ({ x with attemptAt := some 5 } : TskPart).attemptAt ≠ none ∧ ({ x with series := some 5 } : TskPart).series ≠ none ∧
    ({ x with maq := some prog0 } : TskPart).maq = some prog0 ∧ ({ x with pstate := .stopped } : TskPart).pstate = .stopped ∧
    (imgCheck image 0 0x80010000).2 = 0 := by
  delta admitted; and_intros <;> decide +kernel

theorem test_meets_ProgramEvents :
    let x := partOf (program prog0) 0
    let p := fun (y : TskPart) => program prog0 { y with maq := some prog0 }
    let cores := fun (s : State) (c : CoreSt) => { s with pcx := { s.pcx with cores := [(0, c)] } }
    let bad : Program := { prog0 with addr := 0x7F000000 }
    let att := fun (y : TskPart) => p { y with pstate := .running, attemptAt := some 1000000, attempts := 2 }
    let due := fun s : State => carryEnd s 1000000 ((prog0.segs ++ prog0.segs).map (·.core)) (carryPlans s 1000000 (carryLines s prog0))
    (let y := partOf (p { mq := .loading }) 0; y.mq = .loading ∧ y.maq = some prog0 ∧ (p {}).pcx.load = none ∧ (p {}).mir.role ≠ .standby) ∧
    (copyCode (p {}) prog0.segs prog0.addr).2 = 0 ∧ (copyCode (p {}) bad.segs bad.addr).2 ≠ 0 ∧ x.mq ≠ .loading ∧
    (let y := partOf (p { mq := .preparing }) 0; y.mq = .preparing ∧ y.prog = some prog0) ∧
    ((p {}).time.tickRun = true ∧ (partOf (p { pstate := .starting, startKind := some .cold }) 0).startKind = some .cold ∧ x.startKind = none) ∧
    ((p {}).tsk.round = [] ∧ retPlace (p {}) (retLines prog0).head! = some (0, 0)) ∧
    (let s := withBytes (withForce (p {}) [(R.tskPPlinth 0, 1#32)]) 0xA0500000 (leBytes 4 0x4C44504C ++ leBytes 4 0 ++ leBytes 8 (guarded 5#32).toNat)
     plinthActive (plinthRead s 0) 0 = some false) ∧
    -- a switch attempt: it may be made; the instant is over; it was spoiled
    (let s := att {}
     (partOf s 0).attemptAt = some 1000000 ∧ due s ≤ 1000000 + 50000 ∧ s.now ≤ 1000000 + 50000 ∧ coresIdle s prog0 = true) ∧
    coresIdle (cores (att {}) { mode := .run }) prog0 = false ∧ ¬({ att {} with now := 1050001 }).now ≤ 1000000 + 50000 ∧
    (∀ b, b ∈ [2, 10, 12, 8] → (partOf (att { attemptBad := some b }) 0).attemptBad = some b) ∧
    ((0 : Fin 64).val ∉ (p {}).tsk.applyDue) ∧
    (let f : ForceSt := { state := 1, core := 0, ofs := 0x820, size := 8 }
     let s := withForce { p {} with tsk := { (p {}).tsk with applyDue := [0], forces := [(0, f)] } } [(R.fVal 0 0, 5#32), (R.fValC 0 0, ~~~5#32), (R.fAux 0 0, 0#32), (R.fAuxC 0 0, ~~~0#32)]
     0 ∈ s.tsk.applyDue ∧ (coreOf s 0).mode = .idle ∧ (∀ e ∈ s.tsk.forces, forceGuardOk s (e.1 / 256) (e.1 % 256) = true)) := by
  and_intros <;> decide +kernel

/-! ### Lanes, GOOSE, commands, field buses: hypotheses met -/

/-- A GOOSE message of stNum `st`, sqNum `sq` with one member, and subscription 6 to it. -/
def gooseEther (sim : Bool) (rev : Word) (st sq : Word) : EthFrame :=
  frameOf 5 6 none 0x88B8 (pduBytes 0x4001 sim (goosePduBytes { ref := [65#8, 66#8], datSet := [1#8], goId := [1#8], confRev := rev } 2000 (utcBytes 4 5 0) st sq sim
    [memberBytes false 37 0 6 (1#32, 0#32)]) none)
def subscribed (x : GSub) : State :=
  let s := withForce up [(R.gsCfg 6, 0x90000000#32), (R.gsId 6, 0x40010002#32), (R.gsRefCrc 6, crc32 [65#8, 66#8]), (R.gsConfrev 6, 2#32)]
  { s with ltc := 5000001000, now := 1000000, gse := { s.gse with subs := [(6, x)] } }

theorem test_meets_LanesAndGoose :
    let lane := fun l : Lane => { subscribed {} with tmx := { up.tmx with lanes := [(3, l)] } }
    let on := fun s : State => { withForce s [(R.laneCfg 3, 0x80000005#32), (R.partEn, 1#32)] with
      part := { s.part with owners := [(0x50003, 1)] }, trust := { s.trust with ready := true }
      tsk := { s.tsk with parts := [(0, { pstate := .running, resumed := true })] } }
    let g : GPub := { on := true, sent := true, vals := [(1#32, 2#32)], due := 1000500, iv := 2000000 }
    let item := fun f : EthFrame => ({ mac := 3, dest := 2, stamp := 5000000900 * 256, first := 999950, end_ := 1000000, err := 0, beats := 5, frame := f } : RxItem)
    let x : GSub := { state := .valid, stNum := 5#32, sqNum := 3#32, seen := true, map := [0x60000000#32] }
    let get := fun f : EthFrame => gooseParse f false 100
    ((laneOf (lane { drive := .operate }) 3).drive = .operate ∧ holdWhy (lane {}) 3 ≠ 0 ∧ holdWhy (on (lane {})) 3 = 0 ∧ (laneOf (lane {}) 3).drive ≠ .operate) ∧
    ((laneOf (lane {}) 3).rbErr = false ∧ (laneOf (lane { rbErr := true }) 3).rbErr = true) ∧
    (let s := { subscribed x with gse := { up.gse with pubs := [(4, g)] } }
     (pubOf s 4).on = true ∧ (pubOf s 4).sent = true ∧ gpHeld s 4 = true ∧ gpHeld (withForce s [(R.gpCfg 4, 0x80000000#32)]) 4 = false ∧ qOk g.q = true ∧
       g.q.items.length < 8 ∧ (pubOf s 5).on = false) ∧
    ((itemNext (subscribed x) 3 2).1 = none ∧
      (let s := { subscribed x with net := { up.net with items := [item (ether none)] } }; (itemNext s 3 2).1 = some (item (ether none)))) ∧
    get (ether none) = none ∧
    (∀ e ∈ [(gooseEther false 2#32 6#32 0#32, true, true), (gooseEther false 2#32 5#32 4#32, true, false), (gooseEther false 2#32 5#32 3#32, true, false),
        (gooseEther false 1#32 6#32 0#32, false, true)],
      (get e.1).any fun m => (subsOn (subscribed x)).filter (subMatch (subscribed x) m) == [6] && decide (m.confRev = forceOf (subscribed x) (R.gsConfrev 6)) == e.2.1 &&
        isNew x m == e.2.2 && !m.sim && !x.bad && m.members.map (fun e => e.type_.val) == x.map.map (fld · 31 28)) ∧
    (newer 4#32 x.sqNum = true ∧ newer 3#32 x.sqNum = false) ∧
    ((get (gooseEther true 2#32 6#32 0#32)).any fun m => m.sim) ∧
    bit (forceOf (subscribed x) R.gseSimAcc) 0 = false ∧ fld (forceOf (subscribed x) (R.gsCfg 6)) 30 29 = 0 ∧
    fld (forceOf (withForce (subscribed x) [(R.gsCfg 6, 0xB0000000#32)]) (R.gsCfg 6)) 30 29 = 1 ∧
    (subOf (subscribed x) 6).state = .valid ∧ (subOf (subscribed {}) 6).state ≠ .valid := by
  and_intros <;> decide +kernel

theorem test_meets_Commands :
    let d : Order := { obj := 6, rank := 5, action := 1, val := true, orig := 9, ctl := 3 }
    let obj := fun (ph : Nat) (due : Nat) => { ticking with cmd := { ticking.cmd with objs := [(6, { st := guarded (word (ph * 0x40000000 + 0x28090000)), due := due, order := some d })] } }
    let model := fun (m : Nat) (ena : Word) => withForce up [(R.coCfg 6, word (0x80000000 + m * 0x10000000)), (R.coEna 6, ena)]
    let first := fun s : State => s.time.tickRun = true ∧ nextMer s ≤ s.ltc + ((objOf s 6).due - s.now)
    let y := fun ph : Nat => ({ st := guarded (word (ph * 0x40000000 + 0x28090000)) } : CmdObj)
    let q := fun n : Nat => { up with cmd := { up.cmd with res := { items := List.replicate n 0x1234#32, wr := n % 256, wrC := n % 256 } } }
    admitted up sec R.cmdOrd true ∧ (objOf (obj 2 0) 6).order = some d ∧ objPhase (objOf (obj 2 0) 6) = 2 ∧ objPhase (objOf (obj 1 0) 6) = 1 ∧
    ¬first (obj 1 5000000001) ∧ first (obj 1 6000000000) ∧ admitted up sec (R.coPos 6) true ∧ admitted up sec R.cmdCtrl true ∧
    guardedOk (objOf (obj 3 0) 6).st = true ∧ objPhase (objOf (obj 3 0) 6) = 3 ∧ guardedOk ((y 1).st + 1) = false ∧
    admitted up sec R.cmdResPop false ∧ qOk (q 1).cmd.res = true ∧ (q 0).cmd.res.items = [] ∧ (q 255).cmd.res.items.length < 256 ∧ qOk (q 255).cmd.res = true ∧
    (d.obj < 256 ∧ d.rank < 8 ∧ d.orig < 256 ∧ d.ctl < 256) ∧
    -- the verdicts: a bad request, not selected, interlocked, busy, run
    badRequest up d = true ∧ badRequest (model 2 0#32) d = false ∧ ctlModel (model 2 0#32) 6 = 2 ∧ holds (y 0) d = false ∧ holds (y 1) d = true ∧
    ctlModel (model 1 0#32) 6 = 1 ∧ interlocked (model 1 0x8005#32) (fun _ => false) d = true ∧ interlocked (model 1 0x8005#32) (fun _ => true) d = false ∧
    objPhase (y 2) = 2 ∧ objPhase (y 0) = 0 ∧ badRequest (model 1 0#32) { d with rank := 3 } = false := by
  delta admitted; and_intros <;> decide +kernel

theorem test_meets_FieldBuses :
    let fbc := fun (x : FbcSt) (cfg : Word) => { withShadow (withForce ticking [(R.fbfMatch 0 3, 0xC0000000#32), (R.fbfMask 0 3, 0#32), (R.fbfAct 0 3, 1#32),
      (R.coCfg 6, 0x90000000#32)]) [(R.fbcCfg 0, cfg)] with fbc0 := x }
    let lb := fun n : Nat => withForce (fbc { on := true } 0#32) [(R.diagLbFbc, word n)]
    let f : CanFrame := { fdf := true, brs := false, esi := false, ide := true, remote := false, malformed := false, id := 0x4000205#29
                          data := [0x11#8, 0xEE#8, 6#8, 1#8, 9#8, 4#8, 0#8, 0#8] }
    let cm : CanMsg := { fdf := false, brs := false, ide := false, id := 0x500, data := [1#8] }
    let t0 : Tq0Msg := { msg := cm, order := none }
    let x : FbcSt := { on := true, tq0 := { items := [t0], wr := 1, wrC := 1 }, tq1 := { items := [cm], wr := 1, wrC := 1 } }
    let e : RqEnt := ⟨cm, false, 1, 5, 6⟩
    let full := fun (n cap : Nat) => ({ items := List.replicate n cm, wr := n % cap, wrC := n % cap } : Q CanMsg)
    let s := fbc x 0#32
    (lbFbc (lb 1) 0 = 1 ∧ lbFbc (lb 2) 0 = 2 ∧ (fbcOf (fbc {} 0#32) 0).on = false ∧ lbFbc s 0 = 0 ∧ (fbcOf s 0).on = true) ∧
    (f.malformed = false ∧ canLen true 64 = true ∧ canLen true 9 = false ∧ canLen false 8 = true ∧ canLen false 12 = false) ∧
    bit (shadowOf (fbc x 4#32) (R.fbcCfg 0)) 2 = true ∧ bit (shadowOf s (R.fbcCfg 0)) 2 = false ∧
    (127 ≤ 127 ∧ (127 : Nat) < ({ rec_ := 128 } : FbcSt).rec_) ∧ filterOf s 0 f = some 3 ∧ filterOf s 0 { f with ide := false } = none ∧
    (fld (forceOf s (R.fbfAct 0 3)) 1 0 = (0 : Fin 2).val + 1 ∧ qOk (rqOf s 0 0).q = true ∧ (rqOf s 0 0).q.items.length < rqDepth 0) ∧
    (rqDepth 0 ≤ (List.replicate 64 e).length ∧ (List.replicate 63 e).length < rqDepth 0) ∧
    (fld (forceOf (withForce s [(R.fbfAct 0 3, 3#32)]) (R.fbfAct 0 3)) 1 0 = 3 ∧ f.id.toNat / 2 ^ 25 = 2 ∧ f.data = [0x10#8 + 1#8, 0xEF#8 - 1#8, 6#8, 1#8, 9#8, 4#8, 0#8, 0#8] ∧
      bit (forceOf s (R.coCfg 6)) 31 = true) ∧
    (canStart s 0 = true ∧ canStart (fbc { x with bus := some (true, cm) } 0#32) 0 = false ∧ qOk x.tq0 = true ∧ qOk x.tq1 = true ∧ x.tq0.items = [t0] ∧
      x.tq1.items = [cm] ∧ ({ x with tq0 := {} } : FbcSt).tq0.items = [] ∧ x.bus = none) ∧
    (x.fc = .active ∧ 256 ≤ ({ x with tec := 248 } : FbcSt).tec + 8 ∧ ({ x with tec := 247 } : FbcSt).tec + 8 < 256 ∧ ({ x with fc := .recovering } : FbcSt).fc = .recovering) ∧
    (admitted s sec (R.fbcCtrl 1) true ∧ ({ x with fc := .busOff } : FbcSt).fc = .busOff ∧ fbcBad s 0 = false ∧ fbcBad (withShadow s [(R.fbcNbt 0, 0#32)]) 0 = true) ∧
    -- transmit queue 1: a header word, the last that fits, the identifier word, the last word of an item
    (admitted s sec (R.tq1Push 1) true ∧ x.item = [] ∧ fld 0xA5000003#32 31 24 = 0xA5 ∧ fld 0x5A000003#32 31 24 ≠ 0xA5 ∧
      canLen (bit 0xA5000003#32 23) (fld 0xA5000003#32 6 0) = true ∧ qOk (full 63 64) = true ∧ (full 63 64).items.length < 64 ∧ qOk (full 64 64) = true ∧
      64 ≤ (full 64 64).items.length ∧ tq1IdOk 0xA5000003#32 0x20000000#32 = false ∧ tq1IdOk 0xA5000003#32 0x500#32 = true ∧
      ([0xA5000003#32] : List Word).tail.length + 2 < 3 ∧ 3 ≤ ([0xA5000003#32, 0x500#32] : List Word).tail.length + 2) ∧
    admitted s sec (R.tq1Ctrl 1) true ∧ admitted s sec (R.rqHead 1 1) false ∧ admitted s sec (R.rqCtrl 1 1) true ∧ qOk (rqOf s 0 1).q = true ∧
    (rqOf s 0 1).q.items = [] ∧ (rqOf (fbc { x with rq1 := { q := { items := [e], wr := 1, wrC := 1 } } } 0#32) 0 1).q.items = [e] := by
  delta admitted; and_intros <;> decide +kernel

/-! ### Recorder, Almanac, meters, diagnosis, mirror: hypotheses met -/

theorem test_meets_Recorder :
    let s := withShadow (withForce up [(R.ctxCfg 0, 0x80000400#32), (R.grpCfg 0, 0x80000000#32), (R.regBaseLo 1, 0#32), (R.regBaseHi 1, 3#32), (R.regSize 1, 0x100000#32),
      (R.regAttr 1, 0x10F#32), (R.regPidmask 1, 0xFFFFFFFF#32)]) [(R.drcCfg, 1#32), (R.drcPost, 2#32), (R.drcNch, 1#32), (R.drcCh 0, 3#32)]
    let ks := (List.range (min 1025 (drcNch s))).map (drcK s)
    let d : DrcSt := { on := true, segN := 2, ks := ks, rowBytes := rowLen s ks, cur := some 1, rows := [⟨5, s.ltc, 0#32, []⟩] }
    let seg := fun (x : Seg) (pre : Word) => { withShadow s [(R.drcPre, pre)] with drc := { d with segs := [(1, x)] } }
    let rec_ : Seg := { state := .recording, trigRow := 4 }
    admitted s sec R.drcCtrl true ∧ s.drc.on = false ∧ d.on = true ∧ drcBad s ks = false ∧ drcBad (withShadow s [(R.drcPost, 0#32)]) ks = true ∧
    (if s.drc.segN = 2 then nextSeg s else some 0) = some 0 ∧ nextSeg (seg rec_ 0#32) = some 0 ∧ (seg rec_ 0#32).drc.cur = some (1 : Fin 4096).val ∧
    admitted s sec R.drcTrigMan true ∧ d.holdUntil = none ∧ d.holdCount = 0 ∧ ({ d with holdCount := 1 } : DrcSt).holdCount ≠ 0 ∧ ({ d with cur := none } : DrcSt).cur = none ∧
    (segOf (seg { state := .armed } 0#32) 1).state = .armed ∧ shadowOf (seg {} 0#32) R.drcPre = 0#32 ∧ 1 < (shadowOf s R.drcPost).toNat ∧
    ({ d with holdUntil := some 7 } : DrcSt).holdUntil = some 7 ∧ admitted s sec R.drcSegCmd true ∧
    (∀ st ∈ [SegState.closed, .aborted, .recording], (segOf (seg { state := st } 0#32) 1).state = st) ∧ ({ rec_ with claimed := true } : Seg).claimed = true ∧
    s.drc.rows = [] ∧ drcWaits (seg rec_ 0#32) 0 5 = false ∧
    drcWaits { seg rec_ 0#32 with siu := { s.siu with grps := [(0, { on := true })] } } 0 5 = true ∧
    -- a row that is not the last, the row before the last and the last; before the trigger's row
    qOk d.rowPtr = true ∧ rowLate ⟨5, 0, 0#32, []⟩ rec_ = true ∧ rowLate ⟨3, 0, 0#32, []⟩ rec_ = false ∧
    ¬(shadowOf s R.drcPost).toNat ≤ ({ rec_ with postRec := 0 } : Seg).postRec + 1 ∧ (shadowOf s R.drcPost).toNat ≤ ({ rec_ with postRec := 1 } : Seg).postRec + 1 ∧
    dmaMay (seg rec_ 0#32) (dmaTag s 0x13 none) .write (postAddr (seg rec_ 0#32) 1 0) 64 := by
  delta admitted dmaMay; and_intros <;> decide +kernel

/-! The Almanac's one clause about a full Almanac (R504): a state that meets it. -/

/-- An Almanac in which every slot holds a valid record of severity 0. -/
def fullAlmanac : State := { up with mem := (List.range' 0 65536).map fun i => (0xA0100007 + 64 * i, 0x20#8) }

theorem mget_stride (v : Byte) (b k n : Nat) :
    ∀ a, mget 0#8 ((List.range' a n).map fun i => (b + 64 * i, v)) k =
      if b + 64 * a ≤ k ∧ k < b + 64 * (a + n) ∧ (k - b) % 64 = 0 then v else 0#8 := by
  induction n with
  | zero => intro a; rw [if_neg (by omega)]; rfl
  | succ n ih =>
    intro a
    simp only [List.range'_succ, List.map_cons, mget, ih]
    by_cases h : b + 64 * a = k
    · rw [if_pos h, if_pos (by omega)]
    · rw [if_neg h]
      congr 1
      apply propext
      omega

theorem slotWord_fullAlmanac (i : Nat) (h : i < 65536) : slotWord fullAlmanac i 1 = 0x20000000#32 := by
  have z : ∀ j, j < 3 → rdByte fullAlmanac (0xA0100000 + i * 64 + 4 * 1 + j) = 0#8 := fun j _ =>
    (mget_stride _ _ _ _ 0).trans (if_neg (by omega))
  have v : rdByte fullAlmanac (0xA0100000 + i * 64 + 4 * 1 + 3) = 0x20#8 := (mget_stride _ _ _ _ 0).trans (if_pos (by omega))
  unfold slotWord rd32 rdBytes slotAddr
  simp only [List.range, List.range.loop, List.map_cons, List.map_nil]
  rw [v, z 0 (by decide), z 1 (by decide), z 2 (by decide)]
  decide

theorem almListed_stride (f : Nat → Nat × Byte) (g : ∀ i, (f i).1 = 0xA0100007 + 64 * i) (n : Nat) :
    ∀ a, ((List.range' a n).map f).foldr (fun c l => let i := (c.1 - 0xA0100000) / 64; if l.head? = some i then l else i :: l) ([] : List Nat) =
      List.range' a n := by
  induction n with
  | zero => intro a; rfl
  | succ n ih =>
    intro a
    simp only [List.range'_succ, List.map_cons, List.foldr_cons, ih, g]
    rw [show (0xA0100007 + 64 * a - 0xA0100000) / 64 = a by omega, if_neg]
    cases n <;> simp [List.range'_succ]

theorem firstGap_range (n : Nat) : ∀ a, firstGap (List.range' a n) a = a + n := by
  induction n with
  | zero => intro a; rfl
  | succ n ih => intro a; simp only [List.range'_succ, firstGap, if_pos, ih]; omega

theorem test_almSlot_full : almSlot fullAlmanac 1 = none := by
  have l : almListed fullAlmanac = List.range' 0 65536 := by
    unfold almListed mtake
    rw [List.filter_eq_self.mpr]
    · exact almListed_stride _ (fun _ => rfl) _ 0
    · intro e he
      obtain ⟨i, hi, rfl⟩ := List.mem_map.mp he
      have := List.mem_range'_1.mp hi
      simp; omega
  have v : almValid fullAlmanac = List.range' 0 65536 := by
    unfold almValid
    rw [l, List.filter_eq_self.mpr]
    intro i hi
    have := List.mem_range'_1.mp hi
    unfold slotValid; rw [slotWord_fullAlmanac i (by omega)]; decide
  unfold almSlot
  simp only [v, firstGap_range]
  rw [if_neg (by decide), List.filter_eq_nil_iff.mpr]
  · rfl
  · intro i hi
    have := List.mem_range'_1.mp hi
    rw [slotWord_fullAlmanac i (by omega)]; decide
theorem test_meets_Almanac :
    let posts := fun n : Nat => { up with alm := { up.alm with posts := { items := List.replicate n ⟨1, 0x15, 5, none, [], 3, 5, 2, 77⟩, wr := n % 64, wrC := n % 64 } } }
    admitted up sec R.almPostGo true ∧ admitted (withForce up [(R.partWorld, 0#32)]) non R.almPostGo true ∧ fld 0x4000#32 31 30 = 0 ∧ fld 0x40000000#32 31 30 ≠ 0 ∧
    qOk (posts 63).alm.posts = true ∧ (posts 63).alm.posts.items.length < 64 ∧ admitted up sec R.almCurSeq true ∧ (posts 0).alm.posts.items = [] ∧
    ({ up.alm with paused := true } : AlmSt).paused = true ∧ up.alm.scanning = false ∧ (posts 1).alm.posts.items ≠ [] ∧ almSlot up 1 = some 0 ∧
    up.mir.unsent = [] ∧ (∀ p, p < 32 → qOk (hnqOf up p).q = true) ∧ memOk up := by
  delta admitted memOk; and_intros <;> decide +kernel

theorem test_meets_Metering :
    let s := withShadow (withForce up [(R.mtrResBaseLo, 0#32), (R.mtrResBaseHi, 1#32), (R.ctxCfg 0, 0x80070800#32), (R.grpCfg 7, 0x80000000#32)])
      [(R.mpCfg 6, 0x06000009#32), (R.mpSlots 6, 4#32)]
    let cfg := fun w : Word => withShadow s [(R.mpCfg 6, w)]
    let win : MWin := { n := 80, f := 50000000, vals := [[1, 2, 3], [4, 5, 6]] }
    let cmd := fun m : MtrSt => { s with mtr := m }
    let preset := fun (hi lo : Word) => (shadowOf (withShadow s [(R.mtrPresetHi, hi), (R.mtrPresetLo, lo)]) R.mtrPresetHi).toNat * 2 ^ 32 + lo.toNat
    let master := { s with trust := { s.trust with ready := true } }
    admitted s sec (R.mpCtrl 6) true ∧ (mpOf s 6).on = false ∧ mpBad s 6 = false ∧ mpBad (cfg 0x05000009#32) 6 = true ∧ (mpOf s 6).full = [] ∧
    ({ full := [win] } : MPoint).full = [win] ∧ win.vals ≠ [] ∧
    (laneMaster master = true ∧ win.test = false ∧ bit (mpCfg s 6) 15 = false) ∧ laneMaster s = false ∧
    admitted s sec R.mtrCmd true ∧ mtrCmdRuns s = false ∧ mtrCmdRuns (cmd { busy := some (true, 1, 7#32, true) }) = true ∧
    (5 < (6 : Fin 8).val ∧ (5 : Fin 8).val ≤ 5 ∧ mpMod s 6 ≤ preset 0#32 1000000#32 ∧ preset 0#32 999999#32 < mpMod s 6) ∧
    s.mtr.busy = none ∧ (cmd { busy := some (true, 1, 7#32, true) }).mtr.wait = [] ∧
    ({ busy := some (true, 1, 7#32, true), wait := [⟨2, [], false⟩] } : MtrSt).wait = [⟨2, [], false⟩] ∧
    admitted s sec (R.accLo 6 5) false ∧ pulOn s 3 = false ∧ pulOn (withForce s [(R.pulCfg 3, 0x80000000#32)]) 3 = true ∧
    ({} : Pulse).backlog = 0 ∧ ({ backlog := 1 } : Pulse).backlog ≠ 0 := by
  delta admitted; and_intros <;> decide +kernel

theorem test_meets_SelfTests :
    let d := up.diag
    let t := fun f : DiagSt → DiagSt => { up with diag := f d, trust := { up.trust with stage := 2 } }
    admitted up sec R.diagRbTest true ∧ d.rbTest = none ∧ (t fun d => { d with rbTest := some (3, 5) }).diag.rbTest = some (3, 5) ∧
    up.trust.stage ≠ 2 ∧ ((t fun d => { d with bistOk := false }).trust.stage = 2 ∧ (t fun d => { d with bistOk := false }).diag.bistOk = false ∧ up.trust.halted = false) ∧
    admitted up sec R.diagBistCtrl true ∧ d.bist = none ∧ (t fun d => { d with bist := some 4 }).diag.bist = some 4 ∧ up.trust.cmd = none ∧
    ({ up.trust with cmd := some (0, 0) } : TrustSt).cmd ≠ none := by
  delta admitted; and_intros <;> decide +kernel

theorem test_meets_FatalErrorDump :
    let t := fun f : DiagSt → DiagSt => withShadow { up with diag := f up.diag } [(R.diagDumpArg, 0x80020000#32)]
    let tag : Tag := { secure := true, pid := 0, sys := true, master := 0x98#8 }
    admitted up sec R.diagDumpCtrl true ∧ (0#16 : Half) ≠ 0xD0C5#16 ∧ dumpBusy up = false ∧ dumpBusy (t fun d => { d with wiping := true }) = true ∧ soleCause up ∧
    up.diag.frozen = false ∧ (t fun d => { d with frozen := true }).diag.frozen = true ∧ up.diag.kept = false ∧ (t fun d => { d with kept := true }).diag.kept = true ∧
    eccIn up 0x4FC000000 0x100 = [] ∧ dmaMay up tag .write (fld (shadowOf (t id) R.diagDumpArg) 31 6 * 64) 16 ∧ up.diag.sealing = none ∧
    (t fun d => { d with sealing := some 5 }).diag.sealing ≠ none ∧ up.diag.wiping = false := by
  delta admitted dmaMay soleCause; and_intros <;> decide +kernel

/-- The mirror of a module in state `m`, in OPERATIONAL. -/
def mirror (m : MirSt) (tick : Bool := true) : State :=
  let s := withShadow ticking [(R.mirCfg, 0x8000000#32)]
  { s with mir := m, trust := { s.trust with lc := .operational }, time := { s.time with tickRun := tick } }

theorem test_meets_MirrorControl :
    admitted up sec R.mirCtrl true ∧ (mirror {}).mir.role = .off ∧ (mirror { role := .listen }).mir.role ≠ .off ∧ up.trust.lc ≠ .operational ∧
    (mirror {}).trust.lc = .operational ∧ 8 ≤ fld (shadowOf (mirror {}) R.mirCfg) 31 24 ∧ fld 0x7FFFFFF#32 31 24 < 8 ∧
    ((mirror { role := .holder, ptnrReady := true }).mir.role = .holder ∧ (mirror { role := .holder, ptnrReady := true }).mir.ptnrReady = true) ∧
    (mirror { role := .standby } false).time.tickRun = false ∧ (mirror {}).diag.frozen = false ∧ (mirror {}).time.tickRun = true ∧
    (mirror { lanes := 3 }).mir.lanes.testBit 1 = true ∧ (mirror { lanes := 2 }).mir.lanes.testBit 0 = false := by
  delta admitted; and_intros <;> decide +kernel

/-- Whether a packet's tag holds rests on `Config.verifies`, which has no value; that it fails is seen on a key slot that is empty. -/
theorem test_meets_MirrorReception :
    let s := fun r : Role => mirror { role := r, epoch := 5, claimAt := some (5, 0) }
    let w : LeaseWord := ⟨false, true, true, 6, 5, 0⟩
    let d := fun (e : Fin 256) => (e.val + 256 - 5) % 256
    let ctl := guarded (word (1 * 2 ^ 28 + 2 ^ 27 + 6 * 2 ^ 18))
    let p : MirPacket := { packet 0 0 [⟨false, .mem (0x90020000 / 64) (List.replicate 64 9#8)⟩] with format := 1#16, seq := 7#32, nonce := 9#64, ctl := ctl }
    let t := mirror { role := .standby, seqRx := some (6#32, 9#64) }
    (∀ r ∈ [Role.off, .listen, .holder, .standby], (s r).mir.role = r) ∧ w.pos ≠ ownPos (s .holder) ∧ ({ w with pos := false } : LeaseWord).pos = ownPos (s .holder) ∧
    (d 5 = 0 ∧ 0 < d 6 ∧ d 132 < 128 ∧ 128 ≤ d 133) ∧ ownPos (s .holder) = false ∧
    ownPos { s .holder with sys := { (s .holder).sys with slot := 0x100#32 } } = true ∧ (s .holder).mir.claimAt = some ((s .holder).time.tickSec, (s .holder).time.tick) ∧
    ({ (s .holder).mir with claimAt := none } : MirSt).claimAt ≠ some (5, 0) ∧ qOk t.mir.rxPtr = true ∧ packetTag t p = false ∧ p.format = 1#16 ∧
    p.descOk = true ∧ guardedOk p.ctl = true ∧ guardedOk 5#64 = false ∧ t.mir.role = .standby ∧ fld (guardedVal p.ctl) 31 28 = 1 ∧
    bit (guardedVal p.ctl) 27 ≠ ownPos t ∧ t.mir.seqRx = some (p.seq - 1, p.nonce) ∧ p.behind = false ∧ inDataBank 0x90020000 ∧ t.mir.unsent = [] ∧
    rangeDenied t (mirTag t) .write 0x90020000 64 = none := by
  and_intros <;> decide +kernel

/-! ### Results the spec states -/

/-- Register `d` and FPSTAT of core 0 after a command. -/
def after (o : Host.Outcome State Fault Refusal) (d : Nat) : Option (Word × Word) :=
  match o with
  | .next t => some (sget (coreOf t 0) d, (coreOf t 0).fpstat)
  | _ => none

theorem test_div_corners :  -- R344: the bits of FPSTAT stand in R312
    after (exec (.div 0 0 1 2 3) (at_ (.div 0 0 1 2 3) [(2, 7#32)])) 1 = some (0#32, 2#32) ∧
    after (exec (.div 0 0 1 2 3) (at_ (.div 0 0 1 2 3) [(2, 0x80000000#32), (3, 0xFFFFFFFF#32)])) 1 = some (0x7FFFFFFF#32, 16#32) := by decide +kernel
theorem test_add_wraps : after (exec (.add 0 0 1 1 2) (at_ (.add 0 0 1 1 2) [(1, 0xFFFFFFFF#32), (2, 2#32)])) 1 = some (1#32, 0#32) := by decide +kernel
theorem test_qmul_saturates :  -- R313, R349: (−1) × (−1)
    after (exec (.qmul 0 0 1 2 2) (at_ (.qmul 0 0 1 2 2) [(2, 0x80000000#32)])) 1 = some (0x7FFFFFFF#32, 16#32) := by decide +kernel
theorem test_reset_is_as_the_spec_says :
    State.reset.mem = [] ∧ State.reset.pending = [] ∧ State.reset.sys.released = false ∧ (coreOf State.reset 63).mode = .idle := by decide
theorem test_meets_StepRunsFrontCommand :
    ({ State.reset with pending := [.meridian] } : State).pending = .meridian :: [] ∧ State.reset.pending = [] := by decide
theorem test_meets_EveryCommandAnswersAndNothingRunsBack :
    ({ State.reset with trust := { State.reset.trust with prov := true, decom := true } } : State).trust.prov = true := by decide

end Sys2Proof.Tests
end

section
/-! SUPPORT. Scalar register operations of one word, said once: where such an instruction issues under a true predicate, it writes the
result of its operation to sD and collects its flags (R312, R339, R343, R347, R349). -/

namespace Sys2Proof.Machine

/-- The word at the counter is the one word of an instruction all of whose bits are fixed. -/
theorem spelt_word {i : Instr} {w : Word} {s : State} {k : Nat} (hw : sarbWords i = [w]) (hm : sarbMask i = 0xFFFFFFFF#32)
    (h : spelt i s k) : ([w] : List Word)[0]? = some (rd32 s (fetchAddr s k (coreOf s k).pc) &&& 0xFFFFFFFF#32) := by
  have h0 := h 0 (by simp [hw])
  simpa [spells, hw, hm] using h0

/-- An instruction of one word that runs as `coreExec` of a scalar result `g` gives that result. -/
theorem scalarIs_of_coreExec {i : Instr} {w : Word} {s : State} {k p d : Nat} (g : CoreSt → Word × Nat) (hw : sarbWords i = [w])
    (hm : sarbMask i = 0xFFFFFFFF#32) (he : exec i s = .next (coreExec [w] k 4 none false p (fun c s => .go (scalar k s d (g c))) s))
    (h : issues s k 4) (hp : predOn s k p) : ScalarIs i s k 4 d (g (coreOf s k)).1 (g (coreOf s k)).2 := by
  intro hs
  rw [he, coreExec_scalar [w] _ s k 4 p d (fun c _ => g c) h hp (spelt_word hw hm hs) (by simp)]

variable {i : Instr} {w : Word} {s : State} {k : Fin 64} {p : Fin 8} {d a b : Fin 32}

/-- A register operation on sA and sB. -/
theorem scalarIs_aluRun {op : Word → Word → Word × Nat} (hw : sarbWords i = [w]) (hm : sarbMask i = 0xFFFFFFFF#32)
    (he : exec i s = .next (aluRun [w] k p d a b op s)) (h : issues s k 4) (hp : predOn s k p) :
    ScalarIs i s k 4 d (op (sget (coreOf s k) a) (sget (coreOf s k) b)).1 (op (sget (coreOf s k) a) (sget (coreOf s k) b)).2 :=
  scalarIs_of_coreExec (fun c => op (sget c a) (sget c b)) hw hm he h hp

/-- A register operation on sA. -/
theorem scalarIs_aluRun1 {op : Word → Word × Nat} (hw : sarbWords i = [w]) (hm : sarbMask i = 0xFFFFFFFF#32)
    (he : exec i s = .next (aluRun1 [w] k p d a op s)) (h : issues s k 4) (hp : predOn s k p) :
    ScalarIs i s k 4 d (op (sget (coreOf s k) a)).1 (op (sget (coreOf s k) a)).2 :=
  scalarIs_of_coreExec (fun c => op (sget c a)) hw hm he h hp

/-- A register operation that accumulates in sD. -/
theorem scalarIs_accRun {op : Word → Word → Word → Word × Nat} (hw : sarbWords i = [w]) (hm : sarbMask i = 0xFFFFFFFF#32)
    (he : exec i s = .next (accRun [w] k p d a b op s)) (h : issues s k 4) (hp : predOn s k p) :
    ScalarIs i s k 4 d (op (sget (coreOf s k) d) (sget (coreOf s k) a) (sget (coreOf s k) b)).1
      (op (sget (coreOf s k) d) (sget (coreOf s k) a) (sget (coreOf s k) b)).2 :=
  scalarIs_of_coreExec (fun c => op (sget c d) (sget c a) (sget c b)) hw hm he h hp

end Sys2Proof.Machine
end

section
/-! SUPPORT. Saturation and rounding of the scalar operations, in the terms of the statements (R311 to R313). -/

namespace Sys2Proof.Machine

theorem satInt_eq (n : Int) : satInt n = (clamp32 n, clampSat n) := by
  unfold satInt clamp32 clampSat
  split
  · have hc : max (-2147483648) (min 2147483647 n) = -2147483648 := by omega
    rw [hc, if_neg (by omega)]; rfl
  · split
    · have hc : max (-2147483648) (min 2147483647 n) = 2147483647 := by omega
      rw [hc, if_neg (by omega)]; rfl
    · have hc : max (-2147483648) (min 2147483647 n) = n := by omega
      rw [hc, if_pos (by omega)]

theorem satInt_of_fits {n : Int} (h : -2147483648 ≤ n ∧ n ≤ 2147483647) : satInt n = (BitVec.ofInt 32 n, 0) := by
  unfold satInt
  rw [if_neg (by omega), if_neg (by omega)]

/-- The magnitude of a quotient by `2 ^ (j + 1)` that is rounded away: half a divisor added, then cut off (R313). -/
def roundMag (n : Int) (j : Nat) : Nat := (n.natAbs + 2 ^ j) / 2 ^ (j + 1)

theorem roundAway_zero (n : Int) : roundAway n 0 = n := if_pos rfl

theorem roundAway_succ (n : Int) (j : Nat) : roundAway n (j + 1) = if n < 0 then -(roundMag n j : Int) else roundMag n j :=
  if_neg (Nat.succ_ne_zero j)

theorem roundAway_succ_mul (n : Int) (j : Nat) : roundAway n (j + 1) * 2 ^ (j + 1) =
    if n < 0 then -((roundMag n j * 2 ^ (j + 1) : Nat) : Int) else (roundMag n j * 2 ^ (j + 1) : Nat) := by
  have hcast : ((roundMag n j * 2 ^ (j + 1) : Nat) : Int) = roundMag n j * 2 ^ (j + 1) := by
    rw [Int.natCast_mul, Int.natCast_pow]; rfl
  rw [roundAway_succ, hcast]
  split
  · exact Int.neg_mul _ _
  · rfl

/-- The rounded magnitude lies within half a divisor of the exact one; at exactly half it lies above. -/
theorem roundMag_mul_bounds (n : Int) (j : Nat) :
    roundMag n j * 2 ^ (j + 1) ≤ n.natAbs + 2 ^ j ∧ n.natAbs + 2 ^ j < roundMag n j * 2 ^ (j + 1) + 2 ^ (j + 1) :=
  ⟨Nat.div_mul_le_self _ _, Nat.lt_div_mul_add (Nat.two_pow_pos _)⟩

/-- R313: the rounding is to nearest, with ties away from zero. -/
theorem nearestAway_roundAway (n : Int) (k : Nat) : nearestAway n k (roundAway n k) := by
  unfold nearestAway
  cases k with
  | zero => rw [roundAway_zero]; omega
  | succ j =>
    have hb := roundMag_mul_bounds n j
    rw [roundAway_succ_mul]
    generalize roundMag n j * 2 ^ (j + 1) = t at hb ⊢
    obtain ⟨hle, hlt⟩ := hb
    split <;> omega

/-- A shift to the right rounds to a value that fits in 32 bits. -/
theorem roundAway_toInt_fits (x : Word) (k : Nat) : -2147483648 ≤ roundAway x.toInt k ∧ roundAway x.toInt k ≤ 2147483647 := by
  have hlo := x.le_toInt
  have hhi := x.toInt_lt
  cases k with
  | zero => rw [roundAway_zero]; omega
  | succ j =>
    have hpos := Nat.two_pow_pos j
    have hq : roundMag x.toInt j < 2147483648 := Nat.div_lt_of_lt_mul (by omega)
    rw [roundAway_succ]
    split <;> omega

end Sys2Proof.Machine
end

section
/-! The results of the Q31 instructions (R313, R349). -/

namespace Sys2Proof.Machine

theorem qmul_eq (x y : Word) :
    qmul x y = (clamp32 (roundAway (x.toInt * y.toInt) 31), clampSat (roundAway (x.toInt * y.toInt) 31)) := satInt_eq _

theorem qmac_eq (z x y : Word) :
    qmac z x y = (clamp32 (z.toInt + (qmul x y).1.toInt), (qmul x y).2 ||| clampSat (z.toInt + (qmul x y).1.toInt)) := by
  simp only [qmac, satInt_eq]

theorem qshr_eq (x y : Word) : qshr x y = (clamp32 (roundAway x.toInt (shAmt y)), clampSat (roundAway x.toInt (shAmt y))) :=
  (satInt_of_fits (roundAway_toInt_fits x (shAmt y))).symm.trans (satInt_eq _)

/-- Settles O13: each instruction is a scalar register operation whose result is a saturated integer; the rounded ones are nearest
with ties away from zero. -/
theorem q31Results : Obligations.Q31Results := by
  intro k p d a b s h hp x y z n
  refine ⟨?qadd, ?qsub, ?qabs, ?qneg, ?qshl, ⟨_, nearestAway_roundAway x n, ?qshr⟩, _, nearestAway_roundAway (x * y) 31, ?qmul, ?qmac⟩
  case qadd => simpa only [qadd, satInt_eq] using scalarIs_aluRun (i := .qadd k p d a b) rfl rfl rfl h hp
  case qsub => simpa only [qsub, satInt_eq] using scalarIs_aluRun (i := .qsub k p d a b) rfl rfl rfl h hp
  case qabs => simpa only [qabs, satInt_eq] using scalarIs_aluRun1 (i := .qabs k p d a) rfl rfl rfl h hp
  case qneg => simpa only [qneg, satInt_eq] using scalarIs_aluRun1 (i := .qneg k p d a) rfl rfl rfl h hp
  case qshl => simpa only [qshl, satInt_eq, shAmt] using scalarIs_aluRun (i := .qshl k p d a b) rfl rfl rfl h hp
  case qshr => simpa only [qshr_eq, shAmt] using scalarIs_aluRun (i := .qshr k p d a b) rfl rfl rfl h hp
  case qmul => simpa only [qmul_eq] using scalarIs_aluRun (i := .qmul k p d a b) rfl rfl rfl h hp
  case qmac => simpa only [qmac_eq, qmul_eq] using scalarIs_accRun (i := .qmac k p d a b) rfl rfl rfl h hp

end Sys2Proof.Machine
end

section
/-! SUPPORT. The operations of the integer unit in the terms of the statements (R343, R344). -/

namespace Sys2Proof.Machine

theorem shAmt_eq (y : Word) : shAmt y = (y &&& 31#32).toNat := by
  rw [BitVec.toNat_and]
  exact (Nat.and_two_pow_sub_one_eq_mod y.toNat 5).symm

/-- An amount in the instruction has five bits. -/
theorem shAmt_word_fin (n : Fin 32) : shAmt (word n.val) = n.val := by
  have hn := n.isLt
  simp only [shAmt, word, BitVec.toNat_ofNat]
  omega

theorem aluShl_eq (x y : Word) : aluShl x y = (x <<< (y &&& 31#32), 0) := by rw [aluShl, shAmt_eq, BitVec.shiftLeft_eq']
theorem aluShr_eq (x y : Word) : aluShr x y = (x >>> (y &&& 31#32), 0) := by rw [aluShr, shAmt_eq, BitVec.ushiftRight_eq']
theorem aluSra_eq (x y : Word) : aluSra x y = (x.sshiftRight' (y &&& 31#32), 0) := by rw [aluSra, shAmt_eq, BitVec.sshiftRight_eq']

theorem aluShl_word (x : Word) (n : Fin 32) : aluShl x (word n.val) = (x <<< n.val, 0) := by rw [aluShl, shAmt_word_fin]
theorem aluShr_word (x : Word) (n : Fin 32) : aluShr x (word n.val) = (x >>> n.val, 0) := by rw [aluShr, shAmt_word_fin]
theorem aluSra_word (x : Word) (n : Fin 32) : aluSra x (word n.val) = (x.sshiftRight n.val, 0) := by rw [aluSra, shAmt_word_fin]

/-- The high word of an integer of 64 bits is its quotient by 2³², rounded down. -/
theorem extractLsb'_ofInt_high (n : Int) : (BitVec.ofInt 64 n).extractLsb' 32 32 = BitVec.ofInt 32 (n / 2 ^ 32) := by
  apply BitVec.eq_of_toNat_eq
  rw [BitVec.extractLsb'_toNat, BitVec.toNat_ofInt, BitVec.toNat_ofInt, Nat.shiftRight_eq_div_pow]
  omega

theorem aluMulh_eq (x y : Word) : aluMulh x y = ((x.signExtend 64 * y.signExtend 64).extractLsb' 32 32, 0) := by
  have hprod : x.signExtend 64 * y.signExtend 64 = BitVec.ofInt 64 (x.toInt * y.toInt) := (BitVec.ofInt_mul _ _).symm
  rw [hprod, extractLsb'_ofInt_high, aluMulh]

theorem aluMulhu_eq (x y : Word) : aluMulhu x y = ((x.setWidth 64 * y.setWidth 64).extractLsb' 32 32, 0) := by
  have hprod : x.setWidth 64 * y.setWidth 64 = BitVec.ofInt 64 ((x.toNat * y.toNat : Nat) : Int) := by
    rw [BitVec.ofInt_natCast, BitVec.ofNat_mul, BitVec.ofNat_toNat, BitVec.ofNat_toNat]
  have hquot : ((x.toNat * y.toNat : Nat) : Int) / 2 ^ 32 = (x.toNat * y.toNat / 2 ^ 32 : Nat) := by norm_cast
  rw [hprod, extractLsb'_ofInt_high, hquot, BitVec.ofInt_natCast, aluMulhu, word]

/-- Where the signed operands do not differ, it is the same which of them is taken. -/
theorem ite_toInt_le_eq_ite_slt (x y u v : Word) (huv : x = y → u = v) :
    (if x.toInt ≤ y.toInt then u else v) = if x.slt y then u else v := by
  rw [BitVec.slt_eq_decide]
  by_cases hxy : x = y
  · rw [huv hxy, ite_self, ite_self]
  · have hle : x.toInt ≤ y.toInt ↔ x.toInt < y.toInt := by
      have hne := mt BitVec.eq_of_toInt_eq hxy
      omega
    simp only [hle, decide_eq_true_eq]

/-- The same for unsigned operands. -/
theorem ite_toNat_le_eq_ite_ult (x y u v : Word) (huv : x = y → u = v) :
    (if x.toNat ≤ y.toNat then u else v) = if x.ult y then u else v := by
  rw [BitVec.ult_eq_decide]
  by_cases hxy : x = y
  · rw [huv hxy, ite_self, ite_self]
  · have hle : x.toNat ≤ y.toNat ↔ x.toNat < y.toNat := by
      have hne := mt BitVec.eq_of_toNat_eq hxy
      omega
    simp only [hle, decide_eq_true_eq]

theorem aluMin_eq (x y : Word) : aluMin x y = (if x.slt y then x else y, 0) := by
  rw [aluMin, ite_toInt_le_eq_ite_slt x y x y id]
theorem aluMax_eq (x y : Word) : aluMax x y = (if x.slt y then y else x, 0) := by
  rw [aluMax, ite_toInt_le_eq_ite_slt x y y x Eq.symm]
theorem aluMinu_eq (x y : Word) : aluMinu x y = (if x.ult y then x else y, 0) := by
  rw [aluMinu, ite_toNat_le_eq_ite_ult x y x y id]
theorem aluMaxu_eq (x y : Word) : aluMaxu x y = (if x.ult y then y else x, 0) := by
  rw [aluMaxu, ite_toNat_le_eq_ite_ult x y y x Eq.symm]

/-- The count of CLZ is the number of leading zeros: `n` bits above the highest 1, all 32 bits of 0. -/
theorem exists_aluClz_eq (x : Word) : ∃ n : Nat, n ≤ 32 ∧ x.toNat < 2 ^ (32 - n) ∧ (n < 32 → 2 ^ (31 - n) ≤ x.toNat) ∧
    aluClz x = (BitVec.ofNat 32 n, 0) := by
  by_cases hx : x = 0#32
  · exact ⟨32, Nat.le_refl _, by simp [hx], fun h => absurd h (Nat.lt_irrefl _), by rw [aluClz, if_pos hx]⟩
  · have hx0 : x.toNat ≠ 0 := fun h => hx (BitVec.eq_of_toNat_eq h)
    have hlog : Nat.log2 x.toNat < 32 := (Nat.log2_lt hx0).mpr x.isLt
    refine ⟨31 - Nat.log2 x.toNat, by omega, ?_, fun _ => ?_, by rw [aluClz, if_neg hx, word]⟩
    · rw [show 32 - (31 - Nat.log2 x.toNat) = Nat.log2 x.toNat + 1 by omega]
      exact Nat.lt_log2_self
    · rw [show 31 - (31 - Nat.log2 x.toNat) = Nat.log2 x.toNat by omega]
      exact Nat.log2_self_le hx0

end Sys2Proof.Machine
end

section
/-! SUPPORT. Division and remainder at every pair of operands: by 0, at the one quotient that does not fit, and elsewhere (R344). -/

namespace Sys2Proof.Machine

variable {x y : Word}

section
variable (hy : y = 0#32)
include hy

theorem aluDiv_of_eq_zero : aluDiv x y = (0#32, 2) := if_pos hy
theorem aluDivu_of_eq_zero : aluDivu x y = (0#32, 2) := if_pos hy
theorem aluRem_of_eq_zero : aluRem x y = (x, 2) := if_pos hy
theorem aluRemu_of_eq_zero : aluRemu x y = (x, 2) := if_pos hy

end

/-- 2³¹ does not fit in 32 bits. -/
theorem aluDiv_of_intMin (hxy : x = 0x80000000#32 ∧ y = 0xFFFFFFFF#32) : aluDiv x y = (0x7FFFFFFF#32, 16) := by
  obtain ⟨rfl, rfl⟩ := hxy
  decide

theorem aluRem_of_intMin (hxy : x = 0x80000000#32 ∧ y = 0xFFFFFFFF#32) : aluRem x y = (0#32, 0) := by
  obtain ⟨rfl, rfl⟩ := hxy
  decide

variable (hy : y ≠ 0#32)
include hy

/-- Every other quotient fits. -/
theorem aluDiv_of_ne (hxy : ¬(x = 0x80000000#32 ∧ y = 0xFFFFFFFF#32)) : aluDiv x y = (x.sdiv y, 0) := by
  have hquot : (x.sdiv y).toInt = x.toInt.tdiv y.toInt := BitVec.toInt_sdiv_of_ne_or_ne x y (Decidable.not_and_iff_or_not.mp hxy)
  have hlo := (x.sdiv y).le_toInt
  have hhi := (x.sdiv y).toInt_lt
  rw [aluDiv, if_neg hy, ← hquot, satInt_of_fits (by omega), BitVec.ofInt_toInt]

theorem aluRem_of_ne : aluRem x y = (x.srem y, 0) := by
  rw [aluRem, if_neg hy, ← BitVec.toInt_srem, BitVec.ofInt_toInt]

theorem aluDivu_of_ne : aluDivu x y = (x / y, 0) := by rw [aluDivu, if_neg hy, BitVec.udiv_def, word]
theorem aluRemu_of_ne : aluRemu x y = (x % y, 0) := by rw [aluRemu, if_neg hy, BitVec.umod_def, word]

end Sys2Proof.Machine
end

section
/-! SUPPORT. Scalar instructions by the result of their operation: of one word, and of two (R342, R373). -/

namespace Sys2Proof.Machine

variable {i : Instr} {w imm r : Word} {fl : Nat} {s : State}

section
variable {k : Fin 64} {p : Fin 8} {d a b : Fin 32}

/-- A register operation on sA and sB that gives `r` and the flags `fl`. -/
theorem scalarIs_of_aluRun_eq {op : Word → Word → Word × Nat} (h : issues s k 4) (hp : predOn s k p) (hw : sarbWords i = [w])
    (hm : sarbMask i = 0xFFFFFFFF#32) (he : exec i s = .next (aluRun [w] k p d a b op s))
    (hop : op (sget (coreOf s k) a) (sget (coreOf s k) b) = (r, fl)) : ScalarIs i s k 4 d r fl := by
  have hrun := scalarIs_aluRun hw hm he h hp
  rwa [hop] at hrun

/-- A register operation on sA, or on sA and an immediate, that gives `r` and the flags `fl`. -/
theorem scalarIs_of_aluRun1_eq {op : Word → Word × Nat} (h : issues s k 4) (hp : predOn s k p) (hw : sarbWords i = [w])
    (hm : sarbMask i = 0xFFFFFFFF#32) (he : exec i s = .next (aluRun1 [w] k p d a op s))
    (hop : op (sget (coreOf s k) a) = (r, fl)) : ScalarIs i s k 4 d r fl := by
  have hrun := scalarIs_aluRun1 hw hm he h hp
  rwa [hop] at hrun

end

/-- The words at the counter are the two of an extended instruction, all of whose bits are fixed. -/
theorem spelt_extended {k : Nat} (hw : sarbWords i = [w, imm]) (hm : sarbMask i = 0xFFFFFFFF#32) (h : spelt i s k) :
    ([w, imm] : List Word)[0]? = some (rd32 s (fetchAddr s k (coreOf s k).pc) &&& 0xFFFFFFFF#32) ∧
      ([w, imm] : List Word)[1]? = some (rd32 s (fetchAddr s k ((coreOf s k).pc + 4))) := by
  have h0 := h 0 (by simp [hw])
  have h1 := h 1 (by simp [hw])
  exact ⟨by simpa [spells, hw, hm] using h0, by simpa [spells, hw] using h1⟩

/-- An extended instruction that runs as `coreExec` of a scalar result `g` gives that result. -/
theorem scalarIs_extended {k p d : Nat} (g : CoreSt → Word × Nat) (h : issues s k 8) (hp : predOn s k p) (hw : sarbWords i = [w, imm])
    (hm : sarbMask i = 0xFFFFFFFF#32)
    (he : exec i s = .next (coreExec [w, imm] k 8 none false p (fun c s => .go (scalar k s d (g c))) s)) :
    ScalarIs i s k 8 d (g (coreOf s k)).1 (g (coreOf s k)).2 := by
  intro hs
  obtain ⟨hfirst, hsecond⟩ := spelt_extended hw hm hs
  rw [he, coreExec_scalar [w, imm] _ s k 8 p d (fun c _ => g c) h hp hfirst fun _ => hsecond]

end Sys2Proof.Machine
end

section
/-! The results of the ALU, of its divisions and of the immediate forms (R343 to R345, R373). -/

namespace Sys2Proof.Machine

/-- Settles O10: each instruction is a scalar register operation or an extended one, with the result of its operation. -/
theorem integerResults : Obligations.IntegerResults := by
  refine ⟨?register, ?division, ?immediate⟩
  case register =>
    intro k p d a b s h hp x y
    obtain ⟨n, hn, hlt, hle, hclz⟩ := exists_aluClz_eq x
    refine ⟨?add, ?sub, ?and, ?or, ?xor, ?shl, ?shr, ?sra, ?mul, ?mulh, ?mulhu, ?adds, ?subs, ?min, ?max, ?minu, ?maxu, ?abs,
      n, hn, hlt, hle, ?clz⟩
    case add => exact scalarIs_of_aluRun_eq h hp rfl rfl rfl rfl
    case sub => exact scalarIs_of_aluRun_eq h hp rfl rfl rfl rfl
    case and => exact scalarIs_of_aluRun_eq h hp rfl rfl rfl rfl
    case or => exact scalarIs_of_aluRun_eq h hp rfl rfl rfl rfl
    case xor => exact scalarIs_of_aluRun_eq h hp rfl rfl rfl rfl
    case shl => exact scalarIs_of_aluRun_eq h hp rfl rfl rfl (aluShl_eq x y)
    case shr => exact scalarIs_of_aluRun_eq h hp rfl rfl rfl (aluShr_eq x y)
    case sra => exact scalarIs_of_aluRun_eq h hp rfl rfl rfl (aluSra_eq x y)
    case mul => exact scalarIs_of_aluRun_eq h hp rfl rfl rfl rfl
    case mulh => exact scalarIs_of_aluRun_eq h hp rfl rfl rfl (aluMulh_eq x y)
    case mulhu => exact scalarIs_of_aluRun_eq h hp rfl rfl rfl (aluMulhu_eq x y)
    case adds => exact scalarIs_of_aluRun_eq h hp rfl rfl rfl (satInt_eq _)
    case subs => exact scalarIs_of_aluRun_eq h hp rfl rfl rfl (satInt_eq _)
    case min => exact scalarIs_of_aluRun_eq h hp rfl rfl rfl (aluMin_eq x y)
    case max => exact scalarIs_of_aluRun_eq h hp rfl rfl rfl (aluMax_eq x y)
    case minu => exact scalarIs_of_aluRun_eq h hp rfl rfl rfl (aluMinu_eq x y)
    case maxu => exact scalarIs_of_aluRun_eq h hp rfl rfl rfl (aluMaxu_eq x y)
    case abs => exact scalarIs_of_aluRun1_eq h hp rfl rfl rfl (satInt_eq _)
    case clz => exact scalarIs_of_aluRun1_eq h hp rfl rfl rfl hclz
  case division =>
    intro k p d a b s h hp x y
    refine ⟨fun hy => ⟨?divZero, ?divuZero, ?remZero, ?remuZero⟩, fun hxy => ⟨?divMin, ?remMin⟩,
      fun hy => ⟨fun hxy => ⟨?div, ?rem⟩, ?divu, ?remu⟩⟩
    case divZero => exact scalarIs_of_aluRun_eq h hp rfl rfl rfl (aluDiv_of_eq_zero hy)
    case divuZero => exact scalarIs_of_aluRun_eq h hp rfl rfl rfl (aluDivu_of_eq_zero hy)
    case remZero => exact scalarIs_of_aluRun_eq h hp rfl rfl rfl (aluRem_of_eq_zero hy)
    case remuZero => exact scalarIs_of_aluRun_eq h hp rfl rfl rfl (aluRemu_of_eq_zero hy)
    case divMin => exact scalarIs_of_aluRun_eq h hp rfl rfl rfl (aluDiv_of_intMin hxy)
    case remMin => exact scalarIs_of_aluRun_eq h hp rfl rfl rfl (aluRem_of_intMin hxy)
    case div => exact scalarIs_of_aluRun_eq h hp rfl rfl rfl (aluDiv_of_ne hy hxy)
    case rem => exact scalarIs_of_aluRun_eq h hp rfl rfl rfl (aluRem_of_ne hy)
    case divu => exact scalarIs_of_aluRun_eq h hp rfl rfl rfl (aluDivu_of_ne hy)
    case remu => exact scalarIs_of_aluRun_eq h hp rfl rfl rfl (aluRemu_of_ne hy)
  case immediate =>
    intro k p d a n imm w s hp x
    refine ⟨fun h => ⟨?addi, ?andi, ?ori, ?xori, ?shiShl, ?shiShr, ?shiSra⟩, fun h => ⟨?li, ?addx⟩⟩
    case addi => exact scalarIs_of_aluRun1_eq h hp rfl rfl rfl rfl
    case andi => exact scalarIs_of_aluRun1_eq h hp rfl rfl rfl rfl
    case ori => exact scalarIs_of_aluRun1_eq h hp rfl rfl rfl rfl
    case xori => exact scalarIs_of_aluRun1_eq h hp rfl rfl rfl rfl
    case shiShl => exact scalarIs_of_aluRun1_eq h hp rfl rfl rfl (aluShl_word x n)
    case shiShr => exact scalarIs_of_aluRun1_eq h hp rfl rfl rfl (aluShr_word x n)
    case shiSra => exact scalarIs_of_aluRun1_eq h hp rfl rfl rfl (aluSra_word x n)
    case li => exact scalarIs_extended (fun _ => (w, 0)) h hp rfl rfl rfl
    case addx => exact scalarIs_extended (fun c => aluAdd (sget c a) w) h hp rfl rfl rfl

end Sys2Proof.Machine
end

section
/-! SUPPORT. What a post leaves unchanged: a record for the almanac (R497, R503) and an item for a host queue (R157 to R160) change
status words, the almanac's post queue and the host queues, and nothing else. -/

namespace Sys2Proof.Machine

/-- The state without the parts that posts change. -/
def postFrame (s : State) : State := { s with live := [], alm := {}, part := { s.part with hnq := [] } }

/-- A chain of state changes leaves what each of its links leaves. -/
theorem postFrame_foldl {α : Type} (f : State → α → State) (hf : ∀ t a, postFrame (f t a) = postFrame t) (l : List α) (s : State) :
    postFrame (l.foldl f s) = postFrame s :=
  List.foldlRecOn (motive := fun t => postFrame t = postFrame s) l f rfl fun t ht a _ => (hf t a).trans ht

variable (s : State)

@[simp] theorem postFrame_setEvt (a i : Nat) : postFrame (setEvt s a i) = postFrame s := rfl
@[simp] theorem postFrame_bump (a hi lo n : Nat) : postFrame (bump s a hi lo n) = postFrame s := rfl
@[simp] theorem postFrame_guardFault (i : Nat) : postFrame (guardFault s i) = postFrame s := rfl
@[simp] theorem postFrame_ptrSum (i : Nat) : postFrame (ptrSum s i) = postFrame s := rfl
@[simp] theorem postFrame_setHnq (p : Nat) (h : Hnq) : postFrame (setHnq s p h) = postFrame s := rfl
@[simp] theorem postFrame_setAlm (a : AlmSt) : postFrame { s with alm := a } = postFrame s := rfl

@[simp] theorem postFrame_almCount (sev : Nat) : postFrame (almCount s sev) = postFrame s := by
  unfold almCount
  split <;> simp

@[simp] theorem postFrame_almQueue (p : Post) : postFrame (almQueue s p) = postFrame s := by
  unfold almQueue
  dsimp only
  split
  · simp
  · split <;> simp

@[simp] theorem postFrame_hnqPut (p : Nat) (w : Word) : postFrame (hnqPut s p w) = postFrame s := by
  unfold hnqPut
  by_cases h : (hnqOf s p).q.items.length < 256 <;> simp [h]

@[simp] theorem postFrame_hnqEmpty (p : Nat) : postFrame (hnqEmpty s p) = postFrame s := by simp [hnqEmpty]

@[simp] theorem postFrame_hnqSafe (p : Nat) (w : Word) : postFrame (hnqSafe s p w) = postFrame s := by
  unfold hnqSafe
  split <;> simp

/-- A notification of the chosen partitions is a chain of queue items. -/
theorem postFrame_notifying (c : State → Nat → Bool) (w : Word) (l : List Nat) :
    postFrame (l.foldl (fun t p => if c t p then hnqSafe t p w else t) s) = postFrame s :=
  postFrame_foldl _ (fun t p => by split <;> simp) l s

@[simp] theorem postFrame_almDrop (dropped : Bool) (sev : Nat) : postFrame (almDrop dropped s sev) = postFrame s := by
  unfold almDrop
  split
  · rfl
  · exact postFrame_notifying _ _ _ _

@[simp] theorem postFrame_almPtrReset : postFrame (almPtrReset s) = postFrame s := by
  have hcount := postFrame_foldl (fun t (p : Post) => almCount t p.sev) (fun t p => postFrame_almCount t p.sev) s.alm.posts.items s
  refine (postFrame_notifying _ _ _ _).trans ?_
  simpa using hcount

@[simp] theorem postFrame_almPost (sev src code : Nat) (pid : Option Nat) (info : List Word) :
    postFrame (almPost s sev src code pid info) = postFrame s := by
  simp only [almPost, postFrame_almDrop, postFrame_almQueue]
  split <;> simp

@[simp] theorem postFrame_hnqPost (p cls src code info : Nat) : postFrame (hnqPost s p cls src code info) = postFrame s := by
  simp only [hnqPost, postFrame_hnqPut]
  split <;> simp [hnqPtrReset]

@[simp] theorem postFrame_postOwner (o : Option Nat) (cls src code info : Nat) :
    postFrame (postOwner s o cls src code info) = postFrame s := by
  cases o <;> simp [postOwner]

end Sys2Proof.Machine
end

section
/-! SUPPORT. What decides a lane (R418 to R420): the state apart from the lanes and from what posts change, and the lane itself. -/

namespace Sys2Proof.Machine

/-- The state without the lanes, the last look at MASTER and the parts that posts change. -/
def laneFrame (s : State) : State :=
  { postFrame s with tmx := { s.tmx with lanes := [], master := false } }

variable {s t : State} {n : Nat}

@[simp] theorem laneFrame_bump (s : State) (a hi lo n : Nat) : laneFrame (bump s a hi lo n) = laneFrame s := rfl
@[simp] theorem laneFrame_setLane (s : State) (n : Nat) (l : Lane) : laneFrame (setLane s n l) = laneFrame s := rfl

theorem laneFrame_eq_of_postFrame (h : postFrame s = postFrame t) : laneFrame s = laneFrame t :=
  congrArg (fun u : State => { u with tmx := { u.tmx with lanes := [], master := false } }) h

theorem laneOf_eq_of_postFrame (h : postFrame s = postFrame t) (n : Nat) : laneOf s n = laneOf t n :=
  (congrArg (fun u => laneOf u n) h :)

@[simp] theorem laneOf_bump (s : State) (a hi lo k m : Nat) : laneOf (bump s a hi lo k) m = laneOf s m := rfl
@[simp] theorem laneOf_setLane_self (s : State) (n : Nat) (l : Lane) : laneOf (setLane s n l) n = l := mget_mset_self _ _ _ _
theorem laneOf_setLane_of_ne {m : Nat} (h : m ≠ n) (s : State) (l : Lane) : laneOf (setLane s n l) m = laneOf s m :=
  mget_mset_ne _ _ _ _ _ h

theorem ltc_eq_of_laneFrame (h : laneFrame s = laneFrame t) : s.ltc = t.ltc := (congrArg State.ltc h :)

/-- The flag state of a lane is decided outside the lanes (R418). -/
theorem laneOp_eq_of_laneFrame (h : laneFrame s = laneFrame t) (n : Nat) : laneOp s n = laneOp t n :=
  (congrArg (fun u => laneOp u n) h :)

/-- Of the lane itself, its hold condition looks at the guard fault alone (R420). -/
theorem holdWhy_eq_of_laneFrame (h : laneFrame s = laneFrame t) (hg : (laneOf s n).guard = (laneOf t n).guard) :
    holdWhy s n = holdWhy t n := by
  have hmaster : laneMaster s = laneMaster t := (congrArg laneMaster h :)
  have howner : ownerOf s 5 n = ownerOf t 5 n := (congrArg (fun u => ownerOf u 5 n) h :)
  have hcfg : forceOf s (R.laneCfg n) = forceOf t (R.laneCfg n) := (congrArg (fun u => forceOf u (R.laneCfg n)) h :)
  have hpart : partOf s = partOf t := (congrArg partOf h :)
  have hon : partOn s = partOn t := (congrArg partOn h :)
  have hslice : s.part.sliceHold = t.part.sliceHold := (congrArg (fun u => u.part.sliceHold) h :)
  simp only [holdWhy, hmaster, howner, hcfg, hpart, hon, hslice, hg]

/-- What MIN_US still holds depends on the last change to OPERATE (R419). -/
theorem minActive_eq_of_laneFrame (h : laneFrame s = laneFrame t) (hs : (laneOf s n).since = (laneOf t n).since)
    (he : (laneOf s n).ever = (laneOf t n).ever) : minActive s n = minActive t n := by
  have hcfg : forceOf s (R.laneCfg n) = forceOf t (R.laneCfg n) := (congrArg (fun u => forceOf u (R.laneCfg n)) h :)
  simp only [minActive, hcfg, ltc_eq_of_laneFrame h, hs, he]

theorem minActive_iff : minActive s n = true ↔
    (laneOf s n).ever = true ∧ s.ltc < (laneOf s n).since + fld (forceOf s (R.laneCfg n)) 15 0 * 1000 := by
  simp [minActive]

end Sys2Proof.Machine
end

section
/-! SUPPORT. One lane brought to its conditions: its guard fault (R422), then its drive (R419, R420). -/

namespace Sys2Proof.Machine

variable (s : State) (n : Nat)

/-- A lane guard fault sets the lane's guard and posts; without one nothing changes (R422). -/
theorem postFrame_laneGuard : postFrame (laneGuard s n) =
    if laneBadPair s n && !(laneOf s n).guard then postFrame (setLane s n { laneOf s n with guard := true }) else postFrame s := by
  unfold laneGuard
  split <;> simp

@[simp] theorem laneFrame_laneGuard : laneFrame (laneGuard s n) = laneFrame s := by
  have h := postFrame_laneGuard s n
  split at h <;> simpa using laneFrame_eq_of_postFrame h

theorem laneOf_laneGuard_of_ne {m : Nat} (hm : m ≠ n) : laneOf (laneGuard s n) m = laneOf s m := by
  have h := postFrame_laneGuard s n
  split at h
  · exact (laneOf_eq_of_postFrame h m).trans (laneOf_setLane_of_ne hm s _)
  · exact laneOf_eq_of_postFrame h m

/-- The check of a lane's pairs changes nothing of the lane but its guard. -/
theorem exists_laneOf_laneGuard_self : ∃ g, laneOf (laneGuard s n) n = { laneOf s n with guard := g } := by
  have h := postFrame_laneGuard s n
  split at h
  · exact ⟨true, (laneOf_eq_of_postFrame h n).trans (laneOf_setLane_self s n _)⟩
  · exact ⟨(laneOf s n).guard, laneOf_eq_of_postFrame h n⟩

@[simp] theorem laneFrame_laneUpdate : laneFrame (laneUpdate s n) = laneFrame s := by
  unfold laneUpdate
  dsimp only
  split <;> simp

theorem laneOf_laneUpdate_of_ne {m : Nat} (hm : m ≠ n) : laneOf (laneUpdate s n) m = laneOf s m := by
  unfold laneUpdate
  dsimp only
  split <;> simp [laneOf_setLane_of_ne hm, laneOf_laneGuard_of_ne s n hm]

/-- The lane as the update leaves it: driven by its conditions after the guard check, the instant of a change to OPERATE taken. -/
theorem laneOf_laneUpdate_self :
    let u := laneGuard s n
    let l := { laneOf u n with drive := laneDrive u n, why := holdWhy u n }
    laneOf (laneUpdate s n) n =
      if laneDrive u n = .operate ∧ (laneOf u n).drive ≠ .operate then { l with since := u.ltc, ever := true } else l := by
  unfold laneUpdate
  dsimp only
  split <;> simp

end Sys2Proof.Machine
end

section
/-! SUPPORT. What R419 and R420 say of a lane between two states, and that one lane's update does so. -/

namespace Sys2Proof.Machine

/-- Lane `n` of `t` has gone where its hold condition in `t`, and its flags and MIN_US in `s`, lead it from its drive in `s`. -/
structure LaneFollows (s t : State) (n : Nat) : Prop where
  drive : (laneOf t n).drive =
    if holdWhy t n ≠ 0 then .hold else if laneOp s n || minActive s n then .operate else .reset
  taken : (laneOf t n).drive = .operate → (laneOf s n).drive ≠ .operate → (laneOf t n).since = s.ltc ∧ (laneOf t n).ever = true
  kept : (laneOf t n).drive ≠ .operate ∨ (laneOf s n).drive = .operate →
    (laneOf t n).since = (laneOf s n).since ∧ (laneOf t n).ever = (laneOf s n).ever

theorem laneFollows_laneUpdate (s : State) (n : Nat) : LaneFollows s (laneUpdate s n) n := by
  obtain ⟨g, hguard⟩ := exists_laneOf_laneGuard_self s n
  have hlane := laneOf_laneUpdate_self s n
  have hframe := laneFrame_laneGuard s n
  have hop := laneOp_eq_of_laneFrame hframe n
  have hmin := minActive_eq_of_laneFrame hframe (n := n) (by rw [hguard]) (by rw [hguard])
  have hltc := ltc_eq_of_laneFrame hframe
  have hdrive : (laneOf (laneUpdate s n) n).drive = laneDrive (laneGuard s n) n := by rw [hlane]; split <;> rfl
  have hwhy : holdWhy (laneUpdate s n) n = holdWhy (laneGuard s n) n :=
    holdWhy_eq_of_laneFrame (by simp) (by rw [hlane]; split <;> rfl)
  refine ⟨?drive, fun hto hfrom => ?taken, fun hstay => ?kept⟩
  case drive => rw [hdrive, laneDrive, hwhy, hop, hmin]
  case taken =>
    rw [hlane, if_pos ⟨hdrive ▸ hto, by rwa [hguard]⟩]
    exact ⟨hltc, rfl⟩
  case kept =>
    have hno : ¬(laneDrive (laneGuard s n) n = .operate ∧ (laneOf (laneGuard s n) n).drive ≠ .operate) := by
      rw [← hdrive, hguard]
      rintro ⟨hto, hfrom⟩
      exact hstay.elim (· hto) hfrom
    rw [hlane, if_neg hno, hguard]
    exact ⟨rfl, rfl⟩

end Sys2Proof.Machine
end

section
/-! SUPPORT. The lanes in their order: before its own turn and after it, a lane is left alone. -/

namespace Sys2Proof.Machine

/-- Lane `n` and all that decides it are the same in both states. -/
def LaneAlike (n : Nat) (s t : State) : Prop := laneFrame s = laneFrame t ∧ laneOf s n = laneOf t n

/-- Whether a lane follows its conditions is seen in what decides it. -/
theorem LaneFollows.congr {s s' t t' : State} {n : Nat} (h : LaneFollows s t n) (hs : LaneAlike n s' s) (ht : LaneAlike n t' t) :
    LaneFollows s' t' n := by
  obtain ⟨hsframe, hslane⟩ := hs
  obtain ⟨htframe, htlane⟩ := ht
  have hop := laneOp_eq_of_laneFrame hsframe n
  have hmin := minActive_eq_of_laneFrame hsframe (n := n) (by rw [hslane]) (by rw [hslane])
  have hwhy := holdWhy_eq_of_laneFrame htframe (n := n) (by rw [htlane])
  have hltc := ltc_eq_of_laneFrame hsframe
  constructor
  · rw [htlane, hwhy, hop, hmin, h.drive]
  · rw [htlane, hslane, hltc]
    exact h.taken
  · rw [htlane, hslane]
    exact h.kept

theorem LaneAlike.trans {n : Nat} {s t u : State} (h : LaneAlike n s t) (g : LaneAlike n t u) : LaneAlike n s u :=
  ⟨h.1.trans g.1, h.2.trans g.2⟩

theorem laneAlike_laneUpdate_of_ne {n m : Nat} (h : n ≠ m) (s : State) : LaneAlike n (laneUpdate s m) s :=
  ⟨laneFrame_laneUpdate s m, laneOf_laneUpdate_of_ne s m h⟩

theorem upto_succ {σ : Type} (k : Nat) (s : σ) (f : Nat → σ → σ) : upto (k + 1) s f = f k (upto k s f) := by
  simp [upto, List.range_succ]

/-- A lane whose turn has not come is as it was. -/
theorem laneAlike_upto_of_le {n : Nat} (s : State) : ∀ k ≤ n, LaneAlike n (upto k s fun m t => laneUpdate t m) s
  | 0, _ => ⟨rfl, rfl⟩
  | k + 1, hk => by
    rw [upto_succ]
    exact (laneAlike_laneUpdate_of_ne (by omega) _).trans (laneAlike_upto_of_le s k (by omega))

/-- A lane whose turn is over follows its conditions. -/
theorem laneFollows_upto {n k : Nat} (s : State) (h : n + 1 ≤ k) : LaneFollows s (upto k s fun m t => laneUpdate t m) n := by
  have hsame (t : State) : LaneAlike n t t := ⟨rfl, rfl⟩
  induction h with
  | refl =>
    obtain ⟨hframe, hlane⟩ := laneAlike_upto_of_le s n (Nat.le_refl n)
    rw [upto_succ]
    exact (laneFollows_laneUpdate _ n).congr ⟨hframe.symm, hlane.symm⟩ (hsame _)
  | step hk ih =>
    have hlt := Nat.succ_le_iff.mp hk
    rw [upto_succ]
    exact ih.congr (hsame s) (laneAlike_laneUpdate_of_ne (Nat.ne_of_lt hlt) _)

theorem laneFollows_lanesUpdate (s : State) {n : Nat} (hn : n < 32) : LaneFollows s (lanesUpdate s) n := by
  refine (laneFollows_upto _ hn).congr ?_ ⟨rfl, rfl⟩
  split <;> exact ⟨rfl, rfl⟩

end Sys2Proof.Machine
end

section
/-! The drive of the trip lanes (R419, R420). -/

namespace Sys2Proof.Machine

/-- Settles O5: each lane follows its conditions in its turn, and the turns of the others leave it and its conditions alone. -/
theorem lanesFollowTheirConditions : Obligations.LanesFollowTheirConditions := by
  intro s n hn t l min
  obtain ⟨hdrive, htaken, hkept⟩ := laneFollows_lanesUpdate s hn
  have hmin : minActive s n = true ↔ min := minActive_iff
  refine ⟨fun hhold => ?hold, fun hfree hon => ?operate, fun hfree hoff hover => ?reset, htaken, hkept⟩
  case hold => exact hdrive.trans (if_pos hhold)
  case operate =>
    have hgo : (laneOp s n || minActive s n) = true := by rwa [Bool.or_eq_true, hmin]
    exact hdrive.trans ((if_neg (not_not_intro hfree)).trans (if_pos hgo))
  case reset =>
    have hno : ¬(laneOp s n || minActive s n) = true := by simp [hoff, hmin, hover]
    exact hdrive.trans ((if_neg (not_not_intro hfree)).trans (if_neg hno))

end Sys2Proof.Machine
end

section
/-! SUPPORT. Whatever command takes place, it ends in a next state that keeps the memory's form, the queue, the time and the one-way
fuses: the dispatch meets the law of each command's meaning. -/

namespace Sys2Proof.Machine

/-- Every command keeps what its meaning keeps. -/
theorem keepsEnd_exec (s : State) : ∀ c : Instr, KeepsEnd s (exec c s)
  | .meridian => execMeridian_keeps _ (.refl s)
  | .commit .. => execCommit_keeps _ _ _ _ (.refl s)
  | .commitCancel .. => execCommitCancel_keeps _ _ _ (.refl s)
  | .consistencyCheckDone .. => execConsistencyCheckDone_keeps _ _ (.refl s)
  | .stoppedSetInForce .. => execStoppedSetInForce_keeps _ _ (.refl s)
  | .registerWrite .. => execRegisterWrite_keeps _ _ _ _ _ (.refl s)
  | .readClear .. => execReadClear_keeps _ _ _ _ (.refl s)
  | .clockMonitorCheck .. => execClockMonitorCheck_keeps _ _ _ (.refl s)
  | .memoryAccess .. => execMemoryAccess_keeps _ _ _ _ _ _ _ (.refl s)
  | .softwareReset .. => execSoftwareReset_keeps _ _ (.refl s)
  | .resetRelease .. => execResetRelease_keeps _ _ _ _ _ (.refl s)
  | .sramWipeDone => execSramWipeDone_keeps _ (.refl s)
  | .dramWipeDone => execDramWipeDone_keeps _ (.refl s)
  | .powerOn => execPowerOn_keeps _ (.refl s)
  | .powerGood .. => execPowerGood_keeps _ _ (.refl s)
  | .storeOkChange .. => execStoreOkChange_keeps _ _ (.refl s)
  | .storeMeasure .. => execStoreMeasure_keeps _ _ _ (.refl s)
  | .pwrFailAssert .. => execPwrFailAssert_keeps _ _ (.refl s)
  | .pwrFailDeassert .. => execPwrFailDeassert_keeps _ _ (.refl s)
  | .rideThroughEnd => execRideThroughEnd_keeps _ (.refl s)
  | .twilightSave => execTwilightSave_keeps _ (.refl s)
  | .twilightSaveDone .. => execTwilightSaveDone_keeps _ _ (.refl s)
  | .storeLowHold .. => execStoreLowHold_keeps _ _ (.refl s)
  | .storeCutoff => execStoreCutoff_keeps _ (.refl s)
  | .twilightHandEnd .. => execTwilightHandEnd_keeps _ _ (.refl s)
  | .operatingCountWrite => execOperatingCountWrite_keeps _ (.refl s)
  | .sfpOvercurrent .. => execSfpOvercurrent_keeps _ _ (.refl s)
  | .handleChange .. => execHandleChange_keeps _ _ (.refl s)
  | .tempWarn .. => execTempWarn_keeps _ _ _ (.refl s)
  | .vinSurge .. => execVinSurge_keeps _ _ (.refl s)
  | .ptnrPresChange .. => execPtnrPresChange_keeps _ _ (.refl s)
  | .opsecRead .. => execOpsecRead_keeps _ _ (.refl s)
  | .verify .. => execVerify_keeps _ _ (.refl s)
  | .hash .. => execHash_keeps _ _ (.refl s)
  | .keyLoad .. => execKeyLoad_keeps _ _ (.refl s)
  | .transfer .. => execTransfer_keeps _ _ (.refl s)
  | .keyClear .. => execKeyClear_keeps _ _ (.refl s)
  | .keyGen .. => execKeyGen_keeps _ _ (.refl s)
  | .keyDelete .. => execKeyDelete_keeps _ _ (.refl s)
  | .importOpen .. => execImportOpen_keeps _ _ (.refl s)
  | .importApply .. => execImportApply_keeps _ _ (.refl s)
  | .attest .. => execAttest_keeps _ _ (.refl s)
  | .nonce .. => execNonce_keeps _ _ (.refl s)
  | .lcTransition .. => execLcTransition_keeps _ _ (.refl s)
  | .svnAdvance .. => execSvnAdvance_keeps _ _ (.refl s)
  | .fuseKeyAdd .. => execFuseKeyAdd_keeps _ _ (.refl s)
  | .fuseKeyRevoke .. => execFuseKeyRevoke_keeps _ _ (.refl s)
  | .provision .. => execProvision_keeps _ _ (.refl s)
  | .lcStatus .. => execLcStatus_keeps _ _ (.refl s)
  | .trustCmdDone => execTrustCmdDone_keeps _ (.refl s)
  | .importSessionExpiry => execImportSessionExpiry_keeps _ (.refl s)
  | .watchdogKick .. => execWatchdogKick_keeps _ _ _ (.refl s)
  | .watchdogExpiry => execWatchdogExpiry_keeps _ (.refl s)
  | .mramWipeDone => execMramWipeDone_keeps _ (.refl s)
  | .protectionReady => execProtectionReady_keeps _ (.refl s)
  | .assign .. => execAssign_keeps _ _ _ _ (.refl s)
  | .release .. => execRelease_keeps _ _ _ (.refl s)
  | .hnqPop .. => execHnqPop_keeps _ _ _ (.refl s)
  | .hnqPopTag .. => execHnqPopTag_keeps _ _ _ (.refl s)
  | .ptpSyncRx .. => execPtpSyncRx_keeps _ _ _ _ (.refl s)
  | .ptpFollowUpRx .. => execPtpFollowUpRx_keeps _ _ _ (.refl s)
  | .ptpAnnounceRx .. => execPtpAnnounceRx_keeps _ _ _ (.refl s)
  | .ptpPdelayReqRx .. => execPtpPdelayReqRx_keeps _ _ _ _ (.refl s)
  | .ptpPdelayRespRx .. => execPtpPdelayRespRx_keeps _ _ _ _ (.refl s)
  | .ptpMessageDrop .. => execPtpMessageDrop_keeps _ _ (.refl s)
  | .pdelayReqTx => execPdelayReqTx_keeps _ (.refl s)
  | .announceTimeout .. => execAnnounceTimeout_keeps _ _ _ (.refl s)
  | .syncLoss .. => execSyncLoss_keeps _ _ (.refl s)
  | .domainEnable .. => execDomainEnable_keeps _ _ _ (.refl s)
  | .domainDisable .. => execDomainDisable_keeps _ _ _ (.refl s)
  | .reversion .. => execReversion_keeps _ _ (.refl s)
  | .holdKeepExpiry => execHoldKeepExpiry_keeps _ (.refl s)
  | .slewDone => execSlewDone_keeps _ (.refl s)
  | .realign .. => execRealign_keeps _ _ (.refl s)
  | .irigbFrameRx .. => execIrigbFrameRx_keeps _ _ _ (.refl s)
  | .irigbLoss => execIrigbLoss_keeps _ (.refl s)
  | .ppsPulse => execPpsPulse_keeps _ (.refl s)
  | .txqPop0 .. => execTxqPop0_keeps _ _ _ (.refl s)
  | .txqFlush .. => execTxqFlush_keeps _ _ _ (.refl s)
  | .biPinEdge .. => execBiPinEdge_keeps _ _ _ _ (.refl s)
  | .biEdgeRecord .. => execBiEdgeRecord_keeps _ _ (.refl s)
  | .biqPop0 .. => execBiqPop0_keeps _ _ (.refl s)
  | .biqFlush .. => execBiqFlush_keeps _ _ (.refl s)
  | .tickEnable .. => execTickEnable_keeps _ _ (.refl s)
  | .tickGenStart => execTickGenStart_keeps _ (.refl s)
  | .tickDisable .. => execTickDisable_keeps _ _ (.refl s)
  | .timeNowRead .. => execTimeNowRead_keeps _ _ (.refl s)
  | .macFrameRx .. => execMacFrameRx_keeps _ _ _ _ (.refl s)
  | .linkUp .. => execLinkUp_keeps _ _ _ (.refl s)
  | .linkDown .. => execLinkDown_keeps _ _ _ _ (.refl s)
  | .modChange .. => execModChange_keeps _ _ _ (.refl s)
  | .txFault .. => execTxFault_keeps _ _ _ (.refl s)
  | .macEnable .. => execMacEnable_keeps _ _ _ _ (.refl s)
  | .macDisable .. => execMacDisable_keeps _ _ _ _ (.refl s)
  | .sfpTwoWire .. => execSfpTwoWire_keeps _ _ _ _ (.refl s)
  | .sfpTwoWireDone .. => execSfpTwoWireDone_keeps _ _ _ _ (.refl s)
  | .ringFlush .. => execRingFlush_keeps _ _ _ _ _ _ (.refl s)
  | .txrWrWrite .. => execTxrWrWrite_keeps _ _ _ _ _ (.refl s)
  | .macFrameTx .. => execMacFrameTx_keeps _ _ _ _ (.refl s)
  | .supervisionTx .. => execSupervisionTx_keeps _ _ (.refl s)
  | .dupEntryExpiry .. => execDupEntryExpiry_keeps _ _ (.refl s)
  | .svFrameRx .. => execSvFrameRx_keeps _ _ _ _ (.refl s)
  | .groupDeadline .. => execGroupDeadline_keeps _ _ (.refl s)
  | .ctxLost .. => execCtxLost_keeps _ _ (.refl s)
  | .recoveryCountExpiry .. => execRecoveryCountExpiry_keeps _ _ (.refl s)
  | .ctxFlush .. => execCtxFlush_keeps _ _ _ (.refl s)
  | .svpSend .. => execSvpSend_keeps _ _ (.refl s)
  | .scaReleaseProcess => execScaReleaseProcess_keeps _ (.refl s)
  | .freezeLimit .. => execFreezeLimit_keeps _ _ (.refl s)
  | .freqHoldExpiry .. => execFreqHoldExpiry_keeps _ _ (.refl s)
  | .settleCountExpiry .. => execSettleCountExpiry_keeps _ _ (.refl s)
  | .bankLoad .. => execBankLoad_keeps _ _ _ (.refl s)
  | .bankLoadDone => execBankLoadDone_keeps _ (.refl s)
  | .fadeEnd .. => execFadeEnd_keeps _ _ (.refl s)
  | .taskDispatch .. => execTaskDispatch_keeps _ _ (.refl s)
  | .opfRefusal .. => execOpfRefusal_keeps _ _ (.refl s)
  | .deadlineExpiry .. => execDeadlineExpiry_keeps _ _ (.refl s)
  | .pcxLoad .. => execPcxLoad_keeps _ _ (.refl s)
  | .pcxLoadDone => execPcxLoadDone_keeps _ (.refl s)
  | .coreExcClear .. => execCoreExcClear_keeps _ _ _ (.refl s)
  | .undefinedEncoding .. => execUndefinedEncoding_keeps _ _ _ (.refl s)
  | .add .. => execAdd_keeps _ _ _ _ _ _ (.refl s)
  | .sub .. => execSub_keeps _ _ _ _ _ _ (.refl s)
  | .and .. => execAnd_keeps _ _ _ _ _ _ (.refl s)
  | .or .. => execOr_keeps _ _ _ _ _ _ (.refl s)
  | .xor .. => execXor_keeps _ _ _ _ _ _ (.refl s)
  | .shl .. => execShl_keeps _ _ _ _ _ _ (.refl s)
  | .shr .. => execShr_keeps _ _ _ _ _ _ (.refl s)
  | .sra .. => execSra_keeps _ _ _ _ _ _ (.refl s)
  | .mul .. => execMul_keeps _ _ _ _ _ _ (.refl s)
  | .mulh .. => execMulh_keeps _ _ _ _ _ _ (.refl s)
  | .mulhu .. => execMulhu_keeps _ _ _ _ _ _ (.refl s)
  | .adds .. => execAdds_keeps _ _ _ _ _ _ (.refl s)
  | .subs .. => execSubs_keeps _ _ _ _ _ _ (.refl s)
  | .min .. => execMin_keeps _ _ _ _ _ _ (.refl s)
  | .max .. => execMax_keeps _ _ _ _ _ _ (.refl s)
  | .minu .. => execMinu_keeps _ _ _ _ _ _ (.refl s)
  | .maxu .. => execMaxu_keeps _ _ _ _ _ _ (.refl s)
  | .div .. => execDiv_keeps _ _ _ _ _ _ (.refl s)
  | .divu .. => execDivu_keeps _ _ _ _ _ _ (.refl s)
  | .rem .. => execRem_keeps _ _ _ _ _ _ (.refl s)
  | .remu .. => execRemu_keeps _ _ _ _ _ _ (.refl s)
  | .abs .. => execAbs_keeps _ _ _ _ _ (.refl s)
  | .clz .. => execClz_keeps _ _ _ _ _ (.refl s)
  | .addi .. => execAddi_keeps _ _ _ _ _ _ (.refl s)
  | .andi .. => execAndi_keeps _ _ _ _ _ _ (.refl s)
  | .ori .. => execOri_keeps _ _ _ _ _ _ (.refl s)
  | .xori .. => execXori_keeps _ _ _ _ _ _ (.refl s)
  | .shiShl .. => execShiShl_keeps _ _ _ _ _ _ (.refl s)
  | .shiShr .. => execShiShr_keeps _ _ _ _ _ _ (.refl s)
  | .shiSra .. => execShiSra_keeps _ _ _ _ _ _ (.refl s)
  | .add64 .. => execAdd64_keeps _ _ _ _ _ _ (.refl s)
  | .sub64 .. => execSub64_keeps _ _ _ _ _ _ (.refl s)
  | .mull .. => execMull_keeps _ _ _ _ _ _ (.refl s)
  | .mullu .. => execMullu_keeps _ _ _ _ _ _ (.refl s)
  | .adds64 .. => execAdds64_keeps _ _ _ _ _ _ (.refl s)
  | .fadd .. => execFadd_keeps _ _ _ _ _ _ (.refl s)
  | .fsub .. => execFsub_keeps _ _ _ _ _ _ (.refl s)
  | .fmul .. => execFmul_keeps _ _ _ _ _ _ (.refl s)
  | .fdiv .. => execFdiv_keeps _ _ _ _ _ _ (.refl s)
  | .fsqrt .. => execFsqrt_keeps _ _ _ _ _ (.refl s)
  | .fmin .. => execFmin_keeps _ _ _ _ _ _ (.refl s)
  | .fmax .. => execFmax_keeps _ _ _ _ _ _ (.refl s)
  | .fabs .. => execFabs_keeps _ _ _ _ _ (.refl s)
  | .fneg .. => execFneg_keeps _ _ _ _ _ (.refl s)
  | .fmac .. => execFmac_keeps _ _ _ _ _ _ (.refl s)
  | .fcvtsw .. => execFcvtsw_keeps _ _ _ _ _ (.refl s)
  | .fcvtws .. => execFcvtws_keeps _ _ _ _ _ (.refl s)
  | .fcvtsq .. => execFcvtsq_keeps _ _ _ _ _ (.refl s)
  | .fcvtqs .. => execFcvtqs_keeps _ _ _ _ _ (.refl s)
  | .fatan2 .. => execFatan2_keeps _ _ _ _ _ _ (.refl s)
  | .fhypot .. => execFhypot_keeps _ _ _ _ _ _ (.refl s)
  | .qadd .. => execQadd_keeps _ _ _ _ _ _ (.refl s)
  | .qsub .. => execQsub_keeps _ _ _ _ _ _ (.refl s)
  | .qmul .. => execQmul_keeps _ _ _ _ _ _ (.refl s)
  | .qmac .. => execQmac_keeps _ _ _ _ _ _ (.refl s)
  | .qabs .. => execQabs_keeps _ _ _ _ _ (.refl s)
  | .qneg .. => execQneg_keeps _ _ _ _ _ (.refl s)
  | .qshl .. => execQshl_keeps _ _ _ _ _ _ (.refl s)
  | .qshr .. => execQshr_keeps _ _ _ _ _ _ (.refl s)
  | .ceq .. => execCeq_keeps _ _ _ _ _ _ (.refl s)
  | .cne .. => execCne_keeps _ _ _ _ _ _ (.refl s)
  | .clt .. => execClt_keeps _ _ _ _ _ _ (.refl s)
  | .cge .. => execCge_keeps _ _ _ _ _ _ (.refl s)
  | .cltu .. => execCltu_keeps _ _ _ _ _ _ (.refl s)
  | .cgeu .. => execCgeu_keeps _ _ _ _ _ _ (.refl s)
  | .ctst .. => execCtst_keeps _ _ _ _ _ _ (.refl s)
  | .ctstn .. => execCtstn_keeps _ _ _ _ _ _ (.refl s)
  | .feq .. => execFeq_keeps _ _ _ _ _ _ (.refl s)
  | .flt .. => execFlt_keeps _ _ _ _ _ _ (.refl s)
  | .fle .. => execFle_keeps _ _ _ _ _ _ (.refl s)
  | .funord .. => execFun_keeps _ _ _ _ _ _ (.refl s)
  | .pand .. => execPand_keeps _ _ _ _ _ _ (.refl s)
  | .por .. => execPor_keeps _ _ _ _ _ _ (.refl s)
  | .pxor .. => execPxor_keeps _ _ _ _ _ _ (.refl s)
  | .pandn .. => execPandn_keeps _ _ _ _ _ _ (.refl s)
  | .pnot .. => execPnot_keeps _ _ _ _ _ (.refl s)
  | .ptos .. => execPtos_keeps _ _ _ _ _ (.refl s)
  | .stop .. => execStop_keeps _ _ _ _ _ (.refl s)
  | .pset .. => execPset_keeps _ _ _ _ _ (.refl s)
  | .ldw .. => execLdw_keeps _ _ _ _ _ _ (.refl s)
  | .ldh .. => execLdh_keeps _ _ _ _ _ _ (.refl s)
  | .ldhu .. => execLdhu_keeps _ _ _ _ _ _ (.refl s)
  | .ldb .. => execLdb_keeps _ _ _ _ _ _ (.refl s)
  | .ldbu .. => execLdbu_keeps _ _ _ _ _ _ (.refl s)
  | .ldd .. => execLdd_keeps _ _ _ _ _ _ (.refl s)
  | .stw .. => execStw_keeps _ _ _ _ _ _ (.refl s)
  | .sth .. => execSth_keeps _ _ _ _ _ _ (.refl s)
  | .stb .. => execStb_keeps _ _ _ _ _ _ (.refl s)
  | .std .. => execStd_keeps _ _ _ _ _ _ (.refl s)
  | .ldg .. => execLdg_keeps _ _ _ _ _ _ (.refl s)
  | .stg .. => execStg_keeps _ _ _ _ _ _ (.refl s)
  | .ldwi .. => execLdwi_keeps _ _ _ _ _ _ (.refl s)
  | .stwi .. => execStwi_keeps _ _ _ _ _ _ (.refl s)
  | .ldgi .. => execLdgi_keeps _ _ _ _ _ _ (.refl s)
  | .stgi .. => execStgi_keeps _ _ _ _ _ _ (.refl s)
  | .vld .. => execVld_keeps _ _ _ _ _ _ (.refl s)
  | .vst .. => execVst_keeps _ _ _ _ _ _ (.refl s)
  | .vadd .. => execVadd_keeps _ _ _ _ _ _ (.refl s)
  | .vsub .. => execVsub_keeps _ _ _ _ _ _ (.refl s)
  | .vand .. => execVand_keeps _ _ _ _ _ _ (.refl s)
  | .vor .. => execVor_keeps _ _ _ _ _ _ (.refl s)
  | .vxor .. => execVxor_keeps _ _ _ _ _ _ (.refl s)
  | .vshl .. => execVshl_keeps _ _ _ _ _ _ (.refl s)
  | .vshr .. => execVshr_keeps _ _ _ _ _ _ (.refl s)
  | .vsra .. => execVsra_keeps _ _ _ _ _ _ (.refl s)
  | .vmul .. => execVmul_keeps _ _ _ _ _ _ (.refl s)
  | .vmulh .. => execVmulh_keeps _ _ _ _ _ _ (.refl s)
  | .vmulhu .. => execVmulhu_keeps _ _ _ _ _ _ (.refl s)
  | .vadds .. => execVadds_keeps _ _ _ _ _ _ (.refl s)
  | .vsubs .. => execVsubs_keeps _ _ _ _ _ _ (.refl s)
  | .vmin .. => execVmin_keeps _ _ _ _ _ _ (.refl s)
  | .vmax .. => execVmax_keeps _ _ _ _ _ _ (.refl s)
  | .vminu .. => execVminu_keeps _ _ _ _ _ _ (.refl s)
  | .vmaxu .. => execVmaxu_keeps _ _ _ _ _ _ (.refl s)
  | .vfadd .. => execVfadd_keeps _ _ _ _ _ _ (.refl s)
  | .vfsub .. => execVfsub_keeps _ _ _ _ _ _ (.refl s)
  | .vfmul .. => execVfmul_keeps _ _ _ _ _ _ (.refl s)
  | .vfdiv .. => execVfdiv_keeps _ _ _ _ _ _ (.refl s)
  | .vfsqrt .. => execVfsqrt_keeps _ _ _ _ _ (.refl s)
  | .vfmin .. => execVfmin_keeps _ _ _ _ _ _ (.refl s)
  | .vfmax .. => execVfmax_keeps _ _ _ _ _ _ (.refl s)
  | .vfabs .. => execVfabs_keeps _ _ _ _ _ (.refl s)
  | .vfneg .. => execVfneg_keeps _ _ _ _ _ (.refl s)
  | .vfmac .. => execVfmac_keeps _ _ _ _ _ _ (.refl s)
  | .vfcvtsw .. => execVfcvtsw_keeps _ _ _ _ _ (.refl s)
  | .vfcvtws .. => execVfcvtws_keeps _ _ _ _ _ (.refl s)
  | .vfcvtsq .. => execVfcvtsq_keeps _ _ _ _ _ (.refl s)
  | .vfcvtqs .. => execVfcvtqs_keeps _ _ _ _ _ (.refl s)
  | .vfatan2 .. => execVfatan2_keeps _ _ _ _ _ _ (.refl s)
  | .vfhypot .. => execVfhypot_keeps _ _ _ _ _ _ (.refl s)
  | .vqadd .. => execVqadd_keeps _ _ _ _ _ _ (.refl s)
  | .vqsub .. => execVqsub_keeps _ _ _ _ _ _ (.refl s)
  | .vqmul .. => execVqmul_keeps _ _ _ _ _ _ (.refl s)
  | .vqmac .. => execVqmac_keeps _ _ _ _ _ _ (.refl s)
  | .vqabs .. => execVqabs_keeps _ _ _ _ _ (.refl s)
  | .vqneg .. => execVqneg_keeps _ _ _ _ _ (.refl s)
  | .vqshl .. => execVqshl_keeps _ _ _ _ _ _ (.refl s)
  | .vqshr .. => execVqshr_keeps _ _ _ _ _ _ (.refl s)
  | .vceq .. => execVceq_keeps _ _ _ _ _ _ (.refl s)
  | .vcne .. => execVcne_keeps _ _ _ _ _ _ (.refl s)
  | .vclt .. => execVclt_keeps _ _ _ _ _ _ (.refl s)
  | .vcge .. => execVcge_keeps _ _ _ _ _ _ (.refl s)
  | .vcltu .. => execVcltu_keeps _ _ _ _ _ _ (.refl s)
  | .vcgeu .. => execVcgeu_keeps _ _ _ _ _ _ (.refl s)
  | .vctst .. => execVctst_keeps _ _ _ _ _ _ (.refl s)
  | .vctstn .. => execVctstn_keeps _ _ _ _ _ _ (.refl s)
  | .vfeq .. => execVfeq_keeps _ _ _ _ _ _ (.refl s)
  | .vflt .. => execVflt_keeps _ _ _ _ _ _ (.refl s)
  | .vfle .. => execVfle_keeps _ _ _ _ _ _ (.refl s)
  | .vfun .. => execVfun_keeps _ _ _ _ _ _ (.refl s)
  | .vbc .. => execVbc_keeps _ _ _ _ _ (.refl s)
  | .vext .. => execVext_keeps _ _ _ _ _ _ (.refl s)
  | .vins .. => execVins_keeps _ _ _ _ _ _ (.refl s)
  | .vmov .. => execVmov_keeps _ _ _ _ _ (.refl s)
  | .vsumi .. => execVsumi_keeps _ _ _ _ _ (.refl s)
  | .vsumq .. => execVsumq_keeps _ _ _ _ _ (.refl s)
  | .vsumf .. => execVsumf_keeps _ _ _ _ _ (.refl s)
  | .vmaxf .. => execVmaxf_keeps _ _ _ _ _ (.refl s)
  | .ldsmp .. => execLdsmp_keeps _ _ _ _ _ _ (.refl s)
  | .ldsmpa .. => execLdsmpa_keeps _ _ _ _ _ _ (.refl s)
  | .vldsmp .. => execVldsmp_keeps _ _ _ _ _ _ (.refl s)
  | .ldph .. => execLdph_keeps _ _ _ _ _ _ _ (.refl s)
  | .ldpha .. => execLdpha_keeps _ _ _ _ _ _ _ (.refl s)
  | .ldgr .. => execLdgr_keeps _ _ _ _ _ _ _ (.refl s)
  | .ldgra .. => execLdgra_keeps _ _ _ _ _ _ _ (.refl s)
  | .tmrTon .. => execTmrTon_keeps _ _ _ _ _ _ _ (.refl s)
  | .tmrTof .. => execTmrTof_keeps _ _ _ _ _ _ _ (.refl s)
  | .tmrTp .. => execTmrTp_keeps _ _ _ _ _ _ _ (.refl s)
  | .edgeRising .. => execEdgeRising_keeps _ _ _ _ _ _ (.refl s)
  | .edgeFalling .. => execEdgeFalling_keeps _ _ _ _ _ _ (.refl s)
  | .edgeEither .. => execEdgeEither_keeps _ _ _ _ _ _ (.refl s)
  | .opf .. => execOpf_keeps _ _ _ _ _ _ (.refl s)
  | .br .. => execBr_keeps _ _ _ _ _ (.refl s)
  | .jr .. => execJr_keeps _ _ _ _ (.refl s)
  | .fcall .. => execFcall_keeps _ _ _ _ _ (.refl s)
  | .fret .. => execFret_keeps _ _ _ (.refl s)
  | .rdsr .. => execRdsr_keeps _ _ _ _ _ (.refl s)
  | .wrsr .. => execWrsr_keeps _ _ _ _ _ (.refl s)
  | .tend .. => execTend_keeps _ _ _ (.refl s)
  | .fence .. => execFence_keeps _ _ _ (.refl s)
  | .evsig .. => execEvsig_keeps _ _ _ _ (.refl s)
  | .npost .. => execNpost_keeps _ _ _ _ _ _ (.refl s)
  | .li .. => execLi_keeps _ _ _ _ _ (.refl s)
  | .addx .. => execAddx_keeps _ _ _ _ _ _ (.refl s)
  | .ldwx .. => execLdwx_keeps _ _ _ _ _ _ (.refl s)
  | .stwx .. => execStwx_keeps _ _ _ _ _ _ (.refl s)
  | .vbci .. => execVbci_keeps _ _ _ _ _ (.refl s)
  | .load .. => execLoad_keeps _ _ _ (.refl s)
  | .loadDone .. => execLoadDone_keeps _ _ (.refl s)
  | .prepare .. => execPrepare_keeps _ _ _ (.refl s)
  | .prepareDone .. => execPrepareDone_keeps _ _ (.refl s)
  | .switch .. => execSwitch_keeps _ _ _ (.refl s)
  | .discard .. => execDiscard_keeps _ _ _ (.refl s)
  | .install .. => execInstall_keeps _ _ _ (.refl s)
  | .startWarm .. => execStartWarm_keeps _ _ _ (.refl s)
  | .startCold .. => execStartCold_keeps _ _ _ (.refl s)
  | .tskStop .. => execTskStop_keeps _ _ _ (.refl s)
  | .restartDone .. => execRestartDone_keeps _ _ (.refl s)
  | .plinthLineWrite => execPlinthLineWrite_keeps _ (.refl s)
  | .recarryDone .. => execRecarryDone_keeps _ _ (.refl s)
  | .switchAttemptFail .. => execSwitchAttemptFail_keeps _ _ (.refl s)
  | .forceApply .. => execForceApply_keeps _ _ (.refl s)
  | .minUsExpiry .. => execMinUsExpiry_keeps _ _ (.refl s)
  | .readbackMismatch .. => execReadbackMismatch_keeps _ _ (.refl s)
  | .readbackClear .. => execReadbackClear_keeps _ _ (.refl s)
  | .gooseRetransmit .. => execGooseRetransmit_keeps _ _ (.refl s)
  | .gooseRx .. => execGooseRx_keeps _ _ (.refl s)
  | .gooseTalExpiry .. => execGooseTalExpiry_keeps _ _ (.refl s)
  | .cmdSelect .. => execCmdSelect_keeps _ _ _ _ _ _ _ (.refl s)
  | .cmdOperate .. => execCmdOperate_keeps _ _ _ _ _ _ _ (.refl s)
  | .cmdCancel .. => execCmdCancel_keeps _ _ _ _ _ _ _ (.refl s)
  | .operTimeout .. => execOperTimeout_keeps _ _ (.refl s)
  | .selectTimeout .. => execSelectTimeout_keeps _ _ (.refl s)
  | .coPosWrite .. => execCoPosWrite_keeps _ _ _ _ (.refl s)
  | .objReset .. => execObjReset_keeps _ _ _ (.refl s)
  | .cmdResPop .. => execCmdResPop_keeps _ _ (.refl s)
  | .canFrameRx .. => execCanFrameRx_keeps _ _ _ _ (.refl s)
  | .canArbitration .. => execCanArbitration_keeps _ _ _ (.refl s)
  | .canTxComplete .. => execCanTxComplete_keeps _ _ _ (.refl s)
  | .canBusError .. => execCanBusError_keeps _ _ _ (.refl s)
  | .busOffRecovered .. => execBusOffRecovered_keeps _ _ (.refl s)
  | .fbcRecover .. => execFbcRecover_keeps _ _ _ (.refl s)
  | .fbcEnable .. => execFbcEnable_keeps _ _ _ (.refl s)
  | .fbcDisable .. => execFbcDisable_keeps _ _ _ (.refl s)
  | .tq1Push .. => execTq1Push_keeps _ _ _ _ (.refl s)
  | .tq1Flush .. => execTq1Flush_keeps _ _ _ (.refl s)
  | .rqHead .. => execRqHead_keeps _ _ _ _ (.refl s)
  | .rqFlush .. => execRqFlush_keeps _ _ _ _ (.refl s)
  | .xcvrFault .. => execXcvrFault_keeps _ _ _ (.refl s)
  | .drcEnable .. => execDrcEnable_keeps _ _ (.refl s)
  | .drcDisable .. => execDrcDisable_keeps _ _ (.refl s)
  | .drcRowWrite => execDrcRowWrite_keeps _ (.refl s)
  | .manualTrigger .. => execManualTrigger_keeps _ _ (.refl s)
  | .holdOffExpiry => execHoldOffExpiry_keeps _ (.refl s)
  | .segClaim .. => execSegClaim_keeps _ _ _ (.refl s)
  | .segRelease .. => execSegRelease_keeps _ _ _ (.refl s)
  | .segUnclaim .. => execSegUnclaim_keeps _ _ _ (.refl s)
  | .almPostGo .. => execAlmPostGo_keeps _ _ (.refl s)
  | .almRecordWrite => execAlmRecordWrite_keeps _ (.refl s)
  | .almSeek .. => execAlmSeek_keeps _ _ _ (.refl s)
  | .meterWindowEnd .. => execMeterWindowEnd_keeps _ _ (.refl s)
  | .mtrPreset .. => execMtrPreset_keeps _ _ _ _ (.refl s)
  | .mtrCkptNow .. => execMtrCkptNow_keeps _ _ (.refl s)
  | .mtrStop .. => execMtrStop_keeps _ _ (.refl s)
  | .mtrResume .. => execMtrResume_keeps _ _ (.refl s)
  | .meterPointEnable .. => execMeterPointEnable_keeps _ _ _ (.refl s)
  | .accRead .. => execAccRead_keeps _ _ _ _ (.refl s)
  | .pulsePeriod .. => execPulsePeriod_keeps _ _ (.refl s)
  | .mirEnable .. => execMirEnable_keeps _ _ (.refl s)
  | .mirDisable .. => execMirDisable_keeps _ _ (.refl s)
  | .handover .. => execHandover_keeps _ _ (.refl s)
  | .leaseFrameTx => execLeaseFrameTx_keeps _ (.refl s)
  | .renewRx .. => execRenewRx_keeps _ _ (.refl s)
  | .statusRx .. => execStatusRx_keeps _ _ (.refl s)
  | .claimRx .. => execClaimRx_keeps _ _ (.refl s)
  | .releaseRx .. => execReleaseRx_keeps _ _ (.refl s)
  | .twilightRx .. => execTwilightRx_keeps _ _ (.refl s)
  | .twClearRx .. => execTwClearRx_keeps _ _ (.refl s)
  | .tickPacketRx .. => execTickPacketRx_keeps _ _ (.refl s)
  | .leaseSilenceExpiry => execLeaseSilenceExpiry_keeps _ (.refl s)
  | .listenSilenceExpiry => execListenSilenceExpiry_keeps _ (.refl s)
  | .mirLaneDown .. => execMirLaneDown_keeps _ _ (.refl s)
  | .rbTest .. => execRbTest_keeps _ _ _ (.refl s)
  | .rbTestDone .. => execRbTestDone_keeps _ _ _ (.refl s)
  | .bistRerun .. => execBistRerun_keeps _ _ _ (.refl s)
  | .bistDone .. => execBistDone_keeps _ _ (.refl s)
  | .builtInSelfTest .. => execBuiltInSelfTest_keeps _ _ (.refl s)
  | .dumpFreeze .. => execDumpFreeze_keeps _ _ _ (.refl s)
  | .dumpSeal .. => execDumpSeal_keeps _ _ _ (.refl s)
  | .sealDone => execSealDone_keeps _ (.refl s)
  | .dumpReset .. => execDumpReset_keeps _ _ _ (.refl s)
  | .dumpUnseal .. => execDumpUnseal_keeps _ _ _ (.refl s)
  | .dumpAck .. => execDumpAck_keeps _ _ _ (.refl s)
  | .mirrorLaneUp .. => execMirrorLaneUp_keeps _ _ (.refl s)
  | .leaseWordInvalid .. => execLeaseWordInvalid_keeps _ _ (.refl s)
  | .checkpointWriteDone => execCheckpointWriteDone_keeps _ (.refl s)
  | .dumpRegionWipeDone => execDumpRegionWipeDone_keeps _ (.refl s)

/-- No command's meaning is a fault or a refusal. -/
theorem exists_exec_eq_next (c : Instr) (s : State) : ∃ t, exec c s = .next t := by
  cases c <;> exact ⟨_, rfl⟩

theorem keeps_of_exec {c : Instr} {s t : State} (h : exec c s = .next t) : Keeps s t := by
  have hk := keepsEnd_exec s c
  rwa [h] at hk

/-- A step keeps the form of the memory: its command, or its BUS edge, does. -/
theorem memOk_of_step {s t : State} (hm : memOk s) (h : step s = .next t) : memOk t := by
  unfold step at h
  split at h
  · exact (keeps_of_exec h).mem hm
  · cases h
    exact (idleEdge_keeps s (.refl s)).mem hm

end Sys2Proof.Machine
end

section
/-! The whole machine: what every command and every step keeps (R101, R106, R107, R162). -/

namespace Sys2Proof.Machine

/-- Settles O3: a step is a command or a BUS edge, and each keeps the memory's form. -/
theorem stepKeepsMemoryForm : Obligations.StepKeepsMemoryForm :=
  fun _ _ => memOk_of_step

/-- Settles O4: every command answers a next state, and what it keeps holds of that state. -/
theorem everyCommandAnswersAndNothingRunsBack : Obligations.EveryCommandAnswersAndNothingRunsBack := by
  intro c s
  obtain ⟨t, ht⟩ := exists_exec_eq_next c s
  have hk := keeps_of_exec ht
  exact ⟨t, ht, hk.pending, hk.now, hk.svn, hk.prov, hk.decom⟩

/-- Settles O1: by the two cases of a step. -/
theorem stepRunsFrontCommand : Obligations.StepRunsFrontCommand := by
  intro c rest s
  constructor <;> intro h <;> simp only [step, h]

end Sys2Proof.Machine
end

section
/-! SUPPORT. Register accesses by their shape and their admission (R10, R12, R144): an aligned word that is admitted comes to the register,
one that is refused is the violation, one of another shape is a violation of KIND 0x08. -/

namespace Sys2Proof.Machine

variable {s : State} {a : Acc} {k : Nat} {wr : Bool}

theorem regAccess_of_admitted (h : admitted s a k wr) (f : State → State) : regAccess s a k wr f = f (accessed s) := by
  rw [admitted] at h
  simp only [regAccess, h, accessed]

theorem regAccess_of_denied {kd : Nat} (h : regDenied s (accTag s a) k wr = some kd) (f : State → State) :
    regAccess s a k wr f = busError s (accTag s a) wr (busAddr k) kd := by
  simp only [regAccess, h]

theorem regShape_of_aligned {addr : Word} (h : addr.toNat % 4 = 0) (f : Nat → State) :
    regShape s a addr 4 wr f = f (regKey s a.core.val addr.toNat) :=
  if_neg (by simp [h])

theorem regShape_of_misshapen {addr : Word} {n : Nat} (h : n ≠ 4 ∨ addr.toNat % 4 ≠ 0) (f : Nat → State) :
    regShape s a addr n wr f = busError s (accTag s a) wr addr.toNat 8 :=
  if_pos h

variable {addr w : Word} {size : Fin 9}

theorem exec_registerWrite_of_inRegs (h : inRegs addr.toNat = true) :
    exec (.registerWrite a addr size w) s = .next (regShape s a addr size.val true fun k =>
      if k = R.pcxLoadCmd ∧ bit w 31 then nx (execPcxLoad a s) s else regAccess s a k true (regWrite a k w)) := by
  simp only [exec, execRegisterWrite, h, Bool.not_true, Bool.false_eq_true, if_false]

theorem exec_readClear_of_inRegs (h : inRegs addr.toNat = true) :
    exec (.readClear a addr size) s = .next (regShape s a addr size.val false fun k => regAccess s a k false (regRead a k)) := by
  simp only [exec, execReadClear, h, Bool.not_true, Bool.false_eq_true, if_false]

/-- PCX_LOAD_CMD is a register with an operation of its own. -/
theorem ne_pcxLoadCmd_of_ownWrite_eq_none {t : State} (h : ownWrite a k w t = none) : k ≠ R.pcxLoadCmd := by
  rintro rfl
  exact absurd h (by simp [ownWrite, blockOf, offsetOf, R.pcxLoadCmd])

/-- An admitted write of a listed register without an operation of its own goes by the register's access type (R12). -/
theorem exec_registerWrite_eq_classWrite {r : RegRow} (hin : inRegs addr.toNat = true) (hal : addr.toNat % 4 = 0)
    (hk : regKey s a.core.val addr.toNat = k) (had : admitted s a k true) (how : ownWrite a k w (accessed s) = none)
    (hrow : rowOf k = some r) (hhead : ¬(k < 0x2000000000 ∧ 0xFFE0 ≤ k % 0x10000))
    (hmir : ¬(0x2100000000 ≤ k ∧ k < 0x2200000000 ∧ s.mir.role = .standby)) :
    exec (.registerWrite a addr 4 w) s = .next (classWrite (accessed s) (accTag s a) k r w) := by
  have hpcx : ¬(k = R.pcxLoadCmd ∧ bit w 31 = true) := fun h => ne_pcxLoadCmd_of_ownWrite_eq_none how h.1
  have hreg : regWrite a k w (accessed s) = classWrite (accessed s) (accTag s a) k r w := by
    rw [regWrite, if_neg hhead, how]
    simp only [hrow]
    exact if_neg hmir
  rw [exec_registerWrite_of_inRegs hin, show (4 : Fin 9).val = 4 from rfl, regShape_of_aligned hal, hk, if_neg hpcx,
    regAccess_of_admitted had, hreg]

/-- An admitted read of a register without an operation of its own (R12). -/
theorem exec_readClear_eq_regRead (hin : inRegs addr.toNat = true) (hal : addr.toNat % 4 = 0)
    (hk : regKey s a.core.val addr.toNat = k) (had : admitted s a k false) :
    exec (.readClear a addr 4) s = .next (regRead a k (accessed s)) := by
  rw [exec_readClear_of_inRegs hin, show (4 : Fin 9).val = 4 from rfl, regShape_of_aligned hal, hk, regAccess_of_admitted had]

end Sys2Proof.Machine
end

section
/-! SUPPORT. Read after write of the register tables and of memory, in the terms of their accessors. -/

namespace Sys2Proof.Machine

theorem shadowOf_setShadow (s : State) (a b : Nat) (w : Word) : shadowOf (setShadow s a w) b = if b = a then w else shadowOf s b := by
  simp only [shadowOf, setShadow, mfind_mput]
  split <;> rfl

theorem forceOf_setForce (s : State) (a b : Nat) (w : Word) : forceOf (setForce s a w) b = if b = a then w else forceOf s b := by
  simp only [forceOf, setForce, mfind_mput]
  split <;> rfl

theorem liveOf_setLive (s : State) (a b : Nat) (w : Word) : liveOf (setLive s a w) b = if b = a then w else liveOf s b :=
  mget_mset ..

@[simp] theorem liveOf_setLive_self (s : State) (a : Nat) (w : Word) : liveOf (setLive s a w) a = w := by
  rw [liveOf_setLive, if_pos rfl]

theorem word_two_pow {i : Nat} (h : i < 32) : word (2 ^ i) = 1#32 <<< i := by
  apply BitVec.eq_of_toNat_eq
  simp [word, Nat.shiftLeft_eq, Nat.mod_eq_of_lt (Nat.pow_lt_pow_right (by omega : 1 < 2) h)]

theorem liveOf_setEvt {i : Nat} (s : State) (a b : Nat) (h : i < 32) :
    liveOf (setEvt s a i) b = if b = a then liveOf s b ||| (1#32 <<< i) else liveOf s b := by
  rw [setEvt, liveOf_setLive, word_two_pow h]
  split
  next hb => rw [hb]
  next => rfl

theorem rdByte_pokeBytes (s : State) (a b : Nat) (bs : List Byte) :
    rdByte (pokeBytes s a bs) b = if a ≤ b ∧ b < a + bs.length then bs[b - a]?.getD 0#8 else rdByte s b :=
  mget_storeBytes ..

end Sys2Proof.Machine
end

section
/-! The registers: the reset state, the tables, writes by access type, reads, misshapen accesses (R10, R12, R52, R53). -/

namespace Sys2Proof.Machine

/-- Settles O2: every table is empty, so each entry is its default, and HOLD is every lane's. -/
theorem resetState : Obligations.ResetState := by
  refine ⟨rfl, rfl, fun _ _ _ => rfl, rfl, rfl, rfl, rfl, rfl, rfl, rfl, rfl, rfl, ?registers, ?entries, ?cores⟩
  case registers => exact fun _ => ⟨rfl, rfl, rfl, rfl⟩
  case entries => exact fun _ => ⟨rfl, rfl, rfl, rfl, rfl⟩
  case cores =>
    refine fun k r => ⟨?_, fun hr => ?_, fun j => ?_⟩
    · rw [sget]; split <;> rfl
    · rw [pget, if_neg (by omega)]; rfl
    · rfl

/-- Settles O6: by read after write of each table. -/
theorem registerTables : Obligations.RegisterTables := fun s a b _ w bs =>
  ⟨shadowOf_setShadow s a b w, forceOf_setForce s a b w, liveOf_setLive s a b w, liveOf_setEvt s a b, rdByte_pokeBytes s a b bs⟩

/-- Settles O9: the shape of an access is looked at first. -/
theorem misshapenAccessesRefused : Obligations.MisshapenAccessesRefused := by
  intro a addr w size s hin hbad
  rw [exec_registerWrite_of_inRegs hin, exec_readClear_of_inRegs hin, regShape_of_misshapen hbad, regShape_of_misshapen hbad]
  exact ⟨rfl, rfl⟩

/-- Settles O7: the access comes to the write by access type, and each type has its case there. -/
theorem registerWritesByClass : Obligations.RegisterWritesByClass := by
  intro a addr w s k r hin hal hk had how hrow hhead hmir base v
  rw [exec_registerWrite_eq_classWrite hin hal hk had how hrow hhead hmir]
  have hbase : (if r.w1c = 0 then accessed s else setLive (accessed s) k (liveOf (accessed s) k &&& ~~~(w &&& word r.w1c))) = base := rfl
  have hkept : base.force = s.force ∧ base.mem = s.mem ∧ base.shadow = s.shadow ∧ base.writer = s.writer ∧ base.commits = s.commits := by
    rw [← hbase]
    split <;> exact ⟨rfl, rfl, rfl, rfl, rfl⟩
  obtain ⟨hforce, hmem, hshadow, hwriter, hcommits⟩ := hkept
  refine ⟨fun h => ?rw, fun h => ?rs, fun h => ?st, fun h => ?others⟩
  case rw => simp only [classWrite, hbase, h]; rfl
  case rs =>
    refine ⟨rsWrite base (accTag s a) k v, by simp only [classWrite, hbase, h]; rfl, ?_, hforce, rfl, hmem, ?_⟩
    · exact (shadowOf_setShadow base k k v).trans (if_pos rfl)
    · rw [← hshadow, ← hwriter, ← hcommits]; rfl
  case st => simp only [classWrite, hbase, h]; rfl
  case others =>
    simp only [List.mem_cons, List.not_mem_nil, or_false] at h
    obtain h | h | h | h := h <;> simp only [classWrite, hbase, h]

/-- Settles O8: an admitted read comes to the register's value; RC is the one type it clears. -/
theorem registerReads : Obligations.RegisterReads := by
  intro a addr s k hin hal hk had how
  rw [exec_readClear_eq_regRead hin hal hk had, regRead, how]
  constructor
  · intro hcls
    cases hrow : rowOf k with
    | none => rfl
    | some r => simp only [if_neg (hcls r hrow)]
  · intro r hrow hcls
    simp only [hrow, hcls, if_true]

end Sys2Proof.Machine
end

section
/-! SUPPORT. What an exception does to its core: posts and stops leave the cores' registers and modes alone, so a core that has taken an
exception does not run (R325 to R332). -/

namespace Sys2Proof.Machine

variable (s : State) (k : Nat)

theorem pcx_eq_of_postFrame {s t : State} (h : postFrame s = postFrame t) : s.pcx = t.pcx := (congrArg State.pcx h :)

@[simp] theorem pcx_almPost (sev src code : Nat) (pid : Option Nat) (info : List Word) : (almPost s sev src code pid info).pcx = s.pcx :=
  pcx_eq_of_postFrame (postFrame_almPost s sev src code pid info)

@[simp] theorem pcx_hnqPost (p cls src code info : Nat) : (hnqPost s p cls src code info).pcx = s.pcx :=
  pcx_eq_of_postFrame (postFrame_hnqPost s p cls src code info)

@[simp] theorem pcx_laneUpdate (n : Nat) : (laneUpdate s n).pcx = s.pcx :=
  (congrArg State.pcx (laneFrame_laneUpdate s n) :)

@[simp] theorem pcx_lanesUpdate : (lanesUpdate s).pcx = s.pcx := by
  have hlanes (l : List Nat) (t : State) : (l.foldl (fun t n => laneUpdate t n) t).pcx = t.pcx :=
    List.foldlRecOn (motive := fun u => u.pcx = t.pcx) l _ rfl fun u hu n _ => (pcx_laneUpdate u n).trans hu
  unfold lanesUpdate upto
  dsimp only
  rw [hlanes]
  split <;> rfl

theorem coreOf_eq_of_pcx {s t : State} (h : s.pcx = t.pcx) (k : Nat) : coreOf s k = coreOf t k := by
  rw [coreOf, coreOf, h]

theorem handoverDone_pcx : (handoverDone s k).pcx = s.pcx := by
  unfold handoverDone
  split <;> rfl

theorem coreOf_runOver : coreOf (runOver s k) k =
    if (coreOf s k).refused.isEmpty then { coreOf s k with mode := .idle, idleAt := s.now } else { coreOf s k with mode := .ending } := by
  unfold runOver
  dsimp only
  split
  · rw [coreOf_eq_of_pcx (handoverDone_pcx _ k), coreOf_setCore, if_pos rfl]
  · rw [coreOf_setCore, if_pos rfl]

/-- A run that ends leaves the core out of RUN. -/
theorem mode_runCut_ne_run : (coreOf (runCut s k) k).mode ≠ .run := by
  unfold runCut
  dsimp only
  split
  · rw [coreOf_runOver]
    split <;> simp
  · assumption

theorem runCut_of_ne_run (h : (coreOf s k).mode ≠ .run) : runCut s k = s := if_neg h

theorem cutAfter_of_ne_run (h : (coreOf s k).mode ≠ .run) : cutAfter k s = s := by
  unfold cutAfter
  split
  · exact runCut_of_ne_run s k h
  · rfl

theorem coreOf_stopTask (t p j : Nat) : coreOf (stopTask s t p) j = coreOf s j := by
  refine coreOf_eq_of_pcx ?_ j
  unfold stopTask
  dsimp only
  rw [pcx_hnqPost, pcx_almPost]
  split <;> rfl

/-- Stopping a partition changes of a core that is out of RUN nothing of its mode (R330). -/
theorem mode_stopPartition_ne_run (k' p : Nat) (h : (coreOf s k).mode ≠ .run) : (coreOf (stopPartition s k' p) k).mode ≠ .run := by
  have hcut (t : State) (l : List Nat) (ht : (coreOf t k).mode ≠ .run) :
      (coreOf (l.foldl (fun t j => modCore t j fun c => { c with cutAt := some t.now }) t) k).mode ≠ .run := by
    refine List.foldlRecOn (motive := fun u => (coreOf u k).mode ≠ .run) l _ ht fun u hu j _ => ?_
    rw [coreOf_modCore]
    split
    · next hj => subst hj; exact hu
    · exact hu
  unfold stopPartition
  split
  · exact h
  · extract_lets _ s1 x s2 s3 s4
    have hs3 : (coreOf s3 k).mode ≠ .run := hcut s2 (runsOf s2 p) h
    rw [coreOf_eq_of_pcx (pcx_hnqPost ..), coreOf_eq_of_pcx (pcx_almPost ..), coreOf_eq_of_pcx (pcx_lanesUpdate _)]
    exact hs3

/-- The reaction to an exception leaves the core out of RUN. -/
theorem mode_reaction_ne_run (done : Prop) [Decidable done] (r t p : Nat) (h : (coreOf s k).mode ≠ .run) :
    (coreOf (if done then s else match r with
      | 0 => s
      | 1 => if (taskOf s t).stopped then s else stopTask s t p
      | _ => stopPartition s k p) k).mode ≠ .run := by
  split
  · exact h
  · split
    · exact h
    · split
      · exact h
      · rwa [coreOf_stopTask]
    · exact mode_stopPartition_ne_run s k k p h

/-- A core that has taken an exception is out of RUN: its run has ended, or it had none (R325). -/
theorem mode_takeExc_ne_run (code sub : Nat) (pc addr : Word) (imp : Bool) :
    (coreOf (takeExc s k code sub pc addr imp) k).mode ≠ .run := by
  unfold takeExc
  extract_lets c
  rcases escalate s c (reactionOf s c.pid code) with ⟨r, t⟩
  exact mode_reaction_ne_run _ k _ _ _ _ (mode_runCut_ne_run _ k)

end Sys2Proof.Machine
end

section
/-! SUPPORT. How an instruction that issues ends, by what its body gives: registers changed and the counter moved on, the counter set,
or an exception (R325, R337, R342). -/

namespace Sys2Proof.Machine

/-- The word at the counter, and the second one of an extended instruction, are those of `i`. -/
theorem spelt_words {i : Instr} {ws : List Word} {m : Word} {s : State} {k : Nat} (hs : spelt i s k) (hw : sarbWords i = ws)
    (hm : sarbMask i = m) (n : Nat) (hn : n < ws.length) :
    ws[n]? = some (if n = 0 then rd32 s (fetchAddr s k ((coreOf s k).pc + 4 * n)) &&& m
      else rd32 s (fetchAddr s k ((coreOf s k).pc + 4 * n))) := by
  have h := hs n (by rwa [hw])
  rw [spells, hw, hm] at h
  exact beq_iff_eq.mp h

variable {i : Instr} {ws : List Word} {m : Word} {s t : State} {k len p : Nat} {vec : Bool} {il : Option Nat} {f : CoreSt → State → Out}

/-- An instruction that issues, with a true predicate or of the vector class, ends with what its body gives. -/
theorem coreIs_of_body (h : issues s k len) (hp : vec = true ∨ predOn s k p) (hw : sarbWords i = ws) (hm : sarbMask i = m)
    (he : exec i s = .next (coreExec ws k len il vec p f s m)) (hil : il = none) (hlen : ws.length = if len = 8 then 2 else 1) :
    CoreIs i s k (cutAfter k (coreEnd k len (coreOf s k) (f (coreOf s k) (fetched s k len)))) := by
  intro hs
  have hfirst := spelt_words hs hw hm 0 (by rw [hlen]; split <;> omega)
  have hsecond (h8 : len = 8) := spelt_words hs hw hm 1 (by rw [hlen, if_pos h8]; omega)
  rw [he, hil, coreExec_issues ws m s k len p vec f h hfirst hsecond]
  rcases Bool.eq_false_or_eq_true vec with hv | hv
  · rw [hv, coreBody_vec]
  · rw [hv, coreBody_on]
    exact hp.resolve_left (by simp [hv])

/-- A body that goes on leaves its state with the counter moved on. -/
theorem coreIs_go (h : issues s k len) (hp : vec = true ∨ predOn s k p) (hw : sarbWords i = ws) (hm : sarbMask i = m)
    (he : exec i s = .next (coreExec ws k len il vec p f s m)) (hil : il = none) (hlen : ws.length = if len = 8 then 2 else 1)
    (hgo : f (coreOf s k) (fetched s k len) = .go t) (hcut : (coreOf t k).cutAt = none) :
    CoreIs i s k (stepCore t k len id) := by
  intro hs
  rw [coreIs_of_body h hp hw hm he hil hlen hs, hgo]
  simp only [coreEnd]
  rw [cutAfter_none _ _ (by simp [hcut])]
  rfl

/-- A body that changes registers of its core leaves them so, with the counter moved on. -/
theorem coreIs_modCore {g : CoreSt → CoreSt} (h : issues s k len) (hp : vec = true ∨ predOn s k p) (hw : sarbWords i = ws)
    (hm : sarbMask i = m) (he : exec i s = .next (coreExec ws k len il vec p f s m)) (hil : il = none)
    (hlen : ws.length = if len = 8 then 2 else 1) (hgo : f (coreOf s k) (fetched s k len) = .go (modCore t k g))
    (hpc : ∀ c, (g c).pc = c.pc) (hcut : (g (coreOf t k)).cutAt = none) :
    CoreIs i s k (stepCore t k len g) := by
  have hend := coreIs_go h hp hw hm he hil hlen hgo (by simp [hcut])
  have hsame : stepCore (modCore t k g) k len id = stepCore t k len g := by simp [stepCore, hpc]
  rwa [hsame] at hend

/-- A body that sets the counter leaves its state. -/
theorem coreIs_jump (h : issues s k len) (hp : vec = true ∨ predOn s k p) (hw : sarbWords i = ws) (hm : sarbMask i = m)
    (he : exec i s = .next (coreExec ws k len il vec p f s m)) (hil : il = none) (hlen : ws.length = if len = 8 then 2 else 1)
    (hjump : f (coreOf s k) (fetched s k len) = .jump t) (hcut : (coreOf t k).cutAt = none) : CoreIs i s k t := by
  intro hs
  rw [coreIs_of_body h hp hw hm he hil hlen hs, hjump]
  simp only [coreEnd]
  rw [cutAfter_none _ _ hcut]

/-- A body that raises an exception leaves the state in which it is taken. -/
theorem raises_of_exc {code sub : Nat} {addr : Word} (h : issues s k len) (hp : vec = true ∨ predOn s k p) (hw : sarbWords i = ws)
    (hm : sarbMask i = m) (he : exec i s = .next (coreExec ws k len il vec p f s m)) (hil : il = none)
    (hlen : ws.length = if len = 8 then 2 else 1) (hexc : f (coreOf s k) (fetched s k len) = .exc code sub addr t) :
    Raises i s t k code sub addr := by
  intro hs
  rw [coreIs_of_body h hp hw hm he hil hlen hs, hexc]
  exact congrArg Host.Outcome.next (cutAfter_of_ne_run _ _ (mode_takeExc_ne_run t k code sub _ addr false))

theorem coreOf_fetched (h : issues s k len) (j : Nat) : coreOf (fetched s k len) j = coreOf s j := (fetched_live s k len h).coreOf j

theorem cutAt_fetched (h : issues s k len) : (coreOf (fetched s k len) k).cutAt = none := by
  rw [coreOf_fetched h]
  exact h.2.1

/-- The registers change from their values before the fetch, which left them alone. -/
theorem coreIs_setCore {g : CoreSt → CoreSt} (h : issues s k len) (hp : vec = true ∨ predOn s k p) (hw : sarbWords i = ws)
    (hm : sarbMask i = m) (he : exec i s = .next (coreExec ws k len il vec p f s m)) (hil : il = none)
    (hlen : ws.length = if len = 8 then 2 else 1) (ht : coreOf t k = coreOf s k)
    (hgo : f (coreOf s k) (fetched s k len) = .go (setCore t k (g (coreOf s k)))) (hpc : ∀ c, (g c).pc = c.pc)
    (hcut : ∀ c, (g c).cutAt = c.cutAt) : CoreIs i s k (stepCore t k len g) :=
  coreIs_modCore h hp hw hm he hil hlen (by rw [hgo, modCore, ht]) hpc (by rw [hcut, ht]; exact h.2.1)

@[simp] theorem dset_cutAt (c : CoreSt) (d : Nat) (w : DWord) : (dset c d w).cutAt = c.cutAt := by simp [dset]
@[simp] theorem pset_cutAt (c : CoreSt) (d : Nat) (m v : Byte) : (pset c d m v).cutAt = c.cutAt := by unfold pset; split <;> rfl

end Sys2Proof.Machine
end

section
/-! SUPPORT. The registers of a core, one lemma for each kind of write (R308, R309, R339). -/

namespace Sys2Proof.Machine

variable (c : CoreSt)

@[simp] theorem sset_zero (w : Word) : sset c 0 w = c := if_pos rfl
@[simp] theorem pset_zero (m v : Byte) : pset c 0 m v = c := if_pos rfl

theorem sget_sset (d r : Nat) (w : Word) : sget (sset c d w) r = if r = 0 then 0#32 else if r = d then w else sget c r := by
  by_cases hr : r = 0
  · simp [sget, hr]
  · by_cases hd : d = 0
    · simp [sget, hd, hr]
    · simp [sget, sset, hd, hr, mget_mset]

theorem pget_pset (d r : Nat) (m v : Byte) : pget (pset c d m v) r =
    if r = 0 then 0xFF#8 else if r = d then (pget c d &&& ~~~m) ||| (v &&& m) else pget c r := by
  by_cases hr : r = 0
  · simp [pget, hr]
  · by_cases hd : d = 0
    · simp [pget, hd, hr]
    · simp only [pget, pset, if_neg hd, if_neg hr, mget_mset]

theorem vget_vset {d i r j : Nat} (w : Word) (hi : i < 8) (hj : j < 8) :
    vget (vset c d i w) r j = if r = d ∧ j = i then w else vget c r j := by
  have hplace : (r * 8 + j = d * 8 + i) = (r = d ∧ j = i) := propext (by omega)
  simp only [vget, vset, mget_mset, hplace]

theorem append_shiftRight_setWidth (x : DWord) : (x >>> 32).setWidth 32 ++ x.setWidth 32 = x := by
  refine BitVec.eq_of_getLsbD_eq fun n hn => BitVec.getLsbD_append.trans ?_
  rcases Nat.lt_or_ge n 32 with h | h
  · simp [h]
  · simp [Nat.not_lt.mpr h, Nat.add_sub_cancel' h, show n - 32 < 32 by omega]

theorem dget_dset {d : Nat} (x : DWord) (hd : d ≠ 0) : dget (dset c d x) d = x := by
  simp only [dget, dset, sget_sset, if_neg hd, Nat.succ_ne_zero, if_true, if_false, (Nat.succ_ne_self d).symm]
  exact append_shiftRight_setWidth x

theorem sget_dset_of_ne {d r : Nat} (x : DWord) (hr : r ≠ d) (hr' : r ≠ d + 1) : sget (dset c d x) r = sget c r := by
  simp only [dset, sget_sset, if_neg hr, if_neg hr']
  split
  next h => rw [h]; rfl
  next => rfl

end Sys2Proof.Machine
end

section
/-! SUPPORT. FP32 words by their fields: what is a NaN, and the order of the compares (R312, R348, R350). -/

namespace Sys2Proof.Machine

theorem toNat_and_mask31 (w : Word) : (w &&& 0x7FFFFFFF#32).toNat = w.toNat % 2147483648 := by
  rw [BitVec.toNat_and]
  exact Nat.and_two_pow_sub_one_eq_mod w.toNat 31

/-- A NaN is what the operand is read as. -/
theorem isNan_iff (w : Word) : isNan w ↔ fpIsNan (.read w) = true := by
  have hex : fld w 30 23 = w.toNat / 8388608 % 256 := by simp [fld, Nat.shiftRight_eq_div_pow]
  have hfr : fld w 22 0 = w.toNat % 8388608 := by simp [fld]
  rw [isNan, toNat_and_mask31]
  have hlt := w.isLt
  have hdm : w.toNat / 8388608 / 256 = w.toNat / 2147483648 := Nat.div_div_eq_div_mul ..
  simp only [Fp.read, hex, hfr]
  split
  · split <;> simp only [fpIsNan, iff_true, Bool.false_eq_true, iff_false] <;> omega
  · split <;> simp only [fpIsNan, Bool.false_eq_true, iff_false] <;> omega

/-- The order of the compares goes one way only. -/
theorem fpLt_asymm (x y : Fp) (h : fpLt false x y = true) : fpLt false y x = false := by
  cases x <;> cases y <;> simp_all [fpLt]
  case num.num sx mx ex sy my ey =>
    rw [Int.min_comm]
    exact decide_eq_false (Int.not_lt.mpr (Int.le_of_lt (of_decide_eq_true h)))

theorem not_isNan_iff (w : Word) : ¬isNan w ↔ fpIsNan (.read w) = false := by
  rw [isNan_iff, Bool.not_eq_true]

variable {x y : Word}

theorem fpLt_of_nan {u v : Fp} (h : fpIsNan u = true ∨ fpIsNan v = true) (z : Bool) : fpLt z u v = false := by
  cases u <;> cases v <;> simp_all [fpIsNan, fpLt]

theorem fpSnan_of_not_nan {u : Fp} (h : fpIsNan u = false) : fpSnan u = 0 := by
  cases u <;> simp_all [fpIsNan, fpSnan]

/-- A compare with a NaN does not hold, and the ordered ones set INV. -/
theorem compare_of_nan (h : isNan x ∨ isNan y) :
    (feq x y).1 = false ∧ flt x y = (false, 1) ∧ fle x y = (false, 1) ∧ (fun_ x y).1 = true := by
  rw [isNan_iff, isNan_iff] at h
  have hor : (fpIsNan (.read x) || fpIsNan (.read y)) = true := by simpa using h
  simp [feq, flt, fle, fun_, hor, fpLt_of_nan h]

/-- A compare of two numbers sets no flag, and at most is less or equal. -/
theorem compare_of_not_nan (hx : ¬isNan x) (hy : ¬isNan y) : (feq x y).2 = 0 ∧ (flt x y).2 = 0 ∧ (fle x y).2 = 0 ∧
    (fun_ x y).1 = false ∧ (fle x y).1 = ((flt x y).1 || (feq x y).1) := by
  rw [not_isNan_iff] at hx hy
  have hle : (!fpLt false (.read y) (.read x)) =
      (fpLt false (.read x) (.read y) || !fpLt false (.read x) (.read y) && !fpLt false (.read y) (.read x)) := by
    cases h : fpLt false (.read x) (.read y) with
    | false => simp
    | true => simp [fpLt_asymm _ _ h]
  simp [feq, flt, fle, fun_, hx, hy, fpSnan_of_not_nan]
  simpa using hle

end Sys2Proof.Machine
end

section
/-! The compares, the predicate operations and the registers of a core (R308, R309, R339, R350, R351). -/

namespace Sys2Proof.Machine

/-- An instruction of one word whose body gives a byte for pD writes it under the governing predicate. -/
theorem predIs_of_coreExec {i : Instr} {w : Word} {s : State} {k : Fin 64} {p d : Fin 8} {v : Byte} {fl : Nat}
    {f : CoreSt → State → Out} (h : issues s k 4) (hp : predOn s k p) (hw : sarbWords i = [w]) (hm : sarbMask i = 0xFFFFFFFF#32)
    (he : exec i s = .next (coreExec [w] k 4 none false p f s))
    (hgo : f (coreOf s k) (fetched s k 4) = predOut k p d (fetched s k 4) v fl) : PredIs i s k p d v fl :=
  coreIs_modCore h (.inr hp) hw hm he rfl rfl hgo (by simp) (by simp [cutAt_fetched h])

/-- Settles O14: each instruction gives a byte for pD or a word for sD, and each register write changes its register alone. -/
theorem comparesAndPredicates : Obligations.ComparesAndPredicates := by
  refine ⟨?compares, ?predicates, ?registers⟩
  case compares =>
    intro k p d a b s h hp x y is
    refine ⟨?_, ?_, ?_, ?_, ?_, ?_, ?_, ?_, ?_, ?_, ?_, ?_, compare_of_nan, compare_of_not_nan⟩
    all_goals exact predIs_of_coreExec h hp rfl rfl rfl rfl
  case predicates =>
    intro k p d a b e s h hp c
    refine ⟨?_, ?_, ?_, ?_, ?_, ?ptos, ?_, ?pset⟩
    case ptos => exact scalarIs_of_coreExec (fun c => ((pget c a).setWidth 32, 0)) rfl rfl rfl h hp
    case pset =>
      have hbyte : (if sget c e = 0#32 then 0#8 else 0xFF#8) = condByte (sget c e != 0#32) := by
        by_cases h0 : sget c e = 0#32 <;> simp [condByte, h0]
      rw [hbyte]
      exact predIs_of_coreExec h hp rfl rfl rfl rfl
    all_goals exact predIs_of_coreExec h hp rfl rfl rfl rfl
  case registers =>
    intro c d r w x m v
    exact ⟨sget_sset c d r w, fun _ hd => ⟨dget_dset c x hd, fun _ => sget_dset_of_ne c x⟩, pget_pset c d r m v,
      fun i j => vget_vset c w, sset_zero c w, pset_zero c m v⟩

end Sys2Proof.Machine
end

section
/-! SUPPORT. Computed FP32 results: the one NaN they can be is the canonical one (R312, R347). -/

namespace Sys2Proof.Machine

/-- If the word is a NaN, it is the canonical quiet one. -/
def CanonNan (w : Word) : Prop := isNan w → w = qNaN

theorem canonNan_qNaN : CanonNan qNaN := fun _ => rfl

/-- A sign beside a magnitude up to infinity is no NaN. -/
theorem canonNan_sign_or {n : Nat} (sg : Bool) (h : n ≤ 0x7F800000) : CanonNan (fpSign sg ||| word n) := by
  have hsign : fpSign sg &&& 0x7FFFFFFF#32 = 0#32 := by cases sg <;> rfl
  have hmag : (word n).toNat % 2147483648 = n := by rw [word, BitVec.toNat_ofNat]; omega
  intro hnan
  rw [isNan, BitVec.and_comm, BitVec.and_or_distrib_left, BitVec.and_comm, hsign, BitVec.zero_or, BitVec.and_comm,
    toNat_and_mask31, hmag] at hnan
  omega

theorem canonNan_fpZero (sg : Bool) : CanonNan (fpZero sg) := by
  have h := canonNan_sign_or (n := 0) sg (by omega)
  rwa [word, BitVec.or_zero] at h

theorem canonNan_fpInf (sg : Bool) : CanonNan (fpInf sg) := canonNan_sign_or (n := 0x7F800000) sg (Nat.le_refl _)

/-- The bits kept of a magnitude: 24 of them, or 2²⁴ where rounding carries. -/
theorem lt_of_shift_up {m k : Nat} (hk : k + (Nat.log2 m + 1) ≤ 24) : m <<< k < 2 ^ 24 := by
  rw [Nat.shiftLeft_eq, Nat.mul_comm]
  calc 2 ^ k * m < 2 ^ k * 2 ^ (Nat.log2 m + 1) := Nat.mul_lt_mul_of_pos_left Nat.lt_log2_self (Nat.two_pow_pos k)
    _ = 2 ^ (k + (Nat.log2 m + 1)) := (Nat.pow_add ..).symm
    _ ≤ 2 ^ 24 := Nat.pow_le_pow_right (by omega) hk

theorem lt_of_shift_down {m k : Nat} (hk : Nat.log2 m + 1 ≤ k + 24) : m >>> k < 2 ^ 24 := by
  rw [Nat.shiftRight_eq_div_pow, Nat.div_lt_iff_lt_mul (Nat.two_pow_pos k), Nat.mul_comm, ← Nat.pow_add]
  exact Nat.lt_of_lt_of_le Nat.lt_log2_self (Nat.pow_le_pow_right (by omega) hk)

theorem canonNan_fpRound (sg : Bool) (m : Nat) (e : Int) (rest : Bool) : CanonNan (fpRound sg m e rest).1 := by
  unfold fpRound
  split
  · exact canonNan_fpZero sg
  extract_lets len q sh k d r h n
  have hlen : len = Nat.log2 m + 1 := rfl
  have hq : sh = max (e + len - 24) (-149) - e := rfl
  have hn : n ≤ 2 ^ 24 := by
    by_cases hsh : sh ≤ 0
    · have hup := lt_of_shift_up (m := m) (k := (-sh).toNat) (by omega)
      simp only [n, if_pos hsh]
      omega
    · have hdown : d < 2 ^ 24 := lt_of_shift_down (by omega)
      simp only [n, if_neg hsh]
      split <;> omega
  have hqmin : -149 ≤ q := Int.le_max_right ..
  clear_value n q
  split
  next n' q' hcarry =>
    have hbounds : n' < 2 ^ 24 ∧ -149 ≤ q' := by
      split at hcarry <;> obtain ⟨rfl, rfl⟩ := Prod.mk.inj hcarry <;> omega
    split
    · exact canonNan_fpZero sg
    · extract_lets ex
      split
      · exact canonNan_fpInf sg
      · exact canonNan_sign_or sg (by omega)

variable (x y z : Word)

theorem canonNan_fpSum (sa : Bool) (ma : Nat) (ea : Int) (sb : Bool) (mb : Nat) (eb : Int) (zs : Bool) :
    CanonNan (fpSum sa ma ea sb mb eb zs).1 := by
  unfold fpSum
  extract_lets e a b t
  split
  · exact canonNan_fpZero zs
  · exact canonNan_fpRound _ _ _ _

theorem canonNan_fpAddC (u v : Fp) : CanonNan (fpAddC u v).1 := by
  unfold fpAddC
  split
  case h_3 =>
    split
    · exact canonNan_fpInf _
    · exact canonNan_qNaN
  case h_4 | h_5 => exact canonNan_fpInf _
  case h_6 => exact canonNan_fpZero _
  case h_7 | h_8 | h_9 => exact canonNan_fpSum _ _ _ _ _ _ _
  all_goals exact canonNan_qNaN

theorem canonNan_fmul : CanonNan (fmul x y).1 := by
  unfold fmul
  split
  case h_3 | h_6 | h_7 => exact canonNan_fpInf _
  case h_8 | h_9 | h_10 => exact canonNan_fpZero _
  case h_11 => exact canonNan_fpRound _ _ _ _
  all_goals exact canonNan_qNaN

theorem canonNan_fdiv : CanonNan (fdiv x y).1 := by
  unfold fdiv
  split
  case h_5 | h_6 | h_10 => exact canonNan_fpInf _
  case h_7 | h_8 | h_9 => exact canonNan_fpZero _
  case h_11 => exact canonNan_fpRound _ _ _ _
  all_goals exact canonNan_qNaN

theorem canonNan_fsqrt : CanonNan (fsqrt x).1 := by
  unfold fsqrt
  split
  case h_3 => exact canonNan_fpInf _
  case h_4 => exact canonNan_fpZero _
  case h_6 => exact canonNan_fpRound _ _ _ _
  all_goals exact canonNan_qNaN

theorem canonNan_fmac : CanonNan (fmac z x y).1 := by
  unfold fmac
  split
  case h_5 | h_6 | h_7 | h_8 | h_9 | h_10 => exact canonNan_fpAddC _ _
  case h_11 =>
    dsimp only
    split
    · exact canonNan_qNaN
    · exact canonNan_fpInf _
    · exact canonNan_fpSum _ _ _ _ _ _ _
    · exact canonNan_fpSum _ _ _ _ _ _ _
  all_goals exact canonNan_qNaN

/-- A number as it is written is no NaN but the canonical one. -/
theorem canonNan_fpWord : CanonNan (fpWord x) := by
  unfold fpWord
  split
  · exact canonNan_qNaN
  · exact canonNan_fpZero _
  next hnan _ =>
    intro h
    rw [isNan_iff] at h
    cases hx : Fp.read x <;> simp_all [fpIsNan]

theorem canonNan_fmin : CanonNan (fmin x y).1 := by
  unfold fmin
  dsimp only
  split
  · exact canonNan_fpWord y
  · split
    · exact canonNan_fpWord x
    · split
      · exact canonNan_fpWord y
      · exact canonNan_fpWord x

theorem canonNan_fmax : CanonNan (fmax x y).1 := by
  unfold fmax
  dsimp only
  split
  · exact canonNan_fpWord y
  · split
    · exact canonNan_fpWord x
    · split
      · exact canonNan_fpWord y
      · exact canonNan_fpWord x

theorem canonNan_fpOfInt (n : Int) (e : Int) : CanonNan (fpOfInt n e).1 := by
  unfold fpOfInt
  split
  · exact canonNan_fpZero false
  · exact canonNan_fpRound _ _ _ _

theorem fpWord_of_nan (h : fpIsNan (.read x) = true) : fpWord x = qNaN := by
  unfold fpWord
  cases hx : Fp.read x <;> simp_all [fpIsNan]

variable {x y}

theorem fmin_fmax_of_nans (hx : isNan x) (hy : isNan y) : (fmin x y).1 = qNaN ∧ (fmax x y).1 = qNaN := by
  rw [isNan_iff] at hx hy
  simp only [fmin, fmax, hx, if_true, fpWord_of_nan y hy, and_self]

theorem fpToInt_of_nan (h : isNan x) (k : Int) (fl : Nat) : fpToInt x k fl = (0#32, 1) := by
  rw [isNan_iff] at h
  unfold fpToInt
  cases hx : Fp.read x <;> simp_all [fpIsNan]

/-- A conversion of a number sets its flag only where it saturates. -/
theorem fpToInt_of_not_nan (h : ¬isNan x) (k : Int) (fl : Nat) : (fpToInt x k fl).2 = 0 ∨
    (fpToInt x k fl).2 = fl ∧ ((fpToInt x k fl).1 = 0x7FFFFFFF#32 ∨ (fpToInt x k fl).1 = 0x80000000#32) := by
  rw [not_isNan_iff] at h
  unfold fpToInt
  cases hx : Fp.read x with
  | nan _ => simp [hx, fpIsNan] at h
  | inf sg => cases sg <;> simp
  | zero _ => simp
  | num sg m e =>
    cases sg
    · by_cases hn : 2147483648 ≤ roundNat m (e + k) <;> simp [hn]
    · by_cases hn : 2147483648 < roundNat m (e + k) <;> simp [hn]

end Sys2Proof.Machine
end

section
/-! The FP32 instructions (R312, R347, R348). -/

namespace Sys2Proof.Machine

/-- Settles O12: each instruction is the scalar register operation of its function; the NaN of a result is the canonical one. -/
theorem floatResults : Obligations.FloatResults := by
  refine ⟨?instructions, ?nans, ?special⟩
  case instructions =>
    intro k p d a b s h hp x y z
    refine ⟨?_, ?_, ?_, ?_, ?fsqrt, ?_, ?_, ?fabs, ?fneg, ?fmac, ?fcvtsw, ?fcvtws, ?fcvtsq, ?fcvtqs, ?_, ?_⟩
    case fmac => exact scalarIs_accRun rfl rfl rfl h hp
    case fabs | fneg => exact scalarIs_of_aluRun1_eq h hp rfl rfl rfl rfl
    case fsqrt | fcvtsw | fcvtws | fcvtsq | fcvtqs => exact scalarIs_aluRun1 rfl rfl rfl h hp
    all_goals exact scalarIs_aluRun rfl rfl rfl h hp
  case nans =>
    intro x y z r hr
    simp only [List.mem_cons, List.not_mem_nil, or_false] at hr
    obtain rfl | rfl | rfl | rfl | rfl | rfl | rfl | rfl | rfl | rfl := hr
    · exact canonNan_fpAddC _ _
    · exact canonNan_fpAddC _ _
    · exact canonNan_fmul x y
    · exact canonNan_fdiv x y
    · exact canonNan_fsqrt x
    · exact canonNan_fmac x y z
    · exact canonNan_fmin x y
    · exact canonNan_fmax x y
    · exact canonNan_fpOfInt _ _
    · exact canonNan_fpOfInt _ _
  case special =>
    intro x y
    exact ⟨fmin_fmax_of_nans, fun h => ⟨fpToInt_of_nan h _ _, fpToInt_of_nan h _ _⟩, fun h => fpToInt_of_not_nan h _ _,
      fun h => fpToInt_of_not_nan h _ _, rfl, rfl⟩

end Sys2Proof.Machine
end

section
/-! SUPPORT. What a vector instruction does to the lanes (R309, R355, R356): in ascending order, each enabled lane's step writes lane
registers and collects flags; lanes that are not enabled are left alone. -/

namespace Sys2Proof.Machine

theorem word_or (a b : Nat) : word (a ||| b) = word a ||| word b := by
  apply BitVec.eq_of_toNat_eq
  simp [word]

@[simp] theorem word_zero : word 0 = 0#32 := rfl

/-- The step of lane `i` writes the values that `w` names for that lane and collects the flags `fl i`. -/
structure LaneStep (g : Nat → CoreSt → CoreSt) (w : Nat → Nat → Option Word) (fl : Nat → Nat) : Prop where
  frame : ∀ i c, g i c = { c with vreg := (g i c).vreg, fpstat := c.fpstat ||| word (fl i) }
  lane : ∀ i c r j, i < 8 → j < 8 → vget (g i c) r j = if j = i then (w r j).getD (vget c r j) else vget c r j

/-- What the steps of the enabled lanes of `m` make of a core's registers. -/
structure LanesDone (m : Byte) (n : Nat) (w : Nat → Nat → Option Word) (fl : Nat → Nat) (c c' : CoreSt) : Prop where
  frame : c' = { c with
    vreg := c'.vreg
    fpstat := c.fpstat ||| word ((List.range n).foldl (fun f j => if m.getLsbD j then f ||| fl j else f) 0) }
  lane : ∀ r j, j < 8 → vget c' r j = if j < n ∧ m.getLsbD j = true then (w r j).getD (vget c r j) else vget c r j

variable {g : Nat → CoreSt → CoreSt} {w : Nat → Nat → Option Word} {fl : Nat → Nat}

/-- Lane by lane, the enabled ones are done. -/
theorem lanesDone_foldl (hg : LaneStep g w fl) (c : CoreSt) (m : Byte) : ∀ n ≤ 8,
    LanesDone m n w fl c ((List.range n).foldl (fun c' i => if m.getLsbD i then g i c' else c') c)
  | 0, _ => ⟨by simp, by simp⟩
  | n + 1, hn => by
    have ih := lanesDone_foldl hg c m n (by omega)
    rw [List.range_succ, List.foldl_append, List.foldl_cons, List.foldl_nil]
    generalize (List.range n).foldl (fun c' i => if m.getLsbD i then g i c' else c') c = c1 at ih
    cases hon : m.getLsbD n with
    | false =>
      refine ⟨?_, fun r j hj => ?_⟩
      · simpa [List.range_succ, hon] using ih.frame
      · have hjn : (j < n + 1 ∧ m.getLsbD j = true) ↔ (j < n ∧ m.getLsbD j = true) :=
          and_congr_left fun hjon => by
            have hne : j ≠ n := fun h => by simp [h, hon] at hjon
            omega
        rw [if_neg Bool.false_ne_true, ih.lane r j hj]
        simp only [hjn]
    | true =>
      refine ⟨?_, fun r j hj => ?_⟩
      · rw [if_pos rfl, hg.frame n c1, ih.frame]
        simp [List.range_succ, hon, word_or, BitVec.or_assoc]
      · rw [if_pos rfl, hg.lane n c1 r j (by omega) hj, ih.lane r j hj]
        rcases Nat.lt_trichotomy j n with hlt | rfl | hgt
        · simp [hlt, Nat.ne_of_lt hlt, Nat.lt_succ_of_lt hlt]
        · simp [hon]
        · simp [Nat.ne_of_gt hgt, Nat.not_lt.mpr (Nat.le_of_lt hgt), Nat.not_lt.mpr (Nat.succ_le_of_lt hgt)]

theorem lanesDone_lanes (hg : LaneStep g w fl) (c : CoreSt) (m : Byte) : LanesDone m 8 w fl c (lanes c m g) :=
  lanesDone_foldl hg c m 8 (Nat.le_refl 8)

/-- A step that writes lane `i` of one register and collects flags. -/
theorem laneStep_vset (d : Nat) (v : Nat → Word) (fl : Nat → Nat) :
    LaneStep (fun i c => flags (vset c d i (v i)) (fl i)) (fun r j => if r = d then some (v j) else none) fl where
  frame _ _ := rfl
  lane i c r j hi hj := by
    change vget (vset c d i (v i)) r j = _
    rw [vget_vset c (v i) hi hj]
    by_cases hr : r = d <;> by_cases hji : j = i <;> simp [hr, hji]

/-- The same without flags. -/
theorem laneStep_vset_noFlags (d : Nat) (v : Nat → Word) :
    LaneStep (fun i c => vset c d i (v i)) (fun r j => if r = d then some (v j) else none) fun _ => 0 where
  frame i c := by simp [vset]
  lane := (laneStep_vset d v fun _ => 0).lane

/-- A step that writes lane `i` of two registers. -/
theorem laneStep_vset_pair (d : Nat) (v q : Nat → Word) :
    LaneStep (fun i c => vset (vset c d i (v i)) (d + 1) i (q i))
      (fun r j => if r = d then some (v j) else if r = d + 1 then some (q j) else none) fun _ => 0 where
  frame i c := by simp [vset]
  lane i c r j hi hj := by
    rw [vget_vset _ (q i) hi hj, vget_vset c (v i) hi hj]
    by_cases hji : j = i
    · subst hji
      by_cases hr : r = d
      · simp [hr]
      · by_cases hr' : r = d + 1 <;> simp [hr, hr']
    · simp [hji]

variable {i : Instr} {ws : List Word} {mk : Word} {s t u : State} {k : Nat} {p len : Nat} {vec : Bool} {il : Option Nat}
  {f : CoreSt → State → Out}

/-- No lane sets a flag. -/
theorem laneFlags_zero (s : State) (k p : Nat) : laneFlags s k p (fun _ => 0) = 0 := by
  unfold laneFlags
  exact List.foldlRecOn (motive := fun f => f = 0) _ _ rfl fun f hf j _ => by simp [hf]

/-- A body that leaves core `k` with the lanes done, on top of `base`. -/
theorem lanesAre_of_go {base : State} (h : issues s k len) (hp : vec = true ∨ predOn s k p) (hw : sarbWords i = ws) (hm : sarbMask i = mk)
    (he : exec i s = .next (coreExec ws k len il vec p f s mk)) (hil : il = none) (hlen : ws.length = if len = 8 then 2 else 1)
    (hgo : f (coreOf s k) (fetched s k len) = .go t) (hbase : ∀ c, setCore t k c = setCore base k c)
    (hdone : LanesDone (pget (coreOf s k) p) 8 w fl (coreOf s k) (coreOf t k)) :
    LanesAre i s base k p len w (laneFlags s k p fl) := by
  have hframe := hdone.frame
  have hcut : (coreOf t k).cutAt = none := by rw [hframe]; exact h.2.1
  have hpc : (coreOf t k).pc = (coreOf s k).pc := by rw [hframe]
  intro hs
  refine ⟨_, coreIs_go h hp hw hm he hil hlen hgo hcut hs, ?_⟩
  have hcore : coreOf (stepCore t k len id) k = { coreOf t k with pc := (coreOf s k).pc + len } := by
    simp [stepCore, hpc]
  dsimp only
  rw [hcore]
  refine ⟨?_, ?_, fun r j _ hj => ?_⟩
  · rw [← hbase, stepCore, modCore, ← hpc]; rfl
  · simp only
    rw [hframe]
    rfl
  · rw [show vget { coreOf t k with pc := (coreOf s k).pc + len } r j = vget (coreOf t k) r j from rfl, hdone.lane r j hj]
    cases w r j <;> simp [laneOn, hj]

/-- A body that steps through the lanes of its predicate. -/
theorem lanesAre_of_lanes (h : issues s k len) (hp : vec = true ∨ predOn s k p) (hw : sarbWords i = ws) (hm : sarbMask i = mk)
    (he : exec i s = .next (coreExec ws k len il vec p f s mk)) (hil : il = none) (hlen : ws.length = if len = 8 then 2 else 1)
    (hgo : f (coreOf s k) (fetched s k len) = .go (setCore t k (lanes (coreOf s k) (pget (coreOf s k) p) g)))
    (hg : LaneStep g w fl) : LanesAre i s t k p len w (laneFlags s k p fl) := by
  refine lanesAre_of_go h hp hw hm he hil hlen hgo (fun c => setCore_setCore t k _ c) ?_
  rw [coreOf_setCore, if_pos rfl]
  exact lanesDone_lanes hg _ _

end Sys2Proof.Machine
end

section
/-! The vector arithmetic (R356). -/

namespace Sys2Proof.Machine

variable {i : Instr} {w : Word} {s : State} {k : Fin 64} {p : Fin 8} {d a b : Fin 32}

/-- A lane operation on vA and vB. -/
theorem lanesAre_valuRun {op : Word → Word → Word × Nat} (h : issues s k 4) (hw : sarbWords i = [w]) (hm : sarbMask i = 0xFFFFFFFF#32)
    (he : exec i s = .next (valuRun [w] k p d a b op s)) :
    LanesAre i s (fetched s k 4) k p 4 (fun r j => if r = d.val then some (op (vget (coreOf s k) a j) (vget (coreOf s k) b j)).1 else none)
      (laneFlags s k p fun j => (op (vget (coreOf s k) a j) (vget (coreOf s k) b j)).2) :=
  lanesAre_of_lanes h (.inl rfl) hw hm he rfl rfl rfl (laneStep_vset _ _ _)

/-- A lane operation on vA. -/
theorem lanesAre_valuRun1 {op : Word → Word × Nat} (h : issues s k 4) (hw : sarbWords i = [w]) (hm : sarbMask i = 0xFFFFFFFF#32)
    (he : exec i s = .next (valuRun [w] k p d a b (fun x _ => op x) s)) :
    LanesAre i s (fetched s k 4) k p 4 (fun r j => if r = d.val then some (op (vget (coreOf s k) a j)).1 else none)
      (laneFlags s k p fun j => (op (vget (coreOf s k) a j)).2) :=
  lanesAre_valuRun (op := fun x _ => op x) h hw hm he

/-- A lane operation that accumulates in vD. -/
theorem lanesAre_vaccRun {op : Word → Word → Word → Word × Nat} (h : issues s k 4) (hw : sarbWords i = [w])
    (hm : sarbMask i = 0xFFFFFFFF#32) (he : exec i s = .next (vaccRun [w] k p d a b op s)) :
    LanesAre i s (fetched s k 4) k p 4
      (fun r j => if r = d.val then some (op (vget (coreOf s k) d j) (vget (coreOf s k) a j) (vget (coreOf s k) b j)).1 else none)
      (laneFlags s k p fun j => (op (vget (coreOf s k) d j) (vget (coreOf s k) a j) (vget (coreOf s k) b j)).2) :=
  lanesAre_of_lanes h (.inl rfl) hw hm he rfl rfl rfl (laneStep_vset _ _ _)

/-- Settles O15: each instruction is the lane operation of its scalar function, on two operands, on one, or over vD. -/
theorem vectorArithmeticLanes : Obligations.VectorArithmeticLanes := by
  intro k p d a b s h c lanes2 lanes1 lanes3
  refine ⟨?_, ?_, ?_, ?_, ?_, ?_, ?_, ?_, ?_, ?_, ?_, ?_, ?_, ?_, ?_, ?_, ?_, ?_, ?_, ?_, ?_, ?vfsqrt, ?_, ?_, ?vfabs, ?vfneg, ?vfmac,
    ?vfcvtsw, ?vfcvtws, ?vfcvtsq, ?vfcvtqs, ?_, ?_, ?_, ?_, ?_, ?vqmac, ?vqabs, ?vqneg, ?_, ?_⟩
  case vfmac | vqmac => exact lanesAre_vaccRun h rfl rfl rfl
  case vfsqrt | vfabs | vfneg | vfcvtsw | vfcvtws | vfcvtsq | vfcvtqs | vqabs | vqneg => exact lanesAre_valuRun1 (b := 0) h rfl rfl rfl
  all_goals exact lanesAre_valuRun h rfl rfl rfl

end Sys2Proof.Machine
end

section
/-! SUPPORT. Vector compares: the byte of the enabled lanes' results (R356). -/

namespace Sys2Proof.Machine

/-- One lane of a vector compare: its bit and its flags join, where the lane is enabled. -/
def cmpLane (m : Byte) (r : Nat → Bool × Nat) (vf : Byte × Nat) (j : Nat) : Byte × Nat :=
  if m.getLsbD j then (if (r j).1 then vf.1 ||| BitVec.ofNat 8 (2 ^ j) else vf.1, vf.2 ||| (r j).2) else vf

theorem getLsbD_two_pow (n j : Nat) (hj : j < 8) : (BitVec.ofNat 8 (2 ^ n)).getLsbD j = decide (n = j) := by
  rw [BitVec.getLsbD_ofNat, Nat.testBit_two_pow]
  simp [hj]

/-- Lane by lane, the byte holds the results of the enabled lanes and the flags are theirs. -/
theorem foldl_cmpLane (m : Byte) (r : Nat → Bool × Nat) : ∀ n ≤ 8,
    let vf := (List.range n).foldl (cmpLane m r) (0#8, 0)
    (∀ j, j < 8 → vf.1.getLsbD j = (decide (j < n) && m.getLsbD j && (r j).1)) ∧
      vf.2 = (List.range n).foldl (fun f j => if m.getLsbD j then f ||| (r j).2 else f) 0
  | 0, _ => by simp
  | n + 1, hn => by
    obtain ⟨hbits, hflags⟩ := foldl_cmpLane m r n (by omega)
    rw [List.range_succ, List.foldl_append, List.foldl_append, ← hflags]
    generalize (List.range n).foldl (cmpLane m r) (0#8, 0) = vf at hbits
    refine ⟨fun j hj => ?_, ?_⟩
    · have hlt : decide (j < n + 1) = (decide (j < n) || decide (n = j)) := by
        rw [← Bool.decide_or]
        exact decide_eq_decide.mpr (by omega)
      simp only [List.foldl_cons, List.foldl_nil, cmpLane, hlt]
      by_cases hnj : n = j
      · subst hnj
        cases hon : m.getLsbD n <;> cases hr : (r n).1 <;>
          simp only [hbits n hj, hr, if_true, if_false, BitVec.getLsbD_or, getLsbD_two_pow n n hj, Bool.false_eq_true] <;> simp [hon]
      · have hbit : vf.1.getLsbD j = (vf.1 ||| BitVec.ofNat 8 (2 ^ n)).getLsbD j := by
          rw [BitVec.getLsbD_or, getLsbD_two_pow n j hj, decide_eq_false hnj, Bool.or_false]
        rw [decide_eq_false hnj, Bool.or_false, ← hbits j hj]
        split
        · split
          · exact hbit.symm
          · rfl
        · rfl
    · simp only [List.foldl_cons, List.foldl_nil, cmpLane]
      split <;> rfl

variable {i : Instr} {w : Word} {s : State} {k : Fin 64} {p : Fin 8}

/-- A vector compare writes a byte with the result of each enabled lane at its bit. -/
theorem exists_predIs_vcmpRun {d : Fin 8} {a b : Fin 32} {op : Word → Word → Bool × Nat} (h : issues s k 4) (hw : sarbWords i = [w])
    (hm : sarbMask i = 0xFFFFFFFF#32) (he : exec i s = .next (vcmpRun [w] k p d a b op s)) :
    ∃ v : Byte, (∀ j, j < 8 → laneOn s k p j = true → v.getLsbD j = (op (vget (coreOf s k) a j) (vget (coreOf s k) b j)).1) ∧
      PredIs i s k p d v (laneFlags s k p fun j => (op (vget (coreOf s k) a j) (vget (coreOf s k) b j)).2) := by
  have hfold := foldl_cmpLane (pget (coreOf s k) p) (fun j => op (vget (coreOf s k) a j) (vget (coreOf s k) b j)) 8 (Nat.le_refl 8)
  generalize hvf : (List.range 8).foldl (cmpLane _ _) (0#8, 0) = vf at hfold
  obtain ⟨hbits, hflags⟩ := hfold
  refine ⟨vf.1, fun j hj hon => ?_, ?_⟩
  · exact (hbits j hj).trans (by rw [laneOn] at hon; simp [hj, hon])
  · rw [show laneFlags s k p _ = vf.2 from hflags.symm, ← hvf]
    exact coreIs_setCore h (.inl rfl) hw hm he rfl rfl (coreOf_fetched h k) rfl (by simp) (by simp)

end Sys2Proof.Machine
end

section
/-! SUPPORT. Reductions over the enabled lanes: integer sum, and VSUMF's tree with no lane, one lane and all eight (R357). -/

namespace Sys2Proof.Machine

variable {i : Instr} {w : Word} {s : State} {k : Fin 64} {p : Fin 8} {d a : Fin 32}

/-- A reduction writes its result to sD. -/
theorem scalarIs_reduceRun {op : CoreSt → Byte → Nat → Word × Nat} (h : issues s k 4) (hw : sarbWords i = [w])
    (hm : sarbMask i = 0xFFFFE0FF#32) (he : exec i s = .next (reduceRun [w] k p d a op s)) :
    ScalarIs i s k 4 d (op (coreOf s k) (pget (coreOf s k) p) a).1 (op (coreOf s k) (pget (coreOf s k) p) a).2 :=
  coreIs_modCore h (.inl rfl) hw hm he rfl rfl rfl (by simp) (by simp [cutAt_fetched h])

theorem foldl_add_eq_ofNat_sum (l : List Word) (z : Word) : l.foldl (· + ·) z = z + BitVec.ofNat 32 (l.map BitVec.toNat).sum := by
  induction l generalizing z with
  | nil => simp
  | cons x l ih => simp [ih, BitVec.ofNat_add, BitVec.add_assoc]

variable {c : CoreSt} {m : Byte} {r : Nat}

theorem leaf_of_off {j : Nat} (h : m.getLsbD j = false) : leaf c m r j = none := by simp [leaf, h]
theorem leaf_of_on {j : Nat} (h : m.getLsbD j = true) : leaf c m r j = some (vget c r j, 0) := by simp [leaf, h]

/-- Without an enabled lane the reductions give 0. -/
theorem reductions_of_no_lane (h : onLanes c m r = []) : sumF c m r = (0#32, 0) ∧ maxF c m r = (0#32, 0) := by
  have hoff : ∀ j < 8, leaf c m r j = none := fun j hj => leaf_of_off <| by
    simpa [hj] using List.filter_eq_nil_iff.mp (List.map_eq_nil_iff.mp h) j (List.mem_range.mpr hj)
  constructor
  · simp [sumF, hoff, treeAdd]
  · simp [maxF, h]

/-- With one enabled lane VSUMF is its word and VMAXF its maximum with itself. -/
theorem reductions_of_one_lane (h : onLanes c m r = [w]) : sumF c m r = (w, 0) ∧ maxF c m r = fmax w w := by
  refine ⟨?_, by simp [maxF, h]⟩
  obtain ⟨j, hj, hjw⟩ := List.map_eq_singleton_iff.mp h
  have hmem (n : Nat) : n < 8 ∧ m.getLsbD n = true ↔ n = j := by
    rw [← List.mem_range, ← List.mem_filter (p := fun i => m.getLsbD i), hj, List.mem_singleton]
  obtain ⟨hlt, hon⟩ := (hmem j).mpr rfl
  have hleaf : ∀ n < 8, leaf c m r n = if n = j then some (w, 0) else none := fun n hn => by
    split
    next hnj => rw [hnj, leaf_of_on hon, hjw]
    next hnj => exact leaf_of_off (by simpa [hn] using mt (hmem n).mp hnj)
  simp only [sumF, hleaf 0 (by omega), hleaf 1 (by omega), hleaf 2 (by omega), hleaf 3 (by omega), hleaf 4 (by omega),
    hleaf 5 (by omega), hleaf 6 (by omega), hleaf 7 (by omega)]
  obtain rfl | rfl | rfl | rfl | rfl | rfl | rfl | rfl : j = 0 ∨ j = 1 ∨ j = 2 ∨ j = 3 ∨ j = 4 ∨ j = 5 ∨ j = 6 ∨ j = 7 := by omega
  all_goals rfl

/-- With every lane enabled VSUMF is the sum of the pairwise tree. -/
theorem sumF_of_all_lanes : (sumF c 0xFF#8 r).1 =
    (fadd (fadd (fadd (vget c r 0) (vget c r 1)).1 (fadd (vget c r 2) (vget c r 3)).1).1
      (fadd (fadd (vget c r 4) (vget c r 5)).1 (fadd (vget c r 6) (vget c r 7)).1).1).1 := rfl

end Sys2Proof.Machine
end

section
/-! Vector compares, moves and reductions (R356, R357, R373). -/

namespace Sys2Proof.Machine

theorem laneFlagsFold_zero (m : Byte) (n : Nat) :
    (List.range n).foldl (fun f j => if m.getLsbD j then f ||| (fun _ => 0) j else f) 0 = 0 :=
  List.foldlRecOn (motive := fun f => f = 0) _ _ rfl fun f hf j _ => by simp [hf]

/-- One enabled lane of one register is written, and no flag set. -/
theorem lanesDone_vset {c : CoreSt} {m : Byte} {d n : Nat} {x : Word} (hn : n < 8) (hon : m.getLsbD n = true) :
    LanesDone m 8 (fun r j => if r = d ∧ j = n then some x else none) (fun _ => 0) c (vset c d n x) where
  frame := by
    rw [laneFlagsFold_zero]
    simp [vset]
  lane r j hj := by
    rw [vget_vset c x hn hj]
    by_cases h : r = d ∧ j = n
    · simp [h, hn, hon]
    · simp [h]

/-- Of a lane that is not enabled nothing is written. -/
theorem lanesDone_none {c : CoreSt} {m : Byte} {d n : Nat} {x : Word} (hoff : m.getLsbD n = false) :
    LanesDone m 8 (fun r j => if r = d ∧ j = n then some x else none) (fun _ => 0) c c where
  frame := by
    rw [laneFlagsFold_zero]
    simp
  lane r j hj := by
    by_cases h : r = d ∧ j = n
    · simp [h, hoff]
    · simp [h]

/-- Settles O16: each compare gives the byte of its lanes, each move its lanes or its register, each reduction its word for sD. -/
theorem vectorComparesMovesAndReductions : Obligations.VectorComparesMovesAndReductions := by
  refine ⟨?compares, ?moves, ?reductions⟩
  case compares =>
    intro k p d a b s h c is
    refine ⟨?_, ?_, ?_, ?_, ?_, ?_, ?_, ?_, ?_, ?_, ?_, ?_⟩
    all_goals exact exists_predIs_vcmpRun h rfl rfl rfl
  case moves =>
    intro k p d a n w s c
    refine ⟨fun h => ⟨?vbc, ?vmov, ?vins, fun hon => ?vextOn, fun hoff => ?vextOff⟩, fun h => ?vbci⟩
    case vbc | vbci =>
      rw [← laneFlags_zero s k p]
      exact lanesAre_of_lanes h (.inl rfl) rfl rfl rfl rfl rfl rfl (laneStep_vset_noFlags _ _)
    case vmov =>
      rw [← laneFlags_zero s k p]
      exact lanesAre_valuRun1 (b := 0) (op := fun x => (x, 0)) h rfl rfl rfl
    case vins =>
      rw [← laneFlags_zero s k p]
      by_cases hon : laneOn s k p n = true
      · exact lanesAre_of_go h (.inl rfl) rfl rfl rfl rfl rfl (congrArg Out.go (if_pos hon)) (fun c => setCore_setCore _ _ _ c)
          (by rw [coreOf_setCore, if_pos rfl]; exact lanesDone_vset n.isLt hon)
      · exact lanesAre_of_go h (.inl rfl) rfl rfl rfl rfl rfl (congrArg Out.go (if_neg hon)) (fun _ => rfl)
          (by rw [coreOf_fetched h]; exact lanesDone_none (by simpa [laneOn] using hon))
    case vextOn =>
      exact coreIs_modCore (t := fetched s k 4) h (.inl rfl) rfl rfl rfl rfl rfl (congrArg Out.go (if_pos hon)) (by simp)
        (by simp [cutAt_fetched h])
    case vextOff =>
      exact coreIs_go h (.inl rfl) rfl rfl rfl rfl rfl (congrArg Out.go (if_neg (by simpa [laneOn] using hoff))) (cutAt_fetched h)
  case reductions =>
    intro k p d a s h c ls l q
    refine ⟨?vsumi, ?vsumq, (sumF c (pget c p) a).1, (sumF c (pget c p) a).2, ?vsumf, ?vmaxf, fun hls => ?none, fun w hls => ?one,
      fun hall => ?all⟩
    case vsumi =>
      have hsum := (foldl_add_eq_ofNat_sum ls 0#32).trans (BitVec.zero_add _)
      rw [← hsum]
      exact scalarIs_reduceRun (op := sumI) h rfl rfl rfl
    case vsumq => exact scalarIs_reduceRun (op := sumQ) h rfl rfl rfl
    case vsumf => exact scalarIs_reduceRun (op := sumF) h rfl rfl rfl
    case vmaxf => exact scalarIs_reduceRun (op := maxF) h rfl rfl rfl
    case none =>
      obtain ⟨hsum, hmax⟩ := reductions_of_no_lane (c := c) (m := pget c p) (r := a) hls
      rw [hsum]
      exact ⟨rfl, rfl, hmax⟩
    case one =>
      obtain ⟨hsum, hmax⟩ := reductions_of_one_lane (c := c) (m := pget c p) (r := a) hls
      rw [hsum]
      exact ⟨rfl, rfl, hmax⟩
    case all => rw [hall]; exact sumF_of_all_lanes

end Sys2Proof.Machine
end

section
/-! SUPPORT. Data accesses of a core (R36, R37, R304, R353): a permitted one goes on from the state that its corrected errors leave, and a
refused one raises its exception. -/

namespace Sys2Proof.Machine

theorem LiveOnly.rdByte {s t : State} (h : LiveOnly s t) (a : Nat) : rdByte t a = rdByte s a := by obtain ⟨l, rfl⟩ := h; rfl
theorem LiveOnly.rdBytes {s t : State} (h : LiveOnly s t) (a n : Nat) : rdBytes t a n = rdBytes s a n := by obtain ⟨l, rfl⟩ := h; rfl
theorem LiveOnly.rd64 {s t : State} (h : LiveOnly s t) (a : Nat) : rd64 t a = rd64 s a := by obtain ⟨l, rfl⟩ := h; rfl
theorem LiveOnly.rdTimer {s t : State} (h : LiveOnly s t) (a : Nat) : rdTimer t a = rdTimer s a := by obtain ⟨l, rfl⟩ := h; rfl
theorem LiveOnly.fsOf {s t : State} (h : LiveOnly s t) : fsOf t = fsOf s := by obtain ⟨l, rfl⟩ := h; rfl
theorem LiveOnly.eccIn {s t : State} (h : LiveOnly s t) (a n : Nat) : eccIn t a n = eccIn s a n := by obtain ⟨l, rfl⟩ := h; rfl

variable {s t : State} {k a n : Nat}

theorem liveOnly_eccRead (h : eccOf s a n < 2) : LiveOnly s (eccRead s a n).1 := (eccRead_ok s a n h).1

/-- Where no error is held, a read counts nothing. -/
theorem eccRead_of_clean (h : eccIn s a n = []) : (eccRead s a n).1 = s := by rw [eccRead, h]; rfl

theorem canRead.eccOf_lt (h : canRead s k a n) : eccOf s a n < 2 := h.2.2.2.2

/-- A permitted read goes on from the state in which its corrected errors are counted. -/
theorem coreAccess_read (hl : LiveOnly s t) (h : canRead s k a n) (ok : State → Out) :
    coreAccess t k false a n ok = ok (eccRead t a n).1 := by
  obtain ⟨halign, hmap, hregs, hperm, hecc⟩ := h
  have hmap' : ¬4294967296 ≤ a := Nat.not_le.mpr hmap
  have herr : (eccRead t a n).2 = false := (eccRead_ok t a n (by rwa [hl.eccOf])).2
  simp [coreAccess, halign, hmap', hregs, hl.coreOf, hl.memDenied, hperm, herr]

/-- A permitted write goes on. -/
theorem coreAccess_write (hl : LiveOnly s t) (h : canWrite s k a n) (ok : State → Out) : coreAccess t k true a n ok = ok t := by
  obtain ⟨halign, hmap, hregs, hcode, hperm⟩ := h
  have hmap' : ¬4294967296 ≤ a := Nat.not_le.mpr hmap
  simp [coreAccess, halign, hmap', hregs, hcode, hl.coreOf, hl.memDenied, hperm]

/-- A read where no error is held leaves the state. -/
theorem coreAccess_cleanRead (hl : LiveOnly s t) (h : cleanRead s k a n) (ok : State → Out) : coreAccess t k false a n ok = ok t := by
  obtain ⟨hread, hclean⟩ := h
  rw [coreAccess_read hl hread, eccRead_of_clean (by rwa [hl.eccIn])]

theorem liveOnly_readAt {len : Nat} (h : issues s k len) (hr : canRead s k a n) : LiveOnly s (readAt s k len a n) := by
  have hl := fetched_live s k len h
  exact hl.trans (liveOnly_eccRead (by rw [hl.eccOf]; exact hr.eccOf_lt))

theorem coreOf_readAt {len : Nat} (h : issues s k len) (hr : canRead s k a n) (j : Nat) : coreOf (readAt s k len a n) j = coreOf s j :=
  (liveOnly_readAt h hr).coreOf j

variable {wr : Bool} (ok : State → Out)

theorem coreAccess_misaligned (h : a % n ≠ 0) : coreAccess t k wr a n ok = .exc 3 4 (word a) t := if_pos h

theorem coreAccess_beyond (halign : a % n = 0) (h : 2 ^ 32 ≤ a) : coreAccess t k wr a n ok = .exc 3 7 (word a) t := by
  rw [coreAccess, if_neg (by simp [halign]), if_pos h]

theorem coreAccess_window (halign : a % n = 0) (hmap : a < 2 ^ 32) (h : inRegs a = true) :
    coreAccess t k wr a n ok = .exc 3 7 (word a) (violate t (coreTag k (coreOf t k).pid) wr a 7) := by
  rw [coreAccess, if_neg (by simp [halign]), if_neg (by omega), if_pos h]

theorem coreAccess_codeBank (halign : a % n = 0) (hmap : a < 2 ^ 32) (hregs : inRegs a = false) (h : inCodeBank a = true) :
    coreAccess t k true a n ok = .exc 3 3 (word a) (violate t (coreTag k (coreOf t k).pid) true a 5) := by
  rw [coreAccess, if_neg (by simp [halign]), if_neg (by omega), if_neg (by simp [hregs]), if_pos (by simp [h])]

theorem coreAccess_denied {kd : Nat} (halign : a % n = 0) (hmap : a < 2 ^ 32) (hregs : inRegs a = false)
    (hcode : wr = true → inCodeBank a = false)
    (h : memDenied t (coreTag k (coreOf t k).pid) (if wr then .write else .read) a = some kd) :
    coreAccess t k wr a n ok = .exc 3 1 (word a) (violate t (coreTag k (coreOf t k).pid) wr a kd) := by
  rw [coreAccess, if_neg (by simp [halign]), if_neg (by omega), if_neg (by simp [hregs]), if_neg (by simpa using hcode), h]

theorem coreAccess_uncorrectable (halign : a % n = 0) (hmap : a < 2 ^ 32) (hregs : inRegs a = false)
    (hperm : memDenied t (coreTag k (coreOf t k).pid) .read a = none) (h : 2 ≤ eccOf t a n) :
    coreAccess t k false a n ok = .exc 3 6 (word a) (eccRead t a n).1 := by
  have herr : (eccRead t a n).2 = true := by simpa [eccRead] using h
  have hmap' : ¬4294967296 ≤ a := Nat.not_le.mpr hmap
  simp [coreAccess, halign, hmap', hregs, hperm, herr]

end Sys2Proof.Machine
end

section
/-! SUPPORT. Addresses and little-endian words (R10, R37, R338, R352, R354). -/

namespace Sys2Proof.Machine

/-- An address within the map is the sum modulo 2³². -/
theorem addrOf_of_lt {base : Word} {c : CoreSt} {a : Fin 32} {imm : Word} (h : addrOf base c a imm < 2 ^ 32) :
    addrOf base c a imm = (base + sget c a + imm).toNat := by
  have hreg : BitVec.ofInt 32 (if base = 0#32 then ((sget c a.val).toNat : Int) else (sget c a.val).toInt) = sget c a := by
    split
    · rw [BitVec.ofInt_natCast, BitVec.ofNat_toNat, BitVec.setWidth_eq]
    · rw [BitVec.ofInt_toInt]
  have hbase : BitVec.ofInt 32 (base.toNat : Int) = base := by rw [BitVec.ofInt_natCast, BitVec.ofNat_toNat, BitVec.setWidth_eq]
  unfold addrOf at h ⊢
  dsimp only at h ⊢
  generalize (if base = 0#32 then ((sget c a.val).toNat : Int) else (sget c a.val).toInt) = r at hreg h ⊢
  split at h
  · omega
  · rw [if_neg (by assumption)]
    have hsum : BitVec.ofInt 32 (base.toNat + r + imm.toInt) = base + sget c a + imm := by
      rw [BitVec.ofInt_add, BitVec.ofInt_add, hbase, hreg, BitVec.ofInt_toInt]
    rw [← hsum, BitVec.toNat_ofInt]
    rfl

theorem rdBytes_succ (s : State) (a n : Nat) : rdBytes s a (n + 1) = rdByte s a :: rdBytes s (a + 1) n := by
  simp [rdBytes, List.range_succ_eq_map, Function.comp_def, Nat.add_assoc, Nat.add_comm 1]

@[simp] theorem rdBytes_zero (s : State) (a : Nat) : rdBytes s a 0 = [] := rfl

theorem length_rdBytes (s : State) (a n : Nat) : (rdBytes s a n).length = n := by simp [rdBytes]

theorem leNat_lt (bs : List Byte) : leNat bs < 2 ^ (8 * bs.length) := by
  induction bs with
  | nil => simp [leNat]
  | cons b bs ih =>
    have hpow : 2 ^ (8 * (bs.length + 1)) = 256 * 2 ^ (8 * bs.length) := by rw [Nat.mul_succ, Nat.pow_add]; omega
    have := b.isLt
    simp only [leNat, List.length_cons, hpow]
    omega

theorem leNat_append (bs cs : List Byte) : leNat (bs ++ cs) = leNat bs + 2 ^ (8 * bs.length) * leNat cs := by
  induction bs with
  | nil => simp [leNat]
  | cons b bs ih =>
    have hpow : 2 ^ (8 * (bs.length + 1)) = 256 * 2 ^ (8 * bs.length) := by rw [Nat.mul_succ, Nat.pow_add]; omega
    simp only [List.cons_append, leNat, ih, List.length_cons, hpow]
    rw [Nat.mul_add, Nat.mul_assoc, Nat.add_assoc]

theorem rdBytes_add (s : State) (a n m : Nat) : rdBytes s a (n + m) = rdBytes s a n ++ rdBytes s (a + n) m := by
  simp [rdBytes, List.range_add, Function.comp_def, Nat.add_assoc]

/-- A doubleword holds two words, the low one first. -/
theorem rd64_eq (s : State) (a : Nat) : rd64 s a = rd32 s (a + 4) ++ rd32 s a := by
  have hlow := leNat_lt (rdBytes s a 4)
  have hhigh := leNat_lt (rdBytes s (a + 4) 4)
  rw [length_rdBytes] at hlow hhigh
  apply BitVec.eq_of_toNat_eq
  rw [rd64, rdBytes_add s a 4 4, leNat_append, length_rdBytes, rd32, rd32, BitVec.toNat_ofNat]
  refine Eq.trans ?_ (BitVec.toNat_append _ _).symm
  rw [word, word, BitVec.toNat_ofNat, BitVec.toNat_ofNat, Nat.mod_eq_of_lt hlow, Nat.mod_eq_of_lt hhigh, Nat.shiftLeft_eq,
    ← Nat.shiftLeft_eq, ← Nat.shiftLeft_add_eq_or_of_lt hlow, Nat.shiftLeft_eq]
  omega

theorem ofNat_leNat_two (s : State) (a : Nat) : BitVec.ofNat 16 (leNat (rdBytes s a 2)) = rdByte s (a + 1) ++ rdByte s a := by
  apply BitVec.eq_of_toNat_eq
  have h0 := (rdByte s a).isLt
  have h1 := (rdByte s (a + 1)).isLt
  refine Eq.trans ?_ (BitVec.toNat_append _ _).symm
  rw [← Nat.shiftLeft_add_eq_or_of_lt h0, Nat.shiftLeft_eq]
  simp [rdBytes_succ, leNat]
  omega

theorem ofNat_leNat_one (s : State) (a : Nat) : BitVec.ofNat 8 (leNat (rdBytes s a 1)) = rdByte s a := by
  simp [rdBytes_succ, leNat]

theorem word_leNat_two (s : State) (a : Nat) : word (leNat (rdBytes s a 2)) = (rdByte s (a + 1) ++ rdByte s a).setWidth 32 := by
  have hlt := leNat_lt (rdBytes s a 2)
  rw [length_rdBytes] at hlt
  rw [← ofNat_leNat_two, word]
  apply BitVec.eq_of_toNat_eq
  simp only [BitVec.toNat_setWidth, BitVec.toNat_ofNat]
  omega

theorem word_leNat_one (s : State) (a : Nat) : word (leNat (rdBytes s a 1)) = (rdByte s a).setWidth 32 := by
  have hlt := leNat_lt (rdBytes s a 1)
  rw [length_rdBytes] at hlt
  rw [← ofNat_leNat_one, word]
  apply BitVec.eq_of_toNat_eq
  simp only [BitVec.toNat_setWidth, BitVec.toNat_ofNat]
  omega

theorem append_setWidth_low (x y : Word) : (x ++ y : DWord).setWidth 32 = y := by
  refine BitVec.eq_of_getLsbD_eq fun n hn => ?_
  rw [BitVec.getLsbD_setWidth]
  simp [hn, (BitVec.getLsbD_append : (x ++ y : DWord).getLsbD n = _)]

theorem append_shiftRight_low (x y : Word) : ((x ++ y : DWord) >>> 32).setWidth 32 = x := by
  refine BitVec.eq_of_getLsbD_eq fun n hn => ?_
  rw [BitVec.getLsbD_setWidth, BitVec.getLsbD_ushiftRight]
  simp [hn, (BitVec.getLsbD_append : (x ++ y : DWord).getLsbD (32 + n) = _)]

/-- A guarded word passes its check where its high half is the complement of the low one. -/
theorem guardedOk_rd64 (s : State) (a : Nat) : guardedOk (rd64 s a) = true ↔ rd32 s (a + 4) = ~~~rd32 s a := by
  rw [rd64_eq, guardedOk, append_setWidth_low, append_shiftRight_low, guardOk, beq_iff_eq]

theorem guardedVal_rd64 (s : State) (a : Nat) : guardedVal (rd64 s a) = rd32 s a := by
  rw [rd64_eq, guardedVal, append_setWidth_low]

end Sys2Proof.Machine
end

section
/-! SUPPORT. What violations, block accesses and stores leave alone (R155, R156, R305, R548): cores, configuration, time. -/

namespace Sys2Proof.Machine

/-- All of a state but what a violation, a DMA access and a store can change: memory and its errors, live registers, posts, dirty lines. -/
def storeFrame (s : State) : State :=
  { s with
    live := [], mem := [], ecc := [], memErr := 0#32, alm := {}
    part := { s.part with hnq := [], avCycle := none }
    pcx := { s.pcx with dirty := [] }
    tsk := { s.tsk with carry := [] }
    mir := { s.mir with unsent := [] }
    trust := { s.trust with dramDone := false } }

theorem coreOf_eq_of_storeFrame {s t : State} (h : storeFrame s = storeFrame t) (k : Nat) : coreOf s k = coreOf t k :=
  (congrArg (fun u : State => mget ({} : CoreSt) u.pcx.cores k) h :)

theorem now_eq_of_storeFrame {s t : State} (h : storeFrame s = storeFrame t) : s.now = t.now :=
  (congrArg State.now h :)

theorem storeFrame_eq_of_postFrame {s t : State} (h : postFrame s = postFrame t) : storeFrame s = storeFrame t :=
  (congrArg storeFrame h :)

variable (s : State)

@[simp] theorem storeFrame_setLive (a : Nat) (w : Word) : storeFrame (setLive s a w) = storeFrame s := rfl
@[simp] theorem storeFrame_markDirty (a n : Nat) : storeFrame (markDirty s a n) = storeFrame s := rfl
@[simp] theorem storeFrame_pokeBytes (a : Nat) (bs : List Byte) : storeFrame (pokeBytes s a bs) = storeFrame s := rfl
@[simp] theorem storeFrame_memError (i : Nat) : storeFrame (memError s i) = storeFrame s := rfl

/-- The registers of a logged violation are no part of the PCX. -/
theorem storeFrame_avRegisters (cycle : Option Nat) (info lo hi : Word) : storeFrame (setLive (setLive (setLive (setEvt
    { s with part := { s.part with avCycle := cycle } } R.partEvt 0) R.partAvInfo info) R.partAvAddrLo lo) R.partAvAddrHi hi) =
      storeFrame s :=
  rfl

@[simp] theorem storeFrame_avLog (t : Tag) (wr : Bool) (a kd : Nat) : storeFrame (avLog s t wr a kd) = storeFrame s := by
  unfold avLog
  exact (storeFrame_eq_of_postFrame (postFrame_hnqPost ..)).trans ((storeFrame_eq_of_postFrame (postFrame_almPost ..)).trans (storeFrame_avRegisters ..))

@[simp] theorem storeFrame_violate (t : Tag) (wr : Bool) (a kd : Nat) : storeFrame (violate s t wr a kd) = storeFrame s := by
  unfold violate
  extract_lets u
  split
  · split
    · exact storeFrame_avLog (avUnlog u) t wr a kd
    · rfl
  · exact storeFrame_avLog u t wr a kd

@[simp] theorem storeFrame_dramStall (a n : Nat) : storeFrame (dramStall s a n) = storeFrame s := by
  unfold dramStall dramWipe
  split
  · split
    · rfl
    · dsimp only
      split <;> rfl
  · rfl

theorem storeFrame_dmaAccess_write (i : Nat) (t : Tag) (a n : Nat) : storeFrame (dmaAccess s i t true a n).1 = storeFrame s := by
  unfold dmaAccess
  extract_lets u
  have hu : storeFrame u = storeFrame s := storeFrame_dramStall s a n
  split
  · exact (storeFrame_violate u _ _ _ _).trans hu
  · exact hu

/-- A line copied to the snapshot area, the addresses taken apart from their registers. -/
theorem storeFrame_lineCopy (b l a : Nat) (f : State → Word) (r : State × Option Nat) (hr : storeFrame r.1 = storeFrame s)
    (u : State) (hu : u = if r.2.isSome then r.1 else markDirty (pokeBytes r.1 b (rdBytes r.1 l 64)) b 64) :
    storeFrame (setLive u a (f u)) = storeFrame s := by
  rw [storeFrame_setLive, hu]
  split <;> simp [hr]

theorem storeFrame_cowLine (e : Nat × Nat × Nat) : storeFrame (cowLine s e) = storeFrame s :=
  storeFrame_lineCopy s _ _ _ (fun u => word (satAdd 0xFFFFFFFF (liveOf u (R.mirCnt 6)).toNat 1)) _
    (storeFrame_dmaAccess_write s 0x16 (dmaTag s 0x16 none) _ 64) _ rfl

theorem storeFrame_cow (a n : Nat) : storeFrame (cow s a n) = storeFrame s := by
  have hfold (l : List (Nat × Nat × Nat)) (u : State) : storeFrame (l.foldl cowLine u) = storeFrame u :=
    List.foldlRecOn (motive := fun v => storeFrame v = storeFrame u) l cowLine rfl fun v hv e _ => (storeFrame_cowLine v e).trans hv
  unfold cow
  split
  · rfl
  · exact hfold _ _

@[simp] theorem storeFrame_wrBytes (a : Nat) (bs : List Byte) : storeFrame (wrBytes s a bs) = storeFrame s := by
  simp [wrBytes, storeFrame_cow]

@[simp] theorem storeFrame_coreStore (a : Nat) (bs : List Byte) : storeFrame (coreStore s a bs) = storeFrame s := by
  unfold coreStore
  split
  · exact storeFrame_wrBytes s a bs
  · extract_lets u
    have hu : storeFrame u = storeFrame s := storeFrame_cow s a bs.length
    exact List.foldlRecOn (motive := fun v => storeFrame v = storeFrame s) _ _ hu fun v hv e _ => by split <;> simpa using hv

theorem coreOf_coreStore (a : Nat) (bs : List Byte) (k : Nat) : coreOf (coreStore s a bs) k = coreOf s k :=
  coreOf_eq_of_storeFrame (storeFrame_coreStore s a bs) k

theorem coreOf_vstBytes (c : CoreSt) (d a : Nat) (m : Byte) (k : Nat) : coreOf (vstBytes s c d a m) k = coreOf s k := by
  refine List.foldlRecOn (motive := fun u => coreOf u k = coreOf s k) _ _ rfl fun u hu j _ => ?_
  split
  · exact (coreOf_coreStore u _ _ k).trans hu
  · exact hu

end Sys2Proof.Machine
end

section
/-! SUPPORT. Loads and stores of a core whose access is permitted (R352, R354, R373). -/

namespace Sys2Proof.Machine

@[simp] theorem flags_none (c : CoreSt) : flags c 0 = c := by simp [flags]

theorem scalar_zero (k : Nat) (s : State) (d : Nat) (w : Word) : scalar k s d (w, 0) = modCore s k fun c => sset c d w := by
  simp [scalar]

variable {i : Instr} {ws : List Word} {s : State} {k : Fin 64} {p : Fin 8} {d : Fin 32} {x n len : Nat} {il : Option Nat}
  {f : CoreSt → State → Out}

/-- A body that is a permitted load writes its value to sD. -/
theorem loadIs_of_loadOut {ext : Nat → Word} (h : issues s k len) (hp : predOn s k p) (hw : sarbWords i = ws)
    (hm : sarbMask i = 0xFFFFFFFF#32) (he : exec i s = .next (coreExec ws k len il false p f s)) (hil : il = none)
    (hlen : ws.length = if len = 8 then 2 else 1) (hf : ∀ t, f (coreOf s k) t = loadOut k d x n ext t) (hr : canRead s k x n) :
    LoadIs i s k len d x n (ext (leNat (rdBytes s x n))) := by
  refine coreIs_modCore h (.inr hp) hw hm he hil hlen ?_ (by simp) (by simp [coreOf_readAt h hr, h.2.1])
  rw [hf, loadOut, coreAccess_read (fetched_live s k len h) hr, scalar_zero]
  change Out.go (modCore (readAt s k len x n) k fun c => sset c d (ext (leNat (rdBytes (readAt s k len x n) x n)))) = _
  rw [(liveOnly_readAt h hr).rdBytes]

/-- A body that is a permitted store stores its bytes. -/
theorem storeIs_of_storeOut {v : Nat} (h : issues s k len) (hp : predOn s k p) (hw : sarbWords i = ws) (hm : sarbMask i = 0xFFFFFFFF#32)
    (he : exec i s = .next (coreExec ws k len il false p f s)) (hil : il = none) (hlen : ws.length = if len = 8 then 2 else 1)
    (hf : ∀ t, f (coreOf s k) t = storeOut k x n v t) (hr : canWrite s k x n) : StoreIs i s k len x (leBytes n v) := by
  refine coreIs_go h (.inr hp) hw hm he hil hlen ?_ (by rw [coreOf_coreStore]; exact cutAt_fetched h)
  rw [hf, storeOut, coreAccess_write (fetched_live s k len h) hr]

/-- A body that is a permitted guarded load writes the word of a pair that agrees, else raises a guard fault (R354). -/
theorem guardedLoad_of_ldgOut (h : issues s k len) (hp : predOn s k p) (hw : sarbWords i = ws)
    (hm : sarbMask i = 0xFFFFFFFF#32) (he : exec i s = .next (coreExec ws k len il false p f s)) (hil : il = none)
    (hlen : ws.length = if len = 8 then 2 else 1) (hf : ∀ t, f (coreOf s k) t = ldgOut k d x t) (hr : canRead s k x 8) :
    (rd32 s (x + 4) = ~~~rd32 s x → LoadIs i s k len d x 8 (rd32 s x)) ∧
      (rd32 s (x + 4) ≠ ~~~rd32 s x → Raises i s (readAt s k len x 8) k 1 1 (BitVec.ofNat 32 x)) := by
  have hbody : f (coreOf s k) (fetched s k len) = if guardedOk (rd64 s x) then .go (modCore (readAt s k len x 8) k fun c => sset c d (rd32 s x))
      else .exc 1 1 (word x) (readAt s k len x 8) := by
    rw [hf, ldgOut, coreAccess_read (fetched_live s k len h) hr]
    have hread : rd64 (eccRead (fetched s k len) x 8).1 x = rd64 s x := (liveOnly_readAt h hr).rd64 x
    dsimp only
    rw [hread, guardedVal_rd64, scalar_zero]
    rfl
  rw [← guardedOk_rd64] at *
  constructor <;> intro hg
  · exact coreIs_modCore h (.inr hp) hw hm he hil hlen (by rw [hbody, if_pos hg]) (by simp) (by simp [coreOf_readAt h hr, h.2.1])
  · exact raises_of_exc h (.inr hp) hw hm he hil hlen (by rw [hbody, if_neg (mt (guardedOk_rd64 s x).mp hg)]; rfl)

theorem pairField_eq_none {r : Nat} (heven : r % 2 = 0) (hne : r ≠ 0) : pairField r = none := by
  rw [pairField, if_neg (by omega), if_neg hne]

end Sys2Proof.Machine
end

section
/-! Loads (R352 to R354, R373). -/

namespace Sys2Proof.Machine

/-- Settles O17: each load is a permitted access at its address, widened as named, or a guarded pair. -/
theorem loadResults : Obligations.LoadResults := by
  refine ⟨?loads, ?guarded⟩
  case loads =>
    intro k p d a imm w s hp c x xi xw
    refine ⟨fun h => ?x, addrOf_of_lt, fun h => ?xw, fun h => ⟨fun hr => ?ldw, fun hr => ⟨?ldh, ?ldhu⟩, fun hr => ⟨?ldb, ?ldbu⟩,
      fun hr heven hne => ?ldd, fun hr => ?ldwi⟩, fun h hr => ?ldwx⟩
    case x | xw => exact (addrOf_of_lt h).trans (by rw [BitVec.zero_add])
    case ldw => exact loadIs_of_loadOut (ext := word) h hp rfl rfl rfl rfl rfl (fun _ => rfl) hr
    case ldh =>
      rw [← ofNat_leNat_two]
      exact loadIs_of_loadOut (ext := sext 16) h hp rfl rfl rfl rfl rfl (fun _ => rfl) hr
    case ldhu =>
      rw [← word_leNat_two]
      exact loadIs_of_loadOut (ext := word) h hp rfl rfl rfl rfl rfl (fun _ => rfl) hr
    case ldb =>
      rw [← ofNat_leNat_one]
      exact loadIs_of_loadOut (ext := sext 8) h hp rfl rfl rfl rfl rfl (fun _ => rfl) hr
    case ldbu =>
      rw [← word_leNat_one]
      exact loadIs_of_loadOut (ext := word) h hp rfl rfl rfl rfl rfl (fun _ => rfl) hr
    case ldd =>
      refine coreIs_modCore (t := readAt s k 4 x 8) h (.inr hp) rfl rfl rfl (pairField_eq_none heven hne) rfl ?_ (by simp)
        (by simp [coreOf_readAt h hr, h.2.1])
      rw [← rd64_eq, ← (liveOnly_readAt h hr).rd64]
      exact coreAccess_read (fetched_live s k 4 h) hr _
    case ldwi => exact loadIs_of_loadOut (ext := word) h hp rfl rfl rfl rfl rfl (fun _ => rfl) hr
    case ldwx => exact loadIs_of_loadOut (ext := word) h hp rfl rfl rfl rfl rfl (fun _ => rfl) hr
  case guarded =>
    intro k p d a imm s h hp c x xi is
    exact ⟨guardedLoad_of_ldgOut h hp rfl rfl rfl rfl rfl fun _ => rfl, guardedLoad_of_ldgOut h hp rfl rfl rfl rfl rfl fun _ => rfl⟩

end Sys2Proof.Machine
end

section
/-! SUPPORT. The bytes of words, the dirty lines, and what a store leaves of the memory (R10, R305, R352, R401, R548). -/

namespace Sys2Proof.Machine

theorem leBytes_four (w : Word) :
    leBytes 4 w.toNat = [w.extractLsb' 0 8, w.extractLsb' 8 8, w.extractLsb' 16 8, w.extractLsb' 24 8] := by
  simp [leBytes, BitVec.extractLsb', Nat.shiftRight_eq_div_pow, Nat.div_div_eq_div_mul]

theorem length_leBytes (n v : Nat) : (leBytes n v).length = n := by
  induction n generalizing v with
  | zero => rfl
  | succ n ih => rw [leBytes, List.length_cons, ih]

theorem leBytes_add (n m v : Nat) : leBytes (n + m) v = leBytes n v ++ leBytes m (v / 256 ^ n) := by
  induction n generalizing v with
  | zero => simp [leBytes]
  | succ n ih => rw [Nat.succ_add, leBytes, leBytes, ih, Nat.div_div_eq_div_mul, ← Nat.pow_succ']; rfl

theorem leBytes_add_mul (n v w : Nat) : leBytes n (v + 256 ^ n * w) = leBytes n v := by
  induction n generalizing v with
  | zero => rfl
  | succ n ih =>
    have hdiv : (v + 256 ^ (n + 1) * w) / 256 = v / 256 + 256 ^ n * w := by
      rw [Nat.pow_succ', Nat.mul_assoc, Nat.add_mul_div_left _ _ (by omega)]
    have hmod : BitVec.ofNat 8 (v + 256 ^ (n + 1) * w) = BitVec.ofNat 8 v := by
      apply BitVec.eq_of_toNat_eq
      rw [Nat.pow_succ', Nat.mul_assoc, BitVec.toNat_ofNat, BitVec.toNat_ofNat]
      omega
    rw [leBytes, leBytes, hdiv, hmod, ih]

/-- A doubleword is stored low word first. -/
theorem leBytes_append (x y : Word) : leBytes 8 (x ++ y : DWord).toNat = leBytes 4 y.toNat ++ leBytes 4 x.toNat := by
  have hlt := y.isLt
  have hnat : (x ++ y : DWord).toNat = y.toNat + 256 ^ 4 * x.toNat := by
    refine (BitVec.toNat_append x y).trans ?_
    rw [← Nat.shiftLeft_add_eq_or_of_lt hlt, Nat.shiftLeft_eq]
    omega
  rw [leBytes_add 4 4, hnat, leBytes_add_mul, Nat.add_mul_div_left _ _ (by decide),
    Nat.div_eq_of_lt (by omega : y.toNat < 256 ^ 4), Nat.zero_add]

theorem mem_insNat (x n : Nat) (l : List Nat) : x ∈ insNat n l ↔ x = n ∨ x ∈ l := by
  induction l with
  | nil => simp [insNat]
  | cons m l ih =>
    rw [insNat]
    split
    · simp
    · split
      · next h => simp [h]
      · rw [List.mem_cons, ih, List.mem_cons, or_left_comm]

theorem mem_foldl_insNat (x : Nat) (ls d : List Nat) : x ∈ ls.foldl (fun d l => insNat l d) d ↔ x ∈ ls ∨ x ∈ d := by
  induction ls generalizing d with
  | nil => simp
  | cons l ls ih => rw [List.foldl_cons, ih, mem_insNat, List.mem_cons, or_left_comm, or_assoc]

variable (s : State) (a : Nat)

theorem mem_dirty_markDirty (n l : Nat) : l ∈ (markDirty s a n).pcx.dirty ↔ (l ∈ linesOf a n ∧ tracked l = true) ∨ l ∈ s.pcx.dirty := by
  rw [← List.mem_filter]
  exact mem_foldl_insNat ..

/-- No captured line that is still to be sent lies in the stored ones: nothing is copied. -/
theorem cow_of_no_hit (n : Nat) (h : ∀ e ∈ s.mir.unsent, s.now < e.2.2 → e.1 ∉ linesOf a n) : cow s a n = s := by
  have hhit (e : Nat × Nat × Nat) (he : e ∈ s.mir.unsent) : ((linesOf a n).contains e.1 && decide (s.now < e.2.2)) = false := by
    rw [Bool.and_eq_false_imp]
    intro hc
    exact decide_eq_false fun ht => h e he ht (List.contains_iff_mem.mp hc)
  have hcopied : s.mir.unsent.filter (fun e => (linesOf a n).contains e.1 && decide (s.now < e.2.2)) = [] :=
    List.filter_eq_nil_iff.mpr fun e he => by simpa using hhit e he
  have hkept : s.mir.unsent.filter (fun e => !((linesOf a n).contains e.1 && decide (s.now < e.2.2))) = s.mir.unsent :=
    List.filter_eq_self.mpr fun e he => by rw [hhit e he]; rfl
  unfold cow
  split
  · rfl
  · dsimp only
    rw [hcopied, hkept]
    rfl

/-- Poke of a stored byte, where no force holds it (R401). -/
def pokeUnforced (s : State) (a : Nat) (e : Nat × Byte) : State := if forcedByte s (a + e.1) then s else pokeBytes s (a + e.1) [e.2]

@[simp] theorem rdByte_markDirty (n x : Nat) : rdByte (markDirty s a n) x = rdByte s x := rfl
@[simp] theorem rdByte_setLive (w : Word) (x : Nat) : rdByte (setLive s a w) x = rdByte s x := rfl
@[simp] theorem mir_setLive (w : Word) : (setLive s a w).mir = s.mir := rfl
@[simp] theorem mir_markDirty (n : Nat) : (markDirty s a n).mir = s.mir := rfl
@[simp] theorem mir_pokeBytes (bs : List Byte) : (pokeBytes s a bs).mir = s.mir := rfl

/-- Only bytes and their errors differ. -/
def SameButBytes (s t : State) : Prop := { t with mem := s.mem, ecc := s.ecc } = s

theorem SameButBytes.trans {s t u : State} (h : SameButBytes s t) (h' : SameButBytes t u) : SameButBytes s u := by
  unfold SameButBytes at *
  rw [← h, ← h']

theorem SameButBytes.forcedByte {s t : State} (h : SameButBytes s t) (x : Nat) : forcedByte t x = forcedByte s x := by
  unfold SameButBytes at h
  rw [← h]
  rfl

theorem SameButBytes.eq_setMem {s t : State} (h : SameButBytes s t) : t = { s with mem := t.mem, ecc := t.ecc } := by
  unfold SameButBytes at h
  conv => rhs; rw [← h]

theorem sameButBytes_pokeUnforced (e : Nat × Byte) : SameButBytes s (pokeUnforced s a e) := by
  unfold pokeUnforced
  split <;> rfl

/-- The bytes of a store one by one: those not forced take their values. -/
theorem pokeUnforced_fold (bs : List Byte) (hmem : memOk s) :
    let t := ((List.range bs.length).zip bs).foldl (fun s e => pokeUnforced s a e) s
    SameButBytes s t ∧ memOk t ∧
      ∀ x, rdByte t x = if a ≤ x ∧ x < a + bs.length ∧ forcedByte s x = false then (bs[x - a]?).getD 0#8 else rdByte s x := by
  rw [← List.reverse_reverse bs]
  generalize bs.reverse = l
  induction l with
  | nil => exact ⟨rfl, hmem, fun x => by rw [if_neg (by simp; omega)]; rfl⟩
  | cons b l ih =>
    obtain ⟨hsame, hok, hbytes⟩ := ih
    rw [List.reverse_cons]
    generalize l.reverse = bs at *
    rw [List.length_append, List.length_singleton, List.range_succ, List.zip_append (by simp), List.foldl_append]
    generalize ((List.range bs.length).zip bs).foldl (fun s e => pokeUnforced s a e) s = u at *
    refine ⟨hsame.trans (sameButBytes_pokeUnforced u a _), ?_, fun x => ?_⟩
    · simp only [List.zip_cons_cons, List.zip_nil_left, List.foldl_cons, List.foldl_nil]
      unfold pokeUnforced
      split
      · exact hok
      · exact storeBytes_wf _ _ _ hok
    · simp only [List.zip_cons_cons, List.zip_nil_left, List.foldl_cons, List.foldl_nil]
      unfold pokeUnforced
      rw [hsame.forcedByte]
      by_cases hx : x = a + bs.length
      · subst hx
        by_cases hf : forcedByte s (a + bs.length) = true
        · rw [if_pos hf, if_neg (by simp [hf]), hbytes, if_neg (by omega)]
        · rw [if_neg hf, if_pos (by simpa using hf), rdByte_pokeBytes, if_pos (by simp)]
          simp
      · have hlater : rdByte (if forcedByte s (a + bs.length) then u else pokeBytes u (a + bs.length) [b]) x = rdByte u x := by
          split
          · rfl
          · rw [rdByte_pokeBytes, if_neg (by simp; omega)]
        rw [hlater, hbytes]
        by_cases hin : a ≤ x ∧ x < a + bs.length
        · rw [List.getElem?_append_left (by omega)]
          have hlt : x < a + (bs.length + 1) := Nat.lt_succ_of_lt hin.2
          simp [hin.1, hin.2, hlt]
        · rw [if_neg fun h => hin ⟨h.1, h.2.1⟩, if_neg (by omega)]


/-- A program's store beside the captured lines: the state with its lines marked, and the bytes in memory. -/
theorem coreStore_of_no_hit (bs : List Byte) (hmem : memOk s) (h : ∀ e ∈ s.mir.unsent, s.now < e.2.2 → e.1 ∉ linesOf a bs.length) :
    SameButBytes (markDirty s a bs.length) (coreStore s a bs) ∧ memOk (coreStore s a bs) ∧
      ∀ x, rdByte (coreStore s a bs) x =
        if a ≤ x ∧ x < a + bs.length ∧ forcedByte s x = false then (bs[x - a]?).getD 0#8 else rdByte s x := by
  have hcow := cow_of_no_hit s a bs.length h
  unfold coreStore
  split
  · next hempty =>
    have hnone (x : Nat) : forcedByte s x = false := by rw [forcedByte, List.isEmpty_iff.mp hempty]; rfl
    rw [wrBytes, hcow]
    refine ⟨rfl, storeBytes_wf _ _ _ hmem, fun x => ?_⟩
    simpa [hnone] using (rdByte_markDirty _ a bs.length x).trans (rdByte_pokeBytes s a x bs)
  · rw [hcow]
    exact pokeUnforced_fold (markDirty s a bs.length) a bs hmem

/-- A DMA access that may go through goes through and counts nothing. -/
theorem dmaAccess_write_of_dmaMay {t : Tag} {n : Nat} (i : Nat) (h : dmaMay s t .write a n) : dmaAccess s i t true a n = (s, none) := by
  obtain ⟨hdram, hperm, -⟩ := h
  have hstall : dramStall s a n = s := by
    unfold dramStall
    split
    · next hd =>
      simp only [Bool.and_eq_true, Bool.not_eq_true'] at hd
      rw [hdram hd.1] at hd
      exact absurd hd.2 (by simp)
    · rfl
  unfold dmaAccess
  rw [hstall]
  simp only [if_true, hperm]

/-- A captured line is copied as it stands (R548). -/
theorem cowLine_of_dmaMay {snap : Nat} (l i t : Nat) (hsnap : fld (forceOf s R.mirSnap) 31 20 * 0x100000 + 64 * i = snap)
    (h : dmaMay s (dmaTag s 0x16 none) .write snap 64) :
    (cowLine s (l, i, t)).mir = s.mir ∧ ∀ j, j < 64 → rdByte (cowLine s (l, i, t)) (snap + j) = rdByte s (l * 64 + j) := by
  unfold cowLine
  dsimp only
  rw [hsnap, dmaAccess_write_of_dmaMay s snap _ h]
  refine ⟨by simp, fun j hj => ?_⟩
  simp [rdByte_pokeBytes, hj, rdBytes]

/-- The one captured line that is still to be sent is hit: it is copied, and none waits any more. -/
theorem cow_of_hit {l i t n : Nat} (hu : s.mir.unsent = [(l, i, t)]) (ht : s.now < t) (hl : l ∈ linesOf a n) :
    cow s a n = cowLine { s with mir := { s.mir with unsent := [] } } (l, i, t) := by
  unfold cow
  simp [hu, ht, hl]

theorem mir_wrBytes (bs : List Byte) : (wrBytes s a bs).mir = (cow s a bs.length).mir := by
  rw [wrBytes, mir_markDirty, mir_pokeBytes]

theorem rdByte_wrBytes_of_outside (bs : List Byte) {x : Nat} (h : x < a ∨ a + bs.length ≤ x) :
    rdByte (wrBytes s a bs) x = rdByte (cow s a bs.length) x := by
  rw [wrBytes, rdByte_markDirty, rdByte_pokeBytes, if_neg (by omega)]

end Sys2Proof.Machine
end

section
/-! Stores (R305, R352 to R354, R373, R401, R548). -/

namespace Sys2Proof.Machine

/-- Settles O18: each store is a permitted access of its bytes; of these the forced ones keep their value; the captured line is copied
first. -/
theorem storeResults : Obligations.StoreResults := by
  refine ⟨?instructions, ?memory, ?snapshot⟩
  case instructions =>
    intro k p d a imm w s hp c x xi xw v bs
    have hword (v : Word) : bs v = leBytes 4 v.toNat := (leBytes_four v).symm
    have hguarded : bs v ++ bs (~~~v) = leBytes 8 (guarded v).toNat := by rw [hword, hword, guarded, leBytes_append]
    refine ⟨fun h => ⟨fun hw => ?stw, fun hw => ?sth, fun hw => ?stb, fun hw heven hne => ?std, fun hw => ?stg, fun hw => ?stwi,
      fun hw => ?stgi⟩, fun h hw => ?stwx⟩
    case sth =>
      rw [show (bs v).take 2 = leBytes 2 v.toNat by rw [hword]; rfl]
      exact storeIs_of_storeOut (v := v.toNat) h hp rfl rfl rfl rfl rfl (fun _ => rfl) hw
    case stb =>
      rw [show (bs v).take 1 = leBytes 1 v.toNat by rw [hword]; rfl]
      exact storeIs_of_storeOut (v := v.toNat) h hp rfl rfl rfl rfl rfl (fun _ => rfl) hw
    case std =>
      have hpair : bs v ++ bs (sget c (d.val + 1)) = leBytes 8 (dget c d).toNat := by rw [hword, hword, dget, leBytes_append]
      rw [hpair]
      exact storeIs_of_storeOut h hp rfl rfl rfl (pairField_eq_none heven hne) rfl (fun _ => rfl) hw
    case stg | stgi =>
      rw [hguarded]
      exact storeIs_of_storeOut h hp rfl rfl rfl rfl rfl (fun _ => rfl) hw
    all_goals
      rw [hword]
      exact storeIs_of_storeOut h hp rfl rfl rfl rfl rfl (fun _ => rfl) hw
  case memory =>
    intro s a bs hmem _ hhit t
    have hstore := coreStore_of_no_hit s a bs hmem hhit
    change (let u := t; SameButBytes _ u ∧ memOk u ∧ ∀ x, rdByte u x = _) at hstore
    clear_value t
    obtain ⟨hsame, hok, hbytes⟩ := hstore
    refine ⟨hok, fun i hi => ?_, fun x hx => ?_, ?_⟩
    · rw [hbytes]
      simp only [Nat.le_add_right, Nat.add_lt_add_iff_left, hi, true_and, Nat.add_sub_cancel_left]
      cases forcedByte s (a + i) <;> rfl
    · rw [hbytes, if_neg (by omega)]
    · have hpcx : t.pcx = (markDirty s a bs.length).pcx := by rw [hsame.eq_setMem]
      have hdirty (l : Nat) := mem_dirty_markDirty s a bs.length l
      rw [← hpcx] at hdirty
      refine ⟨fun l hl ht => (hdirty l).mpr (.inl ⟨hl, ht⟩), fun l hl => (hdirty l).mpr (.inr hl), ?_⟩
      rw [hsame.eq_setMem]
      rfl
  case snapshot =>
    intro s l i t a bs hu ht hl snap hout hmay s'
    have hmay' : dmaMay { s with mir := { s.mir with unsent := [] } } (dmaTag s 0x16 none) .write snap 64 := hmay
    obtain ⟨hmir, hcopy⟩ := cowLine_of_dmaMay { s with mir := { s.mir with unsent := [] } } l i t (snap := snap) rfl hmay'
    rw [← cow_of_hit s a hu ht hl] at hmir hcopy
    exact ⟨congrArg MirSt.unsent ((mir_wrBytes s a bs).trans hmir),
      fun j hj => (rdByte_wrBytes_of_outside s a bs (by omega)).trans (hcopy j hj)⟩

end Sys2Proof.Machine
end

section
/-! Vector loads and stores, and refused accesses (R37, R304, R339, R353, R355). -/

namespace Sys2Proof.Machine

/-- Settles O19: with predicate 0 the body goes on at once; else it is the permitted access of each lane; a refused access raises its
exception before the body's. -/
theorem vectorAndRefusedAccesses : Obligations.VectorAndRefusedAccesses := by
  refine ⟨?vector, ?refused⟩
  case vector =>
    intro k p d a imm s h c x
    refine ⟨fun hz => ⟨?_, ?_⟩, fun hz hr => ?vld, fun hz hw => ?vst⟩
    · exact coreIs_go (t := fetched s k 4) h (.inl rfl) rfl rfl rfl rfl rfl (if_pos hz) (cutAt_fetched h)
    · exact coreIs_go (t := fetched s k 4) h (.inl rfl) rfl rfl rfl rfl rfl (if_pos hz) (cutAt_fetched h)
    case vld =>
      have hread (j : Nat) : rd32 (readAt s k 4 x 32) (x + 4 * j) = rd32 s (x + 4 * j) := (liveOnly_readAt h hr).rd32 _
      have hstep := laneStep_vset_noFlags d fun j => rd32 (readAt s k 4 x 32) (x + 4 * j)
      simp only [hread] at hstep
      rw [← laneFlags_zero s k p]
      refine lanesAre_of_lanes h (.inl rfl) rfl rfl rfl rfl rfl ?_ hstep
      simp only [← hread]
      exact (if_neg hz).trans (coreAccess_read (fetched_live s k 4 h) hr _)
    case vst =>
      refine coreIs_go h (.inl rfl) rfl rfl rfl rfl rfl ((if_neg hz).trans (coreAccess_write (fetched_live s k 4 h) hw _)) ?_
      exact (congrArg CoreSt.cutAt (coreOf_vstBytes (fetched s k 4) c d x (pget c p) k)).trans (cutAt_fetched h)
  case refused =>
    intro k p d a imm s h hp c x tag base w
    have hl := fetched_live s k 4 h
    have htag : coreTag k (coreOf base k).pid = tag := by rw [coreOf_fetched h]
    have hdenied (kind : AccKind) : memDenied base (coreTag k (coreOf base k).pid) kind x = memDenied s tag kind x := by
      rw [htag, hl.memDenied]
    have ldw {code sub : Nat} {addr : Word} {t : State} (hexc : ∀ ok, coreAccess base k false x 4 ok = .exc code sub addr t) :
        Raises (.ldw k p d a imm) s t k code sub addr := raises_of_exc h (.inr hp) rfl rfl rfl rfl rfl (hexc _)
    have stw {code sub : Nat} {addr : Word} {t : State} (hexc : ∀ ok, coreAccess base k true x 4 ok = .exc code sub addr t) :
        Raises (.stw k p d a imm) s t k code sub addr := raises_of_exc h (.inr hp) rfl rfl rfl rfl rfl (hexc _)
    simp only [← hdenied]
    rw [← htag]
    refine ⟨fun hx => ?misaligned, fun hx => ⟨?ldg, ?stg⟩, fun hx hmap hregs => ?window, fun hx hmap hregs hcode => ?codeBank,
      fun hx hmap => ?beyond, fun hx hmap hregs hecc hperm => ?uncorrectable, fun kd hx hmap hregs hperm => ?readDenied,
      fun kd hx hmap hregs hcode hperm => ?writeDenied⟩
    case misaligned => exact ⟨ldw fun _ => coreAccess_misaligned _ hx, stw fun _ => coreAccess_misaligned _ hx⟩
    case ldg => exact raises_of_exc h (.inr hp) rfl rfl rfl rfl rfl (coreAccess_misaligned (ok := _) hx)
    case stg =>
      refine raises_of_exc h (.inr hp) rfl rfl rfl rfl rfl (?_ : storeOut k x 8 (guarded (sget c d)).toNat base = _)
      rw [storeOut, coreAccess_misaligned _ hx]
      rfl
    case window => exact ⟨ldw fun _ => coreAccess_window _ hx hmap hregs, stw fun _ => coreAccess_window _ hx hmap hregs⟩
    case codeBank => exact stw fun _ => coreAccess_codeBank _ hx hmap hregs hcode
    case beyond => exact ⟨ldw fun _ => coreAccess_beyond _ hx hmap, stw fun _ => coreAccess_beyond _ hx hmap⟩
    case uncorrectable => exact ldw fun _ => coreAccess_uncorrectable _ hx hmap hregs hperm (by rwa [hl.eccOf])
    case readDenied => exact ldw fun _ => coreAccess_denied _ hx hmap hregs (by simp) hperm
    case writeDenied => exact stw fun _ => coreAccess_denied _ hx hmap hregs (fun _ => hcode) hperm

end Sys2Proof.Machine
end

section
/-! SUPPORT. The bodies of the sample, phasor and group loads (R359 to R361). -/

namespace Sys2Proof.Machine

theorem vpair_eq_none {d : Fin 32} (h : d.val % 2 = 0) : vpair d = none := if_neg (by omega)

theorem relZero_eq_true {c : CoreSt} {age lim : Nat} : relZero c age lim = true ↔ c.relT = 0xFFFFFFFF#32 ∨ lim ≤ age := by
  simp [relZero]

theorem relZero_eq_false {c : CoreSt} {age lim : Nat} (hrel : c.relT ≠ 0xFFFFFFFF#32) (hage : age < lim) : relZero c age lim = false := by
  simp [relZero, hrel, hage]

variable {i : Instr} {ws : List Word} {s t : State} {k : Fin 64} {p pt : Fin 8} {d : Fin 32} {x : Nat} {il : Option Nat}
  {f : CoreSt → State → Out}

theorem stepCore_setCore (t : State) (k len : Nat) (c : CoreSt) :
    stepCore (setCore t k c) k len id = setCore t k { c with pc := c.pc + len } := by
  rw [stepCore, modCore, coreOf_setCore, if_pos rfl, setCore_setCore]
  rfl

theorem pset_frame (c : CoreSt) (d : Nat) (m v : Byte) : pset c d m v = { c with preg := (pset c d m v).preg } := by
  unfold pset
  split <;> rfl

theorem vget_pset (c : CoreSt) (d r j : Nat) (m v : Byte) : vget (pset c d m v) r j = vget c r j := by rw [pset_frame]; rfl

/-- A body that writes the two words of its permitted access to a pair. -/
theorem coreIs_of_smpLoad {c : CoreSt} {slot n : Nat} (h : issues s k 4) (hp : predOn s k p) (hw : sarbWords i = ws)
    (hm : sarbMask i = 0xFFFFFFFF#32) (he : exec i s = .next (coreExec ws k 4 il false p f s)) (hil : il = none) (hlen : ws.length = 1)
    (hf : f (coreOf s k) (fetched s k 4) = smpLoad k d c slot n (fetched s k 4)) (hx : smpAddr c slot n = x) (hslot : slot ≤ 8191)
    (hr : canRead s k x 8) :
    CoreIs i s k (stepCore (readAt s k 4 x 8) k 4 fun c => sset (sset c d (rd32 s x)) (d.val + 1) (rd32 s (x + 4))) := by
  refine coreIs_modCore h (.inr hp) hw hm he hil hlen ?_ (by simp) (by simp [coreOf_readAt h hr, h.2.1])
  have hread := (liveOnly_readAt h hr).rd32
  rw [hf, smpLoad, if_neg (by omega), hx, coreAccess_read (fetched_live s k 4 h) hr, ← hread x, ← hread (x + 4)]
  rfl

/-- The lanes of VLDSMP where each enabled one reads an entry without an error. -/
theorem vldsmpLanes_of_cleanRead {c : CoreSt} {m : Byte} {slot n : Nat} (hl : LiveOnly s t) : ∀ (l : List Nat) (c' : CoreSt),
    (∀ j ∈ l, m.getLsbD j = true → cleanRead s k (smpAddr c (slot + j) n) 8) →
    vldsmpLanes k d c m slot n l c' t = .go (setCore t k (l.foldl (fun c' j => if m.getLsbD j then
      vset (vset c' d j (rd32 t (smpAddr c (slot + j) n))) (d.val + 1) j (rd32 t (smpAddr c (slot + j) n + 4)) else c') c'))
  | [], c', _ => rfl
  | j :: l, c', hclean => by
    have ih (c'' : CoreSt) := vldsmpLanes_of_cleanRead (c := c) hl l c'' fun i hi => hclean i (List.mem_cons_of_mem j hi)
    rw [vldsmpLanes, List.foldl_cons]
    split
    · next hon => rw [coreAccess_cleanRead hl (hclean j List.mem_cons_self hon), ih]
    · rw [ih]

/-- Word `j` of the record at `x`, among the sixteen read. -/
def recordWord (s : State) (x j : Nat) : Word := (((List.range 16).map fun i => rd32 s (x + 4 * i))[j]?).getD 0#32

theorem recordWord_of_lt {j : Nat} (h : j < 16) : recordWord s x j = rd32 s (x + 4 * j) := by simp [recordWord, h]

/-- A permitted record load writes the enabled lanes of vD and vD+1 and the T check (R359, R360). -/
theorem coreAnswers_of_recLoad {zero : Bool} {ix lim : Nat} {w : Word} (h : issues s k 4) (hw : sarbWords i = ws)
    (hm : sarbMask i = 0xFFFFFFFF#32) (he : exec i s = .next (coreExec ws k 4 il true p f s)) (hil : il = none) (hlen : ws.length = 1)
    (hf : f (coreOf s k) (fetched s k 4) = recLoad k p d pt (coreOf s k) zero ix lim w x (fetched s k 4))
    (hon : pget (coreOf s k) p ≠ 0#8) (hzero : zero = false) (hix : ix ≤ lim) (hr : canRead s k x 64) :
    CoreAnswers i s k fun u =>
      u = setCore (readAt s k 4 x 64) k (coreOf u k) ∧ (coreOf u k).pc = (coreOf s k).pc + 4 ∧ (coreOf u k).sreg = (coreOf s k).sreg ∧
      (∀ j, j < 8 → laneOn s k p j = true →
        vget (coreOf u k) d j = rd32 s (x + 4 * j) ∧ vget (coreOf u k) (d.val + 1) j = rd32 s (x + 32 + 4 * j)) ∧
      (∀ j, j < 8 → laneOn s k p j = false →
        vget (coreOf u k) d j = vget (coreOf s k) d j ∧ vget (coreOf u k) (d.val + 1) j = vget (coreOf s k) (d.val + 1) j) ∧
      pget (coreOf u k) pt = pget (pset (coreOf s k) pt (pget (coreOf s k) p) (if rd32 s (x + 4) = w then 0xFF#8 else 0#8)) pt := by
  have hread := (liveOnly_readAt h hr).rd32
  have hdone := lanesDone_lanes (laneStep_vset_pair d (recordWord s x) fun j => recordWord s x (j + 8)) (coreOf s k) (pget (coreOf s k) p)
  have hgo : f (coreOf s k) (fetched s k 4) = .go (setCore (readAt s k 4 x 64) k (pset (lanes (coreOf s k) (pget (coreOf s k) p)
      fun i c' => vset (vset c' d i (recordWord s x i)) (d.val + 1) i (recordWord s x (i + 8))) pt (pget (coreOf s k) p) (condByte (rd32 s (x + 4) == w)))) := by
    rw [hf, recLoad, if_neg hon, hzero, if_neg Bool.false_ne_true, if_neg (by omega), coreAccess_read (fetched_live s k 4 h) hr]
    change recOut k p d pt (coreOf s k) ((List.range 16).map fun i => rd32 (readAt s k 4 x 64) (x + 4 * i))
      (rd32 (readAt s k 4 x 64) (x + 4) == w) (readAt s k 4 x 64) = _
    simp only [hread]
    rfl
  generalize lanes (coreOf s k) (pget (coreOf s k) p) _ = c' at hdone hgo
  obtain ⟨hframe, hlane⟩ := hdone
  have hcut : c'.cutAt = none := by rw [hframe]; exact h.2.1
  intro hs
  refine ⟨_, coreIs_go h (.inl rfl) hw hm he hil hlen hgo (by rw [coreOf_setCore, if_pos rfl, pset_cutAt, hcut]) hs, ?_⟩
  have hpc : c'.pc = (coreOf s k).pc := by rw [hframe]
  simp only [stepCore_setCore, coreOf_setCore, if_true, pset_pc, hpc]
  have hv (r j : Nat) (c : CoreSt) (n : Nat) : vget { c with pc := n } r j = vget c r j := rfl
  simp only [hv, vget_pset]
  refine ⟨trivial, trivial, ?_, fun j hj hon => ?_, fun j hj hoff => ?_, ?_⟩
  · rw [pset_frame, hframe]
  · have hon' : (pget (coreOf s k) p).getLsbD j = true := hon
    rw [hlane _ j hj, hlane _ j hj]
    simp [recordWord_of_lt (show j < 16 by omega), recordWord_of_lt (show j + 8 < 16 by omega), Nat.mul_add, Nat.add_assoc, Nat.add_comm (4 * j), hj, hon']
  · have hoff' : ¬(j < 8 ∧ (pget (coreOf s k) p).getLsbD j = true) := by simpa [laneOn, hj] using hoff
    rw [hlane _ j hj, hlane _ j hj, if_neg hoff', if_neg hoff']
    exact ⟨rfl, rfl⟩
  · have hp (c : CoreSt) (n r : Nat) : pget { c with pc := n } r = pget c r := rfl
    rw [hp, pget_pset, pget_pset, condByte, show pget c' pt = pget (coreOf s k) pt by rw [hframe]; rfl]
    simp

end Sys2Proof.Machine
end

section
/-! Sample, phasor and group loads (R359 to R361). -/

namespace Sys2Proof.Machine

/-- Settles O20: each load is zeros, or the permitted access of its entries or of its record. -/
theorem sampleLoadResults : Obligations.SampleLoadResults := by
  intro k p d a b pt age s h heven c n depth rel tb smp rec_ zeros pair record
  refine ⟨fun hp hne => ⟨fun hz => ?ldsmpZero, fun hrel hage hn hr => ?ldsmp, fun hn hr => ?ldsmpa, fun hn => ?ldsmpaBeyond⟩,
    fun hon => ⟨fun hz => ?vldsmpZero, fun hrel hage hn hclean => ?vldsmp, fun hrel hage hn hr => ?ldph, fun hn hr => ?ldpha,
      fun hrel hage hn hr => ?ldgr, fun hn hr => ?ldgra⟩⟩
  case ldsmpZero =>
    refine coreIs_modCore (t := fetched s k 4) h (.inr hp) rfl rfl rfl (pairField_eq_none heven hne) rfl ?_ (by simp)
      (by simp [cutAt_fetched h])
    exact if_pos (relZero_eq_true.mpr hz)
  case ldsmp =>
    refine coreIs_of_smpLoad (c := c) (slot := n) (n := rel.toNat) h hp rfl rfl rfl (pairField_eq_none heven hne) rfl ?_ rfl hn hr
    exact if_neg (Bool.eq_false_iff.mp (relZero_eq_false hrel hage))
  case ldsmpa =>
    exact coreIs_of_smpLoad (c := c) (slot := n) (n := tb.toNat) h hp rfl rfl rfl (pairField_eq_none heven hne) rfl rfl rfl hn hr
  case ldsmpaBeyond =>
    exact raises_of_exc h (.inr hp) rfl rfl rfl (pairField_eq_none heven hne) rfl (if_pos hn)
  case vldsmpZero =>
    have hstep := laneStep_vset_pair d (fun _ => 0#32) fun _ => 0#32
    have hvals : (fun r (_ : Nat) => if r = d.val then some 0#32 else if r = d.val + 1 then some 0#32 else none) =
        fun r _ => if r = d.val ∨ r = d.val + 1 then some 0#32 else none := by
      funext r _
      by_cases hr : r = d.val <;> simp [hr]
    rw [hvals] at hstep
    have hlanes := lanesAre_of_lanes (t := fetched s k 4) (il := vpair d) h (.inl rfl) (show sarbWords (.vldsmp k p d a age) = _ from rfl)
      rfl rfl (vpair_eq_none heven) rfl ((if_neg hon).trans (if_pos (relZero_eq_true.mpr hz))) hstep
    rwa [laneFlags_zero] at hlanes
  case vldsmp =>
    have hread := (fetched_live s k 4 h).rd32
    have hstep := laneStep_vset_pair d (fun j => rd32 (fetched s k 4) (smp (n + j) rel)) fun j => rd32 (fetched s k 4) (smp (n + j) rel + 4)
    rw [← laneFlags_zero s k p]
    simp only [← hread]
    refine lanesAre_of_lanes h (.inl rfl) rfl rfl rfl (vpair_eq_none heven) rfl ?_ hstep
    refine (if_neg hon).trans ((if_neg (Bool.eq_false_iff.mp (relZero_eq_false hrel hage))).trans ((if_neg (Nat.not_lt.mpr hn)).trans ?_))
    exact vldsmpLanes_of_cleanRead (c := c) (fetched_live s k 4 h) _ c fun j hj => hclean j (List.mem_range.mp hj)
  case ldph =>
    exact coreAnswers_of_recLoad h rfl rfl rfl (vpair_eq_none heven) rfl rfl hon (relZero_eq_false hrel hage) hn hr
  case ldpha => exact coreAnswers_of_recLoad h rfl rfl rfl (vpair_eq_none heven) rfl rfl hon rfl hn hr
  case ldgr =>
    exact coreAnswers_of_recLoad h rfl rfl rfl (vpair_eq_none heven) rfl rfl hon (relZero_eq_false hrel hage) hn hr
  case ldgra => exact coreAnswers_of_recLoad h rfl rfl rfl (vpair_eq_none heven) rfl rfl hon rfl hn hr

end Sys2Proof.Machine
end

section
/-! SUPPORT. Accesses of state records, and the steps of the timers (R362 to R365). -/

namespace Sys2Proof.Machine

/-- The two accesses of a doubleword of a record, where no error is held. -/
theorem recordAccess_of_clean {s t : State} {k a n : Nat} (hl : LiveOnly s t) (hlo : dataBase k ≤ a) (hhi : a + n ≤ coreBase (k + 1))
    (hfirst : cleanRead s k a 8 ∧ canWrite s k a 8) (hsecond : n = 16 → cleanRead s k (a + 8) 8 ∧ canWrite s k (a + 8) 8)
    (ok : State → Out) : recordAccess t k a n ok = ok t := by
  rw [recordAccess, if_neg (by omega)]
  dsimp only
  rw [coreAccess_cleanRead hl hfirst.1, coreAccess_write hl hfirst.2]
  split
  · next hn => rw [coreAccess_cleanRead hl (hsecond hn).1, coreAccess_write hl (hsecond hn).2]
  · rfl

theorem word_b2n (b : Bool) : word (b2n b 0) = if b then 1#32 else 0#32 := by cases b <;> rfl

variable {i : Instr} {ws : List Word} {s : State} {k : Fin 64} {p : Fin 8} {d a b : Fin 32} {ofs : Fin 64} {r : Nat} {inp : Bool}

/-- TMR on a record that can be read and written: its mode's step is stored, Q is the result. -/
theorem coreIs_of_tmrRun {m : TmrMode} {pt el : Nat} {adv : Timer} {q run : Bool} (h : issues s k 4) (hp : predOn s k p)
    (hw : sarbWords i = ws) (hm : sarbMask i = 0xFFFFFFFF#32) (he : exec i s = .next (tmrRun ws k p d a b ofs m s)) (hlen : ws.length = 1)
    (hr : (coreOf s k).ib.toNat + 8 * ofs.val = r) (hinp : (sget (coreOf s k) a != 0#32) = inp) (hpt : (sget (coreOf s k) b).toNat = pt)
    (hadv : tmrAdvance (rdTimer s r) inp (coreOf s k).rt = adv) (hlo : dataBase k ≤ r) (hhi : r + 16 ≤ coreBase (k.val + 1))
    (hacc : ∀ x ∈ [r, r + 8], cleanRead s k x 8 ∧ canWrite s k x 8)
    (hu : tmrMode m adv inp pt (fsOf s) = { adv with q := q, run := run, elapsed := el }) :
    CoreIs i s k (stepCore (coreStore (fetched s k 4) (r + 4) (timerBytes { adv with q := q, run := run, elapsed := el, prev := inp }))
      k 4 fun c => sset c d (if q then 1#32 else 0#32)) := by
  have hl := fetched_live s k 4 h
  refine coreIs_modCore h (.inr hp) hw hm he rfl hlen ?_ (by simp) (by simp [coreOf_coreStore, cutAt_fetched h])
  dsimp only
  rw [hr, recordAccess_of_clean hl hlo hhi (hacc _ (by simp)) fun _ => hacc _ (by simp), scalar_zero, hl.rdTimer, hl.fsOf, hinp, hpt, tmrStep,
    hadv, hu, word_b2n]

/-- EDGE on a record that can be read and written: the input is stored, the mode's function of it and PREV is the result. -/
theorem coreIs_of_edgeRun {g : Bool → Bool → Bool} (h : issues s k 4) (hp : predOn s k p) (hw : sarbWords i = ws)
    (hm : sarbMask i = 0xFFFFFFFF#32) (he : exec i s = .next (edgeRun ws k p d a ofs g s)) (hlen : ws.length = 1)
    (hr : (coreOf s k).ib.toNat + 8 * ofs.val = r) (hinp : (sget (coreOf s k) a != 0#32) = inp)
    (hlo : dataBase k ≤ r) (hhi : r + 8 ≤ coreBase (k.val + 1)) (hacc : cleanRead s k r 8 ∧ canWrite s k r 8) {q : Bool}
    (hq : (bit (rd32 s (r + 4)) 1 && g inp (bit (rd32 s (r + 4)) 0)) = q) :
    CoreIs i s k (stepCore (coreStore (fetched s k 4) (r + 4) (leBytes 4 (if inp then 3 else 2))) k 4
      fun c => sset c d (if q then 1#32 else 0#32)) := by
  have hl := fetched_live s k 4 h
  have hstored (inp : Bool) : 2 + b2n inp 0 = if inp then 3 else 2 := by cases inp <;> rfl
  refine coreIs_modCore h (.inr hp) hw hm he rfl hlen ?_ (by simp) (by simp [coreOf_coreStore, cutAt_fetched h])
  dsimp only
  rw [hr, hinp, recordAccess_of_clean hl hlo hhi hacc (by omega), scalar_zero, hl.rd32, hq, word_b2n, hstored]

section Modes
variable {t : Timer} {q run : Bool} {pt fs : Nat}

/-- A timer whose outputs are named is itself. -/
theorem timer_eq (hq : t.q = q) (hrun : t.run = run) : t = { t with q := q, run := run } := by
  subst hq hrun
  rfl

theorem tmrMode_tof_timing (hq : t.q = true) (hrun : t.run = true) : tmrMode .tof t false pt fs =
    { t with q := !decide (pt * fs ≤ t.elapsed * 1000000), run := !decide (pt * fs ≤ t.elapsed * 1000000) } := by
  rcases Decidable.em (pt * fs ≤ t.elapsed * 1000000) with h | h
  · simp [tmrMode, hq, hrun, h]
  · simpa [tmrMode, hq, hrun, h] using timer_eq hq hrun

theorem tmrMode_tof_off (hq : t.q = false) : tmrMode .tof t false pt fs = { t with q := false, run := t.run } := by
  simpa [tmrMode, hq] using timer_eq hq rfl

theorem tmrMode_tp_idle (hrun : t.run = false) (hin : inp = false ∨ t.prev = true) :
    tmrMode .tp t inp pt fs = { t with q := t.q, run := false } := by
  obtain hin | hprev := hin
  · simpa [tmrMode, hrun, hin] using timer_eq rfl hrun
  · simpa [tmrMode, hrun, hprev] using timer_eq rfl hrun

theorem tmrMode_tp_pulse (hrun : t.run = true) : tmrMode .tp t inp pt fs =
    { t with q := if decide (pt * fs ≤ t.elapsed * 1000000) then false else t.q, run := !decide (pt * fs ≤ t.elapsed * 1000000) } := by
  rcases Decidable.em (pt * fs ≤ t.elapsed * 1000000) with h | h
  · simp [tmrMode, hrun, h]
  · simpa [tmrMode, hrun, h] using timer_eq rfl hrun

end Modes

/-- The steps of R363 before the mode's own. -/
theorem tmrAdvance_of_init {r : Timer} (h : r.init = true) (inp : Bool) (rt : Word) :
    tmrAdvance r inp rt = { r with
      last := rt
      elapsed := if r.run then min (r.elapsed + if 2 ^ 31 ≤ (rt - r.last).toNat then 0 else (rt - r.last).toNat) (2 ^ 32 - 1) else r.elapsed } := by
  rw [tmrAdvance, if_pos h]

theorem tmrAdvance_of_fresh {r : Timer} (h : r.init = false) (inp : Bool) (rt : Word) :
    tmrAdvance r inp rt = { init := true, prev := inp, q := false, run := false, elapsed := 0, last := rt } := by
  simp [tmrAdvance, h]

theorem elapsed_tmrAdvance_lt {r : Timer} (h : r.elapsed < 2 ^ 32) (inp : Bool) (rt : Word) : (tmrAdvance r inp rt).elapsed < 2 ^ 32 := by
  cases hi : r.init with
  | false => rw [tmrAdvance_of_fresh hi]; exact Nat.two_pow_pos 32
  | true =>
    rw [tmrAdvance_of_init hi]
    dsimp only
    split
    · exact Nat.lt_of_le_of_lt (Nat.min_le_right ..) (by decide)
    · exact h

/-- No tick has passed since: the record stands. -/
theorem tmrAdvance_of_last {r : Timer} (hi : r.init = true) (he : r.elapsed < 2 ^ 32) (inp : Bool) : tmrAdvance r inp r.last = r := by
  have hmin : min r.elapsed 4294967295 = r.elapsed := Nat.min_eq_left (by omega)
  rw [tmrAdvance_of_init hi]
  simp [hmin]

theorem init_tmrAdvance (r : Timer) (inp : Bool) (rt : Word) : (tmrAdvance r inp rt).init = true := by
  cases hi : r.init with
  | false => rw [tmrAdvance_of_fresh hi]
  | true => rw [tmrAdvance_of_init hi]; exact hi

end Sys2Proof.Machine
end

section
/-! Timers and edge detectors (R362 to R365). -/

namespace Sys2Proof.Machine

/-- Settles O21: each mode's step on the advanced record, case by case of R363; each edge mode's function; the advance. -/
theorem timersAndEdges : Obligations.TimersAndEdges := by
  refine ⟨?instructions, ?advance⟩
  case instructions =>
    intro k p d a b ofs s h hp c r inp pt old adv due st primed prev tmr edge
    have hr : c.ib.toNat + 8 * ofs.val = r := rfl
    have hinp : (sget c a != 0#32) = inp := rfl
    have hpt : (sget c b).toNat = pt := rfl
    have hadv : tmrAdvance (rdTimer s r) inp c.rt = adv := rfl
    clear_value r inp pt adv
    refine ⟨fun hlo hhi hacc => ?_, fun hlo hhi hread hwrite => ⟨?_, ?_, ?_⟩⟩
    · have ton {q run : Bool} {el : Nat} (hu : tmrMode .ton adv inp pt (fsOf s) = { adv with q := q, run := run, elapsed := el }) :
          tmr (.tmrTon k p d a b ofs) q run el := coreIs_of_tmrRun h hp rfl rfl rfl rfl hr hinp hpt hadv hlo hhi hacc hu
      have tof {q run : Bool} {el : Nat} (hu : tmrMode .tof adv inp pt (fsOf s) = { adv with q := q, run := run, elapsed := el }) :
          tmr (.tmrTof k p d a b ofs) q run el := coreIs_of_tmrRun h hp rfl rfl rfl rfl hr hinp hpt hadv hlo hhi hacc hu
      have tp {q run : Bool} {el : Nat} (hu : tmrMode .tp adv inp pt (fsOf s) = { adv with q := q, run := run, elapsed := el }) :
          tmr (.tmrTp k p d a b ofs) q run el := coreIs_of_tmrRun h hp rfl rfl rfl rfl hr hinp hpt hadv hlo hhi hacc hu
      refine ⟨fun hin => ton ?_, fun hin hrun => ton ?_, fun hin hrun => ton ?_, fun hin => tof ?_, fun hin hq hrun => tof ?_,
        fun hin hq hrun => tof ?_, fun hin hq => tof ?_, fun hrun hin hprev => tp ?_, fun hrun hin => tp ?_, fun hrun => tp ?_⟩
      · simp [tmrMode, hin]
      · simp [tmrMode, hin, hrun]
      · simp [tmrMode, hin, hrun, due]
      · simp [tmrMode, hin]
      · simp [tmrMode, hin, hq, hrun]
      · rw [hin, tmrMode_tof_timing hq hrun]
      · rw [hin, tmrMode_tof_off hq]
      · simp [tmrMode, hin, hrun, hprev]
      · exact tmrMode_tp_idle hrun hin
      · exact tmrMode_tp_pulse hrun
    · exact coreIs_of_edgeRun h hp rfl rfl rfl rfl hr hinp hlo hhi ⟨hread, hwrite⟩ (Bool.and_assoc ..).symm
    · exact coreIs_of_edgeRun h hp rfl rfl rfl rfl hr hinp hlo hhi ⟨hread, hwrite⟩ (Bool.and_assoc ..).symm
    · exact coreIs_of_edgeRun h hp rfl rfl rfl rfl hr hinp hlo hhi ⟨hread, hwrite⟩ rfl
  case advance =>
    intro r inp rt
    refine ⟨fun hi => tmrAdvance_of_fresh hi inp rt, fun hi => ?_, fun he => ?_⟩
    · rw [tmrAdvance_of_init hi]
      cases hr : r.run
      · simp
      · generalize (rt - r.last).toNat = dt
        have hdt : (if 2 ^ 31 ≤ dt then 0 else dt) = if dt < 2 ^ 31 then dt else 0 := by split <;> split <;> omega
        rw [hdt]
        generalize (if dt < 2 ^ 31 then dt else 0) = dt
        have hmin : min (r.elapsed + dt) (2 ^ 32 - 1) = if r.elapsed + dt < 2 ^ 32 then r.elapsed + dt else 2 ^ 32 - 1 := by
          split <;> omega
        rw [hmin]
        rfl
    · have hlast : (tmrAdvance r inp rt).last = rt := by
        cases hi : r.init with
        | false => rw [tmrAdvance_of_fresh hi]
        | true => rw [tmrAdvance_of_init hi]
      generalize hu : tmrAdvance r inp rt = u at hlast
      rw [← hlast]
      subst hu
      exact tmrAdvance_of_last (init_tmrAdvance r inp rt) (elapsed_tmrAdvance_lt he inp rt) inp

end Sys2Proof.Machine
end

section
/-! SUPPORT. What the flag store, event tasks and posts leave of the cores: every core as it was (R366, R371, R379, R414 to R416). -/

namespace Sys2Proof.Machine

theorem foldl_frame {α β : Type} {h : State → β} (f : State → α → State) (l : List α) (hf : ∀ t x, h (f t x) = h t) (s : State) :
    h (l.foldl f s) = h s :=
  List.foldlRecOn (motive := fun t => h t = h s) l f rfl fun t ht x _ => (hf t x).trans ht

@[simp] theorem cores_setLive (s : State) (a : Nat) (w : Word) : (setLive s a w).pcx.cores = s.pcx.cores := rfl
@[simp] theorem cores_setEvt (s : State) (a i : Nat) : (setEvt s a i).pcx.cores = s.pcx.cores := rfl
@[simp] theorem cores_markDirty (s : State) (a n : Nat) : (markDirty s a n).pcx.cores = s.pcx.cores := rfl
@[simp] theorem cores_pokeBytes (s : State) (a : Nat) (bs : List Byte) : (pokeBytes s a bs).pcx.cores = s.pcx.cores := rfl
@[simp] theorem cores_memError (s : State) (i : Nat) : (memError s i).pcx.cores = s.pcx.cores := rfl
@[simp] theorem cores_violate (s : State) (t : Tag) (wr : Bool) (a kd : Nat) : (violate s t wr a kd).pcx.cores = s.pcx.cores :=
  (congrArg (fun u : State => u.pcx.cores) (storeFrame_violate s t wr a kd) :)
@[simp] theorem cores_wrBytes (s : State) (a : Nat) (bs : List Byte) : (wrBytes s a bs).pcx.cores = s.pcx.cores :=
  (congrArg (fun u : State => u.pcx.cores) (storeFrame_wrBytes s a bs) :)
@[simp] theorem cores_almPost (s : State) (sev src code : Nat) (pid : Option Nat) (info : List Word) : (almPost s sev src code pid info).pcx.cores = s.pcx.cores := by simp
@[simp] theorem cores_hnqPost (s : State) (p cls src code info : Nat) : (hnqPost s p cls src code info).pcx.cores = s.pcx.cores := by simp
@[simp] theorem cores_laneUpdate (s : State) (n : Nat) : (laneUpdate s n).pcx.cores = s.pcx.cores := by simp
@[simp] theorem cores_lanesUpdate (s : State)  : (lanesUpdate s).pcx.cores = s.pcx.cores := by simp
@[simp] theorem cores_dramStall (s : State) (a n : Nat) : (dramStall s a n).pcx.cores = s.pcx.cores :=
  (congrArg (fun u : State => u.pcx.cores) (storeFrame_dramStall s a n) :)
@[simp] theorem cores_ptrSum (s : State) (b : Nat) : (ptrSum s b).pcx.cores = s.pcx.cores := rfl
@[simp] theorem cores_bump (s : State) (a hi lo n : Nat) : (bump s a hi lo n).pcx.cores = s.pcx.cores := rfl

@[simp] theorem cores_guardFault (s : State) (i : Nat) : (guardFault s i).pcx.cores = s.pcx.cores := rfl

@[simp] theorem cores_notifyAll (s : State) (mask : Word) (cls src code info : Nat) : (notifyAll s mask cls src code info).pcx.cores = s.pcx.cores := by
  unfold notifyAll
  exact foldl_frame (h := fun u : State => u.pcx.cores) _ _ (fun t x => by split <;> simp) _

@[simp] theorem cores_bump32 (s : State) (a : Nat) : (bump32 s a).pcx.cores = s.pcx.cores := rfl

@[simp] theorem cores_memCe (s : State) (a : Nat) : (memCe s a).pcx.cores = s.pcx.cores := rfl

@[simp] theorem cores_memUe (s : State) (a : Nat) : (memUe s a).pcx.cores = s.pcx.cores := by simp [memUe]

@[simp] theorem cores_eccRead (s : State) (a n : Nat) : (eccRead s a n).1.pcx.cores = s.pcx.cores := by
  unfold eccRead
  exact foldl_frame (h := fun u : State => u.pcx.cores) _ _ (fun t x => by split <;> simp) _

@[simp] theorem cores_dmaAccess (s : State) (i : Nat) (t : Tag) (wr : Bool) (a n : Nat) : (dmaAccess s i t wr a n).1.pcx.cores = s.pcx.cores := by
  unfold dmaAccess
  dsimp only
  split
  · simp
  · split
    · simp
    · split <;> simp

@[simp] theorem cores_setSeg (s : State) (i : Nat) (g : Seg) : (setSeg s i g).pcx.cores = s.pcx.cores := rfl

@[simp] theorem cores_setCur (s : State) (c : Option Nat) : (setCur s c).pcx.cores = s.pcx.cores := rfl

@[simp] theorem cores_drcRefused (s : State) : (drcRefused s).pcx.cores = s.pcx.cores := rfl

@[simp] theorem cores_drcWrite (s : State) (a : Nat) (bs : List Byte) : (drcWrite s a bs).pcx.cores = s.pcx.cores := by
  unfold drcWrite
  dsimp only
  split <;> simp

@[simp] theorem cores_drcBytes (s : State) (a n : Nat) : (drcBytes s a n).2.pcx.cores = s.pcx.cores := by
  unfold drcBytes
  dsimp only
  split <;> simp

@[simp] theorem cores_drcCount (s : State) (i : Nat) : (drcCount s i).pcx.cores = s.pcx.cores := rfl

@[simp] theorem cores_drcHeader (s : State) (i : Nat) : (drcHeader s i).pcx.cores = s.pcx.cores := by simp [drcHeader]

@[simp] theorem cores_drcArm (s : State) : (drcArm s).pcx.cores = s.pcx.cores := by
  unfold drcArm
  dsimp only
  split
  · simp
  · split <;> simp

@[simp] theorem cores_holdOff (s : State) : (holdOff s).pcx.cores = s.pcx.cores := by
  unfold holdOff
  dsimp only
  split <;> simp

@[simp] theorem cores_drcClose (s : State) (i : Nat) : (drcClose s i).pcx.cores = s.pcx.cores := by simp [drcClose]

@[simp] theorem cores_moveRows (s : State) (g : Nat) : (moveRows s g).pcx.cores = s.pcx.cores := by
  unfold moveRows
  dsimp only
  split
  · rfl
  · exact foldl_frame (h := fun u : State => u.pcx.cores) _ _ (fun t x => by simp) _

@[simp] theorem cores_drcTrigger (s : State) (ty ix t : Nat) (row : Word) : (drcTrigger s ty ix t row).pcx.cores = s.pcx.cores := by
  unfold drcTrigger
  dsimp only
  repeat' split
  all_goals simp

@[simp] theorem cores_flagTriggers (s : State) (f : Nat) (v : Bool) : (flagTriggers s f v).pcx.cores = s.pcx.cores := by
  unfold flagTriggers
  refine foldl_frame (h := fun u : State => u.pcx.cores) _ _ (fun t x => ?_) _
  dsimp only
  rw [apply_ite (fun u : State => u.pcx.cores), cores_drcTrigger, ite_self]

@[simp] theorem cores_setTask (s : State) (t : Nat) (x : TaskSt) : (setTask s t x).pcx.cores = s.pcx.cores := rfl

@[simp] theorem cores_postOwner (s : State) (o : Option Nat) (cls src code info : Nat) : (postOwner s o cls src code info).pcx.cores = s.pcx.cores := by
  unfold postOwner
  split <;> simp

@[simp] theorem cores_setActQ (s : State) (k : Nat) (q : Q Unit) : (setActQ s k q).pcx.cores = s.pcx.cores := rfl

@[simp] theorem cores_actIn (s : State) (k : Nat) : (actIn s k).pcx.cores = s.pcx.cores := rfl

@[simp] theorem cores_taskDropped (s : State) (t : Nat) : (taskDropped s t).pcx.cores = s.pcx.cores := by
  unfold taskDropped
  dsimp only
  split <;> simp

@[simp] theorem cores_unpend (s : State) (t : Nat) : (unpend s t).pcx.cores = s.pcx.cores := rfl

@[simp] theorem cores_actPtrReset (s : State) (k : Nat) : (actPtrReset s k).pcx.cores = s.pcx.cores := by
  unfold actPtrReset
  refine (foldl_frame (h := fun u : State => u.pcx.cores) _ _ (fun t x => by split <;> simp) _).trans ?_
  simp only [cores_almPost, cores_ptrSum, cores_setEvt, cores_setActQ]
  exact foldl_frame (h := fun u : State => u.pcx.cores) _ _ (fun t x => by split <;> simp) _

@[simp] theorem cores_actCheck (s : State) (k : Nat) : (actCheck s k).pcx.cores = s.pcx.cores := by
  unfold actCheck
  split <;> simp

@[simp] theorem cores_noCore (s : State) (t : Nat) : (noCore s t).pcx.cores = s.pcx.cores := by
  unfold noCore
  dsimp only
  split <;> simp

@[simp] theorem cores_coreBack (s : State) (t : Nat) : (coreBack s t).pcx.cores = s.pcx.cores := rfl

@[simp] theorem cores_activate (s : State) (t : Nat) (g n rt : Word) : (activate s t g n rt).pcx.cores = s.pcx.cores := by
  unfold activate
  dsimp only
  repeat' split
  all_goals simp

@[simp] theorem cores_fireEvent (s : State) (src num : Nat) (edge : Option Bool) (p : Option Nat) : (fireEvent s src num edge p).pcx.cores = s.pcx.cores := by
  unfold fireEvent
  refine foldl_frame (h := fun u : State => u.pcx.cores) _ _ (fun t x => ?_) _
  dsimp only
  split
  · rfl
  · rw [apply_ite (fun u : State => u.pcx.cores), cores_activate, ite_self]

@[simp] theorem cores_cmdOrder (s : State) (d : Order) : (cmdOrder s d).pcx.cores = s.pcx.cores := rfl

@[simp] theorem cores_cmdFlag (s : State) (f : Nat) : (cmdFlag s f).pcx.cores = s.pcx.cores := by
  unfold cmdFlag
  exact foldl_frame (h := fun u : State => u.pcx.cores) _ _ (fun t x => by simp) _

@[simp] theorem cores_setPub (s : State) (p : Nat) (g : GPub) : (setPub s p g).pcx.cores = s.pcx.cores := rfl

@[simp] theorem cores_flagReset (s : State) (f : Nat) : (flagReset s f).pcx.cores = s.pcx.cores := by
  unfold flagReset
  exact foldl_frame (h := fun u : State => u.pcx.cores) _ _ (fun t x => by
    dsimp only
    split <;> simp) _

@[simp] theorem cores_gseRead (s : State) (own : Option Nat) (a : Nat) : (gseRead s own a).2.pcx.cores = s.pcx.cores := by
  unfold gseRead
  dsimp only
  split <;> simp

@[simp] theorem cores_memberVal (s : State) (own : Option Nat) (mer : Bool) (w : Word) (prev : Word × Word) (ts : Nat) : (memberVal s own mer w prev ts).2.pcx.cores = s.pcx.cores := by
  unfold memberVal
  split
  · rfl
  · rfl
  · split <;> rfl
  · split <;> simp

@[simp] theorem cores_memberVals (s : State) (own : Option Nat) (mer : Bool) (g : GPub) (t : Nat) : (memberVals s own mer g t).2.2.2.pcx.cores = s.pcx.cores := by
  unfold memberVals
  refine List.foldlRecOn (motive := fun r : List (Word × Word) × List (Nat × Nat) × Bool × State => r.2.2.2.pcx.cores = s.pcx.cores) _ _ rfl fun r hr m _ => ?_
  simpa using hr

@[simp] theorem cores_gsePtrReset (s : State) (p : Nat) : (gsePtrReset s p).pcx.cores = s.pcx.cores := by simp [gsePtrReset]

@[simp] theorem cores_gpSend (s : State) (p : Nat) : (gpSend s p).pcx.cores = s.pcx.cores := by
  unfold gpSend
  dsimp only
  repeat' split
  all_goals simp

@[simp] theorem cores_gpEvent (s : State) (p : Nat) (vals : List (Word × Word)) (ch : List (Nat × Nat)) (t : Nat) : (gpEvent s p vals ch t).pcx.cores = s.pcx.cores := by simp [gpEvent]

@[simp] theorem cores_gpFlag (s : State) (f p : Nat) : (gpFlag s f p).pcx.cores = s.pcx.cores := by
  unfold gpFlag
  dsimp only
  split
  · split <;> simp
  · rfl

@[simp] theorem cores_gseFlag (s : State) (f : Nat) : (gseFlag s f).pcx.cores = s.pcx.cores := by
  unfold gseFlag
  exact foldl_frame (h := fun u : State => u.pcx.cores) _ _ (fun t x => by simp) _

@[simp] theorem cores_setLane (s : State) (n : Nat) (l : Lane) : (setLane s n l).pcx.cores = s.pcx.cores := rfl

@[simp] theorem cores_flagChanged (s : State) (f : Nat) (v : Bool) : (flagChanged s f v).pcx.cores = s.pcx.cores := by
  unfold flagChanged
  dsimp only
  split <;> simp

@[simp] theorem cores_flagSet (s : State) (f : Nat) (v : Bool) : (flagSet s f v).pcx.cores = s.pcx.cores := by
  unfold flagSet
  dsimp only
  split <;> simp

@[simp] theorem cores_flagCollide (s : State) (f : Nat) : (flagCollide s f).pcx.cores = s.pcx.cores := by simp [flagCollide]

@[simp] theorem cores_flagRefuse (s : State) (f : Nat) (src : FlagSrc) : (flagRefuse s f src).pcx.cores = s.pcx.cores := by
  unfold flagRefuse
  split <;> simp

@[simp] theorem cores_linkGuard (s : State) (src : FlagSrc) : (linkGuard s src).pcx.cores = s.pcx.cores := by simp [linkGuard]

@[simp] theorem cores_flagForeign (s : State) (f pid : Nat) (src : FlagSrc) : (flagForeign s f pid src).pcx.cores = s.pcx.cores := by
  unfold flagForeign
  dsimp only
  split <;> split <;> simp

@[simp] theorem cores_flagWord (s : State) (w : DWord) (pid : Nat) (src : FlagSrc) : (flagWord s w pid src).1.pcx.cores = s.pcx.cores := by
  unfold flagWord
  dsimp only
  repeat' split
  all_goals simp
end Sys2Proof.Machine
end

section
/-! SUPPORT. What the end of a run leaves (R302, R320, R371). -/

namespace Sys2Proof.Machine

variable (s : State) (k : Nat)

@[simp] theorem taskOf_setTask (t : Nat) (x : TaskSt) (j : Nat) : taskOf (setTask s t x) j = if j = t then x else taskOf s j := mget_mset ..

theorem runOver_of_none_refused (h : (coreOf s k).refused = []) :
    runOver s k = handoverDone (setCore s k { coreOf s k with mode := .idle, idleAt := s.now }) k := by
  exact if_pos (by rw [h]; rfl)

/-- The end of a handover is no matter of cores, tasks, memory, nor of registers beside PART_EVT. -/
theorem handoverDone_frame : (handoverDone s k).pcx = s.pcx ∧ (handoverDone s k).tsk = s.tsk ∧ (handoverDone s k).mem = s.mem ∧
    ∀ a, a ≠ R.partEvt → liveOf (handoverDone s k) a = liveOf s a := by
  unfold handoverDone
  split
  · exact ⟨rfl, rfl, rfl, fun _ _ => rfl⟩
  · refine ⟨rfl, rfl, rfl, fun a ha => ?_⟩
    rw [setEvt, liveOf_setLive, if_neg ha]
    rfl

/-- The peak of the cycles is the one register of its address. -/
theorem cycMax_frame (w : Word) : ∃ u, (if (liveOf s (R.coreCycMax k)).toNat < w.toNat then setLive s (R.coreCycMax k) w else s) = u ∧
    u.pcx = s.pcx ∧ u.tsk = s.tsk ∧ u.mem = s.mem ∧ u.now = s.now ∧ ∀ a, a ≠ R.coreCycMax k → liveOf u a = liveOf s a := by
  split
  · exact ⟨_, rfl, rfl, rfl, rfl, rfl, fun a ha => (liveOf_setLive ..).trans (if_neg ha)⟩
  · exact ⟨_, rfl, rfl, rfl, rfl, rfl, fun _ _ => rfl⟩

/-- What retires a run before its core goes idle. -/
theorem retire_eq_runOver (h : (coreOf s k).refused = []) : ∃ u, retire s k = runOver u k ∧ coreOf u k = coreOf s k ∧ u.now = s.now ∧
    u.mem = s.mem ∧ liveOf u (R.coreCyc k) = word (s.now - (coreOf s k).began) ∧ (taskOf u (coreOf s k).task).running = false ∧
    (taskOf u (coreOf s k).task).retired = true ∧ mget 0 u.pcx.aborts (coreOf s k).task = 0 := by
  unfold retire
  rw [if_neg (by simp [h])]
  dsimp only
  obtain ⟨u, hu, hpcx, htsk, hmem, hnow, hlive⟩ :=
    cycMax_frame (setLive s (R.coreCyc k) (word (s.now - (coreOf s k).began))) k (word (s.now - (coreOf s k).began))
  rw [hu]
  refine ⟨_, rfl, coreOf_eq_of_pcx hpcx k, hnow, hmem, ?_, ?_, ?_, ?_⟩
  · exact (hlive _ (by simp only [R.coreCyc, R.coreCycMax]; omega)).trans (liveOf_setLive_self ..)
  · rw [taskOf_setTask, if_pos rfl]
  · rw [taskOf_setTask, if_pos rfl]
  · exact mget_mset_self 0 _ _ 0

/-- A retired run: the core is idle, the task has retired, its count of aborts is 0, CORE_CYC holds the cycles. -/
theorem retire_done (h : (coreOf s k).refused = []) :
    coreOf (retire s k) k = { coreOf s k with mode := .idle, idleAt := s.now } ∧
      (taskOf (retire s k) (coreOf s k).task).running = false ∧ (taskOf (retire s k) (coreOf s k).task).retired = true ∧
      mget 0 (retire s k).pcx.aborts (coreOf s k).task = 0 ∧
      liveOf (retire s k) (R.coreCyc k) = word (s.now - (coreOf s k).began) ∧ (retire s k).mem = s.mem := by
  obtain ⟨u, hu, hcore, hnow, hmem, hcyc, hrun, hret, habort⟩ := retire_eq_runOver s k h
  rw [hu, runOver_of_none_refused u k (by rw [hcore, h]), hcore, hnow]
  obtain ⟨hpcx, htsk, hkept, hlive⟩ := handoverDone_frame (setCore u k { coreOf s k with mode := .idle, idleAt := s.now }) k
  rw [taskOf, htsk, hpcx, hkept, hlive _ (by simp only [R.coreCyc, R.partEvt]; omega), coreOf_eq_of_pcx hpcx, coreOf_setCore, if_pos rfl]
  exact ⟨rfl, hrun, hret, habort, hcyc, hmem⟩

end Sys2Proof.Machine
end

section
/-! Branches, jumps and the ends of a run (R302, R304, R320, R368, R371). -/

namespace Sys2Proof.Machine

theorem jumpTo_of_inside {k : Fin 64} {x : Int} (s : State) (hlo : 0 ≤ x) (hhi : x < 0x10000) :
    jumpTo k x s = .jump (modCore s k fun c => { c with pc := x.toNat }) :=
  if_neg (by omega)

theorem jumpTo_of_outside {k : Fin 64} {x : Int} (s : State) (h : x < 0 ∨ 0x10000 ≤ x) : jumpTo k x s = .exc 3 2 0#32 s := if_pos h

theorem now_eq_of_liveOnly {s t : State} (h : LiveOnly s t) : t.now = s.now := by obtain ⟨l, rfl⟩ := h; rfl
theorem mem_eq_of_liveOnly {s t : State} (h : LiveOnly s t) : t.mem = s.mem := by obtain ⟨l, rfl⟩ := h; rfl

/-- The accesses of a return to COLD, both permitted (R320, R353). -/
theorem coldAccess_of_may {s t : State} {k : Nat} {c : CoreSt} (hl : LiveOnly s t) (hr : canRead s k (c.ib.toNat + 10) 2)
    (hw : canWrite s k (c.ib.toNat + 10) 2) (ok : State → Out) : coldAccess t k c ok = ok (eccRead t (c.ib.toNat + 10) 2).1 := by
  have hlr : LiveOnly s (eccRead t (c.ib.toNat + 10) 2).1 := hl.trans (liveOnly_eccRead (by rw [hl.eccOf]; exact hr.eccOf_lt))
  rw [coldAccess, coldAddr, coreAccess_read hl hr]
  split
  · rw [coreAccess_write hlr hw]
  · rfl

theorem storeFrame_clearCold (s : State) (k : Nat) : storeFrame (clearCold s k) = storeFrame s := by
  unfold clearCold
  dsimp only
  split
  · simp
  · rfl

/-- A run that retires from a state with the registers, the time of `s`. -/
theorem coreAnswers_of_retire {i : Instr} {ws : List Word} {s t : State} {k : Fin 64} {p : Fin 8} {f : CoreSt → State → Out}
    (h : issues s k 4) (hp : predOn s k p) (hw : sarbWords i = ws) (hm : sarbMask i = 0xFFFFFFFF#32)
    (he : exec i s = .next (coreExec ws k 4 none false p f s)) (hlen : ws.length = 1) (href : (coreOf s k).refused = [])
    (hf : f (coreOf s k) (fetched s k 4) = .jump (retire t k)) (hcore : coreOf t k = coreOf s k) (hnow : t.now = s.now) :
    CoreAnswers i s k fun u => ((coreOf u k).mode = .idle ∧ (taskOf u (coreOf s k).task).running = false ∧
      (taskOf u (coreOf s k).task).retired = true ∧ mget 0 u.pcx.aborts (coreOf s k).task = 0 ∧
      liveOf u (R.coreCyc k) = BitVec.ofNat 32 (s.now - (coreOf s k).began)) ∧ u.mem = t.mem := by
  obtain ⟨hidle, hrun, hret, habort, hcyc, hmem⟩ := retire_done t k (by rw [hcore, href])
  rw [hcore, hnow] at hidle hcyc
  rw [hcore] at hrun hret habort
  exact fun hs => ⟨_, coreIs_jump h (.inr hp) hw hm he rfl hlen hf (by rw [hidle]; exact h.2.1) hs,
    ⟨by rw [hidle], hrun, hret, habort, hcyc⟩, hmem⟩

/-- Settles O22: a jump by its target, the end of a run by what retires it. -/
theorem jumpsAndRunEnds : Obligations.JumpsAndRunEnds := by
  refine ⟨?jumps, ?ends⟩
  case jumps =>
    intro k p n ofs a s h c x j base cond
    refine ⟨fun hc => ?passed, fun hc hlo hhi => ?taken, fun hc hout => ?outside, fun hp hj => ?jr, fun hp hj => ?jrOutside⟩
    case passed => exact coreIs_go (t := base) h (.inl rfl) rfl rfl rfl rfl rfl (if_neg (Bool.eq_false_iff.mp hc)) (cutAt_fetched h)
    case taken =>
      refine coreIs_jump h (.inl rfl) rfl rfl rfl rfl rfl ((if_pos hc).trans (jumpTo_of_inside base hlo hhi)) ?_
      simp [base, cutAt_fetched h]
    case outside => exact raises_of_exc h (.inl rfl) rfl rfl rfl rfl rfl ((if_pos hc).trans (jumpTo_of_outside base hout))
    case jr =>
      refine coreIs_jump h (.inr hp) rfl rfl rfl rfl rfl (jumpTo_of_inside base (Int.natCast_nonneg j) (Int.ofNat_lt.mpr hj)) ?_
      simp [base, cutAt_fetched h]
    case jrOutside => exact raises_of_exc h (.inr hp) rfl rfl rfl rfl rfl (jumpTo_of_outside base (.inr (Int.ofNat_le.mpr hj)))
  case ends =>
    intro k p s h hp href c done
    have hl := fetched_live s k 4 h
    refine ⟨?tend, fun hdepth hr hw => ?fret⟩
    case tend =>
      have hend := coreAnswers_of_retire (i := .tend k p) (t := fetched s k 4) h hp rfl rfl rfl rfl href rfl (hl.coreOf k) (now_eq_of_liveOnly hl)
      rwa [mem_eq_of_liveOnly hl] at hend
    case fret =>
      have hlr : LiveOnly s (readAt s k 4 (c.ib.toNat + 10) 2) := liveOnly_readAt h hr
      have hgo : fret k (fetched s k 4) = .jump (retire (clearCold (readAt s k 4 (c.ib.toNat + 10) 2) k) k) := by
        rw [fret, hl.coreOf, coldAccess_of_may hl hr hw, hdepth]
        rfl
      have hstore := storeFrame_clearCold (readAt s k 4 (c.ib.toNat + 10) 2) k
      intro hs
      obtain ⟨u, hu, hdone, -⟩ := coreAnswers_of_retire (i := .fret k p) h hp rfl rfl rfl rfl href hgo
        ((coreOf_eq_of_storeFrame hstore k).trans (hlr.coreOf k)) ((now_eq_of_storeFrame hstore).trans (now_eq_of_liveOnly hlr)) hs
      exact ⟨u, hu, hdone⟩

end Sys2Proof.Machine
end

section
/-! SUPPORT. Calls and returns where no error is held (R320, R322, R353). -/

namespace Sys2Proof.Machine

/-- Reads of doublewords where no error is held go on from the state itself. -/
theorem readAll_of_clean {s : State} {k : Nat} (ok : State → Out) : ∀ as, (∀ a ∈ as, cleanRead s k a 8) → readAll s k as ok = ok s
  | [], _ => rfl
  | a :: as, h => by
    rw [readAll, coreAccess_cleanRead (LiveOnly.refl s) (h a List.mem_cons_self),
      readAll_of_clean ok as fun b hb => h b (List.mem_cons_of_mem a hb)]

theorem leNat_rdBytes_three {s : State} {a : Nat} (h : ∀ j ∈ [0xD, 0xE, 0xF], rdByte s (a + j) = 0#8) : leNat (rdBytes s (a + 0xD) 3) = 0 := by
  simp only [rdBytes_succ, rdBytes_zero, leNat, Nat.add_assoc]
  rw [h 0xD (by simp), h 0xE (by simp), h 0xF (by simp)]
  rfl

/-- A child whose descriptor and data pass the checks of R320. -/
structure ChildOk (s : State) (k i : Nat) (c : CoreSt) (e d : Nat) : Prop where
  entry : e = codeBase k c.bank + rd16 s (codeBase k c.bank + c.desc + 0xA) + 8 * i
  descriptor : d = rd16 s e
  listed : i < (rdByte s (codeBase k c.bank + c.desc + 8)).toNat
  aligned : d % 16 = 0
  reserved : ∀ j ∈ [0xD, 0xE, 0xF], rdByte s (codeBase k c.bank + d + j) = 0#8
  header : 16 ≤ (rd32 s (e + 4)).toNat
  extent : (rd32 s (e + 4)).toNat + rd16 s (codeBase k c.bank + d + 6) ≤ rd16 s (codeBase k c.bank + c.desc + 6)
  lowest : dataBase k ≤ c.ib.toNat + (rd32 s (e + 4)).toNat
  highest : c.ib.toNat + (rd32 s (e + 4)).toNat < coreBase (k + 1)
  type : rd32 s (c.ib.toNat + (rd32 s (e + 4)).toNat + 4) = rd32 s (codeBase k c.bank + d)
  readEntry : cleanRead s k e 8
  readLow : cleanRead s k (codeBase k c.bank + d) 8
  readHigh : cleanRead s k (codeBase k c.bank + d + 8) 8
  readType : cleanRead s k (c.ib.toNat + (rd32 s (e + 4)).toNat + 4) 4

variable {s : State} {k : Fin 64} {i : Nat} {c : CoreSt}

/-- An index outside the table of children raises. -/
theorem callChild_of_unlisted (hown : cleanRead s k (codeBase k c.bank + c.desc) 8 ∧ cleanRead s k (codeBase k c.bank + c.desc + 8) 8)
    (h : (rdByte s (codeBase k c.bank + c.desc + 8)).toNat ≤ i) : callChild k i c s = .exc 4 0x10 0#32 s := by
  unfold callChild
  dsimp only
  rw [readAll_of_clean _ _ (by simpa using hown), if_pos h]

/-- A child that passes its checks is entered, its ENTRY permitting. -/
theorem callChild_of_ok {e d : Nat} (hown : cleanRead s k (codeBase k c.bank + c.desc) 8 ∧ cleanRead s k (codeBase k c.bank + c.desc + 8) 8)
    (h : ChildOk s k i c e d) : callChild k i c s =
      if 16384 ≤ rd16 s (codeBase k c.bank + d + 4) then .exc 3 2 0#32 s
      else pushFrame k { pc := c.pc + 4, ib := c.ib, desc := c.desc } (fun s' => .jump (depthPeak (modCore s' k fun c' =>
        { c' with ib := word (c.ib.toNat + (rd32 s (e + 4)).toNat), desc := d, pc := rd16 s' (codeBase k c.bank + d + 4) * 4 }) k)) s := by
  obtain ⟨rfl, rfl, hlisted, haligned, hreserved, hheader, hextent, hlow, hhigh, htype, hre, hrl, hrh, hrt⟩ := h
  unfold callChild
  dsimp only
  rw [readAll_of_clean _ _ (by simpa using hown), if_neg (by omega), readAll_of_clean _ _ (by simpa using hre), if_neg (by simpa using haligned),
    readAll_of_clean _ _ (by simpa using ⟨hrl, hrh⟩), if_neg (by simpa using leNat_rdBytes_three hreserved), if_neg (by omega),
    if_neg (by omega), coreAccess_cleanRead (LiveOnly.refl s) hrt, if_neg (by simpa using htype)]

end Sys2Proof.Machine
end

section
/-! Calls and returns (R304, R320, R322). -/

namespace Sys2Proof.Machine

variable {s : State} {k : Fin 64} {c : CoreSt} {f : Frame} {ok : State → Out}

theorem pushFrame_of_room (hc : coreOf s k = c) (h : c.frames.length < 16) :
    pushFrame k f ok s = ok (setCore s k { c with frames := f :: c.frames }) := by
  subst hc
  exact if_pos h

theorem pushFrame_of_spill (hc : coreOf s k = c) (h : c.frames.length = 16) (hroom : c.spillPtr + 8 ≤ c.spillEnd)
    (hw : canWrite s k c.spillPtr 8) :
    pushFrame k f ok s = ok (setCore (wr64 s c.spillPtr (frameWord k ((c.frames.getLast?).getD f))) k
      { c with frames := f :: c.frames.dropLast, spilled := c.spilled + 1, spillPtr := c.spillPtr + 8 }) := by
  subst hc
  unfold pushFrame
  dsimp only
  rw [if_neg (by omega), if_neg (by omega), coreAccess_write (LiveOnly.refl s) hw]

theorem pushFrame_of_full (hc : coreOf s k = c) (h : c.frames.length = 16) (hroom : c.spillEnd < c.spillPtr + 8) :
    pushFrame k f ok s = .exc 3 5 0#32 s := by
  subst hc
  unfold pushFrame
  dsimp only
  rw [if_neg (by omega), if_pos hroom]

/-- A call enters the child (R320): registers of the core and CORE_DEPTH change. -/
theorem depthPeak_modCore (t : State) (g : CoreSt → CoreSt) : coreOf (depthPeak (modCore t k g) k) k = g (coreOf t k) := by
  refine Eq.trans (b := coreOf (modCore t k g) k) rfl ?_
  simp

theorem depthPeak_frame (s : State) (k : Nat) (x : PcxSt) (l : List (Nat × Word)) :
    { depthPeak s k with pcx := x, live := l } = { s with pcx := x, live := l } := by
  unfold depthPeak
  generalize word _ = w
  rfl

theorem entered_frame (s : State) (k : Nat) (c : CoreSt) (g : CoreSt → CoreSt) :
    { depthPeak (modCore (setCore s k c) k g) k with pcx := s.pcx, live := s.live } = s := by
  rw [depthPeak_frame]
  rfl

/-- A frame fits its spilled form (R322): 14 bits of word offset, 17 of data offset, 16 of descriptor. -/
theorem wordFrame_frameWord {k : Nat} {f : Frame} (h4 : f.pc % 4 = 0) (hpc : f.pc < 0x10000) (hdesc : f.desc < 0x10000)
    (hlo : dataBase k ≤ f.ib.toNat) (hhi : f.ib.toNat < coreBase (k + 1)) : wordFrame k (frameWord k f) = f := by
  have hofs : f.ib.toNat - dataBase k < 2 ^ 17 := by
    simp only [dataBase, coreBase] at hlo hhi ⊢
    omega
  have hword : (frameWord k f).toNat = f.desc * 2 ^ 48 + (f.ib.toNat - dataBase k) * 2 ^ 16 + f.pc / 4 := by
    rw [frameWord, BitVec.toNat_ofNat]
    omega
  obtain ⟨pc, ib, desc⟩ := f
  dsimp only at *
  rw [wordFrame, hword]
  congr 1
  · omega
  · rw [show dataBase k + (desc * 2 ^ 48 + (ib.toNat - dataBase k) * 2 ^ 16 + pc / 4) / 2 ^ 16 % 2 ^ 17 = ib.toNat by omega, word,
      BitVec.ofNat_toNat, BitVec.setWidth_eq]
  · omega

theorem bit_zero_of_even {n : Nat} (h : n % 2 = 0) : bit (word n) 0 = false := by
  rw [bit, word, BitVec.getLsbD_ofNat, Nat.testBit_zero]
  simp [h]

/-- Nothing is spilled: a refill gives no frame. -/
theorem refill_of_nothing_spilled (u : State) (x : CoreSt) (hx : x.frames = [] → x.spilled = 0) : refill (setCore u k x) k = setCore u k x := by
  unfold refill
  rw [coreOf_setCore, if_pos rfl]
  dsimp only
  split
  · next hempty =>
    have hframes := List.isEmpty_iff.mp hempty
    rw [setCore_setCore, hx hframes]
    obtain ⟨⟩ := x
    simp_all
  · rfl

/-- COLD is read, and as it is clear nothing is written. -/
theorem coldAccess_of_clear (hr : cleanRead s k (c.ib.toNat + 10) 2) (hcold : rd16 s (c.ib.toNat + 10) % 2 = 0) (ok : State → Out) :
    coldAccess s k c ok = ok s := by
  unfold coldAccess
  refine (coreAccess_cleanRead (LiveOnly.refl s) hr _).trans (if_neg ?_)
  rw [coldAddr, bit_zero_of_even hcold]
  exact Bool.false_ne_true

/-- A return to a frame, with COLD clear and nothing to refill (R320). -/
theorem fret_of_frame {g : Frame} {fs : List Frame} (hc : coreOf s k = c) (hfs : c.frames = g :: fs) (hrefill : fs ≠ [] ∨ c.spilled = 0)
    (hr : cleanRead s k (c.ib.toNat + 10) 2) (hcold : rd16 s (c.ib.toNat + 10) % 2 = 0) :
    fret k s = if 0x10000 ≤ g.pc then .exc 3 2 0#32 s
      else .jump (setCore s k { c with pc := g.pc, ib := g.ib, desc := g.desc, frames := fs }) := by
  have hbit : bit (word (rd16 s (coldAddr c))) 0 = false := bit_zero_of_even hcold
  have hclear : clearCold s k = s := by
    rw [clearCold, hc]
    exact if_neg (by simp [hbit])
  have hread : readAll s k (if fs.isEmpty then refillAddrs c else []) = fun ok => ok s := by
    have hnone : (if fs.isEmpty then refillAddrs c else []) = [] := by
      obtain hne | hz := hrefill
      · rw [if_neg (by simpa using hne)]
      · simp [refillAddrs, hz]
    rw [hnone]
    rfl
  rw [fret, hc, coldAccess_of_clear hr hcold, hfs]
  dsimp only
  rw [hread]
  dsimp only
  rw [hclear, refill_of_nothing_spilled s { c with pc := g.pc, ib := g.ib, desc := g.desc, frames := fs }
    fun hnil => hrefill.resolve_left (not_not_intro hnil)]

/-- FCALL ends with what the entry of the child gives. -/
theorem raises_of_callChild {p : Fin 8} {a : Fin 32} {imm : Byte} {code sub : Nat} {x : Word} (h : issues s k 4) (hp : predOn s k p)
    (hfetch : fetched s k 4 = s) (hcall : callChild k ((sget (coreOf s k) a).toNat + imm.toNat) (coreOf s k) s = .exc code sub x s) :
    Raises (.fcall k p a imm) s s k code sub x :=
  raises_of_exc h (.inr hp) rfl rfl rfl rfl rfl (by rw [hfetch]; exact hcall)

theorem coreIs_of_callChild {p : Fin 8} {a : Fin 32} {imm : Byte} {u : State} (h : issues s k 4) (hp : predOn s k p)
    (hfetch : fetched s k 4 = s) (hcall : callChild k ((sget (coreOf s k) a).toNat + imm.toNat) (coreOf s k) s = .jump u)
    (hcut : (coreOf u k).cutAt = none) : CoreIs (.fcall k p a imm) s k u :=
  coreIs_jump h (.inr hp) rfl rfl rfl rfl rfl (by rw [hfetch]; exact hcall) hcut

/-- Settles O23: the checks of R320 one by one, the frame pushed or spilled, and a return with nothing to refill. -/
theorem callsAndReturns : Obligations.CallsAndReturns := by
  refine ⟨?instructions, fun k f h4 hpc hdesc hlo hhi => wordFrame_frameWord h4 hpc hdesc hlo hhi⟩
  intro k p a imm s h hp hfetch c cb i e d ib1 f own checks entry
  have hok (hc : checks) : ChildOk s k i c e d := by
    obtain ⟨h1, h2, h3, h4, h5, h6, h7, h8, h9, h10, h11, h12⟩ := hc
    exact ⟨rfl, rfl, h1, h2, h3, h4, h5, h6, h7, h8, h9, h10, h11, h12⟩
  have hcore : coreOf s k = c := rfl
  have hraise {code sub : Nat} {x : Word} (hcall : callChild k i c s = .exc code sub x s) : Raises (.fcall k p a imm) s s k code sub x :=
    raises_of_callChild h hp hfetch hcall
  have hjump {u : State} (hcall : callChild k i c s = .jump u) (hcut : (coreOf u k).cutAt = none) : CoreIs (.fcall k p a imm) s k u :=
    coreIs_of_callChild h hp hfetch hcall hcut
  have hcut : c.cutAt = none := h.2.1
  refine ⟨fun ho hc he hroom => ?room, fun ho hc he hfull hroom hw => ?spill, fun ho hc he hfull hroom => ?full, fun ho hc he => ?entry,
    fun ho hi => ?unlisted, fun g fs hfs hrefill hr hcold => ?ret⟩
  case entry => exact hraise ((callChild_of_ok ho (hok hc)).trans (if_pos he))
  case unlisted => exact hraise (callChild_of_unlisted ho hi)
  case full =>
    apply hraise
    rw [callChild_of_ok ho (hok hc), if_neg (Nat.not_le.mpr he), pushFrame_of_full hcore hfull hroom]
  case room =>
    have hcall := callChild_of_ok ho (hok hc)
    rw [if_neg (Nat.not_le.mpr he), pushFrame_of_room hcore hroom] at hcall
    refine fun hs => ⟨_, hjump hcall ?_ hs, ?_, entered_frame ..⟩
    · rw [depthPeak_modCore, coreOf_setCore, if_pos rfl]
      exact hcut
    · rw [depthPeak_modCore, coreOf_setCore, if_pos rfl]
      rfl
  case spill =>
    have hcall := callChild_of_ok ho (hok hc)
    rw [if_neg (Nat.not_le.mpr he), pushFrame_of_spill hcore hfull hroom hw] at hcall
    refine fun hs => ⟨_, hjump hcall ?_ hs, ?_⟩
    · rw [depthPeak_modCore, coreOf_setCore, if_pos rfl]
      exact hcut
    · dsimp only
      rw [depthPeak_modCore, coreOf_setCore, if_pos rfl]
      exact ⟨rfl, rfl, rfl, rfl, rfl⟩
  case ret =>
    have hfret := fret_of_frame hcore hfs hrefill hr hcold
    refine ⟨fun hpc => ?_, fun hpc => ?_⟩
    · refine coreIs_jump h (.inr hp) rfl rfl rfl rfl rfl (?_ : fret k (fetched s k 4) = _) ?_
      · rw [hfetch, hfret, if_neg (Nat.not_le.mpr hpc)]
      · rw [coreOf_setCore, if_pos rfl]
        exact hcut
    · refine raises_of_exc h (.inr hp) rfl rfl rfl rfl rfl (?_ : fret k (fetched s k 4) = _)
      rw [hfetch, hfret, if_pos hpc]

end Sys2Proof.Machine
end

section
/-! SUPPORT. What ends an instruction before its body: a predicate that is false, an illegal encoding, a fetch outside the bank, another
word, a core without a run (R304, R309, R339, R340). -/

namespace Sys2Proof.Machine

variable {i : Instr} {ws : List Word} {s : State} {k p : Nat} {len : Nat} {vec : Bool} {il : Option Nat} {f : CoreSt → State → Out}

/-- A false predicate moves the counter on and nothing else. -/
theorem coreIs_of_predOff {m : Word} (h : issues s k len) (hp : (pget (coreOf s k) p).getLsbD 0 = false) (hw : sarbWords i = ws)
    (hm : sarbMask i = m) (he : exec i s = .next (coreExec ws k len none false p f s m)) (hlen : ws.length = if len = 8 then 2 else 1) :
    CoreIs i s k (stepCore (fetched s k len) k len id) := by
  intro hs
  have hfirst := spelt_words hs hw hm 0 (by rw [hlen]; split <;> omega)
  have hsecond (h8 : len = 8) := spelt_words hs hw hm 1 (by rw [hlen, if_pos h8]; omega)
  rw [he, coreExec_issues ws m s k len p false f h hfirst hsecond, coreBody_off _ _ _ _ _ _ hp, cutAfter_none]
  simp [stepCore, cutAt_fetched h]

/-- An illegal encoding raises at the word it is fetched from, whatever the predicate. -/
theorem coreExec_of_illegal {m : Word} {sub : Nat} (h : issues s k 4) (hw : ws[0]? = some (rd32 s (fetchAddr s k (coreOf s k).pc) &&& m)) :
    coreExec ws k 4 (some sub) vec p f s m = excAfter s (fetched s k 4) k 4 sub 0#32 := by
  obtain ⟨hmode, hcut, hfetch, -⟩ := h
  unfold coreExec coreWords
  simp only [hmode, hcut, ne_eq, not_true_eq_false, if_false, Option.any_none]
  rw [coreFetch_ok s k _ _ _ ⟨rfl, rfl⟩ hfetch]
  simp only [hw, not_true_eq_false, if_false]
  exact cutAfter_of_ne_run _ _ (mode_takeExc_ne_run _ k 4 sub _ _ false)

theorem raises_of_illegal {m : Word} {sub : Nat} (h : issues s k 4) (hw : sarbWords i = ws) (hm : sarbMask i = m)
    (he : exec i s = .next (coreExec ws k 4 il vec p f s m)) (hil : il = some sub) (hlen : ws.length = 1) :
    Raises i s (fetched s k 4) k 4 sub 0#32 := by
  intro hs
  rw [he, hil, coreExec_of_illegal h (spelt_words hs hw hm 0 (by omega))]

/-- A core that does not run executes nothing. -/
theorem coreExec_of_ne_run {m : Word} (h : (coreOf s k).mode ≠ .run) : coreExec ws k len il vec p f s m = s := if_pos h

/-- A word that is not the instruction's leaves the state. -/
theorem coreExec_of_other_word {m : Word} (h : issues s k 4) (hw : ws[0]? ≠ some (rd32 s (fetchAddr s k (coreOf s k).pc) &&& m)) :
    coreExec ws k len il vec p f s m = s := by
  obtain ⟨hmode, hcut, hfetch, -⟩ := h
  unfold coreExec coreWords
  simp only [hmode, hcut, ne_eq, not_true_eq_false, if_false, Option.any_none]
  rw [coreFetch_ok s k _ _ _ ⟨rfl, rfl⟩ hfetch, if_pos hw]
  exact cutAfter_none k s hcut

/-- A counter outside the bank raises. -/
theorem coreExec_of_pc_outside {m : Word} (hmode : (coreOf s k).mode = .run) (hcut : (coreOf s k).cutAt = none) (h : 0x10000 ≤ (coreOf s k).pc) :
    coreExec ws k len il vec p f s m = excAfter s s k 3 2 0#32 := by
  unfold coreExec coreWords coreFetch
  simp only [hmode, hcut, ne_eq, not_true_eq_false, if_false, Option.any_none, if_pos h]
  exact cutAfter_of_ne_run _ _ (mode_takeExc_ne_run s k 3 2 _ _ false)

/-- So does the second word of an extended instruction. -/
theorem coreExec_of_second_outside {m : Word} (h : issues s k 4) (hw : ws[0]? = some (rd32 s (fetchAddr s k (coreOf s k).pc) &&& m))
    (hout : 0x10000 ≤ (coreOf s k).pc + 4) : coreExec ws k 8 none vec p f s m = excAfter s (fetched s k 4) k 3 2 0#32 := by
  obtain ⟨hmode, hcut, hfetch, -⟩ := h
  unfold coreExec coreWords
  simp only [hmode, hcut, ne_eq, not_true_eq_false, if_false, Option.any_none]
  rw [coreFetch_ok s k _ _ _ ⟨rfl, rfl⟩ hfetch]
  simp only [hw, not_true_eq_false, if_false, if_true]
  unfold coreFetch
  rw [if_pos hout]
  exact cutAfter_of_ne_run _ _ (mode_takeExc_ne_run _ k 3 2 _ _ false)

end Sys2Proof.Machine
end

section
/-! Special registers and signals (R310, R366, R370 to R372). -/

namespace Sys2Proof.Machine

/-- Settles O24: a special register is read from the state after the fetch; a signal leaves the cores' registers alone. -/
theorem specialRegistersAndSignals : Obligations.SpecialRegistersAndSignals := by
  refine ⟨?registers, ?signals⟩
  case registers =>
    intro k p d a s h c rd
    have hl := fetched_live s k 4 h
    have read (hp : predOn s k p) (n : Fin 16) {v : Word} (hv : specialReg (fetched s k 4) k c n = v) : rd n v := by
      refine coreIs_modCore (t := fetched s k 4) h (.inr hp) rfl rfl rfl rfl rfl ?_ (by simp) (by simp [cutAt_fetched h])
      rw [← hv]
      rfl
    have htime : (fetched s k 4).time = s.time := by obtain ⟨l, hl⟩ := hl; rw [hl]
    have hnow := now_eq_of_liveOnly hl
    refine ⟨fun hp => ⟨?_, ?_, ?_, ?_, ?_, ?_, ?_, ?_, ?_, ?_, ?_, ?_, ?_, ?_, ?_, fun hdepth => ?_, ?wrsr⟩, fun n hn => ?readOnly⟩
    case wrsr =>
      exact coreIs_modCore (t := fetched s k 4) h (.inr hp) rfl rfl rfl rfl rfl rfl (by simp) (by simp [cutAt_fetched h])
    case readOnly =>
      exact raises_of_illegal h rfl rfl rfl (if_neg fun h11 => hn (Fin.ext h11)) rfl
    · exact read hp _ rfl
    · exact read hp _ rfl
    · exact read hp _ rfl
    · exact read hp _ rfl
    · exact read hp _ (congrArg (fun t : TimeSt => word t.tick) htime)
    · exact read hp _ (congrArg (fun t : TimeSt => word (t.tickSec % 65536)) htime)
    · exact read hp _ rfl
    · exact read hp _ rfl
    · exact read hp _ rfl
    · exact read hp _ (congrArg (fun t => word (t - c.began)) hnow)
    · exact read hp _ (congrArg (fun t => word (c.deadline - t)) hnow)
    · exact read hp _ rfl
    · exact read hp _ rfl
    · exact read hp _ rfl
    · exact read hp _ rfl
    · refine read hp _ ?_
      change word (min 0xFFFF c.spilled * 65536 + (c.frames.length + c.spilled) % 65536) = _
      rw [Nat.min_eq_right (by omega), Nat.mod_eq_of_lt (by omega), Nat.add_comm c.frames.length, word]
  case signals =>
    intro k p d a e cls code imm s h hp c base f w sent
    have hcores (t : State) (ht : t.pcx.cores = base.pcx.cores) : coreOf t k = c :=
      (congrArg (fun l => mget ({} : CoreSt) l k) ht).trans (coreOf_fetched h k)
    have hcut (t : State) (ht : t.pcx.cores = base.pcx.cores) : (coreOf t k).cutAt = none := by
      rw [hcores t ht]
      exact h.2.1
    refine ⟨?fence, ?evsig, fun hc => ?npost, fun hc => ?reserved, fun hf => ?beyond, fun hf => ?opf⟩
    case fence => exact coreIs_go h (.inr hp) rfl rfl rfl rfl rfl rfl (cutAt_fetched h)
    case evsig => exact coreIs_go h (.inr hp) rfl rfl rfl rfl rfl rfl (hcut _ (by simp))
    case npost => exact coreIs_go h (.inr hp) rfl rfl rfl (if_neg (Nat.not_le.mpr hc)) rfl rfl (hcut _ (by simp))
    case reserved => exact raises_of_illegal h rfl rfl rfl (if_pos hc) rfl
    case beyond => exact raises_of_exc h (.inr hp) rfl rfl rfl rfl rfl (if_pos hf)
    case opf =>
      have hword : word (b2n (sget c d != 0#32) 31 + f) = w := by
        unfold w
        by_cases hz : sget c d = 0#32 <;> simp [hz, b2n, word]
      have hsent : coreOf sent.1 k = c := hcores sent.1 (cores_flagWord ..)
      have hgo : (fun c s => if 4095 < (sget c a).toNat + imm.toNat then Out.exc 3 1 0#32 s else
            let r := flagWord s (guarded (word (b2n (sget c d != 0#32) 31 + ((sget c a).toNat + imm.toNat)))) c.pid (.core k)
            Out.go (if r.2 then r.1 else modCore r.1 k fun c => { c with refused := c.refused ++ [c.pc] })) (coreOf s k) (fetched s k 4) =
          .go (if sent.2 then sent.1 else modCore sent.1 k fun c => { c with refused := c.refused ++ [c.pc] }) := by
        refine (if_neg (Nat.not_lt.mpr hf)).trans ?_
        change Out.go (if (flagWord base (guarded (word (b2n (sget c d != 0#32) 31 + f))) c.pid (.core k)).2 then _ else _) = _
        rw [hword]
        rfl
      have hcutSent := hcut sent.1 (cores_flagWord ..)
      clear_value sent
      cases hacc : sent.2 with
      | true =>
        simp only [hacc, if_true] at hgo ⊢
        exact coreIs_go h (.inr hp) rfl rfl rfl rfl rfl hgo hcutSent
      | false =>
        simp only [hacc, Bool.false_eq_true, if_false] at hgo ⊢
        have hpc : (modCore sent.1 k fun c => { c with refused := c.refused ++ [c.pc] }) =
            modCore sent.1 k fun c' => { c' with refused := c'.refused ++ [c.pc] } := by simp [modCore, hsent]
        rw [hpc] at hgo
        exact coreIs_modCore h (.inr hp) rfl rfl rfl rfl rfl hgo (fun _ => rfl) hcutSent

end Sys2Proof.Machine
end

section
/-! Instructions that end before their body (R304, R309, R339, R340, R342). -/

namespace Sys2Proof.Machine

/-- The words of an undefined encoding (R340). -/
theorem illegalWord_of_unused {w : Word}
    (h : fld w 31 26 ∈ [0x00, 0x0D, 0x0E, 0x0F, 0x2F, 0x38, 0x39, 0x3A, 0x3B, 0x3C, 0x3D, 0x3E]) : illegalWord w = some 1 := by
  unfold illegalWord
  generalize fld w 31 26 = opc at h
  simp only [List.mem_cons, List.not_mem_nil, or_false] at h
  obtain rfl | rfl | rfl | rfl | rfl | rfl | rfl | rfl | rfl | rfl | rfl | rfl := h <;> rfl

/-- Reserved bits of JR. -/
theorem illegalWord_of_jr {w : Word} (hop : fld w 31 26 = 0x31) (h : fld w 22 18 ≠ 0 ∨ fld w 12 0 ≠ 0) : illegalWord w = some 2 := by
  have hfields : fld w 12 0 ≠ 0 → fld w 12 8 ≠ 0 ∨ fld w 7 0 ≠ 0 := by
    simp only [fld]
    omega
  unfold illegalWord
  rw [hop]
  have hres : (fld w 22 18 != 0 || fld w 12 8 != 0 || fld w 7 0 != 0) = true := by
    simp only [Bool.or_eq_true, bne_iff_ne]
    rcases h with h | h
    · exact .inl (.inl h)
    · exact (hfields h).imp_left .inr
  simp [hres]

/-- WRSR of another special register. -/
theorem illegalWord_of_wrsr {w : Word} (hop : fld w 31 26 = 0x35) (hd : fld w 22 18 = 0) (hb : fld w 12 4 = 0) (hn : fld w 3 0 ≠ 0xB) :
    illegalWord w = some 3 := by
  unfold illegalWord
  simp [hop, hd, hb, hn, encP]

theorem exec_undefinedEncoding_of_illegal {w : Word} {s : State} {k : Fin 64} {sub : Nat} (h : illegalWord w = some sub) :
    exec (.undefinedEncoding k w) s = .next (coreExec [w] k 4 (some sub) false 0 (fun _ s => .go s) s) := by
  change Host.Outcome.next (match illegalWord w with | some sub => _ | none => s) = _
  rw [h]

theorem raises_of_undefined {w : Word} {s : State} {k : Fin 64} {sub : Nat} (h : issues s k 4) (hill : illegalWord w = some sub) :
    Raises (.undefinedEncoding k w) s (fetched s k 4) k 4 sub 0#32 :=
  raises_of_illegal h rfl rfl (exec_undefinedEncoding_of_illegal hill) rfl rfl

/-- An instruction of a core that does not run, or that is not the one at the counter, leaves the state. -/
theorem passes_of_coreExec {i : Instr} {ws : List Word} {m : Word} {s : State} {k p len : Nat} {vec : Bool} {il : Option Nat}
    {f : CoreSt → State → Out} (hw : sarbWords i = ws) (hm : sarbMask i = m) (he : exec i s = .next (coreExec ws k len il vec p f s m)) :
    ((coreOf s k).mode ≠ .run → exec i s = .next s) ∧
      (issues s k 4 → spells i 0 (rd32 s (fetchAddr s k (coreOf s k).pc)) = false → exec i s = .next s) := by
  refine ⟨fun hmode => ?_, fun h hspell => ?_⟩
  · rw [he, coreExec_of_ne_run hmode]
  · rw [he, coreExec_of_other_word h]
    rw [spells, hw, hm] at hspell
    simpa using hspell

theorem passes_of_undefined {w : Word} {s : State} {k : Fin 64} :
    ((coreOf s k).mode ≠ .run → exec (.undefinedEncoding k w) s = .next s) ∧
      (issues s k 4 → spells (.undefinedEncoding k w) 0 (rd32 s (fetchAddr s k (coreOf s k).pc)) = false →
        exec (.undefinedEncoding k w) s = .next s) := by
  cases hill : illegalWord w with
  | some sub => exact passes_of_coreExec rfl rfl (exec_undefinedEncoding_of_illegal hill)
  | none =>
    have hexec : exec (.undefinedEncoding k w) s = .next s := by
      change Host.Outcome.next (match illegalWord w with | some sub => _ | none => s) = _
      rw [hill]
    exact ⟨fun _ => hexec, fun _ _ => hexec⟩

/-- Settles O25: each listed instruction is issued by `coreExec`, which ends as its predicate, its word and the core's mode say. -/
theorem fetchPredicateAndIdle : Obligations.FetchPredicateAndIdle := by
  refine ⟨?predicate, ?raised, ?idle⟩
  case predicate =>
    intro k p d a b imm w i12 e ofs s hp
    refine ⟨fun h => ?_, fun h => ?_⟩ <;> simp only [List.forall_mem_cons, List.not_mem_nil, false_imp_iff, implies_true, and_true]
    · refine ⟨?_, ?_, ?_, ?_, ?_, ?_, ?_, ?_, ?_, ?_, ?_, ?_, ?_, ?_, ?_, ?_, ?_, ?_, ?_, ?_, ?_, ?_, ?_⟩ <;>
        exact coreIs_of_predOff h hp rfl rfl rfl rfl
    · refine ⟨?_, ?_, ?_, ?_⟩ <;> exact coreIs_of_predOff h hp rfl rfl rfl rfl
  case raised =>
    intro k p d a b w s c
    refine ⟨fun hmode hcut hpc => ?pc, fun h hout hspell => ?second, fun h => ⟨?zero, fun w hop => ?unused, fun w hop hres => ?jr,
      fun w hop hd hb hn => ?wrsr⟩, ?defined⟩
    case pc =>
      simp only [List.forall_mem_cons, List.not_mem_nil, false_imp_iff, implies_true, and_true]
      refine ⟨?_, ?_, ?_⟩ <;> exact congrArg Host.Outcome.next (coreExec_of_pc_outside hmode hcut hpc)
    case second => exact congrArg Host.Outcome.next (coreExec_of_second_outside h (beq_iff_eq.mp hspell) hout)
    case zero => exact raises_of_undefined h rfl
    case unused => exact raises_of_undefined h (illegalWord_of_unused hop)
    case jr => exact raises_of_undefined h (illegalWord_of_jr hop hres)
    case wrsr => exact raises_of_undefined h (illegalWord_of_wrsr hop hd hb hn)
    case defined => exact congrArg Host.Outcome.next (by rfl)
  case idle =>
    intro k p d a b imm w s
    simp only [List.forall_mem_cons, List.not_mem_nil, false_imp_iff, implies_true, and_true]
    refine ⟨?_, ?_, ?_, ?_, ?_, ?_, ?_, ?_, ?_, ?_, ?undefined⟩
    case undefined => exact passes_of_undefined
    all_goals exact passes_of_coreExec rfl rfl rfl

end Sys2Proof.Machine
end

section
/-! Exceptions (R325 to R328). -/

namespace Sys2Proof.Machine

/-- Core 0 runs, every exception has the reaction ABORT_RUN without a limit, and an exception of this run has had the reaction STOP_TASK;
its record has been cleared since. -/
def reactedRun : State := setForce (setCore {} 0 { mode := .run, excDone := true, excReact := 1 }) (R.pcxExcCfg 0) 0#32

/-- Refutes O26: an invalid operation (code 2, subcause 3) in a run that an earlier exception has already had its reaction STOP_TASK
records that severer reaction in bits 15 to 14, so the record is not the listed fields alone. -/
theorem not_exceptionRecordsAndEndsRun : ¬ Obligations.ExceptionRecordsAndEndsRun := by
  intro h
  obtain ⟨hrecord, -⟩ := h 0 reactedRun 2 3 0#32 0#32 (by decide) (by decide) (by decide) (by decide) (by decide) (by decide) (by decide)
    (by decide) (by decide) (by decide)
  exact absurd hrecord (by decide)

end Sys2Proof.Machine
end

section
/-! SUPPORT. The registers that posts and violations leave alone (R156, R158, R494). -/

namespace Sys2Proof.Machine

/-- A register that posts to the almanac and to the notification queues do not count in. -/
def OffPosts (a : Nat) : Prop :=
  (a < 0xF0028000 ∨ 0xF0028400 ≤ a) ∧ a ≠ R.almDrop01 ∧ a ≠ R.almDrop23 ∧ a ≠ R.almEvt ∧ a ≠ R.diagPtrSum

variable {s : State} {a b p : Nat}

theorem liveOf_setLive_of_ne {w : Word} (h : a ≠ b) : liveOf (setLive s b w) a = liveOf s a := (liveOf_setLive ..).trans (if_neg h)

theorem evt_setEvt_self {i : Nat} (h : i < 32) : evt (setEvt s a i) a i = true := by
  rw [evt, setEvt, liveOf_setLive_self, bit, BitVec.getLsbD_or, word, BitVec.getLsbD_ofNat]
  simp [h, Nat.testBit_two_pow_self]

theorem liveOf_setEvt_of_ne {i : Nat} (h : a ≠ b) : liveOf (setEvt s b i) a = liveOf s a := (liveOf_setLive ..).trans (if_neg h)
theorem liveOf_bump_of_ne {hi lo n : Nat} (h : a ≠ b) : liveOf (bump s b hi lo n) a = liveOf s a := (liveOf_setLive ..).trans (if_neg h)

theorem liveOf_setHnq (q : Nat) (x : Hnq) : liveOf (setHnq s q x) a = liveOf s a := rfl
theorem liveOf_setAlm (x : AlmSt) : liveOf { s with alm := x } a = liveOf s a := rfl

variable (ha : OffPosts a)
include ha

theorem OffPosts.ne_hnqEvt (hp : p < 32) : a ≠ R.hnqEvt p := by
  obtain ⟨hrange, -⟩ := ha
  simp only [R.hnqEvt]
  omega

theorem OffPosts.ne_hnqLost (hp : p < 32) : a ≠ R.hnqLost p := by
  obtain ⟨hrange, -⟩ := ha
  simp only [R.hnqLost]
  omega

theorem liveOf_almCount (sev : Nat) : liveOf (almCount s sev) a = liveOf s a := by
  obtain ⟨-, h01, h23, -⟩ := ha
  unfold almCount
  split
  · exact liveOf_bump_of_ne h01
  · exact liveOf_bump_of_ne h01
  · exact liveOf_bump_of_ne h23
  · exact liveOf_bump_of_ne h23

theorem liveOf_almQueue (x : Post) : liveOf (almQueue s x) a = liveOf s a := by
  unfold almQueue
  dsimp only
  split
  · rfl
  · split
    · exact liveOf_almCount ha _
    · exact liveOf_almCount ha _

theorem liveOf_hnqPut (hp : p < 32) (w : Word) : liveOf (hnqPut s p w) a = liveOf s a := by
  unfold hnqPut
  dsimp only
  rw [liveOf_setEvt_of_ne (ha.ne_hnqEvt hp), liveOf_setHnq]
  by_cases h : (hnqOf s p).q.items.length < 256
  · rw [if_pos h]
  · rw [if_neg h]
    exact liveOf_bump_of_ne (ha.ne_hnqLost hp)

theorem liveOf_hnqEmpty (hp : p < 32) : liveOf (hnqEmpty s p) a = liveOf s a := by
  obtain ⟨-, -, -, -, hsum⟩ := id ha
  exact (liveOf_hnqPut ha hp _).trans ((liveOf_setEvt_of_ne hsum).trans (liveOf_setEvt_of_ne (ha.ne_hnqEvt hp)))

theorem liveOf_hnqSafe (hp : p < 32) (w : Word) : liveOf (hnqSafe s p w) a = liveOf s a := by
  unfold hnqSafe
  refine (liveOf_hnqPut ha hp w).trans ?_
  split
  · rfl
  · exact (liveOf_almQueue ha _).trans (liveOf_hnqEmpty ha hp)

/-- The partitions a register names are told. -/
theorem liveOf_notifying (c : State → Nat → Bool) (w : Word) :
    liveOf ((List.range 32).foldl (fun t p => if c t p then hnqSafe t p w else t) s) a = liveOf s a := by
  refine List.foldlRecOn (motive := fun t => liveOf t a = liveOf s a) _ _ rfl fun t ht p hp => ?_
  split
  · exact (liveOf_hnqSafe ha (List.mem_range.mp hp) w).trans ht
  · exact ht

theorem liveOf_almDrop (dropped : Bool) (sev : Nat) : liveOf (almDrop dropped s sev) a = liveOf s a := by
  obtain ⟨-, -, -, hevt, -⟩ := id ha
  unfold almDrop
  split
  · rfl
  · exact (liveOf_notifying ha _ _).trans (liveOf_setEvt_of_ne hevt)

theorem liveOf_almPtrReset : liveOf (almPtrReset s) a = liveOf s a := by
  obtain ⟨-, -, -, hevt, hsum⟩ := id ha
  have hcount : liveOf (s.alm.posts.items.foldl (fun t p => almCount t p.sev) s) a = liveOf s a :=
    List.foldlRecOn (motive := fun t => liveOf t a = liveOf s a) _ _ rfl fun t ht p _ => (liveOf_almCount ha p.sev).trans ht
  unfold almPtrReset
  dsimp only
  rw [liveOf_notifying ha, liveOf_almQueue ha, ptrSum, liveOf_setEvt_of_ne hsum, liveOf_setEvt_of_ne hevt, liveOf_setAlm, hcount]

theorem liveOf_almPost (sev src code : Nat) (pid : Option Nat) (info : List Word) : liveOf (almPost s sev src code pid info) a = liveOf s a := by
  unfold almPost
  refine (liveOf_almDrop ha _ _).trans ((liveOf_almQueue ha _).trans ?_)
  split
  · rfl
  · exact liveOf_almPtrReset ha

theorem liveOf_hnqPost (hp : p < 32) (cls src code info : Nat) : liveOf (hnqPost s p cls src code info) a = liveOf s a := by
  unfold hnqPost
  refine (liveOf_hnqPut ha hp _).trans ?_
  split
  · rfl
  · exact (liveOf_almPost ha ..).trans (liveOf_hnqEmpty ha hp)

end Sys2Proof.Machine
end

section
/-! SUPPORT. Fields of a word: what a written field holds, what it leaves of the others. -/

namespace Sys2Proof.Machine

theorem testBit_fld (w : Word) (hi lo i : Nat) : (fld w hi lo).testBit i = (decide (i < hi + 1 - lo) && w.getLsbD (lo + i)) := by
  simp [fld, Nat.testBit_mod_two_pow, Nat.testBit_shiftRight, BitVec.getLsbD]

theorem fld_lt (w : Word) (hi lo : Nat) : fld w hi lo < 2 ^ (hi + 1 - lo) := Nat.mod_lt _ (Nat.two_pow_pos _)

theorem getLsbD_setFld (w : Word) {hi lo v j : Nat} (hj : j < 32) :
    (setFld w hi lo v).getLsbD j = if lo ≤ j ∧ j ≤ hi then v.testBit (j - lo) else w.getLsbD j := by
  have hmask : Nat.testBit ((2 ^ (hi + 1 - lo) - 1) <<< lo) j = decide (lo ≤ j ∧ j ≤ hi) := by
    rw [Nat.testBit_shiftLeft, Nat.testBit_two_pow_sub_one, Bool.decide_and]
    by_cases hlo : lo ≤ j
    · simp only [hlo, decide_true, Bool.true_and]
      exact decide_eq_decide.mpr (by omega)
    · simp [hlo]
  simp only [setFld, word, BitVec.getLsbD_or, BitVec.getLsbD_and, BitVec.getLsbD_not, BitVec.getLsbD_ofNat, hmask, hj, decide_true, Bool.true_and,
    Nat.testBit_shiftLeft]
  by_cases hin : lo ≤ j ∧ j ≤ hi
  · simp [hin]
  · simp [hin]

theorem fld_setFld (w : Word) {hi lo v : Nat} (hhi : hi < 32) (hv : v < 2 ^ (hi + 1 - lo)) : fld (setFld w hi lo v) hi lo = v := by
  refine Nat.eq_of_testBit_eq fun i => ?_
  rw [testBit_fld]
  by_cases hi' : i < hi + 1 - lo
  · rw [getLsbD_setFld w (by omega), if_pos (by omega)]
    simp [hi']
  · rw [Nat.testBit_lt_two_pow (Nat.lt_of_lt_of_le hv (Nat.pow_le_pow_right (by omega) (by omega)))]
    simp [hi']

/-- A count that saturates. -/
theorem fld_bumpFld (w : Word) {hi lo n : Nat} (hhi : hi < 32) :
    fld (bumpFld w hi lo n) hi lo = min (2 ^ (hi + 1 - lo) - 1) (fld w hi lo + n) := by
  have hpow := Nat.two_pow_pos (hi + 1 - lo)
  exact fld_setFld w hhi (Nat.lt_of_le_of_lt (Nat.min_le_left ..) (by omega))

end Sys2Proof.Machine
end

section
/-! SUPPORT. A refused access (R155, R156). -/

namespace Sys2Proof.Machine

variable (s : State) (t : Tag) (wr : Bool) (a kd : Nat)

/-- A logged violation has its event and its registers. -/
theorem liveOf_avLog : evt (avLog s t wr a kd) R.partEvt 0 = true ∧ liveOf (avLog s t wr a kd) R.partAvInfo = avInfo t wr kd ∧
    liveOf (avLog s t wr a kd) R.partAvCount = liveOf s R.partAvCount := by
  have hevt : OffPosts R.partEvt := by unfold OffPosts; decide
  have hinfo : OffPosts R.partAvInfo := by unfold OffPosts; decide
  have hcount : OffPosts R.partAvCount := by unfold OffPosts; decide
  unfold avLog evt
  dsimp only
  rw [liveOf_hnqPost hevt t.pid.isLt, liveOf_almPost hevt, liveOf_hnqPost hinfo t.pid.isLt, liveOf_almPost hinfo,
    liveOf_hnqPost hcount t.pid.isLt, liveOf_almPost hcount]
  refine ⟨?_, ?_, ?_⟩
  · rw [liveOf_setLive_of_ne (by decide), liveOf_setLive_of_ne (by decide), liveOf_setLive_of_ne (by decide)]
    exact evt_setEvt_self (by decide)
  · rw [liveOf_setLive_of_ne (by decide), liveOf_setLive_of_ne (by decide), liveOf_setLive_self]
  · rw [liveOf_setLive_of_ne (by decide), liveOf_setLive_of_ne (by decide), liveOf_setLive_of_ne (by decide), liveOf_setEvt_of_ne (by decide)]
    rfl

/-- The parts of a state that posts leave. -/
theorem setPosts_eq_of_postFrame {s t : State} (h : postFrame s = postFrame t) (l : List (Nat × Word)) (x : AlmSt) (p : PartSt) :
    { s with live := l, alm := x, part := p } = { t with live := l, alm := x, part := p } :=
  (congrArg (fun u : State => { u with live := l, alm := x, part := p }) h :)

theorem part_eq_of_postFrame {s t : State} (h : postFrame s = postFrame t) :
    s.part.owners = t.part.owners ∧ s.part.draft = t.part.draft ∧ s.part.handover = t.part.handover :=
  ⟨(congrArg (fun u : State => u.part.owners) h :), (congrArg (fun u : State => u.part.draft) h :),
    (congrArg (fun u : State => u.part.handover) h :)⟩

theorem postFrame_avRegisters (u : State) (info lo hi : Word) :
    postFrame (setLive (setLive (setLive (setEvt u R.partEvt 0) R.partAvInfo info) R.partAvAddrLo lo) R.partAvAddrHi hi) = postFrame u := rfl

/-- What is logged lies in live registers, posts and the PART state. -/
theorem postFrame_avLog : postFrame (avLog s t wr a kd) = postFrame { s with part := { s.part with avCycle := some (s.now / 2) } } := by
  unfold avLog
  dsimp only
  rw [postFrame_hnqPost, postFrame_almPost, postFrame_avRegisters]

theorem avLog_frame (l : List (Nat × Word)) (x : AlmSt) (p : PartSt) :
    { avLog s t wr a kd with live := l, alm := x, part := p } = { s with live := l, alm := x, part := p } :=
  (setPosts_eq_of_postFrame (postFrame_avLog s t wr a kd) l x p).trans rfl

theorem part_avLog : (avLog s t wr a kd).part.owners = s.part.owners ∧ (avLog s t wr a kd).part.draft = s.part.draft := by
  obtain ⟨howners, hdraft, -⟩ := part_eq_of_postFrame (postFrame_avLog s t wr a kd)
  exact ⟨howners, hdraft⟩

/-- A violation is counted; where none stands logged it is logged (R156). -/
theorem violate_cases : (violate s t wr a kd = bump s R.partAvCount 15 0 1 ∧ evt s R.partEvt 0 = true) ∨
    ∃ u, (u = bump s R.partAvCount 15 0 1 ∨ u = avUnlog (bump s R.partAvCount 15 0 1) ∧ evt s R.partEvt 0 = true) ∧
      violate s t wr a kd = avLog u t wr a kd := by
  have hevt : evt (bump s R.partAvCount 15 0 1) R.partEvt 0 = evt s R.partEvt 0 :=
    congrArg (fun w => bit w 0) (liveOf_bump_of_ne (by decide))
  unfold violate
  dsimp only
  rw [hevt]
  split
  · next h =>
    split
    · exact .inr ⟨_, .inr ⟨rfl, h⟩, rfl⟩
    · exact .inl ⟨rfl, h⟩
  · exact .inr ⟨_, .inl rfl, rfl⟩

theorem avUnlog_frame (l : List (Nat × Word)) (x : AlmSt) (p : PartSt) :
    { avUnlog s with live := l, alm := x, part := p } = { s with live := l, alm := x, part := p } := rfl

/-- A violation changes live registers, posts and the PART state's log, and nothing else. -/
theorem violate_frame (l : List (Nat × Word)) (x : AlmSt) (p : PartSt) :
    { violate s t wr a kd with live := l, alm := x, part := p } = { s with live := l, alm := x, part := p } := by
  obtain ⟨h, -⟩ | ⟨u, rfl | ⟨rfl, -⟩, h⟩ := violate_cases s t wr a kd
  · rw [h]; rfl
  · rw [h, avLog_frame]; rfl
  · rw [h, avLog_frame, avUnlog_frame]; rfl

theorem part_violate : (violate s t wr a kd).part.owners = s.part.owners ∧ (violate s t wr a kd).part.draft = s.part.draft := by
  obtain ⟨h, -⟩ | ⟨u, rfl | ⟨rfl, -⟩, h⟩ := violate_cases s t wr a kd
  · rw [h]; exact ⟨rfl, rfl⟩
  · rw [h]; exact part_avLog ..
  · rw [h]; exact part_avLog ..

theorem avCount_violate : fld (liveOf (violate s t wr a kd) R.partAvCount) 15 0 = min 0xFFFF (fld (liveOf s R.partAvCount) 15 0 + 1) := by
  have hbump : fld (liveOf (bump s R.partAvCount 15 0 1) R.partAvCount) 15 0 = min 0xFFFF (fld (liveOf s R.partAvCount) 15 0 + 1) := by
    rw [bump, liveOf_setLive_self]
    exact fld_bumpFld _ (by decide)
  obtain ⟨h, -⟩ | ⟨u, rfl | ⟨rfl, -⟩, h⟩ := violate_cases s t wr a kd
  · rw [h, hbump]
  · rw [h, (liveOf_avLog ..).2.2, hbump]
  · rw [h, (liveOf_avLog ..).2.2]; exact hbump

theorem logged_violate (hnone : evt s R.partEvt 0 = false) :
    evt (violate s t wr a kd) R.partEvt 0 = true ∧ liveOf (violate s t wr a kd) R.partAvInfo = avInfo t wr kd := by
  obtain ⟨-, hlogged⟩ | ⟨u, -, h⟩ := violate_cases s t wr a kd
  · rw [hnone] at hlogged; exact absurd hlogged Bool.false_ne_true
  · rw [h]
    obtain ⟨hevt, hinfo, -⟩ := liveOf_avLog u t wr a kd
    exact ⟨hevt, hinfo⟩

end Sys2Proof.Machine
end

section
/-! Refused commands (R140, R144, R147, R153, R155, R156, R158). -/

namespace Sys2Proof.Machine

theorem busAddr_of_lt {k : Nat} (h : k < 0x2000000000) : busAddr k = k := by
  rw [busAddr, if_neg (by omega), if_neg (by omega), if_neg (by omega)]

/-- A command that is one access of a register is the violation where the register refuses it. -/
theorem exec_of_refused {i : Instr} {s : State} {a : Acc} {k kind : Nat} {wr : Bool} {f : State → State}
    (he : exec i s = .next (regAccess s a k wr f)) (hk : busAddr k = k) (h : regDenied s (accTag s a) k wr = some kind) :
    exec i s = .next (busError s (accTag s a) wr k kind) := by
  rw [he, regAccess_of_denied h, hk]

theorem startOp_of_denied {s : State} {a : Acc} {p : Fin 32} {o : PartOp} {kind : Nat}
    (h : regDenied s (accTag s a) (R.tskPCtrl p) true = some kind) :
    startOp a p o s = busError s (accTag s a) true (R.tskPCtrl p) kind := by
  unfold startOp pCtrl
  rw [regAccess_of_denied h, busAddr_of_lt]
  dsimp only [R.tskPCtrl]
  omega

/-- Settles O27: what a violation leaves; each command is one access of its register. -/
theorem refusedCommandsAreViolations : Obligations.RefusedCommandsAreViolations := by
  refine ⟨?violation, ?commands⟩
  case violation =>
    intro s t wr k kind u
    obtain ⟨howners, hdraft⟩ := part_violate s t wr k kind
    refine ⟨rfl, rfl, howners, hdraft, avCount_violate s t wr k kind, logged_violate s t wr k kind, ?_⟩
    have hframe := congrArg (fun v : State => { v with bus := s.bus, busErr := s.busErr }) (violate_frame s t wr k kind s.live s.alm s.part)
    exact hframe
  case commands =>
    intro a s w h v b25 m4 m5 m2 q2 p32 n2 o b1 b2 rk n8 pos t16 sg c k64 acc kind refused
    simp only [List.forall_mem_cons, List.not_mem_nil, false_imp_iff, implies_true, and_true]
    refine ⟨?_, ?_, ?_, ?_, ⟨?_, ?_, ?_, ?_, ?_, ?_, ?_, ?_, ?_, ?_, ?_, ?_, ?_, ?_, ?_, ?_, ?_⟩, ?_, ?_, ?_, ?_, ?_, ?_, ?_, ?_, ?_, ?_, ?_,
      ?_, ?_, ?_, ?_, ?_, ?_, ?_, ?_, ?_, ?_, ?_, ⟨?_, ?_, ?_, ?_, ?_, ?startWarm, ?startCold, ?tskStop⟩, ⟨?_, ?_, ?_⟩, ?_, ?_, ?_, ⟨?_, ?_, ?_⟩,
      ?_, ?_, ?_, ?_, ?_, ?_, ?_, ⟨?_, ?_, ?_⟩, ?_, ?_, ⟨?_, ?_, ?_, ?_⟩, ?_, ?_, ⟨?_, ?_, ?_⟩, ?_, ?_, ?_, ?_, ?_, ?_, ?_⟩
    case startWarm | startCold | tskStop => exact fun hd => congrArg Host.Outcome.next (startOp_of_denied hd)
    all_goals refine exec_of_refused rfl (busAddr_of_lt ?_)
    all_goals simp only [R.base, R.hnqPop, R.hnqPopTag, R.domCtrl, R.txqPop0, R.txqCtrl, R.macCtrl, R.macSfpCmd, R.txrWr, R.coreExc, R.tskPCtrl, R.coPos,
      R.fbcCtrl, R.tq1Push, R.tq1Ctrl, R.rqHead, R.rqCtrl, R.mpCtrl, R.accLo,
      R.sysRstReq, R.pwrOpsecLo, R.trustCmd, R.trustWdogKick, R.partMedCmd, R.timeCtrl, R.biqPop0, R.biqCtrl, R.timeTickCtrl, R.timeNowNs,
      R.siuCtxFlush, R.scaBankLoad, R.cmdOrd, R.cmdCtrl, R.cmdResPop, R.drcCtrl, R.drcTrigMan, R.drcSegCmd, R.almPostGo, R.almCurSeq, R.mtrCmd,
      R.mirCtrl, R.diagRbTest, R.diagBistCtrl, R.diagDumpCtrl, Nat.reduceLT]
    all_goals omega

end Sys2Proof.Machine
end
section
/-! SUPPORT. The commit tables and what a set in force leaves (R13, R45 to R51). -/

namespace Sys2Proof.Machine

variable {s : State} {i : Nat} {c : CommitSt}

theorem commitOf_setCommit (s : State) (i j : Nat) (c : CommitSt) : commitOf (setCommit s i c) j = if j = i then c else commitOf s j := mget_mset ..

theorem commitOf_rejectSet (s : State) (i j cause off : Nat) : commitOf (rejectSet s i cause off) j = commitOf s j := by
  rw [commitOf, commitOf, rejectSet, setLive_commits, setEvt_commits]

theorem rejectSet_force (s : State) (i cause off : Nat) : (rejectSet s i cause off).force = s.force := by
  rw [rejectSet, setLive_force, setEvt_force]
theorem rejectSet_shadow (s : State) (i cause off : Nat) : (rejectSet s i cause off).shadow = s.shadow := by
  rw [rejectSet, setLive_shadow, setEvt_shadow]

/-- A rejected set shows its cause and its place, and changes no register in force (R13). -/
theorem rejectSet_live (s : State) (i cause off : Nat) : evt (rejectSet s i cause off) (R.base i + 0xFFE8) 2 = true ∧
    liveOf (rejectSet s i cause off) (R.base i + 0xFFEC) = word (cause * 2 ^ 24 + off % 0x10000) := by
  unfold rejectSet
  refine ⟨?_, liveOf_setLive_self ..⟩
  rw [evt, liveOf_setLive_of_ne (by omega)]
  exact evt_setEvt_self (by decide)

theorem checkDone_of_cons {ps : PendSet} {rest : List PendSet} (h : (commitOf s i).checking = ps :: rest) : checkDone s i =
    match checkSet s i ps with
    | some (cause, off) => rejectSet (setCommit s i { commitOf s i with checking := rest }) i cause off
    | none => setCommit s i { commitOf s i with checking := rest, pend := some ps } := by
  unfold checkDone
  rw [h] <;> rfl

theorem cancelLate_accessed (s : State) : cancelLate (accessed s) = cancelLate s := rfl
theorem commitOf_accessed (s : State) (i : Nat) : commitOf (accessed s) i = commitOf s i := rfl

/-- A cancel that is in time for every set drops them all (R51). -/
theorem commitCancel_of_early (h : ∀ ps, (ps ∈ (commitOf s i).checking ∨ (commitOf s i).pend = some ps) → cancelLate s ps = false) :
    commitCancel s i = setCommit s i { commitOf s i with checking := [], pend := none } := by
  have hchecking : (commitOf s i).checking.filter (cancelLate s) = [] :=
    List.filter_eq_nil_iff.mpr fun ps hps => by simp [h ps (.inl hps)]
  have hany : (commitOf s i).checking.any (cancelLate s) = false := by
    rw [List.any_eq_false]
    exact fun ps hps => by simp [h ps (.inl hps)]
  have hpend : (commitOf s i).pend.filter (cancelLate s) = none ∧ (commitOf s i).pend.any (cancelLate s) = false := by
    cases hp : (commitOf s i).pend with
    | none => exact ⟨rfl, rfl⟩
    | some ps => simp [Option.filter, h ps (.inr hp)]
  unfold commitCancel
  dsimp only
  rw [hchecking, hany, hpend.1, hpend.2]
  rfl

/-- One that comes too late for a set leaves it and says so. -/
theorem commitCancel_of_late (h : ∃ ps, (ps ∈ (commitOf s i).checking ∨ (commitOf s i).pend = some ps) ∧ cancelLate s ps = true) :
    commitCancel s i = setEvt (setCommit s i { commitOf s i with
      checking := (commitOf s i).checking.filter (cancelLate s), pend := (commitOf s i).pend.filter (cancelLate s) }) (R.base i + 0xFFE8) 5 := by
  have hlate : ((commitOf s i).checking.any (cancelLate s) || (commitOf s i).pend.any (cancelLate s)) = true := by
    obtain ⟨ps, hps | hps, hl⟩ := h
    · rw [Bool.or_eq_true, List.any_eq_true]; exact .inl ⟨ps, hps, hl⟩
    · rw [hps, Option.any_some, hl, Bool.or_true]
  unfold commitCancel
  dsimp only
  rw [if_pos hlate]

/-- The instant lies behind once it has been reached. -/
theorem now_stoppedReach {t : Nat} (h : s.time.tickRun = false) : t ≤ (stoppedReach s t).now := by
  have hreach (u : State) : t ≤ (reach u t).now := by
    rw [reach, elapse]
    dsimp only
    omega
  unfold stoppedReach
  rw [if_neg (by simp [h])]
  exact Nat.le_trans (hreach _) (stoppedDue_keeps _ (Keeps.refl _)).now

/-- No check is left to end. -/
theorem checksAll_of_none (h : (commitOf s i).checking = []) : setsInForce.checksAll s [i] = s := by
  simp [setsInForce.checksAll, each, checksEnd, h]

theorem takeSet_of_due {ps : PendSet} (h : (commitOf s i).pend = some ps) (hdue : ps.at_ + 512 ≤ s.now) : takeSet s i =
    match recheck (setCommit s i { commitOf s i with pend := none }) i ps with
    | some o => (rejectSet (setCommit s i { commitOf s i with pend := none }) i 5 o, none)
    | none => (setCommit s i { commitOf s i with pend := none }, some ps) := by
  unfold takeSet
  rw [h]
  exact if_neg (Nat.not_lt.mpr hdue)

/-- One block's set that is due, alone (R46, R50). -/
theorem setsInForce_single {ps : PendSet} (hc : (commitOf s i).checking = []) (h : (commitOf s i).pend = some ps)
    (hdue : ps.at_ + 512 ≤ s.now) (hopen : ¬(i = 0x0D ∧ saving s = true)) :
    setsInForce [i] s = match recheck (setCommit s i { commitOf s i with pend := none }) i ps with
      | some o => rejectSet (setCommit s i { commitOf s i with pend := none }) i 5 o
      | none => blockInForce s i ps (putInForce (setCommit s i { commitOf s i with pend := none }) i ps) := by
  unfold setsInForce
  simp only [List.foldl_cons, List.foldl_nil]
  rw [checksAll_of_none hc, if_neg hopen, takeSet_of_due h hdue]
  cases recheck (setCommit s i { commitOf s i with pend := none }) i ps <;> rfl

/-- The values of a set in force: registers in force, the owners of PART, TAG_FORCE and the tick (R46, R53, R148). -/
theorem putInForce_values (s : State) (i : Nat) (ps : PendSet) :
    (putInForce s i ps).force = ps.vals.foldl (fun m e => mput m e.1 e.2) s.force ∧ (putInForce s i ps).shadow = s.shadow ∧
      (putInForce s i ps).mem = s.mem ∧ liveOf (putInForce s i ps) (R.base i + 0xFFF0) = word (ps.tag.toNat * 65536) ∧
      liveOf (putInForce s i ps) (R.base i + 0xFFF4) = forceTick s ∧ (i = 2 → (putInForce s i ps).part.owners = setOwners s ps) ∧
      (i ≠ 2 → (putInForce s i ps).part = s.part) := by
  unfold putInForce
  dsimp only
  rw [liveOf_setLive_of_ne (by omega), liveOf_setLive_self, liveOf_setLive_self]
  by_cases h2 : i = 2
  · rw [if_pos h2]
    exact ⟨rfl, rfl, rfl, rfl, rfl, fun _ => rfl, fun h => absurd h2 h⟩
  · rw [if_neg h2]
    exact ⟨rfl, rfl, rfl, rfl, rfl, fun h => absurd h h2, fun _ => rfl⟩

end Sys2Proof.Machine
end

section
/-! Commits (R13, R45 to R51). -/

namespace Sys2Proof.Machine

/-- Settles O29: the capture, the end of a check, the cancel by what it is in time for, and a set alone at its instant. -/
theorem commits : Obligations.Commits := by
  intro a i tag s c key
  have hexec (f : State → State) (had : admitted s a key true) : regAccess s a key true f = f (accessed s) := regAccess_of_admitted had f
  refine ⟨fun had => ?commit, fun had hearly => ?cancel, fun had hlate => ?late, fun hnone => ?idle, fun ps rest hc => ?check, fun hstop => ?still,
    fun ps hrun hps => ?stopped, fun ps hp hc hdue hopen => ?single, fun hrun => ?due⟩
  case commit => exact ⟨capture (accessed s) i tag, rfl, rfl, rfl, rfl, congrArg Host.Outcome.next (hexec _ had)⟩
  case cancel =>
    have hcancel := commitCancel_of_early (s := accessed s) (i := i)
    rw [cancelLate_accessed, commitOf_accessed] at hcancel
    exact congrArg Host.Outcome.next ((hexec _ had).trans (hcancel hearly))
  case late =>
    have hcancel := commitCancel_of_late (s := accessed s) (i := i)
    rw [cancelLate_accessed, commitOf_accessed] at hcancel
    exact congrArg Host.Outcome.next ((hexec _ had).trans (hcancel hlate))
  case idle =>
    refine congrArg Host.Outcome.next ?_
    unfold checkDone
    rw [show (commitOf s i).checking = [] from hnone]
  case check =>
    have hdone := checkDone_of_cons hc
    refine ⟨fun hpass => ?_, fun cause off hfail => ?_⟩
    · rw [hpass] at hdone
      exact congrArg Host.Outcome.next hdone
    · rw [hfail] at hdone
      obtain ⟨hevt, hlive⟩ := rejectSet_live (setCommit s i { commitOf s i with checking := rest }) i cause off
      refine ⟨_, congrArg Host.Outcome.next hdone, ?_, ?_, ?_, hevt, hlive⟩
      · dsimp only; rw [rejectSet_force, setCommit_force]
      · dsimp only; rw [rejectSet_shadow, setCommit_shadow]
      · rw [commitOf_rejectSet, commitOf_setCommit, if_pos rfl]
  case still =>
    refine congrArg Host.Outcome.next ?_
    obtain hrun | ⟨hpend, hchecking⟩ := hstop
    · exact if_pos hrun
    · rw [show (commitOf s i).pend = none from hpend, show (commitOf s i).checking = [] from hchecking]
      exact ite_self s
  case stopped =>
    have hnext : (c.pend.orElse fun _ => c.checking.head?) = some ps := by
      obtain hp | ⟨hp, hc⟩ := hps
      · rw [hp]; rfl
      · rw [hp, hc]; rfl
    refine ⟨congrArg Host.Outcome.next ((if_neg (by simp [hrun])).trans ?_), ?_⟩
    · rw [show ((commitOf s i).pend.orElse fun _ => (commitOf s i).checking.head?) = some ps from hnext]
    · exact now_stoppedReach hrun
  case single =>
    intro r f
    have hsets := setsInForce_single hc hp hdue hopen
    obtain ⟨hforce, hshadow, hmem, htag, htick, hpart, hother⟩ := putInForce_values r i ps
    refine ⟨fun o ho => ?_, fun ho => ?_, hforce, hshadow, hmem, htag, htick, hpart, hother⟩
    · rw [show recheck (setCommit s i { commitOf s i with pend := none }) i ps = some o from ho] at hsets
      exact hsets
    · rw [show recheck (setCommit s i { commitOf s i with pend := none }) i ps = none from ho] at hsets
      exact hsets
  case due =>
    intro v
    unfold stoppedDue
    rw [if_neg (by simp [hrun])]

end Sys2Proof.Machine
end

section
/-! The meridian (R25, R26, R191, R192, R540, R541). -/

namespace Sys2Proof.Machine

theorem exec_tickGenStart_of_pending {s : State} {x : Nat} (hx : s.time.startPend = some x) (hrun : s.time.tickRun = false) :
    exec .tickGenStart s = .next (genStart (stoppedReach s (s.now + (x - s.ltc))) x) := by
  change Host.Outcome.next (match s.time.startPend, s.time.tickRun with | some t, false => _ | _, _ => s) = _
  rw [hx, hrun]

theorem exec_tickGenStart_of_idle {s : State} (h : s.time.startPend = none ∨ s.time.tickRun = true) : exec .tickGenStart s = .next s := by
  change Host.Outcome.next (match s.time.startPend, s.time.tickRun with | some t, false => _ | _, _ => s) = _
  obtain h | h := h
  · rw [h]
  · rw [h]
    cases s.time.startPend <;> rfl

/-- Settles O30: the meridian and the generator's start are the one pass; the other commands are that meridian where they are due. -/
theorem meridianOrder : Obligations.MeridianOrder := by
  intro s sets step2 pass at_ t row mer silent
  have hpass (live0 : Bool) (u : State) : pass live0 u = meridianPass live0 u := by
    unfold meridianPass steps12
    rfl
  have hmer : meridian s = mer := by
    unfold meridian
    exact (hpass _ _).symm
  refine ⟨fun hrun => ?_, fun hrun => ?_, fun x hx hrun => ?_, fun h => ?_, fun hsave hrun => ?_, fun hsave hrun => ?_, fun hsave => ?_,
    fun hrun hrole hsilent => ?_, fun hrun hrole hsilent hticks => ?_⟩
  · exact congrArg Host.Outcome.next (if_neg (by simp [hrun]))
  · exact congrArg Host.Outcome.next ((if_pos hrun).trans hmer)
  · have hstart := exec_tickGenStart_of_pending hx hrun
    intro st
    rw [hstart, genStart, ← hpass]
    rfl
  · exact exec_tickGenStart_of_idle h
  · exact congrArg Host.Outcome.next ((if_pos hsave).trans ((if_pos hrun).trans hmer))
  · exact congrArg Host.Outcome.next ((if_pos hsave).trans (if_neg (by simp [hrun])))
  · exact congrArg Host.Outcome.next (if_neg (by simp [hsave]))
  · obtain ⟨h1, h2, h3, h4⟩ := hsilent
    exact congrArg Host.Outcome.next ((if_pos (by simp [hrun, hrole, h1, h2, h3, h4])).trans hmer)
  · obtain ⟨h1, h2, h3, h4⟩ := hsilent
    exact congrArg Host.Outcome.next ((if_pos (by simp [hrun, hrole, h1, h2, h3, h4, hticks])).trans hmer)

end Sys2Proof.Machine
end

section
/-! Resets and wipes (R110 to R115). -/

namespace Sys2Proof.Machine

/-- Stage 2 waits for the wipe of SRAM; the boot image's first line is a captured line still to be sent, whose place in the snapshot area
lies in DRAM, which is not wiped yet. -/
def capturedBootLine : State :=
  { State.reset with
    ufs := ([1#8], [])
    sys := { released := true }
    trust := { stage := 2 }
    mir := { unsent := [(bootBase / 64, 2 ^ 26, 1)] } }

/-- Refutes O31: the end of the SRAM wipe loads the boot image over a captured line; its copy reaches for DRAM, which is wiped at once, so
that wipe is done too and TRUST is not as before but for the SRAM wipe. -/
theorem not_resetsAndWipes : ¬ Obligations.ResetsAndWipes := by
  intro h
  obtain ⟨-, -, -, -, -, hsram, -⟩ := h ⟨0, false⟩ false false capturedBootLine
  obtain ⟨t, ht, htrust, -⟩ := hsram rfl rfl
  have hdone : t.trust.dramDone = true := by
    injection ht with ht
    rw [← ht]
    decide
  rw [htrust] at hdone
  exact absurd hdone (by decide)

end Sys2Proof.Machine
end

section
/-! SUPPORT. What supply and reset rest on: a store without a captured line to send, the lanes under a change of mastership, a device
reset, the posts of the ALM beside its own switches (R83, R110 to R112, R420, R421, R496). -/

namespace Sys2Proof.Machine

variable (s : State)

/-! ### Stores where no captured line waits to be sent -/

theorem cow_of_unsent_nil {s : State} (h : s.mir.unsent = []) (a n : Nat) : cow s a n = s :=
  cow_of_no_hit s a n fun e he => absurd he (by simp [h])

theorem rdByte_wrBytes {s : State} (h : s.mir.unsent = []) (a : Nat) (bs : List Byte) (x : Nat) :
    rdByte (wrBytes s a bs) x = if a ≤ x ∧ x < a + bs.length then bs[x - a]?.getD 0#8 else rdByte s x := by
  rw [wrBytes, cow_of_unsent_nil h, rdByte_markDirty, rdByte_pokeBytes]

/-- A store is read back. -/
theorem rdBytes_wrBytes_self {s : State} (h : s.mir.unsent = []) (a : Nat) (bs : List Byte) :
    rdBytes (wrBytes s a bs) a bs.length = bs := by
  refine List.ext_getElem (length_rdBytes ..) fun i hi hi' => ?_
  simp only [rdBytes, List.getElem_map, List.getElem_range]
  rw [rdByte_wrBytes h, if_pos ⟨by omega, by omega⟩, Nat.add_sub_cancel_left, List.getElem?_eq_getElem hi', Option.getD_some]

theorem unsent_wrBytes {s : State} (h : s.mir.unsent = []) (a : Nat) (bs : List Byte) : (wrBytes s a bs).mir = s.mir := by
  rw [mir_wrBytes, cow_of_unsent_nil h]

/-! ### Lanes -/

@[simp] theorem laneFrame_lanesUpdate : laneFrame (lanesUpdate s) = laneFrame s := by
  unfold lanesUpdate
  dsimp only
  refine (foldl_frame _ _ (fun t n => laneFrame_laneUpdate t n) _).trans ?_
  split <;> rfl

/-- With the drivers released every lane is at HOLD (R420). -/
theorem drive_lanesUpdate_of_notMaster (h : laneMaster s = false) {n : Nat} (hn : n < 32) : (laneOf (lanesUpdate s) n).drive = .hold := by
  have hmaster : laneMaster (lanesUpdate s) = false := (congrArg laneMaster (laneFrame_lanesUpdate s) :).trans h
  refine (laneFollows_lanesUpdate s hn).drive.trans (if_pos ?_)
  simp [holdWhy, hmaster]

@[simp] theorem mem_lanesUpdate : (lanesUpdate s).mem = s.mem := (congrArg State.mem (laneFrame_lanesUpdate s) :)
@[simp] theorem pwr_lanesUpdate : (lanesUpdate s).pwr = s.pwr := (congrArg State.pwr (laneFrame_lanesUpdate s) :)
@[simp] theorem trust_lanesUpdate : (lanesUpdate s).trust = s.trust := (congrArg State.trust (laneFrame_lanesUpdate s) :)

/-- The state without the metering's own. -/
def mtrFrame (s : State) : State := { s with mtr := {} }

/-- The hold of the pulse outputs changes the metering's own state alone. -/
theorem mtrFrame_pulseHold : mtrFrame (pulseHold s) = mtrFrame s := by
  unfold pulseHold
  refine foldl_frame _ _ (fun t n => ?_) _
  dsimp only
  split <;> rfl

@[simp] theorem mem_pulseHold : (pulseHold s).mem = s.mem := (congrArg State.mem (mtrFrame_pulseHold s) :)
@[simp] theorem pwr_pulseHold : (pulseHold s).pwr = s.pwr := (congrArg State.pwr (mtrFrame_pulseHold s) :)
@[simp] theorem trust_pulseHold : (pulseHold s).trust = s.trust := (congrArg State.trust (mtrFrame_pulseHold s) :)
@[simp] theorem laneOf_pulseHold (n : Nat) : laneOf (pulseHold s) n = laneOf s n :=
  (congrArg (fun u => laneOf u n) (mtrFrame_pulseHold s) :)

/-! ### A device reset -/

theorem resetCause_of_soleCause {s : State} (h : soleCause s) (c : Nat) : resetCause s c = c := by
  unfold resetCause
  rcases h with h | h <;> simp [h]

theorem resetCause_zero : resetCause s 0 = 0 := by simp [resetCause, causeRank]

/-- The reset of its own cause. -/
theorem resetFrom_deviceReset {s : State} {c : Nat} (h : resetCause s c = c) : ResetFrom s c (deviceReset s c) :=
  ⟨rfl, rfl, rfl, h, rfl, rfl, fun _ => ⟨rfl, rfl⟩, fun _ => ⟨rfl, rfl⟩, rfl, rfl, rfl, rfl⟩

end Sys2Proof.Machine
end

section
/-! SUPPORT. Of the ALM, posts, notifications, violations and stores change the queue of posts alone (R155, R494 to R503). -/

namespace Sys2Proof.Machine

/-- What the ALM keeps beside its queue of posts. -/
def State.almRest (s : State) : AlmSt := { s.alm with posts := {} }
@[simp] theorem almRest_posts (s : State) (q : Q Post) : State.almRest { s with alm := { s.alm with posts := q } } = s.almRest := rfl
@[simp] theorem almRest_part (s : State) (x : PartSt) : State.almRest { s with part := x } = s.almRest := rfl
@[simp] theorem almRest_mir (s : State) (x : MirSt) : State.almRest { s with mir := x } = s.almRest := rfl
@[simp] theorem almRest_setLive (s : State) (a : Nat) (w : Word) : (setLive s a w).almRest = s.almRest := rfl

@[simp] theorem almRest_setEvt (s : State) (a i : Nat) : (setEvt s a i).almRest = s.almRest := rfl

@[simp] theorem almRest_bump (s : State) (a hi lo n : Nat) : (bump s a hi lo n).almRest = s.almRest := rfl

@[simp] theorem almRest_ptrSum (s : State) (i : Nat) : (ptrSum s i).almRest = s.almRest := rfl

@[simp] theorem almRest_setHnq (s : State) (p : Nat) (h : Hnq) : (setHnq s p h).almRest = s.almRest := rfl

@[simp] theorem almRest_almCount (s : State) (sev : Nat) : (almCount s sev).almRest = s.almRest := by
  unfold almCount
  split <;> simp

@[simp] theorem almRest_almQueue (s : State) (p : Post) : (almQueue s p).almRest = s.almRest := by
  unfold almQueue
  dsimp only
  split
  · simp
  · split <;> simp

@[simp] theorem almRest_hnqPut (s : State) (p : Nat) (w : Word) : (hnqPut s p w).almRest = s.almRest := by
  unfold hnqPut
  dsimp only
  split <;> simp

@[simp] theorem almRest_hnqEmpty (s : State) (p : Nat) : (hnqEmpty s p).almRest = s.almRest := by simp [hnqEmpty]

@[simp] theorem almRest_hnqSafe (s : State) (p : Nat) (w : Word) : (hnqSafe s p w).almRest = s.almRest := by
  unfold hnqSafe
  split <;> simp

@[simp] theorem almRest_almDrop (dropped : Bool) (s : State) (sev : Nat) : (almDrop dropped s sev).almRest = s.almRest := by
  unfold almDrop
  split
  · rfl
  · exact (foldl_frame (h := State.almRest) _ _ (fun t p => by split <;> simp) _).trans rfl

@[simp] theorem almRest_almPtrReset (s : State) : (almPtrReset s).almRest = s.almRest := by
  unfold almPtrReset
  refine (foldl_frame (h := State.almRest) _ _ (fun t p => by split <;> simp) _).trans ?_
  rw [almRest_almQueue, almRest_ptrSum, almRest_setEvt, almRest_posts]
  exact foldl_frame (h := State.almRest) _ _ (fun t (p : Post) => almRest_almCount t p.sev) _

@[simp] theorem almRest_almPost (s : State) (sev src code : Nat) (pid : Option Nat) (info : List Word) : (almPost s sev src code pid info).almRest = s.almRest := by
  unfold almPost
  split <;> simp

@[simp] theorem almRest_hnqPtrReset (s : State) (p : Nat) : (hnqPtrReset s p).almRest = s.almRest := by simp [hnqPtrReset]

@[simp] theorem almRest_hnqPost (s : State) (p cls src code info : Nat) : (hnqPost s p cls src code info).almRest = s.almRest := by
  unfold hnqPost
  split <;> simp

@[simp] theorem almRest_notifyAll (s : State) (mask : Word) (cls src code info : Nat) : (notifyAll s mask cls src code info).almRest = s.almRest := by
  unfold notifyAll
  exact foldl_frame (h := fun u : State => u.almRest) _ _ (fun t x => by split <;> simp) _

@[simp] theorem almRest_bump32 (s : State) (a : Nat) : (bump32 s a).almRest = s.almRest := rfl

@[simp] theorem almRest_avUnlog (s : State) : (avUnlog s).almRest = s.almRest := rfl

theorem almRest_avRegisters (s : State) (x : PartSt) (info lo hi : Word) :
    (setLive (setLive (setLive (setEvt { s with part := x } R.partEvt 0) R.partAvInfo info) R.partAvAddrLo lo) R.partAvAddrHi hi).almRest = s.almRest := rfl

@[simp] theorem almRest_avLog (s : State) (t : Tag) (wr : Bool) (a kind : Nat) : (avLog s t wr a kind).almRest = s.almRest := by
  unfold avLog
  rw [almRest_hnqPost, almRest_almPost, almRest_avRegisters]

@[simp] theorem almRest_violate (s : State) (t : Tag) (wr : Bool) (a kind : Nat) : (violate s t wr a kind).almRest = s.almRest := by
  unfold violate
  dsimp only
  split
  · split <;> simp
  · simp

@[simp] theorem almRest_memError (s : State) (i : Nat) : (memError s i).almRest = s.almRest := rfl

@[simp] theorem almRest_markDirty (s : State) (a n : Nat) : (markDirty s a n).almRest = s.almRest := rfl

@[simp] theorem almRest_pokeBytes (s : State) (a : Nat) (bs : List Byte) : (pokeBytes s a bs).almRest = s.almRest := rfl

@[simp] theorem almRest_dramWipe (s : State) : (dramWipe s).almRest = s.almRest := by
  unfold dramWipe
  dsimp only
  split
  · rfl
  · split <;> rfl

@[simp] theorem almRest_dramStall (s : State) (a n : Nat) : (dramStall s a n).almRest = s.almRest := by
  unfold dramStall
  split <;> simp

@[simp] theorem almRest_memCe (s : State) (a : Nat) : (memCe s a).almRest = s.almRest := rfl

@[simp] theorem almRest_memUe (s : State) (a : Nat) : (memUe s a).almRest = s.almRest := by
  unfold memUe
  rw [almRest_notifyAll, almRest_almPost, almRest_setEvt, almRest_bump32]

@[simp] theorem almRest_eccRead (s : State) (a n : Nat) : (eccRead s a n).1.almRest = s.almRest := by
  unfold eccRead
  exact foldl_frame (h := fun u : State => u.almRest) _ _ (fun t x => by split <;> simp) _

@[simp] theorem almRest_dmaAccess (s : State) (i : Nat) (t : Tag) (wr : Bool) (a n : Nat) : (dmaAccess s i t wr a n).1.almRest = s.almRest := by
  unfold dmaAccess
  dsimp only
  repeat' split
  all_goals simp

/-- A line copied to the snapshot area, the addresses taken apart from their registers. -/
theorem almRest_lineCopy (s : State) (b l a : Nat) (f : State → Word) (r : State × Option Nat) (hr : r.1.almRest = s.almRest)
    (u : State) (hu : u = if r.2.isSome then r.1 else markDirty (pokeBytes r.1 b (rdBytes r.1 l 64)) b 64) :
    (setLive u a (f u)).almRest = s.almRest := by
  rw [almRest_setLive, hu]
  split <;> simp [hr]

@[simp] theorem almRest_cowLine (s : State) (e : Nat × Nat × Nat) : (cowLine s e).almRest = s.almRest :=
  almRest_lineCopy s _ _ _ (fun u => word (satAdd 0xFFFFFFFF (liveOf u (R.mirCnt 6)).toNat 1)) _
    (almRest_dmaAccess s 0x16 (dmaTag s 0x16 none) true _ 64) _ rfl

@[simp] theorem almRest_cow (s : State) (a n : Nat) : (cow s a n).almRest = s.almRest := by
  unfold cow
  split
  · rfl
  · exact (foldl_frame (h := State.almRest) _ _ (fun t e => almRest_cowLine t e) _).trans rfl

@[simp] theorem almRest_wrBytes (s : State) (a : Nat) (bs : List Byte) : (wrBytes s a bs).almRest = s.almRest := by simp [wrBytes]

@[simp] theorem almRest_wr32 (s : State) (a : Nat) (w : Word) : (wr32 s a w).almRest = s.almRest := by simp [wr32]
end Sys2Proof.Machine
end

section
/-! SUPPORT. A record of the almanac written: what it leaves (R494, R496, R503). -/

namespace Sys2Proof.Machine

variable (s : State)

@[simp] theorem postFrame_notifyAll (mask : Word) (cls src code info : Nat) : postFrame (notifyAll s mask cls src code info) = postFrame s :=
  postFrame_foldl _ (fun t p => by split <;> simp) _ _

/-- The words of a record stored in slot `i`. -/
def almSlotStored (i : Nat) (p : Post) : State :=
  wr32 (wrBytes (wr32 s (slotAddr i) (slotWord s i 0 + 1)) (slotAddr i + 4)
    ((recordWords s p ++ [crcWords (recordWords s p)]).flatMap fun w => leBytes 4 w.toNat)) (slotAddr i) (slotWord s i 0 + 2)

/-- A record is its stored words, the next sequence number, and posts. -/
theorem postFrame_almWriteSlot (i : Nat) (p : Post) : postFrame (almWriteSlot s i p) = postFrame (almSlotStored s i p) := by
  unfold almWriteSlot
  dsimp only
  split <;> split <;> simp only [postFrame_notifyAll, postFrame_setEvt] <;> rfl

theorem storeFrame_almWriteSlot (i : Nat) (p : Post) : storeFrame (almWriteSlot s i p) = storeFrame s := by
  rw [storeFrame_eq_of_postFrame (postFrame_almWriteSlot s i p), almSlotStored, wr32, wr32, storeFrame_wrBytes, storeFrame_wrBytes, storeFrame_wrBytes]

theorem mir_almWriteSlot {s : State} (h : s.mir.unsent = []) (i : Nat) (p : Post) : (almWriteSlot s i p).mir = s.mir := by
  have hmir : (almWriteSlot s i p).mir = (almSlotStored s i p).mir := (congrArg State.mir (postFrame_almWriteSlot s i p) :)
  have h1 (a : Nat) (w : Word) : (wr32 s a w).mir = s.mir := unsent_wrBytes h ..
  have h2 (a b : Nat) (w : Word) (bs : List Byte) : (wrBytes (wr32 s a w) b bs).mir = s.mir := by rw [unsent_wrBytes (by rw [h1, h]), h1]
  rw [hmir, almSlotStored, wr32, unsent_wrBytes (by rw [h2, h]), h2]

theorem postFrame_almDropped (p : Post) : postFrame (almDrop true (almCount s p.sev) p.sev) = postFrame s := by
  rw [postFrame_almDrop, postFrame_almCount]

@[simp] theorem storeFrame_almRecord (p : Post) : storeFrame (almRecord s p) = storeFrame s := by
  unfold almRecord
  split
  · exact storeFrame_almWriteSlot s _ p
  · exact storeFrame_eq_of_postFrame (postFrame_almDropped s p)

theorem mir_almRecord {s : State} (h : s.mir.unsent = []) (p : Post) : (almRecord s p).mir = s.mir := by
  unfold almRecord
  split
  · exact mir_almWriteSlot h _ p
  · exact (congrArg State.mir (postFrame_almDropped s p) :)

/-- Of the ALM a record moves the next sequence number on, or nothing but posts. -/
theorem paused_almRecord (p : Post) : (almRecord s p).alm.paused = s.alm.paused := by
  have hpaused {t u : State} (h : t.almRest = u.almRest) : t.alm.paused = u.alm.paused := (congrArg AlmSt.paused h :)
  unfold almRecord
  split
  next i _ =>
    have hstored : (almSlotStored s i p).alm.paused = s.alm.paused := hpaused (by simp [almSlotStored])
    let u := { almSlotStored s i p with alm := { (almSlotStored s i p).alm with seqNext := (almSlotStored s i p).alm.seqNext + 1 } }
    have hwritten : (almWriteSlot s i p).almRest = u.almRest := by
      unfold almWriteSlot
      dsimp only
      split <;> split <;> simp only [almRest_notifyAll, almRest_setEvt] <;> rfl
    exact (hpaused hwritten).trans hstored
  · exact hpaused (by rw [almRest_almDrop, almRest_almCount])

end Sys2Proof.Machine
end

section
/-! Supply and twilight (R77 to R88): the hold-up store, the failure of the supply and its end, the save and its ends, the operating count. -/

namespace Sys2Proof.Machine

variable {s : State}

theorem word_toNat_half (w : Half) : word w.toNat = w.setWidth 32 := BitVec.eq_of_toNat_eq (by simp [word])

/-- DEGRADED is new exactly where the capacitance falls below its bound. -/
theorem exec_storeMeasure (cap vst : Half) :
    exec (.storeMeasure cap vst) s = .next (
      let t := { s with pwr := { s.pwr with capUf := cap.toNat, measured := true, vstMv := vst.toNat } }
      if cap.toNat < 1610 ∧ (s.pwr.measured = false ∨ 1610 ≤ s.pwr.capUf) then
        almPost (setEvt t R.pwrEvt 3) 1 0x17 0x83 none [cap.setWidth 32] else t) := by
  have hnew (t : State) (ht : t = { s with pwr := { s.pwr with capUf := cap.toNat, measured := true, vstMv := vst.toNat } }) :
      (storeDegraded t && !storeDegraded s) = true ↔ cap.toNat < 1610 ∧ (s.pwr.measured = false ∨ 1610 ≤ s.pwr.capUf) := by
    subst ht
    cases hm : s.pwr.measured <;> simp [storeDegraded, hm]
  refine congrArg Host.Outcome.next ?_
  dsimp only
  rw [← word_toNat_half]
  by_cases h : cap.toNat < 1610 ∧ (s.pwr.measured = false ∨ 1610 ≤ s.pwr.capUf)
  · exact (if_pos ((hnew _ rfl).mpr h)).trans (if_pos h).symm
  · exact (if_neg fun hd => h ((hnew _ rfl).mp hd)).trans (if_neg h).symm

/-- The supply's failure noted, and the start of ride-through where the module is ready and in its normal phase. -/
def supplyFailed (s : State) (vin : Nat) (ride : Bool) : State :=
  { s with pwr := { s.pwr with
      fail := true, failAt := s.now, vinMv := vin, phase := if ride then .ride else s.pwr.phase,
      saveDue := if ride then !storeOk s else s.pwr.saveDue, twi := s.pwr.twi || ride } }

theorem supplyFailed_eq (vin : Nat) :
    (let u := modPwr s fun x => { x with fail := true, failAt := s.now, vinMv := vin }
     if u.trust.ready = true ∧ u.pwr.phase = .normal then modPwr u fun x => { x with phase := .ride, saveDue := !storeOk s, twi := true } else u) =
      supplyFailed s vin (decide (s.trust.ready = true ∧ s.pwr.phase = .normal)) := by
  by_cases h : s.trust.ready = true ∧ s.pwr.phase = .normal <;> simp [modPwr, supplyFailed, h]

/-- READY is sent as before: ride-through keeps it. -/
theorem readySent_supplyFailed (vin : Nat) (ride : Bool) (h : ride = true → s.pwr.phase = .normal) :
    readySent (supplyFailed s vin ride) = readySent s := by
  cases ride
  · rfl
  · simp [readySent, supplyFailed, h rfl]

theorem exec_pwrFailAssert_of_low (vin : Half) (hfail : s.pwr.fail = false) (hlow : vin.toNat < failTh s) :
    let ride := s.trust.ready = true ∧ s.pwr.phase = .normal
    let t := { s with pwr := { s.pwr with
      fail := true, failAt := s.now, vinMv := vin.toNat, phase := if ride then .ride else s.pwr.phase,
      saveDue := if ride then !storeOk s else s.pwr.saveDue, twi := s.pwr.twi || decide ride } }
    exec (.pwrFailAssert vin) s = .next (almPost (sendNow (setEvt t R.pwrEvt 0) 5 (readySent s)) 1 0x17 0x80 none [vin.setWidth 32]) := by
  intro ride t
  have hgo : ¬(s.pwr.fail = true ∨ failTh s ≤ vin.toNat) := by simp [hfail, hlow]
  have ht : supplyFailed s vin.toNat (decide ride) = t := by simp only [supplyFailed, decide_eq_true_eq, t]
  refine congrArg Host.Outcome.next ((if_neg hgo).trans ?_)
  rw [← ht, ← readySent_supplyFailed vin.toNat (decide ride) fun h => (decide_eq_true_iff.mp h).2, ← supplyFailed_eq, ← word_toNat_half]

/-- VIN noted as back. -/
def supplyBack (s : State) (vin : Half) : State := { s with pwr := { s.pwr with fail := false, vinMv := vin.toNat } }

section
variable (vin : Half) (hfail : s.pwr.fail = true) (hback : failTh s + 500 ≤ vin.toNat)
include hfail hback

theorem supply_returns : ¬((!s.pwr.fail) = true ∨ vin.toNat < failTh s + 500) := by simp [hfail]; omega

theorem exec_pwrFailDeassert_of_normal (hn : s.pwr.phase = .normal) :
    exec (.pwrFailDeassert vin) s = .next (deviceReset (supplyBack s vin) 1) := by
  refine congrArg Host.Outcome.next ((if_neg (supply_returns vin hfail hback)).trans ?_)
  dsimp only [modPwr]
  split
  next => rfl
  next hr => exact absurd (hn.symm.trans hr) (by decide)
  next hne _ => exact absurd hn hne

theorem exec_pwrFailDeassert_of_ride (hr : s.pwr.phase = .ride) (hd : s.pwr.saveDue = false) :
    exec (.pwrFailDeassert vin) s = .next (almPost (sendNow (setEvt
      { s with pwr := { s.pwr with fail := false, vinMv := vin.toNat, phase := .normal, twi := false } } R.pwrEvt 2) 6 (mirReady s.mir))
      3 0x17 0x81 none [vin.setWidth 32]) := by
  have hready : readySent (setEvt { s with pwr := { s.pwr with fail := false, vinMv := vin.toNat, phase := .normal, twi := false } } R.pwrEvt 2) =
      mirReady s.mir := by simp [readySent]
  refine congrArg Host.Outcome.next ((if_neg (supply_returns vin hfail hback)).trans ?_)
  rw [← hready, ← word_toNat_half]
  dsimp only [modPwr]
  split
  next hn => exact absurd (hr.symm.trans hn) (by decide)
  next => exact if_neg (by simp [hd])
  next _ hne => exact absurd hr hne

theorem exec_pwrFailDeassert_of_save (h : (s.pwr.phase = .ride ∧ s.pwr.saveDue = true) ∨ s.pwr.phase = .save ∨ s.pwr.phase = .hand) :
    exec (.pwrFailDeassert vin) s = .next (supplyBack s vin) := by
  refine congrArg Host.Outcome.next ((if_neg (supply_returns vin hfail hback)).trans ?_)
  have hnormal : s.pwr.phase ≠ .normal := by rcases h with ⟨h, -⟩ | h | h <;> simp [h]
  have hdue (hr : s.pwr.phase = .ride) : s.pwr.saveDue = true := by
    rcases h with ⟨-, hd⟩ | h | h
    · exact hd
    · rw [h] at hr; contradiction
    · rw [h] at hr; contradiction
  dsimp only [modPwr]
  split
  next hn => exact absurd hn hnormal
  next hr => exact if_pos (hdue hr)
  next => rfl

end

/-- The save's record, marker and count written, and the phase HAND begun. -/
def saveEnded (s : State) (us : Nat) : State :=
  let u := reach s (s.pwr.saveAt + us * 1000)
  let d := (u.now - s.pwr.saveAt) / 1000
  wrBytes (almRecord { u with alm := { u.alm with paused := false } } (mkPost u 3 0x17 0x82 none [word d])) (saveArea + 0x10)
    (leBytes 8 (guarded saveMark).toNat ++ leBytes 4 d)

theorem storeFrame_saveEnded (us : Nat) : storeFrame (saveEnded s us) = storeFrame (reach s (s.pwr.saveAt + us * 1000)) := by
  rw [saveEnded, storeFrame_wrBytes, storeFrame_almRecord]
  rfl

theorem role_eq_of_storeFrame {t : State} (h : storeFrame s = storeFrame t) : s.mir.role = t.mir.role :=
  (congrArg (fun u : State => u.mir.role) h :)

theorem paused_saveEnded (us : Nat) : (saveEnded s us).alm.paused = false := by
  have h : (saveEnded s us).alm.paused = _ := (congrArg AlmSt.paused (almRest_wrBytes _ _ _) :)
  rw [h]
  exact (paused_almRecord _ _).trans rfl

theorem exec_twilightSaveDone (us : Fin 2001) (hphase : s.pwr.phase = .save) :
    exec (.twilightSaveDone us) s = .next (
      let t := setEvt (modPwr (saveEnded s us) fun x => { x with phase := .hand }) R.pwrEvt 1
      if t.mir.role = .holder then modMir t fun m => { m with handPend := 2 } else t) :=
  congrArg Host.Outcome.next (if_neg (not_not_intro hphase))

theorem now_reach (t : Nat) (h : s.now ≤ t) : (reach s t).now = t := by
  simp only [reach, elapse]
  omega

theorem rdBytes_wrBytes_of_length (h : s.mir.unsent = []) (a : Nat) {bs : List Byte} {n : Nat} (hn : bs.length = n) :
    rdBytes (wrBytes s a bs) a n = bs := hn ▸ rdBytes_wrBytes_self h a bs

theorem rdBytes_saveEnded (us : Nat) (hnow : s.now ≤ s.pwr.saveAt) (hunsent : s.mir.unsent = []) :
    rdBytes (saveEnded s us) 0xA0020010 12 = leBytes 8 (guarded saveMark).toNat ++ leBytes 4 us := by
  have hd : (s.pwr.saveAt + us * 1000 - s.pwr.saveAt) / 1000 = us := by omega
  have hlen : (leBytes 8 (guarded saveMark).toNat ++ leBytes 4 us).length = 12 := by simp [length_leBytes]
  rw [saveEnded, now_reach _ (by omega)]
  dsimp only
  rw [hd]
  refine rdBytes_wrBytes_of_length ?_ _ hlen
  rw [mir_almRecord (by exact hunsent)]
  exact hunsent

/-! ### The release of the drivers and the operating count -/

theorem exec_storeLowHold (vst : Half) (hphase : s.pwr.phase = .hand) (hlow : vst.toNat ≤ 22000)
    (halone : ¬(s.mir.role = .holder ∧ s.mir.ptnrReady = true)) :
    exec (.storeLowHold vst) s = .next (mastership { s with pwr := { s.pwr with vstMv := vst.toNat, released := true } }) :=
  congrArg Host.Outcome.next (if_pos ⟨hphase, hlow, halone⟩)

/-- One more second is counted. -/
def opsecNext (x : PwrSt) : PwrSt := { x with opsec := (x.opsec + 1) % 2 ^ 40, opsecAt := x.opsecAt + 1000000000 }

theorem exec_operatingCountWrite (hgood : s.pwr.good = true) :
    exec .operatingCountWrite s = .next (countsWrite (modPwr (reach s (s.pwr.opsecAt + 1000000000)) opsecNext)) :=
  congrArg Host.Outcome.next (if_neg (by simp [hgood]))

theorem storeFrame_countsWrite : storeFrame (countsWrite s) = storeFrame s := by
  unfold countsWrite
  exact storeFrame_wrBytes ..

theorem pwr_countsWrite : (countsWrite s).pwr = s.pwr := (congrArg State.pwr (storeFrame_countsWrite (s := s)) :)
theorem now_countsWrite : (countsWrite s).now = s.now := (congrArg State.now (storeFrame_countsWrite (s := s)) :)

theorem rdBytes_countsWrite (hunsent : s.mir.unsent = []) :
    rdBytes (countsWrite s) 0xA0020000 16 = leBytes 8 s.pwr.cycles ++ leBytes 8 s.pwr.opsec :=
  rdBytes_wrBytes_of_length hunsent _ (by simp [length_leBytes])

theorem le_now_reach (t : Nat) : t ≤ (reach s t).now := by
  simp only [reach, elapse]
  omega

/-! ### The clauses of the save and after it -/

theorem twilightSaveDone_answers (us : Fin 2001) (hphase : s.pwr.phase = .save) (hnow : s.now ≤ s.pwr.saveAt) :
    Answers (exec (.twilightSaveDone us) s) fun t => t.pwr.phase = .hand ∧ t.now = s.pwr.saveAt + us * 1000 ∧
      evt t R.pwrEvt 1 = true ∧ t.alm.paused = false ∧ (s.mir.role = .holder → t.mir.handPend = 2) ∧
      (s.mir.unsent = [] → rdBytes t 0xA0020010 12 = leBytes 8 (guarded saveMark).toNat ++ leBytes 4 us.val) := by
  have hnow' : (saveEnded s us).now = s.pwr.saveAt + us * 1000 :=
    (now_eq_of_storeFrame (storeFrame_saveEnded us.val)).trans (now_reach _ (by omega))
  have hrole : (saveEnded s us).mir.role = s.mir.role := (role_eq_of_storeFrame (storeFrame_saveEnded us.val)).trans (by rw [reach_mir])
  have hbytes := rdBytes_saveEnded (s := s) us.val hnow
  have hevt := evt_setEvt_self (s := modPwr (saveEnded s us) fun x => { x with phase := .hand }) (a := R.pwrEvt) (i := 1) (by decide)
  have hpaused := paused_saveEnded (s := s) us.val
  refine ⟨_, exec_twilightSaveDone us hphase, ?_⟩
  generalize saveEnded s us = u at *
  dsimp only
  split
  next h => exact ⟨rfl, hnow', hevt, hpaused, fun _ => rfl, hbytes⟩
  next h => exact ⟨rfl, hnow', hevt, hpaused, fun hh => absurd (hrole.trans hh) h, hbytes⟩

theorem storeLowHold_answers (vst : Half) (hphase : s.pwr.phase = .hand) (hlow : vst.toNat ≤ 22000)
    (halone : ¬(s.mir.role = .holder ∧ s.mir.ptnrReady = true)) :
    Answers (exec (.storeLowHold vst) s) fun t => t.pwr = { s.pwr with vstMv := vst.toNat, released := true } ∧ t.mem = s.mem ∧
      ∀ n, n < 32 → (laneOf t n).drive = .hold := by
  refine ⟨_, exec_storeLowHold vst hphase hlow halone, ?_, ?_, fun n hn => ?_⟩
  · rw [mastership, pwr_pulseHold, pwr_lanesUpdate]
  · rw [mastership, mem_pulseHold, mem_lanesUpdate]
  · rw [mastership, laneOf_pulseHold]
    exact drive_lanesUpdate_of_notMaster _ (by simp [laneMaster]) hn

/-- A reset's outcome says nothing of the supply. -/
theorem ResetFrom.withPwr {c : Nat} {t : State} (h : ResetFrom s c t) (x : PwrSt) : ResetFrom s c { t with pwr := x } := h

theorem ResetFrom.ofPwr {c : Nat} {t : State} {x : PwrSt} (h : ResetFrom { s with pwr := x } c t) : ResetFrom s c t := h

theorem soleCause_supplyBack (vin : Half) (h : soleCause s) : soleCause (supplyBack s vin) := h

theorem resetFrom_supplyBack (vin : Half) (h : soleCause s) : ResetFrom s 1 (deviceReset (supplyBack s vin) 1) :=
  (resetFrom_deviceReset (resetCause_of_soleCause (soleCause_supplyBack vin h) 1)).ofPwr

theorem exec_storeCutoff (hfail : s.pwr.fail = true) : exec .storeCutoff s =
    .next (modPwr (deviceReset s 0) fun x => { x with on := false, good := false, highZ := true, vinMv := 0, vstMv := 20000 }) :=
  congrArg Host.Outcome.next (if_neg (by simp [hfail]))

theorem exec_twilightHandEnd (vin : Half) (hphase : s.pwr.phase = .hand) (hback : failTh s + 500 ≤ vin.toNat) :
    exec (.twilightHandEnd vin) s = .next (deviceReset (supplyBack s vin) 1) := congrArg Host.Outcome.next (if_pos ⟨hphase, hback⟩)

theorem exec_rideThroughEnd (hr : s.pwr.phase = .ride) (hfail : s.pwr.fail = true) (hd : s.pwr.saveDue = false) :
    exec .rideThroughEnd s = .next { reach s (s.pwr.failAt + 10000000) with pwr := { s.pwr with saveDue := true } } := by
  refine congrArg Host.Outcome.next ((if_pos ⟨hr, hfail, congrArg not hd⟩).trans ?_)
  rw [modPwr, reach_pwr]

theorem storeCutoff_answers (hfail : s.pwr.fail = true) :
    Answers (exec .storeCutoff s) fun t => ResetFrom s 0 { t with pwr := s.pwr } ∧ t.pwr.on = false ∧ t.pwr.good = false ∧ t.pwr.highZ = true :=
  ⟨_, exec_storeCutoff hfail, ((resetFrom_deviceReset (resetCause_zero s)).withPwr _).withPwr _, rfl, rfl, rfl⟩

theorem countsWrite_opsecNext {u : State} {x : PwrSt} (hpwr : u.pwr = x) (hunsent : u.mir.unsent = []) :
    let t := countsWrite (modPwr u opsecNext)
    t.pwr = opsecNext x ∧ t.now = u.now ∧ rdBytes t 0xA0020000 16 = leBytes 8 x.cycles ++ leBytes 8 ((x.opsec + 1) % 2 ^ 40) := by
  subst hpwr
  exact ⟨pwr_countsWrite, now_countsWrite, rdBytes_countsWrite hunsent⟩

theorem operatingCountWrite_answers (hgood : s.pwr.good = true) (hunsent : s.mir.unsent = []) :
    Answers (exec .operatingCountWrite s) fun t => t.pwr.opsec = (s.pwr.opsec + 1) % 2 ^ 40 ∧
      t.pwr.opsecAt = s.pwr.opsecAt + 1000000000 ∧ s.pwr.opsecAt + 1000000000 ≤ t.now ∧
      rdBytes t 0xA0020000 16 = leBytes 8 s.pwr.cycles ++ leBytes 8 ((s.pwr.opsec + 1) % 2 ^ 40) := by
  obtain ⟨hpwr, hnow, hbytes⟩ := countsWrite_opsecNext (reach_pwr s (s.pwr.opsecAt + 1000000000))
    ((congrArg MirSt.unsent (reach_mir s (s.pwr.opsecAt + 1000000000))).trans hunsent)
  refine ⟨_, exec_operatingCountWrite hgood, ?_, ?_, ?_, hbytes⟩
  · rw [hpwr, opsecNext]
  · rw [hpwr, opsecNext]
  · rw [hnow]
    exact le_now_reach _

/-- Settles O33: each signal of the supply by its own equation, its stores read back where no captured line is to be sent. -/
theorem supplyAndTwilight : Obligations.SupplyAndTwilight := fun vin cap vst us _ =>
  ⟨rfl, exec_storeMeasure cap vst, exec_pwrFailAssert_of_low vin, fun h => congrArg Host.Outcome.next (if_pos h),
    fun hfail hback => ⟨fun hn hsole => ⟨_, exec_pwrFailDeassert_of_normal vin hfail hback hn,
      resetFrom_supplyBack vin hsole, rfl⟩,
      exec_pwrFailDeassert_of_ride vin hfail hback, exec_pwrFailDeassert_of_save vin hfail hback⟩,
    exec_rideThroughEnd, twilightSaveDone_answers us,
    fun h => congrArg Host.Outcome.next (if_pos h), storeLowHold_answers vst, storeCutoff_answers,
    fun hphase hback hsole => ⟨_, exec_twilightHandEnd vin hphase hback, resetFrom_supplyBack vin hsole, rfl, rfl⟩,
    operatingCountWrite_answers⟩

end Sys2Proof.Machine
end

section
/-! Signals of the board (R73, R89, R92, R93): cage, handles, temperature, surge, partner, and the latched read of the operating seconds. -/

namespace Sys2Proof.Machine

variable {s : State}

theorem word_toNat_byte (w : Byte) : word w.toNat = w.setWidth 32 := BitVec.eq_of_toNat_eq (by simp [word])

/-- One bit taken out of a word. -/
theorem bit_andNot (w : Word) {n i : Nat} (hi : i < 32) : bit (w &&& ~~~(word (2 ^ n))) i = (bit w i && i != n) := by
  have hpow : (word (2 ^ n)).getLsbD i = decide (n = i) := by
    rw [word, BitVec.getLsbD_ofNat, Nat.testBit_two_pow, decide_eq_true hi, Bool.true_and]
  rw [bit, BitVec.getLsbD_and, BitVec.getLsbD_not, hpow, decide_eq_true hi, bit]
  congr 1
  exact congrArg not (decide_eq_decide.mpr eq_comm)

theorem sfpOvercurrent_answers (n : Fin 4) (hon : bit (shadowOf s R.pwrSfp) n = true) :
    Answers (exec (.sfpOvercurrent n) s) fun t =>
      (∀ i, i < 32 → bit (shadowOf t R.pwrSfp) i = (bit (shadowOf s R.pwrSfp) i && i != n.val)) ∧ evt t R.pwrSfp (8 + n) = true ∧
        { t with shadow := s.shadow, live := s.live } = s := by
  refine ⟨_, congrArg Host.Outcome.next (if_pos hon), fun i hi => ?_, evt_setEvt_self (by omega), rfl⟩
  have hshadow (u : State) (k : Nat) : shadowOf (setEvt u k (8 + n.val)) R.pwrSfp = shadowOf u R.pwrSfp := rfl
  rw [hshadow, shadowOf_setShadow, if_pos rfl]
  exact bit_andNot _ hi

/-- Settles O34: each signal by its own equation. -/
theorem boardSignals : Obligations.BoardSignals := by
  intro a n v soc inlet vin s p
  have hopen : word (b2n v 0) = if v then 1#32 else 0#32 := by cases v <;> rfl
  refine ⟨sfpOvercurrent_answers n, fun hoff => ?cageOff, fun hmoved => ?handle, fun hmoved => ?handle2, fun hstill => congrArg Host.Outcome.next (if_pos hstill),
    fun hstill => congrArg Host.Outcome.next (if_pos hstill), ?temperature, rfl, fun hmoved => congrArg Host.Outcome.next (if_neg hmoved),
    fun hstill => congrArg Host.Outcome.next (if_pos hstill), fun hadmitted => congrArg Host.Outcome.next (regAccess_of_admitted hadmitted opsecRead)⟩
  case cageOff => exact congrArg Host.Outcome.next (if_neg (by simp [hoff]))
  case handle =>
    rw [← hopen]
    exact congrArg Host.Outcome.next (if_neg hmoved)
  case handle2 =>
    rw [← hopen]
    exact congrArg Host.Outcome.next (if_neg hmoved)
  case temperature =>
    rw [← word_toNat_byte]
    rfl

end Sys2Proof.Machine
end

section
/-! The frame of TRUST's commands (R115, R134, R138): begin, busy, refused by the lifecycle state, and end; session and watchdog. -/

namespace Sys2Proof.Machine

variable {s : State} {a : Acc} {ok : Lc → Bool} {f : State → State}

theorem trustCmd_of_busy (h : admitted s a R.trustCmd true) (hbusy : s.trust.cmd ≠ none ∨ s.diag.bist = some 2) :
    trustCmd a ok f s = { accessed s with trust := { s.trust with err := 1, done := false } } := by
  refine (regAccess_of_admitted h _).trans (if_pos ?_)
  exact hbusy.imp_left Option.isSome_iff_ne_none.mpr

theorem notBusy (hcmd : s.trust.cmd = none) (hbist : s.diag.bist ≠ some 2) :
    ¬((accessed s).trust.cmd.isSome = true ∨ (accessed s).diag.bist = some 2) := by
  rintro (h | h)
  · exact absurd hcmd (Option.isSome_iff_ne_none.mp h)
  · exact hbist h

theorem trustCmd_of_disallowed (h : admitted s a R.trustCmd true) (hcmd : s.trust.cmd = none) (hbist : s.diag.bist ≠ some 2)
    (hno : ok s.trust.lc = false) : trustCmd a ok f s = trustEnd (accessed s) 0x0F := by
  refine (regAccess_of_admitted h _).trans ((if_neg (notBusy hcmd hbist)).trans (if_pos ?_))
  exact congrArg not hno

/-- A command that may begin takes its effect on the state without a bus error. -/
theorem trustCmd_of_may (h : trustMay s a ok) : trustCmd a ok f s = f (accessed s) := by
  obtain ⟨hadmitted, hcmd, hbist, hok⟩ := h
  refine (regAccess_of_admitted hadmitted _).trans ((if_neg (notBusy hcmd hbist)).trans (if_neg ?_))
  exact (by simp [accessed, hok])

/-- Each command of TRUST is its effect in the frame of the commands, which its lifecycle states allow. -/
def TrustFramed (i : Instr) (a : Acc) (s : State) (ok : Lc → Bool) : Prop := ∃ f, exec i s = .next (trustCmd a ok f s)

theorem TrustFramed.busy {i : Instr} (hi : TrustFramed i a s ok) (h : admitted s a R.trustCmd true)
    (hbusy : s.trust.cmd ≠ none ∨ s.diag.bist = some 2) : exec i s = .next { accessed s with trust := { s.trust with err := 1, done := false } } := by
  obtain ⟨f, hf⟩ := hi
  rw [hf, trustCmd_of_busy h hbusy]

theorem TrustFramed.ends {i : Instr} (hi : TrustFramed i a s ok) (h : admitted s a R.trustCmd true) (hcmd : s.trust.cmd = none)
    (hbist : s.diag.bist ≠ some 2) (hno : ok s.trust.lc = false) : TrustEnds i s 0x0F := by
  obtain ⟨f, hf⟩ := hi
  exact hf.trans (congrArg Host.Outcome.next (trustCmd_of_disallowed h hcmd hbist hno))

variable (s a)

/-- The commands of TRUST. -/
def trustCommands : List Instr :=
  [.verify a, .hash a, .keyLoad a, .transfer a, .keyClear a, .keyGen a, .keyDelete a, .importOpen a, .importApply a, .attest a, .nonce a,
    .lcTransition a, .svnAdvance a, .fuseKeyAdd a, .fuseKeyRevoke a, .provision a, .lcStatus a]

/-- The lifecycle states that allow a command (R138). -/
def trustAllows : Instr → Lc → Bool
  | .verify _ | .hash _ => lcNotDecom
  | .attest _ | .nonce _ => lcNotBlank
  | .fuseKeyAdd _ | .fuseKeyRevoke _ => (· == .maintenance)
  | .provision _ => fun _ => provisioning s
  | .lcStatus _ => lcAll
  | _ => lcKeys

theorem trustFramed : ∀ i ∈ trustCommands a, TrustFramed i a s (trustAllows s i) := by
  simp only [trustCommands, List.forall_mem_cons]
  exact ⟨⟨_, rfl⟩, ⟨_, rfl⟩, ⟨_, rfl⟩, ⟨_, rfl⟩, ⟨_, rfl⟩, ⟨_, rfl⟩, ⟨_, rfl⟩, ⟨_, rfl⟩, ⟨_, rfl⟩, ⟨_, rfl⟩, ⟨_, rfl⟩, ⟨_, rfl⟩, ⟨_, rfl⟩, ⟨_, rfl⟩,
    ⟨_, rfl⟩, ⟨_, rfl⟩, ⟨_, rfl⟩, fun _ h => absurd h List.not_mem_nil⟩

variable {s a}

/-- Commands that the lifecycle state does not allow end with STATE. -/
theorem trustEnds_of_disallowed (h : admitted s a R.trustCmd true) (hcmd : s.trust.cmd = none) (hbist : s.diag.bist ≠ some 2) {l : List Instr}
    (hl : l ⊆ trustCommands a) (hno : ∀ i ∈ l, trustAllows s i s.trust.lc = false) : ∀ i ∈ l, TrustEnds i s 0x0F :=
  fun i hi => (trustFramed s a i (hl hi)).ends h hcmd hbist (hno i hi)

theorem exec_trustCmdDone {e r : Nat} (h : s.trust.cmd = some (e, r)) :
    exec .trustCmdDone s = .next (setEvt { s with trust := { s.trust with cmd := none, done := true, err := e, result := r } } R.trustEvt 0) := by
  refine congrArg Host.Outcome.next ?_
  rw [h] <;> rfl

theorem exec_importSessionExpiry {y : Session} (h : s.trust.session = some y) :
    exec .importSessionExpiry s =
      .next (setEvt { reach s (y.at_ + 600000000000) with trust := { s.trust with session := none } } R.trustEvt 4) := by
  refine congrArg Host.Outcome.next ?_
  rw [h]
  dsimp only
  rw [modTrust, reach_trust]

/-- Settles O37: the frame of the commands decides before a command's effect. -/
theorem trustFrame : Obligations.TrustFrame := by
  intro a w s x
  refine ⟨fun e r h => exec_trustCmdDone h, fun h => ?idle, fun y h => exec_importSessionExpiry h, fun h => ?closed, fun h => ⟨fun hkey => ?kick, fun hkey => ?badKick⟩,
    fun h => ⟨fun hbusy i hi => (trustFramed s a i hi).busy h hbusy, fun hcmd hbist => ?states⟩⟩
  case idle => exact congrArg Host.Outcome.next (by rw [h])
  case closed => exact congrArg Host.Outcome.next (by rw [h])
  case kick => exact congrArg Host.Outcome.next ((regAccess_of_admitted h _).trans (if_neg (not_not_intro hkey)))
  case badKick => exact congrArg Host.Outcome.next ((regAccess_of_admitted h _).trans (if_pos hkey))
  case states =>
    have hends {l : List Instr} := trustEnds_of_disallowed (l := l) h hcmd hbist
    refine ⟨fun (hlc : s.trust.lc = .decommissioned) => hends (by simp [trustCommands]) ?_,
      fun (hlc : s.trust.lc = .blank) => hends (by simp [trustCommands]) ?_, fun hlc => ?fuseKeys, fun hno => ?provision⟩
    · simp [trustAllows, hlc, lcNotDecom, lcKeys, provisioning]
    · simp [trustAllows, hlc, lcNotBlank, lcKeys]
    case fuseKeys =>
      have hboth := hends (l := [.fuseKeyAdd a, .fuseKeyRevoke a]) (by simp [trustCommands]) (by simpa [trustAllows] using hlc)
      exact ⟨hboth _ (by simp), hboth _ (by simp)⟩
    case provision => exact hends (l := [.provision a]) (by simp [trustCommands]) (by simpa [trustAllows] using hno) _ (by simp)

end Sys2Proof.Machine
end

section
/-! SUPPORT. What a command of TRUST reads and writes of its buffers and of the key store (R36, R124, R125, R154). -/

namespace Sys2Proof.Machine

variable {s : State} {a : Acc} {ok : Lc → Bool} {f : State → State}

/-- Where a command may begin, it is its effect on the state without a bus error. -/
theorem trustRuns_of_may {i : Instr} {u : State} {e r : Nat} (hi : exec i s = .next (trustCmd a ok f s)) (h : trustMay s a ok)
    (hf : f (accessed s) = trustRun u e r) : TrustRuns i s u e r :=
  hi.trans (congrArg Host.Outcome.next ((trustCmd_of_may h).trans hf))

theorem trustEnds_of_may {i : Instr} {e : Nat} (hi : exec i s = .next (trustCmd a ok f s)) (h : trustMay s a ok)
    (hf : f (accessed s) = trustEnd (accessed s) e) : TrustEnds i s e :=
  hi.trans (congrArg Host.Outcome.next ((trustCmd_of_may h).trans hf))

theorem blockRead_of_clean (i : Nat) {b n : Nat} (h : eccIn s b n = []) : blockRead s i b n = s := by
  simp [blockRead, eccRead, eccOf, h]

theorem dramStall_of_dmaMay {t : Tag} {k : AccKind} {b n : Nat} (h : dmaMay s t k b n) : dramStall s b n = s := by
  obtain ⟨hdram, -, -⟩ := h
  unfold dramStall
  split
  next hd =>
    simp only [Bool.and_eq_true, Bool.not_eq_true'] at hd
    exact absurd (hdram hd.1) (by simp [hd.2])
  next => rfl

/-- A read that goes through counts nothing and gives the bytes. -/
theorem dmaRead_of_dmaMay (i : Nat) {t : Tag} {b n : Nat} (h : dmaMay s t .read b n) : dmaRead s i t b n = (rdBytes s b n, s) := by
  have hstall := dramStall_of_dmaMay h
  obtain ⟨-, hperm, hecc⟩ := h
  simp [dmaRead, dmaAccess, hstall, hperm, eccRead, eccOf, hecc rfl]

/-- A write that goes through stores its bytes. -/
theorem dmaWrite_of_dmaMay (i : Nat) {t : Tag} {b : Nat} {bs : List Byte} (h : dmaMay s t .write b bs.length) :
    dmaWrite s i t b bs = wrBytes s b bs := by
  simp [dmaWrite, dmaAccess_write_of_dmaMay s b i h]

theorem rdByte_accessed (b : Nat) : rdByte (accessed s) b = rdByte s b := rfl
theorem targ_accessed (n : Nat) : targ (accessed s) n = targ s n := rfl
theorem targA_accessed (n : Nat) : targA (accessed s) n = targA s n := rfl
theorem secureBuf_accessed (b n : Nat) : secureBuf (accessed s) b n = secureBuf s b n := rfl
theorem ksFree_accessed : ksFree (accessed s) = ksFree s := rfl

/-- The buffer of a command, read without a bus error. -/
theorem trustRead_accessed {b n : Nat} (h : dmaMay s (trustTag s) .read b n) : trustRead (accessed s) b n = (rdBytes s b n, accessed s) :=
  dmaRead_of_dmaMay (s := accessed s) 1 h

/-! ### What a write of a DMA leaves of TRUST -/

theorem storeFrame_dmaWrite (i : Nat) (t : Tag) (b : Nat) (bs : List Byte) : storeFrame (dmaWrite s i t b bs) = storeFrame s := by
  unfold dmaWrite
  dsimp only
  split
  · exact storeFrame_dmaAccess_write s i t b bs.length
  · rw [storeFrame_wrBytes, storeFrame_dmaAccess_write]

/-- Of TRUST a store changes at most whether DRAM is wiped. -/
theorem trust_eq_of_storeFrame {t : State} (h : storeFrame s = storeFrame t) :
    { s.trust with dramDone := false } = { t.trust with dramDone := false } := (congrArg State.trust h :)

theorem ks_eq_of_storeFrame {t : State} (h : storeFrame s = storeFrame t) : s.trust.ks = t.trust.ks := (congrArg (fun u : State => u.trust.ks) h :)

end Sys2Proof.Machine
end

section
/-! The keys, sessions and the lifecycle commands of TRUST (R100 to R103, R106, R124 to R135). -/

namespace Sys2Proof.Machine

variable {s : State} {a : Acc}

/-! ### The identity record -/

theorem leNat_leBytes (n v : Nat) : leNat (leBytes n v) = v % 256 ^ n := by
  induction n generalizing v with
  | zero => simp [leBytes, leNat, Nat.mod_one]
  | succ n ih =>
    rw [leBytes, leNat, ih, BitVec.toNat_ofNat, show 256 ^ (n + 1) = 256 * 256 ^ n from Nat.pow_succ', Nat.mod_mul]

/-- Bytes outside a store are as before it. -/
theorem rdBytes_wrBytes_of_outside (h : s.mir.unsent = []) {b c n : Nat} (bs : List Byte) (ho : b + n ≤ c ∨ c + bs.length ≤ b) :
    rdBytes (wrBytes s c bs) b n = rdBytes s b n := by
  refine List.map_congr_left fun i hi => ?_
  rw [List.mem_range] at hi
  rw [rdByte_wrBytes h, if_neg (by omega)]

theorem getLsbD_guarded (v : Word) (k : Nat) : (guarded v).getLsbD k = if k < 32 then v.getLsbD k else (~~~v).getLsbD (k - 32) :=
  BitVec.getLsbD_append

theorem guardedVal_guarded (v : Word) : guardedVal (guarded v) = v :=
  BitVec.eq_of_getLsbD_eq fun i hi => by rw [guardedVal, BitVec.getLsbD_setWidth, decide_eq_true hi, getLsbD_guarded, if_pos hi, Bool.true_and]

theorem guardedOk_guarded (v : Word) : guardedOk (guarded v) = true := by
  have hlow : (guarded v).setWidth 32 = v := guardedVal_guarded v
  have hhigh : (guarded v >>> 32).setWidth 32 = ~~~v := BitVec.eq_of_getLsbD_eq fun i hi => by
    rw [BitVec.getLsbD_setWidth, decide_eq_true hi, BitVec.getLsbD_ushiftRight, getLsbD_guarded, if_neg (by omega), Bool.true_and, Nat.add_sub_cancel_left]
  simp [guardedOk, hlow, hhigh, guardOk]

/-- LC_PENDING as it is written for a target. -/
def lcMark (target : Nat) : List Byte := leBytes 8 (guarded (word (0x100 + target))).toNat

/-- LC_PENDING of the first copy is the transition asked for. -/
theorem lcPending_of_mark {t : State} {target : Nat} (hlt : target < 16) (h : rdBytes t (idCopy false + 8) 8 = lcMark target) :
    lcPending t = some target := by
  have hword : rd64 t (idCopy false + 8) = guarded (word (0x100 + target)) := by
    rw [rd64, h, lcMark, leNat_leBytes]
    exact BitVec.eq_of_toNat_eq (by rw [BitVec.toNat_ofNat]; exact (congrArg (· % 2 ^ 64) (Nat.mod_eq_of_lt (guarded _).isLt)).trans (Nat.mod_eq_of_lt (guarded _).isLt))
  have hbit : bit (word (0x100 + target)) 8 = true := by
    rw [bit, word, BitVec.getLsbD_ofNat]
    simp [Nat.testBit_eq_decide_div_mod_eq]
    omega
  have hfld : fld (word (0x100 + target)) 3 0 = target := by
    simp [fld, word]
    omega
  simp [lcPending, hword, guardedOk_guarded, guardedVal_guarded, hbit, hfld]

theorem soleCause_of_storeFrame {t : State} (h : storeFrame s = storeFrame t) (hsole : soleCause s) : soleCause t := by
  have hsys : s.sys = t.sys := (congrArg State.sys h :)
  rwa [soleCause, hsys, now_eq_of_storeFrame h] at hsole

theorem cause_lcGo (target : Nat) (hsole : soleCause s) : (lcGo s target).sys.cause = 5 := by
  refine resetCause_of_soleCause (soleCause_of_storeFrame ?_ hsole) 5
  rw [storeFrame_wrBytes, storeFrame_wrBytes]

theorem lt_of_lcPermits {l : Lc} {target : Nat} (h : lcPermits l target = true) : target < 16 := by
  unfold lcPermits at h
  split at h <;> simp_all

/-- A transition that is permitted has its target among the states of R100. -/
theorem target_lt_of_lcErr {b : List Byte} (h : lcErr s b = 0) : lnat b 0x11 1 < 16 := by
  unfold lcErr at h
  dsimp only at h
  split at h
  · exact absurd h (by decide)
  split at h
  · exact absurd h (by decide)
  split at h
  · exact absurd h (by decide)
  split at h
  · exact absurd h (by decide)
  next hno => exact lt_of_lcPermits (by simpa using (not_or.mp hno).2)

theorem lcPending_lcGo {target : Nat} (hlt : target < 16) (h : s.mir.unsent = []) : lcPending (lcGo s target) = some target := by
  refine lcPending_of_mark hlt ?_
  have hmark : (lcMark target).length = 8 := length_leBytes ..
  have hfirst := rdBytes_wrBytes_of_length h (idCopy false + 8) hmark
  have hmir := unsent_wrBytes h (idCopy false + 8) (lcMark target)
  have hsecond := rdBytes_wrBytes_of_outside (s := wrBytes s (idCopy false + 8) (lcMark target)) (by rw [hmir, h]) (b := idCopy false + 8) (n := 8)
    (c := idCopy true + 8) (lcMark target) (.inl (by decide))
  exact hsecond.trans hfirst

/-! ### The key store -/

theorem ksOf_setKs (u : State) (n : Nat) (x : KsEnt) : ksOf (setKs u n x) n = x := mget_mset_self ..

theorem trust_ksPut (u : State) (n : Nat) (x : KsEnt) :
    { (ksPut u n x).trust with dramDone := false } = { u.trust with ks := mset {} u.trust.ks n x, dramDone := false } :=
  (trust_eq_of_storeFrame (storeFrame_wrBytes (setKs u n x) _ _)).trans rfl

theorem ksOf_ksPut (u : State) (n : Nat) (x : KsEnt) : ksOf (ksPut u n x) n = x :=
  (congrArg (fun y : TrustSt => mget ({} : KsEnt) y.ks n) (trust_ksPut u n x)).trans (mget_mset_self _ _ _ _)

theorem keyreg_ksPut (u : State) (n : Nat) (x : KsEnt) : (ksPut u n x).trust.keyreg = u.trust.keyreg := (congrArg TrustSt.keyreg (trust_ksPut u n x) :)

theorem session_ksPut (u : State) (n : Nat) (x : KsEnt) : (ksPut u n x).trust.session = u.trust.session := (congrArg TrustSt.session (trust_ksPut u n x) :)

/-! ### KEY_LOAD -/

/-- KEY_LOAD once the entry's bytes are read. -/
def keyLoaded (s : State) (n : Nat) (x : KsEnt) : State :=
  if s.trust.keyreg.isSome then trustRun s 7 0
  else if x.st = 0 then trustRun s 0x0C 0
  else if x.st = 2 ∨ rdBytes s (ksAddr n) 256 ≠ ksWrapped n x then
    let s := if x.st = 2 then s else almPost (setEvt (setKs s n { x with st := 2 }) R.trustEvt 2) 1 0x01 0x81 none [word n]
    trustRun s 0x12 0
  else trustRun (modTrust s fun t => { t with keyreg := some { entry := n, target := x.target, key := x.key } }) 0 n

/-- The package that is read, judged in its session. -/
def packageApplied (s : State) (b : List Byte) : State :=
  match s.trust.session with
  | none => trustRun s 0x0D 0
  | some x =>
    let e := pkgErr s b x
    let s := modTrust s fun t => { t with session := none }
    if e.1 ≠ 0 then trustRun (if e.1 = 4 ∨ e.1 = 0x0E then almPost s 1 0x01 0x83 none [word e.1] else s) e.1 0
    else
      let k := (ksFree s).getD 0
      let ent : KsEnt := { st := 1, imported := true, type_ := lnat b 0xD 1, target := lnat b 0xC 1, keyId := word (lnat b 8 4),
                           created := s.pwr.opsec, key := e.2, pubHash := if lnat b 0xD 1 = 2 then sha3 (dsaPk 3 e.2) else [] }
      trustRun (ksPut s k ent) 0 k

/-- A session once it is closed. -/
def sessionClosed (s : State) : State := modTrust s fun t => { t with session := none }

/-- The entry of a good package. -/
def importedEntry (s : State) (b key : List Byte) : KsEnt :=
  { st := 1, imported := true, type_ := lnat b 0xD 1, target := lnat b 0xC 1, keyId := word (lnat b 8 4), created := s.pwr.opsec, key := key,
    pubHash := if lnat b 0xD 1 = 2 then sha3 (dsaPk 3 key) else [] }

theorem packageApplied_of_good {y : Session} {b key : List Byte} {f : Nat} (hy : s.trust.session = some y) (hgood : pkgErr s b y = (0, key))
    (hf : ksFree s = some f) : packageApplied s b = trustRun (ksPut (sessionClosed s) f (importedEntry s b key)) 0 f := by
  have hfree : ksFree (sessionClosed s) = some f := hf
  have hgo : ¬(pkgErr s b y).1 ≠ 0 := by simp [hgood]
  unfold packageApplied
  rw [hy]
  refine (if_neg hgo).trans ?_
  rw [hgood]
  change trustRun (ksPut (sessionClosed s) ((ksFree (sessionClosed s)).getD 0) (importedEntry s b key)) 0 ((ksFree (sessionClosed s)).getD 0) = _
  rw [hfree, Option.getD_some]

theorem packageApplied_of_bad {y : Session} {b : List Byte} (hy : s.trust.session = some y) (hbad : (pkgErr s b y).1 ≠ 0) :
    (packageApplied s b).trust = { s.trust with session := none, cmd := some ((pkgErr s b y).1, 0), done := false } ∧ (packageApplied s b).mem = s.mem := by
  have hpost (c : Prop) [Decidable c] (v : State) (sev src code : Nat) (info : List Word) :
      postFrame (if c then almPost v sev src code none info else v) = postFrame v := by split <;> simp
  unfold packageApplied
  rw [hy]
  dsimp only
  rw [if_pos hbad]
  have hframe := hpost ((pkgErr s b y).1 = 4 ∨ (pkgErr s b y).1 = 0x0E) (sessionClosed s) 1 1 0x83 [word (pkgErr s b y).1]
  have htrust : (if (pkgErr s b y).1 = 4 ∨ (pkgErr s b y).1 = 0x0E then almPost (sessionClosed s) 1 1 0x83 none [word (pkgErr s b y).1]
    else sessionClosed s).trust = (sessionClosed s).trust := (congrArg State.trust hframe :)
  have hmem : (if (pkgErr s b y).1 = 4 ∨ (pkgErr s b y).1 = 0x0E then almPost (sessionClosed s) 1 1 0x83 none [word (pkgErr s b y).1]
    else sessionClosed s).mem = s.mem := (congrArg State.mem hframe :)
  exact ⟨congrArg (fun x : TrustSt => { x with cmd := some ((pkgErr s b y).1, 0), done := false }) htrust, hmem⟩

section
variable (h : trustMay s a lcKeys)
include h

theorem exec_keyLoad (hclean : s.trust.keyreg = none → (ksOf s (keySel s)).st = 1 → eccIn s (ksAddr (keySel s)) 256 = []) :
    exec (.keyLoad a) s = .next (keyLoaded (accessed s) (keySel s) (ksOf s (keySel s))) := by
  have hread : (if (accessed s).trust.keyreg.isSome ∨ (ksOf (accessed s) (keySel (accessed s))).st ≠ 1 then accessed s
      else blockRead (accessed s) 1 (ksAddr (keySel (accessed s))) 256) = accessed s := by
    split
    next => rfl
    next hneed =>
      obtain ⟨hreg, hst⟩ := not_or.mp hneed
      exact blockRead_of_clean 1 (hclean (Option.not_isSome_iff_eq_none.mp hreg) (Classical.not_not.mp hst))
  refine congrArg Host.Outcome.next ((trustCmd_of_may h).trans ?_)
  dsimp only
  rw [hread]
  rfl

theorem keyLoad_of_full (hreg : s.trust.keyreg ≠ none) : TrustRuns (.keyLoad a) s (accessed s) 7 0 :=
  (exec_keyLoad h fun hno => absurd hno hreg).trans (congrArg Host.Outcome.next (if_pos (Option.isSome_iff_ne_none.mpr hreg)))

variable (hreg : s.trust.keyreg = none)
include hreg

omit h in
theorem not_isSome_keyreg : ¬(accessed s).trust.keyreg.isSome = true := Option.not_isSome_iff_eq_none.mpr hreg

theorem keyLoad_of_empty (hst : (ksOf s (keySel s)).st = 0) : TrustRuns (.keyLoad a) s (accessed s) 0x0C 0 := by
  refine (exec_keyLoad h fun _ hone => absurd (hst.symm.trans hone) (by decide)).trans (congrArg Host.Outcome.next ?_)
  exact (if_neg (not_isSome_keyreg hreg)).trans (if_pos hst)

theorem keyLoad_of_corrupt (hst : (ksOf s (keySel s)).st = 2) : TrustRuns (.keyLoad a) s (accessed s) 0x12 0 := by
  refine (exec_keyLoad h fun _ hone => absurd (hst.symm.trans hone) (by decide)).trans (congrArg Host.Outcome.next ?_)
  refine (if_neg (not_isSome_keyreg hreg)).trans ((if_neg (by simp [hst])).trans ((if_pos (.inl hst)).trans ?_))
  dsimp only
  rw [if_pos hst]
  rfl

variable (hst : (ksOf s (keySel s)).st = 1) (hclean : eccIn s (ksAddr (keySel s)) 256 = [])
include hst hclean

theorem keyLoad_of_intact (hintact : rdBytes s (ksAddr (keySel s)) 256 = ksWrapped (keySel s) (ksOf s (keySel s))) :
    TrustRuns (.keyLoad a) s { accessed s with trust := { s.trust with
      keyreg := some { entry := keySel s, target := (ksOf s (keySel s)).target, key := (ksOf s (keySel s)).key } } } 0 (keySel s) := by
  refine (exec_keyLoad h fun _ _ => hclean).trans (congrArg Host.Outcome.next ?_)
  exact (if_neg (not_isSome_keyreg hreg)).trans ((if_neg (by simp [hst])).trans (if_neg fun hbad =>
    hbad.elim (fun htwo => absurd (hst.symm.trans htwo) (by decide)) fun hne => hne hintact))

theorem keyLoad_of_spoiled (hspoiled : ¬rdBytes s (ksAddr (keySel s)) 256 = ksWrapped (keySel s) (ksOf s (keySel s))) :
    TrustRuns (.keyLoad a) s (almPost (setEvt { accessed s with trust := { s.trust with
      ks := mset {} s.trust.ks (keySel s) { ksOf s (keySel s) with st := 2 } } } R.trustEvt 2) 1 0x01 0x81 none [word (keySel s)]) 0x12 0 := by
  refine (exec_keyLoad h fun _ _ => hclean).trans (congrArg Host.Outcome.next ?_)
  refine (if_neg (not_isSome_keyreg hreg)).trans ((if_neg (by simp [hst])).trans ((if_pos (.inr hspoiled)).trans ?_))
  dsimp only
  rw [if_neg (by simp [hst])]
  rfl

end

/-! ### TRANSFER -/

section
variable (h : trustMay s a lcKeys)
include h

/-- TRANSFER with a key in KEYREG. -/
theorem exec_transfer_of_some {k : KeyReg} (hk : s.trust.keyreg = some k) :
    exec (.transfer a) s = .next (
      if targ s 0 % 256 ≠ k.target then
        trustRun (almPost (setEvt (modTrust (accessed s) fun t => { t with keyreg := none }) R.trustEvt 3) 1 0x01 0x82 none [word (targ s 0 % 256)]) 9 0
      else if engSlots (targ s 0 % 256) ≤ targ s 0 / 256 % 256 then trustRun (accessed s) 0x0A 0
      else trustRun (modTrust (accessed s) fun t =>
        { t with keyreg := none, next := mset [] t.next (targ s 0 % 256 * 256 + targ s 0 / 256 % 256) k.key }) 0 0) := by
  refine congrArg Host.Outcome.next ((trustCmd_of_may h).trans ?_)
  have hk' : (accessed s).trust.keyreg = some k := hk
  rw [hk'] <;> rfl

theorem transfer_of_none (hk : s.trust.keyreg = none) : TrustRuns (.transfer a) s (accessed s) 8 0 := by
  refine trustRuns_of_may rfl h ?_
  have hk' : (accessed s).trust.keyreg = none := hk
  rw [hk']

/-! ### KEY_GEN and KEY_DELETE -/

theorem keyGen_of_symmetric (hty : targ s 0 = 1) (hlo : 1 ≤ targ s 2) (hhi : targ s 2 ≤ 4) {f : Nat} (hf : ksFree s = some f) :
    exec (.keyGen a) s = .next (trustRun (ksPut (drawBytes (accessed s) 32).2 f
      { st := 1, type_ := 1, target := targ s 2, keyId := word (targ s 3), created := s.pwr.opsec, key := (drawBytes s 32).1, pubHash := [] }) 0 f) := by
  have hok : typeOk (targ s 2) 1 = true := by simp [typeOk, hlo, hhi]
  refine congrArg Host.Outcome.next ((trustCmd_of_may h).trans ?_)
  simp only [targ_accessed, targA_accessed, secureBuf_accessed, ksFree_accessed, hty, hok, hf]
  rfl

theorem keyGen_of_fullStore (hty : targ s 0 ≠ 2) (hok : typeOk (targ s 2) (targ s 0) = true) (hf : ksFree s = none) :
    TrustRuns (.keyGen a) s (accessed s) 0x13 0 := by
  refine trustRuns_of_may rfl h ?_
  simp only [targ_accessed, targA_accessed, secureBuf_accessed, ksFree_accessed, hty, hok, hf]
  rfl

/-- The key bytes a key generation draws enter the free entry. -/
theorem keyGen_answers (hty : targ s 0 = 1) (hlo : 1 ≤ targ s 2) (hhi : targ s 2 ≤ 4) (f : Nat) (hf : ksFree s = some f) :
    Answers (exec (.keyGen a) s) fun t => ∃ key,
      ksOf t f = { st := 1, type_ := 1, target := targ s 2, keyId := word (targ s 3), created := s.pwr.opsec, key := key, pubHash := [] } ∧
        t.trust.cmd = some (0, f) ∧ t.trust.keyreg = s.trust.keyreg := by
  refine ⟨_, keyGen_of_symmetric h hty hlo hhi hf, (drawBytes s 32).1, ksOf_ksPut _ f _, rfl, ?_⟩
  exact (keyreg_ksPut _ f _ : _)

theorem exec_keyDelete : exec (.keyDelete a) s =
    .next (trustRun (wrBytes (setKs (accessed s) (keySel s) {}) (ksAddr (keySel s)) (List.replicate 256 0#8)) 0 (keySel s)) :=
  congrArg Host.Outcome.next (trustCmd_of_may h)

theorem keyDelete_answers (hunsent : s.mir.unsent = []) :
    Answers (exec (.keyDelete a) s) fun t => ksOf t (keySel s) = {} ∧ rdBytes t (ksAddr (keySel s)) 256 = List.replicate 256 0#8 ∧
      t.trust.cmd = some (0, keySel s) ∧ t.trust.slots = s.trust.slots ∧ t.trust.next = s.trust.next := by
  have hframe := storeFrame_wrBytes (setKs (accessed s) (keySel s) {}) (ksAddr (keySel s)) (List.replicate 256 0#8)
  have hks := ks_eq_of_storeFrame hframe
  have hbytes := rdBytes_wrBytes_of_length (s := setKs (accessed s) (keySel s) {}) hunsent (ksAddr (keySel s))
    (List.length_replicate (n := 256) (a := (0#8 : Byte)))
  have hslots : (wrBytes (setKs (accessed s) (keySel s) {}) (ksAddr (keySel s)) (List.replicate 256 0#8)).trust.slots = s.trust.slots :=
    (congrArg TrustSt.slots (trust_eq_of_storeFrame hframe) :)
  have hnext : (wrBytes (setKs (accessed s) (keySel s) {}) (ksAddr (keySel s)) (List.replicate 256 0#8)).trust.next = s.trust.next :=
    (congrArg TrustSt.next (trust_eq_of_storeFrame hframe) :)
  refine ⟨_, exec_keyDelete h, ?_, hbytes, rfl, hslots, hnext⟩
  exact (congrArg (mget ({} : KsEnt) · (keySel s)) hks).trans (ksOf_setKs ..)

/-! ### Import -/

/-- An offer is written after the session is opened. -/
theorem exec_importOpen (hsecure : secureBuf s (targA s 0) 5843 = true) : ∃ u b bs,
    exec (.importOpen a) s = .next (trustRun (trustWrite u b bs) 0 5843) ∧ ∃ id dk, u.trust.session = some { id := id, at_ := s.now, dk := dk } := by
  have hgo : ¬(!secureBuf (accessed s) (targA (accessed s) 0) 5843) = true := by simp [targA_accessed, secureBuf_accessed, hsecure]
  exact ⟨_, _, _, congrArg Host.Outcome.next ((trustCmd_of_may h).trans (if_neg hgo)), _, _, rfl⟩

theorem importOpen_answers (hsecure : secureBuf s (targA s 0) 5843 = true) : Answers (exec (.importOpen a) s) fun t =>
    (∃ id dk, t.trust.session = some { id := id, at_ := s.now, dk := dk }) ∧ t.trust.cmd = some (0, 5843) := by
  obtain ⟨u, b, bs, hexec, id, dk, hu⟩ := exec_importOpen h hsecure
  refine ⟨_, hexec, ⟨id, dk, ?_⟩, rfl⟩
  exact (congrArg TrustSt.session (trust_eq_of_storeFrame (storeFrame_dmaWrite 1 (trustTag u) b bs)) :).trans hu

theorem importOpen_of_insecure (hsecure : secureBuf s (targA s 0) 5843 = false) : TrustEnds (.importOpen a) s 3 := by
  refine trustEnds_of_may rfl h ?_
  simp only [targA_accessed, secureBuf_accessed, hsecure]
  rfl

section
variable {len : Nat} (hlen : len = 1168 + sigLen (rdByte s (targA s 0 + 0xE)).toNat) (hsecure : secureBuf s (targA s 0) len = true)
  (hread : dmaMay s (trustTag s) .read (targA s 0) len)
include hlen hsecure hread

theorem exec_importApply : exec (.importApply a) s = .next (packageApplied (accessed s) (rdBytes s (targA s 0) len)) := by
  subst hlen
  have hgo : ¬(!secureBuf (accessed s) (targA (accessed s) 0) (1168 + sigLen (rdByte (accessed s) (targA (accessed s) 0 + 0xE)).toNat)) = true := by
    simpa [targA_accessed, secureBuf_accessed, rdByte_accessed] using hsecure
  refine congrArg Host.Outcome.next ((trustCmd_of_may h).trans ((if_neg hgo).trans ?_))
  have hr : trustRead (accessed s) (targA (accessed s) 0) (1168 + sigLen (rdByte (accessed s) (targA (accessed s) 0 + 0xE)).toNat) = _ :=
    trustRead_accessed hread
  rw [hr]
  rfl

theorem importApply_of_closed (hx : s.trust.session = none) : TrustRuns (.importApply a) s (accessed s) 0x0D 0 := by
  refine (exec_importApply h hlen hsecure hread).trans (congrArg Host.Outcome.next ?_)
  have hx' : (accessed s).trust.session = none := hx
  rw [packageApplied, hx'] <;> rfl

variable {y : Session} (hy : s.trust.session = some y)
include hy

theorem importApply_of_good (key : List Byte) (f : Nat) (hgood : pkgErr s (rdBytes s (targA s 0) len) y = (0, key)) (hf : ksFree s = some f) :
    Answers (exec (.importApply a) s) fun t => (ksOf t f).st = 1 ∧ (ksOf t f).imported = true ∧ (ksOf t f).key = key ∧
      (ksOf t f).target = lnat (rdBytes s (targA s 0) len) 0xC 1 ∧ t.trust.session = none ∧ t.trust.cmd = some (0, f) := by
  refine ⟨_, (exec_importApply h hlen hsecure hread).trans (congrArg Host.Outcome.next (packageApplied_of_good (s := accessed s) hy hgood hf)), ?_⟩
  have hent := ksOf_ksPut (sessionClosed (accessed s)) f (importedEntry (accessed s) (rdBytes s (targA s 0) len) key)
  have hsession := session_ksPut (sessionClosed (accessed s)) f (importedEntry (accessed s) (rdBytes s (targA s 0) len) key)
  exact ⟨congrArg KsEnt.st hent, congrArg KsEnt.imported hent, congrArg KsEnt.key hent, congrArg KsEnt.target hent, hsession, rfl⟩

theorem importApply_of_bad (hbad : (pkgErr s (rdBytes s (targA s 0) len) y).1 ≠ 0) : Answers (exec (.importApply a) s) fun t =>
    t.trust = { s.trust with session := none, cmd := some ((pkgErr s (rdBytes s (targA s 0) len) y).1, 0), done := false } ∧ t.mem = s.mem := by
  have happlied := packageApplied_of_bad (s := accessed s) (b := rdBytes s (targA s 0) len) hy hbad
  exact ⟨_, exec_importApply h hlen hsecure hread, happlied⟩

end

/-! ### LC_TRANSITION and SVN_ADVANCE -/

section
variable {len : Nat} (hlen : len = 64 + sigLen (rdByte s (targA s 0 + 0x12)).toNat) (hsecure : secureBuf s (targA s 0) len = true)
  (hread : dmaMay s (trustTag s) .read (targA s 0) len)
include hlen hsecure hread

theorem exec_lcTransition : exec (.lcTransition a) s = .next (
    let t := { accessed s with trust := { s.trust with nonce := none } }
    if lcErr s (rdBytes s (targA s 0) len) ≠ 0 then trustRun t (lcErr s (rdBytes s (targA s 0) len)) 0
    else lcGo t (lnat (rdBytes s (targA s 0) len) 0x11 1)) := by
  subst hlen
  have hgo : ¬(!secureBuf (accessed s) (targA (accessed s) 0) (64 + sigLen (rdByte (accessed s) (targA (accessed s) 0 + 0x12)).toNat)) = true := by
    simpa [targA_accessed, secureBuf_accessed, rdByte_accessed] using hsecure
  have hr : trustRead (accessed s) (targA (accessed s) 0) (64 + sigLen (rdByte (accessed s) (targA (accessed s) 0 + 0x12)).toNat) = _ :=
    trustRead_accessed hread
  refine congrArg Host.Outcome.next ((trustCmd_of_may h).trans ((if_neg hgo).trans ?_))
  rw [hr]
  rfl

theorem lcTransition_of_good (hgood : lcErr s (rdBytes s (targA s 0) len) = 0) (hsole : soleCause s) (hunsent : s.mir.unsent = []) :
    Answers (exec (.lcTransition a) s) fun t => t.sys.cause = 5 ∧ lcPending t = some (lnat (rdBytes s (targA s 0) len) 0x11 1) ∧
      t.trust.keyreg = none ∧ t.trust.slots = [] ∧ t.trust.nonce = none := by
  refine ⟨_, exec_lcTransition h hlen hsecure hread, ?_⟩
  dsimp only
  rw [if_neg (not_not_intro hgood)]
  exact ⟨cause_lcGo _ hsole, lcPending_lcGo (target_lt_of_lcErr hgood) hunsent, rfl, rfl, rfl⟩

end

theorem exec_svnAdvance : exec (.svnAdvance a) s = .next (
    if targ s 0 = 0 ∨ 64 < targ s 0 then trustRun (accessed s) 2 0
    else if targ s 0 < s.trust.svn then trustRun (accessed s) 6 0
    else trustRun { accessed s with trust := { s.trust with svn := targ s 0 } } 0 0) :=
  congrArg Host.Outcome.next (trustCmd_of_may h)

end

/-- Settles O36: each command by its equation over the state without a bus error. -/
theorem trustKeysAndLifecycle : Obligations.TrustKeysAndLifecycle := by
  intro a s h u x n e intact tgt slot
  refine ⟨keyLoad_of_full h, keyLoad_of_empty h, keyLoad_of_corrupt h, keyLoad_of_intact h, keyLoad_of_spoiled h, transfer_of_none h,
    fun k hk hne => ?other, fun k hk heq hfull => ?noSlot, fun k hk heq hroom => ?moved, congrArg Host.Outcome.next (trustCmd_of_may h), keyGen_answers h,
    keyGen_of_fullStore h, keyDelete_answers h, importOpen_answers h, importOpen_of_insecure h,
    fun hsecure hread => ⟨importApply_of_closed h rfl hsecure hread, fun y hy => ⟨importApply_of_good h rfl hsecure hread hy, importApply_of_bad h rfl hsecure hread hy⟩⟩,
    fun hsecure hread => ⟨fun hbad => (exec_lcTransition h rfl hsecure hread).trans (congrArg Host.Outcome.next (if_pos hbad)), lcTransition_of_good h rfl hsecure hread⟩,
    fun hlo hhi hle => ?advanced, fun hlo hhi hlt => ?lower, fun hrange => ?range⟩
  case other => exact (exec_transfer_of_some h hk).trans (congrArg Host.Outcome.next (if_pos hne))
  case noSlot => exact (exec_transfer_of_some h hk).trans (congrArg Host.Outcome.next ((if_neg (not_not_intro heq)).trans (if_pos hfull)))
  case moved =>
    exact (exec_transfer_of_some h hk).trans (congrArg Host.Outcome.next ((if_neg (not_not_intro heq)).trans (if_neg (Nat.not_le.mpr hroom))))
  case advanced => exact (exec_svnAdvance h).trans (congrArg Host.Outcome.next ((if_neg (by omega)).trans (if_neg (Nat.not_lt.mpr hle))))
  case lower => exact (exec_svnAdvance h).trans (congrArg Host.Outcome.next ((if_neg (by omega)).trans (if_pos hlt)))
  case range => exact (exec_svnAdvance h).trans (congrArg Host.Outcome.next (if_pos hrange))

end Sys2Proof.Machine
end

section
/-! Mediation and the host queues (R147, R157 to R160). -/

namespace Sys2Proof.Machine

variable {s : State}

/-! ### Mediation -/

theorem kindCount_eq_zero_iff (rt : Nat) : kindCount rt = 0 ↔ 9 ≤ rt := by
  by_cases h : rt < 9
  · have hall : ∀ i : Fin 9, kindCount i ≠ 0 := by decide
    exact ⟨fun h0 => absurd h0 (hall ⟨rt, h⟩), fun h9 => absurd h (by omega)⟩
  · obtain ⟨i, rfl⟩ := Nat.exists_eq_add_of_le' (Nat.not_lt.mp h)
    exact ⟨fun _ => by omega, fun _ => rfl⟩

/-- The owner code a mediation writes: PID + 1, 0 for a release. -/
def ownerCode (p : Option Nat) : Nat := match p with | some p => p + 1 | none => 0

theorem giveTo_eq (o : List (Nat × Nat)) (t n : Nat) (p : Option Nat) : giveTo o t n p = mset 0 o (t * 0x10000 + n) (ownerCode p) := by
  cases p <;> rfl

/-- Resources given one after the other are those of their range. -/
theorem mget_foldl_giveTo (rt first : Nat) (p : Option Nat) (o : List (Nat × Nat)) (count k : Nat) :
    mget 0 ((List.range count).foldl (fun o i => giveTo o rt (first + i) p) o) k =
      if rt * 0x10000 + first ≤ k ∧ k < rt * 0x10000 + first + count then ownerCode p else mget 0 o k := by
  induction count with
  | zero => exact (if_neg (by omega)).symm
  | succ n ih =>
    rw [List.range_succ, List.foldl_append, List.foldl_cons, List.foldl_nil, giveTo_eq, mget_mset, ih]
    split
    next hk => exact (if_pos (by omega)).symm
    next hk =>
      by_cases hlt : rt * 0x10000 + first ≤ k ∧ k < rt * 0x10000 + first + n
      · rw [if_pos hlt, if_pos (by omega)]
      · rw [if_neg hlt, if_neg (by omega)]

/-- The draft with the named range given. -/
def drafted (s : State) (rt : Nat) (p : Option Nat) : List (Nat × Nat) :=
  (List.range (fld (shadowOf s R.partMedArg) 31 16)).foldl (fun o i => giveTo o rt (fld (shadowOf s R.partMedArg) 15 0 + i) p) s.part.draft

section
variable (rt : Nat) (p : Option Nat)

theorem mediate_of_slice (h : bit (forceOf s R.partMode) 0 = false) : mediate s rt p = { s with part := { s.part with medErr := 2 } } :=
  if_pos (congrArg not h)

variable (h : bit (forceOf s R.partMode) 0 = true)
include h

theorem not_sliceMode : ¬(!bit (forceOf s R.partMode) 0) = true := by simp [h]

theorem mediate_of_unknown (hrt : 9 ≤ rt) : mediate s rt p = { s with part := { s.part with medErr := 3 } } :=
  (if_neg (not_sliceMode h)).trans (if_pos ((kindCount_eq_zero_iff rt).mpr hrt))

variable (hrt : rt < 9)
include hrt

theorem mediate_of_beyond (hr : kindCount rt < fld (shadowOf s R.partMedArg) 15 0 + fld (shadowOf s R.partMedArg) 31 16) :
    mediate s rt p = { s with part := { s.part with medErr := 1 } } :=
  (if_neg (not_sliceMode h)).trans ((if_neg fun h0 => absurd ((kindCount_eq_zero_iff rt).mp h0) (by omega)).trans (if_pos hr))

theorem mediate_of_range (hr : fld (shadowOf s R.partMedArg) 15 0 + fld (shadowOf s R.partMedArg) 31 16 ≤ kindCount rt) :
    mediate s rt p = { s with part := { s.part with medErr := 0, draft := drafted s rt p } } :=
  (if_neg (not_sliceMode h)).trans ((if_neg fun h0 => absurd ((kindCount_eq_zero_iff rt).mp h0) (by omega)).trans (if_neg (Nat.not_lt.mpr hr)))

end

/-! ### The most urgent item -/

theorem itemClass_lt (w : Word) : itemClass w < 4 := fld_lt w 30 29

/-- A fold of minima is at most its start and each value, and is one of them. -/
theorem foldl_min (g : Word → Nat) (l : List Word) (b : Nat) :
    l.foldl (fun m w => min m (g w)) b ≤ b ∧ (∀ w ∈ l, l.foldl (fun m w => min m (g w)) b ≤ g w) ∧
      (l.foldl (fun m w => min m (g w)) b = b ∨ ∃ w ∈ l, l.foldl (fun m w => min m (g w)) b = g w) := by
  induction l generalizing b with
  | nil => simp
  | cons x l ih =>
    obtain ⟨hle, hall, hmem⟩ := ih (min b (g x))
    rw [List.foldl_cons]
    refine ⟨by omega, ?_, ?_⟩
    · simp only [List.forall_mem_cons]
      exact ⟨by omega, hall⟩
    · rcases hmem with heq | ⟨w, hw, heq⟩
      · rcases Nat.le_total b (g x) with hb | hb
        · exact .inl (by omega)
        · exact .inr ⟨x, by simp, by omega⟩
      · exact .inr ⟨w, by simp [hw], heq⟩

/-- The item that is popped: of the smallest class, and none of it before. -/
theorem urgentIdx_spec {l : List Word} (h : l ≠ []) : ∃ x, l[urgentIdx l]? = some x ∧ (∀ y ∈ l, itemClass x ≤ itemClass y) ∧
    ∀ y ∈ l.take (urgentIdx l), itemClass x < itemClass y := by
  obtain ⟨-, hall, hmem⟩ := foldl_min itemClass l 3
  obtain ⟨z, hz⟩ := List.exists_mem_of_ne_nil l h
  have hbest : ∃ w ∈ l, itemClass w = l.foldl (fun m w => min m (itemClass w)) 3 := by
    rcases hmem with heq | ⟨w, hw, heq⟩
    · have := hall z hz
      have := itemClass_lt z
      exact ⟨z, hz, by omega⟩
    · exact ⟨w, hw, heq.symm⟩
  generalize hb : l.foldl (fun m w => min m (itemClass w)) 3 = best at *
  have hidx : urgentIdx l = l.findIdx fun w => itemClass w = best := by rw [urgentIdx, hb]
  obtain ⟨w, hw, hwb⟩ := hbest
  have hlt : urgentIdx l < l.length := by
    rw [hidx]
    exact List.findIdx_lt_length_of_exists ⟨w, hw, by simpa using hwb⟩
  have hx : itemClass l[urgentIdx l] = best := by
    have := List.findIdx_getElem (w := hidx ▸ hlt)
    simpa [hidx] using this
  refine ⟨l[urgentIdx l], List.getElem?_eq_getElem hlt, fun y hy => hx ▸ hall y hy, fun y hy => ?_⟩
  obtain ⟨i, hi, rfl⟩ := List.mem_take_iff_getElem.mp hy
  have hbefore : i < l.findIdx fun w => itemClass w = best := by omega
  have hne : itemClass l[i] ≠ best := by simpa using List.not_of_lt_findIdx hbefore
  have := hall l[i] (List.getElem_mem _)
  omega

/-! ### Reads of a host queue -/

theorem hnqRead_of_empty {p : Nat} (soft : Bool) (hok : qOk (hnqOf s p).q = true) (he : (hnqOf s p).q.items = []) :
    hnqRead s p soft = if soft then setBus s 0#32 else setBus (setEvt s (R.hnqEvt p) 1) (hnqOf s p).last := by
  unfold hnqRead
  rw [if_pos hok]
  dsimp only
  rw [he]

/-- An item popped from a queue. -/
def hnqPopped (s : State) (p : Nat) (x : Word) : State :=
  let h := hnqOf s p
  let r := (h.q.rd + 1) % 256
  setBus (setHnq s p { q := { h.q with items := dropAt h.q.items (urgentIdx h.q.items), rd := r, rdC := r }, last := x }) x

theorem hnqRead_of_some {p : Nat} (soft : Bool) {x : Word} (hok : qOk (hnqOf s p).q = true) (hne : (hnqOf s p).q.items ≠ [])
    (hx : (hnqOf s p).q.items[urgentIdx (hnqOf s p).q.items]? = some x) : hnqRead s p soft = hnqPopped s p x := by
  unfold hnqRead
  rw [if_pos hok]
  dsimp only
  split
  next he => exact absurd he hne
  next =>
    rw [hx, Option.getD_some]
    rfl

/-! ### Posts -/

theorem hnqOf_setHnq_self (p : Nat) (h : Hnq) : hnqOf (setHnq s p h) p = h := mget_mset_self ..

theorem hnqPut_of_room {p : Nat} (w : Word) (hroom : (hnqOf s p).q.items.length < 256) :
    hnqPut s p w = setEvt (setHnq s p { hnqOf s p with q := qPush 256 (hnqOf s p).q w }) (R.hnqEvt p) 0 := by
  unfold hnqPut
  dsimp only
  rw [if_pos hroom]

/-- A full queue without the oldest item of its least urgent class. -/
def leastDropped (q : Q Word) : Q Word := { q with items := dropAt q.items (leastIdx q.items), rd := (q.rd + 1) % 256, rdC := (q.rd + 1) % 256 }

theorem hnqPut_of_full {p : Nat} (w : Word) (hfull : (hnqOf s p).q.items.length = 256) : hnqPut s p w =
    setEvt (setHnq (bump s (R.hnqLost p) 15 0 1) p { hnqOf s p with q := qPush 256 (leastDropped (hnqOf s p).q) w }) (R.hnqEvt p) 0 := by
  unfold hnqPut
  dsimp only
  rw [if_neg (by omega)]
  rfl

theorem hnqPut_of_room_answers {p : Nat} (w : Word) (hroom : (hnqOf s p).q.items.length < 256) :
    (hnqOf (hnqPut s p w) p).q.items = (hnqOf s p).q.items ++ [w] ∧ evt (hnqPut s p w) (R.hnqEvt p) 0 = true := by
  rw [hnqPut_of_room w hroom]
  exact ⟨congrArg (fun h : Hnq => h.q.items) (hnqOf_setHnq_self p _), evt_setEvt_self (by decide)⟩

theorem hnqPut_of_full_answers {p : Nat} (w : Word) (hfull : (hnqOf s p).q.items.length = 256) :
    (hnqOf (hnqPut s p w) p).q.items = dropAt (hnqOf s p).q.items (leastIdx (hnqOf s p).q.items) ++ [w] ∧
      fld (liveOf (hnqPut s p w) (R.hnqLost p)) 15 0 = min 0xFFFF (fld (liveOf s (R.hnqLost p)) 15 0 + 1) := by
  have hne : R.hnqLost p ≠ R.hnqEvt p := by simp [R.hnqLost, R.hnqEvt]
  rw [hnqPut_of_full w hfull]
  refine ⟨congrArg (fun h : Hnq => h.q.items) (hnqOf_setHnq_self p _), ?_⟩
  rw [liveOf_setEvt_of_ne hne, liveOf_setHnq, bump, liveOf_setLive, if_pos rfl]
  exact fld_bumpFld _ (by decide)

/-- Settles O38: mediation by the checks of its range, the host queue by the place of its most urgent item. -/
theorem mediationAndHostQueues : Obligations.MediationAndHostQueues := by
  intro a rt p w s u arg first count h med
  have hmed (hadm : admitted s a R.partMedCmd true) (i : Instr) (q : Option Nat)
      (hi : exec i s = .next (regAccess s a R.partMedCmd true fun s => mediate s rt.val q)) : med i (ownerCode q) := by
    rw [regAccess_of_admitted hadm] at hi
    refine ⟨fun hm => hi.trans (congrArg _ (mediate_of_slice (s := accessed s) rt q hm)), fun hm hrt => hi.trans (congrArg _ (mediate_of_unknown (s := accessed s) rt q hm hrt)),
      fun hm hrt hr => hi.trans (congrArg _ (mediate_of_beyond (s := accessed s) rt q hm hrt hr)), fun hm hrt hr => ?_⟩
    exact ⟨_, hi.trans (congrArg _ (mediate_of_range (s := accessed s) rt q hm hrt hr)), rfl, rfl, mget_foldl_giveTo _ _ q _ _⟩
  have hpop (i : Instr) (k : Nat) (soft : Bool) (hok : qOk h.q = true) (hadm : admitted s a k false)
      (hi : exec i s = .next (regAccess s a k false fun s => hnqRead s p soft)) (hne : h.q.items ≠ []) :
      ∃ x, h.q.items[urgentIdx h.q.items]? = some x ∧ Answers (exec i s) fun t => t.bus = x ∧ (hnqOf t p).last = x ∧
          (hnqOf t p).q.items = dropAt h.q.items (urgentIdx h.q.items) ∧
          (∀ y ∈ h.q.items, itemClass x ≤ itemClass y) ∧ (∀ y ∈ h.q.items.take (urgentIdx h.q.items), itemClass x < itemClass y) ∧
          { t with bus := s.bus, part := s.part } = u := by
    obtain ⟨x, hx, hall, hbefore⟩ := urgentIdx_spec hne
    rw [regAccess_of_admitted hadm, hnqRead_of_some (s := accessed s) soft hok hne hx] at hi
    have hq := hnqOf_setHnq_self (s := accessed s) p.val
    exact ⟨x, hx, _, hi, rfl, congrArg Hnq.last (hq _), congrArg (fun y : Hnq => y.q.items) (hq _), hall, hbefore, rfl⟩
  refine ⟨fun hadm => ⟨hmed hadm _ (some p.val) rfl, hmed hadm _ none rfl⟩, fun hok => ⟨fun hadm => ⟨hpop _ _ false hok hadm rfl, fun he => ?pop⟩,
    fun hadm => ⟨hpop _ _ true hok hadm rfl, fun he => ?popTag⟩, hnqPut_of_room_answers w, hnqPut_of_full_answers w⟩⟩
  case pop => exact congrArg _ ((regAccess_of_admitted hadm _).trans (hnqRead_of_empty (s := accessed s) false hok he))
  case popTag => exact congrArg _ ((regAccess_of_admitted hadm _).trans (hnqRead_of_empty (s := accessed s) true hok he))

end Sys2Proof.Machine
end

section
/-! PTP messages (R165 to R168, R171). -/

namespace Sys2Proof.Machine

/-- A Follow_Up of sequence number 0 from source 0, as it is received at MAC0. -/
def followUpItem : RxItem where
  mac := 0
  dest := 3
  stamp := 0
  first := 0
  end_ := 0
  err := 0
  beats := 0
  frame := { da := 0x011B19000000#48, sa := 0#48, vlan := none, et := 0x88F7#16, red := none, fcsOk := true, codeOk := true, linkHeld := true
             payload := [8#8, 2#8, 0#8, 44#8] ++ List.replicate 40 0#8 }

/-- The message of that frame, and the Sync it follows. -/
def followUpMsg : PtpFollowUp := { domain := 0#8, src := { clock := 0#64, port := 0#16 }, seq := 0#16, origin := 0, corr := 0 }
def awaitedSync : PtpSync := { domain := 0#8, src := { clock := 0#64, port := 0#16 }, seq := 0#16, twoStep := true, logInt := 0, origin := 0, corr := 0 }

/-- IRIG-B is the lodestar and 0.1 ms ahead, and the LTC has gained on it at 100 ppm for 1 ms; domain 0 takes time from MAC1 and waits at MAC0
for the Follow_Up of a Sync of stamp 0. -/
def slewingFollowUp : State :=
  { State.reset with
    now := 1000000
    shadow := [(R.domCtrl 0, 1#32), (R.domCfg 0, 0#32)]
    force := [(R.timeCfg, 0x6400#32)]
    time := { tickRun := true, lodestar := 2, slewing := true, d0 := { st := .acquiring, act := true, p0 := { wait := some (awaitedSync, 0) } } }
    irig := { off := some 25600000 }
    net := { items := [followUpItem] } }

/-- Refutes O39: the slew moves the stamp that waits with every offset, but the Follow_Up is taken with the stamp as it was before the
pull, so the offset is not that of the waiting stamp. -/
theorem not_ptpMessages : ¬ Obligations.PtpMessages := by
  intro h
  obtain ⟨-, hmsg, -⟩ := h 0 0 slewingFollowUp
  obtain ⟨hrun, -⟩ := hmsg followUpItem (by decide)
  obtain ⟨-, hfollow, -⟩ := hrun rfl
  obtain ⟨htaken, -⟩ := hfollow followUpMsg (by decide) (by decide) (by decide) awaitedSync 25600 (by decide) (by decide) rfl rfl
  obtain ⟨t, ht, hoff, -⟩ := htaken (.inl (by decide))
  injection ht with ht
  rw [← ht] at hoff
  revert hoff
  decide

end Sys2Proof.Machine
end

section
/-! The sources of time (R167, R170 to R172, R175, R177, R178, R191, R192, R196). -/

namespace Sys2Proof.Machine

variable {s : State}

/-! ### The pull -/

theorem slewPull_frame : (slewPull s).now = s.now ∧ (slewPull s).ltc = s.ltc ∧ (slewPull s).time.lodestar = s.time.lodestar := by
  unfold slewPull
  split <;> exact ⟨rfl, rfl, rfl⟩

/-- An offset that is reduced by the pull. -/
theorem srcOff_shiftOffs (k : Nat) (δ : Int) : srcOff (shiftOffs s δ) k = (srcOff s k).map (· - δ) := by
  have hport (x : Dom) : (portOf (shiftDom δ x) x.act).off = (portOf x x.act).off.map (· - δ) := by
    unfold portOf
    split <;> rfl
  have hdom : domOf (shiftOffs s δ) k = shiftDom δ (domOf s k) := by
    unfold domOf
    split <;> rfl
  unfold srcOff
  split
  · rfl
  · rfl
  · dsimp only
    rw [hdom]
    by_cases h : (domOf s k).st = .acquiring ∨ (domOf s k).st = .locked
    · exact (if_pos h).trans ((hport _).trans (by rw [if_pos h]))
    · exact (if_neg h).trans (by rw [if_neg h]; rfl)

theorem srcOff_setPulled (x : Nat) (b : Bool) (k : Nat) : srcOff { s with time := { s.time with pullAt := x, slewing := b } } k = srcOff s k := rfl

/-- How far a slew pulls in `dt` ns (R171). -/
def slewStep (s : State) (dt : Nat) (o : Int) : Nat := min (dt * fld (forceOf s R.timeCfg) 15 8 * 256 / 1000000) o.natAbs

/-- A pull in a slew: the offset is reduced by as much as SLEW_PPM allows, and the slew goes on while 1 ns is left. -/
theorem slewPull_of_slewing {o : Int} (hslew : s.time.slewing = true) (ho : srcOff s s.time.lodestar = some o) :
    let p := slewStep s (s.now - s.time.pullAt) o
    (slewPull s).time.slewing = decide (256 ≤ o.natAbs - p) ∧
      srcOff (slewPull s) s.time.lodestar = some (o - if 0 ≤ o then (p : Int) else -(p : Int)) := by
  intro p
  unfold slewPull
  rw [ho]
  dsimp only
  rw [if_pos hslew]
  refine ⟨?_, ?_⟩
  · have hkept (δ : Int) : (shiftOffs s δ).time.slewing = true := hslew
    rw [hkept, Bool.true_and]
    rfl
  · rw [srcOff_setPulled, srcOff_shiftOffs, ho]
    rfl

theorem forceOf_reach (t : Nat) : forceOf (reach s t) = forceOf s := by
  funext k
  rw [forceOf, reach_force, forceOf]

theorem srcOff_reach (t k : Nat) : srcOff (reach s t) k = srcOff s k := rfl

/-- Time enough for a slew of `n` units at `r` units each 10⁶ ns. -/
theorem le_slewed {n r dt m : Nat} (hm : 0 < m) (hr : 0 < r) (h : (n * m + r - 1) / r ≤ dt) : n ≤ dt * r / m := by
  rw [Nat.le_div_iff_mul_le hm]
  have hlt : (n * m + r - 1) / r < dt + 1 := Nat.lt_succ_of_le h
  rw [Nat.div_lt_iff_lt_mul hr, Nat.add_mul] at hlt
  omega

/-- What is left of an offset after a pull in its direction. -/
theorem natAbs_pulled {o : Int} {p : Nat} (hp : p ≤ o.natAbs) : (o - if 0 ≤ o then (p : Int) else -(p : Int)).natAbs = o.natAbs - p := by
  split <;> omega

/-- The instant at which a slew is over. -/
def slewEnd (s : State) (o : Int) : Nat :=
  let r := fld (forceOf s R.timeCfg) 15 8 * 256
  s.time.pullAt + ((o.natAbs - 255) * 1000000 + r - 1) / r

theorem exec_slewDone {o : Int} (hslew : s.time.slewing = true) (ho : srcOff s s.time.lodestar = some o) :
    exec .slewDone s = .next (slewPull (reach s (slewEnd s o))) := by
  refine congrArg Host.Outcome.next ?_
  rw [hslew, ho]
  rfl

theorem slewDone_answers {o : Int} (hslew : s.time.slewing = true) (ho : srcOff s s.time.lodestar = some o)
    (hppm : fld (forceOf s R.timeCfg) 15 8 ≠ 0) : Answers (exec .slewDone s) fun t =>
      t.time.slewing = false ∧ t.time.lodestar = s.time.lodestar ∧ ∃ o', srcOff t s.time.lodestar = some o' ∧ o'.natAbs < 256 := by
  have hnow := le_now_reach (s := s) (slewEnd s o)
  have htime : (reach s (slewEnd s o)).time = s.time := reach_time ..
  have hforce : forceOf (reach s (slewEnd s o)) = forceOf s := forceOf_reach _
  have hoff := (srcOff_reach (s := s) (slewEnd s o) s.time.lodestar).trans ho
  refine ⟨_, exec_slewDone hslew ho, ?_⟩
  generalize reach s (slewEnd s o) = r at *
  have hslew' : r.time.slewing = true := htime ▸ hslew
  have hoff' : srcOff r r.time.lodestar = some o := htime ▸ hoff
  have hend : ((o.natAbs - 255) * 1000000 + fld (forceOf s R.timeCfg) 15 8 * 256 - 1) / (fld (forceOf s R.timeCfg) 15 8 * 256) ≤
      r.now - r.time.pullAt := by
    rw [htime]
    exact Nat.le_sub_of_add_le (by rw [Nat.add_comm]; exact hnow)
  have hstep : o.natAbs - slewStep r (r.now - r.time.pullAt) o < 256 := by
    have hle := le_slewed (by decide) (by omega) hend
    rw [slewStep, hforce, Nat.mul_assoc]
    omega
  obtain ⟨hdone, hleft⟩ := slewPull_of_slewing hslew' hoff'
  obtain ⟨-, -, hlode⟩ := slewPull_frame (s := r)
  refine ⟨hdone.trans (decide_eq_false (by omega)), hlode.trans (congrArg TimeSt.lodestar htime), _, htime ▸ hleft, ?_⟩
  rw [htime] at hstep
  rwa [natAbs_pulled (show slewStep r (r.now - s.time.pullAt) o ≤ o.natAbs from Nat.min_le_right ..)]

/-! ### Reversion and holdover -/

theorem exec_reversion {k : Fin 4} {t : Nat} (ht : mget none s.time.since k = some t) (hrv : fld (forceOf s R.timeCfg) 31 24 ≠ 0)
    (hk : k.val ∈ (ranking s).takeWhile (· ≠ s.time.lodestar)) :
    exec (.reversion k) s = .next (timeChanged (reach s (t + fld (forceOf s R.timeCfg) 31 24 * 1000000000))) := by
  refine congrArg Host.Outcome.next ?_
  rw [ht]
  exact if_neg (by rw [List.contains_iff_mem.mpr hk]; simp [hrv])

theorem sync_syncUpdate {t : State} (h : syncFor t = 0) : (syncUpdate t).time.sync = 0 ∧ (syncUpdate t).now = t.now ∧
    (syncUpdate t).time.lodestar = t.time.lodestar := by
  have hpost (u : State) (v : Nat) (sev : Option Nat) : postFrame (timeNote u 2 1 0x12 v sev) = postFrame u := by
    cases sev <;> simp [timeNote]
  unfold syncUpdate
  rw [h]
  dsimp only
  split
  next heq => exact ⟨heq.symm, rfl, rfl⟩
  next =>
    have hframe := hpost { t with time := { t.time with sync := 0 } } 0 (some 1)
    exact ⟨(congrArg (fun u : State => u.time.sync) hframe :), (congrArg State.now hframe :), (congrArg (fun u : State => u.time.lodestar) hframe :)⟩

theorem syncFor_of_expired {u : State} {t : Nat} (hlode : u.time.lodestar = 7) (ht : u.time.holdAt = some t)
    (hover : t + fld (forceOf u R.timeCfg) 23 16 * 1000000000 ≤ u.now) : syncFor u = 0 := by
  unfold syncFor
  split
  next h => exact absurd (hlode.symm.trans h) (by decide)
  next h => exact absurd (hlode.symm.trans h) (by decide)
  next =>
    rw [ht]
    exact if_neg (Nat.not_lt.mpr hover)
  next h => exact absurd hlode h

theorem holdKeepExpiry_answers {t : Nat} (ht : s.time.holdAt = some t) (hlode : s.time.lodestar = 7) :
    Answers (exec .holdKeepExpiry s) fun v => v.time.sync = 0 ∧ t + fld (forceOf s R.timeCfg) 23 16 * 1000000000 ≤ v.now ∧ v.time.lodestar = 7 := by
  have hexec : exec .holdKeepExpiry s = .next (syncUpdate (reach s (t + fld (forceOf s R.timeCfg) 23 16 * 1000000000))) := by
    refine congrArg Host.Outcome.next ?_
    rw [ht]
  have hnow := le_now_reach (s := s) (t + fld (forceOf s R.timeCfg) 23 16 * 1000000000)
  have htime : (reach s (t + fld (forceOf s R.timeCfg) 23 16 * 1000000000)).time = s.time := reach_time ..
  have hforce : forceOf (reach s (t + fld (forceOf s R.timeCfg) 23 16 * 1000000000)) = forceOf s := forceOf_reach _
  refine ⟨_, hexec, ?_⟩
  generalize reach s (t + fld (forceOf s R.timeCfg) 23 16 * 1000000000) = u at *
  have hsync := syncFor_of_expired (u := u) (t := t) (by rw [htime, hlode]) (by rw [htime, ht]) (by rw [hforce]; exact hnow)
  obtain ⟨hzero, hkept, hlode'⟩ := sync_syncUpdate hsync
  exact ⟨hzero, hkept ▸ hnow, hlode'.trans (htime ▸ hlode)⟩

/-! ### IRIG-B and 1PPS -/

theorem exec_irigbFrameRx_of_good {f : IrigFrame} (age : Nat) (h : irigGood f = true) :
    let b := slewPull s
    let t := irigSec b f
    let n := if b.irig.run ≠ 0 ∧ t = b.irig.lastSec + 1 then b.irig.run + 1 else 1
    let off : Int := ((t * 1000000000 : Int) - s.ltc + age) * 256
    exec (.irigbFrameRx f age) s = .next (timeChanged (farUpdate { b with time := { b.time with tod := some off }, irig :=
      { locked := b.irig.locked || decide (3 ≤ n), code := f.code, run := min n 3, lastGood := s.now, lastSec := t, off := some off } } 2)) := by
  obtain ⟨hnow, hltc, -⟩ := slewPull_frame (s := s)
  intro b t n off
  refine congrArg Host.Outcome.next ((if_pos h).trans ?_)
  simp only [off, ← hnow, ← hltc]
  rfl

theorem exec_irigbLoss (h : s.irig.locked = true) :
    exec .irigbLoss s = .next (timeChanged { reach s (s.irig.lastGood + 2000000000) with irig := { s.irig with locked := false, run := 0, off := none } }) := by
  refine congrArg Host.Outcome.next ((if_pos h).trans ?_)
  rw [irigDrop]
  dsimp only
  rw [reach_irig]

theorem exec_ppsPulse_of_out (h : ((slewPull s).pps.locked && ppsOut (slewPull s)) = true) :
    let b := slewPull s
    let n := b.pps.bad + 1
    let t := setEvt b R.timeEvt 7
    let t := setLive t R.timePpsStat (bumpFld (liveOf t R.timePpsStat) 31 16 1)
    exec .ppsPulse s = .next (timeChanged { t with pps :=
      { b.pps with bad := n % 3, locked := decide (n < 3), run := if n < 3 then b.pps.run else 0, off := if n < 3 then b.pps.off else none } }) :=
  congrArg Host.Outcome.next (if_pos h)

theorem exec_ppsPulse_of_in (h : ((slewPull s).pps.locked && ppsOut (slewPull s)) = false) :
    let b := slewPull s
    let gap := b.now - b.pps.last
    let n := if b.pps.run ≠ 0 ∧ 999990000 ≤ gap ∧ gap ≤ 1000010000 then b.pps.run + 1 else 1
    exec .ppsPulse s = .next (timeChanged (farUpdate { b with pps :=
      { locked := b.pps.locked || decide (3 ≤ n), run := min n 3, last := s.now, sec := some (ppsSecond b)
        off := some (((ppsSecond b * 1000000000 : Int) - s.ltc) * 256), bad := 0 } } 3)) := by
  obtain ⟨hnow, hltc, -⟩ := slewPull_frame (s := s)
  intro b gap n
  refine congrArg Host.Outcome.next ((if_neg (by simp [h])).trans ?_)
  simp only [← hnow, ← hltc]
  rfl

/-! ### The tick generator -/

section
variable {a : Acc} (h : admitted s a R.timeTickCtrl true)
include h

theorem exec_tickEnable_of_idle (hpend : s.time.startPend = none) (hidle : s.time.tickRun = false ∨ s.time.stopPend = true) :
    exec (.tickEnable a) s = .next { setShadow (accessed s) R.timeTickCtrl 1#32 with
      time := { s.time with startPend := some ((s.ltc / 1000000000 + 1) * 1000000000) } } := by
  have hgo : ¬(s.time.startPend.isSome || (s.time.tickRun && !s.time.stopPend)) = true := by
    rw [hpend]
    rcases hidle with hr | hs
    · simp [hr]
    · simp [hs]
  exact congrArg Host.Outcome.next ((regAccess_of_admitted h _).trans (if_neg hgo))

theorem exec_tickEnable_of_running (hrun : s.time.startPend ≠ none ∨ (s.time.tickRun = true ∧ s.time.stopPend = false)) :
    exec (.tickEnable a) s = .next (setShadow (accessed s) R.timeTickCtrl 1#32) := by
  have hgo : (s.time.startPend.isSome || (s.time.tickRun && !s.time.stopPend)) = true := by
    rcases hrun with hp | ⟨hr, hs⟩
    · simp [Option.isSome_iff_ne_none.mpr hp]
    · simp [hr, hs]
  exact congrArg Host.Outcome.next ((regAccess_of_admitted h _).trans (if_pos hgo))

theorem exec_tickDisable_of_free (hen : forceOf s R.partEn = 0#32) :
    exec (.tickDisable a) s = .next { setShadow (accessed s) R.timeTickCtrl 0#32 with
      time := { s.time with startPend := none, stopPend := s.time.tickRun } } :=
  congrArg Host.Outcome.next ((regAccess_of_admitted h _).trans (if_neg (not_not_intro hen)))

end

section
variable {a : Acc} {d : Fin 2} (h : admitted s a (R.domCtrl d) true)
include h

theorem exec_domainEnable_of_off (hoff : bit (shadowOf s (R.domCtrl d)) 0 = false) :
    exec (.domainEnable a d) s = .next (timeChanged (setDom (setShadow (accessed s) (R.domCtrl d) 1#32) d { st := .listening })) :=
  congrArg Host.Outcome.next ((regAccess_of_admitted h _).trans (if_neg (by rw [domOn]; exact (Bool.eq_false_iff.mp hoff))))

theorem exec_domainEnable_of_on (hon : bit (shadowOf s (R.domCtrl d)) 0 = true) : exec (.domainEnable a d) s = .next (accessed s) :=
  congrArg Host.Outcome.next ((regAccess_of_admitted h _).trans (if_pos hon))

end

/-- Settles O40: each command of the sources by its equation; a slew over its time leaves less than 1 ns. -/
theorem timeSources : Obligations.TimeSources := fun a d k f age s =>
  ⟨fun h => ⟨exec_domainEnable_of_off h, exec_domainEnable_of_on h, congrArg Host.Outcome.next (regAccess_of_admitted h _)⟩,
    fun _ ht hrv hk => exec_reversion ht hrv hk, fun _ ht hlode => holdKeepExpiry_answers ht hlode, fun _ hslew ho hppm => slewDone_answers hslew ho hppm,
    fun h => congrArg Host.Outcome.next (regAccess_of_admitted h _), exec_irigbFrameRx_of_good age,
    fun h => congrArg Host.Outcome.next (if_neg (by simp [h])), exec_irigbLoss, exec_ppsPulse_of_out, exec_ppsPulse_of_in,
    fun h => ⟨exec_tickEnable_of_idle h, exec_tickEnable_of_running h, exec_tickDisable_of_free h,
      fun hen => congrArg Host.Outcome.next ((regAccess_of_admitted h _).trans (if_pos hen))⟩,
    fun h => congrArg Host.Outcome.next (regAccess_of_admitted h _)⟩

end Sys2Proof.Machine
end

section
/-! SUPPORT. What event tasks, recorder triggers and posts leave of time, its sources and the binary inputs (R366, R371, R482). -/

namespace Sys2Proof.Machine
/-- Time, the written settings, the sources of time and the binary inputs. -/
def State.clocks (s : State) : Nat × Nat × List (Nat × Word) × TimeSt × BiSt := (s.now, s.ltc, s.shadow, s.time, s.bi)
theorem clocks_of_storeFrame {s t : State} (h : storeFrame s = storeFrame t) : s.clocks = t.clocks := (congrArg State.clocks h :)
theorem clocks_of_postFrame {s t : State} (h : postFrame s = postFrame t) : s.clocks = t.clocks := (congrArg State.clocks h :)
@[simp] theorem clocks_drc (s : State) (x : DrcSt) : State.clocks { s with drc := x } = s.clocks := rfl
@[simp] theorem clocks_tsk (s : State) (x : TskSt) : State.clocks { s with tsk := x } = s.clocks := rfl
@[simp] theorem clocks_setLive (s : State) (a : Nat) (w : Word) : (setLive s a w).clocks = s.clocks := rfl
@[simp] theorem clocks_setEvt (s : State) (a i : Nat) : (setEvt s a i).clocks = s.clocks := rfl
@[simp] theorem clocks_markDirty (s : State) (a n : Nat) : (markDirty s a n).clocks = s.clocks := rfl
@[simp] theorem clocks_pokeBytes (s : State) (a : Nat) (bs : List Byte) : (pokeBytes s a bs).clocks = s.clocks := rfl
@[simp] theorem clocks_memError (s : State) (i : Nat) : (memError s i).clocks = s.clocks := rfl
@[simp] theorem clocks_violate (s : State) (t : Tag) (wr : Bool) (a kd : Nat) : (violate s t wr a kd).clocks = s.clocks := clocks_of_storeFrame (storeFrame_violate s t wr a kd)
@[simp] theorem clocks_wrBytes (s : State) (a : Nat) (bs : List Byte) : (wrBytes s a bs).clocks = s.clocks := clocks_of_storeFrame (storeFrame_wrBytes s a bs)
@[simp] theorem clocks_almPost (s : State) (sev src code : Nat) (pid : Option Nat) (info : List Word) : (almPost s sev src code pid info).clocks = s.clocks := clocks_of_postFrame (by simp)
@[simp] theorem clocks_hnqPost (s : State) (p cls src code info : Nat) : (hnqPost s p cls src code info).clocks = s.clocks := clocks_of_postFrame (by simp)
@[simp] theorem clocks_notifyAll (s : State) (mask : Word) (cls src code info : Nat) : (notifyAll s mask cls src code info).clocks = s.clocks := clocks_of_postFrame (by simp)
@[simp] theorem clocks_postOwner (s : State) (o : Option Nat) (cls src code info : Nat) : (postOwner s o cls src code info).clocks = s.clocks := clocks_of_postFrame (by simp)
@[simp] theorem clocks_dramStall (s : State) (a n : Nat) : (dramStall s a n).clocks = s.clocks := clocks_of_storeFrame (storeFrame_dramStall s a n)
@[simp] theorem clocks_ptrSum (s : State) (b : Nat) : (ptrSum s b).clocks = s.clocks := rfl

@[simp] theorem clocks_bump (s : State) (a hi lo n : Nat) : (bump s a hi lo n).clocks = s.clocks := rfl

@[simp] theorem clocks_guardFault (s : State) (i : Nat) : (guardFault s i).clocks = s.clocks := rfl

@[simp] theorem clocks_bump32 (s : State) (a : Nat) : (bump32 s a).clocks = s.clocks := rfl

@[simp] theorem clocks_memCe (s : State) (a : Nat) : (memCe s a).clocks = s.clocks := rfl

@[simp] theorem clocks_memUe (s : State) (a : Nat) : (memUe s a).clocks = s.clocks := by simp [memUe]

@[simp] theorem clocks_eccRead (s : State) (a n : Nat) : (eccRead s a n).1.clocks = s.clocks := by
  unfold eccRead
  exact foldl_frame (h := fun u : State => u.clocks) _ _ (fun t x => by split <;> simp) _

@[simp] theorem clocks_dmaAccess (s : State) (i : Nat) (t : Tag) (wr : Bool) (a n : Nat) : (dmaAccess s i t wr a n).1.clocks = s.clocks := by
  unfold dmaAccess
  dsimp only
  split
  · simp
  · split
    · simp
    · split <;> simp

@[simp] theorem clocks_setSeg (s : State) (i : Nat) (g : Seg) : (setSeg s i g).clocks = s.clocks := rfl

@[simp] theorem clocks_setCur (s : State) (c : Option Nat) : (setCur s c).clocks = s.clocks := rfl

@[simp] theorem clocks_drcRefused (s : State) : (drcRefused s).clocks = s.clocks := rfl

@[simp] theorem clocks_drcWrite (s : State) (a : Nat) (bs : List Byte) : (drcWrite s a bs).clocks = s.clocks := by
  unfold drcWrite
  dsimp only
  split <;> simp

@[simp] theorem clocks_drcBytes (s : State) (a n : Nat) : (drcBytes s a n).2.clocks = s.clocks := by
  unfold drcBytes
  dsimp only
  split <;> simp

@[simp] theorem clocks_drcCount (s : State) (i : Nat) : (drcCount s i).clocks = s.clocks := rfl

@[simp] theorem clocks_drcHeader (s : State) (i : Nat) : (drcHeader s i).clocks = s.clocks := by simp [drcHeader]

@[simp] theorem clocks_drcArm (s : State) : (drcArm s).clocks = s.clocks := by
  unfold drcArm
  dsimp only
  split
  · simp
  · split <;> simp

@[simp] theorem clocks_holdOff (s : State) : (holdOff s).clocks = s.clocks := by
  unfold holdOff
  dsimp only
  split <;> simp

@[simp] theorem clocks_drcClose (s : State) (i : Nat) : (drcClose s i).clocks = s.clocks := by simp [drcClose]

@[simp] theorem clocks_moveRows (s : State) (g : Nat) : (moveRows s g).clocks = s.clocks := by
  unfold moveRows
  dsimp only
  split
  · rfl
  · exact foldl_frame (h := fun u : State => u.clocks) _ _ (fun t x => by simp) _

@[simp] theorem clocks_drcTrigger (s : State) (ty ix t : Nat) (row : Word) : (drcTrigger s ty ix t row).clocks = s.clocks := by
  unfold drcTrigger
  dsimp only
  repeat' split
  all_goals simp

@[simp] theorem clocks_setTask (s : State) (t : Nat) (x : TaskSt) : (setTask s t x).clocks = s.clocks := rfl

@[simp] theorem clocks_setActQ (s : State) (k : Nat) (q : Q Unit) : (setActQ s k q).clocks = s.clocks := rfl

@[simp] theorem clocks_actIn (s : State) (k : Nat) : (actIn s k).clocks = s.clocks := rfl

@[simp] theorem clocks_taskDropped (s : State) (t : Nat) : (taskDropped s t).clocks = s.clocks := by
  unfold taskDropped
  dsimp only
  split <;> simp

@[simp] theorem clocks_unpend (s : State) (t : Nat) : (unpend s t).clocks = s.clocks := rfl

@[simp] theorem clocks_actPtrReset (s : State) (k : Nat) : (actPtrReset s k).clocks = s.clocks := by
  unfold actPtrReset
  refine (foldl_frame (h := fun u : State => u.clocks) _ _ (fun t x => by split <;> simp) _).trans ?_
  simp only [clocks_almPost, clocks_ptrSum, clocks_setEvt, clocks_setActQ]
  exact foldl_frame (h := fun u : State => u.clocks) _ _ (fun t x => by split <;> simp) _

@[simp] theorem clocks_actCheck (s : State) (k : Nat) : (actCheck s k).clocks = s.clocks := by
  unfold actCheck
  split <;> simp

@[simp] theorem clocks_noCore (s : State) (t : Nat) : (noCore s t).clocks = s.clocks := by
  unfold noCore
  dsimp only
  split
  · rfl
  · rw [clocks_postOwner, clocks_almPost]
    exact (clocks_tsk ..).trans (clocks_setEvt ..)

@[simp] theorem clocks_coreBack (s : State) (t : Nat) : (coreBack s t).clocks = s.clocks := rfl

@[simp] theorem clocks_activate (s : State) (t : Nat) (g n rt : Word) : (activate s t g n rt).clocks = s.clocks := by
  unfold activate
  dsimp only
  repeat' split
  all_goals simp

@[simp] theorem clocks_fireEvent (s : State) (src num : Nat) (edge : Option Bool) (p : Option Nat) : (fireEvent s src num edge p).clocks = s.clocks := by
  unfold fireEvent
  refine foldl_frame (h := fun u : State => u.clocks) _ _ (fun t x => ?_) _
  dsimp only
  split
  · rfl
  · rw [apply_ite (fun u : State => u.clocks), clocks_activate, ite_self]

end Sys2Proof.Machine
end

section
/-! SUPPORT. The queues of stamps (R183 to R187, R189, R194): what each operation leaves of its queue and of the rest. -/

namespace Sys2Proof.Machine

variable (s : State) (i : Nat)

theorem stampQ_setStampQ_self (x : StampQ) : stampQ (setStampQ s i x) i = x := mget_mset_self ..

/-- The state without the queues of stamps and what posts change. -/
def offStamps (s : State) : State := postFrame { s with bi := { s.bi with queues := [] } }

theorem offStamps_of_postFrame {s t : State} (h : postFrame s = postFrame t) : offStamps s = offStamps t := congrArg (fun u : State => { u with bi := { u.bi with queues := [] } }) h
theorem bi_of_postFrame {s t : State} (h : postFrame s = postFrame t) : s.bi = t.bi := (congrArg State.bi h :)
theorem stampQ_of_postFrame {s t : State} (h : postFrame s = postFrame t) : stampQ s i = stampQ t i := by rw [stampQ, bi_of_postFrame h, stampQ]

/-- The level's side after a change: a new side, an event and a count, or nothing. -/
theorem tqSide_cases : tqSide s i = s ∨ ∃ b, postFrame (tqSide s i) = postFrame (setStampQ s i { stampQ s i with side := b }) := by
  unfold tqSide
  dsimp only
  split
  · refine .inr ⟨true, ?_⟩
    split <;> simp
  · split
    · exact .inr ⟨false, rfl⟩
    · exact .inl rfl

theorem stampQ_tqSide : ∃ b, stampQ (tqSide s i) i = { stampQ s i with side := b } := by
  rcases tqSide_cases s i with h | ⟨b, h⟩
  · exact ⟨(stampQ s i).side, by rw [h]⟩
  · exact ⟨b, (stampQ_of_postFrame i h).trans (stampQ_setStampQ_self ..)⟩

theorem q_tqSide : (stampQ (tqSide s i) i).q = (stampQ s i).q := by
  obtain ⟨b, h⟩ := stampQ_tqSide s i
  rw [h]

theorem latch_tqSide : (stampQ (tqSide s i) i).latch = (stampQ s i).latch := by
  obtain ⟨b, h⟩ := stampQ_tqSide s i
  rw [h]

theorem offStamps_tqSide : offStamps (tqSide s i) = offStamps s := by
  rcases tqSide_cases s i with h | ⟨b, h⟩
  · rw [h]
  · exact (offStamps_of_postFrame h).trans rfl

/-- What a stamp that met the full queue in this cycle adds to it. -/
def regained (s : State) (x : StampQ) : List Stamp := match x.lost with | some (y, _) => if putNow s y then [y] else [] | none => []

theorem postFrame_setHnqs (f : State → Nat → Bool) (g : State → Nat → Hnq) (n : Nat) (s : State) :
    postFrame (upto n s fun p s => if f s p then setHnq s p (g s p) else s) = postFrame s :=
  postFrame_foldl _ (fun t p => by
    dsimp only
    split <;> simp) _ _

theorem putNow_setStampQ (x : StampQ) (e : Stamp) : putNow (setStampQ s i x) e = putNow s e := rfl

/-- The drops that a regained stamp takes back change only counts, events and notifications. -/
theorem postFrame_undrop (u : State) (first : Bool) :
    postFrame (if !first then u else
      let s := setLive u (tqEvt i) (liveOf u (tqEvt i) &&& ~~~4#32)
      if 4 ≤ i then s
      else upto 32 s fun p s =>
        if bit (forceOf s R.timeNotify) p then setHnq s p { hnqOf s p with q := qUnpush 256 (hnqOf s p).q fun x => x == hnqItem 2 0x03 0x21 i } else s) = postFrame u := by
  dsimp only
  split
  · rfl
  · split
    · rfl
    · exact postFrame_setHnqs (fun s p => bit (forceOf s R.timeNotify) p)
        (fun s p => { hnqOf s p with q := qUnpush 256 (hnqOf s p).q fun x => x == hnqItem 2 0x03 0x21 i }) 32 _

theorem setStampQ_setStampQ (x y : StampQ) : postFrame (setStampQ (setStampQ s i x) i y) = postFrame (setStampQ s i y) := by
  unfold setStampQ
  simp only [mset_mset]

/-- The stamp that met the full queue in this cycle enters it; else it is forgotten: of the rest only counts, events and
notifications change. -/
theorem postFrame_tqRegain {e : Stamp} {first : Bool} (h : (stampQ s i).lost = some (e, first)) : postFrame (tqRegain s i) =
    postFrame (setStampQ s i { stampQ s i with q := if putNow s e then qPush (tqCap i) (stampQ s i).q e else (stampQ s i).q, lost := none }) := by
  unfold tqRegain
  by_cases hput : putNow s e = true
  · simp only [h, putNow_setStampQ, hput, Bool.not_true, Bool.false_eq_true, if_false, if_true]
    refine (postFrame_undrop i _ first).trans ?_
    split
    · exact setStampQ_setStampQ ..
    · exact Eq.trans (b := postFrame (setStampQ (setStampQ s i _) i _)) rfl (setStampQ_setStampQ ..)
  · simp only [h, putNow_setStampQ, hput, Bool.not_false, Bool.false_eq_true, if_false, if_true]

theorem tqRegain_spec : (stampQ (tqRegain s i) i).q.items = (stampQ s i).q.items ++ regained s (stampQ s i) ∧
    (stampQ (tqRegain s i) i).latch = (stampQ s i).latch ∧ offStamps (tqRegain s i) = offStamps s := by
  unfold regained
  split
  next e first h =>
    have hf := postFrame_tqRegain s i h
    rw [stampQ_of_postFrame i hf, offStamps_of_postFrame hf, stampQ_setStampQ_self]
    refine ⟨?_, rfl, rfl⟩
    dsimp only
    split
    · rfl
    · exact (List.append_nil _).symm
  next h =>
    have hs : tqRegain s i = s := by simp only [tqRegain, h]
    rw [hs, List.append_nil]
    exact ⟨rfl, rfl, rfl⟩


theorem tqCheck_of_qOk (h : qOk (stampQ s i).q = true) : tqCheck s i = s := if_pos h

/-- A stamp that finds room joins the end of its queue. -/
theorem tqPut_of_room (e : Stamp) (hq : qOk (stampQ s i).q = true) (hroom : (stampQ s i).q.items.length < tqCap i) :
    (stampQ (tqPut s i e) i).q.items = (stampQ s i).q.items ++ [{ e with put := s.now }] := by
  unfold tqPut
  rw [tqCheck_of_qOk s i hq, if_pos hroom]
  rw [q_tqSide, stampQ_setStampQ_self]
  rfl

theorem offStamps_tqCheck : offStamps (tqCheck s i) = offStamps s := by
  unfold tqCheck
  split
  · rfl
  · unfold tqPtrReset
    refine (offStamps_tqSide ..).trans (Eq.trans (b := offStamps (setStampQ s i { stampQ s i with q := {}, latch := [] })) (offStamps_of_postFrame ?_) rfl)
    simp only [postFrame_notifyAll, postFrame_almPost, ptrSum, postFrame_setEvt]

theorem offStamps_tqPut (e : Stamp) : offStamps (tqPut s i e) = offStamps s := by
  unfold tqPut
  dsimp only
  refine Eq.trans ?_ (offStamps_tqCheck s i)
  generalize tqCheck s i = u
  split
  · exact (offStamps_tqSide ..).trans rfl
  · split
    · exact (offStamps_of_postFrame ((postFrame_setEvt ..).trans (postFrame_notifyAll ..))).trans rfl
    · rfl

/-- A read of POP0: the oldest stamp's words, and the queue without it. -/
theorem tqPop_spec {e : Stamp} {rest : List Stamp} (hq : qOk (stampQ s i).q = true) (hi : (stampQ s i).q.items = e :: rest) :
    (tqPop s i).bus = (stampWords i e).1 ∧ (stampQ (tqPop s i) i).latch = (stampWords i e).2 ∧
      (stampQ (tqPop s i) i).q.items = rest ++ regained s (stampQ s i) ∧ offStamps (setBus (tqPop s i) s.bus) = offStamps s := by
  have hpop : tqPop s i = setBus (tqSide (tqRegain (setStampQ s i { stampQ s i with q := qPop (tqCap i) (stampQ s i).q, latch := (stampWords i e).2 }) i) i)
      (stampWords i e).1 := by
    simp only [tqPop, tqCheck_of_qOk s i hq, hi]
  have hq1 := stampQ_setStampQ_self s i { stampQ s i with q := qPop (tqCap i) (stampQ s i).q, latch := (stampWords i e).2 }
  obtain ⟨hitems, hlatch, hoff⟩ := tqRegain_spec (setStampQ s i { stampQ s i with q := qPop (tqCap i) (stampQ s i).q, latch := (stampWords i e).2 }) i
  have hstamp (u : State) (w : Word) : stampQ (setBus u w) i = stampQ u i := rfl
  rw [hpop]
  refine ⟨rfl, ?_, ?_, ?_⟩
  · rw [hstamp, latch_tqSide, hlatch, hq1]
  · rw [hstamp, q_tqSide, hitems, hq1]
    simp only [qPop, hi, List.tail_cons]
    rfl
  · exact congrArg (fun u : State => { u with bus := s.bus }) ((offStamps_tqSide ..).trans (hoff.trans rfl : _ = offStamps s))

theorem tqPop_of_empty (hq : qOk (stampQ s i).q = true) (hi : (stampQ s i).q.items = []) :
    tqPop s i = setBus (setEvt (setStampQ s i { stampQ s i with latch := [] }) (tqEvt i) 3) 0#32 := by
  simp only [tqPop, tqCheck_of_qOk s i hq, hi]

theorem liveOf_notifyAll {a : Nat} (ha : OffPosts a) (mask : Word) (cls src code info : Nat) :
    liveOf (notifyAll s mask cls src code info) a = liveOf s a := by
  refine List.foldlRecOn (motive := fun t => liveOf t a = liveOf s a) _ _ rfl fun t ht p hp => ?_
  split
  · exact (liveOf_hnqPost ha (List.mem_range.mp hp) cls src code info).trans ht
  · exact ht

theorem fld_bumpFld_of_above (w : Word) {hi lo n hi' lo' : Nat} (hlt : hi' < lo) (hhi : lo < 32) : fld (bumpFld w hi lo n) hi' lo' = fld w hi' lo' := by
  refine Nat.eq_of_testBit_eq fun j => ?_
  rw [testBit_fld, testBit_fld]
  by_cases hj : j < hi' + 1 - lo'
  · rw [bumpFld, getLsbD_setFld w (by omega), if_neg (by omega)]
  · simp only [hj, decide_false, Bool.false_and]

/-- The queues that the model has: four of transmit stamps and one of the binary inputs. -/
theorem tqCnt_eq : tqCnt i = 0xF003022C + (if i < 4 then i * 0x40 else 0x210) := by
  unfold tqCnt
  split <;> simp [R.txqCnt, R.biqCnt]

theorem offPosts_tqCnt (hi : i ≤ 4) : OffPosts (tqCnt i) := by
  rw [OffPosts, tqCnt_eq i]
  simp only [R.almDrop01, R.almDrop23, R.almEvt, R.diagPtrSum]
  split <;> omega

theorem tqCnt_ne_tqEvt : tqCnt i ≠ tqEvt i := by
  unfold tqCnt tqEvt
  split <;> simp [R.txqCnt, R.biqCnt, R.txqEvt, R.biqEvt]

/-- The count of lost stamps stands beside the count of level events. -/
theorem lost_tqSide (hi : i ≤ 4) : fld (liveOf (tqSide s i) (tqCnt i)) 15 0 = fld (liveOf s (tqCnt i)) 15 0 := by
  have hbump (b : Bool) (e : Nat) : fld (liveOf (bump (setEvt (setStampQ s i { stampQ s i with side := b }) (tqEvt i) e) (tqCnt i) 23 16 1) (tqCnt i)) 15 0 =
      fld (liveOf s (tqCnt i)) 15 0 := by
    rw [bump, liveOf_setLive_self, fld_bumpFld_of_above _ (by decide) (by decide), liveOf_setEvt_of_ne (tqCnt_ne_tqEvt i)]
    rfl
  unfold tqSide
  dsimp only
  split
  · split
    · rw [liveOf_notifyAll _ (offPosts_tqCnt i hi)]
      exact hbump true 0
    · exact hbump true 0
  · split
    · exact hbump false 1
    · rfl

/-- FLUSH: the queue keeps what entered it in this cycle and counts the rest as lost. -/
theorem tqFlush_spec (hi : i ≤ 4) (hq : qOk (stampQ s i).q = true) :
    (stampQ (tqFlush s i) i).q.items = (stampQ s i).q.items.filter (putNow s) ∧ (stampQ (tqFlush s i) i).latch = [] ∧
      qOk (stampQ (tqFlush s i) i).q = true ∧ fld (liveOf (tqFlush s i) (tqCnt i)) 15 0 = min 0xFFFF (fld (liveOf s (tqCnt i)) 15 0 +
        ((stampQ s i).q.items.length - ((stampQ s i).q.items.filter (putNow s)).length)) := by
  unfold tqFlush
  rw [tqCheck_of_qOk s i hq]
  dsimp only
  rw [q_tqSide, latch_tqSide, stampQ_setStampQ_self, lost_tqSide _ i hi]
  refine ⟨rfl, rfl, ?_, ?_⟩
  · simp only [qOk, Bool.and_eq_true, beq_self_eq_true, true_and] at hq ⊢
    exact hq.2
  · exact (congrArg (fld · 15 0) (liveOf_setLive_self s (tqCnt i) _)).trans (fld_bumpFld _ (by decide))

end Sys2Proof.Machine
end

section
/-! PROOF. The queues of stamps and the binary inputs (O41; R183 to R186, R188 to R190, R194). -/

namespace Sys2Proof.Machine

theorem popsStamps (s : State) (i : Nat) (hq : qOk (stampQ s i).q = true) :
    (∀ e rest, (stampQ s i).q.items = e :: rest → (tqPop (accessed s) i).bus = (stampWords i e).1 ∧
      (stampQ (tqPop (accessed s) i) i).latch = (stampWords i e).2 ∧
      (stampQ (tqPop (accessed s) i) i).q.items = rest ++ regained s (stampQ s i) ∧ (tqPop (accessed s) i).shadow = s.shadow ∧
      (tqPop (accessed s) i).force = s.force ∧ (tqPop (accessed s) i).mem = s.mem) ∧
    ((stampQ s i).q.items = [] → tqPop (accessed s) i =
      { setEvt (setStampQ (accessed s) i { stampQ s i with latch := [] }) (tqEvt i) 3 with bus := 0#32 }) := by
  refine ⟨fun e rest hi => ?_, fun hi => tqPop_of_empty (accessed s) i hq hi⟩
  obtain ⟨hbus, hlatch, hitems, hoff⟩ := tqPop_spec (accessed s) i hq hi
  exact ⟨hbus, hlatch, hitems, (congrArg State.shadow hoff :), (congrArg State.force hoff :), (congrArg State.mem hoff :)⟩

variable (s : State) (i : Nat)

theorem pinOf_setPin_self (x : BiPin) : pinOf (setPin s i x) i = x := mget_mset_self ..

/-- The mark of an edge leaves time, the pins and the queues. -/
theorem biMark_frame : pinOf (biMark s i) = pinOf s ∧ stampQ (biMark s i) = stampQ s ∧ (biMark s i).now = s.now ∧ (biMark s i).ltc = s.ltc ∧
    (biMark s i).time = s.time ∧ nextMer (biMark s i) = nextMer s ∧ (biMark s i).force = s.force := by
  unfold biMark
  dsimp only
  split
  · exact ⟨rfl, rfl, rfl, rfl, rfl, rfl, rfl⟩
  · exact ⟨rfl, rfl, rfl, rfl, rfl, rfl, rfl⟩

theorem bit_or_word_two_pow (w : Word) (hi : i < 32) : bit (w ||| word (2 ^ i)) i = true := by
  rw [bit, BitVec.getLsbD_or, word, BitVec.getLsbD_ofNat]
  simp [hi, Nat.testBit_two_pow_self]

theorem biMark_marks (hi : i < 32) : if s.time.tickRun ∧ nextMer s ≤ s.ltc then bit (biMark s i).bi.nextEdges i = true
    else bit (biMark s i).bi.edges i = true := by
  unfold biMark
  dsimp only
  split
  · exact bit_or_word_two_pow i _ hi
  · exact bit_or_word_two_pow i _ hi

theorem parts_of_clocks {r w : State} (h : r.clocks = w.clocks) : r.now = w.now ∧ r.ltc = w.ltc ∧ r.time = w.time ∧ r.bi = w.bi := by
  simp only [State.clocks, Prod.mk.injEq] at h
  exact ⟨h.1, h.2.1, h.2.2.2.1, h.2.2.2.2⟩

theorem nextMer_congr {r w : State} (htime : r.time = w.time) (hshadow : r.shadow = w.shadow) : nextMer r = nextMer w := by
  unfold nextMer nextTick fsOf shadowOf
  rw [htime, hshadow]

theorem nextMer_of_clocks {r w : State} (h : r.clocks = w.clocks) : nextMer r = nextMer w :=
  nextMer_congr (congrArg (fun x => x.2.2.2.1) h) (congrArg (fun x => x.2.2.1) h)

/-- The edge of an input is marked in the word of the tick it falls in. -/
def EdgeMarked (v : State) (i : Nat) : Prop :=
  if v.time.tickRun ∧ nextMer v ≤ v.ltc then bit v.bi.nextEdges i = true else bit v.bi.edges i = true

theorem edgeMarked_of_offStamps {v w : State} (h : offStamps v = offStamps w) (hw : EdgeMarked w i) : EdgeMarked v i := by
  have htime : v.time = w.time := (congrArg State.time h :)
  have hmer := nextMer_congr htime (congrArg State.shadow h :)
  have hltc : v.ltc = w.ltc := (congrArg State.ltc h :)
  have hedges : v.bi.edges = w.bi.edges := (congrArg (fun u : State => u.bi.edges) h :)
  have hnext : v.bi.nextEdges = w.bi.nextEdges := (congrArg (fun u : State => u.bi.nextEdges) h :)
  rwa [EdgeMarked, htime, hmer, hltc, hedges, hnext]

/-- A pin whose edge is recorded. -/
def recorded (x : BiPin) : BiPin := { x with level := x.raw, wait := none }

/-- The state once the edge that waits until `due` is marked, its stamp still to be queued. -/
def edgeMarked (s : State) (i due : Nat) : State := biMark (setPin (reach s due) i (recorded (pinOf s i))) i

theorem edgeMarked_spec (hi : i < 32) (due : Nat) : pinOf (edgeMarked s i due) i = recorded (pinOf s i) ∧ due ≤ (edgeMarked s i due).now ∧
    stampQ (edgeMarked s i due) = stampQ s ∧ forceOf (edgeMarked s i due) = forceOf s ∧
    (if (edgeMarked s i due).time.tickRun ∧ nextMer (edgeMarked s i due) ≤ (edgeMarked s i due).ltc then bit (edgeMarked s i due).bi.nextEdges i = true
      else bit (edgeMarked s i due).bi.edges i = true) := by
  obtain ⟨hpin, hq, hnow, hltc, htime, hmer, hforce⟩ := biMark_frame (setPin (reach s due) i (recorded (pinOf s i))) i
  have hmark := biMark_marks (setPin (reach s due) i (recorded (pinOf s i))) i hi
  rw [← hltc, ← htime, ← hmer] at hmark
  refine ⟨?_, ?_, hq, ?_, hmark⟩
  · rw [edgeMarked, hpin, pinOf_setPin_self]
  · exact hnow ▸ le_now_reach due
  · rw [← forceOf_reach (s := s) due, edgeMarked]
    unfold forceOf
    rw [hforce]
    rfl

/-- What a recorded edge leaves once its stamp is queued: its event tasks and a trigger change no clock and no input. -/
theorem clocks_biRecord {t due : Nat} (h : (pinOf s i).wait = some (t, due)) : (biRecord s i).clocks = State.clocks (
    if bit (forceOf (edgeMarked s i due) R.biEdgeEn) (if (pinOf s i).raw then i else 16 + i) then
      tqPut (edgeMarked s i due) 4 { id := i, rise := (pinOf s i).raw, at_ := t * 256 }
    else edgeMarked s i due) := by
  unfold biRecord
  simp only [h]
  rw [apply_ite State.clocks, clocks_drcTrigger, ite_self, clocks_fireEvent]
  rfl

theorem biRecord_spec (hi : i < 16) {t due : Nat} (h : (pinOf s i).wait = some (t, due)) :
    pinOf (biRecord s i) i = { pinOf s i with level := (pinOf s i).raw, wait := none } ∧ due ≤ (biRecord s i).now ∧
      (if (biRecord s i).time.tickRun ∧ nextMer (biRecord s i) ≤ (biRecord s i).ltc then bit (biRecord s i).bi.nextEdges i = true
        else bit (biRecord s i).bi.edges i = true) ∧
      (qOk (stampQ s 4).q = true → (stampQ s 4).q.items.length < 256 → (stampQ (biRecord s i) 4).q.items = (stampQ s 4).q.items ++
        (if bit (forceOf s R.biEdgeEn) (if (pinOf s i).raw then i else 16 + i) then
          [{ id := i, rise := (pinOf s i).raw, at_ := t * 256, put := (biRecord s i).now }] else [])) := by
  have hclocks := clocks_biRecord s i h
  obtain ⟨hpin, hdue, hq, hforce, hmark⟩ := edgeMarked_spec s i (by omega) due
  rw [hforce] at hclocks
  have hmer := nextMer_of_clocks hclocks
  obtain ⟨hnow, hltc, htime, hbi⟩ := parts_of_clocks hclocks
  have hr (n : Nat) (u : State) (h : (biRecord s i).bi = u.bi) : pinOf (biRecord s i) n = pinOf u n ∧ stampQ (biRecord s i) n = stampQ u n := by
    simp only [pinOf, stampQ, h, and_self]
  rw [(hr i _ hbi).1, (hr 4 _ hbi).2, hmer, hltc, htime, hbi, hnow, ← hq]
  change pinOf _ i = recorded (pinOf s i) ∧ _
  clear hr hmer hbi hnow hltc htime hclocks hforce
  generalize edgeMarked s i due = u at hpin hdue hq hmark ⊢
  by_cases hen : bit (forceOf s R.biEdgeEn) (if (pinOf s i).raw then i else 16 + i) = true
  · rw [if_pos hen, if_pos hen]
    have hput := offStamps_tqPut u 4 { id := i, rise := (pinOf s i).raw, at_ := t * 256 }
    have hnow : (tqPut u 4 { id := i, rise := (pinOf s i).raw, at_ := t * 256 }).now = u.now := (congrArg State.now hput :)
    have hpins : pinOf (tqPut u 4 { id := i, rise := (pinOf s i).raw, at_ := t * 256 }) i = pinOf u i := (congrArg (fun v : State => pinOf v i) hput :)
    refine ⟨hpins.trans hpin, hnow ▸ hdue, ?_, fun hok hroom => ?_⟩
    · exact edgeMarked_of_offStamps i hput hmark
    · rw [tqPut_of_room u 4 _ hok hroom, hnow]
  · rw [if_neg hen, if_neg hen]
    exact ⟨hpin, hdue, hmark, fun _ _ => (List.append_nil _).symm⟩

theorem biPinEdge_of_idle (i : Fin 16) (v : Bool) (ns : Fin 4) (h : (pinOf s i).wait = none) : exec (.biPinEdge i v ns) s =
    .next (if v = (pinOf s i).raw then s else setPin s i { pinOf s i with raw := v, wait := some (s.ltc + ns, s.now + biFilterNs s i) }) := by
  change Host.Outcome.next _ = Host.Outcome.next _
  congr 1
  simp only [h, Option.isSome_none, Bool.false_eq_true, if_false]

theorem biPinEdge_of_waiting (i : Fin 16) (v : Bool) (ns : Fin 4) {t due : Nat} (h : (pinOf s i).wait = some (t, due)) (hdue : s.now < due) :
    exec (.biPinEdge i v ns) s = .next (if v = (pinOf s i).raw then s else setPin s i { pinOf s i with raw := v, wait := none }) := by
  change Host.Outcome.next _ = Host.Outcome.next _
  congr 1
  simp only [h, if_neg (by omega : ¬due ≤ s.now), Option.isSome_some, if_true]

/-- Settles O41: a queue's operation by its checked pointers, a pin's edge by whether one waits. -/
theorem stampQueuesAndBinaryInputs : Obligations.StampQueuesAndBinaryInputs := by
  unfold Obligations.StampQueuesAndBinaryInputs
  intro a m i v ns s u pops flushes p
  have hpop (c : Instr) (n k : Nat) (hadm : admitted s a k false) (hc : exec c s = .next (regAccess s a k false fun s => tqPop s n)) :
      pops c n (setStampQ u n { stampQ s n with latch := [] }) := by
    intro hq
    rw [hc, regAccess_of_admitted hadm]
    obtain ⟨hsome, hnone⟩ := popsStamps s n hq
    exact ⟨fun e rest hi => ⟨_, rfl, hsome e rest hi⟩, fun hi => congrArg Host.Outcome.next (hnone hi)⟩
  have hflush (c : Instr) (n k : Nat) (hn : n ≤ 4) (hadm : admitted s a k true)
      (hc : exec c s = .next (regAccess s a k true fun s => tqFlush s n)) : flushes c n := by
    intro hq
    rw [hc, regAccess_of_admitted hadm]
    exact ⟨_, rfl, tqFlush_spec (accessed s) n hn hq⟩
  refine ⟨fun h => hpop _ _ _ h rfl, fun h => hpop _ _ _ h rfl, fun h => hflush _ _ _ (by omega) h rfl, fun h => hflush _ _ _ (by omega) h rfl,
    fun hw hne => ?_, fun heq hw => ?_, fun t due hw hdue => ⟨fun hne => ?_, fun heq => ?_⟩, fun hw => ?_, fun t due hw => ?_⟩
  · rw [biPinEdge_of_idle s i v ns hw, if_neg hne]
  · rw [biPinEdge_of_idle s i v ns hw, if_pos heq]
  · rw [biPinEdge_of_waiting s i v ns hw hdue, if_neg hne]
  · rw [biPinEdge_of_waiting s i v ns hw hdue, if_pos heq]
  · refine congrArg Host.Outcome.next ?_
    unfold biRecord
    simp only [show (pinOf s i).wait = none from hw]
  · exact ⟨_, rfl, biRecord_spec s i i.isLt hw⟩

end Sys2Proof.Machine
end

section
/-! SUPPORT. What a block's read leaves (R36, R155), and the frames of a port's state under posts. -/

namespace Sys2Proof.Machine

variable (s : State)

@[simp] theorem storeFrame_memCe (a : Nat) : storeFrame (memCe s a) = storeFrame s := rfl

@[simp] theorem storeFrame_memUe (a : Nat) : storeFrame (memUe s a) = storeFrame s :=
  storeFrame_eq_of_postFrame ((postFrame_notifyAll ..).trans ((postFrame_almPost ..).trans rfl))

@[simp] theorem storeFrame_eccRead (a n : Nat) : storeFrame (eccRead s a n).1 = storeFrame s := by
  unfold eccRead
  refine foldl_frame (h := storeFrame) _ _ (fun t x => ?_) _
  split
  · rfl
  · exact storeFrame_memCe ..
  · exact storeFrame_memUe ..

@[simp] theorem storeFrame_dmaAccess (i : Nat) (t : Tag) (wr : Bool) (a n : Nat) : storeFrame (dmaAccess s i t wr a n).1 = storeFrame s := by
  unfold dmaAccess
  dsimp only
  split
  · simp
  · split
    · simp
    · split <;> simp

@[simp] theorem storeFrame_dmaRead (i : Nat) (t : Tag) (a n : Nat) : storeFrame (dmaRead s i t a n).2 = storeFrame s := storeFrame_dmaAccess ..

theorem net_of_storeFrame {s t : State} (h : storeFrame s = storeFrame t) : s.net = t.net := (congrArg State.net h :)
theorem macOf_of_storeFrame {s t : State} (h : storeFrame s = storeFrame t) : macOf s = macOf t := by
  funext m
  rw [macOf, net_of_storeFrame h, macOf]
theorem shadowOf_of_storeFrame {s t : State} (h : storeFrame s = storeFrame t) : shadowOf s = shadowOf t := by
  funext a
  have hshadow : s.shadow = t.shadow := (congrArg State.shadow h :)
  rw [shadowOf, hshadow, shadowOf]

@[simp] theorem postFrame_macNote (m cls code info : Nat) : postFrame (macNote s m cls code info) = postFrame s := postFrame_notifyAll ..

theorem macOf_setMac_self (m : Nat) (x : MacSt) : macOf (setMac s m x) m = x := mget_mset_self ..

theorem rxRing_setRxRing_self (m n : Nat) (r : Ring) : rxRing (setRxRing s m n r) m n = r := by
  rw [rxRing, setRxRing, macOf_setMac_self]
  exact mget_mset_self ..
theorem txRing_setTxRing_self (m n : Nat) (r : Ring) : txRing (setTxRing s m n r) m n = r := by
  rw [txRing, setTxRing, macOf_setMac_self]
  exact mget_mset_self ..

/-- The registers of the ports stand apart from those that posts count in. -/
theorem offPosts_macEvt (m : Fin 5) : OffPosts (R.macEvt m) := by
  simp only [OffPosts, R.macEvt, R.almDrop01, R.almDrop23, R.almEvt, R.diagPtrSum]
  omega

theorem offPosts_rxrCnt (m : Fin 5) (n : Fin 8) : OffPosts (R.rxrCnt m n) := by
  simp only [OffPosts, R.rxrCnt, R.almDrop01, R.almDrop23, R.almEvt, R.diagPtrSum]
  omega

theorem evt_notifyAll {a : Nat} (ha : OffPosts a) (mask : Word) (cls src code info i : Nat) :
    evt (notifyAll s mask cls src code info) a i = evt s a i := by
  rw [evt, liveOf_notifyAll s ha, evt]

theorem evt_almPost {a : Nat} (ha : OffPosts a) (sev src code : Nat) (pid : Option Nat) (info : List Word) (i : Nat) :
    evt (almPost s sev src code pid info) a i = evt s a i := by
  rw [evt, liveOf_almPost ha, evt]

end Sys2Proof.Machine
end

section
/-! SUPPORT. The state of a link (R198) and of a ring (R214, R223) after their commands. -/

namespace Sys2Proof.Machine

variable (s : State) (m : Fin 5)

/-- The conditions of a link that is up (R198). -/
def linkHolds (s : State) (m : Nat) (x : MacSt) : Bool :=
  x.blockLock && (x.fecLock || fld (shadowOf s (R.macCfg m)) 25 24 == 0) && !x.localFault && !x.remoteFault

/-- A port's state once LINK has followed its conditions. -/
def linked (s : State) (m : Nat) (x : MacSt) : MacSt :=
  let v := linkHolds s m x
  { x with link := v, upAt := if v && !x.link then s.now else x.upAt, downAt := if x.link && !v then s.now else x.downAt }

theorem linkUpdate_of_same (h : linkHolds s m (macOf s m) = (macOf s m).link) : linkUpdate s m = s := if_pos h

theorem linked_eq_of_change {x : MacSt} (h : linkHolds s m x ≠ x.link) : linked s m x =
    { x with link := linkHolds s m x, upAt := if linkHolds s m x then s.now else x.upAt, downAt := if linkHolds s m x then x.downAt else s.now } := by
  unfold linked
  generalize linkHolds s m x = v at h ⊢
  obtain ⟨blk, fec, lf, rf, ma, los, tf, link⟩ := x
  cases v
  · cases link
    · exact absurd rfl h
    · rfl
  · cases link
    · rfl
    · exact absurd rfl h

/-- A change of LINK: the port's new state, the event, the record and the notice. -/
theorem linkUpdate_of_change (h : linkHolds s m (macOf s m) ≠ (macOf s m).link) :
    let v := linkHolds s m (macOf s m)
    let t := setMac s m (linked s m (macOf s m))
    let c := if v then 0x11 else 0x10
    let i := b2n (v && portSlow t m) 0
    linkUpdate s m = macNote (almPost (setEvt t (R.macEvt m) (if v then 0 else 1)) 2 (4 + m) c none [word i]) m (if v then 2 else 1) c i := by
  rw [linked_eq_of_change s m h]
  exact if_neg h

theorem linkUpdate_frame : macOf (linkUpdate s m) m = linked s m (macOf s m) ∧ (linkUpdate s m).mem = s.mem ∧ (linkUpdate s m).shadow = s.shadow := by
  by_cases h : linkHolds s m (macOf s m) = (macOf s m).link
  · rw [linkUpdate_of_same s m h]
    refine ⟨?_, rfl, rfl⟩
    simp [linked, h]
  · have hf : postFrame (linkUpdate s m) = postFrame (setMac s m (linked s m (macOf s m))) := by
      rw [linkUpdate_of_change s m h]
      simp
    refine ⟨?_, (congrArg State.mem hf :), (congrArg State.shadow hf :)⟩
    rw [macOf_of_storeFrame (storeFrame_eq_of_postFrame hf), macOf_setMac_self]

theorem evt_linkUpdate (h : linkHolds s m (macOf s m) ≠ (macOf s m).link) :
    evt (linkUpdate s m) (R.macEvt m) (if linkHolds s m (macOf s m) then 0 else 1) = true := by
  rw [linkUpdate_of_change s m h, macNote, evt_notifyAll _ (offPosts_macEvt m), evt_almPost _ (offPosts_macEvt m)]
  refine evt_setEvt_self ?_
  split <;> decide

/-! The rings. -/

theorem setShadow_frame (a b : Nat) (w : Word) (h : b ≠ a) : shadowOf (setShadow s a w) b = shadowOf s b := by
  rw [shadowOf_setShadow, if_neg h]

/-- The level's side after a change: a new side, an event and a count, or nothing. -/
theorem rxSide_cases (n : Nat) : rxSide s m n = s ∨ ∃ b, postFrame (rxSide s m n) = postFrame (setRxRing s m n { rxRing s m n with side := b }) := by
  unfold rxSide
  dsimp only
  split
  · exact .inr ⟨true, by simp⟩
  · split
    · exact .inr ⟨false, rfl⟩
    · exact .inl rfl

theorem rxRing_rxSide (n : Nat) : ∃ b, rxRing (rxSide s m n) m n = { rxRing s m n with side := b } := by
  rcases rxSide_cases s m n with h | ⟨b, h⟩
  · exact ⟨(rxRing s m n).side, by rw [h]⟩
  · refine ⟨b, ?_⟩
    rw [rxRing, macOf_of_storeFrame (storeFrame_eq_of_postFrame h), ← rxRing, rxRing_setRxRing_self]

theorem rd_rxSide (n : Nat) : (rxRing (rxSide s m n) m n).rd = (rxRing s m n).rd := by
  obtain ⟨b, h⟩ := rxRing_rxSide s m n
  rw [h]
theorem wr_rxSide (n : Nat) : (rxRing (rxSide s m n) m n).wr = (rxRing s m n).wr := by
  obtain ⟨b, h⟩ := rxRing_rxSide s m n
  rw [h]
theorem ringOk_rxSide (n : Nat) : ringOk (rxRing (rxSide s m n) m n) = ringOk (rxRing s m n) := by
  obtain ⟨b, h⟩ := rxRing_rxSide s m n
  rw [h]
  rfl

theorem shadowOf_rxSide (n : Nat) : shadowOf (rxSide s m n) = shadowOf s := by
  rcases rxSide_cases s m n with h | ⟨b, h⟩
  · rw [h]
  · exact (shadowOf_of_storeFrame (storeFrame_eq_of_postFrame h)).trans rfl

/-- The count of flushed beats stands beside the count of level events. -/
theorem flushed_rxSide (n : Fin 8) : fld (liveOf (rxSide s m n) (R.rxrCnt m n)) 23 0 = fld (liveOf s (R.rxrCnt m n)) 23 0 := by
  have hne : R.rxrCnt m n ≠ R.rxrEvt m n := by
    simp only [R.rxrCnt, R.rxrEvt]
    omega
  have hbump (b : Bool) (e : Nat) : fld (liveOf (bump (setEvt (setRxRing s m n { rxRing s m n with side := b }) (R.rxrEvt m n) e) (R.rxrCnt m n) 31 24 1)
      (R.rxrCnt m n)) 23 0 = fld (liveOf s (R.rxrCnt m n)) 23 0 := by
    rw [bump, liveOf_setLive_self, fld_bumpFld_of_above _ (by decide) (by decide), liveOf_setEvt_of_ne hne]
    rfl
  unfold rxSide
  dsimp only
  split
  · rw [macNote, liveOf_notifyAll _ (offPosts_rxrCnt m n)]
    exact hbump true 0
  · split
    · exact hbump false 1
    · rfl

theorem rxCheck_of_ok {n : Nat} (h : ringOk (rxRing s m n) = true) : rxCheck s m n = s := if_pos h
theorem txCheck_of_ok {n : Nat} (h : ringOk (txRing s m n) = true) : txCheck s m n = s := if_pos h

/-- A flush of a receive ring whose pointers agree. -/
theorem ringFlush_rx (n : Fin 8) (h : ringOk (rxRing s m n) = true) :
    let t := ringFlush s m n false
    (rxRing t m n).rd = (rxRing s m n).wr ∧ (rxRing t m n).wr = (rxRing s m n).wr ∧ ringOk (rxRing t m n) = true ∧ shadowOf t = shadowOf s ∧
      fld (liveOf t (R.rxrCnt m n)) 23 0 = min 0xFFFFFF (fld (liveOf s (R.rxrCnt m n)) 23 0 + ringLevel (shadowOf s (R.rxrCfg m n)) (rxRing s m n)) := by
  unfold ringFlush
  simp only [Bool.false_eq_true, if_false]
  rw [rxCheck_of_ok s m h, rd_rxSide, wr_rxSide, ringOk_rxSide, shadowOf_rxSide, flushed_rxSide, rxRing_setRxRing_self]
  refine ⟨rfl, rfl, ?_, rfl, ?_⟩
  · simp only [ringOk, Bool.and_eq_true, beq_self_eq_true, and_true] at h ⊢
    exact h.1
  · exact (congrArg (fld · 23 0) (liveOf_setLive_self s (R.rxrCnt m n) _)).trans (fld_bumpFld _ (by decide))

/-- A flush of a transmit ring whose pointers agree. -/
theorem ringFlush_tx (n : Fin 2) (h : ringOk (txRing s m n) = true) :
    let t := ringFlush s m n true
    txRing t m n = { txRing s m n with rd := (txRing s m n).wr, rdC := (txRing s m n).wr, skip := true } ∧ shadowOf t = shadowOf s ∧
      fld (liveOf t (R.txrCnt m n)) 23 0 = min 0xFFFFFF (fld (liveOf s (R.txrCnt m n)) 23 0 + ringLevel (shadowOf s (R.txrCfg m n)) (txRing s m n)) := by
  unfold ringFlush
  simp only [if_true]
  rw [txCheck_of_ok s m h, txRing_setTxRing_self]
  exact ⟨rfl, rfl, (congrArg (fld · 23 0) (liveOf_setLive_self s (R.txrCnt m n) _)).trans (fld_bumpFld _ (by decide))⟩

theorem txRing_bump (u : State) (a hi lo k n : Nat) : txRing (bump u a hi lo k) m n = txRing u m n := rfl
theorem txRing_setEvt (u : State) (a i n : Nat) : txRing (setEvt u a i) m n = txRing u m n := rfl

theorem txRing_txBeat (n p : Nat) : txRing (txBeat s m n p).2 m n = txRing s m n := by
  have hmac := macOf_of_storeFrame (storeFrame_dmaRead s (4 + m) (txTag s m n) (txAddr s m n p) 32)
  rw [txRing, txBeat, hmac, txRing]

/-- The head's search for a good descriptor moves the read pointer alone. -/
theorem txHead_wr (n fuel : Nat) (s : State) : (txRing (txHead m n fuel s) m n).wr = (txRing s m n).wr ∧
    (txRing (txHead m n fuel s) m n).wrC = (txRing s m n).wrC := by
  induction fuel generalizing s with
  | zero => exact ⟨rfl, rfl⟩
  | succ fuel ih =>
    have hbeat := txRing_txBeat s m n (txRing s m n).rd
    unfold txHead
    dsimp only
    split
    · exact ⟨rfl, rfl⟩
    · split
      · rw [txRing_setTxRing_self, hbeat]
        exact ⟨rfl, rfl⟩
      · split
        · rw [(ih _).1, (ih _).2, txRing_setTxRing_self, hbeat]
          exact ⟨rfl, rfl⟩
        · rw [(ih _).1, (ih _).2, txRing_setTxRing_self]
          split
          · rw [txRing_bump, hbeat]
            exact ⟨rfl, rfl⟩
          · rw [txRing_setEvt, txRing_bump, hbeat]
            exact ⟨rfl, rfl⟩

/-- A transmit ring whose write pointer is set: the rest of its head's search moves the read pointer alone. -/
theorem txClean_wr (n : Fin 2) (h : ringOk (txRing s m n) = true) : (txRing (txClean s m n) m n).wr = (txRing s m n).wr ∧
    (txRing (txClean s m n) m n).wrC = (txRing s m n).wrC := by
  unfold txClean
  rw [txCheck_of_ok s m h]
  dsimp only
  split
  · exact txHead_wr ..
  · exact ⟨rfl, rfl⟩

theorem txClean_of_off (n : Fin 2) (h : ringOk (txRing s m n) = true) (hoff : bit (shadowOf s (R.txrCtrl m n)) 0 = false) : txClean s m n = s := by
  unfold txClean
  rw [txCheck_of_ok s m h]
  exact if_neg (by simp [hoff])

end Sys2Proof.Machine
end

section
/-! PROOF. Links, cages, ports, two-wire transactions and rings (O42; R198 to R200, R214, R223, R226). -/

namespace Sys2Proof.Machine

variable (s : State) (m : Fin 5)

/-- LINK follows the conditions a port has been given. -/
theorem linkUpdate_setMac (x : MacSt) : macOf (linkUpdate (setMac s m x) m) m = linked s m x ∧ (linkUpdate (setMac s m x) m).mem = s.mem ∧
    (linkUpdate (setMac s m x) m).shadow = s.shadow ∧
    (linkHolds s m x ≠ x.link → evt (linkUpdate (setMac s m x) m) (R.macEvt m) (if linkHolds s m x then 0 else 1) = true) := by
  obtain ⟨hmac, hmem, hshadow⟩ := linkUpdate_frame (setMac s m x) m
  have hevt := evt_linkUpdate (setMac s m x) m
  rw [macOf_setMac_self] at hmac hevt
  exact ⟨hmac, hmem, hshadow, hevt⟩

theorem linkUp_spec (v : Bool) : let x := macOf s m
    Answers (exec (.linkUp m v) s) fun t =>
      macOf t m = { x with blockLock := true, fecLock := true, localFault := false, remoteFault := false, rxLos := false, slow := v, link := true
                           upAt := if x.link then x.upAt else s.now } ∧
        (x.link = false → evt t (R.macEvt m) 0 = true) ∧ t.mem = s.mem ∧ t.shadow = s.shadow := by
  intro x
  obtain ⟨hmac, hmem, hshadow, hevt⟩ := linkUpdate_setMac s m
    { x with blockLock := true, fecLock := true, localFault := false, remoteFault := false, rxLos := false, slow := v }
  refine ⟨_, rfl, hmac.trans ?_, fun hoff => hevt (by simp [linkHolds, hoff]), hmem, hshadow⟩
  simp only [linked, linkHolds, Bool.true_or, Bool.and_true, Bool.not_false, Bool.true_and, Bool.not_true, Bool.and_false, Bool.false_eq_true, if_false]
  cases hx : x.link <;> simp

/-- The condition a port loses (R198). -/
theorem lostCondition (x : MacSt) (why : Fin 4) (v : Bool) :
    (let y := { x with rxLos := v }
     match why.val with
      | 0 => { y with blockLock := false }
      | 1 => { y with fecLock := false }
      | 2 => { y with localFault := true }
      | _ => { y with remoteFault := true }) =
    { x with rxLos := v, blockLock := x.blockLock && why != 0, fecLock := x.fecLock && why != 1
             localFault := x.localFault || why == 2, remoteFault := x.remoteFault || why == 3 } := by
  match why with
  | 0 => simp
  | 1 => simp
  | 2 => simp
  | 3 => simp

theorem linkDown_spec (why : Fin 4) (v : Bool) : let x := macOf s m
    let x' := { x with rxLos := v, blockLock := x.blockLock && why != 0, fecLock := x.fecLock && why != 1
                       localFault := x.localFault || why == 2, remoteFault := x.remoteFault || why == 3 }
    let up := x'.blockLock && (x'.fecLock || decide (fld (shadowOf s (R.macCfg m)) 25 24 = 0)) && !x'.localFault && !x'.remoteFault
    Answers (exec (.linkDown m why v) s) fun t => macOf t m = { x' with link := up, upAt := if up && !x.link then s.now else x.upAt
                                                                        downAt := if x.link && !up then s.now else x.downAt } ∧
      (x.link = true → up = false → evt t (R.macEvt m) 1 = true) ∧ t.mem = s.mem ∧ t.shadow = s.shadow := by
  intro x x' up
  obtain ⟨hmac, hmem, hshadow, hevt⟩ := linkUpdate_setMac s m x'
  have hx : exec (.linkDown m why v) s = .next (linkUpdate (setMac s m x') m) :=
    congrArg (fun y => Host.Outcome.next (linkUpdate (setMac s m y) m)) (lostCondition x why v)
  have hup : linkHolds s m x' = up := rfl
  rw [hup] at hevt
  rw [hx]
  refine ⟨_, rfl, hmac.trans ?_, fun hon hdown => ?_, hmem, hshadow⟩
  · rw [linked, hup]
  · rw [hdown] at hevt
    exact hevt (by simp [x', hon])

theorem portSwitches (a : Acc) (v : Bool) (h : admitted s a (R.macCtrl m) true) :
    let u := accessed s
    let x := macOf s m
    (macOn s m = true → exec (.macEnable a m v) s = .next (setShadow u (R.macCtrl m) (if v then 3#32 else 1#32)) ∧
      exec (.macDisable a m v) s = .next (setShadow (setMac u m { x with offAt := s.now }) (R.macCtrl m) (if v then 2#32 else 0#32))) ∧
    (macOn s m = false → exec (.macDisable a m v) s = .next (setShadow u (R.macCtrl m) (if v then 2#32 else 0#32)) ∧
      exec (.macEnable a m v) s = .next (if macCfgOk s m = true
        then setShadow (setMac u m { x with onAt := s.now }) (R.macCtrl m) (if v then 3#32 else 1#32)
        else setEvt (setShadow u (R.macCtrl m) (if v then 2#32 else 0#32)) (R.macEvt m) 2)) := by
  intro u x
  have hw1 : word (1 + b2n v 1) = if v then 3#32 else 1#32 := by cases v <;> rfl
  have hw0 : word (b2n v 1) = if v then 2#32 else 0#32 := by cases v <;> rfl
  have hen : exec (.macEnable a m v) s = .next (if macOn s m then setShadow u (R.macCtrl m) (word (1 + b2n v 1))
      else if macCfgOk s m then setShadow (setMac u m { x with onAt := s.now }) (R.macCtrl m) (word (1 + b2n v 1))
      else setEvt (setShadow u (R.macCtrl m) (word (b2n v 1))) (R.macEvt m) 2) :=
    congrArg Host.Outcome.next (regAccess_of_admitted h _)
  have hdis : exec (.macDisable a m v) s = .next (setShadow (if macOn s m then setMac u m { x with offAt := s.now } else u) (R.macCtrl m) (word (b2n v 1))) :=
    congrArg Host.Outcome.next (regAccess_of_admitted h _)
  rw [hen, hdis, hw0, hw1]
  refine ⟨fun hon => ?_, fun hoff => ?_⟩
  · simp [hon]
  · simp [hoff]

theorem twoWire_spec (a : Acc) (p : Fin 4) (w : Word) (h : admitted s a (R.macSfpCmd p) true) : exec (.sfpTwoWire a p w) s = .next
    (if bit w 31 = true ∧ (macOf s p).sfpBusy = false then setMac (accessed s) p { macOf s p with sfpBusy := true, sfpCmd := w, sfpRes := 0x80000000#32 }
      else accessed s) := by
  refine congrArg Host.Outcome.next ((regAccess_of_admitted h _).trans ?_)
  change (if (bit w 31 && !(macOf s p).sfpBusy) = true then _ else _) = _
  simp only [Bool.and_eq_true, Bool.not_eq_true']
  rfl

theorem twoWireDone_spec (p : Fin 4) (v : Bool) (data : Byte) :
    ((macOf s p).sfpBusy = true → exec (.sfpTwoWireDone p v data) s = .next (setMac s p { macOf s p with
      sfpBusy := false, sfpRes := (if v then 0x40000000#32 else 0#32) + if bit (macOf s p).sfpCmd 30 then data.setWidth 32 else 0#32 })) ∧
    ((macOf s p).sfpBusy = false → exec (.sfpTwoWireDone p v data) s = .next s) := by
  have hres : word (b2n v 30 + (if bit (macOf s p).sfpCmd 30 then data.toNat else 0)) =
      (if v then 0x40000000#32 else 0#32) + if bit (macOf s p).sfpCmd 30 then data.setWidth 32 else 0#32 := by
    rw [word, BitVec.ofNat_add]
    congr 1
    · cases v <;> rfl
    · split
      · exact BitVec.eq_of_toNat_eq (by simp)
      · rfl
  refine ⟨fun hbusy => ?_, fun hidle => ?_⟩
  · rw [← hres]
    exact congrArg Host.Outcome.next (if_pos hbusy)
  · exact congrArg Host.Outcome.next (if_neg (by simp [hidle]))

theorem txFault_spec (p : Fin 4) (v : Bool) : exec (.txFault p v) s = .next (
    let t := setMac s p { macOf s p with txFault := v }
    if v = true ∧ (macOf s p).txFault = false then setEvt t (R.macEvt p) 4 else t) := by
  refine congrArg Host.Outcome.next ?_
  simp only [Bool.and_eq_true, Bool.not_eq_true']

/-- A flush of ring `n`, which MGT has as ring 0 alone. -/
theorem ringFlush_of_admitted (a : Acc) (tx : Bool) (n : Fin 8) (en : Bool) (n' k : Nat) (hn : n' = if tx then n.val % 2 else n.val)
    (hk : k = if tx then R.txrCtrl m n' else R.rxrCtrl m n') (h : admitted s a k true) : exec (.ringFlush a m tx n en) s =
    .next (if m.val = 4 ∧ n' ≠ 0 then accessed s else ringFlush (setShadow (accessed s) k (word (b2n en 0))) m n' tx) := by
  subst hk
  subst hn
  exact congrArg Host.Outcome.next (regAccess_of_admitted h _)

theorem rxFlush_spec (a : Acc) (n : Fin 8) (en : Bool) (h : admitted s a (R.rxrCtrl m n) true) :
    let one := m.val = 4 → n.val = 0
    (one → ringOk (rxRing s m n) = true → Answers (exec (.ringFlush a m false n en) s) fun t =>
      (rxRing t m n).rd = (rxRing s m n).wr ∧ (rxRing t m n).wr = (rxRing s m n).wr ∧ ringOk (rxRing t m n) = true ∧
        shadowOf t (R.rxrCtrl m n) = (if en then 1#32 else 0#32) ∧ fld (liveOf t (R.rxrCnt m n)) 23 0 =
          min 0xFFFFFF (fld (liveOf s (R.rxrCnt m n)) 23 0 + ringLevel (shadowOf s (R.rxrCfg m n)) (rxRing s m n))) ∧
      (¬ one → exec (.ringFlush a m false n en) s = .next (accessed s)) := by
  intro one
  rw [ringFlush_of_admitted s m a false n en n (R.rxrCtrl m n) rfl rfl h]
  refine ⟨fun hone hok => ?_, fun hone => congrArg Host.Outcome.next (if_pos (Classical.not_imp.mp hone))⟩
  rw [if_neg fun hbad => hbad.2 (hone hbad.1)]
  obtain ⟨hrd, hwr, hok', hshadow, hcnt⟩ := ringFlush_rx (setShadow (accessed s) (R.rxrCtrl m n) (word (b2n en 0))) m n hok
  have hcfg : shadowOf (setShadow (accessed s) (R.rxrCtrl m n) (word (b2n en 0))) (R.rxrCfg m n) = shadowOf s (R.rxrCfg m n) :=
    setShadow_frame _ _ _ _ (by simp only [R.rxrCfg, R.rxrCtrl]; omega)
  rw [hcfg] at hcnt
  refine ⟨_, rfl, hrd, hwr, hok', ?_, hcnt⟩
  rw [hshadow, shadowOf_setShadow, if_pos rfl]
  cases en <;> rfl

theorem txFlush_spec (a : Acc) (n : Fin 2) (en : Bool) (h : admitted s a (R.txrCtrl m n) true) :
    let one := m.val = 4 → n.val = 0
    (one → ringOk (txRing s m n) = true → Answers (exec (.ringFlush a m true (Fin.ofNat 8 n) en) s) fun t =>
      txRing t m n = { txRing s m n with rd := (txRing s m n).wr, rdC := (txRing s m n).wr, skip := true } ∧
        shadowOf t (R.txrCtrl m n) = (if en then 1#32 else 0#32) ∧ fld (liveOf t (R.txrCnt m n)) 23 0 =
          min 0xFFFFFF (fld (liveOf s (R.txrCnt m n)) 23 0 + ringLevel (shadowOf s (R.txrCfg m n)) (txRing s m n))) ∧
      (¬ one → exec (.ringFlush a m true (Fin.ofNat 8 n) en) s = .next (accessed s)) := by
  intro one
  rw [ringFlush_of_admitted s m a true (Fin.ofNat 8 n) en n (R.txrCtrl m n) (by simp only [if_true, Fin.val_ofNat]; omega) rfl h]
  refine ⟨fun hone hok => ?_, fun hone => congrArg Host.Outcome.next (if_pos (Classical.not_imp.mp hone))⟩
  rw [if_neg fun hbad => hbad.2 (hone hbad.1)]
  obtain ⟨hring, hshadow, hcnt⟩ := ringFlush_tx (setShadow (accessed s) (R.txrCtrl m n) (word (b2n en 0))) m n hok
  have hcfg : shadowOf (setShadow (accessed s) (R.txrCtrl m n) (word (b2n en 0))) (R.txrCfg m n) = shadowOf s (R.txrCfg m n) :=
    setShadow_frame _ _ _ _ (by simp only [R.txrCfg, R.txrCtrl]; omega)
  rw [hcfg] at hcnt
  refine ⟨_, rfl, hring, ?_, hcnt⟩
  rw [hshadow, shadowOf_setShadow, if_pos rfl]
  cases en <;> rfl

theorem txWrite_spec (a : Acc) (n : Fin 2) (v : Half) (h : admitted s a (R.txrWr m n) true) :
    let one := m.val = 4 → n.val = 0
    (one → ringOk (txRing s m n) = true →
      let q := v.toNat % max 1 (fld (shadowOf s (R.txrCfg m n)) 15 0)
      (bit (shadowOf s (R.txrCtrl m n)) 0 = false →
        exec (.txrWrWrite a m n v) s = .next (setTxRing (accessed s) m n { txRing s m n with wr := q, wrC := q })) ∧
      Answers (exec (.txrWrWrite a m n v) s) fun t => (txRing t m n).wr = q ∧ (txRing t m n).wrC = q) ∧
      (¬ one → exec (.txrWrWrite a m n v) s = .next (accessed s)) := by
  intro one
  have hx : exec (.txrWrWrite a m n v) s = .next (if m.val = 4 ∧ n.val ≠ 0 then accessed s else
      let u := txCheck (accessed s) m n
      let q := v.toNat % max 1 (ringSize (shadowOf u (R.txrCfg m n)))
      txClean (setTxRing u m n { txRing u m n with wr := q, wrC := q }) m n) := congrArg Host.Outcome.next (regAccess_of_admitted h _)
  rw [hx]
  refine ⟨fun hone hok => ?_, fun hone => congrArg Host.Outcome.next (if_pos (Classical.not_imp.mp hone))⟩
  rw [if_neg fun hbad => hbad.2 (hone hbad.1), txCheck_of_ok (accessed s) m hok]
  intro q
  have hok' : ringOk (txRing (setTxRing (accessed s) m n { txRing s m n with wr := q, wrC := q }) m n) = true := by
    rw [txRing_setTxRing_self]
    simp only [ringOk, Bool.and_eq_true, beq_self_eq_true, true_and] at hok ⊢
    exact hok.2
  have hwr := txClean_wr _ m n hok'
  rw [txRing_setTxRing_self] at hwr
  exact ⟨fun hoff => congrArg Host.Outcome.next (txClean_of_off _ m n hok' hoff), _, rfl, hwr⟩

/-- Settles O42: a link by its conditions, a port's switches by whether it is on, a ring's operations by its checked pointers. -/
theorem portsAndRings : Obligations.PortsAndRings := by
  unfold Obligations.PortsAndRings
  intro a m p why v en data w n n2 h s u x fec0 y one
  exact ⟨linkUp_spec s m v, linkDown_spec s m why v, rfl, txFault_spec s p v, fun hadm => portSwitches s m a v hadm,
    fun hadm => twoWire_spec s a p w hadm, (twoWireDone_spec s p v data).1, (twoWireDone_spec s p v data).2,
    fun hadm => rxFlush_spec s m a n en hadm, fun hadm => txFlush_spec s m a n2 en hadm, fun hadm => txWrite_spec s m a n2 h hadm⟩

end Sys2Proof.Machine
end

section
/-! SUPPORT. The registers that stores and the accesses of blocks leave alone (R155, R156, R548). -/

namespace Sys2Proof.Machine

/-- A register that posts, violations and the copying of captured lines do not count in. -/
def OffStores (a : Nat) : Prop := OffPosts a ∧ (a < 0xF0020000 ∨ 0xF0030000 ≤ a) ∧ a ≠ R.mirCnt 6

variable {s : State} {a : Nat}

theorem liveOf_avUnlog : liveOf (avUnlog s) a = liveOf s a := rfl

variable (ha : OffStores a)
include ha

theorem liveOf_avLog_off (t : Tag) (wr : Bool) (b kd : Nat) : liveOf (avLog s t wr b kd) a = liveOf s a := by
  obtain ⟨hposts, hpart, -⟩ := ha
  have hne : a ≠ R.partAvAddrHi ∧ a ≠ R.partAvAddrLo ∧ a ≠ R.partAvInfo ∧ a ≠ R.partEvt := by
    simp only [R.partAvAddrHi, R.partAvAddrLo, R.partAvInfo, R.partEvt]
    omega
  obtain ⟨hhi, hlo, hinfo, hevt⟩ := hne
  unfold avLog
  dsimp only
  rw [liveOf_hnqPost hposts t.pid.isLt, liveOf_almPost hposts, liveOf_setLive_of_ne hhi, liveOf_setLive_of_ne hlo, liveOf_setLive_of_ne hinfo,
    liveOf_setEvt_of_ne hevt]
  rfl

theorem liveOf_violate (t : Tag) (wr : Bool) (b kd : Nat) : liveOf (violate s t wr b kd) a = liveOf s a := by
  have hcount : liveOf (bump s R.partAvCount 15 0 1) a = liveOf s a := liveOf_bump_of_ne (by
    obtain ⟨-, hpart, -⟩ := ha
    simp only [R.partAvCount]
    omega)
  unfold violate
  dsimp only
  split
  · split
    · exact (liveOf_avLog_off ha ..).trans (liveOf_avUnlog.trans hcount)
    · exact hcount
  · exact (liveOf_avLog_off ha ..).trans hcount

omit ha in
theorem liveOf_wipe (b c : Nat) : liveOf (wipe s b c) a = liveOf s a := rfl

omit ha in
theorem liveOf_setTrust (x : TrustSt) : liveOf { s with trust := x } a = liveOf s a := rfl

omit ha in
theorem liveOf_dramStall (b n : Nat) : liveOf (dramStall s b n) a = liveOf s a := by
  unfold dramStall dramWipe
  split
  · split
    · rfl
    · rw [liveOf_setTrust]
      split
      · exact liveOf_wipe ..
      · exact (liveOf_wipe ..).trans (liveOf_wipe ..)
  · rfl

theorem liveOf_dmaAccess_write (i : Nat) (t : Tag) (b n : Nat) : liveOf (dmaAccess s i t true b n).1 a = liveOf s a := by
  unfold dmaAccess
  dsimp only
  split
  · exact (liveOf_violate ha ..).trans (liveOf_dramStall ..)
  · exact liveOf_dramStall ..

omit ha in
theorem liveOf_pokeBytes (b : Nat) (bs : List Byte) : liveOf (pokeBytes s b bs) a = liveOf s a := rfl

omit ha in
theorem liveOf_markDirty (b n : Nat) : liveOf (markDirty s b n) a = liveOf s a := rfl

theorem liveOf_cowLine (e : Nat × Nat × Nat) : liveOf (cowLine s e) a = liveOf s a := by
  obtain ⟨-, -, hmir⟩ := id ha
  unfold cowLine
  dsimp only
  rw [liveOf_setLive_of_ne hmir]
  split
  · exact liveOf_dmaAccess_write ha ..
  · rw [liveOf_markDirty, liveOf_pokeBytes]
    exact liveOf_dmaAccess_write ha ..

theorem liveOf_cow (b n : Nat) : liveOf (cow s b n) a = liveOf s a := by
  unfold cow
  split
  · rfl
  · exact List.foldlRecOn (motive := fun t => liveOf t a = liveOf s a) _ _ rfl fun t ht e _ => (liveOf_cowLine ha e).trans ht

theorem liveOf_wrBytes (b : Nat) (bs : List Byte) : liveOf (wrBytes s b bs) a = liveOf s a :=
  Eq.trans (b := liveOf (cow s b bs.length) a) rfl (liveOf_cow ha ..)

theorem liveOf_dmaWrite (i : Nat) (t : Tag) (b : Nat) (bs : List Byte) : liveOf (dmaWrite s i t b bs) a = liveOf s a := by
  unfold dmaWrite
  dsimp only
  split
  · exact liveOf_dmaAccess_write ha ..
  · exact (liveOf_wrBytes ha ..).trans (liveOf_dmaAccess_write ha ..)

end Sys2Proof.Machine
end

section
/-! SUPPORT. The parts of the reception of a frame (R203, R206, R210, R213, R217, R218): what each leaves of the port's view. -/

namespace Sys2Proof.Machine

/-- How a frame is steered on its port. -/
def rxSteer (s : State) (m : Nat) (f : EthFrame) (first : Nat) : Steer := if m = 4 then steerMgt s first f else steer s first m f

/-- The sequence number of a frame with a redundancy tag. -/
def rxSeq (f : EthFrame) : Nat := (f.red.map fun r => r.seq.toNat).getD 0

/-- The duplicate table takes part. -/
def rxTable (m : Nat) (f : EthFrame) (t : Steer) : Bool := decide (m < 4) && f.red.isSome && (t.dest == 2 || decide (8 ≤ t.dest))

/-- The frame is the node's own. -/
def rxOwn (s : State) (m : Nat) (f : EthFrame) : Bool := decide (lreMode s m = 2 ∧ f.sa.toNat = macAddr s m)

/-- The duplicate table without its old entries. -/
def dupFreshened (s : State) (m : Nat) : State :=
  let x := lreOf s (m / 2)
  if m < 4 then setLre s (m / 2) { x with dup := fresh s.now x.dup, lastB := x.lastB.filter fun u => decide (s.now / 4 = u.end_ / 4) } else s

/-- The rule's and the supervision frames' counts. -/
def rxHits (s : State) (m : Nat) (f : EthFrame) (t : Steer) (err : Nat) : State :=
  let s := if t.hit = 0 ∧ m < 4 ∧ 64 ≤ wireLen f then setLive s (R.frHits m t.rule) (word (satAdd 0xFFFFFFFF (liveOf s (R.frHits m t.rule)).toNat 1)) else s
  if t.hit = 2 ∧ 64 ≤ wireLen f ∧ (err = 0 ∨ err = 5) then macCount s m 18 else s

/-- The frame's one counter. -/
def rxCounted (s : State) (m n : Nat) (f : EthFrame) (c : Option Nat) : State :=
  match c with
  | some c =>
    let s := macCount s m c
    if c = 7 then setEvt s (R.rxrEvt m n) 3 else s
  | none =>
    let s := macCount s m 0
    if wrongLan s m f then macCount s m 9 else s

/-- The first copy's key enters the duplicate table. -/
def rxEntered (s : State) (m : Nat) (f : EthFrame) (t : Steer) (first err : Nat) (own : Bool) (c : Option Nat) : State :=
  if rxTable m f t && err == 0 && !own && (c.isNone || c == some 7) then firstCopy s m f t first (rxSeq f) c.isNone else s

/-- The frame passes to its consumer or its ring. -/
def rxPassed (s : State) (m n : Nat) (f : EthFrame) (t : Steer) (first err : Nat) (stamp : Int) (own : Bool) (c : Option Nat) : State :=
  if 1 ≤ t.dest ∧ t.dest ≤ 3 then (if own || c == some 2 || c == some 6 then s else itemPut s m f t err first stamp)
  else if 8 ≤ t.dest ∧ c.isNone then ringWrite s m n (rxItem m f t stamp (wrongLan s m f)) (itemBeats f t)
  else s

/-- What follows once the table is fresh and a copy from LAN B undone. -/
def rxFinished (s : State) (m n : Nat) (f : EthFrame) (t : Steer) (first : Nat) (stamp : Int) (own : Bool) : State :=
  let dup := rxTable m f t && dupHas (lreOf s (m / 2)).dup f.sa.toNat (rxSeq f)
  let err := rxErr s m f dup
  let u := rxHits s m f t err
  let c := rxDrop u m f t dup own
  rxPassed (rxEntered (rxCounted u m n f c) m f t first err own c) m n f t first err stamp own c

theorem macReceive_eq (s : State) (m : Nat) (f : EthFrame) (first : Nat) (stamp : Int) :
    macReceive s m f first stamp =
      let t := rxSteer s m f first
      let n := if 8 ≤ t.dest then t.dest - 8 else 0
      let u := if 8 ≤ t.dest then rxCheck s m n else s
      let own := rxOwn u m f
      let u := dupFreshened u m
      rxFinished (if rxTable m f t && rxErr u m f false == 0 then lanFirst u m f.sa.toNat (rxSeq f) else u) m n f t first stamp own := rfl

/-- Two states that look the same to the reception of a port. -/
structure SameView (m : Nat) (r s : State) : Prop where
  shadow : r.shadow = s.shadow
  force : r.force = s.force
  now : r.now = s.now
  mem : r.mem = s.mem
  items : r.net.items = s.net.items
  rx : (macOf r m).rx = (macOf s m).rx
  old : ∀ k, (macOf r k).old = (macOf s k).old ∧ (macOf r k).oldTill = (macOf s k).oldTill

theorem SameView.refl (m : Nat) (s : State) : SameView m s s := ⟨rfl, rfl, rfl, rfl, rfl, rfl, fun _ => ⟨rfl, rfl⟩⟩

theorem SameView.trans {m : Nat} {r s t : State} (h : SameView m r s) (g : SameView m s t) : SameView m r t :=
  ⟨h.shadow.trans g.shadow, h.force.trans g.force, h.now.trans g.now, h.mem.trans g.mem, h.items.trans g.items, h.rx.trans g.rx,
    fun k => ⟨(h.old k).1.trans (g.old k).1, (h.old k).2.trans (g.old k).2⟩⟩

/-- A change that leaves time, settings, memory, ports and items. -/
theorem SameView.of_net {m : Nat} {r s : State} (hs : r.shadow = s.shadow) (hf : r.force = s.force) (hn : r.now = s.now) (hm : r.mem = s.mem)
    (hi : r.net.items = s.net.items) (hmacs : r.net.macs = s.net.macs) : SameView m r s := by
  have hmac (k : Nat) : macOf r k = macOf s k := by rw [macOf, hmacs, macOf]
  exact ⟨hs, hf, hn, hm, hi, by rw [hmac], fun k => by rw [hmac]; exact ⟨rfl, rfl⟩⟩

section
variable {m : Nat} {r s : State} (h : SameView m r s)
include h

theorem SameView.shadowOf : shadowOf r = Machine.shadowOf s := by
  funext a
  rw [Machine.shadowOf, h.shadow, Machine.shadowOf]
theorem SameView.forceOf : forceOf r = Machine.forceOf s := by
  funext a
  rw [Machine.forceOf, h.force, Machine.forceOf]
theorem SameView.rxRing (n : Nat) : rxRing r m n = Machine.rxRing s m n := by rw [Machine.rxRing, h.rx, Machine.rxRing]
theorem SameView.lreMode (k : Nat) : lreMode r k = Machine.lreMode s k := by rw [Machine.lreMode, h.shadowOf, Machine.lreMode]
theorem SameView.macAddr (k : Nat) : macAddr r k = Machine.macAddr s k := by
  unfold Machine.macAddr
  rw [h.shadowOf, h.lreMode]
theorem SameView.maxLen (k : Nat) : maxLen r k = Machine.maxLen s k := by rw [Machine.maxLen, h.shadowOf, Machine.maxLen]
theorem SameView.forceAt (t a : Nat) : forceAt r t a = Machine.forceAt s t a := by
  unfold Machine.forceAt
  dsimp only
  rw [(h.old _).1, (h.old _).2, h.forceOf]
theorem SameView.ruleHit (t k n : Nat) (f : EthFrame) : ruleHit r t k n f = Machine.ruleHit s t k n f := by
  unfold Machine.ruleHit
  simp only [h.forceAt]
theorem SameView.rxSteer (f : EthFrame) (first : Nat) : rxSteer r m f first = Machine.rxSteer s m f first := by
  unfold Machine.rxSteer steerMgt steer ptpPortOn domOn
  simp only [h.forceAt, h.macAddr, h.lreMode, h.shadowOf, h.ruleHit]
theorem SameView.rxOwn (f : EthFrame) : rxOwn r m f = Machine.rxOwn s m f := by rw [Machine.rxOwn, h.lreMode, h.macAddr, Machine.rxOwn]
theorem SameView.rxErr (f : EthFrame) (dup : Bool) : rxErr r m f dup = Machine.rxErr s m f dup := by
  unfold Machine.rxErr
  rw [h.maxLen]
theorem SameView.fifoRoom : fifoRoom r m = Machine.fifoRoom s m := by
  unfold Machine.fifoRoom fifoLevel siuBeats
  rw [h.maxLen, h.items]
theorem SameView.ringRoom (n k : Nat) : ringRoom r m n k = Machine.ringRoom s m n k := by
  unfold Machine.ringRoom
  rw [h.shadowOf, h.rxRing]
theorem SameView.rxDrop (f : EthFrame) (t : Steer) (dup own : Bool) : rxDrop r m f t dup own = Machine.rxDrop s m f t dup own := by
  unfold Machine.rxDrop
  rw [h.maxLen, h.fifoRoom, h.ringRoom]
theorem SameView.asSeen (f : EthFrame) : asSeen r m f = Machine.asSeen s m f := by
  unfold Machine.asSeen redOf
  rw [h.lreMode]
theorem SameView.hsrGoesOn (f : EthFrame) : hsrGoesOn r m f = Machine.hsrGoesOn s m f := by
  unfold Machine.hsrGoesOn
  rw [h.lreMode, h.macAddr]
theorem SameView.hsrOther (f : EthFrame) : hsrOther r m f = Machine.hsrOther s m f := by
  unfold Machine.hsrOther
  rw [h.lreMode, h.macAddr]
theorem SameView.fwdFrame (f : EthFrame) : fwdFrame r m f = Machine.fwdFrame s m f := by
  unfold Machine.fwdFrame
  rw [h.maxLen]

end

end Sys2Proof.Machine
end

section
/-! SUPPORT. What each part of the reception does (R203, R212, R213, R217, R218). -/

namespace Sys2Proof.Machine

/-- The state but for its live bits. -/
def liveless (s : State) : State := { s with live := [] }

theorem net_of_liveless {r s : State} (h : liveless r = liveless s) : r.net = s.net := (congrArg State.net h :)

theorem SameView.of_liveless {m : Nat} {r s : State} (h : liveless r = liveless s) : SameView m r s :=
  .of_net (congrArg State.shadow h :) (congrArg State.force h :) (congrArg State.now h :) (congrArg State.mem h :)
    (congrArg (fun u : State => u.net.items) h :) (congrArg (fun u : State => u.net.macs) h :)

theorem lreOf_of_net {r s : State} (h : r.net.lres = s.net.lres) (p : Nat) : lreOf r p = lreOf s p := by rw [lreOf, h, lreOf]
theorem lreOf_setLive (s : State) (a : Nat) (w : Word) (p : Nat) : lreOf (setLive s a w) p = lreOf s p := rfl
theorem lreOf_setLre_self (s : State) (p : Nat) (x : LreSt) : lreOf (setLre s p x) p = x := mget_mset_self ..
theorem SameView.setLre (m : Nat) (s : State) (p : Nat) (x : LreSt) : SameView m (setLre s p x) s := .of_net rfl rfl rfl rfl rfl rfl

/-- A counter of a port counts by one and stops at its end. -/
def Counted (r s : State) (a : Nat) : Prop := (liveOf r a).toNat = min 0xFFFFFFFF ((liveOf s a).toNat + 1)

theorem counted_macCount (s : State) (m i : Nat) : Counted (macCount s m i) s (R.macCnt m i) := by
  unfold Counted macCount
  rw [liveOf_setLive_self, word, satAdd, BitVec.toNat_ofNat]
  omega

theorem liveOf_macCount_of_ne {a m i : Nat} (s : State) (h : a ≠ R.macCnt m i) : liveOf (macCount s m i) a = liveOf s a := liveOf_setLive_of_ne h
theorem liveless_macCount (s : State) (m i : Nat) : liveless (macCount s m i) = liveless s := rfl

theorem Counted.of_eq {r s u v : State} {a : Nat} (h : Counted u v a) (hr : liveOf r a = liveOf u a) (hs : liveOf v a = liveOf s a) : Counted r s a := by
  rw [Counted, hr, ← hs]
  exact h

/-- A register that the reception of a port does not count in, but for the counters of the frame's own end. -/
structure OffReception (m n a : Nat) : Prop where
  hits : ∀ k, a ≠ R.frHits m k
  sup : a ≠ R.macCnt m 18
  wrong : a ≠ R.macCnt m 9
  full : a ≠ R.macCnt m 17
  evt : a ≠ R.rxrEvt m n
  cnt : a ≠ R.rxrCnt m n
  stores : OffStores a

theorem offStores_macCnt {q k : Nat} (hq : q < 5) (hk : k < 17) : OffStores (R.macCnt q k) := by
  simp only [OffStores, OffPosts, R.macCnt, R.almDrop01, R.almDrop23, R.almEvt, R.diagPtrSum, R.mirCnt]
  omega

theorem offReception_macCnt {m n q k : Nat} (hn : n < 8) (hq : q < 5) (hk : k < 17) (h9 : k ≠ 9) (h : q = m ∨ k % 8 = 0) :
    OffReception m n (R.macCnt q k) := by
  refine ⟨fun r => ?_, ?_, ?_, ?_, ?_, ?_, offStores_macCnt hq hk⟩
  · simp only [R.macCnt, R.frHits]
    omega
  · simp only [R.macCnt]
    omega
  · simp only [R.macCnt]
    omega
  · simp only [R.macCnt]
    omega
  · simp only [R.macCnt, R.rxrEvt]
    omega
  · simp only [R.macCnt, R.rxrCnt]
    omega

variable (s : State) (m n : Nat) (f : EthFrame) (t : Steer)

theorem macOf_setMac (k : Nat) (x : MacSt) : macOf (setMac s m x) k = if k = m then x else macOf s k := mget_mset ..

theorem sameView_setMac {x : MacSt} (k : Nat) (hrx : k = m → x.rx = (macOf s k).rx) (hold : x.old = (macOf s k).old ∧ x.oldTill = (macOf s k).oldTill) :
    SameView m (setMac s k x) s := by
  refine ⟨rfl, rfl, rfl, rfl, rfl, ?_, fun j => ?_⟩
  · rw [macOf_setMac]
    split
    next h => rw [hrx h.symm, h]
    next => rfl
  · rw [macOf_setMac]
    split
    next h => rw [h]; exact hold
    next => exact ⟨rfl, rfl⟩

theorem macBlink_frame : SameView m (macBlink s m) s ∧ (macBlink s m).live = s.live ∧ (macBlink s m).net.lres = s.net.lres ∧
    (macBlink s m).net.txq = s.net.txq := by
  have hset (x : Option Nat) : SameView m (setMac s m { macOf s m with blinkAt := x }) s := sameView_setMac s m m (fun _ => rfl) ⟨rfl, rfl⟩
  unfold macBlink
  dsimp only
  split
  · split
    · exact ⟨.refl .., rfl, rfl, rfl⟩
    · exact ⟨hset _, rfl, rfl, rfl⟩
  · exact ⟨hset _, rfl, rfl, rfl⟩

theorem rxHits_frame (err : Nat) : liveless (rxHits s m f t err) = liveless s := by
  unfold rxHits
  dsimp only
  split
  · rw [liveless_macCount]
    split <;> rfl
  · split <;> rfl

theorem rxCounted_frame (c : Option Nat) : liveless (rxCounted s m n f c) = liveless s := by
  unfold rxCounted
  split
  · dsimp only
    split <;> rfl
  · dsimp only
    split <;> rfl

theorem liveOf_rxHits {a : Nat} (ha : OffReception m n a) (err : Nat) : liveOf (rxHits s m f t err) a = liveOf s a := by
  have hrule : liveOf (if t.hit = 0 ∧ m < 4 ∧ 64 ≤ wireLen f then
      setLive s (R.frHits m t.rule) (word (satAdd 0xFFFFFFFF (liveOf s (R.frHits m t.rule)).toNat 1)) else s) a = liveOf s a := by
    split
    · exact liveOf_setLive_of_ne (ha.hits _)
    · rfl
  unfold rxHits
  dsimp only
  split
  · rw [liveOf_macCount_of_ne _ ha.sup, hrule]
  · exact hrule

theorem liveOf_rxCounted {a : Nat} (ha : OffReception m n a) (c : Option Nat) (hc : a ≠ R.macCnt m (c.getD 0)) : liveOf (rxCounted s m n f c) a = liveOf s a := by
  cases c with
  | some c =>
    dsimp only [rxCounted]
    split
    · exact (liveOf_setEvt_of_ne ha.evt).trans (liveOf_macCount_of_ne _ hc)
    · exact liveOf_macCount_of_ne _ hc
  | none =>
    dsimp only [rxCounted]
    split
    · exact (liveOf_macCount_of_ne _ ha.wrong).trans (liveOf_macCount_of_ne _ hc)
    · exact liveOf_macCount_of_ne _ hc

/-- The frame's one counter counts it. -/
theorem counted_rxCounted (c : Option Nat) (ha : OffReception m n (R.macCnt m (c.getD 0))) : Counted (rxCounted s m n f c) s (R.macCnt m (c.getD 0)) := by
  cases c with
  | some c =>
    dsimp only [rxCounted]
    split
    · exact (counted_macCount s m c).of_eq (liveOf_setEvt_of_ne ha.evt) rfl
    · exact counted_macCount s m c
  | none =>
    dsimp only [rxCounted]
    split
    · exact (counted_macCount s m 0).of_eq (liveOf_macCount_of_ne _ ha.wrong) rfl
    · exact counted_macCount s m 0

theorem evt_rxCounted_full : evt (rxCounted s m n f (some 7)) (R.rxrEvt m n) 3 = true := evt_setEvt_self (by decide)

theorem dupPut_frame (sa seq : Nat) : SameView m (dupPut s m sa seq) s ∧ (dupPut s m sa seq).net.txq = s.net.txq ∧
    dupHas (lreOf (dupPut s m sa seq) (m / 2)).dup sa seq = true := by
  have hhas (l : List DupEnt) : dupHas (l ++ [{ sa := sa, seq := seq, at_ := s.now }]) sa seq = true := by simp [dupHas]
  unfold dupPut
  dsimp only
  split
  · refine ⟨.setLre .., rfl, ?_⟩
    rw [lreOf_setLre_self]
    exact hhas _
  · refine ⟨(SameView.of_liveless (liveless_macCount ..)).trans (.setLre ..), rfl, ?_⟩
    rw [lreOf_of_net (congrArg NetSt.lres (net_of_liveless (liveless_macCount ..))), lreOf_setLre_self]
    exact hhas _

theorem liveOf_dupPut {a : Nat} (ha : a ≠ R.macCnt m 17) (sa seq : Nat) : liveOf (dupPut s m sa seq) a = liveOf s a := by
  unfold dupPut
  dsimp only
  split
  · rfl
  · exact liveOf_macCount_of_ne _ ha

theorem firstCopy_frame (first seq : Nat) (got : Bool) : SameView m (firstCopy s m f t first seq got) s ∧ (firstCopy s m f t first seq got).net.txq = s.net.txq ∧
    dupHas (lreOf (firstCopy s m f t first seq got) (m / 2)).dup f.sa.toNat seq = true ∧
    ∀ a, a ≠ R.macCnt m 17 → liveOf (firstCopy s m f t first seq got) a = liveOf s a := by
  obtain ⟨hview, htxq, hhas⟩ := dupPut_frame s m f.sa.toNat seq
  unfold firstCopy
  dsimp only
  split
  · refine ⟨(SameView.setLre ..).trans hview, htxq, ?_, fun a ha => liveOf_dupPut s m ha ..⟩
    rw [lreOf_setLre_self]
    exact hhas
  · exact ⟨hview, htxq, hhas, fun a ha => liveOf_dupPut s m ha ..⟩

theorem rxEntered_frame (first err : Nat) (own : Bool) (c : Option Nat) : SameView m (rxEntered s m f t first err own c) s ∧
    (rxEntered s m f t first err own c).net.txq = s.net.txq ∧
    ∀ a, a ≠ R.macCnt m 17 → liveOf (rxEntered s m f t first err own c) a = liveOf s a := by
  unfold rxEntered
  split
  · obtain ⟨hview, htxq, -, hlive⟩ := firstCopy_frame s m f t first (rxSeq f) c.isNone
    exact ⟨hview, htxq, hlive⟩
  · exact ⟨.refl .., rfl, fun _ _ => rfl⟩

/-- Beats stored in a ring change memory, not the port. -/
theorem ringStore_frame (pid base size p : Nat) (bs : List Byte) (k : Nat) (s : State) :
    storeFrame (ringStore s m pid base size p bs k) = storeFrame s ∧
    ∀ a, OffStores a → liveOf (ringStore s m pid base size p bs k) a = liveOf s a := by
  induction k generalizing s p bs with
  | zero => exact ⟨rfl, fun _ _ => rfl⟩
  | succ k ih =>
    obtain ⟨hframe, hlive⟩ := ih (p + 1) (bs.drop 32) (dmaWrite s (4 + m) (dmaTag s (4 + m) (some pid)) (base + p % max 1 size * 32) (bs.take 32))
    exact ⟨hframe.trans (storeFrame_dmaWrite ..), fun a ha => (hlive a ha).trans (liveOf_dmaWrite ha ..)⟩

end Sys2Proof.Machine
end

section
/-! SUPPORT. A frame written to its ring (R213, R214). -/

namespace Sys2Proof.Machine

theorem liveOf_rxSide {a : Nat} (s : State) (m n : Nat) (ha : OffPosts a) (hevt : a ≠ R.rxrEvt m n) (hcnt : a ≠ R.rxrCnt m n) :
    liveOf (rxSide s m n) a = liveOf s a := by
  unfold rxSide
  dsimp only
  split
  · rw [macNote, liveOf_notifyAll _ ha, liveOf_bump_of_ne hcnt, liveOf_setEvt_of_ne hevt]
    rfl
  · split
    · rw [liveOf_bump_of_ne hcnt, liveOf_setEvt_of_ne hevt]
      rfl
    · rfl

theorem net_rxSide (s : State) (m : Fin 5) (n : Nat) : (rxSide s m n).net.lres = s.net.lres ∧ (rxSide s m n).net.txq = s.net.txq ∧
    (rxSide s m n).net.items = s.net.items := by
  rcases rxSide_cases s m n with h | ⟨b, h⟩
  · rw [h]
    exact ⟨rfl, rfl, rfl⟩
  · exact ⟨(congrArg (fun u : State => u.net.lres) h :), (congrArg (fun u : State => u.net.txq) h :), (congrArg (fun u : State => u.net.items) h :)⟩

variable (s : State) (m : Fin 5) (n : Nat) (item : List Byte) (k : Nat)

/-- A written item moves the ring's write pointer. -/
theorem ringWrite_spec (hok : ringOk (rxRing s m n) = true) :
    let r := ringWrite s m n item k
    (rxRing r m n).wr = ((rxRing s m n).wr + k) % max 1 (fld (shadowOf s (R.rxrCfg m n)) 15 0) ∧ (rxRing r m n).rd = (rxRing s m n).rd ∧
      ringOk (rxRing r m n) = true := by
  obtain ⟨hframe, -⟩ := ringStore_frame m (fld (shadowOf s (R.rxrCfg m n)) 28 24) (rxBase s m n) (ringSize (shadowOf s (R.rxrCfg m n))) (rxRing s m n).wr item k s
  unfold ringWrite
  dsimp only
  rw [wr_rxSide, rd_rxSide, ringOk_rxSide, rxRing_setRxRing_self]
  have hring : rxRing (ringStore s m (fld (shadowOf s (R.rxrCfg m n)) 28 24) (rxBase s m n) (ringSize (shadowOf s (R.rxrCfg m n))) (rxRing s m n).wr item k) m n =
      rxRing s m n := by
    rw [rxRing, macOf_of_storeFrame hframe, ← rxRing]
  rw [hring]
  refine ⟨rfl, rfl, ?_⟩
  simp only [ringOk, Bool.and_eq_true, beq_self_eq_true, true_and] at hok ⊢
  exact hok.2

theorem ringWrite_frame : (ringWrite s m n item k).net.lres = s.net.lres ∧ (ringWrite s m n item k).net.txq = s.net.txq ∧
    (ringWrite s m n item k).net.items = s.net.items ∧
    ∀ a, OffReception m n a → liveOf (ringWrite s m n item k) a = liveOf s a := by
  obtain ⟨hframe, hlive⟩ := ringStore_frame m (fld (shadowOf s (R.rxrCfg m n)) 28 24) (rxBase s m n) (ringSize (shadowOf s (R.rxrCfg m n))) (rxRing s m n).wr item k s
  have hnet := net_of_storeFrame hframe
  unfold ringWrite
  dsimp only
  refine ⟨(net_rxSide ..).1.trans (congrArg NetSt.lres hnet :), (net_rxSide ..).2.1.trans (congrArg NetSt.txq hnet :),
    (net_rxSide ..).2.2.trans (congrArg NetSt.items hnet :), fun a ha => ?_⟩
  rw [liveOf_rxSide _ m n ha.stores.1 ha.evt ha.cnt]
  exact hlive a ha.stores

end Sys2Proof.Machine
end

section
/-! SUPPORT. The reception once the duplicate table is fresh. -/

namespace Sys2Proof.Machine

theorem SameView.wrongLan {m : Nat} {r s : State} (h : SameView m r s) (f : EthFrame) : wrongLan r m f = Machine.wrongLan s m f := by
  unfold Machine.wrongLan
  rw [h.lreMode]

/-- The counters of R203's table. -/
theorem lt_of_rxDrop {s : State} {m : Nat} {f : EthFrame} {t : Steer} {dup own : Bool} {c : Nat} (h : rxDrop s m f t dup own = some c) :
    c < 12 ∧ c ≠ 9 ∧ c ≠ 0 := by
  unfold rxDrop at h
  dsimp only at h
  split at h
  · injection h with h; omega
  · split at h
    · injection h with h; omega
    · split at h
      · injection h with h; omega
      · split at h
        · injection h with h; omega
        · split at h
          · injection h with h; omega
          · split at h
            · injection h with h; omega
            · split at h
              · injection h with h; omega
              · split at h
                · injection h with h; omega
                · split at h
                  · injection h with h; omega
                  · split at h
                    · injection h with h; omega
                    · cases h

/-- A frame that is not dropped is whole, fresh and another's. -/
theorem whole_of_rxDrop {s : State} {m : Nat} {f : EthFrame} {t : Steer} {dup own : Bool} (h : rxDrop s m f t dup own = none) :
    rxErr s m f false = 0 ∧ dup = false ∧ own = false ∧ rxDrop s m f t false false = none := by
  have hpass {c : Prop} [Decidable c] {n : Nat} {x : Option Nat} (hx : (if c then some n else x) = none) : ¬c ∧ x = none := by
    by_cases hc : c
    · exact absurd hx (by simp [hc])
    · exact ⟨hc, (if_neg hc).symm.trans hx⟩
  unfold rxDrop at h
  dsimp only at h
  obtain ⟨h1, h⟩ := hpass h
  obtain ⟨h2, h⟩ := hpass h
  obtain ⟨h3, h⟩ := hpass h
  obtain ⟨h4, h⟩ := hpass h
  obtain ⟨h5, h⟩ := hpass h
  obtain ⟨h6, h⟩ := hpass h
  obtain ⟨h7, h⟩ := hpass h
  obtain ⟨h8, h⟩ := hpass h
  obtain ⟨h9, h⟩ := hpass h
  obtain ⟨h10, -⟩ := hpass h
  refine ⟨?_, by simpa using h8, by simpa using h9, ?_⟩
  · unfold rxErr
    rw [if_neg h2, if_neg h10, if_neg h3, if_neg h4, if_neg Bool.false_ne_true]
  · unfold rxDrop
    dsimp only
    rw [if_neg h1, if_neg h2, if_neg h3, if_neg h4, if_neg h5, if_neg h6, if_neg h7, if_neg Bool.false_ne_true, if_neg Bool.false_ne_true, if_neg h10]

/-- The item of a frame that passes to its consumer. -/
def rxItemOf (s : State) (m : Nat) (f : EthFrame) (t : Steer) (first : Nat) (stamp : Int) (dup : Bool) : RxItem :=
  { mac := m, dest := t.dest, stamp := stamp, first := first, end_ := s.now, err := rxErr s m f dup, beats := itemBeats f t
    frame := if t.strip then { f with vlan := none } else f }

variable (s : State) (m : Fin 5) (n : Nat) (f : EthFrame) (t : Steer) (first : Nat) (stamp : Int) (own : Bool)

/-- A copy is a duplicate of one in the table. -/
def rxDup (s : State) (m : Nat) (f : EthFrame) (t : Steer) : Bool := rxTable m f t && dupHas (lreOf s (m / 2)).dup f.sa.toNat (rxSeq f)

/-- The state in which a frame's key has entered the table and its counters have counted it. -/
def rxTallied (s : State) (m n : Nat) (f : EthFrame) (t : Steer) (first : Nat) (own : Bool) : State :=
  rxEntered (rxCounted (rxHits s m f t (rxErr s m f (rxDup s m f t))) m n f (rxDrop s m f t (rxDup s m f t) own)) m f t first
    (rxErr s m f (rxDup s m f t)) own (rxDrop s m f t (rxDup s m f t) own)

theorem rxFinished_eq : rxFinished s m n f t first stamp own = rxPassed (rxTallied s m n f t first own) m n f t first (rxErr s m f (rxDup s m f t)) stamp own
    (rxDrop s m f t (rxDup s m f t) own) := by
  have hview : SameView m (rxHits s m f t (rxErr s m f (rxDup s m f t))) s := .of_liveless (rxHits_frame ..)
  unfold rxFinished
  dsimp only
  rw [← rxDup, hview.rxDrop]
  rfl

theorem rxTallied_frame : SameView m (rxTallied s m n f t first own) s ∧ (rxTallied s m n f t first own).net.txq = s.net.txq ∧
    (∀ a, OffReception m n a → a ≠ R.macCnt m ((rxDrop s m f t (rxDup s m f t) own).getD 0) → liveOf (rxTallied s m n f t first own) a = liveOf s a) ∧
    (n < 8 → Counted (rxTallied s m n f t first own) s (R.macCnt m ((rxDrop s m f t (rxDup s m f t) own).getD 0))) := by
  have hcounted : liveless (rxCounted (rxHits s m f t (rxErr s m f (rxDup s m f t))) m n f (rxDrop s m f t (rxDup s m f t) own)) = liveless s :=
    (rxCounted_frame ..).trans (rxHits_frame ..)
  obtain ⟨hview, htxq, hlive⟩ := rxEntered_frame (rxCounted (rxHits s m f t (rxErr s m f (rxDup s m f t))) m n f (rxDrop s m f t (rxDup s m f t) own)) m f t first
    (rxErr s m f (rxDup s m f t)) own (rxDrop s m f t (rxDup s m f t) own)
  refine ⟨hview.trans (.of_liveless hcounted), htxq.trans (congrArg NetSt.txq (net_of_liveless hcounted)), fun a ha hne => ?_, fun hn => ?_⟩
  · rw [rxTallied, hlive a ha.full, liveOf_rxCounted _ m n f ha _ hne, liveOf_rxHits _ m n f t ha]
  · have hlt : (rxDrop s m f t (rxDup s m f t) own).getD 0 < 17 ∧ (rxDrop s m f t (rxDup s m f t) own).getD 0 ≠ 9 := by
      cases hc : rxDrop s m f t (rxDup s m f t) own with
      | none => exact ⟨by decide, by decide⟩
      | some c =>
        obtain ⟨hlt, h9, -⟩ := lt_of_rxDrop hc
        exact ⟨by rw [Option.getD_some]; omega, h9⟩
    have hoff := offReception_macCnt (m := m) hn m.isLt hlt.1 hlt.2 (.inl rfl)
    exact (counted_rxCounted _ m n f _ hoff).of_eq (hlive _ hoff.full) (liveOf_rxHits _ m n f t hoff _)

theorem rxPassed_frame (err : Nat) (c : Option Nat) : (rxPassed s m n f t first err stamp own c).net.txq = s.net.txq ∧
    (rxPassed s m n f t first err stamp own c).net.lres = s.net.lres ∧
    ∀ a, OffReception m n a → liveOf (rxPassed s m n f t first err stamp own c) a = liveOf s a := by
  unfold rxPassed
  split
  · split
    · exact ⟨rfl, rfl, fun _ _ => rfl⟩
    · exact ⟨rfl, rfl, fun _ _ => rfl⟩
  · split
    · obtain ⟨hlres, htxq, -, hlive⟩ := ringWrite_frame s m n (rxItem m f t stamp (wrongLan s m f)) (itemBeats f t)
      exact ⟨htxq, hlres, hlive⟩
    · exact ⟨rfl, rfl, fun _ _ => rfl⟩

/-- What the reception counts, whatever becomes of the frame. -/
theorem rxFinished_frame : (rxFinished s m n f t first stamp own).net.txq = s.net.txq ∧
    (∀ a, OffReception m n a → a ≠ R.macCnt m ((rxDrop s m f t (rxDup s m f t) own).getD 0) → liveOf (rxFinished s m n f t first stamp own) a = liveOf s a) := by
  obtain ⟨-, htxq, hlive, -⟩ := rxTallied_frame s m n f t first own
  obtain ⟨htxq', -, hlive'⟩ := rxPassed_frame (rxTallied s m n f t first own) m n f t first stamp own (rxErr s m f (rxDup s m f t))
    (rxDrop s m f t (rxDup s m f t) own)
  rw [rxFinished_eq]
  exact ⟨htxq'.trans htxq, fun a ha hne => (hlive' a ha).trans (hlive a ha hne)⟩

/-- A dropped frame: its counter, and its item where a cut-through consumer had begun to take it. -/
theorem rxFinished_dropped (hn : n < 8) {c : Nat} (hc : rxDrop s m f t (rxDup s m f t) own = some c) :
    let r := rxFinished s m n f t first stamp own
    Counted r s (R.macCnt m c) ∧ r.mem = s.mem ∧ (∀ k, rxRing r m k = rxRing s m k) ∧ (c = 7 → evt r (R.rxrEvt m n) 3 = true) ∧
      r.net.items = s.net.items ++ if 1 ≤ t.dest ∧ t.dest ≤ 3 ∧ own = false ∧ c ≠ 2 ∧ c ≠ 6 then [rxItemOf s m f t first stamp (rxDup s m f t)] else [] := by
  intro r
  obtain ⟨hview, -, -, hcount⟩ := rxTallied_frame s m n f t first own
  have hcnt := hcount hn
  rw [hc, Option.getD_some] at hcnt
  have hevt : c = 7 → evt (rxTallied s m n f t first own) (R.rxrEvt m n) 3 = true := by
    rintro rfl
    obtain ⟨-, -, hlive⟩ := rxEntered_frame (rxCounted (rxHits s m f t (rxErr s m f (rxDup s m f t))) m n f (some 7)) m f t first
      (rxErr s m f (rxDup s m f t)) own (some 7)
    have hne : R.rxrEvt m n ≠ R.macCnt m 17 := by
      simp only [R.rxrEvt, R.macCnt]
      omega
    rw [rxTallied, hc, evt, hlive _ hne]
    exact evt_rxCounted_full ..
  have hr : r = rxPassed (rxTallied s m n f t first own) m n f t first (rxErr s m f (rxDup s m f t)) stamp own (some c) := hc ▸ rxFinished_eq ..
  have hpass : r = (if 1 ≤ t.dest ∧ t.dest ≤ 3 ∧ own = false ∧ c ≠ 2 ∧ c ≠ 6
      then itemPut (rxTallied s m n f t first own) m f t (rxErr s m f (rxDup s m f t)) first stamp else rxTallied s m n f t first own) := by
    rw [hr, rxPassed]
    by_cases hdest : 1 ≤ t.dest ∧ t.dest ≤ 3
    · rw [if_pos hdest]
      cases own
      · by_cases hc26 : c = 2 ∨ c = 6
        · rw [if_pos (by simpa using hc26), if_neg (by omega)]
        · rw [if_neg (by simpa using hc26), if_pos ⟨hdest.1, hdest.2, rfl, by omega, by omega⟩]
      · simp
    · rw [if_neg hdest, if_neg (by simp), if_neg fun h => hdest ⟨h.1, h.2.1⟩]
  clear_value r
  rw [hpass]
  split
  · refine ⟨hcnt, hview.mem, hview.rxRing, hevt, ?_⟩
    change (rxTallied s m n f t first own).net.items ++ [_] = _
    rw [hview.items, rxItemOf, hview.now]
  · exact ⟨hcnt, hview.mem, hview.rxRing, hevt, hview.items.trans (List.append_nil _).symm⟩

/-- An accepted frame: its count, its key, and its place in the ring or with its consumer. -/
theorem rxFinished_accepted (hn : n < 8) (hok : 8 ≤ t.dest → ringOk (rxRing s m n) = true) (hc : rxDrop s m f t (rxDup s m f t) own = none) :
    let r := rxFinished s m n f t first stamp own
    Counted r s (R.macCnt m 0) ∧ (rxTable m f t = true → dupHas (lreOf r (m / 2)).dup f.sa.toNat (rxSeq f) = true) ∧
      (8 ≤ t.dest → (rxRing r m n).wr = ((rxRing s m n).wr + itemBeats f t) % max 1 (fld (shadowOf s (R.rxrCfg m n)) 15 0) ∧
        (rxRing r m n).rd = (rxRing s m n).rd ∧ ringOk (rxRing r m n) = true ∧ r.net.items = s.net.items) ∧
      (t.dest < 8 → r.mem = s.mem ∧ r.net.items = s.net.items ++ if 1 ≤ t.dest ∧ t.dest ≤ 3 then [rxItemOf s m f t first stamp (rxDup s m f t)] else []) := by
  intro r
  obtain ⟨hview, -, -, hcount⟩ := rxTallied_frame s m n f t first own
  obtain ⟨herr, hdup, hown, -⟩ := whole_of_rxDrop hc
  have hcnt := hcount hn
  have hr : r = rxPassed (rxTallied s m n f t first own) m n f t first (rxErr s m f (rxDup s m f t)) stamp own none := hc ▸ rxFinished_eq ..
  rw [hc, Option.getD_none] at hcnt
  have hkey : rxTable m f t = true → dupHas (lreOf (rxTallied s m n f t first own) (m / 2)).dup f.sa.toNat (rxSeq f) = true := by
    intro htable
    rw [rxTallied, hc, hdup, herr, hown, rxEntered, htable, if_pos (by decide)]
    exact (firstCopy_frame ..).2.2.1
  have hring (k : Nat) := hview.rxRing k
  rw [← hring] at hok
  obtain ⟨-, hlres, hlive⟩ := rxPassed_frame (rxTallied s m n f t first own) m n f t first stamp own (rxErr s m f (rxDup s m f t)) none
  refine ⟨?_, ?_, fun hdest => ?_, fun hdest => ?_⟩
  · rw [hr]
    exact hcnt.of_eq (hlive _ (offReception_macCnt hn m.isLt (by decide) (by decide) (.inl rfl))) rfl
  · rw [hr, lreOf_of_net hlres]
    exact hkey
  · have hw : r = ringWrite (rxTallied s m n f t first own) m n (rxItem m f t stamp (wrongLan (rxTallied s m n f t first own) m f)) (itemBeats f t) := by
      rw [hr, rxPassed, if_neg (by omega), if_pos ⟨hdest, rfl⟩]
    clear_value r
    rw [hw, ← hring, ← hview.shadowOf, ← hview.items]
    obtain ⟨hwr, hrd, hok'⟩ := ringWrite_spec (rxTallied s m n f t first own) m n (rxItem m f t stamp (wrongLan (rxTallied s m n f t first own) m f))
      (itemBeats f t) (hok hdest)
    exact ⟨hwr, hrd, hok', (ringWrite_frame ..).2.2.1⟩
  · have hw : r = (if 1 ≤ t.dest ∧ t.dest ≤ 3 then itemPut (rxTallied s m n f t first own) m f t (rxErr s m f (rxDup s m f t)) first stamp
        else rxTallied s m n f t first own) := by
      rw [hr, rxPassed, hown]
      by_cases h13 : 1 ≤ t.dest ∧ t.dest ≤ 3
      · rw [if_pos h13, if_pos h13]
        simp
      · rw [if_neg h13, if_neg h13, if_neg (by omega)]
    clear_value r
    rw [hw]
    split
    · refine ⟨hview.mem, ?_⟩
      change (rxTallied s m n f t first own).net.items ++ [_] = _
      rw [hview.items, rxItemOf, hview.now]
    · exact ⟨hview.mem, hview.items.trans (List.append_nil _).symm⟩

end Sys2Proof.Machine
end

section
/-! SUPPORT. A frame from its last bit to the duplicate table (R206, R217, R218, R226). -/

namespace Sys2Proof.Machine

variable (s : State) (m : Fin 5) (f : EthFrame) (first : Nat) (stamp : Int)

theorem dest_rxSteer_lt : (rxSteer s m f first).dest < 16 := by
  have hfld (w : Word) (lo : Nat) (h : lo = 24 ∨ lo = 28) : fld w (lo + 3) lo < 16 := by
    have hlt := fld_lt w (lo + 3) lo
    rcases h with rfl | rfl
    · exact hlt
    · exact hlt
  unfold rxSteer
  split
  · unfold steerMgt
    dsimp only
    split
    · exact (by decide : 8 < 16)
    · exact (by decide : 0 < 16)
  · unfold steer
    split
    · exact (by decide : 3 < 16)
    · split
      · exact hfld _ 24 (.inl rfl)
      · split
        · exact hfld _ 28 (.inr rfl)
        · exact hfld _ 28 (.inr rfl)

theorem lastRing_eq (d : Nat) : (if 8 ≤ d then d - 8 else 0) = d - 8 := by
  split <;> omega

theorem dupFreshened_frame : SameView m (dupFreshened s m) s ∧ (dupFreshened s m).live = s.live ∧ (dupFreshened s m).net.txq = s.net.txq := by
  unfold dupFreshened
  dsimp only
  split
  · exact ⟨.setLre .., rfl, rfl⟩
  · exact ⟨.refl .., rfl, rfl⟩

theorem lreOf_dupFreshened (h : m.val < 4) : lreOf (dupFreshened s m) (m / 2) = { lreOf s (m / 2) with
    dup := fresh s.now (lreOf s (m / 2)).dup, lastB := (lreOf s (m / 2)).lastB.filter fun u => decide (s.now / 4 = u.end_ / 4) } := by
  unfold dupFreshened
  dsimp only
  rw [if_pos h]
  exact lreOf_setLre_self ..

theorem txReady_frame (x : TxItem) : SameView m (txReady s x) s ∧ (txReady s x).live = s.live ∧ (txReady s x).net.lres = s.net.lres ∧
    (txReady s x).net.txq = s.net.txq ++ [{ x with order := s.gse.order }] := ⟨.of_net rfl rfl rfl rfl rfl rfl, rfl, rfl, rfl⟩

/-- A frame that goes on: its key among those forwarded, and the frame ready on the other port, unless the key was there. -/
theorem hsrForward_frame : SameView m (hsrForward s m f stamp) s ∧
    (∀ a, a ≠ R.macCnt m 16 → liveOf (hsrForward s m f stamp) a = liveOf s a) ∧
    (∃ l, lreOf (hsrForward s m f stamp) (m / 2) = { lreOf s (m / 2) with fwd := l }) ∧
    (dupHas (fresh s.now (lreOf s (m / 2)).fwd) f.sa.toNat (rxSeq f) = true → (hsrForward s m f stamp).net.txq = s.net.txq) ∧
    (dupHas (fresh s.now (lreOf s (m / 2)).fwd) f.sa.toNat (rxSeq f) = false → Counted (hsrForward s m f stamp) s (R.macCnt m 16) ∧
      ∃ i ∈ (hsrForward s m f stamp).net.txq, i.port = m / 2 * 2 + (1 - m % 2) ∧ i.body = .forward (fwdFrame s m f) stamp ∧ i.noRed = true) := by
  unfold hsrForward
  dsimp only
  rw [← rxSeq]
  split
  next hdup =>
    exact ⟨.setLre .., fun _ _ => rfl, ⟨_, lreOf_setLre_self ..⟩, fun _ => rfl, fun h => absurd hdup (by simp [h])⟩
  next hdup =>
    obtain ⟨hview, hlive, hlres, htxq⟩ := txReady_frame (macCount (setLre s (m / 2) { lreOf s (m / 2) with
      fwd := fresh s.now (lreOf s (m / 2)).fwd ++ [{ sa := f.sa.toNat, seq := rxSeq f, at_ := s.now }] }) m 16) m
      { port := m / 2 * 2 + (1 - m % 2), cls := fwdClass f, order := 0, from_ := m, noRed := true
        body := .forward (fwdFrame (setLre s (m / 2) { lreOf s (m / 2) with
          fwd := fresh s.now (lreOf s (m / 2)).fwd ++ [{ sa := f.sa.toNat, seq := rxSeq f, at_ := s.now }] }) m f) stamp }
    have hliveOf (a : Nat) := congrArg (fun l => mget 0#32 l a) hlive
    refine ⟨hview.trans ((SameView.of_liveless (liveless_macCount ..)).trans (.setLre ..)),
      fun a ha => (hliveOf a).trans (liveOf_macCount_of_ne _ ha), ⟨fresh s.now (lreOf s (m / 2)).fwd ++ [{ sa := f.sa.toNat, seq := rxSeq f, at_ := s.now }], ?_⟩, fun h => absurd h hdup,
      fun _ => ⟨?_, _, htxq ▸ List.mem_append_right _ (List.mem_singleton_self _), rfl, rfl, rfl⟩⟩
    · rw [lreOf_of_net hlres, lreOf_of_net (congrArg NetSt.lres (net_of_liveless (liveless_macCount ..))), lreOf_setLre_self]
    · exact (counted_macCount _ m 16).of_eq (hliveOf _) rfl

theorem lanFirst_of_none {sa seq : Nat} (h : (lreOf s (m / 2)).lastB = none) : lanFirst s m sa seq = s := by
  simp only [lanFirst, h]

theorem lanFirst_of_mode {sa seq : Nat} (h : lreMode s m ≠ 1) : lanFirst s m sa seq = s := by
  unfold lanFirst
  dsimp only
  split
  · rfl
  · exact if_pos (.inl h)

/-- The port once the frame has gone on, where it goes on. -/
def rxForwarded (s : State) (m : Nat) (g : EthFrame) (stamp : Int) : State :=
  if hsrGoesOn s m g then hsrForward (macBlink s m) m g stamp else macBlink s m

theorem rxForwarded_frame : SameView m (rxForwarded s m f stamp) s ∧
    (∀ a, a ≠ R.macCnt m 16 → liveOf (rxForwarded s m f stamp) a = liveOf s a) ∧
    ∃ l, lreOf (rxForwarded s m f stamp) (m / 2) = { lreOf s (m / 2) with fwd := l } := by
  obtain ⟨hview, hlive, hlres, -⟩ := macBlink_frame s m
  have hliveOf (a : Nat) : liveOf (macBlink s m) a = liveOf s a := by rw [liveOf, hlive, liveOf]
  unfold rxForwarded
  split
  · obtain ⟨hview', hlive', ⟨l, hl⟩, -⟩ := hsrForward_frame (macBlink s m) m f stamp
    exact ⟨hview'.trans hview, fun a ha => (hlive' a ha).trans (hliveOf a), l, by rw [hl, lreOf_of_net hlres]⟩
  · exact ⟨hview, fun a _ => hliveOf a, (lreOf s (m / 2)).fwd, lreOf_of_net hlres _⟩

/-- The port of a frame that was on and had its link at the frame's first byte. -/
structure RxHeld (s : State) (m : Nat) (first : Nat) : Prop where
  on : macOn s m = true
  link : (macOf s m).link = true
  near : lbNear s m = false
  onAt : (macOf s m).onAt ≤ first
  upAt : (macOf s m).upAt ≤ first

theorem macFrameRx_of_held (frac : Fin 1024) (h : RxHeld s m (s.now - frameNs s m (wireLen f))) : exec (.macFrameRx m f frac) s = .next (
    let g := asSeen s m f
    let first := s.now - frameNs s m (wireLen f)
    let stamp := if m.val = 4 then 0 else rxStamp s m frac (wireLen f)
    if hsrOther s m g = true ∧ g.sa.toNat ≠ macAddr s m then
      (match rxDrop (rxForwarded s m g stamp) m g { hit := 3, dest := 3 } false false with
        | some c => macCount (rxForwarded s m g stamp) m c
        | none => rxForwarded s m g stamp)
    else macReceive (rxForwarded s m g stamp) m g first stamp) := by
  obtain ⟨hon, hlink, hnear, honAt, hupAt⟩ := h
  obtain ⟨hblink, -⟩ := macBlink_frame s m
  have hg : asSeen (macBlink s m) m { f with linkHeld := f.linkHeld && macOn (macBlink s m) m && (false || (macOf s m).link) } = asSeen s m f := by
    rw [hblink.asSeen, macOn, hblink.shadowOf, ← macOn, hon, hlink, Bool.and_true, Bool.or_true, Bool.and_true]
  have hheld : ¬(!heldAt (macOn s m) (macOf s m).onAt (macOf s m).offAt (s.now - frameNs s m (wireLen f)) ||
      !(false || heldAt (macOf s m).link (macOf s m).upAt (macOf s m).downAt (s.now - frameNs s m (wireLen f)))) = true := by
    simp [heldAt, hon, hlink, honAt, hupAt]
  refine congrArg Host.Outcome.next ?_
  rw [if_neg (by simp [hnear])]
  unfold macRxIn
  dsimp only
  rw [if_neg hheld, hg, hblink.hsrGoesOn, ← rxForwarded]
  have hview := (rxForwarded_frame s m (asSeen s m f) (if m.val = 4 then 0 else rxStamp s m frac (wireLen f))).1
  rw [hview.hsrOther, hview.macAddr] <;> rfl

/-- The port as the frame's end finds it: the frame gone on where it does, the duplicate table fresh. -/
def rxReadyAt (s : State) (m : Nat) (g : EthFrame) (stamp : Int) : State := dupFreshened (rxForwarded s m g stamp) m

theorem rxReadyAt_frame : SameView m (rxReadyAt s m f stamp) s ∧ (∀ a, a ≠ R.macCnt m 16 → liveOf (rxReadyAt s m f stamp) a = liveOf s a) ∧
    (m.val < 4 → (lreOf (rxReadyAt s m f stamp) (m / 2)).dup = fresh s.now (lreOf s (m / 2)).dup ∧
      (lreOf (rxReadyAt s m f stamp) (m / 2)).lastB = (lreOf s (m / 2)).lastB.filter fun u => decide (s.now / 4 = u.end_ / 4)) := by
  obtain ⟨hview, hlive, l, hlre⟩ := rxForwarded_frame s m f stamp
  obtain ⟨hview', hlive', -⟩ := dupFreshened_frame (rxForwarded s m f stamp) m
  refine ⟨hview'.trans hview, fun a ha => Eq.trans (by rw [liveOf, rxReadyAt, hlive', liveOf]) (hlive a ha), fun hm => ?_⟩
  rw [rxReadyAt, lreOf_dupFreshened _ m hm, hlre, hview.now]
  exact ⟨rfl, rfl⟩

theorem rxDup_of_fresh {t : Steer} (w : State) (h : m.val < 4 → (lreOf w (m / 2)).dup = fresh s.now (lreOf s (m / 2)).dup) :
    rxDup w m f t = (rxTable m f t && dupHas (fresh s.now (lreOf s (m / 2)).dup) f.sa.toNat (rxSeq f)) := by
  unfold rxDup
  by_cases hm : m.val < 4
  · rw [h hm]
  · simp [rxTable, hm]

/-- A reception whose ring's pointers agree. -/
theorem macReceive_of_ok (hok : 8 ≤ (rxSteer s m f first).dest → ringOk (rxRing s m ((rxSteer s m f first).dest - 8)) = true) :
    macReceive s m f first stamp = rxFinished
      (if rxTable m f (rxSteer s m f first) && rxErr s m f false == 0 then lanFirst (dupFreshened s m) m f.sa.toNat (rxSeq f) else dupFreshened s m)
      m ((rxSteer s m f first).dest - 8) f (rxSteer s m f first) first stamp (rxOwn s m f) := by
  have hcheck : (if 8 ≤ (rxSteer s m f first).dest then rxCheck s m ((rxSteer s m f first).dest - 8) else s) = s := by
    split
    next h => exact rxCheck_of_ok s m (hok h)
    next => rfl
  obtain ⟨hview, -⟩ := dupFreshened_frame s m
  rw [macReceive_eq]
  dsimp only
  rw [lastRing_eq, hcheck, hview.rxErr]

end Sys2Proof.Machine
end

section
/-! SUPPORT. Of two PRP copies that end in one BUS cycle the one from LAN A is kept (R226). -/

namespace Sys2Proof.Machine

theorem SameView.of_postFrame {m : Nat} {r s : State} (h : postFrame r = postFrame s) : SameView m r s :=
  .of_net (congrArg State.shadow h :) (congrArg State.force h :) (congrArg State.now h :) (congrArg State.mem h :)
    (congrArg (fun u : State => u.net.items) h :) (congrArg (fun u : State => u.net.macs) h :)

theorem sameView_setRxRing {m k : Nat} (s : State) (n : Nat) (r : Ring) (h : k ≠ m) : SameView m (setRxRing s k n r) s :=
  sameView_setMac s m k (fun hk => absurd hk h) ⟨rfl, rfl⟩

theorem sameView_rxSide {m : Nat} (s : State) (k : Fin 5) (n : Nat) (h : k.val ≠ m) : SameView m (rxSide s k n) s := by
  rcases rxSide_cases s k n with hs | ⟨b, hb⟩
  · rw [hs]
    exact .refl ..
  · exact (SameView.of_postFrame hb).trans (sameView_setRxRing s n _ h)

/-- The state in which the copy from LAN B is the duplicate, its beats still in its ring. -/
def lanBUndone (s : State) (m sa seq k : Nat) : State :=
  let x := lreOf s (m / 2)
  let s := setLre s (m / 2) { x with lastB := none, dup := x.dup.filter fun e => !(e.sa == sa && e.seq == seq) }
  let s := setLive s (R.macCnt k 0) (liveOf s (R.macCnt k 0) - 1)
  macCount s k 8

/-- The beats of the copy from LAN B leave their ring. -/
def lanBTaken (s : State) (u : RxUndo) : State :=
  let n := u.dest - 8
  let k := max 1 (ringSize (shadowOf s (R.rxrCfg u.mac n)))
  let r := rxRing s u.mac n
  let w := (r.wr + k - u.beats % k) % k
  rxSide (setRxRing s u.mac n { r with wr := w, wrC := w }) u.mac n

variable (s : State) (m : Fin 5) (sa seq : Nat)

theorem lanBUndone_frame (k : Nat) : SameView m (lanBUndone s m sa seq k) s ∧ dupHas (lreOf (lanBUndone s m sa seq k) (m / 2)).dup sa seq = false ∧
    (∀ a, a ≠ R.macCnt k 0 → a ≠ R.macCnt k 8 → liveOf (lanBUndone s m sa seq k) a = liveOf s a) ∧
    liveOf (lanBUndone s m sa seq k) (R.macCnt k 0) = liveOf s (R.macCnt k 0) - 1 ∧ Counted (lanBUndone s m sa seq k) s (R.macCnt k 8) := by
  have h08 : R.macCnt k 0 ≠ R.macCnt k 8 := by
    simp only [R.macCnt]
    omega
  unfold lanBUndone
  dsimp only
  refine ⟨(SameView.of_liveless (liveless_macCount ..)).trans (.of_net rfl rfl rfl rfl rfl rfl), ?_, fun a h0 h8 => ?_, ?_, ?_⟩
  · rw [lreOf_of_net (congrArg NetSt.lres (net_of_liveless (liveless_macCount ..))), lreOf_setLive, lreOf_setLre_self]
    simp only [dupHas, List.any_eq_false, List.mem_filter]
    rintro e ⟨-, he⟩ h
    simp [h] at he
  · rw [liveOf_macCount_of_ne _ h8, liveOf_setLive_of_ne h0]
    rfl
  · rw [liveOf_macCount_of_ne _ h08, liveOf_setLive_self]
    rfl
  · exact (counted_macCount _ k 8).of_eq rfl (liveOf_setLive_of_ne h08.symm)

variable {s m} {u : RxUndo} (hmode : lreMode s m = 1) (heven : m.val % 2 = 0) (hlast : (lreOf s (m / 2)).lastB = some u) (hmac : u.mac = m.val + 1)
  (hdest : 8 ≤ u.dest)
include hmode heven hlast hmac hdest

/-- The copy from LAN B that ended in this cycle loses its count, its key and its beats. -/
theorem lanFirst_spec : let r := lanFirst s m u.sa u.seq
    SameView m r s ∧ dupHas (lreOf r (m / 2)).dup u.sa u.seq = false ∧ (∀ k, k < 17 → liveOf r (R.macCnt m k) = liveOf s (R.macCnt m k)) ∧
      liveOf r (R.macCnt u.mac 0) = liveOf s (R.macCnt u.mac 0) - 1 ∧ Counted r s (R.macCnt u.mac 8) := by
  intro r
  have hmac' : m.val + 1 < 5 := by
    have hlt : ¬4 ≤ m.val := fun h => by simp [lreMode, h] at hmode
    omega
  have htaken : r = lanBTaken (lanBUndone s m u.sa u.seq u.mac) u := by
    simp only [r, lanFirst, hlast]
    rw [if_neg (by rw [hmode, heven]; omega), if_neg (by omega)]
    rfl
  obtain ⟨ring, hr⟩ : ∃ ring, r = rxSide (setRxRing (lanBUndone s m u.sa u.seq u.mac) u.mac (u.dest - 8) ring) u.mac (u.dest - 8) := ⟨_, htaken⟩
  obtain ⟨hview, hdup, hlive, hminus, hcount⟩ := lanBUndone_frame s m u.sa u.seq u.mac
  generalize lanBUndone s m u.sa u.seq u.mac = v at hr hview hdup hlive hminus hcount
  have hoff (q k : Nat) (hq : q < 5) (hqm : q ≤ u.mac) (hk : k < 17) : liveOf r (R.macCnt q k) = liveOf v (R.macCnt q k) := by
    rw [hr, liveOf_rxSide _ u.mac (u.dest - 8) (offStores_macCnt hq hk).1 (by simp only [R.macCnt, R.rxrEvt]; omega) (by simp only [R.macCnt, R.rxrCnt]; omega)]
    rfl
  have hlres : r.net.lres = v.net.lres := by
    rw [hr, hmac]
    exact (net_rxSide (m := ⟨m.val + 1, hmac'⟩) ..).1
  refine ⟨?_, ?_, fun k hk => ?_, ?_, ?_⟩
  · rw [hr, hmac]
    exact ((sameView_rxSide _ ⟨m.val + 1, hmac'⟩ _ (by simp)).trans (sameView_setRxRing _ _ _ (by omega))).trans hview
  · rw [lreOf_of_net hlres]
    exact hdup
  · rw [hoff m k m.isLt (by omega) hk, hlive _ (by simp only [R.macCnt]; omega) (by simp only [R.macCnt]; omega)]
  · rw [hoff u.mac 0 (by omega) (Nat.le_refl _) (by decide), hminus]
  · exact hcount.of_eq (hoff u.mac 8 (by omega) (Nat.le_refl _) (by decide)) rfl

end Sys2Proof.Machine
end

section
/-! PROOF. The end of a received frame (O43; R200, R203, R206, R209 to R213, R217, R218, R226). -/

namespace Sys2Proof.Machine

variable (s : State) (m : Fin 5) (f : EthFrame) (frac : Fin 1024)

/-- The stamp a frame gets. -/
def stampOf (s : State) (m : Nat) (frac : Fin 1024) (f : EthFrame) : Int := if m = 4 then 0 else rxStamp s m frac (wireLen f)

/-- The instant of a frame's first byte. -/
def firstOf (s : State) (m : Nat) (f : EthFrame) : Nat := s.now - frameNs s m (wireLen f)

/-- A received frame on a port of which no copy from LAN B is undone. -/
theorem macFrameRx_finished (h : RxHeld s m (firstOf s m f))
    (hother : ¬(hsrOther s m (asSeen s m f) = true ∧ (asSeen s m f).sa.toNat ≠ macAddr s m))
    (hok : 8 ≤ (rxSteer s m (asSeen s m f) (firstOf s m f)).dest →
      ringOk (rxRing s m ((rxSteer s m (asSeen s m f) (firstOf s m f)).dest - 8)) = true) :
    let g := asSeen s m f
    let t := rxSteer s m g (firstOf s m f)
    let v := rxReadyAt s m g (stampOf s m frac f)
    exec (.macFrameRx m f frac) s = .next (rxFinished (if rxTable m g t && rxErr s m g false == 0 then lanFirst v m g.sa.toNat (rxSeq g) else v)
      m (t.dest - 8) g t (firstOf s m f) (stampOf s m frac f) (rxOwn s m g)) := by
  intro g t v
  have hx := macFrameRx_of_held s m f frac h
  dsimp only at hx
  rw [if_neg hother] at hx
  obtain ⟨hview, -⟩ := rxForwarded_frame s m g (stampOf s m frac f)
  have hsteer : rxSteer (rxForwarded s m g (stampOf s m frac f)) m g (firstOf s m f) = t := hview.rxSteer ..
  have hrx := macReceive_of_ok (rxForwarded s m g (stampOf s m frac f)) m g (firstOf s m f) (stampOf s m frac f)
  rw [hsteer, hview.rxRing, hview.rxErr, hview.rxOwn] at hrx
  exact hx.trans (congrArg Host.Outcome.next (hrx hok))

/-- The frame's end where no copy from LAN B ended in its cycle. -/
theorem frame_of_single (h : RxHeld s m (firstOf s m f))
    (hother : ¬(hsrOther s m (asSeen s m f) = true ∧ (asSeen s m f).sa.toNat ≠ macAddr s m))
    (hok : 8 ≤ (rxSteer s m (asSeen s m f) (firstOf s m f)).dest →
      ringOk (rxRing s m ((rxSteer s m (asSeen s m f) (firstOf s m f)).dest - 8)) = true)
    (hlast : ∀ u, (lreOf s (m / 2)).lastB = some u → u.end_ / 4 ≠ s.now / 4) :
    let g := asSeen s m f
    let t := rxSteer s m g (firstOf s m f)
    let v := rxReadyAt s m g (stampOf s m frac f)
    exec (.macFrameRx m f frac) s = .next (rxFinished v m (t.dest - 8) g t (firstOf s m f) (stampOf s m frac f) (rxOwn s m g)) := by
  intro g t v
  obtain ⟨-, -, hlre⟩ := rxReadyAt_frame s m g (stampOf s m frac f)
  have hv : (if rxTable m g t && rxErr s m g false == 0 then lanFirst v m g.sa.toNat (rxSeq g) else v) = v := by
    split
    next ht =>
      have hm : m.val < 4 := by simp only [rxTable, Bool.and_eq_true, decide_eq_true_eq] at ht; omega
      refine lanFirst_of_none v m ((hlre hm).2.trans ?_)
      cases hb : (lreOf s (m / 2)).lastB with
      | none => rfl
      | some u => simp [Ne.symm (hlast u hb)]
    next => rfl
  exact (macFrameRx_finished s m f frac h hother hok).trans
    (congrArg (fun w => Host.Outcome.next (rxFinished w m (t.dest - 8) g t (firstOf s m f) (stampOf s m frac f) (rxOwn s m g))) hv)

theorem frameEnds (h : RxHeld s m (firstOf s m f))
    (hother : ¬(hsrOther s m (asSeen s m f) = true ∧ (asSeen s m f).sa.toNat ≠ macAddr s m))
    (hok : 8 ≤ (rxSteer s m (asSeen s m f) (firstOf s m f)).dest →
      ringOk (rxRing s m ((rxSteer s m (asSeen s m f) (firstOf s m f)).dest - 8)) = true)
    (hlast : ∀ u, (lreOf s (m / 2)).lastB = some u → u.end_ / 4 ≠ s.now / 4) :
    let g := asSeen s m f
    let t := rxSteer s m g (firstOf s m f)
    let n := t.dest - 8
    let own := rxOwn s m g
    let dup := rxTable m g t && dupHas (fresh s.now (lreOf s (m / 2)).dup) g.sa.toNat (rxSeq g)
    let item := rxItemOf s m g t (firstOf s m f) (stampOf s m frac f) dup
    (∀ c, rxDrop s m g t dup own = some c → Answers (exec (.macFrameRx m f frac) s) fun r =>
      Counted r s (R.macCnt m c) ∧ r.mem = s.mem ∧ (∀ k, rxRing r m k = rxRing s m k) ∧ (c = 7 → evt r (R.rxrEvt m n) 3 = true) ∧
      r.net.items = s.net.items ++ if 1 ≤ t.dest ∧ t.dest ≤ 3 ∧ own = false ∧ c ≠ 2 ∧ c ≠ 6 then [item] else []) ∧
    (rxDrop s m g t dup own = none → Answers (exec (.macFrameRx m f frac) s) fun r =>
      Counted r s (R.macCnt m 0) ∧ (rxTable m g t = true → dupHas (lreOf r (m / 2)).dup g.sa.toNat (rxSeq g) = true) ∧
      (8 ≤ t.dest → (rxRing r m n).wr = ((rxRing s m n).wr + itemBeats g t) % max 1 (fld (shadowOf s (R.rxrCfg m n)) 15 0) ∧
        (rxRing r m n).rd = (rxRing s m n).rd ∧ ringOk (rxRing r m n) = true ∧ r.net.items = s.net.items) ∧
      (t.dest < 8 → r.mem = s.mem ∧ r.net.items = s.net.items ++ if 1 ≤ t.dest ∧ t.dest ≤ 3 then [item] else [])) := by
  intro g t n own dup item
  rw [frame_of_single s m f frac h hother hok hlast]
  obtain ⟨hview, hlive, hlre⟩ := rxReadyAt_frame s m g (stampOf s m frac f)
  have hdup : rxDup (rxReadyAt s m g (stampOf s m frac f)) m g t = dup := rxDup_of_fresh s m g _ fun hm => (hlre hm).1
  have hitem : rxItemOf (rxReadyAt s m g (stampOf s m frac f)) m g t (firstOf s m f) (stampOf s m frac f) dup = item := by
    simp only [item, rxItemOf, hview.now, hview.rxErr]
  have hn : n < 8 := by
    have hlt : t.dest < 16 := dest_rxSteer_lt s m g (firstOf s m f)
    omega
  have hdrop : rxDrop (rxReadyAt s m g (stampOf s m frac f)) m g t (rxDup (rxReadyAt s m g (stampOf s m frac f)) m g t) own = rxDrop s m g t dup own := by
    rw [hdup, hview.rxDrop]
  have hcnt {r : State} {c : Nat} (hc : c ≠ 16) (hr : Counted r (rxReadyAt s m g (stampOf s m frac f)) (R.macCnt m c)) : Counted r s (R.macCnt m c) :=
    hr.of_eq rfl (hlive _ (by simp only [R.macCnt]; omega))
  refine ⟨fun c hc => ⟨_, rfl, ?_⟩, fun hc => ⟨_, rfl, ?_⟩⟩
  · obtain ⟨hcount, hmem, hring, hevt, hitems⟩ := rxFinished_dropped _ m n g t (firstOf s m f) (stampOf s m frac f) own hn (hdrop.trans hc)
    rw [hdup, hitem, hview.items] at hitems
    have hlt := lt_of_rxDrop hc
    exact ⟨hcnt (by omega) hcount, hmem.trans hview.mem, fun k => (hring k).trans (hview.rxRing k), hevt, hitems⟩
  · obtain ⟨hcount, hkey, hring, hitems⟩ := rxFinished_accepted _ m n g t (firstOf s m f) (stampOf s m frac f) own hn
      (fun hd => (congrArg ringOk (hview.rxRing n)).trans (hok hd)) (hdrop.trans hc)
    rw [hview.rxRing, hview.shadowOf, hview.items] at hring
    rw [hdup, hitem, hview.items, hview.mem] at hitems
    exact ⟨hcnt (by decide) hcount, hkey, hring, hitems⟩

/-- The copy on LAN A of a frame whose copy on LAN B ended in the same cycle is the first. -/
theorem lanACopy (h : RxHeld s m (firstOf s m f)) {u : RxUndo} :
    let g := asSeen s m f
    let t := rxSteer s m g (firstOf s m f)
    lreMode s m = 1 → m.val % 2 = 0 → (lreOf s (m / 2)).lastB = some u → u.end_ / 4 = s.now / 4 → u.mac = m.val + 1 → u.sa = g.sa.toNat →
      u.seq = rxSeq g → 8 ≤ u.dest → 8 ≤ t.dest → rxTable m g t = true → ringOk (rxRing s m (t.dest - 8)) = true → rxDrop s m g t false false = none →
      Answers (exec (.macFrameRx m f frac) s) fun r => Counted r s (R.macCnt m 0) ∧
        liveOf r (R.macCnt u.mac 0) = liveOf s (R.macCnt u.mac 0) - 1 ∧ Counted r s (R.macCnt u.mac 8) := by
  intro g t hmode heven hlast hend hmac hsa hseq hud htd htable hok hdrop
  have hm : m.val < 4 := by
    simp only [rxTable, Bool.and_eq_true, decide_eq_true_eq] at htable
    omega
  obtain ⟨herr, -⟩ := whole_of_rxDrop hdrop
  obtain ⟨hview, hlive, hlre⟩ := rxReadyAt_frame s m g (stampOf s m frac f)
  have hlast' : (lreOf (rxReadyAt s m g (stampOf s m frac f)) (m / 2)).lastB = some u := by
    rw [(hlre hm).2, hlast]
    simp [hend]
  have hown : rxOwn s m g = false := by simp [rxOwn, hmode]
  have hx := macFrameRx_finished s m f frac h (by simp [hsrOther, hmode]) (fun _ => hok)
  have hw : (if rxTable m g t && rxErr s m g false == 0 then lanFirst (rxReadyAt s m g (stampOf s m frac f)) m g.sa.toNat (rxSeq g)
      else rxReadyAt s m g (stampOf s m frac f)) = lanFirst (rxReadyAt s m g (stampOf s m frac f)) m u.sa u.seq := by
    rw [htable, herr, hsa, hseq]
    rfl
  obtain ⟨hview', hdup, hsame, hminus, hdups⟩ := lanFirst_spec ((hview.lreMode m).trans hmode) heven hlast' hmac hud
  have hx' := hx.trans (congrArg (fun w => Host.Outcome.next (rxFinished w m (t.dest - 8) g t (firstOf s m f) (stampOf s m frac f) (rxOwn s m g))) hw)
  rw [hx', hown]
  generalize lanFirst (rxReadyAt s m g (stampOf s m frac f)) m u.sa u.seq = w at hview' hdup hsame hminus hdups
  have hfresh : rxDup w m g t = false := by
    rw [rxDup, ← hsa, ← hseq, hdup, Bool.and_false]
  have hview2 := hview'.trans hview
  have hn : t.dest - 8 < 8 := by
    have hlt : t.dest < 16 := dest_rxSteer_lt s m g (firstOf s m f)
    omega
  have hc : rxDrop w m g t (rxDup w m g t) false = none := by rw [hfresh, hview2.rxDrop, hdrop]
  obtain ⟨hcount, -⟩ := rxFinished_accepted w m (t.dest - 8) g t (firstOf s m f) (stampOf s m frac f) false hn
    (fun _ => (congrArg ringOk (hview2.rxRing _)).trans hok) hc
  obtain ⟨-, hfin⟩ := rxFinished_frame w m (t.dest - 8) g t (firstOf s m f) (stampOf s m frac f) false
  rw [hc, Option.getD_none] at hfin
  have hmac5 : u.mac < 5 := by omega
  have hkeep (k : Nat) (hk : k < 17) (h9 : k ≠ 9) (h8 : k % 8 = 0) :
      liveOf (rxFinished w m (t.dest - 8) g t (firstOf s m f) (stampOf s m frac f) false) (R.macCnt u.mac k) = liveOf w (R.macCnt u.mac k) :=
    hfin _ (offReception_macCnt hn hmac5 hk h9 (.inr h8)) (by simp only [R.macCnt]; omega)
  have hfrom (q k : Nat) (hne : R.macCnt q k ≠ R.macCnt m 16) := hlive (R.macCnt q k) hne
  refine ⟨_, rfl, hcount.of_eq rfl ((hsame 0 (by decide)).trans (hfrom m 0 ?_)), ?_, hdups.of_eq (hkeep 8 (by decide) (by decide) rfl) (hfrom u.mac 8 ?_)⟩
  · simp only [R.macCnt]
    omega
  · rw [hkeep 0 (by decide) (by decide) rfl, hminus, hfrom u.mac 0 (by simp only [R.macCnt]; omega)]
  · simp only [R.macCnt]
    omega

/-- A ring's check touches its ring and its own registers. -/
theorem rxCheck_frame (n : Nat) : (rxCheck s m n).net.txq = s.net.txq ∧ liveOf (rxCheck s m n) (R.macCnt m 16) = liveOf s (R.macCnt m 16) ∧
    (rxCheck s m n).shadow = s.shadow := by
  have hoff : OffPosts (R.macCnt m 16) := (offStores_macCnt m.isLt (by decide)).1
  have hevt : R.macCnt m 16 ≠ R.rxrEvt m n ∧ R.macCnt m 16 ≠ R.rxrCnt m n ∧ R.macCnt m 16 ≠ R.macEvt m ∧ R.macCnt m 16 ≠ R.diagPtrSum := by
    simp only [R.macCnt, R.rxrEvt, R.rxrCnt, R.macEvt, R.diagPtrSum]
    omega
  obtain ⟨hre, hrc, hme, hps⟩ := hevt
  unfold rxCheck
  split
  · exact ⟨rfl, rfl, rfl⟩
  · have hreset : ringPtrReset s m n false = macNote (almPost (ptrSum (setEvt (setEvt (rxSide (setRxRing s m n { side := (rxRing s m n).side }) m n)
        (R.rxrEvt m n) 4) (R.macEvt m) 5) (4 + m)) 1 (4 + m) 0x01 none [word (b2n false 3 + n)]) m 0 0x01 (b2n false 3 + n) := rfl
    have hf : postFrame (ringPtrReset s m n false) = postFrame (rxSide (setRxRing s m n { side := (rxRing s m n).side }) m n) := by
      rw [hreset, postFrame_macNote, postFrame_almPost, ptrSum, postFrame_setEvt, postFrame_setEvt, postFrame_setEvt]
    refine ⟨(congrArg (fun u : State => u.net.txq) hf :).trans ((net_rxSide ..).2.1.trans rfl), ?_, (congrArg State.shadow hf :).trans ?_⟩
    · rw [hreset, macNote, liveOf_notifyAll _ hoff, liveOf_almPost hoff, ptrSum, liveOf_setEvt_of_ne hps, liveOf_setEvt_of_ne hme, liveOf_setEvt_of_ne hre,
        liveOf_rxSide _ m n hoff hre hrc]
      rfl
    · rcases rxSide_cases (setRxRing s m n { side := (rxRing s m n).side }) m n with h | ⟨b, h⟩
      · rw [h]
        rfl
      · exact (congrArg State.shadow h :)

/-- The reception in HSR mode sends nothing on by itself. -/
theorem macReceive_frame (g : EthFrame) (first : Nat) (stamp : Int) (hmode : lreMode s m = 2) :
    (macReceive s m g first stamp).net.txq = s.net.txq ∧ liveOf (macReceive s m g first stamp) (R.macCnt m 16) = liveOf s (R.macCnt m 16) := by
  have hn : (rxSteer s m g first).dest - 8 < 8 := by
    have hlt := dest_rxSteer_lt s m g first
    omega
  have hcheck : ∃ u, (if 8 ≤ (rxSteer s m g first).dest then rxCheck s m ((rxSteer s m g first).dest - 8) else s) = u ∧ u.net.txq = s.net.txq ∧
      liveOf u (R.macCnt m 16) = liveOf s (R.macCnt m 16) ∧ u.shadow = s.shadow := by
    split
    · exact ⟨_, rfl, rxCheck_frame ..⟩
    · exact ⟨_, rfl, rfl, rfl, rfl⟩
  obtain ⟨u, hu, htxq, hlive, hshadow⟩ := hcheck
  obtain ⟨hview, hlive', htxq'⟩ := dupFreshened_frame u m
  have hmode' : lreMode (dupFreshened u m) m ≠ 1 := by
    have h2 : lreMode u m = 2 := by
      rw [← hmode]
      unfold lreMode shadowOf
      rw [hshadow]
    rw [hview.lreMode, h2]
    decide
  have hlan (c : Bool) : (if c = true then lanFirst (dupFreshened u m) m g.sa.toNat (rxSeq g) else dupFreshened u m) = dupFreshened u m := by
    rw [lanFirst_of_mode _ _ hmode', ite_self]
  have hne (c : Option Nat) (hc : ∀ d, c = some d → d < 12) : R.macCnt m 16 ≠ R.macCnt m (c.getD 0) := by
    cases c with
    | none => simp only [R.macCnt, Option.getD_none]; omega
    | some d =>
      have hd := hc d rfl
      simp only [R.macCnt, Option.getD_some]
      omega
  rw [macReceive_eq]
  dsimp only
  rw [lastRing_eq, hu, hlan]
  obtain ⟨hfin, hfinLive⟩ := rxFinished_frame (dupFreshened u m) m ((rxSteer s m g first).dest - 8) g (rxSteer s m g first) first stamp (rxOwn u m g)
  refine ⟨hfin.trans (htxq'.trans htxq), (hfinLive _ (offReception_macCnt hn m.isLt (by decide) (by decide) (.inl rfl)) (hne _ fun d hd => (lt_of_rxDrop hd).1)).trans ?_⟩
  rw [← hlive, liveOf, hlive', liveOf]

/-- What follows a frame that goes on neither sends nor counts as sent on. -/
theorem macFrameRx_forwarded (h : RxHeld s m (firstOf s m f)) (hgo : hsrGoesOn s m (asSeen s m f) = true) :
    let g := asSeen s m f
    let v := hsrForward (macBlink s m) m g (stampOf s m frac f)
    Answers (exec (.macFrameRx m f frac) s) fun r => r.net.txq = v.net.txq ∧ liveOf r (R.macCnt m 16) = liveOf v (R.macCnt m 16) ∧
      (hsrOther s m g = true → r.mem = s.mem ∧ r.net.items = s.net.items) := by
  intro g v
  have hv : rxForwarded s m g (stampOf s m frac f) = v := if_pos hgo
  obtain ⟨hview, -⟩ := rxForwarded_frame s m g (stampOf s m frac f)
  rw [hv] at hview
  simp only [hsrGoesOn, Bool.and_eq_true, decide_eq_true_eq] at hgo
  obtain ⟨⟨⟨hmode, hsa⟩, -⟩, -⟩ := hgo
  rw [macFrameRx_of_held s m f frac h]
  dsimp only
  rw [← stampOf, hv]
  split
  · refine ⟨_, rfl, ?_⟩
    split
    next c hc =>
      have hlt := lt_of_rxDrop hc
      exact ⟨rfl, liveOf_macCount_of_ne _ (by simp only [R.macCnt]; omega), fun _ => ⟨hview.mem, hview.items⟩⟩
    next => exact ⟨rfl, rfl, fun _ => ⟨hview.mem, hview.items⟩⟩
  next hother =>
    obtain ⟨htxq, hlive⟩ := macReceive_frame v m g (firstOf s m f) (stampOf s m frac f) ((hview.lreMode m).trans hmode)
    exact ⟨_, rfl, htxq, hlive, fun ho => absurd ⟨ho, hsa⟩ hother⟩

/-- A frame of an HSR ring that goes on (R218). -/
theorem frameGoesOn (h : RxHeld s m (firstOf s m f)) : let g := asSeen s m f
    hsrGoesOn s m g = true → dupHas (fresh s.now (lreOf s (m / 2)).fwd) g.sa.toNat (rxSeq g) = false →
      Answers (exec (.macFrameRx m f frac) s) fun r => Counted r s (R.macCnt m 16) ∧ (∃ i ∈ r.net.txq, i.port = m / 2 * 2 + (1 - m % 2) ∧
        i.body = .forward (fwdFrame s m g) (stampOf s m frac f) ∧ i.noRed = true) ∧ (hsrOther s m g = true → r.mem = s.mem ∧ r.net.items = s.net.items) := by
  intro g hgo hnew
  obtain ⟨hview, hblinkLive, hlres, -⟩ := macBlink_frame s m
  obtain ⟨-, -, -, -, hgone⟩ := hsrForward_frame (macBlink s m) m g (stampOf s m frac f)
  rw [lreOf_of_net hlres, hview.now, hview.fwdFrame] at hgone
  obtain ⟨hcount, hitem⟩ := hgone hnew
  obtain ⟨r, hr, htxq, hlive, hother⟩ := macFrameRx_forwarded s m f frac h hgo
  exact ⟨r, hr, hcount.of_eq hlive (by rw [liveOf, hblinkLive, liveOf]), htxq ▸ hitem, hother⟩

/-- A frame of an HSR ring that has gone on before. -/
theorem frameWentOn (h : RxHeld s m (firstOf s m f)) : let g := asSeen s m f
    hsrGoesOn s m g = true → dupHas (fresh s.now (lreOf s (m / 2)).fwd) g.sa.toNat (rxSeq g) = true →
      Answers (exec (.macFrameRx m f frac) s) fun r => r.net.txq = s.net.txq := by
  intro g hgo hold
  obtain ⟨hview, -, hlres, hblinkTxq⟩ := macBlink_frame s m
  obtain ⟨-, -, -, hsame, -⟩ := hsrForward_frame (macBlink s m) m g (stampOf s m frac f)
  rw [lreOf_of_net hlres, hview.now] at hsame
  obtain ⟨r, hr, htxq, -⟩ := macFrameRx_forwarded s m f frac h hgo
  exact ⟨r, hr, htxq.trans ((hsame hold).trans hblinkTxq)⟩

/-- A frame on a port off, without its link or in loop-back. -/
theorem frameUnheard (h : lbNear s m = true ∨ heldAt (macOn s m) (macOf s m).onAt (macOf s m).offAt (firstOf s m f) = false ∨
    heldAt (macOf s m).link (macOf s m).upAt (macOf s m).downAt (firstOf s m f) = false) : exec (.macFrameRx m f frac) s = .next s := by
  refine congrArg Host.Outcome.next ?_
  by_cases hnear : lbNear s m = true
  · exact if_pos hnear
  · rw [if_neg hnear]
    unfold macRxIn
    dsimp only
    refine if_pos ?_
    rcases h with h | h | h
    · exact absurd h hnear
    · rw [← firstOf, h]
      rfl
    · rw [← firstOf, h]
      simp

/-- Settles O43: the frame as the port sees it, its copies, the one counter of its end, its item. -/
theorem frameReception : Obligations.FrameReception := by
  unfold Obligations.FrameReception
  intro m f frac s x first stamp g t n sa seq table dup own counted item
  refine ⟨fun hon hlink hnear honAt hupAt => ?_, fun h => frameUnheard s m f frac h⟩
  have h : RxHeld s m (firstOf s m f) := ⟨hon, hlink, hnear, honAt, hupAt⟩
  exact ⟨fun hother hok hlast => frameEnds s m f frac h hother hok hlast, fun u => lanACopy s m f frac h, frameGoesOn s m f frac h, frameWentOn s m f frac h⟩

end Sys2Proof.Machine
end

section
/-! The transmission of frames (O44; R220 to R223, R260). -/

namespace Sys2Proof.Machine

/-- A publication's frame ready at MAC0, its send point 1 ms ago. -/
def lateFrame : TxItem where
  port := 0
  cls := 2
  order := 0
  from_ := 0
  body := .sv 0 0 { da := 0#48, sa := 0#48, vlan := none, et := 0x88BA#16, payload := [], red := none, fcsOk := true, codeOk := true, linkHeld := true }

/-- MAC0 sends; the publication is owned by 3081, whose notification queue is full. The count of what that queue loses would stand at the
address of MAC0's count of sent frames. -/
def lateSender : State :=
  { State.reset with
    now := 1000000
    shadow := [(R.macCfg 0, 2000#32), (R.macCtrl 0, 3#32)]
    part := { owners := [(0x80000, 3082)], hnq := [(3081, { q := { items := List.replicate 256 0#32 } })] }
    net := { macs := [(0, { link := true })], txq := [lateFrame] } }

/-- Refutes O44: a late publication's notice counts in a full queue of an owner beyond the 32 partitions, in the place of the port's own
counter, so a frame that is sent counts twice. -/
theorem not_frameTransmission : ¬ Obligations.FrameTransmission := by
  intro h
  obtain ⟨-, hpick, -⟩ := h 0 .sent 0 0 lateSender
  obtain ⟨hfits, -⟩ := hpick (by decide) lateFrame rfl
  obtain ⟨r, hr, -, hcount, -⟩ := hfits (by decide +kernel)
  have htwice := hcount rfl (by decide)
  injection hr with hr
  rw [← hr] at htwice
  revert htwice
  decide +kernel

end Sys2Proof.Machine
end

section
/-! Sampled-value frames (O45; R230 to R239). -/

namespace Sys2Proof.Machine

/-- An ASDU of 25 channels, each with value 1, at sample 1 of a second. -/
def wideAsdu : SvAsdu where
  svId := []
  smpCnt := 1#16
  confRev := 0#32
  synch := 1#8
  rate := none
  data := List.replicate 25 (1#32, 0#32)
  extra := 0

/-- A frame with that ASDU, and the item in which it waits at MAC0. -/
def wideFrame : SvFrame := { appId := 0#16, sim := false, asdus := [wideAsdu], auth := none }
def wideItem : RxItem where
  mac := 0
  dest := 1
  stamp := 0
  first := 0
  end_ := 0
  err := 0
  beats := 0
  frame := { da := 0#48, sa := 0#48, vlan := none, et := 0x88BA#16, payload := pduBytes 0 false (svPduBytes [wideAsdu]) none, red := none
             fcsOk := true, codeOk := true, linkHeld := true }

/-- Context 0 expects 25 channels, one more than its three contexts hold; group 0 waits for tick 0. -/
def wideContext : State :=
  { State.reset with
    force := [(R.regBaseLo 0, 0x81000000#32), (R.regSize 0, 0x1000#32), (R.regAttr 0, 0x8000001F#32), (R.ctxCfg 0, 0x80001901#32)]
    part := { State.reset.part with hnq := [] }
    siu := { grps := [(0, { on := true, next := some 0, nextC := some 0 })] }
    net := { items := [wideItem] } }

/-- Refutes O45: a dataset takes at most three contexts of eight channels, so the value of a 25th channel of an admitted ASDU is not in the
stream buffer. -/
theorem not_sampledValueFrames : ¬ Obligations.SampledValueFrames := by
  intro h
  obtain ⟨-, htaken, -⟩ := h 0 wideItem wideFrame wideAsdu wideContext
  obtain ⟨-, -, hsingle⟩ := htaken (by decide +kernel)
  obtain ⟨-, hmatched⟩ := hsingle (by decide +kernel) rfl
  obtain ⟨-, -, hrevision⟩ := hmatched 0 (by decide +kernel)
  obtain ⟨-, hshape⟩ := hrevision (by decide) (by decide)
  obtain ⟨-, -, -, -, hplaced⟩ := hshape (by decide) rfl
  obtain ⟨-, hcommitted, -⟩ := hplaced (by decide) (by decide) (.inl (by decide)) (by decide) (.inl rfl) (by decide) rfl (by decide)
  obtain ⟨-, -, -, hstored⟩ := hcommitted (by decide) (by decide) (by decide) (by decide)
  obtain ⟨hvalues, -⟩ := hstored rfl (by unfold dmaMay; decide +kernel)
  obtain ⟨hvalue, -⟩ := hvalues 24 1#32 0#32 rfl
  revert hvalue
  decide +kernel

end Sys2Proof.Machine
end

section
/-! Groups, contexts and publications (O46; R245 to R247). -/

namespace Sys2Proof.Machine

/-- A module in reset, its counter of local time at 0, with group 0 waiting for tick 1 and context 0 its member. -/
def haltedGroup : State :=
  { State.reset with
    force := [(R.ctxCfg 0, 0x80000100#32)]
    siu := { grps := [(0, { on := true, next := some 1, nextC := some 1 })] } }

/-- Refutes O46: a halted counter of local time does not reach a group's deadline. -/
theorem not_groupReleaseAndPublishing : ¬ Obligations.GroupReleaseAndPublishing := by
  intro h
  obtain ⟨hdeadline, -⟩ := h { core := 0, secure := true } 0 0 0 haltedGroup
  obtain ⟨r, hr, hdue, -⟩ := hdeadline 1 rfl rfl rfl (by decide)
  injection hr with hr
  rw [← hr] at hdue
  revert hdue
  decide +kernel

end Sys2Proof.Machine
end

section
/-! SUPPORT. What the processing of a release leaves of the releases that wait and of those taken (R266, R267). -/

namespace Sys2Proof.Machine

/-- The releases that wait, and the last release of each group. -/
def State.taken (s : State) : Q Release × (Nat → Option Nat) := (s.sca.q, fun g => (agOf s g).last)
theorem taken_of_storeFrame {s t : State} (h : storeFrame s = storeFrame t) : s.taken = t.taken := (congrArg State.taken h :)
theorem taken_of_postFrame {s t : State} (h : postFrame s = postFrame t) : s.taken = t.taken := (congrArg State.taken h :)
theorem q_of_taken {s t : State} (h : s.taken = t.taken) : s.sca.q = t.sca.q := congrArg Prod.fst h
theorem last_of_taken {s t : State} (h : s.taken = t.taken) (g : Nat) : (agOf s g).last = (agOf t g).last := congrFun (congrArg Prod.snd h) g
theorem agOf_setAg (s : State) (g k : Nat) (x : AgSt) : agOf (setAg s g x) k = if k = g then x else agOf s k := mget_mset ..
theorem taken_setAg (s : State) (g : Nat) (x : AgSt) (h : x.last = (agOf s g).last) : (setAg s g x).taken = s.taken := by
  refine Prod.ext rfl (funext fun k => ?_)
  change (agOf (setAg s g x) k).last = (agOf s k).last
  rw [agOf_setAg]
  split
  next hk => rw [hk, h]
  next => rfl
@[simp] theorem taken_gse (s : State) (x : GseSt) : State.taken { s with gse := x } = s.taken := rfl
@[simp] theorem taken_tmx (s : State) (x : TmxSt) : State.taken { s with tmx := x } = s.taken := rfl
@[simp] theorem taken_mtr (s : State) (x : MtrSt) : State.taken { s with mtr := x } = s.taken := rfl
@[simp] theorem taken_pcx (s : State) (x : PcxSt) : State.taken { s with pcx := x } = s.taken := rfl
@[simp] theorem taken_mir (s : State) (x : MirSt) : State.taken { s with mir := x } = s.taken := rfl
@[simp] theorem taken_svp (s : State) (x : SvpSt) : State.taken { s with svp := x } = s.taken := rfl
@[simp] theorem taken_siu (s : State) (x : SiuSt) : State.taken { s with siu := x } = s.taken := rfl
@[simp] theorem taken_drc (s : State) (x : DrcSt) : State.taken { s with drc := x } = s.taken := rfl
@[simp] theorem taken_tsk (s : State) (x : TskSt) : State.taken { s with tsk := x } = s.taken := rfl
@[simp] theorem taken_setLive (s : State) (a : Nat) (w : Word) : (setLive s a w).taken = s.taken := rfl
@[simp] theorem taken_setEvt (s : State) (a i : Nat) : (setEvt s a i).taken = s.taken := rfl
@[simp] theorem taken_markDirty (s : State) (a n : Nat) : (markDirty s a n).taken = s.taken := rfl
@[simp] theorem taken_pokeBytes (s : State) (a : Nat) (bs : List Byte) : (pokeBytes s a bs).taken = s.taken := rfl
@[simp] theorem taken_memError (s : State) (i : Nat) : (memError s i).taken = s.taken := rfl
@[simp] theorem taken_violate (s : State) (t : Tag) (wr : Bool) (a kd : Nat) : (violate s t wr a kd).taken = s.taken := taken_of_storeFrame (storeFrame_violate s t wr a kd)
@[simp] theorem taken_wrBytes (s : State) (a : Nat) (bs : List Byte) : (wrBytes s a bs).taken = s.taken := taken_of_storeFrame (storeFrame_wrBytes s a bs)
@[simp] theorem taken_almPost (s : State) (sev src code : Nat) (pid : Option Nat) (info : List Word) : (almPost s sev src code pid info).taken = s.taken := taken_of_postFrame (by simp)
@[simp] theorem taken_hnqPost (s : State) (p cls src code info : Nat) : (hnqPost s p cls src code info).taken = s.taken := taken_of_postFrame (by simp)
@[simp] theorem taken_notifyAll (s : State) (mask : Word) (cls src code info : Nat) : (notifyAll s mask cls src code info).taken = s.taken := taken_of_postFrame (by simp)
@[simp] theorem taken_postOwner (s : State) (o : Option Nat) (cls src code info : Nat) : (postOwner s o cls src code info).taken = s.taken := taken_of_postFrame (by simp)
@[simp] theorem taken_dramStall (s : State) (a n : Nat) : (dramStall s a n).taken = s.taken := taken_of_storeFrame (storeFrame_dramStall s a n)
@[simp] theorem taken_ptrSum (s : State) (b : Nat) : (ptrSum s b).taken = s.taken := rfl

@[simp] theorem taken_bump (s : State) (a hi lo n : Nat) : (bump s a hi lo n).taken = s.taken := rfl

@[simp] theorem taken_guardFault (s : State) (i : Nat) : (guardFault s i).taken = s.taken := rfl

@[simp] theorem taken_bump32 (s : State) (a : Nat) : (bump32 s a).taken = s.taken := rfl

@[simp] theorem taken_memCe (s : State) (a : Nat) : (memCe s a).taken = s.taken := rfl

@[simp] theorem taken_memUe (s : State) (a : Nat) : (memUe s a).taken = s.taken := by simp [memUe]

@[simp] theorem taken_eccRead (s : State) (a n : Nat) : (eccRead s a n).1.taken = s.taken := by
  unfold eccRead
  exact foldl_frame (h := fun u : State => u.taken) _ _ (fun t x => by split <;> simp) _

@[simp] theorem taken_dmaAccess (s : State) (i : Nat) (t : Tag) (wr : Bool) (a n : Nat) : (dmaAccess s i t wr a n).1.taken = s.taken := by
  unfold dmaAccess
  dsimp only
  split
  · simp
  · split
    · simp
    · split <;> simp

@[simp] theorem taken_setSeg (s : State) (i : Nat) (g : Seg) : (setSeg s i g).taken = s.taken := rfl

@[simp] theorem taken_setCur (s : State) (c : Option Nat) : (setCur s c).taken = s.taken := rfl

@[simp] theorem taken_drcRefused (s : State) : (drcRefused s).taken = s.taken := rfl

@[simp] theorem taken_drcWrite (s : State) (a : Nat) (bs : List Byte) : (drcWrite s a bs).taken = s.taken := by
  unfold drcWrite
  dsimp only
  split <;> simp

@[simp] theorem taken_drcBytes (s : State) (a n : Nat) : (drcBytes s a n).2.taken = s.taken := by
  unfold drcBytes
  dsimp only
  split <;> simp

@[simp] theorem taken_drcCount (s : State) (i : Nat) : (drcCount s i).taken = s.taken := rfl

@[simp] theorem taken_drcHeader (s : State) (i : Nat) : (drcHeader s i).taken = s.taken := by simp [drcHeader]

@[simp] theorem taken_drcArm (s : State) : (drcArm s).taken = s.taken := by
  unfold drcArm
  dsimp only
  split
  · simp
  · split <;> simp

@[simp] theorem taken_holdOff (s : State) : (holdOff s).taken = s.taken := by
  unfold holdOff
  dsimp only
  split <;> simp

@[simp] theorem taken_drcClose (s : State) (i : Nat) : (drcClose s i).taken = s.taken := by simp [drcClose]

@[simp] theorem taken_moveRows (s : State) (g : Nat) : (moveRows s g).taken = s.taken := by
  unfold moveRows
  dsimp only
  split
  · rfl
  · exact foldl_frame (h := fun u : State => u.taken) _ _ (fun t x => by simp) _

@[simp] theorem taken_drcTrigger (s : State) (ty ix t : Nat) (row : Word) : (drcTrigger s ty ix t row).taken = s.taken := by
  unfold drcTrigger
  dsimp only
  repeat' split
  all_goals simp

@[simp] theorem taken_setTask (s : State) (t : Nat) (x : TaskSt) : (setTask s t x).taken = s.taken := rfl

@[simp] theorem taken_setActQ (s : State) (k : Nat) (q : Q Unit) : (setActQ s k q).taken = s.taken := rfl

@[simp] theorem taken_actIn (s : State) (k : Nat) : (actIn s k).taken = s.taken := rfl

@[simp] theorem taken_taskDropped (s : State) (t : Nat) : (taskDropped s t).taken = s.taken := by
  unfold taskDropped
  dsimp only
  split <;> simp

@[simp] theorem taken_unpend (s : State) (t : Nat) : (unpend s t).taken = s.taken := rfl

@[simp] theorem taken_actPtrReset (s : State) (k : Nat) : (actPtrReset s k).taken = s.taken := by
  unfold actPtrReset
  refine (foldl_frame (h := fun u : State => u.taken) _ _ (fun t x => by split <;> simp) _).trans ?_
  simp only [taken_almPost, taken_ptrSum, taken_setEvt, taken_setActQ]
  exact foldl_frame (h := fun u : State => u.taken) _ _ (fun t x => by split <;> simp) _

@[simp] theorem taken_actCheck (s : State) (k : Nat) : (actCheck s k).taken = s.taken := by
  unfold actCheck
  split <;> simp

@[simp] theorem taken_noCore (s : State) (t : Nat) : (noCore s t).taken = s.taken := by
  unfold noCore
  dsimp only
  split
  · rfl
  · rw [taken_postOwner, taken_almPost]
    exact (taken_tsk ..).trans (taken_setEvt ..)

@[simp] theorem taken_coreBack (s : State) (t : Nat) : (coreBack s t).taken = s.taken := rfl

@[simp] theorem taken_activate (s : State) (t : Nat) (g n rt : Word) : (activate s t g n rt).taken = s.taken := by
  unfold activate
  dsimp only
  repeat' split
  all_goals simp

@[simp] theorem taken_fireEvent (s : State) (src num : Nat) (edge : Option Bool) (p : Option Nat) : (fireEvent s src num edge p).taken = s.taken := by
  unfold fireEvent
  refine foldl_frame (h := fun u : State => u.taken) _ _ (fun t x => ?_) _
  dsimp only
  split
  · rfl
  · rw [apply_ite (fun u : State => u.taken), taken_activate, ite_self]


@[simp] theorem taken_flagTriggers (s : State) (f : Nat) (v : Bool) : (flagTriggers s f v).taken = s.taken := by
  unfold flagTriggers
  refine foldl_frame (h := fun u : State => u.taken) _ _ (fun t x => ?_) _
  dsimp only
  rw [apply_ite (fun u : State => u.taken), taken_drcTrigger, ite_self]

@[simp] theorem taken_cmdOrder (s : State) (d : Order) : (cmdOrder s d).taken = s.taken := rfl

@[simp] theorem taken_cmdFlag (s : State) (f : Nat) : (cmdFlag s f).taken = s.taken := by
  unfold cmdFlag
  exact foldl_frame (h := fun u : State => u.taken) _ _ (fun t x => by simp) _

@[simp] theorem taken_setPub (s : State) (p : Nat) (g : GPub) : (setPub s p g).taken = s.taken := rfl

@[simp] theorem taken_flagReset (s : State) (f : Nat) : (flagReset s f).taken = s.taken := by
  unfold flagReset
  refine foldl_frame (h := fun u : State => u.taken) _ _ (fun t g => ?_) _
  dsimp only
  split
  · rfl
  · exact taken_setAg t g _ rfl

@[simp] theorem taken_gseRead (s : State) (own : Option Nat) (a : Nat) : (gseRead s own a).2.taken = s.taken := by
  unfold gseRead
  dsimp only
  split <;> simp

@[simp] theorem taken_memberVal (s : State) (own : Option Nat) (mer : Bool) (w : Word) (prev : Word × Word) (ts : Nat) : (memberVal s own mer w prev ts).2.taken = s.taken := by
  unfold memberVal
  split
  · rfl
  · rfl
  · split <;> rfl
  · split <;> simp

@[simp] theorem taken_memberVals (s : State) (own : Option Nat) (mer : Bool) (g : GPub) (t : Nat) : (memberVals s own mer g t).2.2.2.taken = s.taken := by
  unfold memberVals
  refine List.foldlRecOn (motive := fun r : List (Word × Word) × List (Nat × Nat) × Bool × State => r.2.2.2.taken = s.taken) _ _ rfl fun r hr m _ => ?_
  simpa using hr

@[simp] theorem taken_gsePtrReset (s : State) (p : Nat) : (gsePtrReset s p).taken = s.taken := by simp [gsePtrReset]

@[simp] theorem taken_gpSend (s : State) (p : Nat) : (gpSend s p).taken = s.taken := by
  unfold gpSend
  dsimp only
  repeat' split
  all_goals simp

@[simp] theorem taken_gpEvent (s : State) (p : Nat) (vals : List (Word × Word)) (ch : List (Nat × Nat)) (t : Nat) : (gpEvent s p vals ch t).taken = s.taken := by simp [gpEvent]

@[simp] theorem taken_gpFlag (s : State) (f p : Nat) : (gpFlag s f p).taken = s.taken := by
  unfold gpFlag
  dsimp only
  split
  · split <;> simp
  · rfl

@[simp] theorem taken_gseFlag (s : State) (f : Nat) : (gseFlag s f).taken = s.taken := by
  unfold gseFlag
  exact foldl_frame (h := fun u : State => u.taken) _ _ (fun t x => by simp) _

@[simp] theorem taken_setLane (s : State) (n : Nat) (l : Lane) : (setLane s n l).taken = s.taken := rfl

@[simp] theorem taken_laneUpdate (s : State) (n : Nat) : (laneUpdate s n).taken = s.taken := (congrArg State.taken (laneFrame_laneUpdate s n) :)

@[simp] theorem taken_lanesUpdate (s : State) : (lanesUpdate s).taken = s.taken := (congrArg State.taken (laneFrame_lanesUpdate s) :)

@[simp] theorem taken_flagChanged (s : State) (f : Nat) (v : Bool) : (flagChanged s f v).taken = s.taken := by
  unfold flagChanged
  dsimp only
  split <;> simp
@[simp] theorem taken_setMp (s : State) (p : Nat) (x : MPoint) : (setMp s p x).taken = s.taken := rfl

@[simp] theorem taken_setPul (s : State) (n : Nat) (x : Pulse) : (setPul s n x).taken = s.taken := rfl

@[simp] theorem taken_mtrNote (s : State) (cls code info : Nat) (sev : Option Nat) (words : List Word) : (mtrNote s cls code info sev words).taken = s.taken := by
  unfold mtrNote
  split <;> simp

@[simp] theorem taken_dmaRead (s : State) (i : Nat) (t : Tag) (a n : Nat) : (dmaRead s i t a n).2.taken = s.taken := by simp [dmaRead]

@[simp] theorem taken_pulseAdd (s : State) (n de : Nat) : (pulseAdd s n de).taken = s.taken := by
  unfold pulseAdd
  dsimp only
  split
  · simp
  · split <;> simp

@[simp] theorem taken_accAdd (s : State) (p a x : Nat) : (accAdd s p a x).taken = s.taken := by
  unfold accAdd
  exact foldl_frame (h := fun u : State => u.taken) _ _ (fun t x => by
    dsimp only
    split <;> simp) _

@[simp] theorem taken_energyAdd (s : State) (p : Nat) (pw q : Int) : (energyAdd s p pw q).taken = s.taken := by simp [energyAdd]

@[simp] theorem taken_resStore (s : State) (a : Nat) (b : List Byte) : (resStore s a b).taken = s.taken := by
  unfold resStore
  dsimp only
  split
  · simp
  · simp [wr32]

@[simp] theorem taken_resWrite (s : State) (p : Nat) (ws : List Word) : (resWrite s p ws).taken = s.taken := by
  unfold resWrite
  split <;> simp

@[simp] theorem taken_windowEnd (s : State) (p : Nat) (w : MWin) (short : Bool) : (windowEnd s p w short).taken = s.taken := by
  unfold windowEnd
  dsimp only
  split
  · simp
  · split <;> simp

@[simp] theorem taken_windowsDone (s : State) (p : Nat) : (windowsDone s p).taken = s.taken := by
  unfold windowsDone
  exact foldl_frame (h := fun u : State => u.taken) _ _ (fun t x => by simp) _

@[simp] theorem taken_shortWindow (s : State) (p : Nat) : (shortWindow s p).taken = s.taken := by
  unfold shortWindow
  dsimp only
  split <;> simp

@[simp] theorem taken_shortGroup (s : State) (g : Nat) : (shortGroup s g).taken = s.taken := by
  unfold shortGroup
  exact foldl_frame (h := fun u : State => u.taken) _ _ (fun t x => by
    dsimp only
    split <;> simp) _

@[simp] theorem taken_setCtx (s : State) (c : Nat) (x : Ctx) : (setCtx s c x).taken = s.taken := rfl

@[simp] theorem taken_scaNote (s : State) (cls code info : Nat) (sev : Option Nat) : (scaNote s cls code info sev).taken = s.taken := by
  unfold scaNote
  split <;> simp

@[simp] theorem taken_laneGuard (s : State) (n : Nat) : (laneGuard s n).taken = s.taken := by
  unfold laneGuard
  split <;> simp

@[simp] theorem taken_flagForce (s : State) (f : Nat) (v : Option Bool) : (flagForce s f v).taken = s.taken := by
  unfold flagForce
  dsimp only
  split <;> split <;> simp

@[simp] theorem taken_setForceSt (s : State) (p e : Nat) (x : ForceSt) : (setForceSt s p e x).taken = s.taken := rfl

@[simp] theorem taken_setForce (s : State) (a : Nat) (w : Word) : (setForce s a w).taken = s.taken := rfl
@[simp] theorem taken_setShadow (s : State) (a : Nat) (w : Word) : (setShadow s a w).taken = s.taken := rfl

@[simp] theorem taken_forceRemove (s : State) (p e : Nat) : (forceRemove s p e).taken = s.taken := by
  unfold forceRemove
  dsimp only
  split <;> simp

@[simp] theorem taken_forceGuard (s : State) (p e : Nat) : (forceGuard s p e).taken = s.taken := by simp [forceGuard]

@[simp] theorem taken_setCh (s : State) (c : Nat) (x : ChSt) : (setCh s c x).taken = s.taken := rfl

@[simp] theorem taken_setBank (s : State) (b : Nat) (x : BankSt) : (setBank s b x).taken = s.taken := rfl

@[simp] theorem taken_agPost (s : State) (g cls code : Nat) (sev : Option Nat) : (agPost s g cls code sev).taken = s.taken := by
  unfold agPost
  split <;> simp

@[simp] theorem taken_freqEnter (s : State) (g : Nat) (st : FState) (f : Nat) : (freqEnter s g st f).taken = s.taken := by
  have h := taken_setAg s g { agOf s g with fst_ := st, freq := f, held := 0, clamp := (agOf s g).clamp && decide (st ≠ .nominal) } rfl
  unfold freqEnter
  dsimp only
  split
  · exact Eq.trans (foldl_frame (h := fun u : State => u.taken) _ _ (fun u c => taken_setCh ..) _) h
  · exact h

@[simp] theorem taken_freqToNominal (s : State) (g : Nat) : (freqToNominal s g).taken = s.taken := by
  unfold freqToNominal
  dsimp only
  split <;> simp

@[simp] theorem taken_freqNominal (s : State) (g : Nat) : (freqNominal s g).taken = s.taken := by simp [freqNominal]

@[simp] theorem taken_freqHoldCheck (s : State) (g : Nat) : (freqHoldCheck s g).taken = s.taken := by
  unfold freqHoldCheck
  split <;> simp

@[simp] theorem taken_frzLimitCheck (s : State) (g : Nat) : (frzLimitCheck s g).taken = s.taken := by
  unfold frzLimitCheck
  dsimp only
  split
  · rw [taken_agPost, taken_setEvt, taken_setAg]
    rfl
  · rfl

@[simp] theorem taken_bankGuard (s : State) (b : Nat) (w : Bool) : (bankGuard s b w).taken = s.taken := by
  unfold bankGuard
  dsimp only
  split <;> simp

@[simp] theorem taken_fadeEnd (s : State) (b : Nat) : (fadeEnd s b).taken = s.taken := by
  unfold fadeEnd
  dsimp only
  split
  · rfl
  · split
    · rfl
    · rw [taken_scaNote, taken_bump, taken_setEvt]
      exact Eq.trans (foldl_frame (h := fun u : State => u.taken) _ _ (fun u c => taken_setCh ..) _) rfl

@[simp] theorem taken_chRead (s : State) (c j a : Nat) : (chRead s c j a).2.taken = s.taken := taken_dmaRead ..

@[simp] theorem taken_chReads (s : State) (c j t : Nat) : (chReads s c j t).2.taken = s.taken := by
  unfold chReads
  refine List.foldlRecOn (motive := fun r : List (Int × Word) × State => r.2.taken = s.taken) _ _ rfl fun r hr i _ => ?_
  exact (taken_chRead ..).trans hr

@[simp] theorem taken_storePut (s : State) (g a : Nat) (ws : List Word) : (storePut s g a ws).taken = s.taken := by
  unfold storePut
  dsimp only
  split <;> simp

@[simp] theorem taken_forceTake (s : State) (p : Option Nat) (kind ch : Nat) : (forceTake s p kind ch).2.taken = s.taken := by
  unfold forceTake
  split
  · rfl
  · split
    · rfl
    · simp

@[simp] theorem taken_chRelease (r : RelCtx) (c j : Nat) (s : State) : (chRelease r c j s).taken = s.taken := by
  have hguards (u : State) (l : List Bool) (b : Nat) : (each l u fun w s => bankGuard s b w).taken = u.taken :=
    foldl_frame (h := fun u : State => u.taken) _ _ (fun v w => taken_bankGuard ..) _
  unfold chRelease
  dsimp only
  rw [taken_storePut, taken_storePut, taken_forceTake, taken_forceTake, taken_setCh]
  split
  · rw [taken_setEvt, hguards, taken_chReads]
  · rw [hguards, taken_chReads]

@[simp] theorem taken_setClamp (s : State) (g : Nat) (v : Bool) : (setClamp s g v).taken = s.taken := by
  have h := taken_setAg s g { agOf s g with clamp := v } rfl
  unfold setClamp
  dsimp only
  split
  · exact (taken_setEvt ..).trans h
  · exact h

@[simp] theorem taken_freqStep (s : State) (g : Nat) : (freqStep s g).taken = s.taken := by
  unfold freqStep
  dsimp only
  split
  · exact taken_setAg s g _ rfl
  · split
    · rw [taken_setClamp, taken_setAg, taken_setAg, taken_setAg] <;> rfl
    · rw [taken_agPost, taken_setEvt, taken_setAg, taken_setAg, taken_setAg] <;> rfl
    · rw [taken_setClamp, taken_freqEnter, taken_setAg, taken_setAg] <;> rfl
    · rw [taken_freqHoldCheck, taken_bump, taken_setAg, taken_setAg, taken_setAg] <;> rfl
    · rw [taken_setAg, taken_setAg] <;> rfl

@[simp] theorem taken_freezeStep (s : State) (g : Nat) : (freezeStep s g).taken = s.taken := by
  unfold freezeStep
  dsimp only
  have hcount (c : Bool) : (if c then bump s (R.scaAgCnt g) 31 16 1 else s).taken = s.taken ∧
      agOf (if c then bump s (R.scaAgCnt g) 31 16 1 else s) = agOf s := by
    split
    · exact ⟨rfl, rfl⟩
    · exact ⟨rfl, rfl⟩
  refine Eq.trans (taken_setAg _ g _ ?_) (hcount _).1
  rw [(hcount _).2]

@[simp] theorem taken_groupRecord (s : State) (r : Release) (f : Nat) : (groupRecord s r f).taken = s.taken := by simp [groupRecord]

@[simp] theorem taken_scaDiscont (s : State) (g : Nat) : (scaDiscont s g).taken = s.taken := by simp [scaDiscont]

@[simp] theorem taken_svpCond (s : State) (g t : Nat) : (svpCond s g t).taken = s.taken := by
  unfold svpCond
  exact foldl_frame (h := fun u : State => u.taken) _ _ (fun t x => by
    dsimp only
    split <;> simp) _

@[simp] theorem taken_relChannels (s : State) (rc : RelCtx) : (relChannels s rc).taken = s.taken := by
  unfold relChannels
  dsimp only
  refine Eq.trans (foldl_frame (h := fun u : State => u.taken) _ _ (fun u c => taken_setCtx ..) _) ?_
  exact foldl_frame (h := fun u : State => u.taken) _ _ (fun u c => foldl_frame (h := fun u : State => u.taken) _ _ (fun v j => taken_chRelease ..) _) _

@[simp] theorem taken_mtrRead (s : State) (a : Nat) : (mtrRead s a).2.taken = s.taken := taken_dmaRead ..

@[simp] theorem taken_mpSample (s : State) (p t i : Nat) : (mpSample s p t i).2.taken = s.taken := by
  unfold mpSample
  refine List.foldlRecOn (motive := fun r : List (Int × Word) × State => r.2.taken = s.taken) _ _ rfl fun r hr i _ => ?_
  exact (taken_mtrRead ..).trans hr

@[simp] theorem taken_mpTake (s : State) (p f at_ : Nat) (l : List (Int × Word)) : (mpTake s p f at_ l).taken = s.taken := by
  unfold mpTake
  dsimp only
  split <;> simp

@[simp] theorem taken_mtrRelease (s : State) (g t f : Nat) : (mtrRelease s g t f).taken = s.taken := by
  unfold mtrRelease
  split
  · rfl
  · refine foldl_frame (h := fun u : State => u.taken) _ _ (fun u e => ?_) _
    dsimp only
    split
    · exact foldl_frame (h := fun u : State => u.taken) _ _ (fun v i => by simp) _
    · rfl

@[simp] theorem taken_setAtu (s : State) (u : Nat) (x : Atu) : (setAtu s u x).taken = s.taken := rfl

@[simp] theorem taken_atuValue (s : State) (c t : Nat) : (atuValue s c t).2.taken = s.taken := by
  unfold atuValue
  split <;> simp

@[simp] theorem taken_atuCompare (s : State) (u c t : Nat) (q0 q1 : Int) : (atuCompare s u c t q0 q1).taken = s.taken := by
  unfold atuCompare
  dsimp only
  repeat' split
  all_goals simp

@[simp] theorem taken_atuStep (s : State) (u t : Nat) : (atuStep s u t).taken = s.taken := by
  unfold atuStep
  dsimp only
  repeat' split
  all_goals simp

@[simp] theorem taken_atuRelease (s : State) (g t : Nat) : (atuRelease s g t).taken = s.taken := by
  unfold atuRelease
  split
  · rfl
  · refine foldl_frame (h := fun u : State => u.taken) _ _ (fun u i => ?_) _
    dsimp only
    split <;> simp

@[simp] theorem taken_releaseTasks (s : State) (g n : Nat) (t : Word) : (releaseTasks s g n t).taken = s.taken := by
  unfold releaseTasks
  refine foldl_frame (h := fun u : State => u.taken) _ _ (fun u e => ?_) _
  split
  · split <;> simp
  · rfl
end Sys2Proof.Machine
end

section
/-! SUPPORT. The next release and its processing (R266, R267). -/

namespace Sys2Proof.Machine

variable (s : State)

theorem relMin_spec (l : List Release) (h : Release) :
    let r := l.foldl (fun m r => if r.grp < m.grp ∨ (r.grp = m.grp ∧ r.tick < m.tick) then r else m) h
    (r = h ∨ r ∈ l) ∧ ∀ y, y = h ∨ y ∈ l → r.grp < y.grp ∨ (r.grp = y.grp ∧ r.tick ≤ y.tick) := by
  induction l generalizing h with
  | nil => exact ⟨.inl rfl, fun y hy => by simp_all⟩
  | cons a l ih =>
    obtain ⟨hmem, hmin⟩ := ih (if a.grp < h.grp ∨ (a.grp = h.grp ∧ a.tick < h.tick) then a else h)
    rw [List.foldl_cons]
    generalize List.foldl _ (if a.grp < h.grp ∨ (a.grp = h.grp ∧ a.tick < h.tick) then a else h) l = r at hmem hmin
    dsimp only at hmem hmin ⊢
    split at hmem
    next hless =>
      rw [if_pos hless] at hmin
      have hra := hmin a (.inl rfl)
      refine ⟨.inr (List.mem_cons.mpr hmem), fun y hy => ?_⟩
      rcases hy with rfl | hy
      · omega
      · exact hmin y (List.mem_cons.mp hy)
    next hless =>
      rw [if_neg hless] at hmin
      have hrh := hmin h (.inl rfl)
      refine ⟨hmem.imp id (List.mem_cons_of_mem a), fun y hy => ?_⟩
      rcases hy with rfl | hy
      · exact hrh
      · rcases List.mem_cons.mp hy with rfl | hy
        · omega
        · exact hmin y (.inr hy)

/-- The release taken next is the least of those made in the head's cycle. -/
theorem relHead_spec {h : Release} {l : List Release} (hq : s.sca.q.items = h :: l) : ∃ r, relHead s = some r ∧ r ∈ s.sca.q.items ∧ r.at_ / 2 = h.at_ / 2 ∧
    ∀ y ∈ s.sca.q.items, y.at_ / 2 = h.at_ / 2 → r.grp < y.grp ∨ (r.grp = y.grp ∧ r.tick ≤ y.tick) := by
  have hhead : relHead s = some ((l.filter fun r => r.at_ / 2 == h.at_ / 2).foldl (fun m r =>
      if r.grp < m.grp ∨ (r.grp = m.grp ∧ r.tick < m.tick) then r else m) h) := by
    simp only [relHead, hq]
  obtain ⟨hmem, hmin⟩ := relMin_spec (l.filter fun r => r.at_ / 2 == h.at_ / 2) h
  refine ⟨_, hhead, ?_, ?_, fun y hy hcycle => hmin y ?_⟩
  · rw [hq]
    rcases hmem with he | he
    · rw [he]
      exact List.mem_cons_self
    · exact List.mem_cons_of_mem _ (List.mem_filter.mp he).1
  · rcases hmem with he | he
    · rw [he]
    · simpa using (List.mem_filter.mp he).2
  · rw [hq] at hy
    rcases List.mem_cons.mp hy with he | he
    · exact .inl he
    · exact .inr (List.mem_filter.mpr ⟨he, by simpa using hcycle⟩)

/-- The state once a release has gone through its channels and its group (R266, steps 2 and 3). -/
def scaChained (s : State) (r : Release) : State :=
  let g := r.grp
  let disc := match (agOf s g).last with | some l => decide (r.tick ≠ l + 1) | none => false
  let s := if disc then scaDiscont s g else s
  let s := freezeStep s g
  let f := freqOf s g
  let s := relChannels s { g := g, t := r.tick, disc := disc, frozen := (agOf s g).frozen, f := f, runs := r.runs }
  frzLimitCheck (freqStep s g) g

theorem taken_scaChained (r : Release) : (scaChained s r).taken = s.taken := by
  unfold scaChained
  dsimp only
  rw [taken_frzLimitCheck, taken_freqStep, taken_relChannels, taken_freezeStep, apply_ite (fun u : State => u.taken), taken_scaDiscont, ite_self]

theorem taken_scaRelease (r : Release) : (scaRelease s r).taken =
    (setAg (scaChained s r) r.grp { agOf (scaChained s r) r.grp with last := some r.tick }).taken := by
  unfold scaRelease
  dsimp only
  rw [taken_svpCond]
  refine Eq.trans (foldl_frame (h := fun u : State => u.taken) _ _ (fun u b => taken_fadeEnd ..) _) ?_
  rw [taken_setLive, taken_setLive, taken_groupRecord]
  rfl

/-- A processed release is its group's last; the queue stays as it is. -/
theorem taken_relProcess (r : Release) : (relProcess s r).sca.q = s.sca.q ∧ (agOf (relProcess s r) r.grp).last = some r.tick := by
  obtain ⟨u, hu, hrel⟩ : ∃ u : State, u.taken = s.taken ∧ (relProcess s r).taken = (scaRelease u r).taken := by
    unfold relProcess
    dsimp only
    simp only [taken_releaseTasks, taken_atuRelease, taken_mtrRelease]
    refine ⟨_, ?_, rfl⟩
    rw [apply_ite (fun u : State => u.taken), taken_shortGroup, ite_self]
  rw [taken_scaRelease] at hrel
  have hchain := (taken_scaChained u r).trans hu
  generalize scaChained u r = v at hrel hchain
  refine ⟨(q_of_taken hrel).trans (Eq.trans (b := v.sca.q) rfl (q_of_taken hchain)), (last_of_taken hrel r.grp).trans ?_⟩
  rw [agOf_setAg, if_pos rfl]

/-- The processing of the next release. -/
theorem relNext_spec (hok : qOk s.sca.q = true) {r : Release} (hr : relHead s = some r) :
    (relNext s).sca.q.items = s.sca.q.items.erase r ∧ (agOf (relNext s) r.grp).last = some r.tick := by
  have hn : relNext s = relProcess (relPop s r) r := by
    unfold relNext scaCheck
    rw [if_pos hok]
    simp only [hr]
  obtain ⟨hq, hlast⟩ := taken_relProcess (relPop s r) r
  rw [hn]
  exact ⟨congrArg Q.items hq, hlast⟩

theorem relNext_of_empty (hitems : s.sca.q.items = []) (hok : qOk s.sca.q = true) : relNext s = s := by
  have hr : relHead s = none := by simp only [relHead, hitems]
  unfold relNext scaCheck
  rw [if_pos hok]
  simp only [hr]

end Sys2Proof.Machine
end

section
/-! PROOF. Releases, the limits of freezes and of HELD, banks and fades (O47; R266, R267, R273, R279, R281 to R284, R288). -/

namespace Sys2Proof.Machine

variable (s : State) (g : Fin 256)

theorem relIsOf_of_next {n : Nat} (h : ∃ r, relHead s = some r ∧ r.grp = n) : relIsOf s n = true := by
  obtain ⟨r, hr, rfl⟩ := h
  simp [relIsOf, hr]

/-- The next release is the one that the event waits for. -/
theorem answers_relNext {c : Instr} (h : exec c s = .next (relNext s)) : Answers (exec c s) fun t => exec .scaReleaseProcess s = .next t :=
  ⟨_, h, rfl⟩

theorem freezeLimit_of_next (hrun : (agOf s g).frzRun + 1 = fld (forceOf s (R.scaAgLim g)) 15 0) (h : ∃ r, relHead s = some r ∧ r.grp = g.val) :
    Answers (exec (.freezeLimit g) s) fun t => exec .scaReleaseProcess s = .next t := by
  refine answers_relNext s (congrArg Host.Outcome.next ?_)
  dsimp only
  rw [if_neg (by omega), if_pos ⟨by omega, hrun, relIsOf_of_next s h⟩]

theorem freqHold_of_next (hheld : (agOf s g).fst_ = .held) (hrun : (agOf s g).held + 1 = fld (forceOf s (R.scaAgLim g)) 31 16)
    (h : ∃ r, relHead s = some r ∧ r.grp = g.val) : Answers (exec (.freqHoldExpiry g) s) fun t => exec .scaReleaseProcess s = .next t := by
  refine answers_relNext s (congrArg Host.Outcome.next ?_)
  dsimp only
  rw [if_neg (by omega), if_pos ⟨hheld, hrun, relIsOf_of_next s h⟩]

theorem settle_of_next (ch : Fin 8192) (hleft : (chOf s ch).smpLeft = 1 ∨ (chOf s ch).phLeft = 1)
    (h : ∃ r, relHead s = some r ∧ r.grp = ctxGrp s (leadOf s (ch / 8))) :
    Answers (exec (.settleCountExpiry ch) s) fun t => exec .scaReleaseProcess s = .next t := by
  refine answers_relNext s (congrArg Host.Outcome.next ?_)
  exact if_pos ⟨hleft, relIsOf_of_next s h⟩

theorem postFrame_agPost (n cls code : Nat) (sev : Option Nat) : postFrame (agPost s n cls code sev) = postFrame s := by
  unfold agPost
  cases sev <;> simp

theorem agOf_of_postFrame {s t : State} (h : postFrame s = postFrame t) (n : Nat) : agOf s n = agOf t n := (congrArg (fun u : State => agOf u n) h :)

/-- What posts to the queue of any partition, also one that does not exist, leave of a register that is not of that queue. -/
theorem liveOf_hnqPost_of_ne {s : State} {a p : Nat} (ha : OffPosts a) (hne : a ≠ R.hnqEvt p ∧ a ≠ R.hnqLost p) (cls src code info : Nat) :
    liveOf (hnqPost s p cls src code info) a = liveOf s a := by
  obtain ⟨hevt, hlost⟩ := hne
  obtain ⟨-, -, -, -, hsum⟩ := id ha
  have hput (u : State) (w : Word) : liveOf (hnqPut u p w) a = liveOf u a := by
    unfold hnqPut
    dsimp only
    rw [liveOf_setEvt_of_ne hevt, liveOf_setHnq]
    by_cases h : (hnqOf u p).q.items.length < 256
    · rw [if_pos h]
    · rw [if_neg h]
      exact liveOf_bump_of_ne hlost
  unfold hnqPost
  refine (hput _ _).trans ?_
  split
  · rfl
  · exact (liveOf_almPost ha ..).trans ((hput _ _).trans ((liveOf_setEvt_of_ne hsum).trans (liveOf_setEvt_of_ne hevt)))

theorem offPosts_scaAgEvt : OffPosts (R.scaAgEvt g) := by
  simp only [OffPosts, R.scaAgEvt, R.almDrop01, R.almDrop23, R.almEvt, R.diagPtrSum]
  omega

theorem scaAgEvt_ne_hnq (n p : Nat) : R.scaAgEvt n ≠ R.hnqEvt p ∧ R.scaAgEvt n ≠ R.hnqLost p := by
  simp only [R.scaAgEvt, R.hnqEvt, R.hnqLost]
  omega

theorem evt_agPost (n cls code : Nat) (sev : Option Nat) (i : Nat) : evt (agPost s n cls code sev) (R.scaAgEvt g) i = evt s (R.scaAgEvt g) i := by
  have hpost (u : State) (o : Option Nat) (info : Nat) : liveOf (postOwner u o cls 0x0B code info) (R.scaAgEvt g) = liveOf u (R.scaAgEvt g) := by
    cases o with
    | none => rfl
    | some p => exact liveOf_hnqPost_of_ne (offPosts_scaAgEvt g) (scaAgEvt_ne_hnq ..) ..
  have hlive : liveOf (agPost s n cls code sev) (R.scaAgEvt g) = liveOf s (R.scaAgEvt g) := by
    unfold agPost
    refine (hpost ..).trans ?_
    cases sev with
    | none => rfl
    | some v => exact liveOf_almPost (offPosts_scaAgEvt g) ..
  rw [evt, hlive, evt]

/-- A freeze that has lasted FRZ_MAX releases ends. -/
theorem freezeLimit_holds (hm : fld (forceOf s (R.scaAgLim g)) 15 0 ≠ 0) (hrun : fld (forceOf s (R.scaAgLim g)) 15 0 ≤ (agOf s g).frzRun)
    (hstop : (agOf s g).frzStop = false) : Answers (exec (.freezeLimit g) s) fun t =>
      agOf t g = { agOf s g with
        frzStop := bit (forceOf s (R.scaAgFrz g)) 30 && flagState s (fld (forceOf s (R.scaAgFrz g)) 27 16), frzRun := 0, flagOff := none } ∧
      evt t (R.scaAgEvt g) 3 = true := by
  refine ⟨frzLimitCheck s g, congrArg Host.Outcome.next (if_pos ⟨hm, hrun⟩), ?_⟩
  unfold frzLimitCheck
  dsimp only
  rw [if_pos ⟨hm, hrun, by simp [hstop]⟩]
  refine ⟨(agOf_of_postFrame (postFrame_agPost ..) g).trans ?_, (evt_agPost ..).trans (evt_setEvt_self (by decide))⟩
  exact (agOf_setAg ..).trans (if_pos rfl)

theorem agOf_setCh (c : Nat) (x : ChSt) (n : Nat) : agOf (setCh s c x) n = agOf s n := rfl
theorem live_setCh (c : Nat) (x : ChSt) : (setCh s c x).live = s.live := rfl

theorem agOf_freqEnter (st : FState) (f : Nat) : agOf (freqEnter s g st f) g =
    { agOf s g with fst_ := st, freq := f, held := 0, clamp := (agOf s g).clamp && decide (st ≠ .nominal) } := by
  have hset : agOf (setAg s g { agOf s g with fst_ := st, freq := f, held := 0, clamp := (agOf s g).clamp && decide (st ≠ .nominal) }) g =
    { agOf s g with fst_ := st, freq := f, held := 0, clamp := (agOf s g).clamp && decide (st ≠ .nominal) } := (agOf_setAg ..).trans (if_pos rfl)
  unfold freqEnter
  dsimp only
  split
  · refine Eq.trans (foldl_frame (h := fun u : State => agOf u g) _ _ (fun u c => agOf_setCh ..) _) hset
  · exact hset

theorem live_freqEnter (st : FState) (f : Nat) : (freqEnter s g st f).live = s.live := by
  unfold freqEnter
  dsimp only
  split
  · exact foldl_frame (h := fun u : State => u.live) _ _ (fun u c => live_setCh ..) _
  · rfl

/-- A group held for FHOLD_MAX releases turns to the nominal frequency. -/
theorem freqHold_holds (hheld : (agOf s g).fst_ = .held) (hrun : fld (forceOf s (R.scaAgLim g)) 31 16 ≤ (agOf s g).held) :
    Answers (exec (.freqHoldExpiry g) s) fun t =>
      (agOf t g).fst_ = .nominal ∧ (agOf t g).held = 0 ∧ evt t (R.scaAgEvt g) 2 = true := by
  refine ⟨freqHoldCheck s g, congrArg Host.Outcome.next (if_pos ⟨hheld, hrun⟩), ?_⟩
  unfold freqHoldCheck freqNominal freqToNominal
  rw [if_pos ⟨hheld, hrun⟩]
  dsimp only
  have hstill : (agOf (setEvt s (R.scaAgEvt g) 2) g).fst_ = .held := hheld
  rw [if_pos (decide_eq_true hstill)]
  have hag := (agOf_of_postFrame (postFrame_agPost (freqEnter (setEvt s (R.scaAgEvt g) 2) g .nominal 0) g 1 0x11 (some 2)) g).trans (agOf_freqEnter _ g .nominal 0)
  refine ⟨congrArg AgSt.fst_ hag, congrArg AgSt.held hag, (evt_agPost ..).trans ?_⟩
  have hlive := congrArg (mget 0#32 · (R.scaAgEvt g)) (live_freqEnter (setEvt s (R.scaAgEvt g) 2) g .nominal 0)
  refine Eq.trans (congrArg (bit · 2) hlive) ?_
  exact evt_setEvt_self (by decide)

/-! ### Bank loads -/

/-- The writes of SCA_BANK_LOAD (R281). -/
theorem bankLoad_holds (a : Acc) (w : Word) (h : admitted s a R.scaBankLoad true) :
    let u := accessed s
    let n := fld w 21 16
    let k := bit w 8
    let src := fld (shadowOf s R.scaBankSrc) 31 6 * 64
    let ended := fun e : Nat => exec (.bankLoad a w) s =
      .next (setEvt { u with sca := { s.sca with load := none, loadDone := true, loadErr := e } } R.scaEvt 0)
    (bit w 31 = false → exec (.bankLoad a w) s = .next u) ∧
    (bit w 31 = true → s.sca.load ≠ none →
      exec (.bankLoad a w) s = .next (setEvt { u with sca := { s.sca with loadErr := 1 } } R.scaEvt 0)) ∧
    (bit w 31 = true → s.sca.load = none →
      ((bankOf s n).active = k ∨ (bankOf s n).fade ≠ none → ended 2) ∧
      ((bankOf s n).active ≠ k → (bankOf s n).fade = none → (src < 0x80000000 ∨ 0x81000000 < src + 2304) → ended 3) ∧
      ((bankOf s n).active ≠ k → (bankOf s n).fade = none → 0x80000000 ≤ src → src + 2304 ≤ 0x81000000 →
        exec (.bankLoad a w) s = .next { u with sca := { s.sca with
          load := some { bg := n, bank := k, src := src, pid := fld w 28 24 }, loadDone := false, loadErr := 0 } })) := by
  dsimp only
  have hwrite (f : State → State) : regAccess s a R.scaBankLoad true f = f (accessed s) := regAccess_of_admitted h f
  have hidle (hload : s.sca.load = none) : ¬ (accessed s).sca.load.isSome = true := by simp [accessed, hload]
  have hfree {x : BankSt} {k : Bool} (hk : x.active ≠ k) (hf : x.fade = none) : ¬ (x.active = k ∨ x.fade.isSome = true) := by simp [hk, hf]
  refine ⟨fun hgo => ?_, fun hgo hbusy => ?_, fun hgo hload => ⟨fun hbank => ?_, fun hk hf hrange => ?_, fun hk hf hlo hhi => ?_⟩⟩ <;>
    refine congrArg Host.Outcome.next ((hwrite _).trans ?_)
  · exact if_pos (by simp [hgo])
  · exact (if_neg (by simp [hgo])).trans (if_pos (Option.isSome_iff_ne_none.mpr hbusy))
  · exact (if_neg (by simp [hgo])).trans ((if_neg (hidle hload)).trans (if_pos (hbank.imp id Option.isSome_iff_ne_none.mpr)))
  · exact (if_neg (by simp [hgo])).trans ((if_neg (hidle hload)).trans ((if_neg (hfree hk hf)).trans (if_pos hrange)))
  · refine (if_neg (by simp [hgo])).trans ((if_neg (hidle hload)).trans ((if_neg (hfree hk hf)).trans (if_neg ?_)))
    exact not_or.mpr ⟨Nat.not_lt.mpr hlo, Nat.not_lt.mpr hhi⟩

theorem bankLoadDone_of_none (h : s.sca.load = none) : exec .bankLoadDone s = .next s := by
  refine congrArg Host.Outcome.next ?_
  rw [h]

theorem mfind_filter_zip_none {α : Type} (l : List α) (p : Nat × α → Bool) {k i : Nat} (h : i < k) :
    mfind (((List.range' k l.length).zip l).filter p) i = none := by
  induction l generalizing k with
  | nil => rfl
  | cons x l ih =>
    have hrest := ih (k := k + 1) (by omega)
    rw [List.length_cons, List.range'_succ, List.zip_cons_cons, List.filter_cons]
    split
    · rw [mfind, if_neg (by omega), hrest]
    · exact hrest

/-- An entry of a list that is kept with its number, and looked up by it. -/
theorem mfind_filter_zip {α : Type} (l : List α) (p : Nat × α → Bool) (k i : Nat) :
    mfind (((List.range' k l.length).zip l).filter p) (k + i) = l[i]?.filter fun v => p (k + i, v) := by
  induction l generalizing k i with
  | nil => rfl
  | cons x l ih =>
    rw [List.length_cons, List.range'_succ, List.zip_cons_cons, List.filter_cons]
    cases i with
    | zero =>
      have hrest := mfind_filter_zip_none l p (k := k + 1) (i := k) (by omega)
      by_cases hp : p (k, x) = true
      · rw [if_pos hp, mfind, Nat.add_zero, if_pos rfl]
        exact (if_pos hp).symm
      · rw [if_neg hp]
        exact hrest.trans (if_neg hp).symm
    | succ i =>
      have hrest := ih (k + 1) i
      rw [show k + 1 + i = k + (i + 1) by omega] at hrest
      rw [List.getElem?_cons_succ]
      split
      · rw [mfind, if_neg (by omega), hrest]
      · exact hrest

/-- The entries of a loaded image, as its bank lists them: what differs from the default, and all taps. -/
def bankEnts (es : List DWord) : List (Nat × DWord) := ((List.range 280).zip es).filter fun e => e.2 ≠ bankDefault e.1 ∨ 256 ≤ e.1

/-- A bank that lists an image holds its entries. -/
theorem bankEnt_of_ents {x : BankSt} {w : Bool} {es : List DWord} (hlen : es.length = 280) (hx : (if w then x.bankB else x.bankA) = bankEnts es)
    {i : Nat} {v : DWord} (hv : es[i]? = some v) : bankEnt x w i = v := by
  have hfind := mfind_filter_zip es (fun e => e.2 ≠ bankDefault e.1 ∨ 256 ≤ e.1) 0 i
  rw [hlen, Nat.zero_add, hv, ← List.range_eq_range'] at hfind
  unfold bankEnt
  rw [hx, bankEnts, hfind, Option.filter_some]
  split
  next => rfl
  next hdef =>
    simp only [decide_eq_true_eq, not_or, Decidable.not_not] at hdef
    exact hdef.1.symm

theorem length_imageEnts (src : Nat) : (imageEnts s src).length = 280 := by simp [imageEnts]

theorem imageEnts_gain (src : Nat) (i : Fin 128) : (imageEnts s src)[i.val]? = some (rd64 s (src + 0x40 + i * 16)) := by
  simp [imageEnts, List.getElem?_append, i.isLt]

theorem imageEnts_time (src : Nat) (i : Fin 128) : (imageEnts s src)[128 + i.val]? = some (rd64 s (src + 0x48 + i * 16)) := by
  simp [imageEnts, List.getElem?_append, i.isLt]

theorem imageEnts_tap (src : Nat) {i : Nat} (h : i < 24) : (imageEnts s src)[256 + i]? = some (rd64 s (src + 0x840 + i * 8)) := by
  have h128 : ¬ 256 + i - 128 < 128 := by omega
  have h256 : ¬ 256 + i < 128 := by omega
  simp [imageEnts, List.getElem?_append, h, h128, h256, show 256 + i - 128 - 128 = i by omega]

theorem imageEnts_of_mem {s t : State} (h : s.mem = t.mem) (src : Nat) : imageEnts s src = imageEnts t src := by
  simp only [imageEnts, rd64, rdBytes, rdByte, h]

theorem imageErr_of_mem {s t : State} (h : s.mem = t.mem) (src : Nat) : imageErr s src = imageErr t src := by
  have hbytes (b n : Nat) : rdBytes s b n = rdBytes t b n := by simp only [rdBytes, rdByte, h]
  have h32 : rd32 s src = rd32 t src := by rw [rd32, rd32, hbytes]
  have h16 : rd16 s (src + 4) = rd16 t (src + 4) := by rw [rd16, rd16, hbytes]
  unfold imageErr
  rw [imageEnts_of_mem h, h32, h16, hbytes]

/-- The errors that a read meets are counted and posted. -/
theorem postFrame_eccRead (b n : Nat) : postFrame (eccRead s b n).1 = postFrame s := by
  have hue (u : State) (d : Nat) : postFrame (memUe u d) = postFrame u := by
    rw [memUe, postFrame_notifyAll, postFrame_almPost]
    rfl
  unfold eccRead
  refine postFrame_foldl _ (fun u e => ?_) _ _
  split
  · rfl
  · rfl
  · exact hue ..

/-- A read of the DMA that is not refused counts its errors and nothing else. -/
theorem dmaAccess_read {i n b : Nat} {t : Tag} (hw : (inDram b || inDram (b + n - 1)) = true → s.trust.dramDone = true) :
    (rangeDenied s t .read b n = none → (dmaAccess s i t false b n).2 = none ∧ (dmaAccess s i t false b n).1.mem = s.mem ∧
      (dmaAccess s i t false b n).1.sca = s.sca) ∧
    (∀ k, rangeDenied s t .read b n = some k → (dmaAccess s i t false b n).2 = some k) := by
  have hstall : dramStall s b n = s := by
    unfold dramStall
    split
    next hd =>
      simp only [Bool.and_eq_true, Bool.not_eq_true'] at hd
      exact absurd (hw hd.1) (by simp [hd.2])
    next => rfl
  have hecc := postFrame_eccRead s b n
  unfold dmaAccess
  dsimp only
  rw [hstall, if_neg Bool.false_ne_true]
  refine ⟨fun hden => ?_, fun k hden => ?_⟩ <;> rw [hden]
  · dsimp only
    rw [if_neg Bool.false_ne_true]
    refine ⟨rfl, ?_, ?_⟩
    · split
      · exact (congrArg State.mem hecc :)
      · exact (congrArg State.mem hecc :)
    · split
      · exact (congrArg State.sca hecc :)
      · exact (congrArg State.sca hecc :)

theorem sca_bankEnd (u : State) (e : Nat) : (bankEnd u e).sca = { u.sca with load := none, loadDone := true, loadErr := e } := rfl

/-- A bank once an image is loaded into its half `w`. -/
def loadedBank (x : BankSt) (w : Bool) (es : List DWord) : BankSt :=
  if w then { x with bankB := bankEnts es, faultB := false } else { x with bankA := bankEnts es, faultA := false }

theorem bankFault_loadedBank (x : BankSt) (w : Bool) (es : List DWord) : bankFault (loadedBank x w es) w = false := by
  cases w <;> rfl

theorem bankEnt_loadedBank (x : BankSt) (w : Bool) {es : List DWord} (hlen : es.length = 280) {i : Nat} {v : DWord} (hv : es[i]? = some v) :
    bankEnt (loadedBank x w es) w i = v :=
  bankEnt_of_ents hlen (by cases w <;> rfl) hv

theorem bankOf_bankEnd (u : State) (b a i e : Nat) (x : BankSt) : bankOf (bankEnd (setEvt (setBank u b x) a i) e) b = x :=
  (mget_mset ..).trans (if_pos rfl)

theorem evt_setEvt_of_evt {u : State} {a b i j : Nat} (h : evt u a i = true) : evt (setEvt u b j) a i = true := by
  by_cases hab : a = b
  · subst hab
    rw [evt, setEvt, liveOf_setLive_self, bit, BitVec.getLsbD_or]
    rw [evt, bit] at h
    rw [h, Bool.true_or]
  · rwa [evt, liveOf_setEvt_of_ne hab]

theorem evt_bankEnd (u : State) (a e : Nat) {i : Nat} (h : i < 32) : evt (bankEnd (setEvt u a i) e) a i = true :=
  evt_setEvt_of_evt (evt_setEvt_self (s := u) h)

/-- The end of a bank load (R281). -/
theorem bankLoadDone_holds {l : BankLoad} (hl : s.sca.load = some l) :
    let tag := dmaTag s 0x0B (some l.pid)
    let wiped := (inDram l.src || inDram (l.src + 2303)) = true → s.trust.dramDone = true
    let done := fun (e : Nat) (t : State) => t.sca.load = none ∧ t.sca.loadDone = true ∧ t.sca.loadErr = e
    (∀ k, wiped → rangeDenied s tag .read l.src 2304 = some k → Answers (exec .bankLoadDone s) (done 6)) ∧
    (wiped → rangeDenied s tag .read l.src 2304 = none → imageErr s l.src ≠ 0 → Answers (exec .bankLoadDone s) fun t =>
      done (imageErr s l.src) t ∧ t.sca.banks = s.sca.banks) ∧
    (wiped → rangeDenied s tag .read l.src 2304 = none → imageErr s l.src = 0 → Answers (exec .bankLoadDone s) fun t =>
      done 0 t ∧ evt t (R.scaGrpEvt l.bg) 2 = true ∧ bankFault (bankOf t l.bg) l.bank = false ∧ ∀ i : Fin 128,
        bankEnt (bankOf t l.bg) l.bank i = rd64 s (l.src + 0x40 + i * 16) ∧
        bankEnt (bankOf t l.bg) l.bank (128 + i) = rd64 s (l.src + 0x48 + i * 16) ∧
        (i.val < 24 → bankEnt (bankOf t l.bg) l.bank (256 + i) = rd64 s (l.src + 0x840 + i * 8))) := by
  have hrange (hw : (inDram l.src || inDram (l.src + 2303)) = true → s.trust.dramDone = true) :
      (inDram l.src || inDram (l.src + 2304 - 1)) = true → s.trust.dramDone = true := by
    rwa [show l.src + 2304 - 1 = l.src + 2303 by omega]
  dsimp only
  refine ⟨fun k hw hden => ?_, fun hw hden herr => ?_, fun hw hden herr => ?_⟩
  · obtain ⟨-, hrefused⟩ := dmaAccess_read s (i := 0x0B) (t := dmaTag s 0x0B (some l.pid)) (hrange hw)
    refine ⟨_, rfl, ?_⟩
    rw [hl]
    dsimp only
    rw [hrefused k hden]
    exact ⟨rfl, rfl, rfl⟩
  · obtain ⟨hread, -⟩ := dmaAccess_read s (i := 0x0B) (t := dmaTag s 0x0B (some l.pid)) (hrange hw)
    obtain ⟨hnone, hmem, hsca⟩ := hread hden
    refine ⟨_, rfl, ?_⟩
    rw [hl]
    dsimp only
    rw [hnone, if_neg (by simp)]
    rw [imageErr_of_mem hmem]
    generalize imageErr s l.src = e at herr
    split
    next => exact absurd rfl herr
    next =>
      rw [sca_bankEnd]
      refine ⟨⟨rfl, rfl, rfl⟩, ?_⟩
      refine Eq.trans ?_ (congrArg ScaSt.banks hsca)
      split <;> rfl
  · obtain ⟨hread, -⟩ := dmaAccess_read s (i := 0x0B) (t := dmaTag s 0x0B (some l.pid)) (hrange hw)
    obtain ⟨hnone, hmem, hsca⟩ := hread hden
    refine ⟨_, rfl, ?_⟩
    rw [hl]
    dsimp only
    rw [hnone, if_neg (by simp), imageErr_of_mem hmem, herr]
    change _ ∧ evt (bankEnd _ 0) _ _ = true ∧ bankFault (bankOf (bankEnd _ 0) _) _ = false ∧ ∀ i : Fin 128,
      bankEnt (bankOf (bankEnd _ 0) _) _ _ = _ ∧ bankEnt (bankOf (bankEnd _ 0) _) _ _ = _ ∧ (i.val < 24 → bankEnt (bankOf (bankEnd _ 0) _) _ _ = _)
    rw [imageEnts_of_mem hmem]
    refine ⟨⟨rfl, rfl, rfl⟩, evt_bankEnd _ _ _ (by decide), ?_⟩
    rw [bankOf_bankEnd]
    change bankFault (loadedBank _ l.bank (imageEnts s l.src)) l.bank = false ∧ ∀ i : Fin 128,
      bankEnt (loadedBank _ l.bank (imageEnts s l.src)) l.bank i = _ ∧ bankEnt (loadedBank _ l.bank (imageEnts s l.src)) l.bank (128 + i) = _ ∧
      (i.val < 24 → bankEnt (loadedBank _ l.bank (imageEnts s l.src)) l.bank (256 + i) = _)
    have hlen := length_imageEnts s l.src
    exact ⟨bankFault_loadedBank .., fun i => ⟨bankEnt_loadedBank _ _ hlen (imageEnts_gain ..), bankEnt_loadedBank _ _ hlen (imageEnts_time ..),
      fun h => bankEnt_loadedBank _ _ hlen (imageEnts_tap _ _ h)⟩⟩

/-! ### The end of a fade -/

theorem fadeEnd_of_none {b : Fin 64} (h : (bankOf s b).fade = none) : exec (.fadeEnd b) s = .next s := by
  refine congrArg Host.Outcome.next ?_
  unfold fadeEnd
  dsimp only
  rw [h]

theorem sca_scaNote (u : State) (cls code info : Nat) : (scaNote u cls code info none).sca = u.sca := (congrArg State.sca (postFrame_notifyAll ..) :)

theorem bankOf_of_sca {t u : State} (h : t.sca = u.sca) (b : Nat) : bankOf t b = bankOf u b := by rw [bankOf, bankOf, h]
theorem chOf_of_sca {t u : State} (h : t.sca = u.sca) (c : Nat) : chOf t c = chOf u c := by rw [chOf, chOf, h]

theorem chOf_setCh (u : State) (c k : Nat) (x : ChSt) : chOf (setCh u c x) k = if k = c then x else chOf u k := mget_mset ..

/-- The channels turn to their new value. -/
def turned (cs : List Nat) (u : State) : State := each cs u fun c v => setCh v c { chOf v c with e := (chOf v c).eNew, fade := 0 }

/-- Channels that turn to their new value: as often as one is named, it holds the value. -/
theorem chOf_turned (cs : List Nat) (u : State) (k : Nat) :
    chOf (turned cs u) k =
      if k ∈ cs then { chOf u k with e := (chOf u k).eNew, fade := 0 } else chOf u k := by
  induction cs generalizing u with
  | nil => exact (if_neg List.not_mem_nil).symm
  | cons c cs ih =>
    have hstep : turned (c :: cs) u = turned cs (setCh u c { chOf u c with e := (chOf u c).eNew, fade := 0 }) := rfl
    rw [hstep, ih, chOf_setCh]
    by_cases hk : k = c
    · simp [hk]
    · simp [hk]

/-- A bank group once its fade is over. -/
def fadedBank (x : BankSt) : BankSt :=
  { x with active := !x.active, fade := none, pend := if x.pend = some (!x.active) then none else x.pend }

theorem bankOf_turned (cs : List Nat) (u : State) (b : Nat) :
    bankOf (turned cs u) b = bankOf u b :=
  foldl_frame (h := fun v : State => bankOf v b) _ _ (fun v c => (rfl : bankOf (setCh v c { chOf v c with e := (chOf v c).eNew, fade := 0 }) b = bankOf v b)) _

theorem fadeEnd_of_over {b n : Nat} (hf : (bankOf s b).fade = some n) (hall : ∀ c ∈ bankSlots s b, n ≤ (chOf s c).fade) :
    fadeEnd s b = scaNote (bump (setEvt (turned (bankSlots s b) (setBank s b (fadedBank (bankOf s b)))) (R.scaGrpEvt b) 1) (R.scaGrpCnt b) 7 0 1)
      2 0x13 b none := by
  unfold fadeEnd
  dsimp only
  rw [hf]
  exact if_neg (by simpa using hall)

theorem offPosts_scaGrpEvt (b : Fin 64) : OffPosts (R.scaGrpEvt b) := by
  simp only [OffPosts, R.scaGrpEvt, R.almDrop01, R.almDrop23, R.almEvt, R.diagPtrSum]
  omega

theorem scaGrpEvt_ne_scaGrpCnt (b : Nat) : R.scaGrpEvt b ≠ R.scaGrpCnt b := by
  simp only [R.scaGrpEvt, R.scaGrpCnt]
  omega

theorem fadeEnd_holds (b : Fin 64) {n : Nat} (hf : (bankOf s b).fade = some n) :
    ((∃ c ∈ bankSlots s b, (chOf s c).fade < n) → exec (.fadeEnd b) s = .next s) ∧
    ((∀ c ∈ bankSlots s b, n ≤ (chOf s c).fade) → Answers (exec (.fadeEnd b) s) fun t =>
      (bankOf t b).active = !(bankOf s b).active ∧ (bankOf t b).fade = none ∧ evt t (R.scaGrpEvt b) 1 = true ∧
        ∀ c ∈ bankSlots s b, (chOf t c).e = (chOf s c).eNew ∧ (chOf t c).fade = 0) := by
  refine ⟨fun hrest => congrArg Host.Outcome.next ?_, fun hall => ⟨fadeEnd s b, rfl, ?_⟩⟩
  · unfold fadeEnd
    dsimp only
    rw [hf]
    exact if_pos (by simpa using hrest)
  · rw [fadeEnd_of_over s hf hall]
    have hcs := chOf_turned (bankSlots s b) (setBank s b (fadedBank (bankOf s b)))
    have hbank := (bankOf_turned (bankSlots s b) (setBank s b (fadedBank (bankOf s b))) b).trans ((mget_mset ..).trans (if_pos rfl))
    generalize turned (bankSlots s b) (setBank s b (fadedBank (bankOf s b))) = u at hcs hbank ⊢
    have hsca := sca_scaNote (bump (setEvt u (R.scaGrpEvt b) 1) (R.scaGrpCnt b) 7 0 1) 2 0x13 b
    have hbank' := (bankOf_of_sca hsca b).trans hbank
    refine ⟨congrArg BankSt.active hbank', congrArg BankSt.fade hbank', ?_, fun c hc => ?_⟩
    · rw [scaNote, evt_notifyAll _ (offPosts_scaGrpEvt b), evt, liveOf_bump_of_ne (scaGrpEvt_ne_scaGrpCnt b)]
      exact evt_setEvt_self (s := u) (by decide)
    · have hch := (chOf_of_sca hsca c).trans ((hcs c).trans (if_pos hc))
      exact ⟨congrArg ChSt.e hch, congrArg ChSt.fade hch⟩

/-- Settles O47: the release taken is the least of those that its queue has waiting in the earliest cycle, and what its processing leaves
of the queue and of its group; a bank that lists an image gives its entries back; the frames of the posts keep the event. -/
theorem releasesAndBanks : Obligations.ReleasesAndBanks := by
  intro a g ch w b s u same lim frz x next
  refine ⟨fun hok hitems => congrArg Host.Outcome.next (relNext_of_empty s hitems hok), fun h l hitems hok => ?_,
    freezeLimit_holds s g, freezeLimit_of_next s g, freqHold_holds s g, freqHold_of_next s g, settle_of_next s ch, bankLoad_holds s a w,
    bankLoadDone_of_none s, fun l => bankLoadDone_holds s, fun n => fadeEnd_holds s b, fadeEnd_of_none s⟩
  obtain ⟨r, hr, hmem, hcycle, hmin⟩ := relHead_spec s hitems
  exact ⟨r, hr, hmem, hcycle, hmin, relNext s, rfl, relNext_spec s hok hr⟩

end Sys2Proof.Machine
end

section
/-! Lanes and GOOSE messages (O51; R435). -/

namespace Sys2Proof.Machine

/-- A module in reset, its counter of local time at 0, with a valid message at subscription 0 that ends at 1 ns. -/
def haltedSubscription : State :=
  { State.reset with gse := { subs := [(0, { state := .valid, expiry := 1 })] } }

/-- Refutes O51: while the counter of local time is halted, the end of a message's time to live does not reach its instant. -/
theorem not_lanesAndGoose : ¬ Obligations.LanesAndGoose := by
  intro h
  obtain ⟨-, -, -, -, -, -, -, -, hexpiry, -⟩ :=
    h 0 0 0 0 ⟨0, 0, 0, 0, 0, 0, 0, ⟨0#48, 0#48, none, 0#16, [], none, true, true, true⟩⟩ ⟨false, 0#16, [], 0#32, 0, 0, 0#32, 0#32, false, 0#32, [], none, 0⟩ haltedSubscription
  obtain ⟨t, ht, -, -, -, hreached⟩ := hexpiry (by decide)
  injection ht with ht
  rw [← ht] at hreached
  revert hreached
  decide +kernel

end Sys2Proof.Machine
end

section
/-! The field bus controllers (O53; R461, R468). -/

namespace Sys2Proof.Machine

/-- Controller 0 on, its error counter at bus-off, with an order of object 962 in TQ0: the counts of that object, which the CMD does not
have, lie where the controller counts its errors. -/
def strayOrder : State :=
  { State.reset with
    fbc0 := { on := true, tec := 256, tq0 := { items := [⟨⟨true, true, true, 0, []⟩, some { obj := 962, rank := 1, action := 1, val := false }⟩] } } }

/-- Refutes O53: a malformed frame brings the bus off, and the failed order is counted in the register of malformed frames too. -/
theorem not_fieldBuses : ¬ Obligations.FieldBuses := by
  intro h
  obtain ⟨-, hreceived, -⟩ := h { core := 0, secure := true } 0 0 ⟨true, true, false, true, false, true, 0#29, []⟩ 0 .receiver 0#32 false strayOrder
  obtain ⟨hbad, -⟩ := hreceived (by decide +kernel) rfl
  obtain ⟨t, ht, hcount, -⟩ := hbad (by decide)
  injection ht with ht
  rw [← ht] at hcount
  revert hcount
  decide +kernel

end Sys2Proof.Machine
end

section
/-! The readback test of a lane, the start-up self-test and its reruns (O57; R569 to R572). -/

namespace Sys2Proof.Machine

variable (s : State)

/-- The start of a readback test (R569). -/
theorem rbTest_holds (a : Acc) (n : Fin 32) (h : admitted s a R.diagRbTest true) :
    (s.diag.rbTest ≠ none → exec (.rbTest a n) s = .next (accessed s)) ∧
    (s.diag.rbTest = none → exec (.rbTest a n) s = .next { accessed s with diag := { s.diag with
      rbTest := some (n.val, s.now), rbLane := n.val, rbDone := false, rbPass := !(laneOf s n).rbErr } }) := by
  refine ⟨fun hruns => ?_, fun hidle => ?_⟩ <;> refine congrArg Host.Outcome.next ((regAccess_of_admitted h _).trans ?_)
  · exact if_pos (Option.isSome_iff_ne_none.mpr hruns)
  · exact if_neg (by simp [accessed, hidle])

/-- The end of a readback test (R569). -/
theorem rbTestDone_holds (x y : Bool) {l t : Nat} (h : s.diag.rbTest = some (l, t)) :
    let r := reach s (t + 48)
    let pass := s.diag.rbPass && x && !y
    let v := { r with diag := { s.diag with rbTest := none, rbDone := true, rbPass := pass } }
    exec (.rbTestDone x y) s = .next (if pass then v else
      diagNote (almPost (setEvt v R.diagEvt 2) 1 0x18 0x12 none [word l]) 1 0x12 l) := by
  refine congrArg Host.Outcome.next ?_
  rw [h]
  rfl

theorem rbTestDone_of_none (x y : Bool) (h : s.diag.rbTest = none) : exec (.rbTestDone x y) s = .next s := by
  refine congrArg Host.Outcome.next ?_
  rw [h]

theorem offPosts_diagEvt : OffPosts R.diagEvt := by unfold OffPosts; decide

/-- The records of the failed tests leave the diagnosis and TRUST, and keep the event. -/
theorem bistRecords_frame (l : List Nat) (t : State) :
    (l.foldl bistRecord t).diag = t.diag ∧ (l.foldl bistRecord t).trust = t.trust ∧ (l ≠ [] ∨ evt t R.diagEvt 1 = true → evt (l.foldl bistRecord t) R.diagEvt 1 = true) := by
  induction l generalizing t with
  | nil => exact ⟨rfl, rfl, fun h => h.resolve_left fun hne => hne rfl⟩
  | cons n l ih =>
    obtain ⟨hdiag, htrust, hevt⟩ := ih (bistRecord t n)
    have hframe : postFrame (bistRecord t n) = postFrame t := by simp [bistRecord]
    have hset : evt (bistRecord t n) R.diagEvt 1 = true := (evt_almPost _ offPosts_diagEvt ..).trans (evt_setEvt_self (by decide))
    exact ⟨hdiag.trans (congrArg State.diag hframe :), htrust.trans (congrArg State.trust hframe :), fun _ => hevt (.inr hset)⟩

/-- The start-up self-test (R570, R571). -/
theorem builtInSelfTest_holds (fails : BitVec 9) (hstage : s.trust.stage = 2) (hok : s.diag.bistOk = false) (hhalt : s.trust.halted = false) :
    let bad := (List.range 9).filter fun i => fails.getLsbD i
    Answers (exec (.builtInSelfTest fails) s) fun t => t.diag.bistFail = word fails.toNat ∧ (bad ≠ [] → evt t R.diagEvt 1 = true) ∧
      (if ∃ i ∈ bad, i ≤ 5 then t.trust = { s.trust with halted := true } ∧ t.diag.bistOk = false
       else t.trust = s.trust ∧ t.diag.bistOk = true ∧ t.diag.bistPost = bad) := by
  intro bad
  obtain ⟨hdiag, htrust, hevt⟩ := bistRecords_frame bad (modDiag s fun d => { d with bistFail := word fails.toNat })
  refine ⟨_, congrArg Host.Outcome.next (if_neg (by simp [hstage, hok, hhalt])), ?_⟩
  dsimp only
  generalize bad.foldl bistRecord _ = v at hdiag htrust hevt ⊢
  by_cases hfatal : ∃ i ∈ bad, i ≤ 5
  · have hany : (bad.any fun t => decide (t ≤ 5)) = true := by simpa using hfatal
    rw [if_pos hany, if_pos hfatal]
    refine ⟨congrArg DiagSt.bistFail hdiag, fun hbad => hevt (.inl hbad), ?_, (congrArg DiagSt.bistOk hdiag).trans hok⟩
    exact congrArg (fun x : TrustSt => { x with halted := true }) htrust
  · have hany : ¬ (bad.any fun t => decide (t ≤ 5)) = true := by simpa using hfatal
    rw [if_neg hany, if_neg hfatal]
    exact ⟨congrArg DiagSt.bistFail hdiag, fun hbad => hevt (.inl hbad), htrust, rfl, rfl⟩

/-- A rerun of a test (R572). -/
theorem bistRerun_holds (a : Acc) (k : Fin 16) (h : admitted s a R.diagBistCtrl true) :
    let sets := fun f : DiagSt => exec (.bistRerun a k) s = .next { accessed s with diag := f }
    (s.diag.bist ≠ none → sets { s.diag with bistErr := 2 }) ∧
    (s.diag.bist = none → k.val ≠ 2 → k.val ≠ 4 → sets { s.diag with bistDone := true, bistErr := 1 }) ∧
    (s.diag.bist = none → k.val = 2 → s.trust.cmd ≠ none → sets { s.diag with bistDone := true, bistErr := 2 }) ∧
    (s.diag.bist = none → k.val = 4 ∨ (k.val = 2 ∧ s.trust.cmd = none) → sets { s.diag with bist := some k.val, bistDone := false, bistErr := 0 }) := by
  dsimp only
  have hidle (hbist : s.diag.bist = none) : ¬ (accessed s).diag.bist.isSome = true := by simp [accessed, hbist]
  refine ⟨fun hruns => ?_, fun hbist h2 h4 => ?_, fun hbist h2 hcmd => ?_, fun hbist hmay => ?_⟩ <;>
    refine congrArg Host.Outcome.next ((regAccess_of_admitted h _).trans ?_)
  · exact if_pos (Option.isSome_iff_ne_none.mpr hruns)
  · exact (if_neg (hidle hbist)).trans (if_pos ⟨h2, h4⟩)
  · exact (if_neg (hidle hbist)).trans ((if_neg (by simp [h2])).trans (if_pos ⟨h2, Option.isSome_iff_ne_none.mpr hcmd⟩))
  · have hunit : ¬ (k.val ≠ 2 ∧ k.val ≠ 4) := by omega
    have hfree : ¬ (k.val = 2 ∧ (accessed s).trust.cmd.isSome = true) := by
      rcases hmay with h4 | ⟨-, hcmd⟩
      · omega
      · simp [accessed, hcmd]
    exact (if_neg (hidle hbist)).trans ((if_neg hunit).trans (if_neg hfree))

theorem bistDone_of_none (x : Bool) (h : s.diag.bist = none) : exec (.bistDone x) s = .next s := by
  refine congrArg Host.Outcome.next ?_
  rw [h]

theorem bistDone_holds (x : Bool) {i : Nat} (h : s.diag.bist = some i) :
    let v := { s with diag := { s.diag with bist := none, bistDone := true, bistFail := setFld s.diag.bistFail i i (b2n x 0) } }
    exec (.bistDone x) s = .next (if x then almPost (setEvt v R.diagEvt 1) 1 0x18 0x10 none [word i] else v) := by
  refine congrArg Host.Outcome.next ?_
  rw [h]
  rfl

/-- Settles O57: each command and event of the self-tests by its branch; the records of failed tests leave the diagnosis and keep the
event. -/
theorem selfTests : Obligations.SelfTests := by
  intro a n k x y fails s u d bad
  exact ⟨rbTest_holds s a n, rbTestDone_of_none s x y, fun l t => rbTestDone_holds s x y,
    fun h => congrArg Host.Outcome.next (if_pos (by simpa [d] using h)), builtInSelfTest_holds s fails, bistRerun_holds s a k, bistDone_of_none s x,
    fun i => bistDone_holds s x⟩

end Sys2Proof.Machine
end

section
/-! The fatal-error dump (O58; R575 to R578). -/

namespace Sys2Proof.Machine

variable (s : State)

/-! ### Freeze -/

theorem coreOf_runOver_of_ne {k j : Nat} (h : j ≠ k) : coreOf (runOver s k) j = coreOf s j := by
  unfold runOver
  dsimp only
  split
  · rw [coreOf_eq_of_pcx (handoverDone_pcx _ k), coreOf_setCore, if_neg h]
  · rw [coreOf_setCore, if_neg h]

/-- A core that runs after another's run is cut ran before, and is not that one. -/
theorem run_of_run_runCut {k j : Nat} (h : (coreOf (runCut s k) j).mode = .run) : j ≠ k ∧ (coreOf s j).mode = .run := by
  have hne : j ≠ k := fun he => mode_runCut_ne_run s k (he ▸ h)
  refine ⟨hne, ?_⟩
  unfold runCut at h
  dsimp only at h
  split at h
  · rwa [coreOf_runOver_of_ne _ hne] at h
  · exact h

theorem run_of_run_runCuts (l : List Nat) {j : Nat} (h : (coreOf (l.foldl runCut s) j).mode = .run) : j ∉ l ∧ (coreOf s j).mode = .run := by
  induction l generalizing s with
  | nil => exact ⟨List.not_mem_nil, h⟩
  | cons k l ih =>
    obtain ⟨hrest, hrun⟩ := ih (runCut s k) h
    obtain ⟨hne, hrun⟩ := run_of_run_runCut s hrun
    exact ⟨List.not_mem_cons_of_ne_of_not_mem hne hrest, hrun⟩

/-- What a core table does not list does not run. -/
theorem mem_cores_of_run {j : Nat} (h : (coreOf s j).mode = .run) : j ∈ s.pcx.cores.map (·.1) := by
  unfold coreOf at h
  generalize s.pcx.cores = l at h ⊢
  induction l with
  | nil => exact absurd h (by simp [mget])
  | cons e l ih =>
    obtain ⟨k, c⟩ := e
    simp only [mget] at h
    split at h
    next hk => simp [hk]
    next => exact List.mem_cons_of_mem _ (ih h)

/-- No core runs once every listed core's run is cut. -/
theorem not_run_runCuts (j : Nat) : (coreOf ((s.pcx.cores.map (·.1)).foldl runCut s) j).mode ≠ .run := fun h => by
  obtain ⟨hnot, hrun⟩ := run_of_run_runCuts s _ h
  exact hnot (mem_cores_of_run s hrun)

/-- The end of a run leaves memory and the diagnosis. -/
theorem frame_runCuts (l : List Nat) : (l.foldl runCut s).mem = s.mem ∧ (l.foldl runCut s).diag = s.diag := by
  have hcut (t : State) (k : Nat) : (runCut t k).mem = t.mem ∧ (runCut t k).diag = t.diag := by
    unfold runCut runOver handoverDone
    dsimp only
    repeat' split
    all_goals exact ⟨rfl, rfl⟩
  exact List.foldlRecOn (motive := fun t : State => t.mem = s.mem ∧ t.diag = s.diag) _ _ ⟨rfl, rfl⟩
    fun t ⟨hmem, hdiag⟩ k _ => ⟨(hcut t k).1.trans hmem, (hcut t k).2.trans hdiag⟩

theorem mem_mastership : (mastership s).mem = s.mem := (mem_pulseHold _).trans (mem_lanesUpdate s)
theorem diag_mastership : (mastership s).diag = s.diag :=
  (congrArg State.diag (mtrFrame_pulseHold _) : _).trans (congrArg State.diag (laneFrame_lanesUpdate s) :)
theorem coreOf_mastership (n : Nat) : coreOf (mastership s) n = coreOf s n :=
  (congrArg (fun t => coreOf t n) (mtrFrame_pulseHold _) : _).trans (congrArg (fun t => coreOf t n) (laneFrame_lanesUpdate s) :)

/-- Without mastership every lane is at HOLD. -/
theorem drive_mastership_of_notMaster (h : laneMaster s = false) {n : Nat} (hn : n < 32) : (laneOf (mastership s) n).drive = .hold :=
  (congrArg Lane.drive (laneOf_pulseHold ..)).trans (drive_lanesUpdate_of_notMaster s h hn)

theorem laneMaster_of_frozen (h : s.diag.frozen = true) : laneMaster s = false := by simp [laneMaster, h]

/-! ### The operations of DIAG_DUMP_CTRL -/

variable (a : Acc) {key : Half}

theorem dumpCtrl_of_wrong (h : admitted s a R.diagDumpCtrl true) (hkey : key ≠ 0xD0C5#16) (f : State → State) :
    dumpCtrl a key f s = { accessed s with diag := { s.diag with badKey := min 255 (s.diag.badKey + 1) } } :=
  (regAccess_of_admitted h _).trans (if_neg hkey)

theorem dumpCtrl_of_right (h : admitted s a R.diagDumpCtrl true) (hkey : key = 0xD0C5#16) (f : State → State) : dumpCtrl a key f s = f (accessed s) :=
  (regAccess_of_admitted h _).trans (if_pos hkey)

theorem dumpFreeze_of_running (hbusy : dumpBusy s = false) (hfrozen : s.diag.frozen = false) :
    (dumpFreeze s).diag = { s.diag with frozen := true, freezeAt := s.ltc, dumpErr := 0 } ∧ (dumpFreeze s).mem = s.mem ∧
      ∀ n, n < 64 → (coreOf (dumpFreeze s) n).mode ≠ .run ∧ (n < 32 → (laneOf (dumpFreeze s) n).drive = .hold) := by
  obtain ⟨hmem, hdiag⟩ := frame_runCuts (modDiag s fun d => { d with frozen := true, freezeAt := s.ltc, dumpErr := 0 }) (s.pcx.cores.map (·.1))
  have hruns := not_run_runCuts (modDiag s fun d => { d with frozen := true, freezeAt := s.ltc, dumpErr := 0 })
  have hfreeze : dumpFreeze s = mastership ((s.pcx.cores.map (·.1)).foldl runCut
      (modDiag s fun d => { d with frozen := true, freezeAt := s.ltc, dumpErr := 0 })) :=
    (if_neg (by simp [hbusy])).trans (if_neg (by simp [hfrozen]))
  rw [hfreeze]
  generalize hv : (s.pcx.cores.map (·.1)).foldl runCut (modDiag s fun d => { d with frozen := true, freezeAt := s.ltc, dumpErr := 0 }) = v at hmem hdiag
  have hruns' (n : Nat) : (coreOf v n).mode ≠ .run := hv ▸ hruns n
  refine ⟨(diag_mastership v).trans hdiag, (mem_mastership v).trans hmem, fun n _ => ⟨?_, fun hn => ?_⟩⟩
  · rw [coreOf_mastership]
    exact hruns' n
  · exact drive_mastership_of_notMaster v (laneMaster_of_frozen v (congrArg DiagSt.frozen hdiag)) hn

/-! ### The end of a seal -/

theorem length_drawBytes (n : Nat) : (drawBytes s n).1.length = n := by
  rw [drawBytes, List.length_take, List.length_flatMap]
  simp only [length_leBytes, List.map_const', List.sum_replicate_nat, List.length_range]
  omega

theorem length_wordsLe (l : List Word) : (wordsLe l).length = 4 * l.length := by
  rw [wordsLe, List.length_flatMap]
  simp only [length_leBytes, List.map_const', List.sum_replicate_nat]
  exact Nat.mul_comm ..

theorem length_gcmTag (key iv aad ct : List Byte) : (gcmTag key iv aad ct).length = 16 := by simp [gcmTag, cryptBytes]

theorem length_gcmBytes (key iv m : List Byte) : (gcmBytes key iv m).length = m.length := by simp [gcmBytes]

theorem length_dumpHead (len : Nat) {iv salt : List Byte} (hiv : iv.length = 12) (hsalt : salt.length = 32) :
    (dumpHead s len iv salt).length = 128 := by
  simp [dumpHead, length_wordsLe, length_leBytes, hiv, hsalt]

/-- The dump begins with its magic number; its marker follows header and tag. -/
theorem dumpBytes_marks {iv salt : List Byte} (hiv : iv.length = 12) (hsalt : salt.length = 32) :
    (∃ rest, dumpBytes s iv salt = leBytes 4 0x4C444455 ++ rest) ∧
    ∃ front rest, front.length = 0x90 ∧ dumpBytes s iv salt = front ++ (leBytes 8 (guarded 0x4C445641#32).toNat ++ rest) := by
  have hhead := length_dumpHead s (dumpSections s).length hiv hsalt
  refine ⟨?_, ?_⟩
  · unfold dumpBytes dumpHead wordsLe
    simp only [List.flatMap_cons, List.append_assoc]
    exact ⟨_, rfl⟩
  · refine ⟨dumpHead s (dumpSections s).length iv salt ++ gcmTag (dumpKey salt) iv (dumpHead s (dumpSections s).length iv salt)
      (gcmBytes (dumpKey salt) iv (dumpSections s)), List.replicate 104 0#8 ++ gcmBytes (dumpKey salt) iv (dumpSections s), ?_, ?_⟩
    · rw [List.length_append, hhead, length_gcmTag]
    · simp only [dumpBytes, List.append_assoc]

/-- What lies inside a store is read back, also where it copied captured lines first. -/
theorem rdBytes_wrBytes_inside {a : Nat} {front mid rest : List Byte} :
    rdBytes (wrBytes s a (front ++ (mid ++ rest))) (a + front.length) mid.length = mid := by
  refine List.ext_getElem (length_rdBytes ..) fun i hi hi' => ?_
  simp only [rdBytes, List.getElem_map, List.getElem_range]
  rw [wrBytes, rdByte_markDirty, rdByte_pokeBytes, if_pos ⟨by omega, by simp only [List.length_append]; omega⟩,
    show a + front.length + i - a = front.length + i by omega, List.getElem?_append_right (by omega), Nat.add_sub_cancel_left,
    List.getElem?_append_left hi', List.getElem?_eq_getElem hi', Option.getD_some]

theorem diag_blockRead (i b n : Nat) : (blockRead s i b n).diag = s.diag := by
  have hread : (eccRead s b n).1.diag = s.diag := (congrArg State.diag (postFrame_eccRead s b n) :)
  unfold blockRead
  dsimp only
  split
  · exact hread
  · exact hread

theorem sealDone_holds (h : s.diag.sealing ≠ none) : Answers (exec .sealDone s) fun t => t.diag = { s.diag with sealing := none } ∧
    evt t R.diagEvt 0 = true ∧ dumpMark t = true ∧ rd32 t 0x4FC000000 = 0x4C444455#32 := by
  refine ⟨_, congrArg Host.Outcome.next (if_neg (by simpa using h)), ?_⟩
  dsimp only
  have hiv := length_drawBytes s 12
  have hsalt := length_drawBytes (drawBytes s 12).2 32
  have hdiag := diag_blockRead (drawBytes (drawBytes s 12).2 32).2 0x18
    (0x80000000 + fld (shadowOf (drawBytes (drawBytes s 12).2 32).2 R.diagDumpArg) 31 16 % 256 * 0x10000) (dumpLen (drawBytes (drawBytes s 12).2 32).2)
  generalize blockRead _ _ _ _ = v at hdiag ⊢
  generalize (drawBytes s 12).1 = iv at hiv ⊢
  generalize (drawBytes (drawBytes s 12).2 32).1 = salt at hsalt ⊢
  obtain ⟨⟨tail, hstart⟩, front, rest, hfront, hmark⟩ := dumpBytes_marks v hiv hsalt
  have hv : v.diag = s.diag := hdiag
  refine ⟨?_, evt_setEvt_self (by decide), ?_, ?_⟩
  · have hframe := storeFrame_wrBytes (modDiag v fun d => { d with sealing := none }) dumpBase (dumpBytes v iv salt)
    have hstore : (wrBytes (modDiag v fun d => { d with sealing := none }) dumpBase (dumpBytes v iv salt)).diag = { v.diag with sealing := none } :=
      (congrArg State.diag hframe :)
    exact hstore.trans (congrArg (fun d : DiagSt => { d with sealing := none }) hv)
  · have hread := rdBytes_wrBytes_inside (modDiag v fun d => { d with sealing := none }) (a := dumpBase) (front := front)
      (mid := leBytes 8 (guarded 0x4C445641#32).toNat) (rest := rest)
    rw [← hmark, hfront, length_leBytes] at hread
    have hword : rd64 (wrBytes (modDiag v fun d => { d with sealing := none }) dumpBase (dumpBytes v iv salt)) 0x4FC000090 = guarded 0x4C445641#32 := by
      rw [rd64, show (0x4FC000090 : Nat) = dumpBase + 0x90 from rfl, hread, leNat_leBytes]
      decide
    exact beq_iff_eq.mpr hword
  · have hread := rdBytes_wrBytes_inside (modDiag v fun d => { d with sealing := none }) (a := dumpBase) (front := [])
      (mid := leBytes 4 0x4C444455) (rest := tail)
    rw [List.nil_append, ← hstart, length_leBytes] at hread
    have hword : rd32 (wrBytes (modDiag v fun d => { d with sealing := none }) dumpBase (dumpBytes v iv salt)) 0x4FC000000 = 0x4C444455#32 := by
      rw [rd32, show (0x4FC000000 : Nat) = dumpBase + ([] : List Byte).length from rfl, hread, leNat_leBytes]
      decide
    exact hword

/-! ### Unseal and acknowledge -/

theorem dumpUnseal_of_kept (hbusy : dumpBusy s = false) (hkept : s.diag.kept = true)
    (hclean : eccIn s 0x4FC000000 (0x100 + min (rd32 s 0x4FC00000C).toNat 0x3FFFF00) = []) :
    let h := rdBytes s 0x4FC000000 0x80
    let n := min (rd32 s 0x4FC00000C).toNat 0x3FFFF00
    let iv := slice h 0x24 12
    let k := dumpKey (slice h 0x30 32)
    let c := rdBytes s 0x4FC000100 n
    let dst := fld (shadowOf s R.diagDumpArg) 31 6 * 64
    let tag : Tag := { secure := true, pid := 0, sys := true, master := 0x98#8 }
    (gcmTag k iv h c ≠ rdBytes s 0x4FC000080 16 → dumpUnseal s = dumpErr s 3) ∧
    (gcmTag k iv h c = rdBytes s 0x4FC000080 16 → dmaMay s tag .write dst n →
      dumpUnseal s = wrBytes (dumpErr s 0) dst ((gcmBytes k iv c).take n)) := by
  dsimp only
  have hread : blockRead s 0x18 dumpBase (0x100 + min (rd32 s (dumpBase + 0x0C)).toNat 0x3FFFF00) = s := blockRead_of_clean 0x18 hclean
  refine ⟨fun htag => ?_, fun htag hmay => ?_⟩ <;> refine (if_neg (by simp [hbusy])).trans ((if_neg (by simp [hkept])).trans ?_)
  · dsimp only
    rw [hread]
    exact if_pos htag
  · dsimp only
    rw [hread]
    refine (if_neg (Classical.not_not.mpr htag)).trans (dmaWrite_of_dmaMay 0x18 ?_)
    rwa [List.length_take, length_gcmBytes, length_rdBytes, Nat.min_self]

theorem mget_mdrop {α : Type} (d : α) (m : List (Nat × α)) (lo hi k : Nat) :
    mget d (mdrop m lo hi) k = if lo ≤ k ∧ k < hi then d else mget d m k := by
  rw [mdrop, mget_filter d m (fun i => decide (i < lo) || decide (hi ≤ i)) k]
  by_cases h : lo ≤ k ∧ k < hi
  · rw [if_pos h, if_neg (by simpa using h)]
  · rw [if_neg h, if_pos (by simpa using (by omega : k < lo ∨ hi ≤ k))]

theorem dumpRegionWipeDone_holds (h : s.diag.wiping = true) : Answers (exec .dumpRegionWipeDone s) fun t =>
    t.diag = { s.diag with wiping := false, kept := false } ∧ ∀ b, rdByte t b = if inDump b then 0#8 else rdByte s b := by
  refine ⟨_, congrArg Host.Outcome.next (if_neg (by simp [h])), rfl, fun b => ?_⟩
  refine (mget_mdrop ..).trans ?_
  simp only [inDump, dumpBase, Bool.and_eq_true, decide_eq_true_eq]
  rfl

/-- Settles O58: each operation by its branches; a freeze cuts every listed core's run and takes mastership from the lanes, a seal stores
its header's magic number and its marker behind header and tag, a wipe drops the region's bytes. -/
theorem fatalErrorDump : Obligations.FatalErrorDump := by
  intro a key s u d sets
  have hright (hadm : admitted s a R.diagDumpCtrl true) (hkey : key = 0xD0C5#16) (f : State → State) {t : State} (hf : f (accessed s) = t) :
      (.next (dumpCtrl a key f s) : Host.Outcome State Fault Refusal) = .next t :=
    congrArg Host.Outcome.next ((dumpCtrl_of_right s a hadm hkey f).trans hf)
  have hidle (hbusy : dumpBusy s = false) : dumpBusy (accessed s) = false := hbusy
  refine ⟨fun hadm => ⟨fun hkey => ?_, fun hkey => ⟨fun hbusy => ?_, fun hsole => ?_, fun hbusy => ⟨fun hfrozen => ?_, fun hfrozen => ?_, fun hfrozen => ?_,
    fun hfrozen => ?_, fun hkept => ⟨?_, ?_⟩, fun hkept => ?_, fun hkept hclean => ?_⟩⟩⟩,
    fun hsealing => congrArg Host.Outcome.next (if_pos (by simpa [d] using hsealing)), sealDone_holds s,
    fun hwiping => congrArg Host.Outcome.next (if_pos (by simpa [d] using hwiping)), dumpRegionWipeDone_holds s⟩
  · simp only [List.mem_cons, List.not_mem_nil, or_false, forall_eq_or_imp, forall_eq]
    have hwrong (f : State → State) := congrArg (Host.Outcome.next (φ := Fault) (ρ := Refusal)) (dumpCtrl_of_wrong s a hadm hkey f)
    exact ⟨hwrong _, hwrong _, hwrong _, hwrong _, hwrong _⟩
  · simp only [List.mem_cons, List.not_mem_nil, or_false, forall_eq_or_imp, forall_eq]
    exact ⟨hright hadm hkey _ (if_pos hbusy), hright hadm hkey _ (if_pos hbusy), hright hadm hkey _ (if_pos hbusy), hright hadm hkey _ (if_pos hbusy)⟩
  · exact ⟨_, congrArg Host.Outcome.next (dumpCtrl_of_right s a hadm hkey _),
      resetFrom_deviceReset (s := accessed s) (resetCause_of_soleCause (s := accessed s) hsole 4)⟩
  · exact hright hadm hkey _ ((if_neg (by simp [hidle hbusy])).trans (if_pos hfrozen))
  · obtain ⟨hdiag, hmem, hcores⟩ := dumpFreeze_of_running (accessed s) (hidle hbusy) hfrozen
    exact ⟨dumpFreeze (accessed s), hright hadm hkey dumpFreeze rfl, hdiag, hmem, hcores⟩
  · exact hright hadm hkey _ ((if_neg (by simp [hidle hbusy])).trans (if_pos (by simpa [accessed] using hfrozen)))
  · exact hright hadm hkey _ ((if_neg (by simp [hidle hbusy])).trans (if_neg (by simpa [accessed] using hfrozen)))
  · exact hright hadm hkey _ ((if_neg (by simp [hidle hbusy])).trans (if_pos (by simpa [accessed] using hkept)))
  · exact hright hadm hkey _ ((if_neg (by simp [hidle hbusy])).trans (if_pos (by simpa [accessed] using hkept)))
  · exact hright hadm hkey _ ((if_neg (by simp [hidle hbusy])).trans (if_neg (by simpa [accessed] using hkept)))
  · obtain ⟨hbad, hgood⟩ := dumpUnseal_of_kept (accessed s) (hidle hbusy) hkept hclean
    exact ⟨fun htag => hright hadm hkey _ (hbad htag), fun htag hmay => hright hadm hkey _ (hgood htag hmay)⟩

end Sys2Proof.Machine
end

section
/-! SUPPORT. The TSK's own state of a partition: read after write, and what image checks, bank flips and new task tables leave of it
(R392, R393, R398). -/

namespace Sys2Proof.Machine

variable (s : State)

theorem partOf_setPart (p q : Nat) (x : TskPart) : partOf (setPart s p x) q = if q = p then x else partOf s q := mget_mset ..
theorem partOf_setPart_self (p : Nat) (x : TskPart) : partOf (setPart s p x) p = x := (partOf_setPart ..).trans (if_pos rfl)

/-- Of two writes to a partition's state the second stands. -/
theorem setPart_setPart (p : Nat) (x y : TskPart) : setPart (setPart s p x) p y = setPart s p y := by
  simp only [setPart, mset_mset]

theorem modPart_setPart (p : Nat) (x : TskPart) (f : TskPart → TskPart) : modPart (setPart s p x) p f = setPart s p (f x) := by
  rw [modPart, partOf_setPart_self, setPart_setPart]

theorem partOf_of_storeFrame {s t : State} (h : storeFrame s = storeFrame t) (p : Nat) : partOf s p = partOf t p :=
  (congrArg (fun u : State => partOf u p) h :)

/-- The check of an image reads it: what it counts and posts is not of the TSK. -/
theorem storeFrame_imgCheck (p a : Nat) : storeFrame (imgCheck s p a).1 = storeFrame s := by
  unfold imgCheck
  dsimp only
  split
  · rw [storeFrame_dmaAccess, storeFrame_dmaAccess]
  · exact storeFrame_dmaAccess ..

/-- The TSK's states of the partitions, and the registers' shadows. -/
def State.programs (s : State) : List (Nat × TskPart) × List (Nat × Word) := (s.tsk.parts, s.shadow)

theorem partOf_of_programs {s t : State} (h : s.programs = t.programs) (p : Nat) : partOf s p = partOf t p := by
  have hparts : s.tsk.parts = t.tsk.parts := congrArg Prod.fst h
  rw [partOf, partOf, hparts]

theorem shadowOf_of_programs {s t : State} (h : s.programs = t.programs) (a : Nat) : shadowOf s a = shadowOf t a := by
  have hshadow : s.shadow = t.shadow := congrArg Prod.snd h
  rw [shadowOf, shadowOf, hshadow]

theorem programs_setTask (t : Nat) (x : TaskSt) : (setTask s t x).programs = s.programs := rfl
theorem programs_actOut (k : Nat) : (actOut s k).programs = s.programs := rfl
theorem programs_modCore (k : Nat) (f : CoreSt → CoreSt) : (modCore s k f).programs = s.programs := rfl

theorem programs_flipBanks (g : Program) : (flipBanks s g).programs = s.programs :=
  foldl_frame (h := fun u : State => u.programs) _ _ (fun _ _ => programs_modCore ..) _

theorem programs_newTasks (old : Option Program) (g : Program) (first : Nat) : (newTasks s old g first).programs = s.programs := by
  unfold newTasks
  refine Eq.trans (foldl_frame (h := fun u : State => u.programs) _ _ (fun u e => programs_setTask ..) _) ?_
  refine foldl_frame (h := fun u : State => u.programs) _ _ (fun u e => ?_) _
  dsimp only
  rw [programs_setTask]
  split
  · exact programs_actOut ..
  · rfl

end Sys2Proof.Machine
end

section
/-! The commands of TSK_P_CTRL (O49; R83, R383, R392 to R395). -/

namespace Sys2Proof.Machine

variable (s : State) (a : Acc) (p : Fin 32)

/-- The state an accepted command begins with: ERR is clear. -/
def pCtrlBegun : State := setPart (accessed s) p { partOf s p with err := 0 }

theorem partOf_pCtrlBegun : partOf (pCtrlBegun s p) p = { partOf s p with err := 0 } := partOf_setPart_self ..

theorem pCtrl_of_not (h : admitted s a (R.tskPCtrl p) true) {ok : TskPart → Bool} (hok : ¬ ok (partOf s p) = true) (f : State → State) :
    pCtrl a p ok f s = setEvt (setPart (accessed s) p { partOf s p with err := 1 }) (R.tskPEvt p) 9 :=
  (regAccess_of_admitted h _).trans (if_neg hok)

theorem pCtrl_of_ok (h : admitted s a (R.tskPCtrl p) true) {ok : TskPart → Bool} (hok : ok (partOf s p) = true) (f : State → State) :
    pCtrl a p ok f s = f (pCtrlBegun s p) :=
  (regAccess_of_admitted h _).trans (if_pos hok)

/-- A command fails under a state of the partition that its access and its checks have left as it was but for ERR. -/
theorem cmdErr_of_partOf {t : State} {x : TskPart} (h : partOf t p = { x with err := 0 }) (e : Nat) :
    cmdErr t p e = setEvt (setPart t p { x with err := e }) (R.tskPEvt p) 9 := by
  rw [cmdErr, modPart, h]

/-- What a check of the image leaves of the partition that its command has begun with. -/
theorem partOf_imgCheck (b : Nat) : partOf (imgCheck (pCtrlBegun s p) p b).1 p = { partOf s p with err := 0 } :=
  (partOf_of_storeFrame (storeFrame_imgCheck ..) p).trans (partOf_pCtrlBegun s p)

/-- A command of TSK_P_CTRL: STATE where its condition fails, else what it gives. -/
theorem accepts_of_pCtrl (h : admitted s a (R.tskPCtrl p) true) {i : Instr} {ok : TskPart → Bool} {f : State → State} {c e : Prop}
    (hi : exec i s = .next (pCtrl a p ok f s)) (hc : ok (partOf s p) = true ↔ c) (he : exec i s = .next (f (pCtrlBegun s p)) → c → e) :
    (¬c → exec i s = .next (setEvt (setPart (accessed s) p { partOf s p with err := 1 }) (R.tskPEvt p) 9)) ∧ (c → e) :=
  ⟨fun hn => hi.trans (congrArg Host.Outcome.next (pCtrl_of_not s a p h (mt hc.mp hn) f)),
    fun hy => he (hi.trans (congrArg Host.Outcome.next (pCtrl_of_ok s a p h (hc.mpr hy) f))) hy⟩

/-- LOAD (R392, R393). -/
theorem load_holds (hi : exec (.load a p) s = .next (
      let w := shadowOf (pCtrlBegun s p) (R.tskPMq p.val)
      let r := imgCheck (pCtrlBegun s p) p.val w.toNat
      if r.2 ≠ 0 then cmdErr r.1 p.val r.2
      else modPart r.1 p.val fun x => { x with mq := .loading, maq := some (readProgram (imgNat (pCtrlBegun s p) p.val) (w.toNat + 0x2000)), maqImg := w })) :
    let w := shadowOf s (R.tskPMq p)
    let r := imgCheck (pCtrlBegun s p) p w.toNat
    (r.2 ≠ 0 → exec (.load a p) s = .next (setEvt (setPart r.1 p { partOf s p with err := r.2 }) (R.tskPEvt p) 9)) ∧
    (r.2 = 0 → exec (.load a p) s = .next (setPart r.1 p { partOf s p with
      err := 0, mq := .loading, maq := some (readProgram (imgNat (pCtrlBegun s p) p) (w.toNat + 0x2000)), maqImg := w })) := by
  have hpart := partOf_imgCheck s p (shadowOf s (R.tskPMq p)).toNat
  refine ⟨fun hbad => hi.trans (congrArg Host.Outcome.next ?_), fun hgood => hi.trans (congrArg Host.Outcome.next ?_)⟩
  · exact (if_pos hbad).trans (cmdErr_of_partOf p hpart _)
  · refine (if_neg (Classical.not_not.mpr hgood)).trans ?_
    exact congrArg (setPart _ p.val) (congrArg (fun x : TskPart => { x with mq := .loading, maq := some (readProgram (imgNat (pCtrlBegun s p) p.val) ((shadowOf s (R.tskPMq p)).toNat + 0x2000)), maqImg := shadowOf s (R.tskPMq p) }) hpart)

/-- INSTALL (R392, R393). -/
theorem install_holds (hi : exec (.install a p) s = .next (
      let r := imgCheck (pCtrlBegun s p) p.val (partOf (pCtrlBegun s p) p.val).maqImg.toNat
      match (partOf (pCtrlBegun s p) p.val).maq with
      | some g => if r.2 ≠ 0 then cmdErr r.1 p.val r.2 else installProg r.1 p.val g
      | none => pCtrlBegun s p)) (g : Program) (hg : (partOf s p).maq = some g) :
    let r := imgCheck (pCtrlBegun s p) p (partOf s p).maqImg.toNat
    (r.2 ≠ 0 → exec (.install a p) s = .next (setEvt (setPart r.1 p { partOf s p with err := r.2 }) (R.tskPEvt p) 9)) ∧
    (r.2 = 0 → exec (.install a p) s = .next (setPart (newTasks (flipBanks r.1 g) (partOf s p).prog g 0) p { partOf s p with
      err := 0, prog := some g, img := shadowOf s (R.tskPMq p), pstate := .stopped, mq := .none, maq := none, series := none, attemptAt := none
      attemptBad := none })) := by
  have hpart := partOf_imgCheck s p (partOf s p).maqImg.toNat
  have hshadow : shadowOf (imgCheck (pCtrlBegun s p) p (partOf s p).maqImg.toNat).1 = shadowOf s :=
    (shadowOf_of_storeFrame (storeFrame_imgCheck ..)).trans (b := shadowOf (pCtrlBegun s p)) rfl
  rw [partOf_pCtrlBegun] at hi
  simp only [hg] at hi
  dsimp only
  generalize imgCheck (pCtrlBegun s p) p (partOf s p).maqImg.toNat = r at hi hpart hshadow ⊢
  refine ⟨fun hbad => hi.trans (congrArg Host.Outcome.next ?_), fun hgood => hi.trans (congrArg Host.Outcome.next ?_)⟩
  · exact (if_pos hbad).trans (cmdErr_of_partOf p hpart _)
  · refine (if_neg (Classical.not_not.mpr hgood)).trans ?_
    have hprograms : (newTasks (flipBanks r.1 g) (partOf r.1 p).prog g 0).programs = r.1.programs :=
      (programs_newTasks ..).trans (programs_flipBanks ..)
    rw [installProg, modPart, partOf_of_programs hprograms, shadowOf_of_programs hprograms, hshadow, hpart]
    rfl

/-- PREPARE (R394): the carry sets of the maquette's cores are cleared. -/
theorem prepare_begun :
    (let cores := (((partOf (pCtrlBegun s p) p.val).prog.map (·.segs)).getD []).map (·.core)
     let v := { pCtrlBegun s p with tsk := { (pCtrlBegun s p).tsk with
       carry := (pCtrlBegun s p).tsk.carry.filter fun l => !cores.contains ((l * 64 - 0x90000000) / 0x40000) } }
     modPart v p.val fun x => { x with mq := .preparing }) =
    (let cores := (((partOf s p).prog.map (·.segs)).getD []).map (·.core)
     let v := { pCtrlBegun s p with tsk := { (pCtrlBegun s p).tsk with
       carry := s.tsk.carry.filter fun l => !cores.contains ((l * 64 - 0x90000000) / 0x40000) } }
     setPart v p { partOf s p with err := 0, mq := .preparing }) := by
  have hbegun := partOf_pCtrlBegun s p
  have hkept (c : List Nat) : partOf { pCtrlBegun s p with tsk := { (pCtrlBegun s p).tsk with carry := c } } p = { partOf s p with err := 0 } := hbegun
  have hprog : (partOf (pCtrlBegun s p) p).prog = (partOf s p).prog := by rw [hbegun]
  dsimp only
  rw [hprog, modPart]
  exact congrArg (setPart _ p.val) (congrArg (fun x : TskPart => { x with mq := .preparing }) (hkept _))

/-- START_WARM and START_COLD (R383). -/
theorem start_holds (h : admitted s a (R.tskPCtrl p) true) {i : Instr} {o : PartOp} (ho : o ≠ .stop) (hi : exec i s = .next (startOp a p o s)) :
    let x := partOf s p
    let ok := x.pendOp = none ∧ x.series = none ∧ x.attemptAt = none ∧ (x.pstate = .stopped ∨ x.pstate = .running ∨ x.pstate = .halted)
    (¬ok → exec i s = .next (setEvt (setPart (accessed s) p { x with err := 1 }) (R.tskPEvt p) 9)) ∧
    (ok → exec i s = .next (setPart (pCtrlBegun s p) p { x with err := 0, pendOp := some (o, s.now) })) := by
  refine accepts_of_pCtrl s a p h hi ?_ fun hi _ => ?_
  · cases o with
    | stop => exact absurd rfl ho
    | warm | cold =>
      simp only [noStart, Bool.and_eq_true, Bool.or_eq_true, beq_iff_eq, Option.isNone_iff_eq_none, or_assoc, and_assoc]
      exact and_congr_right fun _ => and_comm.trans and_assoc
  · refine hi.trans (congrArg Host.Outcome.next ((if_neg fun hstop => ho hstop.1).trans ?_))
    exact congrArg (setPart (pCtrlBegun s p) p) (congrArg (fun x : TskPart => { x with pendOp := some (o, s.now) }) (partOf_pCtrlBegun s p))

/-- STOP (R393, R395): an open series ends with it, and the attempt in progress. -/
theorem stop_holds (hi : exec (.tskStop a p) s = .next (
      let x := partOf (pCtrlBegun s p) p.val
      let t := modPart (pCtrlBegun s p) p.val fun x => { x with pendOp := some (PartOp.stop, (pCtrlBegun s p).now) }
      if PartOp.stop = .stop ∧ (x.series.isSome ∨ x.attemptAt.isSome) then
        let t := modPart t p.val fun x =>
          if x.series.isSome then { x with series := none, attemptAt := none, attemptBad := none, mq := .prepared } else dropMaq x
        if x.attemptAt.isSome then attemptOver t p.val else t
      else t)) :
    let x := partOf s p
    let z := { x with err := 0, pendOp := some (PartOp.stop, s.now) }
    let ended := { z with series := none, attemptAt := none, attemptBad := none }
    let over_ := fun w : TskPart => if x.attemptAt = none then setPart (pCtrlBegun s p) p w else attemptOver (setPart (pCtrlBegun s p) p w) p
    (x.series = none → x.attemptAt = none → exec (.tskStop a p) s = .next (setPart (pCtrlBegun s p) p z)) ∧
    (x.series ≠ none → exec (.tskStop a p) s = .next (over_ { ended with mq := .prepared })) ∧
    (x.series = none → x.attemptAt ≠ none → exec (.tskStop a p) s = .next (over_ { ended with mq := .none, maq := none })) := by
  have hasked : modPart (pCtrlBegun s p) p (fun x => { x with pendOp := some (PartOp.stop, (pCtrlBegun s p).now) }) =
      setPart (pCtrlBegun s p) p { partOf s p with err := 0, pendOp := some (PartOp.stop, s.now) } :=
    congrArg (setPart (pCtrlBegun s p) p) (congrArg (fun x : TskPart => { x with pendOp := some (PartOp.stop, s.now) }) (partOf_pCtrlBegun s p))
  dsimp only at hi ⊢
  rw [hasked, partOf_pCtrlBegun, modPart_setPart] at hi
  refine ⟨fun hseries hat => ?_, fun hseries => ?_, fun hseries hat => ?_⟩ <;> refine hi.trans (congrArg Host.Outcome.next ?_)
  · exact if_neg (by simp [hseries, hat])
  · have hopen : (partOf s p).series.isSome = true := Option.isSome_iff_ne_none.mpr hseries
    refine (if_pos ⟨rfl, .inl hopen⟩).trans ?_
    rw [if_pos hopen]
    by_cases hat : (partOf s p).attemptAt = none
    · rw [if_pos hat, if_neg (by simp [hat])]
    · rw [if_neg hat, if_pos (Option.isSome_iff_ne_none.mpr hat)]
  · have hrun : (partOf s p).attemptAt.isSome = true := Option.isSome_iff_ne_none.mpr hat
    refine (if_pos ⟨rfl, .inr hrun⟩).trans ?_
    rw [if_pos hrun, if_neg hat, if_neg (by simp [hseries])]
    rfl

/-- Settles O49: each command by its condition; what the check of an image, the flip of the banks and the new task table leave of the partition's
own state. -/
theorem programCommands : Obligations.ProgramCommands := by
  intro a p s hadm x y u ends accepts idle
  have hmod (f : TskPart → TskPart) : modPart (pCtrlBegun s p) p f = setPart u p (f y) := congrArg (setPart u p) (congrArg f (partOf_pCtrlBegun s p))
  refine ⟨accepts_of_pCtrl s a p hadm rfl beq_iff_eq fun hi _ => load_holds s a p hi, accepts_of_pCtrl s a p hadm rfl ?_ fun hi _ => ?_,
    accepts_of_pCtrl s a p hadm rfl ?_ fun hi _ => ?_, accepts_of_pCtrl s a p hadm rfl ?_ fun hi _ => ⟨fun hat => ?_, fun hat => ?_⟩,
    accepts_of_pCtrl s a p hadm rfl ?_ fun hi _ => install_holds s a p hi, ?_, accepts_of_pCtrl s a p hadm rfl ?_ fun hi _ => ?_⟩
  · simp [x]
  · refine hi.trans (congrArg Host.Outcome.next ?_)
    exact prepare_begun s p
  · simp [x, idle, noStart, and_assoc]
  · exact hi.trans (congrArg Host.Outcome.next (hmod _))
  · simp [x]
  · exact hi.trans (congrArg Host.Outcome.next ((hmod _).trans (congrArg (setPart u p) (if_neg (by simp [y, hat])))))
  · exact hi.trans (congrArg Host.Outcome.next ((hmod _).trans (congrArg (setPart u p) (if_pos (Option.isSome_iff_ne_none.mpr hat)))))
  · simp [x]
  · simp only [List.mem_cons, List.not_mem_nil, or_false, forall_eq_or_imp, forall_eq]
    exact ⟨start_holds s a p hadm (by decide) rfl, start_holds s a p hadm (by decide) rfl⟩
  · simp [x, idle, noStart, or_assoc]
  · exact stop_holds s a p hi

end Sys2Proof.Machine
end

section
/-! Metering (O56; R510, R512, R516 to R519, R521, R522, R524 to R526, R531). -/

namespace Sys2Proof.Machine

variable (s : State) (p : Nat)

/-! ### Points and outputs -/

theorem mpOf_setMp (j : Nat) (x : MPoint) : mpOf (setMp s p x) j = if j = p then x else mpOf s j := mget_mset ..
@[simp] theorem mpOf_setMp_self (x : MPoint) : mpOf (setMp s p x) p = x := mget_mset_self ..
theorem pulOf_setPul (n j : Nat) (x : Pulse) : pulOf (setPul s n x) j = if j = n then x else pulOf s j := mget_mset ..

theorem mpOf_of_points {s t : State} (h : s.mtr.points = t.mtr.points) : mpOf s = mpOf t := funext fun j => by rw [mpOf, mpOf, h]

/-- What a table does not list is its default. -/
theorem mget_of_not_mem {α : Type} (d : α) (l : List (Nat × α)) {j : Nat} (h : ∀ e ∈ l, e.1 ≠ j) : mget d l j = d := by
  induction l with
  | nil => rfl
  | cons e l ih =>
    rw [mget, if_neg (h e List.mem_cons_self)]
    exact ih fun e he => h e (List.mem_cons_of_mem _ he)

/-- A change that does nothing to a default point, done to each listed point, is done to every point. -/
theorem mpOf_eachPoint (f : MPoint → MPoint) (hf : ∀ x, f (f x) = f x) (hdef : f {} = {}) (j : Nat) :
    mpOf (each s.mtr.points s fun e s => setMp s e.1 (f (mpOf s e.1))) j = f (mpOf s j) := by
  have hfold (l : List (Nat × MPoint)) (u : State) : mpOf (each l u fun e s => setMp s e.1 (f (mpOf s e.1))) j =
      if ∀ e ∈ l, e.1 ≠ j then mpOf u j else f (mpOf u j) := by
    induction l generalizing u with
    | nil => rfl
    | cons e l ih =>
      refine (ih (setMp u e.1 (f (mpOf u e.1)))).trans ?_
      rw [mpOf_setMp]
      by_cases he : e.1 = j
      · subst he
        rw [if_pos rfl, hf, ite_self, if_neg fun h => h e List.mem_cons_self rfl]
      · rw [if_neg (Ne.symm he)]
        simp only [List.forall_mem_cons, ne_eq, he, not_false_eq_true, true_and]
  rw [hfold]
  split
  next h => rw [mpOf, mget_of_not_mem _ _ h, hdef]
  next => rfl

/-- The MTR but for its points and outputs. -/
def State.mtrRest (s : State) : MtrSt := { s.mtr with points := [], pulses := [] }
theorem mtrRest_of_mtr {s t : State} (h : s.mtr = t.mtr) : s.mtrRest = t.mtrRest := by rw [State.mtrRest, h, State.mtrRest]
@[simp] theorem mtrRest_setMp (x : MPoint) : (setMp s p x).mtrRest = s.mtrRest := rfl
@[simp] theorem mtrRest_setPul (n : Nat) (x : Pulse) : (setPul s n x).mtrRest = s.mtrRest := rfl

theorem mtr_of_storeFrame {s t : State} (h : storeFrame s = storeFrame t) : s.mtr = t.mtr := (congrArg State.mtr h :)

theorem postFrame_mtrNote (cls code info : Nat) (sev : Option Nat) (l : List Word) : postFrame (mtrNote s cls code info sev l) = postFrame s := by
  unfold mtrNote
  cases sev <;> simp

/-! ### Accumulators -/

/-- `e` fractions of a unit added to accumulator `a`, whose modulus is `m` (R517). -/
def MPoint.add (x : MPoint) (m a e : Nat) : MPoint :=
  let f := mget 0 x.frac a + e
  let v := mget 0 x.acc a + f / fracUnit
  { x with frac := mset 0 x.frac a (f % fracUnit), acc := mset 0 x.acc a (v % m), wrap := mset 0 x.wrap a ((mget 0 x.wrap a + v / m) % 256) }

/-- All of a state but what an accumulator's outputs and their notices can change. -/
def pulseFrame (s : State) : State × (Nat → MPoint) × MtrSt := (storeFrame { s with mtr := {} }, mpOf s, s.mtrRest)

theorem pulseFrame_of_storeFrame {s t : State} (h : storeFrame s = storeFrame t) : pulseFrame s = pulseFrame t := (congrArg pulseFrame h :)

theorem pulseFrame_pulseAdd (n de : Nat) : pulseFrame (pulseAdd s n de) = pulseFrame s := by
  unfold pulseAdd
  dsimp only
  split
  · rfl
  · split
    · rfl
    · exact (pulseFrame_of_storeFrame (storeFrame_eq_of_postFrame (postFrame_mtrNote ..))).trans rfl

theorem pulseFrame_accAdd (a e : Nat) : pulseFrame (accAdd s p a e) = pulseFrame (setMp s p ((mpOf s p).add (mpMod s p) a e)) := by
  unfold accAdd
  dsimp only
  refine (foldl_frame (h := pulseFrame) _ _ (fun t n => ?_) _).trans rfl
  dsimp only
  split
  · exact pulseFrame_pulseAdd ..
  · rfl

theorem mpOf_accAdd (a e : Nat) : mpOf (accAdd s p a e) p = (mpOf s p).add (mpMod s p) a e :=
  (congrFun (congrArg (fun f => f.2.1) (pulseFrame_accAdd s p a e)) p).trans (mpOf_setMp_self ..)
theorem mtrRest_accAdd (a e : Nat) : (accAdd s p a e).mtrRest = s.mtrRest := (congrArg (fun f => f.2.2) (pulseFrame_accAdd s p a e)).trans rfl
theorem shadow_accAdd (a e : Nat) : (accAdd s p a e).shadow = s.shadow := (congrArg (fun f => f.1.shadow) (pulseFrame_accAdd s p a e)).trans rfl
theorem mpMod_of_shadow {s t : State} (h : s.shadow = t.shadow) : mpMod s p = mpMod t p := by rw [mpMod, mpMod, mpCfg, mpCfg, shadowOf, shadowOf, h]

/-- A window's energies: the active one in its direction's accumulator, the reactive one in its quadrant's (R516). -/
def MPoint.addEnergy (x : MPoint) (m k : Nat) (pw q : Int) : MPoint :=
  (x.add m (if 0 ≤ pw then 0 else 1) (pw.natAbs * k)).add m (quadrant pw q) (q.natAbs * k)

theorem mpOf_energyAdd (pw q : Int) : mpOf (energyAdd s p pw q) p = (mpOf s p).addEnergy (mpMod s p) (288000 / mpRate s p) pw q := by
  unfold energyAdd
  dsimp only
  rw [mpOf_accAdd, mpOf_accAdd, mpMod_of_shadow p (shadow_accAdd ..)]
  rfl
theorem mtrRest_energyAdd (pw q : Int) : (energyAdd s p pw q).mtrRest = s.mtrRest := (mtrRest_accAdd ..).trans (mtrRest_accAdd ..)

/-! ### The end of a window -/

theorem storeFrame_resStore (a : Nat) (b : List Byte) : storeFrame (resStore s a b) = storeFrame s := by
  unfold resStore
  extract_lets r t
  have ht : storeFrame t = storeFrame s := storeFrame_dmaAccess_write ..
  split
  · exact ht
  · simp only [wr32, storeFrame_wrBytes, ht]
theorem mtr_resWrite (ws : List Word) : (resWrite s p ws).mtr = s.mtr := by
  unfold resWrite
  split
  · rfl
  · exact mtr_of_storeFrame (storeFrame_resStore ..)

/-- The window's energy, where it counts (R516). -/
def windowCounted (w : MWin) : State :=
  let es := elemsOf s p w
  if laneMaster s && !(w.test && !bit (mpCfg s p) 16) && !(bit (mpCfg s p) 15 && flagState s (fld (mpCfg s p) 11 0)) then
    energyAdd s p ((es.map (·.p)).foldl (· + ·) 0) ((es.map (·.q)).foldl (· + ·) 0)
  else s

/-- The end of a window is its energy, its point's figures and its record (R512 to R517). -/
theorem windowEnd_eq {w : MWin} (h : w.vals ≠ []) (short : Bool) :
    let u := windowCounted s p w
    ∃ d f k ws, windowEnd s p w short =
      resWrite (bump (bump (setMp u p { mpOf u p with demand := d, count := (mpOf u p).count + 1, flags := f }) (R.mpCnt p) 31 16 1) (R.mpCnt p) 15 0 k)
        p ws := by
  have hne : ¬w.vals.isEmpty = true := by simpa using h
  exact ⟨_, _, _, _, if_neg hne⟩

theorem mtr_windowEnd {w : MWin} (h : w.vals ≠ []) (short : Bool) :
    let u := windowCounted s p w
    ∃ d f, (windowEnd s p w short).mtr = (setMp u p { mpOf u p with demand := d, count := (mpOf u p).count + 1, flags := f }).mtr := by
  obtain ⟨d, f, k, ws, hend⟩ := windowEnd_eq s p h short
  exact ⟨d, f, by rw [hend, mtr_resWrite, bump_mtr, bump_mtr]⟩

theorem mtrRest_windowEnd (w : MWin) (short : Bool) : (windowEnd s p w short).mtrRest = s.mtrRest := by
  by_cases h : w.vals = []
  · rw [windowEnd, if_pos (by simpa using h)]
  · obtain ⟨d, f, hmtr⟩ := mtr_windowEnd s p h short
    refine (mtrRest_of_mtr hmtr).trans ((mtrRest_setMp ..).trans ?_)
    unfold windowCounted
    split
    · exact mtrRest_energyAdd ..
    · rfl

theorem mtrRest_eachPoint {f : State → Nat → State} (hf : ∀ t k, (f t k).mtrRest = t.mtrRest) (l : List (Nat × MPoint)) :
    (each l s fun e s => f s e.1).mtrRest = s.mtrRest :=
  foldl_frame (h := State.mtrRest) (fun t (e : Nat × MPoint) => f t e.1) l (fun t e => hf t e.1) s

theorem mtrRest_windowsDone : (windowsDone s p).mtrRest = s.mtrRest := by
  unfold windowsDone
  exact (foldl_frame (h := State.mtrRest) _ _ (fun t w => mtrRest_windowEnd t p w false) _).trans (mtrRest_setMp ..)

theorem mtrRest_allDone : (allDone s).mtrRest = s.mtrRest := mtrRest_eachPoint s mtrRest_windowsDone _

theorem mtrRest_shortWindow : (shortWindow s p).mtrRest = s.mtrRest := by
  unfold shortWindow
  dsimp only
  split
  · exact (mtrRest_windowEnd ..).trans ((mtrRest_setMp ..).trans (mtrRest_windowsDone ..))
  · exact mtrRest_windowsDone ..

theorem mtrRest_shortAll : (shortAll s).mtrRest = s.mtrRest := mtrRest_eachPoint s mtrRest_shortWindow _

/-- METER_WINDOW_END of the oldest ended window. -/
theorem windowEnd_holds {w : MWin} {rest : List MWin} (h : w.vals ≠ []) :
    let x := mpOf s p
    let es := elemsOf s p w
    let pw := (es.map (·.p)).foldl (· + ·) 0
    let q := (es.map (·.q)).foldl (· + ·) 0
    let counts := laneMaster s = true ∧ (w.test = false ∨ bit (mpCfg s p) 16 = true) ∧
      (bit (mpCfg s p) 15 = false ∨ flagState s (fld (mpCfg s p) 11 0) = false)
    let t := windowEnd (setMp s p { x with full := rest }) p w false
    (mpOf t p).full = rest ∧ (mpOf t p).count = x.count + 1 ∧ (¬counts → (mpOf t p).acc = x.acc ∧ (mpOf t p).frac = x.frac) ∧
      (counts → (mpOf t p).acc = (mpOf (energyAdd s p pw q) p).acc ∧ (mpOf t p).wrap = (mpOf (energyAdd s p pw q) p).wrap) := by
  intro x es pw q counts t
  let v := setMp s p { x with full := rest }
  obtain ⟨d, f, hmtr⟩ := mtr_windowEnd v p h false
  have hpoint : mpOf t p = { mpOf (windowCounted v p w) p with demand := d, count := (mpOf (windowCounted v p w) p).count + 1, flags := f } :=
    (congrFun (mpOf_of_points (congrArg MtrSt.points hmtr)) p).trans (mpOf_setMp_self ..)
  have hv : mpOf v p = { x with full := rest } := mpOf_setMp_self ..
  have hcounts : (laneMaster v && !(w.test && !bit (mpCfg v p) 16) && !(bit (mpCfg v p) 15 && flagState v (fld (mpCfg v p) 11 0))) = true ↔ counts := by
    simp only [Bool.and_eq_true, Bool.not_and, Bool.not_not, Bool.or_eq_true, Bool.not_eq_true', and_assoc]
    exact Iff.rfl
  rw [hpoint]
  by_cases hc : counts
  · have hcounted : mpOf (windowCounted v p w) p = (mpOf v p).addEnergy (mpMod s p) (288000 / mpRate s p) pw q := by
      rw [windowCounted, if_pos (hcounts.mpr hc)]
      exact mpOf_energyAdd v p pw q
    rw [hcounted, hv, mpOf_energyAdd]
    exact ⟨rfl, rfl, fun hn => absurd hc hn, fun _ => ⟨rfl, rfl⟩⟩
  · have hcounted : mpOf (windowCounted v p w) p = mpOf v p := by rw [windowCounted, if_neg (mt hcounts.mp hc)]
    rw [hcounted, hv]
    exact ⟨rfl, rfl, fun _ => ⟨rfl, rfl⟩, fun h => absurd h hc⟩

/-! ### Checkpoints and the commands of MTR_CMD -/

/-- The set a write goes to, and its number (R522). -/
def nextSet (m : MtrSt) : Bool × Word :=
  ((match m.newest with | some (b, _, _) => !b | none => false), match m.newest with | some (_, _, q) => q + 1 | none => 1#32)

theorem mtr_ckptStart (c : Ckpt) :
    (ckptStart s c).mtr = { s.mtr with busy := some ((nextSet s.mtr).1, c.kind, (nextSet s.mtr).2, c.cmd) } := rfl

/-- The demand of every point is 0 once a set is captured (R527). -/
def undemanded : State := each s.mtr.points s fun e s => setMp s e.1 { mpOf s e.1 with demand := 0#32 }
theorem demand_undemanded (j : Nat) : (mpOf (undemanded s) j).demand = 0#32 :=
  congrArg MPoint.demand (mpOf_eachPoint s (fun x => { x with demand := 0#32 }) (fun _ => rfl) rfl j)
theorem mtrRest_undemanded : (undemanded s).mtrRest = s.mtrRest :=
  mtrRest_eachPoint s (f := fun t k => setMp t k { mpOf t k with demand := 0#32 }) (fun _ _ => rfl) _

theorem ckptPut_of_idle (h : s.mtr.busy = none) (kind : Nat) (cmd : Bool) :
    ckptPut s kind cmd = ckptStart (undemanded s) { kind := kind, body := ckptBody s, cmd := cmd } := by
  have hbusy : (undemanded s).mtr.busy = none := (congrArg MtrSt.busy (mtrRest_undemanded s) :).trans h
  exact if_neg (by rw [← undemanded, hbusy]; exact Bool.false_ne_true)

theorem rdBytes_ckptStart (c : Ckpt) :
    rdBytes (ckptStart s c) (setBase (nextSet s.mtr).1) 8 = leBytes 4 0x4C444D45 ++ leBytes 4 (word c.kind).toNat := by
  have hlen : (wordsBytes [0x4C444D45#32, word c.kind]).length = 8 := by simp [wordsBytes, length_leBytes]
  have hval : wordsBytes [0x4C444D45#32, word c.kind] = leBytes 4 0x4C444D45 ++ leBytes 4 (word c.kind).toNat := by simp [wordsBytes]
  have hmem : (ckptStart s c).mem = (pokeBytes (pokeBytes s (setBase (nextSet s.mtr).1) (wordsBytes [0x4C444D45#32, word c.kind]))
    (setBase (nextSet s.mtr).1 + 0x10) (wordsBytes c.body)).mem := rfl
  rw [← hval]
  generalize wordsBytes [0x4C444D45#32, word c.kind] = bs at hlen hmem ⊢
  refine List.ext_getElem (by simp [rdBytes, hlen]) fun i hi _ => ?_
  have hi8 : i < 8 := by simpa [rdBytes] using hi
  simp only [rdBytes, List.getElem_map, List.getElem_range]
  rw [rdByte, hmem, ← rdByte, rdByte_pokeBytes, if_neg (by omega), rdByte_pokeBytes, if_pos (by omega), Nat.add_sub_cancel_left,
    List.getElem?_eq_getElem (by omega), Option.getD_some]

theorem mpOf_ckptStart (c : Ckpt) : mpOf (ckptStart s c) = mpOf s := mpOf_of_points (congrArg MtrSt.points (mtr_ckptStart s c) :)

/-- A set captured while none is being written begins its write (R521, R522, R527). -/
theorem ckptPut_begins (h : s.mtr.busy = none) (kind : Nat) (hkind : (word kind).toNat = kind) :
    let t := ckptPut s kind true
    let b := match s.mtr.newest with | some (b, _, _) => !b | none => false
    let q := match s.mtr.newest with | some (_, _, q) => q + 1 | none => 1#32
    t.mtr.busy = some (b, kind, q, true) ∧ t.mtr.done = s.mtr.done ∧ t.mtr.err = s.mtr.err ∧
      rdBytes t (setBase b) 8 = leBytes 4 0x4C444D45 ++ leBytes 4 kind ∧ ∀ j, (mpOf t j).demand = 0#32 := by
  intro t b q
  have hrest := mtrRest_undemanded s
  have hset : nextSet (undemanded s).mtr = (b, q) := by
    have hnewest : (undemanded s).mtr.newest = s.mtr.newest := (congrArg MtrSt.newest hrest :)
    rw [nextSet, hnewest]
  have ht : t = _ := ckptPut_of_idle s h kind true
  have hhead := rdBytes_ckptStart (undemanded s) { kind := kind, body := ckptBody s, cmd := true }
  rw [hset, hkind, ← ht] at hhead
  have hmtr := mtr_ckptStart (undemanded s) { kind := kind, body := ckptBody s, cmd := true }
  rw [hset, ← ht] at hmtr
  refine ⟨by rw [hmtr], ?_, ?_, hhead, fun j => ?_⟩
  · rw [hmtr]
    exact (congrArg MtrSt.done hrest :)
  · rw [hmtr]
    exact (congrArg MtrSt.err hrest :)
  · rw [ht, mpOf_ckptStart]
    exact demand_undemanded s j

theorem mtrCmd_of_idle {a : Acc} (h : admitted s a R.mtrCmd true) (hidle : mtrCmdRuns s = false) (f : State → State) :
    mtrCmd a f s = f { accessed s with mtr := { s.mtr with done := false, err := 0 } } :=
  (regAccess_of_admitted h _).trans (if_neg (by rw [show mtrCmdRuns (accessed s) = false from hidle]; exact Bool.false_ne_true))

theorem mtrCmd_of_runs {a : Acc} (h : admitted s a R.mtrCmd true) (hruns : mtrCmdRuns s = true) (f : State → State) :
    mtrCmd a f s = setEvt { accessed s with mtr := { s.mtr with err := 1 } } R.mtrEvt 1 :=
  (regAccess_of_admitted h _).trans (if_pos hruns)

/-- CKPT_NOW and STOP capture a set once the windows at hand are computed. -/
theorem ckptPut_begins_of_rest {t : State} {m : MtrSt} (hrest : t.mtrRest = { m with points := [], pulses := [] }) (h : m.busy = none) (kind : Nat)
    (hkind : (word kind).toNat = kind) :
    let v := ckptPut t kind true
    let b := match m.newest with | some (b, _, _) => !b | none => false
    let q := match m.newest with | some (_, _, q) => q + 1 | none => 1#32
    v.mtr.busy = some (b, kind, q, true) ∧ v.mtr.done = m.done ∧ v.mtr.err = m.err ∧
      rdBytes v (setBase b) 8 = leBytes 4 0x4C444D45 ++ leBytes 4 kind ∧ ∀ j, (mpOf v j).demand = 0#32 := by
  have hnewest : t.mtr.newest = m.newest := (congrArg MtrSt.newest hrest :)
  have hdone : t.mtr.done = m.done := (congrArg MtrSt.done hrest :)
  have herr : t.mtr.err = m.err := (congrArg MtrSt.err hrest :)
  have hput := ckptPut_begins t ((congrArg MtrSt.busy hrest :).trans h) kind hkind
  rwa [hnewest, hdone, herr] at hput

/-- The set whose write is at its end, with its number last (R522). -/
def setEnded (b : Bool) (k : Nat) (q : Word) (cmd : Bool) : State :=
  { pokeBytes s (setBase b + 8) (leBytes 4 q.toNat ++ leBytes 4 (~~~q).toNat) with
    mtr := { s.mtr with newest := some (b, k, q), busy := none, done := s.mtr.done || cmd } }

theorem ckptDone_of_busy {b : Bool} {k : Nat} {q : Word} {cmd : Bool} (h : s.mtr.busy = some (b, k, q, cmd)) :
    ckptDone s =
      match s.mtr.wait with
      | c :: t => ckptStart { setEnded s b k q cmd with mtr := { (setEnded s b k q cmd).mtr with wait := t } } c
      | [] => setEnded s b k q cmd := by
  have hbytes : wordsBytes (gWords q) = leBytes 4 q.toNat ++ leBytes 4 (~~~q).toNat := by simp [wordsBytes, gWords]
  unfold ckptDone
  rw [h]
  dsimp only
  rw [hbytes]
  rfl

theorem ckptDone_of_last {b : Bool} {k : Nat} {q : Word} {cmd : Bool} (h : s.mtr.busy = some (b, k, q, cmd)) (hwait : s.mtr.wait = []) :
    ckptDone s = setEnded s b k q cmd := by
  rw [ckptDone_of_busy s h, hwait]

theorem nextSet_some {m : MtrSt} {b : Bool} {k : Nat} {q : Word} (h : m.newest = some (b, k, q)) : nextSet m = (!b, q + 1) := by rw [nextSet, h]

/-- The set that waits is begun as the one before it ends. -/
theorem checkpointWriteDone_of_wait {b : Bool} {k : Nat} {q : Word} {cmd : Bool} (h : s.mtr.busy = some (b, k, q, cmd)) {c : Ckpt} {rest : List Ckpt}
    (hwait : s.mtr.wait = c :: rest) :
    let t := ckptDone s
    t.mtr.newest = some (b, k, q) ∧ t.mtr.busy = some (!b, c.kind, q + 1, c.cmd) ∧ t.mtr.wait = rest := by
  intro t
  have ht : t = _ := ckptDone_of_busy s h
  rw [hwait] at ht
  dsimp only at ht
  rw [ht, mtr_ckptStart, nextSet_some (b := b) (k := k) (q := q) rfl]
  exact ⟨rfl, rfl, rfl⟩

/-! ### Pulses -/

/-- Output `n` where it may drive, else without anything held (R526). -/
def pulseHeld (n : Nat) : Pulse := if pulOn s n && laneMaster s then pulOf s n else { pulOf s n with residue := 0, backlog := 0, onTill := 0 }

/-- One output of `pulseHold`. -/
def holdOne (n : Nat) : State :=
  if pulOn s n && laneMaster s then s else setPul s n { pulOf s n with residue := 0, backlog := 0, onTill := 0 }

theorem pulOf_holdOne (k n : Nat) : pulOf (holdOne s k) n = if n = k then pulseHeld s n else pulOf s n := by
  unfold holdOne pulseHeld
  by_cases hn : n = k
  · subst hn
    rw [if_pos rfl]
    split
    · rfl
    · rw [pulOf_setPul, if_pos rfl]
  · rw [if_neg hn]
    split
    · rfl
    · rw [pulOf_setPul, if_neg hn]

theorem mtrFrame_holdOne (k : Nat) : mtrFrame (holdOne s k) = mtrFrame s := by
  unfold holdOne
  split <;> rfl

theorem pulseHeld_of_frame {s t : State} (h : mtrFrame s = mtrFrame t) {n : Nat} (hn : pulOf s n = pulOf t n) : pulseHeld s n = pulseHeld t n := by
  have hon : pulOn s n = pulOn t n := (congrArg (fun u => pulOn u n) h :)
  have hmaster : laneMaster s = laneMaster t := (congrArg laneMaster h :)
  rw [pulseHeld, pulseHeld, hon, hmaster, hn]

/-- An output after the hold of the outputs that may not drive (R526). -/
theorem pulOf_pulseHold {n : Nat} (hn : n < 4) : pulOf (pulseHold s) n = pulseHeld s n := by
  have hupto (k : Nat) : mtrFrame (upto k s fun n s => holdOne s n) = mtrFrame s ∧
      pulOf (upto k s fun n s => holdOne s n) n = if n < k then pulseHeld s n else pulOf s n := by
    induction k with
    | zero => exact ⟨rfl, rfl⟩
    | succ k ih =>
      obtain ⟨hframe, hpul⟩ := ih
      rw [upto_succ]
      refine ⟨(mtrFrame_holdOne ..).trans hframe, ?_⟩
      rw [pulOf_holdOne]
      rcases Nat.lt_trichotomy n k with hlt | heq | hgt
      · rw [if_neg (by omega), hpul, if_pos hlt, if_pos (by omega)]
      · subst heq
        rw [if_neg (Nat.lt_irrefl _)] at hpul
        rw [if_pos rfl, if_pos (Nat.lt_succ_self _), pulseHeld_of_frame hframe hpul]
      · rw [if_neg (by omega), hpul, if_neg (by omega), if_neg (by omega)]
  exact (hupto 4).2.trans (if_pos hn)

theorem now_pulseHold : (pulseHold s).now = s.now := (congrArg State.now (mtrFrame_pulseHold s) :)

/-- A pulse period of an output in force (R525, R526). -/
theorem pulsePeriod_holds (n : Fin 4) (hon : pulOn s n = true) :
    let y := pulOf s n
    let r := reach s y.next
    let w := forceOf s (R.pulTime n)
    let z := { y with next := y.next + (fld w 25 16 + fld w 9 0) * 1000000 }
    Answers (exec (.pulsePeriod n) s) fun t => t.now = r.now ∧
      (laneMaster r = true → y.backlog = 0 → pulOf t n = z) ∧
      (laneMaster r = true → y.backlog ≠ 0 → pulOf t n = { z with backlog := y.backlog - 1, onTill := r.now + fld w 25 16 * 1000000 }) ∧
      (laneMaster r = false → pulOf t n = { z with residue := 0, backlog := 0, onTill := 0 }) := by
  intro y r w z
  let h := pulseHold (setPul r n z)
  have hexec : exec (.pulsePeriod n) s = .next (
      if (pulOf h n).backlog = 0 then h
      else setPul h n { pulOf h n with backlog := (pulOf h n).backlog - 1, onTill := h.now + fld w 25 16 * 1000000 }) :=
    congrArg Host.Outcome.next (if_neg (by simp [hon]))
  have hnow : h.now = r.now := (now_pulseHold ..).trans rfl
  have hheld : pulOf h n = if laneMaster r = true then z else { z with residue := 0, backlog := 0, onTill := 0 } := by
    have hpul : pulOf (setPul r n z) n = z := by rw [pulOf_setPul, if_pos rfl]
    have hon' : pulOn (setPul r n z) n = true := hon
    rw [pulOf_pulseHold _ n.isLt, pulseHeld, hpul, hon', Bool.true_and]
    rfl
  refine ⟨_, hexec, ?_, fun hm hb => ?_, fun hm hb => ?_, fun hm => ?_⟩
  · split
    · exact hnow
    · exact hnow
  · rw [if_pos hm] at hheld
    rw [hheld, if_pos hb, hheld]
  · rw [if_pos hm] at hheld
    rw [hheld, if_neg hb, pulOf_setPul, if_pos rfl, hnow]
  · rw [if_neg (by simp [hm])] at hheld
    rw [hheld, if_pos rfl, hheld]

/-! ### The obligation -/

/-- A read of an accumulator's low word latches the high word and the count (R518). -/
theorem accRead_holds (acc : Nat) :
    let x := mpOf s p
    let t := accRead s p acc
    t.bus = word (mget 0 x.acc acc) ∧ mget 0#32 (mpOf t p).latch (2 * acc) = word (mget 0 x.acc acc / 2 ^ 32) ∧
      mget 0#32 (mpOf t p).latch (2 * acc + 1) = word (mget 0 x.wrap acc) ∧ (mpOf t p).acc = x.acc := by
  intro x t
  have hpoint : mpOf t p = _ := mpOf_setMp_self ..
  rw [hpoint]
  refine ⟨rfl, ?_, mget_mset_self .., rfl⟩
  rw [mget_mset_ne _ _ _ _ _ (by omega), mget_mset_self]

/-- An energy added to an accumulator (R517). -/
theorem accAdd_holds (acc : Fin 6) (e : Nat) :
    let x := mpOf s p
    let t := accAdd s p acc e
    let v := mget 0 x.acc acc + (mget 0 x.frac acc + e) / fracUnit
    mget 0 (mpOf t p).frac acc = (mget 0 x.frac acc + e) % fracUnit ∧ mget 0 (mpOf t p).acc acc = v % mpMod s p ∧
      mget 0 (mpOf t p).wrap acc = (mget 0 x.wrap acc + v / mpMod s p) % 256 ∧
      ∀ j : Fin 6, j ≠ acc → mget 0 (mpOf t p).acc j = mget 0 x.acc j := by
  intro x t v
  rw [show mpOf t p = x.add (mpMod s p) acc e from mpOf_accAdd ..]
  exact ⟨mget_mset_self .., mget_mset_self .., mget_mset_self .., fun j hj => mget_mset_ne _ _ _ _ _ (Fin.val_ne_of_ne hj)⟩

/-- RESUME clears the windows of every point and keeps the accumulators (R524). -/
theorem mtrResume_holds :
    let t := mtrResume s
    t.mtr.stopped = false ∧ t.mtr.done = true ∧ t.mtr.err = s.mtr.err ∧
      ∀ j, (mpOf t j).win = none ∧ (mpOf t j).full = [] ∧ (mpOf t j).acc = (mpOf s j).acc := by
  intro t
  let v := each s.mtr.points s fun e s => setMp s e.1 { mpOf s e.1 with win := none, full := [] }
  have hrest : v.mtrRest = s.mtrRest := mtrRest_eachPoint s (f := fun t k => setMp t k { mpOf t k with win := none, full := [] }) (fun _ _ => rfl) _
  refine ⟨rfl, rfl, (congrArg MtrSt.err hrest :), fun j => ?_⟩
  have hpoint : mpOf t j = { mpOf s j with win := none, full := [] } :=
    mpOf_eachPoint s (fun x => { x with win := none, full := [] }) (fun _ => rfl) rfl j
  rw [hpoint]
  exact ⟨rfl, rfl, rfl⟩

/-- An enable of a metering point (R510). -/
theorem meterPointEnable_holds {a : Acc} (p : Fin 256) (h : admitted s a (R.mpCtrl p) true) :
    let u := accessed s
    let x := mpOf s p
    (x.on = true → exec (.meterPointEnable a p) s = .next u) ∧
    (x.on = false → mpBad s p = true → exec (.meterPointEnable a p) s = .next (mtrNote (setEvt u R.mtrEvt 0) 1 0x13 p none [])) ∧
    (x.on = false → mpBad s p = false → exec (.meterPointEnable a p) s =
      .next (setShadow (setMp u p { x with on := true, win := none, full := [] }) (R.mpCtrl p) 1#32)) := by
  intro u x
  have hexec : exec (.meterPointEnable a p) s = .next (mpEnable u p) := congrArg Host.Outcome.next (regAccess_of_admitted h _)
  have hon : (mpOf u p).on = x.on := rfl
  have hbad : mpBad u p = mpBad s p := rfl
  rw [hexec]
  unfold mpEnable
  rw [hon, hbad]
  refine ⟨fun hx => ?_, fun hx hb => ?_, fun hx hb => ?_⟩
  · rw [if_pos hx]
  · rw [if_neg (by simp [hx]), if_pos hb]
  · rw [if_neg (by simp [hx]), if_neg (by simp [hb])]
    rfl

/-- PRESET of an accumulator (R519). -/
theorem mtrPreset_holds {a : Acc} (acc8 : Fin 8) (p : Fin 256) (h : admitted s a R.mtrCmd true) (hidle : mtrCmdRuns s = false) :
    let x := mpOf s p
    let v := (shadowOf s R.mtrPresetHi).toNat * 2 ^ 32 + (shadowOf s R.mtrPresetLo).toNat
    let ended := fun (e : Nat) => exec (.mtrPreset a acc8 p) s = .next (setEvt { accessed s with mtr := { s.mtr with done := true, err := e } } R.mtrEvt 1)
    (x.on = true → ended 2) ∧ (x.on = false → 5 < acc8.val ∨ mpMod s p ≤ v → ended 3) ∧
      (x.on = false → acc8.val ≤ 5 → v < mpMod s p → Answers (exec (.mtrPreset a acc8 p) s) fun t => t.mtr.done = true ∧ t.mtr.err = 0 ∧
        mpOf t p = { x with acc := mset 0 x.acc acc8 v, wrap := mset 0 x.wrap acc8 0 }) := by
  intro x v ended
  let u : State := { accessed s with mtr := { s.mtr with done := false, err := 0 } }
  have hexec : exec (.mtrPreset a acc8 p) s = .next (if x.on then mtrErr u 2 else if 5 < acc8.val ∨ mpMod s p ≤ v then mtrErr u 3
      else mtrEnd (setMp u p { x with acc := mset 0 x.acc acc8 v, wrap := mset 0 x.wrap acc8 0 })) :=
    congrArg Host.Outcome.next (mtrCmd_of_idle s h hidle _)
  refine ⟨fun hx => hexec.trans (congrArg Host.Outcome.next (if_pos hx)), fun hx hbad => ?_, fun hx hacc hv => ?_⟩
  · exact hexec.trans (congrArg Host.Outcome.next ((if_neg (by simp [hx])).trans (if_pos hbad)))
  · rw [if_neg (by simp [hx]), if_neg (by omega)] at hexec
    exact ⟨_, hexec, rfl, rfl, mpOf_setMp_self u p _⟩

/-- Settles O56: a point's energies by the accumulators alone, each command by its case, an output's pulses by its period. -/
theorem metering : Obligations.Metering := by
  intro a p acc8 acc n s u m x
  refine ⟨meterPointEnable_holds s p, fun h => ?_, fun w rest h hw => ?_, accAdd_holds s p acc, fun h => ?_, fun h => ?_, fun b k q cmd h => ?_,
    fun h => ⟨_, congrArg Host.Outcome.next (regAccess_of_admitted h _), accRead_holds u p acc⟩, fun h => ?_, pulsePeriod_holds s n⟩
  case refine_1 =>
    refine congrArg Host.Outcome.next ?_
    rw [show (mpOf s p).full = [] from h]
  case refine_2 =>
    have hexec : exec (.meterWindowEnd p) s = .next (windowEnd (setMp s p { x with full := rest }) p w false) := by
      refine congrArg Host.Outcome.next ?_
      rw [show (mpOf s p).full = w :: rest from h]
    exact ⟨_, hexec, windowEnd_holds s p hw⟩
  case refine_3 =>
    intro ended b q begins
    let v : State := { u with mtr := { m with done := false, err := 0 } }
    have hrun {i : Instr} {f : State → State} (hi : exec i s = .next (mtrCmd a f s)) (hidle : mtrCmdRuns s = false) : exec i s = .next (f v) :=
      hi.trans (congrArg Host.Outcome.next (mtrCmd_of_idle s h hidle f))
    have hbegins {t : State} (hrest : t.mtrRest = v.mtrRest) (hbusy : m.busy = none) (kind : Nat) (hkind : (word kind).toNat = kind) :
        begins kind (ckptPut t kind true) :=
      ckptPut_begins_of_rest (m := { m with done := false, err := 0 }) hrest hbusy kind hkind
    refine ⟨fun hruns => ?_, fun hidle => ⟨mtrPreset_holds s acc8 p h hidle, fun hbusy => ?_, fun hbusy => ?_, ?_⟩⟩
    · have hbusy {i : Instr} {f : State → State} (hi : exec i s = .next (mtrCmd a f s)) :
          exec i s = .next (setEvt { u with mtr := { m with err := 1 } } R.mtrEvt 1) :=
        hi.trans (congrArg Host.Outcome.next (mtrCmd_of_runs s h hruns f))
      simp only [List.mem_cons, List.not_mem_nil, or_false, forall_eq_or_imp, forall_eq]
      exact ⟨hbusy rfl, hbusy rfl, hbusy rfl, hbusy rfl⟩
    · exact ⟨_, hrun (f := mtrCkptNow) rfl hidle, hbegins (mtrRest_allDone v) hbusy 1 rfl⟩
    · exact ⟨_, hrun (f := mtrStop) rfl hidle, hbegins (mtrRest_shortAll v) hbusy 3 rfl, rfl⟩
    · exact ⟨_, hrun (f := mtrResume) rfl hidle, mtrResume_holds v⟩
  case refine_4 =>
    refine congrArg Host.Outcome.next ?_
    rw [ckptDone, show s.mtr.busy = none from h]
  case refine_5 =>
    exact ⟨fun hwait => congrArg Host.Outcome.next (ckptDone_of_last s h hwait), fun c rest hwait => ⟨_, rfl, checkpointWriteDone_of_wait s h hwait⟩⟩
  case refine_6 => exact congrArg Host.Outcome.next (if_pos (by simp [h]))

end Sys2Proof.Machine
end

section
/-! SUPPORT. What a change of mastership, the activations given up and a publication taken over leave of a state (R421, R533, R557). -/

namespace Sys2Proof.Machine

variable (s : State)

/-! ### Mastership -/

/-- All of a state but its posts, lanes and metering. -/
def masterFrame (s : State) : State := laneFrame { s with mtr := {} }

theorem masterFrame_mastership : masterFrame (mastership s) = masterFrame s :=
  (congrArg laneFrame (mtrFrame_pulseHold (lanesUpdate s)) :).trans (congrArg (fun u : State => { u with mtr := {} }) (laneFrame_lanesUpdate s) :)

@[simp] theorem now_mastership : (mastership s).now = s.now := (congrArg State.now (masterFrame_mastership s) :)
@[simp] theorem mir_mastership : (mastership s).mir = s.mir := (congrArg State.mir (masterFrame_mastership s) :)
@[simp] theorem time_mastership : (mastership s).time = s.time := (congrArg State.time (masterFrame_mastership s) :)
@[simp] theorem sys_mastership : (mastership s).sys = s.sys := (congrArg State.sys (masterFrame_mastership s) :)
@[simp] theorem shadow_mastership : (mastership s).shadow = s.shadow := (congrArg State.shadow (masterFrame_mastership s) :)
@[simp] theorem tsk_mastership : (mastership s).tsk = s.tsk := (congrArg State.tsk (masterFrame_mastership s) :)

theorem laneMaster_of_role (hlc : s.trust.lc = .operational) (hrole : s.mir.role ≠ .holder) : laneMaster s = false := by
  simp [laneMaster, hlc, hrole]

/-! ### Activations given up -/

/-- All of a state but its task table and activation queues. -/
def tskFrame (s : State) : State := { s with tsk := { s.tsk with tasks := [], qptr := [] } }

/-- One activation given up. -/
def dropOne (s : State) (e : Nat × TaskSt) : State := unpend (match e.2.def_ with | some d => actOut s d.core | none => s) e.1

theorem dropPending_eq : dropPending s = (s.tsk.tasks.filter fun e => e.2.pend.isSome).foldl dropOne s := rfl

theorem tskFrame_dropOne (e : Nat × TaskSt) : tskFrame (dropOne s e) = tskFrame s := by
  unfold dropOne
  split <;> rfl

theorem tskFrame_dropPending : tskFrame (dropPending s) = tskFrame s := foldl_frame _ _ tskFrame_dropOne s

theorem pend_dropOne (e : Nat × TaskSt) (k : Nat) : (taskOf (dropOne s e) k).pend = if k = e.1 then none else (taskOf s k).pend := by
  unfold dropOne unpend
  rw [taskOf_setTask]
  split
  · rfl
  · split <;> rfl

theorem pend_dropPending (k : Nat) : (taskOf (dropPending s) k).pend = none := by
  have hfold (l : List (Nat × TaskSt)) (u : State) : (taskOf (l.foldl dropOne u) k).pend = if ∀ e ∈ l, e.1 ≠ k then (taskOf u k).pend else none := by
    induction l generalizing u with
    | nil => rfl
    | cons e l ih =>
      rw [List.foldl_cons, ih, pend_dropOne]
      by_cases he : k = e.1
      · rw [if_pos he, ite_self, if_neg fun h => h e List.mem_cons_self he.symm]
      · rw [if_neg he]
        simp only [List.forall_mem_cons, ne_eq, Ne.symm he, not_false_eq_true, true_and]
  have hmem : (taskOf s k).pend ≠ none → ∃ e ∈ s.tsk.tasks, e.2.pend.isSome = true ∧ e.1 = k := by
    unfold taskOf
    generalize s.tsk.tasks = l
    intro h
    induction l with
    | nil => exact absurd rfl h
    | cons e l ih =>
      rw [mget] at h
      split at h
      next hk => exact ⟨e, List.mem_cons_self, Option.isSome_iff_ne_none.mpr h, hk⟩
      next =>
        obtain ⟨e', he', h'⟩ := ih h
        exact ⟨e', List.mem_cons_of_mem _ he', h'⟩
  rw [dropPending_eq, hfold]
  split
  next hnone =>
    refine Classical.byContradiction fun h => ?_
    obtain ⟨e, he, hpend, hk⟩ := hmem h
    exact hnone e (List.mem_filter.mpr ⟨he, hpend⟩) hk
  next => rfl

/-! ### Publications taken over -/

/-- All of a state but its publications, posts, memory errors and counters. -/
def State.gseRest (s : State) : State := storeFrame { s with gse := {} }
theorem gseRest_of_storeFrame {s t : State} (h : storeFrame s = storeFrame t) : s.gseRest = t.gseRest := (congrArg State.gseRest h :)
theorem gseRest_of_postFrame {s t : State} (h : postFrame s = postFrame t) : s.gseRest = t.gseRest := gseRest_of_storeFrame (storeFrame_eq_of_postFrame h)
@[simp] theorem gseRest_setLive (a : Nat) (w : Word) : (setLive s a w).gseRest = s.gseRest := rfl
@[simp] theorem gseRest_setEvt (a i : Nat) : (setEvt s a i).gseRest = s.gseRest := rfl
@[simp] theorem gseRest_bump (a hi lo n : Nat) : (bump s a hi lo n).gseRest = s.gseRest := rfl
@[simp] theorem gseRest_ptrSum (i : Nat) : (ptrSum s i).gseRest = s.gseRest := rfl
@[simp] theorem gseRest_gse (x : GseSt) : State.gseRest { s with gse := x } = s.gseRest := rfl
@[simp] theorem gseRest_setPub (p : Nat) (g : GPub) : (setPub s p g).gseRest = s.gseRest := rfl
@[simp] theorem gseRest_almPost (sev src code : Nat) (pid : Option Nat) (info : List Word) : (almPost s sev src code pid info).gseRest = s.gseRest :=
  gseRest_of_postFrame (by simp)
@[simp] theorem gseRest_postOwner (o : Option Nat) (cls src code info : Nat) : (postOwner s o cls src code info).gseRest = s.gseRest :=
  gseRest_of_postFrame (by simp)
@[simp] theorem gseRest_dmaAccess (i : Nat) (t : Tag) (a n : Nat) : (dmaAccess s i t false a n).1.gseRest = s.gseRest :=
  gseRest_of_storeFrame (storeFrame_dmaAccess ..)

@[simp] theorem gseRest_gseRead (s : State) (own : Option Nat) (a : Nat) : (gseRead s own a).2.gseRest = s.gseRest := by
  unfold gseRead
  dsimp only
  split <;> simp

@[simp] theorem gseRest_memberVal (s : State) (own : Option Nat) (mer : Bool) (w : Word) (prev : Word × Word) (ts : Nat) : (memberVal s own mer w prev ts).2.gseRest = s.gseRest := by
  unfold memberVal
  split
  · rfl
  · rfl
  · split <;> rfl
  · split <;> simp

@[simp] theorem gseRest_memberVals (s : State) (own : Option Nat) (mer : Bool) (g : GPub) (t : Nat) : (memberVals s own mer g t).2.2.2.gseRest = s.gseRest := by
  unfold memberVals
  refine List.foldlRecOn (motive := fun r : List (Word × Word) × List (Nat × Nat) × Bool × State => r.2.2.2.gseRest = s.gseRest) _ _ rfl fun r hr m _ => ?_
  simpa using hr

@[simp] theorem gseRest_gsePtrReset (s : State) (p : Nat) : (gsePtrReset s p).gseRest = s.gseRest := by simp [gsePtrReset]

@[simp] theorem gseRest_gpSend (s : State) (p : Nat) : (gpSend s p).gseRest = s.gseRest := by
  unfold gpSend
  dsimp only
  repeat' split
  all_goals simp

@[simp] theorem gseRest_gpEvent (s : State) (p : Nat) (vals : List (Word × Word)) (ch : List (Nat × Nat)) (t : Nat) : (gpEvent s p vals ch t).gseRest = s.gseRest := by simp [gpEvent]

theorem gseRest_pubTakeover (p : Nat) : (pubTakeover s p).gseRest = s.gseRest := by
  unfold pubTakeover
  dsimp only
  repeat' split
  all_goals simp

theorem gseRest_becomeMaster : (becomeMaster s).gseRest = (mastership (modMir s fun m => { m with masterAt := none })).gseRest :=
  foldl_frame (h := State.gseRest) pubTakeover _ gseRest_pubTakeover _

/-! ### Notices of the mirror -/

theorem postFrame_mirNote (b : Nat) (cls code info : Nat) (sev : Option Nat) (l : List Word) :
    postFrame (mirNote s (some b) cls code info sev l) = postFrame s := by
  unfold mirNote
  cases sev <;> simp

@[simp] theorem mir_mirNote (b : Nat) (cls code info : Nat) (sev : Option Nat) (l : List Word) : (mirNote s (some b) cls code info sev l).mir = s.mir :=
  (congrArg State.mir (postFrame_mirNote s b cls code info sev l) :)

theorem evt_mirNote {b : Nat} (hb : b < 32) (cls code info : Nat) (sev : Option Nat) (l : List Word) :
    evt (mirNote s (some b) cls code info sev l) R.mirEvt b = true := by
  have hoff : OffPosts R.mirEvt := by unfold OffPosts; decide
  unfold mirNote
  rw [evt_notifyAll _ hoff]
  cases sev with
  | none => exact evt_setEvt_self hb
  | some v => exact (evt_almPost _ hoff ..).trans (evt_setEvt_self hb)

end Sys2Proof.Machine
end
section
/-! The mirror's switches, its lease frame and its lanes (O59; R532, R536, R538, R540 to R543, R551). -/

namespace Sys2Proof.Machine
variable (s : State)

/-- LEASE_FRAME_TX past its conditions. -/
theorem leaseFrameTx_eq (hrole : s.mir.role ≠ .off) (hfrozen : s.diag.frozen = false) (hrun : s.time.tickRun = true) :
    exec .leaseFrameTx s = .next (
      let t := mirTick (reachLtc s (s.time.tickStart + 10000))
      modMir t fun m => { m with busSent := some (if t.mir.role = .holder then leaseWord t 1 false (endedTick t).1 (endedTick t).2
        else leaseWord t 2 (readySent t) t.mir.thruSec t.mir.thruTick) }) :=
  congrArg Host.Outcome.next (if_neg (by simp [hrole, hfrozen, hrun]))

/-- A holder's tick changes neither time nor the mirror, but that its wait for mastership may be over (R541). -/
theorem mirTick_holder (hrole : s.mir.role = .holder) :
    let t := mirTick s
    t.now = s.now ∧ t.mir.role = .holder ∧ t.mir.epoch = s.mir.epoch ∧ t.sys = s.sys ∧ t.time = s.time ∧ t.shadow = s.shadow ∧
      (∀ x, s.mir.masterAt = some x → x ≤ s.now → t.mir.masterAt = none) := by
  intro t
  have ht : t = match s.mir.masterAt with | some x => if x ≤ s.now then becomeMaster s else s | none => s := by
    change mirTick s = _
    unfold mirTick
    rw [hrole]
    cases s.mir.masterAt <;> rfl
  have hrest := gseRest_becomeMaster s
  have hbecome : (becomeMaster s).now = s.now ∧ (becomeMaster s).mir.role = .holder ∧ (becomeMaster s).mir.epoch = s.mir.epoch ∧
      (becomeMaster s).sys = s.sys ∧ (becomeMaster s).time = s.time ∧ (becomeMaster s).shadow = s.shadow ∧ (becomeMaster s).mir.masterAt = none := by
    have hmir : ({ (becomeMaster s).mir with unsent := [] } : MirSt) = { s.mir with masterAt := none, unsent := [] } :=
      (congrArg State.mir hrest :).trans (congrArg (fun m : MirSt => { m with unsent := [] }) (mir_mastership _))
    exact ⟨(congrArg State.now hrest :).trans (now_mastership _), (congrArg MirSt.role hmir :).trans hrole, (congrArg MirSt.epoch hmir :),
      (congrArg State.sys hrest :).trans (sys_mastership _), (congrArg State.time hrest :).trans (time_mastership _),
      (congrArg State.shadow hrest :).trans (shadow_mastership _), (congrArg MirSt.masterAt hmir :)⟩
  rw [ht]
  obtain ⟨hnow, hr, hep, hsys, htime, hsh, hat⟩ := hbecome
  split
  next x hx =>
    split
    next => exact ⟨hnow, hr, hep, hsys, htime, hsh, fun _ _ _ => hat⟩
    next hlate =>
      refine ⟨rfl, hrole, rfl, rfl, rfl, rfl, fun y hy hle => ?_⟩
      cases hx.symm.trans hy
      exact absurd hle hlate
  next hx => exact ⟨rfl, hrole, rfl, rfl, rfl, rfl, fun y hy => by cases hx.symm.trans hy⟩

theorem leaseWord_congr {s t : State} (hsys : t.sys = s.sys) (hepoch : t.mir.epoch = s.mir.epoch) : leaseWord t = leaseWord s := by
  funext type_ ready sec tick
  rw [leaseWord, leaseWord, ownPos, ownPos, hsys, hepoch]

theorem endedTick_congr {s t : State} (htime : t.time = s.time) (hshadow : t.shadow = s.shadow) : endedTick t = endedTick s := by
  rw [endedTick, endedTick, fsOf, fsOf, shadowOf, shadowOf, htime, hshadow]

/-- MIR_ENABLE from OFF with its conditions (R532). -/
theorem mirEnable_holds {a : Acc} (h : admitted s a R.mirCtrl true) (hoff : s.mir.role = .off) (hlc : s.trust.lc = .operational)
    (hcfg : 8 ≤ fld (shadowOf s R.mirCfg) 31 24) :
    Answers (exec (.mirEnable a) s) fun t => t.mir.role = .listen ∧ t.mir.epoch = s.mir.epoch ∧ t.mir.listen = 0 ∧ t.mir.copied = false ∧
      shadowOf t R.mirCtrl = 1#32 ∧ (∀ n, n < 32 → (laneOf t n).drive = .hold) ∧ ∀ k, (taskOf t k).pend = none := by
  let m : MirSt := { role := .listen, lanes := s.mir.lanes, epoch := s.mir.epoch, posConflict := s.mir.posConflict, seqTx := s.mir.seqTx
                     nonceTx := s.mir.nonceTx, peak := s.mir.peak, lines := s.mir.lines }
  let u : State := setShadow { accessed s with mir := m } R.mirCtrl 1#32
  have hexec : exec (.mirEnable a) s = .next (mastership (dropPending u)) :=
    congrArg Host.Outcome.next ((regAccess_of_admitted h _).trans ((if_neg (Classical.not_not.mpr hoff)).trans (if_neg fun hbad => hbad.elim (absurd hlc) (Nat.not_lt.mpr hcfg))))
  have hframe := tskFrame_dropPending u
  have hmir : (dropPending u).mir = m := (congrArg State.mir hframe :)
  have hlc' : (dropPending u).trust.lc = .operational := (congrArg (fun t : State => t.trust.lc) hframe :).trans hlc
  have hmaster : laneMaster (dropPending u) = false := laneMaster_of_role _ hlc' (by rw [hmir]; exact nofun)
  refine ⟨_, hexec, ?_⟩
  dsimp only
  rw [mir_mastership, hmir]
  refine ⟨rfl, rfl, rfl, rfl, ?_, fun n hn => drive_mastership_of_notMaster _ hmaster hn, fun k => ?_⟩
  · have hshadow : (dropPending u).shadow = u.shadow := (congrArg State.shadow hframe :)
    rw [shadowOf, shadow_mastership, hshadow, ← shadowOf, shadowOf_setShadow, if_pos rfl]
  · rw [taskOf, tsk_mastership]
    exact pend_dropPending u k

/-- MIR_DISABLE (R532). -/
theorem mirDisable_holds {a : Acc} (h : admitted s a R.mirCtrl true) (hoff : s.mir.role ≠ .off) :
    Answers (exec (.mirDisable a) s) fun t => t.mir.role = .off ∧ t.mir.epoch = s.mir.epoch ∧ shadowOf t R.mirCtrl = 0#32 ∧
      (s.trust.lc = .operational → ∀ n, n < 32 → (laneOf t n).drive = .hold) := by
  let m : MirSt := { lanes := s.mir.lanes, epoch := s.mir.epoch, posConflict := s.mir.posConflict, seqTx := s.mir.seqTx, nonceTx := s.mir.nonceTx
                     peak := s.mir.peak, lines := s.mir.lines }
  let u : State := setShadow { accessed s with mir := m } R.mirCtrl 0#32
  have hexec : exec (.mirDisable a) s = .next (mastership u) := congrArg Host.Outcome.next ((regAccess_of_admitted h _).trans (if_neg hoff))
  refine ⟨_, hexec, ?_⟩
  dsimp only
  rw [mir_mastership, shadowOf, shadow_mastership]
  refine ⟨rfl, rfl, ?_, fun hlc n hn => drive_mastership_of_notMaster _ (laneMaster_of_role u hlc nofun) hn⟩
  rw [← shadowOf, shadowOf_setShadow, if_pos rfl]

/-- LEASE_FRAME_TX at the holder (R536, R541). -/
theorem leaseFrameTx_holder (hrole : s.mir.role = .holder) (hfrozen : s.diag.frozen = false) (hrun : s.time.tickRun = true) :
    let r := reachLtc s (s.time.tickStart + 10000)
    Answers (exec .leaseFrameTx s) fun t => t.now = r.now ∧ t.mir.role = .holder ∧
      t.mir.busSent = some (leaseWord s 1 false (endedTick s).1 (endedTick s).2) ∧ (∀ x, s.mir.masterAt = some x → x ≤ r.now → t.mir.masterAt = none) := by
  intro r
  refine ⟨_, leaseFrameTx_eq s (by rw [hrole]; decide) hfrozen hrun, ?_⟩
  obtain ⟨hnow, hholder, hepoch, hsys, htime, hshadow, hat⟩ := mirTick_holder r hrole
  refine ⟨hnow, hholder, ?_, hat⟩
  refine congrArg some ((if_pos hholder).trans ?_)
  rw [endedTick_congr (s := s) (htime.trans rfl) (hshadow.trans rfl), leaseWord_congr (s := s) (hsys.trans rfl) (hepoch.trans rfl)]

/-- Settles O59: a listener and a module that is off are no lane master; becoming master leaves the words a frame carries. -/
theorem mirrorControl : Obligations.MirrorControl := by
  intro a l v s u m held
  have hctrl {i : Instr} {f : State → State} (hi : exec i s = .next (regAccess s a R.mirCtrl true f)) (h : admitted s a R.mirCtrl true) :
      exec i s = .next (f u) := hi.trans (congrArg Host.Outcome.next (regAccess_of_admitted h f))
  have henable := hctrl (i := .mirEnable a) rfl
  have hdisable := hctrl (i := .mirDisable a) rfl
  have hhandover := hctrl (i := .handover a) rfl
  refine ⟨fun h => ⟨fun hoff => ?_, fun hoff hbad => ?_, mirEnable_holds s h, fun hoff => ?_, mirDisable_holds s h, fun hrole hready => ?_,
    fun hbad => ?_⟩, fun h => ?_, fun hfrozen hrun => ⟨fun hrole => ?_, fun hrole => leaseFrameTx_holder s hrole hfrozen hrun⟩, fun h => ?_,
    fun h => ⟨_, congrArg Host.Outcome.next (if_pos h), ?_, evt_mirNote _ (by decide) ..⟩, rfl, fun h => congrArg Host.Outcome.next (if_pos h),
    fun h => congrArg Host.Outcome.next (if_neg h)⟩
  · exact (henable h).trans (congrArg Host.Outcome.next (if_pos hoff))
  · exact (henable h).trans (congrArg Host.Outcome.next ((if_neg (Classical.not_not.mpr hoff)).trans (if_pos hbad)))
  · exact (hdisable h).trans (congrArg Host.Outcome.next (if_pos hoff))
  · exact (hhandover h).trans (congrArg Host.Outcome.next (if_pos ⟨hrole, hready⟩))
  · refine (hhandover h).trans (congrArg Host.Outcome.next (if_neg fun hok => ?_))
    exact hbad.elim (absurd hok.1) fun hnot => absurd hok.2 (by rw [show u.mir.ptnrReady = false from hnot]; exact Bool.false_ne_true)
  · exact congrArg Host.Outcome.next (if_pos (by simpa using h))
  · have hnot : m.role ≠ .holder := by rcases hrole with h | h <;> rw [h] <;> decide
    have hoff : m.role ≠ .off := by rcases hrole with h | h <;> rw [h] <;> decide
    refine (leaseFrameTx_eq s hoff hfrozen hrun).trans (congrArg Host.Outcome.next ?_)
    have htick : mirTick (reachLtc s (s.time.tickStart + 10000)) = reachLtc s (s.time.tickStart + 10000) := by
      unfold mirTick
      rcases hrole with h | h <;> rw [show (reachLtc s (s.time.tickStart + 10000)).mir.role = _ from h]
    rw [htick]
    exact congrArg (fun w => modMir (reachLtc s (s.time.tickStart + 10000)) fun m => { m with busSent := some w }) (if_neg hnot)
  · exact congrArg Host.Outcome.next (if_neg (by simpa using h))
  · exact mir_mirNote ..

end Sys2Proof.Machine
end

section
/-! SUPPORT. What the recorder's DMA leaves: its own state, the registers, its permission (R154, R478). -/

namespace Sys2Proof.Machine

variable (s : State)

/-! ### A wiped DRAM stays wiped -/

theorem trust_of_postFrame {s t : State} (h : postFrame s = postFrame t) : s.trust = t.trust := (congrArg State.trust h :)

theorem trust_avRegisters (cycle : Option Nat) (info lo hi : Word) : (setLive (setLive (setLive (setEvt
    { s with part := { s.part with avCycle := cycle } } R.partEvt 0) R.partAvInfo info) R.partAvAddrLo lo) R.partAvAddrHi hi).trust = s.trust := rfl

theorem trust_avLog (t : Tag) (wr : Bool) (a kd : Nat) : (avLog s t wr a kd).trust = s.trust := by
  unfold avLog
  exact (trust_of_postFrame (postFrame_hnqPost ..)).trans ((trust_of_postFrame (postFrame_almPost ..)).trans (trust_avRegisters ..))

theorem trust_violate (t : Tag) (wr : Bool) (a kd : Nat) : (violate s t wr a kd).trust = s.trust := by
  have hcount : (bump s R.partAvCount 15 0 1).trust = s.trust := bump_trust ..
  have hunlog (u : State) : (avUnlog u).trust = u.trust := rfl
  unfold violate
  dsimp only
  split
  · split
    · rw [trust_avLog, hunlog, hcount]
    · exact hcount
  · rw [trust_avLog, hcount]

theorem trust_eccRead (a n : Nat) : (eccRead s a n).1.trust = s.trust := by
  unfold eccRead
  refine foldl_frame (h := State.trust) _ _ (fun t e => ?_) _
  split
  · rfl
  · rfl
  · exact trust_of_postFrame ((postFrame_notifyAll ..).trans ((postFrame_almPost ..).trans rfl))

/-- An access of a block's DMA wipes nothing once DRAM is wiped (R113). -/
theorem trust_dmaAccess (h : s.trust.dramDone = true) (i : Nat) (t : Tag) (wr : Bool) (a n : Nat) : (dmaAccess s i t wr a n).1.trust = s.trust := by
  have hstall : dramStall s a n = s := by simp [dramStall, h]
  unfold dmaAccess
  rw [hstall]
  dsimp only
  split
  · exact Eq.trans rfl (trust_violate ..)
  · split
    · rfl
    · split
      · exact Eq.trans rfl (trust_eccRead ..)
      · exact trust_eccRead ..

/-! ### Permissions -/

theorem memDenied_congr {s t : State} (hforce : s.force = t.force) (hstage : s.trust.stage = t.trust.stage) : memDenied s = memDenied t := by
  have hf : forceOf s = forceOf t := funext fun a => by rw [forceOf, forceOf, hforce]
  have hregion : regionOf s = regionOf t := by
    funext a
    simp only [regionOf, regionHas, hf]
  funext tag k a
  unfold memDenied
  rw [hregion, hstage, hf]

theorem rangeDenied_congr {s t : State} (hforce : s.force = t.force) (hstage : s.trust.stage = t.trust.stage) : rangeDenied s = rangeDenied t := by
  funext tag k a n
  rw [rangeDenied, rangeDenied, memDenied_congr hforce hstage]

/-- A write that may go through still may after reads and other stores. -/
theorem dmaMay_write_of_storeFrame {s t : State} (hframe : storeFrame t = storeFrame s) (hdram : s.trust.dramDone = true → t.trust.dramDone = true)
    {tag : Tag} {a n : Nat} (h : dmaMay s tag .write a n) : dmaMay t tag .write a n := by
  obtain ⟨hwiped, hperm, -⟩ := h
  have hforce : t.force = s.force := (congrArg State.force hframe :)
  have hstage : t.trust.stage = s.trust.stage := (congrArg (fun u : State => u.trust.stage) hframe :)
  refine ⟨fun hin => hdram (hwiped hin), ?_, nofun⟩
  rwa [rangeDenied_congr hforce hstage]

/-! ### The recorder's accesses -/

theorem storeFrame_drcRefused : storeFrame (drcRefused s) = storeFrame s := rfl

theorem storeFrame_drcWrite (a : Nat) (bs : List Byte) : storeFrame (drcWrite s a bs) = storeFrame s := by
  unfold drcWrite
  dsimp only
  split
  · exact (storeFrame_drcRefused _).trans (storeFrame_dmaAccess ..)
  · rw [storeFrame_wrBytes, storeFrame_dmaAccess]

theorem storeFrame_drcBytes (a n : Nat) : storeFrame (drcBytes s a n).2 = storeFrame s := by
  unfold drcBytes
  dsimp only
  split
  · exact (storeFrame_drcRefused _).trans (storeFrame_dmaAccess ..)
  · exact storeFrame_dmaAccess ..

theorem dramDone_drcBytes (h : s.trust.dramDone = true) (a n : Nat) : (drcBytes s a n).2.trust.dramDone = true := by
  have haccess := congrArg TrustSt.dramDone (trust_dmaAccess s h 0x13 (dmaTag s 0x13 none) false a n)
  unfold drcBytes
  dsimp only
  split
  · exact haccess.trans h
  · exact haccess.trans h

theorem storeFrame_drcHeader (i : Nat) : storeFrame (drcHeader s i) = storeFrame s := by
  unfold drcHeader
  dsimp only
  rw [storeFrame_drcWrite, storeFrame_drcWrite, storeFrame_drcWrite]

theorem drc_of_storeFrame {s t : State} (h : storeFrame s = storeFrame t) : s.drc = t.drc := (congrArg State.drc h :)
theorem drc_of_postFrame {s t : State} (h : postFrame s = postFrame t) : s.drc = t.drc := (congrArg State.drc h :)
@[simp] theorem drc_drcHeader (i : Nat) : (drcHeader s i).drc = s.drc := drc_of_storeFrame (storeFrame_drcHeader s i)
@[simp] theorem drc_drcWrite (a : Nat) (bs : List Byte) : (drcWrite s a bs).drc = s.drc := drc_of_storeFrame (storeFrame_drcWrite s a bs)

theorem rdBytes_wrBytes_same (a : Nat) (bs : List Byte) : rdBytes (wrBytes s a bs) a bs.length = bs := by
  simpa using rdBytes_wrBytes_inside s (a := a) (front := []) (mid := bs) (rest := [])

/-- What may be written reads back. -/
theorem rdBytes_drcWrite {a : Nat} {bs : List Byte} (h : dmaMay s (dmaTag s 0x13 none) .write a bs.length) : rdBytes (drcWrite s a bs) a bs.length = bs := by
  unfold drcWrite
  rw [dmaAccess_write_of_dmaMay s a 0x13 h]
  exact rdBytes_wrBytes_same ..

/-! ### A row's bytes -/

/-- What the reads of a row's entries leave. -/
def Reads (s t : State) : Prop := storeFrame t = storeFrame s ∧ (s.trust.dramDone = true → t.trust.dramDone = true)

theorem reads_refl : Reads s s := ⟨rfl, id⟩
theorem Reads.trans {s t u : State} (h : Reads s t) (h' : Reads t u) : Reads s u := ⟨h'.1.trans h.1, fun hd => h'.2 (h.2 hd)⟩

theorem reads_drcRead (a : Nat) : Reads s (drcRead s a).2 := ⟨storeFrame_drcBytes .., fun h => dramDone_drcBytes s h ..⟩

theorem reads_rowEntry (t : Nat) (acc : List Word × Nat × State) (c : Nat) : Reads acc.2.2 (rowEntry t acc c).2.2 := by
  unfold rowEntry
  dsimp only
  split
  · split
    · exact ⟨rfl, id⟩
    · exact reads_refl _
  · exact List.foldlRecOn (motive := fun r : List Word × State => Reads acc.2.2 r.2) _ _ (reads_refl _) fun r hr a _ => hr.trans (reads_drcRead ..)

theorem reads_rowBytes (r : RowSnap) : Reads s (rowBytes s r).2 :=
  List.foldlRecOn (motive := fun x : List Word × Nat × State => Reads s x.2.2) (List.range (drcNch s)) (rowEntry r.tick) (reads_refl s)
    fun _ hx _ _ => hx.trans (reads_rowEntry ..)

end Sys2Proof.Machine
end

section
/-! The recorder (O54; R475 to R491). -/

namespace Sys2Proof.Machine

variable (s : State)

/-! ### Segments -/

theorem segOf_setSeg (i j : Nat) (g : Seg) : segOf (setSeg s i g) j = if j = i then g else segOf s j := mget_mset ..
@[simp] theorem segOf_setSeg_self (i : Nat) (g : Seg) : segOf (setSeg s i g) i = g := mget_mset_self ..
theorem segOf_of_drc {s t : State} (h : s.drc = t.drc) : segOf s = segOf t := funext fun i => by rw [segOf, segOf, h]
@[simp] theorem segOf_drcHeader (i : Nat) : segOf (drcHeader s i) = segOf s := segOf_of_drc (drc_drcHeader ..)
@[simp] theorem segOf_drcWrite (a : Nat) (bs : List Byte) : segOf (drcWrite s a bs) = segOf s := segOf_of_drc (drc_drcWrite ..)

/-! ### Arming -/

/-- The segment `i` armed as record `n` (R483). -/
def armedAs (i n : Nat) : DrcSt :=
  { s.drc with recNum := n, cur := some i
               segs := mset {} s.drc.segs i { state := .armed, recNum := n, enNum := s.drc.enNum, listCrc := s.drc.listCrc } }

theorem drcArm_of_none (h : nextSeg s = none) : postFrame (drcArm s) = postFrame (setCur s none) := by
  unfold drcArm
  rw [h]
  dsimp only
  split
  · rfl
  · exact (postFrame_notifyAll ..).trans ((postFrame_almPost ..).trans (postFrame_setEvt ..))

theorem drc_drcArm_of_some {i : Nat} (h : nextSeg s = some i) : (drcArm s).drc = armedAs s i (s.drc.recNum + 1) := by
  unfold drcArm
  rw [h]
  exact (drc_drcHeader ..).trans rfl

theorem armed_drcArm {i : Nat} (h : nextSeg s = some i) :
    (drcArm s).drc.cur = some i ∧
      segOf (drcArm s) i = { state := .armed, recNum := s.drc.recNum + 1, enNum := s.drc.enNum, listCrc := s.drc.listCrc } := by
  have hdrc := drc_drcArm_of_some s h
  refine ⟨congrArg DrcSt.cur hdrc, ?_⟩
  rw [segOf, hdrc]
  exact segOf_setSeg_self s i _

theorem drc_drcArm_of_none (h : nextSeg s = none) : (drcArm s).drc = { s.drc with cur := none } := drc_of_postFrame (drcArm_of_none s h)

theorem shadow_drcArm : (drcArm s).shadow = s.shadow := by
  cases h : nextSeg s with
  | none => exact (congrArg State.shadow (drcArm_of_none s h) :)
  | some i =>
    unfold drcArm
    rw [h]
    exact (congrArg State.shadow (storeFrame_drcHeader ..) :)

/-- Arming leaves the rows that wait (R477). -/
theorem rows_drcArm : (drcArm s).drc.rows = s.drc.rows := by
  cases h : nextSeg s with
  | none => rw [drc_drcArm_of_none s h]
  | some i =>
    rw [drc_drcArm_of_some s h]
    rfl

theorem rows_drcClose (i : Nat) : (drcClose s i).drc.rows = s.drc.rows := by
  have hold (u : State) : (holdOff u).drc.rows = u.drc.rows := by
    unfold holdOff
    dsimp only
    split <;> rfl
  have hposts (u : State) (w : Word) (n : Nat) (l : List Word) : (notifyAll (almPost (setEvt u R.drcEvt 1) 3 0x13 0x10 none l) w 2 0x13 0x10 n).drc = u.drc :=
    drc_of_postFrame ((postFrame_notifyAll ..).trans ((postFrame_almPost ..).trans (postFrame_setEvt ..)))
  unfold drcClose
  rw [hold, rows_drcArm, hposts, drc_drcHeader]
  rfl

/-! ### Enable and disable -/

theorem storeFrame_drcFreeAll : storeFrame (drcFreeAll s) = storeFrame { s with drc := { s.drc with segs := [] } } := by
  have hfold (l : List (Nat × Seg)) : storeFrame (each l s fun e s => if e.2.state = .free then s else drcWrite s (segAddr s e.1 + 8) (wordsBytes [0#32])) =
      storeFrame s := foldl_frame (h := storeFrame) _ _ (fun t e => by
        dsimp only
        split
        · rfl
        · exact storeFrame_drcWrite ..) s
  exact (congrArg (fun u : State => { u with drc := { u.drc with segs := [] } }) (hfold s.drc.segs) :)

/-- The list a recorder is enabled with is none of its switch. -/
theorem listCrcOf_setShadow {w : Word} (h : drcNch s ≤ 1024) : listCrcOf (setShadow s R.drcCtrl w) = listCrcOf s := by
  have hother {b : Nat} (hb : b ≠ R.drcCtrl) : shadowOf (setShadow s R.drcCtrl w) b = shadowOf s b := (shadowOf_setShadow ..).trans (if_neg hb)
  have hchannels : (List.range (shadowOf s R.drcNch).toNat).map (fun c => shadowOf (setShadow s R.drcCtrl w) (R.drcCh c)) =
      (List.range (shadowOf s R.drcNch).toNat).map fun c => shadowOf s (R.drcCh c) := by
    refine List.map_congr_left fun c hc => hother ?_
    have hlt : c < 1024 := Nat.lt_of_lt_of_le (List.mem_range.mp hc) h
    simp only [R.drcCh, R.drcCtrl]
    omega
  rw [listCrcOf, hother (by decide), hchannels, hother (by decide), hother (by decide), listCrcOf]

theorem drcBad_nch {ks : List Nat} (h : drcBad s ks = false) : drcNch s ≤ 1024 := by
  simp only [drcBad, Bool.or_eq_false_iff, decide_eq_false_iff_not] at h
  omega

theorem nextSeg_congr {s t : State} (hsegs : s.drc.segs = t.drc.segs) (hn : s.drc.segN = t.drc.segN)
    (hcfg : shadowOf s R.drcCfg = shadowOf t R.drcCfg) : nextSeg s = nextSeg t := by
  have hseg : segOf s = segOf t := funext fun i => by rw [segOf, segOf, hsegs]
  simp only [nextSeg, hseg, hn, hcfg]

theorem nextSeg_of_free (hsegs : s.drc.segs = []) (hn : 0 < s.drc.segN) : nextSeg s = some 0 := by
  obtain ⟨n, hn⟩ : ∃ n, s.drc.segN = n + 1 := ⟨s.drc.segN - 1, by omega⟩
  have hfree : (segOf s 0).state = .free := by rw [segOf, hsegs]; rfl
  have hfind : (List.range s.drc.segN).find? (fun i => (segOf s i).state = .free) = some 0 := by
    rw [hn, List.range_succ_eq_map, List.find?_cons_of_pos (by simp [hfree])]
  rw [nextSeg, hfind]

/-- The state an enable arms its first segment in (R480). -/
def drcReady : State :=
  let ks := (List.range (min 1025 (drcNch s))).map (drcK s)
  let n := fld (shadowOf s R.drcCfg) 11 0 + 1
  let s := setShadow (if s.drc.segN ≠ n then drcFreeAll s else s) R.drcCtrl 1#32
  { s with drc := { s.drc with on := true, ks := ks, rowBytes := rowLen s ks, segN := n, rows := [], enNum := s.drc.enNum + 1, listCrc := listCrcOf s } }

theorem drcEnable_of_off (hoff : s.drc.on = false) (hgood : drcBad s ((List.range (min 1025 (drcNch s))).map (drcK s)) = false) :
    drcEnable s = drcArm (drcReady s) :=
  (if_neg (by simp [hoff])).trans (if_neg (by simp [hgood]))

theorem listCrcOf_congr {s t : State} (h : s.shadow = t.shadow) : listCrcOf s = listCrcOf t := by
  have hs : shadowOf s = shadowOf t := funext fun a => by rw [shadowOf, shadowOf, h]
  rw [listCrcOf, listCrcOf, hs]
theorem rowLen_setShadow (w : Word) (ks : List Nat) : rowLen (setShadow s R.drcCtrl w) ks = rowLen s ks := by
  have hother {b : Nat} (hb : b ≠ R.drcCtrl) : shadowOf (setShadow s R.drcCtrl w) b = shadowOf s b := (shadowOf_setShadow ..).trans (if_neg hb)
  rw [rowLen, rowLen, drcPages, drcPages, hother (by decide), hother (by decide)]
theorem rowLen_congr {s t : State} (h : s.shadow = t.shadow) (ks : List Nat) : rowLen s ks = rowLen t ks := by
  have hs : shadowOf s = shadowOf t := funext fun a => by rw [shadowOf, shadowOf, h]
  rw [rowLen, rowLen, drcPages, drcPages, hs]

/-- What an enable sets up (R480). -/
theorem drc_drcReady (h : drcNch s ≤ 1024) :
    let ks := (List.range (min 1025 (drcNch s))).map (drcK s)
    let n := fld (shadowOf s R.drcCfg) 11 0 + 1
    (drcReady s).shadow = (setShadow s R.drcCtrl 1#32).shadow ∧
    (drcReady s).drc = { s.drc with on := true, ks := ks, rowBytes := rowLen s ks, segN := n, rows := [], enNum := s.drc.enNum + 1
                                    listCrc := listCrcOf s, segs := if s.drc.segN = n then s.drc.segs else [] } := by
  intro ks n
  let u := if s.drc.segN ≠ n then drcFreeAll s else s
  have hshadow : u.shadow = s.shadow := by
    change (if s.drc.segN ≠ n then drcFreeAll s else s).shadow = _
    split
    · exact (congrArg State.shadow (storeFrame_drcFreeAll s) :)
    · rfl
  have hdrc : u.drc = { s.drc with segs := if s.drc.segN = n then s.drc.segs else [] } := by
    change (if s.drc.segN ≠ n then drcFreeAll s else s).drc = _
    split
    next hn => exact drc_of_storeFrame (storeFrame_drcFreeAll s)
    next hn => rw [if_pos (Classical.not_not.mp hn)]
  have hready : drcReady s = { setShadow u R.drcCtrl 1#32 with drc := { u.drc with
      on := true, ks := ks, rowBytes := rowLen (setShadow u R.drcCtrl 1#32) ks, segN := n, rows := [], enNum := u.drc.enNum + 1
      listCrc := listCrcOf (setShadow u R.drcCtrl 1#32) } } := rfl
  have hset : (setShadow u R.drcCtrl 1#32).shadow = (setShadow s R.drcCtrl 1#32).shadow := by rw [setShadow, setShadow, hshadow]
  rw [hready]
  refine ⟨hset, ?_⟩
  dsimp only
  rw [rowLen_congr hset, rowLen_setShadow, listCrcOf_congr hset, listCrcOf_setShadow s h, hdrc]

/-- An enable (R480, R483). -/
theorem drcEnable_holds (hoff : s.drc.on = false) (hgood : drcBad s ((List.range (min 1025 (drcNch s))).map (drcK s)) = false) :
    let d := s.drc
    let ks := (List.range (min 1025 (drcNch s))).map (drcK s)
    let n := fld (shadowOf s R.drcCfg) 11 0 + 1
    let t := drcEnable s
    t.drc.on = true ∧ t.drc.ks = ks ∧ t.drc.rowBytes = rowLen s ks ∧ t.drc.segN = n ∧ t.drc.rows = [] ∧ t.drc.enNum = d.enNum + 1 ∧
      shadowOf t R.drcCtrl = 1#32 ∧
      ∀ j, (if d.segN = n then nextSeg s else some 0) = some j → t.drc.cur = some j ∧
        segOf t j = { state := .armed, recNum := d.recNum + 1, enNum := d.enNum + 1, listCrc := listCrcOf s } := by
  intro d ks n t
  have ht : t = drcArm (drcReady s) := drcEnable_of_off s hoff hgood
  obtain ⟨hshadow, hready⟩ := drc_drcReady s (drcBad_nch s hgood)
  have hkept : t.drc.on = (drcReady s).drc.on ∧ t.drc.ks = (drcReady s).drc.ks ∧ t.drc.rowBytes = (drcReady s).drc.rowBytes ∧
      t.drc.segN = (drcReady s).drc.segN ∧ t.drc.rows = (drcReady s).drc.rows ∧ t.drc.enNum = (drcReady s).drc.enNum := by
    rw [ht]
    cases h : nextSeg (drcReady s) with
    | none => rw [drc_drcArm_of_none _ h]; exact ⟨rfl, rfl, rfl, rfl, rfl, rfl⟩
    | some i => rw [drc_drcArm_of_some _ h]; exact ⟨rfl, rfl, rfl, rfl, rfl, rfl⟩
  rw [hready] at hkept
  obtain ⟨hon, hks, hbytes, hsegN, hrows, hen⟩ := hkept
  refine ⟨hon, hks, hbytes, hsegN, hrows, hen, ?_, fun j hj => ?_⟩
  · rw [ht, shadowOf, shadow_drcArm, hshadow, ← shadowOf, shadowOf_setShadow, if_pos rfl]
  · have hnext : nextSeg (drcReady s) = some j := by
      rw [← hj]
      split
      next hn =>
        refine nextSeg_congr ?_ ?_ ?_
        · rw [hready, if_pos hn]
        · rw [hready, hn]
        · rw [shadowOf, hshadow, ← shadowOf, shadowOf_setShadow, if_neg (by decide)]
      next hn => exact nextSeg_of_free _ (by rw [hready, if_neg hn]) (by rw [hready]; exact Nat.succ_pos _)
    rw [ht]
    obtain ⟨hcur, hseg⟩ := armed_drcArm _ hnext
    rw [hready] at hseg
    exact ⟨hcur, hseg⟩

/-- A disable (R484). -/
theorem drcDisable_holds (i : Nat) :
    let d := s.drc
    let x := segOf s i
    let t := drcDisable s
    t.drc.on = false ∧ t.drc.cur = none ∧ t.drc.rows = [] ∧ shadowOf t R.drcCtrl = 0#32 ∧
      (d.cur = some i → (segOf t i).state = match x.state with | .recording => .aborted | .armed => .free | y => y) ∧
      (d.cur ≠ some i → segOf t i = x) := by
  intro d x t
  let u := setShadow s R.drcCtrl 0#32
  let v := match u.drc.cur with
    | some i =>
      if (segOf u i).state = SegState.recording then drcHeader (setSeg u i { segOf u i with state := .aborted }) i
      else if (segOf u i).state = SegState.armed then drcWrite (setSeg u i { segOf u i with state := .free }) (segAddr u i + 8) (wordsBytes [0#32])
      else u
    | none => u
  have ht : t = { v with drc := { v.drc with on := false, cur := none, rows := [] } } := rfl
  have hsegs : segOf t = segOf v := rfl
  have hv : v.shadow = u.shadow ∧ (d.cur = some i → (segOf v i).state = match x.state with | .recording => .aborted | .armed => .free | y => y) ∧
      (d.cur ≠ some i → segOf v i = x) := by
    have hmatch : v = match d.cur with
      | some i =>
        if (segOf s i).state = SegState.recording then drcHeader (setSeg u i { segOf s i with state := .aborted }) i
        else if (segOf s i).state = SegState.armed then drcWrite (setSeg u i { segOf s i with state := .free }) (segAddr u i + 8) (wordsBytes [0#32])
        else u
      | none => u := rfl
    have hother {j : Nat} (h : some j ≠ some i) (g : Seg) : segOf (setSeg u j g) i = x :=
      (segOf_setSeg ..).trans (if_neg fun he => h (congrArg some he.symm))
    rw [hmatch]
    split
    next j hj =>
      rw [hj]
      split
      next hrec =>
        refine ⟨(congrArg State.shadow (storeFrame_drcHeader ..) :), fun h => ?_, fun h => ?_⟩
        · cases h
          rw [segOf_drcHeader, segOf_setSeg_self, hrec]
        · rw [segOf_drcHeader, hother h]
      next hrec =>
        split
        next harm =>
          refine ⟨(congrArg State.shadow (storeFrame_drcWrite ..) :), fun h => ?_, fun h => ?_⟩
          · cases h
            rw [segOf_drcWrite, segOf_setSeg_self, harm]
          · rw [segOf_drcWrite, hother h]
        next harm =>
          refine ⟨rfl, fun h => ?_, fun _ => rfl⟩
          cases h
          change x.state = _
          cases hx : x.state with
          | recording => exact absurd hx hrec
          | armed => exact absurd hx harm
          | free => rfl
          | closed => rfl
          | aborted => rfl
    next hj => exact ⟨rfl, fun h => (by rw [hj] at h; cases h), fun _ => rfl⟩
  obtain ⟨hshadow, hcur, hrest⟩ := hv
  refine ⟨rfl, rfl, rfl, ?_, ?_, ?_⟩
  · rw [shadowOf, show t.shadow = u.shadow from hshadow, ← shadowOf, shadowOf_setShadow, if_pos rfl]
  · rwa [hsegs]
  · rwa [hsegs]

/-! ### Triggers -/

theorem liveOf_drcWrite {a : Nat} (ha : OffStores a) (hevt : a ≠ R.drcEvt) (hcnt : a ≠ R.drcCnt 4) (b : Nat) (bs : List Byte) :
    liveOf (drcWrite s b bs) a = liveOf s a := by
  have haccess := liveOf_dmaAccess_write (s := s) ha 0x13 (dmaTag s 0x13 none) b bs.length
  unfold drcWrite
  dsimp only
  split
  · unfold drcRefused
    rw [liveOf_setLive_of_ne hcnt, liveOf_setEvt_of_ne hevt, haccess]
  · rw [liveOf_wrBytes ha, haccess]

theorem liveOf_drcHeader {a : Nat} (ha : OffStores a) (hevt : a ≠ R.drcEvt) (hcnt : a ≠ R.drcCnt 4) (i : Nat) :
    liveOf (drcHeader s i) a = liveOf s a := by
  unfold drcHeader
  dsimp only
  rw [liveOf_drcWrite _ ha hevt hcnt, liveOf_drcWrite _ ha hevt hcnt, liveOf_drcWrite _ ha hevt hcnt]

theorem moveRows_of_none (h : shadowOf s R.drcPre = 0#32) (i : Nat) : moveRows s i = s := if_pos (congrArg BitVec.toNat h)

theorem liveOf_drcCount (i : Nat) : (liveOf (drcCount s i) (R.drcCnt i)).toNat = min 0xFFFFFFFF ((liveOf s (R.drcCnt i)).toNat + 1) := by
  rw [drcCount, liveOf_setLive, if_pos rfl, word, satAdd, BitVec.toNat_ofNat, Nat.mod_eq_of_lt (by omega)]

theorem shadowOf_drcCount (i : Nat) : shadowOf (drcCount s i) = shadowOf s := funext fun a => by
  rw [shadowOf, drcCount, setLive_shadow, ← shadowOf]
theorem segOf_drcCount (i : Nat) : segOf (drcCount s i) = segOf s := segOf_of_drc (by rw [drcCount, setLive_drc])
theorem liveOf_setSeg (i : Nat) (g : Seg) (a : Nat) : liveOf (setSeg s i g) a = liveOf s a := rfl
theorem shadowOf_setSeg (i : Nat) (g : Seg) : shadowOf (setSeg s i g) = shadowOf s := rfl

/-- A trigger at the armed segment `i`, which becomes `g` (R482, R489). -/
def trigArmed (i : Nat) (g : Seg) : State :=
  let s := drcHeader (moveRows (drcCount (setSeg s i g) 0) i) i
  if (shadowOf s R.drcPost).toNat ≤ (segOf s i).postRec then drcClose s i else s

theorem trigArmed_of_none {g : Seg} (i : Nat) (hpre : shadowOf s R.drcPre = 0#32) (hpost : g.postRec < (shadowOf s R.drcPost).toNat) :
    trigArmed s i g = drcHeader (drcCount (setSeg s i g) 0) i := by
  have hmove : moveRows (drcCount (setSeg s i g) 0) i = drcCount (setSeg s i g) 0 :=
    moveRows_of_none _ (by rw [shadowOf_drcCount, shadowOf_setSeg, hpre]) i
  have hshadow (u : State) : (drcHeader u i).shadow = u.shadow := (congrArg State.shadow (storeFrame_drcHeader u i) :)
  have hseg : segOf (drcCount (setSeg s i g) 0) i = g := by rw [segOf_drcCount, segOf_setSeg_self]
  unfold trigArmed
  rw [hmove]
  have hafter (u : State) (h : (segOf u i).postRec < (shadowOf u R.drcPost).toNat) :
      ¬(shadowOf (drcHeader u i) R.drcPost).toNat ≤ (segOf (drcHeader u i) i).postRec := by
    rw [segOf_drcHeader, shadowOf, hshadow]
    exact Nat.not_le.mpr h
  exact if_neg (hafter _ (by rw [hseg, shadowOf_drcCount, shadowOf_setSeg]; exact hpost))

/-- A trigger, past the recorder's switch and the hold-off by time (R489, R490). -/
theorem drcTrigger_of_on (hon : s.drc.on = true) (hhold : s.drc.holdUntil = none) (ty ix t : Nat) (row : Word) :
    drcTrigger s ty ix t row =
      if s.drc.holdCount ≠ 0 then drcCount { s with drc := { s.drc with holdCount := s.drc.holdCount - 1 } } 2
      else
        match s.drc.cur with
        | none => drcCount s 3
        | some i =>
          let g := segOf s i
          let src := word (ty * 2 ^ 28 + ix)
          match g.state with
          | .armed =>
            let st := word (s.time.sync * 2 ^ 30 + s.time.lodestar % 8 + (if fsOf s = 4000 then 256 else 0))
            trigArmed s i { g with state := .recording, trigT := t, trigRow := row.toNat, trigSrc := src, statW := st }
          | .recording =>
            let g' := { g with
              trigCount := satAdd 0xFFFFFFFF g.trigCount 1
              further := if g.further.length < 16 then g.further ++ [((t : Int) - g.trigT, src)] else g.further }
            drcCount (setSeg s i g') 1
          | _ => drcCount s 3 := by
  unfold drcTrigger
  rw [hon, hhold]
  rfl

/-- A trigger at an armed segment without a pre-trigger area (R482, R489). -/
theorem trigger_armed (hon : s.drc.on = true) (hhold : s.drc.holdUntil = none) (hcount : s.drc.holdCount = 0) {i : Nat}
    (hcur : s.drc.cur = some i) (harmed : (segOf s i).state = .armed) (hpre : shadowOf s R.drcPre = 0#32)
    (hpost : (segOf s i).postRec < (shadowOf s R.drcPost).toNat) (ty ix at_ : Nat) (row : Word) :
    let t := drcTrigger s ty ix at_ row
    (segOf t i).state = .recording ∧ (segOf t i).trigT = at_ ∧ (segOf t i).trigRow = row.toNat ∧ (segOf t i).trigSrc = word (ty * 2 ^ 28 + ix) ∧
      (liveOf t (R.drcCnt 0)).toNat = min 0xFFFFFFFF ((liveOf s (R.drcCnt 0)).toNat + 1) := by
  intro t
  have ht : t = drcTrigger s ty ix at_ row := rfl
  rw [drcTrigger_of_on s hon hhold, if_neg (Classical.not_not.mpr hcount), hcur] at ht
  dsimp only at ht
  rw [harmed] at ht
  dsimp only at ht
  rw [trigArmed_of_none s i hpre (by exact hpost)] at ht
  have hlive : (liveOf t (R.drcCnt 0)).toNat = min 0xFFFFFFFF ((liveOf s (R.drcCnt 0)).toNat + 1) := by
    rw [ht, liveOf_drcHeader _ (by unfold OffStores OffPosts; decide) (by decide) (by decide), liveOf_drcCount, liveOf_setSeg]
  rw [ht, segOf_drcHeader, segOf_drcCount, segOf_setSeg_self, ← ht]
  exact ⟨rfl, rfl, rfl, rfl, hlive⟩

/-! ### Rows -/

/-- The addresses of rows depend on the recorder and its settings. -/
theorem preAddr_of_storeFrame {s t : State} (h : storeFrame s = storeFrame t) (g i : Nat) : preAddr s g i = preAddr t g i := by
  rw [preAddr, preAddr, segAddr, segAddr, drc_of_storeFrame h]
theorem postAddr_of_storeFrame {s t : State} (h : storeFrame s = storeFrame t) (g j : Nat) : postAddr s g j = postAddr t g j := by
  rw [postAddr, postAddr, segAddr, segAddr, shadowOf_of_storeFrame h, drc_of_storeFrame h]

/-- A row enters the pre-trigger area (R481). -/
theorem rowPre_holds (g : Nat) (b : List Byte) (hpre : 0 < (shadowOf s R.drcPre).toNat) :
    let pre := (shadowOf s R.drcPre).toNat
    let x := segOf s g
    let at_ := preAddr s g ((x.firstRow + x.preRec) % pre)
    let t := rowPre s g b
    segOf t g = (if x.preRec < pre then { x with preRec := x.preRec + 1 } else { x with firstRow := (x.firstRow + 1) % pre }) ∧
      (dmaMay s (dmaTag s 0x13 none) .write at_ b.length → rdBytes t at_ b.length = b) := by
  intro pre x at_ t
  have ht : t = setSeg (drcWrite s at_ b) g (if x.preRec < pre then { x with preRec := x.preRec + 1 } else { x with firstRow := (x.firstRow + 1) % pre }) :=
    if_neg (by omega)
  rw [ht]
  exact ⟨segOf_setSeg_self .., fun hmay => rdBytes_drcWrite s hmay⟩

/-- A row enters the post-trigger area and is not its last (R482). -/
theorem rowPost_holds (g : Nat) (b : List Byte) (hlast : ¬(shadowOf s R.drcPost).toNat ≤ (segOf s g).postRec + 1) :
    let x := segOf s g
    let at_ := postAddr s g x.postRec
    let t := rowPost s g b
    segOf t g = { x with postRec := x.postRec + 1 } ∧ (dmaMay s (dmaTag s 0x13 none) .write at_ b.length → rdBytes t at_ b.length = b) := by
  intro x at_ t
  have hshadow : shadowOf (setSeg (drcWrite s at_ b) g { x with postRec := x.postRec + 1 }) = shadowOf s :=
    (shadowOf_setSeg ..).trans (shadowOf_of_storeFrame (storeFrame_drcWrite s at_ b))
  have ht : t = setSeg (drcWrite s at_ b) g { x with postRec := x.postRec + 1 } := if_neg (by rw [hshadow]; exact hlast)
  rw [ht]
  exact ⟨segOf_setSeg_self .., fun hmay => rdBytes_drcWrite s hmay⟩

theorem rows_setSeg (g : Nat) (x : Seg) : (setSeg s g x).drc.rows = s.drc.rows := rfl

theorem rows_rowPre (g : Nat) (b : List Byte) : (rowPre s g b).drc.rows = s.drc.rows := by
  unfold rowPre
  dsimp only
  split
  · rfl
  · rw [rows_setSeg, drc_drcWrite]

theorem rows_rowPost (g : Nat) (b : List Byte) : (rowPost s g b).drc.rows = s.drc.rows := by
  unfold rowPost
  dsimp only
  split
  · rw [rows_drcClose, rows_setSeg, drc_drcWrite]
  · rw [rows_setSeg, drc_drcWrite]

theorem rows_rowStore (r : RowSnap) : (rowStore s r).drc.rows = s.drc.rows := by
  have hread : (rowBytes s r).2.drc.rows = s.drc.rows := congrArg DrcSt.rows (drc_of_storeFrame (reads_rowBytes s r).1)
  unfold rowStore
  split
  · rfl
  · dsimp only
    split
    · exact (rows_rowPre ..).trans hread
    · split
      · exact (rows_rowPost ..).trans hread
      · exact (rows_rowPre ..).trans hread
    · exact hread

theorem rowStore_of_armed {g : Nat} (hcur : s.drc.cur = some g) (harmed : (segOf s g).state = .armed) (r : RowSnap) :
    rowStore s r = rowPre (rowBytes s r).2 g (rowBytes s r).1 := by
  rw [rowStore, hcur]
  dsimp only
  rw [harmed]

theorem rowStore_of_late {g : Nat} (hcur : s.drc.cur = some g) (hrec : (segOf s g).state = .recording) {r : RowSnap} (hlate : rowLate r (segOf s g) = true) :
    rowStore s r = rowPost (rowBytes s r).2 g (rowBytes s r).1 := by
  rw [rowStore, hcur]
  dsimp only
  rw [hrec]
  exact if_pos hlate

theorem worldOf_of_storeFrame {s t : State} (h : storeFrame s = storeFrame t) : worldOf s = worldOf t := (congrArg worldOf h :)

/-- DRC_ROW_WRITE of a row that no channel holds up, into the current segment `i` (R477, R481, R482). -/
theorem drcRowWrite_holds (i : Nat) {r : RowSnap} {rest : List RowSnap} (hrows : s.drc.rows = r :: rest)
    (hready : ∀ c, c < drcNch s → drcWaits s c r.tick = false) (hptr : qOk s.drc.rowPtr = true) (hcur : s.drc.cur = some i) :
    Answers (exec .drcRowWrite s) fun t =>
      let x := segOf s i
      let pre := (shadowOf s R.drcPre).toNat
      let b := (rowBytes { s with drc := { s.drc with rows := rest } } r).1
      let at_ := if x.state = .armed then preAddr s i ((x.firstRow + x.preRec) % pre) else postAddr s i x.postRec
      let last := x.state = .recording ∧ (shadowOf s R.drcPost).toNat ≤ x.postRec + 1
      t.drc.rows = rest ∧
      (x.state = .armed → 0 < pre →
        segOf t i = if x.preRec < pre then { x with preRec := x.preRec + 1 } else { x with firstRow := (x.firstRow + 1) % pre }) ∧
      (x.state = .recording → rowLate r x = true → ¬last → segOf t i = { x with postRec := x.postRec + 1 }) ∧
      ((x.state = .armed ∧ 0 < pre) ∨ (x.state = .recording ∧ rowLate r x = true ∧ ¬last) →
        dmaMay s (dmaTag s 0x13 none) .write at_ b.length → rdBytes t at_ b.length = b) := by
  let u : State := { s with drc := { s.drc with rows := rest } }
  let v := rowStore u r
  have hexec : exec .drcRowWrite s = .next { v with drc := { v.drc with rowPtr :=
      { v.drc.rowPtr with rd := (v.drc.rowPtr.rd + 1) % 4096, rdC := (v.drc.rowPtr.rd + 1) % 4096
                          wr := (v.drc.rowPtr.wr + 1) % 4096, wrC := (v.drc.rowPtr.wr + 1) % 4096 } } } := by
    refine congrArg Host.Outcome.next ?_
    have hcheck : drcCheckPtr s = s := if_pos hptr
    have hwait : ((List.range (drcNch s)).any fun c => drcWaits s c r.tick) = false := by
      simp only [List.any_eq_false, List.mem_range]
      exact fun c hc => by simp [hready c hc]
    rw [hrows]
    dsimp only
    rw [hwait, hcheck]
    rfl
  obtain ⟨hframe, hdram⟩ := reads_rowBytes u r
  generalize hw : (rowBytes u r).2 = w at hframe hdram
  have hseg : segOf w = segOf s := (segOf_of_drc (drc_of_storeFrame hframe)).trans rfl
  have hshadow : shadowOf w = shadowOf s := (shadowOf_of_storeFrame hframe).trans rfl
  have hmay {a n : Nat} (h : dmaMay s (dmaTag s 0x13 none) .write a n) : dmaMay w (dmaTag w 0x13 none) .write a n := by
    have htag : dmaTag w 0x13 none = dmaTag u 0x13 none := by rw [dmaTag, dmaTag, worldOf_of_storeFrame hframe]
    rw [htag]
    exact dmaMay_write_of_storeFrame (s := u) hframe hdram h
  refine ⟨_, hexec, ?_⟩
  dsimp -zeta only
  intro x pre b at_ last
  have hpre : (shadowOf w R.drcPre).toNat = pre := by rw [hshadow]
  have harmed (h : x.state = .armed) (hpos : 0 < pre) :
      segOf v i = (if x.preRec < pre then { x with preRec := x.preRec + 1 } else { x with firstRow := (x.firstRow + 1) % pre }) ∧
        (dmaMay s (dmaTag s 0x13 none) .write at_ b.length → rdBytes v at_ b.length = b) := by
    have hv : v = rowPre w i b := by rw [← hw]; exact rowStore_of_armed u hcur h r
    have hrow := rowPre_holds w i b (hpre ▸ hpos)
    dsimp only at hrow
    rw [hpre, hseg, preAddr_of_storeFrame hframe, ← hv] at hrow
    have hat : at_ = preAddr u i ((x.firstRow + x.preRec) % pre) := if_pos h
    rw [hat]
    exact ⟨hrow.1, fun hm => hrow.2 (hmay hm)⟩
  have hpost (h : x.state = .recording) (hlate : rowLate r x = true) (hlast : ¬last) :
      segOf v i = { x with postRec := x.postRec + 1 } ∧ (dmaMay s (dmaTag s 0x13 none) .write at_ b.length → rdBytes v at_ b.length = b) := by
    have hv : v = rowPost w i b := by rw [← hw]; exact rowStore_of_late u hcur h hlate
    have hrow := rowPost_holds w i b (by rw [hseg, hshadow]; exact fun hle => hlast ⟨h, hle⟩)
    dsimp only at hrow
    rw [hseg, postAddr_of_storeFrame hframe, ← hv] at hrow
    have hat : at_ = postAddr u i x.postRec := if_neg (by rw [h]; decide)
    rw [hat]
    exact ⟨hrow.1, fun hm => hrow.2 (hmay hm)⟩
  refine ⟨rows_rowStore u r, fun h hpos => (harmed h hpos).1, fun h hlate hlast => (hpost h hlate hlast).1, fun h hm => ?_⟩
  rcases h with ⟨h, hpos⟩ | ⟨h, hlate, hlast⟩
  · exact (harmed h hpos).2 hm
  · exact (hpost h hlate hlast).2 hm

/-! ### The obligation -/

/-- Settles O54: what the recorder writes leaves its own state, and a permitted row reads back. -/
theorem recorder : Obligations.Recorder := by
  intro a i s u d ks n x
  have hctrl {f : State → State} {c : Instr} {k : Nat} (hi : exec c s = .next (regAccess s a k true f)) (h : admitted s a k true) :
      exec c s = .next (f u) := hi.trans (congrArg Host.Outcome.next (regAccess_of_admitted h f))
  have henable := hctrl (c := .drcEnable a) rfl
  have hdisable := hctrl (c := .drcDisable a) rfl
  have hmanual := hctrl (c := .manualTrigger a) rfl
  have hclaim := hctrl (c := .segClaim a i) rfl
  have hrelease := hctrl (c := .segRelease a i) rfl
  have hunclaim := hctrl (c := .segUnclaim a i) rfl
  refine ⟨fun h => ⟨fun hon => ?_, fun hoff hbad => ?_, fun hoff hgood => ⟨_, henable h, drcEnable_holds u hoff hgood⟩,
    ⟨_, hdisable h, drcDisable_holds u i⟩⟩, hmanual, fun ty ix at_ row hon hhold => ?_, fun x hx => congrArg Host.Outcome.next ?_,
    fun hx => congrArg Host.Outcome.next ?_, fun h => ⟨fun hst => ?_, fun h1 h2 => ?_, fun hnot => ?_, fun hcl => ?_, hunclaim h⟩,
    fun hx => congrArg Host.Outcome.next ?_, fun r rest hrows => ⟨fun ⟨c, hc, hwait⟩ => ?_, fun hready hptr hcur => drcRowWrite_holds s i hrows hready hptr hcur⟩⟩
  · exact (henable h).trans (congrArg Host.Outcome.next (if_pos hon))
  · exact (henable h).trans (congrArg Host.Outcome.next ((if_neg (Bool.eq_false_iff.mp hoff)).trans (if_pos hbad)))
  · intro t src
    have ht : t = _ := drcTrigger_of_on s hon hhold ty ix at_ row
    refine ⟨fun hcount => ht.trans (if_pos hcount), fun hcount hcur => ?_, fun hcount hcur hrec => ?_, fun hcount hcur harmed hpre hpost => ?_⟩
    · rw [ht, if_neg (Classical.not_not.mpr hcount), show s.drc.cur = none from hcur]
    · rw [ht, if_neg (Classical.not_not.mpr hcount), show s.drc.cur = some i.val from hcur]
      dsimp only
      rw [show (segOf s i).state = .recording from hrec]
      rfl
    · exact trigger_armed s hon hhold hcount hcur harmed hpre hpost ty ix at_ row
  · rw [show s.drc.holdUntil = some x from hx]
    rfl
  · rw [show s.drc.holdUntil = none from hx]
  · exact (hclaim h).trans (congrArg Host.Outcome.next (if_pos hst))
  · exact (hclaim h).trans (congrArg Host.Outcome.next (if_neg fun hst => hst.elim h1 h2))
  · exact (hrelease h).trans (congrArg Host.Outcome.next (if_neg (Bool.eq_false_iff.mp hnot)))
  · intro v
    refine (hrelease h).trans (congrArg Host.Outcome.next ((if_pos hcl).trans ?_))
    have hdrc : v.drc = (setSeg u i { x with claimed := false, state := .free }).drc := drc_drcWrite ..
    have hon : (v.drc.on && v.drc.cur.isNone) = (d.on && d.cur.isNone) := by rw [hdrc]; rfl
    rw [← hon]
    rfl
  · rw [show s.drc.rows = [] from hx]
  · refine congrArg Host.Outcome.next ?_
    rw [show s.drc.rows = r :: rest from hrows]
    exact if_pos (List.any_eq_true.mpr ⟨c, List.mem_range.mpr hc, hwait⟩)

end Sys2Proof.Machine
end

section
/-! SUPPORT. The record of the almanac and its slot: which bytes it stores, which lines are still to be sent (R494, R548). -/

namespace Sys2Proof.Machine

variable (s : State)

/-! ### The captured lines still to be sent -/

theorem mir_of_postFrame {s t : State} (h : postFrame s = postFrame t) : s.mir = t.mir := (congrArg State.mir h :)

theorem mir_avRegisters (cycle : Option Nat) (info lo hi : Word) : (setLive (setLive (setLive (setEvt
    { s with part := { s.part with avCycle := cycle } } R.partEvt 0) R.partAvInfo info) R.partAvAddrLo lo) R.partAvAddrHi hi).mir = s.mir := rfl

theorem mir_avLog (t : Tag) (wr : Bool) (a kd : Nat) : (avLog s t wr a kd).mir = s.mir := by
  unfold avLog
  exact (mir_of_postFrame (postFrame_hnqPost ..)).trans ((mir_of_postFrame (postFrame_almPost ..)).trans (mir_avRegisters ..))

theorem mir_violate (t : Tag) (wr : Bool) (a kd : Nat) : (violate s t wr a kd).mir = s.mir := by
  have hcount : (bump s R.partAvCount 15 0 1).mir = s.mir := bump_mir ..
  have hunlog (u : State) : (avUnlog u).mir = u.mir := rfl
  unfold violate
  dsimp only
  split
  · split
    · rw [mir_avLog, hunlog, hcount]
    · exact hcount
  · rw [mir_avLog, hcount]

theorem mir_dramStall (a n : Nat) : (dramStall s a n).mir = s.mir := by
  unfold dramStall dramWipe
  split
  · split
    · rfl
    · dsimp only
      split <;> rfl
  · rfl

theorem mir_memError (i : Nat) : (memError s i).mir = s.mir := rfl

theorem mir_dmaAccess_write (i : Nat) (t : Tag) (a n : Nat) : (dmaAccess s i t true a n).1.mir = s.mir := by
  unfold dmaAccess
  dsimp only
  split
  · rw [mir_memError, mir_violate, mir_dramStall]
  · exact mir_dramStall ..

/-- A line copied to the snapshot area, the address taken apart from its registers. -/
theorem mir_lineCopy (b l : Nat) (r : State × Option Nat) (w : Word) (a : Nat) (h : r.1.mir = s.mir) :
    (setLive (if r.2.isSome then r.1 else markDirty (pokeBytes r.1 b (rdBytes r.1 l 64)) b 64) a w).mir = s.mir := by
  rw [mir_setLive]
  split
  · exact h
  · exact h

theorem mir_cowLine (e : Nat × Nat × Nat) : (cowLine s e).mir = s.mir :=
  mir_lineCopy s _ _ _ _ _ (mir_dmaAccess_write s 0x16 (dmaTag s 0x16 none) _ 64)

/-- The lines a store copies are no longer to be sent from memory (R548). -/
theorem unsent_wrBytes_of_lines (a : Nat) (bs : List Byte) :
    ∀ e ∈ (wrBytes s a bs).mir.unsent, s.now < e.2.2 → e.1 ∉ linesOf a bs.length := by
  rw [mir_wrBytes]
  unfold cow
  split
  next hnil =>
    rw [List.isEmpty_iff.mp hnil]
    exact nofun
  next =>
    dsimp only
    intro e he ht hmem
    rw [foldl_frame (h := State.mir) cowLine _ (fun t e => mir_cowLine t e)] at he
    have hkept := (List.mem_filter.mp he).2
    simp [ht, hmem] at hkept

/-! ### A slot's words -/

theorem linesOf_slot (i : Nat) {b n : Nat} (hlo : slotAddr i ≤ b) (hn : 0 < n) (hhi : b + n ≤ slotAddr i + 64) : linesOf b n = [slotAddr i / 64] := by
  have hslot : slotAddr i = 64 * (0x2804000 + i) := by unfold slotAddr; omega
  rw [hslot] at hlo hhi ⊢
  generalize 0x2804000 + i = k at hlo hhi
  rw [linesOf, show b / 64 = 64 * k / 64 by omega, show (b + n + 63) / 64 - 64 * k / 64 = 1 by omega]
  rfl

theorem now_wrBytes (a : Nat) (bs : List Byte) : (wrBytes s a bs).now = s.now := (congrArg State.now (storeFrame_wrBytes s a bs) :)

/-- Once a slot's first word is stored, its other words are stored without a copy of its line (R548). -/
theorem cow_wrBytes_slot (i : Nat) {a b n : Nat} {bs : List Byte} (hlo : slotAddr i ≤ a) (hbs : 0 < bs.length) (hhi : a + bs.length ≤ slotAddr i + 64)
    (hlo' : slotAddr i ≤ b) (hn : 0 < n) (hhi' : b + n ≤ slotAddr i + 64) : cow (wrBytes s a bs) b n = wrBytes s a bs := by
  refine cow_of_no_hit _ _ _ fun e he ht => ?_
  rw [now_wrBytes] at ht
  rw [linesOf_slot i hlo' hn hhi', ← linesOf_slot i hlo hbs hhi]
  exact unsent_wrBytes_of_lines s a bs e he ht

/-- The words of a record from number 1 on. -/
def recordBytes (p : Post) : List Byte := (recordWords s p ++ [crcWords (recordWords s p)]).flatMap fun w => leBytes 4 w.toNat

theorem length_wordBytes (l : List Word) : (l.flatMap fun w => leBytes 4 w.toNat).length = 4 * l.length := by
  induction l with
  | nil => rfl
  | cons w l ih => rw [List.flatMap_cons, List.length_append, ih, length_leBytes, List.length_cons]; omega

theorem length_recordWords (p : Post) : (recordWords s p).length = 14 := by simp [recordWords]
theorem length_recordBytes (p : Post) : (recordBytes s p).length = 60 := by
  rw [recordBytes, length_wordBytes, List.length_append, length_recordWords]
  rfl

/-- Word `j` of the words stored at `a`. -/
theorem rd32_wrBytes_words {a j : Nat} {l : List Word} {v : Word} (h : l[j]? = some v) :
    rdBytes (wrBytes s a (l.flatMap fun w => leBytes 4 w.toNat)) (a + 4 * j) 4 = leBytes 4 v.toNat := by
  obtain ⟨hj, hv⟩ := List.getElem?_eq_some_iff.mp h
  have hsplit : l = l.take j ++ (v :: l.drop (j + 1)) := by
    rw [← hv, List.getElem_cons_drop, List.take_append_drop]
  have hfront : ((l.take j).flatMap fun w => leBytes 4 w.toNat).length = 4 * j := by
    rw [length_wordBytes, List.length_take, Nat.min_eq_left (Nat.le_of_lt hj)]
  have hbytes : (l.flatMap fun w => leBytes 4 w.toNat) =
      ((l.take j).flatMap fun w => leBytes 4 w.toNat) ++ (leBytes 4 v.toNat ++ (l.drop (j + 1)).flatMap fun w => leBytes 4 w.toNat) := by
    conv => lhs; rw [hsplit]
    rw [List.flatMap_append, List.flatMap_cons]
  have hread := rdBytes_wrBytes_inside s (a := a) (front := (l.take j).flatMap fun w => leBytes 4 w.toNat) (mid := leBytes 4 v.toNat)
    (rest := (l.drop (j + 1)).flatMap fun w => leBytes 4 w.toNat)
  rwa [← hbytes, hfront, length_leBytes] at hread

theorem word_leNat_leBytes (v : Word) : word (leNat (leBytes 4 v.toNat)) = v := by
  rw [leNat_leBytes, Nat.mod_eq_of_lt (by exact v.isLt)]
  simp [word]

/-- The words of a slot once a record is stored in it (R494). -/
theorem slotWord_almSlotStored (i : Nat) (p : Post) :
    slotWord (almSlotStored s i p) i 0 = slotWord s i 0 + 2 ∧
      ∀ j v, (recordWords s p ++ [crcWords (recordWords s p)])[j]? = some v → slotWord (almSlotStored s i p) i (j + 1) = v := by
  let t := wrBytes (wr32 s (slotAddr i) (slotWord s i 0 + 1)) (slotAddr i + 4) (recordBytes s p)
  have hstored : almSlotStored s i p = wrBytes t (slotAddr i) (leBytes 4 (slotWord s i 0 + 2).toNat) := rfl
  have hlen (v : Word) : (leBytes 4 v.toNat).length = 4 := length_leBytes ..
  have hcow : cow t (slotAddr i) (leBytes 4 (slotWord s i 0 + 2).toNat).length = t :=
    cow_wrBytes_slot _ i (by omega) (by rw [length_recordBytes]; omega) (Nat.le_of_eq (by rw [length_recordBytes])) (Nat.le_refl _) (by rw [hlen]; omega)
      (by rw [hlen]; omega)
  refine ⟨?_, fun j v hj => ?_⟩
  · have hread := rdBytes_wrBytes_same t (slotAddr i) (leBytes 4 (slotWord s i 0 + 2).toNat)
    rw [hlen] at hread
    rw [hstored, slotWord, rd32, Nat.mul_zero, Nat.add_zero, hread, word_leNat_leBytes]
  · have hout (k : Nat) : rdByte (almSlotStored s i p) (slotAddr i + 4 + k) = rdByte t (slotAddr i + 4 + k) := by
      rw [hstored, wrBytes, rdByte_markDirty, rdByte_pokeBytes, hcow, if_neg (by rw [hlen]; omega)]
    have hread : rdBytes (almSlotStored s i p) (slotAddr i + 4 * (j + 1)) 4 = leBytes 4 v.toNat := by
      refine Eq.trans (List.map_congr_left fun k _ => ?_) (rd32_wrBytes_words (wr32 s (slotAddr i) (slotWord s i 0 + 1)) (a := slotAddr i + 4) hj)
      have hat := hout (4 * j + k)
      rw [show slotAddr i + 4 * (j + 1) + k = slotAddr i + 4 + (4 * j + k) by omega,
        show slotAddr i + 4 + 4 * j + k = slotAddr i + 4 + (4 * j + k) by omega]
      exact hat
    rw [slotWord, rd32, hread, word_leNat_leBytes]

end Sys2Proof.Machine
end

section
/-! SUPPORT. What notices leave of the almanac: its events, and, where the host queues' pointers agree, its posts (R157, R158, R503). -/

namespace Sys2Proof.Machine

variable {s : State} {p i : Nat} (h : evt s R.almEvt i = true)
include h

theorem evt_bump_of_evt {a hi lo n : Nat} (ha : R.almEvt ≠ a) : evt (bump s a hi lo n) R.almEvt i = true := by
  rwa [evt, liveOf_bump_of_ne ha]

theorem evt_almCount_of_evt (sev : Nat) : evt (almCount s sev) R.almEvt i = true := by
  unfold almCount
  split
  · exact evt_bump_of_evt h (by decide)
  · exact evt_bump_of_evt h (by decide)
  · exact evt_bump_of_evt h (by decide)
  · exact evt_bump_of_evt h (by decide)

theorem evt_almQueue_of_evt (x : Post) : evt (almQueue s x) R.almEvt i = true := by
  unfold almQueue
  dsimp only
  split
  · exact h
  · split
    · exact evt_almCount_of_evt h _
    · exact evt_almCount_of_evt h _

theorem evt_hnqPut_of_evt (hp : p < 32) (w : Word) : evt (hnqPut s p w) R.almEvt i = true := by
  have hlost : R.almEvt ≠ R.hnqLost p := by
    simp only [R.almEvt, R.hnqLost]
    omega
  have hset (u : State) (x : Hnq) (hu : evt u R.almEvt i = true) : evt (setEvt (setHnq u p x) (R.hnqEvt p) 0) R.almEvt i = true :=
    evt_setEvt_of_evt hu
  unfold hnqPut
  by_cases hfull : (hnqOf s p).q.items.length < 256
  · simp only [if_pos hfull]
    exact hset s _ h
  · simp only [if_neg hfull]
    exact hset _ _ (evt_bump_of_evt h hlost)

theorem evt_ptrSum_of_evt (n : Nat) : evt (ptrSum s n) R.almEvt i = true := evt_setEvt_of_evt h

theorem evt_hnqEmpty_of_evt (hp : p < 32) : evt (hnqEmpty s p) R.almEvt i = true := by
  have hset (u : State) (x : Hnq) (hu : evt u R.almEvt i = true) : evt (setHnq u p x) R.almEvt i = true := hu
  unfold hnqEmpty
  exact evt_hnqPut_of_evt (evt_ptrSum_of_evt (evt_setEvt_of_evt (hset s _ h)) 2) hp _

theorem evt_hnqSafe_of_evt (hp : p < 32) (w : Word) : evt (hnqSafe s p w) R.almEvt i = true := by
  unfold hnqSafe
  refine evt_hnqPut_of_evt ?_ hp w
  split
  · exact h
  · exact evt_almQueue_of_evt (evt_hnqEmpty_of_evt h hp) _

theorem evt_notifying_of_evt (c : State → Nat → Bool) (w : Word) :
    evt ((List.range 32).foldl (fun t p => if c t p then hnqSafe t p w else t) s) R.almEvt i = true := by
  refine List.foldlRecOn (motive := fun t => evt t R.almEvt i = true) _ _ h fun t ht p hp => ?_
  split
  · exact evt_hnqSafe_of_evt ht (List.mem_range.mp hp) w
  · exact ht

theorem evt_almDrop_of_evt (dropped : Bool) (sev : Nat) : evt (almDrop dropped s sev) R.almEvt i = true := by
  unfold almDrop
  split
  · exact h
  · exact evt_notifying_of_evt (evt_setEvt_of_evt h) _ _

theorem evt_almPtrReset_of_evt : evt (almPtrReset s) R.almEvt i = true := by
  have hcount : evt (s.alm.posts.items.foldl (fun t p => almCount t p.sev) s) R.almEvt i = true :=
    List.foldlRecOn (motive := fun t => evt t R.almEvt i = true) _ _ h fun t ht p _ => evt_almCount_of_evt ht p.sev
  have hset (u : State) (x : AlmSt) (hu : evt u R.almEvt i = true) : evt { u with alm := x } R.almEvt i = true := hu
  unfold almPtrReset
  exact evt_notifying_of_evt (evt_almQueue_of_evt (evt_ptrSum_of_evt (evt_setEvt_of_evt (hset _ _ hcount)) 0x14) _) _ _

theorem evt_almPost_of_evt (sev src code : Nat) (pid : Option Nat) (info : List Word) : evt (almPost s sev src code pid info) R.almEvt i = true := by
  unfold almPost
  refine evt_almDrop_of_evt (evt_almQueue_of_evt ?_ _) _ _
  split
  · exact h
  · exact evt_almPtrReset_of_evt h

theorem evt_hnqPost_of_evt (hp : p < 32) (cls src code info : Nat) : evt (hnqPost s p cls src code info) R.almEvt i = true := by
  unfold hnqPost
  refine evt_hnqPut_of_evt ?_ hp _
  split
  · exact h
  · exact evt_almPost_of_evt (evt_hnqEmpty_of_evt h hp) ..

/-- What the almanac's event register shows, it shows after a notice. -/
theorem evt_notifyAll_of_evt (mask : Word) (cls src code info : Nat) : evt (notifyAll s mask cls src code info) R.almEvt i = true := by
  refine List.foldlRecOn (motive := fun t => evt t R.almEvt i = true) _ _ h fun t ht p hp => ?_
  split
  · exact evt_hnqPost_of_evt ht (List.mem_range.mp hp) ..
  · exact ht

omit h

/-- The host queues' pointers agree. -/
def queuesOk (s : State) : Prop := ∀ p, p < 32 → qOk (hnqOf s p).q = true

theorem hnqOf_setHnq (q : Nat) (x : Hnq) : hnqOf (setHnq s p x) q = if q = p then x else hnqOf s q := mget_mset ..

theorem qOk_qPush {α : Type} {cap : Nat} {q : Q α} (h : q.rd = q.rdC) (x : α) : qOk (qPush cap q x) = true := by simp [qOk, qPush, h]

theorem hnqPut_of_ok (hq : queuesOk s) (hp : p < 32) (w : Word) : (hnqPut s p w).alm = s.alm ∧ queuesOk (hnqPut s p w) := by
  have hrd : (hnqOf s p).q.rd = (hnqOf s p).q.rdC := by
    have hok := hq p hp
    simp only [qOk, Bool.and_eq_true, beq_iff_eq] at hok
    exact hok.1
  have hset (u : State) (x : Hnq) (hu : u.alm = s.alm ∧ queuesOk u) (hx : qOk x.q = true) :
      (setEvt (setHnq u p x) (R.hnqEvt p) 0).alm = s.alm ∧ queuesOk (setEvt (setHnq u p x) (R.hnqEvt p) 0) := by
    refine ⟨hu.1, fun q hq' => ?_⟩
    have hof : hnqOf (setEvt (setHnq u p x) (R.hnqEvt p) 0) q = if q = p then x else hnqOf u q := hnqOf_setHnq ..
    rw [hof]
    split
    · exact hx
    · exact hu.2 q hq'
  unfold hnqPut
  by_cases hfull : (hnqOf s p).q.items.length < 256
  · simp only [if_pos hfull]
    exact hset s _ ⟨rfl, hq⟩ (qOk_qPush hrd w)
  · simp only [if_neg hfull]
    exact hset _ _ ⟨rfl, hq⟩ (qOk_qPush rfl w)

/-- With agreeing pointers a notice leaves the almanac. -/
theorem alm_notifyAll_of_ok (hq : queuesOk s) (mask : Word) (cls src code info : Nat) : (notifyAll s mask cls src code info).alm = s.alm := by
  refine (List.foldlRecOn (motive := fun t : State => t.alm = s.alm ∧ queuesOk t) _ _ ⟨rfl, hq⟩ fun t ⟨ht, hok⟩ p hp => ?_).1
  split
  · have hput := hnqPut_of_ok hok (List.mem_range.mp hp) (hnqItem cls src code info)
    rw [hnqPost, if_pos (hok p (List.mem_range.mp hp))]
    exact ⟨hput.1.trans ht, hput.2⟩
  · exact ⟨ht, hok⟩

theorem alm_almDrop_of_ok (hq : queuesOk s) (dropped : Bool) (sev : Nat) : (almDrop dropped s sev).alm = s.alm := by
  unfold almDrop
  split
  · rfl
  · have hset : (setEvt s R.almEvt 3).alm = s.alm ∧ queuesOk (setEvt s R.almEvt 3) := ⟨rfl, hq⟩
    refine (List.foldlRecOn (motive := fun t : State => t.alm = s.alm ∧ queuesOk t) (List.range 32) _ hset fun t ⟨ht, hok⟩ p hp => ?_).1
    split
    · have hput := hnqPut_of_ok hok (List.mem_range.mp hp) (hnqItem 1 0x14 0x11 sev)
      rw [hnqSafe, if_pos (hok p (List.mem_range.mp hp))]
      exact ⟨hput.1.trans ht, hput.2⟩
    · exact ⟨ht, hok⟩

end Sys2Proof.Machine
end

section
/-! The almanac (O55; R494, R496, R497, R499). -/

namespace Sys2Proof.Machine

variable (s : State)

/-! ### A record written -/

theorem slotWord_of_mem {s t : State} (h : s.mem = t.mem) : slotWord s = slotWord t := by
  funext i w
  simp only [slotWord, rd32, rdBytes, rdByte, h]

theorem evt_almWriteSlot (i : Nat) (p : Post) : evt (almWriteSlot s i p) R.almEvt 0 = true := by
  have hself (u : State) : evt (setEvt u R.almEvt 0) R.almEvt 0 = true := evt_setEvt_self (by decide)
  unfold almWriteSlot
  dsimp only
  split
  · split
    · exact evt_notifyAll_of_evt (evt_setEvt_of_evt (evt_setEvt_of_evt (hself _))) ..
    · exact evt_notifyAll_of_evt (evt_setEvt_of_evt (hself _)) ..
  · split
    · exact evt_setEvt_of_evt (hself _)
    · exact hself _

theorem alm_wrBytes_of_unsent (h : s.mir.unsent = []) (a : Nat) (bs : List Byte) : (wrBytes s a bs).alm = s.alm ∧ (wrBytes s a bs).part = s.part := by
  rw [wrBytes, cow_of_unsent_nil h]
  exact ⟨rfl, rfl⟩

/-- With no captured line unsent, a record's words leave posts and host queues. -/
theorem alm_almSlotStored (h : s.mir.unsent = []) (i : Nat) (p : Post) : (almSlotStored s i p).alm = s.alm ∧ (almSlotStored s i p).part = s.part := by
  have h1 := alm_wrBytes_of_unsent s h (slotAddr i) (leBytes 4 (slotWord s i 0 + 1).toNat)
  have u1 : (wr32 s (slotAddr i) (slotWord s i 0 + 1)).mir.unsent = [] := (congrArg MirSt.unsent (unsent_wrBytes h ..)).trans h
  have h2 := alm_wrBytes_of_unsent _ u1 (slotAddr i + 4) (recordBytes s p)
  have u2 := (congrArg MirSt.unsent (unsent_wrBytes u1 (slotAddr i + 4) (recordBytes s p))).trans u1
  have h3 := alm_wrBytes_of_unsent _ u2 (slotAddr i) (leBytes 4 (slotWord s i 0 + 2).toNat)
  exact ⟨h3.1.trans (h2.1.trans h1.1), h3.2.trans (h2.2.trans h1.2)⟩

theorem queuesOk_of_part {s t : State} (h : s.part = t.part) (hq : queuesOk t) : queuesOk s := fun p hp => by
  rw [hnqOf, h]
  exact hq p hp

theorem posts_almWriteSlot (h : s.mir.unsent = []) (hq : queuesOk s) (i : Nat) (p : Post) : (almWriteSlot s i p).alm.posts = s.alm.posts := by
  obtain ⟨halm, hpart⟩ := alm_almSlotStored s h i p
  let u : State := { almSlotStored s i p with alm := { (almSlotStored s i p).alm with seqNext := (almSlotStored s i p).alm.seqNext + 1 } }
  have hu : u.alm.posts = s.alm.posts := (congrArg AlmSt.posts halm :)
  have hok : queuesOk u := queuesOk_of_part hpart hq
  have hset {v : State} (hv : v.alm.posts = s.alm.posts ∧ queuesOk v) (b : Nat) :
      (setEvt v R.almEvt b).alm.posts = s.alm.posts ∧ queuesOk (setEvt v R.almEvt b) := hv
  have hnote {v : State} (hv : v.alm.posts = s.alm.posts ∧ queuesOk v) (mask : Word) (info : Nat) :
      (notifyAll v mask 0 0x14 0x10 info).alm.posts = s.alm.posts := (congrArg AlmSt.posts (alm_notifyAll_of_ok hv.2 mask ..)).trans hv.1
  have hzero := hset ⟨hu, hok⟩ 0
  unfold almWriteSlot
  dsimp only
  split
  · split
    · exact hnote (hset (hset hzero 1) 2) _ _
    · exact hnote (hset hzero 2) _ _
  · split
    · exact (hset hzero 1).1
    · exact hzero.1

theorem seqNext_of_almRest {s t : State} (h : s.almRest = t.almRest) : s.alm.seqNext = t.alm.seqNext := (congrArg AlmSt.seqNext h :)

theorem seqNext_almWriteSlot (i : Nat) (p : Post) : (almWriteSlot s i p).alm.seqNext = s.alm.seqNext + 1 := by
  have hstored : (almSlotStored s i p).alm.seqNext = s.alm.seqNext := seqNext_of_almRest (by simp [almSlotStored])
  let u : State := { almSlotStored s i p with alm := { (almSlotStored s i p).alm with seqNext := (almSlotStored s i p).alm.seqNext + 1 } }
  have hwritten : (almWriteSlot s i p).almRest = u.almRest := by
    unfold almWriteSlot
    dsimp only
    split <;> split <;> simp only [almRest_notifyAll, almRest_setEvt] <;> rfl
  exact (seqNext_of_almRest hwritten).trans (congrArg (· + 1) hstored)

/-- A record written into slot `i` (R494, R496). -/
theorem almWriteSlot_holds (i : Nat) (p : Post) :
    let t := almWriteSlot s i p
    (s.mir.unsent = [] → queuesOk s → t.alm.posts = s.alm.posts) ∧ t.alm.seqNext = s.alm.seqNext + 1 ∧ evt t R.almEvt 0 = true ∧
      slotWord t i 0 = slotWord s i 0 + 2 ∧ slotWord t i 15 = crcWords (recordWords s p) ∧
      ∀ j v, (recordWords s p)[j]? = some v → slotWord t i (j + 1) = v := by
  intro t
  have hmem : t.mem = (almSlotStored s i p).mem := (congrArg State.mem (postFrame_almWriteSlot s i p) :)
  obtain ⟨hgen, hwords⟩ := slotWord_almSlotStored s i p
  rw [slotWord_of_mem hmem]
  refine ⟨fun h hq => posts_almWriteSlot s h hq i p, seqNext_almWriteSlot s i p, evt_almWriteSlot s i p, hgen, hwords 14 _ ?_, fun j v hj => hwords j v ?_⟩
  · rw [List.getElem?_append_right (Nat.le_of_eq (length_recordWords ..)), length_recordWords]
    rfl
  · exact (List.getElem?_append_left (List.getElem?_eq_some_iff.mp hj).1).trans hj

/-- A record dropped (R496). -/
theorem almDropped_holds (sev : Nat) :
    let t := almDrop true (almCount s sev) sev
    (queuesOk s → t.alm.posts = s.alm.posts) ∧ t.alm.seqNext = s.alm.seqNext ∧ evt t R.almEvt 3 = true ∧ t.mem = s.mem := by
  intro t
  have hcount : (almCount s sev).alm = s.alm ∧ (almCount s sev).part = s.part := by
    unfold almCount
    split <;> exact ⟨rfl, rfl⟩
  refine ⟨fun hq => ?_, seqNext_of_almRest (by simp [t]), ?_, (congrArg State.mem ((postFrame_almDrop ..).trans (postFrame_almCount ..)) :)⟩
  · exact congrArg AlmSt.posts ((alm_almDrop_of_ok (queuesOk_of_part hcount.2 hq) true sev).trans hcount.1)
  · change evt (almDrop true (almCount s sev) sev) R.almEvt 3 = true
    unfold almDrop
    split
    next h => simpa using h
    next => exact evt_notifying_of_evt (evt_setEvt_self (by decide)) _ _

/-! ### The slot a record takes -/

/-- Where the numbers of a rising list begin to lack. -/
theorem firstGap_spec (l : List Nat) (n : Nat) (h : l.Pairwise (· < ·)) :
    n ≤ firstGap l n ∧ firstGap l n ∉ l ∧ ∀ j, n ≤ j → j < firstGap l n → j ∈ l := by
  induction l generalizing n with
  | nil => exact ⟨Nat.le_refl _, List.not_mem_nil, fun j hlo hhi => absurd hhi (Nat.not_lt.mpr hlo)⟩
  | cons m l ih =>
    obtain ⟨hm, hl⟩ := List.pairwise_cons.mp h
    rw [firstGap]
    split
    next he =>
      obtain ⟨hle, hnot, hall⟩ := ih (n + 1) hl
      refine ⟨by omega, List.not_mem_cons_of_ne_of_not_mem (by omega) hnot, fun j hlo hhi => ?_⟩
      by_cases hj : j = m
      · exact hj ▸ List.mem_cons_self
      · exact List.mem_cons_of_mem _ (hall j (by omega) hhi)
    next hne =>
      split
      next hlt =>
        obtain ⟨hle, hnot, hall⟩ := ih n hl
        exact ⟨hle, List.not_mem_cons_of_ne_of_not_mem (by omega) hnot, fun j hlo hhi => List.mem_cons_of_mem _ (hall j hlo hhi)⟩
      next hge =>
        refine ⟨Nat.le_refl _, List.not_mem_cons_of_ne_of_not_mem (by omega) fun hmem => ?_, fun j hlo hhi => absurd hhi (Nat.not_lt.mpr hlo)⟩
        have := hm n hmem
        omega

theorem lowestSeq_mem (l : List Nat) {i : Nat} (h : lowestSeq s l = some i) : i ∈ l := by
  have hmem : ∀ j, lowestSeq s l = some j → j ∈ l := by
    unfold lowestSeq
    refine List.foldlRecOn (motive := fun r : Option Nat => ∀ j, r = some j → j ∈ l) _ _ nofun fun r hr k hk j hj => ?_
    split at hj
    · cases hj
      exact hk
    · split at hj
      · cases hj
        exact hk
      · exact hr j hj
  exact hmem i h

/-- The numbers of the slots of a rising list of bytes, each once. -/
def recordSlots (m : List Host.Cell) : List Nat :=
  m.foldr (fun c l => let i := (c.1 - 0xA0100000) / 64; if l.head? = some i then l else i :: l) []

theorem recordSlots_cons (c : Host.Cell) (m : List Host.Cell) :
    recordSlots (c :: m) = if (recordSlots m).head? = some ((c.1 - 0xA0100000) / 64) then recordSlots m else (c.1 - 0xA0100000) / 64 :: recordSlots m := rfl

theorem mem_recordSlots (m : List Host.Cell) (i : Nat) : i ∈ recordSlots m ↔ ∃ c ∈ m, (c.1 - 0xA0100000) / 64 = i := by
  induction m with
  | nil => simp [recordSlots]
  | cons c m ih =>
    rw [recordSlots_cons]
    split
    next hhead =>
      have hin : (c.1 - 0xA0100000) / 64 ∈ recordSlots m := List.mem_of_head? hhead
      rw [ih]
      constructor
      · rintro ⟨d, hd, hi⟩
        exact ⟨d, List.mem_cons_of_mem _ hd, hi⟩
      · rintro ⟨d, hd, hi⟩
        rcases List.mem_cons.mp hd with rfl | hd
        · exact ih.mp (hi ▸ hin)
        · exact ⟨d, hd, hi⟩
    next =>
      rw [List.mem_cons, ih]
      constructor
      · rintro (hi | ⟨d, hd, hi⟩)
        · exact ⟨c, List.mem_cons_self, hi.symm⟩
        · exact ⟨d, List.mem_cons_of_mem _ hd, hi⟩
      · rintro ⟨d, hd, hi⟩
        rcases List.mem_cons.mp hd with rfl | hd
        · exact .inl hi.symm
        · exact .inr ⟨d, hd, hi⟩

theorem recordSlots_rising (m : List Host.Cell) (h : m.Pairwise fun x y => x.1 < y.1) : (recordSlots m).Pairwise (· < ·) := by
  induction m with
  | nil => exact List.Pairwise.nil
  | cons c m ih =>
    obtain ⟨hc, hm⟩ := List.pairwise_cons.mp h
    have hrest := ih hm
    rw [recordSlots_cons]
    split
    · exact hrest
    next hhead =>
      refine List.pairwise_cons.mpr ⟨fun i hi => ?_, hrest⟩
      have hle (k : Nat) (hk : k ∈ recordSlots m) : (c.1 - 0xA0100000) / 64 ≤ k := by
        obtain ⟨d, hd, hk⟩ := (mem_recordSlots m k).mp hk
        have := hc d hd
        omega
      refine Nat.lt_of_le_of_ne (hle i hi) fun he => hhead ?_
      subst he
      cases hs : recordSlots m with
      | nil => rw [hs] at hi; cases hi
      | cons k t =>
        rw [hs] at hi hle hrest
        rcases List.mem_cons.mp hi with hk | hk
        · rw [hk]; rfl
        · have h1 := (List.pairwise_cons.mp hrest).1 _ hk
          have h2 := hle k List.mem_cons_self
          omega

theorem almListed_eq : almListed s = recordSlots (mtake s.mem 0xA0100000 0xA0500000) := rfl

/-- A byte that is not 0 is listed. -/
theorem mem_of_mget_ne (m : List Host.Cell) {a : Nat} (h : mget 0#8 m a ≠ 0#8) : ∃ c ∈ m, c.1 = a := by
  exact Classical.byContradiction fun hno => h (mget_of_not_mem _ _ fun e he hk => hno ⟨e, he, hk⟩)

theorem mem_almListed_of_valid {i : Nat} (hi : i < 65536) (h : slotValid s i = true) : i ∈ almListed s := by
  have hbyte : ∃ k, k < 4 ∧ rdByte s (slotAddr i + 4 + k) ≠ 0#8 := by
    refine Classical.byContradiction fun hno => ?_
    have hzero (k : Nat) (hk : k < 4) : rdByte s (slotAddr i + 4 + k) = 0#8 := by
      exact Classical.byContradiction fun hk' => hno ⟨k, hk, hk'⟩
    have hbytes : rdBytes s (slotAddr i + 4 * 1) 4 = List.replicate 4 0#8 := by
      refine List.ext_getElem (by simp [rdBytes]) fun k hk _ => ?_
      have hk4 : k < 4 := by simpa [rdBytes] using hk
      simpa only [rdBytes, List.getElem_map, List.getElem_range, List.getElem_replicate, Nat.mul_one] using hzero k hk4
    rw [slotValid, slotWord, rd32, hbytes] at h
    exact absurd h (by decide)
  obtain ⟨k, hk, hne⟩ := hbyte
  obtain ⟨c, hc, ha⟩ := mem_of_mget_ne s.mem hne
  unfold slotAddr at ha
  rw [almListed_eq, mem_recordSlots]
  refine ⟨c, List.mem_filter.mpr ⟨hc, ?_⟩, by omega⟩
  simp only [Bool.and_eq_true, decide_eq_true_eq]
  omega

/-- The slot a record takes: the lowest that is not VALID, or with none, one of no more urgent a record (R496). -/
theorem almSlot_spec (hmem : memOk s) {sev i : Nat} (h : almSlot s sev = some i) :
    (slotValid s i = false ∧ i < 65536 ∧ ∀ j, j < i → slotValid s j = true) ∨
    ((∀ j, j < 65536 → slotValid s j = true) ∧ slotValid s i = true ∧ sev ≤ fld (slotWord s i 1) 31 30) := by
  have hrising : (almValid s).Pairwise (· < ·) := by
    refine List.Pairwise.filter _ ?_
    rw [almListed_eq]
    exact recordSlots_rising _ (((mwf_iff 0#8 s.mem).mp hmem).2.filter _)
  obtain ⟨-, hnot, hall⟩ := firstGap_spec (almValid s) 0 hrising
  have hvalid {j : Nat} (hj : j ∈ almValid s) : slotValid s j = true := (List.mem_filter.mp hj).2
  unfold almSlot at h
  dsimp only at h
  split at h
  next hgap =>
    cases h
    refine .inl ⟨Bool.eq_false_iff.mpr fun hv => hnot ?_, hgap, fun j hj => hvalid (hall j (Nat.zero_le _) hj)⟩
    exact List.mem_filter.mpr ⟨mem_almListed_of_valid s hgap hv, hv⟩
  next hfull =>
    obtain ⟨hin, hsev⟩ := List.mem_filter.mp (lowestSeq_mem s _ h)
    exact .inr ⟨fun j hj => hvalid (hall j (Nat.zero_le _) (by omega)), hvalid hin, of_decide_eq_true hsev⟩

/-! ### The obligation -/

theorem almValid_of_mem {s t : State} (h : s.mem = t.mem) : almValid s = almValid t ∧ lowestSeq s = lowestSeq t := by
  have hw := slotWord_of_mem h
  have hv : slotValid s = slotValid t := funext fun i => by rw [slotValid, slotValid, hw]
  refine ⟨by rw [almValid, almValid, almListed, almListed, h, hv], funext fun l => ?_⟩
  simp only [lowestSeq, hw]

theorem almFind_of_mem {s t : State} (h : s.mem = t.mem) : almFind s = almFind t := by
  obtain ⟨hv, hl⟩ := almValid_of_mem h
  funext w
  rw [almFind, almFind, hv, hl, slotWord_of_mem h]

theorem almSlot_of_mem {s t : State} (h : s.mem = t.mem) : almSlot s = almSlot t := by
  obtain ⟨hv, hl⟩ := almValid_of_mem h
  funext sev
  rw [almSlot, almSlot, hv, hl, slotWord_of_mem h]

/-- A post joins a queue that has room (R497). -/
theorem almPost_of_room (hq : qOk s.alm.posts = true) (hlen : s.alm.posts.items.length < 64) (sev src code : Nat) (pid : Option Nat) (info : List Word) :
    almPost s sev src code pid info = { s with alm := { s.alm with posts := qPush 64 s.alm.posts (mkPost s sev src code pid info) } } := by
  have hfull : decide (64 ≤ s.alm.posts.items.length) = false := decide_eq_false (Nat.not_le.mpr hlen)
  unfold almPost
  rw [if_pos hq]
  dsimp only
  rw [hfull]
  exact if_pos hlen

/-- ALM_RECORD_WRITE takes the oldest post where the ALM neither pauses nor scans (R497, R498). -/
theorem almRecordWrite_of_post (hq : qOk s.alm.posts = true) (hpaused : s.alm.paused = false) (hscan : s.alm.scanning = false) {p : Post}
    {rest : List Post} (hitems : s.alm.posts.items = p :: rest) :
    almRecordWrite s = almRecord { s with alm := { s.alm with posts := qPop 64 s.alm.posts } } p := by
  unfold almRecordWrite
  rw [if_pos hq]
  dsimp only
  rw [hpaused, hscan, hitems]
  rfl

theorem almRecordWrite_of_none (hq : qOk s.alm.posts = true) (h : s.alm.paused = true ∨ s.alm.scanning = true ∨ s.alm.posts.items = []) :
    almRecordWrite s = s := by
  unfold almRecordWrite
  rw [if_pos hq]
  dsimp only
  rcases h with h | h | h
  · rw [h]; rfl
  · rw [h, Bool.or_true]; rfl
  · rw [h]
    exact ite_self _

/-- Settles O55: the record is stored in its slot word by word, once its line is no longer to be sent; a notice keeps the events shown. -/
theorem almanac : Obligations.Almanac := by
  intro a w s u h x calm
  refine ⟨fun hadm => ⟨fun hsev hsec => ?_, fun hok hq hlen => ?_⟩, fun hadm => ?_, fun hq => ⟨fun hidle => ?_, fun p rest hpaused hscan hitems => ?_⟩,
    fun hmem sev i hi => almSlot_spec s hmem hi⟩
  · refine congrArg Host.Outcome.next ((regAccess_of_admitted hadm _).trans (if_pos ⟨hsev, ?_⟩))
    rw [hsec]
    rfl
  · intro info post
    refine congrArg Host.Outcome.next ((regAccess_of_admitted hadm _).trans ((if_neg fun hbad => ?_).trans ?_))
    · rcases hok with hok | hok
      · exact hok hbad.1
      · simp [hok] at hbad
    · exact almPost_of_room u hq hlen ..
  · intro v
    refine congrArg Host.Outcome.next ((regAccess_of_admitted hadm _).trans ?_)
    have hfind : almFind v w = almFind s w := congrFun (almFind_of_mem (show v.mem = s.mem from rfl)) w
    rw [← hfind]
    rfl
  · exact congrArg Host.Outcome.next (almRecordWrite_of_none s hq hidle)
  · let v : State := { s with alm := { x with posts := qPop 64 x.posts } }
    have hexec : exec .almRecordWrite s = .next (almRecord v p) := congrArg Host.Outcome.next (almRecordWrite_of_post s hq hpaused hscan hitems)
    have hslot : almSlot v = almSlot s := almSlot_of_mem rfl
    have hrest : v.alm.posts.items = rest := congrArg List.tail hitems
    refine ⟨fun i hi => ?_, fun hnone => ?_⟩
    · have hrecord : almRecord v p = almWriteSlot v i p := by
        rw [almRecord, hslot, hi]
      rw [hrecord] at hexec
      obtain ⟨hposts, hseq, hevt, hgen, hcrc, hwords⟩ := almWriteSlot_holds v i p
      exact ⟨_, hexec, fun hcalm => (congrArg Q.items (hposts hcalm.1 hcalm.2)).trans hrest, hseq, hevt, hgen, hcrc, hwords⟩
    · have hrecord : almRecord v p = almDrop true (almCount v p.sev) p.sev := by
        rw [almRecord, hslot, hnone]
      rw [hrecord] at hexec
      obtain ⟨hposts, hseq, hevt, hmem⟩ := almDropped_holds v p.sev
      exact ⟨_, hexec, fun hcalm => (congrArg Q.items (hposts hcalm.2)).trans hrest, hseq, hevt, hmem⟩

end Sys2Proof.Machine
end

section
/-! Runs and the load engine (R302, R303, R326, R331, R334, R381, R382). -/

namespace Sys2Proof.Machine

/-- Core 0 awaits the arrival of a refused OPF of a run that an exception has ended with a reaction number beyond the four of R328; no record is held. -/
def farReacted : State := setCore {} 0 { refused := [0], excDone := true, excReact := 2 ^ 17 }

/-- The refusal's record: its reaction number runs over its field, into bit 31. -/
theorem coreExc_farReacted : bit (liveOf (takeExc (modCore farReacted 0 fun c => { c with refused := [] }) 0 3 0x08 (excPc (coreOf farReacted 0) 0) 0#32 true)
    (R.coreExc 0)) 31 = false := by decide

/-- Refutes O48: where the run's reaction is a number above 3, which the state can hold, the record of a refused OPF loses its valid bit. -/
theorem not_runsAndLoadEngine : ¬ Obligations.RunsAndLoadEngine := by
  intro h
  obtain ⟨-, -, -, hrefused, -⟩ := h { core := 0, secure := true } 0 0 farReacted
  obtain ⟨r, hr, -, hvalid, -⟩ := hrefused 0 [] rfl
  have hidle : exec (.opfRefusal 0) farReacted = .next (takeExc (modCore farReacted 0 fun c => { c with refused := [] }) 0 3 0x08
      (excPc (coreOf farReacted 0) 0) 0#32 true) := congrArg Host.Outcome.next (if_neg (by decide))
  cases hidle.symm.trans hr
  exact Bool.false_ne_true (coreExc_farReacted.symm.trans hvalid)

end Sys2Proof.Machine
end

section
/-! SUPPORT. What flags, lanes, publications, event tasks, posts and stores leave of the programs, the mirror and the time (R371, R393, R415, R532). -/

namespace Sys2Proof.Machine

/-! ### The office of a state -/

/-- Whether a task is stopped, whether it has retired a run, and the START code of its next run. -/
def State.marks (s : State) (k : Nat) : Bool × Bool × Nat := ((taskOf s k).stopped, (taskOf s k).retired, (taskOf s k).first)

/-- What no flag, post or store changes: time, mirror, module state, the programs, the partitions stopped, the marks of the tasks. -/
def State.settled (s : State) : Nat × MirSt × SysSt × List (Nat × TskPart) × Word × (Nat → Bool × Bool × Nat) :=
  (s.now, { s.mir with unsent := [] }, s.sys, s.tsk.parts, s.pcx.pstop, s.marks)

/-- What is settled, and the event registers of the programs. -/
def State.office (s : State) : (Nat × MirSt × SysSt × List (Nat × TskPart) × Word × (Nat → Bool × Bool × Nat)) × (Fin 32 → Word) :=
  (s.settled, fun p => liveOf s (R.tskPEvt p))

/-- A register that is not the event register of a program. -/
def OffProgs (a : Nat) : Prop := a % 0x20 ≠ 0x14 ∨ a < 0xF00D0100 ∨ 0xF00D0600 ≤ a

theorem OffProgs.ne_tskPEvt {a : Nat} (h : OffProgs a) (p : Fin 32) : R.tskPEvt p ≠ a := by
  have hp := p.isLt
  simp only [OffProgs, R.tskPEvt] at h ⊢
  omega

theorem offStores_tskPEvt (p : Fin 32) : OffStores (R.tskPEvt p) := by
  have hp := p.isLt
  simp only [OffStores, OffPosts, R.tskPEvt, R.almDrop01, R.almDrop23, R.almEvt, R.diagPtrSum, R.mirCnt]
  omega

@[simp] theorem offProgs_tskEvt : OffProgs R.tskEvt := by unfold OffProgs; decide
@[simp] theorem offProgs_tmxEvt : OffProgs R.tmxEvt := by unfold OffProgs; decide
@[simp] theorem offProgs_gseEvt : OffProgs R.gseEvt := by unfold OffProgs; decide
@[simp] theorem offProgs_cmdEvt : OffProgs R.cmdEvt := by unfold OffProgs; decide
@[simp] theorem offProgs_drcEvt : OffProgs R.drcEvt := by unfold OffProgs; decide
@[simp] theorem offProgs_diagEvt : OffProgs R.diagEvt := by unfold OffProgs; decide
@[simp] theorem offProgs_diagPtrSum : OffProgs R.diagPtrSum := by unfold OffProgs; decide
@[simp] theorem offProgs_block (i : Nat) : OffProgs (R.base i + 0xFFE8) := by simp only [OffProgs, R.base]; omega
@[simp] theorem offProgs_hnqEvt (p : Nat) : OffProgs (R.hnqEvt p) := by simp only [OffProgs, R.hnqEvt]; omega
@[simp] theorem offProgs_hnqLost (p : Nat) : OffProgs (R.hnqLost p) := by simp only [OffProgs, R.hnqLost]; omega
@[simp] theorem offProgs_laneCnt (n : Nat) : OffProgs (R.laneCnt n) := by simp only [OffProgs, R.laneCnt]; omega
@[simp] theorem offProgs_gpCnt (p : Nat) : OffProgs (R.gpCnt p) := by simp only [OffProgs, R.gpCnt]; omega
@[simp] theorem offProgs_drcCnt (i : Nat) : OffProgs (R.drcCnt i) := by simp only [OffProgs, R.drcCnt]; omega
@[simp] theorem offProgs_diagCe (i : Nat) : OffProgs (R.diagCe i) := by simp only [OffProgs, R.diagCe]; omega
@[simp] theorem offProgs_diagUe (i : Nat) : OffProgs (R.diagUe i) := by simp only [OffProgs, R.diagUe]; omega
@[simp] theorem offProgs_tskTCnt (t : Nat) : OffProgs (R.tskTCnt t) := by simp only [OffProgs, R.tskTCnt]; omega
@[simp] theorem offProgs_tskPCarry (p : Nat) : OffProgs (R.tskPCarry p) := by simp only [OffProgs, R.tskPCarry]; omega
@[simp] theorem offProgs_tskPDrop (p : Nat) : OffProgs (R.tskPDrop p) := by simp only [OffProgs, R.tskPDrop]; omega

theorem office_of_storeFrame {s t : State} (h : storeFrame s = storeFrame t) (hlive : ∀ a, OffStores a → liveOf s a = liveOf t a) :
    s.office = t.office :=
  Prod.ext (congrArg State.settled h :) (funext fun p => hlive _ (offStores_tskPEvt p))

/-! ### The updates of State -/

theorem marks_setTask (s : State) (t : Nat) (x : TaskSt) (h : (x.stopped, x.retired, x.first) = s.marks t) : (setTask s t x).marks = s.marks := by
  refine funext fun k => ?_
  change ((taskOf (setTask s t x) k).stopped, (taskOf (setTask s t x) k).retired, (taskOf (setTask s t x) k).first) = _
  rw [taskOf_setTask]
  split
  next hk => exact hk ▸ h
  next => rfl

theorem office_setTask (s : State) (t : Nat) (x : TaskSt) (h : (x.stopped, x.retired, x.first) = s.marks t) : (setTask s t x).office = s.office := by
  have hmarks := marks_setTask s t x h
  unfold State.office State.settled
  rw [hmarks]
  rfl

theorem office_setPend (s : State) (t : Nat) (a : Option Activation) : (setTask s t { taskOf s t with pend := a }).office = s.office :=
  office_setTask _ _ _ rfl

@[simp] theorem office_setLive (s : State) (a : Nat) (w : Word) (h : OffProgs a) : (setLive s a w).office = s.office :=
  Prod.ext rfl (funext fun p => liveOf_setLive_of_ne (h.ne_tskPEvt p))
@[simp] theorem office_setEvt (s : State) (a i : Nat) (h : OffProgs a) : (setEvt s a i).office = s.office := office_setLive _ _ _ h
@[simp] theorem office_bump (s : State) (a hi lo n : Nat) (h : OffProgs a) : (bump s a hi lo n).office = s.office := office_setLive _ _ _ h
@[simp] theorem office_bump32 (s : State) (a : Nat) (h : OffProgs a) : (bump32 s a).office = s.office := office_setLive _ _ _ h
@[simp] theorem office_ptrSum (s : State) (i : Nat) : (ptrSum s i).office = s.office := office_setEvt _ _ _ offProgs_diagPtrSum
@[simp] theorem office_guardFault (s : State) (i : Nat) : (guardFault s i).office = s.office := office_setEvt _ _ _ (offProgs_block i)
@[simp] theorem office_setForce (s : State) (a : Nat) (w : Word) : (setForce s a w).office = s.office := rfl
@[simp] theorem office_setShadow (s : State) (a : Nat) (w : Word) : (setShadow s a w).office = s.office := rfl
@[simp] theorem office_markDirty (s : State) (a n : Nat) : (markDirty s a n).office = s.office := rfl
@[simp] theorem office_pokeBytes (s : State) (a : Nat) (bs : List Byte) : (pokeBytes s a bs).office = s.office := rfl
@[simp] theorem office_memError (s : State) (i : Nat) : (memError s i).office = s.office := rfl
@[simp] theorem office_gse (s : State) (x : GseSt) : State.office { s with gse := x } = s.office := rfl
@[simp] theorem office_tmx (s : State) (x : TmxSt) : State.office { s with tmx := x } = s.office := rfl
@[simp] theorem office_drc (s : State) (x : DrcSt) : State.office { s with drc := x } = s.office := rfl
@[simp] theorem office_cmd (s : State) (x : CmdSt) : State.office { s with cmd := x } = s.office := rfl
@[simp] theorem office_sca (s : State) (x : ScaSt) : State.office { s with sca := x } = s.office := rfl
@[simp] theorem office_order (s : State) (n : Nat) : State.office { s with tsk := { s.tsk with order := n } } = s.office := rfl
@[simp] theorem office_badCore (s : State) (l : List (Nat × Bool)) : State.office { s with tsk := { s.tsk with badCore := l } } = s.office := rfl
@[simp] theorem office_carry (s : State) (l : List Nat) : State.office { s with tsk := { s.tsk with carry := l } } = s.office := rfl
@[simp] theorem office_applyDue (s : State) (l : List Nat) : State.office { s with tsk := { s.tsk with applyDue := l } } = s.office := rfl
@[simp] theorem office_setForceSt (s : State) (p e : Nat) (x : ForceSt) : (setForceSt s p e x).office = s.office := rfl

/-! ### Posts, accesses and stores -/

@[simp] theorem office_almPost (s : State) (sev src code : Nat) (pid : Option Nat) (info : List Word) : (almPost s sev src code pid info).office = s.office :=
  office_of_storeFrame (storeFrame_eq_of_postFrame (postFrame_almPost ..)) fun _ ha => liveOf_almPost ha.1 ..
@[simp] theorem office_hnqPost (s : State) (p cls src code info : Nat) : (hnqPost s p cls src code info).office = s.office :=
  Prod.ext (congrArg State.settled (postFrame_hnqPost s p cls src code info) :) (funext fun q =>
    liveOf_hnqPost_of_ne (offStores_tskPEvt q).1 ⟨(offProgs_hnqEvt p).ne_tskPEvt q, (offProgs_hnqLost p).ne_tskPEvt q⟩ ..)
@[simp] theorem office_notifyAll (s : State) (mask : Word) (cls src code info : Nat) : (notifyAll s mask cls src code info).office = s.office := by
  unfold notifyAll
  exact foldl_frame (h := fun u : State => u.office) _ _ (fun t x => by split <;> simp) _
@[simp] theorem office_violate (s : State) (t : Tag) (wr : Bool) (a kd : Nat) : (violate s t wr a kd).office = s.office :=
  office_of_storeFrame (storeFrame_violate ..) fun _ ha => liveOf_violate ha ..
@[simp] theorem office_dramStall (s : State) (a n : Nat) : (dramStall s a n).office = s.office :=
  office_of_storeFrame (storeFrame_dramStall ..) fun _ _ => liveOf_dramStall ..
@[simp] theorem office_wrBytes (s : State) (a : Nat) (bs : List Byte) : (wrBytes s a bs).office = s.office :=
  office_of_storeFrame (storeFrame_wrBytes ..) fun _ ha => liveOf_wrBytes ha ..
@[simp] theorem office_memCe (s : State) (a : Nat) : (memCe s a).office = s.office := by simp [memCe]
@[simp] theorem office_memUe (s : State) (a : Nat) : (memUe s a).office = s.office := by simp [memUe]
@[simp] theorem office_eccRead (s : State) (a n : Nat) : (eccRead s a n).1.office = s.office := by
  unfold eccRead
  exact foldl_frame (h := fun u : State => u.office) _ _ (fun t x => by split <;> simp) _
@[simp] theorem office_dmaAccess (s : State) (i : Nat) (t : Tag) (wr : Bool) (a n : Nat) : (dmaAccess s i t wr a n).1.office = s.office := by
  unfold dmaAccess
  dsimp only
  split
  · simp
  · split
    · simp
    · split <;> simp
@[simp] theorem office_dmaRead (s : State) (i : Nat) (t : Tag) (a n : Nat) : (dmaRead s i t a n).2.office = s.office := office_dmaAccess ..
@[simp] theorem office_dmaWrite (s : State) (i : Nat) (t : Tag) (a : Nat) (bs : List Byte) : (dmaWrite s i t a bs).office = s.office := by
  unfold dmaWrite
  dsimp only
  split <;> simp

/-! ### The recorder, event tasks, orders and publications -/

@[simp] theorem office_setSeg (s : State) (i : Nat) (g : Seg) : (setSeg s i g).office = s.office := rfl

@[simp] theorem office_setCur (s : State) (c : Option Nat) : (setCur s c).office = s.office := rfl

@[simp] theorem office_drcRefused (s : State) : (drcRefused s).office = s.office := by simp [drcRefused]

@[simp] theorem office_drcWrite (s : State) (a : Nat) (bs : List Byte) : (drcWrite s a bs).office = s.office := by
  unfold drcWrite
  dsimp only
  split <;> simp

@[simp] theorem office_drcBytes (s : State) (a n : Nat) : (drcBytes s a n).2.office = s.office := by
  unfold drcBytes
  dsimp only
  split <;> simp

@[simp] theorem office_drcCount (s : State) (i : Nat) : (drcCount s i).office = s.office := by simp [drcCount]

@[simp] theorem office_drcHeader (s : State) (i : Nat) : (drcHeader s i).office = s.office := by simp [drcHeader]

@[simp] theorem office_drcArm (s : State) : (drcArm s).office = s.office := by
  unfold drcArm
  dsimp only
  split
  · simp
  · split <;> simp

@[simp] theorem office_holdOff (s : State) : (holdOff s).office = s.office := by
  unfold holdOff
  dsimp only
  split <;> simp

@[simp] theorem office_drcClose (s : State) (i : Nat) : (drcClose s i).office = s.office := by simp [drcClose]

@[simp] theorem office_moveRows (s : State) (g : Nat) : (moveRows s g).office = s.office := by
  unfold moveRows
  dsimp only
  split
  · rfl
  · exact foldl_frame (h := fun u : State => u.office) _ _ (fun t x => by simp) _

@[simp] theorem office_drcTrigger (s : State) (ty ix t : Nat) (row : Word) : (drcTrigger s ty ix t row).office = s.office := by
  unfold drcTrigger
  dsimp only
  repeat' split
  all_goals simp

@[simp] theorem office_flagTriggers (s : State) (f : Nat) (v : Bool) : (flagTriggers s f v).office = s.office := by
  unfold flagTriggers
  refine foldl_frame (h := fun u : State => u.office) _ _ (fun t x => ?_) _
  dsimp only
  rw [apply_ite (fun u : State => u.office), office_drcTrigger, ite_self]

@[simp] theorem office_postOwner (s : State) (o : Option Nat) (cls src code info : Nat) : (postOwner s o cls src code info).office = s.office := by
  unfold postOwner
  split <;> simp

@[simp] theorem office_setActQ (s : State) (k : Nat) (q : Q Unit) : (setActQ s k q).office = s.office := rfl

@[simp] theorem office_actIn (s : State) (k : Nat) : (actIn s k).office = s.office := rfl

@[simp] theorem office_taskDropped (s : State) (t : Nat) : (taskDropped s t).office = s.office := by
  unfold taskDropped
  dsimp only
  split <;> simp

@[simp] theorem office_unpend (s : State) (t : Nat) : (unpend s t).office = s.office := office_setPend ..

@[simp] theorem office_actPtrReset (s : State) (k : Nat) : (actPtrReset s k).office = s.office := by
  unfold actPtrReset
  refine (foldl_frame (h := fun u : State => u.office) _ _ (fun t x => by split <;> simp) _).trans ?_
  rw [office_almPost, office_ptrSum, office_setEvt _ _ _ offProgs_tskEvt, office_setActQ]
  exact foldl_frame (h := fun u : State => u.office) _ _ (fun t x => by split <;> simp) _

@[simp] theorem office_actCheck (s : State) (k : Nat) : (actCheck s k).office = s.office := by
  unfold actCheck
  split <;> simp

@[simp] theorem office_noCore (s : State) (t : Nat) : (noCore s t).office = s.office := by
  unfold noCore
  dsimp only
  split
  · exact office_setEvt _ _ _ offProgs_tskEvt
  · rw [office_postOwner, office_almPost, office_badCore, office_setEvt _ _ _ offProgs_tskEvt]

@[simp] theorem office_coreBack (s : State) (t : Nat) : (coreBack s t).office = s.office := rfl

@[simp] theorem office_activate (s : State) (t : Nat) (g n rt : Word) : (activate s t g n rt).office = s.office := by
  unfold activate
  dsimp only
  split
  · rfl
  · split
    · rfl
    · split
      · exact office_noCore ..
      · refine (office_setPend ..).trans ?_
        split
        · rw [office_taskDropped, office_order, office_actCheck, office_coreBack]
        · rw [office_actIn, office_order, office_actCheck, office_coreBack]

@[simp] theorem office_fireEvent (s : State) (src num : Nat) (edge : Option Bool) (p : Option Nat) : (fireEvent s src num edge p).office = s.office := by
  unfold fireEvent
  refine foldl_frame (h := fun u : State => u.office) _ _ (fun t x => ?_) _
  dsimp only
  split
  · rfl
  · rw [apply_ite (fun u : State => u.office), office_activate, ite_self]

@[simp] theorem office_cmdOrder (s : State) (d : Order) : (cmdOrder s d).office = s.office := rfl

@[simp] theorem office_cmdFlag (s : State) (f : Nat) : (cmdFlag s f).office = s.office := by
  unfold cmdFlag
  exact foldl_frame (h := fun u : State => u.office) _ _ (fun t x => by simp) _

@[simp] theorem office_setPub (s : State) (p : Nat) (g : GPub) : (setPub s p g).office = s.office := rfl

@[simp] theorem office_flagReset (s : State) (f : Nat) : (flagReset s f).office = s.office := by
  unfold flagReset
  exact foldl_frame (h := fun u : State => u.office) _ _ (fun t x => by
    dsimp only
    split <;> simp) _

@[simp] theorem office_gseRead (s : State) (own : Option Nat) (a : Nat) : (gseRead s own a).2.office = s.office := by
  unfold gseRead
  dsimp only
  split <;> simp

@[simp] theorem office_memberVal (s : State) (own : Option Nat) (mer : Bool) (w : Word) (prev : Word × Word) (ts : Nat) : (memberVal s own mer w prev ts).2.office = s.office := by
  unfold memberVal
  split
  · rfl
  · rfl
  · split <;> rfl
  · split <;> simp

@[simp] theorem office_memberVals (s : State) (own : Option Nat) (mer : Bool) (g : GPub) (t : Nat) : (memberVals s own mer g t).2.2.2.office = s.office := by
  unfold memberVals
  refine List.foldlRecOn (motive := fun r : List (Word × Word) × List (Nat × Nat) × Bool × State => r.2.2.2.office = s.office) _ _ rfl fun r hr m _ => ?_
  simpa using hr

@[simp] theorem office_gsePtrReset (s : State) (p : Nat) : (gsePtrReset s p).office = s.office := by simp [gsePtrReset]

@[simp] theorem office_gpSend (s : State) (p : Nat) : (gpSend s p).office = s.office := by
  unfold gpSend
  dsimp only
  repeat' split
  all_goals simp

@[simp] theorem office_gpEvent (s : State) (p : Nat) (vals : List (Word × Word)) (ch : List (Nat × Nat)) (t : Nat) : (gpEvent s p vals ch t).office = s.office := by simp [gpEvent]

@[simp] theorem office_gpFlag (s : State) (f p : Nat) : (gpFlag s f p).office = s.office := by
  unfold gpFlag
  dsimp only
  split
  · split <;> simp
  · rfl

@[simp] theorem office_gseFlag (s : State) (f : Nat) : (gseFlag s f).office = s.office := by
  unfold gseFlag
  exact foldl_frame (h := fun u : State => u.office) _ _ (fun t x => by simp) _

@[simp] theorem office_setLane (s : State) (n : Nat) (l : Lane) : (setLane s n l).office = s.office := rfl

@[simp] theorem office_laneGuard (s : State) (n : Nat) : (laneGuard s n).office = s.office := by
  unfold laneGuard
  split <;> simp

@[simp] theorem office_laneUpdate (s : State) (n : Nat) : (laneUpdate s n).office = s.office := by
  unfold laneUpdate
  dsimp only
  split <;> simp

@[simp] theorem office_lanesUpdate (s : State) : (lanesUpdate s).office = s.office := by
  unfold lanesUpdate upto
  refine (foldl_frame (h := fun u : State => u.office) _ _ (fun t n => office_laneUpdate t n) _).trans ?_
  split
  · rfl
  · rw [office_setEvt _ _ _ offProgs_tmxEvt, office_tmx]

@[simp] theorem office_flagChanged (s : State) (f : Nat) (v : Bool) : (flagChanged s f v).office = s.office := by
  unfold flagChanged
  dsimp only
  split <;> simp


end Sys2Proof.Machine
end

section
/-! SUPPORT. What the forces, the plinth and the images leave of the programs (R386, R387, R394, R397, R402 to R406). -/

namespace Sys2Proof.Machine

variable (s : State)

/-! ### Images and the plinth -/

@[simp] theorem office_dmaCopy (i : Nat) (t : Tag) (src dst n : Nat) (s : State) : (dmaCopy i t src dst n s).office = s.office := by
  induction n generalizing src dst s with
  | zero => rfl
  | succ n ih => exact (ih ..).trans ((office_dmaWrite ..).trans (office_dmaRead ..))

theorem office_copyLines (src dst n : Nat) (s : State) : (copyLines src dst n s).1.office = s.office := by
  induction n generalizing src dst s with
  | zero => rfl
  | succ n ih =>
    unfold copyLines
    dsimp only
    split
    · exact office_dmaAccess ..
    · exact (ih ..).trans ((office_wrBytes ..).trans (office_dmaAccess ..))

theorem office_copyCode (segs : List Segment) (pay : Nat) : (copyCode s segs pay).1.office = s.office := by
  unfold copyCode
  refine List.foldlRecOn (motive := fun r : State × Nat => r.1.office = s.office) _ _ rfl fun r hr g _ => ?_
  dsimp only
  split
  · exact hr
  · split
    · exact hr
    · exact (office_copyLines ..).trans hr

@[simp] theorem office_tskMove (p src dst n : Nat) : (tskMove s p src dst n).office = s.office := (office_dmaWrite ..).trans (office_dmaRead ..)

@[simp] theorem office_initSeg (p pay : Nat) (g : Segment) : (initSeg s p pay g).office = s.office := office_dmaCopy ..

@[simp] theorem office_carryEntry (p : Nat) (o n : IdEnt) : (carryEntry s p o n).office = s.office := by
  unfold carryEntry
  dsimp only
  split <;> simp

theorem office_initSegs (p pay : Nat) (l : List Segment) : (l.foldl (fun v g => initSeg v p pay g) s).office = s.office :=
  foldl_frame (h := State.office) _ _ (fun u g => office_initSeg u p pay g) s

theorem office_carryEntries (p : Nat) (l : List (IdEnt × IdEnt)) : (l.foldl (fun v e => carryEntry v p e.1 e.2) s).office = s.office :=
  foldl_frame (h := State.office) _ _ (fun u (e : IdEnt × IdEnt) => office_carryEntry u p e.1 e.2) s

@[simp] theorem office_plinthRead (p : Nat) : (plinthRead s p).office = s.office := by
  unfold plinthRead
  split
  · rfl
  · exact foldl_frame (h := State.office) _ _ (fun u a => by
      dsimp only
      split <;> simp) s

theorem office_plinthRewrite (p : Nat) (g : Program) : (plinthRewrite s p g).office = s.office := by
  unfold plinthRewrite
  split
  · rfl
  · refine (office_dmaWrite ..).trans ((office_dmaWrite ..).trans ?_)
    exact Eq.trans (foldl_frame (h := State.office) _ _ (fun u e => office_tskMove u ..) _) (office_plinthRead s p)

/-! ### What comes after -/

theorem evt_of_office {s t : State} (h : t.office = s.office) (p : Fin 32) (i : Nat) : evt t (R.tskPEvt p) i = evt s (R.tskPEvt p) i :=
  congrArg (fun w => bit w i) (congrFun (congrArg Prod.snd h) p)

/-- `h` holds as before, and no event bit of a program is cleared. -/
def Onward {β : Type} (h : State → β) (s t : State) : Prop :=
  h t = h s ∧ ∀ (p : Fin 32) (i : Nat), evt s (R.tskPEvt p) i = true → evt t (R.tskPEvt p) i = true

section
variable {β : Type} {h : State → β} {s t u : State}

theorem Onward.trans (hst : Onward h s t) (htu : Onward h t u) : Onward h s u :=
  ⟨htu.1.trans hst.1, fun p i he => htu.2 p i (hst.2 p i he)⟩

theorem onward_refl : Onward h s s := ⟨rfl, fun _ _ he => he⟩

theorem onward_of_office (ho : t.office = s.office) : Onward State.settled s t :=
  ⟨congrArg Prod.fst ho, fun p i he => (evt_of_office ho p i).trans he⟩

theorem onward_setEvt (s : State) (a i : Nat) : Onward State.settled s (setEvt s a i) := ⟨rfl, fun _ _ he => evt_setEvt_of_evt he⟩

theorem Onward.of_settled {γ : Type} {g : State → γ} (hg : ∀ s t : State, t.settled = s.settled → g t = g s) (hst : Onward State.settled s t) :
    Onward g s t :=
  ⟨hg s t hst.1, hst.2⟩

theorem onward_foldl {α : Type} (f : State → α → State) (l : List α) (hf : ∀ u x, Onward h u (f u x)) (s : State) : Onward h s (l.foldl f s) :=
  List.foldlRecOn (motive := fun u => Onward h s u) l f onward_refl fun u hu x _ => hu.trans (hf u x)

end

/-- The table of the partitions' programs. -/
def State.table (s : State) : List (Nat × TskPart) := s.tsk.parts

theorem table_of_settled (s t : State) (h : t.settled = s.settled) : t.table = s.table := (congrArg (fun x => x.2.2.2.1) h :)
theorem table_of_office {s t : State} (h : t.office = s.office) : t.table = s.table := (congrArg (fun x => x.1.2.2.2.1) h :)
theorem partOf_of_table {s t : State} (h : t.table = s.table) (p : Nat) : partOf t p = partOf s p := congrArg (fun l => mget ({} : TskPart) l p) h
theorem partOf_of_office {s t : State} (h : t.office = s.office) (p : Nat) : partOf t p = partOf s p := partOf_of_table (table_of_office h) p

/-! ### Forces -/

@[simp] theorem office_flagForce (f : Nat) (v : Option Bool) : (flagForce s f v).office = s.office := by
  unfold flagForce
  dsimp only
  split <;> split <;> simp

@[simp] theorem office_forceRemove (p e : Nat) : (forceRemove s p e).office = s.office := by
  unfold forceRemove
  dsimp only
  split <;> simp

theorem onward_forceGuard (p e : Nat) : Onward State.settled s (forceGuard s p e) :=
  (onward_of_office ((office_forceRemove (guardFault s 0x0D) p e).trans (office_guardFault ..))).trans
    ((onward_setEvt _ _ 8).trans (onward_of_office ((office_hnqPost ..).trans (office_almPost ..))))

theorem onward_forceResolve (p e : Nat) : Onward State.settled s (forceResolve s p e) := by
  unfold forceResolve
  dsimp only
  split
  · exact onward_forceGuard s p e
  · split
    · split
      · exact onward_of_office rfl
      · split
        · exact onward_refl
        · exact (onward_of_office rfl).trans ((onward_setEvt (setForceSt s p e { state := 3 }) _ 7).trans
            (onward_of_office ((office_hnqPost ..).trans (office_almPost ..))))
    · exact onward_of_office (by simp)
    · exact onward_of_office rfl

theorem onward_forcesMeridian (p : Nat) : Onward State.settled s (forcesMeridian s p) := by
  unfold forcesMeridian
  dsimp only
  refine Onward.trans (onward_of_office ?_) (onward_foldl _ _ (fun u e => onward_forceResolve u p e) _)
  refine Eq.trans (foldl_frame (h := State.office) _ _ (fun u f => ?_) _) (foldl_frame (h := State.office) _ _ (fun u e => ?_) s)
  · rw [apply_ite State.office, office_flagForce, ite_self]
  · rw [apply_ite State.office, office_setForceSt, ite_self]

theorem onward_forcesSwitch (p : Nat) (old new : Program) : Onward State.settled s (forcesSwitch s p old new).1 := by
  unfold forcesSwitch
  refine List.foldlRecOn (motive := fun r : State × Nat => Onward State.settled s r.1) _ _ onward_refl fun r hr e _ => ?_
  dsimp only
  split
  · exact hr
  · split
    · exact hr
    · exact hr.trans ((onward_of_office (office_forceRemove ..)).trans ((onward_setEvt _ _ 6).trans
        (onward_of_office ((office_hnqPost ..).trans (office_almPost ..)))))

theorem onward_holdAll (p : Nat) (b : Bool) : Onward State.table s (holdAll s p b) := by
  unfold holdAll
  refine onward_foldl _ _ (fun u e => ?_) s
  dsimp only
  split
  · exact ⟨rfl, fun _ _ he => he⟩
  · exact onward_refl

theorem onward_attemptOver (p : Nat) : Onward State.table s (attemptOver s p) :=
  ((onward_forcesMeridian s p).of_settled table_of_settled).trans (onward_holdAll _ p false)

end Sys2Proof.Machine
end

section
/-! The ends of LOAD, PREPARE, restarts and attempts to switch, the lines to the plinth, the forces applied (O50; R383, R386, R393 to R399, R403). -/

namespace Sys2Proof.Machine

variable (s : State)

theorem partOf_modPart (p : Nat) (f : TskPart → TskPart) : partOf (modPart s p f) p = f (partOf s p) := partOf_setPart_self ..

theorem partOf_cmdErr (p e : Nat) : partOf (cmdErr s p e) p = { partOf s p with err := e } := partOf_modPart s p fun x => { x with err := e }

theorem evt_cmdErr (p e : Nat) : evt (cmdErr s p e) (R.tskPEvt p) 9 = true := evt_setEvt_self (by decide)

section
variable (p : Fin 32)

/-! ### LOAD and PREPARE -/

/-- A module that is no standby installs nothing on its own (R554). -/
theorem exec_loadDone {u : State} (hu : loadDone s p = u) (hrole : u.mir.role ≠ .standby) : exec (.loadDone p) s = .next u := by
  refine congrArg Host.Outcome.next ?_
  dsimp only
  rw [hu]
  split
  · rfl
  · exact if_pos hrole

theorem loadDone_holds {g : Program} (hrole : s.mir.role ≠ .standby) (hmq : (partOf s p).mq = .loading) (hmaq : (partOf s p).maq = some g) (hload : s.pcx.load = none) :
    let r := copyCode s g.segs g.addr
    (r.2 = 0 → Answers (exec (.loadDone p) s) fun t => partOf t p = { partOf s p with mq := .loaded } ∧ t.mem = r.1.mem) ∧
    (r.2 ≠ 0 → Answers (exec (.loadDone p) s) fun t => evt t (R.tskPEvt p) 9 = true ∧
      partOf t p = { partOf s p with mq := .none, maq := none, series := none, attemptAt := none, attemptBad := none, err := r.2 }) := by
  have hstep : loadDone s p = if (copyCode s g.segs g.addr).2 = 0 then modPart (copyCode s g.segs g.addr).1 p fun x => { x with mq := .loaded }
      else cmdErr (modPart (copyCode s g.segs g.addr).1 p dropMaq) p (copyCode s g.segs g.addr).2 := by
    simp only [loadDone, hmq, hmaq, hload]
  have hcopied := office_copyCode s g.segs g.addr
  have hpart := partOf_of_office hcopied p
  have hrole : (copyCode s g.segs g.addr).1.mir.role ≠ .standby := fun h => hrole ((congrArg (fun x => x.1.2.1.role) hcopied :).symm.trans h)
  intro r
  refine ⟨fun hok => ⟨_, exec_loadDone s p (hstep.trans (if_pos hok)) hrole, ?_, rfl⟩,
    fun hbad => ⟨_, exec_loadDone s p (hstep.trans (if_neg hbad)) hrole, evt_cmdErr .., ?_⟩⟩
  · rw [partOf_modPart, hpart]
  · rw [partOf_cmdErr, partOf_modPart, hpart]
    rfl

theorem loadDone_of_none (hrole : s.mir.role ≠ .standby) (h : (partOf s p).mq ≠ .loading ∨ (partOf s p).maq = none ∨ s.pcx.load ≠ none) : exec (.loadDone p) s = .next s := by
  refine exec_loadDone s p ?_ hrole
  unfold loadDone
  dsimp only
  split
  next hmq hmaq hload => exact absurd h (by simp [hmq, hmaq, hload])
  next => rfl

theorem prepareDone_holds {old new : Program} (hmq : (partOf s p).mq = .preparing) (hold : (partOf s p).prog = some old)
    (hnew : (partOf s p).maq = some new) :
    let built := (matches_ old new).foldl (fun v e => carryEntry v p e.1 e.2) (new.segs.foldl (fun v g => initSeg v p new.addr g) s)
    Answers (exec (.prepareDone p) s) fun t => partOf t p = { partOf s p with mq := .prepared } ∧ evt t (R.tskPEvt p) 0 = true ∧
      t.mem = built.mem ∧ t.tsk.carry = s.tsk.carry := by
  intro built
  have hpart : partOf built p = partOf s p := partOf_of_office ((office_carryEntries ..).trans (office_initSegs ..)) p
  have hexec : exec (.prepareDone p) s = .next (setEvt (modPart { built with tsk := { built.tsk with carry := s.tsk.carry } } p
      fun x => { x with mq := .prepared }) (R.tskPEvt p) 0) := by
    refine congrArg Host.Outcome.next ?_
    simp only [hmq, hold, hnew]
    rfl
  refine ⟨_, hexec, ?_, evt_setEvt_self (by decide), rfl, rfl⟩
  exact (partOf_modPart { built with tsk := { built.tsk with carry := s.tsk.carry } } p (fun x => { x with mq := .prepared })).trans
    (congrArg (fun x : TskPart => { x with mq := .prepared }) hpart)

theorem prepareDone_of_not (h : (partOf s p).mq ≠ .preparing) : exec (.prepareDone p) s = .next s := by
  refine congrArg Host.Outcome.next ?_
  dsimp only
  split
  next hmq _ _ => exact absurd hmq h
  next => rfl

end

/-! ### Restarts -/

/-- A task of a program that restarts. -/
def taskRestarted (code : Nat) (s : State) (e : Nat × TaskDef) : State :=
  let s := setTask s e.1 { taskOf s e.1 with stopped := false, first := code, retired := false }
  { s with pcx := { s.pcx with aborts := mset 0 s.pcx.aborts e.1 0 } }

theorem marks_taskRestarted (code : Nat) (e : Nat × TaskDef) (k : Nat) :
    (taskRestarted code s e).marks k = if k = e.1 then (false, false, code) else s.marks k := by
  have hset := taskOf_setTask s e.1 { taskOf s e.1 with stopped := false, first := code, retired := false } k
  change ((taskOf (setTask s e.1 _) k).stopped, (taskOf (setTask s e.1 _) k).retired, (taskOf (setTask s e.1 _) k).first) = _
  rw [hset]
  split <;> rfl

theorem pstop_of_settled {s t : State} (h : t.settled = s.settled) : t.pcx.pstop = s.pcx.pstop := (congrArg (fun x => x.2.2.2.2.1) h :)
theorem marks_of_settled {s t : State} (h : t.settled = s.settled) : t.marks = s.marks := (congrArg (fun x => x.2.2.2.2.2) h :)

theorem marks_tasksRestarted (code : Nat) (l : List (Nat × TaskDef)) {e : Nat × TaskDef} (he : e ∈ l) :
    (l.foldl (taskRestarted code) s).marks e.1 = (false, false, code) := by
  have hkept (l : List (Nat × TaskDef)) (u : State) (h : u.marks e.1 = (false, false, code)) : (l.foldl (taskRestarted code) u).marks e.1 = (false, false, code) :=
    List.foldlRecOn (motive := fun u : State => u.marks e.1 = (false, false, code)) l _ h fun u hu x _ => by
      rw [marks_taskRestarted, hu, ite_self]
  induction l generalizing s with
  | nil => cases he
  | cons x l ih =>
    rw [List.foldl_cons]
    cases he with
    | head => exact hkept l _ ((marks_taskRestarted ..).trans (if_pos rfl))
    | tail _ hmem => exact ih _ hmem

theorem parts_tasksRestarted (code : Nat) (l : List (Nat × TaskDef)) :
    (l.foldl (taskRestarted code) s).tsk.parts = s.tsk.parts ∧ (l.foldl (taskRestarted code) s).pcx.pstop = s.pcx.pstop :=
  Prod.ext_iff.mp (foldl_frame (h := fun u : State => (u.tsk.parts, u.pcx.pstop)) (taskRestarted code) l (fun _ _ => rfl) s)

/-- The images, the retentive lines, the timers and edges of a restart (R383, R384). -/
def imagesRestarted (p : Nat) (o : PartOp) (g : Program) : State :=
  let s := g.segs.foldl (fun s e => initSeg s p g.addr e) s
  let s := if o = .warm then plinthRestore s p g else s
  if o = .warm then
    (g.ids.filter fun i => i.kind == 2 || i.kind == 3).foldl (fun s i => dmaWrite s 0x0D (tskTag s p) (idAddr i + 4) (leBytes 4 0)) s
  else s

/-- The tasks of a restart, run again (R383). -/
def partRestarted (p : Nat) (code : Nat) (g : Program) : State :=
  let s := { s with pcx := { s.pcx with pstop := s.pcx.pstop &&& ~~~(word (2 ^ p)) } }
  let s := (s.tsk.tasks.filter fun e => ownerOf s 3 e.1 == some p && e.2.stopped).foldl (fun s e => setTask s e.1 { e.2 with stopped := false }) s
  modPart (g.tasks.foldl (taskRestarted code) s) p fun x => { x with pstate := .running, startKind := none, lastStart := code }

theorem restartDone_eq (p : Nat) {o : PartOp} {g : Program} (hkind : (partOf s p).startKind = some o) (hprog : (partOf s p).prog = some g)
    (hstate : (partOf s p).pstate = .starting) :
    let code := if o = .warm then 1 else 2
    let u := forcesMeridian (partRestarted (imagesRestarted s p o g) p code g) p
    restartDone s p = hnqPost (almPost (setEvt (if o = .cold then plinthRewrite u p g else u) (R.tskPEvt p) 4) 2 0x0D 0x13 (some p) [word code]) p 1 0x0D 0x13 code := by
  intro code u
  unfold restartDone
  dsimp only
  rw [hkind, hprog, hstate]
  rfl

/-- What a restart leaves of its partition and its tasks before the forces and posts (R383). -/
theorem partRestarted_holds (p : Fin 32) (code : Nat) (g : Program) :
    let t := partRestarted s p code g
    partOf t p = { partOf s p with pstate := .running, startKind := none, lastStart := code } ∧ bit t.pcx.pstop p = false ∧
      ∀ e ∈ g.tasks, t.marks e.1 = (false, false, code) := by
  unfold partRestarted
  dsimp only
  generalize hu : { s with pcx := { s.pcx with pstop := s.pcx.pstop &&& ~~~(word (2 ^ p.val)) } } = u
  have hstarted : u.tsk.parts = s.tsk.parts ∧ u.pcx.pstop = s.pcx.pstop &&& ~~~(word (2 ^ p.val)) := by rw [← hu]; exact ⟨rfl, rfl⟩
  generalize hv : List.foldl _ u _ = v
  have hcleared : v.tsk.parts = u.tsk.parts ∧ v.pcx.pstop = u.pcx.pstop := by
    rw [← hv]
    exact Prod.ext_iff.mp (foldl_frame (h := fun u : State => (u.tsk.parts, u.pcx.pstop))
      (fun (s : State) (e : Nat × TaskSt) => setTask s e.1 { e.2 with stopped := false }) _ (fun _ _ => rfl) u)
  have htasks := parts_tasksRestarted v code g.tasks
  refine ⟨(partOf_modPart ..).trans ?_, ?_, fun e he => marks_tasksRestarted v code g.tasks he⟩
  · rw [partOf, htasks.1, hcleared.1, hstarted.1]
    rfl
  · change bit (List.foldl (taskRestarted code) v g.tasks).pcx.pstop p = false
    rw [htasks.2, hcleared.2, hstarted.2, bit_andNot _ p.isLt]
    simp

theorem exec_restartDone (p : Fin 32) (hrun : s.time.tickRun = true) : exec (.restartDone p) s = .next (restartDone s p) := by
  refine congrArg (fun u => Host.Outcome.next (restartDone u p)) ?_
  unfold restartStopped
  split
  · exact if_pos hrun
  · rfl

/-- The forces, the plinth and the posts after the tasks run again change nothing of them (R383). -/
theorem onward_restartDone (p : Fin 32) {o : PartOp} {g : Program} (hkind : (partOf s p).startKind = some o) (hprog : (partOf s p).prog = some g)
    (hstate : (partOf s p).pstate = .starting) :
    Onward State.settled (partRestarted (imagesRestarted s p o g) p (if o = .warm then 1 else 2) g) (restartDone s p) ∧
      evt (restartDone s p) (R.tskPEvt p) 4 = true := by
  have hrewrite (u : State) : (if o = .cold then plinthRewrite u p g else u).office = u.office := by
    split
    · exact office_plinthRewrite ..
    · rfl
  have hposts (u : State) (code : Nat) : (hnqPost (almPost u 2 0x0D 0x13 (some p.val) [word code]) p 1 0x0D 0x13 code).office = u.office :=
    (office_hnqPost ..).trans (office_almPost ..)
  rw [restartDone_eq s p hkind hprog hstate]
  exact ⟨(onward_forcesMeridian ..).trans ((onward_of_office (hrewrite _)).trans ((onward_setEvt ..).trans (onward_of_office (hposts ..)))),
    (onward_of_office (hposts ..)).2 p 4 (evt_setEvt_self (by decide))⟩

theorem taskOf_of_marks {t : State} {k n : Nat} {a b : Bool} (h : t.marks k = (a, b, n)) :
    (taskOf t k).stopped = a ∧ (taskOf t k).retired = b ∧ (taskOf t k).first = n := by
  simpa [State.marks] using h

theorem restartDone_holds (p : Fin 32) (hrun : s.time.tickRun = true) {o : PartOp} {g : Program} (hkind : (partOf s p).startKind = some o)
    (hprog : (partOf s p).prog = some g) (hstate : (partOf s p).pstate = .starting) :
    let code := if o = .warm then 1 else 2
    Answers (exec (.restartDone p) s) fun t => (partOf t p).pstate = .running ∧ (partOf t p).startKind = none ∧
      (partOf t p).lastStart = code ∧ evt t (R.tskPEvt p) 4 = true ∧ bit t.pcx.pstop p = false ∧
      ∀ e ∈ g.tasks, (taskOf t e.1).stopped = false ∧ (taskOf t e.1).retired = false ∧ (taskOf t e.1).first = code := by
  intro code
  obtain ⟨hpart, hstop, hmarks⟩ := partRestarted_holds (imagesRestarted s p o g) p code g
  obtain ⟨⟨hsettled, -⟩, hevt⟩ := onward_restartDone s p hkind hprog hstate
  have hpart := (partOf_of_table (table_of_settled _ _ hsettled) p).trans hpart
  refine ⟨_, exec_restartDone s p hrun, ?_, ?_, ?_, hevt, ?_, fun e he => ?_⟩
  · rw [hpart]
  · rw [hpart]
  · rw [hpart]
  · rw [pstop_of_settled hsettled, hstop]
  · exact taskOf_of_marks ((congrFun (marks_of_settled hsettled) e.1).trans (hmarks e he))

theorem restartDone_of_none (p : Fin 32) (hrun : s.time.tickRun = true) (hkind : (partOf s p).startKind = none) : exec (.restartDone p) s = .next s := by
  refine (exec_restartDone s p hrun).trans (congrArg Host.Outcome.next ?_)
  unfold restartDone
  dsimp only
  rw [hkind]

/-! ### The plinth -/

theorem storeFrame_plinthRead (p : Nat) : storeFrame (plinthRead s p) = storeFrame s := by
  unfold plinthRead
  split
  · rfl
  · exact foldl_frame (h := storeFrame) _ _ (fun u a => by
      dsimp only
      split
      · exact (storeFrame_eq_of_postFrame (postFrame_guardFault ..)).trans (storeFrame_dmaRead ..)
      · exact storeFrame_dmaRead ..) s

theorem plinthLine_of_nil (h : s.tsk.round = []) : exec .plinthLineWrite s = .next s := by
  refine congrArg Host.Outcome.next ?_
  unfold plinthLine
  rw [h]

theorem plinthLine_holds {l : Nat} {d : List Byte} {rest : List (Nat × List Byte)} {q i : Nat} {b : Bool} (hround : s.tsk.round = (l, d) :: rest)
    (hplace : retPlace s l = some (q, i)) (hactive : plinthActive (plinthRead s q) q = some b) :
    let w := dmaWrite (plinthRead s q) 0x0D (tskTag s q) (plinthCopy s q b + 64 + i * 64) d
    (rest ≠ [] → exec .plinthLineWrite s = .next { w with tsk := { w.tsk with round := rest } }) ∧
    (rest = [] → exec .plinthLineWrite s = .next { w with tsk := { w.tsk with round := s.tsk.nextRound, nextRound := [] } }) := by
  intro w
  have hread := storeFrame_plinthRead s q
  have hcopy : dmaWrite (plinthRead s q) 0x0D (tskTag (plinthRead s q) q) (plinthCopy (plinthRead s q) q b + 64 + i * 64) d = w := by
    have htag : tskTag (plinthRead s q) q = tskTag s q := (congrArg (fun u => tskTag u q) hread :)
    have hplace : plinthCopy (plinthRead s q) q b = plinthCopy s q b := (congrArg (fun u => plinthCopy u q b) hread :)
    rw [htag, hplace]
  have hnext : w.tsk.nextRound = s.tsk.nextRound := (congrArg (fun u : State => u.tsk.nextRound) ((storeFrame_dmaWrite ..).trans hread) :)
  have hline : plinthLine s = if rest.isEmpty then { w with tsk := { w.tsk with round := w.tsk.nextRound, nextRound := [] } }
      else { w with tsk := { w.tsk with round := rest } } := by
    unfold plinthLine
    rw [hround]
    dsimp only
    rw [hplace]
    dsimp only
    rw [hactive]
    dsimp only
    rw [hcopy]
  refine ⟨fun hrest => congrArg Host.Outcome.next (hline.trans (if_neg (by simpa using hrest))), fun hrest => congrArg Host.Outcome.next ?_⟩
  rw [hline, if_pos (by simp [hrest]), hnext]

/-! ### Attempts to switch -/

section
variable (p : Fin 32) {at_ : Nat} {old new : Program}

/-- The attempt that began at `at_` succeeds (R396). -/
def mayEnd (p at_ : Nat) (old new : Program) (due : Nat) : Prop :=
  (partOf s p).attemptBad ∉ [some 2, some 10, some 12] ∧ due ≤ at_ + 50000 ∧ s.now ≤ at_ + 50000 ∧ coresIdle s old = true ∧ coresIdle s new = true

theorem attemptOk_iff : (attemptOk s (partOf s p) at_ old new).1 = true ↔ mayEnd s p at_ old new (attemptOk s (partOf s p) at_ old new).2 := by
  simp [attemptOk, mayEnd, and_assoc, Nat.max_le]

theorem parts_recarried (t dt n : Nat) (ls : List Nat) : (setCarry (recarry (reach s t) p old new ls) p dt n).tsk.parts = s.tsk.parts :=
  table_of_office (s := reach s t) ((office_setLive _ _ _ (offProgs_tskPCarry p)).trans
    ((office_carry _ _).trans (office_carryEntries (reach s t) p ((matches_ old new).filter fun e => (linesOf (idAddr e.1) e.1.size).any ls.contains))))

theorem le_now_recarried (t dt n : Nat) (ls : List Nat) : t ≤ (setCarry (recarry (reach s t) p old new ls) p dt n).now :=
  Nat.le_trans (le_now_reach t) (setCarry_keeps _ p dt n (recarry_keeps (reach s t) p old new ls (Keeps.refl _))).now

/-- A switch puts the new program in force (R398). -/
theorem switchDone_holds : partOf (switchDone s p old new) p =
      { partOf s p with prog := some new, img := (partOf s p).maqImg, mq := .none, maq := none, series := none, attemptAt := none, attemptBad := none
                        lastStart := 3, attempts := (partOf s p).attempts + 1 } ∧ evt (switchDone s p old new) (R.tskPEvt p) 1 = true := by
  have hpart : partOf (newTasks (flipBanks s new) (some old) new 3) p = partOf s p :=
    partOf_of_programs ((programs_newTasks ..).trans (programs_flipBanks ..)) p
  unfold switchDone
  extract_lets at_ u v w cs n e x y r
  have hforces : Onward State.settled y r.1 := onward_forcesSwitch y p old new
  have hposts : Onward State.settled e y := onward_of_office ((office_hnqPost ..).trans (office_almPost ..))
  have hend := hposts.trans (hforces.trans (onward_of_office (office_setLive r.1 (R.tskPDrop p) (word (min 0xFFFF n * 65536 + min 0xFFFF r.2)) (offProgs_tskPDrop p))))
  have hswitched := (onward_of_office (office_plinthRewrite v p new)).trans ((onward_setEvt w (R.tskPEvt p) 1).trans hend)
  refine ⟨(partOf_of_table (table_of_settled _ _ hswitched.1) p).trans ?_, hend.2 p 1 (evt_setEvt_self (by decide))⟩
  refine (partOf_modPart u p _).trans ?_
  rw [show partOf u p = partOf s p from hpart]
  rfl

theorem recarryDone_eq (hrun : s.time.tickRun = true) (hat : (partOf s p).attemptAt = some at_) (hold : (partOf s p).prog = some old)
    (hnew : (partOf s p).maq = some new) :
    let ok := attemptOk s (partOf s p) at_ old new
    exec (.recarryDone p) s = .next (if !ok.1 then s
      else attemptOver (switchDone (setCarry (recarry (reach s ok.2) p old new (carryLines s old)) p (ok.2 - at_) (carryLines s old).length) p old new) p) := by
  have hstopped : switchStopped s p = s := by
    unfold switchStopped
    split
    · exact if_pos hrun
    · rfl
  refine congrArg Host.Outcome.next ?_
  dsimp only
  rw [hstopped, hat, hold, hnew]

theorem recarryDone_holds (hrun : s.time.tickRun = true) (hat : (partOf s p).attemptAt = some at_) (hold : (partOf s p).prog = some old)
    (hnew : (partOf s p).maq = some new) :
    let x := partOf s p
    let due := (attemptOk s x at_ old new).2
    (mayEnd s p at_ old new due → Answers (exec (.recarryDone p) s) fun t => due ≤ t.now ∧ evt t (R.tskPEvt p) 1 = true ∧
      partOf t p = { x with prog := some new, img := x.maqImg, mq := .none, maq := none, series := none, attemptAt := none, attemptBad := none
                            lastStart := 3, attempts := x.attempts + 1 }) ∧
    (¬mayEnd s p at_ old new due → exec (.recarryDone p) s = .next s) := by
  intro x due
  have heq := recarryDone_eq s p hrun hat hold hnew
  have hok := attemptOk_iff s p (at_ := at_) (old := old) (new := new)
  refine ⟨fun hmay => ⟨_, heq.trans (congrArg Host.Outcome.next (if_neg (by simp [hok.mpr hmay]))), ?_⟩,
    fun hnot => heq.trans (congrArg Host.Outcome.next (if_pos (by simpa using mt hok.mp hnot)))⟩
  have hnow := le_now_recarried s p (old := old) (new := new) due (due - at_) (carryLines s old).length (carryLines s old)
  have hparts := parts_recarried s p (old := old) (new := new) due (due - at_) (carryLines s old).length (carryLines s old)
  generalize setCarry (recarry (reach s due) p old new (carryLines s old)) p (due - at_) (carryLines s old).length = u at hnow hparts
  obtain ⟨hswitched, hevt⟩ := switchDone_holds u p (old := old) (new := new)
  have hpart : partOf u p = x := partOf_of_table hparts p
  rw [hpart] at hswitched
  have hover := onward_attemptOver (switchDone u p old new) p
  exact ⟨Nat.le_trans hnow (attemptOver_keeps _ p (switchDone_keeps u p old new (Keeps.refl u))).now, hover.2 p 1 hevt, (partOf_of_table hover.1 p).trans hswitched⟩

/-! ### Failed attempts -/

theorem evt_modPart (q : Nat) (f : TskPart → TskPart) (a i : Nat) : evt (modPart s q f) a i = evt s a i := rfl

/-- A series that ends without a switch (R399). -/
def seriesOver (x : TskPart) : TskPart := { x with mq := .prepared, series := none, attemptAt := none, attemptBad := none }

theorem abandon_holds {cause : Nat} (hcause : cause ≠ 1) :
    partOf (abandon s p cause) p = seriesOver (partOf s p) ∧ evt (abandon s p cause) (R.tskPEvt p) 3 = true := by
  unfold abandon
  extract_lets u v
  have hposts : Onward State.settled v (hnqPost (almPost v 1 0x0D 0x12 (some p) [word cause]) p 0 0x0D 0x12 cause) :=
    onward_of_office ((office_hnqPost ..).trans (office_almPost ..))
  refine ⟨(partOf_of_table (table_of_settled _ _ ((onward_setEvt u (R.tskPEvt p) 3).trans hposts).1) p).trans ?_, hposts.2 p 3 (evt_setEvt_self (by decide))⟩
  exact (partOf_modPart s p _).trans (if_neg hcause)

theorem evt_abandon (cause : Nat) {i : Nat} (h : evt s (R.tskPEvt p) i = true) : evt (abandon s p cause) (R.tskPEvt p) i = true := by
  unfold abandon
  extract_lets u v
  have hposts : Onward State.settled v (hnqPost (almPost v 1 0x0D 0x12 (some p) [word cause]) p 0 0x0D 0x12 cause) :=
    onward_of_office ((office_hnqPost ..).trans (office_almPost ..))
  exact hposts.2 p i ((onward_setEvt u (R.tskPEvt p) 3).2 p i h)

/-- What an attempt that failed leaves of its series, by what had been asked during it (R399). -/
def attemptLost (p n : Nat) (bad : Option Nat) : State :=
  match bad with
  | some 2 => abandon s p 2
  | some 12 => modPart (abandon s p 2) p dropMaq
  | some _ => modPart s p dropMaq
  | none => if n = 9 then abandon s p 0 else s

theorem attemptLost_stopped (n : Nat) : attemptLost s p n (some 2) = abandon s p 2 := rfl
theorem attemptLost_discardedAfterStop (n : Nat) : attemptLost s p n (some 12) = modPart (abandon s p 2) p dropMaq := rfl
theorem attemptLost_discarded {n b : Nat} (h2 : b ≠ 2) (h12 : b ≠ 12) : attemptLost s p n (some b) = modPart s p dropMaq := by
  unfold attemptLost
  split
  next h => exact absurd (Option.some.inj h) h2
  next h => exact absurd (Option.some.inj h) h12
  · rfl
  next h => cases h
theorem attemptLost_time (n : Nat) : attemptLost s p n none = if n = 9 then abandon s p 0 else s := rfl

theorem evt_attemptLost (n : Nat) (bad : Option Nat) {i : Nat} (h : evt s (R.tskPEvt p) i = true) : evt (attemptLost s p n bad) (R.tskPEvt p) i = true := by
  unfold attemptLost
  split
  · exact evt_abandon s p 2 h
  · exact (evt_modPart ..).trans (evt_abandon s p 2 h)
  · exact h
  · split
    · exact evt_abandon s p 0 h
    · exact h

theorem attemptLost_holds (n : Nat) (bad : Option Nat) :
    let t := attemptLost s p n bad
    (bad = some 2 ∨ (bad = none ∧ n = 9) → partOf t p = seriesOver (partOf s p) ∧ evt t (R.tskPEvt p) 3 = true) ∧
    (bad = some 12 → partOf t p = dropMaq (seriesOver (partOf s p)) ∧ evt t (R.tskPEvt p) 3 = true) ∧
    (bad = some 8 ∨ bad = some 10 → partOf t p = dropMaq (partOf s p)) ∧
    (bad = none → n ≠ 9 → partOf t p = partOf s p) := by
  obtain ⟨hpart, hevt⟩ := abandon_holds s p (cause := 2) (by decide)
  dsimp only
  refine ⟨fun h => ?_, fun h => ?_, fun h => ?_, fun h hn => ?_⟩
  · obtain h | ⟨h, hn⟩ := h
    · rw [h, attemptLost_stopped]
      exact ⟨hpart, hevt⟩
    · rw [h, attemptLost_time, if_pos hn]
      exact abandon_holds s p (by decide)
  · rw [h, attemptLost_discardedAfterStop, partOf_modPart, hpart, evt_modPart]
    exact ⟨rfl, hevt⟩
  · obtain h | h := h
    · rw [h, attemptLost_discarded s p (by decide) (by decide), partOf_modPart]
    · rw [h, attemptLost_discarded s p (by decide) (by decide), partOf_modPart]
  · rw [h, attemptLost_time, if_neg hn]

/-- An attempt as it fails: what was reached has been carried, its end posted (R396, R399). -/
def attemptFailed (p at_ : Nat) (old new : Program) : State :=
  let u := reach s (at_ + 50000)
  let ls := ((carryPlans u at_ (carryLines u old)).filter fun e => decide (e.2 ≤ at_ + 50000)).map (·.1)
  let u := setCarry (recarry u p old new ls) p 50000 ls.length
  let n := (partOf s p).attempts + 1
  hnqPost (setEvt (modPart u p fun x => { x with attemptAt := none, attempts := n }) (R.tskPEvt p) 2) p 2 0x0D 0x11 n

theorem attemptFailed_holds : at_ + 50000 ≤ (attemptFailed s p at_ old new).now ∧ evt (attemptFailed s p at_ old new) (R.tskPEvt p) 2 = true ∧
    partOf (attemptFailed s p at_ old new) p = { partOf s p with attemptAt := none, attempts := (partOf s p).attempts + 1 } := by
  unfold attemptFailed
  extract_lets u ls v n
  have hnow : at_ + 50000 ≤ v.now := le_now_recarried s p (at_ + 50000) 50000 ls.length ls
  have hpart : partOf v p = partOf s p := partOf_of_table (parts_recarried s p (at_ + 50000) 50000 ls.length ls) p
  clear_value v
  have hmod : partOf (modPart v p fun x => { x with attemptAt := none, attempts := n }) p = { partOf s p with attemptAt := none, attempts := n } := by
    rw [partOf_modPart, hpart]
  generalize hw : modPart v p (fun x => { x with attemptAt := none, attempts := n }) = w at hmod ⊢
  have hnow : at_ + 50000 ≤ w.now := hw ▸ hnow
  have hpost := onward_of_office (office_hnqPost (setEvt w (R.tskPEvt p) 2) p 2 0x0D 0x11 n)
  exact ⟨Nat.le_trans hnow (hnqPost_keeps (setEvt w (R.tskPEvt p) 2) p 2 0x0D 0x11 n (Keeps.refl _)).now, hpost.2 p 2 (evt_setEvt_self (by decide)),
    (partOf_of_table (table_of_settled _ _ hpost.1) p).trans hmod⟩

theorem attemptLost_keeps (n : Nat) (bad : Option Nat) : Keeps s (attemptLost s p n bad) := by
  unfold attemptLost
  split
  · exact abandon_keeps s p 2 (Keeps.refl s)
  · exact modPart_keeps _ p dropMaq (abandon_keeps s p 2 (Keeps.refl s))
  · exact modPart_keeps _ p dropMaq (Keeps.refl s)
  · split
    · exact abandon_keeps s p 0 (Keeps.refl s)
    · exact Keeps.refl s

theorem switchAttemptFail_eq (hat : (partOf s p).attemptAt = some at_) (hold : (partOf s p).prog = some old) (hnew : (partOf s p).maq = some new) :
    exec (.switchAttemptFail p) s = .next (if (attemptOk s (partOf s p) at_ old new).1 then s
      else attemptOver (attemptLost (attemptFailed s p at_ old new) p ((partOf s p).attempts + 1) (partOf s p).attemptBad) p) := by
  refine congrArg Host.Outcome.next ?_
  dsimp only
  rw [hat, hold, hnew]
  rfl

theorem switchAttemptFail_holds (hat : (partOf s p).attemptAt = some at_) (hold : (partOf s p).prog = some old) (hnew : (partOf s p).maq = some new) :
    let x := partOf s p
    let may := mayEnd s p at_ old new (attemptOk s x at_ old new).2
    (may → exec (.switchAttemptFail p) s = .next s) ∧
    (¬may → Answers (exec (.switchAttemptFail p) s) fun t => at_ + 50000 ≤ t.now ∧ evt t (R.tskPEvt p) 2 = true ∧
      let y := { x with attemptAt := none, attempts := x.attempts + 1 }
      let kept := { y with mq := .prepared, series := none, attemptBad := none }
      let gone := { y with mq := .none, maq := none, series := none, attemptBad := none }
      (x.attemptBad = some 2 ∨ (x.attemptBad = none ∧ x.attempts = 8) → partOf t p = kept ∧ evt t (R.tskPEvt p) 3 = true) ∧
      (x.attemptBad = some 12 → partOf t p = gone ∧ evt t (R.tskPEvt p) 3 = true) ∧
      (x.attemptBad = some 8 ∨ x.attemptBad = some 10 → partOf t p = gone) ∧
      (x.attemptBad = none → x.attempts ≠ 8 → partOf t p = y)) := by
  intro x may
  have heq := switchAttemptFail_eq s p hat hold hnew
  have hok := attemptOk_iff s p (at_ := at_) (old := old) (new := new)
  refine ⟨fun hmay => heq.trans (congrArg Host.Outcome.next (if_pos (hok.mpr hmay))),
    fun hnot => ⟨_, heq.trans (congrArg Host.Outcome.next (if_neg (mt hok.mp hnot))), ?_⟩⟩
  obtain ⟨hnow, hevt, hpart⟩ := attemptFailed_holds s p (at_ := at_) (old := old) (new := new)
  generalize attemptFailed s p at_ old new = u at hnow hevt hpart
  have hlost := attemptLost_holds u p (x.attempts + 1) x.attemptBad
  have hevt' := evt_attemptLost u p (x.attempts + 1) x.attemptBad hevt
  have hnow' := Nat.le_trans hnow (attemptLost_keeps u p (x.attempts + 1) x.attemptBad).now
  rw [hpart] at hlost
  generalize attemptLost u p (x.attempts + 1) x.attemptBad = v at hlost hevt' hnow'
  obtain ⟨hkept, hgone, hdropped, hsame⟩ := hlost
  have hover := onward_attemptOver v p
  have hpartOver : partOf (attemptOver v p) p = partOf v p := partOf_of_table hover.1 p
  have hnine : x.attempts + 1 = 9 ↔ x.attempts = 8 := by omega
  rw [hpartOver]
  refine ⟨Nat.le_trans hnow' (attemptOver_keeps v p (Keeps.refl v)).now, hover.2 p 2 hevt', fun h => ?_, fun h => ?_, hdropped, fun h hn => hsame h (mt hnine.mp hn)⟩
  · obtain ⟨hp, he⟩ := hkept (h.imp id (And.imp_right hnine.mpr))
    exact ⟨hp, hover.2 p 3 he⟩
  · obtain ⟨hp, he⟩ := hgone h
    exact ⟨hp, hover.2 p 3 he⟩

theorem switchAttemptFail_of_none (hat : (partOf s p).attemptAt = none) : exec (.switchAttemptFail p) s = .next s := by
  refine congrArg Host.Outcome.next ?_
  dsimp only
  rw [hat]

end

/-! ### Forces on an idle core -/

section
variable (k : Fin 64)

/-- One VAR force written on its core (R403). -/
def forceWritten (s v : State) (e : Nat × ForceSt) : State :=
  match forceVar s (e.1 / 256) (e.1 % 256) with
  | some i => dmaWrite v 0x0D (tskTag s (e.1 / 256)) (dataBase e.2.core + e.2.ofs) (forceBytes s (e.1 / 256) (e.1 % 256) i)
  | none => v

/-- The step of FORCE_APPLY (R403, R407). -/
def forceStep (v : State) (e : Nat × ForceSt) : State :=
  if !forceGuardOk v (e.1 / 256) (e.1 % 256) then forceGuard v (e.1 / 256) (e.1 % 256) else forceWritten v v e

theorem storeFrame_forceWritten (v : State) (e : Nat × ForceSt) : storeFrame (forceWritten s v e) = storeFrame v := by
  unfold forceWritten
  split
  · exact storeFrame_dmaWrite ..
  · rfl

theorem forceStep_eq {v : State} (h : storeFrame v = storeFrame s) {e : Nat × ForceSt} (hok : forceGuardOk s (e.1 / 256) (e.1 % 256) = true) :
    forceStep v e = forceWritten s v e := by
  have hguard : forceGuardOk v (e.1 / 256) (e.1 % 256) = forceGuardOk s (e.1 / 256) (e.1 % 256) := (congrArg (fun u => forceGuardOk u (e.1 / 256) (e.1 % 256)) h :)
  have hvar : forceVar v (e.1 / 256) (e.1 % 256) = forceVar s (e.1 / 256) (e.1 % 256) := (congrArg (fun u => forceVar u (e.1 / 256) (e.1 % 256)) h :)
  have htag : tskTag v (e.1 / 256) = tskTag s (e.1 / 256) := (congrArg (fun u => tskTag u (e.1 / 256)) h :)
  have hbytes : forceBytes v (e.1 / 256) (e.1 % 256) = forceBytes s (e.1 / 256) (e.1 % 256) := (congrArg (fun u => forceBytes u (e.1 / 256) (e.1 % 256)) h :)
  rw [forceStep, hguard, hok, forceWritten, forceWritten, hvar, htag, hbytes]
  rfl

theorem forceSteps_eq (l : List (Nat × ForceSt)) {v : State} (h : storeFrame v = storeFrame s)
    (hok : ∀ e ∈ l, forceGuardOk s (e.1 / 256) (e.1 % 256) = true) : l.foldl forceStep v = l.foldl (forceWritten s) v := by
  induction l generalizing v with
  | nil => rfl
  | cons e l ih =>
    obtain ⟨he, hl⟩ := List.forall_mem_cons.mp hok
    rw [List.foldl_cons, List.foldl_cons, forceStep_eq s h he]
    exact ih ((storeFrame_forceWritten ..).trans h) hl

theorem forceApply_of_not (h : k.val ∉ s.tsk.applyDue ∨ (coreOf s k).mode ≠ .idle) : exec (.forceApply k) s = .next s :=
  congrArg Host.Outcome.next (if_pos (by simpa using h))

theorem forceApply_holds (hdue : k.val ∈ s.tsk.applyDue) (hidle : (coreOf s k).mode = .idle) :
    let es := s.tsk.forces.filter fun e => e.2.state == 1 && e.2.core == k.val && decide (0 < e.2.size)
    (∀ e ∈ es, forceGuardOk s (e.1 / 256) (e.1 % 256) = true) → Answers (exec (.forceApply k) s) fun t => k.val ∉ t.tsk.applyDue ∧
      t.mem = (es.foldl (forceWritten s) s).mem := by
  intro es hok
  have hexec : exec (.forceApply k) s = .next { es.foldl forceStep s with tsk :=
      { (es.foldl forceStep s).tsk with applyDue := (es.foldl forceStep s).tsk.applyDue.filter (· != k.val) } } :=
    congrArg Host.Outcome.next (if_neg (by simp [hdue, hidle]))
  refine ⟨_, hexec, by simp, ?_⟩
  exact (congrArg State.mem (forceSteps_eq s es rfl hok) :)

end

/-- Settles O50: each event by its lemma; what images, forces and the plinth change is apart from the partition's own state. -/
theorem programEvents : Obligations.ProgramEvents := by
  intro p k s x
  refine ⟨fun hrole => ⟨fun g hmq hmaq hload => loadDone_holds s p hrole hmq hmaq hload, loadDone_of_none s p hrole⟩,
    fun old new hmq hold hnew => prepareDone_holds s p hmq hold hnew, prepareDone_of_not s p,
    fun hrun => ⟨fun o g hkind hprog hstate => restartDone_holds s p hrun hkind hprog hstate, restartDone_of_none s p hrun⟩,
    plinthLine_of_nil s, fun l d rest q i b hround hplace hactive => plinthLine_holds s hround hplace hactive,
    fun at_ old new hat hold hnew => ⟨fun hrun => recarryDone_holds s p hrun hat hold hnew, switchAttemptFail_holds s p hat hold hnew⟩,
    switchAttemptFail_of_none s p, forceApply_of_not s k, forceApply_holds s k⟩

end Sys2Proof.Machine
end

section
/-! Lease words in each role (O60; R538 to R544, R552, R553, R556). -/

namespace Sys2Proof.Machine

variable (s : State)

/-! ### Readiness and the roles -/

theorem postFrame_readyUpdate : ∃ x, postFrame (readyUpdate s) = postFrame { s with mir := { s.mir with shown := x } } := by
  unfold readyUpdate
  dsimp only
  split
  · exact ⟨s.mir.shown, rfl⟩
  · exact ⟨_, postFrame_mirNote ..⟩

theorem postFrame_ptnrUpdate (r : Bool) : postFrame (ptnrUpdate s r) = postFrame { s with mir := { s.mir with ptnrReady := r } } := by
  unfold ptnrUpdate
  split
  next h =>
    subst h
    rfl
  next => exact postFrame_mirNote ..

/-- What a module is after it has entered STANDBY (R540, R542). -/
structure StandbyEntered (s t : State) : Prop where
  role : t.mir.role = .standby
  epoch : t.mir.epoch = s.mir.epoch
  masterAt : t.mir.masterAt = none
  copied : t.mir.copied = false
  pend : ∀ k, (taskOf t k).pend = none
  hold : s.trust.lc = .operational → ∀ n, n < 32 → (laneOf t n).drive = .hold

theorem standbyEntered : StandbyEntered s (enterStandby s) := by
  unfold enterStandby
  extract_lets u
  obtain ⟨x, hready⟩ := postFrame_readyUpdate u
  have hframe := tskFrame_dropPending s
  have hmir : (mastership (readyUpdate u)).mir = { u.mir with shown := x } := (mir_mastership _).trans (congrArg State.mir hready :)
  have hlc : (readyUpdate u).trust.lc = s.trust.lc :=
    (congrArg (fun t : State => t.trust.lc) hready :).trans (congrArg (fun t : State => t.trust.lc) hframe :)
  have hrole : (readyUpdate u).mir.role ≠ .holder := by
    rw [show (readyUpdate u).mir = { u.mir with shown := x } from (congrArg State.mir hready :)]
    exact nofun
  have htasks : (mastership (readyUpdate u)).tsk = (dropPending s).tsk := (tsk_mastership _).trans (congrArg State.tsk hready :)
  refine ⟨(congrArg MirSt.role hmir :), (congrArg MirSt.epoch hmir :).trans (congrArg (fun t : State => t.mir.epoch) hframe :), (congrArg MirSt.masterAt hmir :),
    (congrArg MirSt.copied hmir :), fun k => ?_, fun h n hn => drive_mastership_of_notMaster _ (laneMaster_of_role _ (hlc.trans h) hrole) hn⟩
  rw [taskOf, htasks]
  exact pend_dropPending s k

/-- YIELD (R542). -/
theorem yieldLease_holds (e : Nat) : let t := yieldLease s e
    t.mir.role = .standby ∧ t.mir.epoch = e ∧ t.mir.masterAt = none ∧ t.mir.copied = false ∧ evt t R.mirEvt 2 = true ∧
      (s.trust.lc = .operational → ∀ n, n < 32 → (laneOf t n).drive = .hold) := by
  have hentered := standbyEntered (modMir s fun m => { m with epoch := e })
  unfold yieldLease
  extract_lets u
  have hevt := evt_mirNote (enterStandby u) (b := 2) (by decide) 0 0x11 2 (some 1) [2#32]
  have hmir := mir_mirNote (enterStandby u) 2 0 0x11 2 (some 1) [2#32]
  have hlanes := laneOf_eq_of_postFrame (postFrame_mirNote (enterStandby u) 2 0 0x11 2 (some 1) [2#32])
  refine ⟨?_, ?_, ?_, ?_, hevt, fun hlc n hn => ?_⟩
  · rw [hmir, hentered.role]
  · rw [hmir, hentered.epoch]
    rfl
  · rw [hmir, hentered.masterAt]
  · rw [hmir, hentered.copied]
  · rw [hlanes]
    exact hentered.hold hlc n hn

/-! ### A word heard -/

section
variable (w : LeaseWord)

/-- The mirror state after a word of a type has been heard (R539). -/
def heardMir (m : MirSt) (type_ : Nat) : MirSt :=
  let hear := type_ == 1 || type_ == 3 || type_ == 4 || type_ == 5
  { m with lbType := if w.path then m.lbType else type_, mlType := if w.path then type_ else m.mlType
           lbHeard := m.lbHeard || (hear && !w.path), mlHeard := m.mlHeard || (hear && w.path), ptnrTwilight := m.ptnrTwilight && !w.ready }

/-- The state after a word of a type has been heard and counted (R538, R539). -/
def wordHeard (type_ : Nat) : State := modMir (mirCount s (if w.path then 2 else 0)) fun m => heardMir w m type_

theorem exec_word : ∀ e ∈ [(Instr.renewRx w, 1), (.statusRx w, 2), (.claimRx w, 3), (.releaseRx w, 4), (.twilightRx w, 5), (.twClearRx w, 6)],
    exec e.1 s = .next (wordIn s e.2 w) := by
  simp only [List.forall_mem_cons, List.not_mem_nil, false_imp_iff, implies_true, and_true]
  exact ⟨rfl, rfl, rfl, rfl, rfl, rfl⟩

theorem wordIn_off (h : s.mir.role = .off) (type_ : Nat) : wordIn s type_ w = s := if_pos h

theorem wordIn_own (h : s.mir.role ≠ .off) (hpos : w.pos = ownPos s) (type_ : Nat) :
    wordIn s type_ w = mirCount (setEvt { s with mir := { s.mir with posConflict := true } } R.mirEvt 9) (if w.path then 3 else 1) :=
  (if_neg h).trans (if_pos hpos)

theorem wordIn_heard (h : s.mir.role ≠ .off) (hpos : w.pos ≠ ownPos s) (type_ : Nat) :
    wordIn s type_ w = twilightWord (roleWord (wordHeard s w type_) type_ w) type_ :=
  (if_neg h).trans (if_neg hpos)

/-- A word leaves the mirror in `x`, and memory and the values in force as they are. -/
def Becomes (t : State) (x : MirSt) : Prop := t.mir = x ∧ t.mem = s.mem ∧ t.force = s.force

theorem becomes_of_postFrame {t u : State} {x : MirSt} (h : postFrame t = postFrame u) (hu : Becomes s u x) : Becomes s t x :=
  ⟨(congrArg State.mir h :).trans hu.1, (congrArg State.mem h :).trans hu.2.1, (congrArg State.force h :).trans hu.2.2⟩

theorem twilightWord_five (u : State) : twilightWord u 5 =
    if (mirNote (modMir u fun m => { m with ptnrTwilight := true }) (some 7) 0 0x16 0 (some 1) []).mir.role = .holder then
      ptnrUpdate (mirNote (modMir u fun m => { m with ptnrTwilight := true }) (some 7) 0 0x16 0 (some 1) []) false
    else mirNote (modMir u fun m => { m with ptnrTwilight := true }) (some 7) 0 0x16 0 (some 1) [] := rfl

theorem twilightWord_of_other (u : State) {type_ : Nat} (h : type_ ≠ 5 ∧ type_ ≠ 6) : twilightWord u type_ = u := by
  unfold twilightWord
  split
  · exact absurd rfl h.1
  · exact absurd rfl h.2
  · rfl

theorem becomes_wordHeard (type_ : Nat) : Becomes s (wordHeard s w type_) (heardMir w s.mir type_) := ⟨rfl, rfl, rfl⟩

theorem becomes_modMir {t : State} {x : MirSt} (h : Becomes s t x) (f : MirSt → MirSt) : Becomes s (modMir t f) (f x) :=
  ⟨congrArg f h.1, h.2⟩

theorem becomes_ptnrUpdate {t : State} {x : MirSt} (h : Becomes s t x) (r : Bool) : Becomes s (ptnrUpdate t r) { x with ptnrReady := r } :=
  becomes_of_postFrame s (postFrame_ptnrUpdate t r) (becomes_modMir s h fun m => { m with ptnrReady := r })

theorem becomes_twilight (role : Role) (hrole : s.mir.role = role) : Becomes s (twilightWord (wordHeard s w 5) 5)
    (if role = .holder then { heardMir w s.mir 5 with ptnrTwilight := true, ptnrReady := false } else { heardMir w s.mir 5 with ptnrTwilight := true }) := by
  have hnoted : Becomes s (mirNote (modMir (wordHeard s w 5) fun m => { m with ptnrTwilight := true }) (some 7) 0 0x16 0 (some 1) [])
      { heardMir w s.mir 5 with ptnrTwilight := true } :=
    becomes_of_postFrame s (postFrame_mirNote ..) (becomes_modMir s (becomes_wordHeard s w 5) fun m => { m with ptnrTwilight := true })
  have hrole' : (mirNote (modMir (wordHeard s w 5) fun m => { m with ptnrTwilight := true }) (some 7) 0 0x16 0 (some 1) []).mir.role = role := by
    rw [hnoted.1]
    exact hrole
  rw [twilightWord_five, hrole']
  split
  · exact becomes_ptnrUpdate s hnoted false
  · exact hnoted

/-- A STATUS at the holder (R552, R553). -/
theorem becomes_statusIn : Becomes s (statusIn (wordHeard s w 2) w) { heardMir w s.mir 2 with
    ptnrReady := w.ready, thruSec := s.time.tickSec - (s.time.tickSec + 32 - w.sec5.val) % 32, thruTick := w.tick
    nrDue := s.mir.nrDue && w.ready, resync := s.mir.resync || (!w.ready && s.mir.bg.isNone && decide (3 ≤ s.mir.sinceCopy)) } :=
  becomes_modMir s (becomes_ptnrUpdate s (becomes_wordHeard s w 2) w.ready) _

/-! ### What a word does in a role -/

section
variable {u : State}

/-- What RENEW, STATUS, CLAIM and RELEASE do at a standby (R540, R543). -/
theorem roleWord_standby (h : u.mir.role = .standby) :
    (roleWord u 1 w = modMir u fun m => { m with epoch := w.epoch.val }) ∧ roleWord u 2 w = u ∧
    (roleWord u 3 w = modMir u fun m => { m with epoch := w.epoch.val }) ∧
    (roleWord u 4 w = modMir u fun m => if w.path then { m with relApplied := true } else { m with relBus := some (m.relBus.getD 0) }) ∧
    roleWord u 5 w = u := by
  unfold roleWord
  rw [h]
  exact ⟨rfl, rfl, rfl, rfl, rfl⟩

/-- What they do in LISTEN (R540). -/
theorem roleWord_listen (h : u.mir.role = .listen) :
    (roleWord u 1 w = modMir (enterStandby u) fun m => { m with epoch := w.epoch.val }) ∧ roleWord u 2 w = u ∧
    (roleWord u 3 w = modMir (enterStandby u) fun m => { m with epoch := w.epoch.val }) ∧ roleWord u 4 w = u ∧ roleWord u 5 w = u := by
  unfold roleWord
  rw [h]
  exact ⟨rfl, rfl, rfl, rfl, rfl⟩

/-- What they do at the holder (R541, R542, R552). -/
theorem roleWord_holder (h : u.mir.role = .holder) :
    roleWord u 1 w = renewIn u w.epoch ∧ roleWord u 2 w = statusIn u w ∧
    (roleWord u 3 w = if u.mir.claimAt = some (u.time.tickSec, u.time.tick) ∧ !ownPos u then u else yieldLease u w.epoch) ∧
    roleWord u 4 w = u ∧ roleWord u 5 w = u := by
  unfold roleWord
  rw [h]
  exact ⟨rfl, rfl, rfl, rfl, rfl⟩

/-- TW_CLEAR has no part in the roles (R544). -/
theorem roleWord_twClear : roleWord u 6 w = u := by
  unfold roleWord
  cases u.mir.role <;> rfl

end

/-- The outcome of a word, by what the role makes of it. -/
theorem answers_word {i : Instr} {type_ : Nat} (hi : exec i s = .next (wordIn s type_ w)) (hoff : s.mir.role ≠ .off) (hpos : w.pos ≠ ownPos s) {u : State}
    (hword : roleWord (wordHeard s w type_) type_ w = u) (htype : type_ ≠ 5 ∧ type_ ≠ 6) {P : State → Prop} (hu : P u) : Answers (exec i s) P :=
  ⟨u, hi.trans (congrArg Host.Outcome.next (by rw [wordIn_heard s w hoff hpos, twilightWord_of_other _ htype, hword])), hu⟩

theorem answers_twilight (hoff : s.mir.role ≠ .off) (hpos : w.pos ≠ ownPos s) (hword : roleWord (wordHeard s w 5) 5 w = wordHeard s w 5) :
    Answers (exec (.twilightRx w) s) fun t => Becomes s t
      (if s.mir.role = .holder then { heardMir w s.mir 5 with ptnrTwilight := true, ptnrReady := false } else { heardMir w s.mir 5 with ptnrTwilight := true }) :=
  ⟨_, congrArg Host.Outcome.next (wordIn_heard s w hoff hpos 5), by
    dsimp only
    rw [hword]
    exact becomes_twilight s w _ rfl⟩

theorem liveOf_wordHeard_five (type_ : Nat) : liveOf (wordHeard s w type_) (R.mirCnt 5) = liveOf s (R.mirCnt 5) := by
  refine liveOf_setLive_of_ne ?_
  cases w.path <;> decide

theorem mirCount_holds (u : State) (n : Nat) : (liveOf (mirCount u n) (R.mirCnt n)).toNat = min 0xFFFFFFFF ((liveOf u (R.mirCnt n)).toNat + 1) := by
  rw [mirCount, liveOf_setLive_self, word, satAdd, BitVec.toNat_ofNat, Nat.mod_eq_of_lt (by omega)]

/-- RENEW at the holder: by how far its epoch lies ahead (R542). -/
theorem renewIn_eq (u : State) (e : Nat) : let d := (e + 256 - u.mir.epoch) % 256
    (d = 0 → ownPos u = false → renewIn u e = u) ∧ (d = 0 → ownPos u = true → renewIn u e = yieldLease u e) ∧
    (0 < d → d < 128 → renewIn u e = yieldLease u e) ∧ (128 ≤ d → renewIn u e = mirCount u 5) := by
  unfold renewIn
  refine ⟨fun h hp => ?_, fun h hp => ?_, fun h h' => ?_, fun h => ?_⟩
  · rw [if_pos h, if_neg (by simp [hp])]
  · rw [if_pos h, if_pos hp]
  · rw [if_neg (by omega), if_pos h']
  · rw [if_neg (by omega), if_neg (by omega)]

end

/-! ### The words in each role -/

section
variable (w : LeaseWord)

/-- The answers of a word that changes the mirror alone. -/
def MirBecomes (i : Instr) (x : MirSt) : Prop := Answers (exec i s) fun t => Becomes s t x

/-- The answers of a word to which the holder yields (R542). -/
def Yields (i : Instr) : Prop := Answers (exec i s) fun t => t.mir.role = .standby ∧ t.mir.epoch = w.epoch ∧ t.mir.masterAt = none ∧
  t.mir.copied = false ∧ evt t R.mirEvt 2 = true ∧ (s.trust.lc = .operational → ∀ n, n < 32 → (laneOf t n).drive = .hold)

theorem yields_wordHeard (type_ : Nat) : let t := yieldLease (wordHeard s w type_) w.epoch
    t.mir.role = .standby ∧ t.mir.epoch = w.epoch ∧ t.mir.masterAt = none ∧ t.mir.copied = false ∧ evt t R.mirEvt 2 = true ∧
      (s.trust.lc = .operational → ∀ n, n < 32 → (laneOf t n).drive = .hold) := yieldLease_holds (wordHeard s w type_) w.epoch

variable {w} (hpos : w.pos ≠ ownPos s)
include hpos

theorem twClear_becomes (hoff : s.mir.role ≠ .off) : MirBecomes s (.twClearRx w) { heardMir w s.mir 6 with ptnrTwilight := false } :=
  ⟨_, congrArg Host.Outcome.next (wordIn_heard s w hoff hpos 6), by
    dsimp only
    rw [roleWord_twClear]
    exact ⟨rfl, rfl, rfl⟩⟩

theorem waiting_becomes (hrole : s.mir.role = .listen ∨ s.mir.role = .standby) :
    MirBecomes s (.statusRx w) (heardMir w s.mir 2) ∧ MirBecomes s (.twilightRx w) { heardMir w s.mir 5 with ptnrTwilight := true } := by
  have hoff : s.mir.role ≠ .off := by rcases hrole with h | h <;> rw [h] <;> decide
  have hholder : s.mir.role ≠ .holder := by rcases hrole with h | h <;> rw [h] <;> decide
  have hwords (k : Nat) : roleWord (wordHeard s w k) 2 w = wordHeard s w k ∧ roleWord (wordHeard s w k) 5 w = wordHeard s w k := by
    rcases hrole with h | h
    · obtain ⟨-, h2, -, -, h5⟩ := roleWord_listen w (u := wordHeard s w k) h
      exact ⟨h2, h5⟩
    · obtain ⟨-, h2, -, -, h5⟩ := roleWord_standby w (u := wordHeard s w k) h
      exact ⟨h2, h5⟩
  have htwilight := answers_twilight s w hoff hpos (hwords 5).2
  rw [if_neg hholder] at htwilight
  exact ⟨answers_word s w rfl hoff hpos (hwords 2).1 (by decide) (becomes_wordHeard s w 2), htwilight⟩

theorem standby_words (hrole : s.mir.role = .standby) :
    MirBecomes s (.renewRx w) { heardMir w s.mir 1 with epoch := w.epoch } ∧ MirBecomes s (.claimRx w) { heardMir w s.mir 3 with epoch := w.epoch } ∧
      MirBecomes s (.releaseRx w) (if w.path then { heardMir w s.mir 4 with relApplied := true }
        else { heardMir w s.mir 4 with relBus := some (s.mir.relBus.getD 0) }) := by
  have hoff : s.mir.role ≠ .off := by rw [hrole]; decide
  obtain ⟨h1, -, -, -, -⟩ := roleWord_standby w (u := wordHeard s w 1) hrole
  obtain ⟨-, -, h3, -, -⟩ := roleWord_standby w (u := wordHeard s w 3) hrole
  obtain ⟨-, -, -, h4, -⟩ := roleWord_standby w (u := wordHeard s w 4) hrole
  exact ⟨answers_word s w rfl hoff hpos h1 (by decide) (becomes_modMir s (becomes_wordHeard s w 1) _),
    answers_word s w rfl hoff hpos h3 (by decide) (becomes_modMir s (becomes_wordHeard s w 3) _),
    answers_word s w rfl hoff hpos h4 (by decide) (becomes_modMir s (becomes_wordHeard s w 4) _)⟩

theorem listen_words (hrole : s.mir.role = .listen) :
    (∀ i ∈ [Instr.renewRx w, .claimRx w], Answers (exec i s) fun t => t.mir.role = .standby ∧ t.mir.epoch = w.epoch ∧
      t.mir.copied = false ∧ ∀ k, (taskOf t k).pend = none) ∧ MirBecomes s (.releaseRx w) (heardMir w s.mir 4) := by
  have hoff : s.mir.role ≠ .off := by rw [hrole]; decide
  have hentered (k : Nat) : let t := modMir (enterStandby (wordHeard s w k)) fun m => { m with epoch := w.epoch.val }
      t.mir.role = .standby ∧ t.mir.epoch = w.epoch ∧ t.mir.copied = false ∧ ∀ k, (taskOf t k).pend = none :=
    have h := standbyEntered (wordHeard s w k)
    ⟨h.role, rfl, h.copied, h.pend⟩
  obtain ⟨h1, -, -, -, -⟩ := roleWord_listen w (u := wordHeard s w 1) hrole
  obtain ⟨-, -, h3, -, -⟩ := roleWord_listen w (u := wordHeard s w 3) hrole
  obtain ⟨-, -, -, h4, -⟩ := roleWord_listen w (u := wordHeard s w 4) hrole
  refine ⟨?_, answers_word s w rfl hoff hpos h4 (by decide) (becomes_wordHeard s w 4)⟩
  simp only [List.forall_mem_cons, List.not_mem_nil, false_imp_iff, implies_true, and_true]
  exact ⟨answers_word s w rfl hoff hpos h1 (by decide) (hentered 1), answers_word s w rfl hoff hpos h3 (by decide) (hentered 3)⟩

theorem holder_renew (hrole : s.mir.role = .holder) :
    let d := (w.epoch.val + 256 - s.mir.epoch) % 256
    (d = 0 → ownPos s = false → MirBecomes s (.renewRx w) (heardMir w s.mir 1)) ∧ (d = 0 → ownPos s = true → Yields s w (.renewRx w)) ∧
    (0 < d → d < 128 → Yields s w (.renewRx w)) ∧
    (128 ≤ d → Answers (exec (.renewRx w) s) fun t => t.mir = heardMir w s.mir 1 ∧
      (liveOf t (R.mirCnt 5)).toNat = min 0xFFFFFFFF ((liveOf s (R.mirCnt 5)).toNat + 1)) := by
  intro d
  have hoff : s.mir.role ≠ .off := by rw [hrole]; decide
  obtain ⟨h1, -, -, -, -⟩ := roleWord_holder w (u := wordHeard s w 1) hrole
  obtain ⟨hsame, heq, hahead, hbehind⟩ := renewIn_eq (wordHeard s w 1) w.epoch
  refine ⟨fun hd hown => answers_word s w rfl hoff hpos (h1.trans (hsame hd hown)) (by decide) (becomes_wordHeard s w 1),
    fun hd hown => answers_word s w rfl hoff hpos (h1.trans (heq hd hown)) (by decide) (yields_wordHeard s w 1),
    fun hd hd' => answers_word s w rfl hoff hpos (h1.trans (hahead hd hd')) (by decide) (yields_wordHeard s w 1),
    fun hd => answers_word s w rfl hoff hpos (h1.trans (hbehind hd)) (by decide) ⟨rfl, ?_⟩⟩
  rw [mirCount_holds, liveOf_wordHeard_five]

theorem holder_words (hrole : s.mir.role = .holder) :
    (s.mir.claimAt = some (s.time.tickSec, s.time.tick) → ownPos s = false → MirBecomes s (.claimRx w) (heardMir w s.mir 3)) ∧
    (s.mir.claimAt ≠ some (s.time.tickSec, s.time.tick) ∨ ownPos s = true → Yields s w (.claimRx w)) ∧
    MirBecomes s (.releaseRx w) (heardMir w s.mir 4) ∧
    MirBecomes s (.twilightRx w) { heardMir w s.mir 5 with ptnrTwilight := true, ptnrReady := false } ∧
    MirBecomes s (.statusRx w) { heardMir w s.mir 2 with
      ptnrReady := w.ready, thruSec := s.time.tickSec - (s.time.tickSec + 32 - w.sec5.val) % 32, thruTick := w.tick
      nrDue := s.mir.nrDue && w.ready, resync := s.mir.resync || (!w.ready && s.mir.bg.isNone && decide (3 ≤ s.mir.sinceCopy)) } := by
  have hoff : s.mir.role ≠ .off := by rw [hrole]; decide
  obtain ⟨-, h2, -, -, -⟩ := roleWord_holder w (u := wordHeard s w 2) hrole
  obtain ⟨-, -, h3, -, -⟩ := roleWord_holder w (u := wordHeard s w 3) hrole
  obtain ⟨-, -, -, h4, -⟩ := roleWord_holder w (u := wordHeard s w 4) hrole
  obtain ⟨-, -, -, -, h5⟩ := roleWord_holder w (u := wordHeard s w 5) hrole
  have htwilight := answers_twilight s w hoff hpos h5
  rw [if_pos hrole] at htwilight
  have hfirst : ((wordHeard s w 3).mir.claimAt = some ((wordHeard s w 3).time.tickSec, (wordHeard s w 3).time.tick) ∧ (!ownPos (wordHeard s w 3)) = true) ↔
      s.mir.claimAt = some (s.time.tickSec, s.time.tick) ∧ ownPos s = false :=
    and_congr Iff.rfl (Bool.not_eq_true' (ownPos s) ▸ Iff.rfl)
  exact ⟨fun hclaim hown => answers_word s w rfl hoff hpos (h3.trans (if_pos (hfirst.mpr ⟨hclaim, hown⟩))) (by decide) (becomes_wordHeard s w 3),
    fun hnot => answers_word s w rfl hoff hpos (h3.trans (if_neg (mt hfirst.mp fun h => hnot.elim (absurd h.1) (by rw [h.2]; exact nofun)))) (by decide) (yields_wordHeard s w 3),
    answers_word s w rfl hoff hpos h4 (by decide) (becomes_wordHeard s w 4), htwilight,
    answers_word s w rfl hoff hpos h2 (by decide) (becomes_statusIn s w)⟩

end

/-! ### The records of a packet -/

/-- The mirror, but the captured lines still to be sent, and the module state. -/
def State.mirror (s : State) : MirSt × SysSt := ({ s.mir with unsent := [] }, s.sys)

theorem mirror_of_office {s t : State} (h : t.office = s.office) : t.mirror = s.mirror := (congrArg (fun x => (x.1.2.1, x.1.2.2.1)) h :)

theorem office_applyFlag (f : Nat) (v : Bool) : (applyFlag s f v).office = s.office := by
  unfold applyFlag
  dsimp only
  split
  · exact office_tmx ..
  · rw [office_flagTriggers, office_gseFlag, office_lanesUpdate]
    split
    · exact office_tmx ..
    · exact (office_flagReset ..).trans (office_tmx ..)

theorem mirror_applyObj (o : Nat) (x : MirObj) : (applyObj s o x).mirror = s.mirror := by
  unfold applyObj
  split
  · exact mirror_of_office ((office_notifyAll ..).trans ((office_almPost ..).trans ((office_setEvt _ _ _ offProgs_cmdEvt).trans
      ((office_guardFault ..).trans (office_cmd ..)))))
  · dsimp only
    split <;> rfl

theorem mirror_applyForces (j : Nat) (ws : List Word) : (applyForces s j ws).mirror = s.mirror := by
  unfold applyForces
  refine foldl_frame (h := State.mirror) _ _ (fun u e => ?_) s
  dsimp only
  split
  · rfl
  · split <;> rfl

/-- A record that names entries one by one. -/
theorem mirror_entries {α : Type} (n b : Nat) (f : State → Nat → α → State) (hf : ∀ u k x, (f u k x).mirror = u.mirror) (l : List α) :
    ((numbered b l).foldl (fun s x => if x.1 < n then f s x.1 x.2 else s) s).mirror = s.mirror :=
  foldl_frame (h := State.mirror) _ _ (fun u x => by
    split
    · exact hf ..
    · rfl) s

theorem mirror_applyLine (l : MirLine) : (applyLine s l).mirror = s.mirror := by
  unfold applyLine
  split
  next l bs =>
    split
    · exact mirror_of_office (office_dmaWrite ..)
    · rfl
  next j bits =>
    split
    · exact foldl_frame (h := State.mirror) (fun s b => applyFlag s (512 * j + b) (bits.testBit b)) _ (fun u b => mirror_of_office (office_applyFlag ..)) s
    · rfl
  next j e => exact mirror_entries s 256 (4 * j) applyPub (fun _ _ _ => rfl) e
  next j e => exact mirror_entries s 512 (4 * j) applySub (fun _ _ _ => rfl) e
  next j e => exact mirror_entries s 256 (4 * j) applyObj mirror_applyObj e
  next j e => exact mirror_entries s 32 (4 * j) applyPart (fun _ _ _ => rfl) e
  next bits => exact foldl_frame (h := State.mirror) (fun s t => setTask s t { taskOf s t with stopped := bits.testBit t }) _ (fun _ _ => rfl) s
  next j ws =>
    split
    · exact mirror_applyForces ..
    · rfl
  next => split <;> rfl

/-- The records of a packet applied in their order (R552). -/
def linesApplied (recs : List MirRec) : State := recs.foldl (fun s r => applyLine s r.line) s

theorem mirror_linesApplied (recs : List MirRec) : (linesApplied s recs).mirror = s.mirror :=
  foldl_frame (h := State.mirror) _ _ (fun u (r : MirRec) => mirror_applyLine u r.line) s

/-- A line of memory as the only record (R552). -/
theorem rdByte_linesApplied {l : Nat} {bs : List Byte} {bg : Bool} (hin : inDataBank (l * 64) || inShared (l * 64)) (hlen : bs.length = 64)
    (hunsent : s.mir.unsent = []) (hperm : rangeDenied s (mirTag s) .write (l * 64) 64 = none) (b : Nat) :
    rdByte (linesApplied s [{ bg := bg, line := .mem l bs }]) b = if l * 64 ≤ b ∧ b < l * 64 + 64 then bs[b - l * 64]?.getD 0#8 else rdByte s b := by
  have hdram : (inDram (l * 64) || inDram (l * 64 + 64 - 1)) = false := by
    simp [inDataBank, inLocal, inShared, inDram] at hin ⊢
    omega
  have hmay : dmaMay s (mirTag s) .write (l * 64) bs.length := by
    rw [hlen]
    exact ⟨fun h => absurd (hdram.symm.trans h) nofun, hperm, nofun⟩
  have hline : linesApplied s [{ bg := bg, line := .mem l bs }] = wrBytes s (l * 64) bs := by
    refine (if_pos hin).trans ?_
    rw [List.take_of_length_le (Nat.le_of_eq hlen), dmaWrite_of_dmaMay _ hmay]
  rw [hline, rdByte_wrBytes hunsent, hlen]

/-! ### The maquettes a packet installs -/

/-- All of a state but its programs, tasks and cores. -/
def programFrame (s : State) : State := { s with tsk := {}, pcx := { s.pcx with cores := [] } }

theorem programFrame_setTask (t : Nat) (x : TaskSt) : programFrame (setTask s t x) = programFrame s := rfl
theorem programFrame_modCore (k : Nat) (f : CoreSt → CoreSt) : programFrame (modCore s k f) = programFrame s := rfl

theorem programFrame_flipBanks (g : Program) : programFrame (flipBanks s g) = programFrame s :=
  foldl_frame (h := programFrame) _ _ (fun _ _ => programFrame_modCore ..) s

theorem programFrame_newTasks (old : Option Program) (g : Program) (first : Nat) : programFrame (newTasks s old g first) = programFrame s := by
  unfold newTasks
  refine Eq.trans (foldl_frame (h := programFrame) _ _ (fun _ _ => programFrame_setTask ..) _) (foldl_frame (h := programFrame) _ _ (fun u e => ?_) s)
  dsimp only
  rw [programFrame_setTask]
  split <;> rfl

theorem programFrame_autoInstall (p : Nat) (e : Word × Word) : programFrame (autoInstall s p e) = programFrame s := by
  unfold autoInstall
  dsimp only
  split
  · split
    · exact (programFrame_newTasks ..).trans (programFrame_flipBanks ..)
    · rfl
  · rfl

theorem programFrame_autoInstalls : programFrame (autoInstalls s) = programFrame s := by
  unfold autoInstalls
  split
  · rfl
  · exact foldl_frame (h := programFrame) _ _ (fun u (e : Nat × Word × Word) => programFrame_autoInstall u e.1 e.2) s

/-! ### Packets -/

section
variable (p : MirPacket)

theorem seqIn_of_next (h : s.mir.seqRx = some (p.seq - 1, p.nonce)) : seqIn s p = modMir s fun m => { m with seqRx := some (p.seq, p.nonce), rxProgs := p.progs } := by
  have hnext : p.seq - 1 + 1 = p.seq := BitVec.sub_add_cancel ..
  unfold seqIn
  rw [h]
  dsimp only
  rw [hnext, if_neg (by simp)]

/-- The state in which the records of a packet are applied: its number and programs noted, the maquettes they match installed (R552, R554). -/
def packetBegun : State := autoInstalls (modMir s fun m => { m with seqRx := some (p.seq, p.nonce), rxProgs := p.progs })

theorem packetBegun_holds : let u := packetBegun s p
    u.mir = { s.mir with seqRx := some (p.seq, p.nonce), rxProgs := p.progs } ∧ u.mem = s.mem ∧ u.force = s.force ∧ u.sys = s.sys ∧ u.trust = s.trust := by
  have h := programFrame_autoInstalls (modMir s fun m => { m with seqRx := some (p.seq, p.nonce), rxProgs := p.progs })
  exact ⟨(congrArg State.mir h :), (congrArg State.mem h :), (congrArg State.force h :), (congrArg State.sys h :), (congrArg State.trust h :)⟩

/-- What a packet within its budget leaves of COPIED and of the copy seen begun (R553). -/
def copyEnd (m : MirSt) : MirSt :=
  if m.bgSeen && !p.resync && !p.bg then { m with copied := true, gap := false, progWait := false, bgSeen := false }
  else { m with bgSeen := m.bgSeen || p.resync }

theorem copyEnd_holds (m : MirSt) : (copyEnd p m).copied = (m.copied || (m.bgSeen && !p.resync && !p.bg)) ∧ (copyEnd p m).role = m.role ∧
    (copyEnd p m).seqRx = m.seqRx := by
  unfold copyEnd
  split
  next h => exact ⟨by rw [h, Bool.or_true], rfl, rfl⟩
  next h => exact ⟨by rw [Bool.eq_false_iff.mpr h, Bool.or_false], rfl, rfl⟩

/-- The place of a packet among those received, noted at its end (R552). -/
def packetNoted (mis : Bool) (s : State) : State :=
  modMir s fun m => { m with progWait := m.progWait || mis, fmtBad := false, thruSec := p.sec.toNat, thruTick := p.tick.val }

theorem applyPacket_eq (h : s.mir.seqRx = some (p.seq - 1, p.nonce)) : ∃ mis, applyPacket s p = packetNoted p mis
    (if p.behind then modMir (packetBegun s p) fun m => { m with copied := false, bgSeen := false } else modMir (linesApplied (packetBegun s p) p.recs) (copyEnd p)) := by
  refine ⟨progsDiffer (seqIn s p) p.progs, ?_⟩
  unfold applyPacket
  rw [seqIn_of_next s p h]
  rfl

/-- A packet applied at a standby (R552, R553). -/
theorem applyPacket_holds (hrole : s.mir.role = .standby) (h : s.mir.seqRx = some (p.seq - 1, p.nonce)) :
    let t := applyPacket s p
    t.mir.role = .standby ∧ t.sys = s.sys ∧ t.mir.thruSec = p.sec.toNat ∧ t.mir.thruTick = p.tick ∧ t.mir.seqRx = some (p.seq, p.nonce) ∧
    (p.behind = true → t.mir.copied = false ∧ t.mem = s.mem) ∧
    (p.behind = false → t.mir.copied = (s.mir.copied || (s.mir.bgSeen && !p.resync && !p.bg)) ∧ t.mem = (linesApplied (packetBegun s p) p.recs).mem) := by
  obtain ⟨mis, heq⟩ := applyPacket_eq s p h
  obtain ⟨hmir, hmem, -, hsys, -⟩ := packetBegun_holds s p
  have hlines := mirror_linesApplied (packetBegun s p) p.recs
  rw [heq]
  by_cases hb : p.behind = true
  · rw [if_pos hb]
    refine ⟨(congrArg MirSt.role hmir :).trans hrole, hsys, rfl, rfl, (congrArg MirSt.seqRx hmir :), fun _ => ⟨rfl, hmem⟩, fun hn => absurd hb (by rw [hn]; decide)⟩
  · rw [if_neg hb]
    obtain ⟨hcopied, hr, hseq⟩ := copyEnd_holds p (linesApplied (packetBegun s p) p.recs).mir
    have hkept : ({ (linesApplied (packetBegun s p) p.recs).mir with unsent := [] } : MirSt) =
        { s.mir with seqRx := some (p.seq, p.nonce), rxProgs := p.progs, unsent := [] } :=
      (congrArg Prod.fst hlines :).trans (congrArg (fun m : MirSt => { m with unsent := [] }) hmir)
    refine ⟨hr.trans ((congrArg MirSt.role hkept :).trans hrole), (congrArg Prod.snd hlines :).trans hsys, rfl, rfl,
      hseq.trans (congrArg MirSt.seqRx hkept :), fun hy => absurd hy hb, fun _ => ⟨hcopied.trans ?_, rfl⟩⟩
    rw [show (linesApplied (packetBegun s p) p.recs).mir.copied = s.mir.copied from (congrArg MirSt.copied hkept :),
      show (linesApplied (packetBegun s p) p.recs).mir.bgSeen = s.mir.bgSeen from (congrArg MirSt.bgSeen hkept :)]

end

section
variable (p : MirPacket)

/-- A RENEW at a standby (R540). -/
theorem wordIn_standby_renew {w : LeaseWord} (hrole : s.mir.role = .standby) (hpos : w.pos ≠ ownPos s) :
    Becomes s (wordIn s 1 w) { heardMir w s.mir 1 with epoch := w.epoch } := by
  rw [wordIn_heard s w (by rw [hrole]; decide) hpos, (roleWord_standby w (u := wordHeard s w 1) hrole).1, twilightWord_of_other _ (by decide)]
  exact becomes_modMir s (becomes_wordHeard s w 1) _

theorem tickPacketRx_badTag (hrole : s.mir.role ≠ .off) (hptr : qOk s.mir.rxPtr = true) (htag : packetTag s p = false) :
    Answers (exec (.tickPacketRx p) s) fun t => t.mir = s.mir ∧ t.mem = s.mem ∧ evt t R.mirEvt 11 = true := by
  have hnote := postFrame_mirNote s 11 0 0x18 0 (some 1) []
  refine ⟨packetDrop (mirNote s (some 11) 0 0x18 0 (some 1) []), congrArg Host.Outcome.next
    ((if_neg hrole).trans ((if_neg (by simp [hptr])).trans (if_pos (by simp [htag])))), (congrArg State.mir hnote :), (congrArg State.mem hnote :), ?_⟩
  rw [evt, packetDrop, mirCount, liveOf_setLive_of_ne (by decide)]
  exact evt_mirNote s (by decide) ..

theorem tickPacketRx_badFormat (hrole : s.mir.role ≠ .off) (hptr : qOk s.mir.rxPtr = true) (htag : packetTag s p = true) (hformat : p.format ≠ 1#16) :
    Answers (exec (.tickPacketRx p) s) fun t => t.mir.fmtBad = true ∧ t.mir.epoch = s.mir.epoch ∧ t.mem = s.mem := by
  obtain ⟨x, hready⟩ := postFrame_readyUpdate (modMir s fun m => { m with fmtBad := true, seqRx := some (p.seq, p.nonce) })
  exact ⟨packetDrop (readyUpdate (modMir s fun m => { m with fmtBad := true, seqRx := some (p.seq, p.nonce) })), congrArg Host.Outcome.next
    ((if_neg hrole).trans ((if_neg (by simp [hptr])).trans ((if_neg (by simp [htag])).trans (if_pos hformat)))),
    (congrArg (fun t : State => t.mir.fmtBad) hready :), (congrArg (fun t : State => t.mir.epoch) hready :), (congrArg State.mem hready :)⟩

theorem tickPacketRx_badGuard (hrole : s.mir.role ≠ .off) (hptr : qOk s.mir.rxPtr = true) (htag : packetTag s p = true) (hformat : p.format = 1#16)
    (hbad : p.descOk = false ∨ guardedOk p.ctl = false) : exec (.tickPacketRx p) s = .next (mirCount (guardFault s 0x16) 3) :=
  congrArg Host.Outcome.next ((if_neg hrole).trans ((if_neg (by simp [hptr])).trans ((if_neg (by simp [htag])).trans
    ((if_neg (Classical.not_not.mpr hformat)).trans (if_pos (by simpa using hbad))))))

/-- The state with a packet taken from the pointers of the receive queue. -/
def packetTaken : State := modMir s fun m => { m with rxPtr := { m.rxPtr with
  rd := (m.rxPtr.rd + 1) % 65536, rdC := (m.rxPtr.rd + 1) % 65536, wr := (m.rxPtr.wr + 1) % 65536, wrC := (m.rxPtr.wr + 1) % 65536 } }

theorem tickPacketRx_applied (hrole : s.mir.role = .standby) (hptr : qOk s.mir.rxPtr = true) (htag : packetTag s p = true) (hformat : p.format = 1#16)
    (hdesc : p.descOk = true) (hctl : guardedOk p.ctl = true) (htype : fld (guardedVal p.ctl) 31 28 = 1) :
    exec (.tickPacketRx p) s = .next (wordIn (readyUpdate (applyPacket (packetTaken s) p)) 1 (ctlWord (guardedVal p.ctl))) := by
  have happlies : applies (packetTaken s) (guardedVal p.ctl) = true := by
    have hrole : (packetTaken s).mir.role = .standby := hrole
    simp [applies, htype, hrole]
  refine congrArg Host.Outcome.next ((if_neg (by rw [hrole]; decide)).trans ((if_neg (by simp [hptr])).trans ((if_neg (by simp [htag])).trans
    ((if_neg (Classical.not_not.mpr hformat)).trans ((if_neg (by simp [hdesc, hctl])).trans ((if_neg (by simp [htype])).trans ?_))))))
  rw [htype]
  exact congrArg (fun u => wordIn (readyUpdate u) 1 (ctlWord (guardedVal p.ctl))) (if_pos happlies)

theorem mirTag_congr {s t : State} (h : t.force = s.force) : mirTag t = mirTag s := by
  simp only [mirTag, dmaTag, worldOf, forceOf, h]

/-- The only record of a packet is a line of memory (R552). -/
theorem rdByte_packetApplied {l : Nat} {bs : List Byte} {bg : Bool} (hin : inDataBank (l * 64) || inShared (l * 64)) (hlen : bs.length = 64)
    (hunsent : s.mir.unsent = []) (hperm : rangeDenied s (mirTag s) .write (l * 64) 64 = none) (b : Nat) :
    rdByte (linesApplied (packetBegun s p) [{ bg := bg, line := .mem l bs }]) b =
      if l * 64 ≤ b ∧ b < l * 64 + 64 then bs[b - l * 64]?.getD 0#8 else rdByte s b := by
  obtain ⟨hmir, hmem, hforce, -, htrust⟩ := packetBegun_holds s p
  have hperm' : rangeDenied (packetBegun s p) (mirTag (packetBegun s p)) .write (l * 64) 64 = none := by
    rwa [mirTag_congr hforce, rangeDenied_congr hforce (congrArg TrustSt.stage htrust)]
  rw [rdByte_linesApplied _ hin hlen ((congrArg MirSt.unsent hmir).trans hunsent) hperm', rdByte, rdByte, hmem]

theorem tickPacketRx_standby (hptr : qOk s.mir.rxPtr = true) (htag : packetTag s p = true) (hformat : p.format = 1#16) (hdesc : p.descOk = true)
    (hctl : guardedOk p.ctl = true) (hrole : s.mir.role = .standby) (htype : fld (guardedVal p.ctl) 31 28 = 1)
    (hpos : bit (guardedVal p.ctl) 27 ≠ ownPos s) (hseq : s.mir.seqRx = some (p.seq - 1, p.nonce)) :
    let m := s.mir
    Answers (exec (.tickPacketRx p) s) fun t =>
      t.mir.epoch = fld (guardedVal p.ctl) 25 18 ∧ t.mir.thruSec = p.sec.toNat ∧ t.mir.thruTick = p.tick ∧ t.mir.seqRx = some (p.seq, p.nonce) ∧
      (p.behind = true → t.mir.copied = false ∧ t.mem = s.mem) ∧
      (p.behind = false → t.mir.copied = (m.copied || (m.bgSeen && !p.resync && !p.bg)) ∧
        ∀ l bs bg, p.recs = [{ bg := bg, line := .mem l bs }] → inDataBank (l * 64) || inShared (l * 64) → bs.length = 64 →
          m.unsent = [] → rangeDenied s (mirTag s) .write (l * 64) 64 = none → ∀ b, rdByte t b =
            if l * 64 ≤ b ∧ b < l * 64 + 64 then bs[b - l * 64]?.getD 0#8 else rdByte s b) := by
  intro m
  refine ⟨_, tickPacketRx_applied s p hrole hptr htag hformat hdesc hctl htype, ?_⟩
  obtain ⟨hr, hsys, hsec, htick, hnum, hbehind, hwithin⟩ := applyPacket_holds (packetTaken s) p hrole hseq
  have hlines (l : Nat) (bs : List Byte) (bg : Bool) := rdByte_packetApplied (packetTaken s) p (l := l) (bs := bs) (bg := bg)
  generalize applyPacket (packetTaken s) p = v at hr hsys hsec htick hnum hbehind hwithin
  obtain ⟨x, hready⟩ := postFrame_readyUpdate v
  have hmir : (readyUpdate v).mir = { v.mir with shown := x } := (congrArg State.mir hready :)
  have hmem : (readyUpdate v).mem = v.mem := (congrArg State.mem hready :)
  have hown : ownPos (readyUpdate v) = ownPos s := by
    rw [ownPos, ownPos, show (readyUpdate v).sys = v.sys from (congrArg State.sys hready :), hsys]
    rfl
  obtain ⟨hend, hmem', -⟩ := wordIn_standby_renew (readyUpdate v) (w := ctlWord (guardedVal p.ctl)) ((congrArg MirSt.role hmir).trans hr) (by rwa [hown])
  rw [hmir] at hend
  generalize wordIn (readyUpdate v) 1 (ctlWord (guardedVal p.ctl)) = t at hend hmem'
  have hmem : t.mem = v.mem := hmem'.trans hmem
  have hepoch : (ctlWord (guardedVal p.ctl)).epoch.val = fld (guardedVal p.ctl) 25 18 := Nat.mod_eq_of_lt (fld_lt ..)
  rw [hend]
  refine ⟨hepoch, hsec, htick, hnum, fun hb => ⟨(hbehind hb).1, hmem.trans (hbehind hb).2⟩, fun hb => ⟨(hwithin hb).1, ?_⟩⟩
  intro l bs bg hrecs hin hlen hunsent hperm b
  have hv := (hwithin hb).2
  rw [hrecs] at hv
  rw [rdByte, hmem, hv]
  exact hlines l bs bg hin hlen hunsent hperm b

end

/-- Settles O60: a word by its role; a packet by what its records, its maquettes and its control word change of the mirror. -/
theorem mirrorReception : Obligations.MirrorReception := by
  intro w p s m types heard becomes d yields
  refine ⟨fun hoff e he => ?_, fun hoff hpos e he => ?_, fun hpos => ⟨twClear_becomes s hpos, waiting_becomes s hpos, standby_words s hpos,
    fun hrole => (listen_words s hpos hrole).1, fun hrole => (listen_words s hpos hrole).2, fun hrole => ?_⟩, fun hoff => congrArg Host.Outcome.next (if_pos hoff),
    fun hoff hptr => ⟨tickPacketRx_badTag s p hoff hptr, tickPacketRx_badFormat s p hoff hptr, tickPacketRx_badGuard s p hoff hptr,
      tickPacketRx_standby s p hptr⟩⟩
  · rw [exec_word s w e he, wordIn_off s w hoff]
  · rw [exec_word s w e he, wordIn_own s w hoff hpos]
  · obtain ⟨hsame, heq, hahead, hbehind⟩ := holder_renew s hpos hrole
    obtain ⟨hclaim, hlost, hrelease, htwilight, hstatus⟩ := holder_words s hpos hrole
    exact ⟨hsame, heq, hahead, hbehind, hclaim, hlost, hrelease, htwilight, hstatus⟩

end Sys2Proof.Machine
end
